-- ==== Sys2Proof/Word.lean ====
section
/-!
DEFINITION. Word.lean: the word types of the Tebodor T9 (00_scope.md, Notation) and their plainest arithmetic.
-/
namespace Sys2Proof

/-- One byte. -/
abbrev Byte := BitVec 8
/-- The 64-bit word of a dictionary slot, a Psimir scalar register, a descriptor word. -/
abbrev U64 := BitVec 64
/-- A 40-bit device address (R180). -/
abbrev Addr := BitVec 40
/-- A table held sparsely: rising keys, no entry equal to the default of an unlisted key. -/
abbrev Tab (α : Type) := List (Nat × α)

end Sys2Proof
end

