-- ==== Sys2Proof/Syntax.lean ====
section
/-!
DEFINITION. Syntax.lean: the commands of the Tebodor T9 and the types of their operands. The table
(spec/opcode_table.json) gives the steps' names and no operands: the operands are what the step's rule
leaves to the sender or to the world outside (which unit, which object and value, which frame or sample).
-/
namespace Sys2Proof

/-- Privilege mode of a control core's access (R184, R416). -/
inductive PrivMode where
  | machine | supervisor | user
deriving DecidableEq, Repr

/-- Who reads or writes an entry: a control core through the window, an open Enber session (by its place
among the 16 of R429), the root island, or the relayed access of a joined chip (R553). -/
inductive Requester where
  | core (c : Fin 16) (m : PrivMode)
  | session (i : Fin 16)
  | root
  | relay (part : Option (Fin 8))
deriving DecidableEq, Repr

/-- A dictionary entry: 24-bit index and 8-bit subindex (R411). -/
structure Obj where
  ix : BitVec 24
  sub : BitVec 8
deriving DecidableEq, Repr

/-- The live tables of R32. -/
inductive TableId where
  | plan (c : Fin 384)
  | gcl (m : Fin 128)
  | watch (e : Fin 8)
  | trig (u : Fin 64)
deriving DecidableEq, Repr

/-- A producer of Kennel items (R103): a local unit's queue, or a Gelpel port's. -/
inductive Producer where
  | tile (t : Fin 512)
  | core (c : Fin 16)
  | dma (n : Fin 272)
  | accel (p : Fin 8) (k : Fin 17)
  | hound (e : Fin 8)
  | framer (m : Fin 128)
  | gelpel (g : Fin 4)
deriving DecidableEq, Repr

/-- What the path did to a token or a descriptor on its way (R397). -/
inductive TokenPath where
  | clean | badWord0 | badValue
deriving DecidableEq, Repr

/-- Register field of a Psimir instruction (R166). -/
abbrev Reg := BitVec 5
/-- A complex 16-bit sample: real [15:0], imaginary [31:16]. -/
abbrev C16 := BitVec 32

/-- The operand fields of the VA format (R166, table VA format fields). -/
structure VA where
  vd : Reg
  va : Reg
  b : Reg
  s : Bool
  u : Bool
  src : Bool
  ty : BitVec 3
deriving DecidableEq, Repr

/-- The operand fields of the VM format (R166): bit [8] and bits [4:0] are reserved. -/
structure VM where
  v : Reg
  ra : Reg
  ro : Reg
  inc : Bool
  rsv8 : Bool
  ty : BitVec 3
  rsv : BitVec 5
deriving DecidableEq, Repr

/-- Who issues a device-address access (R181, R185): a control core, a pack's or the control complex's
DMA, an accelerator or framer of a pack, a MAC's host ring, or one of the device services. -/
inductive Accessor where
  | core (c : Fin 16) (m : PrivMode)
  | dma (n : Fin 272)
  | pack (p : Fin 8)
  | mac (m : Fin 128)
  | flow
  | groomer
  | terrier
  | root
  | gelpel (g : Fin 4) (part : Fin 8)
deriving DecidableEq, Repr

/-- One access at a device address (R181): a read of so many bytes, or a write of bytes. `pathError`
is a fresh parity error on the way (R397); `uncorrectable` is the stack's report of an HBM read (R401); `upset` names bytes
whose parity has gone wrong in the memory since they were stored, and which the access finds so (R388, R390). -/
structure MemAccess where
  who : Accessor
  addr : Addr
  bytes : Nat
  data : Option (List Byte)
  pathError : Bool
  uncorrectable : Bool
  upset : List Addr
deriving DecidableEq, Repr

/-- A request line asserted at a Leash point in the cycle of the decision (R195, R196): its requester, the class its source marks,
and the beats of 32 B of its transfer, less 1, at an HBM pseudo-channel; at a Spine port a transfer is one beat. -/
structure LeashReq where
  r : Fin 24
  classD : Bool
  beats : Fin 8
deriving DecidableEq, Repr

/-- How a fabric answers a transfer, besides refusing it (R181, R219 to R221). -/
inductive BusAnswer where
  | good | refused | error | timeout
deriving DecidableEq, Repr

/-- The running timers of a flow context (R320, R321). -/
inductive FlowTimer where
  | tReordering | tPollRetransmit | tReassembly | tStatusProhibit
deriving DecidableEq, Repr

/-- A frame received by a MAC (R356): its bytes from destination address through FCS, whether the FCS
verifies, whether what the MAC is still draining at its first byte leaves the FIFO room for MAXLEN beside the frames that stand
behind a framer without a credit, and whether the FIFO holds it without a parity error (R397). -/
structure RxFrame where
  bytes : List Byte
  fcsOk : Bool
  room : Bool
  fifoOk : Bool
deriving DecidableEq, Repr

/-- A CPRI hyperframe received on a link (R379 to R381): its number BFN × 150 + hyperframe of the radio frame, the link's
synchronization, its 256 control words and the samples of each container, by stream, sign-extended to 16 bits. -/
structure CpriHyper where
  number : Nat
  hfnSync : Bool
  bfnSync : Bool
  control : List (List Byte)
  samples : List (Fin 4096 × List C16)
deriving DecidableEq, Repr

/-- A 64-bit word of a memory outside the device address map (classes 4 to 11 of R390): its class, the unit that owns it, its
offset there; for a cache of class 7 or 11, whether the line is modified, and for class 7 the address that it holds. -/
structure InnerWord where
  cls : BitVec 4
  unit : BitVec 10
  off : Addr
  modified : Bool
  line : Addr
deriving DecidableEq, Repr

/-- The HBM stack's report of a read (R401). -/
inductive HbmReport where
  | clean | corrected | uncorrectable | parity
deriving DecidableEq, Repr

/-- An Enber message as it arrives (R423): the header's fields, the payload and the tag. -/
structure EnberMsg where
  magic : BitVec 16
  dialect : BitVec 16
  op : Byte
  flags : Byte
  status : BitVec 16
  session : BitVec 32
  seq : BitVec 32
  target : Obj
  count : BitVec 16
  len : BitVec 16
  payload : List Byte
  tag : List Byte
deriving DecidableEq, Repr

/-- What the MRAM verify of a COMMIT finds (R437), or in which of the two copies the supply was lost (R438). -/
inductive MramResult where
  | bothGood | firstOnly | firstFails | lostInFirst | lostInSecond
deriving DecidableEq, Repr

/-- The cause of a POR (R444, R488): PWRGOOD low, or a rail at its RESET level with its minimum. -/
inductive PorCause where
  | pwrgood
  | rail (r : Fin 10) (minMv : Nat) (us : Nat)
deriving DecidableEq, Repr

/-- What self-test found (R454): the units it fences and the common parts that failed. -/
structure SelfTest where
  rootFail : Bool
  l3Fail : Bool
  spineFail : Bool
  timebaseFail : Bool
  lbistFail : List (Fin 8)
  pmFail : List (Fin 8)
  knFail : List (Fin 8)
  tiles : List (Fin 512)
  clusters : List (Fin 64)
  accels : List (Fin 8 × Fin 18)
  cores : List (Fin 16)
  hbm : List (Fin 4)
  channels : List (Fin 128)
  lanes : List (Fin 128)
deriving DecidableEq, Repr

/-- Whether the boot flash could be read during a load (R522). -/
inductive FlashHealth where
  | good | readError
deriving DecidableEq, Repr

/-- The item whose L0 timer expired (R492, R497). -/
inductive L0Item where
  | dmaRead (n : Fin 272)
  | dmaWrite (n : Fin 272)
  | core (c : Fin 16) (a : Addr)
  | tileLoad (t : Fin 512) (a : BitVec 32)
  | tileStore (t : Fin 512) (a : BitVec 32)
  | accel (p : Fin 8) (k : Fin 17) (a : Addr) (write : Bool)
  | anchor (u : Fin 1024)
deriving DecidableEq, Repr

/-- What a ladder's COUNT and STEP are kept for (R498): a unit, a carrier or a partition. -/
inductive ChargedUnit where
  | unit (u : Fin 1024)
  | carrier (c : Fin 384)
  | part (p : Fin 8)
deriving DecidableEq, Repr

/-- A HELLO flit of the far member (R549): whether its CRC is good and it acknowledges ours. -/
structure GplHello where
  crcOk : Bool
  acksOurs : Bool
  pos : BitVec 2
  serial : U64
  lanes : BitVec 16
  lo : BitVec 16
  hi : BitVec 16
  cr0 : BitVec 12
  cr1 : BitVec 12
deriving DecidableEq, Repr

/-- A DATA flit received (R544, R546): header fields, payload and whether its CRC is good. -/
structure GplFlit where
  crcOk : Bool
  seq : Byte
  ack : Byte
  cr0 : BitVec 12
  cr1 : BitVec 12
  vc : Bool
  payload : List U64
deriving DecidableEq, Repr

/-- A RELAY message (R553): a request of the far member, or the answer to ours. -/
inductive RelayMsg where
  | request (part : Fin 8) (write : Bool) (o : Obj) (v : U64)
  | answer (status : BitVec 16) (v : U64)
deriving DecidableEq, Repr

/-- Why a Gelpel port goes DOWN (R552). -/
inductive LinkDownCause where
  | silent | naks | los | disabled
deriving DecidableEq, Repr

/-- How an I2C transfer ends (R562). -/
inductive I2cResult where
  | ok (read : List Byte)
  | nackAddr | nackData | arbLost | timeout
deriving DecidableEq, Repr

/-- A datagram or frame on the management port that is not an Enber message (R422). -/
inductive MgmtFrame where
  | arp (ip : BitVec 32)
  | neighbourSolicit (ip : BitVec 128)
  | echo4 (dst : BitVec 32) (payload : List Byte)
  | echo6 (dst : BitVec 128) (payload : List Byte)
  | other
deriving DecidableEq, Repr

/-- The commands of the part, one constructor for each row of spec/opcode_table.json (the rule each row
names governs it; 95_what_each_step_holds.md lists what comes about inside a step). -/
inductive Instr where
  /-- LIVE_STAGED_WRITE (R34). -/
  | liveStagedWrite (rq : Requester) (t : TableId) (row : Nat) (word : Nat) (v : U64)
  /-- LIVE_ARM (R34). -/
  | liveArm (rq : Requester) (t : TableId)
  /-- LIVE_CANCEL (R37). -/
  | liveCancel (rq : Requester) (t : TableId)
  /-- LIVE_CLR_CNT (R45). -/
  | liveClrCnt (rq : Requester) (t : TableId) (arm : Bool) (cancel : Bool)
  /-- LIVE_SWAP (R34). -/
  | liveSwap (t : TableId)
  /-- LIVE_COPY_DONE (R35). -/
  | liveCopyDone (t : TableId)
  /-- LIVE_DIRECT_WRITE (R38). -/
  | liveDirectWrite (rq : Requester) (t : TableId) (row : Nat) (word : Nat) (v : U64)
  /-- LIVE_DEFERRED_APPLY (R39). -/
  | liveDeferredApply (t : TableId) (row : Nat)
  /-- PLL_LOCK (R47). -/
  | pllLock
  /-- CLKREF_LOSS (R48). -/
  | clkrefLoss
  /-- CLKREF_RETURN (R49). -/
  | clkrefReturn
  /-- CLK_LOSS_HOLD_EXPIRY (R49). -/
  | clkLossHoldExpiry
  /-- TB_INCREMENT_WRITE (R54). -/
  | tbIncrementWrite (rq : Requester) (v : U64)
  /-- TB_STEP_WRITE (R56). -/
  | tbStepWrite (rq : Requester) (v : U64)
  /-- TB_OFFSET_SECONDS_WRITE (R56). -/
  | tbOffsetSecondsWrite (rq : Requester) (v : U64)
  /-- TB_OFFSET_WRITE (R56). -/
  | tbOffsetWrite (rq : Requester) (v : U64)
  /-- TIMEBASE_TICK_APPLY (R57). -/
  | timebaseTickApply (n : Nat)
  /-- TB_NOW_READ (R59). -/
  | tbNowRead (rq : Requester) (sub : Fin 3)
  /-- TT_OWNER_WRITE (R61). -/
  | ttOwnerWrite (rq : Requester) (u : Fin 64) (v : U64)
  /-- TT_ENABLE (R68). -/
  | ttEnable (rq : Requester) (u : Fin 64) (v : U64)
  /-- TT_DISABLE (R72). -/
  | ttDisable (rq : Requester) (u : Fin 64) (v : U64)
  /-- TT_TIMING_WRITE (R63). -/
  | ttTimingWrite (rq : Requester) (u : Fin 64) (which : Fin 3) (v : U64)
  /-- TRIGGER_FIRE (R66). -/
  | triggerFire (u : Fin 64) (row : Fin 16)
  /-- TRIGGER_TRAILING_EDGE (R33). -/
  | triggerTrailingEdge (u : Fin 64) (row : Fin 16)
  /-- CAPTURE_EDGE (R73). -/
  | captureEdge (source : BitVec 7) (rising : Bool) (eighth : Fin 8)
  /-- CAPTURE_POP (R74). -/
  | capturePop (rq : Requester) (n : Fin 8)
  /-- PPS_OUT_RISE (R75). -/
  | ppsOutRise
  /-- PPS_OUT_FALL (R75). -/
  | ppsOutFall
  /-- SYNCE_SQUELCH (R76). -/
  | synceSquelch (n : Fin 2)
  /-- DESCRIPTOR_SUBMIT (R582). -/
  | descriptorSubmit (src : Producer) (badPath : Bool)
  /-- DEFERRED_DESCRIPTOR_ALLOCATE (R104). -/
  | deferredDescriptorAllocate (p : Fin 8)
  /-- TOKEN_ACCEPT (R85). -/
  | tokenAccept (src : Producer) (path : TokenPath)
  /-- TASK_DISPATCH (R91). -/
  | taskDispatch (p : Fin 8) (parity : Bool)
  /-- UNIT_DOWN_SWEEP (R583). -/
  | unitDownSweep (p : Fin 8)
  /-- LAME_MEDIAN_RECOMPUTE (R107). -/
  | lameMedianRecompute (p : Fin 8)
  /-- LAME_PROBE_DUE (R110). -/
  | lameProbeDue (t : Fin 512)
  /-- PLAN_INSTANTIATE (R115). -/
  | planInstantiate (c : Fin 384) (u : Fin 64) (row : Fin 16)
  /-- ADD (R166). -/
  | add (t : Fin 512) (rd ra rb : Reg)
  /-- SUB (R166). -/
  | sub (t : Fin 512) (rd ra rb : Reg)
  /-- AND (R166). -/
  | andR (t : Fin 512) (rd ra rb : Reg)
  /-- OR (R166). -/
  | orR (t : Fin 512) (rd ra rb : Reg)
  /-- XOR (R166). -/
  | xorR (t : Fin 512) (rd ra rb : Reg)
  /-- SLL (R166). -/
  | sll (t : Fin 512) (rd ra rb : Reg)
  /-- SRL (R166). -/
  | srl (t : Fin 512) (rd ra rb : Reg)
  /-- SRA (R166). -/
  | sra (t : Fin 512) (rd ra rb : Reg)
  /-- SLT (R166). -/
  | slt (t : Fin 512) (rd ra rb : Reg)
  /-- SLTU (R166). -/
  | sltu (t : Fin 512) (rd ra rb : Reg)
  /-- MUL (R166). -/
  | mul (t : Fin 512) (rd ra rb : Reg)
  /-- MULH (R166). -/
  | mulh (t : Fin 512) (rd ra rb : Reg)
  /-- MIN (R166). -/
  | min (t : Fin 512) (rd ra rb : Reg)
  /-- MAX (R166). -/
  | max (t : Fin 512) (rd ra rb : Reg)
  /-- ADDI (R169). -/
  | addi (t : Fin 512) (rd ra : Reg) (imm : BitVec 16)
  /-- ANDI (R169). -/
  | andi (t : Fin 512) (rd ra : Reg) (imm : BitVec 16)
  /-- ORI (R169). -/
  | ori (t : Fin 512) (rd ra : Reg) (imm : BitVec 16)
  /-- XORI (R169). -/
  | xori (t : Fin 512) (rd ra : Reg) (imm : BitVec 16)
  /-- SLLI (R169). -/
  | slli (t : Fin 512) (rd ra : Reg) (imm : BitVec 16)
  /-- SRLI (R169). -/
  | srli (t : Fin 512) (rd ra : Reg) (imm : BitVec 16)
  /-- SRAI (R169). -/
  | srai (t : Fin 512) (rd ra : Reg) (imm : BitVec 16)
  /-- LUI (R169). -/
  | lui (t : Fin 512) (rd ra : Reg) (imm : BitVec 16)
  /-- SLTI (R169). -/
  | slti (t : Fin 512) (rd ra : Reg) (imm : BitVec 16)
  /-- SLTIU (R169). -/
  | sltiu (t : Fin 512) (rd ra : Reg) (imm : BitVec 16)
  /-- LD_B (R169). -/
  | ldB (t : Fin 512) (rd ra : Reg) (imm : BitVec 16)
  /-- LD_H (R169). -/
  | ldH (t : Fin 512) (rd ra : Reg) (imm : BitVec 16)
  /-- LD_W (R169). -/
  | ldW (t : Fin 512) (rd ra : Reg) (imm : BitVec 16)
  /-- LD_D (R169). -/
  | ldD (t : Fin 512) (rd ra : Reg) (imm : BitVec 16)
  /-- LD_BU (R169). -/
  | ldBu (t : Fin 512) (rd ra : Reg) (imm : BitVec 16)
  /-- LD_HU (R169). -/
  | ldHu (t : Fin 512) (rd ra : Reg) (imm : BitVec 16)
  /-- LD_WU (R169). -/
  | ldWu (t : Fin 512) (rd ra : Reg) (imm : BitVec 16)
  /-- ST_B (R169). -/
  | stB (t : Fin 512) (rd ra : Reg) (imm : BitVec 16)
  /-- ST_H (R169). -/
  | stH (t : Fin 512) (rd ra : Reg) (imm : BitVec 16)
  /-- ST_W (R169). -/
  | stW (t : Fin 512) (rd ra : Reg) (imm : BitVec 16)
  /-- ST_D (R169). -/
  | stD (t : Fin 512) (rd ra : Reg) (imm : BitVec 16)
  /-- BEQ (R170). -/
  | beq (t : Fin 512) (ra rb : Reg) (off : BitVec 16)
  /-- BNE (R170). -/
  | bne (t : Fin 512) (ra rb : Reg) (off : BitVec 16)
  /-- BLT (R170). -/
  | blt (t : Fin 512) (ra rb : Reg) (off : BitVec 16)
  /-- BGE (R170). -/
  | bge (t : Fin 512) (ra rb : Reg) (off : BitVec 16)
  /-- BLTU (R170). -/
  | bltu (t : Fin 512) (ra rb : Reg) (off : BitVec 16)
  /-- BGEU (R170). -/
  | bgeu (t : Fin 512) (ra rb : Reg) (off : BitVec 16)
  /-- JAL (R170). -/
  | jal (t : Fin 512) (rd : Reg) (off : BitVec 21)
  /-- JALR (R170). -/
  | jalr (t : Fin 512) (rd ra : Reg) (imm : BitVec 16)
  /-- LOOP0 (R149). -/
  | loop0 (t : Fin 512) (ra : Reg) (rsv : BitVec 4) (fin : BitVec 16)
  /-- LOOP1 (R149). -/
  | loop1 (t : Fin 512) (ra : Reg) (rsv : BitVec 4) (fin : BitVec 16)
  /-- FETCH (R153). -/
  | fetch (t : Fin 512) (rd ra rb : Reg)
  /-- POST_D (R154). -/
  | postD (t : Fin 512) (rd ra rb : Reg)
  /-- POST_D_RESULT (R154). -/
  | postDResult (t : Fin 512)
  /-- POST_T (R155). -/
  | postT (t : Fin 512) (rd ra rb : Reg)
  /-- POST_STALL_RELEASE (R155). -/
  | postStallRelease (t : Fin 512)
  /-- DONE (R156). -/
  | done (t : Fin 512) (rd ra rb : Reg)
  /-- FENCE (R126). -/
  | fence (t : Fin 512) (rd ra rb : Reg)
  /-- ERET (R162). -/
  | eret (t : Fin 512) (rd ra rb : Reg)
  /-- BREAK (R157). -/
  | brk (t : Fin 512) (rd ra rb : Reg)
  /-- CSRR (R173). -/
  | csrr (t : Fin 512) (rd ra : Reg) (csr : BitVec 12)
  /-- CSRW (R173). -/
  | csrw (t : Fin 512) (rd ra : Reg) (csr : BitVec 12)
  /-- VSETVL (R129). -/
  | vsetvl (t : Fin 512) (rd ra rb : Reg) (rsv : BitVec 4) (vtype : BitVec 6)
  /-- VSETVLR (R172). -/
  | vsetvlr (t : Fin 512) (rd ra rb : Reg) (rsv : BitVec 4) (vtype : BitVec 6)
  /-- VMUL (R145). -/
  | vmul (t : Fin 512) (f : VA)
  /-- VMULQ (R145). -/
  | vmulq (t : Fin 512) (f : VA)
  /-- VMAC (R145). -/
  | vmac (t : Fin 512) (f : VA)
  /-- VMACW (R145). -/
  | vmacw (t : Fin 512) (f : VA)
  /-- VCMUL (R145). -/
  | vcmul (t : Fin 512) (f : VA)
  /-- VCMACW (R145). -/
  | vcmacw (t : Fin 512) (f : VA)
  /-- VCMACJW (R145). -/
  | vcmacjw (t : Fin 512) (f : VA)
  /-- VCMAC (R145). -/
  | vcmac (t : Fin 512) (f : VA)
  /-- VADD (R145). -/
  | vadd (t : Fin 512) (f : VA)
  /-- VSUB (R145). -/
  | vsub (t : Fin 512) (f : VA)
  /-- VAND (R145). -/
  | vand (t : Fin 512) (f : VA)
  /-- VOR (R145). -/
  | vor (t : Fin 512) (f : VA)
  /-- VXOR (R145). -/
  | vxor (t : Fin 512) (f : VA)
  /-- VBSL (R176). -/
  | vbsl (t : Fin 512) (f : VA)
  /-- VSHL (R176). -/
  | vshl (t : Fin 512) (f : VA)
  /-- VSHR (R176). -/
  | vshr (t : Fin 512) (f : VA)
  /-- VNSHR (R176). -/
  | vnshr (t : Fin 512) (f : VA)
  /-- VMAX (R176). -/
  | vmax (t : Fin 512) (f : VA)
  /-- VMIN (R176). -/
  | vmin (t : Fin 512) (f : VA)
  /-- VCMPEQ (R176). -/
  | vcmpeq (t : Fin 512) (f : VA)
  /-- VCMPLT (R176). -/
  | vcmplt (t : Fin 512) (f : VA)
  /-- VCMPLE (R176). -/
  | vcmple (t : Fin 512) (f : VA)
  /-- VCONJ (R145). -/
  | vconj (t : Fin 512) (f : VA)
  /-- VNEG (R145). -/
  | vneg (t : Fin 512) (f : VA)
  /-- VCVTW (R145). -/
  | vcvtw (t : Fin 512) (f : VA)
  /-- VCVTN (R145). -/
  | vcvtn (t : Fin 512) (f : VA)
  /-- VMOV (R145). -/
  | vmov (t : Fin 512) (f : VA)
  /-- VSLIDEDN (R177). -/
  | vslidedn (t : Fin 512) (f : VA)
  /-- VSLIDEUP (R177). -/
  | vslideup (t : Fin 512) (f : VA)
  /-- VPERM (R177). -/
  | vperm (t : Fin 512) (f : VA)
  /-- VZIP (R177). -/
  | vzip (t : Fin 512) (f : VA)
  /-- VUNZIP (R177). -/
  | vunzip (t : Fin 512) (f : VA)
  /-- VREDSUM (R177). -/
  | vredsum (t : Fin 512) (f : VA)
  /-- VMAXI (R148). -/
  | vmaxi (t : Fin 512) (f : VA)
  /-- VMINI (R148). -/
  | vmini (t : Fin 512) (f : VA)
  /-- VLD (R174). -/
  | vld (t : Fin 512) (f : VM)
  /-- VST (R174). -/
  | vst (t : Fin 512) (f : VM)
  /-- INTERRUPT_ENTRY (R158). -/
  | interruptEntry (t : Fin 512)
  /-- TILE_RUN (R164). -/
  | tileRun (rq : Requester) (t : Fin 512) (run : Bool)
  /-- TILE_HALT (R164). -/
  | tileHalt (rq : Requester) (t : Fin 512) (halt : Bool)
  /-- TILE_NOTIFY (R159). -/
  | tileNotify (rq : Requester) (t : Fin 512)
  /-- MEMORY_ACCESS (R181). -/
  | memoryAccess (a : MemAccess)
  /-- DICT_WINDOW_LOAD (R184). -/
  | dictWindowLoad (c : Fin 16) (m : PrivMode) (a : Addr) (bytes : Nat)
  /-- DICT_WINDOW_STORE (R184). -/
  | dictWindowStore (c : Fin 16) (m : PrivMode) (a : Addr) (bytes : Nat) (v : U64)
  /-- RC_READ (R6). -/
  | rcRead (rq : Requester) (o : Obj)
  /-- OBJECT_WRITE (R413). -/
  | objectWrite (rq : Requester) (o : Obj) (v : U64)
  /-- PORT_PUSH (R192). -/
  | portPush (c : Fin 16) (v : U64)
  /-- PORT_DONE (R194). -/
  | portDone (c : Fin 16) (handle : BitVec 32)
  /-- PORT_RING_TAIL_WRITE (R194). -/
  | portRingTailWrite (c : Fin 16) (v : U64)
  /-- LEASH_GRANT (R197). -/
  | leashGrant (pt : Fin 160) (reqs : List LeashReq)
  /-- LEASH_STARVE (R202). -/
  | leashStarve (pt : Fin 160) (r : Fin 24)
  /-- REQUESTER_MASK (R200). -/
  | requesterMask (r : Fin 24)
  /-- REQUESTER_UNMASK (R200). -/
  | requesterUnmask (r : Fin 24)
  /-- DMA_DOORBELL (R210). -/
  | dmaDoorbell (rq : Requester) (n : Fin 272)
  /-- DMA_ISSUE (R204). -/
  | dmaIssue (e : Fin 9)
  /-- DMA_DESC_FETCH_DONE (R208). -/
  | dmaDescFetchDone (n : Fin 272) (r : BusAnswer)
  /-- DMA_READ_RESPONSE (R219). -/
  | dmaReadResponse (n : Fin 272) (r : BusAnswer)
  /-- DMA_WRITE_RESPONSE (R220). -/
  | dmaWriteResponse (n : Fin 272) (r : BusAnswer)
  /-- DMA_DESC_COMPLETE (R214). -/
  | dmaDescComplete (n : Fin 272)
  /-- DMA_TAIL_POLL (R212). -/
  | dmaTailPoll (n : Fin 272)
  /-- DMA_RESUME_RETRY (R224). -/
  | dmaResumeRetry (rq : Requester) (n : Fin 272) (index : BitVec 32)
  /-- DMA_RESUME_NEXT (R224). -/
  | dmaResumeNext (rq : Requester) (n : Fin 272) (index : BitVec 32)
  /-- DMA_RESUME_STOP (R224). -/
  | dmaResumeStop (rq : Requester) (n : Fin 272) (index : BitVec 32)
  /-- DMA_CHANNEL_DISABLE (R223). -/
  | dmaChannelDisable (rq : Requester) (n : Fin 272)
  /-- HOUND_OCCASION_START (R228). -/
  | houndOccasionStart (e : Fin 8) (w : Fin 16)
  /-- HOUND_OCCASION_END (R228). -/
  | houndOccasionEnd (e : Fin 8) (w : Fin 16)
  /-- HOUND_ENERGY_WINDOW (R234). -/
  | houndEnergyWindow (e : Fin 8) (w : Fin 16)
  /-- HOUND_FLOOR_ESCAPE (R235). -/
  | houndFloorEscape (e : Fin 8) (w : Fin 16)
  /-- HOUND_QUALIFY (R236). -/
  | houndQualify (e : Fin 8) (w : Fin 16)
  /-- HOUND_LANE_SYMBOL (R242). -/
  | houndLaneSymbol (e : Fin 8) (lane : Fin 16)
  /-- HOUND_LANE_FADE (R242). -/
  | houndLaneFade (e : Fin 8) (lane : Fin 16)
  /-- HOUND_TOKEN_SEND (R241). -/
  | houndTokenSend (e : Fin 8)
  /-- VERDICT_CRC_FAIL (R244). -/
  | verdictCrcFail (rq : Requester) (e : Fin 8) (tag : BitVec 32)
  /-- VERDICT_CW_INCREASE (R251). -/
  | verdictCwIncrease (rq : Requester) (e : Fin 8) (w : Fin 16)
  /-- VERDICT_CW_RESET (R251). -/
  | verdictCwReset (rq : Requester) (e : Fin 8) (w : Fin 16)
  /-- SENSE_SLOT (R247). -/
  | senseSlot (e : Fin 8) (w : Fin 16)
  /-- SENSE_RESULT (R250). -/
  | senseResult (e : Fin 8) (w : Fin 16)
  /-- DFT_FWD_CP (R262). -/
  | dftFwdCp (p : Fin 8) (k : Fin 4)
  /-- DFT_INV_CP (R262). -/
  | dftInvCp (p : Fin 8) (k : Fin 4)
  /-- DFT_FWD (R261). -/
  | dftFwd (p : Fin 8) (k : Fin 4)
  /-- DFT_INV (R261). -/
  | dftInv (p : Fin 8) (k : Fin 4)
  /-- EQ_DETECT (R265). -/
  | eqDetect (p : Fin 8) (k : Fin 2)
  /-- EQ_EQUALIZE (R265). -/
  | eqEqualize (p : Fin 8) (k : Fin 2)
  /-- EQ_DEMAP (R265). -/
  | eqDemap (p : Fin 8) (k : Fin 2)
  /-- BW_COMPUTE (R272). -/
  | bwCompute (p : Fin 8)
  /-- BW_APPLY (R273). -/
  | bwApply (p : Fin 8)
  /-- ACCEL_JOB_COMPLETE (R256). -/
  | accelJobComplete (p : Fin 8) (k : Fin 17)
  /-- LD_DECODE (R288). -/
  | ldDecode (p : Fin 8) (k : Fin 6)
  /-- LD_TBCRC (R285). -/
  | ldTbcrc (p : Fin 8) (k : Fin 6)
  /-- LE_ENCODE (R305). -/
  | leEncode (p : Fin 8) (k : Fin 2)
  /-- TC_DECODE (R307). -/
  | tcDecode (p : Fin 8)
  /-- TC_ENCODE (R308). -/
  | tcEncode (p : Fin 8)
  /-- TC_TBCRC (R285). -/
  | tcTbcrc (p : Fin 8)
  /-- PC_DECODE (R309). -/
  | pcDecode (p : Fin 8)
  /-- PC_ENCODE (R310). -/
  | pcEncode (p : Fin 8)
  /-- TX_SYMBOL (R276). -/
  | txSymbol (c : Fin 384) (n : Fin 4096) (l : Fin 14)
  /-- TX_CFG_ENABLE (R281). -/
  | txCfgEnable (rq : Requester) (c : Fin 384) (v : U64)
  /-- FL_RING_POLL (R313). -/
  | flRingPoll (n : Fin 256)
  /-- UL_PDU (R323). -/
  | ulPdu (n : Fin 256)
  /-- DL_BUILD (R330). -/
  | dlBuild (n : Fin 256)
  /-- FLOW_OPEN (R320). -/
  | flowOpen (n : Fin 256)
  /-- FLOW_CLOSE (R332). -/
  | flowClose (n : Fin 256)
  /-- FLOW_FREE (R332). -/
  | flowFree (f : BitVec 20)
  /-- KEY_INSERT (R318). -/
  | keyInsert (n : Fin 256)
  /-- KEY_DELETE (R319). -/
  | keyDelete (n : Fin 256)
  /-- CTX_READ (R320). -/
  | ctxRead (n : Fin 256)
  /-- REKEY (R329). -/
  | rekey (n : Fin 256)
  /-- REOWN (R333). -/
  | reown (n : Fin 256)
  /-- GTPU_DL_PACKET (R328). -/
  | gtpuDlPacket (m : Fin 128)
  /-- FLOW_TIMER_EXPIRY (R321). -/
  | flowTimerExpiry (f : BitVec 20) (k : FlowTimer)
  /-- FL_PARTITION_PURGE (R334). -/
  | flPartitionPurge (p : Fin 8)
  /-- OCTET_RECONFIGURE (R339). -/
  | octetReconfigure (rq : Requester) (o : Fin 16) (v : U64)
  /-- OCTET_RESTART (R339). -/
  | octetRestart (o : Fin 16)
  /-- TEST_RATE_CHANGE (R351). -/
  | testRateChange (rq : Requester) (l : Fin 128) (v : U64)
  /-- AN_RESOLVE (R345). -/
  | anResolve (l : Fin 128) (partner : BitVec 9) (fecReq : Bool)
  /-- TRAINING_DONE (R346). -/
  | trainingDone (l : Fin 128)
  /-- LT_TIMEOUT_DOWNSHIFT (R347). -/
  | ltTimeoutDownshift (l : Fin 128)
  /-- AN_FULL_RESTART (R347). -/
  | anFullRestart (l : Fin 128)
  /-- EYE_START (R348). -/
  | eyeStart (rq : Requester) (l : Fin 128) (v : U64)
  /-- EYE_POINT_DONE (R348). -/
  | eyePointDone (l : Fin 128) (mismatch : Nat)
  /-- LANE_SLIP (R349). -/
  | laneSlip (rq : Requester) (l : Fin 128) (v : U64)
  /-- SLIP_DONE (R349). -/
  | slipDone (l : Fin 128)
  /-- RXWORD_READ (R349). -/
  | rxwordRead (rq : Requester) (l : Fin 128) (line : List Bool)
  /-- LOS_DETECT (R353). -/
  | losDetect (l : Fin 128)
  /-- CDR_LOCK_LOSS (R353). -/
  | cdrLockLoss (l : Fin 128)
  /-- ETH_RX_FRAME (R356). -/
  | ethRxFrame (m : Fin 128) (f : RxFrame)
  /-- FDB_AGE_OUT (R360). -/
  | fdbAgeOut (vid : BitVec 12) (mac : BitVec 48)
  /-- HTX_POLL (R358). -/
  | htxPoll (m : Fin 128)
  /-- ETH_TX_FRAME_START (R362). -/
  | ethTxFrameStart (m : Fin 128)
  /-- TX_OVERRUN (R363). -/
  | txOverrun (m : Fin 128) (q : Fin 8)
  /-- GCL_ENTRY_BEGIN (R364). -/
  | gclEntryBegin (m : Fin 128) (row : Fin 1024)
  /-- GCL_ENTRY_END (R364). -/
  | gclEntryEnd (m : Fin 128) (row : Fin 1024)
  /-- GCL_ENABLE (R365). -/
  | gclEnable (rq : Requester) (m : Fin 128) (v : U64)
  /-- FH_TOKEN_GROUP (R374). -/
  | fhTokenGroup (n : Fin 4096) (g : Fin 14)
  /-- FH_SYMBOL_WINDOW_OPEN (R375). -/
  | fhSymbolWindowOpen (n : Fin 4096) (l : Fin 14)
  /-- FH_SYMBOL_WINDOW_CLOSE (R375). -/
  | fhSymbolWindowClose (n : Fin 4096) (l : Fin 14)
  /-- CPLANE_SEND (R377). -/
  | cplaneSend (c : Fin 384) (dl : Bool)
  /-- CPRI_HYPERFRAME (R381). -/
  | cpriHyperframe (k : Fin 32) (h : CpriHyper)
  /-- DELAY_MEASURE_START (R382). -/
  | delayMeasureStart (rq : Requester) (m : Fin 128) (v : U64)
  /-- DELAY_TIMEOUT (R382). -/
  | delayTimeout (m : Fin 128)
  /-- ANCHOR_REFETCH_DONE (R391). -/
  | anchorRefetchDone (a : BitVec 55) (anchorOk : Bool)
  /-- MERGE_FLUSH (R399). -/
  | mergeFlush (port : Nat) (block : Nat)
  /-- GROOMER_BLOCK (R402). -/
  | groomerBlock (p : Fin 8) (upset : List Addr) (inner : List InnerWord)
  /-- HBM_SCRUB_TRANSFER (R403). -/
  | hbmScrubTransfer (r : HbmReport) (upset : List Addr) (inner : List InnerWord)
  /-- EP_CLASS_CLEAR (R406). -/
  | epClassClear (rq : Requester) (c : Fin 16)
  /-- EP_ERROR_RECORD (R406). -/
  | epErrorRecord (c : Fin 16)
  /-- ENBER_READ (R425). -/
  | enberRead (m : EnberMsg)
  /-- ENBER_WRITE (R416). -/
  | enberWrite (m : EnberMsg)
  /-- ENBER_TOKEN_WRITE (R435). -/
  | enberTokenWrite (m : EnberMsg) (r : MramResult)
  /-- ENBER_READ_BLOCK (R425). -/
  | enberReadBlock (m : EnberMsg)
  /-- ENBER_WRITE_BLOCK (R425). -/
  | enberWriteBlock (m : EnberMsg)
  /-- ENBER_SUBSCRIBE (R442). -/
  | enberSubscribe (m : EnberMsg)
  /-- ENBER_COMMIT (R436). -/
  | enberCommit (m : EnberMsg)
  /-- ENBER_HELLO (R440). -/
  | enberHello (m : EnberMsg)
  /-- ENBER_AUTH (R431). -/
  | enberAuth (m : EnberMsg)
  /-- NOTIFY_SEND (R442). -/
  | notifySend (i : Fin 16) (subid : BitVec 6)
  /-- SESSION_IDLE_TIMEOUT (R433). -/
  | sessionIdleTimeout (i : Fin 16)
  /-- HANDSHAKE_EXPIRY (R429). -/
  | handshakeExpiry (h : Fin 8)
  /-- TOKEN_CTL_WRITE (R435). -/
  | tokenCtlWrite (c : Fin 16) (m : PrivMode) (v : U64)
  /-- COMMIT_GO (R436). -/
  | commitGo (c : Fin 16) (m : PrivMode) (v : U64)
  /-- COMMIT_EXECUTE (R437). -/
  | commitExecute (r : MramResult)
  /-- OD_UNIT_RESET (R421). -/
  | odUnitReset (rq : Requester) (u : Fin 1024)
  /-- OD_QUARANTINE (R503). -/
  | odQuarantine (rq : Requester) (u : Fin 1024)
  /-- OD_RELEASE (R504). -/
  | odRelease (rq : Requester) (u : Fin 1024)
  /-- RESET_RELEASE (R446). -/
  | resetRelease
  /-- PART_RESET (R446). -/
  | partReset (rq : Requester) (p : Fin 8)
  /-- PART_HOLD (R446). -/
  | partHold (rq : Requester) (p : Fin 8)
  /-- PART_RELEASE (R446). -/
  | partRelease (rq : Requester) (p : Fin 8)
  /-- WARM_RESET (R458). -/
  | warmReset (rq : Requester)
  /-- HOLD_COMMAND (R460). -/
  | holdCommand (rq : Requester)
  /-- PIN_RESET (R459). -/
  | pinReset
  /-- RESET_N_RELEASE (R459). -/
  | resetNRelease (bootsel : BitVec 3)
  /-- POR (R444). -/
  | por (k : PorCause)
  /-- PWRGOOD_RISE (R452). -/
  | pwrgoodRise (bootsel : BitVec 3)
  /-- SELF_TEST_DONE (R455). -/
  | selfTestDone (r : SelfTest)
  /-- FW_LOAD_DONE (R523). -/
  | fwLoadDone (p : Fin 8) (flash : FlashHealth)
  /-- PARTITION_READY (R453). -/
  | partitionReady (rq : Requester) (p : Fin 8)
  /-- PWR_REQUEST (R469). -/
  | pwrRequest (rq : Requester) (u : Fin 1024) (v : U64)
  /-- PWR_PARTITION_ACK (R472). -/
  | pwrPartitionAck (rq : Requester) (p : Fin 8)
  /-- PWR_PARTITION_REFUSE (R474). -/
  | pwrPartitionRefuse (rq : Requester) (p : Fin 8)
  /-- PWR_PACK_ACK (R472). -/
  | pwrPackAck (p : Fin 8)
  /-- PWR_PREP_TIMEOUT (R472). -/
  | pwrPrepTimeout
  /-- HUSH_IDLE_GATE (R468). -/
  | hushIdleGate (p : Fin 8)
  /-- PACK_P3_WAKE (R482). -/
  | packP3Wake (p : Fin 8)
  /-- GUARD_LEAD (R479). -/
  | guardLead
  /-- GUARD_LISTEN_END (R479). -/
  | guardListenEnd
  /-- WAKE_GPIO_EDGE (R480). -/
  | wakeGpioEdge (n : Fin 64) (rising : Bool)
  /-- WAKE_TIMER (R480). -/
  | wakeTimer
  /-- RESIDENCY_HOUR_COMMIT (R483). -/
  | residencyHourCommit
  /-- SUPPLY_WARN (R485). -/
  | supplyWarn (r : Fin 10) (mv : Nat)
  /-- SUPPLY_RECOVER (R486). -/
  | supplyRecover (r : Fin 10) (minMv : Nat) (us : Nat)
  /-- WARN_HOLD_EXPIRY (R487). -/
  | warnHoldExpiry
  /-- THERMAL_THROTTLE (R490). -/
  | thermalThrottle (sensor : Fin 16) (temp : BitVec 16)
  /-- THERMAL_CRIT (R490). -/
  | thermalCrit (sensor : Fin 16) (temp : BitVec 16)
  /-- THERMAL_LEVEL_FALL (R490). -/
  | thermalLevelFall (sensor : Fin 16) (temp : BitVec 16)
  /-- THERMAL_TRIP (R491). -/
  | thermalTrip
  /-- SHD_L0_EXPIRY (R497). -/
  | shdL0Expiry (x : L0Item)
  /-- SHD_L1_EXPIRY (R497). -/
  | shdL1Expiry (p : Fin 8) (entry : BitVec 15)
  /-- SHD_L2_EXPIRY (R497). -/
  | shdL2Expiry (c : Fin 384) (seq : BitVec 32)
  /-- SHD_L3_EXPIRY (R497). -/
  | shdL3Expiry (p : Fin 8)
  /-- SHD_L4_EXPIRY (R499). -/
  | shdL4Expiry
  /-- SHD_WINDOW_RESET (R498). -/
  | shdWindowReset (level : Fin 5) (x : ChargedUnit)
  /-- SHD_ABORT_UNTAKEN (R501). -/
  | shdAbortUntaken (u : Fin 1024)
  /-- SHD_PET (R494). -/
  | shdPet (rq : Requester) (p : Fin 8)
  /-- DEVICE_CHECK (R495). -/
  | deviceCheck (ok : Bool)
  /-- SHD_AUTO_RETURN (R505). -/
  | shdAutoReturn (u : Fin 1024)
  /-- RETEST_DONE (R504). -/
  | retestDone (u : Fin 1024)
  /-- TERRIER_SEGMENT_START (R506). -/
  | terrierSegmentStart (p : Fin 9)
  /-- TERRIER_SIGNATURE_CHECK (R507). -/
  | terrierSignatureCheck (p : Fin 8)
  /-- TERRIER_MEM_STEP (R508). -/
  | terrierMemStep (p : Fin 9) (bad : Option (BitVec 9)) (again : Fin 4) (lost : Option (Fin 8))
  /-- TERRIER_RUN (R506). -/
  | terrierRun (rq : Requester) (u : Fin 1024)
  /-- EVR_MRAM_WRITE (R513). -/
  | evrMramWrite
  /-- EVR_CURSOR_WRITE (R515). -/
  | evrCursorWrite (rq : Requester) (v : U64)
  /-- EVR_USER_CTL (R516). -/
  | evrUserCtl (rq : Requester) (v : U64)
  /-- OPSEC_COMMIT (R512). -/
  | opsecCommit
  /-- CARRIER_OWNER_WRITE (R521). -/
  | carrierOwnerWrite (rq : Requester) (c : Fin 384) (owner : Byte)
  /-- FW_TRIAL (R525). -/
  | fwTrial (rq : Requester) (p : Fin 8)
  /-- FW_CONFIRM (R526). -/
  | fwConfirm (rq : Requester) (p : Fin 8)
  /-- FW_ABANDON (R526). -/
  | fwAbandon (rq : Requester) (p : Fin 8)
  /-- FW_TRIAL_LIMIT (R527). -/
  | fwTrialLimit (p : Fin 8)
  /-- FLASH_ERASE (R529). -/
  | flashErase (rq : Requester) (v : U64)
  /-- FLASH_PROGRAM (R529). -/
  | flashProgram (rq : Requester) (v : U64)
  /-- FLASH_READ (R529). -/
  | flashRead (rq : Requester) (v : U64)
  /-- FLASH_OP_DONE (R529). -/
  | flashOpDone (ok : Bool)
  /-- ATTEST_GO (R532). -/
  | attestGo (rq : Requester) (v : U64)
  /-- ATTEST_DONE (R532). -/
  | attestDone (rq : Requester)
  /-- HO_PAIR (R536). -/
  | hoPair (rq : Requester) (n : Fin 16)
  /-- HO_ARM (R538). -/
  | hoArm (rq : Requester) (n : Fin 16)
  /-- HO_CANCEL (R538). -/
  | hoCancel (rq : Requester) (n : Fin 16)
  /-- HO_CLEAR (R541). -/
  | hoClear (rq : Requester) (n : Fin 16)
  /-- HO_PRECHECK (R538). -/
  | hoPrecheck (n : Fin 16)
  /-- HO_CUT (R539). -/
  | hoCut (n : Fin 16)
  /-- HO_DRAIN_END (R541). -/
  | hoDrainEnd (n : Fin 16)
  /-- GPL_ENABLE (R543). -/
  | gplEnable (rq : Requester) (g : Fin 4) (v : U64)
  /-- GPL_LANES_WRITE (R543). -/
  | gplLanesWrite (rq : Requester) (g : Fin 4) (v : U64)
  /-- GPL_HELLO_SEND (R549). -/
  | gplHelloSend (g : Fin 4)
  /-- GPL_HELLO (R549). -/
  | gplHello (g : Fin 4) (h : GplHello)
  /-- GPL_DATA_FLIT (R546). -/
  | gplDataFlit (g : Fin 4) (f : GplFlit)
  /-- GPL_NAK (R546). -/
  | gplNak (g : Fin 4) (seq : Byte)
  /-- GPL_REPLAY_TIMEOUT (R546). -/
  | gplReplayTimeout (g : Fin 4)
  /-- GPL_TASK (R551). -/
  | gplTask (g : Fin 4) (part : BitVec 4) (words : List U64)
  /-- GPL_TOKEN (R551). -/
  | gplToken (g : Fin 4) (part : BitVec 4) (w0 : U64) (value : U64)
  /-- GPL_RESULT (R548). -/
  | gplResult (g : Fin 4) (result : U64)
  /-- GPL_RD_REQ (R551). -/
  | gplRdReq (g : Fin 4) (part : BitVec 4) (vc : Bool) (a : Addr) (bytes : Nat) (uncorrectable : Bool) (upset : List Addr)
  /-- GPL_RD_DATA (R545). -/
  | gplRdData (g : Fin 4) (r : BusAnswer) (data : List (Byte × Bool))
  /-- GPL_WR_REQ (R551). -/
  | gplWrReq (g : Fin 4) (part : BitVec 4) (vc : Bool) (a : Addr) (data : List (Byte × Bool))
  /-- GPL_WR_RSP (R545). -/
  | gplWrRsp (g : Fin 4) (r : BusAnswer)
  /-- GPL_RELAY (R553). -/
  | gplRelay (g : Fin 4) (m : RelayMsg)
  /-- GPL_LINKSTAT (R550). -/
  | gplLinkstat (g : Fin 4) (lo : BitVec 16) (hi : BitVec 16)
  /-- GPL_LINK_DOWN (R552). -/
  | gplLinkDown (g : Fin 4) (why : LinkDownCause)
  /-- RELAY_REQ (R553). -/
  | relayReq (rq : Requester) (v : U64)
  /-- I2C_WRITE (R562). -/
  | i2cWrite (rq : Requester) (i : Fin 2) (v : U64)
  /-- I2C_READ (R562). -/
  | i2cRead (rq : Requester) (i : Fin 2) (v : U64)
  /-- I2C_WRITE_READ (R562). -/
  | i2cWriteRead (rq : Requester) (i : Fin 2) (v : U64)
  /-- I2C_DONE (R562). -/
  | i2cDone (i : Fin 2) (r : I2cResult)
  /-- CDR_LOCK_ACQUIRE (R76). -/
  | cdrLockAcquire (l : Fin 128)
  /-- BLOCK_LOCK_LOSS (R353). -/
  | blockLockLoss (l : Fin 128)
  /-- CPRI_LOSS_OF_FRAME (R380). -/
  | cpriLossOfFrame (k : Fin 32)
  /-- TX_GATE_CLOSE (R277). -/
  | txGateClose (c : Fin 384)
  /-- TOKEN_CHECK_DONE (R435). -/
  | tokenCheckDone (c : Fin 16) (r : MramResult)
  /-- MGMT_PORT_FRAME (R422). -/
  | mgmtPortFrame (f : MgmtFrame)
  /-- PRBS_CHECKER_LOCK (R350). -/
  | prbsCheckerLock (l : Fin 128) (errors : Nat)
deriving DecidableEq, Repr

end Sys2Proof
end

