-- ==== Sys2Proof/Decode.lean ====
section
/-!
DEFINITION. Decode.lean: the command a word spells by the table's bits (spec/opcode_table.json gives no row bits, so no word spells a
command), and the 32-bit words of the Psimir instructions (R165, R166, R171 to R177 and the tables of 05_psimir_instructions.md).
-/
namespace Sys2Proof

/-- The command that a word of so many bits spells: none (no row has bits). -/
def decodeTableWord (_nbits _w : Nat) : Option Instr := none

/-! Psimir words: the formats of R166 -/

/-- Formats RR and SY: OP, rd, ra, rb, FN. -/
def wordRR (op : BitVec 6) (rd ra rb : Reg) (fn : BitVec 11) : BitVec 32 := op ++ rd ++ ra ++ rb ++ fn
/-- Format RI; format BR has its fields in the same places. -/
def wordRI (op : BitVec 6) (rd ra : Reg) (imm : BitVec 16) : BitVec 32 := op ++ rd ++ ra ++ imm
/-- Format JP. -/
def wordJP (op : BitVec 6) (rd : Reg) (off : BitVec 21) : BitVec 32 := op ++ rd ++ off
/-- Format LP: K, ra, a reserved field, END. -/
def wordLP (op : BitVec 6) (k : BitVec 1) (ra : Reg) (rsv : BitVec 4) (fin : BitVec 16) : BitVec 32 := op ++ k ++ ra ++ rsv ++ fin
/-- Format VS: rd, ra, rb, VREG, a reserved field, VTYPE. -/
def wordVS (op : BitVec 6) (rd ra rb : Reg) (vreg : BitVec 1) (rsv : BitVec 4) (vtype : BitVec 6) : BitVec 32 :=
  op ++ rd ++ ra ++ rb ++ vreg ++ rsv ++ vtype
/-- Format CS: rd, ra, FN, CSR. -/
def wordCS (op : BitVec 6) (rd ra : Reg) (fn : BitVec 4) (csr : BitVec 12) : BitVec 32 := op ++ rd ++ ra ++ fn ++ csr
/-- Format VA. -/
def wordVA (op : BitVec 6) (f : VA) (fn : BitVec 5) : BitVec 32 :=
  op ++ f.vd ++ f.va ++ f.b ++ BitVec.ofBool f.s ++ BitVec.ofBool f.u ++ BitVec.ofBool f.src ++ f.ty ++ fn
/-- Format VM. -/
def wordVM (op : BitVec 6) (st : BitVec 1) (f : VM) : BitVec 32 :=
  op ++ f.v ++ f.ra ++ f.ro ++ st ++ BitVec.ofBool f.inc ++ BitVec.ofBool f.rsv8 ++ f.ty ++ f.rsv

/-- Field of so many bits from bit lo of a word. -/
def wordField (w : BitVec 32) (lo n : Nat) : BitVec n := w.extractLsb' lo n

/-- The fields of a VA word. -/
def fieldsVA (w : BitVec 32) : VA :=
  ⟨wordField w 21 5, wordField w 16 5, wordField w 11 5, w.getLsbD 10, w.getLsbD 9, w.getLsbD 8, wordField w 5 3⟩
/-- The fields of a VM word. -/
def fieldsVM (w : BitVec 32) : VM :=
  ⟨wordField w 21 5, wordField w 16 5, wordField w 11 5, w.getLsbD 9, w.getLsbD 8, wordField w 5 3, wordField w 0 5⟩

/-- Scalar register operations, by FN (OP 0x01). -/
def opRR (c : BitVec 11) : Option (Fin 512 → Reg → Reg → Reg → Instr) :=
  match c.toNat with
  | 0 => some .add
  | 1 => some .sub
  | 2 => some .andR
  | 3 => some .orR
  | 4 => some .xorR
  | 5 => some .sll
  | 6 => some .srl
  | 7 => some .sra
  | 8 => some .slt
  | 9 => some .sltu
  | 10 => some .mul
  | 11 => some .mulh
  | 12 => some .min
  | 13 => some .max
  | _ => none

/-- System instructions, by FN (OP 0x2C). -/
def opSY (c : BitVec 11) : Option (Fin 512 → Reg → Reg → Reg → Instr) :=
  match c.toNat with
  | 0 => some .fetch
  | 1 => some .postD
  | 2 => some .postT
  | 3 => some .done
  | 4 => some .fence
  | 5 => some .eret
  | 6 => some .brk
  | _ => none

/-- Immediates, loads, stores, branches and JALR, by OP. -/
def opRI (c : BitVec 6) : Option (Fin 512 → Reg → Reg → BitVec 16 → Instr) :=
  match c.toNat with
  | 2 => some .addi
  | 3 => some .andi
  | 4 => some .ori
  | 5 => some .xori
  | 7 => some .lui
  | 8 => some .slti
  | 9 => some .sltiu
  | 16 => some .ldB
  | 17 => some .ldH
  | 18 => some .ldW
  | 19 => some .ldD
  | 20 => some .ldBu
  | 21 => some .ldHu
  | 22 => some .ldWu
  | 24 => some .stB
  | 25 => some .stH
  | 26 => some .stW
  | 27 => some .stD
  | 39 => some .jalr
  | 32 => some .beq
  | 33 => some .bne
  | 34 => some .blt
  | 35 => some .bge
  | 36 => some .bltu
  | 37 => some .bgeu
  | _ => none

/-- Shift immediates (OP 0x06), by IMM[7:6]. -/
def opShift (c : BitVec 2) : Option (Fin 512 → Reg → Reg → BitVec 16 → Instr) :=
  match c.toNat with
  | 0 => some .slli
  | 1 => some .srli
  | 2 => some .srai
  | _ => none

/-- Vector multiply and MAC (OP 0x30), by FN. -/
def opMac (c : BitVec 5) : Option (Fin 512 → VA → Instr) :=
  match c.toNat with
  | 0 => some .vmul
  | 1 => some .vmulq
  | 2 => some .vmac
  | 3 => some .vmacw
  | 4 => some .vcmul
  | 5 => some .vcmacw
  | 6 => some .vcmacjw
  | 7 => some .vcmac
  | _ => none

/-- Vector ALU (OP 0x31), by FN. -/
def opAlu (c : BitVec 5) : Option (Fin 512 → VA → Instr) :=
  match c.toNat with
  | 0 => some .vadd
  | 1 => some .vsub
  | 2 => some .vand
  | 3 => some .vor
  | 4 => some .vxor
  | 5 => some .vbsl
  | 6 => some .vshl
  | 7 => some .vshr
  | 8 => some .vnshr
  | 9 => some .vmax
  | 10 => some .vmin
  | 11 => some .vcmpeq
  | 12 => some .vcmplt
  | 13 => some .vcmple
  | 14 => some .vconj
  | 15 => some .vneg
  | 16 => some .vcvtw
  | 17 => some .vcvtn
  | 18 => some .vmov
  | _ => none

/-- Permute and reduce (OP 0x32), by FN. -/
def opPru (c : BitVec 5) : Option (Fin 512 → VA → Instr) :=
  match c.toNat with
  | 0 => some .vslidedn
  | 1 => some .vslideup
  | 2 => some .vperm
  | 3 => some .vzip
  | 4 => some .vunzip
  | 5 => some .vredsum
  | 6 => some .vmaxi
  | 7 => some .vmini
  | _ => none

/-- The instruction that a word spells on a tile, none for a reserved opcode or function code (R165, table Major opcodes). -/
def decodePsimir (t : Fin 512) (w : BitVec 32) : Option Instr :=
  let rd := wordField w 21 5
  let ra := wordField w 16 5
  let rb := wordField w 11 5
  let imm := wordField w 0 16
  match (wordField w 26 6).toNat with
  | 0x01 => (opRR (wordField w 0 11)).map (fun f => f t rd ra rb)
  | 0x06 => (opShift (wordField w 6 2)).map (fun f => f t rd ra imm)
  | 0x26 => some (.jal t rd (wordField w 0 21))
  | 0x28 =>
    if w.getLsbD 25 then some (.loop1 t (wordField w 20 5) (wordField w 16 4) imm)
    else some (.loop0 t (wordField w 20 5) (wordField w 16 4) imm)
  | 0x2C => (opSY (wordField w 0 11)).map (fun f => f t rd ra rb)
  | 0x2D =>
    match (wordField w 12 4).toNat with
    | 0 => some (.csrr t rd ra (wordField w 0 12))
    | 1 => some (.csrw t rd ra (wordField w 0 12))
    | _ => none
  | 0x2E =>
    if w.getLsbD 10 then some (.vsetvlr t rd ra rb (wordField w 6 4) (wordField w 0 6))
    else some (.vsetvl t rd ra rb (wordField w 6 4) (wordField w 0 6))
  | 0x30 => (opMac (wordField w 0 5)).map (fun f => f t (fieldsVA w))
  | 0x31 => (opAlu (wordField w 0 5)).map (fun f => f t (fieldsVA w))
  | 0x32 => (opPru (wordField w 0 5)).map (fun f => f t (fieldsVA w))
  | 0x34 => if w.getLsbD 10 then some (.vst t (fieldsVM w)) else some (.vld t (fieldsVM w))
  | _ => (opRI (wordField w 26 6)).map (fun f => f t rd ra imm)

/-- The tile and the word of a command that is a Psimir instruction; none for every other command. -/
def encodePsimir (i : Instr) : Option (Fin 512 × BitVec 32) :=
  match i with
  | .add t rd ra rb => some (t, wordRR 0x01 rd ra rb 0)
  | .sub t rd ra rb => some (t, wordRR 0x01 rd ra rb 1)
  | .andR t rd ra rb => some (t, wordRR 0x01 rd ra rb 2)
  | .orR t rd ra rb => some (t, wordRR 0x01 rd ra rb 3)
  | .xorR t rd ra rb => some (t, wordRR 0x01 rd ra rb 4)
  | .sll t rd ra rb => some (t, wordRR 0x01 rd ra rb 5)
  | .srl t rd ra rb => some (t, wordRR 0x01 rd ra rb 6)
  | .sra t rd ra rb => some (t, wordRR 0x01 rd ra rb 7)
  | .slt t rd ra rb => some (t, wordRR 0x01 rd ra rb 8)
  | .sltu t rd ra rb => some (t, wordRR 0x01 rd ra rb 9)
  | .mul t rd ra rb => some (t, wordRR 0x01 rd ra rb 10)
  | .mulh t rd ra rb => some (t, wordRR 0x01 rd ra rb 11)
  | .min t rd ra rb => some (t, wordRR 0x01 rd ra rb 12)
  | .max t rd ra rb => some (t, wordRR 0x01 rd ra rb 13)
  | .addi t rd ra imm => some (t, wordRI 2 rd ra imm)
  | .andi t rd ra imm => some (t, wordRI 3 rd ra imm)
  | .ori t rd ra imm => some (t, wordRI 4 rd ra imm)
  | .xori t rd ra imm => some (t, wordRI 5 rd ra imm)
  | .lui t rd ra imm => some (t, wordRI 7 rd ra imm)
  | .slti t rd ra imm => some (t, wordRI 8 rd ra imm)
  | .sltiu t rd ra imm => some (t, wordRI 9 rd ra imm)
  | .ldB t rd ra imm => some (t, wordRI 16 rd ra imm)
  | .ldH t rd ra imm => some (t, wordRI 17 rd ra imm)
  | .ldW t rd ra imm => some (t, wordRI 18 rd ra imm)
  | .ldD t rd ra imm => some (t, wordRI 19 rd ra imm)
  | .ldBu t rd ra imm => some (t, wordRI 20 rd ra imm)
  | .ldHu t rd ra imm => some (t, wordRI 21 rd ra imm)
  | .ldWu t rd ra imm => some (t, wordRI 22 rd ra imm)
  | .stB t rd ra imm => some (t, wordRI 24 rd ra imm)
  | .stH t rd ra imm => some (t, wordRI 25 rd ra imm)
  | .stW t rd ra imm => some (t, wordRI 26 rd ra imm)
  | .stD t rd ra imm => some (t, wordRI 27 rd ra imm)
  | .jalr t rd ra imm => some (t, wordRI 39 rd ra imm)
  | .slli t rd ra imm => some (t, wordRI 0x06 rd ra imm)
  | .srli t rd ra imm => some (t, wordRI 0x06 rd ra imm)
  | .srai t rd ra imm => some (t, wordRI 0x06 rd ra imm)
  | .beq t ra rb off => some (t, wordRI 32 ra rb off)
  | .bne t ra rb off => some (t, wordRI 33 ra rb off)
  | .blt t ra rb off => some (t, wordRI 34 ra rb off)
  | .bge t ra rb off => some (t, wordRI 35 ra rb off)
  | .bltu t ra rb off => some (t, wordRI 36 ra rb off)
  | .bgeu t ra rb off => some (t, wordRI 37 ra rb off)
  | .jal t rd off => some (t, wordJP 0x26 rd off)
  | .loop0 t ra rsv fin => some (t, wordLP 0x28 0 ra rsv fin)
  | .loop1 t ra rsv fin => some (t, wordLP 0x28 1 ra rsv fin)
  | .fetch t rd ra rb => some (t, wordRR 0x2C rd ra rb 0)
  | .postD t rd ra rb => some (t, wordRR 0x2C rd ra rb 1)
  | .postT t rd ra rb => some (t, wordRR 0x2C rd ra rb 2)
  | .done t rd ra rb => some (t, wordRR 0x2C rd ra rb 3)
  | .fence t rd ra rb => some (t, wordRR 0x2C rd ra rb 4)
  | .eret t rd ra rb => some (t, wordRR 0x2C rd ra rb 5)
  | .brk t rd ra rb => some (t, wordRR 0x2C rd ra rb 6)
  | .csrr t rd ra csr => some (t, wordCS 0x2D rd ra 0 csr)
  | .csrw t rd ra csr => some (t, wordCS 0x2D rd ra 1 csr)
  | .vsetvl t rd ra rb rsv vtype => some (t, wordVS 0x2E rd ra rb 0 rsv vtype)
  | .vsetvlr t rd ra rb rsv vtype => some (t, wordVS 0x2E rd ra rb 1 rsv vtype)
  | .vmul t f => some (t, wordVA 0x30 f 0)
  | .vmulq t f => some (t, wordVA 0x30 f 1)
  | .vmac t f => some (t, wordVA 0x30 f 2)
  | .vmacw t f => some (t, wordVA 0x30 f 3)
  | .vcmul t f => some (t, wordVA 0x30 f 4)
  | .vcmacw t f => some (t, wordVA 0x30 f 5)
  | .vcmacjw t f => some (t, wordVA 0x30 f 6)
  | .vcmac t f => some (t, wordVA 0x30 f 7)
  | .vadd t f => some (t, wordVA 0x31 f 0)
  | .vsub t f => some (t, wordVA 0x31 f 1)
  | .vand t f => some (t, wordVA 0x31 f 2)
  | .vor t f => some (t, wordVA 0x31 f 3)
  | .vxor t f => some (t, wordVA 0x31 f 4)
  | .vbsl t f => some (t, wordVA 0x31 f 5)
  | .vshl t f => some (t, wordVA 0x31 f 6)
  | .vshr t f => some (t, wordVA 0x31 f 7)
  | .vnshr t f => some (t, wordVA 0x31 f 8)
  | .vmax t f => some (t, wordVA 0x31 f 9)
  | .vmin t f => some (t, wordVA 0x31 f 10)
  | .vcmpeq t f => some (t, wordVA 0x31 f 11)
  | .vcmplt t f => some (t, wordVA 0x31 f 12)
  | .vcmple t f => some (t, wordVA 0x31 f 13)
  | .vconj t f => some (t, wordVA 0x31 f 14)
  | .vneg t f => some (t, wordVA 0x31 f 15)
  | .vcvtw t f => some (t, wordVA 0x31 f 16)
  | .vcvtn t f => some (t, wordVA 0x31 f 17)
  | .vmov t f => some (t, wordVA 0x31 f 18)
  | .vslidedn t f => some (t, wordVA 0x32 f 0)
  | .vslideup t f => some (t, wordVA 0x32 f 1)
  | .vperm t f => some (t, wordVA 0x32 f 2)
  | .vzip t f => some (t, wordVA 0x32 f 3)
  | .vunzip t f => some (t, wordVA 0x32 f 4)
  | .vredsum t f => some (t, wordVA 0x32 f 5)
  | .vmaxi t f => some (t, wordVA 0x32 f 6)
  | .vmini t f => some (t, wordVA 0x32 f 7)
  | .vld t f => some (t, wordVM 0x34 0 f)
  | .vst t f => some (t, wordVM 0x34 1 f)
  | _ => none

end Sys2Proof
end

