-- ==== Sys2Proof/Config.lean ====
section
/-!
DEFINITION. Config.lean: what one part fixes for good (its fuses, its ordering code) and the free values: results the
spec leaves open. Every constant here is opaque: nothing can be proved about its value.
-/
namespace Sys2Proof.Machine

/-- The n-th free value the part draws; `State.free` counts the draws. -/
opaque Config.freeValue : Nat → Nat
/-- Ordering code: true for BT9512-E, false for BT9512-C (R2). -/
opaque Config.gradeE : Bool
/-- Fused identity (R577). -/
opaque Config.idSerial : BitVec 64
opaque Config.idLot : BitVec 64
opaque Config.idMgmtMac : BitVec 48
/-- Whether the identity key has been programmed, and byte i of its 57 bytes (R577). -/
opaque Config.keyFused : Bool
opaque Config.idPrivate : Nat → BitVec 8
/-- Spare rows and columns of a protection class (R407). -/
opaque Config.spares : Nat → BitVec 32
/-- The root island's dialect window (R439). -/
opaque Config.rootDialect : BitVec 32
/-- First dialect of an entry (R411, R427), by key. -/
opaque Config.firstDialect : Nat → Nat

/-- Fraction bits of the averages of R106. -/
opaque Config.avgFrac : Nat

/-- What an accelerator's arithmetic answers where the spec bounds or names it and does not give every bit: a function of the
operation, its parameters and its inputs (R260). -/
opaque Config.accelValue : List Nat → Nat
/-- The shift of a base graph's entry under TS 38.212 clause 5.3.2: base graph, lifting size, row and column; none where the
entry is zero. -/
opaque Config.baseGraph : Nat → Nat → Nat → Nat → Option Nat
/-- The parameters f1 and f2 of the turbo interleaver of TS 36.212 table 5.1.3-3, by K. -/
opaque Config.qpp : Nat → Nat × Nat
/-- The phase, in eighths of a turn, of value n of the short low-PAPR sequences of TS 38.211 clause 5.2.2.2: length, group, n. -/
opaque Config.basePhase : Nat → Nat → Nat → Int
/-- The polar sequence of TS 38.212 table 5.3.1.2-1: the bit index at each rank of reliability. -/
opaque Config.polarOrder : Nat → Nat
/-- The input interleaving pattern of TS 38.212 table 5.3.1.1-1. -/
opaque Config.polarInput : Nat → Nat
/-- The path metric that a polar record reports, in internal units, of a metric in units of the input LLRs. -/
opaque Config.polarMetric : Nat → BitVec 32

/-- The source address of the frames a MAC builds itself. -/
opaque Config.srcAddr : Nat → BitVec 48

/-! The flow engine's formats that the spec names and does not lay out (R315, R320, R323 to R330) -/

/-- Field i of a context image: of its header, and what else of it the procedures take. -/
opaque Config.ctxField : Nat → List (BitVec 8) → Nat
/-- Byte i of a context: from its header and keys as software wrote them, and its fields. -/
opaque Config.ctxByte : List (BitVec 8) → List Nat → Nat → BitVec 8
/-- Byte i of the 64 B header of an exception record: reason, context fields, LEN and TRUNC. -/
opaque Config.excByte : List Nat → Nat → BitVec 8
/-- The length of a MAC CE that has no length field, by standard (true for LTE) and LCID. -/
opaque Config.ceLen : Bool → Nat → Option Nat
/-- The S-boxes S0 and S1 of ZUC. -/
opaque Config.zucSbox : Nat → Nat → BitVec 8

/-! Terrier's and the recorder's -/

/-- The signature that the root ROM holds for the Terrier program (R507). -/
opaque Config.terrierSig : BitVec 64
/-- What an ACCEL segment writes in TER_SCRATCH: the unit's number in its pack, a draw. -/
opaque Config.terrierData : Nat → Nat → List (BitVec 8)
/-- Blocks of 4 KiB of the dictionary shadow. -/
opaque Config.shadowBlocks : Nat
/-- `EVR_STAT` [63:16] while the ring holds no record. -/
opaque Config.ringEmpty : Nat

/-- Whether the reference clock of an octet is present at its balls (`LN_On_STAT` REF_OK). -/
opaque Config.sdrefPresent : Nat → Bool

/-- Bytes of the boot flash. -/
opaque Config.flashSize : Nat

end Sys2Proof.Machine
end

