-- ==== Sys2Proof/Machine/State.lean ====
section
/-!
DEFINITION. State.lean: everything the spec gives the part, as plain data. Dictionary entries are held by
their index and subindex in `od` (R411: every control and status item is an entry); the structures below
hold what is not an entry: core registers, Kennel's stores, queues, and work in progress.
-/
namespace Sys2Proof.Machine

/-- No step of this model faults: every refusal and error the spec describes is an effect on the state. -/
inductive Fault where
deriving DecidableEq, Repr

/-- Reasons a command has no meaning in the model. -/
inductive Refusal where
  /-- Raised by exec for a row not modelled yet; safe (nothing can be proved about its effect). -/
  | notModelled (mnemonic : String)
deriving DecidableEq, Repr

/-- Answer codes of the dictionary (table Status codes, R423). -/
inductive Status where
  | ok | noObject | access | range | busy | token | dialect | session | full | malformed | nvFail | auth
deriving DecidableEq, Repr

/-- What the last command with a requester answered: the Enber response, the value of a window load, the
bytes of a memory read, an access fault, or nothing. The model's own view of the part's outputs. -/
inductive Reply where
  | none
  | status (st : Status)
  | value (v : U64)
  | bytes (b : List Byte) (poisoned : Bool)
  | fault
  | stalled
  | enber (session : BitVec 32) (st : Status) (target : Obj) (count : Nat) (values : List U64) (raw : List Byte) (tagged : Bool)
deriving DecidableEq, Repr

/-- A raw value and the TIME128 that belongs to it (R59, R73); the time in units of 2^-32 ns. -/
structure Cap where
  raw : U64
  time : Nat
deriving DecidableEq, Repr

/-- A registered timebase write that waits for its tick (R54, R56, R57). -/
inductive TbWrite where
  | rate (v : U64)
  | offset (sec : Option U64) (ns : U64)
  | step (v : U64)
deriving DecidableEq, Repr

/-- A 64-byte task descriptor (R77). -/
structure Desc where
  w0 : U64
  w1 : U64
  w2 : U64
  a0 : U64
  a1 : U64
  a2 : U64
  a3 : U64
  a4 : U64
deriving DecidableEq, Repr

/-- A 16-byte operand token (R83). -/
structure Token where
  w0 : U64
  value : U64
deriving DecidableEq, Repr

/-- Where the result of a descriptor's submission goes (R80, R154, R193, R239, R545); a plan row that is forwarded takes its START
token to the handle that comes back (R115, R119). -/
inductive RetTo where
  | none
  | tileReg (t : Nat) (rd : Reg)
  | portEntry (c : Nat) (e : Nat)
  | lane (e : Nat) (lane : Nat) (bseq : Nat) (watch : Nat)
  | remote (g : Nat)
  | startOf (pack : Nat) (part : Nat) (value : U64)
deriving DecidableEq, Repr

/-- An item in a producer's queue toward Kennel (R103). -/
inductive Item where
  | desc (d : Desc) (ret : RetTo) (part : Nat)
  | token (t : Token) (part : Nat) (ret : RetTo)
  /-- A return token of Kennel's own that follows the tokens its unit sent before (R256); it takes no credit. -/
  | back (t : Token) (part : Nat)
deriving DecidableEq, Repr

/-- States of a matching-store entry (R88). -/
inductive EState where
  | free | waiting | ready | running | held
deriving DecidableEq, Repr

/-- One matching-store entry (R88): descriptor, filled operand slots, ordering and dispatch data. -/
structure Entry where
  st : EState
  gen : BitVec 12
  desc : Desc
  slots : Tab Token
  seq : Nat
  readyNo : Nat
  readyRaw : Nat
  unit : Nat
  probe : Bool
  heldTokens : List Token
  status : Byte
  plan : Option (Nat × Nat × Nat)
  part : Nat
  dispatchRaw : Nat
  /-- The Gelpel port that a descriptor from afar came by (R119). -/
  origin : Option Nat
deriving DecidableEq, Repr

/-- A descriptor waiting at its producer for room (R104). -/
structure Deferred where
  src : Producer
  desc : Desc
  ret : RetTo
  part : Nat
deriving DecidableEq, Repr

/-- Moving average of service time (R106): value and number of tasks. -/
structure Avg where
  avg : Nat
  n : Nat
deriving DecidableEq, Repr

/-- One Kennel instance (R88 to R118). -/
structure Kennel where
  entries : Tab Entry
  domNext : Tab Nat
  readyNo : Nat
  dispatchNo : Nat
  waiting : List Deferred
  avg : Tab Avg
  median : Tab Nat
deriving DecidableEq, Repr

/-- A slot of a carrier: its sequence number, its instant and whether it failed (R115, R117, R368). -/
structure SlotRec where
  seq : Nat
  time : Nat
  failed : Bool
deriving DecidableEq, Repr

/-- A carrier's slot sequence (R115), its last 16 slots, latest first, and whether a handover has moved it (R539). -/
structure Carrier where
  seq : Nat
  slots : List SlotRec
  moved : Bool
deriving DecidableEq, Repr

/-- Run states of a Psimir tile (`PX_Tt_STAT`). -/
inductive TileState where
  | reset | running | fetchWait | postStall | halted | trapped
deriving DecidableEq, Repr

/-- A Psimir tile (R121 to R164). -/
structure Tile where
  st : TileState
  pc : BitVec 32
  s : Tab U64
  v : Tab (BitVec 2048)
  lc0 : BitVec 32
  lb0 : BitVec 32
  le0 : BitVec 32
  lc1 : BitVec 32
  lb1 : BitVec 32
  le1 : BitVec 32
  vl : BitVec 16
  vtype : Byte
  vstart : BitVec 16
  sat : Bool
  poison : Bool
  paddr : BitVec 32
  status : Byte
  cause : U64
  epc : BitVec 32
  eval : BitVec 32
  tvec : BitVec 32
  waddr : BitVec 32
  wmask : BitVec 32
  wctl : Byte
  ipend : Byte
  cycle : U64
  resumed : Bool
  haltedFrom : TileState
  fetchRd : Reg
  blockedAt : Nat
  task : Option (Nat × Nat)
  fetchedAt : Nat
  lastRecv : Nat
  pendingD : List (Reg × Option U64)
  stalledPost : Option Item
deriving DecidableEq, Repr

/-- A control core, as far as the spec describes it (R523, R479, R464). -/
structure Core where
  running : Bool
  stopped : Bool
  pc : U64
  mode : PrivMode
  a0 : U64
  a1 : U64
  a2 : U64
deriving DecidableEq, Repr

/-- The ring pointers of a control core's port page (R194); entries, results and frames lie in its memory. -/
structure Port where
  head : BitVec 7
  tail : BitVec 7
deriving DecidableEq, Repr

/-- A running occurrence of a live-table row with the values latched at its begin (R33). -/
structure Occ where
  row : Nat
  words : List U64
  startRaw : Nat
  time : Nat
deriving DecidableEq, Repr

/-- What a live table holds besides its rows and control word (R34 to R43): the computed time from which a row's begins count,
by row after a direct write (R38), and for every row after a swap (R34). -/
structure Live where
  armedAt : Nat
  deferred : Tab (Tab U64)
  occ : List Occ
  barred : Tab Nat
  since : Nat
deriving DecidableEq, Repr

/-- A slot-start instant that has fired and waits for Kennel (R64, R115): carrier, trigger unit, row, computed time. -/
structure SlotDue where
  carrier : Nat
  unit : Nat
  row : Nat
  time : Nat
deriving DecidableEq, Repr

/-- A trigger unit's progress (R62, R68 to R71): first cycle allowed, next unfired cycle per row. -/
structure Trig where
  first : Nat
  next : Tab Nat
deriving DecidableEq, Repr

/-- What a DMA read transfer is for: element data, the index table, the descriptor at CUR, the next descriptor, word 3
again (R207 to R212). -/
inductive ReadFor where
  | data | table | fetch | ahead | tail
deriving DecidableEq, Repr

/-- A transfer a DMA channel has issued (R204 to R206): what for, its element, its place among the descriptor's bytes, its address and
length, a write's bytes with their markings, the raw value at its issue, and whether it has been reissued. -/
structure Xfer where
  kind : ReadFor
  elem : Nat
  pos : Nat
  addr : Nat
  len : Nat
  data : List (Byte × Bool)
  since : Nat
  again : Bool
deriving DecidableEq, Repr

/-- An error that ends a descriptor: CODE, ELEM_IDX, ERR_ADDR, whether a write failed, and the place of a failed read among the
descriptor's bytes (R219, R220). -/
structure DmaFail where
  code : Nat
  elem : Nat
  addr : Nat
  write : Bool
  pos : Nat
deriving DecidableEq, Repr

/-- A DMA channel's work in progress (R203 to R224); its status words are entries. `ahead` is the next descriptor read early, with
whether a byte of it was marked and the error that its read met; `need` is a read to be issued; `skip` the elements or bytes a RETRY
leaves out; `rpos` and `wpos` count the bytes read and written from the descriptor's first, and `buf` holds those read and not written,
by place; `poison` says that a byte read for the descriptor was marked, `done` that the descriptor has completed; `after` is a RESUME
whose token waits for a credit: its ACTION and CODE; `pollRaw` is the tick at which TAIL_WAIT began or the poll last read word 3. -/
structure Chan where
  words : List U64
  ahead : List U64
  aheadMark : Bool
  aheadBad : Option DmaFail
  need : Option ReadFor
  skip : Nat
  tab : List Byte
  tabAt : Nat
  rpos : Nat
  wpos : Nat
  buf : Tab (Byte × Bool)
  reads : List Xfer
  writes : List Xfer
  poison : Bool
  fail : Option DmaFail
  stop : Bool
  done : Bool
  after : Option (Nat × Nat)
  pollRaw : Nat
deriving DecidableEq, Repr

/-- A DMA engine's round-robin memory (R204). -/
structure Engine where
  lastRead : Nat
  lastWrite : Nat
deriving DecidableEq, Repr

/-- A transfer in progress at a Leash point. -/
structure Owner where
  r : Nat
  classD : Bool
  beat : Nat
  beats : Nat
deriving DecidableEq, Repr

/-- A Leash point (R195 to R202). -/
structure Point where
  owner : Option Owner
  lastD : Nat
  turn : Nat
  used : Nat
  reqs : List LeashReq
  loss : Tab Nat
deriving DecidableEq, Repr

/-- An open occasion of a Hound watch (R232, R236, R248): its begin; by stream slot the samples received up to the last energy window;
the begins of the intervals in which a window triggered, with LE; and a SENSE procedure: n, whether it senses a defer duration, the
idle slots of it, the next sensing slot in µs from the begin, and for the last µs measured, newest first, whether the 4 µs window from
there lies below ED_THR in each stream. -/
structure HoundOcc where
  time : Nat
  upto : Tab Nat
  trigs : List (Nat × Int)
  n : Nat
  inDefer : Bool
  deferSlots : Nat
  slot : Nat
  meas : List (List Bool)
  measN : Nat
deriving DecidableEq, Repr

/-- A Hound watch between commands (R228 to R251): its open occasions, by occasion number the begin from which none has been used, the
floor LF in 1/256 units with its seed, the run of triggered windows of R235 with the intervals of its first and last window, the
contention window and the draws made at CWmax. -/
structure Watch where
  runs : List HoundOcc
  nextBegin : Tab Nat
  lf : Int
  seeded : Bool
  seedN : Nat
  seedSum : Int
  escN : Nat
  escSum : Int
  escFrom : Nat
  escTo : Nat
  cw : Nat
  maxDraws : Nat
deriving DecidableEq, Repr

/-- A Hound burst lane (R239 to R243): `start` is the begin of its burst, `perSym` the samples that arrived in its first symbol. -/
structure Lane where
  isOpen : Bool
  watch : Nat
  ref : Nat
  lag : Nat
  st : Int
  bseq : Nat
  handle : Option (BitVec 32)
  syms : Nat
  samples : Nat
  fades : Nat
  order : Nat
  gap : Bool
  latched : List U64
  winEnd : Nat
  start : Nat
  fadeDue : Bool
  perSym : Nat
deriving DecidableEq, Repr

/-- A token that waits in a Hound engine (R241): its lane (16 for a SENSE result), its burst, its watch, whether its handle is still
awaited. -/
structure HoundTok where
  lane : Nat
  bseq : Nat
  watch : Nat
  waiting : Bool
  tok : Token
deriving DecidableEq, Repr

/-- A stream slot of a Hound engine (R227): the samples received so far, the time up to which the source has delivered, and the delay
line of the last 8,192 samples, oldest first, each with its timestamp; none is a sample that the source did not deliver. -/
structure DelayLine where
  count : Nat
  till : Nat
  xs : List (Nat × Option C16)
deriving DecidableEq, Repr

/-- A Hound engine (R226 to R252); `templates` are the descriptors that wait for a credit. -/
structure Hound where
  watches : Tab Watch
  lanes : Tab Lane
  bseq : Nat
  order : Nat
  tokens : List HoundTok
  lines : Tab DelayLine
  templates : List Item
deriving DecidableEq, Repr

/-- An accelerator job that has run and waits for its completion (R256, R282): its entry, its STATUS, SATN or RESULT, the
marking of its token, the DEGENERATE groups and the ACLK cycles it takes. -/
structure Job where
  pack : Nat
  entry : Nat
  status : Nat
  result : Nat
  poison : Bool
  degenerate : Nat
  cycles : Nat
deriving DecidableEq, Repr

/-- A symbol that transmit shaping has judged (R276): its slot, counted from the frame reference, its number, whether it is on, what left. -/
structure Shaped where
  slot : Nat
  symbol : Nat
  isOn : Bool
  out : List C16
deriving DecidableEq, Repr

/-- Transmit shaping of one stream of a carrier between symbols (R275 to R280): whether its last symbol was on, the useful
part of that symbol, the air time of its end, and the last symbols judged, latest first. -/
structure Tx where
  lastOn : Bool
  useful : List C16
  endAir : Nat
  hist : List Shaped
deriving DecidableEq, Repr

/-- A check of a PA-enable pin that is due at an air time (R280): carrier, moment, time. -/
structure PaCheck where
  carrier : Nat
  moment : Nat
  time : Nat
deriving DecidableEq, Repr

/-- An iteration-bank instance (R298). -/
structure Bank where
  seq : Nat
  isOpen : Bool
  owed : Nat
  decl : Nat
  left : Nat
  close : Nat
  /-- IT_FAIR of `CD_BANK_CFG` and `CD_BANK_GU` as they stood at the reopening. -/
  fair : Nat
  gu : U64
deriving DecidableEq, Repr

/-- What a codeblock's decoding leaves (table Decode result record): status, iterations, unsatisfied checks, erased LLRs, flags, cycles
drawn, payload. -/
structure CbOut where
  status : Nat
  iters : Nat
  w : Nat
  erased : Nat
  flags : Nat
  drawn : Nat
  bits : Option (List Bool)
deriving DecidableEq, Repr

/-- A HARQ slot as it was read (R295): whether its LLRs are used, the LLRs, how many were erased, XCNT, the flags. -/
structure HarqIn where
  used : Bool
  llrs : List Int
  erased : Nat
  xcnt : Nat
  flags : Nat
deriving DecidableEq, Repr

/-- A codeblock under decode: the slot read, erased LLRs of the transmission, the combined buffer, the decoder's values and messages,
hard decisions, iterations run, their weights (latest first), cycles drawn. -/
structure CbRun where
  harq : HarqIn
  erased : Nat
  comb : List Int
  vals : List Int
  msgs : Tab (List Int)
  bits : List Bool
  k : Nat
  ws : List Nat
  drawn : Nat
deriving DecidableEq, Repr

/-- A DECODE job between two of its draws (R300, R302, R303): its task, parameter block, LLRs and which of them are erased, whether it
runs on a bank, whether the bank is stale, the codeblock under decode, those ended, cycles so far. -/
structure DecodeJob where
  pack : Nat
  entry : Nat
  block : List Byte
  llrs : List Byte
  gone : List Bool
  banked : Bool
  stale : Bool
  cur : Option CbRun
  outs : List CbOut
  cycles : Nat
deriving DecidableEq, Repr

/-- States of a flow context (R320). -/
inductive FlowState where
  | free | opened | closing | failed
deriving DecidableEq, Repr

/-- Header fields of a context (R320): named by the spec or by the procedures that it names, their bit places are not given. The
timers' values are in ms. -/
structure FlowHdr where
  owner : Nat
  carrier : Nat
  ue : Nat
  lcid : Nat
  lte : Bool
  am : Bool
  pdcpSn : Nat
  rlcSn : Nat
  cipher : Nat
  integrity : Nat
  bearer : Nat
  sdapUl : Bool
  sdapDl : Bool
  rqi : Bool
  rdi : Bool
  localTeid : BitVec 32
  remoteTeid : BitVec 32
  qfi : Nat
  peer : Nat
  pool : Nat
  qlimit : Nat
  msReordering : Nat
  msPoll : Nat
  msReassembly : Nat
  msProhibit : Nat
  pollPdu : Nat
  pollByte : Nat
deriving DecidableEq, Repr

/-- A downlink SDU, or a part of one, in buffers of a partition's pool (R322): the bytes of its PDCP PDU, those that the RLC PDU of its
sequence number carries, those still to be sent, the sequence number, and how often it has been sent again. -/
structure Sdu where
  pool : Nat
  bufs : List Nat
  total : Nat
  base : Nat
  stop : Nat
  pos : Nat
  upto : Nat
  sn : Nat
  tries : Nat
deriving DecidableEq, Repr

/-- A received RLC data PDU or segment of one: its sequence number, its offset, whether it is the last, whether an SDU begins with it,
and its bytes, each with whether an SDU ends there. -/
structure RlcSeg where
  sn : Nat
  so : Nat
  last : Bool
  starts : Bool
  data : List (Byte × Bool)
deriving DecidableEq, Repr

/-- A Class B receiver (R341, R342, R349): the last line bit and its run, whether a stuff bit is expected, the descrambler's last 58 bits,
latest first, and how many bits of a word it has delivered since the receive word boundary. -/
structure LineRx where
  last : Option Bool
  run : Nat
  expect : Bool
  hist : List Bool
  pos : Nat
deriving DecidableEq, Repr

/-- A flow context (R320 to R333). `image` holds the header as software wrote it, `closeRing` the ring whose FLOW_CLOSE waits. Timers
that run hold the raw time of their start. -/
structure Flow where
  st : FlowState
  hdr : FlowHdr
  image : List Byte
  keys : List Byte
  nextKeys : List Byte
  nextCount : Nat
  rekeyed : Bool
  txNext : Nat
  rxNext : Nat
  rxDeliv : Nat
  rxReord : Nat
  reorder : List (Nat × List Byte)
  rlcTxNext : Nat
  txNextAck : Nat
  pollSn : Nat
  pduNoPoll : Nat
  byteNoPoll : Nat
  unacked : List Sdu
  retx : List Sdu
  queue : List Sdu
  statusDue : Bool
  pollWait : List Nat
  rlcRxNext : Nat
  rxHighest : Nat
  rxTrigger : Nat
  rxStatus : Nat
  rlcSegs : List RlcSeg
  rlcDone : List Nat
  held : List RlcSeg
  part : Option (List Byte)
  tReordering : Option Nat
  tPoll : Option Nat
  tReassembly : Option Nat
  tProhibit : Option Nat
  countHigh : Bool
  closeRing : Option Nat
  pktsUl : Nat
  bytesUl : Nat
  pktsDl : Nat
  bytesDl : Nat
  drops : Tab Nat
deriving DecidableEq, Repr

/-- An Ethernet frame waiting in an egress queue (R362), without its FCS: the HTX descriptor it came from, ONESTEP, TS_REQ, the
framer's stream and symbol (R375), a delay Request of the MAC itself (R382), the raw ingress time of a transparent clock
(R386) in eighths of a tick, and since when it has been at the head (R363). -/
structure TxFrame where
  bytes : List Byte
  ring : Option Nat
  onestep : Bool
  ts : Bool
  fh : Option (Nat × Nat)
  dly : Bool
  rawIn : Option Nat
  headSince : Nat
deriving DecidableEq, Repr

/-- A frame in a MAC's receive FIFO (R356): its bytes, whether its FCS verifies, the raw instant of its first byte in eighths of a
tick and its receive timestamp. -/
structure HeldFrame where
  bytes : List Byte
  fcsOk : Bool
  raw : Nat
  time : Nat
deriving DecidableEq, Repr

/-- A MAC's queues and work in progress: egress queues, frames sent (the model's own view), the first gate cycle (R365) and the
next cycle by row, the end of the frame being sent, HTX descriptors taken and those done before CONS, G-PDU frames for the
flow engine (R328), the delay measurement and the raw time of its Request (R382), and the receive FIFO: the frames that stand behind
a framer without a credit, oldest first (R356). -/
structure Mac where
  queues : Tab (List TxFrame)
  sent : List (List Byte)
  gclFrom : Nat
  gclNext : Tab Nat
  txEnd : Nat
  htxTaken : Nat
  htxDone : List Nat
  flowIn : List (List Byte)
  dlyBusy : Bool
  dlyId : Nat
  dlyRaw : Nat
  fifo : List HeldFrame
deriving DecidableEq, Repr

/-- A symbol window of a fronthaul stream that is open (R369): symbol, slot sequence, slot in the frame, SFN, instant. -/
structure Win where
  l : Nat
  seq : Nat
  slot : Nat
  sfn : Nat
  at_ : Nat
deriving DecidableEq, Repr

/-- A token of a stream's group that is due (R374): slot sequence, group, ERR. -/
structure FhDue where
  seq : Nat
  group : Nat
  err : Bool
deriving DecidableEq, Repr

/-- A fronthaul stream's progress (R368 to R376): eCPRI sequence numbers, open windows, windows closed lately and when, what has been
received by symbol, tokens due, groups done lately. -/
structure Stream where
  rxSeq : Option Nat
  txSeq : Nat
  wins : List Win
  closed : List (Win × Nat)
  got : Tab Nat
  due : List FhDue
  done : List Nat
deriving DecidableEq, Repr

/-- A write of MRAM that waits for the end of a supply warning (R190, R410): a remap addition, a commit of the device's own, bytes that
the root island stores. -/
inductive MramWait where
  | remap (c unit addr : Nat)
  | image (es : List (Nat × U64))
  | data (a : Nat) (bs : List Byte)
deriving DecidableEq, Repr

/-- What the root island writes to the UART (R561): a boot phase, HOLD_CAUSE. -/
inductive UartWord where
  | phase (x : Nat)
  | holdCause (c : Nat)
deriving DecidableEq, Repr

/-- The last hyperframe a CPRI link sent (R379 to R381), the model's own view: its number, its control words, none for those
the framer generates, and the samples of each container. -/
structure CpriTx where
  number : Nat
  control : List (Option (List Byte))
  samples : List (Nat × List C16)
deriving DecidableEq, Repr

/-- A learned address (R360). -/
structure Fdb where
  port : Nat
  learnedRaw : Nat
deriving DecidableEq, Repr

/-- A merge entry of a memory port (R398). -/
structure Merge where
  port : Nat
  requester : Nat
  block : Nat
  bits : Tab Bool
  mask : Tab Bool
  lastRaw : Nat
  marked : Bool
deriving DecidableEq, Repr

/-- A subscription (R442). -/
structure Sub where
  mode : Byte
  period : Nat
  target : Obj
  count : Nat
  last : List U64
  sentRaw : Nat
  sampleRaw : Nat
deriving DecidableEq, Repr

/-- Roles of a session (R433). -/
inductive Role where
  | reader | part (p : Fin 8) | admin
deriving DecidableEq, Repr

/-- An open Enber session (R426 to R433). `high` is the least SEQ above every SEQ executed (H + 1), 0 before the first; `keys` is K_REQ
followed by K_RSP. -/
structure Session where
  id : BitVec 32
  role : Role
  scope : Byte
  dialect : Nat
  high : Nat
  cache : List (Nat × Reply)
  subs : Tab Sub
  nseq : Nat
  keys : List Byte
  lastRaw : Nat
deriving DecidableEq, Repr

/-- A pending handshake (R429, R430): its identifier, dialect and scope, T1, the number of the ephemeral key, and the raw tick of its HELLO. -/
structure Handshake where
  id : BitVec 32
  dialect : Nat
  scope : Byte
  t1 : List Byte
  eph : Nat
  since : Nat
deriving DecidableEq, Repr

/-- A COMMIT in the queue (R436): the requester's slot, the snapshot of its staging set, and the session's identifier and the
SEQ of its request, for a COMMIT that an Enber message asked for. -/
structure Commit where
  slot : Nat
  snap : Tab U64
  msg : Option (BitVec 32 × Nat)
deriving DecidableEq, Repr

/-- A copy of the N image (R437). -/
structure NvCopy where
  valid : Bool
  gen : BitVec 32
  entries : Tab U64
deriving DecidableEq, Repr

/-- Reset kinds (R444). -/
inductive RKind where
  | unit | part | warm | pin | por
deriving DecidableEq, Repr

/-- The reset in progress (R446 to R448): its units (every unit for WARM, PIN and POR), its partitions and whether each is then held, the other
requests it names, the flow-engine purges it waits for. -/
structure ResetJob where
  kind : RKind
  target : Nat
  source : Nat
  scope : List Nat
  parts : List (Nat × Bool)
  named : List U64
  purges : List Nat
deriving DecidableEq, Repr

/-- Device power states (R464); `off` is what the board makes. -/
inductive DevPower where
  | run | hush | guard | dormant | hold
deriving DecidableEq, Repr

/-- Phases of the sleep handshake (R472 to R474). -/
inductive Phase where
  | idle | prepare | rollback | commit
deriving DecidableEq, Repr

/-- A transition of a power scope (R471 to R475): `todo` the participants still to answer, partitions 0 to 7 and packs as 8 + p,
`asked` the partitions that acknowledged, `done` the packs that stopped, latest first, `prev` their earlier states, `since` the raw value
at which the participant in front was asked. -/
structure Trans where
  target : Nat
  tag : Nat
  phase : Phase
  asked : List Nat
  todo : List Nat
  done : List Nat
  prev : List (Nat × Nat)
  since : Nat
deriving DecidableEq, Repr

/-- An emergency of R477: the supply's of R487, the thermal one of R490. -/
inductive Emergency where
  | supply | thermal
deriving DecidableEq, Repr

/-- The power slots of a unit (R475). -/
structure PwrSlot where
  cur : Option Trans
  pending : Option (Nat × Nat)
deriving DecidableEq, Repr

/-- A unit's own state (R13, R14, R445, R503, R504); `abortRaw` is the raw value at which an ABORT became pending at it (R501). -/
structure UnitSt where
  fenced : Bool
  quar : Bool
  lame : Bool
  released : Bool
  retest : Bool
  lameKind : Nat
  lameSince : Nat
  probeDue : Bool
  autoReturn : Bool
  quarSince : Nat
  abortRaw : Option Nat
  retestFail : Option (U64 × U64)
deriving DecidableEq, Repr

/-- A Terrier segment in progress (R506 to R509): its kind, its unit (for MEM its position in the order), the signature read (for
MEM whether a finding was confirmed), the entry of its task (for MEM the blocks tested). -/
structure Segment where
  kind : Nat
  unit : Nat
  signature : Option U64
  entry : Nat
deriving DecidableEq, Repr

/-- An event record formed in staging (R511, R513). -/
structure Rec where
  type : BitVec 16
  payload : List Byte
  seq : Nat
  opsec : Nat
  pwrcyc : Nat
deriving DecidableEq, Repr

/-- A record in the MRAM ring (R510). -/
structure RingRec where
  seq : Nat
  block : Nat
  off : Nat
  len : Nat
  torn : Bool
deriving DecidableEq, Repr

/-- A request waiting to be answered by a Gelpel member (R183, R548, R553): a submission, a window access, a relay of a
requester. -/
inductive Outstanding where
  | result (ret : RetTo)
  | read (who : Accessor) (addr : Nat)
  | write (who : Accessor) (addr : Nat)
  | relay (slot : Nat)
deriving DecidableEq, Repr

/-- A DATA flit sent and not acknowledged (R544, R546): its payload words and how many messages end in it. -/
structure Flit where
  seq : Byte
  vc : Bool
  payload : List U64
  ends : Nat
deriving DecidableEq, Repr

/-- A granule of 16 B waiting to be sent (R545), and whether it ends its message. -/
structure Granule where
  lo : U64
  hi : U64
  last : Bool
deriving DecidableEq, Repr

/-- A Gelpel port's link state (R543 to R552): sequence numbers, replay buffer, credits and buffers to report by VC, queues of
granules by VC, the raw times of the NAKs of the last 1 ms, requests awaiting an answer, the raw time of the last HELLO sent, replays
not yet recorded, and the raw times of the last replay record, of the last advance of ACK, and of the last good flit. -/
structure Gelpel where
  sendSeq : Byte
  expect : Byte
  nakSent : Bool
  unacked : List Flit
  cr0 : Nat
  cr1 : Nat
  free0 : Nat
  free1 : Nat
  q0 : List Granule
  q1 : List Granule
  naks : List Nat
  waiting : List Outstanding
  helloRaw : Option Nat
  replays : Nat
  replayRaw : Option Nat
  ackRaw : Nat
  goodRaw : Nat
deriving DecidableEq, Repr

/-- A transfer of an I2C port (R562): the word that began it, the raw time, and the bytes the port puts on the bus, an address byte
after every start. -/
structure I2cXfer where
  word : U64
  raw : Nat
  sent : List Byte
deriving DecidableEq, Repr

/-- An operation of the boot flash in progress (R529). -/
structure FlashOp where
  slot : Nat
  op : Nat
  len : Nat
  addr : Nat
  who : U64
deriving DecidableEq, Repr

set_option maxRecDepth 2000 in
/-- The whole part, and the commands that wait for it. -/
structure State where
  /-- Commands waiting, first in, first out. -/
  pending : List Instr
  /-- Values in force of the dictionary entries, key index × 256 + subindex; an unlisted entry holds its default. -/
  od : Tab U64
  /-- Banked entries, hold registers and staging sets, key requester slot × 2^32 + entry (R415, R420, R436). -/
  bank : Tab U64
  hold : Tab U64
  staging : Tab U64
  /-- Memory contents by device address (R180) and the marks of R388. -/
  mem : List Host.Cell
  poison : Tab Bool
  fresh : Tab Bool
  merges : List Merge
  /-- Anchor copies of entries in the device anchor area (R394), key `EP_ANCHOR_BASE` / 64 MiB × 2^32 + entry. -/
  anchor : Tab U64
  /-- Anchored words whose re-fetch is running (R391): address and whether a write reached it (R393). -/
  refetch : List (Nat × Bool × Nat)
  /-- The raw counter (R51), registered writes, capture slots (R59) and capture FIFOs (R73). -/
  raw : U64
  tbWrites : List TbWrite
  capSlots : Tab Cap
  capFifo : Tab (List Cap)
  capPopped : Tab Cap
  live : Tab Live
  trig : Tab Trig
  slotDue : List SlotDue
  /-- The raw value at which CLKREF was lost (R49) and at which PPS_OUT last rose (R75). -/
  refLostRaw : Nat
  ppsRaw : Nat
  /-- SYNCE outputs that are held low (R76). -/
  synceLow : Tab Bool
  /-- Kennel instances by pack, producers' queues by producer number, carriers' slot sequences. -/
  kennel : Tab Kennel
  outq : Tab (List Item)
  carrier : Tab Carrier
  tile : Tab Tile
  /-- The raw value at which a pack's PCLK stopped (R482). -/
  packStop : Tab Nat
  core : Tab Core
  port : Tab Port
  irq : Tab Bool
  chan : Tab Chan
  engine : Tab Engine
  point : Tab Point
  masked : Tab Bool
  /-- STACK_INTLV as it stood at the last WARM, PIN or POR reset (R191). -/
  stackIntlv : Bool
  /-- `PIN_MGT_CFG` as it stood at the last WARM, PIN or POR reset: how the management port runs (R560). -/
  mgtRuns : BitVec 2
  hound : Tab Hound
  job : Tab Job
  accelBusy : Tab Nat
  tx : Tab Tx
  txGates : Tab (List (Nat × Nat))
  paChecks : List PaCheck
  bank8 : Tab Bank
  /-- Slots with a codeblock LATE or NO_TIME, by carrier and low sequence bits (`CD_BANK_STAT`). -/
  lateSlot : Tab Bool
  /-- DECODE jobs under way, by unit. -/
  decode : Tab DecodeJob
  flow : Tab Flow
  stash : Tab (List Byte)
  ringTaken : Tab Nat
  ctxCache : Tab (Nat × Bool)
  laneAdv : Tab (BitVec 9)
  /-- The SDREF selection in force by octet (`CLK_SDREF_SEL` takes effect at octet reset). -/
  sdref : Tab Nat
  /-- When a lane was put into the electrical idle of at least 1 ms (R339, R351), and when its port resolved or lost its last ability
  (R347), each a raw time plus 1. -/
  laneIdle : Tab Nat
  laneAt : Tab Nat
  rx : Tab LineRx
  mac : Tab Mac
  stream : Tab Stream
  cpriTx : Tab CpriTx
  /-- Slot sequence + 1 of the last C-plane list sent, by carrier × 2 + direction (R377). -/
  cpSent : Tab Nat
  fdb : Tab Fdb
  epTold : Tab U64
  epTime : Tab Nat
  session : Tab Session
  handshake : Tab Handshake
  idsGiven : List Nat
  ephGiven : List Nat
  commits : List Commit
  /-- MRAM writes that wait for the end of a supply warning, oldest first (R190). -/
  mramWaits : List MramWait
  nvA : NvCopy
  nvB : NvCopy
  unit : Tab UnitSt
  packPower : Tab Nat
  packReq : Tab Nat
  pwr : Tab PwrSlot
  dev : DevPower
  guardLead : Bool
  /-- Computed time of the next GUARD cycle's begin (R479). -/
  guardAt : Nat
  thermalDormant : Bool
  warn : Bool
  warnSince : Nat
  railLow : List Nat
  /-- Dips of the present warning whose rails have recovered: rail, minimum in mV, µs (R486). -/
  dips : List (Nat × Nat × Nat)
  /-- Ticks for which each pack has been idle (R468). -/
  packIdleFor : Tab Nat
  /-- The raw value at which the device entered GUARD or DORMANT (R480). -/
  sleepRaw : Nat
  /-- Emergencies that wait for a safe point (R477). -/
  emergencies : List Emergency
  /-- Hours of the raw counter whose residency, and whose OPSEC, has been committed (R483, R512). -/
  hourTold : Nat
  opsecHour : Nat
  /-- µs of PWR_Un_RES already in PWR_Un_HOURS, by unit × 8 + state (R483). -/
  resTold : Tab Nat
  resetJob : Option ResetJob
  /-- A POR of the always-on domain has happened and the root island has not run since (R512, R514). -/
  aonPor : Bool
  bootRaw : Nat
  bootsel : BitVec 3
  loadQueue : List Nat
  loadSlot : Tab Nat
  trialStart : Tab Nat
  /-- Armed L2 timers: carrier, slot sequence, slot-start instant (R492). -/
  l2 : List (Nat × Nat × Nat)
  shdTold : Tab Nat
  /-- STEP and COUNT of the L3 ladder by partition, as a byte of SHD_Un_STAT (R498). -/
  shdPart : Tab Nat
  petRaw : Tab Nat
  l4Last : Nat
  checkRaw : Nat
  postNext : Bool
  segment : Tab Segment
  segNext : Tab Nat
  segHead : Tab (List Nat)
  retests : List Nat
  /-- When a walk began: the Groomer's of pack p (p), the HBM scrubber's (8), Terrier's pass of pack p (16 + p) (R405). -/
  walkRaw : Tab Nat
  staged : List Rec
  lostRun : Nat
  lostFirst : Nat
  evSeq : Nat
  ring : List RingRec
  ringBlock : Nat
  ringOff : Nat
  opsec : Nat
  /-- The POR count as last committed to MRAM (R512). -/
  pwrcycSt : Nat
  hoT : Tab Nat
  /-- Handover channels whose checks at T − 1 ms are done (R538). -/
  hoChecked : List Nat
  flash : Tab Byte
  flashOp : Option FlashOp
  gelpel : Tab Gelpel
  padIn : Tab Bool
  ppsOut : Bool
  heartbeat : Bool
  heartHz : Nat
  faultN : Bool
  thermTrip : Bool
  pwrgood : Bool
  resetN : Bool
  /-- The JTAG port's reset, pulled down (R555, R564). -/
  trstN : Bool
  /-- What the root island has written to the UART, oldest first (R561): the model's own view. -/
  uart : List UartWord
  clocksStopped : Bool
  i2cBusy : Tab I2cXfer
  /-- What the last command answered, and frames the management port sent (the model's own view). -/
  reply : Reply
  mgmtOut : List (List Byte)
  notes : List (Nat × Reply)
  /-- The value OD_Un_DFLT of every unit takes at the last PIN reset or POR (R420). -/
  dfltAll : U64
  /-- The model's own field: how many free values have been drawn. -/
  free : Nat
deriving DecidableEq, Repr

/-- The part right after a POR of its always-on domain, PWRGOOD still low (R444): every entry at its default, memory with
nothing listed, every unit in reset, both copies of the N image valid and empty. -/
def State.reset : State :=
  {
    pending := [],
    od := [],
    bank := [],
    hold := [],
    staging := [],
    mem := [],
    poison := [],
    fresh := [],
    merges := [],
    anchor := [],
    refetch := [],
    raw := 0,
    tbWrites := [],
    capSlots := [],
    capFifo := [],
    capPopped := [],
    live := [],
    trig := [],
    slotDue := [],
    refLostRaw := 0,
    ppsRaw := 0,
    synceLow := [(0, true), (1, true)],
    kennel := [],
    outq := [],
    carrier := [],
    tile := [],
    packStop := [],
    core := [],
    port := [],
    irq := [],
    chan := [],
    engine := [],
    point := [],
    masked := [],
    stackIntlv := false,
    mgtRuns := 0,
    hound := [],
    job := [],
    accelBusy := [],
    tx := [],
    txGates := [],
    paChecks := [],
    bank8 := [],
    lateSlot := [],
    decode := [],
    flow := [],
    stash := [],
    ringTaken := [],
    ctxCache := [],
    laneAdv := [],
    sdref := [],
    laneIdle := [],
    laneAt := [],
    rx := [],
    mac := [],
    stream := [],
    cpriTx := [],
    cpSent := [],
    fdb := [],
    epTold := [],
    epTime := [],
    session := [],
    handshake := [],
    idsGiven := [],
    ephGiven := [],
    commits := [],
    mramWaits := [],
    nvA := ⟨true, 0, []⟩,
    nvB := ⟨true, 0, []⟩,
    unit := [],
    packPower := [],
    packReq := [],
    pwr := [],
    dev := .run,
    guardLead := false,
    guardAt := 0,
    thermalDormant := false,
    warn := false,
    warnSince := 0,
    railLow := [],
    dips := [],
    packIdleFor := [],
    sleepRaw := 0,
    emergencies := [],
    hourTold := 0,
    opsecHour := 0,
    resTold := [],
    resetJob := some ⟨.por, 1020, 3, [], [], [], []⟩,
    aonPor := true,
    bootRaw := 0,
    bootsel := 0,
    loadQueue := [],
    loadSlot := [],
    trialStart := [],
    l2 := [],
    shdTold := [],
    shdPart := [],
    petRaw := [],
    l4Last := 0,
    checkRaw := 0,
    postNext := false,
    segment := [],
    segNext := [],
    segHead := [],
    retests := [],
    walkRaw := [],
    staged := [],
    lostRun := 0,
    lostFirst := 0,
    evSeq := 0,
    ring := [],
    ringBlock := 0,
    ringOff := 0,
    opsec := 0,
    pwrcycSt := 0,
    hoT := [], hoChecked := [],
    flash := [],
    flashOp := none,
    gelpel := [],
    padIn := [],
    ppsOut := false,
    heartbeat := false,
    heartHz := 0,
    faultN := true,
    thermTrip := false,
    pwrgood := false,
    resetN := true,
    trstN := false,
    uart := [],
    clocksStopped := true,
    i2cBusy := [],
    reply := .none,
    mgmtOut := [],
    notes := [],
    dfltAll := 0x0001E40000000000,
    free := 0 }

end Sys2Proof.Machine
end

