-- ==== Sys2Proof/Machine/Dict.lean ====
section
/-!
DEFINITION. Dict.lean: the object dictionary's entries (R411 to R414), written from the object tables of the
chapters: for each object its entries' keys (index × 256 + subindex), type, access right, class, default,
owning unit and the rules its description gives for each field.
-/
namespace Sys2Proof.Machine

/-- The objects of the chapters' tables. -/
inductive ObjId where
  | clkRefSel | clkStatus | clkRefLossCnt | clkLossHold | clkSdrefSel | clkSynceOut | tbNow | tbIncrement
  | tbOffset | tbStep | tbStatus | tbCapCfg | tbCapRaw | tbCapTime | tbCapStat | tbPpsOutCfg
  | ttCtl | ttCfg | ttOwner | ttStart | ttPeriod | ttStat | ttRow | knAffWait
  | knLameRatio | knLameProbe | knLameEn | knHighWater | knDomDepth | knStore | knFlags | knDispatched
  | knDown | knXpart | knDup | knStale | knInvalid | knAborted | knStalls | knPeak
  | knTileCfg | knTileStat | knKind | knPlanCtl | knPlanCfg | knPlanStat | knPlanRow | pxCtl
  | pxStat | pxExc | pxEval | pxExcCnt | pxBusy | pxWait | pxRetired | pxPackCfg
  | memAccessFaults | memFaultLast | memHbmCfg | memHbmStat | memHbmRegion | lshStarveLimit | lshPauseB | lshIrqCore
  | lshWeight | lshFlags | lshRestarts | lshDbeats | lshBbeats | dmaTailPoll | dmaContOnErr | dmaIrq
  | dmaErrors | dmaCfg | dmaHead | dmaStatus | dmaCur | dmaErrAddr | dmaResume | dmaDoorbell
  | dmaOwner | dmaCount | hndCaptureMargin | hndFadeMargin | hndFadeSyms | hndFloorEscape | hndFrameRef | hndCtl
  | hndCfg | hndStat | hndErrors | hndStream | hndOcc | hndDet | hndLoss | hndFloor
  | hndLbt | hndVerdict | hndRow | xfJobs | xfErrs | xfSat | xfLast | txCfg
  | txPa | txAirDelay | txStat | txGate | txRampTab | txTdd | cdJobs | cdErrs
  | cdCb | cdIter | cdErased | cdLast | cdBankCfg | cdBankClose | cdBankGu | cdBankStat
  | cdBank | flCfg | flTableBase | flCtxBase | flSeed | flPoll | flStat | flDrop
  | flPool | flCarrierRat | flRingCfg | flRingBase | flRingStat | flPeer | lnLtTimeout | lnOCfg
  | lnOStat | lnCfg | lnStat | lnAn | lnCnt | lnFec | lnPrbs | lnPrbsErr
  | lnEyeCtl | lnEyeRes | lnSlip | lnRxword | lnTest | ethCfg | ethOwner | ethQmap
  | ethBr | ethTsAdj | ethHrx | ethHtx | ethHrxBuf | ethDly | ethDlyRes | ethDlyComp
  | ethUcast | ethGhash | ethCnt | gclCtl | gclCfg | gclBase | gclCycle | gclRow
  | ethVlan | ethVlanMember | ethVlanUntag | ethBrAge | ethBrStat | ethRu | ethRuTag | ethStr
  | ethStrStat | ethStrErr | ethCpCfg | cpriCfg | cpriStat | cpriCnt | epRepeat | epIrqCore
  | epAnchorBase | epClassCnt | epClassLog | epClassClear | epClassMismatch | epRemap | epRemapStat | epSpares
  | epImAnchor | grmHbmCfg | grmHbmStat | grmCfg | grmStat | odInfo | odState | odDflt
  | odCtl | odQueue | idDevice | idPartStr | idSerial | idLot | idRom | idKey
  | idCapacity | idMgmtMac | odDefaulted | odDialect | odDialectRoot | odEnberCfg | odSessionIdle | odNotifyMin
  | odSessions | odIp4 | odIp4Gw | odIp6 | odIp6Cfg | odPeerKey | odPeerRole | odTokenKey
  | odTokenCtr | odTokenBuf | odTokenCtl | odCommit | odNvStat | rstLast | rstCount | rstDeviceCtl
  | rstPtCtl | rstPtStat | rstBootPolicy | rstBootStat | rstBootTime | rstPost | rstPostTiles | rstPostCc
  | rstPostLanes | pwrWarnHold | pwrPrepTimeout | pwrHushIdle | pwrIrqCore | pwrGuardCfg | pwrWakeSrc | pwrGuardStat
  | pwrVote | pwrRail | pwrWarnStat | pwrThermCfg | pwrThermStat | pwrTemp | pwrReq | pwrReqStat
  | pwrRes | pwrHours | shdL0Limit | shdL3Limit | shdL3First | shdL4Limit | shdReturn | shdFaultCfg
  | shdIrqCore | shdL0Cfg | shdL1Cfg | shdL2Cfg | shdL3Cfg | shdL4Cfg | shdPet | shdExpiries
  | shdL2Carrier | shdL2Stat | shdL2Ladder | shdStat | shdLast | shdQuar | terUStat | terLast
  | terRun | terCfg | terScratch | terPStat | evrStat | evrCnt | evrOpsec | evrPwrcyc
  | evrClear | evrCursor | evrRecord | evrUserBuf | evrUserCtl | prtPacks | prtCores | prtMacs
  | prtHbm | prtCarriers | prtSpan | hoCfg | hoOp | hoRegions | hoMacs | hoExport
  | hoCut | fwCfg | fwSlot | fwCtl | fwStat | fwVer | fwMeas | fwTrialLimit
  | fwFlashCtl | fwFlashBuf | fwFlashParts | secFwKey | secSvnFloor | secDebug | secAttestNonce | secAttestCtl
  | secAttestReport | gplCfg | gplGCfg | gplStat | gplPeer | gplPair | gplCnt | gplRelayReq
  | gplRelayVal | pinGpioCfg | pinGpioIn | pinStat | pinMgtCfg | pinUartCfg | pinI2cCfg | pinI2cXfer
  | pinI2cBuf
deriving DecidableEq, Repr

/-- Access rights (R416), in the order META reports them (R427). -/
inductive Acc where
  | ro | rw | wo | rc | rws | sig | const
deriving DecidableEq, Repr

/-- Retention classes (R419), in the order META reports them. -/
inductive Cls where
  | e | k | w | n | f
deriving DecidableEq, Repr

/-- Types of an entry's value (table Type codes). -/
inductive Ty where
  | bool | u (bits : Nat) | sg (bits : Nat) | q (m n : Nat) | enum | string | octets
deriving DecidableEq, Repr

/-- What a write may hold in a field: any value, ranges listed, a multiple of `m` besides. -/
structure Chk where
  ranges : List (Nat × Nat)
  signed : Option (Int × Int)
  mult : Nat
deriving DecidableEq, Repr

/-- How a field answers a write (R7, R413). -/
inductive FK where
  | rw | ro | wo | w1c
deriving DecidableEq, Repr

/-- A field of an entry. -/
structure Fld where
  hi : Nat
  lo : Nat
  kind : FK
  chk : Chk
deriving DecidableEq, Repr

/-- How the owning unit of an entry follows from the entry's place in its object. -/
inductive Own where
  | fixed (u : Nat)
  | per (dim base mult div : Nat)
  | dmaEngine
  | dmaChannel
  | accel (k0 : Nat)
deriving DecidableEq, Repr

/-- One object: entries at `base` plus a step of each dimension (step, count), greatest step first. -/
structure Row where
  id : ObjId
  base : Nat
  dims : List (Nat × Nat)
  ty : Ty
  acc : Acc
  cls : Cls
  dflt : Nat
  live : Bool
  held : Bool
  banked : Bool
  own : Own
  flds : List Fld
deriving DecidableEq, Repr

/-- The place of key offset `off` in an object's dimensions, if it is one of the object's entries. -/
def placeIn : List (Nat × Nat) → Nat → Option (List Nat)
  | [], off => if off = 0 then some [] else none
  | (st, n) :: ds, off =>
    let i := off / st
    if i < n then (placeIn ds (off - i * st)).map (i :: ·) else none

/-- Any value. -/
def cAny : Chk := ⟨[], none, 1⟩
/-- A value in one of the ranges. -/
def cR (l : List (Nat × Nat)) : Chk := ⟨l, none, 1⟩
/-- A multiple of m. -/
def cM (m : Nat) : Chk := ⟨[], none, m⟩

/-- Objects at index 0x00xxxx. -/
def rows00 : List Row := [
  ⟨.idDevice, 0x0, [], .u 64, .const, .f, 0xbea9512a1000000, false, false, false, (.fixed 1020), []⟩,
  ⟨.idPartStr, 0x100, [(0x1, 4)], .string, .const, .f, 0x0, false, false, false, (.fixed 1020), []⟩,
  ⟨.idSerial, 0x200, [], .u 64, .ro, .f, 0x0, false, false, false, (.fixed 1020), []⟩,
  ⟨.idLot, 0x201, [], .u 64, .ro, .f, 0x0, false, false, false, (.fixed 1020), []⟩,
  ⟨.idRom, 0x300, [], .u 32, .ro, .f, 0xa1000003, false, false, false, (.fixed 1020), []⟩,
  ⟨.idKey, 0x400, [(0x1, 8)], .octets, .ro, .f, 0x0, false, false, false, (.fixed 1020), []⟩,
  ⟨.idCapacity, 0x500, [], .u 64, .ro, .e, 0x0, true, false, false, (.fixed 1020), []⟩,
  ⟨.idMgmtMac, 0x600, [], .u 64, .ro, .f, 0x0, false, false, false, (.fixed 1020), []⟩,
  ⟨.odDefaulted, 0x10000, [(0x1, 16)], .u 64, .rw, .w, 0xffffffffffffffff, false, false, false, (.fixed 1020), []⟩,
  ⟨.odDialect, 0x11000, [(0x1, 9)], .u 32, .ro, .e, 0x0, true, false, false, (.fixed 1020), []⟩,
  ⟨.odDialectRoot, 0x11009, [], .u 32, .ro, .f, 0x0, false, false, false, (.fixed 1020), []⟩,
  ⟨.odEnberCfg, 0x12000, [], .u 64, .rws, .n, 0x800000000000bac2, false, false, false, (.fixed 1020), [⟨63, 63, .rw, cAny⟩, ⟨15, 0, .rw, (cR [(1024, 65535)])⟩]⟩,
  ⟨.odSessionIdle, 0x12001, [], .u 32, .rws, .n, 0x3c, false, false, false, (.fixed 1020), [⟨63, 0, .rw, (cR [(10, 3600)])⟩]⟩,
  ⟨.odNotifyMin, 0x12002, [], .u 32, .rws, .n, 0xa, false, false, false, (.fixed 1020), [⟨63, 0, .rw, (cR [(1, 60000)])⟩]⟩,
  ⟨.odSessions, 0x12100, [], .u 64, .ro, .e, 0x0, false, false, false, (.fixed 1020), []⟩,
  ⟨.odIp4, 0x12200, [], .u 64, .rws, .n, 0x0, false, false, false, (.fixed 1020), [⟨63, 63, .rw, cAny⟩, ⟨39, 32, .rw, (cR [(0, 32)])⟩, ⟨31, 0, .rw, cAny⟩]⟩,
  ⟨.odIp4Gw, 0x12201, [], .u 32, .rws, .n, 0x0, false, false, false, (.fixed 1020), []⟩,
  ⟨.odIp6, 0x12202, [(0x1, 2)], .u 64, .rws, .n, 0x0, false, true, false, (.fixed 1020), []⟩,
  ⟨.odIp6Cfg, 0x12204, [], .u 32, .rws, .n, 0x0, false, false, false, (.fixed 1020), [⟨31, 31, .rw, cAny⟩, ⟨7, 0, .rw, (cR [(0, 128)])⟩]⟩,
  ⟨.odPeerKey, 0x13000, [(0x100, 16), (0x1, 8)], .octets, .sig, .n, 0x0, false, false, false, (.fixed 1020), []⟩,
  ⟨.odPeerRole, 0x13008, [(0x100, 16)], .u 8, .sig, .n, 0x0, false, false, false, (.fixed 1020), [⟨5, 4, .rw, (cR [(0, 2)])⟩, ⟨2, 0, .rw, cAny⟩]⟩,
  ⟨.odTokenKey, 0x14000, [(0x100, 4), (0x1, 8)], .octets, .sig, .n, 0x0, false, false, false, (.fixed 1020), []⟩,
  ⟨.odTokenCtr, 0x15000, [], .u 64, .ro, .n, 0x0, false, false, false, (.fixed 1020), []⟩,
  ⟨.odTokenBuf, 0x15100, [(0x1, 33)], .octets, .wo, .e, 0x0, true, false, true, (.fixed 1020), []⟩,
  ⟨.odTokenCtl, 0x15200, [], .u 64, .rws, .e, 0x0, false, false, true, (.fixed 1020), [⟨63, 63, .ro, cAny⟩, ⟨15, 0, .rw, cAny⟩]⟩,
  ⟨.odCommit, 0x16000, [], .u 64, .rws, .e, 0x0, false, false, true, (.fixed 1020), [⟨63, 63, .rw, cAny⟩, ⟨15, 0, .ro, cAny⟩]⟩,
  ⟨.odNvStat, 0x16001, [], .u 64, .rw, .e, 0x0, false, false, false, (.fixed 1020), [⟨63, 32, .ro, cAny⟩, ⟨31, 16, .ro, cAny⟩, ⟨2, 2, .w1c, cAny⟩, ⟨1, 1, .ro, cAny⟩, ⟨0, 0, .ro, cAny⟩]⟩]

/-- Objects at index 0x01xxxx. -/
def rows01 : List Row := [
  ⟨.rstLast, 0x1000000, [], .u 64, .ro, .e, 0x0, true, false, false, (.fixed 1013), []⟩,
  ⟨.rstCount, 0x1000001, [], .u 64, .rc, .w, 0x0, false, false, false, (.fixed 1013), []⟩,
  ⟨.rstDeviceCtl, 0x1000100, [], .u 64, .rws, .e, 0x0, true, false, false, (.fixed 1013), [⟨1, 0, .rw, (cR [(1, 2)])⟩]⟩,
  ⟨.rstPtCtl, 0x1000200, [(0x1, 8)], .u 64, .rws, .e, 0x0, true, false, false, (.fixed 1013), [⟨1, 0, .rw, (cR [(1, 3)])⟩]⟩,
  ⟨.rstPtStat, 0x1000300, [(0x1, 8)], .u 64, .rw, .k, 0x0, false, false, false, (.fixed 1013), [⟨63, 63, .rw, cAny⟩, ⟨3, 0, .ro, cAny⟩]⟩,
  ⟨.rstBootPolicy, 0x1000400, [], .u 64, .rws, .n, 0x122000000000000, false, false, false, (.fixed 1013), [⟨63, 63, .rw, cAny⟩, ⟨62, 62, .rw, cAny⟩, ⟨59, 56, .rw, (cR [(0, 8)])⟩, ⟨55, 53, .rw, (cR [(1, 4)])⟩, ⟨52, 48, .rw, (cR [(2, 16)])⟩, ⟨15, 0, .rw, (cR [(0, 128)])⟩]⟩,
  ⟨.rstBootStat, 0x1000500, [], .u 64, .ro, .e, 0x0, true, false, false, (.fixed 1013), []⟩,
  ⟨.rstBootTime, 0x1000501, [], .u 64, .ro, .e, 0x0, true, false, false, (.fixed 1013), []⟩,
  ⟨.rstPost, 0x1001000, [(0x100, 8)], .u 64, .ro, .e, 0x0, true, false, false, (.fixed 1013), []⟩,
  ⟨.rstPostTiles, 0x1001001, [(0x100, 8)], .u 64, .ro, .e, 0x0, true, false, false, (.fixed 1013), []⟩,
  ⟨.rstPostCc, 0x1001800, [], .u 64, .ro, .e, 0x0, true, false, false, (.fixed 1013), []⟩,
  ⟨.rstPostLanes, 0x1001801, [(0x1, 2)], .u 64, .ro, .e, 0x0, true, false, false, (.fixed 1013), []⟩,
  ⟨.pwrWarnHold, 0x1010000, [], .u 32, .rws, .w, 0x2710, false, false, false, (.fixed 1020), [⟨63, 0, .rw, (cR [(1000, 1000000)])⟩]⟩,
  ⟨.pwrPrepTimeout, 0x1010001, [], .u 32, .rws, .w, 0x2710, false, false, false, (.fixed 1020), [⟨63, 0, .rw, (cR [(100, 1000000)])⟩]⟩,
  ⟨.pwrHushIdle, 0x1010002, [], .u 32, .rws, .w, 0x400, false, false, false, (.fixed 1020), [⟨63, 0, .rw, (cR [(64, 1048576)])⟩]⟩,
  ⟨.pwrIrqCore, 0x1010003, [], .u 8, .rws, .w, 0x0, false, false, false, (.fixed 1020), [⟨63, 0, .rw, (cR [(0, 15)])⟩]⟩,
  ⟨.pwrGuardCfg, 0x1010100, [], .u 64, .rws, .w, 0xa0000500640000, false, false, false, (.fixed 1020), [⟨63, 48, .rw, ⟨[(20, 1280)], none, 10⟩⟩, ⟨47, 32, .rw, (cR [(1, 40)])⟩, ⟨31, 16, .rw, (cR [(50, 1000)])⟩, ⟨15, 7, .rw, (cR [(0, 383)])⟩, ⟨0, 0, .rw, cAny⟩]⟩,
  ⟨.pwrWakeSrc, 0x1010101, [], .u 64, .rws, .w, 0x0, false, false, false, (.fixed 1020), [⟨63, 63, .rw, cAny⟩, ⟨62, 61, .rw, cAny⟩, ⟨53, 48, .rw, cAny⟩, ⟨47, 47, .rw, cAny⟩, ⟨31, 0, .rw, cAny⟩]⟩,
  ⟨.pwrGuardStat, 0x1010102, [], .u 64, .ro, .w, 0x0, false, false, false, (.fixed 1020), []⟩,
  ⟨.pwrVote, 0x1010200, [(0x1, 8)], .u 64, .rw, .e, 0x0, false, false, false, (.fixed 1020), [⟨1, 0, .rw, (cR [(1, 2)])⟩]⟩,
  ⟨.pwrRail, 0x1010300, [(0x1, 10)], .u 64, .ro, .w, 0x0, false, false, false, (.fixed 1020), []⟩,
  ⟨.pwrWarnStat, 0x1010400, [], .u 64, .rw, .e, 0x0, false, false, false, (.fixed 1020), [⟨63, 63, .ro, cAny⟩, ⟨32, 32, .w1c, cAny⟩, ⟨25, 16, .ro, cAny⟩, ⟨15, 0, .ro, cAny⟩]⟩,
  ⟨.pwrThermCfg, 0x1010500, [], .u 64, .rws, .w, 0x6471000000000000, false, false, false, (.fixed 1020), [⟨63, 56, .rw, cAny⟩, ⟨55, 48, .rw, cAny⟩]⟩,
  ⟨.pwrThermStat, 0x1010501, [], .u 64, .ro, .e, 0x0, false, false, false, (.fixed 1020), []⟩,
  ⟨.pwrTemp, 0x1010600, [(0x1, 16)], .sg 16, .ro, .e, 0x0, true, false, false, (.fixed 1020), []⟩]

/-- Objects at index 0x02xxxx. -/
def rows02 : List Row := [
  ⟨.clkRefSel, 0x2000000, [], .enum, .rws, .n, 0x0, false, false, false, (.fixed 1012), [⟨63, 0, .rw, (cR [(0, 1)])⟩]⟩,
  ⟨.clkStatus, 0x2000100, [], .u 64, .ro, .e, 0x0, true, false, false, (.fixed 1012), []⟩,
  ⟨.clkRefLossCnt, 0x2000200, [], .u 32, .rc, .w, 0x0, false, false, false, (.fixed 1012), []⟩,
  ⟨.clkLossHold, 0x2000300, [], .u 32, .rw, .w, 0x3e8, false, false, false, (.fixed 1012), [⟨63, 0, .rw, (cR [(10, 1000000)])⟩]⟩,
  ⟨.clkSdrefSel, 0x2001000, [(0x1, 16)], .enum, .rws, .n, 0x0, false, false, false, (.per 0 992 1 1), [⟨63, 0, .rw, (cR [(0, 1)])⟩]⟩,
  ⟨.clkSynceOut, 0x2002000, [(0x1, 2)], .u 32, .rw, .w, 0x0, false, false, false, (.fixed 1012), [⟨31, 31, .rw, cAny⟩, ⟨30, 30, .ro, cAny⟩, ⟨15, 8, .rw, cAny⟩, ⟨6, 0, .rw, cAny⟩]⟩,
  ⟨.tbNow, 0x2010000, [(0x1, 3)], .u 64, .ro, .e, 0x0, true, false, false, (.fixed 1012), []⟩,
  ⟨.tbIncrement, 0x2010100, [], .u 64, .rws, .w, 0x208d555555555, false, false, false, (.fixed 1012), [⟨63, 0, .rw, (cR [(572089643827200, 573234968439466)])⟩]⟩,
  ⟨.tbOffset, 0x2010200, [(0x1, 2)], .u 64, .rws, .w, 0x0, false, true, false, (.fixed 1012), [⟨63, 0, .rw, cAny⟩]⟩,
  ⟨.tbStep, 0x2010300, [], .sg 64, .wo, .e, 0x0, true, false, false, (.fixed 1012), []⟩,
  ⟨.tbStatus, 0x2010400, [], .u 64, .ro, .w, 0x0, false, false, false, (.fixed 1012), []⟩,
  ⟨.tbCapCfg, 0x2020000, [(0x1, 8)], .u 32, .rw, .w, 0x0, false, false, false, (.fixed 1012), [⟨31, 31, .rw, cAny⟩, ⟨9, 8, .rw, cAny⟩, ⟨6, 0, .rw, (cR [(0, 63), (127, 127)])⟩]⟩,
  ⟨.tbCapRaw, 0x2020100, [(0x1, 8)], .u 64, .ro, .e, 0x0, true, false, false, (.fixed 1012), []⟩,
  ⟨.tbCapTime, 0x2020200, [(0x100, 2), (0x1, 8)], .u 64, .ro, .e, 0x0, true, false, false, (.fixed 1012), []⟩,
  ⟨.tbCapStat, 0x2020400, [(0x1, 8)], .u 32, .ro, .e, 0x0, false, false, false, (.fixed 1012), []⟩,
  ⟨.tbPpsOutCfg, 0x2021000, [], .u 64, .rw, .w, 0x0, false, false, false, (.fixed 1012), [⟨63, 32, .rw, cAny⟩, ⟨31, 8, .rw, (cR [(1, 999999)])⟩, ⟨1, 1, .rw, cAny⟩, ⟨0, 0, .rw, cAny⟩]⟩,
  ⟨.ttCtl, 0x2100000, [(0x10000, 64)], .u 64, .rw, .e, 0x0, false, false, false, (.fixed 1012), [⟨63, 48, .ro, cAny⟩, ⟨47, 32, .ro, cAny⟩, ⟨31, 30, .ro, cAny⟩, ⟨29, 29, .wo, cAny⟩, ⟨28, 28, .wo, cAny⟩, ⟨27, 27, .wo, cAny⟩, ⟨26, 26, .ro, cAny⟩, ⟨25, 25, .ro, cAny⟩, ⟨15, 0, .ro, cAny⟩]⟩,
  ⟨.ttCfg, 0x2100001, [(0x10000, 64)], .u 64, .rw, .k, 0x0, false, false, false, (.fixed 1012), [⟨1, 1, .rw, cAny⟩, ⟨0, 0, .rw, cAny⟩]⟩,
  ⟨.ttOwner, 0x2100100, [(0x10000, 64)], .u 8, .rws, .w, 0xff, false, false, false, (.fixed 1012), [⟨63, 0, .rw, (cR [(0, 7), (255, 255)])⟩]⟩,
  ⟨.ttStart, 0x2100200, [(0x10000, 64), (0x100, 2)], .u 64, .rw, .k, 0x0, false, false, false, (.fixed 1012), [⟨63, 0, .rw, cAny⟩]⟩,
  ⟨.ttPeriod, 0x2100400, [(0x10000, 64)], .u 64, .rw, .k, 0x0, false, false, false, (.fixed 1012), []⟩,
  ⟨.ttStat, 0x2100500, [(0x10000, 64)], .u 64, .rw, .k, 0x0, false, false, false, (.fixed 1012), [⟨63, 32, .ro, cAny⟩, ⟨31, 16, .ro, cAny⟩, ⟨0, 0, .w1c, cAny⟩]⟩,
  ⟨.ttRow, 0x2101000, [(0x10000, 64), (0x2000, 2), (0x100, 32)], .u 64, .rw, .k, 0x0, false, false, false, (.fixed 1012), []⟩]

/-- Objects at the per-unit blocks. -/
def rows03 : List Row := [
  ⟨.odInfo, 0x3000000, [(0x10000, 1024)], .u 64, .const, .f, 0x0, true, false, false, (.per 0 0 1 1), []⟩,
  ⟨.odState, 0x3000100, [(0x10000, 1024)], .u 64, .ro, .e, 0x0, true, false, false, (.per 0 0 1 1), []⟩,
  ⟨.odDflt, 0x3000200, [(0x10000, 1024)], .u 64, .ro, .w, 0x0, false, false, false, (.per 0 0 1 1), []⟩,
  ⟨.odCtl, 0x3000300, [(0x10000, 1024)], .u 64, .rws, .e, 0x0, true, false, false, (.per 0 0 1 1), [⟨1, 0, .rw, (cR [(1, 3)])⟩]⟩,
  ⟨.odQueue, 0x3000400, [(0x10000, 1024)], .u 64, .ro, .e, 0x0, true, false, false, (.per 0 0 1 1), []⟩,
  ⟨.pwrReq, 0x3002000, [(0x10000, 1024)], .u 64, .rws, .e, 0x0, false, false, false, (.per 0 0 1 1), [⟨63, 48, .rw, cAny⟩, ⟨47, 47, .ro, cAny⟩, ⟨2, 0, .rw, cAny⟩]⟩,
  ⟨.pwrReqStat, 0x3002100, [(0x10000, 1024)], .u 64, .ro, .e, 0x0, false, false, false, (.per 0 0 1 1), []⟩,
  ⟨.pwrRes, 0x3002200, [(0x10000, 1024), (0x1, 5)], .u 64, .ro, .w, 0x0, false, false, false, (.per 0 0 1 1), []⟩,
  ⟨.pwrHours, 0x3002300, [(0x10000, 1024), (0x1, 5)], .u 32, .ro, .n, 0x0, false, false, false, (.per 0 0 1 1), []⟩,
  ⟨.shdStat, 0x3001000, [(0x10000, 1024)], .u 64, .ro, .w, 0x0, false, false, false, (.per 0 0 1 1), []⟩,
  ⟨.shdLast, 0x3001100, [(0x10000, 1024)], .u 64, .ro, .w, 0x0, false, false, false, (.per 0 0 1 1), []⟩,
  ⟨.shdQuar, 0x3001200, [(0x10000, 1024)], .u 64, .ro, .w, 0x0, false, false, false, (.per 0 0 1 1), []⟩,
  ⟨.terUStat, 0x3001800, [(0x10000, 1024)], .u 64, .ro, .w, 0x0, false, false, false, (.per 0 0 1 1), []⟩,
  ⟨.terLast, 0x3001900, [(0x10000, 1024)], .u 64, .ro, .w, 0x0, false, false, false, (.per 0 0 1 1), []⟩,
  ⟨.terRun, 0x3001A00, [(0x10000, 1024)], .u 64, .wo, .e, 0x0, true, false, false, (.per 0 0 1 1), [⟨63, 0, .rw, (cR [(1, 1)])⟩]⟩]

/-- Objects at index 0x10xxxx. -/
def rows10 : List Row := [
  ⟨.knAffWait, 0x10012000, [], .u 32, .rws, .w, 0x800, false, false, false, (.fixed 1020), [⟨63, 0, .rw, (cR [(0, 65535)])⟩]⟩,
  ⟨.knLameRatio, 0x10012001, [], .q 8 8, .rws, .w, 0x180, false, false, false, (.fixed 1020), [⟨63, 0, .rw, (cR [(288, 1024)])⟩]⟩,
  ⟨.knLameProbe, 0x10012002, [], .u 32, .rws, .w, 0x2710, false, false, false, (.fixed 1020), [⟨63, 0, .rw, (cR [(1000, 1000000)])⟩]⟩,
  ⟨.knLameEn, 0x10012003, [], .bool, .rws, .w, 0x1, false, false, false, (.fixed 1020), []⟩,
  ⟨.knHighWater, 0x10012004, [], .u 16, .rws, .w, 0x7333, false, false, false, (.fixed 1020), [⟨63, 0, .rw, (cR [(16384, 32000)])⟩]⟩,
  ⟨.knDomDepth, 0x10012005, [], .u 16, .rws, .w, 0x40, false, false, false, (.fixed 1020), [⟨63, 0, .rw, (cR [(1, 256)])⟩]⟩,
  ⟨.knStore, 0x10020000, [(0x1000, 8)], .u 64, .ro, .e, 0x0, true, false, false, (.per 0 604 32 1), []⟩,
  ⟨.knFlags, 0x10020001, [(0x1000, 8)], .u 32, .rw, .e, 0x0, false, false, false, (.per 0 604 32 1), [⟨2, 2, .w1c, cAny⟩, ⟨1, 1, .w1c, cAny⟩, ⟨0, 0, .ro, cAny⟩]⟩,
  ⟨.knDispatched, 0x10020100, [(0x1000, 8)], .u 64, .rc, .e, 0x0, false, false, false, (.per 0 604 32 1), []⟩,
  ⟨.knDown, 0x10020101, [(0x1000, 8)], .u 32, .rc, .e, 0x0, false, false, false, (.per 0 604 32 1), []⟩,
  ⟨.knXpart, 0x10020102, [(0x1000, 8)], .u 32, .rc, .e, 0x0, false, false, false, (.per 0 604 32 1), []⟩,
  ⟨.knDup, 0x10020103, [(0x1000, 8)], .u 32, .rc, .e, 0x0, false, false, false, (.per 0 604 32 1), []⟩,
  ⟨.knStale, 0x10020104, [(0x1000, 8)], .u 32, .rc, .e, 0x0, false, false, false, (.per 0 604 32 1), []⟩,
  ⟨.knInvalid, 0x10020105, [(0x1000, 8)], .u 32, .rc, .e, 0x0, false, false, false, (.per 0 604 32 1), []⟩,
  ⟨.knAborted, 0x10020106, [(0x1000, 8)], .u 32, .rc, .e, 0x0, false, false, false, (.per 0 604 32 1), []⟩,
  ⟨.knStalls, 0x10020107, [(0x1000, 8)], .u 32, .rc, .e, 0x0, false, false, false, (.per 0 604 32 1), []⟩,
  ⟨.knPeak, 0x10020108, [(0x1000, 8)], .u 16, .rc, .e, 0x0, false, false, false, (.per 0 604 32 1), []⟩,
  ⟨.knTileCfg, 0x10040000, [(0x1, 512)], .u 8, .rw, .k, 0xf, false, false, false, (.per 0 604 32 64), [⟨3, 0, .rw, cAny⟩]⟩,
  ⟨.knTileStat, 0x10041000, [(0x1, 512)], .u 64, .ro, .e, 0x0, false, false, false, (.per 0 604 32 64), []⟩,
  ⟨.knKind, 0x10100000, [(0x1000, 8), (0x1, 4096)], .u 64, .rw, .k, 0x0, false, false, false, (.per 0 604 32 1), [⟨63, 63, .rw, cAny⟩, ⟨62, 61, .rw, (cR [(0, 2)])⟩, ⟨60, 60, .rw, cAny⟩, ⟨47, 32, .rw, cAny⟩]⟩,
  ⟨.pxCtl, 0x10800000, [(0x100, 512)], .u 32, .rw, .k, 0x0, false, false, false, (.per 0 0 1 1), [⟨2, 2, .rw, cAny⟩, ⟨1, 1, .rw, cAny⟩, ⟨0, 0, .rw, cAny⟩]⟩,
  ⟨.pxStat, 0x10800001, [(0x100, 512)], .u 64, .ro, .e, 0x0, false, false, false, (.per 0 0 1 1), []⟩,
  ⟨.pxExc, 0x10800002, [(0x100, 512)], .u 64, .ro, .e, 0x0, false, false, false, (.per 0 0 1 1), []⟩,
  ⟨.pxEval, 0x10800003, [(0x100, 512)], .u 32, .ro, .e, 0x0, false, false, false, (.per 0 0 1 1), []⟩,
  ⟨.pxExcCnt, 0x10800004, [(0x100, 512)], .u 32, .rc, .e, 0x0, false, false, false, (.per 0 0 1 1), []⟩,
  ⟨.pxBusy, 0x10800005, [(0x100, 512)], .u 64, .rc, .e, 0x0, false, false, false, (.per 0 0 1 1), []⟩,
  ⟨.pxWait, 0x10800006, [(0x100, 512)], .u 64, .rc, .e, 0x0, false, false, false, (.per 0 0 1 1), []⟩,
  ⟨.pxRetired, 0x10800007, [(0x100, 512)], .u 64, .rc, .e, 0x0, false, false, false, (.per 0 0 1 1), []⟩,
  ⟨.pxPackCfg, 0x10820000, [(0x100, 8)], .u 64, .rw, .k, 0x1000000, false, false, false, (.per 0 576 1 1), [⟨31, 16, .rw, (cM 4)⟩, ⟨15, 0, .rw, (cM 4)⟩]⟩]

/-- Objects at index 0x11xxxx. -/
def rows11 : List Row := [
  ⟨.memAccessFaults, 0x11000000, [], .u 32, .rc, .e, 0x0, false, false, false, (.fixed 1014), []⟩,
  ⟨.memFaultLast, 0x11000001, [], .u 64, .ro, .e, 0x0, false, false, false, (.fixed 1014), []⟩,
  ⟨.memHbmCfg, 0x11000100, [], .u 32, .rws, .w, 0x0, false, false, false, (.fixed 1014), [⟨0, 0, .rw, cAny⟩]⟩,
  ⟨.memHbmStat, 0x11000200, [(0x1, 4)], .u 64, .ro, .w, 0x0, false, false, false, (.per 0 1016 1 1), []⟩,
  ⟨.memHbmRegion, 0x11010000, [(0x1, 64)], .u 64, .rws, .k, 0x0, false, false, false, (.fixed 1014), [⟨63, 63, .rw, cAny⟩, ⟨62, 62, .rw, cAny⟩, ⟨61, 58, .rw, cAny⟩, ⟨31, 16, .rw, cAny⟩, ⟨15, 0, .rw, cAny⟩]⟩,
  ⟨.lshStarveLimit, 0x11040000, [], .u 32, .rws, .w, 0x1000, false, false, false, (.fixed 1014), [⟨63, 0, .rw, (cR [(256, 1048576)])⟩]⟩,
  ⟨.lshPauseB, 0x11040001, [], .bool, .rws, .e, 0x0, false, false, false, (.fixed 1014), []⟩,
  ⟨.lshIrqCore, 0x11040002, [], .u 8, .rws, .w, 0x0, false, false, false, (.fixed 1014), [⟨63, 0, .rw, (cR [(0, 15)])⟩]⟩,
  ⟨.lshWeight, 0x11040100, [(0x1, 24)], .u 8, .rw, .k, 0x1, false, false, false, (.fixed 1014), [⟨63, 0, .rw, (cR [(1, 16)])⟩]⟩,
  ⟨.lshFlags, 0x11050000, [(0x1, 160)], .u 32, .rw, .e, 0x0, false, false, false, (.fixed 1014), [⟨31, 24, .ro, cAny⟩, ⟨1, 1, .w1c, cAny⟩, ⟨0, 0, .ro, cAny⟩]⟩,
  ⟨.lshRestarts, 0x11060000, [(0x1, 160)], .u 32, .rc, .e, 0x0, false, false, false, (.fixed 1014), []⟩,
  ⟨.lshDbeats, 0x11070000, [(0x1, 160)], .u 64, .rc, .e, 0x0, false, false, false, (.fixed 1014), []⟩,
  ⟨.lshBbeats, 0x11080000, [(0x1, 160)], .u 64, .rc, .e, 0x0, false, false, false, (.fixed 1014), []⟩,
  ⟨.dmaTailPoll, 0x11090000, [(0x1, 9)], .u 32, .rw, .k, 0x0, false, false, false, .dmaEngine, [⟨63, 0, .rw, (cR [(0, 0), (1024, 16777216)])⟩]⟩,
  ⟨.dmaContOnErr, 0x11090100, [(0x1, 9)], .u 32, .rw, .k, 0x0, false, false, false, .dmaEngine, []⟩,
  ⟨.dmaIrq, 0x11090200, [(0x1, 9)], .u 8, .rws, .w, 0x0, false, false, false, .dmaEngine, [⟨63, 0, .rw, (cR [(0, 15)])⟩]⟩,
  ⟨.dmaErrors, 0x11090300, [(0x1, 9)], .u 32, .rc, .e, 0x0, false, false, false, .dmaEngine, []⟩,
  ⟨.dmaCfg, 0x110A0000, [(0x100, 272)], .u 64, .rw, .k, 0x0, false, false, false, .dmaChannel, [⟨63, 63, .rw, cAny⟩, ⟨62, 62, .rw, cAny⟩, ⟨61, 59, .rw, cAny⟩, ⟨58, 58, .rw, cAny⟩]⟩,
  ⟨.dmaHead, 0x110A0001, [(0x100, 272)], .u 64, .rw, .k, 0x0, false, false, false, .dmaChannel, [⟨39, 0, .rw, (cM 32)⟩]⟩,
  ⟨.dmaStatus, 0x110A0002, [(0x100, 272)], .u 64, .ro, .e, 0x0, false, false, false, .dmaChannel, []⟩,
  ⟨.dmaCur, 0x110A0003, [(0x100, 272)], .u 64, .ro, .e, 0x0, false, false, false, .dmaChannel, []⟩,
  ⟨.dmaErrAddr, 0x110A0004, [(0x100, 272)], .u 64, .ro, .e, 0x0, false, false, false, .dmaChannel, []⟩,
  ⟨.dmaResume, 0x110A0005, [(0x100, 272)], .u 64, .wo, .e, 0x0, true, false, false, .dmaChannel, [⟨63, 62, .rw, cAny⟩, ⟨31, 0, .rw, cAny⟩]⟩,
  ⟨.dmaDoorbell, 0x110A0006, [(0x100, 272)], .u 64, .wo, .e, 0x0, true, false, false, .dmaChannel, []⟩,
  ⟨.dmaOwner, 0x110B0007, [(0x100, 16)], .u 8, .rws, .w, 0xff, false, false, false, (.fixed 1020), [⟨63, 0, .rw, (cR [(0, 7), (255, 255)])⟩]⟩,
  ⟨.dmaCount, 0x110A0008, [(0x100, 272)], .u 64, .rc, .e, 0x0, false, false, false, .dmaChannel, []⟩]

/-- Objects at index 0x12xxxx. -/
def rows12 : List Row := [
  ⟨.epRepeat, 0x12000000, [], .u 8, .rws, .w, 0x4, false, false, false, (.fixed 1020), [⟨63, 0, .rw, (cR [(2, 255)])⟩]⟩,
  ⟨.epIrqCore, 0x12000001, [], .u 8, .rws, .w, 0x0, false, false, false, (.fixed 1020), [⟨63, 0, .rw, (cR [(0, 15)])⟩]⟩,
  ⟨.epAnchorBase, 0x12000002, [], .u 64, .rws, .w, 0x0, false, false, false, (.fixed 1020), [⟨39, 0, .rw, (cM 67108864)⟩]⟩,
  ⟨.epClassCnt, 0x12000100, [(0x1, 16)], .u 64, .rc, .w, 0x0, false, false, false, (.fixed 1020), []⟩,
  ⟨.epClassLog, 0x12001000, [(0x100, 16), (0x1, 16)], .u 64, .ro, .w, 0x0, false, false, false, (.fixed 1020), []⟩,
  ⟨.epClassClear, 0x12001010, [(0x100, 16)], .bool, .wo, .e, 0x0, true, false, false, (.fixed 1020), []⟩,
  ⟨.epClassMismatch, 0x12001011, [(0x100, 16)], .u 32, .rc, .w, 0x0, false, false, false, (.fixed 1020), []⟩,
  ⟨.epRemap, 0x12010000, [(0x1, 8)], .u 64, .sig, .n, 0x0, false, false, false, (.fixed 1020), [⟨63, 63, .rw, cAny⟩, ⟨62, 59, .rw, cAny⟩, ⟨58, 47, .rw, cAny⟩, ⟨46, 40, .rw, cAny⟩, ⟨39, 0, .rw, cAny⟩]⟩,
  ⟨.epRemapStat, 0x12010100, [], .u 32, .ro, .n, 0x0, false, false, false, (.fixed 1020), []⟩,
  ⟨.epSpares, 0x12010200, [(0x1, 16)], .u 32, .ro, .f, 0x0, true, false, false, (.fixed 1020), []⟩,
  ⟨.epImAnchor, 0x12020000, [(0x1, 512)], .u 64, .rw, .k, 0x0, false, false, false, (.per 0 0 1 1), [⟨39, 0, .rw, (cM 65536)⟩]⟩,
  ⟨.grmHbmCfg, 0x12080000, [], .u 64, .rws, .w, 0x8000000000000080, false, false, false, (.fixed 1020), [⟨63, 63, .rw, cAny⟩, ⟨15, 0, .rw, (cR [(32, 65535)])⟩]⟩,
  ⟨.grmHbmStat, 0x12080001, [], .u 64, .ro, .w, 0x0, false, false, false, (.fixed 1020), []⟩,
  ⟨.grmCfg, 0x12081000, [(0x100, 8)], .u 64, .rws, .w, 0xc000000000000040, false, false, false, (.per 0 605 32 1), [⟨63, 63, .rw, cAny⟩, ⟨62, 62, .rw, cAny⟩, ⟨15, 0, .rw, (cR [(16, 65535)])⟩]⟩,
  ⟨.grmStat, 0x12081001, [(0x100, 8)], .u 64, .ro, .w, 0x0, false, false, false, (.per 0 605 32 1), []⟩]

/-- Objects at index 0x13xxxx. -/
def rows13 : List Row := [
  ⟨.hndCaptureMargin, 0x13080000, [], .u 8, .rws, .w, 0x18, false, false, false, (.fixed 1020), [⟨63, 0, .rw, (cR [(0, 120)])⟩]⟩,
  ⟨.hndFadeMargin, 0x13080001, [], .u 8, .rws, .w, 0xc, false, false, false, (.fixed 1020), [⟨63, 0, .rw, (cR [(0, 120)])⟩]⟩,
  ⟨.hndFadeSyms, 0x13080002, [], .u 8, .rws, .w, 0x2, false, false, false, (.fixed 1020), [⟨63, 0, .rw, (cR [(1, 8)])⟩]⟩,
  ⟨.hndFloorEscape, 0x13080003, [], .u 16, .rws, .w, 0x40, false, false, false, (.fixed 1020), [⟨63, 0, .rw, (cR [(16, 4096)])⟩]⟩,
  ⟨.hndCtl, 0x13000000, [(0x10000, 8)], .u 64, .rw, .e, 0x0, false, false, false, (.per 0 601 32 1), [⟨63, 48, .ro, cAny⟩, ⟨47, 32, .ro, cAny⟩, ⟨31, 30, .ro, cAny⟩, ⟨29, 29, .wo, cAny⟩, ⟨28, 28, .wo, cAny⟩, ⟨27, 27, .wo, cAny⟩, ⟨26, 26, .ro, cAny⟩, ⟨25, 25, .ro, cAny⟩, ⟨15, 0, .ro, cAny⟩]⟩,
  ⟨.hndCfg, 0x13000001, [(0x10000, 8)], .u 64, .rw, .k, 0x0, false, false, false, (.per 0 601 32 1), [⟨63, 55, .rw, (cR [(0, 383)])⟩, ⟨47, 24, .rw, (cM 4096)⟩, ⟨15, 8, .rw, (cR [(0, 64)])⟩, ⟨0, 0, .rw, cAny⟩]⟩,
  ⟨.hndStat, 0x13000002, [(0x10000, 8)], .u 64, .ro, .e, 0x0, true, false, false, (.per 0 601 32 1), []⟩,
  ⟨.hndErrors, 0x13000003, [(0x10000, 8)], .u 32, .rc, .e, 0x0, false, false, false, (.per 0 601 32 1), []⟩,
  ⟨.hndStream, 0x13000100, [(0x10000, 8), (0x1, 64)], .u 32, .rw, .k, 0x0, false, false, false, (.per 0 601 32 1), [⟨31, 31, .rw, cAny⟩, ⟨30, 30, .rw, cAny⟩, ⟨22, 16, .rw, cAny⟩, ⟨15, 0, .rw, cAny⟩]⟩,
  ⟨.hndOcc, 0x13000200, [(0x10000, 8), (0x8, 16)], .u 64, .ro, .e, 0x0, false, false, false, (.per 0 601 32 1), []⟩,
  ⟨.hndDet, 0x13000201, [(0x10000, 8), (0x8, 16)], .u 64, .rc, .e, 0x0, false, false, false, (.per 0 601 32 1), []⟩,
  ⟨.hndLoss, 0x13000202, [(0x10000, 8), (0x8, 16)], .u 64, .rc, .e, 0x0, false, false, false, (.per 0 601 32 1), []⟩,
  ⟨.hndFloor, 0x13000203, [(0x10000, 8), (0x8, 16)], .u 64, .rw, .e, 0x0, false, false, false, (.per 0 601 32 1), [⟨63, 40, .ro, cAny⟩, ⟨31, 16, .ro, cAny⟩, ⟨1, 1, .ro, cAny⟩, ⟨0, 0, .w1c, cAny⟩]⟩,
  ⟨.hndLbt, 0x13000204, [(0x10000, 8), (0x8, 16)], .u 64, .ro, .e, 0x0, false, false, false, (.per 0 601 32 1), []⟩,
  ⟨.hndVerdict, 0x13000300, [(0x10000, 8)], .u 64, .wo, .e, 0x0, true, false, false, (.per 0 601 32 1), [⟨63, 62, .rw, (cR [(1, 3)])⟩, ⟨31, 0, .rw, cAny⟩]⟩,
  ⟨.hndRow, 0x13001000, [(0x10000, 8), (0x1000, 2), (0x100, 16), (0x1, 8)], .u 64, .rw, .k, 0x0, false, false, false, (.per 0 601 32 1), []⟩]

/-- Objects at index 0x14xxxx. -/
def rows14 : List Row := [
  ⟨.xfJobs, 0x14000A00, [(0x2000, 8), (0x100, 7)], .u 64, .rc, .e, 0x0, false, false, false, (.accel 10), []⟩,
  ⟨.xfErrs, 0x14000A01, [(0x2000, 8), (0x100, 7)], .u 64, .rc, .e, 0x0, false, false, false, (.accel 10), []⟩,
  ⟨.xfSat, 0x14000A02, [(0x2000, 8), (0x100, 7)], .u 64, .rc, .e, 0x0, false, false, false, (.accel 10), []⟩,
  ⟨.xfLast, 0x14000A03, [(0x2000, 8), (0x100, 7)], .u 64, .ro, .e, 0x0, false, false, false, (.accel 10), []⟩]

/-- Objects at index 0x15xxxx. -/
def rows15 : List Row := [
  ⟨.cdJobs, 0x15000000, [(0x2000, 8), (0x100, 10)], .u 64, .rc, .e, 0x0, false, false, false, (.accel 0), []⟩,
  ⟨.cdErrs, 0x15000001, [(0x2000, 8), (0x100, 10)], .u 64, .rc, .e, 0x0, false, false, false, (.accel 0), []⟩,
  ⟨.cdCb, 0x15000002, [(0x2000, 8), (0x100, 10)], .u 64, .rc, .e, 0x0, false, false, false, (.accel 0), []⟩,
  ⟨.cdIter, 0x15000003, [(0x2000, 8), (0x100, 10)], .u 64, .rc, .e, 0x0, false, false, false, (.accel 0), []⟩,
  ⟨.cdErased, 0x15000004, [(0x2000, 8), (0x100, 10)], .u 32, .rc, .e, 0x0, false, false, false, (.accel 0), []⟩,
  ⟨.cdLast, 0x15000005, [(0x2000, 8), (0x100, 10)], .u 64, .ro, .e, 0x0, false, false, false, (.accel 0), []⟩]

/-- Objects at index 0x16xxxx. -/
def rows16 : List Row := [
  ⟨.flCfg, 0x16000000, [], .u 64, .rws, .w, 0x868, false, false, false, (.fixed 856), [⟨63, 63, .rw, cAny⟩, ⟨62, 62, .rw, cAny⟩, ⟨61, 61, .rw, cAny⟩, ⟨15, 0, .rw, cAny⟩]⟩,
  ⟨.flTableBase, 0x16000001, [], .u 64, .rws, .w, 0x0, false, false, false, (.fixed 856), [⟨39, 0, .rw, (cM 134217728)⟩]⟩,
  ⟨.flCtxBase, 0x16000002, [], .u 64, .rws, .w, 0x0, false, false, false, (.fixed 856), [⟨39, 0, .rw, (cM 536870912)⟩]⟩,
  ⟨.flSeed, 0x16000003, [], .u 64, .rws, .w, 0x0, false, false, false, (.fixed 856), []⟩,
  ⟨.flPoll, 0x16000004, [], .u 32, .rw, .w, 0x100, false, false, false, (.fixed 856), [⟨63, 0, .rw, (cR [(16, 65536)])⟩]⟩,
  ⟨.flStat, 0x16000100, [], .u 64, .ro, .e, 0x0, true, false, false, (.fixed 856), []⟩,
  ⟨.flDrop, 0x16000200, [(0x1, 12)], .u 32, .rc, .e, 0x0, false, false, false, (.fixed 856), []⟩,
  ⟨.flPool, 0x16000300, [(0x1, 8)], .u 64, .rws, .k, 0x0, false, false, false, (.fixed 856), [⟨63, 48, .rw, cAny⟩, ⟨39, 0, .rw, (cM 2048)⟩]⟩,
  ⟨.flCarrierRat, 0x16000400, [(0x1, 48)], .u 64, .rw, .k, 0x0, false, false, false, (.fixed 856), []⟩,
  ⟨.flRingCfg, 0x16010000, [(0x100, 256)], .u 64, .rw, .k, 0x0, false, false, false, (.fixed 856), [⟨63, 63, .rw, cAny⟩, ⟨62, 61, .rw, cAny⟩, ⟨60, 57, .rw, cAny⟩, ⟨56, 53, .rw, cAny⟩, ⟨52, 52, .rw, cAny⟩, ⟨51, 48, .rw, (cR [(0, 8)])⟩, ⟨44, 40, .rw, (cR [(0, 0), (4, 16)])⟩]⟩,
  ⟨.flRingBase, 0x16010001, [(0x100, 256)], .u 64, .rw, .k, 0x0, false, false, false, (.fixed 856), [⟨39, 0, .rw, (cM 64)⟩]⟩,
  ⟨.flRingStat, 0x16010002, [(0x100, 256)], .u 64, .rc, .e, 0x0, false, false, false, (.fixed 856), []⟩,
  ⟨.flPeer, 0x16020000, [(0x100, 256), (0x1, 8)], .u 64, .rws, .k, 0x0, false, false, false, (.fixed 856), []⟩]

/-- Objects at index 0x17xxxx. -/
def rows17 : List Row := [
  ⟨.lnLtTimeout, 0x17004000, [], .u 32, .rws, .w, 0x3e8, false, false, false, (.fixed 1020), [⟨63, 0, .rw, (cR [(100, 60000)])⟩]⟩,
  ⟨.lnOCfg, 0x17000000, [(0x100, 16)], .u 64, .rws, .w, 0x0, false, false, false, (.per 0 992 1 1), [⟨63, 60, .rw, cAny⟩, ⟨59, 58, .rw, cAny⟩, ⟨57, 57, .rw, cAny⟩, ⟨56, 56, .rw, cAny⟩]⟩,
  ⟨.lnOStat, 0x17000001, [(0x100, 16)], .u 64, .ro, .e, 0x0, true, false, false, (.per 0 992 1 1), []⟩,
  ⟨.lnCfg, 0x17010000, [(0x100, 128)], .u 64, .rws, .w, 0x0, false, false, false, (.per 0 992 1 8), [⟨63, 63, .rw, cAny⟩, ⟨62, 62, .rw, cAny⟩, ⟨61, 61, .rw, cAny⟩, ⟨60, 58, .rw, (cR [(0, 3)])⟩, ⟨57, 57, .rw, cAny⟩, ⟨56, 56, .rw, cAny⟩, ⟨55, 52, .rw, cAny⟩, ⟨51, 50, .rw, (cR [(0, 2)])⟩]⟩,
  ⟨.lnStat, 0x17010001, [(0x100, 128)], .u 64, .rw, .e, 0x0, false, false, false, (.per 0 992 1 8), [⟨63, 60, .ro, cAny⟩, ⟨59, 56, .ro, cAny⟩, ⟨55, 54, .ro, cAny⟩, ⟨4, 4, .ro, cAny⟩, ⟨3, 3, .ro, cAny⟩, ⟨2, 2, .ro, cAny⟩, ⟨1, 1, .ro, cAny⟩, ⟨0, 0, .w1c, cAny⟩, ⟨53, 5, .ro, cAny⟩]⟩,
  ⟨.lnAn, 0x17010002, [(0x100, 128)], .u 32, .rws, .w, 0x3, false, false, false, (.per 0 992 1 8), [⟨15, 15, .rw, cAny⟩, ⟨8, 0, .rw, cAny⟩]⟩,
  ⟨.lnCnt, 0x17010003, [(0x100, 128)], .u 64, .rc, .e, 0x0, false, false, false, (.per 0 992 1 8), []⟩,
  ⟨.lnFec, 0x17010004, [(0x100, 128)], .u 64, .rc, .e, 0x0, false, false, false, (.per 0 992 1 8), []⟩,
  ⟨.lnPrbs, 0x17010005, [(0x100, 128)], .u 32, .rw, .e, 0x0, false, false, false, (.per 0 992 1 8), [⟨31, 31, .rw, cAny⟩, ⟨30, 30, .rw, cAny⟩, ⟨29, 29, .ro, cAny⟩, ⟨2, 0, .rw, (cR [(0, 4)])⟩]⟩,
  ⟨.lnPrbsErr, 0x17010006, [(0x100, 128)], .u 64, .rc, .e, 0x0, false, false, false, (.per 0 992 1 8), []⟩,
  ⟨.lnEyeCtl, 0x17010007, [(0x100, 128)], .u 64, .rw, .e, 0x0, false, false, false, (.per 0 992 1 8), [⟨63, 63, .wo, cAny⟩, ⟨62, 61, .rw, (cR [(0, 2)])⟩, ⟨47, 40, .rw, ⟨[], some (-32, 31), 1⟩⟩, ⟨39, 32, .rw, ⟨[], some (-127, 127), 1⟩⟩, ⟨5, 0, .rw, (cR [(0, 0), (10, 40)])⟩]⟩,
  ⟨.lnEyeRes, 0x17010008, [(0x100, 128)], .u 64, .ro, .e, 0x0, false, false, false, (.per 0 992 1 8), []⟩,
  ⟨.lnSlip, 0x17010009, [(0x100, 128)], .u 32, .wo, .e, 0x0, true, false, false, (.per 0 992 1 8), [⟨0, 0, .rw, cAny⟩]⟩,
  ⟨.lnRxword, 0x1701000A, [(0x100, 128)], .u 64, .ro, .e, 0x0, false, false, false, (.per 0 992 1 8), []⟩,
  ⟨.lnTest, 0x1701000B, [(0x100, 128)], .u 64, .rw, .w, 0x0, false, false, false, (.per 0 992 1 8), [⟨63, 63, .rw, cAny⟩, ⟨31, 0, .rw, (cR [(0, 0), (1250, 112000)])⟩]⟩]

/-- Objects at index 0x18xxxx. -/
def rows18 : List Row := [
  ⟨.ethCfg, 0x18000000, [(0x100, 128)], .u 64, .rw, .k, 0x5f2, false, false, false, (.per 0 864 1 1), [⟨63, 63, .rw, cAny⟩, ⟨62, 62, .rw, cAny⟩, ⟨61, 61, .rw, cAny⟩, ⟨60, 60, .rw, cAny⟩, ⟨59, 59, .rw, cAny⟩, ⟨58, 58, .rw, cAny⟩, ⟨57, 57, .rw, cAny⟩, ⟨56, 56, .rw, cAny⟩, ⟨55, 52, .ro, cAny⟩, ⟨13, 0, .rw, (cR [(64, 9600)])⟩]⟩,
  ⟨.ethOwner, 0x18000001, [(0x100, 128)], .u 8, .rws, .w, 0xff, false, false, false, (.per 0 864 1 1), [⟨63, 0, .rw, (cR [(0, 7), (255, 255)])⟩]⟩,
  ⟨.ethQmap, 0x18000002, [(0x100, 128)], .u 64, .rw, .k, 0x72076543210, false, false, false, (.per 0 864 1 1), [⟨42, 40, .rw, cAny⟩, ⟨38, 36, .rw, cAny⟩, ⟨31, 0, .rw, cAny⟩]⟩,
  ⟨.ethBr, 0x18000003, [(0x100, 128)], .u 32, .rw, .k, 0x1, false, false, false, (.per 0 864 1 1), [⟨12, 12, .rw, cAny⟩, ⟨11, 0, .rw, (cR [(1, 4094)])⟩]⟩,
  ⟨.ethTsAdj, 0x18000004, [(0x100, 128)], .u 64, .rw, .w, 0x0, false, false, false, (.per 0 864 1 1), []⟩,
  ⟨.ethHrx, 0x18000005, [(0x100, 128)], .u 64, .rw, .k, 0x0, false, false, false, (.per 0 864 1 1), [⟨63, 63, .rw, cAny⟩, ⟨62, 59, .rw, cAny⟩, ⟨58, 58, .rw, cAny⟩, ⟨52, 48, .rw, (cR [(0, 0), (4, 14)])⟩, ⟨39, 0, .rw, (cM 64)⟩]⟩,
  ⟨.ethHtx, 0x18000006, [(0x100, 128)], .u 64, .rw, .k, 0x0, false, false, false, (.per 0 864 1 1), [⟨63, 63, .rw, cAny⟩, ⟨62, 59, .rw, cAny⟩, ⟨58, 58, .rw, cAny⟩, ⟨52, 48, .rw, (cR [(0, 0), (4, 14)])⟩, ⟨39, 0, .rw, (cM 64)⟩]⟩,
  ⟨.ethHrxBuf, 0x18000007, [(0x100, 128)], .u 32, .rw, .k, 0x800, false, false, false, (.per 0 864 1 1), [⟨63, 0, .rw, ⟨[(256, 16384)], none, 64⟩⟩]⟩,
  ⟨.ethDly, 0x18000008, [(0x100, 128)], .u 64, .rw, .e, 0x0, false, false, false, (.per 0 864 1 1), [⟨63, 63, .wo, cAny⟩, ⟨62, 62, .w1c, cAny⟩, ⟨61, 61, .w1c, cAny⟩, ⟨61, 56, .wo, cAny⟩, ⟨7, 0, .wo, cAny⟩]⟩,
  ⟨.ethDlyRes, 0x18000009, [(0x100, 128), (0x1, 3)], .u 64, .ro, .e, 0x0, false, false, false, (.per 0 864 1 1), []⟩,
  ⟨.ethDlyComp, 0x1800000C, [(0x100, 128)], .sg 64, .ro, .e, 0x0, false, false, false, (.per 0 864 1 1), []⟩,
  ⟨.ethUcast, 0x18010000, [(0x100, 128), (0x1, 16)], .u 64, .rw, .k, 0x0, false, false, false, (.per 0 864 1 1), [⟨63, 63, .rw, cAny⟩, ⟨47, 0, .rw, cAny⟩]⟩,
  ⟨.ethGhash, 0x18018000, [(0x100, 128), (0x1, 64)], .u 64, .rw, .k, 0x0, false, false, false, (.per 0 864 1 1), []⟩,
  ⟨.ethCnt, 0x18020000, [(0x100, 128), (0x1, 27)], .u 64, .rc, .e, 0x0, false, false, false, (.per 0 864 1 1), []⟩,
  ⟨.gclCtl, 0x18030000, [(0x100, 128)], .u 64, .rw, .e, 0x0, false, false, false, (.per 0 864 1 1), [⟨63, 48, .ro, cAny⟩, ⟨47, 32, .ro, cAny⟩, ⟨31, 30, .ro, cAny⟩, ⟨29, 29, .wo, cAny⟩, ⟨28, 28, .wo, cAny⟩, ⟨27, 27, .wo, cAny⟩, ⟨26, 26, .ro, cAny⟩, ⟨25, 25, .ro, cAny⟩, ⟨15, 0, .ro, cAny⟩]⟩,
  ⟨.gclCfg, 0x18030001, [(0x100, 128)], .u 64, .rw, .k, 0xff00, false, false, false, (.per 0 864 1 1), [⟨63, 63, .rw, cAny⟩, ⟨15, 8, .rw, cAny⟩]⟩,
  ⟨.gclBase, 0x18030002, [(0x100, 128), (0x1, 2)], .u 64, .rw, .k, 0x0, false, false, false, (.per 0 864 1 1), []⟩,
  ⟨.gclCycle, 0x18030004, [(0x100, 128)], .u 32, .rw, .k, 0x0, false, false, false, (.per 0 864 1 1), [⟨63, 0, .rw, (cR [(0, 0), (1000, 1000000000)])⟩]⟩,
  ⟨.gclRow, 0x18800000, [(0x1000, 128), (0x800, 2), (0x1, 2048)], .u 64, .rw, .k, 0x0, false, false, false, (.per 0 864 1 1), []⟩,
  ⟨.ethVlan, 0x18100000, [(0x100, 64)], .u 64, .rw, .k, 0x0, false, false, false, (.fixed 1020), [⟨63, 63, .rw, cAny⟩, ⟨62, 59, .rw, cAny⟩, ⟨11, 0, .rw, (cR [(0, 4094)])⟩]⟩,
  ⟨.ethVlanMember, 0x18100001, [(0x100, 64), (0x1, 2)], .u 64, .rw, .k, 0x0, false, false, false, (.fixed 1020), []⟩,
  ⟨.ethVlanUntag, 0x18100003, [(0x100, 64), (0x1, 2)], .u 64, .rw, .k, 0x0, false, false, false, (.fixed 1020), []⟩,
  ⟨.ethBrAge, 0x18110000, [], .u 32, .rws, .w, 0x12c, false, false, false, (.fixed 1020), [⟨63, 0, .rw, (cR [(10, 1000000)])⟩]⟩,
  ⟨.ethBrStat, 0x18110001, [], .u 32, .ro, .e, 0x0, true, false, false, (.fixed 1020), []⟩,
  ⟨.ethRu, 0x18120000, [(0x100, 64)], .u 64, .rw, .k, 0x0, false, false, false, (.fixed 1020), [⟨63, 63, .rw, cAny⟩, ⟨62, 59, .rw, cAny⟩, ⟨47, 0, .rw, cAny⟩]⟩,
  ⟨.ethRuTag, 0x18120001, [(0x100, 64)], .u 32, .rw, .k, 0x0, false, false, false, (.fixed 1020), [⟨15, 13, .rw, cAny⟩, ⟨12, 0, .rw, cAny⟩]⟩,
  ⟨.ethStr, 0x18200000, [(0x100, 4096), (0x1, 4)], .u 64, .rw, .k, 0x0, false, false, false, (.fixed 1020), []⟩,
  ⟨.ethStrStat, 0x18200004, [(0x100, 4096)], .u 64, .rc, .e, 0x0, false, false, false, (.fixed 1020), []⟩,
  ⟨.ethStrErr, 0x18200005, [(0x100, 4096)], .u 64, .rc, .e, 0x0, false, false, false, (.fixed 1020), []⟩,
  ⟨.cpriCfg, 0x18400000, [(0x100, 32)], .u 64, .rw, .k, 0x0, false, false, false, (.fixed 1020), [⟨63, 63, .rw, cAny⟩, ⟨62, 60, .rw, cAny⟩, ⟨59, 36, .rw, (cM 65536)⟩, ⟨35, 27, .rw, cAny⟩, ⟨19, 0, .rw, cAny⟩]⟩,
  ⟨.cpriStat, 0x18400001, [(0x100, 32)], .u 64, .ro, .e, 0x0, false, false, false, (.fixed 1020), []⟩,
  ⟨.cpriCnt, 0x18400002, [(0x100, 32)], .u 64, .rc, .e, 0x0, false, false, false, (.fixed 1020), []⟩]

/-- Objects at index 0x19xxxx. -/
def rows19 : List Row := [
  ⟨.shdL0Limit, 0x19000000, [], .u 32, .rws, .w, 0x4000, false, false, false, (.fixed 1013), [⟨63, 0, .rw, (cR [(1024, 1048576)])⟩]⟩,
  ⟨.shdL3Limit, 0x19000001, [], .u 32, .rws, .w, 0x4e20, false, false, false, (.fixed 1013), [⟨63, 0, .rw, (cR [(1000, 10000000)])⟩]⟩,
  ⟨.shdL3First, 0x19000002, [], .u 32, .rws, .w, 0x7d0, false, false, false, (.fixed 1013), [⟨63, 0, .rw, (cR [(100, 60000)])⟩]⟩,
  ⟨.shdL4Limit, 0x19000003, [], .u 32, .rws, .w, 0x30d40, false, false, false, (.fixed 1013), [⟨63, 0, .rw, (cR [(10000, 10000000)])⟩]⟩,
  ⟨.shdReturn, 0x19000004, [], .u 32, .rws, .w, 0x0, false, false, false, (.fixed 1013), [⟨63, 0, .rw, (cR [(0, 86400)])⟩]⟩,
  ⟨.shdFaultCfg, 0x19000005, [], .u 32, .rws, .w, 0x0, false, false, false, (.fixed 1013), [⟨1, 1, .rw, cAny⟩, ⟨0, 0, .rw, cAny⟩]⟩,
  ⟨.shdIrqCore, 0x19000006, [], .u 8, .rws, .w, 0x0, false, false, false, (.fixed 1013), [⟨63, 0, .rw, (cR [(0, 15)])⟩]⟩,
  ⟨.shdL0Cfg, 0x19000100, [], .u 64, .rws, .w, 0x402000000002710, false, false, false, (.fixed 1013), [⟨63, 56, .rw, (cR [(1, 63)])⟩, ⟨49, 48, .rw, cAny⟩, ⟨31, 0, .rw, (cR [(100, 86400000)])⟩]⟩,
  ⟨.shdL1Cfg, 0x19000101, [], .u 64, .rws, .w, 0x301000000002710, false, false, false, (.fixed 1013), [⟨63, 56, .rw, (cR [(1, 63)])⟩, ⟨49, 48, .rw, cAny⟩, ⟨31, 0, .rw, (cR [(100, 86400000)])⟩]⟩,
  ⟨.shdL2Cfg, 0x19000102, [], .u 64, .rws, .w, 0x8000000000003e8, false, false, false, (.fixed 1013), [⟨63, 56, .rw, (cR [(1, 63)])⟩, ⟨49, 48, .rw, cAny⟩, ⟨31, 0, .rw, (cR [(100, 86400000)])⟩]⟩,
  ⟨.shdL3Cfg, 0x19000103, [], .u 64, .rws, .w, 0x1020000000927c0, false, false, false, (.fixed 1013), [⟨63, 56, .rw, (cR [(1, 63)])⟩, ⟨49, 48, .rw, cAny⟩, ⟨31, 0, .rw, (cR [(100, 86400000)])⟩]⟩,
  ⟨.shdL4Cfg, 0x19000104, [], .u 64, .rws, .w, 0x10300000036ee80, false, false, false, (.fixed 1013), [⟨63, 56, .rw, (cR [(1, 63)])⟩, ⟨49, 48, .rw, cAny⟩, ⟨31, 0, .rw, (cR [(100, 86400000)])⟩]⟩,
  ⟨.shdPet, 0x19001000, [(0x1, 8)], .u 64, .rw, .e, 0x0, false, false, false, (.fixed 1013), []⟩,
  ⟨.shdExpiries, 0x19002000, [(0x1, 5)], .u 32, .rc, .w, 0x0, false, false, false, (.fixed 1013), []⟩,
  ⟨.terCfg, 0x19080000, [], .u 64, .rws, .w, 0xb80003e8fff0f800, false, false, false, (.fixed 1013), [⟨63, 63, .rw, cAny⟩, ⟨62, 62, .rw, cAny⟩, ⟨61, 61, .rw, cAny⟩, ⟨60, 60, .rw, cAny⟩, ⟨59, 59, .rw, cAny⟩, ⟨58, 58, .rw, cAny⟩, ⟨47, 32, .rw, (cR [(100, 65535)])⟩, ⟨31, 20, .rw, cAny⟩, ⟨15, 0, .rw, ⟨[(0, 63488)], none, 4⟩⟩]⟩,
  ⟨.terScratch, 0x19080001, [], .u 32, .rws, .w, 0x0, false, false, false, (.fixed 1013), [⟨31, 31, .rw, cAny⟩, ⟨23, 0, .rw, (cM 65536)⟩]⟩,
  ⟨.terPStat, 0x19081000, [(0x100, 8)], .u 64, .ro, .w, 0x0, false, false, false, (.per 0 576 1 1), []⟩]

/-- Objects at index 0x1Axxxx. -/
def rows1A : List Row := [
  ⟨.evrStat, 0x1A000000, [], .u 64, .ro, .e, 0x0, true, false, false, (.fixed 1013), []⟩,
  ⟨.evrCnt, 0x1A000001, [], .u 64, .rc, .w, 0x0, false, false, false, (.fixed 1013), []⟩,
  ⟨.evrOpsec, 0x1A000002, [], .u 64, .ro, .n, 0x0, true, false, false, (.fixed 1013), []⟩,
  ⟨.evrPwrcyc, 0x1A000003, [], .u 32, .ro, .n, 0x0, false, false, false, (.fixed 1013), []⟩,
  ⟨.evrClear, 0x1A000100, [], .u 64, .sig, .e, 0x0, true, false, false, (.fixed 1013), [⟨23, 0, .rw, cAny⟩]⟩,
  ⟨.evrCursor, 0x1A000200, [], .u 64, .rw, .e, 0x0, false, false, true, (.fixed 1013), [⟨23, 0, .rw, cAny⟩, ⟨63, 62, .ro, cAny⟩, ⟨36, 24, .ro, cAny⟩]⟩,
  ⟨.evrRecord, 0x1A010000, [(0x1, 512)], .octets, .ro, .e, 0x0, true, false, true, (.fixed 1013), []⟩,
  ⟨.evrUserBuf, 0x1A020000, [(0x1, 255)], .octets, .wo, .e, 0x0, true, false, true, (.fixed 1013), []⟩,
  ⟨.evrUserCtl, 0x1A020100, [], .u 64, .rw, .e, 0x0, false, false, true, (.fixed 1013), [⟨63, 48, .rw, (cR [(32768, 65535)])⟩, ⟨11, 0, .rw, (cR [(0, 2040)])⟩]⟩]

/-- Objects at index 0x1Bxxxx. -/
def rows1B : List Row := [
  ⟨.prtPacks, 0x1B000000, [(0x100, 8)], .u 8, .rws, .n, 0x0, false, false, false, (.fixed 1013), []⟩,
  ⟨.prtCores, 0x1B000001, [(0x100, 8)], .u 16, .rws, .n, 0x0, false, false, false, (.fixed 1013), []⟩,
  ⟨.prtMacs, 0x1B000002, [(0x100, 8), (0x1, 2)], .u 64, .rws, .n, 0x0, false, false, false, (.fixed 1013), []⟩,
  ⟨.prtHbm, 0x1B000004, [(0x100, 8)], .u 32, .rws, .n, 0x0, false, false, false, (.fixed 1013), [⟨31, 16, .rw, cAny⟩, ⟨15, 0, .rw, cAny⟩]⟩,
  ⟨.prtCarriers, 0x1B001000, [(0x1, 48)], .u 64, .rws, .w, 0xffffffffffffffff, false, false, false, (.fixed 1013), []⟩,
  ⟨.prtSpan, 0x1B002000, [], .u 64, .ro, .e, 0x0, true, false, false, (.fixed 1013), []⟩,
  ⟨.hoCfg, 0x1B030000, [(0x100, 16)], .u 64, .rw, .e, 0x0, false, false, false, (.fixed 1013), [⟨63, 55, .rw, (cR [(0, 383)])⟩, ⟨54, 52, .rw, cAny⟩, ⟨50, 48, .rw, cAny⟩, ⟨31, 0, .rw, cAny⟩]⟩,
  ⟨.hoOp, 0x1B030001, [(0x100, 16)], .u 64, .rw, .e, 0x0, false, false, false, (.fixed 1013), [⟨2, 0, .rw, (cR [(1, 4)])⟩, ⟨63, 60, .ro, cAny⟩, ⟨59, 56, .ro, cAny⟩, ⟨47, 32, .ro, cAny⟩]⟩,
  ⟨.hoRegions, 0x1B030002, [(0x100, 16)], .u 64, .rw, .e, 0x0, false, false, false, (.fixed 1013), []⟩,
  ⟨.hoMacs, 0x1B030003, [(0x100, 16), (0x1, 2)], .u 64, .rw, .e, 0x0, false, false, false, (.fixed 1013), []⟩,
  ⟨.hoExport, 0x1B030005, [(0x100, 16)], .u 8, .rw, .e, 0x0, false, false, false, (.fixed 1013), [⟨7, 7, .rw, cAny⟩, ⟨5, 0, .rw, cAny⟩]⟩,
  ⟨.hoCut, 0x1B030010, [(0x100, 16), (0x1, 128)], .u 64, .rw, .e, 0x0, false, false, false, (.fixed 1013), []⟩,
  ⟨.fwCfg, 0x1B010000, [(0x100, 8)], .u 64, .rws, .n, 0x0, false, false, false, (.fixed 1013), [⟨63, 63, .rw, cAny⟩, ⟨62, 62, .ro, cAny⟩]⟩,
  ⟨.fwSlot, 0x1B010001, [(0x100, 8)], .u 32, .rws, .n, 0x0, false, false, false, (.fixed 1013), [⟨31, 16, .rw, cAny⟩, ⟨15, 0, .rw, cAny⟩]⟩,
  ⟨.fwCtl, 0x1B010002, [(0x100, 8)], .u 64, .rws, .e, 0x0, true, false, false, (.fixed 1013), [⟨1, 0, .rw, (cR [(1, 3)])⟩]⟩,
  ⟨.fwStat, 0x1B010003, [(0x100, 8)], .u 64, .ro, .e, 0x0, true, false, false, (.fixed 1013), []⟩,
  ⟨.fwVer, 0x1B010004, [(0x100, 8)], .u 64, .ro, .e, 0x0, true, false, false, (.fixed 1013), []⟩,
  ⟨.fwMeas, 0x1B010008, [(0x100, 8), (0x1, 8)], .octets, .ro, .e, 0x0, true, false, false, (.fixed 1013), []⟩,
  ⟨.fwTrialLimit, 0x1B018000, [], .u 32, .rws, .n, 0xe10, false, false, false, (.fixed 1013), [⟨63, 0, .rw, (cR [(60, 86400)])⟩]⟩,
  ⟨.fwFlashCtl, 0x1B018100, [], .u 64, .rws, .e, 0x0, false, false, true, (.fixed 1013), [⟨63, 62, .rw, cAny⟩, ⟨41, 32, .rw, cAny⟩, ⟨31, 0, .rw, cAny⟩]⟩,
  ⟨.fwFlashBuf, 0x1B018200, [(0x1, 128)], .octets, .rw, .e, 0x0, false, false, true, (.fixed 1013), []⟩,
  ⟨.fwFlashParts, 0x1B018300, [], .u 8, .rws, .n, 0x0, false, false, false, (.fixed 1013), []⟩,
  ⟨.secFwKey, 0x1B020000, [(0x100, 4), (0x1, 8)], .octets, .sig, .n, 0x0, false, false, false, (.fixed 1013), []⟩,
  ⟨.secSvnFloor, 0x1B021000, [], .u 32, .sig, .n, 0x0, false, false, false, (.fixed 1013), []⟩,
  ⟨.secDebug, 0x1B021100, [], .u 64, .sig, .e, 0x0, false, false, false, (.fixed 1013), [⟨0, 0, .rw, cAny⟩]⟩,
  ⟨.secAttestNonce, 0x1B022000, [(0x1, 4)], .octets, .wo, .e, 0x0, true, false, true, (.fixed 1013), []⟩,
  ⟨.secAttestCtl, 0x1B022100, [], .u 64, .rw, .e, 0x0, false, false, true, (.fixed 1013), [⟨0, 0, .wo, cAny⟩]⟩,
  ⟨.secAttestReport, 0x1B022200, [(0x1, 113)], .octets, .ro, .e, 0x0, true, false, true, (.fixed 1013), []⟩,
  ⟨.gplCfg, 0x1B040000, [], .u 8, .rws, .n, 0x0, false, false, false, (.fixed 1020), [⟨1, 0, .rw, cAny⟩]⟩,
  ⟨.gplGCfg, 0x1B041000, [(0x100, 4)], .u 64, .rws, .w, 0x0, false, false, false, (.per 0 1008 1 1), [⟨63, 63, .rw, cAny⟩, ⟨15, 0, .rw, cAny⟩]⟩,
  ⟨.gplStat, 0x1B041001, [(0x100, 4)], .u 64, .ro, .e, 0x0, true, false, false, (.per 0 1008 1 1), []⟩,
  ⟨.gplPeer, 0x1B041002, [(0x100, 4)], .u 64, .ro, .e, 0x0, true, false, false, (.per 0 1008 1 1), []⟩,
  ⟨.gplPair, 0x1B041003, [(0x100, 4)], .u 32, .rws, .w, 0x0, false, false, false, (.per 0 1008 1 1), [⟨31, 31, .rw, cAny⟩, ⟨30, 28, .rw, cAny⟩, ⟨26, 24, .rw, cAny⟩, ⟨23, 23, .rw, cAny⟩, ⟨22, 20, .rw, cAny⟩, ⟨18, 16, .rw, cAny⟩, ⟨15, 15, .rw, cAny⟩, ⟨14, 12, .rw, cAny⟩, ⟨10, 8, .rw, cAny⟩, ⟨7, 7, .rw, cAny⟩, ⟨6, 4, .rw, cAny⟩, ⟨2, 0, .rw, cAny⟩]⟩,
  ⟨.gplCnt, 0x1B041004, [(0x100, 4)], .u 64, .rc, .e, 0x0, false, false, false, (.per 0 1008 1 1), []⟩,
  ⟨.gplRelayReq, 0x1B048000, [], .u 64, .rw, .e, 0x0, false, false, true, (.fixed 1020), [⟨63, 62, .rw, cAny⟩, ⟨49, 48, .rw, cAny⟩, ⟨31, 8, .rw, cAny⟩, ⟨7, 0, .rw, cAny⟩]⟩,
  ⟨.gplRelayVal, 0x1B048001, [], .u 64, .rw, .e, 0x0, false, false, true, (.fixed 1020), []⟩]

/-- Objects at index 0x1Cxxxx. -/
def rows1C : List Row := [
  ⟨.pinGpioCfg, 0x1C000000, [(0x100, 64)], .u 64, .rws, .w, 0x0, false, false, false, (.fixed 1020), [⟨63, 62, .rw, cAny⟩, ⟨61, 61, .rw, cAny⟩, ⟨60, 60, .rw, cAny⟩, ⟨59, 58, .rw, (cR [(0, 2)])⟩, ⟨57, 56, .rw, (cR [(0, 2)])⟩, ⟨55, 52, .rw, (cR [(0, 7), (15, 15)])⟩]⟩,
  ⟨.pinGpioIn, 0x1C004000, [(0x1, 2)], .u 64, .ro, .e, 0x0, true, false, false, (.fixed 1020), []⟩,
  ⟨.pinStat, 0x1C004100, [], .u 64, .ro, .e, 0x0, true, false, false, (.fixed 1020), []⟩,
  ⟨.pinMgtCfg, 0x1C005000, [], .u 32, .rws, .n, 0x0, false, false, false, (.fixed 1020), [⟨1, 1, .rw, cAny⟩, ⟨0, 0, .rw, cAny⟩]⟩,
  ⟨.pinUartCfg, 0x1C005100, [], .u 32, .rws, .w, 0xff01c200, false, false, false, (.fixed 1020), [⟨31, 24, .rw, (cR [(0, 7), (255, 255)])⟩, ⟨23, 0, .rw, (cR [(9600, 3000000)])⟩]⟩,
  ⟨.pinI2cCfg, 0x1C006000, [(0x100, 2)], .u 64, .rws, .w, 0xf000000000000000, false, false, false, (.fixed 1020), [⟨63, 60, .rw, (cR [(0, 7), (15, 15)])⟩, ⟨1, 0, .rw, (cR [(0, 2)])⟩]⟩,
  ⟨.pinI2cXfer, 0x1C006001, [(0x100, 2)], .u 64, .rw, .e, 0x0, false, false, false, (.fixed 1020), [⟨63, 62, .rw, (cR [(1, 3)])⟩, ⟨54, 48, .rw, cAny⟩, ⟨45, 40, .rw, (cR [(0, 32)])⟩, ⟨37, 32, .rw, (cR [(0, 32)])⟩]⟩,
  ⟨.pinI2cBuf, 0x1C006002, [(0x100, 2), (0x1, 4)], .octets, .rw, .e, 0x0, false, false, false, (.fixed 1020), []⟩]

/-- Objects at the per-carrier blocks. -/
def rows20 : List Row := [
  ⟨.knPlanCtl, 0x20010000, [(0x100000, 384)], .u 64, .rw, .e, 0x0, false, false, false, (.fixed 1020), [⟨63, 48, .ro, cAny⟩, ⟨47, 32, .ro, cAny⟩, ⟨31, 30, .ro, cAny⟩, ⟨29, 29, .wo, cAny⟩, ⟨28, 28, .wo, cAny⟩, ⟨27, 27, .wo, cAny⟩, ⟨26, 26, .ro, cAny⟩, ⟨25, 25, .ro, cAny⟩, ⟨15, 0, .ro, cAny⟩]⟩,
  ⟨.knPlanCfg, 0x20010001, [(0x100000, 384)], .u 64, .rw, .k, 0x0, false, false, false, (.fixed 1020), [⟨63, 63, .rw, cAny⟩, ⟨62, 60, .rw, cAny⟩, ⟨23, 0, .rw, (cM 131072)⟩]⟩,
  ⟨.knPlanStat, 0x20010002, [(0x100000, 384)], .u 64, .rw, .k, 0x0, false, false, false, (.fixed 1020), [⟨63, 32, .ro, cAny⟩, ⟨31, 16, .ro, cAny⟩, ⟨11, 8, .ro, cAny⟩, ⟨0, 0, .w1c, cAny⟩]⟩,
  ⟨.knPlanRow, 0x20040000, [(0x100000, 384), (0x4000, 2), (0x1, 16384)], .u 64, .rw, .k, 0x0, false, false, false, (.fixed 1020), []⟩,
  ⟨.hndFrameRef, 0x20020000, [(0x100000, 384), (0x1, 2)], .u 64, .rw, .k, 0x0, false, false, false, (.fixed 1020), []⟩,
  ⟨.txCfg, 0x20030000, [(0x100000, 384)], .u 64, .rw, .k, 0x0, false, false, false, (.fixed 1020), [⟨63, 63, .rw, cAny⟩, ⟨62, 62, .rw, cAny⟩, ⟨61, 60, .rw, cAny⟩, ⟨59, 58, .rw, cAny⟩, ⟨57, 57, .rw, cAny⟩, ⟨56, 52, .rw, cAny⟩, ⟨47, 36, .rw, cAny⟩, ⟨35, 24, .rw, cAny⟩, ⟨23, 16, .rw, cAny⟩]⟩,
  ⟨.txPa, 0x20030001, [(0x100000, 384)], .u 32, .rw, .k, 0x0, false, false, false, (.fixed 1020), [⟨31, 31, .rw, cAny⟩, ⟨3, 0, .rw, cAny⟩]⟩,
  ⟨.txAirDelay, 0x20030002, [(0x100000, 384)], .u 32, .rw, .k, 0x0, false, false, false, (.fixed 1020), [⟨63, 0, .rw, (cR [(0, 1000000)])⟩]⟩,
  ⟨.txStat, 0x20030003, [(0x100000, 384)], .u 64, .rc, .e, 0x0, false, false, false, (.fixed 1020), []⟩,
  ⟨.txGate, 0x20030004, [(0x100000, 384)], .u 64, .ro, .e, 0x0, true, false, false, (.fixed 1020), []⟩,
  ⟨.txRampTab, 0x20031000, [(0x100000, 384), (0x1, 16)], .u 64, .rw, .k, 0x0, false, false, false, (.fixed 1020), []⟩,
  ⟨.txTdd, 0x20032000, [(0x100000, 384), (0x1, 18)], .u 64, .rw, .k, 0x0, false, false, false, (.fixed 1020), []⟩,
  ⟨.cdBankCfg, 0x20050000, [(0x100000, 384)], .u 64, .rw, .k, 0x0, false, false, false, (.fixed 1020), [⟨63, 63, .rw, cAny⟩, ⟨47, 40, .rw, (cR [(0, 32)])⟩, ⟨31, 0, .rw, cAny⟩]⟩,
  ⟨.cdBankClose, 0x20050001, [(0x100000, 384)], .u 32, .rw, .k, 0x155cc0, false, false, false, (.fixed 1020), [⟨63, 0, .rw, (cR [(10000, 4000000)])⟩]⟩,
  ⟨.cdBankGu, 0x20050002, [(0x100000, 384)], .u 32, .rw, .k, 0x402f0, false, false, false, (.fixed 1020), [⟨23, 16, .rw, (cR [(1, 32)])⟩, ⟨11, 8, .rw, (cR [(1, 8)])⟩, ⟨7, 0, .rw, cAny⟩]⟩,
  ⟨.cdBankStat, 0x20050003, [(0x100000, 384)], .u 64, .rc, .e, 0x0, false, false, false, (.fixed 1020), []⟩,
  ⟨.cdBank, 0x20050100, [(0x100000, 384), (0x1, 8)], .u 64, .ro, .e, 0x0, true, false, false, (.fixed 1020), []⟩,
  ⟨.ethCpCfg, 0x20060000, [(0x100000, 384)], .u 64, .rw, .k, 0x0, false, false, false, (.fixed 1020), [⟨63, 63, .rw, cAny⟩, ⟨62, 60, .rw, cAny⟩, ⟨59, 36, .rw, (cM 64)⟩, ⟨23, 16, .rw, cAny⟩, ⟨15, 14, .rw, cAny⟩]⟩,
  ⟨.shdL2Carrier, 0x20070000, [(0x100000, 384)], .u 64, .rw, .k, 0x9000000000000000, false, false, false, (.fixed 1020), [⟨63, 63, .rw, cAny⟩, ⟨61, 60, .rw, cAny⟩, ⟨31, 0, .rw, (cR [(0, 0), (100, 100000)])⟩]⟩,
  ⟨.shdL2Stat, 0x20070001, [(0x100000, 384)], .u 64, .rc, .e, 0x0, false, false, false, (.fixed 1020), []⟩,
  ⟨.shdL2Ladder, 0x20070002, [(0x100000, 384)], .u 8, .ro, .w, 0x0, false, false, false, (.fixed 1020), []⟩]

/-- The objects among which key k would lie (R412). -/
def rowsFor (k : Nat) : List Row :=
  let g := k / 0x1000000
  if g = 0x0 then rows00
  else if g = 0x1 then rows01
  else if g = 0x2 then rows02
  else if 3 ≤ g ∧ g ≤ 6 then rows03
  else if g = 0x10 then rows10
  else if g = 0x11 then rows11
  else if g = 0x12 then rows12
  else if g = 0x13 then rows13
  else if g = 0x14 then rows14
  else if g = 0x15 then rows15
  else if g = 0x16 then rows16
  else if g = 0x17 then rows17
  else if g = 0x18 then rows18
  else if g = 0x19 then rows19
  else if g = 0x1A then rows1A
  else if g = 0x1B then rows1B
  else if g = 0x1C then rows1C
  else if 0x20 ≤ g ∧ g < 0x38 then rows20
  else []

/-- The first object of a list that holds key k, with the entry's place in it. -/
def findRow : List Row → Nat → Option (Row × List Nat)
  | [], _ => none
  | r :: rs, k =>
    if r.base ≤ k then
      match placeIn r.dims (k - r.base) with
      | some ix => some (r, ix)
      | none => findRow rs k
    else findRow rs k

/-- The object and place of an entry; none where no file defines it (R411). -/
def lookupObj (k : Nat) : Option (Row × List Nat) := findRow (rowsFor k) k

/-- Unit number that owns an entry (R420; META's owner). -/
def ownerUnit (r : Row) (ix : List Nat) : Nat :=
  match r.own with
  | .fixed u => u
  | .per d b m v => b + (ix.getD d 0 / v) * m
  | .dmaEngine => let e := ix.getD 0 0; if e < 8 then 603 + 32 * e else 1020
  | .dmaChannel => let n := ix.getD 0 0; if n < 256 then 603 + 32 * (n / 32) else 1020
  | .accel k0 => 584 + 32 * ix.getD 0 0 + k0 + ix.getD 1 0


/-- Defaults other than zero, of the objects whose default is a constant: base, dimensions, default. -/
def dfltRows : List (Nat × List (Nat × Nat) × Nat) := [
  (0x2000300, [], 0x3E8),
  (0x2010100, [], 0x208D555555555),
  (0x2100100, [(0x10000, 64)], 0xFF),
  (0x10012000, [], 0x800),
  (0x10012001, [], 0x180),
  (0x10012002, [], 0x2710),
  (0x10012003, [], 0x1),
  (0x10012004, [], 0x7333),
  (0x10012005, [], 0x40),
  (0x10040000, [(0x1, 512)], 0xF),
  (0x10820000, [(0x100, 8)], 0x1000000),
  (0x11040000, [], 0x1000),
  (0x11040100, [(0x1, 24)], 0x1),
  (0x110B0007, [(0x100, 16)], 0xFF),
  (0x13080000, [], 0x18),
  (0x13080001, [], 0xC),
  (0x13080002, [], 0x2),
  (0x13080003, [], 0x40),
  (0x20050001, [(0x100000, 384)], 0x155CC0),
  (0x20050002, [(0x100000, 384)], 0x402F0),
  (0x16000000, [], 0x868),
  (0x16000004, [], 0x100),
  (0x17004000, [], 0x3E8),
  (0x17010002, [(0x100, 128)], 0x3),
  (0x18000000, [(0x100, 128)], 0x5F2),
  (0x18000001, [(0x100, 128)], 0xFF),
  (0x18000002, [(0x100, 128)], 0x72076543210),
  (0x18000003, [(0x100, 128)], 0x1),
  (0x18000007, [(0x100, 128)], 0x800),
  (0x18030001, [(0x100, 128)], 0xFF00),
  (0x18110000, [], 0x12C),
  (0x12000000, [], 0x4),
  (0x12080000, [], 0x8000000000000080),
  (0x12081000, [(0x100, 8)], 0xC000000000000040),
  (0x10000, [(0x1, 16)], 0xFFFFFFFFFFFFFFFF),
  (0x12000, [], 0x800000000000BAC2),
  (0x12001, [], 0x3C),
  (0x12002, [], 0xA),
  (0x1000400, [], 0x122000000000000),
  (0x1010000, [], 0x2710),
  (0x1010001, [], 0x2710),
  (0x1010002, [], 0x400),
  (0x1010100, [], 0xA0000500640000),
  (0x1010500, [], 0x6471000000000000),
  (0x19000000, [], 0x4000),
  (0x19000001, [], 0x4E20),
  (0x19000002, [], 0x7D0),
  (0x19000003, [], 0x30D40),
  (0x19000100, [], 0x402000000002710),
  (0x19000101, [], 0x301000000002710),
  (0x19000102, [], 0x8000000000003E8),
  (0x19000103, [], 0x1020000000927C0),
  (0x19000104, [], 0x10300000036EE80),
  (0x20070000, [(0x100000, 384)], 0x9000000000000000),
  (0x19080000, [], 0xB80003E8FFF0F800),
  (0x1B001000, [(0x1, 48)], 0xFFFFFFFFFFFFFFFF),
  (0x1B018000, [], 0xE10),
  (0x1C005100, [], 0xFF01C200),
  (0x1C006000, [(0x100, 2)], 0xF000000000000000)]

/-- The default among a list of rows, zero where none matches. -/
def findDflt : List (Nat × List (Nat × Nat) × Nat) → Nat → Nat
  | [], _ => 0
  | (b, ds, d) :: rs, k => if b ≤ k ∧ (placeIn ds (k - b)).isSome then d else findDflt rs k

/-- An entry's default (R419); `PWR_THERM_CFG` differs between the ordering codes. -/
def dflt (k : Nat) : U64 :=
  if k = 0x1010500 then (if Config.gradeE then 0x6976000000000000 else 0x6471000000000000)
  else BitVec.ofNat 64 (findDflt dfltRows k)

/-! Keys of the entries of each object, by its dimensions in order. -/
namespace Key

/-- Key of `clkRefSel`. -/
def clkRefSel : Nat := 0x2000000
/-- Key of `clkStatus`. -/
def clkStatus : Nat := 0x2000100
/-- Key of `clkRefLossCnt`. -/
def clkRefLossCnt : Nat := 0x2000200
/-- Key of `clkLossHold`. -/
def clkLossHold : Nat := 0x2000300
/-- Key of `clkSdrefSel`. -/
def clkSdrefSel (a : Nat) : Nat := 0x2001000 + a * 0x1
/-- Key of `clkSynceOut`. -/
def clkSynceOut (a : Nat) : Nat := 0x2002000 + a * 0x1
/-- Key of `tbNow`. -/
def tbNow (a : Nat) : Nat := 0x2010000 + a * 0x1
/-- Key of `tbIncrement`. -/
def tbIncrement : Nat := 0x2010100
/-- Key of `tbOffset`. -/
def tbOffset (a : Nat) : Nat := 0x2010200 + a * 0x1
/-- Key of `tbStep`. -/
def tbStep : Nat := 0x2010300
/-- Key of `tbStatus`. -/
def tbStatus : Nat := 0x2010400
/-- Key of `tbCapCfg`. -/
def tbCapCfg (a : Nat) : Nat := 0x2020000 + a * 0x1
/-- Key of `tbCapRaw`. -/
def tbCapRaw (a : Nat) : Nat := 0x2020100 + a * 0x1
/-- Key of `tbCapTime`. -/
def tbCapTime (a b : Nat) : Nat := 0x2020200 + a * 0x100 + b * 0x1
/-- Key of `tbCapStat`. -/
def tbCapStat (a : Nat) : Nat := 0x2020400 + a * 0x1
/-- Key of `tbPpsOutCfg`. -/
def tbPpsOutCfg : Nat := 0x2021000
/-- Key of `ttCtl`. -/
def ttCtl (a : Nat) : Nat := 0x2100000 + a * 0x10000
/-- Key of `ttCfg`. -/
def ttCfg (a : Nat) : Nat := 0x2100001 + a * 0x10000
/-- Key of `ttOwner`. -/
def ttOwner (a : Nat) : Nat := 0x2100100 + a * 0x10000
/-- Key of `ttStart`. -/
def ttStart (a b : Nat) : Nat := 0x2100200 + a * 0x10000 + b * 0x100
/-- Key of `ttPeriod`. -/
def ttPeriod (a : Nat) : Nat := 0x2100400 + a * 0x10000
/-- Key of `ttStat`. -/
def ttStat (a : Nat) : Nat := 0x2100500 + a * 0x10000
/-- Key of `ttRow`. -/
def ttRow (a b c : Nat) : Nat := 0x2101000 + a * 0x10000 + b * 0x2000 + c * 0x100
/-- Key of `knAffWait`. -/
def knAffWait : Nat := 0x10012000
/-- Key of `knLameRatio`. -/
def knLameRatio : Nat := 0x10012001
/-- Key of `knLameProbe`. -/
def knLameProbe : Nat := 0x10012002
/-- Key of `knLameEn`. -/
def knLameEn : Nat := 0x10012003
/-- Key of `knHighWater`. -/
def knHighWater : Nat := 0x10012004
/-- Key of `knDomDepth`. -/
def knDomDepth : Nat := 0x10012005
/-- Key of `knStore`. -/
def knStore (a : Nat) : Nat := 0x10020000 + a * 0x1000
/-- Key of `knFlags`. -/
def knFlags (a : Nat) : Nat := 0x10020001 + a * 0x1000
/-- Key of `knDispatched`. -/
def knDispatched (a : Nat) : Nat := 0x10020100 + a * 0x1000
/-- Key of `knDown`. -/
def knDown (a : Nat) : Nat := 0x10020101 + a * 0x1000
/-- Key of `knXpart`. -/
def knXpart (a : Nat) : Nat := 0x10020102 + a * 0x1000
/-- Key of `knDup`. -/
def knDup (a : Nat) : Nat := 0x10020103 + a * 0x1000
/-- Key of `knStale`. -/
def knStale (a : Nat) : Nat := 0x10020104 + a * 0x1000
/-- Key of `knInvalid`. -/
def knInvalid (a : Nat) : Nat := 0x10020105 + a * 0x1000
/-- Key of `knAborted`. -/
def knAborted (a : Nat) : Nat := 0x10020106 + a * 0x1000
/-- Key of `knStalls`. -/
def knStalls (a : Nat) : Nat := 0x10020107 + a * 0x1000
/-- Key of `knPeak`. -/
def knPeak (a : Nat) : Nat := 0x10020108 + a * 0x1000
/-- Key of `knTileCfg`. -/
def knTileCfg (a : Nat) : Nat := 0x10040000 + a * 0x1
/-- Key of `knTileStat`. -/
def knTileStat (a : Nat) : Nat := 0x10041000 + a * 0x1
/-- Key of `knKind`. -/
def knKind (a b : Nat) : Nat := 0x10100000 + a * 0x1000 + b * 0x1
/-- Key of `knPlanCtl`. -/
def knPlanCtl (a : Nat) : Nat := 0x20010000 + a * 0x100000
/-- Key of `knPlanCfg`. -/
def knPlanCfg (a : Nat) : Nat := 0x20010001 + a * 0x100000
/-- Key of `knPlanStat`. -/
def knPlanStat (a : Nat) : Nat := 0x20010002 + a * 0x100000
/-- Key of `knPlanRow`. -/
def knPlanRow (a b c : Nat) : Nat := 0x20040000 + a * 0x100000 + b * 0x4000 + c * 0x1
/-- Key of `pxCtl`. -/
def pxCtl (a : Nat) : Nat := 0x10800000 + a * 0x100
/-- Key of `pxStat`. -/
def pxStat (a : Nat) : Nat := 0x10800001 + a * 0x100
/-- Key of `pxExc`. -/
def pxExc (a : Nat) : Nat := 0x10800002 + a * 0x100
/-- Key of `pxEval`. -/
def pxEval (a : Nat) : Nat := 0x10800003 + a * 0x100
/-- Key of `pxExcCnt`. -/
def pxExcCnt (a : Nat) : Nat := 0x10800004 + a * 0x100
/-- Key of `pxBusy`. -/
def pxBusy (a : Nat) : Nat := 0x10800005 + a * 0x100
/-- Key of `pxWait`. -/
def pxWait (a : Nat) : Nat := 0x10800006 + a * 0x100
/-- Key of `pxRetired`. -/
def pxRetired (a : Nat) : Nat := 0x10800007 + a * 0x100
/-- Key of `pxPackCfg`. -/
def pxPackCfg (a : Nat) : Nat := 0x10820000 + a * 0x100
/-- Key of `memAccessFaults`. -/
def memAccessFaults : Nat := 0x11000000
/-- Key of `memFaultLast`. -/
def memFaultLast : Nat := 0x11000001
/-- Key of `memHbmCfg`. -/
def memHbmCfg : Nat := 0x11000100
/-- Key of `memHbmStat`. -/
def memHbmStat (a : Nat) : Nat := 0x11000200 + a * 0x1
/-- Key of `memHbmRegion`. -/
def memHbmRegion (a : Nat) : Nat := 0x11010000 + a * 0x1
/-- Key of `lshStarveLimit`. -/
def lshStarveLimit : Nat := 0x11040000
/-- Key of `lshPauseB`. -/
def lshPauseB : Nat := 0x11040001
/-- Key of `lshIrqCore`. -/
def lshIrqCore : Nat := 0x11040002
/-- Key of `lshWeight`. -/
def lshWeight (a : Nat) : Nat := 0x11040100 + a * 0x1
/-- Key of `lshFlags`. -/
def lshFlags (a : Nat) : Nat := 0x11050000 + a * 0x1
/-- Key of `lshRestarts`. -/
def lshRestarts (a : Nat) : Nat := 0x11060000 + a * 0x1
/-- Key of `lshDbeats`. -/
def lshDbeats (a : Nat) : Nat := 0x11070000 + a * 0x1
/-- Key of `lshBbeats`. -/
def lshBbeats (a : Nat) : Nat := 0x11080000 + a * 0x1
/-- Key of `dmaTailPoll`. -/
def dmaTailPoll (a : Nat) : Nat := 0x11090000 + a * 0x1
/-- Key of `dmaContOnErr`. -/
def dmaContOnErr (a : Nat) : Nat := 0x11090100 + a * 0x1
/-- Key of `dmaIrq`. -/
def dmaIrq (a : Nat) : Nat := 0x11090200 + a * 0x1
/-- Key of `dmaErrors`. -/
def dmaErrors (a : Nat) : Nat := 0x11090300 + a * 0x1
/-- Key of `dmaCfg`. -/
def dmaCfg (a : Nat) : Nat := 0x110A0000 + a * 0x100
/-- Key of `dmaHead`. -/
def dmaHead (a : Nat) : Nat := 0x110A0001 + a * 0x100
/-- Key of `dmaStatus`. -/
def dmaStatus (a : Nat) : Nat := 0x110A0002 + a * 0x100
/-- Key of `dmaCur`. -/
def dmaCur (a : Nat) : Nat := 0x110A0003 + a * 0x100
/-- Key of `dmaErrAddr`. -/
def dmaErrAddr (a : Nat) : Nat := 0x110A0004 + a * 0x100
/-- Key of `dmaResume`. -/
def dmaResume (a : Nat) : Nat := 0x110A0005 + a * 0x100
/-- Key of `dmaDoorbell`. -/
def dmaDoorbell (a : Nat) : Nat := 0x110A0006 + a * 0x100
/-- Key of `dmaOwner`. -/
def dmaOwner (a : Nat) : Nat := 0x110B0007 + a * 0x100
/-- Key of `dmaCount`. -/
def dmaCount (a : Nat) : Nat := 0x110A0008 + a * 0x100
/-- Key of `hndCaptureMargin`. -/
def hndCaptureMargin : Nat := 0x13080000
/-- Key of `hndFadeMargin`. -/
def hndFadeMargin : Nat := 0x13080001
/-- Key of `hndFadeSyms`. -/
def hndFadeSyms : Nat := 0x13080002
/-- Key of `hndFloorEscape`. -/
def hndFloorEscape : Nat := 0x13080003
/-- Key of `hndFrameRef`. -/
def hndFrameRef (a b : Nat) : Nat := 0x20020000 + a * 0x100000 + b * 0x1
/-- Key of `hndCtl`. -/
def hndCtl (a : Nat) : Nat := 0x13000000 + a * 0x10000
/-- Key of `hndCfg`. -/
def hndCfg (a : Nat) : Nat := 0x13000001 + a * 0x10000
/-- Key of `hndStat`. -/
def hndStat (a : Nat) : Nat := 0x13000002 + a * 0x10000
/-- Key of `hndErrors`. -/
def hndErrors (a : Nat) : Nat := 0x13000003 + a * 0x10000
/-- Key of `hndStream`. -/
def hndStream (a b : Nat) : Nat := 0x13000100 + a * 0x10000 + b * 0x1
/-- Key of `hndOcc`. -/
def hndOcc (a b : Nat) : Nat := 0x13000200 + a * 0x10000 + b * 0x8
/-- Key of `hndDet`. -/
def hndDet (a b : Nat) : Nat := 0x13000201 + a * 0x10000 + b * 0x8
/-- Key of `hndLoss`. -/
def hndLoss (a b : Nat) : Nat := 0x13000202 + a * 0x10000 + b * 0x8
/-- Key of `hndFloor`. -/
def hndFloor (a b : Nat) : Nat := 0x13000203 + a * 0x10000 + b * 0x8
/-- Key of `hndLbt`. -/
def hndLbt (a b : Nat) : Nat := 0x13000204 + a * 0x10000 + b * 0x8
/-- Key of `hndVerdict`. -/
def hndVerdict (a : Nat) : Nat := 0x13000300 + a * 0x10000
/-- Key of `hndRow`. -/
def hndRow (a b c d : Nat) : Nat := 0x13001000 + a * 0x10000 + b * 0x1000 + c * 0x100 + d * 0x1
/-- Key of `xfJobs`. -/
def xfJobs (a b : Nat) : Nat := 0x14000A00 + a * 0x2000 + b * 0x100
/-- Key of `xfErrs`. -/
def xfErrs (a b : Nat) : Nat := 0x14000A01 + a * 0x2000 + b * 0x100
/-- Key of `xfSat`. -/
def xfSat (a b : Nat) : Nat := 0x14000A02 + a * 0x2000 + b * 0x100
/-- Key of `xfLast`. -/
def xfLast (a b : Nat) : Nat := 0x14000A03 + a * 0x2000 + b * 0x100
/-- Key of `txCfg`. -/
def txCfg (a : Nat) : Nat := 0x20030000 + a * 0x100000
/-- Key of `txPa`. -/
def txPa (a : Nat) : Nat := 0x20030001 + a * 0x100000
/-- Key of `txAirDelay`. -/
def txAirDelay (a : Nat) : Nat := 0x20030002 + a * 0x100000
/-- Key of `txStat`. -/
def txStat (a : Nat) : Nat := 0x20030003 + a * 0x100000
/-- Key of `txGate`. -/
def txGate (a : Nat) : Nat := 0x20030004 + a * 0x100000
/-- Key of `txRampTab`. -/
def txRampTab (a b : Nat) : Nat := 0x20031000 + a * 0x100000 + b * 0x1
/-- Key of `txTdd`. -/
def txTdd (a b : Nat) : Nat := 0x20032000 + a * 0x100000 + b * 0x1
/-- Key of `cdJobs`. -/
def cdJobs (a b : Nat) : Nat := 0x15000000 + a * 0x2000 + b * 0x100
/-- Key of `cdErrs`. -/
def cdErrs (a b : Nat) : Nat := 0x15000001 + a * 0x2000 + b * 0x100
/-- Key of `cdCb`. -/
def cdCb (a b : Nat) : Nat := 0x15000002 + a * 0x2000 + b * 0x100
/-- Key of `cdIter`. -/
def cdIter (a b : Nat) : Nat := 0x15000003 + a * 0x2000 + b * 0x100
/-- Key of `cdErased`. -/
def cdErased (a b : Nat) : Nat := 0x15000004 + a * 0x2000 + b * 0x100
/-- Key of `cdLast`. -/
def cdLast (a b : Nat) : Nat := 0x15000005 + a * 0x2000 + b * 0x100
/-- Key of `cdBankCfg`. -/
def cdBankCfg (a : Nat) : Nat := 0x20050000 + a * 0x100000
/-- Key of `cdBankClose`. -/
def cdBankClose (a : Nat) : Nat := 0x20050001 + a * 0x100000
/-- Key of `cdBankGu`. -/
def cdBankGu (a : Nat) : Nat := 0x20050002 + a * 0x100000
/-- Key of `cdBankStat`. -/
def cdBankStat (a : Nat) : Nat := 0x20050003 + a * 0x100000
/-- Key of `cdBank`. -/
def cdBank (a b : Nat) : Nat := 0x20050100 + a * 0x100000 + b * 0x1
/-- Key of `flCfg`. -/
def flCfg : Nat := 0x16000000
/-- Key of `flTableBase`. -/
def flTableBase : Nat := 0x16000001
/-- Key of `flCtxBase`. -/
def flCtxBase : Nat := 0x16000002
/-- Key of `flSeed`. -/
def flSeed : Nat := 0x16000003
/-- Key of `flPoll`. -/
def flPoll : Nat := 0x16000004
/-- Key of `flStat`. -/
def flStat : Nat := 0x16000100
/-- Key of `flDrop`. -/
def flDrop (a : Nat) : Nat := 0x16000200 + a * 0x1
/-- Key of `flPool`. -/
def flPool (a : Nat) : Nat := 0x16000300 + a * 0x1
/-- Key of `flCarrierRat`. -/
def flCarrierRat (a : Nat) : Nat := 0x16000400 + a * 0x1
/-- Key of `flRingCfg`. -/
def flRingCfg (a : Nat) : Nat := 0x16010000 + a * 0x100
/-- Key of `flRingBase`. -/
def flRingBase (a : Nat) : Nat := 0x16010001 + a * 0x100
/-- Key of `flRingStat`. -/
def flRingStat (a : Nat) : Nat := 0x16010002 + a * 0x100
/-- Key of `flPeer`. -/
def flPeer (a b : Nat) : Nat := 0x16020000 + a * 0x100 + b * 0x1
/-- Key of `lnLtTimeout`. -/
def lnLtTimeout : Nat := 0x17004000
/-- Key of `lnOCfg`. -/
def lnOCfg (a : Nat) : Nat := 0x17000000 + a * 0x100
/-- Key of `lnOStat`. -/
def lnOStat (a : Nat) : Nat := 0x17000001 + a * 0x100
/-- Key of `lnCfg`. -/
def lnCfg (a : Nat) : Nat := 0x17010000 + a * 0x100
/-- Key of `lnStat`. -/
def lnStat (a : Nat) : Nat := 0x17010001 + a * 0x100
/-- Key of `lnAn`. -/
def lnAn (a : Nat) : Nat := 0x17010002 + a * 0x100
/-- Key of `lnCnt`. -/
def lnCnt (a : Nat) : Nat := 0x17010003 + a * 0x100
/-- Key of `lnFec`. -/
def lnFec (a : Nat) : Nat := 0x17010004 + a * 0x100
/-- Key of `lnPrbs`. -/
def lnPrbs (a : Nat) : Nat := 0x17010005 + a * 0x100
/-- Key of `lnPrbsErr`. -/
def lnPrbsErr (a : Nat) : Nat := 0x17010006 + a * 0x100
/-- Key of `lnEyeCtl`. -/
def lnEyeCtl (a : Nat) : Nat := 0x17010007 + a * 0x100
/-- Key of `lnEyeRes`. -/
def lnEyeRes (a : Nat) : Nat := 0x17010008 + a * 0x100
/-- Key of `lnSlip`. -/
def lnSlip (a : Nat) : Nat := 0x17010009 + a * 0x100
/-- Key of `lnRxword`. -/
def lnRxword (a : Nat) : Nat := 0x1701000A + a * 0x100
/-- Key of `lnTest`. -/
def lnTest (a : Nat) : Nat := 0x1701000B + a * 0x100
/-- Key of `ethCfg`. -/
def ethCfg (a : Nat) : Nat := 0x18000000 + a * 0x100
/-- Key of `ethOwner`. -/
def ethOwner (a : Nat) : Nat := 0x18000001 + a * 0x100
/-- Key of `ethQmap`. -/
def ethQmap (a : Nat) : Nat := 0x18000002 + a * 0x100
/-- Key of `ethBr`. -/
def ethBr (a : Nat) : Nat := 0x18000003 + a * 0x100
/-- Key of `ethTsAdj`. -/
def ethTsAdj (a : Nat) : Nat := 0x18000004 + a * 0x100
/-- Key of `ethHrx`. -/
def ethHrx (a : Nat) : Nat := 0x18000005 + a * 0x100
/-- Key of `ethHtx`. -/
def ethHtx (a : Nat) : Nat := 0x18000006 + a * 0x100
/-- Key of `ethHrxBuf`. -/
def ethHrxBuf (a : Nat) : Nat := 0x18000007 + a * 0x100
/-- Key of `ethDly`. -/
def ethDly (a : Nat) : Nat := 0x18000008 + a * 0x100
/-- Key of `ethDlyRes`. -/
def ethDlyRes (a b : Nat) : Nat := 0x18000009 + a * 0x100 + b * 0x1
/-- Key of `ethDlyComp`. -/
def ethDlyComp (a : Nat) : Nat := 0x1800000C + a * 0x100
/-- Key of `ethUcast`. -/
def ethUcast (a b : Nat) : Nat := 0x18010000 + a * 0x100 + b * 0x1
/-- Key of `ethGhash`. -/
def ethGhash (a b : Nat) : Nat := 0x18018000 + a * 0x100 + b * 0x1
/-- Key of `ethCnt`. -/
def ethCnt (a b : Nat) : Nat := 0x18020000 + a * 0x100 + b * 0x1
/-- Key of `gclCtl`. -/
def gclCtl (a : Nat) : Nat := 0x18030000 + a * 0x100
/-- Key of `gclCfg`. -/
def gclCfg (a : Nat) : Nat := 0x18030001 + a * 0x100
/-- Key of `gclBase`. -/
def gclBase (a b : Nat) : Nat := 0x18030002 + a * 0x100 + b * 0x1
/-- Key of `gclCycle`. -/
def gclCycle (a : Nat) : Nat := 0x18030004 + a * 0x100
/-- Key of `gclRow`. -/
def gclRow (a b c : Nat) : Nat := 0x18800000 + a * 0x1000 + b * 0x800 + c * 0x1
/-- Key of `ethVlan`. -/
def ethVlan (a : Nat) : Nat := 0x18100000 + a * 0x100
/-- Key of `ethVlanMember`. -/
def ethVlanMember (a b : Nat) : Nat := 0x18100001 + a * 0x100 + b * 0x1
/-- Key of `ethVlanUntag`. -/
def ethVlanUntag (a b : Nat) : Nat := 0x18100003 + a * 0x100 + b * 0x1
/-- Key of `ethBrAge`. -/
def ethBrAge : Nat := 0x18110000
/-- Key of `ethBrStat`. -/
def ethBrStat : Nat := 0x18110001
/-- Key of `ethRu`. -/
def ethRu (a : Nat) : Nat := 0x18120000 + a * 0x100
/-- Key of `ethRuTag`. -/
def ethRuTag (a : Nat) : Nat := 0x18120001 + a * 0x100
/-- Key of `ethStr`. -/
def ethStr (a b : Nat) : Nat := 0x18200000 + a * 0x100 + b * 0x1
/-- Key of `ethStrStat`. -/
def ethStrStat (a : Nat) : Nat := 0x18200004 + a * 0x100
/-- Key of `ethStrErr`. -/
def ethStrErr (a : Nat) : Nat := 0x18200005 + a * 0x100
/-- Key of `ethCpCfg`. -/
def ethCpCfg (a : Nat) : Nat := 0x20060000 + a * 0x100000
/-- Key of `cpriCfg`. -/
def cpriCfg (a : Nat) : Nat := 0x18400000 + a * 0x100
/-- Key of `cpriStat`. -/
def cpriStat (a : Nat) : Nat := 0x18400001 + a * 0x100
/-- Key of `cpriCnt`. -/
def cpriCnt (a : Nat) : Nat := 0x18400002 + a * 0x100
/-- Key of `epRepeat`. -/
def epRepeat : Nat := 0x12000000
/-- Key of `epIrqCore`. -/
def epIrqCore : Nat := 0x12000001
/-- Key of `epAnchorBase`. -/
def epAnchorBase : Nat := 0x12000002
/-- Key of `epClassCnt`. -/
def epClassCnt (a : Nat) : Nat := 0x12000100 + a * 0x1
/-- Key of `epClassLog`. -/
def epClassLog (a b : Nat) : Nat := 0x12001000 + a * 0x100 + b * 0x1
/-- Key of `epClassClear`. -/
def epClassClear (a : Nat) : Nat := 0x12001010 + a * 0x100
/-- Key of `epClassMismatch`. -/
def epClassMismatch (a : Nat) : Nat := 0x12001011 + a * 0x100
/-- Key of `epRemap`. -/
def epRemap (a : Nat) : Nat := 0x12010000 + a * 0x1
/-- Key of `epRemapStat`. -/
def epRemapStat : Nat := 0x12010100
/-- Key of `epSpares`. -/
def epSpares (a : Nat) : Nat := 0x12010200 + a * 0x1
/-- Key of `epImAnchor`. -/
def epImAnchor (a : Nat) : Nat := 0x12020000 + a * 0x1
/-- Key of `grmHbmCfg`. -/
def grmHbmCfg : Nat := 0x12080000
/-- Key of `grmHbmStat`. -/
def grmHbmStat : Nat := 0x12080001
/-- Key of `grmCfg`. -/
def grmCfg (a : Nat) : Nat := 0x12081000 + a * 0x100
/-- Key of `grmStat`. -/
def grmStat (a : Nat) : Nat := 0x12081001 + a * 0x100
/-- Key of `odInfo`. -/
def odInfo (a : Nat) : Nat := 0x3000000 + a * 0x10000
/-- Key of `odState`. -/
def odState (a : Nat) : Nat := 0x3000100 + a * 0x10000
/-- Key of `odDflt`. -/
def odDflt (a : Nat) : Nat := 0x3000200 + a * 0x10000
/-- Key of `odCtl`. -/
def odCtl (a : Nat) : Nat := 0x3000300 + a * 0x10000
/-- Key of `odQueue`. -/
def odQueue (a : Nat) : Nat := 0x3000400 + a * 0x10000
/-- Key of `idDevice`. -/
def idDevice : Nat := 0x0
/-- Key of `idPartStr`. -/
def idPartStr (a : Nat) : Nat := 0x100 + a * 0x1
/-- Key of `idSerial`. -/
def idSerial : Nat := 0x200
/-- Key of `idLot`. -/
def idLot : Nat := 0x201
/-- Key of `idRom`. -/
def idRom : Nat := 0x300
/-- Key of `idKey`. -/
def idKey (a : Nat) : Nat := 0x400 + a * 0x1
/-- Key of `idCapacity`. -/
def idCapacity : Nat := 0x500
/-- Key of `idMgmtMac`. -/
def idMgmtMac : Nat := 0x600
/-- Key of `odDefaulted`. -/
def odDefaulted (a : Nat) : Nat := 0x10000 + a * 0x1
/-- Key of `odDialect`. -/
def odDialect (a : Nat) : Nat := 0x11000 + a * 0x1
/-- Key of `odDialectRoot`. -/
def odDialectRoot : Nat := 0x11009
/-- Key of `odEnberCfg`. -/
def odEnberCfg : Nat := 0x12000
/-- Key of `odSessionIdle`. -/
def odSessionIdle : Nat := 0x12001
/-- Key of `odNotifyMin`. -/
def odNotifyMin : Nat := 0x12002
/-- Key of `odSessions`. -/
def odSessions : Nat := 0x12100
/-- Key of `odIp4`. -/
def odIp4 : Nat := 0x12200
/-- Key of `odIp4Gw`. -/
def odIp4Gw : Nat := 0x12201
/-- Key of `odIp6`. -/
def odIp6 (a : Nat) : Nat := 0x12202 + a * 0x1
/-- Key of `odIp6Cfg`. -/
def odIp6Cfg : Nat := 0x12204
/-- Key of `odPeerKey`. -/
def odPeerKey (a b : Nat) : Nat := 0x13000 + a * 0x100 + b * 0x1
/-- Key of `odPeerRole`. -/
def odPeerRole (a : Nat) : Nat := 0x13008 + a * 0x100
/-- Key of `odTokenKey`. -/
def odTokenKey (a b : Nat) : Nat := 0x14000 + a * 0x100 + b * 0x1
/-- Key of `odTokenCtr`. -/
def odTokenCtr : Nat := 0x15000
/-- Key of `odTokenBuf`. -/
def odTokenBuf (a : Nat) : Nat := 0x15100 + a * 0x1
/-- Key of `odTokenCtl`. -/
def odTokenCtl : Nat := 0x15200
/-- Key of `odCommit`. -/
def odCommit : Nat := 0x16000
/-- Key of `odNvStat`. -/
def odNvStat : Nat := 0x16001
/-- Key of `rstLast`. -/
def rstLast : Nat := 0x1000000
/-- Key of `rstCount`. -/
def rstCount : Nat := 0x1000001
/-- Key of `rstDeviceCtl`. -/
def rstDeviceCtl : Nat := 0x1000100
/-- Key of `rstPtCtl`. -/
def rstPtCtl (a : Nat) : Nat := 0x1000200 + a * 0x1
/-- Key of `rstPtStat`. -/
def rstPtStat (a : Nat) : Nat := 0x1000300 + a * 0x1
/-- Key of `rstBootPolicy`. -/
def rstBootPolicy : Nat := 0x1000400
/-- Key of `rstBootStat`. -/
def rstBootStat : Nat := 0x1000500
/-- Key of `rstBootTime`. -/
def rstBootTime : Nat := 0x1000501
/-- Key of `rstPost`. -/
def rstPost (a : Nat) : Nat := 0x1001000 + a * 0x100
/-- Key of `rstPostTiles`. -/
def rstPostTiles (a : Nat) : Nat := 0x1001001 + a * 0x100
/-- Key of `rstPostCc`. -/
def rstPostCc : Nat := 0x1001800
/-- Key of `rstPostLanes`. -/
def rstPostLanes (a : Nat) : Nat := 0x1001801 + a * 0x1
/-- Key of `pwrWarnHold`. -/
def pwrWarnHold : Nat := 0x1010000
/-- Key of `pwrPrepTimeout`. -/
def pwrPrepTimeout : Nat := 0x1010001
/-- Key of `pwrHushIdle`. -/
def pwrHushIdle : Nat := 0x1010002
/-- Key of `pwrIrqCore`. -/
def pwrIrqCore : Nat := 0x1010003
/-- Key of `pwrGuardCfg`. -/
def pwrGuardCfg : Nat := 0x1010100
/-- Key of `pwrWakeSrc`. -/
def pwrWakeSrc : Nat := 0x1010101
/-- Key of `pwrGuardStat`. -/
def pwrGuardStat : Nat := 0x1010102
/-- Key of `pwrVote`. -/
def pwrVote (a : Nat) : Nat := 0x1010200 + a * 0x1
/-- Key of `pwrRail`. -/
def pwrRail (a : Nat) : Nat := 0x1010300 + a * 0x1
/-- Key of `pwrWarnStat`. -/
def pwrWarnStat : Nat := 0x1010400
/-- Key of `pwrThermCfg`. -/
def pwrThermCfg : Nat := 0x1010500
/-- Key of `pwrThermStat`. -/
def pwrThermStat : Nat := 0x1010501
/-- Key of `pwrTemp`. -/
def pwrTemp (a : Nat) : Nat := 0x1010600 + a * 0x1
/-- Key of `pwrReq`. -/
def pwrReq (a : Nat) : Nat := 0x3002000 + a * 0x10000
/-- Key of `pwrReqStat`. -/
def pwrReqStat (a : Nat) : Nat := 0x3002100 + a * 0x10000
/-- Key of `pwrRes`. -/
def pwrRes (a b : Nat) : Nat := 0x3002200 + a * 0x10000 + b * 0x1
/-- Key of `pwrHours`. -/
def pwrHours (a b : Nat) : Nat := 0x3002300 + a * 0x10000 + b * 0x1
/-- Key of `shdL0Limit`. -/
def shdL0Limit : Nat := 0x19000000
/-- Key of `shdL3Limit`. -/
def shdL3Limit : Nat := 0x19000001
/-- Key of `shdL3First`. -/
def shdL3First : Nat := 0x19000002
/-- Key of `shdL4Limit`. -/
def shdL4Limit : Nat := 0x19000003
/-- Key of `shdReturn`. -/
def shdReturn : Nat := 0x19000004
/-- Key of `shdFaultCfg`. -/
def shdFaultCfg : Nat := 0x19000005
/-- Key of `shdIrqCore`. -/
def shdIrqCore : Nat := 0x19000006
/-- Key of `shdL0Cfg`. -/
def shdL0Cfg : Nat := 0x19000100
/-- Key of `shdL1Cfg`. -/
def shdL1Cfg : Nat := 0x19000101
/-- Key of `shdL2Cfg`. -/
def shdL2Cfg : Nat := 0x19000102
/-- Key of `shdL3Cfg`. -/
def shdL3Cfg : Nat := 0x19000103
/-- Key of `shdL4Cfg`. -/
def shdL4Cfg : Nat := 0x19000104
/-- Key of `shdPet`. -/
def shdPet (a : Nat) : Nat := 0x19001000 + a * 0x1
/-- Key of `shdExpiries`. -/
def shdExpiries (a : Nat) : Nat := 0x19002000 + a * 0x1
/-- Key of `shdL2Carrier`. -/
def shdL2Carrier (a : Nat) : Nat := 0x20070000 + a * 0x100000
/-- Key of `shdL2Stat`. -/
def shdL2Stat (a : Nat) : Nat := 0x20070001 + a * 0x100000
/-- Key of `shdL2Ladder`. -/
def shdL2Ladder (a : Nat) : Nat := 0x20070002 + a * 0x100000
/-- Key of `shdStat`. -/
def shdStat (a : Nat) : Nat := 0x3001000 + a * 0x10000
/-- Key of `shdLast`. -/
def shdLast (a : Nat) : Nat := 0x3001100 + a * 0x10000
/-- Key of `shdQuar`. -/
def shdQuar (a : Nat) : Nat := 0x3001200 + a * 0x10000
/-- Key of `terUStat`. -/
def terUStat (a : Nat) : Nat := 0x3001800 + a * 0x10000
/-- Key of `terLast`. -/
def terLast (a : Nat) : Nat := 0x3001900 + a * 0x10000
/-- Key of `terRun`. -/
def terRun (a : Nat) : Nat := 0x3001A00 + a * 0x10000
/-- Key of `terCfg`. -/
def terCfg : Nat := 0x19080000
/-- Key of `terScratch`. -/
def terScratch : Nat := 0x19080001
/-- Key of `terPStat`. -/
def terPStat (a : Nat) : Nat := 0x19081000 + a * 0x100
/-- Key of `evrStat`. -/
def evrStat : Nat := 0x1A000000
/-- Key of `evrCnt`. -/
def evrCnt : Nat := 0x1A000001
/-- Key of `evrOpsec`. -/
def evrOpsec : Nat := 0x1A000002
/-- Key of `evrPwrcyc`. -/
def evrPwrcyc : Nat := 0x1A000003
/-- Key of `evrClear`. -/
def evrClear : Nat := 0x1A000100
/-- Key of `evrCursor`. -/
def evrCursor : Nat := 0x1A000200
/-- Key of `evrRecord`. -/
def evrRecord (a : Nat) : Nat := 0x1A010000 + a * 0x1
/-- Key of `evrUserBuf`. -/
def evrUserBuf (a : Nat) : Nat := 0x1A020000 + a * 0x1
/-- Key of `evrUserCtl`. -/
def evrUserCtl : Nat := 0x1A020100
/-- Key of `prtPacks`. -/
def prtPacks (a : Nat) : Nat := 0x1B000000 + a * 0x100
/-- Key of `prtCores`. -/
def prtCores (a : Nat) : Nat := 0x1B000001 + a * 0x100
/-- Key of `prtMacs`. -/
def prtMacs (a b : Nat) : Nat := 0x1B000002 + a * 0x100 + b * 0x1
/-- Key of `prtHbm`. -/
def prtHbm (a : Nat) : Nat := 0x1B000004 + a * 0x100
/-- Key of `prtCarriers`. -/
def prtCarriers (a : Nat) : Nat := 0x1B001000 + a * 0x1
/-- Key of `prtSpan`. -/
def prtSpan : Nat := 0x1B002000
/-- Key of `hoCfg`. -/
def hoCfg (a : Nat) : Nat := 0x1B030000 + a * 0x100
/-- Key of `hoOp`. -/
def hoOp (a : Nat) : Nat := 0x1B030001 + a * 0x100
/-- Key of `hoRegions`. -/
def hoRegions (a : Nat) : Nat := 0x1B030002 + a * 0x100
/-- Key of `hoMacs`. -/
def hoMacs (a b : Nat) : Nat := 0x1B030003 + a * 0x100 + b * 0x1
/-- Key of `hoExport`. -/
def hoExport (a : Nat) : Nat := 0x1B030005 + a * 0x100
/-- Key of `hoCut`. -/
def hoCut (a b : Nat) : Nat := 0x1B030010 + a * 0x100 + b * 0x1
/-- Key of `fwCfg`. -/
def fwCfg (a : Nat) : Nat := 0x1B010000 + a * 0x100
/-- Key of `fwSlot`. -/
def fwSlot (a : Nat) : Nat := 0x1B010001 + a * 0x100
/-- Key of `fwCtl`. -/
def fwCtl (a : Nat) : Nat := 0x1B010002 + a * 0x100
/-- Key of `fwStat`. -/
def fwStat (a : Nat) : Nat := 0x1B010003 + a * 0x100
/-- Key of `fwVer`. -/
def fwVer (a : Nat) : Nat := 0x1B010004 + a * 0x100
/-- Key of `fwMeas`. -/
def fwMeas (a b : Nat) : Nat := 0x1B010008 + a * 0x100 + b * 0x1
/-- Key of `fwTrialLimit`. -/
def fwTrialLimit : Nat := 0x1B018000
/-- Key of `fwFlashCtl`. -/
def fwFlashCtl : Nat := 0x1B018100
/-- Key of `fwFlashBuf`. -/
def fwFlashBuf (a : Nat) : Nat := 0x1B018200 + a * 0x1
/-- Key of `fwFlashParts`. -/
def fwFlashParts : Nat := 0x1B018300
/-- Key of `secFwKey`. -/
def secFwKey (a b : Nat) : Nat := 0x1B020000 + a * 0x100 + b * 0x1
/-- Key of `secSvnFloor`. -/
def secSvnFloor : Nat := 0x1B021000
/-- Key of `secDebug`. -/
def secDebug : Nat := 0x1B021100
/-- Key of `secAttestNonce`. -/
def secAttestNonce (a : Nat) : Nat := 0x1B022000 + a * 0x1
/-- Key of `secAttestCtl`. -/
def secAttestCtl : Nat := 0x1B022100
/-- Key of `secAttestReport`. -/
def secAttestReport (a : Nat) : Nat := 0x1B022200 + a * 0x1
/-- Key of `gplCfg`. -/
def gplCfg : Nat := 0x1B040000
/-- Key of `gplGCfg`. -/
def gplGCfg (a : Nat) : Nat := 0x1B041000 + a * 0x100
/-- Key of `gplStat`. -/
def gplStat (a : Nat) : Nat := 0x1B041001 + a * 0x100
/-- Key of `gplPeer`. -/
def gplPeer (a : Nat) : Nat := 0x1B041002 + a * 0x100
/-- Key of `gplPair`. -/
def gplPair (a : Nat) : Nat := 0x1B041003 + a * 0x100
/-- Key of `gplCnt`. -/
def gplCnt (a : Nat) : Nat := 0x1B041004 + a * 0x100
/-- Key of `gplRelayReq`. -/
def gplRelayReq : Nat := 0x1B048000
/-- Key of `gplRelayVal`. -/
def gplRelayVal : Nat := 0x1B048001
/-- Key of `pinGpioCfg`. -/
def pinGpioCfg (a : Nat) : Nat := 0x1C000000 + a * 0x100
/-- Key of `pinGpioIn`. -/
def pinGpioIn (a : Nat) : Nat := 0x1C004000 + a * 0x1
/-- Key of `pinStat`. -/
def pinStat : Nat := 0x1C004100
/-- Key of `pinMgtCfg`. -/
def pinMgtCfg : Nat := 0x1C005000
/-- Key of `pinUartCfg`. -/
def pinUartCfg : Nat := 0x1C005100
/-- Key of `pinI2cCfg`. -/
def pinI2cCfg (a : Nat) : Nat := 0x1C006000 + a * 0x100
/-- Key of `pinI2cXfer`. -/
def pinI2cXfer (a : Nat) : Nat := 0x1C006001 + a * 0x100
/-- Key of `pinI2cBuf`. -/
def pinI2cBuf (a b : Nat) : Nat := 0x1C006002 + a * 0x100 + b * 0x1
end Key

end Sys2Proof.Machine
end

