-- ==== Sys2Proof/Machine/Ops.lean ====
section
/-!
DEFINITION. Ops.lean: the named operations over tables, bit fields, dictionary entries, memory, event records,
units and partitions that the commands' meanings are written with.
-/
namespace Sys2Proof.Machine

/-- The answer type of every meaning. -/
abbrev Out := Host.Outcome State Fault Refusal

/-! Tables -/

/-- Reading a table: the entry of key k, or the value of an unlisted key. -/
def tget {α : Type} (d : α) : Tab α → Nat → α
  | [], _ => d
  | (i, v) :: r, k => if i = k then v else tget d r k

/-- The entry of key k, if listed. -/
def tfind {α : Type} : Tab α → Nat → Option α
  | [], _ => none
  | (i, v) :: r, k => if i = k then some v else tfind r k

/-- Writing a table: keys stay rising. -/
def tput {α : Type} : Tab α → Nat → α → Tab α
  | [], k, v => [(k, v)]
  | (i, w) :: r, k, v =>
    if k < i then (k, v) :: (i, w) :: r
    else if k = i then (k, v) :: r
    else (i, w) :: tput r k v

/-- A table without key k. -/
def tdel {α : Type} (t : Tab α) (k : Nat) : Tab α := t.filter (fun e => e.1 ≠ k)

/-- A table without the keys that p holds of. -/
def tdrop {α : Type} (t : Tab α) (p : Nat → Bool) : Tab α := t.filter (fun e => !p e.1)

/-- The element for which f is least, the first of several. -/
def leastBy {α : Type} (f : α → Nat) : List α → Option α
  | [] => none
  | a :: r => match leastBy f r with
    | none => some a
    | some b => if f a ≤ f b then some a else some b

/-! Bit fields -/

/-- Field [hi:lo] of a word. -/
def bf (v : U64) (hi lo : Nat) : Nat := v.toNat / 2 ^ lo % 2 ^ (hi + 1 - lo)

/-- Bit i of a word. -/
def bit (v : U64) (i : Nat) : Bool := v.toNat / 2 ^ i % 2 == 1

/-- A word with field [hi:lo] set to x. -/
def setf (v : U64) (hi lo x : Nat) : U64 :=
  BitVec.ofNat 64 (v.toNat - bf v hi lo * 2 ^ lo + x % 2 ^ (hi + 1 - lo) * 2 ^ lo)

/-- A word with bit i set to b. -/
def setBit (v : U64) (i : Nat) (b : Bool) : U64 := setf v i i (if b then 1 else 0)

/-- A Nat as a dictionary word. -/
def w64 (n : Nat) : U64 := BitVec.ofNat 64 n

/-- A flag as 0 or 1. -/
def b01 (b : Bool) : Nat := if b then 1 else 0

/-- The signed value of the low n bits. -/
def sgn (n x : Nat) : Int := if x % 2 ^ n < 2 ^ (n - 1) then (x % 2 ^ n : Nat) else (x % 2 ^ n : Nat) - (2 ^ n : Nat)

/-- The low n bits of an integer in two's complement. -/
def uns (n : Nat) (x : Int) : Nat := (x % (2 ^ n : Nat)).toNat

/-! Entries of the dictionary -/

/-- An entry's default in this state: OD_Un_DFLT takes the value of the last PIN reset or POR (R420). -/
def State.dfltOf (s : State) (k : Nat) : U64 :=
  if k % 0x10000 = 0x200 ∧ 0x300 ≤ k / 0x10000 ∧ k / 0x10000 < 0x700 then s.dfltAll else dflt k

/-- The value in force of entry k. -/
def State.ent (s : State) (k : Nat) : U64 :=
  match tfind s.od k with
  | some v => v
  | none => s.dfltOf k

/-- The value in force of entry k as a number. -/
def State.entN (s : State) (k : Nat) : Nat := (s.ent k).toNat

/-- Field [hi:lo] of entry k. -/
def State.fld (s : State) (k hi lo : Nat) : Nat := bf (s.ent k) hi lo

/-- Bit i of entry k. -/
def State.flag (s : State) (k i : Nat) : Bool := bit (s.ent k) i

/-- Whether the memory that holds entry k is anchored (R390): the kind tables and slot-plan rows (class 6) and the dictionary shadow
(class 8), which holds the entries of classes K and W. -/
def anchoredEntry (k : Nat) : Bool :=
  match lookupObj k with
  | some (r, _) => r.cls == .k || r.cls == .w
  | none => false

/-- Number of the 64 MiB anchor area at `EP_ANCHOR_BASE`; 0 while there is none. -/
def State.anchorArea (s : State) : Nat := bf (tget 0 s.od Key.epAnchorBase) 39 26

/-- The anchor copies after a write of entry k: with an area the hardware writes the copy with every write (R394). -/
def State.anchorPut (s : State) (k : Nat) (v : U64) : Tab U64 :=
  if s.anchorArea ≠ 0 ∧ anchoredEntry k then tput s.anchor (s.anchorArea * 2 ^ 32 + k) v else s.anchor

/-- Entry k takes value v. -/
def State.setEnt (s : State) (k : Nat) (v : U64) : State := { s with od := tput s.od k v, anchor := s.anchorPut k v }

/-- Entry k takes the value n. -/
def State.setEntN (s : State) (k n : Nat) : State := s.setEnt k (w64 n)

/-- Field [hi:lo] of entry k takes x. -/
def State.setFld (s : State) (k hi lo x : Nat) : State := s.setEnt k (setf (s.ent k) hi lo x)

/-- Bit i of entry k takes b. -/
def State.setFlag (s : State) (k i : Nat) (b : Bool) : State := s.setFld k i i (b01 b)

/-- The last command's answer. -/
def State.answer (s : State) (r : Reply) : State := { s with reply := r }

/-- The answer of a write or a command of a requester. -/
def State.status (s : State) (st : Status) : State := s.answer (.status st)

/-- A free value is drawn (Config.freeValue of the state's counter). -/
def State.draw (s : State) : Nat × State := (Config.freeValue s.free, { s with free := s.free + 1 })

/-- A free value below n is drawn. -/
def State.drawBelow (s : State) (n : Nat) : Nat × State := (Config.freeValue s.free % n, { s with free := s.free + 1 })

/-! Bytes and byte order -/

/-- Little-endian value of bytes. -/
def leNat : List Byte → Nat
  | [] => 0
  | b :: r => b.toNat + 256 * leNat r

/-- n bytes of a number, little-endian. -/
def leBytes : Nat → Nat → List Byte
  | 0, _ => []
  | n + 1, x => BitVec.ofNat 8 x :: leBytes n (x / 256)

/-- Big-endian value of bytes. -/
def beNat (bs : List Byte) : Nat := bs.foldl (fun a b => a * 256 + b.toNat) 0

/-- n bytes of a number, big-endian. -/
def beBytes (n x : Nat) : List Byte := (leBytes n x).reverse

/-- 64-bit words as bytes, little-endian. -/
def wordsBytes : List U64 → List Byte
  | [] => []
  | w :: r => leBytes 8 w.toNat ++ wordsBytes r

/-- Bytes as n 64-bit words, little-endian. -/
def bytesWords : Nat → List Byte → List U64
  | 0, _ => []
  | n + 1, bs => w64 (leNat (bs.take 8)) :: bytesWords n (bs.drop 8)

/-! Memory -/

/-- What an unlisted address reads as (DESIGN CHOICE, assumption 3). -/
def memDefault : Byte := 0

/-- One byte of memory. -/
def memGet : List Host.Cell → Nat → Byte
  | [], _ => memDefault
  | (i, b) :: r, a => if i = a then b else memGet r a

/-- Memory with byte b at a: canonical form kept, a byte equal to the unlisted value leaves the list. -/
def memSet : List Host.Cell → Nat → Byte → List Host.Cell
  | [], a, b => if b = memDefault then [] else [(a, b)]
  | (i, c) :: r, a, b =>
    if a < i then (if b = memDefault then (i, c) :: r else (a, b) :: (i, c) :: r)
    else if a = i then (if b = memDefault then r else (a, b) :: r)
    else (i, c) :: memSet r a b

/-- Canonical form from address lo on: rising addresses, no byte equal to the unlisted value. -/
def memWfFrom : Nat → List Host.Cell → Bool
  | _, [] => true
  | lo, (i, b) :: r => decide (lo ≤ i) && !(b == memDefault) && memWfFrom (i + 1) r

/-- Canonical form of memory. -/
def Memory.wf (m : List Host.Cell) : Bool := memWfFrom 0 m

/-- Memory with bytes stored from a on. -/
def memSetBytes : List Host.Cell → Nat → List Byte → List Host.Cell
  | m, _, [] => m
  | m, a, b :: r => memSetBytes (memSet m a b) (a + 1) r

/-- n bytes of memory from a on. -/
def memGetBytes (m : List Host.Cell) : Nat → Nat → List Byte
  | _, 0 => []
  | a, n + 1 => memGet m a :: memGetBytes m (a + 1) n

/-- The stored byte at a. -/
def State.byte (s : State) (a : Nat) : Byte := memGet s.mem a

/-- The stored bytes at a. -/
def State.bytes (s : State) (a n : Nat) : List Byte := memGetBytes s.mem a n

/-- The stored 64-bit word at a, little-endian. -/
def State.word (s : State) (a : Nat) : U64 := w64 (leNat (s.bytes a 8))

/-- Whether the 64-bit word that holds byte a is poisoned (R388). -/
def State.poisoned (s : State) (a : Nat) : Bool := tget false s.poison (a / 8)

/-- Whether any word of the n bytes at a is poisoned. -/
def State.anyPoison (s : State) (a n : Nat) : Bool :=
  if n = 0 then false
  else (List.range ((a + n - 1) / 8 - a / 8 + 1)).any (fun i => tget false s.poison (a / 8 + i))

/-- The words wholly covered by n bytes at a. -/
def fullWords (a n : Nat) : List Nat :=
  let w0 := (a + 7) / 8
  let w1 := (a + n) / 8
  (List.range (w1 - w0)).map (w0 + ·)

/-- Storing bytes: good parity for each byte, and a word wholly written loses its poison marking (R389). A re-fetch
that runs in a word written keeps the new bytes (R393). -/
def State.store (s : State) (a : Nat) (bs : List Byte) : State :=
  { s with
    mem := memSetBytes s.mem a bs
    poison := tdrop s.poison (fun w => (fullWords a bs.length).contains w)
    fresh := tdrop s.fresh (fun i => decide (a ≤ i) && decide (i < a + bs.length))
    refetch := s.refetch.map (fun r =>
      if a < r.1 + 8 ∧ r.1 < a + bs.length then (r.1, true, r.2.2) else r) }

/-- The word that holds byte a takes the poison marking. -/
def State.setPoison (s : State) (a : Nat) : State :=
  { s with poison := tput s.poison (a / 8) true
           fresh := tdrop s.fresh (fun i => i / 8 == a / 8) }

/-- Byte a is stored with its parity bit inverted (R387): a word is poisoned once all eight of its bytes are in error (R388); a word
already poisoned stays so. -/
def State.markByte (s : State) (a : Nat) : State :=
  if s.poisoned a then s
  else
    let s := { s with fresh := tput s.fresh a true }
    if (List.range 8).all (fun i => tget false s.fresh (a / 8 * 8 + i)) then s.setPoison a else s

/-- The marked ones of the bytes at a take their marking. -/
def State.markBytes (s : State) : Nat → List Bool → State
  | _, [] => s
  | a, m :: r => (if m then s.markByte a else s).markBytes (a + 1) r

/-- Storing bytes, each with the marking of its source (R217, R259, R387). -/
def State.storeMarks (s : State) (a : Nat) (bs : List (Byte × Bool)) : State :=
  (s.store a (bs.map (·.1))).markBytes a (bs.map (·.2))

/-- Storing bytes of one marking. -/
def State.storeMarked (s : State) (a : Nat) (bs : List Byte) (p : Bool) : State := s.storeMarks a (bs.map (·, p))

/-! The device address map (R180) -/

def packBase (p : Nat) : Nat := 0x1800000000 + p * 0x4000000
def pmAddr (p off : Nat) : Nat := packBase p + off
def csmAddr (c off : Nat) : Nat := packBase (c / 8) + 0x1000000 + c % 8 * 0x200000 + off
def lmAddr (t off : Nat) : Nat := packBase (t / 64) + 0x2000000 + t % 64 * 0x40000 + off
def imAddr (t off : Nat) : Nat := packBase (t / 64) + 0x3000000 + t % 64 * 0x10000 + off
def ctlAddr (p off : Nat) : Nat := packBase p + 0x3FF0000 + off
def mramBase : Nat := 0x1840000000
def ringBase : Nat := 0x1841000000
def portBase (c : Nat) : Nat := 0x1850000000 + c * 0x10000

/-- The regions of the map. -/
inductive Region where
  | hbm | pm (p : Nat) | csm (c : Nat) | lm (t : Nat) | im (t : Nat) | ctl (p : Nat)
  | mram | port (c : Nat) | remote (k : Nat) | window | reserved
deriving DecidableEq, Repr

/-- The region of a device address. -/
def regionOf (a : Nat) : Region :=
  if a < 0x1800000000 then .hbm
  else if a < 0x1820000000 then
    let p := (a - 0x1800000000) / 0x4000000
    let o := (a - 0x1800000000) % 0x4000000
    if o < 0x1000000 then .pm p
    else if o < 0x2000000 then .csm (p * 8 + (o - 0x1000000) / 0x200000)
    else if o < 0x3000000 then .lm (p * 64 + (o - 0x2000000) / 0x40000)
    else if o < 0x3400000 then .im (p * 64 + (o - 0x3000000) / 0x10000)
    else if 0x3FF0000 ≤ o then .ctl p
    else .reserved
  else if 0x1840000000 ≤ a ∧ a < 0x1842000000 then .mram
  else if 0x1850000000 ≤ a ∧ a < 0x1850100000 then .port ((a - 0x1850000000) / 0x10000)
  else if 0x2000000000 ≤ a ∧ a < 0x8000000000 then .remote (a / 0x2000000000)
  else if 0xF000000000 ≤ a ∧ a < 0xF800000000 then .window
  else .reserved

/-! Memories outside the map (classes 4 to 11 of R390) lie above the device addresses: bit 54, class, unit, offset. -/

def innerAddr (c u off : Nat) : Nat := 2 ^ 54 + c % 16 * 2 ^ 50 + u % 1024 * 2 ^ 40 + off % 2 ^ 40
def isInner (a : Nat) : Bool := decide (2 ^ 54 ≤ a)
def innerClass (a : Nat) : Nat := a / 2 ^ 50 % 16
def innerUnit (a : Nat) : Nat := a / 2 ^ 40 % 1024
/-- The address that logs and records give (R406): an offset within the unit for these memories. -/
def logAddr (a : Nat) : Nat := a % 2 ^ 40

/-- Protection class of a memory address (R390), if it is a memory. -/
def memClass (a : Nat) : Option Nat :=
  if isInner a then some (innerClass a)
  else match regionOf a with
  | .im _ => some 0
  | .lm _ => some 1
  | .csm _ => some 2
  | .pm _ => some 3
  | .mram => some 13
  | .hbm => some 14
  | _ => none

/-! Units (R17) -/

def packUnit (p : Nat) : Nat := 576 + p
def accUnit (p k : Nat) : Nat := 584 + 32 * p + k
def coreUnit (c : Nat) : Nat := 840 + c
def macUnit (m : Nat) : Nat := 864 + m

/-- Stack and pseudo-channel of an HBM address, under the STACK_INTLV in force (R191). -/
def State.hbmPlace (s : State) (a : Nat) : Nat × Nat :=
  if s.stackIntlv then (a / 0x2000 % 4, a / 0x100 % 32) else (a / 0x600000000, a % 0x600000000 / 0x100 % 32)

/-- The unit that owns the memory at an address (R406). -/
def memUnit (s : State) (a : Nat) : Nat :=
  if isInner a then innerUnit a
  else match regionOf a with
  | .im t => t
  | .lm t => t
  | .csm c => 512 + c
  | .pm p => packUnit p
  | .hbm => 1016 + (s.hbmPlace a).1
  | .mram => 1013
  | .ctl p => packUnit p
  | _ => 1014

/-- KIND of a unit number (table KIND and PARENT), 0 for a reserved number. -/
def unitKind (u : Nat) : Nat :=
  if u < 512 then 1 else if u < 576 then 2 else if u < 584 then 3
  else if u < 840 then (let k := (u - 584) % 32; if k = 18 ∨ 22 ≤ k then 0 else 4)
  else if u < 856 then 5 else if u = 856 then 6 else if 864 ≤ u ∧ u < 992 then 7
  else if 992 ≤ u ∧ u < 1008 then 8 else if 1008 ≤ u ∧ u < 1012 then 9 else if u = 1012 then 10
  else if u = 1013 then 11 else if u = 1014 then 12 else if 1016 ≤ u ∧ u < 1020 then 13
  else if u = 1020 then 14 else 0

/-- PARENT of a unit. -/
def unitParent (u : Nat) : Nat :=
  match unitKind u with
  | 0 => 0
  | 1 => 512 + u / 8
  | 2 => 576 + (u - 512) / 8
  | 4 => 576 + (u - 584) / 32
  | 14 => 0xFFF
  | _ => 1020

/-- The pack of a unit in a pack. -/
def unitPack (u : Nat) : Option Nat :=
  match unitKind u with
  | 1 => some (u / 64)
  | 2 => some ((u - 512) / 8)
  | 3 => some (u - 576)
  | 4 => some ((u - 584) / 32)
  | _ => none

/-- Whether unit d is u or one of its descendants (R444). -/
def unitUnder (u d : Nat) : Bool :=
  u == d || unitParent d == u || unitParent (unitParent d) == u || unitParent (unitParent (unitParent d)) == u

/-- A unit that nothing has been said of yet: in reset, no fault known. -/
def unitInit : UnitSt := ⟨false, false, false, false, false, 0, 0, false, false, 0, none, none⟩

/-- A unit's own state. -/
def State.un (s : State) (u : Nat) : UnitSt := tget unitInit s.unit u

/-- A unit's own state takes a new value. -/
def State.setUn (s : State) (u : Nat) (x : UnitSt) : State := { s with unit := tput s.unit u x }

/-- Health of a unit without children, or what Sheepdog, self-test or reset says of a group itself (R13, R14, R445). -/
def ownHealth (x : UnitSt) : Nat :=
  if x.fenced then 4 else if !x.released then 5 else if x.quar then 3 else if x.lame then 1 else 0

/-- The health of a group of children's healths (R14). -/
def groupHealth (hs : List Nat) : Nat :=
  if hs.all (· ≤ 1) then 0 else if hs.any (· ≤ 2) then 2 else 3

/-- Health of a cluster from its tiles. -/
def clusterHealth (s : State) (c : Nat) : Nat :=
  let o := ownHealth (s.un (512 + c))
  if 3 ≤ o then o else groupHealth ((List.range 8).map (fun i => ownHealth (s.un (c * 8 + i))))

/-- Health of a pack from its clusters and its accelerators and services. -/
def packHealth (s : State) (p : Nat) : Nat :=
  let o := ownHealth (s.un (packUnit p))
  if 3 ≤ o then o
  else groupHealth ((List.range 8).map (fun c => clusterHealth s (p * 8 + c)) ++
    ([0, 1, 2, 3, 4, 5, 6, 7, 8, 9, 10, 11, 12, 13, 14, 15, 16, 17, 19, 20, 21].map
      (fun k => ownHealth (s.un (accUnit p k)))))

/-- Health of a local unit under R14. -/
def State.health (s : State) (u : Nat) : Nat :=
  match unitKind u with
  | 0 => 0
  | 2 => clusterHealth s (u - 512)
  | 3 => packHealth s (u - 576)
  | 14 =>
    let o := ownHealth (s.un 1020)
    if o = 3 ∨ o = 4 then o
    else groupHealth ((List.range 8).map (packHealth s) ++
      ((List.range 180).filterMap (fun i =>
        let v := 840 + i
        if 5 ≤ unitKind v ∧ unitKind v ≤ 13 then some (ownHealth (s.un v)) else none)))
  | _ => ownHealth (s.un u)

/-- Whether a group that a unit lies in, or the unit, is quarantined and not under retest (R503, R504). -/
def State.quarIn (s : State) (u : Nat) : Bool :=
  let q := fun v => (s.un v).quar && !((s.un v).retest)
  q u || (match unitKind u with
    | 1 => q (512 + u / 8) || q (packUnit (u / 64))
    | 2 => q (packUnit ((u - 512) / 8))
    | 4 => q (packUnit ((u - 584) / 32))
    | _ => false)

/-- Whether a unit accepts new tasks (R13): HEALTHY, LAME or DEGRADED, in no quarantined group. -/
def State.inService (s : State) (u : Nat) : Bool := decide (s.health u ≤ 2) && !(s.quarIn u)

/-- Whether a unit runs: out of reset and not quarantined (R445, R503). -/
def State.unitRuns (s : State) (u : Nat) : Bool := (s.un u).released && !(s.quarIn u) && !s.thermTrip

/-- Whether a tile's clock runs (R15, R503). -/
def State.tileClocked (s : State) (t : Nat) : Bool := tget 0 s.packPower (t / 64) == 0 && !(s.quarIn t) && !s.thermTrip

/-! Partitions (R22, R518) -/

/-- The partition whose assignment holds a bit of one of its objects. -/
def State.partBy (s : State) (key : Nat → Nat) (i : Nat) : Option Nat :=
  (List.range 8).find? (fun p => bit (s.ent (key p)) i)

/-- Partition of a pack. -/
def State.partOfPack (s : State) (p : Nat) : Option Nat := s.partBy Key.prtPacks p
/-- Partition of a control core. -/
def State.partOfCore (s : State) (c : Nat) : Option Nat := s.partBy Key.prtCores c
/-- Partition of a MAC. -/
def State.partOfMac (s : State) (m : Nat) : Option Nat := s.partBy (fun p => Key.prtMacs p (m / 64)) (m % 64)

/-- Partition of a unit: none for a shared unit or an unassigned one. -/
def State.partOfUnit (s : State) (u : Nat) : Option Nat :=
  match unitKind u with
  | 5 => s.partOfCore (u - 840)
  | 7 => s.partOfMac (u - 864)
  | _ => match unitPack u with
    | some p => s.partOfPack p
    | none => none

/-- Owner of a carrier (R521), none for 0xFF. -/
def State.partOfCarrier (s : State) (c : Nat) : Option Nat :=
  let o := bf (s.ent (Key.prtCarriers (c / 8))) (8 * (c % 8) + 7) (8 * (c % 8))
  if o < 8 then some o else none

/-- Packs of a partition. -/
def State.packsOf (s : State) (p : Nat) : List Nat := (List.range 8).filter (fun q => s.partOfPack q == some p)
/-- Control cores of a partition. -/
def State.coresOf (s : State) (p : Nat) : List Nat := (List.range 16).filter (fun c => s.partOfCore c == some p)
/-- MACs of a partition. -/
def State.macsOf (s : State) (p : Nat) : List Nat := (List.range 128).filter (fun m => s.partOfMac m == some p)

/-! Event records (R511, R513, R578) -/

/-- A record's size in the ring: header, payload, CRC, padded to 16 bytes (R511). -/
def recSize (len : Nat) : Nat := (len + 35) / 16 * 16

/-- Bytes held in staging. -/
def State.stagedBytes (s : State) : Nat := (s.staged.map (fun r => recSize r.payload.length)).sum

/-- The POR count of a record header. -/
def State.pwrcyc (s : State) : Nat := s.entN Key.evrPwrcyc

/-- One record takes the next SEQ and a place in staging; where staging is full it is dropped, counted in LOST. -/
def State.stageOne (s : State) (ty : Nat) (payload : List Byte) : State :=
  if s.stagedBytes + recSize payload.length ≤ 65536 then
    { s with staged := s.staged ++ [⟨BitVec.ofNat 16 ty, payload, s.evSeq, s.opsec, s.pwrcyc⟩]
             evSeq := (s.evSeq + 1) % 2 ^ 24 }
  else
    let c := s.ent Key.evrCnt
    { s.setEnt Key.evrCnt (setf c 63 32 (min (bf c 63 32 + 1) (2 ^ 32 - 1))) with
      lostFirst := if s.lostRun = 0 then s.evSeq else s.lostFirst
      lostRun := s.lostRun + 1
      evSeq := (s.evSeq + 1) % 2 ^ 24 }

/-- A record is formed, behind a LOSS record where records were dropped before it and both find room (R513). -/
def State.recordBytes (s : State) (ty : Nat) (payload : List Byte) : State :=
  if s.lostRun ≠ 0 ∧ s.stagedBytes + recSize 16 + recSize payload.length ≤ 65536 then
    let l := s.stageOne 2 (wordsBytes [w64 s.lostRun, w64 s.lostFirst])
    { l with lostRun := 0 }.stageOne ty payload
  else s.stageOne ty payload

/-- A device record: one 64-bit little-endian word for each field (R578). -/
def State.record (s : State) (ty : Nat) (ws : List U64) : State := s.recordBytes ty (wordsBytes ws)

/-- The SEQ the record just formed took. -/
def State.lastSeq (s : State) : Nat := (s.evSeq + 2 ^ 24 - 1) % 2 ^ 24

/-- A bitmap of units: 16 words, bit u & 63 of word u >> 6 (R578). -/
def unitBitmap (us : List Nat) : List U64 :=
  (List.range 16).map (fun i => w64 ((us.filter (fun u => u / 64 == i)).foldl (fun a u => a ||| 2 ^ (u % 64)) 0))

/-! Interrupt lines -/

/-- Interrupt sources toward the control cores. -/
inductive Irq where
  | dma | leash | protection | power | sheepdog | trigger | ring | mac | flow
deriving DecidableEq, Repr

/-- The line of a source at a core. -/
def irqKey (i : Irq) (core : Nat) : Nat := i.ctorIdx * 16 + core

/-- A source asserts or releases its line at a core. -/
def State.setIrq (s : State) (i : Irq) (core : Nat) (b : Bool) : State := { s with irq := tput s.irq (irqKey i core) b }

end Sys2Proof.Machine
end

