-- ==== Sys2Proof/Machine/Keyed.lean ====
section
/-!
DEFINITION. Keyed.lean: the keyed functions that the spec names: SHAKE256 (FIPS 202), KMAC256 (NIST SP 800-185), X448 (RFC 7748) and
Ed448 (RFC 8032), as their standards give them (R430, R435, R523, R532; assumption 86, PRESUMED).
-/
namespace Sys2Proof.Machine

/-- ASCII text as bytes. -/
def ascii (t : String) : List Byte := t.toList.map (fun c => BitVec.ofNat 8 c.toNat)

/-! Keccak-f[1600]: 25 lanes of 64 bits, lane x + 5y -/

def rot64 (k x : Nat) : Nat := x * 2 ^ k % 2 ^ 64 ||| x / 2 ^ (64 - k)
def keccakConst : List Nat :=
  [0x0000000000000001, 0x0000000000008082, 0x800000000000808A, 0x8000000080008000, 0x000000000000808B, 0x0000000080000001,
   0x8000000080008081, 0x8000000000008009, 0x000000000000008A, 0x0000000000000088, 0x0000000080008009, 0x000000008000000A] ++
  [0x000000008000808B, 0x800000000000008B, 0x8000000000008089, 0x8000000000008003, 0x8000000000008002, 0x8000000000000080,
   0x000000000000800A, 0x800000008000000A, 0x8000000080008081, 0x8000000000008080, 0x0000000080000001, 0x8000000080008008]
def keccakTurns : List Nat := [0, 1, 62, 28, 27, 36, 44, 6, 55, 20, 3, 10, 43, 25, 39, 41, 45, 15, 21, 8, 18, 2, 61, 56, 14]

/-- One round with its constant. -/
def keccakRound (a : List Nat) (rc : Nat) : List Nat :=
  let at_ := fun (l : List Nat) (x y : Nat) => l.getD (x % 5 + 5 * (y % 5)) 0
  let col := (List.range 5).map (fun x => (List.range 5).foldl (fun v y => v ^^^ at_ a x y) 0)
  let mixed := a.zipIdx.map (fun e => e.1 ^^^ col.getD ((e.2 + 4) % 5) 0 ^^^ rot64 1 (col.getD ((e.2 + 1) % 5) 0))
  let turned := (List.range 25).map (fun i =>
    -- lane (x, y) comes from lane (x', y') with x = y', y = 2x' + 3y'
    let y' := i % 5
    let x' := (i / 5 + 2 * y') * 3 % 5
    rot64 (keccakTurns.getD (x' + 5 * y') 0) (at_ mixed x' y'))
  let out := (List.range 25).map (fun i =>
    at_ turned i (i / 5) ^^^ ((2 ^ 64 - 1 - at_ turned (i + 1) (i / 5)) &&& at_ turned (i + 2) (i / 5)))
  match out with
  | x :: r => (x ^^^ rc) :: r
  | [] => []
def keccak (a : List Nat) : List Nat := keccakConst.foldl keccakRound a

/-- Bytes of a block of a sponge with capacity 512. -/
def spongeRate : Nat := 136
/-- A message with its domain bits and its padding. -/
def spongePad (dom : Nat) (m : List Byte) : List Byte :=
  let k := spongeRate - m.length % spongeRate
  m ++ (if k = 1 then [BitVec.ofNat 8 (dom + 128)] else BitVec.ofNat 8 dom :: (List.replicate (k - 2) 0 ++ [0x80]))
def lanesOf (b : List Byte) (n : Nat) : List Nat := (List.range n).map (fun i => leNat ((b.drop (8 * i)).take 8))
/-- The state after the blocks of a padded message. -/
def absorb (m : List Byte) : List Nat :=
  (List.range (m.length / spongeRate)).foldl (fun a i =>
    let w := lanesOf ((m.drop (spongeRate * i)).take spongeRate) 17
    keccak (a.zipIdx.map (fun e => e.1 ^^^ w.getD e.2 0))) (List.replicate 25 0)
/-- So many blocks of output. -/
def squeeze : Nat → List Nat → List Byte
  | 0, _ => []
  | n + 1, a => ((a.take 17).flatMap (leBytes 8)) ++ squeeze n (keccak a)
/-- n bytes of the sponge's output for a message. -/
def sponge (dom n : Nat) (m : List Byte) : List Byte := (squeeze ((n + spongeRate - 1) / spongeRate) (absorb (spongePad dom m))).take n

/-- n bytes of SHAKE256. -/
def shake (n : Nat) (m : List Byte) : List Byte := sponge 0x1F n m

/-- A length, with the number of its bytes before it. -/
def leftEncode (x : Nat) : List Byte :=
  if x < 256 then [1, BitVec.ofNat 8 x] else if x < 65536 then 2 :: beBytes 2 x else 3 :: beBytes 3 x
/-- A length, with the number of its bytes after it. -/
def rightEncode (x : Nat) : List Byte := if x < 256 then [BitVec.ofNat 8 x, 1] else beBytes 2 x ++ [2]
def encodeString (b : List Byte) : List Byte := leftEncode (8 * b.length) ++ b
/-- Whole blocks, led by the length of a block. -/
def bytepad (b : List Byte) : List Byte :=
  let x := leftEncode spongeRate ++ b
  x ++ List.replicate ((spongeRate - x.length % spongeRate) % spongeRate) 0
/-- n bytes of KMAC256: key, data, customization. -/
def kmac (n : Nat) (key data custom : List Byte) : List Byte :=
  sponge 0x04 n (bytepad (encodeString (ascii "KMAC") ++ encodeString custom) ++ bytepad (encodeString key) ++ data ++ rightEncode (8 * n))

/-! The field of 2^448 - 2^224 - 1 elements -/

def p448 : Nat := 2 ^ 448 - 2 ^ 224 - 1
/-- A power modulo m: the exponent's bits from the n-th down. -/
def powBits (m b e : Nat) : Nat → Nat
  | 0 => 1 % m
  | n + 1 =>
    -- bits above the lowest first
    let h := powBits m b (e / 2) n
    if e % 2 = 1 then h * h % m * b % m else h * h % m
def fpow (b e : Nat) : Nat := powBits p448 (b % p448) e 448
def finv (x : Nat) : Nat := fpow x (p448 - 2)
def fsub (a b : Nat) : Nat := (a + p448 - b % p448) % p448

/-! X448 -/

/-- The four coordinates of the ladder. -/
structure Ladder where
  x2 : Nat
  z2 : Nat
  x3 : Nat
  z3 : Nat

/-- One step of the ladder, without its swaps. -/
def ladderStep (u : Nat) (l : Ladder) : Ladder :=
  let a := (l.x2 + l.z2) % p448
  let aa := a * a % p448
  let b := fsub l.x2 l.z2
  let bb := b * b % p448
  let e := fsub aa bb
  let c := (l.x3 + l.z3) % p448
  let d := fsub l.x3 l.z3
  let da := d * a % p448
  let cb := c * b % p448
  let s := (da + cb) % p448
  let t := fsub da cb
  ⟨aa * bb % p448, e * (aa + 39081 * e) % p448, s * s % p448, u * (t * t) % p448⟩
/-- The ladder over the bits of k from bit n - 1 down. -/
def ladder (u k : Nat) : Nat → Ladder → Ladder
  | 0, l => l
  | n + 1, l =>
    let sw := k / 2 ^ n % 2 = 1
    let l := if sw then ⟨l.x3, l.z3, l.x2, l.z2⟩ else l
    let l := ladderStep u l
    ladder u k n (if sw then ⟨l.x3, l.z3, l.x2, l.z2⟩ else l)
/-- A private key of X448 as the number that it stands for. -/
def clamp448 (k : Nat) : Nat := k % 2 ^ 447 / 4 * 4 + 2 ^ 447
/-- X448 of a private key and a coordinate, 56 bytes. -/
def x448 (k : Nat) (u : List Byte) : List Byte :=
  let x := leNat (u.take 56) % p448
  let l := ladder x (clamp448 k) 448 ⟨1, 0, x, 1⟩
  leBytes 56 (l.x2 * finv l.z2 % p448)
/-- The public key of a private key. -/
def x448Public (k : Nat) : List Byte := x448 k (leBytes 56 5)

/-! Ed448 -/

/-- A point in projective coordinates. -/
structure Pt where
  x : Nat
  y : Nat
  z : Nat
def edD : Nat := p448 - 39081
def edOrder : Nat := 2 ^ 446 - 13818066809895115352007386748515426880336692474882178609894547503885
def edBase : Pt :=
  ⟨224580040295924300187604334099896036246789641632564134246125461686950415467406032909029192869357953282578032075146446173674602635247710,
   298819210078481492676017930443930673437544040154080242095928241372331506189835876003536878655418784733982303233503462500531545062832660, 1⟩
def Pt.zero : Pt := ⟨0, 1, 1⟩
/-- The sum of two points. -/
def Pt.add (p q : Pt) : Pt :=
  let a := p.z * q.z % p448
  let b := a * a % p448
  let c := p.x * q.x % p448
  let d := p.y * q.y % p448
  let e := edD * c % p448 * d % p448
  let f := fsub b e
  let g := (b + e) % p448
  let h := (p.x + p.y) * (q.x + q.y) % p448
  ⟨a * f % p448 * fsub (fsub h c) d % p448, a * g % p448 * fsub d c % p448, f * g % p448⟩
/-- k times a point: the bits of k from bit n - 1 down. -/
def Pt.mul (p : Pt) (k : Nat) : Nat → Pt
  | 0 => Pt.zero
  | n + 1 =>
    let h := p.mul (k / 2) n
    if k % 2 = 1 then (h.add h).add p else h.add h
def Pt.same (p q : Pt) : Bool := p.x * q.z % p448 == q.x * p.z % p448 && p.y * q.z % p448 == q.y * p.z % p448
/-- The 57 bytes of a point. -/
def Pt.bytes (p : Pt) : List Byte :=
  let i := finv p.z
  leBytes 57 (p.y * i % p448 + p.x * i % p448 % 2 * 2 ^ 455)
/-- The point of 57 bytes. -/
def ptOf (b : List Byte) : Option Pt :=
  let n := leNat (b.take 57)
  let y := n % 2 ^ 455
  let u := fsub (y * y) 1
  let v := fsub (edD * (y * y % p448)) 1
  let x := u * u % p448 * u % p448 * v % p448 * fpow (fpow u 5 * fpow v 3 % p448) ((p448 - 3) / 4) % p448
  let odd := n / 2 ^ 455 % 2
  if p448 ≤ y ∨ v * (x * x % p448) % p448 ≠ u ∨ (x = 0 ∧ odd = 1) then none
  else some ⟨if x % 2 = odd then x else p448 - x, y, 1⟩

/-- SHAKE256 of 114 bytes with the prefix of Ed448 for a context, as a number. -/
def edHash (ctx m : List Byte) : Nat :=
  leNat (shake 114 (ascii "SigEd448" ++ [0, BitVec.ofNat 8 ctx.length] ++ ctx ++ m))
/-- Whether a signature of 114 bytes verifies: public key, context, message, signature. -/
def ed448Verify (key ctx m sig : List Byte) : Bool :=
  let r := sig.take 57
  let s := leNat ((sig.drop 57).take 57)
  match ptOf key, ptOf r with
  | some a, some rp =>
    let k := edHash ctx (r ++ key ++ m) % edOrder
    sig.length == 114 && decide (s < edOrder) && (edBase.mul s 446).same (rp.add (a.mul k 446))
  | _, _ => false

/-- The secret number and the prefix of a private key of 57 bytes. -/
def edSecret (priv : List Byte) : Nat × List Byte :=
  let h := shake 114 priv
  (clamp448 (leNat (h.take 56)), h.drop 57)
def ed448Public (priv : List Byte) : List Byte := (edBase.mul (edSecret priv).1 448).bytes
/-- The signature of a message under a private key and a context. -/
def ed448Sign (priv ctx m : List Byte) : List Byte :=
  let (s, prefix_) := edSecret priv
  let n := edHash ctx (prefix_ ++ m) % edOrder
  let r := (edBase.mul n 446).bytes
  let k := edHash ctx (r ++ ed448Public priv ++ m) % edOrder
  r ++ leBytes 57 ((n + k * s) % edOrder)

/-! The device's own keys (R430, R577) -/

/-- `ID_KEY`: the public half of the identity key; zero on a part that has not been programmed. -/
def idPublic : List Byte := if Config.keyFused then ed448Public ((List.range 57).map Config.idPrivate) else List.replicate 57 0
/-- A signature by the identity key: context, message. -/
def idSign (ctx m : List Byte) : List Byte := ed448Sign ((List.range 57).map Config.idPrivate) ctx m

end Sys2Proof.Machine
end

