-- ==== Sys2Proof/Machine/Flags.lean ====
section
/-!
DEFINITION. Flags.lean: counters and flags of the dictionary (R5 to R8), and the saturation, narrowing and
comparison results that the tiles' arithmetic leaves (R130, R144 to R146).
-/
namespace Sys2Proof.Machine

/-- A saturating counter of so many bits after n more events (R5). -/
def satAdd (bits v n : Nat) : Nat := min (v + n) (2 ^ bits - 1)

/-- A wrapping counter of so many bits after n more events (R5). -/
def wrapAdd (bits v n : Nat) : Nat := (v + n) % 2 ^ bits

/-- The saturating counter in field [hi:lo] of entry k counts n. -/
def State.incSat (s : State) (k hi lo n : Nat) : State :=
  s.setFld k hi lo (satAdd (hi + 1 - lo) (s.fld k hi lo) n)

/-- The wrapping counter in field [hi:lo] of entry k counts n. -/
def State.incWrap (s : State) (k hi lo n : Nat) : State :=
  s.setFld k hi lo (wrapAdd (hi + 1 - lo) (s.fld k hi lo) n)

/-- A counter that fills a 32-bit entry counts n, saturating. -/
def State.inc32 (s : State) (k n : Nat) : State := s.incSat k 31 0 n

/-- A counter that fills a 64-bit entry counts n, saturating. -/
def State.inc64 (s : State) (k n : Nat) : State := s.incSat k 63 0 n

/-- Hardware sets a sticky flag (R7). -/
def State.setSticky (s : State) (k i : Nat) : State := s.setFlag k i true

/-- Clamping an integer to a signed range of n bits. -/
def clampS (n : Nat) (x : Int) : Int := max (-(2 ^ (n - 1) : Nat)) (min x ((2 ^ (n - 1) : Nat) - 1))

/-- Clamping an integer to an unsigned range of n bits. -/
def clampU (n : Nat) (x : Int) : Int := max 0 (min x ((2 ^ n : Nat) - 1))

/-- Division by 2^n rounding to nearest, ties away from negative infinity (half up): the shift of an integer. -/
def shrRound (x : Int) (n : Nat) : Int := if n = 0 then x else (x + (2 ^ (n - 1) : Nat)) / (2 ^ n : Nat)

end Sys2Proof.Machine
end

