-- ==== Sys2Proof/Machine/Protect.lean ====
section
/-!
DEFINITION. Protect.lean: what a read that finds a parity error does to the memory, its class's counters and its
log (R388 to R395, R401, R406), shared by every reader of memory.
-/
namespace Sys2Proof.Machine

/-- Whether a byte of the 64-bit word w has a fresh parity error and the word is not poisoned (R388). -/
def State.freshWord (s : State) (w : Nat) : Bool :=
  !(tget false s.poison w) && (List.range 8).any (fun i => tget false s.fresh (8 * w + i))

/-- The parity of a byte has gone wrong since it was stored (R387, R388): a byte of a memory, in a word that is not poisoned.
At most seven bytes of a word are so; with all eight the word would be poisoned. -/
def State.upsetByte (s : State) (b : Nat) : State :=
  if (memClass b).isSome ∧ !(s.poisoned b) ∧ (List.range 8).countP (fun i => tget false s.fresh (b / 8 * 8 + i)) < 7 then
    { s with fresh := tput s.fresh b true }
  else s

/-- The bytes named, of the words that n bytes at a touch, are found with wrong parity. -/
def State.upset (s : State) (a n : Nat) (bs : List Addr) : State :=
  bs.foldl (fun s b => if a / 8 * 8 ≤ b.toNat ∧ b.toNat < (a + n + 7) / 8 * 8 then s.upsetByte b.toNat else s) s

/-- An error of a class is entered in its log (R406). -/
def State.logError (s : State) (c kind unit addr : Nat) : State :=
  let ent := fun i => s.ent (Key.epClassLog c i)
  match (List.range 16).find? (fun i => ent i ≠ 0 ∧ bf (ent i) 39 0 = addr ∧ bf (ent i) 59 48 = unit) with
  | some i =>
    let e := ent i
    s.setEnt (Key.epClassLog c i) (setf (setf e 63 60 kind) 47 40 (satAdd 8 (bf e 47 40) 1))
  | none =>
    match (List.range 16).find? (fun i => ent i = 0) with
    | some i => s.setEntN (Key.epClassLog c i) (kind * 2 ^ 60 + unit % 4096 * 2 ^ 48 + 2 ^ 40 + addr % 2 ^ 40)
    | none => s.incSat (Key.epClassCnt c) 7 0 1

/-- A corrected error: counted and logged. -/
def State.noteCorrected (s : State) (c unit addr : Nat) : State :=
  (s.incSat (Key.epClassCnt c) 63 32 1).logError c 0 unit addr

/-- A word poisoned: counted and logged. -/
def State.notePoisoned (s : State) (c unit addr : Nat) : State :=
  (s.incSat (Key.epClassCnt c) 31 16 1).logError c 1 unit addr

/-- A path error, logged in class 12 or 15 (R397). -/
def State.notePath (s : State) (c unit addr : Nat) : State := s.logError c 3 unit addr

/-- A memory of a poisoning class finds a fresh error in word w: the word is poisoned, the error logged and counted
before the data leave (R395, R401). -/
def State.poisonWord (s : State) (w : Nat) : State :=
  match memClass (8 * w) with
  | some 0 => s
  | some c => (s.setPoison (8 * w)).notePoisoned c (memUnit s (8 * w)) (logAddr (8 * w))
  | none => s

/-- The words that n bytes at a touch. -/
def wordsOf (a n : Nat) : List Nat :=
  if n = 0 then [] else (List.range ((a + n - 1) / 8 - a / 8 + 1)).map (a / 8 + ·)

/-- A read of n bytes at a: fresh errors of poisoning classes are met (R395). -/
def State.readTouch (s : State) (a n : Nat) : State :=
  (wordsOf a n).foldl (fun s w => if s.freshWord w then s.poisonWord w else s) s

/-- The first poisoned byte among n bytes at a. -/
def State.firstPoison (s : State) (a n : Nat) : Option Nat :=
  ((List.range n).map (a + ·)).find? (fun i => s.poisoned i)

/-- The protection interrupt (R392, R409). -/
def State.protectionIrq (s : State) : State := s.setIrq .protection (s.entN Key.epIrqCore) true

end Sys2Proof.Machine
end

