-- ==== Sys2Proof/Machine/Operands.lean ====
section
/-!
DEFINITION. Operands.lean: a Psimir tile's registers, its control and status registers, vector elements and
operand groups, and the tile's view of memory (R121 to R134, R165 to R168, R173).
-/
namespace Sys2Proof.Machine

/-- A tile that has never run: every register zero, in RESET (R164). -/
def tileInit : Tile :=
  { st := .reset, pc := 0, s := [], v := [], lc0 := 0, lb0 := 0, le0 := 0, lc1 := 0, lb1 := 0, le1 := 0,
    vl := 0, vtype := 0, vstart := 0, sat := false, poison := false, paddr := 0, status := 0, cause := 0,
    epc := 0, eval := 0, tvec := 0, waddr := 0, wmask := 0, wctl := 0, ipend := 0, cycle := 0,
    resumed := false, haltedFrom := .running, fetchRd := 0, blockedAt := 0, task := none,
    fetchedAt := 0, lastRecv := 0, pendingD := [], stalledPost := none }

/-- Tile t. -/
def State.tl (s : State) (t : Nat) : Tile := tget tileInit s.tile t

/-- Tile t takes a new value. -/
def State.setTl (s : State) (t : Nat) (x : Tile) : State := { s with tile := tput s.tile t x }

/-- Scalar register r: s0 reads as zero. -/
def Tile.rs (x : Tile) (r : Reg) : U64 := if r = 0 then 0 else tget 0 x.s r.toNat

/-- A write of scalar register r: ignored for s0. -/
def Tile.wr (x : Tile) (r : Reg) (v : U64) : Tile := if r = 0 then x else { x with s := tput x.s r.toNat v }

/-! Element types (table Element types) -/

def etBytes (t : Nat) : Nat := match t with | 0 => 1 | 1 => 2 | 2 => 4 | 3 => 8 | 4 => 4 | 5 => 8 | _ => 1
def etCplx (t : Nat) : Bool := t == 4 || t == 5
/-- Width in bits of an element's component. -/
def etW (t : Nat) : Nat := match t with | 0 => 8 | 1 => 16 | 2 => 32 | 3 => 64 | 4 => 16 | 5 => 32 | _ => 8
/-- The type of twice the width, and of half the width. -/
def etWide (t : Nat) : Nat := match t with | 4 => 5 | _ => t + 1
def etNarrow (t : Nat) : Nat := match t with | 5 => 4 | _ => t - 1

/-- PXS_VTYPE's group and element type. -/
def Tile.group (x : Tile) : Nat := 2 ^ (x.vtype.toNat / 16 % 4)
def Tile.etype (x : Tile) : Nat := x.vtype.toNat % 8

/-- Bytes of a vector register, PXS_VLB. -/
def vlb : Nat := 256

/-- VLMAX of a vtype (R129). -/
def vlMax (vt : Nat) : Nat := vlb * 2 ^ (vt / 16 % 4) / etBytes (vt % 8)

/-- Whether an operand of type t may stand at register n: its effective group is 1, 2, 4 or 8 and n is a multiple of it
(R130, R167). -/
def Tile.egOk (x : Tile) (t : Nat) (n : Reg) : Bool :=
  let p := x.group * etBytes t
  let q := etBytes x.etype
  let eg := p / q
  p % q == 0 && (eg == 1 || eg == 2 || eg == 4 || eg == 8) && n.toNat % eg == 0

/-- Element i of e bytes of the group at register n, as bits (R133). -/
def Tile.elem (x : Tile) (n e i : Nat) : Nat :=
  (tget 0 x.v (n + i * e / vlb)).toNat / 2 ^ (8 * (i * e % vlb)) % 2 ^ (8 * e)

/-- Element i of e bytes of the group at register n takes the bits b. -/
def Tile.setElem (x : Tile) (n e i b : Nat) : Tile :=
  let r := n + i * e / vlb
  let o := 2 ^ (8 * (i * e % vlb))
  let w := (tget 0 x.v r).toNat
  { x with v := tput x.v r (BitVec.ofNat 2048 (w - w / o % 2 ^ (8 * e) * o + b % 2 ^ (8 * e) * o)) }

/-- Elements from index i on take the given bits. -/
def Tile.setElems (x : Tile) (n e : Nat) : Nat → List Nat → Tile
  | _, [] => x
  | i, b :: r => (x.setElem n e i b).setElems n e (i + 1) r

/-- The components of an element's bits, signed: one, or real and imaginary. -/
def comps (t b : Nat) : List Int :=
  if etCplx t then [sgn (etW t) b, sgn (etW t) (b / 2 ^ etW t)] else [sgn (etW t) b]

/-- An element's bits from its components, each taken modulo its width. -/
def packComps (t : Nat) : List Int → Nat
  | [] => 0
  | c :: r => uns (etW t) c + 2 ^ etW t * packComps t r

/-- The elements an element instruction processes: PXS_VSTART to PXS_VL − 1 (R132). -/
def Tile.range (x : Tile) : List Nat :=
  (List.range (x.vl.toNat - x.vstart.toNat)).map (x.vstart.toNat + ·)

/-! Control and status registers (R128, R173) -/

def stIE : Nat := 1
def stPIE : Nat := 2
def stLPEN : Nat := 4
def stPLPEN : Nat := 8
def stINH : Nat := 16

/-- A bit of PXS_STATUS. -/
def Tile.stBit (x : Tile) (m : Nat) : Bool := x.status.toNat / m % 2 == 1

/-- PXS_STATUS from its flags. -/
def mkStatus (ie pie lpen plpen inh : Bool) : Byte :=
  BitVec.ofNat 8 (b01 ie + 2 * b01 pie + 4 * b01 lpen + 8 * b01 plpen + 16 * b01 inh)

/-- Whether loop ends are enabled. -/
def Tile.lpen (x : Tile) : Bool := x.stBit stLPEN
/-- Whether the tile is in its handler. -/
def Tile.inh (x : Tile) : Bool := x.stBit stINH

/-- Reading a control and status register of tile t; none for an unlisted number. PXS_CYCLE counts PCLK cycles, 4 for each
TCLK tick (R46); `cycle` holds 4 × the raw counter at the tile's last reset, and the cycles its PCLK stood still. -/
def Tile.csr (x : Tile) (t n : Nat) (raw : U64) : Option U64 :=
  match n with
  | 0x000 => some (w64 x.vl.toNat)
  | 0x001 => some (w64 x.vtype.toNat)
  | 0x002 => some (w64 vlb)
  | 0x003 => some (w64 x.vstart.toNat)
  | 0x004 => some (w64 (b01 x.sat))
  | 0x005 => some (w64 (b01 x.poison))
  | 0x006 => some (w64 x.paddr.toNat)
  | 0x010 => some (w64 x.status.toNat)
  | 0x011 => some x.cause
  | 0x012 => some (w64 x.epc.toNat)
  | 0x013 => some (w64 x.eval.toNat)
  | 0x014 => some (w64 x.tvec.toNat)
  | 0x018 => some (w64 x.waddr.toNat)
  | 0x019 => some (w64 x.wmask.toNat)
  | 0x01A => some (w64 x.wctl.toNat)
  | 0x01B => some (w64 x.ipend.toNat)
  | 0x020 => some (w64 t)
  | 0x021 => some (w64 (4 * raw.toNat) - x.cycle)
  | 0x040 => some (w64 x.lc0.toNat)
  | 0x041 => some (w64 x.lb0.toNat)
  | 0x042 => some (w64 x.le0.toNat)
  | 0x044 => some (w64 x.lc1.toNat)
  | 0x045 => some (w64 x.lb1.toNat)
  | 0x046 => some (w64 x.le1.toNat)
  | _ => none

/-- Whether a CSR number is a loop register. -/
def csrLoop (n : Nat) : Bool := [0x040, 0x041, 0x042, 0x044, 0x045, 0x046].contains n

/-- Writing a control and status register: none where it is RO or unlisted. PXS_SAT and PXS_POISON clear on 1. PXS_TVEC, a
multiple of 4 (R128), drops bits [1:0] of what is written (assumption 80: DESIGN CHOICE). -/
def Tile.csrWrite (x : Tile) (n : Nat) (v : U64) : Option Tile :=
  let lo := v.toNat
  let w32 : BitVec 32 := BitVec.ofNat 32 lo
  match n with
  | 0x003 => some { x with vstart := BitVec.ofNat 16 lo }
  | 0x004 => some { x with sat := x.sat && !(bit v 0) }
  | 0x005 => some { x with poison := x.poison && !(bit v 0) }
  | 0x010 => some { x with status := BitVec.ofNat 8 (lo % 32) }
  | 0x012 => some { x with epc := w32 }
  | 0x014 => some { x with tvec := BitVec.ofNat 32 (lo / 4 * 4) }
  | 0x018 => some { x with waddr := w32 }
  | 0x019 => some { x with wmask := w32 }
  | 0x01A => some { x with wctl := BitVec.ofNat 8 (lo % 4) }
  | 0x040 => some { x with lc0 := w32 }
  | 0x041 => some { x with lb0 := w32 }
  | 0x042 => some { x with le0 := w32 }
  | 0x044 => some { x with lc1 := w32 }
  | 0x045 => some { x with lb1 := w32 }
  | 0x046 => some { x with le1 := w32 }
  | _ => none

/-! The tile's view of memory (R121, R122) -/

/-- The device address of n bytes at tile address a, when they lie within LM, the cluster's CSM or the pack's PM. -/
def tileDev (t a n : Nat) : Option Nat :=
  if 0x100000 ≤ a ∧ a + n ≤ 0x140000 then some (lmAddr t (a - 0x100000))
  else if 0x1000000 ≤ a ∧ a + n ≤ 0x1200000 then some (csmAddr (t / 8) (a - 0x1000000))
  else if 0x4000000 ≤ a ∧ a + n ≤ 0x5000000 then some (pmAddr (t / 64) (a - 0x4000000))
  else none

/-- The first byte of n bytes at a that lies outside the region of its first byte, or the first byte itself. -/
def firstOutside (t a n : Nat) : Nat :=
  (((List.range n).map (a + ·)).find? (fun b => (tileDev t a (b + 1 - a)).isNone)).getD a

/-- Whether tile address a lies in the pack control page. -/
def inCtlPage (a : Nat) : Bool := decide (0x8000000 ≤ a) && decide (a < 0x8010000)

/-- Whether byte address b matches the watch for a load or a store (R142). -/
def Tile.watched (x : Tile) (store : Bool) (b : Nat) : Bool :=
  (BitVec.ofNat 32 b &&& x.wmask) == (x.waddr &&& x.wmask) &&
    x.wctl.toNat / (if store then 2 else 1) % 2 == 1

/-- The first watched byte of n bytes at a. -/
def Tile.firstWatched (x : Tile) (store : Bool) (a n : Nat) : Option Nat :=
  ((List.range n).map (a + ·)).find? (x.watched store)

end Sys2Proof.Machine
end

