-- ==== Sys2Proof/Machine/GelpelCore.lean ====
section
/-!
DEFINITION. GelpelCore.lean: a Gelpel port's state, the link to a member (R18, R20, R543), the translation of numbers
(R19, R119) and the sending of messages in flits (R544 to R547).
-/
namespace Sys2Proof.Machine

/-- States of a port (`GPL_Gg_STAT`). -/
def gpDown : Nat := 0
def gpTrain : Nat := 1
def gpHello : Nat := 2
def gpUp : Nat := 3
def gpDialect : Nat := 4
def gpConflict : Nat := 5

/-- A port with nothing sent or received. -/
def gplInit : Gelpel := ⟨0, 0, false, [], 0, 0, 0, 0, [], [], [], [], none, 0, none, 0, 0⟩
def State.gpl (s : State) (g : Nat) : Gelpel := tget gplInit s.gelpel g
def State.setGpl (s : State) (g : Nat) (x : Gelpel) : State := { s with gelpel := tput s.gelpel g x }
def State.gplState (s : State) (g : Nat) : Nat := s.fld (Key.gplStat g) 63 60

/-- Own position in the span group. -/
def State.ownPos (s : State) : Nat := s.fld Key.gplCfg 1 0

/-- The chip index of a port's peer (R18). -/
def State.peerChip (s : State) (g : Nat) : Nat := (s.fld (Key.gplStat g) 57 56 + 4 - s.ownPos) % 4

/-- The port in state UP that reaches the member of a chip index (R20). -/
def State.linkTo (s : State) (chip : Nat) : Option Nat :=
  (List.range 4).find? (fun g => s.gplState g == gpUp && s.peerChip g == chip)

/-- A chip index as the member at chip index c counts it (R19). -/
def chipSeenBy (c x : Nat) : Nat := (x + 4 - c) % 4

/-- A unit number as the member at chip index c counts it. -/
def unitSeenBy (c u : Nat) : Nat := chipSeenBy c (u / 1024) * 1024 + u % 1024

/-- A handle as the member at chip index c counts it: its PACK is chip index × 8 + pack (R81, R119). -/
def handleSeenBy (c h : Nat) : Nat := chipSeenBy c (h / 2 ^ 30) * 2 ^ 30 + h % 2 ^ 30

/-- Granules of a message (R545): a header granule with MT, length and sending partition, and a first word; then the body. The
first granule of data also names the marked words, one bit each (assumption 85). -/
def granulesOf : List U64 → List Granule
  | [] => []
  | [a] => [⟨a, 0, true⟩]
  | [a, b] => [⟨a, b, true⟩]
  | a :: b :: r => ⟨a, b, false⟩ :: granulesOf r
def messageMarked (marks mt part : Nat) (first : U64) (body : List U64) : List Granule :=
  let len := 1 + (body.length + 1) / 2
  ⟨first, w64 (mt * 2 ^ 56 + len % 256 * 2 ^ 48 + part % 16 * 2 ^ 44 + marks % 2 ^ 32), body.isEmpty⟩ :: granulesOf body
def messageOf (mt part : Nat) (first : U64) (body : List U64) : List Granule := messageMarked 0 mt part first body

/-- A flit's 14 payload words from up to seven granules; the rest is zero. -/
def flitPayload (q : List Granule) : List U64 :=
  ((q.take 7).flatMap (fun (g : Granule) => [g.lo, g.hi]) ++ List.replicate 14 0).take 14

/-- A flit of a VC is sent: it takes the next SEQ and a credit, reports the buffers freed, and stays in the replay buffer (R544,
R546, R547). -/
def Gelpel.sendFlit (x : Gelpel) (vc : Bool) (q : List Granule) : Gelpel :=
  { x with sendSeq := x.sendSeq + 1
           free0 := 0
           free1 := 0
           unacked := x.unacked ++ [⟨x.sendSeq, vc, flitPayload q, ((q.take 7).filter (·.last)).length⟩] }

/-- The port sends what it can: VC0 before VC1, with a credit, at most 128 flits unacknowledged. -/
def Gelpel.pump : Nat → Gelpel → Gelpel
  | 0, x => x
  | n + 1, x =>
    if 128 ≤ x.unacked.length then x
    else if x.q0 ≠ [] ∧ x.cr0 ≠ 0 then
      Gelpel.pump n { x.sendFlit false x.q0 with q0 := x.q0.drop 7, cr0 := x.cr0 - 1 }
    else if x.q1 ≠ [] ∧ x.cr1 ≠ 0 then
      Gelpel.pump n { x.sendFlit true x.q1 with q1 := x.q1.drop 7, cr1 := x.cr1 - 1 }
    else x

def Gelpel.pumpAll (x : Gelpel) : Gelpel := x.pump (x.q0.length + x.q1.length)

/-- Port g becomes x, once it has sent what it can. Where the oldest unacknowledged flit is another than before, ACK has advanced
(R546). -/
def State.pumpGpl (s : State) (g : Nat) (x : Gelpel) : State :=
  let b := (s.gpl g).unacked
  let x := x.pumpAll
  s.setGpl g (if b.isEmpty ∨ b.head? ≠ x.unacked.head? then { x with ackRaw := s.raw.toNat } else x)

/-- A flit with a good CRC arrives at port g (R552). -/
def State.gplHeard (s : State) (g : Nat) : State := s.setGpl g { s.gpl g with goodRaw := s.raw.toNat }

/-- A message is queued at port g on a VC and sent as far as credits allow (R545, R547). -/
def State.sendMsg (s : State) (g : Nat) (vc : Bool) (m : List Granule) : State :=
  let x := s.gpl g
  s.pumpGpl g (if vc then { x with q1 := x.q1 ++ m } else { x with q0 := x.q0 ++ m })

/-- A request at port g waits for its answer. -/
def State.awaitGpl (s : State) (g : Nat) (o : Outstanding) : State :=
  let x := s.gpl g
  s.setGpl g { x with waiting := x.waiting ++ [o] }

end Sys2Proof.Machine
end

