-- ==== Sys2Proof/Machine/Access.lean ====
section
/-!
DEFINITION. Access.lean: who may write an entry and with which value (R184, R413 to R417, R433, R521, R553), the value
an accepted write leaves (R7, R44), and the requesters' own places for captures, banks, holds and staging sets.
-/
namespace Sys2Proof.Machine

/-- The place of a requester among the 34 of R59: cores, root island, sessions, relayed accesses. -/
def rqSlot : Requester → Nat
  | .core c _ => c.val
  | .root => 16
  | .session i => 17 + i.val
  | .relay _ => 33

/-- The key of a requester's own instance of entry k (R415, R420, R436). -/
def slotKey (rq : Requester) (k : Nat) : Nat := rqSlot rq * 2 ^ 32 + k

/-- The key of an entry (R411). -/
def objKey (o : Obj) : Nat := o.ix.toNat * 256 + o.sub.toNat

/-- The session at a place, if open. -/
def State.sess (s : State) (i : Nat) : Option Session := tfind s.session i

/-- The role a requester acts in (R433, R553); cores act for their partition. -/
def State.roleOf (s : State) : Requester → Option Role
  | .core c _ => (s.partOfCore c).bind (fun p => if h : p < 8 then some (.part ⟨p, h⟩) else none)
  | .session i => (s.sess i).map (·.role)
  | .root => some .admin
  | .relay (some p) => some (.part p)
  | .relay none => some .reader

/-- Whether a requester has device administration. -/
def State.isAdmin (s : State) (rq : Requester) : Bool := s.roleOf rq == some .admin

/-- The partition a requester acts for. -/
def State.rqPart (s : State) (rq : Requester) : Option Nat :=
  match s.roleOf rq with
  | some (.part p) => some p.val
  | _ => none

/-- Whether the requester may write an object that partition p owns (R417). -/
def State.actsFor (s : State) (rq : Requester) (p : Nat) : Bool := s.isAdmin rq || s.rqPart rq == some p

/-- The effect of the access right (R416, R184). -/
def State.rightOk (s : State) (rq : Requester) (a : Acc) : Status :=
  match rq with
  | .session i =>
    match s.sess i with
    | none => .session
    | some x =>
      if x.role = .reader then .access
      else match a with
        | .rw | .wo | .rws => .ok
        | .sig => .token
        | _ => .access
  | .core _ m =>
    match a with
    | .rw | .wo => .ok
    | .rws => if m = .user then .access else .ok
    | _ => .access
  | .root =>
    match a with
    | .rw | .wo | .rws => .ok
    | .sig => .token
    | _ => .access
  | .relay none => .access
  | .relay (some _) =>
    match a with
    | .rw | .wo | .rws => .ok
    | .sig => .token
    | _ => .access

/-- An owner field: 0 to 7 a partition, anything else no partition. -/
def State.actsForField (s : State) (rq : Requester) (o : Nat) : Bool := s.isAdmin rq || (decide (o < 8) && s.rqPart rq == some o)

/-- Whether the object is in the per-carrier range and which carrier (R412). -/
def carrierOfKey (k : Nat) : Option Nat :=
  if 0x20000000 ≤ k ∧ k < 0x38000000 then some ((k - 0x20000000) / 0x100000) else none

/-- Source and destination of the handover that holds a carrier from PAIRED until DONE or CANCELLED (R537). -/
def State.hoOf (s : State) (c : Nat) : Option (Nat × Nat) :=
  ((List.range 16).find? (fun n => decide (1 ≤ s.fld (Key.hoOp n) 63 60) && decide (s.fld (Key.hoOp n) 63 60 ≤ 3) &&
    s.fld (Key.hoCfg n) 63 55 == c)).map (fun n => (s.fld (Key.hoCfg n) 54 52, s.fld (Key.hoCfg n) 50 48))

/-- The owner rule of an entry (R417, R537, R521, R61, R355, R203, R519 and the owner fields of the objects' own files). -/
def State.ownerOk (s : State) (rq : Requester) (r : Row) (ix : List Nat) (k : Nat) (v : U64) : Bool :=
  let i0 := ix.getD 0 0
  match carrierOfKey k with
  | some c =>
    let own := match s.partOfCarrier c with
      | some p => s.actsFor rq p
      | none => s.isAdmin rq
    match r.id, s.hoOf c with
    | .knPlanRow, some (_, dst) => if ix.getD 1 0 = 1 then s.rqPart rq == some dst else own
    | .knPlanCtl, some (src, _) => own && !(bit v 29 && s.rqPart rq == some src)
    | _, _ => own
  | none =>
    match r.id with
    | .ttCtl | .ttCfg | .ttStart | .ttPeriod | .ttStat | .ttRow =>
      s.actsForField rq (s.entN (Key.ttOwner i0))
    | .dmaCfg | .dmaHead | .dmaResume | .dmaDoorbell =>
      if 256 ≤ i0 then s.actsForField rq (s.entN (Key.dmaOwner (i0 - 256)))
      else match s.partOfPack (i0 / 32) with
        | some p => s.actsFor rq p
        | none => true
    | .ethCfg | .ethQmap | .ethBr | .ethTsAdj | .ethHrx | .ethHtx | .ethHrxBuf | .ethDly | .ethDlyComp
    | .ethUcast | .ethGhash | .gclCtl | .gclCfg | .gclBase | .gclCycle | .gclRow =>
      s.actsForField rq (s.entN (Key.ethOwner i0))
    | .ethVlan | .ethVlanMember | .ethVlanUntag =>
      let o := s.fld (Key.ethVlan i0) 62 59
      decide (8 ≤ o) || s.actsFor rq o || !(s.flag (Key.ethVlan i0) 63)
    | .ethRu =>
      let o := s.fld (Key.ethRu i0) 62 59
      s.actsForField rq o || !(s.flag (Key.ethRu i0) 63)
    | .flRingCfg =>
      let o := s.fld k 60 57
      if bf v 60 57 ≠ o then s.isAdmin rq else s.actsForField rq o
    | .flRingBase => s.actsForField rq (s.fld (Key.flRingCfg i0) 60 57)
    | .pinGpioCfg =>
      let o := s.fld k 55 52
      s.actsForField rq o && (bf v 55 52 == o || s.isAdmin rq)
    | .pinI2cXfer | .pinI2cBuf => s.actsForField rq (s.fld (Key.pinI2cCfg i0) 63 60)
    | .memHbmRegion => decide (8 ≤ i0) || rq == .root
    | .shdPet | .pwrVote => s.rqPart rq == some i0
    | .rstDeviceCtl | .fwFlashParts => s.isAdmin rq
    | .fwCtl => s.actsFor rq i0
    | _ =>
      match s.partOfUnit (ownerUnit r ix) with
      | some p => s.actsFor rq p
      | none => true

/-- Whether a value is the required extension of its type (R413). -/
def tyOk (t : Ty) (v : U64) : Bool :=
  match t with
  | .bool => decide (v.toNat ≤ 1)
  | .u n => decide (v.toNat < 2 ^ n)
  | .sg n => v.toInt == sgn n v.toNat
  | .q m n => decide (v.toNat < 2 ^ (m + n))
  | _ => true

/-- Whether a field's new value is in its range. -/
def chkOk (c : Chk) (w x : Nat) : Bool :=
  (c.ranges.isEmpty || c.ranges.any (fun r => r.1 ≤ x && x ≤ r.2)) &&
  (match c.signed with | none => true | some (a, b) => a ≤ sgn w x && sgn w x ≤ b) && x % c.mult == 0

/-- Whether a write sets no reserved bit and keeps every field in its range (R413). -/
def fldsOk (fs : List Fld) (v : U64) : Bool :=
  fs.isEmpty ||
  ((List.range 64).all (fun i => !(bit v i) || fs.any (fun f => f.lo ≤ i && i ≤ f.hi)) &&
   fs.all (fun f => match f.kind with
     | .rw | .wo => chkOk f.chk (f.hi + 1 - f.lo) (bf v f.hi f.lo)
     | _ => true))

/-- The value of an entry after an accepted write: read-only fields keep theirs, write-only fields read 0, sticky flags
clear on 1 (R7, R44, R413). -/
def mergeFlds (fs : List Fld) (old v : U64) : U64 :=
  if fs.isEmpty then v
  else fs.foldl (fun a f =>
    let w := f.hi + 1 - f.lo
    let o := bf old f.hi f.lo
    let n := bf v f.hi f.lo
    match f.kind with
    | .rw => setf a f.hi f.lo n
    | .ro => setf a f.hi f.lo o
    | .wo => a
    | .w1c => setf a f.hi f.lo (o &&& ((2 ^ w - 1) ^^^ n))) 0

/-- Whether the slot is the nanoseconds slot of a TIME128 (R414). -/
def isNsSlot (r : Row) (ix : List Nat) : Bool :=
  match r.id with
  | .tbOffset | .ttStart | .hndFrameRef | .gclBase => ix.getLastD 0 == 1
  | _ => false

/-- A nanoseconds field below one second (R414). -/
def nsOk (r : Row) (ix : List Nat) (v : U64) : Bool := !(isNsSlot r ix) || decide (bf v 63 32 < 1000000000)

/-- Whether every key slot that a list of entries makes up is empty (R435, R530). -/
def State.noKeys (s : State) (f : Nat → Nat → Nat) (n : Nat) : Bool :=
  (List.range n).all (fun i => (List.range 8).all (fun j => s.ent (f i j) == 0))

/-- An ADMIN session's write of the first key while every slot is empty needs no token (R435, R530). -/
def State.keyFree (s : State) (rq : Requester) (r : Row) (ix : List Nat) : Bool :=
  match rq with
  | .session _ => s.isAdmin rq && ix.headD 1 == 0 && decide (2 ≤ ix.length) &&
      ((r.id == .odTokenKey && s.noKeys Key.odTokenKey 4) || (r.id == .secFwKey && s.noKeys Key.secFwKey 4))
  | _ => false

/-- Whether a requester sees an entry: through Enber, an entry whose first dialect is above the session's is undefined (R440). -/
def State.sees (s : State) (rq : Requester) (k : Nat) : Bool :=
  match rq with
  | .session i => (s.sess i).elim true (fun x => decide (Config.firstDialect k ≤ x.dialect))
  | _ => true

/-- The object of an entry as a requester sees it. -/
def State.seen (s : State) (rq : Requester) (k : Nat) : Option (Row × List Nat) :=
  if s.sees rq k then lookupObj k else none

/-- Whether a unit, or a group that it lies in, is quarantined (R503). -/
def State.quarGroup (s : State) (u : Nat) : Bool :=
  let q := fun v => (s.un v).quar
  q u || (match unitKind u with
    | 1 => q (512 + u / 8) || q (packUnit (u / 64))
    | 2 => q (packUnit ((u - 512) / 8))
    | 4 => q (packUnit ((u - 584) / 32))
    | _ => false)

/-- Whether a write meets the refusals of a quarantined unit (R503) or, in HOLD, of a fenced or reset unit (R460). -/
def State.unitBusy (s : State) (r : Row) (ix : List Nat) : Bool :=
  let u := ownerUnit r ix
  (s.quarGroup u && r.id != .odCtl && r.id != .terRun) ||
    (s.dev == .hold && r.cls != .n && unitKind u != 14 && decide (4 ≤ s.health u))

/-- Right and owner of a write, in this order (R416, R417). -/
def State.whoOk (s : State) (rq : Requester) (r : Row) (ix : List Nat) (k : Nat) (v : U64) : Status :=
  match (if s.keyFree rq r ix then .ok else s.rightOk rq r.acc) with
  | .ok => if s.ownerOk rq r ix k v then .ok else .access
  | e => e

/-- A write's status before the rules of its own object: defined, right, owner, value, state of the unit. -/
def State.checkWrite (s : State) (rq : Requester) (k : Nat) (v : U64) : Status :=
  match s.seen rq k with
  | none => .noObject
  | some (r, ix) =>
    match s.whoOk rq r ix k v with
    | .ok => if !(tyOk r.ty v && fldsOk r.flds v && nsOk r ix v) then .range else if s.unitBusy r ix then .busy else .ok
    | e => e

/-- A write that only its right, its owner and its unit decide (the value's meaning is the command's own). -/
def State.checkWho (s : State) (rq : Requester) (k : Nat) (v : U64) : Status :=
  match s.seen rq k with
  | none => .noObject
  | some (r, ix) =>
    match s.whoOk rq r ix k v with
    | .ok => if s.unitBusy r ix then .busy else .ok
    | e => e

/-- A read's status: defined, and not write-only (R416); a load of a write-only or undefined entry reads 0 (R184). -/
def State.checkRead (s : State) (rq : Requester) (k : Nat) : Status :=
  let st := match s.seen rq k with
    | none => .noObject
    | some (r, _) => if r.acc = .wo then .access else .ok
  match rq with
  | .session i => if (s.sess i).isNone then .session else st
  | .relay _ => st
  | _ => .ok

/-- A write that its requester is refused leaves the state as it is, and answers the status. -/
def State.guarded (s : State) (st : Status) (f : State) : State := if st = .ok then f.status .ok else s.status st

end Sys2Proof.Machine
end

