-- ==== Sys2Proof/Machine/Time.lean ====
section
/-!
DEFINITION. Time.lean: the computed time (R51, R52), TIME128 (R414) and the ticks at which instants fall (R66).
Computed times are numbers of 2^-32 ns, modulo 2^64 seconds.
-/
namespace Sys2Proof.Machine

/-- One second, in 2^-32 ns. -/
def secU : Nat := 1000000000 * 2 ^ 32
/-- The computed time wraps at 2^64 seconds (R52). -/
def timeMod : Nat := secU * 2 ^ 64
/-- 64 FCLK cycles in TCLK ticks (R34, R37, R68). -/
def marginTicks : Nat := 32

/-- A TIME128 from its two slots. -/
def t128 (sec ns : U64) : Nat := (sec.toNat * secU + ns.toNat) % timeMod
/-- The seconds slot of a TIME128. -/
def t128Sec (t : Nat) : U64 := w64 (t / secU)
/-- The nanoseconds and fraction slot of a TIME128. -/
def t128Ns (t : Nat) : U64 := w64 (t % secU)

/-- TB_INCREMENT: ns in 2^-48 ns for each tick (R53). -/
def State.inc (s : State) : Nat := s.entN Key.tbIncrement
/-- TB_OFFSET as a computed time. -/
def State.offset (s : State) : Nat := t128 (s.ent (Key.tbOffset 0)) (s.ent (Key.tbOffset 1))
/-- raw × increment, truncated to 2^-32 ns (R52). -/
def prodT (raw inc : Nat) : Nat := raw * inc / 2 ^ 16
/-- The computed time at a raw value (R52). -/
def State.timeOf (s : State) (raw : Nat) : Nat := (s.offset + prodT raw s.inc) % timeMod
/-- The computed time now. -/
def State.now (s : State) : Nat := s.timeOf s.raw.toNat

/-- The first raw value whose computed time is at or after t (R66). An offset may have wrapped below zero (R52, R54): a time that
lies less than half the range beyond the offset is ahead of it, any other lies before tick 0. -/
def State.tickOf (s : State) (t : Nat) : Nat :=
  let d := (t + timeMod - s.offset) % timeMod
  let k := if d < timeMod / 2 then d else 0
  if s.inc = 0 then 0 else (k * 2 ^ 16 + s.inc - 1) / s.inc

/-- The first instant base + m × period whose tick is lim or later. -/
def State.firstCycle (s : State) (base period lim : Nat) : Nat :=
  let t := s.timeOf (lim - 1) + 1
  if period = 0 then 0 else (t - base + period - 1) / period

/-- TCLK ticks of a second, of n milliseconds, of n microseconds (rounded up) and of n nanoseconds (rounded up) (R46). -/
def secTicks : Nat := 491520000
def msTicks (n : Nat) : Nat := n * 491520
def usTicks (n : Nat) : Nat := (n * 12288 + 24) / 25
def nsTicks (n : Nat) : Nat := (n * 12288 + 24999) / 25000

/-- Whole hours of the raw counter. -/
def State.hourNow (s : State) : Nat := s.raw.toNat / (3600 * secTicks)

/-- Nanoseconds as a computed-time length. -/
def nsT (n : Nat) : Nat := n * 2 ^ 32

end Sys2Proof.Machine
end

