-- ==== Sys2Proof/Machine/HoundCore.lean ====
section
/-!
DEFINITION. HoundCore.lean: a Hound engine's watches and lanes, the end of a burst lane (R240, R242 to R245) and what
a change of an active watch row does (R233, R245, R251).
-/
namespace Sys2Proof.Machine

def watchInit : Watch := ⟨[], [], 0, false, 0, 0, 0, 0, 0, 0, 0, 0⟩
def laneInit : Lane := ⟨false, 0, 0, 0, 0, 0, none, 0, 0, 0, 0, false, [], 0, 0, false, 0⟩
def houndInit : Hound := ⟨[], [], 0, 0, [], [], []⟩

/-- Engine e. -/
def State.hnd (s : State) (e : Nat) : Hound := tget houndInit s.hound e
def State.setHnd (s : State) (e : Nat) (h : Hound) : State := { s with hound := tput s.hound e h }
/-- Watch w of an engine, and lane l. -/
def Hound.w (h : Hound) (w : Nat) : Watch := tget watchInit h.watches w
def Hound.l (h : Hound) (l : Nat) : Lane := tget laneInit h.lanes l
def Hound.setW (h : Hound) (w : Nat) (x : Watch) : Hound := { h with watches := tput h.watches w x }
def Hound.setL (h : Hound) (l : Nat) (x : Lane) : Hound := { h with lanes := tput h.lanes l x }

/-- The delay line of stream slot m. -/
def Hound.line (h : Hound) (m : Nat) : DelayLine := tget ⟨0, 0, []⟩ h.lines m
/-- Samples enter a delay line of 8,192 (R227). -/
def DelayLine.push (x : DelayLine) (till : Nat) (ys : List (Nat × Option C16)) : DelayLine :=
  let all := x.xs ++ ys
  ⟨x.count + ys.length, till, all.drop (all.length - 8192)⟩
/-- The samples of computed times a to b, b excluded, each with its number in the stream; `upto` is the first number wanted. -/
def DelayLine.span (x : DelayLine) (upto a b : Nat) : List ((Nat × Option C16) × Nat) :=
  (x.xs.zipIdx (x.count - x.xs.length)).filter (fun q => decide (upto ≤ q.2) && decide (a ≤ q.1.1) && decide (q.1.1 < b))

/-- Unit number of engine e. -/
def houndUnit (e : Nat) : Nat := 601 + 32 * e

/-- Size in bytes of a lane buffer of engine e, and the buffer of lane l. -/
def State.laneSize (s : State) (e : Nat) : Nat := s.fld (Key.hndCfg e) 15 8 * 4096
def State.laneBuf (s : State) (e l : Nat) : Nat := pmAddr e (s.fld (Key.hndCfg e) 47 24 + l * s.laneSize e)

/-- Word 0 of a token to a handle (R83). -/
def tokenTo (handle slot src : Nat) (err : Bool) : U64 :=
  w64 (handle * 2 ^ 32 + slot * 2 ^ 28 + b01 err * 2 ^ 27 + src % 4096)

/-- Burst end statuses (table Burst end status). -/
def beComplete : Nat := 0
def beFaded : Nat := 1
def bePreempted : Nat := 2
def beAborted : Nat := 3
def beGap : Nat := 4

/-- Lane l of engine e ends (R240): its status and counts go into the context record, the burst-end token to slot 1 of its
handle waits to be sent, and the lane is free. -/
def State.endLane (s : State) (e l st : Nat) : State :=
  let h := s.hnd e
  let x := h.l l
  if x.isOpen then
    let b := s.laneBuf e l
    let s := ((s.store (b + 7) (leBytes 1 st)).store (b + 44) (leBytes 4 (if st = bePreempted then 0 else x.samples))).store
      (b + 48) (leBytes 2 x.syms)
    let t : Token := ⟨tokenTo ((x.handle.getD 0).toNat) 1 (houndUnit e) (st ≠ beComplete), w64 (st * 2 ^ 56)⟩
    s.setHnd e { h.setL l { x with isOpen := false } with
      tokens := h.tokens ++ [⟨l, x.bseq, x.watch, x.handle.isNone, t⟩] }
  else s

/-- Every open lane of watch w ends ABORTED (R245). -/
def State.abortWatch (s : State) (e w : Nat) : State :=
  (List.range 16).foldl (fun s l => let x := (s.hnd e).l l
    if x.isOpen ∧ x.watch = w then s.endLane e l beAborted else s) s

/-- Contention windows allowed for a priority class (table Priority classes for Type 1). -/
def cwAllowed : Nat → List Nat
  | 0 => [3, 7]
  | 1 => [7, 15]
  | 2 => [15, 31, 63]
  | _ => [15, 31, 63, 127, 255, 511, 1023]
def cwMin (p : Nat) : Nat := (cwAllowed p).headD 3
def cwMax (p : Nat) : Nat := (cwAllowed p).getLastD 7

/-- The contention window of a watch (R251): CWmin of its PCLASS until a verdict has moved it among the values allowed. -/
def Watch.cwOf (x : Watch) (p : Nat) : Nat := if (cwAllowed p).contains x.cw then x.cw else cwMin p

/-- Watch w's active row went from `old` to `new`: clearing EN ends its lanes (R245); a set EN and a change of TYPE, DOM,
WIN or STREAMS leave the floor unseeded (R233); a set EN and a change of TYPE or PCLASS start the contention window at CWmin (R251). -/
def State.watchChanged (s : State) (e w : Nat) (old new : List U64) : State :=
  let o := old.getD 0 0
  let n := new.getD 0 0
  let s := if bit o 62 && !bit n 62 then s.abortWatch e w else s
  let h := s.hnd e
  let x := h.w w
  let rise := !bit o 62 && bit n 62
  let fresh := rise || bf o 61 58 != bf n 61 58 || bf o 27 16 != bf n 27 16 || old.getD 1 0 != new.getD 1 0
  let x := if fresh then { x with seeded := false, seedN := 0, seedSum := 0, escN := 0, escSum := 0 } else x
  let x := if rise || bf o 61 59 != bf n 61 59 || bf (old.getD 4 0) 59 58 != bf (new.getD 4 0) 59 58 then
      { x with cw := cwMin (bf (new.getD 4 0) 59 58), maxDraws := 0 } else x
  s.setHnd e (h.setW w x)

end Sys2Proof.Machine
end

