-- ==== Sys2Proof/Machine/LiveCore.lean ====
section
/-!
DEFINITION. LiveCore.lean: the live tables (R32 to R45): slot plans, gate lists, watch lists and trigger schedules, their
rows, the rows' checks, occurrences, staged commits and deferred writes.
-/
namespace Sys2Proof.Machine

/-- Rows of a table (R32). -/
def liveRows : TableId → Nat
  | .plan _ => 2048 | .gcl _ => 1024 | .watch _ => 16 | .trig _ => 16
/-- Words of a row. -/
def liveWords : TableId → Nat
  | .plan _ => 8 | .gcl _ => 2 | .watch _ => 8 | .trig _ => 2
/-- The word and bit of PENDING in a row. -/
def livePend : TableId → Nat × Nat
  | .plan _ => (0, 0) | .gcl _ => (0, 63) | .watch _ => (0, 63) | .trig _ => (1, 63)
/-- A table's key in `State.live`. -/
def liveKey : TableId → Nat
  | .plan c => c.val | .gcl m => 1024 + m.val | .watch e => 2048 + e.val | .trig u => 3072 + u.val
/-- A table's control word. -/
def liveCtlKey : TableId → Nat
  | .plan c => Key.knPlanCtl c.val | .gcl m => Key.gclCtl m.val | .watch e => Key.hndCtl e.val | .trig u => Key.ttCtl u.val
/-- The entry of word w of row r in a copy, 0 active, 1 staged. -/
def rowKey (t : TableId) (copy r w : Nat) : Nat :=
  match t with
  | .plan c => Key.knPlanRow c.val copy (r * 8 + w)
  | .gcl m => Key.gclRow m.val copy (r * 2 + w)
  | .watch e => Key.hndRow e.val copy r w
  | .trig u => Key.ttRow u.val copy (2 * r + w)
/-- Keys that a copy spans from its row 0 on. -/
def liveSpan : TableId → Nat
  | .plan _ => 0x4000 | .gcl _ => 0x800 | .watch _ => 0x1000 | .trig _ => 0x2000

def liveInit : Live := ⟨0, [], [], [], 0⟩
/-- What a table holds besides rows and control word. -/
def State.lv (s : State) (t : TableId) : Live := tget liveInit s.live (liveKey t)
def State.setLv (s : State) (t : TableId) (x : Live) : State := { s with live := tput s.live (liveKey t) x }

/-- The computed time before which row r begins nothing (R34, R38). -/
def State.barOf (s : State) (t : TableId) (r : Nat) : Nat := max (s.lv t).since (tget 0 (s.lv t).barred r)

/-- The words of a row of a copy. -/
def State.rowOf (s : State) (t : TableId) (copy r : Nat) : List U64 :=
  (List.range (liveWords t)).map (fun w => s.ent (rowKey t copy r w))

/-- A row of a copy takes the given words from word w on. -/
def State.setRowFrom (s : State) (t : TableId) (copy r : Nat) : Nat → List U64 → State
  | _, [] => s
  | w, v :: vs => (s.setEnt (rowKey t copy r w) v).setRowFrom t copy r (w + 1) vs

/-- States of a table (R44). -/
def lsIdle : Nat := 0
def lsArmed : Nat := 1
def lsCopying : Nat := 2
def State.liveState (s : State) (t : TableId) : Nat := s.fld (liveCtlKey t) 31 30
def State.setLiveState (s : State) (t : TableId) (x : Nat) : State := s.setFld (liveCtlKey t) 31 30 x
/-- A refused write or command counts in REJECTS (R36). -/
def State.liveReject (s : State) (t : TableId) (st : Status) : State := (s.incSat (liveCtlKey t) 47 32 1).status st
/-- LATE (R44). -/
def State.setLate (s : State) (t : TableId) (b : Bool) : State := s.setFlag (liveCtlKey t) 25 b

/-- Whether an occurrence executes a row. -/
def State.executing (s : State) (t : TableId) (r : Nat) : Bool := (s.lv t).occ.any (fun o => o.row == r)

/-- A value without its PENDING bit, which hardware alone sets (R40). -/
def clearPend (t : TableId) (w : Nat) (v : U64) : U64 := if w = (livePend t).1 then setBit v (livePend t).2 false else v

/-- The words of a row as a read of the active copy shows them, PENDING aside (R40). -/
def State.shownRow (s : State) (t : TableId) (r : Nat) : List U64 :=
  let d := tget [] (s.lv t).deferred r
  (List.range (liveWords t)).map (fun w => (tfind d w).getD (s.ent (rowKey t 0 r w)))

/-- A read of one word of a row (R40); PENDING reads 0 in the staged copy. -/
def State.readRow (s : State) (t : TableId) (copy r w : Nat) : U64 :=
  if copy = 0 then
    let p := (tfind (s.lv t).deferred r).isSome
    let v := (s.shownRow t r).getD w 0
    if w = (livePend t).1 then setBit v (livePend t).2 p else v
  else s.ent (rowKey t 1 r w)

/-- A read of the control word (R44): PEND_ANY is live, the command bits read 0. -/
def State.readLiveCtl (s : State) (t : TableId) : U64 :=
  setBit (s.ent (liveCtlKey t)) 26 (!(s.lv t).deferred.isEmpty)

/-! The rows' checks -/

/-- Number of bits set in a word. -/
def popcount (v : U64) : Nat := ((List.range 64).filter (fun i => bit v i)).length

/-- Plan rows: reserved bits are zero and NOPS at most 8 is left to instantiation (R77, R113). -/
def planRowOk (word : Nat) (v : U64) : Bool :=
  match word with
  | 0 => bf v 44 44 == 0 && bf v 13 3 == 0
  | 1 => bf v 51 32 == 0
  | 2 => bf v 26 0 == 0
  | _ => true

/-- Gate rows (R364, R365). -/
def State.gclRowOk (s : State) (m : Nat) (ws : List U64) (word : Nat) : Bool :=
  let a := ws.getD 0 0
  let b := ws.getD 1 0
  (if word = 0 then bf a 61 40 == 0 && decide (1 ≤ bf a 31 0) else bf b 63 32 == 0) &&
  decide (bf b 31 0 + bf a 31 0 ≤ s.entN (Key.gclCycle m))

/-- Trigger rows (R63 to R65): WIDTH is counted in raw ticks of the increment in force. -/
def State.trigRowOk (s : State) (u period : Nat) (ws : List U64) : Bool :=
  let off := (ws.getD 0 0).toNat
  let c := ws.getD 1 0
  let shape := bf c 61 60
  let dest := bf c 59 56
  let tgt := bf c 47 32
  let _ := u
  decide (shape ≤ 2) && decide (dest ≤ 4) && bf c 55 48 == 0 &&
  (match dest with
    | 1 => decide (tgt ≤ 383) | 2 => decide (tgt ≤ 15) | 3 => decide (tgt ≤ 127) | 4 => decide (tgt ≤ 15) | _ => true) &&
  (dest != 1 || shape == 0) && (dest != 3 || shape == 2) &&
  (period == 0 ||
    (decide (off < period) && (shape == 0 || decide (bf c 31 0 * s.inc ≤ period * 2 ^ 19))))

/-- A watch's share of LOAD, in units of 1 / (16 × 10,240,000) of 1/1,024 of the qualifier's capacity (R231). -/
def watchLoad (ws : List U64) : Nat :=
  let w := fun i => ws.getD i 0
  if bit (w 0) 62 ∧ bf (w 0) 61 59 ≠ 3 then
    (2 * bf (w 4) 31 20 + 128) * (bf (w 4) 39 32 + 1) * popcount (w 1) * (bf (w 2) 31 0 / bf (w 5) 31 0) *
      (bf (w 3) 55 52 + 1) * 100 * 2 ^ (4 - bf (w 3) 63 60)
  else 0

/-- LOAD of a copy of engine e's list with row r replaced (R231). -/
def State.houndLoad (s : State) (e : Fin 8) (copy : Nat) (r : Option (Nat × List U64)) : Nat :=
  ((List.range 16).map (fun i =>
    match r with
    | some (j, ws) => if i = j then watchLoad ws else watchLoad (s.rowOf (.watch e) copy i)
    | none => watchLoad (s.rowOf (.watch e) copy i))).sum

/-- mp, COT maximum in ns, by priority class (table Priority classes for Type 1). -/
def senseMp : Nat → Nat
  | 0 => 1 | 1 => 1 | 2 => 3 | _ => 7
def senseCot : Nat → Nat
  | 0 => 2000000 | 1 => 3000000 | _ => 10000000

/-- Least LENGTH of a SENSE watch in ns (R246). -/
def senseMin (atype pclass : Nat) : Nat :=
  match atype with
  | 1 => 16000 + senseMp pclass * 9000
  | 2 => 25000
  | 3 => 16000
  | _ => 0

/-- Watch rows (R229, R230, R246). A row with EN set is checked whole, so that a watch that runs always meets them; in a row without
EN a check across words is made at the write of any of its words (assumption 12). -/
def State.watchRowOk (s : State) (e : Fin 8) (copy r : Nat) (ws : List U64) (has : Nat → Bool) : Bool :=
  let w := fun i => ws.getD i 0
  let has := fun i => has i || bit (w 0) 62
  let sense := bf (w 0) 61 59 == 3
  let symBytes := 64 + popcount (w 1) * bf (w 5) 47 40 * bf (w 5) 63 48 * 4
  let atype := bf (w 4) 63 60
  (!(has 0) || (decide (bf (w 0) 61 59 ≤ 4) && bf (w 0) 57 57 == 0 && bf (w 0) 15 0 == 0 &&
    decide (bf (w 0) 56 48 ≤ 383) && decide (bf (w 0) 47 40 ≤ 120) &&
    decide (15 ≤ bf (w 0) 27 16) && decide (bf (w 0) 27 16 ≤ 2047))) &&
  (!(has 2) || decide (1 ≤ bf (w 2) 31 0)) &&
  (!(has 3) || (decide (bf (w 3) 63 60 ≤ 4) && decide (bf (w 3) 59 56 < 2 ^ bf (w 3) 63 60) && bf (w 3) 51 32 == 0)) &&
  (!(has 2 || has 3) ||
    decide (bf (w 2) 63 32 + bf (w 3) 55 52 * bf (w 3) 31 0 + bf (w 2) 31 0 ≤ 10000000)) &&
  (!(has 6) || (bf (w 6) 63 40 % 64 == 0 && bf (w 6) 39 0 == 0)) &&
  (!(has 7) || w 7 == 0) &&
  (if sense then
    (!(has 0) || !(bit (w 0) 58)) &&
    (!(has 4) || (decide (1 ≤ atype) && decide (atype ≤ 4) && bf (w 4) 57 56 == 0 && bf (w 4) 43 0 == 0 &&
      decide (1 ≤ bf (w 4) 47 44) && decide (bf (w 4) 47 44 ≤ 8))) &&
    (!(has 5) || bf (w 5) 31 0 == 0) &&
    (!(has 4 || has 5) || !(atype == 1) || decide (bf (w 5) 63 32 ≤ senseCot (bf (w 4) 59 58))) &&
    (!(has 4 || has 5) || !(atype == 4) || decide (bf (w 5) 63 32 ≤ 584000)) &&
    (!(has 2 || has 4) || decide (senseMin atype (bf (w 4) 59 58) ≤ bf (w 2) 31 0))
  else
    (!(has 4) || (bf (w 4) 63 40 % 64 == 0 && decide (bf (w 4) 39 32 ≤ 63) && decide (12 ≤ bf (w 4) 31 20) &&
      bf (w 4) 19 16 == 0)) &&
    (!(has 5) || (decide (16 ≤ bf (w 5) 63 48) && decide (bf (w 5) 63 48 ≤ 4096) && decide (1 ≤ bf (w 5) 47 40) &&
      decide (bf (w 5) 47 40 ≤ 32) && bf (w 5) 39 32 == 0)) &&
    (!(has 4 || has 5) || decide (bf (w 4) 31 20 ≤ bf (w 5) 63 48)) &&
    (!(has 1 || has 5) || decide (symBytes ≤ s.laneSize e))) &&
  (!(bit (w 0) 62) || decide (s.houndLoad e copy (some (r, ws)) ≤ 1024 * 16 * 10240000))

/-- Whether a row of a copy may hold these words, word `word` being written. -/
def State.rowOk (s : State) (t : TableId) (copy r : Nat) (ws : List U64) (word : Nat) : Bool :=
  match t with
  | .plan _ => planRowOk word (ws.getD word 0)
  | .gcl m => s.gclRowOk m ws word
  | .watch e => s.watchRowOk e copy r ws (· == word)
  | .trig u => s.trigRowOk u (s.entN (Key.ttPeriod u.val)) ws

/-- The checks of R230 that ARM repeats on the enabled staged watches. -/
def State.armOk (s : State) (t : TableId) : Bool :=
  match t with
  | .watch e => (List.range 16).all (fun r =>
      let ws := s.rowOf t 1 r
      !(bit (ws.getD 0 0) 62) || s.watchRowOk e 1 r ws (fun _ => true))
  | _ => true

/-! Occurrences -/

/-- The active row r goes from its words to `ws` (R38): a watch's lanes and floor follow R233 and R245. -/
def State.applyRow (s : State) (t : TableId) (r : Nat) (ws : List U64) : State :=
  let old := s.rowOf t 0 r
  let s := s.setRowFrom t 0 r 0 ws
  match t with
  | .watch e => s.watchChanged e r old ws
  | _ => s

/-- No begin of row r earlier than now belongs to the values that a write gives it now (R38). -/
def State.barRow (s : State) (t : TableId) (r : Nat) : State :=
  let x := s.lv t
  s.setLv t { x with barred := tput x.barred r s.now }

/-- A deferred write whose occurrence has ended is applied (R39); during COPYING the staged row follows (R35). -/
def State.applyDeferred (s : State) (t : TableId) (r : Nat) : State :=
  match tfind (s.lv t).deferred r with
  | none => s
  | some _ =>
    let ws := s.shownRow t r
    let s := s.applyRow t r ws
    let x := s.lv t
    let s := s.setLv t { x with deferred := tdel x.deferred r }
    if s.liveState t = lsCopying then s.setRowFrom t 1 r 0 ws else s

/-- An occurrence of row r begins (R33) at instant `time`: its values are latched. -/
def State.beginOcc (s : State) (t : TableId) (r time : Nat) : State :=
  let s := if s.executing t r then s else s.applyDeferred t r
  let x := s.lv t
  s.setLv t { x with occ := x.occ ++ [⟨r, s.rowOf t 0 r, s.raw.toNat, time⟩] }

/-- The first occurrence for which p holds ends; a row whose deferred write waited for it takes that write from now on (R38, R39). -/
def State.endOcc (s : State) (t : TableId) (p : Occ → Bool) : State :=
  let x := s.lv t
  match x.occ.find? p with
  | none => s
  | some o =>
    let occ := x.occ.eraseP p
    let s := s.setLv t { x with occ := occ }
    if (tfind x.deferred o.row).isSome && !(occ.any (fun q => q.row == o.row)) then s.barRow t o.row else s

/-! Commits -/

/-- The entries of keys [a, a + n) moved to b. -/
def movedFrom (t : Tab U64) (a b n : Nat) : Tab U64 :=
  (t.filter (fun e => a ≤ e.1 && decide (e.1 < a + n))).map (fun e => (e.1 - a + b, e.2))

/-- A table without the keys [a, a + n). -/
def dropSpan (t : Tab U64) (a n : Nat) : Tab U64 := tdrop t (fun k => decide (a ≤ k) && decide (k < a + n))

def putAll (t : Tab U64) (es : Tab U64) : Tab U64 := es.foldl (fun t e => tput t e.1 e.2) t

/-- The swap at a boundary of computed time `at_` (R34, R35, R43, R44): the copies change places, the deferred writes of the outgoing
copy are discarded and counted, SWAPS counts, LATE clears and the table copies. The new active rows begin nothing before it. -/
def State.liveSwapNow (s : State) (t : TableId) (at_ : Nat) : State :=
  let a := rowKey t 0 0 0
  let b := rowKey t 1 0 0
  let n := liveSpan t
  let x := s.lv t
  let d := x.deferred.length
  let olds := (List.range (liveRows t)).map (fun r => s.rowOf t 0 r)
  let s := { s with od := putAll (putAll (dropSpan (dropSpan s.od a n) b n) (movedFrom s.od a b n)) (movedFrom s.od b a n) }
  let s := s.setLv t { x with deferred := [], since := at_, barred := [] }
  let k := liveCtlKey t
  let s := if d = 0 then s else (s.incSat k 63 48 d).record 0x23 [w64 k, w64 d]
  let s := ((s.incWrap k 15 0 1).setLate t false).setLiveState t lsCopying
  match t with
  | .watch e => (List.range 16).foldl (fun s r => s.watchChanged e r (olds.getD r []) (s.rowOf t 0 r)) s
  | _ => s

/-- A table-cycle boundary of computed time b reached at tick `raw` (R34): an armed commit swaps with its margin, else LATE is set. -/
def State.liveBoundary (s : State) (t : TableId) (raw b : Nat) : State :=
  if s.liveState t = lsArmed then
    if (s.lv t).armedAt + marginTicks ≤ raw then s.liveSwapNow t b else s.setLate t true
  else s

/-- The staged copy equals the active copy again (R35): a pending row is copied as a read returns it, PENDING 0. -/
def State.liveCopied (s : State) (t : TableId) : State :=
  let a := rowKey t 0 0 0
  let b := rowKey t 1 0 0
  let n := liveSpan t
  let s := { s with od := putAll (dropSpan s.od b n) (movedFrom s.od a b n) }
  let s := (s.lv t).deferred.foldl (fun s d => s.setRowFrom t 1 d.1 0 (s.shownRow t d.1)) s
  s.setLiveState t lsIdle

/-- The least of two instants, if any. -/
def optMin : Option Nat → Option Nat → Option Nat
  | none, b => b
  | a, none => a
  | some a, some b => some (min a b)

/-- A periodic series of instants: begin of cycle 0, period, first cycle, cycle 0 only. -/
structure Series where
  base : Nat
  period : Nat
  first : Nat
  once : Bool
deriving DecidableEq, Repr

/-- The number of instants of a series before computed time t. -/
def Series.before (x : Series) (t : Nat) : Nat :=
  let n := if x.period = 0 then 0 else (t - x.base + x.period - 1) / x.period
  if x.once then min n 1 else n

/-- START and PERIOD of a trigger unit, and whether it runs (R62). -/
def State.ttBase (s : State) (u : Nat) : Nat := t128 (s.ent (Key.ttStart u 0)) (s.ent (Key.ttStart u 1))
def State.ttPeriod (s : State) (u : Nat) : Nat := s.entN (Key.ttPeriod u)
def State.ttRuns (s : State) (u : Nat) : Bool :=
  s.flag (Key.ttCfg u) 0 && decide (s.entN (Key.ttOwner u) < 8) && decide (s.ttPeriod u ≠ 0)

def trigInit : Trig := ⟨0, []⟩
def State.trg (s : State) (u : Nat) : Trig := tget trigInit s.trig u
def State.setTrg (s : State) (u : Nat) (x : Trig) : State := { s with trig := tput s.trig u x }

/-- The next cycle in which row r of unit u may fire (R68, R69). -/
def Trig.nextOf (x : Trig) (r : Nat) : Nat := tget x.first x.next r

def gclBaseT (s : State) (m : Nat) : Nat := t128 (s.ent (Key.gclBase m 0)) (s.ent (Key.gclBase m 1))
def frameRefT (s : State) (c : Nat) : Nat := t128 (s.ent (Key.hndFrameRef c 0)) (s.ent (Key.hndFrameRef c 1))

/-- The instant of row r of unit u in cycle m (R62). -/
def State.ttInstant (s : State) (u r m : Nat) : Nat :=
  s.ttBase u + m * s.ttPeriod u + s.entN (Key.ttRow u 0 (2 * r))

/-- The series of row r's instants from cycle 0 on. -/
def State.ttRowSeries (s : State) (u r : Nat) : Series :=
  ⟨s.ttBase u + s.entN (Key.ttRow u 0 (2 * r)), s.ttPeriod u, 0, false⟩

/-- The cycle row r fires in next: the first not fired (R69), past what R34 and R38 bar. -/
def State.ttCycle (s : State) (u : Fin 64) (r : Nat) : Nat :=
  max ((s.trg u).nextOf r) ((s.ttRowSeries u r).before (s.barOf (.trig u) r))

/-- Whether the owner of unit u is in reset: its partition RESET or HELD (R72). -/
def State.ttOwnerReset (s : State) (u : Nat) : Bool :=
  let st := s.fld (Key.rstPtStat (s.entN (Key.ttOwner u))) 3 0
  st == 1 || st == 4

/-- The series of slot-start instants of carrier c: enabled rows of running units with DEST 1 (R64, R112). -/
def State.slotSeries (s : State) (c : Nat) : List Series :=
  (List.finRange 64).flatMap (fun (u : Fin 64) =>
    if s.ttRuns u.val then (List.range 16).filterMap (fun r =>
      let ctl := s.ent (Key.ttRow u.val 0 (2 * r + 1))
      if bit ctl 62 ∧ bf ctl 59 56 = 1 ∧ bf ctl 47 32 = c then
        some { s.ttRowSeries u.val r with first := s.ttCycle u r, once := s.flag (Key.ttCfg u.val) 1 }
      else none)
    else [])

/-- The series of a table's cycle boundaries (R32). -/
def State.boundarySeries (s : State) (t : TableId) : List Series :=
  match t with
  | .plan c => s.slotSeries c
  | .gcl m =>
    if s.flag (Key.gclCfg m.val) 63 ∧ s.entN (Key.gclCycle m.val) ≠ 0 then
      [⟨gclBaseT s m, nsT (s.entN (Key.gclCycle m.val)), 0, false⟩] else []
  | .watch e => [⟨frameRefT s (s.fld (Key.hndCfg e.val) 63 55), nsT 10000000, 0, false⟩]
  | .trig u => if s.ttRuns u then [⟨s.ttBase u, s.ttPeriod u, 0, s.flag (Key.ttCfg u.val) 1⟩] else []

/-- The first instant of a series that no tick before `lim` reaches. -/
def State.seriesNext (s : State) (x : Series) (lim : Nat) : Option Nat :=
  let m := max x.first (s.firstCycle x.base x.period lim)
  if x.once ∧ m ≠ 0 then none else some (x.base + m * x.period)

/-- The first boundary of a table that no tick before `lim` reaches. -/
def State.nextBoundary (s : State) (t : TableId) (lim : Nat) : Option Nat :=
  (s.boundarySeries t).foldl (fun a x => optMin a (s.seriesNext x lim)) none

/-- Whether a boundary of a table lies after computed time a and not after b (R70). -/
def State.boundaryIn (s : State) (t : TableId) (a b : Nat) : Bool :=
  (s.boundarySeries t).any (fun x => decide (x.before (a + 1) < x.before (b + 1)))

/-- Whether the table's boundaries swap at all: a slot plan only with EN set (R115). -/
def State.liveMaySwap (s : State) (t : TableId) : Bool :=
  match t with
  | .plan c => s.flag (Key.knPlanCfg c.val) 63
  | _ => true

/-- Whether a boundary at tick `lim` or later has been reached by now. -/
def State.boundaryReached (s : State) (t : TableId) (lim : Nat) : Bool :=
  match s.nextBoundary t lim with
  | some b => decide (s.tickOf b ≤ s.raw.toNat)
  | none => false

/-- The boundary at which an armed commit swaps: the first at least 64 FCLK cycles after the arm (R34). -/
def State.pendingBoundary (s : State) (t : TableId) : Option Nat := s.nextBoundary t ((s.lv t).armedAt + marginTicks)

/-- An armed commit whose boundary has been reached, at a computed time not after `lim`, swaps there (R34). -/
def State.swapDue (s : State) (t : TableId) (lim : Nat) : State :=
  match s.pendingBoundary t with
  | some b => if s.liveState t = lsArmed ∧ s.liveMaySwap t ∧ b ≤ lim ∧ s.tickOf b ≤ s.raw.toNat then s.liveSwapNow t b else s
  | none => s

/-- A row is about to begin at an instant: the active copy is the one that the boundaries up to that begin make it (R34). `at_` gives
the instant of the row's next begin in a state, none for a row that begins nothing. -/
def State.swapBefore (s : State) (t : TableId) (at_ : State → Option Nat) : State :=
  match at_ s, s.pendingBoundary t with
  | some a, some b => if a < b ∧ a ≤ s.now then s else s.swapDue t s.now
  | _, _ => s.swapDue t s.now

/-- ARM (R34, R36). -/
def State.liveArmNow (s : State) (t : TableId) : State :=
  if s.liveState t = lsArmed then s.status .ok
  else if s.liveState t = lsCopying then s.liveReject t .busy
  else if !(s.armOk t) then s.liveReject t .range
  else
    let x := s.lv t
    ((s.setLv t { x with armedAt := s.raw.toNat }).setLiveState t lsArmed).status .ok

/-- CANCEL (R37): too late less than 64 FCLK cycles before the pending boundary, where the table swaps at its boundaries at all. -/
def State.liveCancelNow (s : State) (t : TableId) : State :=
  if s.liveState t = lsIdle then s.status .ok
  else if s.liveState t = lsCopying then s.liveReject t .busy
  else
    let late := match s.pendingBoundary t with
      | some b => s.liveMaySwap t && decide (s.tickOf b < s.raw.toNat + marginTicks)
      | none => false
    if late then s.liveReject t .busy else ((s.setLate t false).setLiveState t lsIdle).status .ok

/-- A write of the control word (R44, R45). -/
def State.liveCtlWrite (s : State) (t : TableId) (v : U64) : State :=
  if (bit v 29 ∧ bit v 28) ∨ bf v 24 16 ≠ 0 then s.liveReject t .range
  else
    let k := liveCtlKey t
    let s := if bit v 27 then (s.setFld k 63 48 0).setFld k 47 32 0 else s
    if bit v 29 then s.liveArmNow t else if bit v 28 then s.liveCancelNow t else s.status .ok

/-- A write of a word of the staged copy (R34, R36). -/
def State.stagedWrite (s : State) (t : TableId) (r w : Nat) (v : U64) : State :=
  let v := clearPend t w v
  let ws := (s.rowOf t 1 r).set w v
  if s.liveState t ≠ lsIdle then s.liveReject t .busy
  else if !(s.rowOk t 1 r ws w) then s.liveReject t .range
  else (s.setEnt (rowKey t 1 r w) v).status .ok

/-- A direct write of a word of the active copy (R36, R38 to R41): deferred while an occurrence executes the row, else
applied at once, with words still deferred from an occurrence that has ended. -/
def State.directWrite (s : State) (t : TableId) (r w : Nat) (v : U64) : State :=
  let v := clearPend t w v
  let ws := (s.shownRow t r).set w v
  if s.liveState t = lsArmed then s.liveReject t .busy
  else if !(s.rowOk t 0 r ws w) then s.liveReject t .range
  else
    let x := s.lv t
    let x := { x with deferred := tput x.deferred r (tput (tget [] x.deferred r) w v) }
    let s := s.setLv t x
    (if s.executing t r then s else (s.barRow t r).applyDeferred t r).status .ok

end Sys2Proof.Machine
end

