-- ==== Sys2Proof/Machine/PsimirCore.lean ====
section
/-!
DEFINITION. PsimirCore.lean: what every Psimir instruction shares: when it can run, its completion with the loop
ends (R150, R151), and taking an exception or interrupt (R157 to R161).
-/
namespace Sys2Proof.Machine

def cIllegal : Nat := 0x01
def cAccessFetch : Nat := 0x02
def cAccessLoad : Nat := 0x03
def cAccessStore : Nat := 0x04
def cWatch : Nat := 0x05
def cBreak : Nat := 0x06
def cLoop : Nat := 0x07
def cAbort : Nat := 0x10
def cNotify : Nat := 0x11

/-- Entry into the handler (R157 step 3): PIE and PLPEN take IE and LPEN, INH is set, IE and LPEN are cleared, and the
tile continues at PXS_TVEC. -/
def Tile.enter (x : Tile) : Tile :=
  { x with status := mkStatus false (x.stBit stIE) false (x.stBit stLPEN) true, pc := x.tvec, resumed := false }

/-- `PX_Tt_EXC` and `PX_Tt_EVAL` take an exception's data (R161). -/
def State.recordExc (s : State) (t : Nat) (x : Tile) (code eval vs : Nat) (double : Bool) : State :=
  ((s.setEntN (Key.pxExc t) (x.pc.toNat * 2 ^ 32 + vs * 2 ^ 16 + b01 double * 2 ^ 8 + code)).setEntN
    (Key.pxEval t) (eval % 2 ^ 32)).inc32 (Key.pxExcCnt t) 1

/-- An exception of tile t at its PC (R157): PXS_EPC, PXS_CAUSE and PXS_EVAL are set, PXS_VSTART takes the fault element
where there is one, and the handler is entered. With INH set the tile stops in TRAPPED instead (R161). -/
def raiseExc (s : State) (t : Nat) (x : Tile) (code eval : Nat) (vs : Option Nat) : State :=
  let v := vs.getD x.vstart.toNat
  let s' := s.recordExc t x code eval v x.inh
  if x.inh then s'.setTl t { x with st := .trapped, resumed := false }
  else
    s'.setTl t { x with epc := x.pc, cause := w64 code, eval := BitVec.ofNat 32 eval,
                        vstart := BitVec.ofNat 16 v }.enter

/-- The loop end of level 0 at the tile's PC (R150); otherwise the tile continues at npc, where the instruction leads: the target
of a taken branch when the count ends, while a loop-back goes to lbk whatever the branch (assumption 80: DESIGN CHOICE). -/
def loopEnd0 (x : Tile) (npc : BitVec 32) : Tile :=
  if x.pc = x.le0 ∧ x.lc0 ≠ 0 then
    if 1 < x.lc0.toNat then { x with lc0 := x.lc0 - 1, pc := x.lb0 }
    else { x with lc0 := 0, pc := npc }
  else { x with pc := npc }

/-- The completion of the instruction at the tile's PC: level 1 is evaluated before level 0 (R150, R151). -/
def loopEnd (x : Tile) (npc : BitVec 32) : Tile :=
  if x.lpen then
    if x.pc = x.le1 ∧ x.lc1 ≠ 0 then
      if 1 < x.lc1.toNat then { x with lc1 := x.lc1 - 1, pc := x.lb1 }
      else loopEnd0 { x with lc1 := 0 } npc
    else loopEnd0 x npc
  else { x with pc := npc }

/-- An instruction completes and retires; npc is where it leads in sequence. -/
def retireTo (s : State) (t : Nat) (x : Tile) (npc : BitVec 32) : State :=
  (s.setTl t (loopEnd { x with resumed := false } npc)).inc64 (Key.pxRetired t) 1

/-- An instruction completes and the next one in sequence follows. -/
def retire (s : State) (t : Nat) (x : Tile) : State := retireTo s t x (x.pc + 4)

/-- Whether the result of a POST.D is still awaited in register r (R154). -/
def Tile.awaits (x : Tile) (r : Reg) : Bool := x.pendingD.any (fun p => p.1 == r && r != 0)

/-- Whether the fetch of the instruction at IM offset a waits: its word has a fresh error or is poisoned (R391, R392, R585). -/
def State.imBad (s : State) (t a : Nat) : Bool := s.poisoned (imAddr t a) || s.freshWord (imAddr t a / 8)

/-- One instruction of tile t: it runs only in RUNNING with its clock, takes ACCESS_FETCH with the PC outside IM, waits for its word of
IM and the pending results it names, and is ILLEGAL where `legal` does not hold of the tile; else it acts as f. -/
def stepTile (s : State) (t : Nat) (uses : List Reg) (legal : Tile → Bool) (f : Tile → State) : Out :=
  let x := s.tl t
  if x.st ≠ .running ∨ !(s.tileClocked t) then .next s
  else if 0x10000 ≤ x.pc.toNat then .next (raiseExc s t x cAccessFetch x.pc.toNat none)
  else if uses.any x.awaits ∨ s.imBad t x.pc.toNat then .next (s.answer .stalled)
  else if !(legal x) then .next (raiseExc s t x cIllegal 0 none)
  else .next (f x)

/-- No reason to refuse the instruction. -/
def always : Tile → Bool := fun _ => true

end Sys2Proof.Machine
end

