-- ==== Sys2Proof/Machine/TimebaseCore.lean ====
section
/-!
DEFINITION. TimebaseCore.lean: what a tick of TCLK does (R51, R54 to R58, R70, R483): registered timebase writes, skipped
instants, boundaries passed over, and the counters that count clock cycles and microseconds.
-/
namespace Sys2Proof.Machine

/-- The power state of a pack, 0 to 3 for P0 to P3 (R15). -/
def State.packP (s : State) (p : Nat) : Nat := tget 0 s.packPower p

/-- The offset entries take a computed time. -/
def State.setOffset (s : State) (t : Nat) : State :=
  (s.setEnt (Key.tbOffset 0) (t128Sec (t % timeMod))).setEnt (Key.tbOffset 1) (t128Ns (t % timeMod))

/-- Step 1 of R57: a rate change takes effect at tick r0 = raw, and the offset keeps the computed time (R54). -/
def State.tbRate (s : State) (w : TbWrite) : State :=
  match w with
  | .rate v =>
    let o := s.offset + prodT s.raw.toNat s.inc + timeMod - prodT s.raw.toNat v.toNat % timeMod
    ((s.setOffset o).setEnt Key.tbIncrement v).incWrap Key.tbStatus 15 0 1
  | _ => s

/-- Step 2 of R57: an offset write replaces the offset; without held seconds those in force stay (R56). -/
def State.tbOffs (s : State) (w : TbWrite) : State :=
  match w with
  | .offset sec ns =>
    (s.setOffset (t128 (sec.getD (s.ent (Key.tbOffset 0))) ns)).incWrap Key.tbStatus 31 16 1
  | _ => s

/-- Step 3 of R57: a step in units of 2^-16 ns (R56). -/
def State.tbStp (s : State) (w : TbWrite) : State :=
  match w with
  | .step v => (s.setOffset (((s.offset : Int) + v.toInt * 65536) % (timeMod : Nat)).toNat).incWrap Key.tbStatus 31 16 1
  | _ => s

def TbWrite.isStep : TbWrite → Bool
  | .rate _ => false
  | _ => true

/-- Unit u skips the instants passed between computed times a and b (R70): the state, and whether it skipped any. An instant that
no row fires, because R34 or R38 bars it, is none of them. -/
def State.ttSkip (s : State) (u : Fin 64) (a b : Nat) : State × Bool :=
  if s.ttRuns u then
    let x := s.trg u
    let rs := (List.range 16).filter (fun r => bit (s.ent (Key.ttRow u 0 (2 * r + 1))) 62)
    let ser := fun r => { s.ttRowSeries u r with once := s.flag (Key.ttCfg u) 1 }
    let pass := rs.filter (fun r => max (s.ttCycle u r) ((ser r).before (a + 1)) < (ser r).before b)
    let n := (pass.map (fun r => (ser r).before b - s.ttCycle u r)).sum
    let x' := pass.foldl (fun x r => { x with next := tput x.next r ((ser r).before b) }) x
    ((s.setTrg u x').incSat (Key.ttStat u) 31 16 n, decide (n ≠ 0))
  else (s, false)

/-- The occasions of watch w of engine e: occasion k's begins, in the frames of its PHASE (R228). -/
def State.occasions (s : State) (ws : List U64) : List Series :=
  let w := fun i => ws.getD i 0
  let base := frameRefT s (bf (w 0) 56 48) + bf (w 3) 59 56 * nsT 10000000 + nsT (bf (w 2) 63 32)
  (List.range (bf (w 3) 55 52 + 1)).map (fun k =>
    ⟨base + k * nsT (bf (w 3) 31 0), 2 ^ bf (w 3) 63 60 * nsT 10000000, 0, false⟩)

/-- The computed time before which watch w of engine e begins nothing (R34, R38). -/
def State.watchBar (s : State) (e w : Nat) : Nat := if h : e < 8 then s.barOf (.watch ⟨e, h⟩) w else 0

/-- Watches pass over the windows that begin between computed times a and b, which do not run, and count them (R228, R70). -/
def State.houndSkip (s : State) (a b : Nat) : State :=
  (List.range 128).foldl (fun s i =>
    let e := i / 16
    let w := i % 16
    let ws := (List.range 8).map (fun k => s.ent (Key.hndRow e 0 w k))
    if bit (ws.getD 0 0) 62 ∧ s.flag (Key.hndCfg e) 0 then
      let h := s.hnd e
      let x := h.w w
      let ks := (s.occasions ws).zipIdx.map (fun q =>
        let from_ := max (a + 1) (max (tget 0 x.nextBegin q.2) (s.watchBar e w))
        (q.2, q.1.before b - q.1.before from_))
      let n := (ks.map (·.2)).sum
      let s := s.setHnd e (h.setW w { x with nextBegin := ks.foldl (fun t k => if k.2 = 0 then t else tput t k.1 b) x.nextBegin })
      if n = 0 then s else s.incSat (Key.hndOcc e w) 31 16 n
    else s) s

/-- Gate intervals that begin between computed times a and b do not begin (R365, R70). -/
def State.gclSkip (s : State) (a b : Nat) : State :=
  { s with mac := s.mac.map (fun e =>
      let m := e.1
      let cyc := nsT (s.entN (Key.gclCycle m))
      if s.flag (Key.gclCfg m) 63 then
        (m, { e.2 with gclNext := (List.range 1024).foldl (fun t r =>
          let w0 := s.ent (Key.gclRow m 0 (2 * r))
          let ser : Series := ⟨gclBaseT s m + nsT (bf (s.ent (Key.gclRow m 0 (2 * r + 1))) 31 0), cyc, 0, false⟩
          if bit w0 62 ∧ max (tget e.2.gclFrom t r) (ser.before (a + 1)) < ser.before b then tput t r (ser.before b) else t) e.2.gclNext })
      else e) }

/-- Every live table. -/
def allTables : List TableId :=
  (List.finRange 384).map .plan ++ (List.finRange 128).map .gcl ++ (List.finRange 8).map .watch ++
    (List.finRange 64).map .trig

/-- Armed tables whose boundaries a step passes between computed times a and b meet one boundary now (R70). -/
def State.boundariesPassed (s : State) (a b : Nat) : State :=
  allTables.foldl (fun s t =>
    if s.liveState t = lsArmed ∧ s.liveMaySwap t ∧ s.boundaryIn t a b then s.liveBoundary t s.raw.toNat s.now else s) s

/-- A ONESHOT unit clears EN once cycle 0 has begun and every one of its occurrences has ended (R68). -/
def State.oneshotEnd (s : State) (u : Fin 64) : State :=
  if s.ttRuns u ∧ s.flag (Key.ttCfg u.val) 1 ∧ s.ttBase u ≤ s.now ∧ (s.lv (.trig u)).occ.isEmpty ∧
      (List.range 16).all (fun r => !(bit (s.ent (Key.ttRow u.val 0 (2 * r + 1))) 62) || decide (1 ≤ (s.trg u).nextOf r)) then
    s.setFlag (Key.ttCfg u.val) 0 false
  else s

/-- The registered timebase writes take effect at this tick (R57), with the record of R58 where the time stepped. -/
def State.tbApply (s : State) : State :=
  if s.tbWrites.isEmpty then s
  else
    let ws := s.tbWrites
    let oldT := s.now
    let oldO := s.offset
    let s := { s with tbWrites := [] }
    let s := ws.foldl State.tbStp (ws.foldl State.tbOffs (ws.foldl State.tbRate s))
    if ws.any TbWrite.isStep then
      let newT := s.now
      let r := (List.finRange 64).foldl (fun (acc : State × Nat) (u : Fin 64) =>
        if oldT < newT then
          let q := acc.1.ttSkip u oldT newT
          (q.1, if q.2 then acc.2 + 2 ^ u.val else acc.2)
        else acc) (s, 0)
      let s := if oldT < newT then ((r.1.houndSkip oldT newT).gclSkip oldT newT).boundariesPassed oldT newT else r.1
      s.record 0x11 [t128Sec oldO, t128Ns oldO, t128Sec s.offset, t128Ns s.offset, w64 r.2]
    else s

/-- Microseconds of a raw value: 491.52 ticks each (R46). -/
def usOf (raw : Nat) : Nat := raw * 25 / 12288

/-- The counters of time after n ticks: residency (R483) and the tiles' FETCH wait and busy cycles, 4 PCLK cycles a tick. -/
def State.countTime (s : State) (us n : Nat) : State :=
  let s := (List.range 8).foldl (fun s p => s.inc64 (Key.pwrRes (packUnit p) (s.packP p)) us) s
  let s := s.inc64 (Key.pwrRes 1020 s.dev.ctorIdx) us
  let s := { s with opsec := s.opsec + ((s.raw.toNat / 491520000) - (s.raw.toNat - n) / 491520000) }
  s.tile.foldl (fun s e =>
    if s.packP (e.1 / 64) = 0 ∧ !s.thermTrip then
      if e.2.st = .fetchWait then s.inc64 (Key.pxWait e.1) (4 * n)
      else if e.2.st = .reset then s
      else s.inc64 (Key.pxBusy e.1) (4 * n)
    else s) s

end Sys2Proof.Machine
end

