-- ==== Sys2Proof/Machine/KennelCore.lean ====
section
/-!
DEFINITION. KennelCore.lean: the matching stores (R77 to R88), refusals (R582), operand tokens (R83 to R87), ordering
domains and releases (R98 to R102), return tokens (R82), results to submitters, and lame tiles (R106 to R111).
-/
namespace Sys2Proof.Machine

/-! Descriptors -/

def Desc.kind (d : Desc) : Nat := bf d.w0 63 52
def Desc.cls (d : Desc) : Nat := bf d.w0 51 50
def Desc.nops (d : Desc) : Nat := bf d.w0 49 46
def Desc.ordered (d : Desc) : Bool := bit d.w0 45
def Desc.domain (d : Desc) : Nat := bf d.w0 43 30
def Desc.affinity (d : Desc) : Nat := bf d.w0 29 14
def Desc.target (d : Desc) : Nat := bf d.w1 63 52
def Desc.tag (d : Desc) : Nat := bf d.w1 31 0
def Desc.dest (d : Desc) : Nat := bf d.w2 63 32
def Desc.form (d : Desc) : Bool := bit d.w2 31
def Desc.slot (d : Desc) : Nat := bf d.w2 30 28
def Desc.notify (d : Desc) : Bool := bit d.w2 27
def Desc.hasDest (d : Desc) : Bool := d.form || d.dest != 0
def Desc.words (d : Desc) : List U64 := [d.w0, d.w1, d.w2, d.a0, d.a1, d.a2, d.a3, d.a4]
def descOf (ws : List U64) : Desc :=
  let w := fun i => ws.getD i 0
  ⟨w 0, w 1, w 2, w 3, w 4, w 5, w 6, w 7⟩

/-- Status codes of R82. -/
def ksDone : Nat := 0
def ksUnitDown : Nat := 1
def ksAborted : Nat := 2
def ksKindInvalid : Nat := 3

/-! Producers (R83, R103) -/

/-- Unit number of a producer, the SRC of its tokens. -/
def prodUnit : Producer → Nat
  | .tile t => t.val
  | .core c => coreUnit c.val
  | .dma n => if n.val < 256 then accUnit (n.val / 32) 19 else 1020
  | .accel p k => accUnit p.val k.val
  | .hound e => houndUnit e.val
  | .framer m => macUnit m.val
  | .gelpel g => 1008 + g.val

/-- Key of a producer's queue. -/
def prodKey : Producer → Nat
  | .tile t => t.val
  | .core c => 0x200 + c.val
  | .dma n => 0x400 + n.val
  | .accel p k => 0x800 + p.val * 32 + k.val
  | .hound e => 0xA00 + e.val
  | .framer m => 0xB00 + m.val
  | .gelpel g => 0xC00 + g.val

/-- Credits of a producer (table Token credits by producer). -/
def prodCredits : Producer → Nat
  | .tile _ => 4 | .core _ => 64 | .dma _ => 8 | .accel _ _ => 16 | .hound _ => 16 | .framer _ => 256 | .gelpel _ => 128

/-- Owner of a DMA channel: by its pack, or DMA_OWNER for the control complex's. -/
def State.partOfChan (s : State) (n : Nat) : Option Nat :=
  if n < 256 then s.partOfPack (n / 32)
  else let o := s.entN (Key.dmaOwner (n - 256)); if o < 8 then some o else none

/-- The partition a producer sends for; 8 for none. -/
def State.partOfProd (s : State) (x : Producer) : Nat :=
  (match x with
    | .tile t => s.partOfPack (t.val / 64)
    | .core c => s.partOfCore c.val
    | .dma n => s.partOfChan n.val
    | .accel p _ => s.partOfPack p.val
    | .hound e => s.partOfPack e.val
    | .framer m => s.partOfMac m.val
    | .gelpel _ => none).getD 8

/-- The lowest-numbered pack of a partition, if it has one. -/
def State.lowPack (s : State) (p : Nat) : Option Nat := (s.packsOf p).head?

/-- The pack whose Kennel takes a producer's items in. -/
def State.homeOf (s : State) (x : Producer) : Nat :=
  match x with
  | .tile t => t.val / 64
  | .dma n => if n.val < 256 then n.val / 32 else (s.lowPack (s.partOfProd x)).getD 0
  | .accel p _ => p.val
  | .hound e => e.val
  | x => (s.lowPack (s.partOfProd x)).getD 0

def State.queueOf (s : State) (x : Producer) : List Item := tget [] s.outq (prodKey x)
def State.setQueue (s : State) (x : Producer) (q : List Item) : State := { s with outq := tput s.outq (prodKey x) q }

/-- Descriptors of a producer that wait for room, holding their credit (R104). -/
def State.deferredOf (s : State) (x : Producer) : Nat :=
  ((List.range 8).map (fun p => (((tfind s.kennel p).map (·.waiting)).getD []).countP (fun d => d.src == x))).sum

/-- Whether an item holds one of its producer's credits. -/
def Item.takes : Item → Bool
  | .back .. => false
  | _ => true

/-- Credits a producer has left (R103). -/
def State.creditOf (s : State) (x : Producer) : Nat := prodCredits x - ((s.queueOf x).countP Item.takes + s.deferredOf x)

/-- A producer sends an item. -/
def State.sendItem (s : State) (x : Producer) (i : Item) : State := s.setQueue x (s.queueOf x ++ [i])

/-! Kennel instances -/

def knInit : Kennel := ⟨[], [], 0, 0, [], [], []⟩
def State.kn (s : State) (p : Nat) : Kennel := tget knInit s.kennel p
def State.setKn (s : State) (p : Nat) (k : Kennel) : State := { s with kennel := tput s.kennel p k }

/-- No unit has received the task. -/
def noUnit : Nat := 4096
def entryInit : Entry := ⟨.free, 0, ⟨0, 0, 0, 0, 0, 0, 0, 0⟩, [], 0, 0, 0, noUnit, false, [], 0, none, 8, 0, none⟩
def Kennel.e (k : Kennel) (i : Nat) : Entry := tget entryInit k.entries i
def State.entry (s : State) (p i : Nat) : Entry := (s.kn p).e i
def State.setEntry (s : State) (p i : Nat) (x : Entry) : State :=
  let k := s.kn p
  s.setKn p { k with entries := tput k.entries i x }

/-- Entries in use, and how many. -/
def Kennel.used (k : Kennel) : Tab Entry := k.entries.filter (fun e => e.2.st != .free)
def State.occ (s : State) (p : Nat) : Nat := (s.kn p).used.length
/-- Entries of a store (R88). -/
def storeSize : Nat := 32768

/-- A handle (R81). -/
def handleOf (p i : Nat) (x : Entry) : Nat := p * 2 ^ 27 + x.gen.toNat * 2 ^ 15 + i

/-- The least sequence of a domain's unreleased tasks (R99). -/
def State.oldest (s : State) (p d : Nat) : Option Nat :=
  (s.kn p).used.foldl (fun a e => if e.2.desc.ordered ∧ e.2.desc.domain = d then optMin a (some e.2.seq) else a) none

/-- Whether an entry's task is the oldest unreleased one of its domain, or has none. -/
def State.isOldest (s : State) (p : Nat) (x : Entry) : Bool :=
  !x.desc.ordered || s.oldest p x.desc.domain == some x.seq

/-- `KN_KIND` of a pack, with Terrier's kind as R507 states. -/
def State.terKind (s : State) (k : Nat) : Bool := s.flag Key.terCfg 62 && s.fld Key.terCfg 31 20 == k
def State.kindWord (s : State) (p k : Nat) : U64 := if s.terKind k then w64 (2 ^ 63 + 64 * 2 ^ 32) else s.ent (Key.knKind p k)

/-! Tests of a descriptor (R582) -/

/-- Whether a handover has paired two partitions (R26, R537). -/
def State.paired (s : State) (a b : Nat) : Bool :=
  (List.range 16).any (fun n =>
    let st := s.fld (Key.hoOp n) 63 60
    let src := s.fld (Key.hoCfg n) 54 52
    let dst := s.fld (Key.hoCfg n) 50 48
    decide (1 ≤ st) && decide (st ≤ 3) && ((src == a && dst == b) || (src == b && dst == a)))

/-- Whether unit u belongs to another partition than a sender's (R26). -/
def State.foreign (s : State) (part u : Nat) : Bool :=
  match s.partOfUnit u with
  | some q => decide (part < 8) && q != part && !(s.paired part q)
  | none => false

/-- Whether a pack has acknowledged a PREPARE and is neither down nor woken (R466). -/
def State.prepAcked (s : State) (p : Nat) : Bool :=
  s.pwr.any (fun e => match e.2.cur with | some t => t.done.contains p | none => false)

/-- Something comes for a pack, which ends its idleness: gated in P1 it wakes to P0 (R468), unless it has acknowledged a PREPARE (R472);
its PCLK stood still meanwhile. -/
def State.wakePack (s : State) (p : Nat) : State :=
  let s := { s with packIdleFor := tdel s.packIdleFor p }
  if s.packP p = 1 ∧ !(s.prepAcked p) then
    let d := 4 * (s.raw.toNat - tget s.raw.toNat s.packStop p)
    { s with packPower := tput s.packPower p 0
             packStop := tdel s.packStop p
             tile := s.tile.map (fun e => if e.1 / 64 = p then (e.1, { e.2 with cycle := e.2.cycle + w64 d }) else e) }
  else s

/-- Whether a target is down (R16, R120, R466). -/
def State.unitDown (s : State) (u : Nat) : Bool :=
  if 1024 ≤ u then (s.linkTo (u / 1024)).isNone
  else !(s.inService u) || (match unitPack u with | some p => decide (2 ≤ s.packP p) || s.prepAcked p | none => false)

/-- Whether a kind's EXEC admits a target (R79). -/
def kindAdmits (kw : U64) (u : Nat) : Bool :=
  match bf kw 62 61, unitKind u with
  | 0, 1 => true
  | 0, 2 => true
  | 0, 3 => true
  | 1, 4 => decide ((u - 584) % 32 ≤ 17)
  | 2, 5 => true
  | _, _ => false

/-- The pack whose Kennel executes a local descriptor; a control core's is the lowest of its partition. -/
def State.execPack (s : State) (home u : Nat) : Nat :=
  match unitPack u with
  | some p => p
  | none => if unitKind u = 5 then ((s.partOfUnit u).bind s.lowPack).getD home else home

/-- The tests of R582 on a local descriptor; `soft` for a descriptor of software (R507), `retest` for Terrier's own. -/
def State.refusal (s : State) (p : Nat) (d : Desc) (part : Nat) (soft retest : Bool) : Option Nat :=
  let kw := s.kindWord p d.kind
  if 1024 ≤ d.target ∧ s.unitDown d.target then some ksUnitDown
  else if 8 < d.nops ∨ !(bit kw 63) ∨ !(kindAdmits kw d.target) ∨ (soft ∧ s.terKind d.kind) then some ksKindInvalid
  else if s.foreign part d.target then some ksUnitDown
  else if s.unitDown d.target ∧ !retest then some ksUnitDown
  else none

/-! Tokens -/

def carrierInit : Carrier := ⟨0, [], false⟩
/-- A carrier's slot sequence and history. -/
def State.car (s : State) (c : Nat) : Carrier := tget carrierInit s.carrier c

/-- The entry a plan address names (R84): the carrier's most recent slot whose sequence ends in SEQ. -/
def State.planEntry (s : State) (c q row : Nat) : Option (Nat × Nat) :=
  let cur := (s.car c).seq
  let sq := (cur + 2 ^ 32 - (cur + 16 - q) % 16) % 2 ^ 32
  (List.range 8).findSome? (fun p =>
    ((s.kn p).used.find? (fun e => e.2.plan == some (c, sq, row))).map (fun e => (p, e.1)))

/-- The local entry a token addresses, if it is not stale (R84, R85, R583). -/
def State.tokenEntry (s : State) (w0 : U64) : Option (Nat × Nat) :=
  let h := bf w0 63 32
  let r := if bit w0 31 then s.planEntry (bf w0 63 55) (bf w0 54 51) (bf w0 50 40)
    else some (h / 2 ^ 27, h % 2 ^ 15)
  match r with
  | some (p, i) =>
    let x := s.entry p i
    if x.st == .free || (!(bit w0 31) && x.gen.toNat != h / 2 ^ 15 % 4096) || (x.st == .held && x.unit == noUnit) then none
    else some (p, i)
  | none => none

/-- An entry with every slot filled becomes READY (R88, R89). -/
def State.readyIf (s : State) (p i : Nat) : State :=
  let k := s.kn p
  let x := k.e i
  if x.st = .waiting ∧ (List.range x.desc.nops).all (fun j => (tfind x.slots j).isSome) then
    s.setKn p { k with entries := tput k.entries i { x with st := .ready, readyNo := k.readyNo, readyRaw := s.raw.toNat }
                       readyNo := k.readyNo + 1 }
  else s

/-- The Kennel of pack p counts one event in a counter. -/
def State.knCount (s : State) (k : Nat) : State := s.inc32 k 1

/-- A token reaches the matching stores (R84 to R87, R26, R120); `home` is the pack whose Kennel took it in. -/
def State.deliverToken (s : State) (home : Nat) (t : Token) (part : Nat) : State :=
  let h := bf t.w0 63 32
  if !(bit t.w0 31) ∧ 2 ^ 30 ≤ h then
    match s.linkTo (h / 2 ^ 30) with
    | some g =>
      let c := h / 2 ^ 30
      let w := setf (setf t.w0 63 32 (handleSeenBy c h)) 11 0 (unitSeenBy c (bf t.w0 11 0))
      s.sendMsg g false (messageOf 2 part 0 [w, t.value])
    | none => s.knCount (Key.knDown home)
  else
    match s.tokenEntry t.w0 with
    | none =>
      let c := bf t.w0 63 55
      s.knCount (Key.knStale (if bit t.w0 31 then (if c < 384 then s.fld (Key.knPlanCfg c) 62 60 else home) else h / 2 ^ 27 % 8))
    | some (p, i) =>
      let s := s.wakePack p
      let x := s.entry p i
      let slot := bf t.w0 30 28
      if s.foreign part x.desc.target then (s.knCount (Key.knDown p)).knCount (Key.knXpart p)
      else if x.desc.nops ≤ slot then s.knCount (Key.knInvalid p)
      else if (tfind x.slots slot).isSome then s.knCount (Key.knDup p)
      else (s.setEntry p i { x with slots := tput x.slots slot t }).readyIf p i

/-! The end of a task -/

/-- A token goes over Gelpel port g to the member that its plan address belongs to (R119). -/
def State.tokenAfar (s : State) (p g : Nat) (t : Token) (part : Nat) : State :=
  if s.gplState g = gpUp then
    s.sendMsg g false (messageOf 2 part 0 [setf t.w0 11 0 (unitSeenBy (s.peerChip g) (bf t.w0 11 0)), t.value])
  else s.knCount (Key.knDown p)

/-- The accelerator whose tokens to Kennel a return token of its task must follow (R256): one that has sent some. -/
def State.behind (s : State) (u : Nat) : Option Producer :=
  let p := (u - 584) / 32
  let k := (u - 584) % 32
  if h : 584 ≤ u ∧ p < 8 ∧ k < 17 then
    let x : Producer := .accel ⟨p, h.2.1⟩ ⟨k, h.2.2⟩
    if (s.queueOf x).isEmpty then none else some x
  else none

/-- The return of a task or a refused descriptor (R82): a token to its DEST, or a record where it has none. SRC is the Kennel
instance. A plan address of a descriptor that came by Gelpel port `org` names a row of the member that sent it (R119). The token of a
task that unit u ran follows the tokens that unit has sent. -/
def State.returnTask (s : State) (p : Nat) (d : Desc) (part st : Nat) (org : Option Nat) (u : Nat) : State :=
  if d.hasDest then
    if st ≠ ksDone ∨ d.notify then
      let w := w64 (d.dest * 2 ^ 32 + b01 d.form * 2 ^ 31 + d.slot * 2 ^ 28 + b01 (st != ksDone) * 2 ^ 27 + accUnit p 20)
      let t : Token := ⟨w, w64 (st * 2 ^ 56 + d.tag)⟩
      match d.form, org with
      | true, some g => s.tokenAfar p g t part
      | _, _ => match s.behind u with
        | some x => s.sendItem x (.back t part)
        | none => s.deliverToken p t part
    else s
  else if st ≠ ksDone then s.record 0x20 [w64 d.kind, w64 d.tag, w64 st]
  else s

/-- The pack's counter of a status (R82, `KN_Pp_` objects). -/
def State.countStatus (s : State) (p st : Nat) : State :=
  if st = ksUnitDown then s.knCount (Key.knDown p)
  else if st = ksAborted then s.knCount (Key.knAborted p)
  else if st = ksKindInvalid then s.knCount (Key.knInvalid p)
  else s

/-- Whether any task of a slot instance is in a store (R493). -/
def State.instanceHas (s : State) (c sq : Nat) : Bool :=
  s.kennel.any (fun k => k.2.used.any (fun e => match e.2.plan with | some (c', q, _) => c' == c && q == sq | none => false))

/-- The L2 deadline of carrier c, counted from the slot-start instant in computed time (R55, R492, table L2 deadlines). -/
def State.l2Limit (s : State) (c : Nat) : Nat :=
  let v := s.ent (Key.shdL2Carrier c)
  nsT (1000 * (if bf v 31 0 ≠ 0 then bf v 31 0 else match bf v 61 60 with | 0 => 3000 | 1 => 1500 | 2 => 1250 | _ => 625))

/-- The L2 timer of a slot instance is disarmed (R492). -/
def State.disarmL2 (s : State) (c sq : Nat) : State := { s with l2 := s.l2.filter (fun e => !(e.1 == c && e.2.1 == sq)) }

/-- An entry is freed (R81, R116, R493): GEN increments, the plan row's occurrence ends, a complete instance disarms its L2
timer. -/
def State.freeEntry (s : State) (p i : Nat) : State :=
  let x := s.entry p i
  let s := s.setEntry p i { entryInit with gen := x.gen + 1 }
  match x.plan with
  | some (c, sq, row) =>
    let s := if h : c < 384 then s.endOcc (.plan ⟨c, h⟩) (fun o => o.row == row && o.time == sq) else s
    if s.instanceHas c sq then s else s.disarmL2 c sq
  | none => s

/-- A task releases (R101, R102): its held tokens in order, its return token, its entry. -/
def State.releaseEntry (s : State) (p i : Nat) : State :=
  let x := s.entry p i
  let s := x.heldTokens.foldl (fun s t => s.deliverToken p t x.part) s
  (s.returnTask p x.desc x.part x.status.toNat x.origin x.unit).freeEntry p i

/-- The HELD tasks that follow in a domain release in order, until one is not HELD (R101). -/
def State.releaseChain (p d : Nat) : Nat → State → State
  | 0, s => s
  | n + 1, s =>
    match (s.kn p).used.find? (fun e => e.2.st == .held && e.2.desc.ordered && e.2.desc.domain == d && s.isOldest p e.2) with
    | some (i, _) => (s.releaseEntry p i).releaseChain p d n
    | none => s

/-- The task of an entry ends with a status (R88, R90, R101, R102): it releases, or is HELD while an earlier task of its domain
is unreleased. -/
def State.endTask (s : State) (p i st : Nat) : State :=
  let x := s.entry p i
  if x.st = .free ∨ x.st = .held then s
  else
    let x := { x with status := BitVec.ofNat 8 st, heldTokens := if st = ksDone then x.heldTokens else [],
                      unit := if x.st = .running then x.unit else noUnit }
    let s := (s.setEntry p i x).countStatus p st
    if s.isOldest p x then
      let s := s.releaseEntry p i
      if x.desc.ordered then s.releaseChain p x.desc.domain (s.occ p) else s
    else s.setEntry p i { x with st := .held }

/-! Results to submitters -/

/-- The result of a submission, a handle or bit 63 and a status, reaches its submitter (R80, R154, R193, R241, R548). -/
def State.giveResult (s : State) (ret : RetTo) (v : U64) : State :=
  match ret with
  | .none => s
  | .tileReg t rd =>
    let x := s.tl t
    let (a, b) := x.pendingD.span (fun q => !(q.1 == rd && q.2.isNone))
    match b with
    | [] => s
    | _ :: r => s.setTl t { x with pendingD := a ++ (rd, some v) :: r }
  | .portEntry c e =>
    s.store (portBase c + 0x1800 + 8 * e)
      (leBytes 8 (if bit v 63 then 3 * 2 ^ 62 + bf v 7 0 else 2 ^ 63 + bf v 31 0))
  | .lane e l b w =>
    let h := s.hnd e
    let x := h.l l
    let refused := bit v 63
    let toks := if refused then h.tokens.filter (fun t => !(t.lane == l && t.bseq == b && t.waiting))
      else h.tokens.map (fun t => if t.lane = l ∧ t.bseq = b ∧ t.waiting then
        { t with waiting := false, tok := ⟨setf t.tok.w0 63 32 (bf v 31 0), t.tok.value⟩ } else t)
    let h := { h with tokens := toks }
    if refused then
      let s := (s.setHnd e (if x.isOpen ∧ x.bseq = b then h.setL l { x with isOpen := false } else h)).inc32 (Key.hndErrors e) 1
      s.record 0x40 [w64 e, w64 w, w64 (bf v 7 0), 0]
    else if x.isOpen ∧ x.bseq = b then s.setHnd e (h.setL l { x with handle := some (BitVec.ofNat 32 (bf v 31 0)) })
    else s.setHnd e h
  | .startOf p part v' =>
    if bit v 63 then s else s.deliverToken p ⟨w64 (bf v 31 0 * 2 ^ 32 + 1012), v'⟩ part
  | .remote g =>
    let c := s.peerChip g
    s.sendMsg g false (messageOf 3 0 (if bit v 63 then v else w64 (handleSeenBy c (bf v 31 0))) [])

/-! Submission -/

/-- The first free entry at or cyclically after a drawn number: the spec does not say which free entry is taken. -/
def pickFree (k : Kennel) (start : Nat) : Nat :=
  ((List.range storeSize).find? (fun j => (k.e ((start + j) % storeSize)).st == .free)).elim 0 (fun j => (start + j) % storeSize)

/-- A crossing of the high-water mark and the greatest occupancy are noted (R104, `KN_Pp_PEAK`). -/
def State.noteOcc (s : State) (p before : Nat) : State :=
  let o := s.occ p
  let m := s.entN Key.knHighWater
  let s := if before ≤ m ∧ m < o then (s.setSticky (Key.knFlags p) 1).knCount (Key.knStalls p) else s
  if s.entN (Key.knPeak p) < o then s.setEntN (Key.knPeak p) o else s

/-- An entry of pack p is allocated for a descriptor (R80, R98): the state and the entry's number. -/
def State.allocate (s : State) (p : Nat) (d : Desc) (part : Nat) (plan : Option (Nat × Nat × Nat)) : State × Nat :=
  let before := s.occ p
  let (a, s) := s.drawBelow storeSize
  let k := s.kn p
  let i := pickFree k a
  let sq := tget 0 k.domNext d.domain
  let x := { entryInit with st := .waiting, gen := (k.e i).gen, desc := d, seq := sq, part := part, plan := plan }
  let k := { k with entries := tput k.entries i x, domNext := if d.ordered then tput k.domNext d.domain (sq + 1) else k.domNext }
  ((s.setKn p k).noteOcc p before, i)

/-- Whether a descriptor of a class may allocate now (R104). -/
def State.mayAllocate (s : State) (p cls : Nat) : Bool :=
  decide (s.occ p < storeSize) && (decide (cls < 2) || decide (s.occ p < s.entN Key.knHighWater))

/-- The port by which a descriptor came, if it came from afar. -/
def RetTo.port : RetTo → Option Nat
  | .remote g => some g
  | _ => Option.none

/-- A refused descriptor is counted and returned, and its submitter told (R582, R82, R154). -/
def State.refuseDesc (s : State) (p : Nat) (d : Desc) (part st : Nat) (ret : RetTo) : State :=
  let s := s.countStatus p st
  let s := if st = ksUnitDown ∧ d.target < 1024 ∧ s.foreign part d.target then s.knCount (Key.knXpart p) else s
  (s.returnTask p d part st ret.port noUnit).giveResult ret (w64 (2 ^ 63 + st))

/-- A descriptor as the member at chip index c counts its numbers (R19). -/
def Desc.seenBy (d : Desc) (c : Nat) : Desc :=
  { d with w1 := setf d.w1 63 52 (unitSeenBy c d.target)
           w2 := if d.form ∨ d.dest = 0 then d.w2 else setf d.w2 63 32 (handleSeenBy c d.dest) }

/-- A descriptor that passed R582 takes an entry and becomes READY at once where it has no operands. -/
def State.acceptDesc (s : State) (p : Nat) (d : Desc) (ret : RetTo) (part : Nat) : State :=
  let (s, i) := s.allocate p d part none
  let s := s.setEntry p i { s.entry p i with origin := ret.port }
  (s.giveResult ret (w64 (handleOf p i (s.entry p i)))).readyIf p i

/-- A descriptor is forwarded to the member of its target (R119). -/
def State.forward (s : State) (g : Nat) (d : Desc) (ret : RetTo) (part : Nat) : State :=
  (s.sendMsg g false (messageOf 1 part 0 (d.seenBy (d.target / 1024)).words)).awaitGpl g (.result ret)

/-- A descriptor arrives at Kennel (R582, R104, R119, R120). -/
def State.submitDesc (s : State) (src : Producer) (d : Desc) (ret : RetTo) (part : Nat) (badPath : Bool) : State :=
  let home := s.homeOf src
  if badPath then (s.notePath 12 (accUnit home 20) 0).refuseDesc (s.execPack home d.target) d part ksKindInvalid ret
  else if 1024 ≤ d.target then
    match s.linkTo (d.target / 1024) with
    | some g => s.forward g d ret part
    | none => s.refuseDesc home d part ksUnitDown ret
  else
    let p := s.execPack home d.target
    match s.refusal p d part true false with
    | some st => s.refuseDesc p d part st ret
    | none =>
      let s := s.wakePack p
      if s.mayAllocate p d.cls then s.acceptDesc p d ret part
      else let k := s.kn p; s.setKn p { k with waiting := k.waiting ++ [⟨src, d, ret, part⟩] }

/-- The credits of a producer in reset return (R24): the tokens it has sent reach Kennel, its descriptors go with it (DESIGN CHOICE,
assumption 79). -/
def State.flushProd (s : State) (x : Producer) : State :=
  let q := s.queueOf x
  let home := s.homeOf x
  let s := { s with
    outq := tdel s.outq (prodKey x)
    kennel := s.kennel.map (fun e => (e.1, { e.2 with waiting := e.2.waiting.filter (fun w => w.src != x) })) }
  q.foldl (fun s i => match i with
    | .token t part _ => s.deliverToken home t part
    | .back t part => s.deliverToken home t part
    | .desc .. => s) s

/-! Running tasks -/

/-- The task a unit runs: pack and entry. -/
def State.taskOn (s : State) (u : Nat) : Option (Nat × Nat) :=
  (List.range 8).findSome? (fun p =>
    ((s.kn p).used.find? (fun e => e.2.st == .running && e.2.unit == u)).map (fun e => (p, e.1)))

/-- A unit's own task ends ABORTED (R94). -/
def State.abortOn (s : State) (u : Nat) : State :=
  (s.kennel.flatMap (fun k => (k.2.used.filter (fun e => e.2.st == .running && e.2.unit == u)).map (fun e => (k.1, e.1)))).foldl
    (fun s x => s.endTask x.1 x.2 ksAborted) s

/-- The tile's task is gone from it. -/
def State.untask (s : State) (t : Nat) : State := s.setTl t { s.tl t with task := none }

/-! Slow tiles -/

/-- Key of a moving average: tile and kind. -/
def avgKey (t k : Nat) : Nat := t * 4096 + k
def avgInit : Avg := ⟨0, 0⟩
/-- One PCLK cycle in units of the averages; the spec does not give their precision. -/
def avgOne : Nat := 2 ^ Config.avgFrac

/-- The ratio test of R108 and R110: x exceeds KN_LAME_RATIO times the median. -/
def State.exceeds (s : State) (x median : Nat) : Bool := decide (s.entN Key.knLameRatio * median < 256 * x)

/-- A tile is marked LAME or cleared, with the record of R108 and R110. -/
def State.noteLame (s : State) (t kind avg median : Nat) (on : Bool) : State :=
  s.record 0x21 [w64 t, w64 kind, w64 (avg / avgOne), w64 (median / avgOne), w64 (b01 on)]

/-- The service time of a task of tile t that is DONE (R106, R110). -/
def State.served (s : State) (p t : Nat) (x : Entry) : State :=
  let kd := x.desc.kind
  if bit (s.kindWord p kd) 60 then
    let k := s.kn p
    let now := 4 * (s.raw.toNat - (s.tl t).fetchedAt) * avgOne
    let a := tget avgInit k.avg (avgKey t kd)
    let v := if a.n = 0 then now else (a.avg * 256 + now - a.avg) / 256
    let s := s.setKn p { k with avg := tput k.avg (avgKey t kd) ⟨v, min (a.n + 1) 256⟩ }
    if x.probe then
      let u := s.un t
      match tfind k.median kd with
      | some m =>
        if s.exceeds now m then s.setUn t { u with lameSince := s.raw.toNat }
        else
          let k := s.kn p
          ((s.setKn p { k with avg := tput k.avg (avgKey t kd) ⟨m, (tget avgInit k.avg (avgKey t kd)).n⟩ }).setUn t
            { u with lame := false, probeDue := false }).noteLame t kd m m false
      | none => s.setUn t { u with lameSince := s.raw.toNat }
    else s
  else s

/-- DONE of tile t (R90, R156): its task retires; a Terrier task leaves its signature to be read (R507). -/
def State.tileDone (s : State) (t : Nat) : State :=
  match (s.tl t).task with
  | none => s
  | some (p, i) =>
    let x := s.entry p i
    let s := s.untask t
    if x.st = .running ∧ x.unit = t then
      let s := s.served p t x
      let s := match tfind s.segment p with
        | some g => if g.kind = 0 ∧ g.unit = t ∧ s.terKind x.desc.kind ∧ g.signature.isNone then
            { s with segment := tput s.segment p { g with signature := some (s.word (lmAddr t 0x3FFFF8)) } } else s
        | none => s
      s.endTask p i ksDone
    else s

end Sys2Proof.Machine
end

