-- ==== Sys2Proof/Machine/LeashCore.lean ====
section
/-! DEFINITION. LeashCore.lean: the Leash points and the requests of transfers at them (R191, R195, R201, R202). -/
namespace Sys2Proof.Machine

def pointInit : Point := ⟨none, 0, 0, 0, [], []⟩
/-- Leash point n. -/
def State.pnt (s : State) (n : Nat) : Point := tget pointInit s.point n
def State.setPnt (s : State) (n : Nat) (x : Point) : State := { s with point := tput s.point n x }

/-- Leash points (R195). -/
def leashPoints : Nat := 160
/-- Whether a requester is masked (R200). -/
def State.isMasked (s : State) (r : Nat) : Bool := tget false s.masked r
/-- Whether no class B is granted (R201). -/
def State.pausedB (s : State) : Bool := s.flag Key.lshPauseB 0 || s.warn

/-- The Leash interrupt of `LSH_IRQ_CORE` follows the STARVE flags (R202). -/
def State.leashIrq (s : State) : State :=
  s.setIrq .leash (s.entN Key.lshIrqCore) ((List.range leashPoints).any (fun n => s.flag (Key.lshFlags n) 1))

/-- A request as its source marks it (R195): the Groomer and Terrier ask in class B. -/
def leashMarked (q : LeashReq) : LeashReq := if q.r = 19 then { q with classD := false } else q

/-- The transfers waiting at a point with those that arrive, oldest first. A requester's line of a class is asserted while any of its
transfers of the class waits (R195), and its oldest one is granted. -/
def addReqs (old new : List LeashReq) : List LeashReq := old ++ new.map leashMarked

/-- Beats of a transfer at point n (R195). -/
def leashBeats (n : Nat) (q : LeashReq) : Nat := if n < 128 then q.beats.val + 1 else 1

/-! The points of an address (R191, table Spine port assignment) -/

/-- The pseudo-channel of an HBM address. -/
def State.hbmPoint (s : State) (a : Nat) : Nat := (s.hbmPlace a).1 * 32 + (s.hbmPlace a).2
/-- The Spine port that serves an HBM address: pseudo-channels 0 to 15 of a stack by its first, 16 to 31 by its second. -/
def State.hbmPort (s : State) (a : Nat) : Nat :=
  128 + (s.hbmPlace a).1 / 2 * 16 + 4 + 2 * ((s.hbmPlace a).1 % 2) + (s.hbmPlace a).2 / 16
/-- The Spine port of a pack. -/
def packPort (p : Nat) : Nat := 128 + p / 4 * 16 + p % 4

/-- The pack whose space an address lies in. -/
def packOfAddr (a : Nat) : Option Nat :=
  match regionOf a with
  | .pm p => some p
  | .csm c => some (c / 8)
  | .lm t => some (t / 64)
  | .im t => some (t / 64)
  | .ctl p => some p
  | _ => none

/-- The Leash points that a transfer of requester r at an address passes: a pack reaches its own space without the Spine. -/
def State.pointsOf (s : State) (r a : Nat) : List Nat :=
  match regionOf a with
  | .hbm => [s.hbmPort a, s.hbmPoint a]
  | _ => match packOfAddr a with
    | some p => if p = r then [] else [packPort p]
    | none => []

/-- Requester r asks for a transfer of n bytes at a, at most 256 B within a 256-byte block, in a class (R195, R205, R255). -/
def State.leashAsk (s : State) (r : Nat) (classD : Bool) (a n : Nat) : State :=
  if h : r < 24 then
    (s.pointsOf r a).foldl (fun s pt =>
      let x := s.pnt pt
      s.setPnt pt { x with reqs := addReqs x.reqs [⟨⟨r, h⟩, classD, BitVec.toFin (BitVec.ofNat 3 ((a + n - 1) / 32 - a / 32))⟩] }) s
  else s

/-- Requester r asks for the n bytes at a, in transfers that cross no 256-byte boundary. -/
def State.leashAskAll (s : State) (r : Nat) (classD : Bool) (a n : Nat) : State :=
  if n = 0 then s
  else (List.range ((a + n - 1) / 256 - a / 256 + 1)).foldl (fun s i =>
    let lo := max a ((a / 256 + i) * 256)
    s.leashAsk r classD lo (min (a + n) ((a / 256 + i + 1) * 256) - lo)) s

end Sys2Proof.Machine
end

