-- ==== Sys2Proof/Machine/MemCore.lean ====
section
/-!
DEFINITION. MemCore.lean: which addresses a requester reaches (R180 to R182, R185, R190, R203, R455, R466), refusals
(R181), and reads and writes of the device's memories by it (R388 to R401).
-/
namespace Sys2Proof.Machine

/-- Leash requester of an accessor (table Leash requesters). -/
def reqNo : Accessor → Nat
  | .core _ _ => 8
  | .dma n => if n.val < 256 then n.val / 32 else 8
  | .pack p => p.val
  | .mac m => 10 + m.val / 16
  | .flow => 9
  | .groomer => 19
  | .terrier => 19
  | .root => 20
  | .gelpel _ _ => 18

/-- The local partition paired with a far partition at a Gelpel port (R551). -/
def State.gplLocal (s : State) (g far : Nat) : Option Nat :=
  ((List.range 4).find? (fun k => s.flag (Key.gplPair g) (8 * k + 7) && s.fld (Key.gplPair g) (8 * k + 2) (8 * k) == far)).map
    (fun k => s.fld (Key.gplPair g) (8 * k + 6) (8 * k + 4))

/-- Whether a port's pairs enable a far and a local partition (R551). -/
def State.gplPairs (s : State) (g far q : Nat) : Bool :=
  (List.range 4).any (fun k => s.flag (Key.gplPair g) (8 * k + 7) && s.fld (Key.gplPair g) (8 * k + 2) (8 * k) == far &&
    s.fld (Key.gplPair g) (8 * k + 6) (8 * k + 4) == q)

/-- The partition an access is checked against. -/
def State.accPart (s : State) : Accessor → Option Nat
  | .core c _ => s.partOfCore c.val
  | .dma n => s.partOfChan n.val
  | .pack p => s.partOfPack p.val
  | .mac m => s.partOfMac m.val
  | .gelpel g far => s.gplLocal g.val far.val
  | _ => none

/-- Whether an accessor acts for partition q: its own, or for a Gelpel port every one paired with the far partition. -/
def State.accIs (s : State) (who : Accessor) (q : Nat) : Bool :=
  match who with
  | .gelpel g far => s.gplPairs g.val far.val q
  | w => s.accPart w == some q

/-- The device services reach every HBM address (R185). -/
def isService : Accessor → Bool
  | .flow | .groomer | .terrier | .root => true
  | _ => false

/-- The region entry that governs a 16 MiB block: the lowest-numbered enabled one that covers it (R185). -/
def State.regionOfBlk (s : State) (b : Nat) : Option Nat :=
  (List.range 64).find? (fun e =>
    let v := s.ent (Key.memHbmRegion e)
    bit v 63 && decide (bf v 31 16 ≤ b) && decide (b < bf v 31 16 + bf v 15 0))

/-- Whether a handover lets a partition reach a region entry besides its owner (R537, R541). -/
def State.hoAdmits (s : State) (e p : Nat) : Bool :=
  (List.range 16).any (fun n =>
    let st := s.fld (Key.hoOp n) 63 60
    let cfg := s.ent (Key.hoCfg n)
    let x := s.ent (Key.hoExport n)
    (bf cfg 54 52 == p || bf cfg 50 48 == p) && decide (1 ≤ st) && decide (st ≤ 3) &&
      ((bit x 7 && bf x 5 0 == e) || (st == 3 && bit (s.ent (Key.hoRegions n)) e)))

/-- Whether HBM block b is open to a partition (R185). -/
def State.blkOpen (s : State) (p b : Nat) (write : Bool) : Bool :=
  match s.regionOfBlk b with
  | none => false
  | some e =>
    let v := s.ent (Key.memHbmRegion e)
    bf v 61 58 == p || (!write && bit v 62) || s.hoAdmits e p

/-- Whether the n bytes of HBM at a are open to a partition. -/
def State.hbmOpen (s : State) (p a n : Nat) (write : Bool) : Bool :=
  (List.range ((a + n - 1) / 0x1000000 - a / 0x1000000 + 1)).all (fun i => s.blkOpen p (a / 0x1000000 + i) write)

/-- Whether a pack's space answers: it is not in P2 or P3 and has not stopped for a transition (R466). -/
def State.packUp (s : State) (p : Nat) : Bool := decide (s.packP p ≤ 1) && !(s.prepAcked p)

/-- Whether a tile's IM may be written (R182). -/
def State.imOpen (s : State) (t : Nat) : Bool := (s.tl t).st == .reset || (s.tl t).st == .halted

/-- Whether an access of n bytes at a is accepted (R181, R182, R185, R190, R203, R455, R466): the address space by requester,
then partition and state. -/
def State.accessOk (s : State) (who : Accessor) (a n : Nat) (write : Bool) : Bool :=
  let r := regionOf a
  let own := fun (p : Nat) => (isService who || (s.partOfPack p).elim false (s.accIs who)) && s.packUp p
  let fenced := s.health (memUnit s a) == 4
  decide (0 < n) && r == regionOf (a + n - 1) && !fenced &&
  match r with
  | .hbm => isService who || (List.range 8).any (fun q => s.accIs who q && s.hbmOpen q a n write)
  | .pm p => own p && (match who with | .mac _ => false | _ => true)
  | .csm c => own (c / 8) && (match who with | .mac _ => false | .pack _ => false | _ => true)
  | .lm t => own (t / 64) && (match who with | .mac _ => false | .pack _ => false | _ => true)
  | .im t => own (t / 64) && (match who with | .mac _ => false | .pack _ => false | _ => true) && (!write || s.imOpen t)
  | .ctl p => own p && a % 8 == 0 && n == 8 && (match who with | .core _ _ => true | .dma _ => true | .gelpel _ _ => true | _ => false)
  | .mram => (match who with | .root => true | .core _ _ => !write | .dma _ => !write | .gelpel _ _ => !write && (s.accPart who).isSome | _ => false)
  | _ => false

/-- A refusal is counted and recorded (R181). -/
def State.accessFault (s : State) (who : Accessor) (a : Nat) : State :=
  let p := match who with | .gelpel _ far => far.val | w => (s.accPart w).getD 0xFF
  (s.inc32 Key.memAccessFaults 1).setEntN Key.memFaultLast (reqNo who * 2 ^ 56 + p * 2 ^ 48 + a % 2 ^ 40)

/-- An access to a gated pack's space wakes it (R468). -/
def State.wakeAt (s : State) (a : Nat) : State := match packOfAddr a with | some p => s.wakePack p | none => s

/-! Merge entries (R398 to R400) -/

/-- Byte j of a merge entry over an old byte: its valid bits replace the old ones. -/
def Merge.byte (m : Merge) (j : Nat) (old : Byte) : Byte :=
  BitVec.ofNat 8 (((List.range 8).map (fun i =>
    b01 (if tget false m.mask (8 * j + i) then tget false m.bits (8 * j + i) else old.toNat / 2 ^ i % 2 == 1) * 2 ^ i)).sum)

/-- Whether byte j of a merge entry has a valid bit. -/
def Merge.touches (m : Merge) (j : Nat) : Bool := (List.range 8).any (fun i => tget false m.mask (8 * j + i))

/-- A merge entry is flushed: each byte with valid bits by read-modify-write, its word meeting R390 first (R399). -/
def State.flushMerge (s : State) (m : Merge) : State :=
  let s := { s with merges := s.merges.filter (· ≠ m) }
  (List.range 64).foldl (fun s j =>
    if m.touches j then
      let a := m.block * 64 + j
      let s := s.readTouch a 1
      s.storeMarked a [m.byte j (s.byte a)] m.marked
    else s) s

/-- The memory port that serves an address (R398): an HBM pseudo-channel, or the memory that holds it. -/
def State.memPort (s : State) (a : Nat) : Nat :=
  match regionOf a with
  | .hbm => s.hbmPoint a
  | .pm p => 128 + p
  | .csm c => 136 + c
  | .lm t => 200 + t
  | .im t => 712 + t
  | _ => 1224

/-- A requester marks the end of a job or descriptor: its entries are flushed (R399). -/
def State.flushFor (s : State) (r : Nat) : State := (s.merges.filter (fun m => m.requester = r)).foldl State.flushMerge s

/-- A write that covers part of the byte at a, its bits [hi:0] with the values of v, enters the merge entry of its block (R398); where
all 16 entries of the port are in use, the one least recently written is flushed first (R399). -/
def State.mergeWrite (s : State) (r a hi v : Nat) (marked : Bool) : State :=
  let port := s.memPort a
  let blk := a / 64
  let add := fun (t : Tab Bool) (f : Nat → Bool) => (List.range (hi + 1)).foldl (fun t i => tput t (a % 64 * 8 + i) (f i)) t
  let put := fun (m : Merge) => { m with bits := add m.bits (fun i => v / 2 ^ i % 2 == 1), mask := add m.mask (fun _ => true)
                                         lastRaw := s.raw.toNat, marked := m.marked || marked }
  match s.merges.find? (fun m => m.requester == r && m.block == blk) with
  | some m => { s with merges := s.merges.filter (· ≠ m) ++ [put m] }
  | none =>
    let own := s.merges.filter (fun m => m.port == port)
    let s := if 16 ≤ own.length then (match leastBy (·.lastRaw) own with | some m => s.flushMerge m | none => s) else s
    { s with merges := s.merges ++ [put ⟨port, r, blk, [], [], 0, false⟩] }

/-- Entries of other requesters over the n bytes at a are flushed (R399). -/
def State.flushOver (s : State) (r a n : Nat) : State :=
  (s.merges.filter (fun m => m.requester ≠ r ∧ a < m.block * 64 + 64 ∧ m.block * 64 < a + n)).foldl State.flushMerge s

/-! Reads and writes -/

/-- Whether an IM word among the n bytes at a has a fresh error. -/
def State.imFresh (s : State) (a n : Nat) : Option Nat :=
  (wordsOf a n).find? (fun w => memClass (8 * w) == some 0 && s.freshWord w)

/-- An accepted read: what it does to memory, the bytes, and whether any carries the poison marking. -/
def State.readMem (s : State) (who : Accessor) (a n : Nat) : State × List Byte × Bool :=
  let s := ((s.wakeAt a).flushOver (reqNo who) a n).readTouch a n
  (s, s.bytes a n, s.anyPoison a n)

/-- An accepted write; `marked` bytes carry the poison marking (R217). -/
def State.writeMem (s : State) (who : Accessor) (a : Nat) (bs : List Byte) (marked : Bool) : State :=
  ((s.wakeAt a).flushOver (reqNo who) a bs.length).storeMarked a bs marked

/-- An accepted write of bytes, each with its own marking (R217, R581). -/
def State.writeMarks (s : State) (who : Accessor) (a : Nat) (bs : List (Byte × Bool)) : State :=
  ((s.wakeAt a).flushOver (reqNo who) a bs.length).storeMarks a bs

/-- A read by a requester: none where it is refused. -/
def State.busRead (s : State) (who : Accessor) (a n : Nat) : State × Option (List Byte × Bool) :=
  if s.accessOk who a n false then let r := s.readMem who a n; (r.1, some r.2) else (s.accessFault who a, none)

/-- A write by a requester, and whether it was accepted. -/
def State.busWrite (s : State) (who : Accessor) (a : Nat) (bs : List Byte) (marked : Bool) : State × Bool :=
  if s.accessOk who a bs.length true then (s.writeMem who a bs marked, true) else (s.accessFault who a, false)

/-! Remote windows (R183) -/

/-- The chip index of a remote-window address. -/
def remoteChip (a : Nat) : Nat := a / 0x2000000000
/-- Bytes of a message body as words. -/
def dataWords (bs : List Byte) : List U64 := bytesWords ((bs.length + 7) / 8) bs

/-- Marks of bytes by 64-bit word, as a number: bit i for word i of the message (R388, R581). -/
def wordMarks (bs : List (Byte × Bool)) : Nat := ((bs.zipIdx.filter (·.1.2)).map (fun b => 2 ^ (b.2 / 8))).foldl (· ||| ·) 0

/-- A remote read is sent; false where no link is UP. -/
def State.remoteRead (s : State) (who : Accessor) (classD : Bool) (a n : Nat) : State × Bool :=
  match s.linkTo (remoteChip a) with
  | none => (s, false)
  | some g =>
    ((s.sendMsg g (!classD) (messageOf 4 ((s.accPart who).getD 15) (w64 (a % 0x2000000000 + n * 2 ^ 40)) [])).awaitGpl g (.read who a), true)

/-- A remote write is sent, its bytes with their markings (R217, R581). -/
def State.remoteWrite (s : State) (who : Accessor) (classD : Bool) (a : Nat) (bs : List (Byte × Bool)) : State × Bool :=
  match s.linkTo (remoteChip a) with
  | none => (s, false)
  | some g =>
    ((s.sendMsg g (!classD) (messageMarked (wordMarks bs) 6 ((s.accPart who).getD 15) (w64 (a % 0x2000000000 + bs.length * 2 ^ 40))
      (dataWords (bs.map (·.1))))).awaitGpl g (.write who a), true)

end Sys2Proof.Machine
end

