-- ==== Sys2Proof/Machine/AccelCore.lean ====
section
/-!
DEFINITION. AccelCore.lean: what the jobs of every accelerator share (R255 to R260, R282 to R284): the descriptor, reads and
writes, a job's end, its counters, complex samples and the angles of the transforms.
-/
namespace Sys2Proof.Machine

/-! Job status (table Accelerator job status) -/

def jsOk : Nat := 0
def jsParam : Nat := 1
def jsRead : Nat := 2
def jsWrite : Nat := 3
def jsDegenerate : Nat := 4
def jsAborted : Nat := 5

/-- OP, INSLOT and the output address of a job's descriptor. -/
def Desc.op (d : Desc) : Nat := bf d.a0 63 61
def Desc.inslot (d : Desc) : Bool := bit d.a0 32
def Desc.out (d : Desc) : Nat := bf d.a2 39 0

/-- The input address (R255). -/
def Entry.input (x : Entry) : Nat :=
  if x.desc.inslot then (tget ⟨0, 0⟩ x.slots 0).value.toNat % 2 ^ 40 else bf x.desc.a1 39 0

/-- A job under way: the state, its error (0 for none), whether an input byte was poisoned, components clamped. -/
structure Run where
  s : State
  bad : Nat
  poison : Bool
  sat : Nat

/-- The transfers of a job ask at the Leash points in class D (R255). -/
def State.jobAsk (s : State) (p : Fin 8) (a n : Nat) : State := s.leashAskAll (reqNo (.pack p)) true a n

/-- A read of a job; after an error no further transfer is issued (R258). -/
def Run.read (x : Run) (p : Fin 8) (a n : Nat) : Run × List Byte :=
  if x.bad ≠ 0 ∨ n = 0 then (x, [])
  else match (x.s.jobAsk p a n).busRead (.pack p) a n with
    | (s, some (bs, q)) => ({ x with s := s, poison := x.poison || q }, bs)
    | (s, none) => ({ x with s := s, bad := jsRead }, [])

/-- A write of a job, with the poison marking of its inputs (R258, R259). -/
def Run.write (x : Run) (p : Fin 8) (a : Nat) (bs : List Byte) : Run :=
  if x.bad ≠ 0 ∨ bs = [] then x
  else match (x.s.jobAsk p a bs.length).busWrite (.pack p) a bs x.poison with
    | (s, true) => { x with s := s }
    | (s, false) => { x with s := s, bad := jsWrite }

/-- Bytes of bits, the most significant first, the last padded with zeros. -/
def packBits : List Bool → List Byte
  | a :: b :: c :: d :: e :: f :: g :: h :: r =>
    BitVec.ofNat 8 (b01 a * 128 + b01 b * 64 + b01 c * 32 + b01 d * 16 + b01 e * 8 + b01 f * 4 + b01 g * 2 + b01 h) :: packBits r
  | [] => []
  | l => [BitVec.ofNat 8 (((l.zipIdx).map (fun q => b01 q.1 * 2 ^ (7 - q.2))).sum)]

/-- A write of bits from bit offset o of a on, most significant first, the last byte padded with zeros (R305): a first byte that they
cover in part goes through a merge entry (R398). -/
def Run.writeBits (x : Run) (p : Fin 8) (a o : Nat) (bits : List Bool) : Run :=
  let a := a + o / 8
  let k := o % 8
  if k = 0 ∨ bits = [] then x.write p a (packBits bits)
  else if x.bad ≠ 0 then x
  else
    let head := bits.take (8 - k) ++ List.replicate (8 - k - bits.length) false
    let s := (x.s.jobAsk p a 1).wakeAt a
    if s.accessOk (.pack p) a 1 true then
      let s := (s.flushOver (reqNo (.pack p)) a 1).mergeWrite (reqNo (.pack p)) a (7 - k) (head.foldl (fun v b => 2 * v + b01 b) 0) x.poison
      { x with s := s }.write p (a + 1) (packBits (bits.drop (8 - k)))
    else { x with s := s.accessFault (.pack p) a, bad := jsWrite }

/-- A read of so many bytes of the pack's PM. -/
def Run.readPm (x : Run) (p : Fin 8) (off n : Nat) : Run × List Byte := x.read p (pmAddr p.val off) n

/-- Reads of several ranges, in order. -/
def Run.reads (x : Run) (p : Fin 8) : List (Nat × Nat) → Run × List (List Byte)
  | [] => (x, [])
  | (a, n) :: r =>
    let (x, b) := x.read p a n
    let (x, bs) := x.reads p r
    (x, b :: bs)

/-- Writes of several ranges, in order. -/
def Run.writes (x : Run) (p : Fin 8) : List (Nat × List Byte) → Run
  | [] => x
  | (a, b) :: r => (x.write p a b).writes p r

/-- Key of a unit's job. -/
def jobKey (p k : Nat) : Nat := p * 32 + k

/-- Unit k of pack p runs the job of its task, whose OP is one of `ops`: the job's accesses happen and its end is noted until
its completion. `f` gives the job's accesses, SATN or RESULT, degenerate groups and cycles. -/
def State.runJob (s : State) (p : Fin 8) (k : Nat) (ops : List Nat) (f : Run → Entry → Run × Nat × Nat × Nat) : State :=
  match s.taskOn (accUnit p.val k) with
  | none => s
  | some (q, i) =>
    let e := s.entry q i
    if (tfind s.job (jobKey p.val k)).isSome ∨ !(ops.contains e.desc.op) then s
    else
      let (x, res, deg, cyc) := f ⟨s, 0, false, 0⟩ e
      let st := if x.bad ≠ 0 then x.bad else if deg ≠ 0 then jsDegenerate else jsOk
      { x.s with job := tput x.s.job (jobKey p.val k) ⟨q, i, st, res, x.poison, deg, cyc⟩ }

/-- A job refused under R257: no output byte is written. -/
def Run.param (x : Run) : Run × Nat × Nat × Nat := ({ x with bad := if x.bad ≠ 0 then x.bad else jsParam }, 0, 0, 0)

/-! Counters of a unit -/

def accJobsKey (p k : Nat) : Nat := if k < 10 then Key.cdJobs p k else Key.xfJobs p (k - 10)
def accErrsKey (p k : Nat) : Nat := if k < 10 then Key.cdErrs p k else Key.xfErrs p (k - 10)
def accLastKey (p k : Nat) : Nat := if k < 10 then Key.cdLast p k else Key.xfLast p (k - 10)

/-- A job's end is counted (`XF_Pp_Ak_` and `CD_Pp_Ak_` objects, R258). -/
def State.countJob (s : State) (p k : Nat) (d : Desc) (j : Job) : State :=
  let b := tget 0 s.accelBusy (jobKey p k) + j.cycles
  let s := { s with accelBusy := tput s.accelBusy (jobKey p k) (b % 1024) }
  let s := s.incSat (accJobsKey p k) 31 0 (b / 1024)
  let s := if k < 10 then s else
    let s := if j.result ≠ 0 then s.incSat (Key.xfSat p (k - 10)) 63 32 1 else s
    if j.status = jsDegenerate then s.incSat (Key.xfSat p (k - 10)) 31 0 1 else s
  let fail := fun hi lo => (s.incSat (accErrsKey p k) hi lo 1).setEntN (accLastKey p k)
    (j.status * 2 ^ 56 + d.kind * 2 ^ 44 + d.tag)
  match j.status with
  | 1 => fail 63 48
  | 2 => fail 47 32
  | 3 => fail 31 16
  | 5 => fail 15 0
  | _ => s.incSat (accJobsKey p k) 63 32 1

/-- The completion token of a job is sent, or held for an ordered task that is not its domain's oldest (R256, R100). An aborted job's is
sent all the same, since its task drops what it held (R258). -/
def State.jobToken (s : State) (p : Fin 8) (k : Fin 17) (e : Entry) (j : Job) : State :=
  if e.desc.a4 = 0 then s
  else
    let w := setf (setf (setf e.desc.a4 27 27 (b01 (j.status != jsOk && j.status != jsDegenerate))) 26 26 (b01 j.poison)) 11 0
      (accUnit p.val k.val)
    let t : Token := ⟨w, w64 (j.status * 2 ^ 56 + j.result % 2 ^ 16 * 2 ^ 40 + e.desc.out)⟩
    if s.isOldest j.pack e ∨ j.status = jsAborted then s.sendItem (.accel p k) (.token t (s.partOfProd (.accel p k)) .none)
    else s.setEntry j.pack j.entry { e with heldTokens := e.heldTokens ++ [t] }

/-- A job ends: it is counted, its completion token precedes its task's retirement, which has status st. -/
def State.finishJob (s : State) (p : Fin 8) (k : Fin 17) (j : Job) (st : Nat) : State :=
  let e := s.entry j.pack j.entry
  let s := { s with job := tdel s.job (jobKey p.val k.val), decode := tdel s.decode (jobKey p.val k.val) }.flushFor (reqNo (.pack p))
  if e.st = .running ∧ e.unit = accUnit p.val k.val then
    ((s.countJob p.val k.val e.desc j).jobToken p k e j).endTask j.pack j.entry st
  else s

/-- The job on unit k of pack p fails by a read or write that ends with an error (R258): its task retires with DONE. -/
def State.failJob (s : State) (p : Fin 8) (k : Fin 17) (status : Nat) : State :=
  match s.taskOn (accUnit p.val k.val) with
  | none => s
  | some (q, i) => s.finishJob p k ⟨q, i, status, 0, false, 0, 0⟩ ksDone

/-- The task on unit k of pack p is aborted by Sheepdog (R97, R258): its completion token is still sent. -/
def State.abortJob (s : State) (p : Fin 8) (k : Fin 17) : State :=
  match s.taskOn (accUnit p.val k.val) with
  | none => s
  | some (q, i) => s.finishJob p k ⟨q, i, jsAborted, 0, false, 0, 0⟩ ksAborted

/-! Samples -/

/-- The components of a c16 sample. -/
def reOf (c : Nat) : Int := sgn 16 c
def imOf (c : Nat) : Int := sgn 16 (c / 2 ^ 16)
/-- A sample from its components, each clamped (R260), and how many were clamped. -/
def packC (re im : Int) : Nat := uns 16 (clampS 16 re) + 2 ^ 16 * uns 16 (clampS 16 im)
def clampedC (re im : Int) : Nat := b01 (clampS 16 re != re) + b01 (clampS 16 im != im)

/-- The c16 samples of bytes, and back. -/
def samplesOf : List Byte → List Nat
  | a :: b :: c :: d :: r => leNat [a, b, c, d] :: samplesOf r
  | _ => []
def sampleBytes (l : List Nat) : List Byte := l.flatMap (leBytes 4)

/-- Signed 16-bit values of bytes. -/
def shortsOf : List Byte → List Nat
  | a :: b :: r => leNat [a, b] :: shortsOf r
  | _ => []

/-! Angles -/

/-- π × 2^80, rounded. -/
def piFix : Int := 3797952473636338580787994

/-- A product of two numbers of 2^-80. -/
def mulFix (a b : Int) : Int := a * b / (2 ^ 80 : Nat)

/-- The terms from j on of the cosine series (off 0) or sine series (off 1), x2 being x². -/
def trigSeries (x2 : Int) (off : Nat) : Nat → Nat → Int → Int
  | 0, _, _ => 0
  | n + 1, j, t => t + trigSeries x2 off n (j + 1) (-(mulFix t x2) / ((2 * j + 1 + off) * (2 * j + 2 + off) : Nat))

/-- An angle of num/den turns, between −π and π, in 2^-80. -/
def angleFix (num : Int) (den : Nat) : Int :=
  let r := num % (den : Nat)
  let r := if (den : Nat) < 2 * r then r - (den : Nat) else r
  2 * piFix * r / (den : Nat)

/-- Cosine and sine of num/den turns, in 2^-80, within 2^-70. -/
def cosFix (num : Int) (den : Nat) : Int :=
  let x := angleFix num den
  trigSeries (mulFix x x) 0 30 0 (2 ^ 80 : Nat)
def sinFix (num : Int) (den : Nat) : Int :=
  let x := angleFix num den
  trigSeries (mulFix x x) 1 30 0 x

/-- Ceiling of a division. -/
def cdiv (a b : Nat) : Nat := (a + b - 1) / b

end Sys2Proof.Machine
end

