-- ==== Sys2Proof/Machine/Default.lean ====
section
/-!
DEFINITION. Default.lean: the return of entries to their defaults (R420, R449, R450): which entries an event covers, the
indicators it sets and the record it writes.
-/
namespace Sys2Proof.Machine

/-- Every unit of the device (R17). -/
def allUnits : List Nat := (List.range 1024).filter (fun u => unitKind u != 0)
/-- A unit and its descendants (R444). -/
def unitsUnder (u : Nat) : List Nat := allUnits.filter (unitUnder u)

/-- Order of the reset kinds, weakest first (R444). -/
def RKind.rank : RKind → Nat
  | .unit => 0 | .part => 1 | .warm => 2 | .pin => 3 | .por => 4

/-- Whether a class returns to its default at a reset of a kind (table Retention by reset kind). -/
def defaultsAt (k : RKind) : Cls → Bool
  | .e => true
  | .k => decide (1 ≤ k.rank)
  | .w => decide (3 ≤ k.rank)
  | .n | .f => false

/-- CLASSES of an event, as in `OD_Un_DFLT` [47:44] (R420): E 8, K 4, W 2, N 1. -/
def classesAt (k : RKind) : Nat := 8 + (if 1 ≤ k.rank then 4 else 0) + (if 3 ≤ k.rank then 2 else 0)

/-- CAUSE of an event (table Field encodings of the per-unit block). -/
def dcP3Wake : Nat := 5
def dcPurge : Nat := 6
def dcNvLost : Nat := 7

/-- Every entry that p picks returns to its default; p sees the object, the place and the key. -/
def State.dropEntries (s : State) (p : Row → List Nat → Nat → Bool) : State :=
  { s with od := s.od.filter (fun e => match lookupObj e.1 with | some (r, ix) => !(p r ix e.1) | none => true) }

/-- The indicators and the record of a defaulting event (R420). -/
def State.noteDefaulted (s : State) (us : List Nat) (classes cause : Nat) : State :=
  if us.isEmpty then s
  else
    let s := s.record 6 (w64 cause :: w64 classes :: unitBitmap us)
    let q := s.lastSeq
    us.foldl (fun s u =>
      let v := s.ent (Key.odDflt u)
      (s.setFlag (Key.odDefaulted (u / 64)) (u % 64) true).setEntN (Key.odDflt u)
        (min (bf v 63 48 + 1) 65535 * 2 ^ 48 + classes * 2 ^ 44 + cause * 2 ^ 40 + q)) s

/-- The record of a PIN reset or POR and what OD_Un_DFLT of every unit then holds (R420): COUNT 1. -/
def State.noteDefaultAll (s : State) (k : RKind) : State :=
  let s := s.record 6 (w64 k.rank :: w64 (classesAt k) :: unitBitmap allUnits)
  { s with dfltAll := w64 (2 ^ 48 + classesAt k * 2 ^ 44 + k.rank * 2 ^ 40 + s.lastSeq) }

/-- Whether an entry of the per-carrier range is one of the carriers' given (R450). -/
def ofCarriers (cs : List Nat) (k : Nat) : Bool := match carrierOfKey k with | some c => cs.contains c | none => false

/-- The entries of units in scope and of carriers return to their defaults as a kind states (R449, R450); per-carrier blocks only
where their carriers are named. -/
def State.defaultScope (s : State) (k : RKind) (us cs : List Nat) : State :=
  s.dropEntries (fun r ix key => defaultsAt k r.cls &&
    (match carrierOfKey key with | some c => cs.contains c | none => us.contains (ownerUnit r ix)))

/-- Every entry returns to its default as a kind states. -/
def State.defaultAll (s : State) (k : RKind) : State := s.dropEntries (fun r _ _ => defaultsAt k r.cls)

end Sys2Proof.Machine
end

