-- ==== Sys2Proof/Machine/CodingCore.lean ====
section
/-!
DEFINITION. CodingCore.lean: what the coding units compute (R282 to R310): the parameter block, the sizes of TS 38.212 and
TS 36.212, rate matching, scrambling, CRCs, the LDPC decoder, HARQ slots and the iteration bank.
-/
namespace Sys2Proof.Machine

/-- Bits of bytes, the most significant of each first. -/
def bitsOf (bs : List Byte) : List Bool :=
  bs.flatMap (fun b => (List.range 8).map (fun i => b.toNat / 2 ^ (7 - i) % 2 == 1))

/-- Remainder of a CRC of n bits with generator g over bits, from an initial remainder. -/
def crcFrom (n g init : Nat) (bits : List Bool) : Nat :=
  bits.foldl (fun r b =>
    let top := r / 2 ^ (n - 1) % 2
    let r' := r * 2 % 2 ^ n
    if top + b01 b = 1 then r' ^^^ g else r') init

/-- The generators of TS 38.212 clause 5.1. -/
def crc24A (l : List Bool) : Nat := crcFrom 24 0x864CFB 0 l
def crc24B (l : List Bool) : Nat := crcFrom 24 0x800063 0 l
def crc16T (l : List Bool) : Nat := crcFrom 16 0x1021 0 l
def crc11T (l : List Bool) : Nat := crcFrom 11 0x621 0 l
def crc6T (l : List Bool) : Nat := crcFrom 6 0x21 0 l

/-- A number as n bits, most significant first. -/
def numBits (n x : Nat) : List Bool := (List.range n).map (fun i => x / 2 ^ (n - 1 - i) % 2 == 1)

/-- One step of the two registers of the length-31 Gold sequence (TS 38.211 clause 5.2.1). -/
def goldStep (q : Nat × Nat) : Nat × Nat :=
  (q.1 / 2 + (q.1 / 8 + q.1) % 2 * 2 ^ 30, q.2 / 2 + (q.2 / 8 + q.2 / 4 + q.2 / 2 + q.2) % 2 * 2 ^ 30)
/-- n bits of the sequence from the registers on. -/
def goldFrom : Nat → Nat × Nat → List Bool
  | 0, _ => []
  | n + 1, q => ((q.1 + q.2) % 2 == 1) :: goldFrom n (goldStep q)
/-- Bits off to off + n of c for an initialisation. -/
def gold (cinit off n : Nat) : List Bool :=
  goldFrom n ((List.range (1600 + off)).foldl (fun q _ => goldStep q) (1, cinit % 2 ^ 31))

/-! The parameter block (table Transport-block parameter block) -/

/-- A parsed block. -/
structure Tb where
  tbs : Nat
  g : Nat
  firstCb : Nat
  ncb : Nat
  cTx : Nat
  rFirst : Nat
  bg : Nat
  qm : Nat
  nl : Nat
  rv : Nat
  nref : Nat
  cinit : Nat
  f28 : U64
  itMax : Nat
  offset : Nat
  seq : Nat
  bank : U64
  slotNcb : Nat
  amp : Nat
  harq : Nat
  htag : Nat
deriving DecidableEq, Repr

def le (b : List Byte) (off n : Nat) : Nat := leNat ((b.drop off).take n)

def tbOf (b : List Byte) : Tb :=
  ⟨le b 0 4, le b 4 4, le b 8 2, le b 10 2, le b 12 2, le b 14 2, le b 16 1, le b 17 1, le b 18 1, le b 19 1, le b 20 4,
   le b 24 4, w64 (le b 28 1), le b 29 1, le b 30 1, le b 31 1, w64 (le b 32 2), le b 34 2, le b 36 2, le b 40 8, le b 48 4⟩

def Tb.scr (t : Tb) : Bool := bit t.f28 7
def Tb.harqNew (t : Tb) : Bool := bit t.f28 6
def Tb.wb (t : Tb) : Nat := bf t.f28 5 4
def Tb.mod (t : Tb) : Bool := bit t.f28 3
def Tb.inShift (t : Tb) : Nat := bf t.f28 2 0
def Tb.bankEn (t : Tb) : Bool := bit t.bank 15
def Tb.carrier (t : Tb) : Nat := bf t.bank 8 0

/-! Sizes (R286) -/

/-- The lifting sizes of TS 38.212 table 5.3.2-1. -/
def liftSizes : List Nat :=
  ([2, 3, 5, 7, 9, 11, 13, 15].flatMap (fun a => (List.range 8).map (fun j => a * 2 ^ j))).filter (· ≤ 384)
/-- The interleaver sizes of TS 36.212 table 5.1.3-3. -/
def turboSizes : List Nat :=
  (List.range 60).map (fun i => 40 + 8 * i) ++ (List.range 32).map (fun i => 528 + 16 * i) ++
  (List.range 32).map (fun i => 1056 + 32 * i) ++ (List.range 64).map (fun i => 2112 + 64 * i)

def minOf (l : List Nat) : Nat := (leastBy id l).getD 0
def maxOf (l : List Nat) : Nat := l.foldl max 0

/-- Everything a job's block derives: CRC length, codeblocks, K′ and K by codeblock, lifting size, buffer length, start. -/
structure Dims where
  crc : Nat
  c : Nat
  kp : Nat
  k : Nat
  zc : Nat
  n : Nat
  nb : Nat
  k0 : Nat
  cMinus : Nat
  kMinus : Nat
  fill : Nat
deriving DecidableEq, Repr

/-- Derivation for LDPC (TS 38.212 clauses 5.2.2, 5.3.2, 5.4.2.1). -/
def ldDims (t : Tb) : Dims :=
  let crc := if 3824 < t.tbs then 24 else 16
  let b := t.tbs + crc
  let kcb := if t.bg = 1 then 8448 else 3840
  let c := if b ≤ kcb then 1 else cdiv b (kcb - 24)
  let kp := if c = 1 then b else (b + 24 * c) / c
  let kb := if t.bg = 1 then 22 else if 640 < b then 10 else if 560 < b then 9 else if 192 < b then 8 else 6
  let zc := minOf (liftSizes.filter (fun z => kp ≤ kb * z))
  let k := (if t.bg = 1 then 22 else 10) * zc
  let n := (if t.bg = 1 then 66 else 50) * zc
  let nb := if t.nref = 0 then n else min n t.nref
  let num := match t.bg, t.rv with
    | 1, 1 => 17 | 1, 2 => 33 | 1, 3 => 56 | 2, 1 => 13 | 2, 2 => 25 | 2, 3 => 43 | _, _ => 0
  ⟨crc, c, kp, k, zc, n, nb, num * nb / n * zc, 0, 0, 0⟩

/-- Derivation for turbo codes (TS 36.212 clauses 5.1.2, 5.1.4.1). `nb` is for the greater size. -/
def tcDims (t : Tb) : Dims :=
  let b := t.tbs + 24
  let c := if b ≤ 6144 then 1 else cdiv b 6120
  let bp := if c = 1 then b else b + 24 * c
  let kplus := minOf (turboSizes.filter (fun k => bp ≤ c * k))
  let kminus := if c = 1 then 0 else maxOf (turboSizes.filter (· < kplus))
  let cminus := if c = 1 then 0 else (c * kplus - bp) / (kplus - kminus)
  let kw := 3 * 32 * cdiv (kplus + 4) 32
  let nb := if t.nref = 0 then kw else min kw t.nref
  ⟨24, c, kplus, kplus, 0, kw, nb, 0, cminus, kminus, (c - cminus) * kplus + cminus * kminus - bp⟩

/-- K of codeblock r of a turbo job, its buffer length and start. -/
def tcK (d : Dims) (r : Nat) : Nat := if r < d.cMinus then d.kMinus else d.k
def tcKw (k : Nat) : Nat := 3 * 32 * cdiv (k + 4) 32
def tcNcb (t : Tb) (k : Nat) : Nat := if t.nref = 0 then tcKw k else min (tcKw k) t.nref
def tcK0 (t : Tb) (k : Nat) : Nat :=
  let r := cdiv (k + 4) 32
  r * (2 * cdiv (tcNcb t k) (8 * r) * t.rv + 2)

/-- E of transmitted codeblock j (TS 38.212 clause 5.4.2.1, TS 36.212 clause 5.1.4.1.2). -/
def eOf (t : Tb) (d : Dims) (j : Nat) : Nat :=
  let c := if t.cTx = 0 then d.c else t.cTx
  let u := t.nl * t.qm
  let g := t.g / u
  if j < c - g % c then u * (g / c) else u * cdiv g c
/-- The sum of E over transmitted codeblocks before j. -/
def eBefore (t : Tb) (d : Dims) (j : Nat) : Nat := ((List.range j).map (eOf t d)).sum

/-! Rate matching -/

/-- Whether buffer position j of an LDPC codeblock is a filler bit. -/
def ldFiller (d : Dims) (j : Nat) : Bool := decide (d.kp ≤ j + 2 * d.zc) && decide (j + 2 * d.zc < d.k)

/-- The columns of the sub-block interleaver of TS 36.212 table 5.1.4-1. -/
def subPerm (i : Nat) : Nat := ((List.range 5).map (fun b => i / 2 ^ b % 2 * 2 ^ (4 - b))).sum
/-- Where buffer position j of a turbo codeblock of size k comes from: stream and index, none for a dummy. -/
def tcSource (k j : Nat) : Option (Nat × Nat) :=
  let d := k + 4
  let r := cdiv d 32
  let kp := 32 * r
  let nd := kp - d
  let (st, i) := if j < kp then (0, j) else if (j - kp) % 2 = 0 then (1, (j - kp) / 2) else (2, (j - kp) / 2)
  let y := if st = 2 then (subPerm (i / r) + 32 * (i % r) + 1) % kp else subPerm (i / r) + 32 * (i % r)
  if y < nd then none else some (st, y - nd)
/-- Whether position j holds nothing: a dummy, or a filler bit of streams 0 and 1. -/
def tcNull (k fill j : Nat) : Bool :=
  match tcSource k j with
  | none => true
  | some (st, i) => decide (st < 2) && decide (i < fill)

/-- The buffer positions that bits 0 to e − 1 of a codeblock take from k0 on, those that hold nothing being skipped. -/
def rmOrder (nb k0 e : Nat) (skip : Nat → Bool) : List Nat :=
  let ps := ((List.range nb).map (fun i => (k0 + i) % nb)).filter (fun j => !skip j)
  if ps.isEmpty then [] else (List.range e).map (fun i => ps.getD (i % ps.length) 0)

/-- Bit interleaving (TS 38.212 clause 5.4.2.2) and its inverse. -/
def bitIl {α : Type} [Inhabited α] (qm : Nat) (e : List α) : List α :=
  (List.range e.length).map (fun i => e.getD (i % qm * (e.length / qm) + i / qm) default)
def bitDeil {α : Type} [Inhabited α] (qm : Nat) (f : List α) : List α :=
  let w := f.length / qm
  (List.range f.length).map (fun i => f.getD (i / w + i % w * qm) default)

/-- Steps 1 and 2 of R288. -/
def softIn (shift : Nat) (neg : List Bool) (xs : List Int) : List Int :=
  (xs.zip neg).map (fun q => let v : Int := max (-31) (min 31 (q.1 / (2 ^ shift : Nat))); if q.2 then -v else v)

/-- Step 4 of R288: values added at their positions, saturating at ±31. -/
def accumulate (nb : Nat) (order : List Nat) (vs : List Int) : List Int :=
  ((order.zip vs).foldl (fun (a : Array Int) q => a.modify q.1 (fun o => max (-31) (min 31 (o + q.2))))
    (Array.replicate nb 0)).toList

/-! The LDPC decoder (R289, R290, R292) -/

/-- Columns of a base graph, and its columns before the extension. -/
def bgCols (bg : Nat) : Nat := if bg = 1 then 68 else 52
def bgRows (bg : Nat) : Nat := if bg = 1 then 46 else 42
def bgCore (bg : Nat) : Nat := if bg = 1 then 26 else 14

/-- The variables of the check of row i at lift z. -/
def checkVars (bg zc i z : Nat) : List Nat :=
  (List.range (bgCols bg)).filterMap (fun j => (Config.baseGraph bg zc i j).map (fun s => j * zc + (z + s) % zc))

/-- The active rows of a decoder input (R290). -/
def activeRows (bg zc : Nat) (v : List Int) : Nat :=
  minOf ((List.range (bgRows bg + 1)).filter (fun m => decide (4 ≤ m) && (List.range (bgRows bg - 4)).all (fun i =>
    decide (4 + i < m) || ((v.drop ((bgCore bg + i) * zc)).take zc).all (· == 0))))

def sat127 (x : Int) : Int := max (-127) (min 127 x)

/-- A check's new messages from the values of its variables less its old messages. -/
def checkMsgs (off : Nat) (q : List Int) : List Int :=
  (List.range q.length).map (fun i =>
    let rest := q.eraseIdx i
    let m := minOf (rest.map Int.natAbs)
    let neg := (rest.filter (· < 0)).length % 2 == 1
    let a : Int := ((m - off : Nat) : Int)
    if neg then -a else a)

/-- One iteration: rows ascending, each check updating its variables. A posteriori values by variable, messages by check. -/
def ldIteration (bg zc m off : Nat) (st : List Int × Tab (List Int)) : List Int × Tab (List Int) :=
  let r := (List.range (m * zc)).foldl (fun (st : Array Int × Tab (List Int)) c =>
    let vs := checkVars bg zc (c / zc) (c % zc)
    let old := tget [] st.2 c
    let q := vs.zipIdx.map (fun v => sat127 (st.1.getD v.1 0 - old.getD v.2 0))
    let r := checkMsgs off q
    ((vs.zip (q.zip r)).foldl (fun a x => a.setIfInBounds x.1 (sat127 (x.2.1 + x.2.2))) st.1, tput st.2 c r)) (st.1.toArray, st.2)
  (r.1.toList, r.2)

/-- Hard decisions, and the unsatisfied checks among the active rows. -/
def hardBits (a : List Int) : List Bool := a.map (· < 0)
def unsatisfied (bg zc m : Nat) (h : List Bool) : Nat :=
  ((List.range (m * zc)).filter (fun c =>
    ((checkVars bg zc (c / zc) (c % zc)).filter (fun v => h.getD v false)).length % 2 == 1)).length

/-! LDPC encoding (TS 38.212 clause 5.3.2) -/

/-- The sum of the code's bits in the check of row i at lift z, of those known so far. -/
def rowSum (bg zc i z : Nat) (c : List Bool) : Bool :=
  ((checkVars bg zc i z).filter (fun v => c.getD v false)).length % 2 == 1

/-- The shift that the first parity column keeps when the four core rows are added: it occurs an odd number of times there. -/
def coreShift (bg zc : Nat) : Nat :=
  let l := (List.range 4).filterMap (fun i => Config.baseGraph bg zc i (bgCore bg - 4))
  (l.find? (fun a => l.count a % 2 == 1)).getD 0

/-- The codeword of systematic bits: the core rows added give the first parity column, rows 0, 1 and 3 the other core columns, and row
i the extension column it ends with, so that every check holds. -/
def ldEncode (bg zc : Nat) (sys : List Bool) : List Bool :=
  let a := coreShift bg zc
  let first := (List.range zc).map (fun x =>
    (List.range 4).foldl (fun t i => t != rowSum bg zc i ((x + zc - a % zc) % zc) sys) false)
  (List.range (bgRows bg - 1)).foldl (fun c q =>
    let i := if q = 2 then 3 else if q < 2 then q else q + 1
    let col := bgCore bg - 4 + q + 1
    let sh := (Config.baseGraph bg zc i col).getD 0
    c ++ (List.range zc).map (fun x => rowSum bg zc i ((x + zc - sh % zc) % zc) c)) (sys ++ first)

/-! HARQ slots (R294 to R296) -/

/-- Size of a slot. -/
def harqSlot (nb : Nat) : Nat := 64 * cdiv (64 + 3 * cdiv nb 4) 64
/-- LLR j of a slot's groups. -/
def harqGet (b : List Byte) (j : Nat) : Int := sgn 6 (le b (3 * (j / 4)) 3 / 2 ^ (6 * (j % 4)))
/-- The groups of nb LLRs. -/
def harqPut (v : List Int) : List Byte :=
  (List.range (cdiv v.length 4)).flatMap (fun g =>
    leBytes 3 (((List.range 4).map (fun i => uns 6 (v.getD (4 * g + i) 0) * 2 ^ (6 * i))).sum))

/-! CRCs of transport blocks -/

/-- Whether bits with their CRC of so many bits at the end pass. -/
def tbCrcOk (len : Nat) (l : List Bool) : Bool := if len = 24 then crc24A l == 0 else crc16T l == 0

/-! The iteration bank (R298 to R303) -/

def bankInit : Bank := ⟨0, false, 0, 0, 0, 0, 0, 0⟩
def State.bankOf (s : State) (c b : Nat) : Bank := tget bankInit s.bank8 (c * 8 + b)
def State.setBank (s : State) (c b : Nat) (x : Bank) : State := { s with bank8 := tput s.bank8 (c * 8 + b) x }

/-- ACLK cycles as a computed-time length: 1,310.72 MHz. -/
def aclkT (n : Nat) : Nat := n * 3276800000

/-- Codeblock statuses (table Codeblock status). -/
def csPass : Nat := 0
def csCrcFail : Nat := 1
def csMaxIt : Nat := 2
def csGaveUp : Nat := 3
def csBankEmpty : Nat := 4
def csLate : Nat := 5
def csNoTime : Nat := 6

/-- A square root rounded down, of a number below 4^n. -/
def isqrt : Nat → Nat → Nat
  | 0, _ => 0
  | n + 1, x => let r := 2 * isqrt n (x / 4); if (r + 1) * (r + 1) ≤ x then r + 1 else r

/-- floor(amp × x ÷ √m) of a component (R305). -/
def ampComp (amp m : Nat) (x : Int) : Int :=
  let q := amp * amp * x.natAbs * x.natAbs
  let r := isqrt 40 (q / m)
  if 0 ≤ x then r else -((if r * r * m < q then r + 1 else r : Nat) : Int)

/-- The components of a constellation point of TS 38.211 clause 5.1, and the square of its normalisation. -/
def pamOf : List Bool → Int
  | [] => 1
  | [a] => if a then -1 else 1
  | a :: r => (if a then -1 else 1) * ((2 ^ r.length : Nat) - pamOf r)
def qamPoint (qm : Nat) (b : List Bool) : Int × Int :=
  if qm = 1 then (pamOf (b.take 1), pamOf (b.take 1))
  else
    let ev := fun (o : Nat) => (List.range (qm / 2)).map (fun i => b.getD (2 * i + o) false)
    (pamOf (ev 0), pamOf (ev 1))
def qamNorm (qm : Nat) : Nat := match qm with | 4 => 10 | 6 => 42 | 8 => 170 | _ => 2

end Sys2Proof.Machine
end

