-- ==== Sys2Proof/Machine/Crypto.lean ====
section
/-!
DEFINITION. Crypto.lean: the ciphering and integrity algorithms of the table Supported protocols (R325, R329): 128-NEA1 and NIA1
(SNOW 3G), 128-NEA2 and NIA2 (AES), 128-NEA3 and NIA3 (ZUC), as their standards give them (assumption 38, PRESUMED).
-/
namespace Sys2Proof.Machine

/-! Fields of 2^8 elements -/

/-- Multiplication by x modulo a polynomial of degree 8 whose low bits are c. -/
def mulX (c v : Nat) : Nat := if 128 ≤ v then (v * 2 % 256) ^^^ c else v * 2
def mulXPow (c : Nat) : Nat → Nat → Nat
  | 0, v => v
  | n + 1, v => mulX c (mulXPow c n v)
/-- The product of two elements. -/
def gmul (c a b : Nat) : Nat := (List.range 8).foldl (fun r i => if b / 2 ^ i % 2 = 1 then r ^^^ mulXPow c i a else r) 0
def gpow (c a : Nat) : Nat → Nat
  | 0 => 1
  | n + 1 => gmul c (gpow c a n) a
def gsq (c a : Nat) : Nat := gmul c a a
/-- The element's inverse, zero for zero: its 254th power. -/
def ginv (a : Nat) : Nat := (List.range 6).foldl (fun r _ => gsq 0x1B (gmul 0x1B r a)) (gsq 0x1B a)
/-- A rotation to the left of n bits. -/
def rotl (n k x : Nat) : Nat := x * 2 ^ k % 2 ^ n ||| x % 2 ^ n / 2 ^ (n - k)

/-- The S-box of AES. -/
def sboxAes (x : Nat) : Nat := let b := ginv x; b ^^^ rotl 8 1 b ^^^ rotl 8 2 b ^^^ rotl 8 3 b ^^^ rotl 8 4 b ^^^ 0x63
/-- The S-box SQ of SNOW 3G: a Dickson polynomial. -/
def sboxQ (x : Nat) : Nat := ([1, 9, 13, 15, 33, 41, 45, 47, 49].map (gpow 0x69 x)).foldl (· ^^^ ·) 0x25

/-! AES -/

/-- Byte i of a word of four, most significant first. -/
def byteAt (w i : Nat) : Nat := w / 2 ^ (8 * (3 - i)) % 256
def wordOf (l : List Nat) : Nat := l.foldl (fun a b => a * 256 + b) 0
def subWord (f : Nat → Nat) (w : Nat) : Nat := wordOf ((List.range 4).map (fun i => f (byteAt w i)))

/-- The words of the key schedule from word i on, last first. -/
def aesKeys : Nat → List Nat → List Nat
  | 0, l => l
  | n + 1, l =>
    let i := l.length
    let t := l.headD 0
    let t := if i % 4 = 0 then subWord sboxAes (rotl 32 8 t) ^^^ mulXPow 0x1B (i / 4 - 1) 1 * 2 ^ 24 else t
    aesKeys n ((l.getD 3 0 ^^^ t) :: l)
/-- One column of MixColumns. -/
def mixCol (c w : Nat) : Nat :=
  wordOf ((List.range 4).map (fun i =>
    mulX c (byteAt w i) ^^^ byteAt w ((i + 1) % 4) ^^^ mulX c (byteAt w ((i + 1) % 4)) ^^^ byteAt w ((i + 2) % 4) ^^^ byteAt w ((i + 3) % 4)))
def shiftRows (s : List Nat) : List Nat :=
  (List.range 4).map (fun c => wordOf ((List.range 4).map (fun r => byteAt (s.getD ((c + r) % 4) 0) r)))
def words32 (b : List Byte) : List Nat := (List.range ((b.length + 3) / 4)).map (fun i => beNat ((b.drop (4 * i)).take 4 ++ List.replicate (4 * i + 4 - b.length) 0))
def bytes32 (l : List Nat) : List Byte := l.flatMap (beBytes 4)
/-- The block of 16 bytes under a key. -/
def aesBlock (key blk : List Byte) : List Byte :=
  let ks := (aesKeys 40 (words32 key).reverse).reverse
  let add := fun (r : Nat) (s : List Nat) => (List.range 4).map (fun i => s.getD i 0 ^^^ ks.getD (4 * r + i) 0)
  let s := (List.range 9).foldl (fun s r => add (r + 1) ((shiftRows (s.map (subWord sboxAes))).map (mixCol 0x1B))) (add 0 (words32 blk))
  bytes32 (add 10 (shiftRows (s.map (subWord sboxAes))))

def xorBytes (a b : List Byte) : List Byte := (a.zip b).map (fun p => p.1 ^^^ p.2)

/-- CMAC of a message under AES. -/
def aesCmac (key msg : List Byte) : List Byte :=
  let dbl := fun (x : Nat) => if 2 ^ 127 ≤ x then (x * 2 % 2 ^ 128) ^^^ 0x87 else x * 2
  let k1 := dbl (beNat (aesBlock key (List.replicate 16 0)))
  let n := max 1 ((msg.length + 15) / 16)
  let whole := msg.length != 0 && msg.length % 16 == 0
  let m := if whole then msg else msg ++ [128] ++ List.replicate (16 * n - msg.length - 1) 0
  let last := xorBytes (m.drop (16 * (n - 1))) (beBytes 16 (if whole then k1 else dbl k1))
  let x := (List.range (n - 1)).foldl (fun x i => aesBlock key (xorBytes x ((m.drop (16 * i)).take 16))) (List.replicate 16 0)
  aesBlock key (xorBytes x last)

/-! SNOW 3G -/

/-- The shift register, s0 first, and the three registers of the automaton. -/
structure Snow where
  s : List Nat
  r1 : Nat
  r2 : Nat
  r3 : Nat
def Snow.at_ (x : Snow) (i : Nat) : Nat := x.s.getD i 0
def mixWith (c : Nat) (f : Nat → Nat) (w : Nat) : Nat :=
  let b := fun i => f (byteAt w i)
  let m := fun i => mulX c (b i)
  wordOf [m 0 ^^^ b 1 ^^^ b 2 ^^^ m 3 ^^^ b 3, m 0 ^^^ b 0 ^^^ m 1 ^^^ b 2 ^^^ b 3, b 0 ^^^ m 1 ^^^ b 1 ^^^ m 2 ^^^ b 3,
    b 0 ^^^ b 1 ^^^ m 2 ^^^ b 2 ^^^ m 3]
def mulAlpha (c : Nat) : Nat := wordOf ([23, 245, 48, 239].map (fun n => mulXPow 0xA9 n c))
def divAlpha (c : Nat) : Nat := wordOf ([16, 39, 6, 64].map (fun n => mulXPow 0xA9 n c))
/-- The automaton is clocked: its output word. -/
def Snow.clockFsm (x : Snow) : Snow × Nat :=
  let f := (x.at_ 15 + x.r1) % 2 ^ 32 ^^^ x.r2
  ({ x with r1 := (x.r2 + (x.r3 ^^^ x.at_ 5)) % 2 ^ 32, r2 := mixWith 0x1B sboxAes x.r1, r3 := mixWith 0x69 sboxQ x.r2 }, f)
/-- The register is clocked, with the automaton's word in initialization. -/
def Snow.clock (x : Snow) (f : Nat) : Snow :=
  let v := (x.at_ 0 * 256 % 2 ^ 32) ^^^ mulAlpha (byteAt (x.at_ 0) 0) ^^^ x.at_ 2 ^^^ (x.at_ 11 / 256) ^^^ divAlpha (byteAt (x.at_ 11) 3) ^^^ f
  { x with s := x.s.drop 1 ++ [v] }
def snowWords : Nat → Snow → List Nat
  | 0, _ => []
  | n + 1, x => let r := x.clockFsm; (r.2 ^^^ x.at_ 0) :: snowWords n (r.1.clock 0)
/-- n words of keystream from a key and an initialization vector, IV0 first. -/
def snow3g (key : List Byte) (iv : Nat → Nat) (n : Nat) : List Nat :=
  let k := fun i => (words32 key).getD (3 - i) 0
  let o := 2 ^ 32 - 1
  let x : Snow := ⟨[k 0 ^^^ o, k 1 ^^^ o, k 2 ^^^ o, k 3 ^^^ o, k 0, k 1, k 2, k 3, k 0 ^^^ o, k 1 ^^^ o ^^^ iv 3, k 2 ^^^ o ^^^ iv 2, k 3 ^^^ o,
    k 0 ^^^ iv 1, k 1, k 2, k 3 ^^^ iv 0], 0, 0, 0⟩
  let x := (List.range 32).foldl (fun x _ => let r := x.clockFsm; r.1.clock r.2) x
  snowWords n (x.clockFsm.1.clock 0)

/-- The product of two elements of the field of 2^64 elements of 128-NIA1. -/
def mul64 (a b : Nat) : Nat :=
  ((List.range 64).foldl (fun (r : Nat × Nat) i => (if b / 2 ^ i % 2 = 1 then r.1 ^^^ r.2 else r.1,
    if 2 ^ 63 ≤ r.2 then (r.2 * 2 % 2 ^ 64) ^^^ 0x1B else r.2 * 2)) (0, a)).1

/-! ZUC -/

structure Zuc where
  s : List Nat
  r1 : Nat
  r2 : Nat
def Zuc.at_ (x : Zuc) (i : Nat) : Nat := x.s.getD i 0
/-- Words X0 to X3 of the bit reorganization. -/
def Zuc.br (x : Zuc) (i : Nat) : Nat :=
  let h := fun j => x.at_ j / 2 ^ 15
  let l := fun j => x.at_ j % 2 ^ 16
  match i with
  | 0 => h 15 * 2 ^ 16 + l 14
  | 1 => l 11 * 2 ^ 16 + h 9
  | 2 => l 7 * 2 ^ 16 + h 5
  | _ => l 2 * 2 ^ 16 + h 0
/-- A linear transform: the exclusive or of rotations. -/
def zucL (ks : List Nat) (x : Nat) : Nat := (ks.map (fun k => rotl 32 k x)).foldl (· ^^^ ·) x
def zucS (w : Nat) : Nat := wordOf ((List.range 4).map (fun i => (Config.zucSbox (i % 2) (byteAt w i)).toNat))
/-- The automaton F: its word, and the machine after it. -/
def Zuc.f (x : Zuc) : Zuc × Nat :=
  let w := ((x.br 0 ^^^ x.r1) + x.r2) % 2 ^ 32
  let w1 := (x.r1 + x.br 1) % 2 ^ 32
  let w2 := x.r2 ^^^ x.br 2
  ({ x with r1 := zucS (zucL [2, 10, 18, 24] (w1 % 2 ^ 16 * 2 ^ 16 + w2 / 2 ^ 16)),
            r2 := zucS (zucL [8, 14, 22, 30] (w2 % 2 ^ 16 * 2 ^ 16 + w1 / 2 ^ 16)) }, w)
/-- The register is clocked, u being added in initialization. -/
def Zuc.clock (x : Zuc) (u : Nat) : Zuc :=
  let v := (2 ^ 15 * x.at_ 15 + 2 ^ 17 * x.at_ 13 + 2 ^ 21 * x.at_ 10 + 2 ^ 20 * x.at_ 4 + 257 * x.at_ 0 + u) % (2 ^ 31 - 1)
  { x with s := x.s.drop 1 ++ [if v = 0 then 2 ^ 31 - 1 else v] }
def zucWords : Nat → Zuc → List Nat
  | 0, _ => []
  | n + 1, x => let r := x.f; (r.2 ^^^ x.br 3) :: zucWords n (r.1.clock 0)
/-- The constants d0 to d15 of the key loading. -/
def zucD : List Nat := [0x44D7, 0x26BC, 0x626B, 0x135E, 0x5789, 0x35E2, 0x7135, 0x09AF, 0x4D78, 0x2F13, 0x6BC4, 0x1AF1, 0x5E26, 0x3C4D, 0x789A, 0x47AC]
/-- n words of keystream from a key and an initialization vector of 16 bytes. -/
def zuc (key : List Byte) (iv : List Nat) (n : Nat) : List Nat :=
  let x : Zuc := ⟨(List.range 16).map (fun i => (key.getD i 0).toNat * 2 ^ 23 + zucD.getD i 0 * 2 ^ 8 + iv.getD i 0), 0, 0⟩
  let x := (List.range 32).foldl (fun x _ => let r := x.f; r.1.clock (r.2 / 2)) x
  zucWords n (x.f.1.clock 0)

/-! Ciphering and integrity of a PDU: algorithm 0 to 3, key, COUNT, BEARER, direction -/

/-- What the algorithms take besides the key. -/
structure CryptPar where
  alg : Nat
  count : Nat
  bearer : Nat
  dir : Nat

/-- n bytes of keystream. -/
def CryptPar.stream (p : CryptPar) (key : List Byte) (n : Nat) : List Byte :=
  match p.alg with
  | 1 =>
    let b := p.bearer * 2 ^ 27 + p.dir * 2 ^ 26
    (bytes32 (snow3g key (fun i => if i % 2 = 1 then p.count else b) ((n + 3) / 4))).take n
  | 2 => ((List.range ((n + 15) / 16)).flatMap (fun i =>
      aesBlock key (beBytes 16 (p.count * 2 ^ 96 + p.bearer * 2 ^ 91 + p.dir * 2 ^ 90 + i)))).take n
  | 3 =>
    let c := (beBytes 4 p.count).map (·.toNat) ++ [p.bearer * 8 + p.dir * 4, 0, 0, 0]
    (bytes32 (zuc key (c ++ c) ((n + 3) / 4))).take n
  | _ => List.replicate n 0

/-- The 4 bytes of MAC-I of a message. -/
def CryptPar.mac (p : CryptPar) (key msg : List Byte) : List Byte :=
  match p.alg with
  | 1 =>
    let fresh := p.bearer * 2 ^ 27
    let z := snow3g key (fun i => match i with
      | 0 => (p.dir * 2 ^ 15) ^^^ fresh | 1 => (p.dir * 2 ^ 31) ^^^ p.count | 2 => fresh | _ => p.count) 5
    let w := fun i => z.getD i 0
    let pp := w 0 * 2 ^ 32 + w 1
    let blocks := (List.range ((msg.length + 7) / 8)).map (fun i => beNat ((msg.drop (8 * i)).take 8 ++ List.replicate (8 * i + 8 - msg.length) 0))
    let e := blocks.foldl (fun e m => mul64 (e ^^^ m) pp) 0
    beBytes 4 ((mul64 (e ^^^ (8 * msg.length)) (w 2 * 2 ^ 32 + w 3)) / 2 ^ 32 ^^^ w 4)
  | 2 => (aesCmac key (beBytes 8 (p.count * 2 ^ 32 + p.bearer * 2 ^ 27 + p.dir * 2 ^ 26) ++ msg)).take 4
  | 3 =>
    let c := (beBytes 4 p.count).map (·.toNat) ++ [p.bearer * 8, 0, 0, 0]
    let c2 := (c.set 0 (c.getD 0 0 ^^^ p.dir * 128)).set 6 (p.dir * 128)
    let len := 8 * msg.length
    let l := (len + 31) / 32 + 2
    let zs := zuc key (c ++ c2) l
    let word := fun i => ((zs.getD (i / 32) 0 * 2 ^ 32 + zs.getD (i / 32 + 1) 0) / 2 ^ (32 - i % 32)) % 2 ^ 32
    let t := ((bitsOf msg).zipIdx.filter (·.1)).foldl (fun t b => t ^^^ word b.2) 0
    beBytes 4 (t ^^^ word len ^^^ zs.getD (l - 1) 0)
  | _ => [0, 0, 0, 0]

end Sys2Proof.Machine
end

