-- ==== Sys2Proof/Machine/DmaCore.lean ====
section
/-!
DEFINITION. DmaCore.lean: descriptors, transfers, responses, completion, halting and resuming of the DMA channels (R203 to
R225).
-/
namespace Sys2Proof.Machine

def chanInit : Chan := ⟨[], [], false, none, none, 0, [], 0, 0, 0, [], [], [], false, none, false, true, none, 0⟩
def State.ch (s : State) (n : Nat) : Chan := tget chanInit s.chan n
def State.setCh (s : State) (n : Nat) (x : Chan) : State := { s with chan := tput s.chan n x }

/-- Engine and channel within it. -/
def engOf (n : Nat) : Nat := if n < 256 then n / 32 else 8
def chanIn (n : Nat) : Nat := if n < 256 then n % 32 else n - 256
/-- The channels of an engine. -/
def chansOf (e : Nat) : List Nat := if e < 8 then (List.range 32).map (e * 32 + ·) else (List.range 16).map (256 + ·)

/-- Channel states (table Channel states). -/
def dsOff : Nat := 0
def dsIdle : Nat := 1
def dsActive : Nat := 2
def dsDrain : Nat := 3
def dsTail : Nat := 4
def dsHalted : Nat := 5
def State.chSt (s : State) (n : Nat) : Nat := s.fld (Key.dmaStatus n) 63 60
def State.setChSt (s : State) (n st : Nat) : State := s.setFld (Key.dmaStatus n) 63 60 st
def State.latch (s : State) (n : Nat) : Bool := s.flag (Key.dmaStatus n) 59
def State.setLatch (s : State) (n : Nat) (b : Bool) : State := s.setFlag (Key.dmaStatus n) 59 b
def State.cur (s : State) (n : Nat) : Nat := s.fld (Key.dmaCur n) 39 0

/-- DMA error codes. -/
def dcNone : Nat := 0
def dcSrc : Nat := 1
def dcDst : Nat := 2
def dcItab : Nat := 3
def dcRead : Nat := 4
def dcWrite : Nat := 5
def dcInvalid : Nat := 6
def dcDesc : Nat := 7
def dcTimeout : Nat := 8
def dcAborted : Nat := 9

/-! Descriptors (R207 to R209) -/

def dmaOp (ws : List U64) : Nat := bf (ws.getD 0 0) 31 30
def elemLen (ws : List U64) : Nat := if dmaOp ws = 0 then bf (ws.getD 1 0) 63 40 else bf (ws.getD 0 0) 23 12 + 1
def elemCount (ws : List U64) : Nat := if dmaOp ws = 0 then 1 else bf (ws.getD 1 0) 63 48 + 1
def totalLen (ws : List U64) : Nat := elemLen ws * elemCount ws
def srcWord (ws : List U64) : Nat := bf (ws.getD 1 0) 39 0
def dstWord (ws : List U64) : Nat := bf (ws.getD 2 0) 39 0
def endBit (ws : List U64) : Bool := bit (ws.getD 3 0) 63
def nextOf (ws : List U64) : Nat := bf (ws.getD 3 0) 39 0
/-- The index table's address and length, nothing for COPY. -/
def tabOf (ws : List U64) : Nat × Nat :=
  (if dmaOp ws = 1 then srcWord ws else dstWord ws, if dmaOp ws = 0 then 0 else 8 + 4 * elemCount ws)

/-- R208. -/
def descInvalid (ws : List U64) : Bool :=
  let w := fun i => ws.getD i 0
  dmaOp ws == 3 || bf (w 0) 11 0 != 0 || bf (w 2) 63 40 != 0 || bf (w 3) 62 40 != 0 ||
    (dmaOp ws == 0 && (bf (w 0) 23 12 != 0 || bf (w 1) 63 40 == 0)) || (dmaOp ws != 0 && bf (w 1) 47 40 != 0) ||
    (!(endBit ws) && nextOf ws % 32 != 0)

/-- BASE + offset i of an index table (R209). -/
def tabElem (tab : List Byte) (i : Nat) : Nat := (leNat (tab.take 8) % 2 ^ 40 + leNat ((tab.drop (8 + 4 * i)).take 4)) % 2 ^ 40

/-- The source and destination address of byte `pos` of a descriptor's data. -/
def srcAt (x : Chan) (pos : Nat) : Nat :=
  let l := elemLen x.words
  if dmaOp x.words = 1 then (tabElem x.tab (pos / l) + pos % l) % 2 ^ 40 else (srcWord x.words + pos) % 2 ^ 40
def dstAt (x : Chan) (pos : Nat) : Nat :=
  let l := elemLen x.words
  if dmaOp x.words = 2 then (tabElem x.tab (pos / l) + pos % l) % 2 ^ 40 else (dstWord x.words + pos) % 2 ^ 40

/-- Greatest transfer of an engine (R205). -/
def maxXfer (n : Nat) : Nat := if n < 256 then 256 else 128
/-- Length of the transfer at an address with so many bytes to go. -/
def xferLen (n addr left : Nat) : Nat := min (min (maxXfer n) left) (256 - addr % 256)

/-- Whether the current descriptor's token lacks a credit: the channel then fetches no further descriptor (R216). -/
def State.tokenless (s : State) (n : Fin 272) : Bool := bit ((s.ch n.val).words.getD 0 0) 29 && s.creditOf (.dma n) == 0

/-- The read transfer a channel has ready (R204 to R206, R209 to R212), if any. -/
def State.readReady (s : State) (n : Fin 272) : Option Xfer :=
  let x := s.ch n.val
  let xf := fun (k : ReadFor) (elem pos a l : Nat) => (⟨k, elem, pos, a, l, [], s.raw.toNat, false⟩ : Xfer)
  let tail := xf .tail 0 0 ((s.cur n.val + 24) % 2 ^ 40) 8
  if x.stop ∨ x.fail.isSome ∨ 16 ≤ x.reads.length then none
  else match x.need with
    | some .fetch => some (xf .fetch 0 0 (s.cur n.val) 32)
    | some .ahead => if s.tokenless n then none else some (xf .ahead 0 0 (nextOf x.words) 32)
    | some .tail => some tail
    | some _ => none
    | none =>
      if s.chSt n.val = dsTail then
        if s.latch n.val ∧ x.reads.isEmpty then some tail else none
      else if s.chSt n.val = dsActive ∧ x.words ≠ [] ∧ !(x.reads.any (·.kind == .fetch)) then
        let (ta, tn) := tabOf x.words
        let l := elemLen x.words
        if x.tabAt < tn then
          some (xf .table (x.wpos / l) 0 ((ta + x.tabAt) % 2 ^ 40) (xferLen n.val (ta + x.tabAt) (tn - x.tabAt)))
        else if x.tab.length < tn then none
        else if x.rpos < totalLen x.words then
          let a := srcAt x x.rpos
          let k := xferLen n.val a (l - x.rpos % l)
          if (x.rpos - x.wpos) + k ≤ 8192 then some (xf .data (x.rpos / l) x.rpos a k) else none
        else none
      else none

/-- How many bytes from the next to be written on have been read, counted up to a limit. -/
def Chan.held (x : Chan) : Nat → Nat → Nat
  | 0, n => n
  | k + 1, n => if (tfind x.buf (x.wpos + n)).isSome then x.held k (n + 1) else n

/-- The next k bytes to be written. -/
def Chan.next (x : Chan) (k : Nat) : List (Byte × Bool) := (List.range k).map (fun i => tget (0, false) x.buf (x.wpos + i))

/-- The write transfer a channel has ready (R218, R219): of a COPY once its bytes are read, of an element once all of it is. -/
def State.writeReady (s : State) (n : Nat) : Option Xfer :=
  let x := s.ch n
  let l := elemLen x.words
  let writeFailed : Bool := match x.fail with | some f => f.write | none => false
  if s.chSt n ≠ dsActive ∨ x.words = [] ∨ x.stop ∨ writeFailed then none
  else
    let a := dstAt x x.wpos
    let left := l - x.wpos % l
    let k := xferLen n a left
    let xf := fun (elem k : Nat) => (⟨.data, elem, x.wpos, a, k, x.next k, s.raw.toNat, false⟩ : Xfer)
    if dmaOp x.words = 0 then
      let h := x.held k 0
      if h = k ∨ (x.fail.isSome ∧ x.reads.isEmpty ∧ 0 < h) then some (xf 0 h) else none
    else if x.held left 0 = left then some (xf (x.wpos / l) k) else none

/-- BYTES_LEFT of a channel (R214). -/
def State.setLeft (s : State) (n : Nat) : State :=
  let x := s.ch n
  s.setFld (Key.dmaStatus n) 31 0 (totalLen x.words - x.wpos)

/-! Completion, halting and stopping -/

/-- The engine interrupt (R222, `DMA_En_IRQ`). -/
def State.dmaIrq (s : State) (n : Nat) : State := s.setIrq .dma (s.entN (Key.dmaIrq (engOf n))) true

/-- A descriptor's token with a CODE (R216), where it asks for one. -/
def State.dmaToken (s : State) (n : Fin 272) (code : Nat) : State :=
  let x := s.ch n.val
  let w := x.words.getD 0 0
  if bit w 29 then
    let t : Token := ⟨w64 (bf w 63 32 * 2 ^ 32 + b01 (bit w 27) * 2 ^ 31 + bf w 26 24 * 2 ^ 28 + b01 (code != 0) * 2 ^ 27 +
      b01 x.poison * 2 ^ 26 + prodUnit (.dma n)), w64 (code * 2 ^ 56 + bf (x.words.getD 2 0) 39 0)⟩
    s.sendItem (.dma n) (.token t (s.partOfProd (.dma n)) .none)
  else s

/-- A descriptor ends with a CODE (R216, R217, R222 to R224): one that carried poison is counted, and its token is sent. -/
def State.dmaEnd (s : State) (n : Fin 272) (code : Nat) : State :=
  (if (s.ch n.val).poison then s.incSat (Key.dmaCount n.val) 15 8 1 else s).dmaToken n code

/-- Halt or error completion is counted, interrupts and is recorded (R222). -/
def State.noteDmaError (s : State) (n : Nat) (f : DmaFail) : State :=
  (((s.inc32 (Key.dmaErrors (engOf n)) 1).incSat (Key.dmaCount n) 31 16 1).dmaIrq n).record 0x31
    [w64 n, w64 f.code, w64 f.elem, w64 f.addr]

/-- CODE, ELEM_IDX and ERR_ADDR take an error. -/
def State.setDmaError (s : State) (n code elem addr : Nat) : State :=
  ((s.setFld (Key.dmaStatus n) 55 48 code).setFld (Key.dmaStatus n) 47 32 elem).setEntN (Key.dmaErrAddr n) addr

/-- The channel enters HALTED (R219 to R222). -/
def State.dmaHalt (s : State) (n : Nat) (f : DmaFail) (completed : Bool) : State :=
  let x := s.ch n
  let s := s.setCh n { x with need := none, ahead := [], aheadMark := false, aheadBad := none, buf := [], reads := [], fail := none }
  (((s.setDmaError n f.code f.elem f.addr).setFlag (Key.dmaStatus n) 58 completed).setChSt n dsHalted).noteDmaError n f

/-- A channel that was told to stop is OFF (R223). -/
def State.dmaOff (s : State) (n : Nat) : State :=
  (((s.setCh n chanInit).setChSt n dsOff).setLatch n false)

/-- With every response received, a stopped channel ends, once its token has a credit (R103), and a failed one halts (R219, R220,
R223). -/
def State.dmaSettle (s : State) (n : Fin 272) : State :=
  let x := s.ch n.val
  if x.reads.isEmpty ∧ x.writes.isEmpty then
    if x.stop then
      if x.done then s.dmaOff n.val else if s.tokenless n then s else (s.dmaEnd n dcAborted).dmaOff n.val
    else match x.fail with
      | some f =>
        if s.chSt n.val = dsActive ∧ (f.write ∨ (s.writeReady n.val).isNone) then s.dmaHalt n.val f false
        else if s.chSt n.val = dsTail then s.dmaHalt n.val f false
        else s
      | none => s
  else s

/-- An error of a read (R219): that of the earliest bytes stands, since what lies before it is still written; the data read from it on
are discarded. -/
def Chan.failRead (x : Chan) (f : DmaFail) : Chan :=
  let g := match x.fail with | some g => if g.write || decide (g.pos ≤ f.pos) then g else f | none => f
  { x with fail := some g, buf := if g.write then x.buf else tdrop x.buf (fun i => decide (g.pos ≤ i)) }

/-- An error of a write (R220): the lowest element stands. -/
def Chan.failWrite (x : Chan) (f : DmaFail) : Chan :=
  match x.fail with
  | some g => if g.write && decide (g.elem ≤ f.elem) then x else { x with fail := some f }
  | none => { x with fail := some f }

/-- A descriptor starts (R208, R209): an invalid one ends before any transfer; `mark` says that a byte of it was marked (R216). -/
def State.dmaBegin (s : State) (n : Fin 272) (ws : List U64) (mark : Bool) : State :=
  let x := s.ch n.val
  let p := if dmaOp ws = 0 then x.skip else x.skip * elemLen ws
  let x := { x with words := ws, ahead := [], aheadMark := false, need := none, tab := [], tabAt := 0, rpos := p, wpos := p, buf := [],
                    poison := mark, fail := none, skip := 0, done := false }
  let s := ((s.setCh n.val x).setChSt n.val dsActive).setLeft n.val
  if descInvalid ws then s.dmaHalt n.val ⟨dcInvalid, 0, s.cur n.val, false, 0⟩ false
  else if totalLen ws ≤ p then s.setChSt n.val dsDrain
  else s

/-- The channel goes on to the descriptor at `a`, whose words may have been read ahead (R211); if that read failed, it halts there
(R219). -/
def State.dmaGoto (s : State) (n : Fin 272) (a : Nat) : State :=
  let s := (s.setEntN (Key.dmaCur n.val) a).setChSt n.val dsActive
  let x := s.ch n.val
  match x.aheadBad with
  | some f => (s.setCh n.val { x with words := [], poison := false, done := false }).dmaHalt n.val f false
  | none =>
    if x.ahead ≠ [] then s.dmaBegin n x.ahead x.aheadMark
    else
      let on := x.reads.any (fun r => r.kind == .ahead)
      s.setCh n.val { x with words := [], poison := false, done := false, skip := 0, need := if on then none else some .fetch
                             reads := x.reads.map (fun r => if r.kind = .ahead then { r with kind := .fetch } else r) }

/-- What follows a completed descriptor: the next one, or TAIL_WAIT (R212). -/
def State.dmaFollow (s : State) (n : Fin 272) : State :=
  let x := s.ch n.val
  if endBit x.words then (s.setCh n.val { x with pollRaw := s.raw.toNat }).setChSt n.val dsTail
  else s.dmaGoto n (nextOf x.words)

/-- Whether the data of a read are still wanted (R219): not from a failed read's place on. -/
def Chan.wants (x : Chan) (r : Xfer) : Bool :=
  !x.stop && (match x.fail with | some f => !f.write && decide (r.pos < f.pos) | none => true)

/-- A good read answered with its bytes and their markings (R207, R209, R212, R216, R217): data go to their place. -/
def State.dmaGotRead (s : State) (n : Fin 272) (r : Xfer) (bs : List (Byte × Bool)) : State :=
  let x := s.ch n.val
  let mark := bs.any (·.2)
  let ws := bytesWords 4 (bs.map (·.1))
  match r.kind with
  | .data =>
    if x.wants r then
      s.setCh n.val { x with buf := (bs.zipIdx).foldl (fun t b => tput t (r.pos + b.2) b.1) x.buf, poison := x.poison || mark }
    else s
  | .table => if x.fail.isSome ∨ x.stop then s else s.setCh n.val { x with tab := x.tab ++ bs.map (·.1), poison := x.poison || mark }
  | .fetch => if x.stop then s else s.dmaBegin n ws mark
  | .ahead => if x.stop then s else s.setCh n.val { x with ahead := ws, aheadMark := mark }
  | .tail =>
    if x.stop then s
    else
      let x := { x with words := (if x.words = [] then [0, 0, 0, 0] else x.words).set 3 (ws.getD 0 0) }
      let s := s.setCh n.val x
      if endBit x.words then s.setChSt n.val dsTail
      else if nextOf x.words % 32 ≠ 0 then s.dmaHalt n.val ⟨dcInvalid, 0, s.cur n.val, false, 0⟩ false
      else s.dmaGoto n (nextOf x.words)

/-- The error of a read that failed (table DMA error codes). -/
def readFail (r : Xfer) (cur : Nat) (answer : BusAnswer) : DmaFail :=
  match answer, r.kind with
  | .timeout, _ => ⟨dcTimeout, r.elem, r.addr, false, r.pos⟩
  | _, .table => ⟨dcItab, r.elem, r.addr, false, r.pos⟩
  | .refused, .data => ⟨dcSrc, r.elem, r.addr, false, r.pos⟩
  | _, .data => ⟨dcRead, r.elem, r.addr, false, r.pos⟩
  | _, .ahead => ⟨dcDesc, 0, r.addr, false, 0⟩
  | _, _ => ⟨dcDesc, 0, cur, false, 0⟩

/-- A read transfer is answered (R219): the error of a descriptor read ahead halts the channel when it goes on to it. -/
def State.dmaReadDone (s : State) (n : Fin 272) (r : Xfer) (answer : BusAnswer) (bs : List (Byte × Bool)) : State :=
  let x := s.ch n.val
  let s := s.setCh n.val { x with reads := x.reads.erase r }
  let s := if answer = .good then s.dmaGotRead n r bs
    else
      let x := s.ch n.val
      let f := readFail r (s.cur n.val) answer
      if r.kind = .ahead then s.setCh n.val { x with aheadBad := some f }
      else
        let s := s.setCh n.val (x.failRead f)
        if r.kind = .fetch then s.setChSt n.val dsActive else s
  s.dmaSettle n

/-- A descriptor completes (R214, R216, R217, R221). -/
def State.dmaComplete (s : State) (n : Fin 272) : State :=
  let x := s.ch n.val
  let f := x.fail
  let code := (f.map (·.code)).getD 0
  let s := (s.flushFor (reqNo (.dma n))).incSat (Key.dmaCount n.val) 63 32 1
  let s := (s.dmaEnd n code).setCh n.val { x with done := true }
  let s := if bit (x.words.getD 0 0) 28 ∧ s.flag (Key.dmaCfg n.val) 58 then s.dmaIrq n.val else s
  match f with
  | none => s.dmaFollow n
  | some f =>
    if s.flag (Key.dmaContOnErr (engOf n.val)) (chanIn n.val) then
      ((s.setDmaError n.val f.code f.elem f.addr).noteDmaError n.val f |>.setCh n.val { x with fail := none, done := true }).dmaFollow n
    else s.dmaHalt n.val f true

/-! Doorbell, RESUME and EN -/

/-- A doorbell (R210); it wakes a gated pack (R468). -/
def State.doorbell (s : State) (n : Fin 272) : State :=
  let s := if n.val < 256 then s.wakePack (n.val / 32) else s
  if s.chSt n.val = dsOff then s.incSat (Key.dmaCount n.val) 7 0 1
  else if s.chSt n.val = dsIdle then (s.setLatch n.val false).dmaGoto n (s.entN (Key.dmaHead n.val))
  else s.setLatch n.val true

/-- Whether INDEX is below the element count, or a COPY's LEN (R224). -/
def indexOk (ws : List U64) (i : Nat) : Bool := ws.isEmpty || decide (i < (if dmaOp ws = 0 then elemLen ws else elemCount ws))

/-- What NEXT and STOP do once the token has a credit (R103, R224): the token of an uncompleted descriptor, then the re-read of word 3,
or IDLE. -/
def State.dmaLeave (s : State) (n : Fin 272) (action code : Nat) : State :=
  let s := if (s.ch n.val).done then s else s.dmaEnd n code
  if action = 2 then
    (s.setCh n.val { chanInit with words := (s.ch n.val).words, need := some .tail, pollRaw := s.raw.toNat }).setChSt n.val dsTail
  else ((s.setCh n.val chanInit).setChSt n.val dsIdle).setLatch n.val false

/-- RESUME with an ACTION and INDEX (R224). RETRY keeps the descriptor until its re-fetch; a token that lacks a credit waits for it in
DRAIN. -/
def State.dmaResume (s : State) (n : Fin 272) (action index : Nat) : State :=
  let x := s.ch n.val
  if s.chSt n.val ≠ dsHalted ∨ x.stop then s.status .busy
  else if action = 0 ∨ !(indexOk x.words index) then s.status .range
  else
    let code := s.fld (Key.dmaStatus n.val) 55 48
    let s := (s.setDmaError n.val 0 0 0).setFlag (Key.dmaStatus n.val) 58 false
    (if action = 1 then (s.setCh n.val { x with need := some .fetch, skip := index, done := false }).setChSt n.val dsActive
      else if !x.done ∧ s.tokenless n then (s.setCh n.val { x with after := some (action, code) }).setChSt n.val dsDrain
      else s.dmaLeave n action code).status .ok

/-- EN of a channel is cleared (R223). -/
def State.dmaDisable (s : State) (n : Fin 272) : State :=
  if s.chSt n.val = dsOff then s
  else
    let x := s.ch n.val
    (s.setCh n.val { x with stop := true, need := none, after := none }).dmaSettle n

/-- A write of DMA_CHn_CFG (R223): EN starts and ends the channel; other fields only in OFF or IDLE. -/
def State.dmaCfgWrite (s : State) (n : Fin 272) (v : U64) : State :=
  let k := Key.dmaCfg n.val
  let st := s.chSt n.val
  let held := decide (256 ≤ n.val) && (s.partOfChan n.val).isNone
  if setBit v 63 false ≠ setBit (s.ent k) 63 false ∧ st ≠ dsOff ∧ st ≠ dsIdle then s.status .busy
  else
    let s := (s.setEnt k v).status .ok
    if bit v 63 ∧ st = dsOff ∧ !held ∧ !(s.ch n.val).stop then s.setChSt n.val dsIdle
    else if !(bit v 63) then s.dmaDisable n
    else s

/-! The pack control page (R225) -/

/-- A load of an offset of a pack's control page. -/
def State.ctlRead (s : State) (p off : Nat) : U64 :=
  let n := p * 32 + off / 0x40
  if 0x800 ≤ off then 0
  else match off % 0x40 with
    | 0x08 => s.ent (Key.dmaStatus n)
    | 0x10 => s.ent (Key.dmaHead n)
    | 0x20 => s.ent (Key.dmaErrAddr n)
    | 0x28 => s.ent (Key.dmaCur n)
    | _ => 0

/-- A store to an offset of a pack's control page. -/
def State.ctlWrite (s : State) (p off : Nat) (v : U64) : State :=
  let n := p * 32 + off / 0x40
  if h : off < 0x800 ∧ n < 272 then
    match off % 0x40 with
    | 0x00 => s.doorbell ⟨n, h.2⟩
    | 0x10 => if bf v 63 40 = 0 ∧ bf v 4 0 = 0 then s.setEnt (Key.dmaHead n) v else s
    | 0x18 => if bf v 61 32 = 0 then s.dmaResume ⟨n, h.2⟩ (bf v 63 62) (bf v 31 0) else s
    | _ => s
  else s

/-! Transfers and their answers -/

/-- A remote-window address (R183). -/
def isWindow (a : Nat) : Bool := decide (0x2000000000 ≤ a) && decide (a < 0x8000000000)

/-- The class of a channel's transfers (R205). -/
def State.dmaClassD (s : State) (n : Nat) : Bool := s.flag (Key.dmaCfg n) 62

/-- A read of a channel reaches its target: through a window it leaves by Gelpel (false where no link is UP), else it asks at the Leash
points in the channel's class (R205). -/
def State.dmaSendRead (s : State) (n : Fin 272) (r : Xfer) : State × Bool :=
  if isWindow r.addr then s.remoteRead (.dma n) (s.dmaClassD n.val) r.addr r.len
  else (s.leashAsk (reqNo (.dma n)) (s.dmaClassD n.val) r.addr r.len, true)

/-- A read that its target's check lets through, or none: a word of a control page, or memory (R181, R203, R390). -/
def State.dmaFetch (s : State) (n : Fin 272) (a len : Nat) : State × Option (List (Byte × Bool)) :=
  if !(s.accessOk (.dma n) a len false) then (s.accessFault (.dma n) a, none)
  else match regionOf a with
    | .ctl p => (s, some ((leBytes 8 (s.ctlRead p (a - ctlAddr p 0)).toNat).map (·, false)))
    | _ => let (s, bs, _) := s.readMem (.dma n) a len; (s, some (bs.zipIdx.map (fun b => (b.1, s.poisoned (a + b.2)))))

/-- A read transfer that is answered here. -/
def State.dmaAnswerRead (s : State) (n : Fin 272) (r : Xfer) (answer : BusAnswer) : State :=
  match answer with
  | .good =>
    match s.dmaFetch n r.addr r.len with
    | (s, some bs) => s.dmaReadDone n r .good bs
    | (s, none) => s.dmaReadDone n r .refused []
  | .error => (s.notePath 15 (memUnit s r.addr) r.addr).dmaReadDone n r .error []
  | a => s.dmaReadDone n r a []

/-- A read transfer is issued (R204, R210): a read of word 3 of the descriptor at CUR clears the latch. -/
def State.dmaIssueRead (s : State) (n : Fin 272) (r : Xfer) : State :=
  let x := s.ch n.val
  let x := match r.kind with
    | .data => { x with rpos := x.rpos + r.len }
    | .table => { x with tabAt := x.tabAt + r.len }
    | _ => { x with need := none }
  let s := s.setCh n.val { x with reads := x.reads ++ [r] }
  let s := if r.kind = .fetch ∨ r.kind = .tail then s.setLatch n.val false else s
  match s.dmaSendRead n r with
  | (s, true) => s
  | (s, false) => (s.accessFault (.dma n) r.addr).dmaReadDone n r .refused []

/-- A write transfer is answered (R215, R220, R221). -/
def State.dmaWriteDone (s : State) (n : Fin 272) (w : Xfer) (answer : BusAnswer) : State :=
  let x := s.ch n.val
  let x := { x with writes := x.writes.erase w }
  let x := match answer with
    | .good => x
    | .refused => x.failWrite ⟨dcDst, w.elem, w.addr, true, w.pos⟩
    | .error => x.failWrite ⟨dcWrite, w.elem, w.addr, true, w.pos⟩
    | .timeout => x.failWrite ⟨dcTimeout, w.elem, w.addr, true, w.pos⟩
  (s.setCh n.val x).dmaSettle n

/-- A read that has met its L0 limit is issued once more (R206, R497). -/
def State.dmaReissue (s : State) (n : Fin 272) (r : Xfer) : State :=
  let x := s.ch n.val
  let r' := { r with again := true, since := s.raw.toNat }
  match (s.setCh n.val { x with reads := x.reads.map (fun y => if y = r then r' else y) }).dmaSendRead n r' with
  | (s, true) => s
  | (s, false) => (s.accessFault (.dma n) r.addr).dmaReadDone n r' .refused []

/-- A write transfer is issued (R204, R205, R214): BYTES_LEFT falls; at zero the channel is in DRAIN and reads ahead (R211). -/
def State.dmaIssueWrite (s : State) (n : Fin 272) (w : Xfer) : State :=
  let x := s.ch n.val
  let x := { x with buf := tdrop x.buf (fun i => decide (i < x.wpos + w.len)), wpos := x.wpos + w.len, writes := x.writes ++ [w] }
  let last := totalLen x.words ≤ x.wpos
  let x := if last ∧ !(endBit x.words) ∧ nextOf x.words % 32 = 0 then { x with need := some .ahead } else x
  let s := (s.setCh n.val x).setLeft n.val
  let s := if last then s.setChSt n.val dsDrain else s
  if isWindow w.addr then
    match s.remoteWrite (.dma n) (s.dmaClassD n.val) w.addr w.data with
    | (s, true) => s
    | (s, false) => (s.accessFault (.dma n) w.addr).dmaWriteDone n w .refused
  else s.leashAsk (reqNo (.dma n)) (s.dmaClassD n.val) w.addr w.len

/-- A write that its target's check lets through, or false: to a control page, or memory (R181, R203, R215). -/
def State.dmaStore (s : State) (n : Fin 272) (a : Nat) (bs : List (Byte × Bool)) : State × Bool :=
  if !(s.accessOk (.dma n) a bs.length true) then (s.accessFault (.dma n) a, false)
  else match regionOf a with
    | .ctl p => (s.ctlWrite p (a - ctlAddr p 0) (w64 (leNat (bs.map (·.1)))), true)
    | _ => (s.writeMarks (.dma n) a bs, true)

/-- A write transfer that is answered here: accepted data are in memory before the response (R181, R215), and a transfer answered with
an error leaves its bytes unchanged. -/
def State.dmaAnswerWrite (s : State) (n : Fin 272) (w : Xfer) (answer : BusAnswer) : State :=
  match answer with
  | .good =>
    match s.dmaStore n w.addr w.data with
    | (s, true) => s.dmaWriteDone n w .good
    | (s, false) => s.dmaWriteDone n w .refused
  | .error => (s.notePath 15 (memUnit s w.addr) w.addr).dmaWriteDone n w .error
  | a => s.dmaWriteDone n w a

/-! Idleness of a pack (R468) -/

/-- Whether watch w of engine e is enabled; whether it is a WAKE watch besides. -/
def State.watchOn (s : State) (e w : Nat) : Bool := s.flag (Key.hndRow e 0 w 0) 62 && s.flag (Key.hndCfg e) 0
def State.wakeWatch (s : State) (e w : Nat) : Bool := s.watchOn e w && s.fld (Key.hndRow e 0 w 0) 61 59 == 4
/-- Whether a pack is idle (R468); `wakes` counts enabled WAKE watches against it. -/
def State.packIdle (s : State) (p : Nat) (wakes : Bool) : Bool :=
  !((s.kn p).used.any (fun e => e.2.st == .ready || e.2.st == .running)) &&
  !((List.range 32).any (fun i => s.chSt (32 * p + i) == dsActive || s.chSt (32 * p + i) == dsDrain)) &&
  !(s.job.any (fun e => e.1 / 32 == p)) && !(s.decode.any (fun e => e.1 / 32 == p)) &&
  !((List.range 16).any (fun w => s.watchOn p w && (wakes || !(s.wakeWatch p w))))

end Sys2Proof.Machine
end

