-- ==== Sys2Proof/Machine/SpanCore.lean ====
section
/-!
DEFINITION. SpanCore.lean: partitions' states and dialects (R439, R441, R533, R550), the ends of sessions (R433, R436), commits
of the device's own (R437, R438), handover states (R541, R542), and a Gelpel port's changes of state (R552).
-/
namespace Sys2Proof.Machine

/-! Partition states (`RST_PTp_STAT`) -/

def psNone : Nat := 0
def psReset : Nat := 1
def psLoading : Nat := 2
def psRunning : Nat := 3
def psHeld : Nat := 4
def State.partState (s : State) (p : Nat) : Nat := s.fld (Key.rstPtStat p) 3 0
def State.setPartState (s : State) (p st : Nat) : State := s.setFld (Key.rstPtStat p) 3 0 st
/-- Whether a partition holds firmware (R520). -/
def State.holdsFw (s : State) (p : Nat) : Bool := s.partState p == psLoading || s.partState p == psRunning

/-! Dialects -/

/-- The own dialect of a partition whose firmware runs. -/
def State.ownDialect (s : State) (p : Nat) : Option Nat :=
  if s.partState p = psRunning then some (s.fld (Key.fwStat p) 31 16) else none
/-- Own dialects of the local partitions, and the window of each (R439). -/
def State.ownDialects (s : State) : List Nat := (List.range 8).filterMap s.ownDialect
/-- Least and greatest of a list, 0 where it is empty. -/
def leastOf (l : List Nat) : Nat := (l.foldl (fun a x => match a with | some y => some (min x y) | none => some x) none).getD 0
def greatestOf (l : List Nat) : Nat := l.foldl max 0
/-- The lowest dialect that firmware of dialect d understands. -/
def lowDialect (d : Nat) : Nat := max 1 (d - 2)

/-- The window of a scope: a partition's, or the device's for 0xFF (R439); lowest and highest, 0 and 0 for none. -/
def State.scopeWindow (s : State) (scope : Nat) : Nat × Nat :=
  if scope < 8 then (match s.ownDialect scope with | some d => (lowDialect d, d) | none => (0, 0))
  else
    let ds := s.ownDialects
    if ds.isEmpty then (Config.rootDialect.toNat / 65536, Config.rootDialect.toNat % 65536)
    else (greatestOf (ds.map lowDialect), leastOf ds)
def inWindow (w : Nat × Nat) (d : Nat) : Bool := decide (w.1 ≤ d) && decide (d ≤ w.2)

/-- The ports that bring a span member (R533). -/
def State.upPorts (s : State) : List Nat := (List.range 4).filter (fun g => s.gplState g == gpUp)
/-- Own dialects of the span group. -/
def State.groupDialects (s : State) : List Nat :=
  (s.ownDialects ++ s.upPorts.flatMap (fun g => [s.fld (Key.gplStat g) 31 16, s.fld (Key.gplStat g) 15 0])).filter (· ≠ 0)
/-- `PRT_SPAN` (R533). -/
def State.spanWord (s : State) : U64 :=
  let ds := s.groupDialects
  let sp := leastOf ds
  let members := b01 (!s.ownDialects.isEmpty) + (s.upPorts.map (fun g => 2 ^ s.peerChip g)).sum
  w64 (members * 2 ^ 60 + sp * 2 ^ 32 + (if ds.isEmpty then 0 else lowDialect (greatestOf ds)) * 65536 + sp)

/-! Gelpel ports -/

/-- A port changes state, with its record (R552). -/
def State.setGplState (s : State) (g st : Nat) : State :=
  if s.gplState g = st then s
  else
    let s := s.setFld (Key.gplStat g) 63 60 st
    s.record 0xB6 [w64 g, w64 st, s.ent (Key.gplPeer g), w64 (s.fld (Key.gplStat g) 57 56)]

/-- A count of `GPL_Gg_CNT`. -/
def State.gplCount (s : State) (g hi lo n : Nat) : State := s.incSat (Key.gplCnt g) hi lo n

/-- Whether the two devices' own dialects lie at most 2 apart (R550); a device without firmware brings none. -/
def State.gplSpreadOk (s : State) (g : Nat) : Bool :=
  let ds := (s.ownDialects ++ [s.fld (Key.gplStat g) 31 16, s.fld (Key.gplStat g) 15 0]).filter (· ≠ 0)
  decide (greatestOf ds ≤ leastOf ds + 2)

/-- A port UP or DIALECT follows the dialects of both sides (R550). -/
def State.gplRejudge (s : State) (g : Nat) : State :=
  let st := s.gplState g
  if st = gpUp ∨ st = gpDialect then s.setGplState g (if s.gplSpreadOk g then gpUp else gpDialect) else s

/-! Sessions -/

/-- A NOTIFY's payload (R443). -/
def notifyBytes (sub kind count nseq t : Nat) (vals : List U64) : List Byte :=
  leBytes 1 sub ++ leBytes 1 kind ++ beBytes 2 count ++ beBytes 4 nseq ++ beBytes 8 (t128Sec t).toNat ++
    beBytes 8 (t128Ns t).toNat ++ vals.flatMap (fun v => beBytes 8 v.toNat)

/-- A NOTIFY is sent to the session at place i, with the session's next NSEQ (R443). -/
def State.notify (s : State) (i : Nat) (st : Status) (sub kind : Nat) (o : Obj) (vals : List U64) : State :=
  match s.sess i with
  | some x =>
    let n := (x.nseq + 1) % 2 ^ 32
    { s with session := tput s.session i { x with nseq := n }
             notes := s.notes ++ [(i, .enber x.id st o vals.length vals (notifyBytes sub kind vals.length n s.now vals) true)] }
  | none => s

/-- What a requester slot holds of its own is discarded (R415, R420, R436). -/
def State.dropSlot (s : State) (slot : Nat) : State :=
  let mine := fun k => k / 2 ^ 32 == slot
  { s with bank := tdrop s.bank mine, hold := tdrop s.hold mine, staging := tdrop s.staging mine
           capSlots := tdel s.capSlots slot, stash := s.stash }

/-- The session at place i ends (R433, R436). -/
def State.endSession (s : State) (i : Nat) : State := { s with session := tdel s.session i }.dropSlot (17 + i)

/-- The members are told of a change of own dialects since state b, and the ports follow it (R550). -/
def State.tellDialects (s b : State) : State :=
  let lo := leastOf s.ownDialects
  let hi := greatestOf s.ownDialects
  if lo = leastOf b.ownDialects ∧ hi = greatestOf b.ownDialects then s
  else (List.range 4).foldl (fun s g =>
    if s.gplState g = gpUp ∨ s.gplState g = gpDialect then
      (s.sendMsg g false (messageOf 9 0 (w64 (lo * 65536 + hi)) [])).gplRejudge g
    else s) s

/-- What follows from a change of dialects since state b: sessions are told or end (R441), the span is recorded (R533), and the
members are told (R550). -/
def State.dialectsSince (s b : State) : State :=
  let s := s.tellDialects b
  let s := (List.range 16).foldl (fun s i =>
    match s.sess i with
    | some x =>
      let w := s.scopeWindow x.scope.toNat
      if w = b.scopeWindow x.scope.toNat then s
      else if inWindow w x.dialect then s.notify i .ok 0 1 ⟨0, 0⟩ []
      else (s.notify i .dialect 0 1 ⟨0, 0⟩ []).endSession i
    | none => s) s
  let o := b.spanWord
  let n := s.spanWord
  let s := if bf o 47 0 = bf n 47 0 then s
    else s.record 0xB7 [w64 (bf o 47 32), w64 (bf n 47 32), w64 (bf n 31 16), w64 (bf n 15 0)]
  s

/-! The N image -/

/-- The copy in force (R438): the valid one of the newer generation. -/
def State.nvNow (s : State) : NvCopy :=
  if !s.nvB.valid then s.nvA
  else if !s.nvA.valid then s.nvB
  else if (s.nvB.gen - s.nvA.gen).toNat < 2 ^ 31 then s.nvB else s.nvA

/-- The image with entries changed: those at their defaults are omitted (R437). -/
def imageWith (t : Tab U64) (es : List (Nat × U64)) : Tab U64 :=
  es.foldl (fun t e => if e.2 = dflt e.1 then tdel t e.1 else tput t e.1 e.2) t

/-- Both copies take a new image with the entries changed. -/
def State.ownImage (s : State) (es : List (Nat × U64)) : State :=
  let c : NvCopy := ⟨true, s.nvNow.gen + 1, imageWith s.nvNow.entries es⟩
  { s with nvA := c, nvB := c }

/-- A write of MRAM waits while a supply warning is active (R190). -/
def State.mramWait (s : State) (w : MramWait) : State := { s with mramWaits := s.mramWaits ++ [w] }

/-- New values come into force with a new image in both copies: a commit of the device's own. The image waits during a supply warning
(R190). -/
def State.ownCommit (s : State) (es : List (Nat × U64)) : State :=
  let s := es.foldl (fun s e => s.setEnt e.1 e.2) s
  if s.warn then s.mramWait (.image es) else s.ownImage es

/-! Handovers -/

def hsIdle : Nat := 0
def hsPaired : Nat := 1
def hsArmed : Nat := 2
def hsDrain : Nat := 3
def hsDone : Nat := 4
def hsCancelled : Nat := 5
def State.hoState (s : State) (n : Nat) : Nat := s.fld (Key.hoOp n) 63 60
def State.hoCarrier (s : State) (n : Nat) : Nat := s.fld (Key.hoCfg n) 63 55
def State.hoSrc (s : State) (n : Nat) : Nat := s.fld (Key.hoCfg n) 54 52
def State.hoDst (s : State) (n : Nat) : Nat := s.fld (Key.hoCfg n) 50 48

/-- A handover changes state, with its record (R541). -/
def State.setHo (s : State) (n st reason : Nat) : State :=
  let s := (s.setFld (Key.hoOp n) 63 60 st).setFld (Key.hoOp n) 59 56 reason
  s.record 0xB5 [w64 n, w64 (s.hoCarrier n), w64 (s.hoSrc n), w64 (s.hoDst n), w64 st, w64 reason]

/-- A PART reset of p meets the handovers (R542). -/
def State.hoReset (s : State) (p : Nat) : State :=
  (List.range 16).foldl (fun s n =>
    let st := s.hoState n
    if (st = hsPaired ∨ st = hsArmed) ∧ (s.hoSrc n = p ∨ s.hoDst n = p) then s.setHo n hsCancelled 2
    else if st = hsDrain ∧ s.hoSrc n = p then s.setHo n hsDone 0
    else s) s

/-- The outstanding relay of a slot ends with a status and a value (R553). -/
def State.relayDone (s : State) (slot st : Nat) (v : U64) : State :=
  { s with bank := tput (tput s.bank (slot * 2 ^ 32 + Key.gplRelayReq) (w64 st)) (slot * 2 ^ 32 + Key.gplRelayVal) v }

end Sys2Proof.Machine
end

