-- ==== Sys2Proof/Machine/GplLink.lean ====
section
/-! DEFINITION. GplLink.lean: the answers of a Gelpel member to window accesses (R183, R545), and a port that goes DOWN (R552). -/
namespace Sys2Proof.Machine

/-- A window read of address a at port g is answered (R183): the requester receives the bytes with their markings or the error. A fresh
parity error on the link is a path error (R397, R581), and a control core takes an access fault on a marked word (R396). -/
def State.gplReadDone (s : State) (g : Nat) (who : Accessor) (a : Nat) (r : BusAnswer) (bs : List (Byte × Bool)) : State :=
  let s := if r = .error then s.notePath 15 (1008 + g) a else s
  let plain := s.answer (if r ≠ .good then .fault else .bytes (bs.map (·.1)) (bs.any (·.2)))
  match who with
  | .dma n =>
    match (s.ch n.val).reads.find? (fun x => x.addr == a) with
    | some x => s.dmaReadDone n x r (bs.take x.len)
    | none => plain
  | .core _ _ => if bs.any (·.2) then s.answer .fault else plain
  | _ => plain

/-- A window write to address a at port g is answered. -/
def State.gplWriteDone (s : State) (who : Accessor) (a : Nat) (r : BusAnswer) : State :=
  let plain := s.answer (if r = .good then .status .ok else .fault)
  match who with
  | .dma n =>
    match (s.ch n.val).writes.find? (fun x => x.addr == a) with
    | some w => s.dmaWriteDone n w r
    | none => plain
  | _ => plain

/-- An outstanding request meets a port that goes DOWN (R120, R552, R553). -/
def State.gplLost (s : State) (g : Nat) (o : Outstanding) : State :=
  match o with
  | .result ret => s.giveResult ret (w64 (2 ^ 63 + ksUnitDown))
  | .read who a => s.gplReadDone g who a .refused []
  | .write who a => s.gplWriteDone who a .refused
  | .relay slot => s.relayDone slot 7 0

/-- A port goes DOWN (R552): messages waiting are lost and counted, outstanding accesses fail, and the peer leaves the span. -/
def State.gplDown (s : State) (g : Nat) : State :=
  if s.gplState g = gpDown then s
  else
    let b := s
    let x := s.gpl g
    let lost := (x.q0.filter (·.last)).length + (x.q1.filter (·.last)).length + (x.unacked.map (·.ends)).sum
    let s := (s.gplCount g 31 16 1).gplCount g 15 0 lost
    let s := s.setGpl g { gplInit with replays := x.replays, replayRaw := x.replayRaw }
    let s := x.waiting.foldl (fun s o => s.gplLost g o) s
    (s.setGplState g gpDown).dialectsSince b

/-- Whether both octets of port g are in GELPEL mode with the same GRATE (R543). -/
def State.gplOctets (s : State) (g : Nat) : Bool :=
  s.fld (Key.lnOCfg (8 + 2 * g)) 63 60 == 3 && s.fld (Key.lnOCfg (9 + 2 * g)) 63 60 == 3 &&
    s.flag (Key.lnOCfg (8 + 2 * g)) 56 == s.flag (Key.lnOCfg (9 + 2 * g)) 56

/-- A port that is enabled trains (R543). -/
def State.gplTrain (s : State) (g : Nat) : State :=
  if s.flag (Key.gplGCfg g) 63 ∧ (s.un (1008 + g)).released ∧ s.gplState g = gpDown ∧ s.gplOctets g then
    s.setGplState g gpTrain
  else s

end Sys2Proof.Machine
end

