-- ==== Sys2Proof/Machine/LaneCore.lean ====
section
/-!
DEFINITION. LaneCore.lean: octets, ports and lanes (R336 to R338, R345, R352), the start and the loss of a port (R347, R353),
the eye scan's abort (R348) and the coding of Class B (R341, R342).
-/
namespace Sys2Proof.Machine

/-- Octet modes. -/
def omOff : Nat := 0
def omEth : Nat := 1
def omCpri : Nat := 2
def omGelpel : Nat := 3
def omTest : Nat := 4

def State.octMode (s : State) (o : Nat) : Nat := s.fld (Key.lnOCfg o) 63 60
def State.octLayout (s : State) (o : Nat) : Nat := s.fld (Key.lnOCfg o) 59 58
def State.laneMode (s : State) (l : Nat) : Nat := s.octMode (l / 8)

/-- The phase of the boot (`RST_BOOT_STAT`). -/
def State.phase (s : State) : Nat := s.fld Key.rstBootStat 63 60
def phReset : Nat := 0
def phRom : Nat := 1
def phPost : Nat := 2
def phLoad : Nat := 3
def phStart : Nat := 4
def phReady : Nat := 5
def phHold : Nat := 6

/-- First lane and width of the port that lane l lies in (R337); outside ETH mode each lane stands alone. -/
def State.portOf (s : State) (l : Nat) : Nat × Nat :=
  let o := l / 8
  let i := l % 8
  if s.octMode o = omEth then
    match s.octLayout o with
    | 0 => (l, 1)
    | 1 => (8 * o + i / 2 * 2, 2)
    | 2 => (8 * o + i / 4 * 4, 4)
    | _ => if i < 4 then (8 * o, 4) else (l, 1)
  else (l, 1)
def State.portLanes (s : State) (l : Nat) : List Nat := let p := s.portOf l; (List.range p.2).map (p.1 + ·)
def State.isFirst (s : State) (l : Nat) : Bool := (s.portOf l).1 == l

/-- Whether MAC m is active (R354). -/
def State.macActive (s : State) (m : Nat) : Bool := s.laneMode m == omEth && s.isFirst m

/-- Lane states (`LN_Ln_STAT`). -/
def lnDisabled : Nat := 0
def lnIdle : Nat := 1
def lnAnState : Nat := 2
def lnTraining : Nat := 3
def lnUp : Nat := 4

def State.laneState (s : State) (l : Nat) : Nat := s.fld (Key.lnStat l) 63 60
def State.setLaneState (s : State) (l st : Nat) : State := s.setFld (Key.lnStat l) 63 60 st
def State.cdrLocked (s : State) (l : Nat) : Bool := s.flag (Key.lnStat l) 2
def State.setCdr (s : State) (l : Nat) (b : Bool) : State := s.setFlag (Key.lnStat l) 2 b
def State.laneEn (s : State) (l : Nat) : Bool := s.flag (Key.lnCfg l) 63

/-- Whether the lanes of octet o run in this state of the device (R352, R452). -/
def State.lanesRun (s : State) (o : Nat) : Bool :=
  (s.phase == phStart || s.phase == phReady) && s.unitRuns (992 + o) &&
    (s.dev == .run || s.dev == .hush || ((s.dev == .guard || s.dev == .dormant) && s.flag (Key.lnOCfg o) 57))

/-- Lanes of an Ethernet ability, and whether it uses PAM4. -/
def abilityWidth (b : Nat) : Nat := match b with | 3 => 4 | 4 => 2 | 6 => 4 | 7 => 2 | 8 => 4 | _ => 1
def abilityPam4 (b : Nat) : Bool := b == 2 || decide (4 ≤ b)
/-- FEC of an ability (table Ethernet lane modes): ability 1 as requested. -/
def abilityFec (b : Nat) (req : Bool) : Nat := match b with | 0 => 0 | 1 => if req then 1 else 0 | 3 => 1 | _ => 2

/-- The abilities of a mask that fit a port's width. -/
def fitting (mask w : Nat) : Nat := ((List.range 9).map (fun b => if mask / 2 ^ b % 2 = 1 ∧ abilityWidth b ≤ w then 2 ^ b else 0)).sum

/-- Whether a lane's modulation is PAM4. -/
def State.lanePam4 (s : State) (l : Nat) : Bool :=
  if s.laneMode l = omTest then s.flag (Key.lnTest l) 63
  else s.laneMode l == omEth && abilityPam4 (s.fld (Key.lnStat (s.portOf l).1) 59 56)

/-- A running point of the eye scan ends ABORTED (R348). -/
def State.abortEye (s : State) (l : Nat) : State :=
  if s.flag (Key.lnEyeCtl l) 63 then (s.setFlag (Key.lnEyeCtl l) 63 false).setEntN (Key.lnEyeRes l) (2 * 2 ^ 62) else s

/-- The lanes of a port take a state, their locks are gone. -/
def State.portTo (s : State) (l st : Nat) : State :=
  (s.portLanes l).foldl (fun s q => ((s.setLaneState q st).setFld (Key.lnStat q) 3 2 0).abortEye q) s

/-- Whether the electrical idle of at least 1 ms of a lane is over (R339, R351). -/
def State.idleOver (s : State) (l : Nat) : Bool := let t := tget 0 s.laneIdle l; t == 0 || decide (t - 1 + msTicks 1 ≤ s.raw.toNat)

/-- Whether the last self-test fenced lane l (R454, R455). -/
def State.laneFenced (s : State) (l : Nat) : Bool := bit (s.ent (Key.rstPostLanes (l / 64))) (l % 64)

/-- The port of lane l starts anew (R345 to R347): with the full advertisement, or in its fixed mode. -/
def State.startPort (s : State) (l : Nat) : State :=
  let f := (s.portOf l).1
  let cfg := s.ent (Key.lnCfg f)
  if (s.portLanes f).any s.laneFenced then s.portTo f lnDisabled
  else if !(bit cfg 63) ∨ s.laneMode f = omOff ∨ !(s.lanesRun (f / 8)) ∨ !((s.portLanes f).all s.idleOver) then s.portTo f (if bit cfg 63 then lnIdle else lnDisabled)
  else if s.laneMode f = omEth then
    if bit cfg 57 then
      { s.portTo f lnAnState with
        laneAt := tdel s.laneAt f
        laneAdv := tput s.laneAdv f (BitVec.ofNat 9 (fitting (s.fld (Key.lnAn f) 8 0) (s.portOf f).2)) }
    else (({ s.portTo f lnTraining with laneAt := tput s.laneAt f (s.raw.toNat + 1) }).setFld (Key.lnStat f) 59 56 (bf cfg 55 52)).setFld (Key.lnStat f) 55 54 (bf cfg 51 50)
  else (s.portTo f lnIdle).setFld (Key.lnStat f) 59 56 (if s.laneMode f = omCpri then bf cfg 55 52 else 0)

/-- The first lanes of an octet's ports. -/
def State.octPorts (s : State) (o : Nat) : List Nat := ((List.range 8).map (8 * o + ·)).filter s.isFirst

/-- An UP port goes down for a cause (R353); the record names the port by its first lane. -/
def State.portDown (s : State) (l cause : Nat) : State :=
  let f := (s.portOf l).1
  if s.laneState f = lnUp then s.record 0x51 [w64 f, w64 cause] else s

/-- A port loses its link and negotiates again. -/
def State.portLost (s : State) (l cause : Nat) : State := (s.portDown l cause).startPort l

/-- Every lane of an octet goes into electrical idle (R339, R352). -/
def State.octetIdle (s : State) (o cause : Nat) : State :=
  let s := (s.octPorts o).foldl (fun s l => s.portDown l cause) s
  ((List.range 8).map (8 * o + ·)).foldl (fun s l => s.portTo l (if s.laneEn l then lnIdle else lnDisabled)) s

/-- A lane's electrical idle of at least 1 ms begins. -/
def State.idleFrom (s : State) (l : Nat) : State := { s with laneIdle := tput s.laneIdle l (s.raw.toNat + 1) }
/-- Every lane of an octet goes into electrical idle for at least 1 ms (R339). -/
def State.octetHold (s : State) (o cause : Nat) : State :=
  ((List.range 8).map (8 * o + ·)).foldl State.idleFrom (s.octetIdle o cause)

/-- The lanes of an octet start (R339, R452). -/
def State.octetStart (s : State) (o : Nat) : State := (s.octPorts o).foldl State.startPort s

/-! Class B coding (R341, R342) -/

/-- The self-synchronous scrambler, its last 58 bits latest first, all ones before the first bit. -/
def scrambleFrom : List Bool → List Bool → List Bool
  | _, [] => []
  | h, d :: r =>
    let b := (d != h.getD 38 true) != h.getD 57 true
    b :: scrambleFrom ((b :: h).take 58) r
def scramble (d : List Bool) : List Bool := scrambleFrom (List.replicate 58 true) d
/-- The descrambler, from whatever 58 bits it holds. -/
def descrambleFrom : List Bool → List Bool → List Bool
  | _, [] => []
  | h, b :: r => ((b != h.getD 38 true) != h.getD 57 true) :: descrambleFrom ((b :: h).take 58) r

/-- Stuffing in the transmitter: the last bit sent and the run it ends. -/
def stuffFrom : Option Bool → Nat → List Bool → List Bool
  | _, _, [] => []
  | last, run, b :: r =>
    let run := if last = some b then run + 1 else 1
    if run = 31 then b :: (!b) :: stuffFrom (some !b) 1 r else b :: stuffFrom (some b) run r
def stuff (d : List Bool) : List Bool := stuffFrom none 0 d

/-- The receiver at one line bit (R342): itself after it, the bit it delivers, and whether a stuff bit was wrong. -/
def LineRx.unstuff1 (x : LineRx) (b : Bool) : LineRx × Option Bool × Bool :=
  if x.expect then ({ x with expect := false, run := 1, last := some b }, none, x.last == some b)
  else
    let run := if x.last = some b then x.run + 1 else 1
    ({ x with run := run, last := some b, expect := run == 31 }, some b, false)
/-- Line bits through the receiver and the descrambler: the bits delivered and the STUFF_ERR count. -/
def LineRx.feed (x : LineRx) : List Bool → LineRx × List Bool × Nat
  | [] => (x, [], 0)
  | b :: r =>
    match x.unstuff1 b with
    | (x, none, e) => let q := x.feed r; (q.1, q.2.1, q.2.2 + b01 e)
    | (x, some b, e) =>
      let d := (b != x.hist.getD 38 true) != x.hist.getD 57 true
      let q := ({ x with hist := (b :: x.hist).take 58 }).feed r
      (q.1, d :: q.2.1, q.2.2 + b01 e)
def rxInit : LineRx := ⟨none, 0, false, List.replicate 58 true, 0⟩

end Sys2Proof.Machine
end

