-- ==== Sys2Proof/Machine/Lanes.lean ====
section
/-! DEFINITION. Lanes.lean: the commands of the lane octets and lanes (R336 to R353) and of SYNCE_OUT (R76). -/
namespace Sys2Proof.Machine

/-- Whether octet o accepts a mode (R336). -/
def State.modeOk (s : State) (o m : Nat) : Bool :=
  match m with
  | 0 => true
  | 1 => tget 0 s.sdref o == 0
  | 2 => decide (o < 4) && tget 0 s.sdref o == 1
  | 3 => decide (8 ≤ o) && tget 0 s.sdref o == 0
  | 4 => true
  | _ => false

/-- A write of `LN_On_CFG` (R336, R339). -/
def State.lnOCfgWrite (s : State) (o : Nat) (v : U64) : State :=
  let old := s.ent (Key.lnOCfg o)
  if bf v 55 0 ≠ 0 ∨ !(s.modeOk o (bf v 63 60)) then s.status .range
  else if bf v 63 58 ≠ bf old 63 58 ∨ bit v 56 ≠ bit old 56 then
    (((s.octetIdle o 3).setEnt (Key.lnOCfg o) v).octetHold o 3).status .ok
  else (s.setEnt (Key.lnOCfg o) v).status .ok

/-- OCTET_RECONFIGURE (R339). -/
def execOctetReconfigure (rq : Requester) (o : Fin 16) (v : U64) (s : State) : Out :=
  .next (match s.checkWho rq (Key.lnOCfg o.val) v with
    | .ok => s.lnOCfgWrite o.val v
    | e => s.status e)

/-- OCTET_RESTART (R339): the lanes that wait in electrical idle start, and an enabled Gelpel port trains (R543). -/
def execOctetRestart (o : Fin 16) (s : State) : Out :=
  let s := (s.octPorts o.val).foldl (fun s l => if s.laneState l = lnIdle then s.startPort l else s) s
  .next (if 8 ≤ o.val then s.gplTrain ((o.val - 8) / 2) else s)

/-- A write of `LN_Ln_TEST` (R351). -/
def State.lnTestWrite (s : State) (l : Nat) (v : U64) : State :=
  let r := bf v 31 0
  if bf v 62 32 ≠ 0 ∨ !(if bit v 63 then decide (50000 ≤ r) && decide (r ≤ 112000) else decide (1250 ≤ r) && decide (r ≤ 56250)) then
    s.status .range
  else
    let new := s.laneMode l == omTest && s.fld (Key.lnTest l) 31 0 != r
    let s := s.setEnt (Key.lnTest l) v
    (if new then ((s.portDown l 3).portTo l (if s.laneEn l then lnIdle else lnDisabled)).idleFrom l else s).status .ok

/-- TEST_RATE_CHANGE (R351). -/
def execTestRateChange (rq : Requester) (l : Fin 128) (v : U64) (s : State) : Out :=
  .next (match s.checkWho rq (Key.lnTest l.val) v with
    | .ok => s.lnTestWrite l.val v
    | e => s.status e)

/-- A write of `LN_Ln_AN` (R345): an ability wider than the port is refused. -/
def State.lnAnWrite (s : State) (l : Nat) (v : U64) : State :=
  if fitting (bf v 8 0) (s.portOf l).2 ≠ bf v 8 0 then s.status .range else (s.setEnt (Key.lnAn l) v).status .ok

/-- Whether a write of `LN_Ln_CFG` keeps FIXED and FEC to the lane's mode. -/
def State.lnCfgOk (s : State) (l : Nat) (v : U64) : Bool :=
  let x := bf v 55 52
  let fec := bf v 51 50
  if s.laneMode l = omEth then
    bit v 57 || (decide (x ≤ 8) && (if x = 1 then decide (fec ≤ 1) else fec == abilityFec x false))
  else if s.laneMode l = omCpri then decide (1 ≤ x) && decide (x ≤ 10) && fec == 0
  else decide (fec ≤ 2)

/-- A write of `LN_Ln_CFG`: a change of EN, FIXED, FEC, AN_EN or LOOP restarts the port. -/
def State.lnCfgWrite (s : State) (l : Nat) (v : U64) : State :=
  let old := s.ent (Key.lnCfg l)
  if !(s.lnCfgOk l v) then s.status .range
  else
    let again := bit old 63 != bit v 63 || bf old 60 57 != bf v 60 57 || bf old 55 50 != bf v 55 50
    (if again then ((s.portDown l 3).setEnt (Key.lnCfg l) v).startPort l else s.setEnt (Key.lnCfg l) v).status .ok

/-- AN_RESOLVE (R345, R346): the highest common ability in the priority order of Clause 73. -/
def execAnResolve (l : Fin 128) (partner : BitVec 9) (fecReq : Bool) (s : State) : Out :=
  let f := l.val
  .next (
    if s.isFirst f ∧ s.laneState f = lnAnState then
      let both := (tget 0 s.laneAdv f).toNat &&& partner.toNat
      match (List.range 9).reverse.find? (fun b => both / 2 ^ b % 2 == 1) with
      | none => s
      | some b =>
        let s := (s.portLanes f).foldl (fun s q => s.setLaneState q lnTraining) { s with laneAt := tput s.laneAt f (s.raw.toNat + 1) }
        (s.setFld (Key.lnStat f) 59 56 b).setFld (Key.lnStat f) 55 54 (abilityFec b (fecReq || s.flag (Key.lnAn f) 15))
    else s)

/-- TRAINING_DONE (R346): the port is UP with its lanes in lock. -/
def execTrainingDone (l : Fin 128) (s : State) : Out :=
  .next (
    if s.isFirst l.val ∧ s.laneState l.val = lnTraining then
      (s.portLanes l.val).foldl (fun s q => (s.setLaneState q lnUp).setFld (Key.lnStat q) 3 2 3) s
    else s)

/-- Whether so many ms have passed since a port resolved, or lost its last ability (R347). -/
def State.portWaited (s : State) (f ms : Nat) : Bool := let t := tget 0 s.laneAt f; t != 0 && decide (t - 1 + msTicks ms ≤ s.raw.toNat)

/-- LT_TIMEOUT_DOWNSHIFT (R347): a port that is not UP within `LN_LT_TIMEOUT` loses its resolved ability, or negotiates it again. -/
def execLtTimeoutDownshift (l : Fin 128) (s : State) : Out :=
  let f := l.val
  .next (
    if s.isFirst f ∧ s.laneState f = lnTraining ∧ s.flag (Key.lnCfg f) 57 ∧ s.portWaited f (s.entN Key.lnLtTimeout) then
      if s.flag (Key.lnCfg f) 56 then
        let b := s.fld (Key.lnStat f) 59 56
        let a := (tget 0 s.laneAdv f).toNat
        let left := a - a / 2 ^ b % 2 * 2 ^ b
        let s := (s.incSat (Key.lnCnt f) 31 16 1).record 0x50 [w64 f, w64 b]
        { s.portTo f (if left = 0 then lnIdle else lnAnState) with laneAt := tput s.laneAt f (s.raw.toNat + 1), laneAdv := tput s.laneAdv f (BitVec.ofNat 9 left) }
      else s.portTo f lnAnState
    else s)

/-- AN_FULL_RESTART (R347): 1 s after no ability remained, negotiation restarts with the full set. -/
def execAnFullRestart (l : Fin 128) (s : State) : Out :=
  .next (
    if s.isFirst l.val ∧ s.laneState l.val = lnIdle ∧ s.laneMode l.val = omEth ∧ s.flag (Key.lnCfg l.val) 57 ∧
        tget 0 s.laneAdv l.val = 0 ∧ s.portWaited l.val 1000 then s.startPort l.val
    else s)

/-- A write of `LN_Ln_EYE_CTL` (R348). -/
def State.eyeWrite (s : State) (l : Nat) (v : U64) : State :=
  if bit v 63 ∧ s.flag (Key.lnEyeCtl l) 63 then s.status .busy
  else if bit v 63 ∧ bf v 62 61 ≠ 0 ∧ !(s.lanePam4 l) then s.status .range
  else
    let run := s.flag (Key.lnEyeCtl l) 63
    let s := s.setEnt (Key.lnEyeCtl l) (if run then setBit v 63 true else v)
    (if bit v 63 then s.setEnt (Key.lnEyeRes l) 0 else s).status .ok

/-- EYE_START (R348). -/
def execEyeStart (rq : Requester) (l : Fin 128) (v : U64) (s : State) : Out :=
  .next (match s.checkWrite rq (Key.lnEyeCtl l.val) (setBit v 63 true) with
    | .ok => s.eyeWrite l.val (setBit v 63 true)
    | e => s.status e)

/-- EYE_POINT_DONE (R348). -/
def execEyePointDone (l : Fin 128) (mismatch : Nat) (s : State) : Out :=
  .next (
    if s.flag (Key.lnEyeCtl l.val) 63 ∧ mismatch ≤ 2 ^ s.fld (Key.lnEyeCtl l.val) 5 0 then
      (s.setFlag (Key.lnEyeCtl l.val) 63 false).setEntN (Key.lnEyeRes l.val) (2 ^ 62 + min mismatch (2 ^ 48 - 1))
    else s)

/-- A write of `LN_Ln_SLIP` (R349). -/
def State.slipWrite (s : State) (l : Nat) (v : U64) : State :=
  if s.laneMode l ≠ omGelpel ∨ 1 < v.toNat then s.status .range
  else if s.flag (Key.lnStat l) 4 then s.status .busy
  else (if bit v 0 then s.setFlag (Key.lnStat l) 4 true else s).status .ok

/-- LANE_SLIP (R349). -/
def execLaneSlip (rq : Requester) (l : Fin 128) (v : U64) (s : State) : Out :=
  .next (match s.checkWho rq (Key.lnSlip l.val) v with
    | .ok => s.slipWrite l.val v
    | e => s.status e)

/-- SLIP_DONE (R349): the receive word boundary lies one UI later. -/
def execSlipDone (l : Fin 128) (s : State) : Out :=
  .next (
    if s.flag (Key.lnStat l.val) 4 then
      let x := tget rxInit s.rx l.val
      { s.setFlag (Key.lnStat l.val) 4 false with rx := tput s.rx l.val { x with pos := (x.pos + 63) % 64 } }
    else s)

/-- A read of `LN_Ln_RXWORD` (R349) while `line` arrives: the next 64 bits, unstuffed and descrambled, from the receive word boundary on;
a free value where the bits given do not reach that far, the entry's default where none are received. Stuff bits that are wrong are
counted (R344). -/
def State.rxword (s : State) (l : Nat) (line : List Bool) : U64 × State :=
  if s.laneMode l = omGelpel ∧ s.cdrLocked l then
    let x := tget rxInit s.rx l
    let (y, bits, e) := x.feed line
    let s := { s with rx := tput s.rx l { y with pos := (x.pos + bits.length) % 64 } }
    let s := if e = 0 then s else s.incSat (Key.lnCnt l) 15 0 e
    let word := (bits.drop ((64 - x.pos) % 64)).take 64
    if word.length = 64 then (w64 (word.foldl (fun a b => 2 * a + b01 b) 0), s) else let (v, s) := s.draw; (w64 v, s)
  else (0, s)

/-- RXWORD_READ (R349). -/
def execRxwordRead (rq : Requester) (l : Fin 128) (line : List Bool) (s : State) : Out :=
  .next (match s.checkRead rq (Key.lnRxword l.val) with
    | .ok => let (v, s) := s.rxword l.val line; s.answer (.value v)
    | e => s.status e)

/-- Whether a lane's receiver runs (table Lane behaviour by device state): in HOLD for the detection of loss of signal only. -/
def State.rxRuns (s : State) (l : Nat) : Bool :=
  s.laneEn l && s.laneMode l != omOff && s.laneState l != lnDisabled && (s.lanesRun (l / 8) || s.dev == .hold)

/-- LOS_DETECT (R353). -/
def execLosDetect (l : Fin 128) (s : State) : Out :=
  .next (
    if s.rxRuns l.val ∧ !(s.flag (Key.lnStat l.val) 1) then
      let s := ((s.setFlag (Key.lnStat l.val) 1 true).setSticky (Key.lnStat l.val) 0).incSat (Key.lnCnt l.val) 63 48 1
      let s := if s.laneMode l.val = omCpri then s.incSat (Key.cpriCnt l.val) 47 32 1 else s
      (s.abortEye l.val).portLost l.val 0
    else s)

/-- CDR_LOCK_LOSS (R353, R348). -/
def execCdrLockLoss (l : Fin 128) (s : State) : Out :=
  .next (
    if s.cdrLocked l.val then
      let s := ((s.setCdr l.val false).incSat (Key.lnCnt l.val) 47 32 1).abortEye l.val
      let s := { s.setFlag (Key.lnPrbs l.val) 29 false with rx := tdel s.rx l.val }
      s.portLost l.val 1
    else s)

/-- BLOCK_LOCK_LOSS (R353). -/
def execBlockLockLoss (l : Fin 128) (s : State) : Out :=
  .next (if s.flag (Key.lnStat l.val) 3 then (s.setFlag (Key.lnStat l.val) 3 false).portLost l.val 2 else s)

/-- CDR_LOCK_ACQUIRE (R76, R353): the lane's clock recovery locks; a lane that trains nothing is then UP, and an output that
follows it is no longer squelched. -/
def execCdrLockAcquire (l : Fin 128) (s : State) : Out :=
  .next (
    if s.rxRuns l.val ∧ s.lanesRun (l.val / 8) ∧ !(s.cdrLocked l.val) then
      let s := (s.setCdr l.val true).setFlag (Key.lnStat l.val) 1 false
      let s := if s.laneMode l.val ≠ omEth ∧ s.laneState l.val = lnIdle ∧ s.lanesRun (l.val / 8) then s.setLaneState l.val lnUp else s
      (List.range 2).foldl (fun s n =>
        if s.fld (Key.clkSynceOut n) 6 0 = l.val then { s with synceLow := tput s.synceLow n false } else s) s
    else s)

/-- SYNCE_SQUELCH (R76): the selected lane's CDR is not locked; the output is held low. SQUELCH follows the lock at once. -/
def execSynceSquelch (n : Fin 2) (s : State) : Out :=
  .next (if s.cdrLocked (s.fld (Key.clkSynceOut n.val) 6 0) then s else { s with synceLow := tput s.synceLow n.val true })

/-- PRBS_CHECKER_LOCK (R350): the checker locks to the pattern; while it is locked, `errors` more bits are wrong. -/
def execPrbsCheckerLock (l : Fin 128) (errors : Nat) (s : State) : Out :=
  .next (
    if s.flag (Key.lnPrbs l.val) 30 ∧ s.rxRuns l.val ∧ s.dev ≠ .hold then
      if s.flag (Key.lnPrbs l.val) 29 then s.inc64 (Key.lnPrbsErr l.val) errors else s.setFlag (Key.lnPrbs l.val) 29 true
    else s)

/-- Whether a loopback or the generator keeps a lane's data from its MAC or link (R350, R351). -/
def State.laneMuted (s : State) (l : Nat) : Bool :=
  s.fld (Key.lnCfg l) 60 58 != 0 || s.flag (Key.lnPrbs l) 31 || s.laneMode l == omTest

/-- Whether the port of MAC m carries frames. -/
def State.macUp (s : State) (m : Nat) : Bool :=
  s.macActive m && s.laneState m == lnUp && (s.portLanes m).all (fun l => !(s.laneMuted l))

end Sys2Proof.Machine
end

