-- ==== Sys2Proof/Machine/Live.lean ====
section
/-! DEFINITION. Live.lean: the commands of the live tables (R34 to R45). -/
namespace Sys2Proof.Machine

/-- A place within a table. -/
def inTable (t : TableId) (row word : Nat) : Bool := decide (row < liveRows t) && decide (word < liveWords t)

/-- A write by a requester, of whom the access right and the owner rule are asked. -/
def asWriter (s : State) (rq : Requester) (k : Nat) (v : U64) (f : State) : State :=
  match s.checkWho rq k v with
  | .ok => f
  | e => s.status e

/-- LIVE_STAGED_WRITE (R34, R36). -/
def execLiveStagedWrite (rq : Requester) (t : TableId) (row : Nat) (word : Nat) (v : U64) (s : State) : Out :=
  .next (if inTable t row word then asWriter s rq (rowKey t 1 row word) v (s.stagedWrite t row word v) else s)

/-- LIVE_ARM (R34, R36): a write of the control word with ARM. -/
def execLiveArm (rq : Requester) (t : TableId) (s : State) : Out :=
  .next (asWriter s rq (liveCtlKey t) (w64 (2 ^ 29)) (s.liveCtlWrite t (w64 (2 ^ 29))))

/-- LIVE_CANCEL (R37): a write of the control word with CANCEL. -/
def execLiveCancel (rq : Requester) (t : TableId) (s : State) : Out :=
  .next (asWriter s rq (liveCtlKey t) (w64 (2 ^ 28)) (s.liveCtlWrite t (w64 (2 ^ 28))))

/-- LIVE_CLR_CNT (R45): a write of the control word with CLR_CNT, perhaps with a command. -/
def execLiveClrCnt (rq : Requester) (t : TableId) (arm : Bool) (cancel : Bool) (s : State) : Out :=
  let v := w64 (b01 arm * 2 ^ 29 + b01 cancel * 2 ^ 28 + 2 ^ 27)
  .next (asWriter s rq (liveCtlKey t) v (s.liveCtlWrite t v))

/-- LIVE_SWAP (R34): an armed table's cycle boundary is reached. With a boundary at least 64 FCLK cycles after the arm the
copies swap; an earlier boundary sets LATE. A slot plan with EN clear stays armed (R115). -/
def execLiveSwap (t : TableId) (s : State) : Out :=
  .next (
    if s.liveState t = lsArmed ∧ s.liveMaySwap t then
      match (s.pendingBoundary t).filter (fun b => decide (s.tickOf b ≤ s.raw.toNat)) with
      | some b => s.liveSwapNow t b
      | none => if s.boundaryReached t (s.lv t).armedAt then s.setLate t true else s
    else s)

/-- LIVE_COPY_DONE (R35). -/
def execLiveCopyDone (t : TableId) (s : State) : Out :=
  .next (if s.liveState t = lsCopying then s.liveCopied t else s)

/-- LIVE_DIRECT_WRITE (R36, R38 to R41). -/
def execLiveDirectWrite (rq : Requester) (t : TableId) (row : Nat) (word : Nat) (v : U64) (s : State) : Out :=
  .next (if inTable t row word then asWriter s rq (rowKey t 0 row word) v (s.directWrite t row word v) else s)

/-- LIVE_DEFERRED_APPLY (R39): within 2 FCLK cycles after the row's last occurrence ends. -/
def execLiveDeferredApply (t : TableId) (row : Nat) (s : State) : Out :=
  .next (if s.executing t row then s else s.applyDeferred t row)

end Sys2Proof.Machine
end

