-- ==== Sys2Proof/Machine/TxCore.lean ====
section
/-!
DEFINITION. TxCore.lean: transmit shaping's gate (R277), symbol lengths and ramps (R276, R278) and PA-enable pins (R280).
-/
namespace Sys2Proof.Machine

/-- Whether TTRIG pin p is active (R67, R72): an occurrence of an enabled unit, whose owner is not in reset, drives it. -/
def State.ttrigActive (s : State) (p : Nat) : Bool :=
  (List.finRange 64).any (fun u => s.ttRuns u && !(s.ttOwnerReset u) && (s.lv (.trig u)).occ.any (fun o =>
    bf (o.words.getD 1 0) 59 56 == 4 && bf (o.words.getD 1 0) 47 32 == p &&
      (let w := s.fld (Key.pinGpioCfg p) 55 52; w == 15 || w == s.entN (Key.ttOwner u.val))))

/-- Fields of `TX_CFG`. -/
def State.txEn (s : State) (c : Nat) : Bool := s.flag (Key.txCfg c) 63
def State.lbtReq (s : State) (c : Nat) : Bool := s.flag (Key.txCfg c) 62
def txN (v : U64) : Nat := (bf v 56 52 + 1) * 128
def txMu (v : U64) : Nat := bf v 59 58

/-- The intervals over which a carrier's gate is open (R277). -/
def State.gates (s : State) (c : Nat) : List (Nat × Nat) := tget [] s.txGates c

/-- Where the open gate that holds instant a ends; a itself where the gate is closed there. -/
def gateEnd (gs : List (Nat × Nat)) : Nat → Nat → Nat
  | 0, a => a
  | n + 1, a =>
    match gs.find? (fun g => decide (g.1 ≤ a) && decide (a < g.2)) with
    | some g => gateEnd gs n g.2
    | none => a

/-- Where the gate of carrier c that is open at a closes. -/
def State.gateClose (s : State) (c a : Nat) : Nat := gateEnd (s.gates c) (s.gates c).length a

/-- Whether the whole interval from a to b lies within the open gate. -/
def State.gateCovers (s : State) (c a b : Nat) : Bool := decide (b ≤ s.gateClose c a)

/-- Whether the gate is open at the current computed time. -/
def State.gateOpen (s : State) (c : Nat) : Bool := decide (s.now < s.gateClose c s.now)

/-- A CLEAR result opens the gate (R277). -/
def State.openGate (s : State) (c a b : Nat) : State := { s with txGates := tput s.txGates c (s.gates c ++ [(a, b)]) }

/-- Whether TTRIG pin p is active at computed time t (R280): its rows are, and the gates of the carriers that name it with GATE_EN. -/
def State.paActive (s : State) (p t : Nat) : Bool :=
  s.ttrigActive p && (List.range 384).all (fun c =>
    !(s.flag (Key.txPa c) 31) || s.fld (Key.txPa c) 3 0 != p || !(s.lbtReq c) || decide (t < s.gateClose c t))

/-- Whether partition w, owner of a pad, is in reset: RESET or HELD. -/
def State.padOwnerReset (s : State) (w : Nat) : Bool :=
  let st := s.fld (Key.rstPtStat w) 3 0
  decide (w < 8) && (st == 1 || st == 4)

/-- Whether pad n in MODE TTRIG is driven active at computed time t (R280, R558, R559): not before START, not in HOLD, not while its
owner is in reset. -/
def State.padActive (s : State) (n t : Nat) : Bool :=
  let v := s.ent (Key.pinGpioCfg n)
  bf v 63 62 == 3 && decide (phStart ≤ s.phase) && s.dev != .hold && !(s.padOwnerReset (bf v 55 52)) && s.paActive n t

/-- The checks whose air time lies before computed time t are made, each at its own instant (R280): the rows that drive the pin change
by commands of their own, so those that drive it now drove it at each of these instants. -/
def State.paDue (s : State) (t : Nat) : State :=
  let due := s.paChecks.filter (fun k => k.time < t)
  let s := { s with paChecks := s.paChecks.filter (fun k => !(k.time < t)) }
  due.foldl (fun s k =>
    if s.padActive (s.fld (Key.txPa k.carrier) 3 0) k.time then s
    else (s.incSat (Key.txStat k.carrier) 47 32 1).record 0x41
      [w64 k.carrier, w64 k.moment, t128Sec k.time, t128Ns k.time]) s

/-! Symbols -/

/-- i samples as a computed-time length. -/
def samplesT (v : U64) (i : Nat) : Nat := i * secU / (txN v * 15000 * 2 ^ txMu v)

/-- Whether bit b of the pattern is 1 (R276). -/
def State.tddOn (s : State) (c sl l : Nat) : Bool :=
  let v := s.ent (Key.txCfg c)
  let n := bf v 23 16
  let b := sl % n * 14 + l
  s.flag (Key.txTdd c (b / 64)) (b % 64)

/-- T[i] of `TX_RAMP_TAB`, and T[64]. -/
def State.rampTab (s : State) (c i : Nat) : Int :=
  if 64 ≤ i then 32767 else (s.fld (Key.txRampTab c (i / 4)) (16 * (i % 4) + 15) (16 * (i % 4)) : Nat)

/-- Gain G of ramp position n of length len (R278, table Ramp shapes). -/
def State.rampGain (s : State) (c shape len n : Nat) : Int :=
  let a := n + 1
  let d := len + 1
  let g : Int := match shape with
    | 1 => ((32768 * a / d : Nat) : Int)
    | 2 => (16384 * (2 ^ 80 : Nat) - 16384 * cosFix a (2 * d) + (2 ^ 30 : Nat)) / (2 ^ 80 : Nat)
    | _ => let i := 64 * a / d
      s.rampTab c i + (s.rampTab c (i + 1) - s.rampTab c i) * ((64 * a - i * d : Nat) : Int) / (d : Int)
  min g 32767

/-- A sample multiplied by a gain: each component floor(x × G / 32,768). -/
def scaleC (g : Int) (x : C16) : C16 := BitVec.ofNat 32 (packC (reOf x.toNat * g / 32768) (imOf x.toNat * g / 32768))

/-- Ramp-up of an on symbol's samples, and the suffix from a symbol's useful part (R278). -/
def State.rampUp (s : State) (c : Nat) (xs : List C16) : List C16 :=
  let v := s.ent (Key.txCfg c)
  let l := bf v 47 36
  xs.zipIdx.map (fun q => if bf v 61 60 ≠ 0 ∧ q.2 < l then scaleC (s.rampGain c (bf v 61 60) l q.2) q.1 else q.1)
def State.suffixOf (s : State) (c : Nat) (useful : List C16) : List C16 :=
  let v := s.ent (Key.txCfg c)
  let l := bf v 35 24
  if bf v 61 60 = 0 then []
  else ((useful.take l).zipIdx).map (fun q => scaleC (s.rampGain c (bf v 61 60) l (l - 1 - q.2)) q.1)

end Sys2Proof.Machine
end

