-- ==== Sys2Proof/Machine/Timebase.lean ====
section
/-! DEFINITION. Timebase.lean: the commands of the clocks, the timebase, the captures and PPS_OUT (R46 to R60, R73 to R75). -/
namespace Sys2Proof.Machine

/-- CLK_STATUS. -/
def clkRefOk : Nat := 0
def clkFreerun : Nat := 1
def clkLock : Nat := 2

/-- CLKREF_LOSS (R48): the PLL runs freely and no clock stops. -/
def execClkrefLoss (s : State) : Out :=
  .next (
    if s.flag Key.clkStatus clkRefOk then
      let s := { s with refLostRaw := s.raw.toNat }
      ((((s.setFlag Key.clkStatus clkRefOk false).setFlag Key.clkStatus clkLock false).setFlag Key.clkStatus clkFreerun true).inc32
        Key.clkRefLossCnt 1).record 0x10 [0, 0]
    else s)

/-- CLKREF_RETURN (R49): CLKREF edges are valid again, and the record names the µs of their absence; the PLL relocks later. -/
def execClkrefReturn (s : State) : Out :=
  .next (
    if s.flag Key.clkStatus clkFreerun && !(s.flag Key.clkStatus clkRefOk) then
      (s.setFlag Key.clkStatus clkRefOk true).record 0x10 [1, w64 (usOf (s.raw.toNat - s.refLostRaw))]
    else s)

/-- A checked timebase write is registered (R54). -/
def State.register (s : State) (w : TbWrite) : State := { s with tbWrites := s.tbWrites ++ [w] }

/-- TB_INCREMENT_WRITE (R53, R54). -/
def execTbIncrementWrite (rq : Requester) (v : U64) (s : State) : Out :=
  .next (s.guarded (s.checkWrite rq Key.tbIncrement v) (s.register (.rate v)))

/-- TB_STEP_WRITE (R56). -/
def execTbStepWrite (rq : Requester) (v : U64) (s : State) : Out :=
  .next (s.guarded (s.checkWrite rq Key.tbStep v) (s.register (.step v)))

/-- TB_OFFSET_SECONDS_WRITE (R56, R415): the seconds are held. -/
def execTbOffsetSecondsWrite (rq : Requester) (v : U64) (s : State) : Out :=
  .next (s.guarded (s.checkWrite rq (Key.tbOffset 0) v)
    { s with hold := tput s.hold (slotKey rq (Key.tbOffset 0)) v })

/-- TB_OFFSET_WRITE (R56): the nanoseconds complete the offset, with the seconds held, if any. A refused write of the
final slot empties the hold register (R415). -/
def execTbOffsetWrite (rq : Requester) (v : U64) (s : State) : Out :=
  let k := slotKey rq (Key.tbOffset 0)
  let s' := { s with hold := tdel s.hold k }
  match s.checkWrite rq (Key.tbOffset 1) v with
  | .ok => .next ((s'.register (.offset (tfind s.hold k) v)).status .ok)
  | .range => .next (s'.status .range)
  | e => .next (s.status e)

/-- Packs that are idle have been so for n ticks more (R468). -/
def State.countIdle (s : State) (n : Nat) : State :=
  { s with packIdleFor := (List.range 8).foldl (fun t p => if s.packIdle p true then tput t p (tget 0 t p + n) else tdel t p) s.packIdleFor }

/-- TIMEBASE_TICK_APPLY (R46, R51, R57): n ticks of TCLK pass, the registered writes taking effect at the first. Once its domain has
left its POR and the PLL has locked, TCLK never stops. -/
def execTimebaseTickApply (n : Nat) (s : State) : Out :=
  .next (
    if n = 0 ∨ !s.pwrgood ∨ s.clocksStopped then s
    else
      let s := s.paDue { s with raw := s.raw + BitVec.ofNat 64 n }.now
      let s1 := { s with raw := s.raw + 1 }.tbApply
      let s2 := { s1 with raw := s1.raw + BitVec.ofNat 64 (n - 1) }
      let s3 := (s2.countTime (usOf (s.raw.toNat + n) - usOf s.raw.toNat) n).countIdle n
      (List.finRange 64).foldl (fun s u => s.oneshotEnd u) s3)

/-- A read that captures the raw counter and its TIME128 in the reader's slot (R59). -/
def State.captureNow (s : State) (rq : Requester) : State :=
  { s with capSlots := tput s.capSlots (rqSlot rq) ⟨s.raw, s.now⟩ }

/-- TB_NOW_READ (R59): subindex 0 captures, 1 and 2 read the reader's slot. -/
def execTbNowRead (rq : Requester) (sub : Fin 3) (s : State) : Out :=
  match s.checkRead rq (Key.tbNow sub.val) with
  | .ok =>
    let c := tget ⟨0, 0⟩ s.capSlots (rqSlot rq)
    match sub with
    | 0 => .next ((s.captureNow rq).answer (.value s.raw))
    | 1 => .next (s.answer (.value (t128Sec c.time)))
    | 2 => .next (s.answer (.value (t128Ns c.time)))
  | e => .next (s.status e)

/-- Whether capture unit n takes an edge of a source (R73). -/
def State.capTakes (s : State) (n source : Nat) (rising : Bool) : Bool :=
  let c := s.ent (Key.tbCapCfg n)
  bit c 31 && bf c 6 0 == source && (if rising then bit c 8 else bit c 9)

/-- The raw value and the TIME128 of an edge (R73): PPS_IN, source 127, has the resolution of 1/8 TCLK, a GPIO that of the tick. -/
def State.edgeCap (s : State) (source : Nat) (eighth : Fin 8) : Cap :=
  let e := if source = 127 then eighth.val else 0
  ⟨s.raw, (s.offset + (8 * s.raw.toNat + e) * s.inc / 2 ^ 19) % timeMod⟩

/-- CAPTURE_EDGE (R73, R74): an edge in eighth `eighth` of the present tick; every capture unit that watches the source stores raw
value and TIME128; a full FIFO counts the capture in OVF. -/
def execCaptureEdge (source : BitVec 7) (rising : Bool) (eighth : Fin 8) (s : State) : Out :=
  .next ((List.range 8).foldl (fun s n =>
    if s.capTakes n source.toNat rising then
      let q := tget [] s.capFifo n
      if q.length < 4 then { s with capFifo := tput s.capFifo n (q ++ [s.edgeCap source.toNat eighth]) }
      else s.incSat (Key.tbCapStat n) 15 0 1
    else s) s)

/-- CAPTURE_POP (R74): a read of TB_CAPn_RAW pops the head; from an empty FIFO it returns zero and sets EMPTY, and TB_CAPn_TIME goes
on returning the entry popped last (DESIGN CHOICE, assumption 78). -/
def execCapturePop (rq : Requester) (n : Fin 8) (s : State) : Out :=
  match s.checkRead rq (Key.tbCapRaw n.val) with
  | .ok =>
    match tget [] s.capFifo n.val with
    | c :: r => .next ({ s with capFifo := tput s.capFifo n.val r, capPopped := tput s.capPopped n.val c }.answer (.value c.raw))
    | [] => .next ((s.setFlag (Key.tbCapStat n.val) 31 true).answer (.value 0))
  | e => .next (s.status e)

/-- Whether a reset of the whole device is in progress. -/
def State.deviceInReset (s : State) : Bool :=
  !s.pwrgood || !s.resetN || s.resetJob.elim false (fun j => j.kind != .unit && j.kind != .part)

/-- Whether PPS_OUT may be high: EN, not gated by FREERUN, not in HOLD or reset (R75). -/
def State.ppsOpen (s : State) : Bool :=
  s.flag Key.tbPpsOutCfg 0 && !(s.flag Key.clkStatus clkFreerun && s.flag Key.tbPpsOutCfg 1) && s.dev != .hold && !s.deviceInReset

/-- The level of PPS_OUT: within the WIDTH of a rise, while nothing holds it low (R75). -/
def State.ppsPin (s : State) : Bool := s.ppsOut && s.ppsOpen

/-- Whole seconds plus OFFSET that computed time t has reached (R75). -/
def State.ppsCount (s : State) (t : Nat) : Int :=
  ((t : Int) - sgn 32 (s.fld Key.tbPpsOutCfg 63 32) * (2 ^ 32 : Nat)) / (secU : Nat)

/-- PPS_OUT_RISE (R75): the computed time crosses a whole second plus OFFSET at this tick. The tick before is judged by the offset and
the rate in force, so a step of the time across a whole second makes no rise (DESIGN CHOICE, assumption 78). -/
def execPpsOutRise (s : State) : Out :=
  .next (if s.ppsOpen ∧ s.ppsCount (s.timeOf (s.raw.toNat - 1)) < s.ppsCount s.now then { s with ppsOut := true, ppsRaw := s.raw.toNat } else s)

/-- PPS_OUT_FALL (R75): WIDTH µs after the rise. -/
def execPpsOutFall (s : State) : Out :=
  .next (if s.fld Key.tbPpsOutCfg 31 8 * 12288 ≤ 25 * (s.raw.toNat - s.ppsRaw) then { s with ppsOut := false } else s)

end Sys2Proof.Machine
end

