-- ==== Sys2Proof/Machine/Transmit.lean ====
section
/-! DEFINITION. Transmit.lean: transmit shaping of downlink streams (R275 to R281). -/
namespace Sys2Proof.Machine

/-- Key of a stream's shaping state. -/
def txKey (c stream : Nat) : Nat := c * 65536 + stream % 65536
def txInit : Tx := ⟨false, [], 0, []⟩
def State.txs (s : State) (c st : Nat) : Tx := tget txInit s.tx (txKey c st)
def State.setTxs (s : State) (c st : Nat) (x : Tx) : State := { s with tx := tput s.tx (txKey c st) x }

/-- A check of the PA-enable pin is due at an air time, with GATE_EN (R280). -/
def State.paWatch (s : State) (c moment time : Nat) : State :=
  if s.flag (Key.txPa c) 31 then { s with paChecks := s.paChecks ++ [⟨c, moment, time⟩] } else s

/-- Samples of zero. -/
def zeros (n : Nat) : List C16 := List.replicate n 0

/-- The samples of a suffix that leave before the gate closes (R279). -/
def State.suffixKept (s : State) (c : Nat) (v : U64) (air : Nat) (suf : List C16) : List C16 :=
  if bit v 62 then ((suf.zipIdx).filter (fun q => air + samplesT v q.2 < s.gateClose c air)).map (·.1) else suf

/-- The cases of R281 that a setting of EN meets. -/
def State.txCfgOk (s : State) (c : Nat) (v : U64) : Bool :=
  let n := bf v 23 16
  decide (1 ≤ n) && decide (n ≤ 80) && 10 * 2 ^ txMu v % n == 0 && decide (bf v 47 36 ≤ txN v * 144 / 2048) && decide (bf v 35 24 ≤ txN v) &&
  (bf v 61 60 != 3 || (List.range 64).all (fun i => decide (s.rampTab c i ≤ 32767)))

/-- A write of `TX_CFG` (R281). -/
def State.txCfgWrite (s : State) (c : Nat) (v : U64) : State :=
  let k := Key.txCfg c
  if s.flag k 63 ∧ setBit (s.ent k) 63 false ≠ setBit v 63 false then s.status .busy
  else if bit v 63 ∧ !(s.txCfgOk c v) then s.status .range
  else (s.setEnt k v).status .ok

/-- TX_CFG_ENABLE (R281). -/
def execTxCfgEnable (rq : Requester) (c : Fin 384) (v : U64) (s : State) : Out :=
  .next (match s.checkWrite rq (Key.txCfg c.val) v with
    | .ok => s.txCfgWrite c.val v
    | e => s.status e)

/-- TX_GATE_CLOSE (R277): the intervals of a carrier's gate that have ended are gone. -/
def execTxGateClose (c : Fin 384) (s : State) : Out :=
  .next { s with txGates := tput s.txGates c.val ((s.gates c.val).filter (fun g => s.now < g.2)) }

/-- `TX_GATE` as read: OPEN and the nanoseconds of open gate remaining. -/
def State.txGateLive (s : State) (c : Nat) : U64 :=
  let e := s.gateClose c s.now
  w64 (b01 (s.gateOpen c) * 2 ^ 63 + min ((e - s.now) / 2 ^ 32) (2 ^ 32 - 1))

end Sys2Proof.Machine
end

