-- ==== Sys2Proof/Machine/EthCore.lean ====
section
/-!
DEFINITION. EthCore.lean: what the Ethernet MACs share (R354 to R366, R383 to R386): frames, timestamps, egress queues, gates,
host rings and PTP messages.
-/
namespace Sys2Proof.Machine

def macInit : Mac := ⟨[], [], 0, [], 0, 0, [], [], false, 0, 0, []⟩
def State.mc (s : State) (m : Nat) : Mac := tget macInit s.mac m
def State.setMc (s : State) (m : Nat) (x : Mac) : State := { s with mac := tput s.mac m x }

def State.ethBit (s : State) (m i : Nat) : Bool := s.flag (Key.ethCfg m) i
def State.maxLen (s : State) (m : Nat) : Nat := s.fld (Key.ethCfg m) 13 0

/-- Whether MAC m is in service with its link up. -/
def State.ethRuns (s : State) (m : Nat) : Bool :=
  s.macUp m && s.unitRuns (macUnit m) && s.ethBit m 63 && decide (s.entN (Key.ethOwner m) < 8)

/-- `ETH_En_CFG` STATE, live. -/
def State.ethState (s : State) (m : Nat) : Nat := if !(s.macActive m) then 0 else if s.laneState m = lnUp then 2 else 1

/-- A MAC's counter counts (table Per-MAC counters). -/
def State.ethCount (s : State) (m i n : Nat) : State := s.inc64 (Key.ethCnt m i) n

/-! Bytes on the wire: most significant first -/

/-- The number in n bytes at an offset, big-endian. -/
def be (b : List Byte) (off n : Nat) : Nat := beNat ((b.drop off).take n)
/-- The bytes with the n bytes at an offset replaced. -/
def patch (b : List Byte) (off : Nat) (x : List Byte) : List Byte := b.take off ++ x ++ b.drop (off + x.length)

/-- The CRC-32 of IEEE 802.3 of bytes, as a number; PRESUMED the reflected form with polynomial 0xEDB88320. -/
def crcBit (g r : Nat) : Nat := if r % 2 = 1 then r / 2 ^^^ g else r / 2
def crcByte (g r : Nat) (b : Byte) : Nat := (List.range 8).foldl (fun r _ => crcBit g r) (r ^^^ b.toNat)
def crc32 (b : List Byte) : Nat := b.foldl (crcByte 0xEDB88320) 0xFFFFFFFF ^^^ 0xFFFFFFFF

/-- The FCS of a frame, lowest bits first. -/
def fcsOf (b : List Byte) : List Byte := leBytes 4 (crc32 b)

def dstOf (f : List Byte) : Nat := be f 0 6
def srcOf (f : List Byte) : Nat := be f 6 6
def isGroup (a : Nat) : Bool := a / 2 ^ 40 % 2 == 1
def broadcast : Nat := 2 ^ 48 - 1

/-- The VLAN tag of a frame, its Ethertype after at most one tag, and where its payload begins. -/
structure L2 where
  tag : Option (Nat × Nat)
  etype : Nat
  off : Nat
def l2Of (f : List Byte) : L2 :=
  if be f 12 2 = 0x8100 then ⟨some (be f 14 2 / 2 ^ 13, be f 14 2 % 2 ^ 12), be f 16 2, 18⟩ else ⟨none, be f 12 2, 14⟩

/-- Where the UDP header of a frame lies, if it carries UDP. -/
def udpOf (f : List Byte) : Option Nat :=
  let h := l2Of f
  if h.etype = 0x0800 ∧ be f (h.off + 9) 1 = 17 then some (h.off + be f h.off 1 % 16 * 4)
  else if h.etype = 0x86DD ∧ be f (h.off + 6) 1 = 17 then some (h.off + 40)
  else none
def udpPort (f : List Byte) : Option Nat := (udpOf f).map (fun u => be f (u + 2) 2)

/-! PTP (R384) -/

/-- Where the PTP message of a frame lies, if it carries one. -/
def ptpOf (f : List Byte) : Option Nat :=
  let h := l2Of f
  if h.etype = 0x88F7 then some h.off
  else if udpPort f = some 319 then (udpOf f).map (· + 8)
  else none
/-- Whether a frame carries a PTP event message. -/
def ptpEvent (f : List Byte) : Bool := match ptpOf f with | some o => decide (be f o 1 % 16 ≤ 3) | none => false
def ptpSync (f : List Byte) : Bool := match ptpOf f with | some o => be f o 1 % 16 == 0 | none => false

/-- The ones' complement sum of the 16-bit words of bytes, folded. -/
def onesSum : List Byte → Nat → Nat
  | a :: b :: r, n => let x := n + a.toNat * 256 + b.toNat; onesSum r (if 65536 ≤ x then x - 65535 else x)
  | [a], n => let x := n + a.toNat * 256; if 65536 ≤ x then x - 65535 else x
  | [], n => n

/-- The UDP checksum of a changed frame (R385): 0 over IPv4, recomputed over IPv6. -/
def udpFix (f : List Byte) : List Byte :=
  let h := l2Of f
  match udpOf f with
  | none => f
  | some u =>
    if h.etype = 0x0800 then patch f (u + 6) [0, 0]
    else
      let len := be f (u + 4) 2
      let body := patch ((f.drop u).take len) 6 [0, 0]
      let x := 65535 - onesSum ((f.drop (h.off + 8)).take 32 ++ beBytes 4 len ++ beBytes 4 17 ++ body) 0
      patch f (u + 6) (beBytes 2 (if x = 0 then 65535 else x))

/-- The correctionField rises by a number of 2^-16 ns, up to its greatest value (R386). -/
def ptpCorrect (f : List Byte) (n : Nat) : List Byte :=
  match ptpOf f with
  | none => f
  | some o => udpFix (patch f (o + 8) (beBytes 8 (uns 64 (min (sgn 64 (be f (o + 8) 8) + n) (2 ^ 63 - 1)))))

/-- The one-step Sync of R385. -/
def ptpOnestep (f : List Byte) (t : Nat) : List Byte :=
  match ptpOf f with
  | none => f
  | some o => ptpCorrect (patch f (o + 34) (beBytes 6 (t / secU % 2 ^ 48) ++ beBytes 4 (t % secU / 2 ^ 32))) (t % 2 ^ 32 / 2 ^ 16)

/-! Timestamps (R383) -/

/-- A raw instant in eighths of a tick, the eighth being drawn, and its computed time. -/
def State.stamp (s : State) : Nat × Nat × State :=
  let (e, s) := s.drawBelow 8
  let r := s.raw.toNat * 8 + e
  (r, (s.offset + r * s.inc / 2 ^ 19) % timeMod, s)
/-- A time with a signed adjustment of 2^-16 ns. -/
def adjT (t adj : Nat) : Nat := (((t : Int) + sgn 32 adj * 65536) % (timeMod : Nat)).toNat
def State.ingress (s : State) (m t : Nat) : Nat := adjT t (s.fld (Key.ethTsAdj m) 63 32)
def State.egress (s : State) (m t : Nat) : Nat := adjT t (s.fld (Key.ethTsAdj m) 31 0)

/-- The 12 bytes of a descriptor's timestamp. -/
def stampBytes (t : Nat) : List Byte :=
  leBytes 4 (t / secU % 2 ^ 32) ++ leBytes 4 (t % secU / 2 ^ 32) ++ leBytes 4 (t % 2 ^ 32)

/-! Egress queues (R362) -/

/-- Counts by kind of destination: base counter 2 or 0x14. -/
def State.countDst (s : State) (m i dst : Nat) : State :=
  if dst = broadcast then s.ethCount m (i + 2) 1 else if isGroup dst then s.ethCount m (i + 1) 1 else s.ethCount m i 1

def Mac.q (x : Mac) (q : Nat) : List TxFrame := tget [] x.queues q
def Mac.setQ (x : Mac) (q : Nat) (l : List TxFrame) : Mac := { x with queues := tput x.queues q l }

/-- A frame joins an egress queue. -/
def State.enqueue (s : State) (m q : Nat) (f : TxFrame) : State :=
  let x := s.mc m
  s.setMc m (x.setQ q (x.q q ++ [{ f with headSince := s.now }]))
/-- A frame without marks. -/
def plainFrame (b : List Byte) : TxFrame := ⟨b, none, false, false, none, false, none, 0⟩
/-- A queue loses its head; the next frame is at the head from now on. -/
def State.dequeue (s : State) (m q : Nat) : State :=
  let x := s.mc m
  s.setMc m (x.setQ q (match (x.q q).drop 1 with | [] => [] | f :: r => { f with headSince := s.now } :: r))

def State.fhQ (s : State) (m : Nat) : Nat := s.fld (Key.ethQmap m) 42 40
def State.flQ (s : State) (m : Nat) : Nat := s.fld (Key.ethQmap m) 38 36
def State.pcpQ (s : State) (m p : Nat) : Nat := s.fld (Key.ethQmap m) (4 * p + 2) (4 * p)

/-- Gbit/s of an ability. -/
def abilityGbps (b : Nat) : Nat := match b with | 0 => 10 | 1 => 25 | 2 => 50 | 3 => 100 | 4 => 100 | 5 => 100 | 6 => 200 | 7 => 200 | _ => 400

/-- Bytes of a frame as sent, with padding and FCS. -/
def wireLen (b : List Byte) : Nat := max 60 b.length + 4
def wireBytes (b : List Byte) : List Byte := let p := b ++ List.replicate (60 - b.length) 0; p ++ fcsOf p

/-- The time a frame's transmission takes, with preamble and inter-packet gap (R362). -/
def State.txTime (s : State) (m : Nat) (b : List Byte) : Nat :=
  (wireLen b + 20) * 8 * 2 ^ 32 / abilityGbps (s.fld (Key.lnStat m) 59 56)

/-! Gates (R362 to R365) -/

def State.gclEn (s : State) (m : Nat) : Bool := s.flag (Key.gclCfg m) 63
def State.gclCycleT (s : State) (m : Nat) : Nat := nsT (s.entN (Key.gclCycle m))
/-- The instant gating started or starts (R365). -/
def State.gclStart (s : State) (m : Nat) : Nat := gclBaseT s m + (s.mc m).gclFrom * s.gclCycleT m

/-- OFFSET and end of a gate row as computed-time lengths. -/
def rowSpan (ws : List U64) : Nat × Nat :=
  let o := bf (ws.getD 1 0) 31 0
  (nsT o, nsT (o + bf (ws.getD 0 0) 31 0))

/-- The gate list of a MAC as it stands: its latched intervals and its enabled rows. -/
structure GateList where
  latched : List (Nat × Nat × Nat)
  rows : List (Nat × Nat × Nat)
  dflt : Nat
  base : Nat
  cycle : Nat
def State.gateList (s : State) (m : Fin 128) : GateList where
  latched := (s.lv (.gcl m)).occ.map (fun o =>
    (o.time, o.time + nsT (bf (o.words.getD 0 0) 31 0), bf (o.words.getD 0 0) 39 32))
  rows := (List.range 1024).filterMap (fun r =>
    let ws := s.rowOf (.gcl m) 0 r
    if bit (ws.getD 0 0) 62 then some ((rowSpan ws).1, (rowSpan ws).2, bf (ws.getD 0 0) 39 32) else none)
  dflt := s.fld (Key.gclCfg m.val) 15 8
  base := gclBaseT s m.val
  cycle := s.gclCycleT m.val

/-- Whether gate q is open at computed time t; intervals that begin after `now` come from the rows (R364). -/
def GateList.openAt (g : GateList) (now q t : Nat) : Bool :=
  let c := g.base + (t - g.base) / g.cycle * g.cycle
  let cover := (g.latched.filter (fun x => x.1 ≤ t && decide (t < x.2.1))).map (·.2.2) ++
    (g.rows.filter (fun x => decide (now < c + x.1) && decide (c + x.1 ≤ t) && decide (t < c + x.2.1))).map (·.2.2)
  if cover.isEmpty then g.dflt / 2 ^ q % 2 == 1 else cover.any (fun x => x / 2 ^ q % 2 == 1)

/-- The next instant after `now` at which the list closes gate q, within this cycle and the next two. -/
def GateList.closeAfter (g : GateList) (now q : Nat) : Option Nat :=
  let c := g.base + (now - g.base) / g.cycle * g.cycle
  let marks := g.latched.map (·.2.1) ++ (List.range 3).flatMap (fun k =>
    let b := c + k * g.cycle
    b :: g.rows.flatMap (fun x => [b + x.1, b + x.2.1]))
  leastBy id (marks.filter (fun t => decide (now < t) && !(g.openAt now q t)))

/-- Whether gate q of MAC m is open now (R362, R365). -/
def State.gateOpenNow (s : State) (m : Fin 128) (q : Nat) : Bool :=
  !(s.gclEn m.val) || decide (s.now < s.gclStart m.val) || (s.gateList m).openAt s.now q s.now

/-- Whether the head of queue q is eligible (R362). -/
def State.headEligible (s : State) (m : Fin 128) (q : Nat) : Bool :=
  match (s.mc m.val).q q with
  | [] => false
  | f :: _ =>
    s.gateOpenNow m q && (!(s.gclEn m.val) ||
      (let fin := s.now + s.txTime m.val f.bytes
       if s.now < s.gclStart m.val then true
       else match (s.gateList m).closeAfter s.now q with
         | none => true
         | some t => decide (fin ≤ t)))

/-! Host rings (R358) -/

/-- Base, size and consumer address of a ring at BASE. -/
structure RingAt where
  base : Nat
  size : Nat
def RingAt.slot (r : RingAt) (i : Nat) : Nat := r.base + 64 + i % r.size * 32
def hostRing (v : U64) : RingAt := ⟨bf v 39 0, 2 ^ bf v 52 48⟩

/-- A number read by a requester; none where it is refused. -/
def State.readNum (s : State) (who : Accessor) (a n : Nat) : State × Option Nat :=
  match s.busRead who a n with
  | (s, some (b, _)) => (s, some (leNat b))
  | (s, none) => (s, none)
/-- A number written by a requester. -/
def State.writeNum (s : State) (who : Accessor) (a n x : Nat) : State := (s.busWrite who a (leBytes n x) false).1

/-- CONS of a host ring takes a value, with the ring's interrupt. -/
def State.hostCons (s : State) (m : Fin 128) (v : U64) (i : Nat) : State :=
  let s := s.writeNum (.mac m) (bf v 39 0 + 8) 8 (i % 2 ^ 32)
  if bit v 58 then s.setIrq .mac (bf v 62 59) true else s

/-- A frame goes to the host receive ring of MAC m (R358, R359); `f` without its FCS or with it under FCS_STRIP. -/
def State.toHost (s : State) (m : Fin 128) (f : List Byte) (t : Nat) : State :=
  let v := s.ent (Key.ethHrx m.val)
  let r := hostRing v
  let who := Accessor.mac m
  let drop := fun (s : State) => s.ethCount m.val 0xF 1
  if !(bit v 63) then drop s
  else match s.readNum who r.base 8 with
    | (s, none) => drop s
    | (s, some prod) =>
      match s.readNum who (r.base + 8) 8 with
      | (s, none) => drop s
      | (s, some cons) =>
        if prod % 2 ^ 32 = cons % 2 ^ 32 then drop s
        else
          let d := r.slot cons
          match s.readNum who d 8 with
          | (s, none) => drop s
          | (s, some w0) =>
            let f' := if s.ethBit m.val 62 then f.take (f.length - 4) else f
            let len := s.entN (Key.ethHrxBuf m.val)
            match s.busWrite who (w0 % 2 ^ 40) (f'.take len) false with
            | (s, false) => drop s
            | (s, true) =>
              let flags := b01 (decide (len < f'.length)) * 4 + b01 (ptpEvent f) * 2 + 1
              let s := (s.busWrite who (d + 8)
                (leBytes 2 f'.length ++ leBytes 2 flags ++ leBytes 2 0 ++ leBytes 2 0 ++ stampBytes t) false).1
              (s.hostCons m v (cons + 1)).ethCount m.val 0xE 1

/-- CONS of the HTX ring passes the descriptors that are done (R314). -/
def State.htxPass (s : State) (m : Fin 128) : Nat → Nat → State
  | 0, _ => s
  | n + 1, c =>
    let x := s.mc m.val
    if x.htxDone.contains c then
      let s := s.setMc m.val { x with htxDone := x.htxDone.filter (· ≠ c) }
      (s.hostCons m (s.ent (Key.ethHtx m.val)) (c + 1)).htxPass m n ((c + 1) % 2 ^ 32)
    else s

/-- HTX descriptor i is done with a status (R358, R359). -/
def State.htxEnd (s : State) (m : Fin 128) (i st : Nat) (t : Option Nat) : State :=
  let r := hostRing (s.ent (Key.ethHtx m.val))
  let d := r.slot i
  let s := match t with | some t => (s.busWrite (.mac m) (d + 16) (stampBytes t) false).1 | none => s
  let s := s.writeNum (.mac m) (d + 12) 2 st
  let x := s.mc m.val
  let s := s.setMc m.val { x with htxDone := i :: x.htxDone }
  match s.readNum (.mac m) (r.base + 8) 8 with
  | (s, some c) => s.htxPass m (s.mc m.val).htxDone.length (c % 2 ^ 32)
  | (s, none) => s

end Sys2Proof.Machine
end

