-- ==== Sys2Proof/Machine/FlowCore.lean ====
section
/-!
DEFINITION. FlowCore.lean: the flow engine's rings and their entries (R312 to R316), exception records and the classification table
(R317 to R319). Formats that the spec names and does not lay out are Config's (assumption 61).
-/
namespace Sys2Proof.Machine

/-! Status of an entry, reasons of drops and of exception records -/

def fsOk : Nat := 0
def fsForeign : Nat := 1
def fsParam : Nat := 2
def fsMalformed : Nat := 3
def fsPoison : Nat := 4
def fsExists : Nat := 5
def fsFull : Nat := 6
def fsNotFound : Nat := 7
def fsReadError : Nat := 8
def fsWriteError : Nat := 9

/-- Drop counters (`FL_DROP`). -/
def fdQlimit : Nat := 0
def fdNobuf : Nat := 1
def fdMacI : Nat := 2
def fdCountWrap : Nat := 3
def fdClosing : Nat := 4
def fdPoison : Nat := 5
def fdExcFull : Nat := 6
def fdFailed : Nat := 7
def fdTooBig : Nat := 8
def fdDlNoflow : Nat := 9
def fdUlNoflow : Nat := 10
def fdMalformed : Nat := 11
def State.flDrop (s : State) (r : Nat) : State := s.inc32 (Key.flDrop r) 1

/-- Reasons of exception records, numbered by the model. -/
inductive Exc where
  | ulNoflow | ulCe | ulElcid | tooBig | flowFailed | countHigh | dlNoflow | echo | endMarker | errorInd | otherType | fragment
  | badSum
deriving DecidableEq, Repr

/-! Rings (R312 to R315) -/

def State.ringType (s : State) (n : Nat) : Nat := s.fld (Key.flRingCfg n) 62 61
def State.ringOwner (s : State) (n : Nat) : Nat := s.fld (Key.flRingCfg n) 60 57
/-- Whether the engine works: EN of `FL_CFG`, out of reset. -/
def State.flowRuns (s : State) : Bool := s.flag Key.flCfg 63 && s.unitRuns 856
def State.ringEn (s : State) (n : Nat) : Bool := s.flag (Key.flRingCfg n) 63 && s.flowRuns
def State.ringBase (s : State) (n : Nat) : Nat := s.fld (Key.flRingBase n) 39 0
def State.ringSize (s : State) (n : Nat) : Nat := 2 ^ s.fld (Key.flRingCfg n) 44 40
def State.ringEsize (s : State) (n : Nat) : Nat := if s.ringType n = 2 then 64 * 2 ^ s.fld (Key.flRingCfg n) 51 48 else 64
def State.ringAt (s : State) (n i : Nat) : Nat := s.ringBase n + 64 + i % s.ringSize n * s.ringEsize n
/-- The ring's interrupt, with IRQ_EN (R314). -/
def State.ringIrq (s : State) (n : Nat) : State :=
  if s.flag (Key.flRingCfg n) 52 then s.setIrq .flow (s.fld (Key.flRingCfg n) 56 53) true else s

/-- Whether a ring's memory is open to its OWNER (R312, R185). -/
def State.ringOpen (s : State) (cfg : U64) (base : Nat) : Bool :=
  let o := bf cfg 60 57
  let size := 64 + 2 ^ bf cfg 44 40 * (if bf cfg 62 61 = 2 then 64 * 2 ^ bf cfg 51 48 else 64)
  decide (o < 8) && regionOf base == regionOf (base + size - 1) &&
  (match regionOf base with
    | .hbm => s.hbmOpen o base size true
    | .pm p => s.partOfPack p == some o
    | .csm c => s.partOfPack (c / 8) == some o
    | .lm t => s.partOfPack (t / 64) == some o
    | _ => false)

/-- An exception record for a partition (R315): its header and payload into the partition's EXC ring. -/
def State.excRecord (s : State) (p : Nat) (why : Exc) (ctx : List Nat) (payload : List Byte) : State :=
  match (List.range 256).find? (fun n => s.ringEn n && s.ringType n == 2 && s.ringOwner n == p) with
  | none => s.flDrop fdExcFull
  | some n =>
    match s.readNum .flow (s.ringBase n) 8, s.readNum .flow (s.ringBase n + 8) 8 with
    | (s, some prod), (_, some cons) =>
      let used := (prod + 2 ^ 32 - cons % 2 ^ 32) % 2 ^ 32
      if s.ringSize n ≤ used then (s.incSat (Key.flRingStat n) 15 0 1).flDrop fdExcFull
      else
        let room := s.ringEsize n - 64
        let hdr := (List.range 64).map (Config.excByte ([why.ctorIdx] ++ ctx ++ [payload.length, b01 (decide (room < payload.length))]))
        let s := (s.busWrite .flow (s.ringAt n prod) (hdr ++ payload.take room) false).1
        (s.writeNum .flow (s.ringBase n) 8 ((prod + 1) % 2 ^ 32)).ringIrq n
    | (s, _), _ => s.flDrop fdExcFull

/-- An entry of a REQ or CMD ring that the engine works on: its ring, address and count, and its bytes. -/
structure REntry where
  n : Nat
  at_ : Nat
  cons : Nat
  b : List Byte
def REntry.op (e : REntry) : Nat := le e.b 0 1
def REntry.carrier (e : REntry) : Nat := le e.b 2 2
def REntry.ue (e : REntry) : Nat := le e.b 4 2
def REntry.addr (e : REntry) : Nat := le e.b 8 5
def REntry.len (e : REntry) : Nat := le e.b 16 4
/-- A number of the operand area. -/
def REntry.arg (e : REntry) (off n : Nat) : Nat := le e.b off n

/-- The entry at CONS of ring n, if the engine has seen it offered (R313) and no FLOW_CLOSE of the ring waits. -/
def State.ringFront (s : State) (n : Nat) : State × Option REntry :=
  if !(s.ringEn n) ∨ 2 ≤ s.ringType n ∨ s.flow.any (fun f => f.2.closeRing == some n) then (s, none)
  else match s.readNum .flow (s.ringBase n + 8) 8 with
    | (s, none) => (s, none)
    | (s, some c) =>
      let c := c % 2 ^ 32
      if c = tget 0 s.ringTaken n then (s, none)
      else match s.busRead .flow (s.ringAt n c) 64 with
        | (s, none) => (s, none)
        | (s, some (b, _)) => (s, some ⟨n, s.ringAt n c, c, b⟩)

/-- An entry is finished (R314): RESULT, STATUS, CONS, the handled count and the interrupt. -/
def State.ringEnd (s : State) (e : REntry) (st : Nat) (res : Option Nat) : State :=
  let s := match res with | some r => s.writeNum .flow (e.at_ + 56) 8 r | none => s
  let s := s.writeNum .flow (e.at_ + 1) 1 st
  let s := s.writeNum .flow (s.ringBase e.n + 8) 8 ((e.cons + 1) % 2 ^ 32)
  (s.incWrap (Key.flRingStat e.n) 63 32 1).ringIrq e.n

/-- Ring n's front entry is worked on where its OP is `op`: `f` answers STATUS and RESULT. -/
def State.onRing (s : State) (n op : Nat) (f : State → REntry → State × Nat × Option Nat) : State :=
  match s.ringFront n with
  | (s, none) => s
  | (s', some e) => if e.op = op ∧ s.ringType n = (if op < 0x10 then 0 else 1) then
      let (s, st, r) := f s' e; s.ringEnd e st r else s

/-- Bytes of an entry's ADDR, and whether any is poisoned. -/
def State.flRead (s : State) (a n : Nat) : State × Option (List Byte × Bool) :=
  if n = 0 then (s, some ([], false)) else s.busRead .flow a n

/-! The classification table (R317 to R319) -/

/-- CRC-32C with an initial value; the reflected form and the final inversion are PRESUMED (assumption 62). -/
def crc32c (init : Nat) (b : List Byte) : Nat := b.foldl (crcByte 0x82F63B78) init ^^^ 0xFFFFFFFF
/-- The two buckets of a key. -/
def State.buckets (s : State) (kt : Nat) (key : List Byte) : Nat × Nat :=
  let b := BitVec.ofNat 8 kt :: key
  let h1 := crc32c (s.fld Key.flSeed 63 32) b % 2 ^ 19
  let h2 := crc32c (s.fld Key.flSeed 31 0) b % 2 ^ 19
  (h1, if h1 = h2 then h1 ^^^ 1 else h2)
def State.tabBase (s : State) : Nat := s.fld Key.flTableBase 39 0
def State.slotAt (s : State) (b i : Nat) : Nat := s.tabBase + b * 256 + i * 64
/-- Fields of an entry's bytes. -/
def teValid (e : List Byte) : Bool := decide (128 ≤ le e 0 1)
def teKt (e : List Byte) : Nat := le e 0 1 % 16
def teOwner (e : List Byte) : Nat := le e 1 1
def teFlow (e : List Byte) : Nat := le e 4 4 % 2 ^ 20
def teKey (e : List Byte) : List Byte := (e.drop 8).take 16
def teMake (kt owner flow : Nat) (key : List Byte) : List Byte :=
  [BitVec.ofNat 8 (128 + kt), BitVec.ofNat 8 owner, 0, 0] ++ leBytes 4 flow ++ key ++ List.replicate 40 0
/-- Places of the table: a slot of a bucket, or of the stash. -/
inductive Place where
  | slot (b i : Nat) | stash (i : Nat)
deriving DecidableEq, Repr
def stashSize : Nat := 256
def State.teAt (s : State) : Place → List Byte
  | .slot b i => s.bytes (s.slotAt b i) 64
  | .stash i => tget (List.replicate 64 0) s.stash i
def State.tePut (s : State) (p : Place) (e : List Byte) : State :=
  match p with
  | .slot b i => s.writeMem .flow (s.slotAt b i) e false
  | .stash i => { s with stash := if teValid e then tput s.stash i e else tdel s.stash i }
def bucketPlaces (b : Nat) : List Place := (List.range 4).map (.slot b)
def stashPlaces : List Place := (List.range stashSize).map .stash

/-- Where an entry with a key lies (R317). -/
def State.lookup (s : State) (kt : Nat) (key : List Byte) : Option Place :=
  let h := s.buckets kt key
  (bucketPlaces h.1 ++ bucketPlaces h.2 ++ stashPlaces).find? (fun p =>
    let e := s.teAt p; teValid e && teKt e == kt && teKey e == key)
def State.freeIn (s : State) (b : Nat) : Option Place := (bucketPlaces b).find? (fun p => !(teValid (s.teAt p)))
/-- The other bucket of the entry at a place of bucket b. -/
def State.otherBucket (s : State) (b : Nat) (p : Place) : Nat :=
  let e := s.teAt p
  let h := s.buckets (teKt e) (teKey e)
  if h.1 = b then h.2 else h.1

/-- A displacement path, last move first: the places to be left, and the bucket reached. -/
structure Path where
  moves : List Place
  bucket : Nat

/-- The breadth-first search of R318: paths of one more move each round. -/
def State.search (s : State) : Nat → List Path → List Nat → Option (List Place × Place)
  | 0, _, _ => none
  | n + 1, ps, seen =>
    let next := ps.flatMap (fun q => (bucketPlaces q.bucket).map (fun p => (⟨p :: q.moves, s.otherBucket q.bucket p⟩ : Path)))
    let next := next.filter (fun q => !(seen.contains q.bucket))
    match next.find? (fun q => (s.freeIn q.bucket).isSome) with
    | some q => (s.freeIn q.bucket).map (fun f => (q.moves, f))
    | none => s.search n next (next.map (·.bucket) ++ seen)

/-- The moves of a path, from the last toward the first: each entry is written in its new place, then its old place cleared;
the place left free. -/
def State.moveAll (s : State) : List Place → Place → State × Place
  | [], f => (s, f)
  | p :: r, f =>
    let s := (s.tePut f (s.teAt p)).tePut p (List.replicate 64 0)
    s.moveAll r p

/-- An entry is placed (R318): the state, and the place. -/
def State.placeEntry (s : State) (kt : Nat) (key e : List Byte) : State × Option Place :=
  let h := s.buckets kt key
  match s.freeIn h.1 with
  | some p => (s.tePut p e, some p)
  | none => match s.freeIn h.2 with
    | some p => (s.tePut p e, some p)
    | none => match s.search 4 [⟨[], h.1⟩, ⟨[], h.2⟩] [h.1, h.2] with
      | some (ms, f) => let (s, f) := s.moveAll ms f; (s.tePut f e, some f)
      | none => match stashPlaces.find? (fun p => !(teValid (s.teAt p))) with
        | some p => (s.tePut p e, some p)
        | none => (s, none)

/-- Every entry in use of the table and the stash. -/
def State.allEntries (s : State) : List Place :=
  (s.mem.filterMap (fun c =>
    let o := c.1 - s.tabBase
    if s.tabBase ≤ c.1 ∧ o < 2 ^ 27 ∧ o % 64 = 0 ∧ 128 ≤ c.2.toNat then some (Place.slot (o / 256) (o / 64 % 4)) else none)) ++
  stashPlaces.filter (fun p => teValid (s.teAt p))

end Sys2Proof.Machine
end

