-- ==== Sys2Proof/Machine/CtxCore.lean ====
section
/-!
DEFINITION. CtxCore.lean: flow contexts (R320, R321, R327): the header, the cache and its write-back, timers; the pools and the
SDUs in their buffers (R322); PDCP and GTP-U (R325, R326, R329).
-/
namespace Sys2Proof.Machine

def ctxCount : Nat := 2 ^ 20
def hdrOf (image : List Byte) : FlowHdr :=
  let f := fun i => Config.ctxField i image
  ⟨f 0 % 256, f 1, f 2 % 65536, f 3 % 64, f 4 % 2 == 1, f 5 % 2 == 1, f 6, f 7, f 8, f 9, f 10 % 32, f 11 % 2 == 1, f 12 % 2 == 1,
    f 13 % 2 == 1, f 14 % 2 == 1, BitVec.ofNat 32 (f 15), BitVec.ofNat 32 (f 16), f 17 % 64, f 18 % 256, f 19, f 20, f 21, f 22, f 23, f 24,
    f 25, f 26⟩
/-- Whether a header's fields lie in the ranges of the table Supported protocols. -/
def FlowHdr.ok (h : FlowHdr) : Bool :=
  decide (h.carrier < 384) && decide (h.cipher ≤ 3) && decide (h.integrity ≤ 3) &&
  (if h.lte then [7, 12, 15, 18].contains h.pdcpSn && (if h.am then h.rlcSn == 10 else h.rlcSn == 5 || h.rlcSn == 10)
    else (h.pdcpSn == 12 || h.pdcpSn == 18) && (if h.am then h.rlcSn == 12 || h.rlcSn == 18 else h.rlcSn == 6 || h.rlcSn == 12))

def flowInit : Flow :=
  { st := .free, hdr := hdrOf [], image := [], keys := [], nextKeys := [], nextCount := 0, rekeyed := false, txNext := 0, rxNext := 0,
    rxDeliv := 0, rxReord := 0, reorder := [], rlcTxNext := 0, txNextAck := 0, pollSn := 0, pduNoPoll := 0, byteNoPoll := 0, unacked := [],
    retx := [], queue := [], statusDue := false, pollWait := [], rlcRxNext := 0, rxHighest := 0, rxTrigger := 0, rxStatus := 0,
    rlcSegs := [], rlcDone := [], held := [], part := some [], tReordering := none, tPoll := none, tReassembly := none, tProhibit := none,
    countHigh := false, closeRing := none, pktsUl := 0, bytesUl := 0, pktsDl := 0, bytesDl := 0, drops := [] }
/-- The context that FLOW_OPEN makes of an image (R320): header and keys are the image's, next keys too where it holds any; the state
regions start clear. -/
def Flow.ofImage (b : List Byte) : Flow :=
  { flowInit with st := .opened, hdr := hdrOf b, image := b.take 64, keys := (b.drop 64).take 32, nextKeys := (b.drop 96).take 32
                  rekeyed := Config.ctxField 27 b % 2 == 1, nextCount := Config.ctxField 28 b % 2 ^ 32 }
def State.fl (s : State) (f : Nat) : Flow := tget flowInit s.flow f
def State.setFl (s : State) (f : Nat) (x : Flow) : State := { s with flow := tput s.flow f x }
def State.ctxAddr (s : State) (f : Nat) : Nat := s.fld Key.flCtxBase 39 0 + f * 512

/-- A counter of a context: 32 bits, saturating (table Context layout). -/
def add32 (a n : Nat) : Nat := satAdd 32 a n
/-- A drop for a context's reason is counted, in the context too. -/
def State.flowDrop (s : State) (f r : Nat) : State :=
  let x := s.fl f
  (s.setFl f { x with drops := tput x.drops r (add32 (tget 0 x.drops r) 1) }).flDrop r

/-- The numbers that a context's regions hold. -/
def Flow.fields (x : Flow) : List Nat :=
  let tm := fun (t : Option Nat) => match t with | some r => r + 1 | none => 0
  let sdu := fun (d : Sdu) => d.bufs ++ [d.total, d.base, d.stop, d.pos, d.upto, d.sn, d.tries]
  [x.st.ctorIdx, x.hdr.owner, x.txNext, x.rxNext, x.rxDeliv, x.rxReord, tm x.tReordering, x.rlcTxNext, x.txNextAck, x.pollSn, x.pduNoPoll,
    x.byteNoPoll, tm x.tPoll, x.rlcRxNext, x.rxHighest, x.rxTrigger, x.rxStatus, tm x.tReassembly, tm x.tProhibit, b01 x.statusDue] ++
  x.retx.flatMap sdu ++ x.queue.flatMap sdu ++ x.unacked.flatMap sdu ++ [x.pktsUl, x.bytesUl, x.pktsDl, x.bytesDl] ++
  (List.range 12).map (tget 0 x.drops)
/-- The 512 bytes of a context: only the places of the keys are given (table Context layout). -/
def Flow.bytes (x : Flow) : List Byte :=
  let k := x.keys ++ x.nextKeys
  (List.range 512).map (fun i => if 64 ≤ i ∧ i < 128 then k.getD (i - 64) 0 else Config.ctxByte (x.image ++ k) x.fields i)

/-! The cache of contexts: 16,384 lines in 1,024 sets of 16 ways (R320) -/

def ctxSets : Nat := 1024
/-- The lines that may hold context f. -/
def ctxWays (f : Nat) : List Nat := (List.range 16).map (fun w => f % ctxSets * 16 + w)
def State.ctxLine (s : State) (f : Nat) : Option Nat := (ctxWays f).find? (fun l => (tfind s.ctxCache l).map (·.1) == some f)
/-- The address of a line's words in class 11. -/
def lineAddr (l : Nat) : Nat := innerAddr 11 856 (l * 512)

/-- A line is given up: its poison marking goes with it. -/
def State.dropLine (s : State) (l : Nat) : State :=
  { s with ctxCache := tdel s.ctxCache l
           poison := tdrop s.poison (fun w => w * 8 / 512 == lineAddr l / 512)
           fresh := tdrop s.fresh (fun a => a / 512 == lineAddr l / 512) }
/-- Bytes go to a context's place in HBM, each with its marking. -/
def State.ctxStore (s : State) (f : Nat) (bs : List (Byte × Bool)) : State :=
  let a := s.ctxAddr f
  if s.accessOk .flow a 512 true then s.writeMarks .flow a bs else s.accessFault .flow a
/-- A line is evicted: a modified one is written back, with its marking. -/
def State.evict (s : State) (l : Nat) : State :=
  match tfind s.ctxCache l with
  | none => s
  | some (g, modified) =>
    let marks := (List.range 512).map (fun i => s.poisoned (lineAddr l + i))
    (if modified then s.ctxStore g ((s.fl g).bytes.zip marks) else s).dropLine l
/-- A line for context f: a free one of its set, else one that a drawn number chooses is evicted. -/
def State.lineFor (s : State) (f : Nat) : State × Nat :=
  match (ctxWays f).find? (fun l => (tfind s.ctxCache l).isNone) with
  | some l => (s, l)
  | none =>
    let (w, s) := s.drawBelow 16
    let l := f % ctxSets * 16 + w
    (s.evict l, l)
/-- A context enters FAILED (R327); one record is written. -/
def State.failFlow (s : State) (f : Nat) : State :=
  let x := s.fl f
  if x.st = .opened then (s.setFl f { x with st := .failed }).excRecord x.hdr.owner .flowFailed [f] [] else s

/-- The engine reaches context f, in use: from its cache, or from HBM, whose copy it takes as it finds it; a poisoned one fails the
context (R327). The line is modified from then on. -/
def State.touchFlow (s : State) (f : Nat) : State :=
  if (tfind s.flow f).isNone then s
  else match s.ctxLine f with
    | some l =>
      let s := { s with ctxCache := tput s.ctxCache l (f, true) }
      if s.anyPoison (lineAddr l) 512 then s.failFlow f else s
    | none =>
      let (s, l) := s.lineFor f
      match s.busRead .flow (s.ctxAddr f) 512 with
      | (s, none) => ({ s with ctxCache := tput s.ctxCache l (f, true) }).failFlow f
      | (s, some (b, bad)) =>
        let x := s.fl f
        let x := if b = x.bytes then x else { x with hdr := hdrOf b, image := b.take 64, keys := (b.drop 64).take 32, nextKeys := (b.drop 96).take 32 }
        let s := { s with ctxCache := tput s.ctxCache l (f, true) }.setFl f x
        if bad then s.failFlow f else s

/-- A context is made, in a line of the cache (R320). -/
def State.makeFlow (s : State) (f : Nat) (x : Flow) : State :=
  let (s, l) := s.lineFor f
  { s with ctxCache := tput s.ctxCache l (f, true) }.setFl f x

/-- A context is freed (R332, R334): its line goes, and its place in HBM holds STATE FREE. The buffers of its SDUs are no longer in use. -/
def State.freeFlow (s : State) (f : Nat) : State :=
  let s := match s.ctxLine f with | some l => s.dropLine l | none => s
  { s.ctxStore f (flowInit.bytes.map (·, false)) with flow := tdel s.flow f }

/-! Timers (R321) -/

/-- Whether a timer that started at a raw time has reached its value in ms. -/
def State.timerDone (s : State) (t : Option Nat) (ms : Nat) : Bool :=
  match t with
  | some r => decide (r + msTicks ms ≤ s.raw.toNat)
  | none => false

/-! Pools and SDUs (R322) -/

def bufSize : Nat := 2048
def bufsOf (n : Nat) : Nat := (n + bufSize - 1) / bufSize
def State.poolSize (s : State) (p : Nat) : Nat := s.fld (Key.flPool p) 63 48 * 64
def State.poolBase (s : State) (p : Nat) : Nat := s.fld (Key.flPool p) 39 0
def Flow.sdus (x : Flow) : List Sdu := x.queue ++ x.unacked ++ x.retx
/-- The buffers of a pool in use: those of the SDUs that contexts hold. -/
def State.poolUsed (s : State) (p : Nat) : List Nat :=
  ((s.flow.flatMap (fun f => f.2.sdus.flatMap (fun d => if d.pool = p then d.bufs else [])))).eraseDups
/-- n buffers that are free, from a drawn one on; none where the pool has fewer. -/
def State.takeBufs (s : State) (p n : Nat) : State × Option (List Nat) :=
  let size := s.poolSize p
  let used := s.poolUsed p
  if size < used.length + n then (s, none)
  else
    let (a, s) := s.drawBelow (max size 1)
    (s, some ((((List.range (used.length + n)).map (fun i => (a + i) % size)).filter (fun b => !(used.contains b))).take n))
/-- Bytes are stored in buffers; false where a write is refused. -/
def State.putBufs (s : State) (base : Nat) : List Nat → List Byte → State × Bool
  | [], _ => (s, true)
  | b :: r, bs =>
    if bs = [] then (s, true)
    else match s.busWrite .flow (base + b * bufSize) (bs.take bufSize) false with
      | (s, true) => s.putBufs base r (bs.drop bufSize)
      | (s, false) => (s, false)
/-- Bytes [a, a + n) of an SDU, and whether any is poisoned or cannot be read. -/
def State.sduRead (s : State) (d : Sdu) (a n : Nat) : State × List Byte × Bool :=
  let base := s.poolBase d.pool
  (List.range (bufsOf d.total)).foldl (fun (q : State × List Byte × Bool) i =>
    let (s, bs, bad) := q
    let lo := max a (i * bufSize)
    let hi := min (a + n) ((i + 1) * bufSize)
    if hi ≤ lo then (s, bs, bad)
    else match s.busRead .flow (base + d.bufs.getD i 0 * bufSize + lo % bufSize) (hi - lo) with
      | (s, some (x, p)) => (s, bs ++ x, bad || p)
      | (s, none) => (s, bs ++ List.replicate (hi - lo) 0, true)) (s, [], false)
def Flow.queued (x : Flow) : Nat := (x.queue.map (fun d => d.upto - d.pos)).sum

/-! Keys, ciphering (R325, R329) -/

/-- The keys for a COUNT: those of REKEY at and above its COUNT. -/
def Flow.keysFor (x : Flow) (count : Nat) : List Byte := if x.rekeyed ∧ x.nextCount ≤ count then x.nextKeys else x.keys
/-- The bytes ciphered or deciphered; the first `skip` of them, an SDAP header, are not (TS 38.323 clause 5.8). -/
def Flow.cipher (x : Flow) (count dir skip : Nat) (b : List Byte) : List Byte :=
  let p : CryptPar := ⟨x.hdr.cipher, count, x.hdr.bearer, dir⟩
  b.take skip ++ xorBytes (b.drop skip) (p.stream ((x.keysFor count).take 16) (b.length - skip))
def Flow.mac (x : Flow) (count dir : Nat) (b : List Byte) : List Byte :=
  CryptPar.mac ⟨x.hdr.integrity, count, x.hdr.bearer, dir⟩ (((x.keysFor count).drop 16).take 16) b

/-- Bytes of a PDCP data header of so many SN bits. -/
def pdcpHdr (sn : Nat) : Nat := if sn ≤ 7 then 1 else if sn ≤ 15 then 2 else 3

/-! Frames to the core network (R326) -/

/-- The ones' complement checksum of bytes. -/
def sumOf (b : List Byte) : Nat := 65535 - onesSum b 0
/-- A UDP datagram between two addresses of 4 or 16 bytes; its checksum where asked. -/
def udpBytes (src dst : List Byte) (sport dport : Nat) (sum : Bool) (pay : List Byte) : List Byte :=
  let len := pay.length + 8
  let h := fun (c : Nat) => beBytes 2 sport ++ beBytes 2 dport ++ beBytes 2 len ++ beBytes 2 c ++ pay
  let pseudo := src ++ dst ++ (if src.length = 4 then beBytes 2 17 ++ beBytes 2 len else beBytes 4 len ++ beBytes 4 17)
  let c := sumOf (pseudo ++ h 0)
  h (if sum then (if c = 0 then 65535 else c) else 0)
/-- An IP packet: version by the addresses' length, DSCP. -/
def ipBytes (src dst : List Byte) (dscp : Nat) (udp : List Byte) : List Byte :=
  if src.length = 4 then
    let h := fun (c : Nat) => [0x45, BitVec.ofNat 8 (dscp * 4)] ++ beBytes 2 (20 + udp.length) ++ [0, 0, 0x40, 0, 64, 17] ++ beBytes 2 c ++ src ++ dst
    h (sumOf (h 0)) ++ udp
  else beBytes 4 (6 * 2 ^ 28 + dscp * 2 ^ 22) ++ beBytes 2 udp.length ++ [17, 64] ++ src ++ dst ++ udp
/-- An Ethernet frame without FCS; tag is the VLAN identifier plus 1, 0 for none. -/
def etherBytes (dst src tag etype : Nat) (pay : List Byte) : List Byte :=
  beBytes 6 dst ++ beBytes 6 src ++ (if tag = 0 then [] else beBytes 2 0x8100 ++ beBytes 2 (tag - 1)) ++ beBytes 2 etype ++ pay

/-- A G-PDU of TS 29.281, with an uplink PDU session container where a QFI is given. -/
def gtpBytes (teid : Nat) (qfi : Option Nat) (pay : List Byte) : List Byte :=
  match qfi with
  | some q => [0x34, 255] ++ beBytes 2 (pay.length + 8) ++ beBytes 4 teid ++ [0, 0, 0, 0x85, 1, 0x10, BitVec.ofNat 8 q, 0] ++ pay
  | none => [0x30, 255] ++ beBytes 2 pay.length ++ beBytes 4 teid ++ pay

/-- The frame that carries a payload to a peer (table Flow engine objects, `FL_PEERn`). -/
def State.peerFrame (s : State) (peer : Nat) (pay : List Byte) : List Byte :=
  let w := fun i => s.entN (Key.flPeer peer i)
  let c := s.ent (Key.flPeer peer 0)
  let v6 := bit c 62
  let addr := fun (i : Nat) => if v6 then beBytes 8 (w i) ++ beBytes 8 (w (i + 1)) else beBytes 4 (w (i + 1))
  etherBytes (w 1 % 2 ^ 48) (Config.srcAddr (bf c 54 48)).toNat (bf c 44 32) (if v6 then 0x86DD else 0x0800)
    (ipBytes (addr 2) (addr 4) (bf c 61 56) (udpBytes (addr 2) (addr 4) (bf c 15 0) 2152 (v6 || s.flag Key.flCfg 62) pay))

/-- A packet leaves as a G-PDU, without its SDAP header (R325, R326); an SDAP control PDU carries no packet. -/
def State.sendGpdu (s : State) (f : Nat) (b : List Byte) : State :=
  let x := s.fl f
  if x.hdr.sdapUl ∧ be b 0 1 < 128 then s
  else
    let m := s.fld (Key.flPeer x.hdr.peer 0) 54 48
    let qfi := if x.hdr.lte then none else some (if x.hdr.sdapUl then be b 0 1 % 64 else x.hdr.qfi)
    let b := if x.hdr.sdapUl then b.drop 1 else b
    let g := s.peerFrame x.hdr.peer (gtpBytes x.hdr.remoteTeid.toNat qfi b)
    if s.fld (Key.flPeer x.hdr.peer 6) 15 0 < g.length then (s.flowDrop f fdTooBig).excRecord x.hdr.owner .tooBig [f] b
    else (s.setFl f { x with pktsUl := add32 x.pktsUl 1, bytesUl := add32 x.bytesUl b.length }).enqueue m (s.flQ m) (plainFrame g)

/-! PDCP receive (R325; TS 38.323 clause 5.2.2, TS 36.323 clause 5.1.2) -/

/-- Packets of the reordering buffer are delivered from RX_DELIV on, in COUNT order. -/
def State.deliver (s : State) (f : Nat) : Nat → State
  | 0 => s
  | n + 1 =>
    let x := s.fl f
    match x.reorder.find? (fun p => p.1 == x.rxDeliv) with
    | none => s
    | some p =>
      ((s.setFl f { x with reorder := x.reorder.filter (·.1 ≠ p.1), rxDeliv := x.rxDeliv + 1 }).sendGpdu f p.2).deliver f n

/-- t-Reordering after a delivery. -/
def State.reorderTimer (s : State) (f : Nat) : State :=
  let x := s.fl f
  let x := if x.tReordering.isSome ∧ x.rxReord ≤ x.rxDeliv then { x with tReordering := none } else x
  s.setFl f (if x.tReordering.isNone ∧ x.rxDeliv < x.rxNext then { x with rxReord := x.rxNext, tReordering := some s.raw.toNat } else x)

/-- A PDCP data PDU is received; control PDUs are not interpreted. -/
def State.pdcpRx (s : State) (f : Nat) (b : List Byte) : State :=
  let x := s.fl f
  let w := x.hdr.pdcpSn
  let h := pdcpHdr w
  if be b 0 1 < 128 ∨ b.length ≤ h then s
  else
    let sn := be b 0 h % 2 ^ w
    let half := 2 ^ (w - 1)
    let hfn := x.rxDeliv / 2 ^ w
    let dsn := x.rxDeliv % 2 ^ w
    if hfn = 0 ∧ dsn + half ≤ sn then s
    else
      let hfn := if sn + half < dsn then hfn + 1 else if dsn + half ≤ sn then hfn - 1 else hfn
      let count := hfn * 2 ^ w + sn
      let body := x.cipher count 0 (b01 x.hdr.sdapUl) (b.drop h)
      let integ := x.hdr.integrity != 0
      let data := if integ then body.take (body.length - 4) else body
      if integ && x.mac count 0 (b.take h ++ data) != body.drop (body.length - 4) then s.flowDrop f fdMacI
      else if count < x.rxDeliv ∨ x.reorder.any (fun p => p.1 == count) then s
      else
        let s := s.setFl f { x with reorder := x.reorder ++ [(count, data)], rxNext := max x.rxNext (count + 1) }
        (s.deliver f ((s.fl f).reorder.length)).reorderTimer f

/-- t-Reordering expires: everything below RX_REORD is delivered, then what follows in order. -/
def State.reorderExpiry (s : State) (f : Nat) : State :=
  let x := s.fl f
  let old := x.reorder.filter (fun p => p.1 < x.rxReord)
  let s := s.setFl f { x with tReordering := none, reorder := x.reorder.filter (fun p => x.rxReord ≤ p.1), rxDeliv := max x.rxDeliv x.rxReord }
  let s := (List.range (x.rxReord - x.rxDeliv)).foldl (fun s i => match old.find? (fun p => p.1 == x.rxDeliv + i) with
    | some p => s.sendGpdu f p.2
    | none => s) s
  (s.deliver f (s.fl f).reorder.length).reorderTimer f

/-! Downlink (R329, R322) -/

/-- The PDCP PDU of a packet: its header, SDAP header, ciphered data and MAC-I. -/
def Flow.pdcpPdu (x : Flow) (qfi : Nat) (rqi : Bool) (b : List Byte) : List Byte :=
  let c := x.txNext
  let b := if x.hdr.sdapDl then BitVec.ofNat 8 (b01 x.hdr.rdi * 128 + b01 (rqi && x.hdr.rqi) * 64 + qfi % 64) :: b else b
  let h := pdcpHdr x.hdr.pdcpSn
  let hdr := beBytes h ((c % 2 ^ x.hdr.pdcpSn) ||| 2 ^ (8 * h - 1))
  let mac := if x.hdr.integrity = 0 then [] else x.mac c 1 (hdr ++ b)
  hdr ++ x.cipher c 1 (b01 x.hdr.sdapDl) (b ++ mac)

/-- A classified packet is prepared and appended to its flow's queue. -/
def State.dlAppend (s : State) (f : Nat) (qfi : Nat) (rqi : Bool) (b : List Byte) : State :=
  let s := s.touchFlow f
  let x := s.fl f
  let p := x.hdr.owner
  match x.st with
  | .free => s.flDrop fdDlNoflow
  | .closing => s.flowDrop f fdClosing
  | .failed => s.flowDrop f fdFailed
  | .opened =>
    let len := pdcpHdr x.hdr.pdcpSn + b01 x.hdr.sdapDl + b.length + (if x.hdr.integrity = 0 then 0 else 4)
    if x.hdr.qlimit < x.queued + len then s.flowDrop f fdQlimit
    else match s.takeBufs p (bufsOf len) with
      | (s, none) => s.flowDrop f fdNobuf
      | (s, some bufs) =>
        if 2 ^ 32 ≤ x.txNext then s.flowDrop f fdCountWrap
        else match s.putBufs (s.poolBase p) bufs (x.pdcpPdu qfi rqi b) with
          | (s, false) => s.flowDrop f fdNobuf
          | (s, true) =>
            let d : Sdu := { pool := p, bufs := bufs, total := len, base := 0, stop := len, pos := 0, upto := len, sn := 0, tries := 0 }
            let high := decide (2 ^ 32 - 2 ^ 16 ≤ x.txNext + 1) && !x.countHigh
            let s := s.setFl f { x with txNext := x.txNext + 1, queue := x.queue ++ [d], countHigh := x.countHigh || high
                                        pktsDl := add32 x.pktsDl 1, bytesDl := add32 x.bytesDl b.length }
            if high then s.excRecord p .countHigh [f] [] else s

/-! REOWN and the purge (R333, R334) -/

/-- Whether a table entry is a carrier's: by its key, or by its flow's context. -/
def State.entryCarrier (s : State) (e : List Byte) : Nat :=
  if teKt e = 1 then le (teKey e) 0 2 % 512 else (s.fl (teFlow e)).hdr.carrier

/-- OWNER changes in every table entry and context of a carrier (R333); the number of contexts moved. -/
def State.reownCarrier (s : State) (c p : Nat) : State × Nat :=
  let es := s.allEntries.filter (fun q => s.entryCarrier (s.teAt q) == c)
  let s := es.foldl (fun s q => s.tePut q (patch (s.teAt q) 1 [BitVec.ofNat 8 p])) s
  let n := (s.flow.filter (fun f => f.2.hdr.carrier == c && f.2.st != .free)).length
  ({ s with flow := s.flow.map (fun f => if f.2.hdr.carrier = c then (f.1, { f.2 with hdr := { f.2.hdr with owner := p } }) else f) }, n)

/-- Everything of partition p leaves the engine (R334); the numbers of contexts and table entries released. -/
def State.flPurge (s : State) (p : Nat) : State × Nat × Nat :=
  let es := s.allEntries.filter (fun q => teOwner (s.teAt q) == p)
  let s := es.foldl (fun s q => s.tePut q (List.replicate 64 0)) s
  let fs := (s.flow.filter (fun f => f.2.hdr.owner == p)).map (·.1)
  let s := fs.foldl State.freeFlow s
  let ks := (List.range 256).flatMap (fun n => if s.fld (Key.flPeer n 7) 3 0 = p then (List.range 8).map (Key.flPeer n) else [])
  ({ s with od := tdrop s.od (fun k => ks.contains k || k == Key.flPool p) }, fs.length, es.length)

/-- Whether the n 16 MiB blocks from an address on lie in OWNER 0xF regions. -/
def State.deviceOwned (s : State) (a n : Nat) : Bool :=
  (List.range n).all (fun i => match s.regionOfBlk (a / 0x1000000 + i) with
    | some e => s.fld (Key.memHbmRegion e) 61 58 == 15 | none => false)
/-- A WARM reset invalidates the whole table (R334): the entries in HBM too, where the engine has a table. -/
def State.tableClear (s : State) : State :=
  if s.deviceOwned s.tabBase 8 then s.allEntries.foldl (fun s q => s.tePut q (List.replicate 64 0)) s else s

/-- `FL_STAT` as read: open contexts, stash entries, PURGING. -/
def State.flStatLive (s : State) : U64 :=
  w64 ((s.flow.filter (fun f => f.2.st != .free)).length * 2 ^ 32 + (stashPlaces.filter (fun p => teValid (s.teAt p))).length * 2 ^ 16 +
    b01 (match s.resetJob with | some j => !j.purges.isEmpty | none => false))

end Sys2Proof.Machine
end

