-- ==== Sys2Proof/Machine/RlcCore.lean ====
section
/-!
DEFINITION. RlcCore.lean: RLC of a flow context (R324, R330): PDU formats of TS 38.322 and TS 36.322 clause 6, the receive side, status
PDUs and the building of MAC PDUs. The formats are the standards' (assumption 38, PRESUMED).
-/
namespace Sys2Proof.Machine

/-- The number that bits spell, most significant first. -/
def bitsVal (l : List Bool) : Nat := l.foldl (fun a b => 2 * a + b01 b) 0

/-! PDUs as received -/

/-- A NACK of one sequence number: its bytes from an offset to one, or to the end. -/
structure Nack where
  sn : Nat
  start : Nat
  stop : Option Nat

/-- An RLC PDU: a status PDU, or a data PDU whose sequence number may be missing. -/
structure RlcPdu where
  control : Bool
  poll : Bool
  ackSn : Nat
  nacks : List Nack
  sn : Option Nat
  seg : RlcSeg

def ctrlPdu (ack : Nat) (ns : List Nack) : RlcPdu := ⟨true, false, ack, ns, none, ⟨0, 0, true, true, []⟩⟩
def dataPdu (poll : Bool) (sn : Option Nat) (so : Nat) (last starts : Bool) (d : List (Byte × Bool)) : RlcPdu :=
  ⟨false, poll, 0, [], sn, ⟨sn.getD 0, so, last, starts, d⟩⟩

/-- Bytes of which an SDU ends with the last, or does not. -/
def markEnd (fin : Bool) (b : List Byte) : List (Byte × Bool) := b.zipIdx.map (fun p => (p.1, fin && p.2 + 1 == b.length))

/-- The NACKs of n consecutive sequence numbers: the first from an offset, the last to one. -/
def nackRange (mask sn from_ upto n : Nat) : List Nack :=
  (List.range n).map (fun i => ⟨(sn + i) % mask, if i = 0 then from_ else 0, if i + 1 = n then some upto else none⟩)

/-- The NACK fields of a status PDU of TS 38.322 (k bits of SN) from its bits on. -/
def nackNr (k : Nat) : Nat → List Bool → List Nack
  | 0, _ => []
  | n + 1, b =>
    let sn := bitsVal (b.take k)
    let f := b.drop k
    let b := f.drop (if k = 12 then 4 else 6)
    let (so, b) := if f.getD 1 false then ((bitsVal (b.take 16), bitsVal ((b.drop 16).take 16)), b.drop 32) else ((0, 0xFFFF), b)
    let (c, b) := if f.getD 2 false then (bitsVal (b.take 8), b.drop 8) else (1, b)
    let whole := so.2 = 0xFFFF
    let l := nackRange (2 ^ k) sn so.1 so.2 c
    (if whole then l.map (fun q => { q with stop := none }) else l) ++ (if f.getD 0 false then nackNr k n b else [])
/-- The NACK fields of a status PDU of TS 36.322. -/
def nackLte : Nat → List Bool → List Nack
  | 0, _ => []
  | n + 1, b =>
    let f := b.drop 10
    let (so, r) := if f.getD 1 false then ((bitsVal ((f.drop 2).take 15), bitsVal ((f.drop 17).take 15)), f.drop 32) else ((0, 0x7FFF), f.drop 2)
    ⟨bitsVal (b.take 10), so.1, if so.2 = 0x7FFF then none else some so.2⟩ :: (if f.getD 0 false then nackLte n r else [])

/-- A PDU of TS 38.322: its header fields by mode and SN length. -/
def nrPdu (am : Bool) (k : Nat) (b : List Byte) : RlcPdu :=
  let b0 := be b 0 1
  if am ∧ b0 < 128 then
    let bits := bitsOf b
    if b0 / 16 % 8 ≠ 0 then ctrlPdu 0 []
    else ctrlPdu (bitsVal ((bits.drop 4).take k)) (if bits.getD (4 + k) false then nackNr k b.length (bits.drop 24) else [])
  else
    let si := if am then b0 / 16 % 4 else b0 / 64
    let h := if am then (if k = 12 then 2 else 3) else if si = 0 then 1 else if k = 6 then 1 else 2
    let sn := if !am ∧ si = 0 then none else some (be b 0 h % 2 ^ k)
    let so := if 2 ≤ si then be b h 2 else 0
    let d := b.drop (if 2 ≤ si then h + 2 else h)
    let last := si == 0 || si == 2
    dataPdu (am && b0 / 64 % 2 == 1) sn so last (si ≤ 1) (markEnd last d)

/-- The length indicators of a PDU of TS 36.322 and the bits that they take. -/
def lteLis : Nat → List Bool → List Nat × Nat
  | 0, _ => ([], 0)
  | n + 1, b =>
    let r := if b.getD 0 false then lteLis n (b.drop 12) else ([], 0)
    (bitsVal ((b.drop 1).take 11) :: r.1, r.2 + 12)
/-- The data field: an SDU ends after each length, and with the last byte where `fin`. -/
def lteData (fin : Bool) : List Nat → List Byte → List (Byte × Bool)
  | [], b => markEnd fin b
  | n :: r, b => markEnd true (b.take n) ++ lteData fin r (b.drop n)
/-- A PDU of TS 36.322. -/
def ltePdu (am : Bool) (k : Nat) (b : List Byte) : RlcPdu :=
  let b0 := be b 0 1
  if am ∧ b0 < 128 then
    let bits := bitsOf b
    if b0 / 16 % 8 ≠ 0 then ctrlPdu 0 []
    else ctrlPdu (bitsVal ((bits.drop 4).take 10)) (if bits.getD 14 false then nackLte b.length (bits.drop 15) else [])
  else
    let (fi, e, sn, h) := if am then (b0 / 8 % 4, b0 / 4 % 2, be b 0 2 % 1024, 2)
      else if k = 5 then (b0 / 64, b0 / 32 % 2, b0 % 32, 1) else (b0 / 8 % 4, b0 / 4 % 2, be b 0 2 % 1024, 2)
    let rf := am && b0 / 64 % 2 == 1
    let h' := if rf then h + 2 else h
    let (ls, n) := if e = 1 then lteLis b.length (bitsOf (b.drop h')) else ([], 0)
    let d := lteData (fi % 2 == 0) ls (b.drop (h' + (n + 7) / 8))
    dataPdu (am && b0 / 32 % 2 == 1) (some sn) (if rf then be b h 2 % 2 ^ 15 else 0) (!rf || decide (2 ^ 15 ≤ be b h 2)) (fi < 2) d

def Flow.parse (x : Flow) (b : List Byte) : RlcPdu := if x.hdr.lte then ltePdu x.hdr.am x.hdr.rlcSn b else nrPdu x.hdr.am x.hdr.rlcSn b

/-! Sequence numbers -/

def Flow.snMod (x : Flow) : Nat := 2 ^ x.hdr.rlcSn
def Flow.win (x : Flow) : Nat := 2 ^ (x.hdr.rlcSn - 1)
/-- How far an SN lies above another, modulo the flow's SN space. -/
def Flow.above (x : Flow) (sn base : Nat) : Nat := (sn + x.snMod - base % x.snMod) % x.snMod
/-- The lower edge of UM's window: RX_NEXT_HIGHEST less the window. -/
def Flow.umBase (x : Flow) : Nat := (x.rxHighest + x.snMod - x.win) % x.snMod
/-- The first SN from one on that is not received whole. -/
def Flow.firstOpen (x : Flow) : Nat → Nat → Nat
  | 0, sn => sn
  | n + 1, sn => if x.rlcDone.contains sn then x.firstOpen n ((sn + 1) % x.snMod) else sn
def Flow.openFrom (x : Flow) (sn : Nat) : Nat := x.firstOpen (x.rlcDone.length + 1) (sn % x.snMod)

/-! Segments -/

/-- Byte i of an SN's data, of any segment that covers it. -/
def segByte (q : List RlcSeg) (i : Nat) : Option (Byte × Bool) :=
  (q.find? (fun g => decide (g.so ≤ i) && decide (i < g.so + g.data.length))).bind (fun g => g.data[i - g.so]?)
/-- The data of an SN, once its segments cover it, and whether an SDU begins with it. -/
def wholeSdu (segs : List RlcSeg) (sn : Nat) : Option RlcSeg :=
  let q := segs.filter (fun g => g.sn == sn)
  match q.find? (·.last) with
  | none => none
  | some l =>
    let bs := (List.range (l.so + l.data.length)).map (segByte q)
    if bs.all (·.isSome) then some ⟨sn, 0, true, (q.find? (fun g => g.so == 0)).elim false (·.starts), bs.filterMap id⟩ else none
/-- The missing byte ranges of an SN that is received in part: each from an offset to one, the last to the end where its last byte is
missing. -/
def gapsFrom (q : List RlcSeg) (len : Nat) (open_ : Bool) : Nat → Nat → Option Nat → List (Nat × Option Nat)
  | 0, i, g => match g with
    | some a => [(a, if open_ then none else some (i - 1))]
    | none => if open_ then [(i, none)] else []
  | n + 1, i, g =>
    if (segByte q i).isSome then (match g with | some a => [(a, some (i - 1))] | none => []) ++ gapsFrom q len open_ n (i + 1) none
    else gapsFrom q len open_ n (i + 1) (some (g.getD i))
def Flow.gaps (x : Flow) (sn : Nat) : List (Nat × Option Nat) :=
  let q := x.rlcSegs.filter (fun g => g.sn == sn)
  let len := (q.map (fun g => g.so + g.data.length)).foldl max 0
  gapsFrom q len (!(q.any (·.last))) len 0 none
/-- Whether a byte of an SN is missing before the last one received of it. -/
def Flow.missingBefore (x : Flow) (sn : Nat) : Bool := (x.gaps sn).any (fun g => g.2.isSome)

/-! Delivery to PDCP -/

/-- SDUs of the data of one PDU in sequence (LTE): what was under way, and those that end. -/
def feedBytes : Option (List Byte) → List (Byte × Bool) → Option (List Byte) × List (List Byte)
  | p, [] => (p, [])
  | p, (b, fin) :: r =>
    let p := p.map (· ++ [b])
    if fin then let q := feedBytes (some []) r; (q.1, p.toList ++ q.2) else feedBytes p r
/-- PDUs of n sequence numbers from one on are taken in sequence (LTE); the SDUs that end. A PDU that is missing breaks the SDU under way. -/
def Flow.feed (x : Flow) : Nat → Nat → Flow × List (List Byte)
  | 0, _ => (x, [])
  | n + 1, sn =>
    match x.held.find? (fun g => g.sn == sn) with
    | none => ({ x with part := none } : Flow).feed n ((sn + 1) % x.snMod)
    | some g =>
      let r := feedBytes (if g.starts then some [] else x.part) g.data
      let y := ({ x with part := r.1, held := x.held.filter (fun h => h.sn ≠ sn) } : Flow).feed n ((sn + 1) % x.snMod)
      (y.1, r.2 ++ y.2)

/-- SDUs go to PDCP, in order. -/
def State.toPdcp (s : State) (f : Nat) (l : List (List Byte)) : State := l.foldl (fun s b => s.pdcpRx f b) s

/-! Acknowledged mode, receiving (TS 38.322 clause 5.2.3.2, TS 36.322 clause 5.1.3.2) -/

/-- Whether t-Reassembly is to run: something is missing below `top` from `low` on. -/
def Flow.mustWait (x : Flow) (low top : Nat) : Bool :=
  let d := x.above top low
  if x.hdr.lte then d != 0 else decide (1 < d) || (d == 1 && x.missingBefore low)

/-- t-Reassembly after a PDU: it stops, then starts. -/
def Flow.amTimer (x : Flow) (raw : Nat) : Flow :=
  let d := x.above x.rxTrigger x.rlcRxNext
  let stop := d == 0 || decide (x.win < d) || (!x.hdr.lte && d == 1 && !(x.missingBefore x.rlcRxNext))
  let x := if x.tReassembly.isSome ∧ stop then { x with tReassembly := none } else x
  if x.tReassembly.isNone ∧ x.mustWait x.rlcRxNext x.rxHighest then { x with tReassembly := some raw, rxTrigger := x.rxHighest } else x

/-- The window's lower edge passes the SNs that are done; LTE delivers them in sequence. -/
def Flow.amAdvance (x : Flow) : Flow × List (List Byte) :=
  let edge := x.openFrom x.rlcRxNext
  let n := x.above edge x.rlcRxNext
  let r := if x.hdr.lte then x.feed n x.rlcRxNext else (x, [])
  ({ r.1 with rlcRxNext := edge, rlcDone := x.rlcDone.filter (fun k => !(decide (x.above k x.rlcRxNext < n))) }, r.2)

/-- A polled status waits until RX_HIGHEST_STATUS has passed the polled SN, or the SN has left the window. -/
def Flow.polled (x : Flow) : Flow :=
  let due := fun (sn : Nat) => decide (x.win ≤ x.above sn x.rlcRxNext) || decide (x.above sn x.rlcRxNext < x.above x.rxStatus x.rlcRxNext)
  { x with statusDue := x.statusDue || x.pollWait.any due, pollWait := x.pollWait.filter (fun n => !(due n)) }

/-- A data PDU in acknowledged mode. -/
def Flow.amData (x : Flow) (raw : Nat) (poll : Bool) (g : RlcSeg) : Flow × List (List Byte) :=
  let d := x.above g.sn x.rlcRxNext
  if x.win ≤ d ∨ x.rlcDone.contains g.sn then ({ x with statusDue := x.statusDue || poll }, [])
  else
    let x := { x with rlcSegs := x.rlcSegs ++ [g], rxHighest := if x.above x.rxHighest x.rlcRxNext ≤ d then (g.sn + 1) % x.snMod else x.rxHighest }
    let (x, out) : Flow × List (List Byte) := match wholeSdu x.rlcSegs g.sn with
      | none => (x, [])
      | some w =>
        let x : Flow := { x with rlcSegs := x.rlcSegs.filter (fun q => q.sn ≠ g.sn), rlcDone := g.sn :: x.rlcDone, held := if x.hdr.lte then x.held ++ [w] else x.held }
        let x : Flow := if x.rxStatus = g.sn then { x with rxStatus := x.openFrom g.sn } else x
        let r := x.amAdvance
        (r.1, if x.hdr.lte then r.2 else [w.data.map (·.1)])
    let x := { x with pollWait := if poll then x.pollWait ++ [g.sn] else x.pollWait }
    ((x.amTimer raw).polled, out)

/-- t-Reassembly expires in acknowledged mode. -/
def Flow.amExpiry (x : Flow) (raw : Nat) : Flow :=
  let x := { x with tReassembly := none, statusDue := true, rxStatus := x.openFrom x.rxTrigger }
  if x.mustWait x.rxStatus x.rxHighest then { x with tReassembly := some raw, rxTrigger := x.rxHighest } else x

/-! Unacknowledged mode, receiving (TS 38.322 clause 5.2.2.2, TS 36.322 clause 5.1.2.2) -/

/-- t-Reassembly after a PDU. -/
def Flow.umTimer (x : Flow) (raw : Nat) : Flow :=
  let b := x.umBase
  let d := x.above x.rxTrigger b
  let stop := decide (d ≤ x.above x.rlcRxNext b) || decide (x.win < d) || (!x.hdr.lte && !(x.mustWait x.rlcRxNext x.rxHighest))
  let x := if x.tReassembly.isSome ∧ stop then { x with tReassembly := none } else x
  if x.tReassembly.isNone ∧ x.mustWait x.rlcRxNext x.rxHighest then { x with tReassembly := some raw, rxTrigger := x.rxHighest } else x

/-- The lower edge moves to an SN: LTE takes the PDUs below it in sequence; segments below it are gone. -/
def Flow.umMove (x : Flow) (edge : Nat) : Flow × List (List Byte) :=
  let n := x.above edge x.rlcRxNext
  let r := if x.hdr.lte then x.feed n x.rlcRxNext else (x, [])
  let below := fun (k : Nat) => decide (x.above k x.rlcRxNext < n)
  ({ r.1 with rlcRxNext := edge, rlcDone := x.rlcDone.filter (fun k => !(below k)), rlcSegs := x.rlcSegs.filter (fun g => !(below g.sn)) }, r.2)

/-- The window follows a PDU that lies outside it. -/
def Flow.umWindow (x : Flow) (sn : Nat) : Flow × List (List Byte) :=
  if x.above sn x.umBase < x.win then (x, [])
  else
    let x : Flow := { x with rxHighest := (sn + 1) % x.snMod }
    let b := x.umBase
    let out := fun (k : Nat) => decide (x.win ≤ x.above k b)
    if x.rlcRxNext ≠ x.rxHighest ∧ out x.rlcRxNext then
      let r := x.umMove b
      let y : Flow := { r.1 with rlcSegs := r.1.rlcSegs.filter (fun g => !(out g.sn)), rlcDone := r.1.rlcDone.filter (fun k => !(out k)) }
      let r2 := y.umMove (y.openFrom b)
      (r2.1, r.2 ++ r2.2)
    else ({ x with rlcSegs := x.rlcSegs.filter (fun g => !(out g.sn)) }, [])

/-- A data PDU in unacknowledged mode. -/
def Flow.umData (x : Flow) (raw : Nat) (g : RlcSeg) : Flow × List (List Byte) :=
  let b := x.umBase
  let d := x.above g.sn b
  if d < x.win ∧ (d < x.above x.rlcRxNext b ∨ x.rlcDone.contains g.sn) then (x, [])
  else
    let x := { x with rlcSegs := x.rlcSegs ++ [g] }
    let (x, out) : Flow × List (List Byte) := match wholeSdu x.rlcSegs g.sn with
      | some w =>
        let x : Flow := { x with rlcSegs := x.rlcSegs.filter (fun q => q.sn ≠ g.sn), rlcDone := g.sn :: x.rlcDone, held := if x.hdr.lte then x.held ++ [w] else x.held }
        let (x, o1) : Flow × List (List Byte) := if x.hdr.lte then x.umWindow g.sn else (x, [])
        let r := if g.sn = x.rlcRxNext ∨ x.hdr.lte then x.umMove (x.openFrom x.rlcRxNext) else (x, [])
        (r.1, if x.hdr.lte then o1 ++ r.2 else [w.data.map (·.1)])
      | none => x.umWindow g.sn
    (x.umTimer raw, out)

/-- t-Reassembly expires in unacknowledged mode. -/
def Flow.umExpiry (x : Flow) (raw : Nat) : Flow × List (List Byte) :=
  let r := ({ x with tReassembly := none } : Flow).umMove (x.openFrom x.rxTrigger)
  let y := r.1
  (if y.mustWait y.rlcRxNext y.rxHighest then { y with tReassembly := some raw, rxTrigger := y.rxHighest } else y, r.2)

/-! Status PDUs received (R324) -/

/-- SDUs and parts of them that a peer may acknowledge or ask for again: those that wait, and the part sent of the one under way. -/
def Flow.outstanding (x : Flow) : List Sdu :=
  x.unacked ++ (match x.queue with
    | d :: _ => if !x.hdr.lte ∧ d.base < d.pos then [{ d with stop := d.pos }] else []
    | [] => [])

/-- A received status PDU: acknowledged SDUs leave their buffers, NACKed ones or segments are sent again. -/
def Flow.acked (x : Flow) (p : RlcPdu) : Flow :=
  let base := x.txNextAck
  let below := fun (sn : Nat) => decide (x.above sn base < x.above p.ackSn base)
  if x.above x.rlcTxNext base + 1 < x.above p.ackSn base then x
  else
    let nacked := fun (sn : Nat) => p.nacks.any (fun n => n.sn == sn)
    let gone := fun (d : Sdu) => below d.sn && !(nacked d.sn)
    let again := p.nacks.flatMap (fun n => (x.outstanding.filter (fun d => d.sn == n.sn)).map (fun d =>
      { d with pos := d.base + n.start, upto := min d.stop (match n.stop with | some e => d.base + e + 1 | none => d.stop), tries := d.tries + 1 }))
    let again := again.filter (fun d => decide (d.pos < d.upto) && !(x.retx.any (fun r => r.sn == d.sn && decide (r.pos ≤ d.pos) && decide (d.upto ≤ r.upto))))
    let kept := x.unacked.filter (fun d => !(gone d))
    { x with unacked := kept, retx := x.retx.filter (fun d => !(gone d)) ++ again
             txNextAck := (kept.head?.map (·.sn)).getD x.rlcTxNext
             tPoll := if below x.pollSn then none else x.tPoll }

/-- A MAC SDU for a context (R323, R324): false where it is dropped. -/
def State.rlcRx (s : State) (f : Nat) (b : List Byte) : State × Bool :=
  let s := s.touchFlow f
  let x := s.fl f
  match x.st with
  | .free => (s.flDrop fdUlNoflow, false)
  | .closing => (s.flowDrop f fdClosing, false)
  | .failed => (s.flowDrop f fdFailed, false)
  | .opened =>
    let p := x.parse b
    if p.control then (s.setFl f (x.acked p), true)
    else match p.sn with
      | none => (s.toPdcp f [p.seg.data.map (·.1)], true)
      | some _ =>
        let r := if x.hdr.am then x.amData s.raw.toNat p.poll p.seg else x.umData s.raw.toNat p.seg
        ((s.setFl f r.1).toPdcp f r.2, true)

/-! Building a MAC PDU (R330) -/

/-- A MAC PDU under way: the bytes that its RLC PDUs and subheaders may take, the RLC PDUs with their LCIDs, data bytes, RLC PDUs, and
whether a stored byte was poisoned. -/
structure Build where
  s : State
  lte : Bool
  limit : Nat
  parts : List (Nat × List Byte)
  data : Nat
  pdus : Nat

/-- Bytes of a subheader: of TS 38.321 clause 6.1.2, or of TS 36.321 clause 6.1.2, whose last one has no length. -/
def subLen (lte : Bool) (n : Nat) (last : Bool) : Nat :=
  if lte then (if last then 1 else if n < 128 then 2 else 3) else if n < 256 then 2 else 3
def subBytes (lte : Bool) (lcid n : Nat) (last : Bool) : List Byte :=
  if lte then
    if last then [BitVec.ofNat 8 lcid]
    else BitVec.ofNat 8 (32 + lcid) :: (if n < 128 then beBytes 1 n else beBytes 2 (2 ^ 15 + n))
  else if n < 256 then [BitVec.ofNat 8 lcid, BitVec.ofNat 8 n] else BitVec.ofNat 8 (64 + lcid) :: beBytes 2 n
/-- Bytes of subheaders and RLC PDUs. -/
def partsLen (lte : Bool) : List (Nat × List Byte) → Nat
  | [] => 0
  | p :: r => subLen lte p.2.length r.isEmpty + p.2.length + partsLen lte r
def Build.room (b : Build) : Nat := b.limit - partsLen b.lte b.parts
/-- Whether an RLC PDU of n bytes fits. -/
def Build.fits (b : Build) (n : Nat) : Bool := decide (partsLen b.lte (b.parts ++ [(0, List.replicate n 0)]) ≤ b.limit)
def Build.add (b : Build) (lcid n : Nat) (pdu : List Byte) : Build :=
  { b with parts := b.parts ++ [(lcid, pdu)], data := b.data + n, pdus := b.pdus + 1 }

/-- The subheaders of an LTE MAC PDU, the last of which carries no length unless padding follows it. -/
def lteSubs (padded : Bool) : List (Nat × List Byte) → List Byte
  | [] => if padded then [31] else []
  | p :: r => subBytes true p.1 p.2.length (r.isEmpty && !padded) ++ lteSubs padded r
/-- The bytes after the control elements: subheaders, RLC PDUs, padding; `room` bytes are left for padding. -/
def Build.bytes (b : Build) : List Byte :=
  let room := b.room
  if b.lte then
    let padded := decide (3 ≤ room) || (b.parts.isEmpty && decide (0 < room))
    let front := if padded then [] else List.replicate room (63 : Byte)
    let body := b.parts.flatMap (·.2)
    let subs := lteSubs padded b.parts
    front ++ subs ++ body ++ List.replicate (b.limit - front.length - subs.length - body.length) 0
  else
    b.parts.flatMap (fun p => subBytes false p.1 p.2.length false ++ p.2) ++
      (if room = 0 then [] else 63 :: List.replicate (room - 1) 0)

/-- The header of the RLC PDU that carries k bytes of an SDU from its position on. -/
def Flow.rlcHeader (x : Flow) (d : Sdu) (k : Nat) (poll : Bool) : List Byte :=
  let p := b01 poll
  let first := b01 (d.pos != 0)
  let more := b01 (decide (d.pos + k < d.total))
  if x.hdr.lte then
    let fi := first * 2 + more
    if x.hdr.am then
      let whole := d.pos == d.base && d.pos + k == d.stop
      [BitVec.ofNat 8 (128 + b01 (!whole) * 64 + p * 32 + fi * 8 + d.sn / 256 % 4), BitVec.ofNat 8 d.sn] ++
        (if whole then [] else beBytes 2 (b01 (decide (d.stop ≤ d.pos + k)) * 2 ^ 15 + (d.pos - d.base)))
    else if x.hdr.rlcSn = 5 then [BitVec.ofNat 8 (fi * 64 + d.sn % 32)]
    else [BitVec.ofNat 8 (fi * 8 + d.sn / 256 % 4), BitVec.ofNat 8 d.sn]
  else
    let si := match first, more with | 0, 0 => 0 | 0, _ => 1 | _, 0 => 2 | _, _ => 3
    let so := if d.pos = 0 then [] else beBytes 2 d.pos
    if x.hdr.am then
      (if x.hdr.rlcSn = 12 then [BitVec.ofNat 8 (128 + p * 64 + si * 16 + d.sn / 256 % 16), BitVec.ofNat 8 d.sn]
        else BitVec.ofNat 8 (128 + p * 64 + si * 16 + d.sn / 65536 % 4) :: beBytes 2 d.sn) ++ so
    else if si = 0 then [0]
    else (if x.hdr.rlcSn = 6 then [BitVec.ofNat 8 (si * 64 + d.sn % 64)]
      else [BitVec.ofNat 8 (si * 64 + d.sn / 256 % 16), BitVec.ofNat 8 d.sn]) ++ so

/-- The piece of an SDU that is sent as new data in LTE is one PDU: it begins where the SDU has got to and ends after k bytes. -/
def Flow.piece (x : Flow) (new : Bool) (d : Sdu) (k : Nat) : Sdu := if x.hdr.lte ∧ new then { d with base := d.pos, stop := d.pos + k } else d

/-- The greatest number of bytes, up to k, of an SDU whose RLC PDU fits. -/
def Build.take (b : Build) (x : Flow) (new : Bool) (d : Sdu) : Nat → Nat
  | 0 => 0
  | k + 1 => if b.fits ((x.rlcHeader (x.piece new d (k + 1)) (k + 1) false).length + (k + 1)) then k + 1 else b.take x new d k

/-- The status PDU with the first n of the NACKs. -/
def Flow.statusPdu (x : Flow) (all : List Nack) (n : Nat) : List Byte :=
  let ns := all.take n
  let ack := match all.drop n with | q :: _ => q.sn | [] => x.rxStatus
  let k := x.hdr.rlcSn
  let full := if x.hdr.lte then 0x7FFF else 0xFFFF
  let so := fun (q : Nack) => q.start != 0 || q.stop.isSome
  let field := fun (q : Nack) (more : Bool) =>
    if x.hdr.lte then numBits 10 q.sn ++ [more, so q] ++ (if so q then numBits 15 q.start ++ numBits 15 (q.stop.getD full) else [])
    else numBits k q.sn ++ [more, so q, false] ++ List.replicate (if k = 12 then 1 else 3) false ++
      (if so q then numBits 16 q.start ++ numBits 16 (q.stop.getD full) else [])
  packBits (numBits 4 0 ++ numBits k ack ++ [!ns.isEmpty] ++ (if x.hdr.lte then [] else List.replicate (if k = 12 then 7 else 1) false) ++
    (ns.zipIdx.flatMap (fun q => field q.1 (decide (q.2 + 1 < ns.length)))))

/-- What is missing between RX_NEXT and RX_HIGHEST_STATUS. -/
def Flow.missing (x : Flow) : List Nack :=
  ((List.range (x.above x.rxStatus x.rlcRxNext)).map (fun i => (x.rlcRxNext + i) % x.snMod)).flatMap (fun sn =>
    if x.rlcDone.contains sn then []
    else if x.rlcSegs.any (fun g => g.sn == sn) then (x.gaps sn).map (fun g => ⟨sn, g.1, g.2⟩)
    else [⟨sn, 0, none⟩])

/-- A pending status PDU of a flow, with as many NACKs as fit (R324). -/
def Build.status (b : Build) (f : Nat) : Build :=
  let x := b.s.fl f
  if x.statusDue ∧ !(x.tProhibit.isSome && !(b.s.timerDone x.tProhibit x.hdr.msProhibit)) then
    let all := x.missing
    match ((List.range (all.length + 1)).reverse.map (x.statusPdu all)).find? (fun p => b.fits p.length) with
    | some p => { b.add x.hdr.lcid 0 p with s := b.s.setFl f { x with statusDue := false, tProhibit := some b.s.raw.toNat } }
    | none => b
  else b

/-- Whether the RLC PDU that is to leave carries a poll (TS 38.322 clause 5.3.3.2): of new data where the counts reach their values; or where
nothing is left to send, or the window is full. -/
def Flow.mustPoll (x : Flow) (new empty : Bool) (k : Nat) (nextSn : Nat) : Bool :=
  x.hdr.am && ((new && ((x.hdr.pollPdu != 0 && decide (x.hdr.pollPdu ≤ x.pduNoPoll + 1)) || (x.hdr.pollByte != 0 && decide (x.hdr.pollByte ≤ x.byteNoPoll + k)))) ||
    empty || decide (x.win ≤ x.above nextSn x.txNextAck))
/-- The counts and t-PollRetransmit after a PDU. -/
def Flow.sent (x : Flow) (new poll : Bool) (k top raw : Nat) : Flow :=
  let x := if new then { x with pduNoPoll := x.pduNoPoll + 1, byteNoPoll := x.byteNoPoll + k } else x
  if poll then { x with pduNoPoll := 0, byteNoPoll := 0, pollSn := top, tPoll := some raw } else x

/-- The RLC PDU of k bytes of an SDU is added; none where a byte is poisoned. -/
def Build.put (b : Build) (x : Flow) (d : Sdu) (k : Nat) (poll : Bool) : Option Build :=
  match b.s.sduRead d d.pos k with
  | (_, _, true) => none
  | (s, bs, false) => some ({ b with s := s }.add x.hdr.lcid k (x.rlcHeader d k poll ++ bs))
/-- An SDU with a poisoned byte is dropped (R327). -/
def Build.lose (b : Build) (f : Nat) (sn : Option Nat) (rest : List Sdu) : Build :=
  let x := b.s.fl f
  let x := match sn with
    | some n => { x with retx := x.retx.filter (fun d => d.sn ≠ n), unacked := x.unacked.filter (fun d => d.sn ≠ n) }
    | none => { x with queue := rest }
  { b with s := (b.s.setFl f x).flowDrop f fdPoison }

/-- One RLC PDU of a flow: a retransmission, else of new data in the window; none where nothing is left, or nothing fits. -/
def Build.one (b : Build) (f : Nat) : Option Build :=
  let x := b.s.fl f
  let raw := b.s.raw.toNat
  let top := match x.queue with
    | d :: _ => if d.pos = 0 ∨ x.hdr.lte then (x.rlcTxNext + x.snMod - 1) % x.snMod else d.sn
    | [] => (x.rlcTxNext + x.snMod - 1) % x.snMod
  match x.retx, x.queue with
  | d :: r, q =>
    let k := b.take x false d (d.upto - d.pos)
    let fin := d.upto ≤ d.pos + k
    let poll := x.mustPoll false (fin && r.isEmpty && q.isEmpty) k x.rlcTxNext
    if k = 0 then none
    else match b.put x d k poll with
      | none => some (b.lose f (some d.sn) [])
      | some b =>
        let x' := { x with retx := if fin then r else { d with pos := d.pos + k } :: r }.sent false poll k top raw
        some { b with s := b.s.setFl f x' }
  | [], d :: r =>
    let new := x.hdr.lte || d.pos == 0
    if x.hdr.am ∧ new ∧ x.win ≤ x.above x.rlcTxNext x.txNextAck then none
    else
      let d := if new then { d with sn := x.rlcTxNext } else d
      let k := b.take x true d (d.total - d.pos)
      let fin := d.total ≤ d.pos + k
      let next := if (x.hdr.lte ∨ fin) ∧ (x.hdr.am ∨ x.hdr.lte ∨ 0 < d.pos) then (x.rlcTxNext + 1) % x.snMod else x.rlcTxNext
      let poll := x.mustPoll true (fin && r.isEmpty) k next
      let piece := x.piece true d k
      if k = 0 then none
      else match b.put x piece k poll with
        | none => some (b.lose f none r)
        | some b =>
          let wait := if x.hdr.am ∧ (fin ∨ x.hdr.lte) then [{ piece with pos := piece.base, upto := piece.stop }] else []
          let x' := { x with queue := if fin then r else { d with pos := d.pos + k } :: r
                             rlcTxNext := next, unacked := x.unacked ++ wait }.sent true poll k d.sn raw
          some { b with s := b.s.setFl f x' }
  | [], [] => none

/-- RLC PDUs of a flow while room is left (R330). -/
def Build.sdus (b : Build) (f : Nat) : Nat → Build
  | 0 => b
  | n + 1 => match b.one f with
    | some b => b.sdus f n
    | none => b

/-- t-PollRetransmit expires (TS 38.322 clause 5.3.3.4): where nothing else is to be sent, or the window is full, the SDU of the highest SN is
sent again. -/
def Flow.pollExpiry (x : Flow) : Flow :=
  let idle := (x.queue.isEmpty && x.retx.isEmpty) || decide (x.win ≤ x.above x.rlcTxNext x.txNextAck)
  let again := match x.unacked.getLast? with
    | some d => if x.retx.any (fun r => r.sn == d.sn) then [] else [{ d with tries := d.tries + 1 }]
    | none => []
  { x with tPoll := none, retx := if idle then x.retx ++ again else x.retx }

end Sys2Proof.Machine
end

