-- ==== Sys2Proof/Machine/Flow.lean ====
section
/-! DEFINITION. Flow.lean: the flow engine's commands (R312 to R333). -/
namespace Sys2Proof.Machine

/-- Whether an OP belongs to a ring type. -/
def opOk (ty op : Nat) : Bool := if ty = 0 then op == 1 || op == 2 else decide (0x10 ≤ op) && decide (op ≤ 0x16)

/-- FL_RING_POLL (R313): the engine reads PROD of ring n; an entry at the front with an OP its ring does not have ends PARAM. -/
def execFlRingPoll (n : Fin 256) (s : State) : Out :=
  .next (
    if s.ringEn n.val ∧ s.ringType n.val < 2 then
      match s.readNum .flow (s.ringBase n.val) 8 with
      | (s, none) => s
      | (s, some p) =>
        let s := { s with ringTaken := tput s.ringTaken n.val (p % 2 ^ 32) }
        match s.ringFront n.val with
        | (s', some e) => if opOk (s.ringType n.val) e.op then s else s'.ringEnd e fsParam none
        | (_, none) => s
    else s)

/-! Uplink (R323) -/

/-- A part of a MAC PDU: its LCID, where its bytes lie. -/
inductive SubKind where
  | sdu | ce | elcid
deriving DecidableEq, Repr
structure SubPdu where
  kind : SubKind
  lcid : Nat
  off : Nat
  len : Nat

/-- A length field at an offset: one byte or two. -/
def lenField (b : List Byte) (two : Bool) (o : Nat) : Option (Nat × Nat) :=
  let n := if two then 2 else 1
  if b.length < o + n then none else some (be b o n, o + n)

/-- The parts of an NR MAC PDU (TS 38.321 clause 6.1.2), and whether it ends inside one. -/
def nrParts : Nat → List Byte → Nat → List SubPdu × Bool
  | 0, _, _ => ([], false)
  | n + 1, b, o =>
    if b.length ≤ o then ([], false)
    else
      let h := be b o 1
      let lcid := h % 64
      let two := h / 64 % 2 == 1
      if lcid = 63 then ([], false)
      else
        let ext := if lcid = 33 then 2 else if lcid = 34 then 1 else 0
        let kind := if ext ≠ 0 then SubKind.elcid else if lcid ≤ 32 ∨ lcid = 52 then .sdu else .ce
        let id := if ext = 0 then lcid else 64 + be b (o + 1) ext
        let o := o + 1 + ext
        let at_ := match (if 1 ≤ lcid ∧ lcid ≤ 32 then none else Config.ceLen false id) with
          | some l => some (l, o)
          | none => lenField b two o
        match at_ with
        | none => ([], true)
        | some (l, o) =>
          if b.length < o + l then ([], true)
          else let r := nrParts n b (o + l); (⟨kind, lcid, o, l⟩ :: r.1, r.2)

/-- The subheaders of an LTE MAC PDU (TS 36.321 clause 6.1.2): LCIDs and lengths, none for the last, and where they end. -/
def lteHeads : Nat → List Byte → Nat → Option (List (Nat × Option Nat) × Nat)
  | 0, _, _ => none
  | n + 1, b, o =>
    if b.length ≤ o then none
    else
      let h := be b o 1
      let lcid := h % 32
      if h / 32 % 2 = 0 then some ([(lcid, if 16 ≤ lcid ∧ lcid < 31 then Config.ceLen true lcid else none)], o + 1)
      else
        let fixed := if lcid = 31 then some 0 else if 16 ≤ lcid then Config.ceLen true lcid else none
        let l := match fixed with
          | some l => some (l, o + 1)
          | none => match lenField b false (o + 1) with
            | some (x, q) => if x < 128 then some (x, q) else (lenField b true (o + 1)).map (fun (p : Nat × Nat) => (p.1 % 32768, p.2))
            | none => none
        match l with
        | none => none
        | some (l, o) => (lteHeads n b o).map (fun (r : List (Nat × Option Nat) × Nat) => ((lcid, some l) :: r.1, r.2))
/-- The parts of an LTE MAC PDU from its subheaders on. -/
def lteBodies (b : List Byte) : List (Nat × Option Nat) → Nat → List SubPdu × Bool
  | [], _ => ([], false)
  | (lcid, l) :: r, o =>
    let n := l.getD (b.length - o)
    if b.length < o + n then ([], true)
    else
      let q := lteBodies b r (o + n)
      if lcid = 31 ∧ r = [] then q
      else (⟨if lcid < 16 then .sdu else .ce, lcid, o, n⟩ :: q.1, q.2)

/-- The parts of a MAC PDU (R323). -/
def macParts (lte : Bool) (b : List Byte) : List SubPdu × Bool :=
  if lte then match lteHeads b.length b 0 with
    | some (h, o) => lteBodies b h o
    | none => ([], true)
  else nrParts b.length b 0

/-- Whether a carrier is LTE (`FL_CARRIER_RAT`). -/
def State.carrierLte (s : State) (c : Nat) : Bool := s.flag (Key.flCarrierRat (c / 8)) (c % 8)

/-- The key of a logical channel. -/
def ulKey (c ue lcid : Nat) : List Byte := leBytes 16 (c % 512 + ue % 65536 * 2 ^ 9 + lcid % 64 * 2 ^ 25)

/-- What an UL_PDU has done so far: SDUs to PDCP, to EXC, dropped, and whether poison was met. -/
structure Ul where
  s : State
  pdcp : Nat
  exc : Nat
  drop : Nat
  poison : Bool

/-- One part of a MAC PDU is dealt with. -/
def Ul.part (u : Ul) (e : REntry) (p : Nat) (b : List Byte) (x : SubPdu) : Ul :=
  let data := (b.drop x.off).take x.len
  let toExc := fun (u : Ul) (why : Exc) => { u with s := u.s.excRecord p why [e.carrier, e.ue, x.lcid] data, exc := u.exc + 1 }
  match x.kind with
  | .ce => toExc u .ulCe
  | .elcid => toExc u .ulElcid
  | .sdu =>
    if u.s.anyPoison (e.addr + x.off) x.len then { u with s := u.s.flDrop fdPoison, drop := u.drop + 1, poison := true }
    else match u.s.lookup 1 (ulKey e.carrier e.ue x.lcid) with
      | none => toExc { u with s := u.s.flDrop fdUlNoflow } .ulNoflow
      | some q =>
        let (s, ok) := u.s.rlcRx (teFlow (u.s.teAt q)) data
        if ok then { u with s := s, pdcp := u.pdcp + 1 } else { u with s := s, drop := u.drop + 1 }

/-- Whether a context in use has another owner than ring n (R316). -/
def State.flowForeign (s : State) (n f : Nat) : Bool := match tfind s.flow f with | some x => x.hdr.owner != s.ringOwner n | none => false

/-- UL_PDU (R323 to R327). -/
def execUlPdu (n : Fin 256) (s : State) : Out :=
  .next (s.onRing n.val 1 (fun s e =>
    if 383 < e.carrier then (s, fsParam, none)
    else match s.flRead e.addr e.len with
      | (s, none) => (s, fsReadError, none)
      | (s, some (b, bad)) =>
        let (ps, mal) := macParts (s.carrierLte e.carrier) b
        let foreign := ps.any (fun x => x.kind == .sdu && (match s.lookup 1 (ulKey e.carrier e.ue x.lcid) with
          | some q => teOwner (s.teAt q) != s.ringOwner n.val || s.flowForeign n.val (teFlow (s.teAt q))
          | none => false))
        if foreign then (s, fsForeign, none)
        else
          let u := ps.foldl (fun u x => u.part e (s.ringOwner n.val) b x) (⟨s, 0, 0, 0, bad⟩ : Ul)
          let s := if mal then u.s.flDrop fdMalformed else u.s
          (s, if u.poison then fsPoison else if mal then fsMalformed else fsOk,
            some (u.pdcp * 2 ^ 48 + u.exc * 2 ^ 32 + u.drop * 2 ^ 16))))

/-! Downlink -/

/-- The contexts of a UE's logical channel that are in use. -/
def State.flowsOf (s : State) (c ue lcid : Nat) : List Nat :=
  (s.flow.filter (fun f => f.2.hdr.carrier == c && f.2.hdr.ue == ue && f.2.hdr.lcid == lcid)).map (·.1)

/-- A flow's part of a MAC PDU (R330, R332): a pending status PDU, retransmissions, new SDUs; a closing or failed context drops the
request. -/
def Build.flow (b : Build) (f : Nat) : Build :=
  let b := { b with s := b.s.touchFlow f }
  match (b.s.fl f).st with
  | .opened => let b := b.status f; b.sdus f b.limit
  | .closing => { b with s := b.s.flowDrop f fdClosing }
  | .failed => { b with s := b.s.flowDrop f fdFailed }
  | .free => b

/-- DL_BUILD (R330). A LEN that holds the control elements and a subheader of one byte is enough. -/
def execDlBuild (n : Fin 256) (s : State) : Out :=
  .next (s.onRing n.val 2 (fun s e =>
    let lte := s.carrierLte e.carrier
    let lcids := ((List.range 8).map (fun i => e.arg (24 + i) 1)).filter (· ≠ 0xFF)
    let ceLen := e.arg 38 2
    let fs := lcids.flatMap (s.flowsOf e.carrier e.ue)
    if 383 < e.carrier ∨ e.len < ceLen + 1 then (s, fsParam, none)
    else if fs.any (fun f => (s.fl f).hdr.owner != s.ringOwner n.val) then (s, fsForeign, none)
    else match s.flRead (e.arg 32 5) ceLen with
      | (s, none) => (s, fsReadError, none)
      | (s, some (ce, bad)) =>
        if bad then (s, fsPoison, none)
        else
          let b := fs.foldl Build.flow (⟨s, lte, e.len - ceLen, [], 0, 0⟩ : Build)
          match b.s.busWrite .flow e.addr (ce ++ b.bytes) false with
          | (s, true) => (s, fsOk, some (b.data * 2 ^ 32 + b.pdus * 2 ^ 16 + b.room % 2 ^ 16))
          | (s, false) => (s, fsWriteError, none)))

/-- The GTP-U message of a frame (TS 29.281): type, TEID, QFI and RQI of a PDU session container, payload; PRESUMED layout. -/
structure Gtp where
  ty : Nat
  teid : Nat
  qfi : Option (Nat × Bool)
  payload : List Byte
/-- The chain of extension headers from a type on: the container's second byte, and the bytes after the chain. -/
def gtpExt : Nat → Nat → List Byte → Option Nat × List Byte
  | 0, _, b => (none, b)
  | n + 1, ty, b =>
    if ty = 0 ∨ b = [] then (none, b)
    else
      let len := be b 0 1 * 4
      let r := gtpExt n (be b (len - 1) 1) (b.drop (max len 4))
      (if ty = 0x85 then some (be b 2 1) else r.1, r.2)
def gtpOf (b : List Byte) : Gtp :=
  let fl := be b 0 1
  let len := be b 2 2
  let body := (b.drop 8).take len
  let (q, p) := if fl % 8 = 0 then (none, body)
    else gtpExt b.length (if fl / 4 % 2 = 1 then be body 3 1 else 0) (body.drop 4)
  ⟨be b 1 1, be b 4 4, q.map (fun x => (x % 64, x / 64 % 2 == 1)), p⟩

/-- Whether the outer IP header says a fragment, and whether the checksums of the frame are good. -/
def ipFragment (f : List Byte) : Bool :=
  let h := l2Of f
  if h.etype = 0x0800 then be f (h.off + 6) 2 % 2 ^ 14 != 0 else be f (h.off + 6) 1 == 44
def sumsOk (f : List Byte) : Bool :=
  let h := l2Of f
  match udpOf f with
  | none => true
  | some u =>
    let len := be f (u + 4) 2
    let udp := (f.drop u).take len
    if h.etype = 0x0800 then
      onesSum ((f.drop h.off).take (be f h.off 1 % 16 * 4)) 0 == 65535 &&
        (be f (u + 6) 2 == 0 || onesSum ((f.drop (h.off + 12)).take 8 ++ beBytes 2 17 ++ beBytes 2 len ++ udp) 0 == 65535)
    else onesSum ((f.drop (h.off + 8)).take 32 ++ beBytes 4 len ++ beBytes 4 17 ++ udp) 0 == 65535

/-- The frame that answers an Echo Request of TS 29.281: the addresses and ports exchanged, the sequence number repeated, a Recovery
element. -/
def echoFrame (f : List Byte) (s : State) : List Byte :=
  let h := l2Of f
  let v6 := h.etype != 0x0800
  let o := h.off
  let u := (udpOf f).getD o
  let (src, dst) := if v6 then ((f.drop (o + 24)).take 16, (f.drop (o + 8)).take 16) else ((f.drop (o + 16)).take 4, (f.drop (o + 12)).take 4)
  let dscp := if v6 then be f o 2 / 64 % 64 else be f (o + 1) 1 / 4
  let gtp := [0x32, 2] ++ beBytes 2 6 ++ beBytes 4 0 ++ (f.drop (u + 16)).take 2 ++ [0, 0, 14, 0]
  etherBytes (srcOf f) (dstOf f) (match h.tag with | some t => t.1 * 2 ^ 13 + t.2 + 1 | none => 0) h.etype
    (ipBytes src dst dscp (udpBytes src dst 2152 (be f u 2) (v6 || s.flag Key.flCfg 62) gtp))

/-- A frame from MAC m reaches the engine (R328). -/
def State.dlPacket (s : State) (m : Fin 128) (f : List Byte) : State :=
  let p := s.entN (Key.ethOwner m.val)
  let toExc := fun (s : State) (why : Exc) => s.excRecord p why [m.val] f
  let b := match udpOf f with | some u => f.drop (u + 8) | none => []
  if ipFragment f then toExc s .fragment
  else if !(sumsOk f) then toExc s .badSum
  else if be b 0 1 / 32 ≠ 1 then (toExc s .otherType).flDrop fdMalformed
  else
    let g := gtpOf b
    match g.ty with
    | 1 => if s.flag Key.flCfg 61 then s.enqueue m.val (s.flQ m.val) (plainFrame (echoFrame f s)) else toExc s .echo
    | 254 => toExc s .endMarker
    | 26 => toExc s .errorInd
    | 255 =>
      let k0 := match g.qfi with
        | some (q, _) => s.lookup 0 (leBytes 16 (g.teid + q * 2 ^ 32))
        | none => none
      match (match k0 with | some q => some q | none => s.lookup 2 (leBytes 16 g.teid)) with
      | none => (toExc s .dlNoflow).flDrop fdDlNoflow
      | some q => s.dlAppend (teFlow (s.teAt q)) ((g.qfi.map (·.1)).getD (s.fl (teFlow (s.teAt q))).hdr.qfi)
          ((g.qfi.map (·.2)).getD false) g.payload
    | _ => toExc s .otherType

/-- GTPU_DL_PACKET (R328, R329): the oldest frame that MAC m has for the engine. -/
def execGtpuDlPacket (m : Fin 128) (s : State) : Out :=
  let x := s.mc m.val
  .next (match x.flowIn with
    | [] => s
    | f :: r => if s.flowRuns then (s.setMc m.val { x with flowIn := r }).dlPacket m f else s)

/-! Contexts (R320, R332) -/

/-- FLOW_OPEN (R320): the peer profile and the pool that the image names are the ring owner's too (R316); partition p's pool is
`FL_POOLp`. -/
def execFlowOpen (n : Fin 256) (s : State) : Out :=
  .next (s.onRing n.val 0x10 (fun s e =>
    match s.flRead e.addr 512 with
    | (s, none) => (s, fsReadError, none)
    | (s, some (b, bad)) =>
      let x := Flow.ofImage b
      let o := s.ringOwner n.val
      if bad then (s, fsPoison, none)
      else if !x.hdr.ok then (s, fsParam, none)
      else if x.hdr.owner ≠ o ∨ s.fld (Key.flPeer x.hdr.peer 7) 3 0 ≠ o ∨ x.hdr.pool ≠ o then (s, fsForeign, none)
      else if ctxCount ≤ s.flow.length then (s, fsFull, none)
      else
        let (a, s) := s.drawBelow ctxCount
        let f := ((List.range (s.flow.length + 1)).find? (fun i => (tfind s.flow ((a + i) % ctxCount)).isNone)).elim 0 (fun i => (a + i) % ctxCount)
        (s.makeFlow f x, fsOk, some f)))

/-- A context that a command names is reached; OK, or why not: absent, or not the ring owner's. -/
def State.named (s : State) (n f : Nat) : State × Nat :=
  if ctxCount ≤ f then (s, fsParam)
  else
    let s := s.touchFlow f
    (s, if (s.fl f).st = .free then fsNotFound else if (s.fl f).hdr.owner ≠ s.ringOwner n then fsForeign else fsOk)

/-- FLOW_CLOSE (R332): the context is CLOSING from here; its entry ends at FLOW_FREE. -/
def execFlowClose (n : Fin 256) (s : State) : Out :=
  .next (match s.ringFront n.val with
    | (s', some e) =>
      if e.op = 0x11 ∧ s.ringType n.val = 1 then
        let f := e.arg 24 4
        match s'.named n.val f with
        | (s', 0) =>
          if (s'.fl f).st = .closing then s'.ringEnd e fsNotFound none
          else s'.setFl f { s'.fl f with st := .closing, closeRing := some n.val }
        | (s', st) => s'.ringEnd e st none
      else s
    | (_, none) => s)

/-- FLOW_FREE (R332): nothing of the context is being processed; it and its buffers are free, and the FLOW_CLOSE ends. -/
def execFlowFree (f : BitVec 20) (s : State) : Out :=
  let x := s.fl f.toNat
  .next (
    if x.st = .closing then
      let s := s.freeFlow f.toNat
      match x.closeRing with
      | none => s
      | some n => match s.ringFront n with
        | (s, some e) => s.ringEnd e fsOk none
        | (s, none) => s
    else s)

/-! Table commands (R318, R319) -/

/-- KEY_INSERT (R318). -/
def execKeyInsert (n : Fin 256) (s : State) : Out :=
  .next (s.onRing n.val 0x12 (fun s e =>
    let kt := e.arg 24 1
    let f := e.arg 28 4
    let key := (e.b.drop 32).take 16
    if 3 ≤ kt then (s, fsParam, none)
    else match s.named n.val f with
      | (s, 0) => match s.lookup kt key with
        | some q => (s, if teOwner (s.teAt q) = s.ringOwner n.val then fsExists else fsForeign, none)
        | none => match s.placeEntry kt key (teMake kt (s.ringOwner n.val) f key) with
          | (s, some (.slot b _)) => (s, fsOk, some b)
          | (s, some (.stash _)) => (s, fsOk, some (2 ^ 63 + (s.buckets kt key).1))
          | (s, none) => (s, fsFull, none)
      | (s, st) => (s, st, none)))

/-- KEY_DELETE (R319). -/
def execKeyDelete (n : Fin 256) (s : State) : Out :=
  .next (s.onRing n.val 0x13 (fun s e =>
    let kt := e.arg 24 1
    if 3 ≤ kt then (s, fsParam, none)
    else match s.lookup kt ((e.b.drop 32).take 16) with
      | none => (s, fsNotFound, none)
      | some q =>
        if teOwner (s.teAt q) = s.ringOwner n.val then (s.tePut q (List.replicate 64 0), fsOk, none) else (s, fsForeign, none)))

/-- CTX_READ (R320): the context as the engine holds it, with its key region zero. -/
def execCtxRead (n : Fin 256) (s : State) : Out :=
  .next (s.onRing n.val 0x14 (fun s e =>
    let f := e.arg 24 4
    match s.named n.val f with
    | (s, 0) =>
      match s.busWrite .flow e.addr (patch (s.fl f).bytes 64 (List.replicate 64 0)) false with
      | (s, true) => (s, fsOk, none)
      | (s, false) => (s, fsWriteError, none)
    | (s, st) => (s, st, none)))

/-- REKEY (R329): the first 32 bytes of the key block are the next cipher and integrity keys. -/
def execRekey (n : Fin 256) (s : State) : Out :=
  .next (s.onRing n.val 0x15 (fun s e =>
    let f := e.arg 24 4
    match s.named n.val f with
    | (s, 0) => match s.flRead e.addr 64 with
      | (s, none) => (s, fsReadError, none)
      | (s, some (b, bad)) =>
        if bad then (s, fsPoison, none)
        else
          let x := s.fl f
          (s.setFl f { x with keys := if x.rekeyed then x.nextKeys else x.keys, nextKeys := b.take 32, rekeyed := true, nextCount := e.arg 28 4 }, fsOk, none)
    | (s, st) => (s, st, none)))

/-- REOWN (R333). -/
def execReown (n : Fin 256) (s : State) : Out :=
  .next (s.onRing n.val 0x16 (fun s e =>
    let p := e.arg 24 1
    if 383 < e.carrier ∨ 8 ≤ p then (s, fsParam, none)
    else if s.flow.any (fun f => f.2.hdr.carrier == e.carrier && f.2.hdr.owner != s.ringOwner n.val) ∨
        s.allEntries.any (fun q => s.entryCarrier (s.teAt q) == e.carrier && teOwner (s.teAt q) != s.ringOwner n.val) then
      (s, fsForeign, none)
    else let (s, k) := s.reownCarrier e.carrier p; (s, fsOk, some k)))

/-! Timers (R321, R324, R325) -/

/-- What a timer of a context does when it expires. -/
def State.timerEnds (s : State) (f : Nat) (k : FlowTimer) : State :=
  let x := s.fl f
  match k with
  | .tReordering => s.reorderExpiry f
  | .tPollRetransmit => s.setFl f x.pollExpiry
  | .tReassembly =>
    if x.hdr.am then s.setFl f (x.amExpiry s.raw.toNat)
    else let r := x.umExpiry s.raw.toNat; (s.setFl f r.1).toPdcp f r.2
  | .tStatusProhibit => s.setFl f { x with tProhibit := none }

/-- FLOW_TIMER_EXPIRY (R321): a running timer of a context expires, no earlier than its value. -/
def execFlowTimerExpiry (f : BitVec 20) (k : FlowTimer) (s : State) : Out :=
  let x := s.fl f.toNat
  let due : Bool := match k with
    | .tReordering => s.timerDone x.tReordering x.hdr.msReordering
    | .tPollRetransmit => s.timerDone x.tPoll x.hdr.msPoll
    | .tReassembly => s.timerDone x.tReassembly x.hdr.msReassembly
    | .tStatusProhibit => s.timerDone x.tProhibit x.hdr.msProhibit
  .next (if x.st = .opened ∧ due ∧ s.flowRuns then
      let s := s.touchFlow f.toNat
      if (s.fl f.toNat).st = .opened then s.timerEnds f.toNat k else s
    else s)

/-! Configuration (R312) -/

/-- A write of `FL_RINGn_CFG`: EN is refused where the ring's memory is not open to its OWNER. -/
def State.flRingCfgWrite (s : State) (n : Nat) (v : U64) : State :=
  if bit v 63 ∧ (bf v 62 61 = 3 ∨ bf v 44 40 < 4 ∨ !(s.ringOpen v (s.ringBase n))) then s.status .range
  else
    let was := s.flag (Key.flRingCfg n) 63
    let s := s.setEnt (Key.flRingCfg n) v
    (if bit v 63 && !was then
      let (s, c) := s.readNum .flow (s.ringBase n + 8) 8
      { s with ringTaken := tput s.ringTaken n ((c.getD 0) % 2 ^ 32) } else s).status .ok

/-- Writes refused with BUSY while the ring, the engine or a partition's rings are enabled. -/
def State.flRingBaseWrite (s : State) (n : Nat) (v : U64) : State :=
  if s.flag (Key.flRingCfg n) 63 then s.status .busy else (s.setEnt (Key.flRingBase n) v).status .ok
def State.flBaseWrite (s : State) (k : Nat) (v : U64) : State :=
  if s.flag Key.flCfg 63 then s.status .busy
  else if k ≠ Key.flSeed ∧ !(s.deviceOwned v.toNat (if k = Key.flTableBase then 8 else 32)) then s.status .range
  else (s.setEnt k v).status .ok
def State.flPoolWrite (s : State) (p : Nat) (v : U64) : State :=
  if (List.range 256).any (fun n => s.flag (Key.flRingCfg n) 63 && s.ringOwner n == p) then s.status .busy
  else (s.setEnt (Key.flPool p) v).status .ok

end Sys2Proof.Machine
end

