-- ==== Sys2Proof/Machine/HoundFeed.lean ====
section
/-! DEFINITION. HoundFeed.lean: what the sources of a Hound engine's stream slots copy to it (R227, R252). -/
namespace Sys2Proof.Machine

/-- Whether engine e operates (R227, R252, R479): its pack is up, or from LEAD on in GUARD. -/
def State.houndUp (s : State) (e : Nat) : Bool :=
  s.flag (Key.hndCfg e) 0 && s.unitRuns (houndUnit e) && (if s.dev == .guard then s.guardLead && s.packP e == 2 else s.packUp e)

/-- Whether stream slot m of engine e is bound to a source (0 framer, 1 DFT engine) of a MAC and an eAxC. -/
def State.bound (s : State) (e m src mac eaxc : Nat) : Bool :=
  let v := s.ent (Key.hndStream e m)
  bit v 31 && bf v 30 30 == src && bf v 22 16 == mac && bf v 15 0 == eaxc

/-- A source copies samples with their timestamps to every slot bound to it (R227); `till` is the time up to which it has delivered. -/
def State.houndFeed (s : State) (src mac eaxc till : Nat) (ys : List (Nat × Option C16)) : State :=
  (List.range 8).foldl (fun s e =>
    if s.houndUp e then
      (List.range 64).foldl (fun s m =>
        if s.bound e m src mac eaxc then
          let h := s.hnd e
          s.setHnd e { h with lines := tput h.lines m ((h.line m).push till ys) }
        else s) s
    else s) s

end Sys2Proof.Machine
end

