-- ==== Sys2Proof/Machine/FhCore.lean ====
section
/-!
DEFINITION. FhCore.lean: the fronthaul framer (R366 to R382): streams, slots, windows, compression, U-plane frames in both
directions, tokens, and one-way delay measurement. The O-RAN and eCPRI header layouts are PRESUMED (assumption 60).
-/
namespace Sys2Proof.Machine

/-- A stream entry's fields (table Stream entry words). -/
structure Str where
  w0 : U64
  w1 : U64
  w2 : U64
  w3 : U64
def Str.en (x : Str) : Bool := bit x.w0 63
def Str.tx (x : Str) : Bool := bit x.w0 62
def Str.kind (x : Str) : Nat := bf x.w0 61 60
def Str.port (x : Str) : Nat := bf x.w0 59 53
def Str.carrier (x : Str) : Nat := bf x.w0 52 44
def Str.tu (x : Str) : Nat := bf x.w0 43 38
def Str.adv (x : Str) : Nat := bf x.w0 37 36
def Str.nbuf (x : Str) : Nat := 2 ^ bf x.w0 35 34
def Str.tsize (x : Str) : Nat := match bf x.w0 33 32 with | 0 => 1 | 1 => 2 | 2 => 7 | _ => 14
def Str.eaxc (x : Str) : Nat := bf x.w0 31 16
def Str.comp (x : Str) : Nat := bf x.w0 15 12
def Str.width (x : Str) : Nat := if bf x.w0 15 12 = 0 then 16 else if bf x.w0 11 8 = 0 then 16 else bf x.w0 11 8
def Str.chdr (x : Str) : Bool := bit x.w0 7
def Str.bufOff (x : Str) : Nat := bf x.w1 63 40
def Str.pack (x : Str) : Nat := bf x.w1 39 37
def Str.prb0 (x : Str) : Nat := bf x.w1 36 28
def Str.nprb (x : Str) : Nat := bf x.w1 27 19
def Str.stride (x : Str) : Nat := bf x.w1 18 11 * 64
def Str.row (x : Str) : Nat := bf x.w1 10 0
def Str.bufSize (x : Str) : Nat := bf x.w2 63 52 * 4096
def Str.tslot (x : Str) : Nat := bf x.w2 51 49
def Str.ru (x : Str) : Nat := bf x.w2 48 43
def Str.rdy (x : Str) : Nat := bf x.w2 23 0
def Str.section (x : Str) : Nat := bf x.w3 63 52
def Str.n (x : Str) : Nat := (bf x.w3 51 47 + 1) * 128
def Str.mu (x : Str) : Nat := bf x.w3 46 45
def Str.ecp (x : Str) : Bool := bit x.w3 44
def Str.cm (x : Str) : Nat := bf x.w3 43 40 + 1
def Str.axc (x : Str) : Nat := bf x.w3 39 27
def Str.cs (x : Str) : Nat := bf x.w3 26 21
def skOran : Nat := 0
def skTime : Nat := 1
def skCpri : Nat := 2

def State.str (s : State) (n : Nat) : Str := ⟨s.ent (Key.ethStr n 0), s.ent (Key.ethStr n 1), s.ent (Key.ethStr n 2), s.ent (Key.ethStr n 3)⟩
def streamInit : Stream := ⟨none, 0, [], [], [], [], []⟩
def State.fhs (s : State) (n : Nat) : Stream := tget streamInit s.stream n
def State.setFhs (s : State) (n : Nat) (x : Stream) : State := { s with stream := tput s.stream n x }
def State.strCount (s : State) (n hi lo : Nat) : State := s.incSat (Key.ethStrStat n) hi lo 1
def State.strErr (s : State) (n hi lo : Nat) : State := s.incSat (Key.ethStrErr n) hi lo 1

/-! Slots and symbols (R262, R366, R368) -/

/-- Symbols of a slot. -/
def Str.nsym (x : Str) : Nat := if x.ecp then 12 else 14
/-- Samples of symbol l of slot sl in the frame, prefix included. -/
def Str.symLen (x : Str) (sl l : Nat) : Nat :=
  x.n + (if x.ecp then x.n * 512 / 2048
    else x.n * 144 / 2048 + (if (sl * 14 + l) % (7 * 2 ^ x.mu) = 0 then x.n * 16 * 2 ^ x.mu / 2048 else 0))
/-- Samples of a slot before symbol l. -/
def Str.symStart (x : Str) (sl l : Nat) : Nat := ((List.range l).map (x.symLen sl)).sum
def Str.slotLen (x : Str) (sl : Nat) : Nat := x.symStart sl x.nsym
/-- Slots of a frame. -/
def Str.slots (x : Str) : Nat := 10 * 2 ^ x.mu

/-- Slot count from the frame reference of the stream's carrier, at a computed time. -/
def State.slotCount (s : State) (x : Str) (t : Nat) : Nat := (t - frameRefT s x.carrier) * x.slots / nsT 10000000
/-- SFN and slot of the frame of a slot count. -/
def Str.sfnOf (x : Str) (k : Nat) : Nat × Nat := (k / x.slots % 1024, k % x.slots)

/-- The slot sequence of a slot count, from the carrier's last slot-start instant. -/
def State.seqOf (s : State) (x : Str) (k : Nat) : Option Nat :=
  (s.car x.carrier).slots.head?.map (fun r => (((r.seq : Int) + k - s.slotCount x r.time) % (2 ^ 32 : Nat)).toNat)

/-- The slot of the history that a frame names (R368): its sequence number. -/
def State.namedSlot (s : State) (x : Str) (sfn sl : Nat) : Option Nat :=
  ((s.car x.carrier).slots.find? (fun r =>
    let q := x.sfnOf (s.slotCount x r.time)
    q.1 % 256 == sfn && q.2 == sl)).map (·.seq)

/-- Key of a symbol of a slot among a stream's windows. -/
def symKey (seq l : Nat) : Nat := seq * 16 + l

/-- PM offset of a slot's buffer, and of a symbol in it. -/
def Str.buf (x : Str) (seq : Nat) : Nat := x.bufOff + seq % x.nbuf * x.bufSize
def Str.symOff (x : Str) (seq sl l : Nat) : Nat := x.buf seq + (if x.kind = skOran then x.stride * l else 4 * x.symStart sl l)

/-! Windows (R369) -/

/-- The occurrence that opens the window of row l for a stream, if it runs. -/
def State.winOcc (s : State) (x : Str) (l : Nat) : Option Occ :=
  if h : x.tu < 64 then
    (s.lv (.trig ⟨x.tu, h⟩)).occ.find? (fun o =>
      let c := o.words.getD 1 0
      o.row == l && bf c 59 56 == 3 && bf c 47 32 == x.port && s.ttRuns x.tu && !(s.ttOwnerReset x.tu))
  else none

/-- The slot of the unit's cycle that an occurrence belongs to, advanced (R369): sequence, slot in the frame, SFN. -/
def State.winSlot (s : State) (x : Str) (o : Occ) (more : Nat) : Option (Nat × Nat × Nat) :=
  let begin_ := o.time - (o.words.getD 0 0).toNat
  ((s.car x.carrier).slots.find? (fun r => decide (r.time ≤ begin_))).map (fun r =>
    let k := s.slotCount x r.time + x.adv + more
    ((r.seq + x.adv + more) % 2 ^ 32, (x.sfnOf k).2, (x.sfnOf k).1))

/-! Block floating point (R373) -/

/-- A component decompressed. -/
def bfpOut (w e m : Nat) : Int := clampS 16 (sgn w m * (2 ^ e : Nat))
/-- The exponent of a block. -/
def bfpExp (w : Nat) (xs : List Int) : Nat :=
  ((List.range 16).find? (fun e => xs.all (fun x => clampS w (x / (2 ^ e : Nat)) == x / (2 ^ e : Nat)))).getD 15
/-- The mantissas of a block, as w-bit numbers. -/
def bfpIn (w e : Nat) (xs : List Int) : List Nat := xs.map (fun x => uns w (x / (2 ^ e : Nat)))

/-- Components of samples, I before Q. -/
def compsOf (l : List Nat) : List Int := l.flatMap (fun c => [reOf c, imOf c])
/-- Samples of components. -/
def sampsOf : List Int → List Nat
  | a :: b :: r => packC a b :: sampsOf r
  | _ => []
/-- Numbers of w bits packed most significant bit first. -/
def packWide (w : Nat) (l : List Nat) : List Byte := packBits (l.flatMap (numBits w))
/-- The numbers of w bits in bytes. -/
def bitsNum (l : List Bool) : Nat := l.foldl (fun a b => 2 * a + b01 b) 0
def unpackWide (w : Nat) : Nat → List Bool → List Nat
  | 0, _ => []
  | n + 1, l => bitsNum (l.take w) :: unpackWide w n (l.drop w)

/-- Bytes of a block of k samples on the wire. -/
def Str.blockLen (x : Str) (k : Nat) : Nat :=
  if x.comp = 0 then 4 * k else (if x.comp = 1 then 1 else 0) + (2 * k * x.width + 7) / 8

/-- A block of k samples decompressed. -/
def Str.blockOut (x : Str) (k : Nat) (b : List Byte) : List Nat :=
  if x.comp = 0 then sampsOf ((unpackWide 16 (2 * k) (bitsOf b)).map (sgn 16))
  else
    let e := be b 0 1 % 16
    sampsOf ((unpackWide x.width (2 * k) (bitsOf (b.drop 1))).map (bfpOut x.width e))

/-- A block of samples compressed. -/
def Str.blockIn (x : Str) (l : List Nat) : List Byte :=
  if x.comp = 0 then packWide 16 ((compsOf l).map (uns 16))
  else
    let e := bfpExp x.width (compsOf l)
    BitVec.ofNat 8 e :: packWide x.width (bfpIn x.width e (compsOf l))

/-! Receiving (R370 to R374) -/

/-- The enabled receive stream of a MAC and an eAxC. -/
def State.rxStream (s : State) (m eaxc : Nat) : Option Nat :=
  (List.range 4096).find? (fun n =>
    let x := s.str n
    x.en && !x.tx && decide (x.kind ≤ 1) && x.port == m && x.eaxc == eaxc)

/-- Units of a symbol to be received: PRBs, or samples. -/
def Str.units (x : Str) (sl l : Nat) : Nat := if x.kind = skOran then x.nprb else x.symLen sl l
/-- Bits first to first + n of a bitmap. -/
def span (first n : Nat) : Nat := (2 ^ n - 1) * 2 ^ first

/-- Groups of a stream's slot, and the last symbol of a group. -/
def Str.lastOf (x : Str) (g : Nat) : Nat := min (x.nsym - 1) ((g + 1) * x.tsize - 1)
def Str.symsOf (x : Str) (g : Nat) : List Nat := (List.range (x.lastOf g + 1)).filter (fun l => g * x.tsize ≤ l)

/-- Whether symbol l of slot seq has been received whole. -/
def Stream.full (f : Stream) (x : Str) (seq sl l : Nat) : Bool :=
  tget 0 f.got (symKey seq l) == span 0 (x.units sl l)

/-- A group all of whose symbols have been written owes its token (R374). -/
def State.fhComplete (s : State) (n seq sl g : Nat) : State :=
  let x := s.str n
  let f := s.fhs n
  if (x.symsOf g).all (f.full x seq sl) ∧ !(f.done.contains (symKey seq g)) then
    s.setFhs n { f with due := f.due ++ [⟨seq, g, false⟩], done := (symKey seq g :: f.done).take 64 }
  else s

/-- A frame's samples are stored in the slot buffer. -/
def State.fhStore (s : State) (x : Str) (off : Nat) (l : List Nat) : State :=
  if h : x.pack < 8 then (s.busWrite (.pack ⟨x.pack, h⟩) (pmAddr x.pack off) (sampleBytes l) false).1 else s

/-- Bytes of a stream's pack memory. -/
def State.fhRead (s : State) (x : Str) (off n : Nat) : State × List Byte :=
  if h : x.pack < 8 then
    match s.busRead (.pack ⟨x.pack, h⟩) (pmAddr x.pack off) n with
    | (s, some (b, _)) => (s, b)
    | (s, none) => (s, [])
  else (s, [])

/-- The length of n samples of a stream. -/
def Str.samplesT (x : Str) (n : Nat) : Nat := n * secU / (x.n * 15000 * 2 ^ x.mu)
/-- The computed time of the sample at place k of slot seq, while the history of R112 holds the slot. -/
def State.sampleTime (s : State) (x : Str) (seq k : Nat) : Option Nat :=
  ((s.car x.carrier).slots.find? (fun r => r.seq == seq)).map (fun r => r.time + x.samplesT k)

/-- Symbol l of a slot, whole or at the close of its window, is copied to the Hound engines (R227): the samples of the frequency domain
bear the time of their symbol, those of the time domain their own. -/
def State.fhFeed (s : State) (n seq sl l : Nat) : State :=
  let x := s.str n
  let g := tget 0 (s.fhs n).got (symKey seq l)
  match s.sampleTime x seq (x.symStart sl l) with
  | none => s
  | some t =>
    let oran := x.kind = skOran
    let q := s.fhRead x (x.symOff seq sl l + (if oran then 48 * x.prb0 else 0)) (4 * x.units sl l * (if oran then 12 else 1))
    let ys := (samplesOf q.2).zipIdx.map (fun c =>
      (if oran then t else t + x.samplesT c.2, if g / 2 ^ (if oran then c.2 / 12 else c.2) % 2 = 1 then some (BitVec.ofNat 32 c.1) else none))
    q.1.houndFeed 0 x.port x.eaxc (t + x.samplesT (x.symLen sl l)) ys

/-- Units first to first + k of symbol l are written. -/
def State.fhGot (s : State) (n seq sl l first k : Nat) : State :=
  let f := s.fhs n
  let key := symKey seq l
  let s := s.setFhs n { f with got := tput f.got key (tget 0 f.got key ||| span first k) }
  let s := if (s.fhs n).full (s.str n) seq sl l then s.fhFeed n seq sl l else s
  s.fhComplete n seq sl (l / (s.str n).tsize)

/-- The sections of an O-RAN U-plane message are written (R371); `b` begins at a section header. -/
def State.fhSections (s : State) (n : Nat) (w : Win) : Nat → List Byte → State
  | 0, _ => s
  | k + 1, b =>
    if b.length < 4 then s
    else
      let x := s.str n
      let h := be b 0 4
      let start := h / 2 ^ 8 % 2 ^ 10
      let num := if h % 256 = 0 then x.prb0 + x.nprb - start else h % 256
      let hdr := if x.chdr then 6 else 4
      let size := num * x.blockLen 12
      let body := (b.drop hdr).take size
      let okComp := !x.chdr || be b 4 1 == bf x.w0 11 8 * 16 + x.comp
      let next := (b.drop hdr).drop size
      if h / 2 ^ 19 % 2 = 1 ∨ !okComp ∨ body.length < size then
        (s.strErr n 47 32).fhSections n w k next
      else if num = 0 ∨ start < x.prb0 ∨ x.prb0 + x.nprb < start + num ∨
          (tget 0 (s.fhs n).got (symKey w.seq w.l)) &&& span (start - x.prb0) num ≠ 0 then
        (s.strCount n 15 0).fhSections n w k next
      else
        let l := (List.range num).flatMap (fun i => x.blockOut 12 (body.drop (i * x.blockLen 12)))
        let s := s.fhStore x (x.symOff w.seq w.slot w.l + 48 * start) l
        (s.fhGot n w.seq w.slot w.l (start - x.prb0) num).fhSections n w k next

/-- The samples of an eCPRI time-domain message are written (R372); `b` begins at FIRST. -/
def State.fhSamples (s : State) (n : Nat) (w : Win) (b : List Byte) : State :=
  let x := s.str n
  let first := be b 0 2
  let count := be b 2 2
  let body := b.drop 4
  let full := count / 16
  let size := full * x.blockLen 16 + (if count % 16 = 0 then 0 else x.blockLen (count % 16))
  if body.length < size ∨ count = 0 then s.strErr n 47 32
  else if x.symLen w.slot w.l < first + count ∨ (tget 0 (s.fhs n).got (symKey w.seq w.l)) &&& span first count ≠ 0 then
    s.strCount n 15 0
  else
    let l := (List.range full).flatMap (fun i => x.blockOut 16 (body.drop (i * x.blockLen 16))) ++
      (if count % 16 = 0 then [] else x.blockOut (count % 16) (body.drop (full * x.blockLen 16)))
    (s.fhStore x (x.symOff w.seq w.slot w.l + 4 * first) l).fhGot n w.seq w.slot w.l first count

/-- The window of a symbol that was open at computed time t (R371); none, and whether the window lay before t. -/
def Stream.winAt (f : Stream) (seq l t : Nat) : Option Win × Bool :=
  let is := fun (w : Win) => w.seq == seq && w.l == l
  match f.wins.find? is with
  | some w => if w.at_ ≤ t then (some w, false) else (none, false)
  | none =>
    match f.closed.find? (fun c => is c.1) with
    | some (w, c) => if w.at_ ≤ t ∧ t < c then (some w, false) else (none, decide (w.at_ ≤ t))
    | none => (none, false)

/-- An eCPRI message of type 0 for stream n, from its ecpriPcId on, with the frame's receive timestamp (R371, R372). -/
def State.fhUplane (s : State) (n at_ : Nat) (b : List Byte) : State :=
  let x := s.str n
  let f := s.fhs n
  let q := be b 2 1
  let gap := match f.rxSeq with | some e => e != q | none => false
  let s := if gap then s.strErr n 15 0 else s
  let s := s.setFhs n { s.fhs n with rxSeq := some ((q + 1) % 256) }
  let t := be b 5 3
  let sl := t / 2 ^ 12 % 16 * 2 ^ x.mu + t / 2 ^ 6 % 64
  let l := t % 64
  match s.namedSlot x (t / 2 ^ 16) sl with
  | none => s.strCount n 31 16
  | some seq =>
    match (s.fhs n).winAt seq l at_ with
    | (none, late) => if late then s.strCount n 47 32 else s.strCount n 63 48
    | (some w, _) =>
      if x.kind = skOran then s.fhSections n w b.length (b.drop 8)
      else if be b 4 1 / 16 % 8 ≠ 7 then s.strErr n 47 32
      else s.fhSamples n w (b.drop 8)

/-- Missing PRBs or samples of a symbol are written as zero (R374). -/
def State.fhZero (s : State) (n seq sl l : Nat) : State :=
  let x := s.str n
  let have_ := tget 0 (s.fhs n).got (symKey seq l)
  let unit := if x.kind = skOran then 12 else 1
  let base := x.symOff seq sl l + (if x.kind = skOran then 48 * x.prb0 else 0)
  (List.range (x.units sl l)).foldl (fun s i =>
    if have_ / 2 ^ i % 2 = 1 then s else s.fhStore x (base + 4 * unit * i) (List.replicate unit 0)) s

/-- The window of a group's last symbol closes (R374): what is missing reads zero, and the token is due with ERR. -/
def State.fhGroupClose (s : State) (n seq sl g : Nat) : State :=
  let x := s.str n
  let s := if (s.fhs n).done.contains (symKey seq g) then s
    else
      let s := (x.symsOf g).foldl (fun s l =>
        if (s.fhs n).full x seq sl l then s else (s.fhZero n seq sl l).fhFeed n seq sl l) s
      let f := s.fhs n
      (s.setFhs n { f with due := f.due ++ [⟨seq, g, true⟩], done := (symKey seq g :: f.done).take 64 }).strErr n 63 48
  let f := s.fhs n
  s.setFhs n { f with got := tdrop f.got (fun k => (x.symsOf g).any (fun l => symKey seq l == k)) }

/-- The token of a group (R374). -/
def State.fhToken (s : State) (n : Nat) (d : FhDue) : Token :=
  let x := s.str n
  let sl := match (s.car x.carrier).slots.find? (fun r => r.seq == d.seq) with
    | some r => (x.sfnOf (s.slotCount x r.time)).2 | none => 0
  let q := d.seq % 16
  ⟨w64 (x.carrier * 2 ^ 55 + q * 2 ^ 51 + (x.row + d.group) % 2048 * 2 ^ 40 + 2 ^ 31 + x.tslot * 2 ^ 28 + b01 d.err * 2 ^ 27 + macUnit x.port),
   w64 (pmAddr x.pack (x.symOff d.seq sl (d.group * x.tsize)))⟩

/-! Sending -/

/-- The Ethernet header toward a radio-unit profile. -/
def State.ruHeader (s : State) (m ru : Nat) : List Byte :=
  let t := s.ent (Key.ethRuTag ru)
  beBytes 6 (s.fld (Key.ethRu ru) 47 0) ++ beBytes 6 (Config.srcAddr m).toNat ++
    (if bf t 12 0 = 0 then [] else beBytes 2 0x8100 ++ beBytes 2 (bf t 15 13 * 2 ^ 13 + (bf t 12 0 - 1))) ++ beBytes 2 0xAEFE

/-- An eCPRI message of a type (revision 1) with its payload. -/
def ecpri (ty : Nat) (payload : List Byte) : List Byte :=
  [0x10, BitVec.ofNat 8 ty] ++ beBytes 2 payload.length ++ payload

/-- The next eCPRI sequence number of a stream. -/
def State.fhSeq (s : State) (n : Nat) : Nat × State :=
  let f := s.fhs n
  (f.txSeq, s.setFhs n { f with txSeq := (f.txSeq + 1) % 256 })

/-- The timing header of a frame (frameId, subframeId, slotId, symbolId) after its first byte. -/
def timing (x : Str) (first sfn sl l : Nat) : List Byte :=
  [BitVec.ofNat 8 first, BitVec.ofNat 8 sfn] ++ beBytes 2 (sl / 2 ^ x.mu * 2 ^ 12 + sl % 2 ^ x.mu * 2 ^ 6 + l)

/-- A frame of stream n with an eCPRI message of type ty, queued for its MAC. -/
def State.fhSend (s : State) (n ty : Nat) (key : Option Nat) (body : List Byte) : State :=
  let x := s.str n
  let (q, s) := s.fhSeq n
  let f := s.ruHeader x.port x.ru ++ ecpri ty (beBytes 2 x.eaxc ++ beBytes 2 (q * 256 + 0x80) ++ body)
  s.enqueue x.port (s.fhQ x.port) { plainFrame f with fh := key.map (fun k => (n, k)) }

/-- Length of a frame's headers and FCS for a stream (R376). -/
def State.fhOverhead (s : State) (x : Str) : Nat := 26 + (if s.fld (Key.ethRuTag x.ru) 12 0 = 0 then 0 else 4)

/-- The U-plane frames of a symbol from PRB p on (R376); `data` holds a PRB's bytes in memory. -/
def State.fhOranFrames (s : State) (n : Nat) (w : Win) (data : Nat → List Byte) : Nat → Nat → State
  | 0, _ => s
  | k + 1, p =>
    let x := s.str n
    let left := x.prb0 + x.nprb - p
    if left = 0 then s
    else
      let size := 3 * x.width + (if x.comp = 1 then 1 else 0)
      let cap := (s.maxLen x.port - (s.fhOverhead x + 8 + (if x.chdr then 2 else 0))) / size
      let num := max 1 (min cap left)
      let num := if 255 < num ∧ num < left then 255 else num
      let hdr := beBytes 4 (x.section * 2 ^ 20 + p * 2 ^ 8 + (if 255 < num then 0 else num)) ++
        (if x.chdr then [BitVec.ofNat 8 (bf x.w0 11 8 * 16 + x.comp), 0] else [])
      let body := (List.range num).flatMap (fun i =>
        if x.comp = 4 then (data (p + i)).take (3 * x.width) else x.blockIn (samplesOf (data (p + i))))
      (s.fhSend n 0 (some (symKey w.seq w.l)) (timing x 0x90 w.sfn w.slot w.l ++ hdr ++ body)).fhOranFrames n w data k (p + num)

/-- The time-domain frames of a symbol's samples from `first` on (R372). -/
def State.fhTimeFrames (s : State) (n : Nat) (w : Win) : Nat → Nat → List Nat → State
  | 0, _, _ => s
  | k + 1, first, l =>
    if l = [] then s
    else
      let x := s.str n
      let cap := max 1 ((s.maxLen x.port - (s.fhOverhead x + 8)) / x.blockLen 16)
      let now := l.take (16 * cap)
      let blocks := (List.range ((now.length + 15) / 16)).flatMap (fun i => x.blockIn ((now.drop (16 * i)).take 16))
      (s.fhSend n 0 (some (symKey w.seq w.l))
        (timing x 0xF0 w.sfn w.slot w.l ++ beBytes 2 first ++ beBytes 2 now.length ++ blocks)).fhTimeFrames n w k
        (first + now.length) (l.drop (16 * cap))

/-! C-plane extensions (R378). PRESUMED (assumption 60): the section layouts of the O-RAN CUS-plane specification. -/

/-- Bytes of the application header of a C-plane message by section type, its common header among them, and of a section header. -/
def cpHeads (ty : Nat) : Nat × Nat := match ty with | 0 => (12, 8) | 1 => (8, 8) | 3 => (12, 12) | _ => (8, 8)

/-- Sets the flag that a further extension follows: bit 7 of byte i. -/
def moreExt (b : List Byte) (i : Nat) : List Byte := patch b i [(b.getD i 0) ||| 0x80]

/-- The length of a section's extensions from an offset on, and the byte that says whether one follows the last. -/
def extEnd (b : List Byte) : Nat → Nat → Nat → Nat × Nat
  | 0, flag, off => (off, flag)
  | k + 1, flag, off => if be b flag 1 < 128 then (off, flag) else extEnd b k off (off + 4 * max 1 (be b (off + 1) 1))

/-- An extension of type 1 with the weights' mantissas of w bits and exponent e, filled to whole words of 4 bytes. -/
def ext1 (w e : Nat) (ms : List Nat) : List Byte :=
  let body := BitVec.ofNat 8 (w % 16 * 16 + 1) :: BitVec.ofNat 8 e :: packWide w ms
  let n := (body.length + 5) / 4
  [1, BitVec.ofNat 8 n] ++ body ++ List.replicate (4 * n - 2 - body.length) 0

/-- The sections of a C-plane message, each with an extension appended (R378). -/
def withExt (hdr : Nat) (x : List Byte) : Nat → List Byte → List Byte
  | 0, b => b
  | n + 1, b =>
    if b.length < hdr then b
    else
      let (fin, flag) := extEnd b b.length 6 hdr
      (moreExt (b.take fin) flag ++ x) ++ withExt hdr x n (b.drop fin)

/-- The body of a C-plane message with an extension of type 1 appended to each section (R378). -/
def withWeights (body : List Byte) (w e : Nat) (ms : List Nat) : List Byte :=
  let h := cpHeads (be body 5 1)
  body.take h.1 ++ withExt h.2 (ext1 w e ms) (be body 4 1) (body.drop h.1)

/-! Transmit shaping of a symbol (R275 to R281) -/

/-- Slot count of a slot sequence, from the carrier's last slot-start instant. -/
def State.countOf (s : State) (x : Str) (seq : Nat) : Nat :=
  match (s.car x.carrier).slots.head? with
  | some r => ((s.slotCount x r.time : Int) + sgn 32 ((seq + 2 ^ 32 - r.seq) % 2 ^ 32)).toNat
  | none => 0

/-- The symbols of `TX_CFG`: its N, MU and ECP. -/
def txStr (v : U64) : Str := ⟨0, 0, 0, setf (setf (setf 0 51 47 (bf v 56 52)) 46 45 (txMu v)) 44 44 (b01 (bit v 57))⟩

/-- Samples of the frame before a slot. -/
def Str.frameStart (x : Str) (sl : Nat) : Nat := ((List.range sl).map x.slotLen).sum

/-- The air time of the first sample of symbol l of slot k (R275): its place in the frames of `HND_FRAME_REF`, plus `TX_AIR_DELAY`. -/
def State.txAir (s : State) (c k l : Nat) : Nat :=
  let v := s.ent (Key.txCfg c)
  let x := txStr v
  frameRefT s c + k / x.slots * nsT 10000000 + samplesT v (x.frameStart (k % x.slots) + x.symStart (k % x.slots) l) +
    nsT (s.entN (Key.txAirDelay c))

/-- Symbol l of slot k of stream n is judged as its first sample or message leaves (R276 to R280): on, with its ramp-up, or off, with
the suffix of the symbol before and zeros; `xs` holds a time-domain symbol's samples. -/
def State.txDecide (s : State) (n : Nat) (x : Str) (k l : Nat) (xs : List C16) : State × Bool × List C16 :=
  let c := x.carrier
  let v := s.ent (Key.txCfg c)
  let g := txStr v
  let t := s.txs c n
  let td := x.kind != skOran
  let note := fun (isOn : Bool) (out : List C16) => (⟨k, l, isOn, out⟩ :: t.hist).take 28
  let air := s.txAir c k l
  let len := g.symLen (k % g.slots) l
  let pattern := !td || s.tddOn c (k % g.slots) l
  let gate := !(bit v 62) || s.gateCovers c air (air + samplesT v len)
  if pattern && gate then
    let s := if t.lastOn then s else s.paWatch c 0 air
    let out := if td && !t.lastOn then s.rampUp c xs else xs
    (s.setTxs c n ⟨true, xs.drop (len - txN v), air + samplesT v len, note true out⟩, true, out)
  else
    let s := if pattern then s.incSat (Key.txStat c) 63 48 1 else s
    let suf := if t.lastOn && td then s.suffixOf c t.useful else []
    let kept := s.suffixKept c v t.endAir suf
    let s := if kept.length < suf.length then s.incSat (Key.txStat c) 31 16 1 else s
    let s := if t.lastOn then s.paWatch c 1 (t.endAir + samplesT v kept.length - samplesT v 1) else s
    let out := kept ++ zeros (xs.length - kept.length)
    (s.setTxs c n ⟨false, [], 0, note false out⟩, false, out)

/-- What transmit shaping makes of symbol l of slot sequence seq of stream n: whether it is on and what leaves of a time-domain symbol;
none where it does not act. A symbol that has been judged stays so; clearing EN acts from the next symbol on (R281). -/
def State.txSymbol (s : State) (n : Nat) (x : Str) (seq l : Nat) : State × Option (Bool × List C16) :=
  let k := s.countOf x seq
  let t := s.txs x.carrier n
  match t.hist.find? (fun q => q.slot == k && q.symbol == l) with
  | some q => (s, some (q.isOn, q.out))
  | none =>
    if !(s.txEn x.carrier) then (s.setTxs x.carrier n ⟨false, [], 0, t.hist⟩, none)
    else
      let sl := k % x.slots
      let q := if x.kind = skOran then (s, []) else s.fhRead x (x.symOff seq sl l) (4 * x.symLen sl l)
      let d := q.1.txDecide n x k l ((samplesOf q.2).map (BitVec.ofNat 32))
      (d.1, some d.2)

/-! One-way delay measurement (R382) -/

/-- The timestamp of eCPRI: 48-bit seconds, 32-bit nanoseconds. -/
def ecpriTime (t : Nat) : List Byte := beBytes 6 (t / secU % 2 ^ 48) ++ beBytes 4 (t % secU / 2 ^ 32)

/-- A delay-measurement message, from its ID on, received at time t from an address. -/
def State.delayRx (s : State) (m src t : Nat) (tag : Option (Nat × Nat)) (b : List Byte) : State :=
  let id := be b 0 1
  match be b 1 1 with
  | 2 =>
    let x := s.mc m
    if x.dlyBusy ∧ id = x.dlyId then
      let s := (s.setEntN (Key.ethDlyRes m 1) (t / secU % 2 ^ 48 * 2 ^ 16)).setFld (Key.ethDlyRes m 2) 31 0 (t % secU / 2 ^ 32)
      ((s.setEntN (Key.ethDlyComp m) (be b 12 8)).setFlag (Key.ethDly m) 61 true).setMc m { x with dlyBusy := false }
    else s
  | a =>
    if a ≤ 1 then
      let f := beBytes 6 src ++ beBytes 6 (Config.srcAddr m).toNat ++
        (match tag with | some (p, v) => beBytes 2 0x8100 ++ beBytes 2 (p * 2 ^ 13 + v) | none => []) ++ beBytes 2 0xAEFE ++
        ecpri 5 ([BitVec.ofNat 8 id, 2] ++ ecpriTime t ++ beBytes 8 0)
      s.enqueue m (s.fhQ m) (plainFrame f)
    else s

/-- A write of `ETH_En_DLY` (R382): a 1 at DONE or TIMEOUT clears it (R7), whatever else the write does. -/
def State.dlyWrite (s : State) (m : Nat) (v : U64) : State :=
  let k := Key.ethDly m
  let s := if bit v 61 then s.setFlag k 61 false else s
  let s := if bit v 62 then s.setFlag k 62 false else s
  if bit v 63 then
    let s := s.setMc m { s.mc m with dlyBusy := true, dlyId := bf v 7 0, dlyRaw := s.raw.toNat }
    let f := s.ruHeader m (bf v 61 56) ++ ecpri 5 ([BitVec.ofNat 8 (bf v 7 0), 0] ++ ecpriTime 0 ++ beBytes 8 0)
    (s.enqueue m (s.fhQ m) { plainFrame f with dly := true }).status .ok
  else s.status .ok

end Sys2Proof.Machine
end

