-- ==== Sys2Proof/Machine/Eth.lean ====
section
/-! DEFINITION. Eth.lean: the commands of the Ethernet MACs (R354 to R365, R382 to R386). -/
namespace Sys2Proof.Machine

/-! Bridging (R360) -/

/-- The enabled entry of a VID. -/
def State.vlanEntry (s : State) (vid : Nat) : Option Nat :=
  (List.range 64).find? (fun v => s.flag (Key.ethVlan v) 63 && s.fld (Key.ethVlan v) 11 0 == vid)
def State.isMember (s : State) (v m : Nat) : Bool := bit (s.ent (Key.ethVlanMember v (m / 64))) (m % 64)
def State.isUntag (s : State) (v m : Nat) : Bool := bit (s.ent (Key.ethVlanUntag v (m / 64))) (m % 64)

/-- Key of a learned address; the filtering database's size. -/
def fdbKey (vid a : Nat) : Nat := vid * 2 ^ 48 + a
def fdbSize : Nat := 16384

/-- A source address is learned on a MAC. -/
def State.learn (s : State) (vid a m : Nat) : State :=
  if isGroup a ∨ ((tfind s.fdb (fdbKey vid a)).isNone ∧ fdbSize ≤ s.fdb.length) then s
  else { s with fdb := tput s.fdb (fdbKey vid a) ⟨m, s.raw.toNat⟩ }

/-- The ports a frame goes to. -/
def State.bridgePorts (s : State) (v vid m dst : Nat) : List Nat :=
  let ok := fun (q : Nat) => q != m && s.ethRuns q && s.ethBit q 57 && s.isMember v q
  match (if isGroup dst then none else tfind s.fdb (fdbKey vid dst)) with
  | some e => if ok e.port then [e.port] else []
  | none => (List.range 128).filter ok

/-- A frame without its VLAN tag, and with one. -/
def untagged (f : List Byte) : List Byte := if (l2Of f).tag.isSome then f.take 12 ++ f.drop 16 else f
def tagged (f : List Byte) (pcp vid : Nat) : List Byte :=
  (untagged f).take 12 ++ beBytes 2 0x8100 ++ beBytes 2 (pcp * 2 ^ 13 + vid) ++ (untagged f).drop 12

/-- A frame without its FCS is offered to the bridge (R360). -/
def State.bridge (s : State) (m : Nat) (f : List Byte) (rawIn : Nat) : State :=
  let tag := (l2Of f).tag
  let pcp := match tag with | some (p, _) => p | none => 0
  let vid := match tag with | some (_, v) => if v = 0 then s.fld (Key.ethBr m) 11 0 else v | none => s.fld (Key.ethBr m) 11 0
  if tag.isNone ∧ s.flag (Key.ethBr m) 12 then s
  else match s.vlanEntry vid with
    | none => s.ethCount m 0xA 1
    | some v =>
      if !(s.isMember v m) then s.ethCount m 0xA 1
      else
        let s := s.learn vid (srcOf f) m
        let ps := s.bridgePorts v vid m (dstOf f)
        let s := if ps = [] then s else s.ethCount m 0xB 1
        ps.foldl (fun s q =>
          let g := if s.isUntag v q then untagged f else tagged f pcp vid
          let tc := s.ethBit m 56 && s.ethBit q 56 && ptpEvent g
          s.enqueue q (s.pcpQ q pcp) { plainFrame g with rawIn := if tc then some rawIn else none }) s

/-! Receiving (R356) -/

/-- Whether a frame is local, and by a unicast entry (step 3). -/
def State.ucastHit (s : State) (m dst : Nat) : Bool :=
  (List.range 16).any (fun i => s.flag (Key.ethUcast m i) 63 && s.fld (Key.ethUcast m i) 47 0 == dst)
def State.isLocal (s : State) (m dst : Nat) : Bool :=
  let h := crc32 (beBytes 6 dst) / 2 ^ 20
  s.ucastHit m dst || (dst == broadcast && s.ethBit m 60) ||
    (isGroup dst && bit (s.ent (Key.ethGhash m (h / 64))) (h % 64)) || s.ethBit m 61

/-- Step 5: a local frame goes to its one consumer. -/
def State.consume (s : State) (m : Fin 128) (f : List Byte) (t : Nat) : State :=
  let h := l2Of f
  let b := f.take (f.length - 4)
  if h.etype = 0xAEFE ∧ s.ethBit m.val 59 then
    let e := b.drop h.off
    let body := (e.drop 4).take (be e 2 2)
    if be e 0 1 / 16 ≠ 1 then s.toHost m f t
    else match be e 1 1 with
      | 0 =>
        let s := s.ethCount m.val 0xC 1
        match s.rxStream m.val (be body 0 2) with
        | some n => s.fhUplane n t body
        | none => s.ethCount m.val 0x10 1
      | 2 => s.ethCount m.val 9 1
      | 5 => (s.ethCount m.val 0xC 1).delayRx m.val (srcOf f) t h.tag body
      | _ => s.toHost m f t
  else if s.ethBit m.val 58 ∧ udpPort f = some (s.fld Key.flCfg 15 0) then
    let s := s.ethCount m.val 0xD 1
    let x := s.mc m.val
    s.setMc m.val { x with flowIn := x.flowIn ++ [b] }
  else s.toHost m f t

/-- Steps 2 to 5 for a frame that leaves the FIFO (R356). -/
def State.ethTake (s : State) (m : Fin 128) (f : HeldFrame) : State :=
  let dst := dstOf f.bytes
  if f.bytes.length < 64 then s.ethCount m.val 6 1
  else if s.maxLen m.val < f.bytes.length then s.ethCount m.val 7 1
  else if !f.fcsOk then s.ethCount m.val 5 1
  else
    let s := ((s.ethCount m.val 0 1).ethCount m.val 1 f.bytes.length).countDst m.val 2 dst
    let s := if ptpEvent f.bytes then s.ethCount m.val 0x11 1 else s
    let loc := s.isLocal m.val dst
    let bridged := s.ethBit m.val 57 && !(s.ucastHit m.val dst) && dst / 16 != 0x0180C200000
    let s := if bridged then s.bridge m.val (f.bytes.take (f.bytes.length - 4)) f.raw else s
    if loc then s.consume m f.bytes f.time else if bridged then s else s.ethCount m.val 9 1

/-- Whether a frame goes to the framer (step 5). -/
def State.toFramer (s : State) (m : Fin 128) (f : HeldFrame) : Bool :=
  decide (64 ≤ f.bytes.length) && decide (f.bytes.length ≤ s.maxLen m.val) && f.fcsOk && s.isLocal m.val (dstOf f.bytes) &&
    (l2Of f.bytes).etype == 0xAEFE && s.ethBit m.val 59

/-- The FIFO drains from its oldest frame on, as far as the framer takes its frames: it takes none while it holds no Kennel credit. -/
def State.ethDrain (s : State) (m : Fin 128) : Nat → State
  | 0 => s
  | n + 1 =>
    match (s.mc m.val).fifo with
    | [] => s
    | f :: r =>
      if s.toFramer m f && s.creditOf (.framer m) == 0 then s
      else ((s.setMc m.val { s.mc m.val with fifo := r }).ethTake m f).ethDrain m n

/-- Bytes of the receive FIFO of MAC m: 256 KiB per lane of its port. -/
def State.fifoSize (s : State) (m : Nat) : Nat := (s.portLanes m).length * 0x40000

/-- A frame of a MAC in service is received (R356): it enters the FIFO where MAXLEN is free at its first byte, and the FIFO drains. -/
def State.ethRx (s : State) (m : Fin 128) (f : RxFrame) : State :=
  let x := s.mc m.val
  let held := (x.fifo.map (fun g => g.bytes.length)).sum
  if !f.room ∨ s.fifoSize m.val < held + s.maxLen m.val then s.ethCount m.val 8 1
  else if !f.fifoOk then s.notePath 12 (macUnit m.val) 0
  else
    let (r, t, s) := s.stamp
    let s := s.setMc m.val { s.mc m.val with fifo := x.fifo ++ [⟨f.bytes, f.fcsOk, r, s.ingress m.val t⟩] }
    s.ethDrain m (x.fifo.length + 1)

/-- ETH_RX_FRAME (R355, R356): an unused MAC, one without EN or one whose link is down takes nothing. -/
def execEthRxFrame (m : Fin 128) (f : RxFrame) (s : State) : Out :=
  .next (if s.ethRuns m.val then s.ethRx m f else s)

/-- FDB_AGE_OUT (R360): a learned address not renewed for `ETH_BR_AGE` seconds leaves the database. -/
def execFdbAgeOut (vid : BitVec 12) (mac : BitVec 48) (s : State) : Out :=
  let k := fdbKey vid.toNat mac.toNat
  .next (match tfind s.fdb k with
    | some e => if s.entN Key.ethBrAge * 491520000 ≤ s.raw.toNat - e.learnedRaw then { s with fdb := tdel s.fdb k } else s
    | none => s)

/-! Sending -/

/-- The FIFO of a MAC in service goes on draining once the framer holds a credit again (R356). -/
def State.ethResume (s : State) (m : Fin 128) : State := if s.ethRuns m.val then s.ethDrain m (s.mc m.val).fifo.length else s

/-- HTX_POLL (R358): the MAC reads PROD of its transmit ring and takes the next descriptor; its receive FIFO goes on draining. -/
def execHtxPoll (m : Fin 128) (s : State) : Out :=
  let s := s.ethResume m
  let v := s.ent (Key.ethHtx m.val)
  let r := hostRing v
  let who := Accessor.mac m
  .next (
    if bit v 63 ∧ s.ethBit m.val 63 ∧ s.macActive m.val ∧ s.unitRuns (macUnit m.val) then
      match s.readNum who r.base 8 with
      | (s, none) => s
      | (s, some prod) =>
        let i := (s.mc m.val).htxTaken
        if i = prod % 2 ^ 32 then s
        else match s.busRead who (r.slot i) 16 with
          | (s, none) => s
          | (s, some (d, _)) =>
            let s := s.setMc m.val { s.mc m.val with htxTaken := (i + 1) % 2 ^ 32 }
            let fl := leNat ((d.drop 10).take 2)
            match s.busRead who (leNat (d.take 8) % 2 ^ 40) (leNat ((d.drop 8).take 2)) with
            | (s, none) => s.htxEnd m i 1 none
            | (s, some (b, _)) =>
              s.enqueue m.val (fl / 16 % 8) { plainFrame b with ring := some i, onestep := fl / 2 % 2 == 1, ts := fl % 2 == 1 }
    else s)

/-- The frame at the head of queue q leaves MAC m (R359, R382, R385, R386). -/
def State.sendFrame (s : State) (m : Fin 128) (q : Nat) (f : TxFrame) : State :=
  let (r, t0, s) := s.stamp
  let t := s.egress m.val t0
  let one := f.onestep && ptpSync f.bytes && f.ring.isSome
  let b := if one then ptpOnestep f.bytes t else f.bytes
  let b := match f.rawIn with | some i => ptpCorrect b ((r - i) * s.inc / 2 ^ 35) | none => b
  let s := s.dequeue m.val q
  let x := s.mc m.val
  let w := wireBytes b
  let s := s.setMc m.val { x with sent := x.sent ++ [w], txEnd := s.now + s.txTime m.val b }
  let s := ((s.ethCount m.val 0x12 1).ethCount m.val 0x13 w.length).countDst m.val 0x14 (dstOf b)
  let s := if one then s.ethCount m.val 0x19 1 else s
  let s := if f.dly then (s.setEntN (Key.ethDlyRes m.val 0) (t / secU % 2 ^ 48 * 2 ^ 16)).setFld (Key.ethDlyRes m.val 2) 63 32
      (t % secU / 2 ^ 32) else s
  match f.ring with
  | some i => s.htxEnd m i 0 (if f.ts then some t else none)
  | none => s

/-- ETH_TX_FRAME_START (R362): the highest-numbered queue with an eligible head sends it. -/
def execEthTxFrameStart (m : Fin 128) (s : State) : Out :=
  .next (
    if s.ethRuns m.val ∧ (s.mc m.val).txEnd ≤ s.now then
      match (List.range 8).reverse.find? (s.headEligible m) with
      | some q => match (s.mc m.val).q q with
        | f :: _ => s.sendFrame m q f
        | [] => s
      | none => s
    else s)

/-- TX_OVERRUN (R363): a head frame that has not been eligible for a whole gate cycle is discarded. -/
def execTxOverrun (m : Fin 128) (q : Fin 8) (s : State) : Out :=
  .next (match (s.mc m.val).q q.val with
    | f :: _ =>
      if s.gclEn m.val ∧ f.headSince + s.gclCycleT m.val ≤ s.now ∧ !(s.headEligible m q.val) then
        let s := (s.dequeue m.val q.val).ethCount m.val 0x17 1
        match f.ring with | some i => s.htxEnd m i 1 none | none => s
      else s
    | [] => s)

/-! Gates (R364, R365) -/

/-- The cycle in which row r of the gate list begins next. -/
def State.gclNextCycle (s : State) (m : Fin 128) (r : Nat) : Nat :=
  let c := tget (s.mc m.val).gclFrom (s.mc m.val).gclNext r
  let o := (rowSpan (s.rowOf (.gcl m) 0 r)).1
  let bar := s.barOf (.gcl m) r
  if gclBaseT s m.val + c * s.gclCycleT m.val + o < bar then
    max c (Series.before ⟨gclBaseT s m.val + o, s.gclCycleT m.val, 0, false⟩ bar)
  else c

/-- The instant at which row r of the gate list begins next, where gating runs and the row is enabled. -/
def State.gclDue (s : State) (m : Fin 128) (r : Nat) : Option Nat :=
  if s.gclEn m.val ∧ bit (s.ent (rowKey (.gcl m) 0 r 0)) 62 then
    some (gclBaseT s m.val + s.gclNextCycle m r * s.gclCycleT m.val + (rowSpan (s.rowOf (.gcl m) 0 r)).1)
  else none

/-- GCL_ENTRY_BEGIN (R33, R34, R39, R364): an enabled row's interval begins; its words are latched. -/
def execGclEntryBegin (m : Fin 128) (row : Fin 1024) (s : State) : Out :=
  let s := s.swapBefore (.gcl m) (fun s => s.gclDue m row.val)
  let s := if s.executing (.gcl m) row.val then s else s.applyDeferred (.gcl m) row.val
  .next (match s.gclDue m row.val with
    | some at_ =>
      if at_ ≤ s.now then
        let x := s.mc m.val
        (s.setMc m.val { x with gclNext := tput x.gclNext row.val (s.gclNextCycle m row.val + 1) }).beginOcc (.gcl m) row.val at_
      else s
    | none => s)

/-- GCL_ENTRY_END (R33, R364): the interval's end is reached. -/
def execGclEntryEnd (m : Fin 128) (row : Fin 1024) (s : State) : Out :=
  .next (s.endOcc (.gcl m) (fun o => o.row == row.val && decide (o.time + nsT (bf (o.words.getD 0 0) 31 0) ≤ s.now)))

/-- A write of `ETH_En_GCL_CFG` (R365): gating starts at the first cycle boundary at least 64 FCLK cycles later. -/
def State.gclCfgWrite (s : State) (m : Fin 128) (v : U64) : State :=
  let k := Key.gclCfg m.val
  if bit v 63 ∧ s.entN (Key.gclCycle m.val) = 0 then s.status .range
  else
    let was := s.gclEn m.val
    let s := s.setEnt k v
    let s := if bit v 63 ∧ !was then
        s.setMc m.val { s.mc m.val with gclFrom := s.firstCycle (gclBaseT s m.val) (s.gclCycleT m.val) (s.raw.toNat + marginTicks), gclNext := [] }
      else if !(bit v 63) then s.setLv (.gcl m) { s.lv (.gcl m) with occ := [] } else s
    s.status .ok

/-- GCL_ENABLE (R365). -/
def execGclEnable (rq : Requester) (m : Fin 128) (v : U64) (s : State) : Out :=
  .next (match s.checkWrite rq (Key.gclCfg m.val) v with
    | .ok => s.gclCfgWrite m v
    | e => s.status e)

/-- A write of the gate list's base or cycle (R365). -/
def State.gclTimeWrite (s : State) (m k : Nat) (v : U64) : State :=
  if s.gclEn m then s.status .busy else (s.setEnt k v).status .ok

/-- A write of `ETH_En_CFG` (R354). -/
def State.ethCfgWrite (s : State) (m : Nat) (v : U64) : State :=
  if bit v 63 ∧ !(s.macActive m) then s.status .range
  else (s.setEnt (Key.ethCfg m) (setf v 55 52 0)).status .ok

/-- Whether MAC m belongs to a partition (R355). -/
def State.macOwned (s : State) (m p : Nat) : Bool := s.entN (Key.ethOwner m) == p

/-- A write of the MEMBER or UNTAG words of a VLAN entry (R361): only MACs of the entry's own partition. -/
def State.vlanMacsWrite (s : State) (v k half : Nat) (x : U64) : State :=
  if (List.range 64).all (fun i => !(bit x i) || s.macOwned (64 * half + i) (s.fld (Key.ethVlan v) 62 59)) then
    (s.setEnt k x).status .ok
  else s.status .range

/-- A write of `ETH_VLANv` (R361): an OWNER whose MACs the entry's words do not all name is refused. -/
def State.vlanWrite (s : State) (v : Nat) (x : U64) : State :=
  if (List.range 128).all (fun m => !(s.isMember v m || s.isUntag v m) || s.macOwned m (bf x 62 59)) then
    (s.setEnt (Key.ethVlan v) x).status .ok
  else s.status .range

/-! One-way delay (R382) -/

/-- DELAY_MEASURE_START (R382). -/
def execDelayMeasureStart (rq : Requester) (m : Fin 128) (v : U64) (s : State) : Out :=
  .next (match s.checkWrite rq (Key.ethDly m.val) (setBit v 63 true) with
    | .ok => s.dlyWrite m.val (setBit v 63 true)
    | e => s.status e)

/-- DELAY_TIMEOUT (R382): no Response within 10 ms. -/
def execDelayTimeout (m : Fin 128) (s : State) : Out :=
  let x := s.mc m.val
  .next (if x.dlyBusy ∧ x.dlyRaw + msTicks 10 ≤ s.raw.toNat then (s.setSticky (Key.ethDly m.val) 62).setMc m.val { x with dlyBusy := false } else s)

end Sys2Proof.Machine
end

