-- ==== Sys2Proof/Machine/Fronthaul.lean ====
section
/-! DEFINITION. Fronthaul.lean: the framer's commands (R366 to R381): windows, tokens, C-plane messages, CPRI hyperframes. -/
namespace Sys2Proof.Machine

/-! Stream entries (R367, R380) -/

/-- Word length T of a CPRI option. -/
def cpriT (o : Nat) : Nat := match o with | 1 => 8 | 2 => 16 | 3 => 32 | 4 => 40 | 5 => 64 | 6 => 80 | 7 => 128 | 8 => 160 | 9 => 192 | 10 => 384 | _ => 0
/-- Bits of a container in the IQ block. -/
def Str.axcLen (x : Str) : Nat := 2 * x.cm * x.cs

/-- Whether a container fits its link (R380). -/
def State.axcOk (s : State) (n : Nat) (x : Str) : Bool :=
  decide (x.port < 32) && decide (8 ≤ x.cm) && decide (x.cm ≤ 16) && decide (1 ≤ x.cs) && decide (x.cs ≤ 32) &&
  decide (x.axc + x.axcLen ≤ 15 * cpriT (s.fld (Key.lnCfg x.port) 55 52)) &&
  (List.range x.slots).all (fun sl => x.slotLen sl % x.cs == 0) &&
  (List.range 4096).all (fun k =>
    let y := s.str k
    k == n || !(y.en && y.kind == skCpri && y.port == x.port && y.tx == x.tx) ||
      decide (x.axc + x.axcLen ≤ y.axc) || decide (y.axc + y.axcLen ≤ x.axc))

/-- Whether an entry may be enabled (R367). -/
def State.strOk (s : State) (n : Nat) (x : Str) : Bool :=
  let slotBytes := if x.kind = skOran then x.stride * (x.nsym - 1) + 48 * (x.prb0 + x.nprb)
    else 4 * ((List.range x.slots).map x.slotLen).foldl max 0
  decide (x.kind ≤ 2) && decide (x.carrier ≤ 383) && decide (2 ≤ x.nbuf) &&
  (x.comp == 0 || x.comp == 1 || (x.comp == 4 && x.tx)) && (x.comp != 4 || (decide (1 ≤ x.width) && decide (x.width ≤ 4))) &&
  (x.kind != skOran || (decide (x.prb0 ≤ 274) && decide (1 ≤ x.nprb) && decide (x.prb0 + x.nprb ≤ 275) &&
    decide ((x.prb0 + x.nprb) * 48 ≤ x.stride))) &&
  x.bufOff % 64 == 0 && decide (1 ≤ x.bufSize) && (!x.tx || x.rdy % 64 == 0) &&
  decide (x.bufOff + (x.nbuf - 1) * x.bufSize + slotBytes ≤ 0x1000000) &&
  (x.tx || x.pack == s.fld (Key.knPlanCfg x.carrier) 62 60) &&
  (x.kind == skCpri || (match s.partOfCarrier x.carrier with | some p => s.entN (Key.ethOwner x.port) == p | none => false)) &&
  (x.kind != skCpri || s.axcOk n x) &&
  decide (((List.range 4096).filter (fun k => k != n && (s.str k).en && (s.str k).tx == x.tx)).length < 2048)

/-- A write of word w of a stream entry (R367). -/
def State.strWrite (s : State) (n w : Nat) (v : U64) : State :=
  let k := Key.ethStr n w
  let rsv := match w with | 0 => bf v 6 0 | 2 => bf v 42 24 | 3 => bf v 20 0 | _ => 0
  let x := s.str n
  if x.en ∧ !(w = 0 ∧ !(bit v 63)) then s.status .busy
  else if rsv ≠ 0 then s.status .range
  else if w = 0 ∧ bit v 63 then
    if s.strOk n { x with w0 := v } then ((s.setEnt k v).setFhs n streamInit).status .ok else s.status .range
  else (s.setEnt k v).status .ok

/-! Tokens and windows -/

/-- FH_TOKEN_GROUP (R374): the token that is due for group g leaves, with a credit of R103. On a CPRI link that has lost frame,
the group of the carrier's last slot owes its token with ERR once its air time is over (R380). -/
def execFhTokenGroup (n : Fin 4096) (g : Fin 14) (s : State) : Out :=
  let x := s.str n.val
  let lof := x.en && !x.tx && x.kind == skCpri && decide (s.fld (Key.cpriStat x.port) 63 60 < 2)
  let s := match (s.car x.carrier).slots.head? with
    | some r =>
      let sl := (x.sfnOf (s.slotCount x r.time)).2
      let ends := r.time + (x.symStart sl (x.lastOf g.val + 1)) * secU / (x.n * 15000 * 2 ^ x.mu)
      if lof ∧ g.val * x.tsize < x.nsym ∧ ends ≤ s.now then s.fhGroupClose n.val r.seq sl g.val else s
    | none => s
  .next (
    let f := s.fhs n.val
    match f.due.find? (fun d => d.group == g.val) with
    | none => s
    | some d =>
      if h : x.port < 128 then
        let who := Producer.framer ⟨x.port, h⟩
        if s.creditOf who = 0 then s
        else
          let s := (s.setFhs n.val { f with due := f.due.erase d }).sendItem who (.token (s.fhToken n.val d) (s.partOfProd who) .none)
          s.ethResume ⟨x.port, h⟩
      else s)

/-- The ready word of a transmit stream's slot buffer (R375): whether it names the slot. -/
def State.ready (s : State) (x : Str) (seq : Nat) : State × Bool :=
  if h : x.pack < 8 then
    match s.busRead (.pack ⟨x.pack, h⟩) (pmAddr x.pack (x.rdy + 8 * (seq % x.nbuf))) 8 with
    | (s, some (b, _)) => let v := leNat b; (s, v / 2 ^ 63 == 1 && v % 16 == seq % 16)
    | (s, none) => (s, false)
  else (s, false)

/-- A transmit stream's symbol at the opening of its window (R375, R376). -/
def State.fhTransmit (s : State) (n : Nat) (w : Win) : State :=
  let x := s.str n
  match s.ready x w.seq with
  | (s, false) => s.strErr n 31 16
  | (s, true) =>
    let (s, sh) := s.txSymbol n x w.seq w.l
    if x.kind = skOran then
      if (sh.map (·.1)) = some false then s
      else
        let (s, b) := s.fhRead x (x.symOff w.seq w.slot w.l) (48 * (x.prb0 + x.nprb))
        s.fhOranFrames n w (fun p => (b.drop (48 * p)).take 48) x.nprb x.prb0
    else
      let (s, b) := s.fhRead x (x.symOff w.seq w.slot w.l) (4 * x.symLen w.slot w.l)
      let l := match sh with | some (_, o) => o.map (·.toNat) | none => samplesOf b
      s.fhTimeFrames n w l.length 0 l

/-- FH_SYMBOL_WINDOW_OPEN (R369, R375). -/
def execFhSymbolWindowOpen (n : Fin 4096) (l : Fin 14) (s : State) : Out :=
  let x := s.str n.val
  .next (
    if x.en ∧ x.kind ≤ 1 ∧ l.val < x.nsym then
      match s.winOcc x l.val with
      | none => s
      | some o =>
        match s.winSlot x o 0 with
        | none => s
        | some (seq, sl, sfn) =>
          let f := s.fhs n.val
          if f.closed.any (fun c => c.1.seq == seq && c.1.l == l.val) ∨ f.wins.any (fun w => w.seq == seq && w.l == l.val) then s
          else
            let w : Win := ⟨l.val, seq, sl, sfn, o.time⟩
            let s := s.setFhs n.val { f with wins := f.wins ++ [w] }
            if x.tx then s.fhTransmit n.val w else s
    else s)

/-- FH_SYMBOL_WINDOW_CLOSE (R374, R375): the window's occurrence has ended. -/
def execFhSymbolWindowClose (n : Fin 4096) (l : Fin 14) (s : State) : Out :=
  let x := s.str n.val
  let f := s.fhs n.val
  .next (match f.wins.find? (fun w => w.l == l.val) with
    | none => s
    | some w =>
      if (s.winOcc x l.val).any (fun o => o.time == w.at_) then s
      else
        let key := symKey w.seq l.val
        let s := s.setFhs n.val { f with wins := f.wins.erase w, closed := ((w, s.now) :: f.closed).take 256 }
        if x.tx then
          let q := s.fhQ x.port
          let m := s.mc x.port
          let late := (m.q q).filter (fun t => t.fh == some (n.val, key))
          let s := s.setMc x.port (m.setQ q ((m.q q).filter (fun t => t.fh != some (n.val, key))))
          s.ethCount x.port 0x18 late.length
        else if x.lastOf (l.val / x.tsize) = l.val then s.fhGroupClose n.val w.seq w.slot (l.val / x.tsize)
        else s)

/-- TX_SYMBOL (R275 to R280): symbol l of a downlink stream of carrier c leaves the device, judged and shaped: for a stream with windows
the symbol whose window is open and whose buffer is ready, for a CPRI container the symbol that its link sends now. -/
def execTxSymbol (c : Fin 384) (n : Fin 4096) (l : Fin 14) (s : State) : Out :=
  let x := s.str n.val
  .next (
    if x.en ∧ x.tx ∧ x.carrier = c.val ∧ l.val < x.nsym then
      if x.kind = skCpri then
        match s.seqOf x (s.slotCount x (s.now + nsT (s.fld (Key.cpriCfg x.port) 19 0))) with
        | some seq => (s.txSymbol n.val x seq l.val).1
        | none => s
      else
        match (s.winOcc x l.val).bind (fun o => s.winSlot x o 0) with
        | some (seq, _, _) =>
          match s.ready x seq with
          | (s, true) => (s.txSymbol n.val x seq l.val).1
          | (s, false) => s
        | none => s
    else s)

/-! C-plane messages (R377, R378) -/

/-- The C-plane list entries from an offset on: their offsets, up to the count. -/
def cpEntry (b : List Byte) : Nat × Nat × Nat × Bool := (leNat (b.take 2), leNat ((b.drop 2).take 2), be b 4 1, be b 5 1 % 2 == 1)

/-- The enabled O-RAN stream of a carrier with an eAxC and a direction. -/
def State.cpStream (s : State) (c eaxc : Nat) (dl : Bool) : Option Nat :=
  (List.range 4096).find? (fun n =>
    let x := s.str n
    x.en && x.kind == skOran && x.carrier == c && x.eaxc == eaxc && x.tx == dl)

/-- One entry is sent or dropped; `m` is the MAC that counts a drop. -/
def State.cpOne (s : State) (c m : Nat) (dl : Bool) (seq sl sfn : Nat) (pack : Nat) (b : List Byte) : State :=
  let (len, eaxc, _, bfw) := cpEntry b
  let body := (b.drop (if bfw then 20 else 8)).take len
  let ty := be body 5 1
  match s.cpStream c eaxc dl with
  | none => s.ethCount m 0x1A 1
  | some n =>
    let x := s.str n
    if !([0, 1, 3, 5].contains ty) ∨ body.length < len then s.ethCount x.port 0x1A 1
    else
      let (s, sh) := if dl then s.txSymbol n x seq (be body 3 1 % 64) else (s, none)
      if sh.map (·.1) = some false then s
      else
        let body := patch body 1 ([BitVec.ofNat 8 sfn] ++ beBytes 2 (sl / 2 ^ x.mu * 2 ^ 12 + sl % 2 ^ x.mu * 2 ^ 6 + be body 3 1 % 64))
        if bfw then
          let p : Str := { x with w1 := setf x.w1 39 37 pack }
          let nant := be b 16 1
          let w := let w := be b 17 1; if w = 0 then 16 else w
          let (s, wb) := s.fhRead p (leNat ((b.drop 8).take 4)) (4 * nant)
          let (s, eb) := s.fhRead p (leNat ((b.drop 12).take 4)) 1
          let xs := compsOf (samplesOf wb)
          let e0 := bfpExp w xs
          let e := (e0 : Int) + sgn 8 (leNat eb) - sgn 8 (be b 18 1)
          if e < 0 ∨ 15 < e then s.ethCount x.port 0x1A 1
          else s.fhSend n 2 none (withWeights body w e.toNat (bfpIn w e0 xs))
        else s.fhSend n 2 none body

/-- The entries of a list from its bytes on. -/
def State.cpEntries (s : State) (c m : Nat) (dl : Bool) (seq sl sfn pack : Nat) : Nat → List Byte → State
  | 0, _ => s
  | k + 1, b =>
    let (len, _, dir, bfw) := cpEntry b
    let size := ((if bfw then 20 else 8) + len + 7) / 8 * 8
    let s := if b.length < 8 then s else if (dir == 1) = dl then s.cpOne c m dl seq sl sfn pack b else s
    s.cpEntries c m dl seq sl sfn pack k (b.drop size)

/-- CPLANE_SEND (R369, R377): the C-plane window of a direction is open for a carrier; its list is sent once. -/
def execCplaneSend (c : Fin 384) (dl : Bool) (s : State) : Out :=
  let cfg := s.ent (Key.ethCpCfg c.val)
  .next (
    match (List.range 4096).find? (fun n => let x := s.str n; x.en && x.kind == skOran && x.carrier == c.val && x.tx == dl) with
    | none => s
    | some n =>
      let x := s.str n
      match (s.winOcc x (if dl then 14 else 15)).bind (fun o => s.winSlot x o 1) with
      | none => s
      | some (seq, sl, sfn) =>
        if !(bit cfg 63) ∨ tget 0 s.cpSent (c.val * 2 + b01 dl) = seq + 1 then s
        else
          let s := { s with cpSent := tput s.cpSent (c.val * 2 + b01 dl) (seq + 1) }
          let p : Str := { x with w1 := setf x.w1 39 37 (bf cfg 62 60) }
          let size := bf cfg 23 16 * 1024
          let (s, b) := s.fhRead p (bf cfg 59 36 + seq % 2 ^ bf cfg 15 14 * size) size
          let h := leNat (b.take 8)
          if h / 2 ^ 63 = 1 ∧ h / 2 ^ 32 % 16 = seq % 16 then
            s.cpEntries c.val x.port dl seq sl sfn (bf cfg 62 60) (h % 65536) (b.drop 8)
          else s.ethCount x.port 0x1A 1)

/-! CPRI links (R379 to R381) -/

/-- The slot of a sample of the frame, and its place in the slot. -/
def Str.locate (x : Str) (i : Nat) : Nat × Nat :=
  match (List.range x.slots).reverse.find? (fun sl => decide (x.frameStart sl ≤ i)) with
  | some sl => (sl, i - x.frameStart sl)
  | none => (0, i)
/-- The symbol of a sample of a slot, and its place in the symbol. -/
def Str.symOf (x : Str) (sl i : Nat) : Nat × Nat :=
  match (List.range x.nsym).reverse.find? (fun l => decide (x.symStart sl l ≤ i)) with
  | some l => (l, i - x.symStart sl l)
  | none => (0, i)

/-- A received sample of a container (R380). -/
def State.cpriSample (s : State) (n sfn i v : Nat) : State :=
  let x := s.str n
  let (sl, k) := x.locate i
  match s.namedSlot x (sfn % 256) sl with
  | none => s.strCount n 31 16
  | some seq =>
    let (l, j) := x.symOf sl k
    (s.fhStore x (x.buf seq + 4 * k) [v]).fhGot n seq sl l j 1

/-- The samples a link sends in hyperframe h of radio frame f, counted from the frame reference, for a transmit container, shaped under
R276. -/
def State.cpriOut (s : State) (n f h : Nat) : State × List C16 :=
  let x := s.str n
  (List.range (256 * x.cs)).foldl (fun (q : State × List C16) i =>
    let s := q.1
    let (sl, k) := x.locate (h * 256 * x.cs + i)
    let (l, j) := x.symOf sl k
    match s.seqOf x (f * x.slots + sl) with
    | none => (s, q.2 ++ [0])
    | some seq =>
      match s.txSymbol n x seq l with
      | (s, some (_, o)) => (s, q.2 ++ [o.getD j 0])
      | (s, none) =>
        let (s, b) := s.fhRead x (x.buf seq + 4 * k) 4
        (s, q.2 ++ [BitVec.ofNat 32 (leNat b)])) (s, [])

/-- Whether the partition that holds a link's REF_CARRIER is in reset: its links then have no frame sync (R462). -/
def State.cpriOwnerReset (s : State) (k : Nat) : Bool :=
  match s.partOfCarrier (s.fld (Key.cpriCfg k) 35 27) with
  | some p => s.partState p == psReset || s.partState p == psHeld
  | none => false

/-- Whether link k runs: its entry enabled, its lane up in CPRI mode and its owner not in reset. -/
def State.cpriRuns (s : State) (k : Nat) : Bool :=
  !(s.cpriOwnerReset k) && s.flag (Key.cpriCfg k) 63 && s.laneMode k == omCpri && s.laneState k == lnUp && !(s.laneMuted k)

/-- Bytes of the control-word area of a link. -/
def State.cwRead (s : State) (cfg : U64) (off n : Nat) : State × List Byte :=
  s.fhRead ⟨0, setf 0 39 37 (bf cfg 62 60), 0, 0⟩ (bf cfg 59 36 + off) n

/-- DELAY of `ETH_CPRI_Lk_STAT`: from the start of the transmitted hyperframe of a number, BFN counted modulo 4,096, to now, in eighths
of a tick. -/
def State.cpriDelay (s : State) (ref adv number e : Nat) : Nat :=
  let hf := nsT 10000000 / 150
  let x := s.now + adv - frameRefT s ref
  let back := (x / hf + 4096 * 150 - number % (4096 * 150)) % (4096 * 150)
  ((back * hf + x % hf) * 2 ^ 19 / s.inc + e) % 2 ^ 32

/-- CPRI_HYPERFRAME (R379 to R381): a hyperframe arrives on link k, and one leaves. -/
def execCpriHyperframe (k : Fin 32) (h : CpriHyper) (s : State) : Out :=
  let cfg := s.ent (Key.cpriCfg k.val)
  .next (
    if s.cpriRuns k.val then
      let (e, s) := s.drawBelow 8
      let d := s.cpriDelay (bf cfg 35 27) (nsT (bf cfg 19 0)) h.number e
      let st := if !h.hfnSync then 1 else if h.bfnSync then 3 else 2
      let s := (s.setFld (Key.cpriStat k.val) 63 60 st).setFld (Key.cpriStat k.val) 31 0 d
      let word := cpriT (s.fld (Key.lnCfg k.val) 55 52) / 8
      let s := if st < 2 then s else
        (List.range 256).foldl (fun s x =>
          if hp : bf cfg 62 60 < 8 then
            (s.busWrite (.pack ⟨bf cfg 62 60, hp⟩) (pmAddr (bf cfg 62 60) (bf cfg 59 36 + h.number % 2 * 0x4000 + 64 * x))
              ((h.control.getD x []).take word) false).1
          else s) s
      let s := if st < 3 then s else
        h.samples.foldl (fun s q =>
          let x := s.str q.1.val
          if x.en ∧ !x.tx ∧ x.kind = skCpri ∧ x.port = k.val then
            (q.2.take (256 * x.cs)).zipIdx.foldl (fun s c =>
              s.cpriSample q.1.val (h.number / 150 % 1024) (h.number % 150 * 256 * x.cs + c.2) c.1.toNat) s
          else s) s
      let ref := frameRefT s (bf cfg 35 27)
      let num := (s.now + nsT (bf cfg 19 0) - ref) * 150 / nsT 10000000
      let r := (List.range 256).foldl (fun (q : State × List (Option (List Byte))) x =>
        if x % 64 = 0 then (q.1, q.2 ++ [none])
        else let r := q.1.cwRead cfg (0x8000 + num % 2 * 0x4000 + 64 * x) word; (r.1, q.2 ++ [some r.2])) (s, [])
      let t := ((List.range 4096).filter (fun n => let x := r.1.str n; x.en && x.tx && x.kind == skCpri && x.port == k.val)).foldl
        (fun (q : State × List (Nat × List C16)) n =>
          let o := q.1.cpriOut n (num / 150) (num % 150); (o.1, q.2 ++ [(n, o.2)])) (r.1, [])
      { t.1 with cpriTx := tput t.1.cpriTx k.val ⟨num, r.2, t.2⟩ }
    else s)

/-- CPRI_LOSS_OF_FRAME (R380): the link has lost synchronization and searches. -/
def execCpriLossOfFrame (k : Fin 32) (s : State) : Out :=
  .next (
    if s.cpriRuns k.val ∧ 2 ≤ s.fld (Key.cpriStat k.val) 63 60 then
      (s.setFld (Key.cpriStat k.val) 63 60 1).incSat (Key.cpriCnt k.val) 63 48 1
    else s)

/-- `ETH_CPRI_Lk_STAT` as read: STATE 0 where the link does not run. -/
def State.cpriLive (s : State) (k : Nat) : U64 :=
  let v := s.ent (Key.cpriStat k)
  if s.cpriRuns k then (if bf v 63 60 = 0 then setf v 63 60 1 else v) else setf v 63 60 0

end Sys2Proof.Machine
end

