-- ==== Sys2Proof/Machine/Leash.lean ====
section
/-! DEFINITION. Leash.lean: the decisions of the Leash points, masking and starvation (R195 to R202). -/
namespace Sys2Proof.Machine

/-- The first requester in round-robin order after a, among those with a waiting request of a class. -/
def rrAfter (reqs : List LeashReq) (classD : Bool) (a : Nat) : Option LeashReq :=
  leastBy (fun q => (q.r.val + 23 - a % 24) % 24) (reqs.filter (fun q => q.classD == classD))

/-- The class B request that weighted round robin chooses (R197): the requester of the turn while its weight allows, else the
next one. -/
def State.wrr (s : State) (x : Point) : Option (LeashReq × Nat) :=
  match x.reqs.find? (fun q => !q.classD && q.r.val == x.turn) with
  | some q => if x.used < s.entN (Key.lshWeight x.turn) then some (q, x.used + 1) else (rrAfter x.reqs false x.turn).map (·, 1)
  | none => (rrAfter x.reqs false x.turn).map (·, 1)

/-- A request is granted at point n: it leaves the waiting ones, and its loss count clears where it is class B. -/
def Point.take (x : Point) (n : Nat) (q : LeashReq) : Point :=
  { x with owner := some ⟨q.r.val, q.classD, 0, leashBeats n q⟩
           reqs := x.reqs.erase q
           loss := if q.classD then x.loss else tdel x.loss q.r.val }

/-- A loss count that has been told of (R202): it counts no further until a grant. -/
def lossTold : Nat := 2 ^ 32

/-- Every class B line loses to a grant of another requester (R202), once however many transfers wait behind it; at the limit the
count waits for LEASH_STARVE. -/
def Point.lose (x : Point) (limit granted : Nat) : Point :=
  ((List.range 24).filter (fun r => r != granted && x.reqs.any (fun q => !q.classD && q.r.val == r))).foldl (fun x r =>
    let n := tget 0 x.loss r
    if limit ≤ n then x else { x with loss := tput x.loss r (n + 1) }) x

/-- The current class B transfer loses the point after its beat: its request stays asserted, before its requester's others (R198). -/
def Point.preempt (x : Point) (o : Owner) : Point :=
  { x with owner := none
           reqs := if h : o.r < 24 then ⟨⟨o.r, h⟩, false, BitVec.toFin (BitVec.ofNat 3 (o.beats - 1))⟩ :: x.reqs else x.reqs }

/-- LEASH_GRANT (R196 to R199, R201): one FCLK cycle at a point, its beat moved and the owner of the next cycle chosen. -/
def execLeashGrant (pt : Fin 160) (reqs : List LeashReq) (s : State) : Out :=
  let n := pt.val
  let x := s.pnt n
  let s := match x.owner with
    | some o => s.inc64 (if o.classD then Key.lshDbeats n else Key.lshBbeats n) 1
    | none => s
  let x := { x with reqs := (addReqs x.reqs reqs).filter (fun q => !(s.isMasked q.r.val)) }
  let cur := x.owner.bind (fun o => if o.beat + 1 < o.beats then some o else none)
  let limit := s.entN Key.lshStarveLimit
  match cur.filter (·.classD) with
  | some o => .next (s.setPnt n { x with owner := some { o with beat := o.beat + 1 } })
  | none =>
    match rrAfter x.reqs true x.lastD with
    | some q =>
      let s := if cur.isSome then s.inc32 (Key.lshRestarts n) 1 else s
      let x := match cur with | some o => x.preempt o | none => x
      let x := x.take n q
      let x := if s.pausedB then x else x.lose limit q.r.val
      .next (s.setPnt n { x with lastD := q.r.val })
    | none =>
      match cur with
      | some o =>
        if s.pausedB then .next ((s.inc32 (Key.lshRestarts n) 1).setPnt n (x.preempt o))
        else .next (s.setPnt n { x with owner := some { o with beat := o.beat + 1 } })
      | none =>
        let x := { x with owner := none }
        if s.pausedB then .next (s.setPnt n x)
        else match s.wrr x with
          | some (q, u) => .next (s.setPnt n { (x.take n q).lose limit q.r.val with turn := q.r.val, used := u })
          | none => .next (s.setPnt n x)

/-- LEASH_STARVE (R202): a loss count has reached the limit. -/
def execLeashStarve (pt : Fin 160) (r : Fin 24) (s : State) : Out :=
  let n := pt.val
  let x := s.pnt n
  let l := tget 0 x.loss r.val
  .next (
    if s.entN Key.lshStarveLimit ≤ l ∧ l < lossTold then
      ((((s.setPnt n { x with loss := tput x.loss r.val lossTold }).setSticky (Key.lshFlags n) 1).setFld
        (Key.lshFlags n) 31 24 r.val).leashIrq).record 0x30 [w64 n, w64 r.val]
    else s)

/-- Requester r is masked at every point (R200): its requests are dropped, its loss count cleared, its transfer ends. -/
def State.maskReq (s : State) (r : Nat) : State :=
  { s with masked := tput s.masked r true
           point := s.point.map (fun e => (e.1, { e.2 with
             reqs := e.2.reqs.filter (fun q => q.r.val != r)
             loss := tdel e.2.loss r
             owner := e.2.owner.filter (fun o => o.r != r) })) }
/-- Requester r takes part again. -/
def State.unmaskReq (s : State) (r : Nat) : State := { s with masked := tdel s.masked r }

/-- The units whose PRESENT sideband a requester follows (table Leash requesters); none for the shared services that are always
present while the device runs. -/
def reqUnits (r : Nat) : List Nat :=
  if r < 8 then [packUnit r] else if r = 8 then (List.range 16).map coreUnit else if r = 9 then [856]
  else if r < 18 then [992 + 2 * (r - 10), 993 + 2 * (r - 10)] else if r = 18 then [1008, 1009, 1010, 1011] else []

/-- Whether a requester is present: one of its units is out of reset and not fenced, and a pack is powered and has
not stopped for a transition (R200, R445, R466). -/
def State.present (s : State) (r : Nat) : Bool :=
  s.pwrgood && s.resetN && s.fld Key.rstBootStat 63 60 != 0 &&
  ((reqUnits r).isEmpty || (reqUnits r).any (fun u => s.unitRuns u && !(s.un u).fenced &&
    (decide (8 ≤ r) || (decide (tget 0 s.packPower r ≤ 1) &&
      !(s.pwr.any (fun e => match e.2.cur with | some t => t.done.contains r | none => false))))))

/-- REQUESTER_MASK (R200): a requester that is not present is masked. -/
def execRequesterMask (r : Fin 24) (s : State) : Out := .next (if s.present r.val then s else s.maskReq r.val)
/-- REQUESTER_UNMASK (R200): a requester that is present is unmasked. -/
def execRequesterUnmask (r : Fin 24) (s : State) : Out := .next (if s.present r.val then s.unmaskReq r.val else s)

end Sys2Proof.Machine
end

