-- ==== Sys2Proof/Machine/PsimirMemory.lean ====
section
/-!
DEFINITION. PsimirMemory.lean: the tiles' loads and stores (R121, R122, R139 to R143, R169, R174), FETCH, POST and DONE
(R153 to R156), interrupts (R158 to R160) and the run controls (R164).
-/
namespace Sys2Proof.Machine

/-- The bytes and marking of n bytes at a device address, with fresh errors met (R395). -/
def State.tileRead (s : State) (t dev n : Nat) : State × List Byte × Bool :=
  let s := (s.flushOver (t / 64) dev n).readTouch dev n
  (s, s.bytes dev n, s.anyPoison dev n)

/-- A load of marked data sets PXS_POISON and, where it was clear, PXS_PADDR (R143). -/
def Tile.notePoison (x : Tile) (first : Option Nat) : Tile :=
  match first with
  | some b => if x.poison then x else { x with poison := true, paddr := BitVec.ofNat 32 b }
  | none => x

/-- The first poisoned byte, as a tile address, of n bytes at tile address a and device address dev. -/
def State.poisonAt (s : State) (a dev n : Nat) : Option Nat := (s.firstPoison dev n).map (fun b => a + (b - dev))

/-- The check of element i, n bytes at tile address a: access before watch; none where it may be performed. A resumed
instruction raises no WATCH for element PXS_VSTART (R162). -/
def Tile.check (x : Tile) (t : Nat) (store ctl : Bool) (i a n : Nat) : Option (Nat × Nat) :=
  if !(ctl && inCtlPage a && n == 8 && a % 8 == 0) && (tileDev t a n).isNone then
    some (if store then cAccessStore else cAccessLoad, firstOutside t a n)
  else match (if x.resumed && i == x.vstart.toNat then none else x.firstWatched store a n) with
    | some b => some (cWatch, b)
    | none => none

/-- A scalar access: `f` performs it at a permitted address. The register must have bits [63:32] zero (R121); PXS_EVAL holds
the low 32 bits of the sum (assumption 80: DESIGN CHOICE). -/
def scalarAccess (s : State) (t : Fin 512) (uses : List Reg) (ra : Reg) (imm : BitVec 16) (store : Bool) (n : Nat)
    (f : Tile → Nat → State) : Out :=
  stepTile s t uses always (fun x =>
    let a := x.rs ra + imm.signExtend 64
    if 2 ^ 32 ≤ (x.rs ra).toNat ∨ 2 ^ 32 ≤ a.toNat then raiseExc s t x (if store then cAccessStore else cAccessLoad) a.toNat (some 0)
    else match x.check t store true 0 a.toNat n with
      | some (code, b) => raiseExc s t x code b (some 0)
      | none => f x a.toNat)

/-- A scalar load of n bytes, extended by ext (R169). -/
def opLoad (s : State) (t : Fin 512) (rd ra : Reg) (imm : BitVec 16) (n : Nat) (ext : Nat → U64) : Out :=
  scalarAccess s t [rd, ra] ra imm false n (fun x a =>
    if inCtlPage a then retire s t (x.wr rd (s.ctlRead (t.val / 64) (a - 0x8000000)))
    else match tileDev t a n with
      | some d =>
        let (s, bs, _) := s.tileRead t d n
        retire s t ((x.notePoison (s.poisonAt a d n)).wr rd (ext (leNat bs)))
      | none => s)

/-- Sign extension of a value of n bits to a register. -/
def sextN (n v : Nat) : U64 := BitVec.ofInt 64 (sgn n v)

def execLdB (t : Fin 512) (rd ra : Reg) (imm : BitVec 16) (s : State) : Out := opLoad s t rd ra imm 1 (sextN 8)
def execLdH (t : Fin 512) (rd ra : Reg) (imm : BitVec 16) (s : State) : Out := opLoad s t rd ra imm 2 (sextN 16)
def execLdW (t : Fin 512) (rd ra : Reg) (imm : BitVec 16) (s : State) : Out := opLoad s t rd ra imm 4 (sextN 32)
def execLdD (t : Fin 512) (rd ra : Reg) (imm : BitVec 16) (s : State) : Out := opLoad s t rd ra imm 8 w64
def execLdBu (t : Fin 512) (rd ra : Reg) (imm : BitVec 16) (s : State) : Out := opLoad s t rd ra imm 1 w64
def execLdHu (t : Fin 512) (rd ra : Reg) (imm : BitVec 16) (s : State) : Out := opLoad s t rd ra imm 2 w64
def execLdWu (t : Fin 512) (rd ra : Reg) (imm : BitVec 16) (s : State) : Out := opLoad s t rd ra imm 4 w64

/-- A scalar store of the low n bytes of rd (R169). A store to the control page acts on the pack's DMA (R225). -/
def opStore (s : State) (t : Fin 512) (rd ra : Reg) (imm : BitVec 16) (n : Nat) : Out :=
  scalarAccess s t [rd, ra] ra imm true n (fun x a =>
    if inCtlPage a then
      let r := s.reply
      let s := s.ctlWrite (t.val / 64) (a - 0x8000000) (x.rs rd)
      retire { s with reply := r } t x
    else match tileDev t a n with
      | some d => retire ((s.flushOver (t.val / 64) d n).store d (leBytes n (x.rs rd).toNat)) t x
      | none => s)

def execStB (t : Fin 512) (rd ra : Reg) (imm : BitVec 16) (s : State) : Out := opStore s t rd ra imm 1
def execStH (t : Fin 512) (rd ra : Reg) (imm : BitVec 16) (s : State) : Out := opStore s t rd ra imm 2
def execStW (t : Fin 512) (rd ra : Reg) (imm : BitVec 16) (s : State) : Out := opStore s t rd ra imm 4
def execStD (t : Fin 512) (rd ra : Reg) (imm : BitVec 16) (s : State) : Out := opStore s t rd ra imm 8

/-! Vector loads and stores (R139 to R141, R174) -/

/-- Whether the fields of a VM instruction are legal: type, reserved bits, the group at v, INC with ra = s0. -/
def vmLegal (f : VM) (x : Tile) : Bool :=
  decide (f.ty.toNat ≤ 5) && !f.rsv8 && f.rsv == 0 && x.egOk f.ty.toNat f.v && !(f.inc && f.ra == 0)

/-- The first element of the list that may not be accessed, with its cause and byte. `wide`: an address register has bits
above [31:0] set, so no element may be (R121); PXS_EVAL holds the low 32 bits of the sum (assumption 80: DESIGN CHOICE). -/
def Tile.faultElem (x : Tile) (t : Nat) (store wide : Bool) (base : U64) (e : Nat) : List Nat → Option (Nat × Nat × Nat)
  | [] => none
  | i :: r =>
    let a := base + w64 (i * e)
    match (if wide || decide (2 ^ 32 ≤ a.toNat) then some (if store then cAccessStore else cAccessLoad, a.toNat % 2 ^ 32)
        else x.check t store false i a.toNat e) with
    | some (c, b) => some (i, c, b)
    | none => x.faultElem t store wide base e r

/-- The elements a vector access performs are loaded in order. -/
def vloadElems (s : State) (t : Nat) (x : Tile) (v : Nat) (base : U64) (e : Nat) : List Nat → State × Tile
  | [] => (s, x)
  | i :: r =>
    let a := (base + w64 (i * e)).toNat
    match tileDev t a e with
    | some d =>
      let (s, bs, _) := s.tileRead t d e
      vloadElems s t ((x.notePoison (s.poisonAt a d e)).setElem v e i (leNat bs)) v base e r
    | none => (s, x)

/-- The elements a vector access performs are stored in order. -/
def vstoreElems (s : State) (t : Nat) (x : Tile) (v : Nat) (base : U64) (e : Nat) : List Nat → State
  | [] => s
  | i :: r =>
    match tileDev t (base + w64 (i * e)).toNat e with
    | some d => vstoreElems ((s.flushOver (t / 64) d e).store d (leBytes e (x.elem v e i))) t x v base e r
    | none => s

/-- A vector load or store: the elements before the fault element are performed, then the exception is raised; without one
PXS_VSTART clears and INC advances ra (R140, R174). -/
def opVM (s : State) (t : Fin 512) (f : VM) (store : Bool) : Out :=
  stepTile s t [f.ra, f.ro] (vmLegal f) (fun x =>
    let e := etBytes f.ty.toNat
    let base := x.rs f.ra + x.rs f.ro
    let wide := decide (2 ^ 32 ≤ (x.rs f.ra).toNat) || decide (2 ^ 32 ≤ (x.rs f.ro).toNat)
    let fault := x.faultElem t store wide base e x.range
    let els := match fault with
      | some (i, _, _) => x.range.filter (· < i)
      | none => x.range
    let (s, x) := if store then (vstoreElems s t x f.v.toNat base e els, x) else vloadElems s t x f.v.toNat base e els
    match fault with
    | some (i, c, b) => raiseExc s t x c b (some i)
    | none =>
      let x := { x with vstart := 0 }
      retire s t (if f.inc then x.wr f.ra (x.rs f.ra + w64 (x.vl.toNat * e)) else x))

def execVld (t : Fin 512) (f : VM) (s : State) : Out := opVM s t f false
def execVst (t : Fin 512) (f : VM) (s : State) : Out := opVM s t f true

/-! Working with Kennel -/

/-- FETCH (R153, R96): a current task completes as DONE would; the tile blocks until a task is dispatched to it. -/
def execFetch (t : Fin 512) (rd ra rb : Reg) (s : State) : Out :=
  stepTile s t [rd] (fun x => !x.inh && ra == 0 && rb == 0) (fun _ =>
    let s := s.tileDone t
    s.setTl t { s.tl t with st := .fetchWait, fetchRd := rd, blockedAt := s.raw.toNat, resumed := false })

/-- Whether a POST of tile t waits: no credit (R103), or the hold of R100 while its ordered task is not the oldest. -/
def State.postWaits (s : State) (t : Fin 512) : Bool :=
  s.creditOf (.tile t) == 0 ||
    (match (s.tl t).task with
      | some (p, i) => let x := s.entry p i; x.st == .running && !(s.isOldest p x) && decide (8 ≤ x.heldTokens.length)
      | none => false)

/-- An item of tile t goes on its way: a token of an ordered task that is not the oldest is held (R100), any other item joins
the tile's queue to Kennel. -/
def State.postItem (s : State) (t : Fin 512) (i : Item) : State :=
  match i, (s.tl t).task with
  | .token k _ _, some (p, e) =>
    let x := s.entry p e
    if x.st == .running && !(s.isOldest p x) then s.setEntry p e { x with heldTokens := x.heldTokens ++ [k] }
    else s.sendItem (.tile t) i
  | i, _ => s.sendItem (.tile t) i

/-- A POST is sent, its result awaited where it has one; then the instruction completes. -/
def State.postSend (s : State) (t : Fin 512) (i : Item) : State :=
  let s := s.postItem t i
  let x := s.tl t
  let x := { x with st := .running, stalledPost := none }
  match i with
  | .desc _ (.tileReg _ rd) _ => retire s t (if rd = 0 then x else { x with pendingD := x.pendingD ++ [(rd, none)] })
  | _ => retire s t x

/-- A POST: sent, or the tile stalls (R155). -/
def State.post (s : State) (t : Fin 512) (x : Tile) (i : Item) : State :=
  if s.postWaits t then s.setTl t { x with st := .postStall, stalledPost := some i, resumed := false } else (s.setTl t x).postSend t i

/-- POST.D (R154): the descriptor at LM address ra. A poisoned one sets PXS_POISON as a load does and is submitted (R143;
assumption 80: DESIGN CHOICE). -/
def execPostD (t : Fin 512) (rd ra rb : Reg) (s : State) : Out :=
  stepTile s t [rd, ra] (fun _ => rb == 0) (fun x =>
    let a := (x.rs ra).toNat
    if a % 64 ≠ 0 ∨ a < 0x100000 ∨ 0x140000 < a + 64 then raiseExc s t x cAccessLoad (a % 2 ^ 32) (some 0)
    else match x.check t false false 0 a 64 with
      | some (c, b) => raiseExc s t x c b (some 0)
      | none =>
        let d := lmAddr t (a - 0x100000)
        let (s, bs, _) := s.tileRead t d 64
        s.post t (x.notePoison (s.poisonAt a d 64))
          (.desc (descOf (bytesWords 8 bs)) (.tileReg t rd) (s.partOfProd (.tile t))))

/-- POST_D_RESULT (R154): the oldest result that has arrived moves into its register. -/
def execPostDResult (t : Fin 512) (s : State) : Out :=
  let x := s.tl t
  let (a, b) := x.pendingD.span (fun q => q.2.isNone)
  .next (match b with
    | (r, some v) :: rest => s.setTl t { x.wr r v with pendingD := a ++ rest }
    | _ => s)

/-- POST.T (R155): a token with word 0 from ra and VALUE rb; hardware fills SRC and POISON, and bits [25:12] read zero. -/
def execPostT (t : Fin 512) (rd ra rb : Reg) (s : State) : Out :=
  stepTile s t [ra, rb] (fun _ => rd == 0) (fun x =>
    let w := setf (setf (x.rs ra) 25 12 0) 11 0 t.val
    s.post t x (.token ⟨if x.poison then setBit w 26 true else w, x.rs rb⟩ (s.partOfProd (.tile t)) .none))

/-- POST_STALL_RELEASE (R100, R103): a credit is held and the hold has ended; the stalled POST goes on. -/
def execPostStallRelease (t : Fin 512) (s : State) : Out :=
  let x := s.tl t
  .next (match x.stalledPost with
    | some i => if x.st = .postStall ∧ !(s.postWaits t) then s.postSend t i else s
    | none => s)

/-- DONE (R156). -/
def execDone (t : Fin 512) (rd ra rb : Reg) (s : State) : Out :=
  stepTile s t [] (fun _ => rd == 0 && ra == 0 && rb == 0) (fun _ => let s := s.tileDone t; retire s t (s.tl t))

/-! Interrupts and run controls -/

/-- The pending interrupt to be taken (R158, R159): ABORT always, NOTIFY while IE is 1. -/
def Tile.dueIrq (x : Tile) : Option Nat :=
  if x.ipend.toNat % 2 = 1 then some cAbort
  else if x.ipend.toNat / 2 % 2 = 1 ∧ x.stBit stIE then some cNotify
  else none

/-- INTERRUPT_ENTRY (R157 to R160): a running tile, one blocked in FETCH or one with a stalled POST takes it. -/
def execInterruptEntry (t : Fin 512) (s : State) : Out :=
  let x := s.tl t
  .next (
    if x.st = .running ∨ x.st = .fetchWait ∨ x.st = .postStall then
      match x.dueIrq with
      | none => s
      | some c =>
        let x := { x with st := .running, stalledPost := none,
                          ipend := x.ipend &&& (if c = cAbort then 0xFE else 0xFD) }
        let s := if c = cNotify then s.setFlag (Key.pxCtl t) 2 false else s.setUn t.val { s.un t.val with abortRaw := none }
        ((s.inc32 (Key.pxExcCnt t) 1).setTl t
          { x with epc := x.pc, cause := w64 (2 ^ 63 + c), eval := 0 }.enter)
    else s)

/-- A tile leaves reset (R164): every register at its reset value, PC at RESET_PC, PXS_TVEC from the pack's object, PXS_CYCLE at
zero, which a stopped clock holds. HALT, where it is set, stops it before its first instruction. -/
def State.startTile (s : State) (t : Nat) : State :=
  let cfg := s.ent (Key.pxPackCfg (t / 64))
  s.setTl t { tileInit with st := if s.flag (Key.pxCtl t) 1 then .halted else .running, haltedFrom := .running, pc := BitVec.ofNat 32 (bf cfg 15 0), tvec := BitVec.ofNat 32 (bf cfg 31 16),
                            cycle := w64 (4 * tget s.raw.toNat s.packStop (t / 64)), lastRecv := (s.tl t).lastRecv }

/-- A tile goes into reset; the task it runs ends ABORTED (R94, R446). -/
def State.resetTile (s : State) (t : Nat) : State :=
  let s := s.abortOn t
  s.setTl t { tileInit with lastRecv := (s.tl t).lastRecv }

/-- Whether a tile's unit, and the groups it lies in, are out of reset and in service; a pack in P3 has none. -/
def State.mayRun (s : State) (t : Nat) : Bool :=
  (s.un t).released && (s.un (512 + t / 8)).released && (s.un (packUnit (t / 64))).released && decide (s.health t ≤ 1) &&
    decide (s.packP (t / 64) ≤ 2)

/-- RUN of `PX_Tt_CTL` takes a value: 1 releases a tile from reset (R164), 0 puts it there, but for a TRAPPED tile, which only a
UNIT reset frees (R161). -/
def State.setRun (s : State) (t : Nat) (run : Bool) : State :=
  let was := s.flag (Key.pxCtl t) 0
  let s := s.setFlag (Key.pxCtl t) 0 run
  if run ∧ !was ∧ (s.tl t).st = .reset ∧ s.mayRun t then s.startTile t
  else if !run ∧ was ∧ (s.tl t).st ≠ .trapped then s.resetTile t else s

/-- HALT takes a value: the tile stops at the boundary and goes on from there. -/
def State.setHalt (s : State) (t : Nat) (halt : Bool) : State :=
  let s := s.setFlag (Key.pxCtl t) 1 halt
  let x := s.tl t
  if halt then
    if x.st = .reset ∨ x.st = .trapped ∨ x.st = .halted then s else s.setTl t { x with st := .halted, haltedFrom := x.st }
  else if x.st = .halted then s.setTl t { x with st := x.haltedFrom } else s

/-- NOTIFY becomes pending (R159). -/
def State.setNotify (s : State) (t : Nat) : State :=
  let s := s.setFlag (Key.pxCtl t) 2 true
  let x := s.tl t
  s.setTl t { x with ipend := x.ipend ||| 2 }

/-- A write of `PX_Tt_CTL`. -/
def State.pxCtlWrite (s : State) (t : Nat) (v : U64) : State :=
  let s := (s.setRun t (bit v 0)).setHalt t (bit v 1)
  (if bit v 2 then s.setNotify t else s).status .ok

/-- A write of `PX_Tt_CTL` by a requester that changes one bit. -/
def State.pxCtlBy (s : State) (rq : Requester) (t i : Nat) (b : Bool) : State :=
  let v := setBit (setBit (s.ent (Key.pxCtl t)) 2 false) i b
  match s.checkWrite rq (Key.pxCtl t) v with
  | .ok => s.pxCtlWrite t v
  | e => s.status e

/-- TILE_RUN (R164). -/
def execTileRun (rq : Requester) (t : Fin 512) (run : Bool) (s : State) : Out := .next (s.pxCtlBy rq t 0 run)
/-- TILE_HALT (R164). -/
def execTileHalt (rq : Requester) (t : Fin 512) (halt : Bool) (s : State) : Out := .next (s.pxCtlBy rq t 1 halt)
/-- TILE_NOTIFY (R159). -/
def execTileNotify (rq : Requester) (t : Fin 512) (s : State) : Out := .next (s.pxCtlBy rq t 2 true)

end Sys2Proof.Machine
end

