-- ==== Sys2Proof/Machine/Triggers.lean ====
section
/-! DEFINITION. Triggers.lean: the commands of the 64 trigger units (R61 to R72). -/
namespace Sys2Proof.Machine

/-- Class K objects of unit u default (R61): timing, mode, counters and both copies of the rows. -/
def State.ttDefaultK (s : State) (u : Fin 64) : State :=
  let ks := [Key.ttCfg u.val, Key.ttStart u.val 0, Key.ttStart u.val 1, Key.ttPeriod u.val, Key.ttStat u.val]
  let s := { s with od := dropSpan (dropSpan (tdrop s.od ks.contains) (Key.ttRow u.val 0 0) 0x2000) (Key.ttRow u.val 1 0) 0x2000 }
  (s.setLv (.trig u) { s.lv (.trig u) with deferred := [], occ := [], barred := [], since := 0 }).setTrg u trigInit

/-- TT_OWNER_WRITE (R61): a change of owner defaults the unit's class K objects. -/
def execTtOwnerWrite (rq : Requester) (u : Fin 64) (v : U64) (s : State) : Out :=
  .next (s.guarded (s.checkWrite rq (Key.ttOwner u.val) v)
    (if v = s.ent (Key.ttOwner u.val) then s else (s.ttDefaultK u).setEnt (Key.ttOwner u.val) v))

/-- EN of a unit is set (R68): the first cycle that may fire, or MISSED for a ONESHOT unit that begins too soon. -/
def State.ttStartUnit (s : State) (u : Fin 64) : State :=
  let lim := s.raw.toNat + marginTicks
  if s.flag (Key.ttCfg u.val) 1 then
    if s.tickOf (s.ttBase u) < lim then (s.setFlag (Key.ttStat u.val) 0 true).setFlag (Key.ttCfg u.val) 0 false
    else s.setTrg u ⟨0, []⟩
  else s.setTrg u ⟨s.firstCycle (s.ttBase u) (s.ttPeriod u) lim, []⟩

/-- Unit u is disabled (R72): nothing that it drives goes on, so every occurrence of its rows ends (DESIGN CHOICE, assumption 78). -/
def State.ttStop (s : State) (u : Fin 64) : State := s.setLv (.trig u) { s.lv (.trig u) with occ := [] }

/-- A write of TT_Un_CFG (R61, R68, R72). DESIGN CHOICE (assumption 78): EN with a period of 0, which R63 says cannot be set, answers
RANGE and is not counted in REJECTS; MODE written while EN is set is stored and rules the run in progress. -/
def State.ttCfgWrite (s : State) (u : Fin 64) (v : U64) : State :=
  let was := s.flag (Key.ttCfg u.val) 0
  if bit v 0 && !was && decide (8 ≤ s.entN (Key.ttOwner u.val)) then s.status .busy
  else if bit v 0 && !was && decide (s.ttPeriod u = 0) then s.status .range
  else
    let s := (s.setEnt (Key.ttCfg u.val) v).status .ok
    if bit v 0 && !was then s.ttStartUnit u else if bit v 0 then s else s.ttStop u

/-- A write of TT_Un_CFG by a requester. -/
def State.ttCfgBy (s : State) (rq : Requester) (u : Fin 64) (v : U64) : State :=
  match s.checkWrite rq (Key.ttCfg u.val) v with
  | .ok => s.ttCfgWrite u v
  | e => s.status e

/-- TT_ENABLE (R68): a write of TT_Un_CFG with EN set. -/
def execTtEnable (rq : Requester) (u : Fin 64) (v : U64) (s : State) : Out :=
  .next (s.ttCfgBy rq u (setBit v 0 true))

/-- TT_DISABLE (R72): a write of TT_Un_CFG with EN clear. -/
def execTtDisable (rq : Requester) (u : Fin 64) (v : U64) (s : State) : Out :=
  .next (s.ttCfgBy rq u (setBit v 0 false))

/-- The entry that a write of START (0 seconds, 1 nanoseconds) or PERIOD (2) goes to. -/
def ttTimingKey (u : Fin 64) (which : Fin 3) : Nat := if which = 2 then Key.ttPeriod u.val else Key.ttStart u.val which.val

/-- A write of START or PERIOD (R63): BUSY while EN is set; a non-zero period checks every row of both copies. -/
def State.ttTiming (s : State) (u : Fin 64) (which : Fin 3) (v : U64) : State :=
  if s.flag (Key.ttCfg u.val) 0 then s.status .busy
  else if which = 2 ∧ v ≠ 0 ∧
      !((List.range 2).all (fun c => (List.range 16).all (fun r => s.trigRowOk u v.toNat (s.rowOf (.trig u) c r)))) then
    s.liveReject (.trig u) .range
  else (s.setEnt (ttTimingKey u which) v).status .ok

/-- TT_TIMING_WRITE (R63). -/
def execTtTimingWrite (rq : Requester) (u : Fin 64) (which : Fin 3) (v : U64) (s : State) : Out :=
  match s.checkWrite rq (ttTimingKey u which) v with
  | .ok => .next (s.ttTiming u which v)
  | e => .next (s.status e)

/-- Width of an occurrence in 1/8 TCLK: an instant drives a pin for one TCLK cycle. -/
def occWidth (ws : List U64) : Nat := if bf (ws.getD 1 0) 61 60 = 0 then 8 else bf (ws.getD 1 0) 31 0

/-- What a fired row leaves running: a pulse, a window or a pin's cycle is an occurrence until its trailing edge. -/
def ttRunsOn (ws : List U64) : Bool := bf (ws.getD 1 0) 61 60 != 0 || bf (ws.getD 1 0) 59 56 == 4

/-- The instant that row r of unit u fires next, where the unit runs and the row is enabled (R62, R68, R69). -/
def State.ttDue (s : State) (u : Fin 64) (r : Nat) : Option Nat :=
  let m := s.ttCycle u r
  if s.ttRuns u ∧ bit (s.ent (Key.ttRow u.val 0 (2 * r + 1))) 62 ∧ (!(s.flag (Key.ttCfg u.val) 1) ∨ m = 0) then some (s.ttInstant u r m)
  else none

/-- A slot-start instant of row r of unit u at computed time at_ (R64, R112, R115): it is a boundary of the carrier's plan and waits
for Kennel. With EN of the plan clear nothing happens; after a handover only a unit of the carrier's owner acts (R539). -/
def State.slotInstant (s : State) (u : Fin 64) (r c at_ : Nat) : State :=
  if h : c < 384 then
    if s.flag (Key.knPlanCfg c) 63 ∧ (!((tget ⟨0, [], false⟩ s.carrier c).moved) ∨ s.partOfCarrier c = some (s.entN (Key.ttOwner u.val))) then
      let s := s.liveBoundary (.plan ⟨c, h⟩) (s.tickOf at_) at_
      { s with slotDue := s.slotDue ++ [⟨c, u.val, r, at_⟩] }
    else s
  else s

/-- Row r of unit u fires its instant at_ of cycle m (R33, R62, R66, R69): the row's words are latched, FIRED counts, and the instant
goes to its destination. While the owner is in reset the instant passes and the unit fires nothing (R72). -/
def State.ttFire (s : State) (u : Fin 64) (r m at_ : Nat) : State :=
  let ws := s.rowOf (.trig u) 0 r
  let x := s.trg u
  let s := s.setTrg u { x with next := tput x.next r (m + 1) }
  if s.ttOwnerReset u then s
  else
    let s := s.incWrap (Key.ttStat u.val) 63 32 1
    let dest := bf (ws.getD 1 0) 59 56
    let s := if dest = 2 then s.setIrq .trigger (bf (ws.getD 1 0) 47 32) true else s
    let s := if dest = 1 then s.slotInstant u r (bf (ws.getD 1 0) 47 32) at_ else s
    if ttRunsOn ws then s.beginOcc (.trig u) r at_ else s

/-- What stands before an instant of row r of unit u: the boundaries up to it have swapped (R34), and a deferred write whose
occurrence has ended is applied (R39). -/
def State.ttReady (s : State) (u : Fin 64) (r : Nat) : State :=
  let s := s.swapBefore (.trig u) (fun s => s.ttDue u r)
  if s.executing (.trig u) r then s else s.applyDeferred (.trig u) r

/-- TRIGGER_FIRE (R62, R66, R69): row `row` of a running unit reaches its next instant that has not fired. -/
def execTriggerFire (u : Fin 64) (row : Fin 16) (s : State) : Out :=
  let s := s.ttReady u row.val
  .next (match s.ttDue u row.val with
    | some at_ => if at_ ≤ s.now then (s.ttFire u row.val (s.ttCycle u row.val) at_).oneshotEnd u else s
    | none => s)

/-- Whether an occurrence's WIDTH, counted in raw ticks, has passed (R64). -/
def State.occOver (s : State) (o : Occ) : Bool :=
  decide (occWidth o.words ≤ 8 * (s.raw.toNat - o.startRaw))

/-- TRIGGER_TRAILING_EDGE (R33, R64, R68): the row's first occurrence whose WIDTH has passed ends. -/
def execTriggerTrailingEdge (u : Fin 64) (row : Fin 16) (s : State) : Out :=
  .next ((s.endOcc (.trig u) (fun o => o.row == row.val && s.occOver o)).oneshotEnd u)

end Sys2Proof.Machine
end

