-- ==== Sys2Proof/Machine/ResetCore.lean ====
section
/-!
DEFINITION. ResetCore.lean: what a UNIT or PART reset does to the units in its scope (R445 to R450, R200, R245, R334, R355),
requests that meet a reset in progress (R448), and the release of units (R23, R164, R446).
-/
namespace Sys2Proof.Machine

/-! The abort of one unit (step 2 of R446) -/

/-- A channel in a reset's scope ends under R223. The reset waits for its responses and its token's credit: here both have come
(assumption 25). -/
def State.dmaKill (s : State) (n : Fin 272) : State :=
  if s.chSt n.val = dsOff then s
  else (if (s.ch n.val).done then s else s.dmaEnd n dcAborted).dmaOff n.val

/-- A Hound engine sends the end tokens of its open lanes ABORTED, as far as it holds credits; the others are counted (R245), which
`resetSteps` keeps across the defaulting. -/
def State.houndReset (s : State) (e : Fin 8) : State :=
  let s := (List.range 16).foldl (fun s l => s.endLane e.val l beAborted) s
  let h := s.hnd e.val
  let ready := h.tokens.filter (fun t => !t.waiting)
  let n := s.creditOf (.hound e)
  let s := (ready.take n).foldl (fun s t => s.sendItem (.hound e) (.token t.tok (s.partOfProd (.hound e)) .none)) s
  let lost := h.tokens.length - (ready.take n).length
  let s := if lost = 0 then s
    else (s.inc32 (Key.hndErrors e.val) lost).record 0x40 [w64 e.val, w64 ((h.tokens.headD ⟨0, 0, 0, false, ⟨0, 0⟩⟩).watch), 0x11, w64 lost]
  let s := { s with hound := tdel s.hound e.val }
  if h : e.val < 8 then s.setLv (.watch ⟨e.val, h⟩) liveInit else s

/-- A control core goes into reset: its own places are empty, its port page is at rest, its task ends ABORTED (R415, R436). -/
def State.stopCore (s : State) (c : Nat) : State :=
  let s := (s.abortOn (coreUnit c)).dropSlot c
  let s := if h : c < 16 then s.flushProd (.core ⟨c, h⟩) else s
  { s with core := tdel s.core c, port := tdel s.port c }.setIrq .ring c false

/-- Whether a return to a DEST goes to an entry of a pack in scope. -/
def State.destIn (s : State) (us : List Nat) (d : Desc) : Bool :=
  if d.form then
    (match s.planEntry (d.dest / 2 ^ 23) (d.dest / 2 ^ 19 % 16) (d.dest / 2 ^ 8 % 2048) with
      | some (p, _) => us.contains (packUnit p) | none => false)
  else decide (d.dest / 2 ^ 27 < 8) && us.contains (packUnit (d.dest / 2 ^ 27))

/-- Every entry of a pack's store is freed (R446): a return token with ABORTED for each DEST outside the scope; descriptors of
producers in scope no longer wait. Kennel's own memory of the pack starts again (R111), but for the generations. -/
def State.freePack (s : State) (p : Nat) (us : List Nat) : State :=
  let s := ((s.kn p).used.map (·.1)).foldl (fun s i =>
    let x := s.entry p i
    let s := if x.desc.hasDest ∧ !(s.destIn us x.desc) ∧ !(x.st = .held ∧ x.unit = noUnit ∧ x.status ≠ 0) then
      s.returnTask p x.desc x.part ksAborted x.origin noUnit else s
    s.freeEntry p i) s
  let k := s.kn p
  s.setKn p { knInit with entries := k.entries, waiting := k.waiting.filter (fun w => !(us.contains (prodUnit w.src))) }

/-- Kennel forgets a tile's averages and its LAME mark (R111). -/
def State.forgetTile (s : State) (t : Nat) : State :=
  let k := s.kn (t / 64)
  let u := s.un t
  (s.setKn (t / 64) { k with avg := tdrop k.avg (fun i => i / 4096 == t) }).setUn t { u with lame := false, probeDue := false }

/-- The flow engine loses its contexts, stash and progress (R334: a WARM reset or stronger; a UNIT reset of the engine alike). -/
def State.flowClear (s : State) : State := { s with flow := [], stash := [], ctxCache := [], ringTaken := [] }

/-- A MAC's queues and its streams' progress are gone. -/
def State.macClear (s : State) (m : Fin 128) : State :=
  let s := { s.flushProd (.framer m) with mac := tdel s.mac m.val, stream := tdrop s.stream (fun n => (s.str n).port == m.val) }
  s.setLv (.gcl m) liveInit

/-- What unit u of a scope ends (step 2 of R446). -/
def State.abortUnit (s : State) (us : List Nat) (u : Nat) : State :=
  match unitKind u with
  | 1 => let s := (s.resetTile u).forgetTile u; if h : u < 512 then s.flushProd (.tile ⟨u, h⟩) else s
  | 3 => s.freePack (u - 576) us
  | 4 =>
    let p := (u - 584) / 32
    let k := (u - 584) % 32
    if hp : p < 8 then
      if hk : k < 17 then
        let s := ((s.abortJob ⟨p, hp⟩ ⟨k, hk⟩).abortOn u).flushProd (.accel ⟨p, hp⟩ ⟨k, hk⟩)
        { s with accelBusy := tdel s.accelBusy (p * 32 + k), job := tdel s.job (p * 32 + k), decode := tdel s.decode (p * 32 + k) }
      else if k = 17 then (s.houndReset ⟨p, hp⟩).flushProd (.hound ⟨p, hp⟩)
      else if k = 19 then
        { (List.range 32).foldl (fun s i => if h : p * 32 + i < 272 then (s.dmaKill ⟨p * 32 + i, h⟩).flushProd (.dma ⟨p * 32 + i, h⟩) else s) s with
          engine := tdel s.engine p }
      else s
    else s
  | 5 => s.stopCore (u - 840)
  | 6 => s.flowClear
  | 7 => if h : u - 864 < 128 then s.macClear ⟨u - 864, h⟩ else s
  | 8 => s.octetHold (u - 992) 4
  | 9 => s.gplDown (u - 1008)
  | _ => s

/-! Steps 1 to 4 of R446 -/

/-- Units in scope are absent and their requesters masked (R445, R200). -/
def State.absent (s : State) (us : List Nat) : State :=
  let s := us.foldl (fun s u => s.setUn u { s.un u with released := false }) s
  (List.range 24).foldl (fun s r => if s.present r then s else s.maskReq r) s

/-- What a Terrier segment in scope, and a power request of a unit in scope, come to. -/
def State.dropWork (s : State) (us : List Nat) : State :=
  { s with segment := s.segment.filter (fun e =>
      !((decide (e.1 < 8) && us.contains (packUnit e.1)) || (e.2.kind != 1 && us.contains e.2.unit)))
           pwr := s.pwr.filter (fun e => !(us.contains e.1)) }

/-- The units of an object's shares that partition p holds (R61, R361, R203): which entries default with a PART reset of p. -/
def State.shareOf (s : State) (p : Nat) (r : Row) (ix : List Nat) : Bool :=
  let i := ix.getD 0 0
  match r.id with
  | .ethVlan | .ethVlanMember | .ethVlanUntag => s.flag (Key.ethVlan i) 63 && s.fld (Key.ethVlan i) 62 59 == p
  | .dmaCfg | .dmaHead | .dmaStatus | .dmaCur | .dmaErrAddr => decide (256 ≤ i) && s.entN (Key.dmaOwner (i - 256)) == p
  | .ethCfg | .ethQmap | .ethBr | .ethTsAdj | .ethHrx | .ethHtx | .ethHrxBuf | .ethDly | .ethDlyComp | .ethUcast | .ethGhash
  | .gclCtl | .gclCfg | .gclBase | .gclCycle | .gclRow => s.entN (Key.ethOwner i) == p
  | _ => false

/-- Trigger units of a partition, its carriers, and its HBM regions. -/
def State.trigsOf (s : State) (p : Nat) : List (Fin 64) := (List.finRange 64).filter (fun u => s.entN (Key.ttOwner u.val) == p)
def State.carriersOf (s : State) (p : Nat) : List Nat := (List.range 384).filter (fun c => s.partOfCarrier c == some p)
def State.regionsOf (s : State) (p : Nat) : List Nat :=
  (List.range 64).filter (fun e => s.flag (Key.memHbmRegion e) 63 && s.fld (Key.memHbmRegion e) 61 58 == p)

/-- What a carrier holds besides its entries ends with its block (R115, R275, R298, R377). -/
def State.carrierClear (s : State) (c : Nat) : State :=
  let s := { s with
    carrier := tdel s.carrier c
    slotDue := s.slotDue.filter (fun d => d.carrier != c)
    tx := tdrop s.tx (fun k => k / 65536 == c)
    txGates := tdel s.txGates c
    paChecks := s.paChecks.filter (fun q => q.carrier != c)
    bank8 := tdrop s.bank8 (fun k => k / 8 == c)
    lateSlot := tdrop s.lateSlot (fun k => k / 16 == c)
    cpSent := tdrop s.cpSent (fun k => k / 2 == c)
    l2 := s.l2.filter (fun e => e.1 != c) }
  if h : c < 384 then s.setLv (.plan ⟨c, h⟩) liveInit else s

/-- The shares of partition p are released (step 3 of R446: R24, R61, R186, R334, R355, R361). -/
def State.releaseShares (s : State) (p : Nat) : State :=
  let rs := s.regionsOf p
  let s := rs.foldl (fun s e => s.setFlag (Key.memHbmRegion e) 63 false) s
  let s := if rs.isEmpty then s else s.noteDefaulted [1014] 4 dcPurge
  let s := (List.finRange 16).foldl (fun s i =>
    if s.entN (Key.dmaOwner i.val) = p then
      let n : Fin 272 := ⟨256 + i.val, by have := i.isLt; omega⟩
      (s.dmaKill n).flushProd (.dma n)
    else s) s
  let ms := s.macsOf p
  { s with fdb := s.fdb.filter (fun e => !(ms.contains e.2.port)) }

/-- Steps 1 to 4 of R446 for units, partitions and a kind. -/
def State.resetSteps (s : State) (k : RKind) (us ps : List Nat) : State :=
  let b := s
  let cs := ps.flatMap s.carriersOf
  let tr := ps.flatMap s.trigsOf
  let s := ps.foldl (fun s p => ({ s.setEntN (Key.rstPtStat p) psReset with petRaw := s.petRaw.filter (fun e => e.1 % 8 != p), loadQueue := s.loadQueue.filter (· != p) }).hoReset p) s
  let s := ((s.absent us).dropWork us)
  let s := tr.foldl (fun s u => s.ttDefaultK u) s
  let errs := fun (s : State) (e : Nat) => s.entN (Key.hndErrors e)
  let before := (List.range 8).map (errs s)
  let s := us.foldl (fun s u => s.abortUnit us u) s
  let lost := (List.range 8).map (fun e => (e, errs s e - before.getD e 0))
  let shared := ps.any (fun p => (List.range 128).any (fun v => s.flag (Key.ethVlan v) 63 && s.fld (Key.ethVlan v) 62 59 == p))
  let s := (s.dropEntries (fun r ix _ => defaultsAt k r.cls && ps.any (fun p => s.shareOf p r ix)))
  let s := ps.foldl State.releaseShares s
  let s := cs.foldl State.carrierClear s
  let s := s.defaultScope k us cs
  let s := lost.foldl (fun s q => if errs s q.1 < q.2 then s.setEntN (Key.hndErrors q.1) q.2 else s) s
  let s := us.foldl (fun s u => if unitKind u = 1 then s.setTl u tileInit else s) s
  let s := s.noteDefaulted (allUnits.filter (fun u => us.contains u || (u == 1012 && !tr.isEmpty) ||
    (u == 1020 && (!cs.isEmpty || shared)))) (classesAt k) k.rank
  s.dialectsSince b

/-! Requests (R448) -/

/-- A request as a word in the layout of `RST_LAST`, with what became of it. -/
def resetWord (k : RKind) (source target code : Nat) : U64 :=
  w64 (k.rank * 2 ^ 60 + source * 2 ^ 56 + target % 4096 * 2 ^ 44 + code)

/-- Whether a reset in progress covers a request: same or stronger kind, every unit. -/
def ResetJob.covers (j : ResetJob) (k : RKind) (us : List Nat) : Bool :=
  decide (k.rank ≤ j.kind.rank) && (decide (2 ≤ j.kind.rank) || us.all j.scope.contains)

/-- Firmware trials that a reset of partitions ends (R527). -/
def State.endTrials (s : State) (ps : List Nat) : State :=
  ps.foldl (fun s p =>
    match tfind s.trialStart p with
    | some _ =>
      let slot := 1 - b01 (s.flag (Key.fwCfg p) 63)
      ({ s with trialStart := tdel s.trialStart p }.ownCommit [(Key.fwCfg p, setBit (s.ent (Key.fwCfg p)) 62 false)]).record 0xB1
        [w64 p, w64 slot, 0]
    | none => s) s

/-- A UNIT or PART reset is requested (R448): the state, and whether it was absorbed. `ps` names partitions and whether each is
then held. -/
def State.requestReset (s : State) (k : RKind) (target source : Nat) (us : List Nat) (ps : List (Nat × Bool)) : State × Bool :=
  let w := resetWord k source target
  match s.resetJob with
  | none =>
    let s := s.endTrials (ps.map (·.1))
    let pu := ps.map (·.1)
    ({ s.resetSteps k us (ps.map (·.1)) with resetJob := some ⟨k, target, source, us, ps, [], pu⟩ }, false)
  | some j =>
    if j.covers k us ∧ ps.all (fun p => j.parts.any (fun q => q.1 == p.1) || decide (2 ≤ j.kind.rank)) then
      ({ s with resetJob := some { j with named := j.named ++ [w 1] } }, true)
    else
      let s := s.endTrials (ps.map (·.1))
      let pu := ps.map (·.1)
      let s := s.resetSteps k us (ps.map (·.1))
      let scope := allUnits.filter (fun u => us.contains u || j.scope.contains u)
      let parts := ps ++ j.parts.filter (fun q => !(ps.any (fun p => p.1 == q.1)))
      let pu := pu ++ j.purges.filter (fun p => !(pu.contains p))
      if j.kind.rank ≤ k.rank then
        ({ s with resetJob := some ⟨k, target, source, scope, parts, j.named ++ [resetWord j.kind j.source j.target 2], pu⟩ }, false)
      else ({ s with resetJob := some { j with scope := scope, parts := parts, named := j.named ++ [w 2], purges := pu } }, false)

/-- The units of a UNIT reset (R444): a reset of a pack's Kennel, DMA or Groomer instance resets the pack. -/
def unitScope (u : Nat) : List Nat :=
  unitsUnder (if unitKind u = 4 ∧ 19 ≤ (u - 584) % 32 then packUnit ((u - 584) / 32) else u)

/-- The units of partition p: its packs, control cores and MACs, and what lies in them (R444). -/
def State.partUnits (s : State) (p : Nat) : List Nat :=
  allUnits.filter (fun u => (s.packsOf p).any (fun q => unitUnder (packUnit q) u) || (s.coresOf p).any (fun c => u == coreUnit c) ||
    (s.macsOf p).any (fun m => u == macUnit m))

/-- Whether UNIT and PART resets can be requested now: the boot has reached START and the device is not in HOLD. -/
def State.resettable (s : State) : Bool := s.phase == phStart || s.phase == phReady

/-- A UNIT reset is requested by a writer or by Sheepdog. -/
def State.unitReset (s : State) (u source : Nat) : State × Bool :=
  if s.resettable then s.requestReset .unit u source (unitScope u) [] else (s, true)

/-- A PART reset of p is requested; `hold` for OP PART_HOLD. -/
def State.partReset (s : State) (p source : Nat) (hold : Bool) : State × Bool :=
  if s.resettable then s.requestReset .part p source (s.partUnits p) [(p, hold)] else (s, true)

/-! Release -/

/-- Whether a unit is to stay in reset now (R23, R455, R446): fenced; a pack in no partition, in P3, or of a partition held;
a core unless its partition's firmware runs; a MAC in no partition or of one held. -/
def State.mustHold (s : State) (u : Nat) : Bool :=
  let held := fun (o : Option Nat) => match o with | some p => s.partState p == psHeld | none => true
  (s.un u).fenced || s.dev == .hold ||
  match unitKind u with
  | 5 => (match s.partOfCore (u - 840) with | some p => s.partState p != psRunning | none => true)
  | 7 => held (s.partOfMac (u - 864))
  | _ => match unitPack u with
    | some q => (s.un (packUnit q)).fenced || held (s.partOfPack q) || s.packP q == 3
    | none => false

/-- Tiles out of reset with RUN set start (R164). -/
def State.startTiles (s : State) (us : List Nat) : State :=
  us.foldl (fun s u => if unitKind u = 1 ∧ s.flag (Key.pxCtl u) 0 ∧ (s.tl u).st = .reset ∧ s.mayRun u then s.startTile u else s) s

/-- Units are released where nothing holds them (step 5 of R446); octets take the SDREF selection and start, ports of Gelpel
train, requesters are present again. -/
def State.releaseUnits (s : State) (us : List Nat) : State :=
  let us := us.filter (fun u => !(s.mustHold u))
  let s := us.foldl (fun s u => s.setUn u { s.un u with released := true }) s
  let s := s.startTiles us
  let s := us.foldl (fun s u =>
    match unitKind u with
    | 8 => { s with sdref := tput s.sdref (u - 992) (s.entN (Key.clkSdrefSel (u - 992))) }.octetStart (u - 992)
    | 9 => s.gplTrain (u - 1008)
    | _ => s) s
  (List.range 24).foldl (fun s r => if s.present r then s.unmaskReq r else s) s

/-- The SEQ that the next record with a payload of so many bytes takes (R513). -/
def State.nextSeq (s : State) (len : Nat) : Nat :=
  if s.lostRun ≠ 0 ∧ s.stagedBytes + recSize 16 + recSize len ≤ 65536 then (s.evSeq + 1) % 2 ^ 24 else s.evSeq

/-- The reset in progress completes: RST_LAST, RST_COUNT and its record (R420, R448). -/
def State.noteReset (s : State) (j : ResetJob) : State :=
  let ns := j.named.take 32
  let last := resetWord j.kind j.source j.target (s.nextSeq (16 + 8 * ns.length))
  let s := (s.setEnt Key.rstLast last).record 5 ([last, w64 j.named.length] ++ ns)
  let s := match j.kind with
    | .unit => s.incSat Key.rstCount 63 48 1
    | .part => s.incSat Key.rstCount 47 32 1
    | .warm => s.incSat Key.rstCount 31 16 1
    | _ => s
  { s with resetJob := none }

end Sys2Proof.Machine
end

