-- ==== Sys2Proof/Machine/BootCore.lean ====
section
/-!
DEFINITION. BootCore.lean: the loading of firmware (R457, R519 to R528), HOLD (R460), the phases of the boot (R452, R453, R458,
R459), the N image and the recorder at a reset (R438, R451, R512, R514, R579), and WARM, PIN and POR (R444, R447).
-/
namespace Sys2Proof.Machine

/-! Octet strings and the flash -/

/-- The first n bytes of an OCTETS object whose slots have keys f 0, f 1, … (R414). -/
def State.octs (s : State) (f : Nat → Nat) (n : Nat) : List Byte :=
  ((List.range ((n + 7) / 8)).flatMap (fun i => leBytes 8 (s.entN (f i)))).take n
/-- An OCTETS object takes bytes. -/
def State.setOcts (s : State) (f : Nat → Nat) (bs : List Byte) : State :=
  (bytesWords ((bs.length + 7) / 8) bs).foldl (fun (a : State × Nat) w => (a.1.setEnt (f a.2) w, a.2 + 1)) (s, 0) |>.1

/-- Bytes of the boot flash; an erased byte reads 0xFF. -/
def State.flashBytes (s : State) (a n : Nat) : List Byte := (List.range n).map (fun i => tget 0xFF s.flash (a + i))

/-! Loading (R522, R523) -/

/-- Results of an attempt (`FW_PTp_STAT`). -/
def frOk : Nat := 0
def frNoImage : Nat := 1
def frHeader : Nat := 2
def frKey : Nat := 3
def frSig : Nat := 4
def frSvn : Nat := 5
def frDialect : Nat := 6
def frSegment : Nat := 7
def frHash : Nat := 8
def frFlash : Nat := 9

/-- Byte offset of partition p's slot in the flash (`FW_PTp_SLOT`). -/
def State.fwSlotAt (s : State) (p slot : Nat) : Nat := (if slot = 0 then s.fld (Key.fwSlot p) 31 16 else s.fld (Key.fwSlot p) 15 0) * 65536
/-- Big-endian field of a header. -/
def hdrN (h : List Byte) (o n : Nat) : Nat := beNat ((h.drop o).take n)
/-- Segments of a header: DEST, OFFSET, LENGTH. -/
def hdrSegs (h : List Byte) : List (Nat × Nat × Nat) :=
  (List.range (hdrN h 20 1)).map (fun i => (hdrN h (96 + 16 * i) 8 % 2 ^ 40, hdrN h (104 + 16 * i) 4, hdrN h (108 + 16 * i) 4))

/-- Checks 1 to 7 of R522 on a slot. -/
def State.fwCheck (s : State) (p slot : Nat) : Nat :=
  let a := s.fwSlotAt p slot
  let h := s.flashBytes a 512
  let len := hdrN h 16 4
  let ks := hdrN h 21 1
  let key := s.octs (Key.secFwKey ks) 57
  let d := hdrN h 6 2
  let ds := s.groupDialects ++ [d]
  let base := s.fld (Key.prtHbm p) 31 16 * 0x1000000
  let size := s.fld (Key.prtHbm p) 15 0 * 0x1000000
  if a = 0 then frNoImage
  else if hdrN h 0 4 ≠ 0x42543946 ∨ hdrN h 4 2 ≠ 1 ∨ hdrN h 20 1 = 0 ∨ 16 < hdrN h 20 1 ∨ len = 0 ∨ 67108864 < len ∨ hdrN h 22 2 ≠ 0 ∨
      hdrN h 352 46 ≠ 0 then frHeader
  else if 4 ≤ ks ∨ key.all (· == 0) then frKey
  else if !(ed448Verify key (ascii "BT9-FW") (h.take 398) (h.drop 398)) then frSig
  else if hdrN h 12 4 < s.entN Key.secSvnFloor then frSvn
  else if leastOf ds + 2 < greatestOf ds then frDialect
  else if (hdrSegs h).any (fun g => len < g.2.1 + g.2.2 || g.1 < base || base + size < g.1 + g.2.2) then frSegment
  else frOk

/-- One attempt to load a slot: its result; the segments are copied before the hash is known (check 8). -/
def State.fwAttempt (s : State) (p slot : Nat) (health : FlashHealth) : State × Nat :=
  let a := s.fwSlotAt p slot
  let h := s.flashBytes a 512
  let (s, r) :=
    if health = .readError ∧ a ≠ 0 then (s, frFlash)
    else
      let r := s.fwCheck p slot
      if r ≠ frOk then (s, r)
      else
        let s := (hdrSegs h).foldl (fun s g => s.store g.1 (s.flashBytes (a + 512 + g.2.1) g.2.2)) s
        (s, if shake 64 (s.flashBytes (a + 512) (hdrN h 16 4)) = (h.drop 32).take 64 then frOk else frHash)
  let known := decide (a ≠ 0) && r != frFlash
  let f := fun o n => if known then w64 (hdrN h o n) else 0
  let s := if slot = 0 then s.setFld (Key.fwStat p) 63 56 r else s.setFld (Key.fwStat p) 55 48 r
  (s.record 0xB0 [w64 p, w64 slot, w64 r, f 8 4, f 6 2, f 12 4], r)

/-- A trial ends without confirmation (R527): TRIAL clears in a commit, with its record. -/
def State.rollback (s : State) (p cause : Nat) : State :=
  let slot := 1 - b01 (s.flag (Key.fwCfg p) 63)
  ({ s with trialStart := tdel s.trialStart p }.ownCommit [(Key.fwCfg p, setBit (s.ent (Key.fwCfg p)) 62 false)]).record 0xB1
    [w64 p, w64 slot, w64 cause]

/-- The image of a slot starts (R523): measurement, status, cores released at ENTRY in machine mode, STATE RUNNING. -/
def State.fwStart (s : State) (p slot : Nat) (trial : Bool) : State :=
  let b := s
  let h := s.flashBytes (s.fwSlotAt p slot) 512
  let s := s.setOcts (Key.fwMeas p) (shake 64 h)
  let s := ((s.setFlag (Key.fwStat p) 40 (slot == 1)).setFld (Key.fwStat p) 31 16 (hdrN h 6 2)).setEntN (Key.fwVer p) (hdrN h 8 4 * 2 ^ 32 + hdrN h 12 4)
  let s := { s.setPartState p psRunning with
    loadSlot := tput s.loadSlot p slot
    petRaw := tput (tdel s.petRaw (8 + p)) p s.raw.toNat
    trialStart := if trial then tput s.trialStart p s.raw.toNat else s.trialStart }
  let cs := (s.coresOf p).filter (fun c => !((s.un (coreUnit c)).fenced))
  let s := cs.foldl (fun s c => { s with
    core := tput s.core c (⟨true, false, w64 (hdrN h 24 8 % 2 ^ 40), .machine, w64 p, w64 c, w64 slot⟩ : Core) }) s
  (s.releaseUnits (cs.map coreUnit)).dialectsSince b

/-- Partition p is loaded (R522, R525, R527, R528): the trial slot, the forced slot or ACTIVE, and once the other. -/
def State.fwLoad (s : State) (p : Nat) (health : FlashHealth) : State :=
  let active := b01 (s.flag (Key.fwCfg p) 63)
  let forced := s.bootsel = 1 ∨ s.bootsel = 2
  let trial := s.flag (Key.fwCfg p) 62 && !(decide forced)
  let first := if s.bootsel = 1 then 0 else if s.bootsel = 2 then 1 else if trial then 1 - active else active
  let s := { s.setEntN (Key.fwStat p) (0xFFFF * 2 ^ 48) with loadSlot := tdel s.loadSlot p }
  let (s, r) := s.fwAttempt p first health
  if r = frOk then s.fwStart p first trial
  else
    let s := if trial then s.rollback p 2 else s
    let (s, r) := s.fwAttempt p (1 - first) health
    if r = frOk then s.fwStart p (1 - first) false else s.setEntN (Key.rstPtStat p) psNone

/-- Whether a partition can be started (R457): one of its packs is not fenced. -/
def State.startable (s : State) (p : Nat) : Bool := (s.packsOf p).any (fun q => !((s.un (packUnit q)).fenced))

/-- The next partition in the queue is LOADING: its boot region is entered first (R519). -/
def State.loadNext (s : State) : State :=
  match s.loadQueue with
  | p :: _ =>
    if s.partState p = psLoading then s
    else
      let h := s.entN (Key.prtHbm p)
      (s.setEntN (Key.rstPtStat p) psLoading).setEntN (Key.memHbmRegion p) (2 ^ 63 + p * 2 ^ 58 + h)
  | [] => s

/-- Partitions are queued for loading, in ascending order (R524); those that cannot start read NONE. -/
def State.queueLoads (s : State) (ps : List Nat) : State :=
  let ok := ps.filter s.startable
  let s := (ps.filter (fun p => !(ok.contains p))).foldl (fun s p => s.setEntN (Key.rstPtStat p) psNone) s
  { s with loadQueue := s.loadQueue ++ ok }.loadNext

/-! HOLD (R460) -/

def hcCommon : Nat := 1
def hcPolicy : Nat := 2
def hcNoFw : Nat := 3
def hcClkref : Nat := 4
def hcSupply : Nat := 5
def hcCommand : Nat := 6

/-- The root island writes to the UART while no partition owns it (R561). -/
def State.uartWrite (s : State) (w : UartWord) : State :=
  if s.fld Key.pinUartCfg 31 24 = 0xFF then { s with uart := s.uart ++ [w] } else s

/-- A boot phase is reached (R452); the root island, which runs from ROM on, writes it to the UART. -/
def State.setPhase (s : State) (x : Nat) : State :=
  let s := s.setFld Key.rstBootStat 63 60 x
  if x = phReset then s else s.uartWrite (.phase x)

/-- ms since the boot began, in a field of RST_BOOT_TIME. -/
def State.bootTime (s : State) (hi lo : Nat) : State :=
  s.setFld Key.rstBootTime hi lo (min 65535 ((s.raw.toNat - s.bootRaw) / 491520))

/-- The BOOT record (R452, R458). -/
def State.bootRecord (s : State) : State := s.record 3 [s.ent Key.rstBootStat, s.ent Key.rstBootTime]

/-- The flow engine's purge of partition p (R334): rings disabled, its entries, contexts, profiles and pool released and
recorded. -/
def State.purgePart (s : State) (p : Nat) : State :=
  let s := (List.range 256).foldl (fun s n =>
    if s.flag (Key.flRingCfg n) 63 ∧ s.fld (Key.flRingCfg n) 60 57 = p then s.setFlag (Key.flRingCfg n) 63 false else s) s
  let peers := (List.range 256).countP (fun n => s.fld (Key.flPeer n 7) 3 0 == p && (List.range 8).any (fun w => s.ent (Key.flPeer n w) != 0))
  let bufs := s.fld (Key.flPool p) 63 48 * 64
  let (s, c, e) := s.flPurge p
  (s.noteDefaulted [856] 4 dcPurge).record 0xA0 [w64 p, w64 e, w64 c, w64 peers, w64 bufs]

/-- One partition is held at once, as OP PART_HOLD does. -/
def State.holdPart (s : State) (p source : Nat) : State :=
  let us := s.partUnits p
  let s := (s.endTrials [p]).resetSteps .part us [p]
  let s := s.purgePart p
  (s.setEntN (Key.rstPtStat p) psHeld).noteReset ⟨.part, p, source, us, [], [], []⟩

/-- Both counts are committed (R512); not during a supply warning. -/
def State.commitOpsec (s : State) : State :=
  if s.warn then s else { s.setEntN Key.evrOpsec (min (2 ^ 40 - 1) s.opsec) with pwrcycSt := s.pwrcyc }

/-- The device enters HOLD (R460): every partition stops, then the table The device in HOLD applies. -/
def State.enterHold (s : State) (cause : Nat) : State :=
  let boot := s.phase < phReady
  let job := s.resetJob
  let s := { s with resetJob := none, loadQueue := [] }
  let s := match job with | some j => s.noteReset j | none => s
  let s := ((List.range 8).filter (fun p => !((s.partUnits p).isEmpty) && s.partState p != psNone && s.partState p != psHeld)).foldl
    (fun s p => s.holdPart p 6) s
  let s := (List.range 16).foldl (fun s o => s.octetIdle o 4) s
  let s := (List.range 4).foldl State.gplDown s
  let us := allUnits.filter (fun u => unitKind u == 5 || (unitPack u).isSome)
  let s := s.absent us
  let s := { s with dev := .hold, guardLead := false, pwr := [], emergencies := [], ppsOut := false, faultN := false, heartHz := 8
                    packPower := (List.range 8).map (fun p => (p, 3)) }
  let s := { s with synceLow := [(0, true), (1, true)] }
  let s := (((s.setPhase phHold).setFld Key.rstBootStat 59 56 cause).uartWrite (.holdCause cause)).commitOpsec
  let s := s.record 7 [w64 cause]
  if boot then s.bootRecord else s

/-! Phases -/

/-- PHASE READY (R452, R453): every partition holding firmware has READY set; L4 is armed. -/
def State.checkReady (s : State) : State :=
  if s.phase = phStart ∧ (List.range 8).all (fun p => !(s.holdsFw p) || s.flag (Key.rstPtStat p) 63) then
    ({ (s.setPhase phReady).bootTime 15 0 with faultN := true, heartHz := 1000, l4Last := s.raw.toNat }).bootRecord
  else s

/-- Loading has ended (R452, R457): START, or HOLD where no partition runs. -/
def State.enterStart (s : State) : State :=
  if (List.range 8).all (fun p => s.partState p != psRunning) then
    let s := (List.range 8).foldl (fun s p => if (s.partUnits p).isEmpty then s else s.setEntN (Key.rstPtStat p) psHeld) s
    s.enterHold hcNoFw
  else
    let s := (s.setPhase phStart).bootTime 31 16
    let s := match s.resetJob with | some j => s.noteReset j | none => s
    (s.releaseUnits allUnits).checkReady

/-- PHASE LOAD begins (R452, R528): BOOTSEL 0b111 ends in HOLD; otherwise every partition with units is queued. -/
def State.enterLoad (s : State) : State :=
  if s.bootsel = 7 then s.enterHold hcCommand
  else
    let s := { s.setPhase phLoad with
      packPower := (List.range 8).map (fun p => (p, if (s.un (packUnit p)).fenced || (s.partOfPack p).isNone then 3 else 0))
      packReq := ((List.range 8).filter (fun p => (s.un (packUnit p)).fenced || (s.partOfPack p).isNone)).map (fun p => (p, 3))
      dev := .run, thermalDormant := false }
    let s := s.queueLoads ((List.range 8).filter (fun p => !((s.partUnits p).isEmpty)))
    if s.loadQueue.isEmpty then s.enterStart else s

/-! The root island after a reset -/

/-- The newest record of the ring; OPSEC and PWRCYC of a record. -/
def State.newestRec (s : State) : Option RingRec := s.ring.getLast?
def State.recOpsec (s : State) (r : RingRec) : Nat := leNat (s.bytes (Sys2Proof.Machine.ringBase + r.block * 4096 + r.off + 4) 5)
def State.recPwrcyc (s : State) (r : RingRec) : Nat := leNat (s.bytes (Sys2Proof.Machine.ringBase + r.block * 4096 + r.off + 9) 4)

/-- The recorder's counts at the first run after a POR of the always-on domain (R512, R514, R579). -/
def State.recorderBoot (s : State) : State :=
  if s.aonPor then
    let (o, c) := match (s.ring.filter (fun r => !r.torn)).getLast? with
      | some r => (s.recOpsec r, s.recPwrcyc r)
      | none => (0, 0)
    let q := match s.newestRec with | some r => r.seq + 1 | none => 0
    { s.setEntN Key.evrPwrcyc (min (2 ^ 32 - 1) (max s.pwrcycSt c + 1)) with
      aonPor := false
      opsec := max (s.entN Key.evrOpsec) o + 1
      evSeq := q % 2 ^ 24
      staged := [], lostRun := 0, lostFirst := 0 }
  else s

/-- Whether an entry belongs to the N image (R437): class N, other than the counters committed beside it. -/
def inImage (k : Nat) : Bool :=
  match lookupObj k with
  | some (r, _) => r.cls == .n && (match r.id with | .evrOpsec | .evrPwrcyc | .pwrHours => false | _ => true)
  | none => false

/-- R438: the valid copy of the newer generation is in force, the other is rewritten from it; with none, every N entry is at its
default, and LOST says so. -/
def State.nvBoot (s : State) : State :=
  let c := s.nvNow
  let s := { s with od := tdrop s.od inImage, commits := [] }
  if s.nvA.valid ∨ s.nvB.valid then
    { c.entries.foldl (fun s e => s.setEnt e.1 e.2) s with nvA := c, nvB := c }
  else
    let e : NvCopy := ⟨true, 0, []⟩
    ({ s.setFlag Key.odNvStat 2 true with nvA := e, nvB := e }).noteDefaulted [1020] 1 dcNvLost

/-- The ROM phase (R452, R438, R451): the root island runs; the reset's defaulting is recorded. -/
def State.romPhase (s : State) : State :=
  let k := (s.resetJob.map (·.kind)).getD .por
  let s := s.recorderBoot.nvBoot
  let s := if 3 ≤ k.rank then s.noteDefaultAll k else s.noteDefaulted allUnits (classesAt k) k.rank
  { (s.uartWrite (.phase phRom)).bootTime 63 48 with heartHz := 8 }

/-! WARM, PIN and POR -/

/-- Memories of the always-on domain (R447): the root island's SRAM and the recorder's staging. -/
def keepsInner (a : Nat) : Bool := isInner a && (innerClass a == 9 || innerClass a == 10)
/-- Whether an address is in memory that a reset of a kind leaves (R447): HBM and MRAM. -/
def keepsMem (a : Nat) : Bool :=
  match regionOf a with
  | .hbm | .mram => true
  | _ => keepsInner a

/-- On-die SRAM outside the always-on domain holds zero with good parity (R447). -/
def State.zeroSram (s : State) : State :=
  { s with mem := s.mem.filter (fun c => keepsMem c.1)
           poison := tdrop s.poison (fun w => !(keepsMem (8 * w)))
           fresh := tdrop s.fresh (fun a => !(keepsMem a)) }

/-- Every memory but MRAM holds zero with good parity: what self-test leaves (R447). -/
def State.zeroAll (s : State) : State :=
  let mr := fun a => match regionOf a with | .mram => true | _ => keepsInner a
  { s with mem := s.mem.filter (fun c => mr c.1)
           anchor := []
           poison := tdrop s.poison (fun w => !(mr (8 * w)))
           fresh := tdrop s.fresh (fun a => !(mr a)) }

/-- Everything outside the always-on domain, the memories and the entries starts anew. -/
def State.clearDomain (s : State) : State :=
  { s with
    bank := [], hold := [], staging := [], merges := [], refetch := [], capSlots := [], capFifo := [], capPopped := []
    live := [], trig := [], slotDue := [], kennel := [], outq := [], carrier := [], tile := [], packStop := [], core := [], port := [], irq := []
    chan := [], engine := [], point := [], hound := [], job := [], accelBusy := [], tx := [], txGates := [], paChecks := []
    bank8 := [], lateSlot := [], decode := [], flow := [], stash := [], ctxCache := [], ringTaken := [], laneAdv := [], laneIdle := [], laneAt := [], rx := [], mac := [], stream := []
    cpriTx := [], cpSent := [], fdb := [], epTold := [], epTime := [], session := [], handshake := [], commits := []
    packReq := [], pwr := [], guardLead := false, loadQueue := [], loadSlot := [], l2 := [], petRaw := []
    segment := [], segNext := [], segHead := [], retests := [], hoT := [], hoChecked := [], flashOp := none, gelpel := []
    ppsOut := false, heartbeat := false, heartHz := 0, faultN := false, i2cBusy := []
    unit := s.unit.map (fun e => (e.1, { e.2 with released := false, lame := false, probeDue := false, retest := false, retestFail := none })) }

/-- Entries that say what self-test and the clocks found: they stand until the next self-test, and while the clocks run. -/
def keepsEntry (k : RKind) (r : Row) : Bool :=
  match r.id with
  | .clkStatus => true
  | .rstPost | .rstPostTiles | .rstPostCc | .rstPostLanes | .idCapacity | .memHbmStat => k == .warm
  | _ => false

/-- Every entry defaults as a kind states (R449), but for those that keepsEntry names. -/
def State.deviceDefaults (s : State) (k : RKind) (aon : Bool) : State :=
  s.dropEntries (fun r _ _ => defaultsAt k r.cls && (aon || !(keepsEntry k r)))

/-- The job of a device reset, naming the requests it takes over (R448). -/
def State.deviceJob (s : State) (k : RKind) (source : Nat) : ResetJob :=
  let named := match s.resetJob with | some j => j.named ++ [resetWord j.kind j.source j.target 2] | none => []
  ⟨k, 1020, source, [], [], named, []⟩

/-- A WARM, PIN or POR reset's work up to the ROM phase: trials end, handovers are gone, memories as R447 states. -/
def State.deviceReset (s : State) (k : RKind) (source : Nat) (aon : Bool) : State :=
  let job := s.deviceJob k source
  let s := (s.endTrials (List.range 8)).tableClear
  let s := ({ s.clearDomain with resetJob := some job }.zeroSram).deviceDefaults k aon
  let s := { s with
    dev := .run, thermalDormant := false
    stackIntlv := s.flag Key.memHbmCfg 0
    mgtRuns := BitVec.ofNat 2 (s.fld Key.pinMgtCfg 1 0)
    resTold := if 3 ≤ k.rank then [] else s.resTold
    unit := if 3 ≤ k.rank then s.unit.map (fun e => (e.1, { e.2 with quar := false, autoReturn := false })) else s.unit
    shdTold := if 3 ≤ k.rank then [] else s.shdTold }
  (List.range 24).foldl State.maskReq s

/-- A WARM reset (R458): ROM, SRAM initialisation, then LOAD; with WARM_POST, or an L4 expiry that asks for it, the full self-test. -/
def State.warmReset (s : State) (source : Nat) : State :=
  let post := s.flag Key.rstBootPolicy 62 || s.postNext
  let s := s.deviceReset .warm source false
  let s := { s with bootRaw := s.raw.toNat, postNext := false }.romPhase
  if post then s.setPhase phPost else s.enterLoad

/-- The boot goes on from the ROM row (R452, R459). -/
def State.bootFromRom (s : State) : State := s.romPhase.setPhase phPost

end Sys2Proof.Machine
end

