-- ==== Sys2Proof/Machine/SheepCore.lean ====
section
/-!
DEFINITION. SheepCore.lean: Sheepdog's ladders (R492, R497 to R502), quarantine (R503) and return to service (R504, R505).
-/
namespace Sys2Proof.Machine

/-- Configuration word of a level. -/
def shdCfg (l : Nat) : Nat :=
  match l with | 0 => Key.shdL0Cfg | 1 => Key.shdL1Cfg | 2 => Key.shdL2Cfg | 3 => Key.shdL3Cfg | _ => Key.shdL4Cfg

/-- Number of a charged unit in records, and its key among the told ones. -/
def chargeNo : ChargedUnit → Nat
  | .unit u => u.val | .carrier c => c.val | .part p => p.val
def chargeKey (l : Nat) (x : ChargedUnit) : Nat := ((l * 4 + x.ctorIdx) * 1024 + chargeNo x) * 4

/-- STEP and COUNT of a level for what is charged (R498): a byte of SHD_Un_STAT, SHD_L2_LADDER, or a partition's own. -/
def State.ladder (s : State) (l : Nat) (x : ChargedUnit) : Nat × Nat :=
  let b := match x with
    | .unit u => s.fld (Key.shdStat u.val) (8 * l + 7) (8 * l)
    | .carrier c => s.fld (Key.shdL2Ladder c.val) 7 0
    | .part p => tget 0 s.shdPart p.val
  (b / 64, b % 64)
def State.setLadder (s : State) (l : Nat) (x : ChargedUnit) (step count : Nat) : State :=
  let b := step % 4 * 64 + count % 64
  match x with
  | .unit u => s.setFld (Key.shdStat u.val) (8 * l + 7) (8 * l) b
  | .carrier c => s.setFld (Key.shdL2Ladder c.val) 7 0 b
  | .part p => { s with shdPart := if b = 0 then tdel s.shdPart p.val else tput s.shdPart p.val b }

/-! Quarantine (R499, R503) -/

/-- Whether QUARANTINE applies to a unit (R499). -/
def State.mayQuarantine (s : State) (u : Nat) : Bool :=
  unitKind u != 0 && u != 856 && !(decide (1012 ≤ u) && decide (u ≤ 1020)) &&
  (unitKind u != 5 || (match s.partOfCore (u - 840) with
    | some p => ((s.coresOf p).filter (fun c => c != u - 840 && decide (s.health (coreUnit c) ≤ 2))) != []
    | none => true))

/-- A unit is quarantined (R503): what it runs ends ABORTED, its clocks stop, its requests are masked, its lanes are idle. -/
def State.quarantine (s : State) (u cause : Nat) (auto : Bool) : State :=
  if (s.un u).quar then s
  else
    let s := s.setUn u { s.un u with quar := true, retest := false, autoReturn := auto, quarSince := s.raw.toNat }
    let s := (s.setEntN (Key.shdQuar u) (2 ^ 63 + cause * 2 ^ 60)).incSat (Key.shdStat u) 47 40 1
    let s := (unitsUnder u).foldl (fun s v =>
      match unitKind v with
      | 1 => (s.abortOn v).untask v
      | 4 => if h : (v - 584) / 32 < 8 ∧ (v - 584) % 32 < 17 then (s.abortJob ⟨_, h.1⟩ ⟨_, h.2⟩).abortOn v else s
      | 5 => s.abortOn v
      | _ => s) s
    let s := if unitKind u = 8 then s.octetIdle (u - 992) 4 else s
    let s := if unitKind u = 9 then s.gplDown (u - 1008) else s
    (List.range 24).foldl (fun s r => if s.present r then s else s.maskReq r) s

/-- The Sheepdog interrupt (R502). -/
def State.sheepIrq (s : State) : State := s.setIrq .sheepdog (s.entN Key.shdIrqCore) true

/-! The ladder -/

/-- Actions of `SHD_Un_LAST`. -/
def saAbort : Nat := 0
def saRetry : Nat := 1
def saCounted : Nat := 5

/-- Whether an escalation step applies (R497, R499): 1 QUARANTINE, 2 PART, 3 WARM. -/
def State.stepApplies (s : State) (l : Nat) (x : ChargedUnit) (step : Nat) : Bool :=
  match step with
  | 1 => (match x with | .unit u => l != 4 && s.mayQuarantine u.val | .carrier _ => true | .part _ => false)
  | 2 => (match x with
    | .unit u => l != 4 && (s.partOfUnit u.val).isSome
    | .carrier c => (s.partOfCarrier c.val).isSome
    | .part _ => true)
  | 3 => true
  | _ => false

/-- An escalation step is taken. -/
def State.takeStep (s : State) (l : Nat) (x : ChargedUnit) (step : Nat) : State :=
  match step with
  | 1 => (match x with
    | .unit u => s.quarantine u.val (if l = 0 then 1 else 2) true
    | .carrier c => (s.setFlag (Key.knPlanCfg c.val) 63 false).setFlag (Key.shdL2Stat c.val) 0 true
    | .part _ => s)
  | 2 =>
    (match (match x with | .unit u => s.partOfUnit u.val | .carrier c => s.partOfCarrier c.val | .part p => some p.val) with
      | some p => (s.partReset p 1 false).1
      | none => s)
  | _ => s.warmReset 1

/-- SHD_Un_LAST of a charged unit (R502). -/
def State.setShdLast (s : State) (x : ChargedUnit) (w : U64) : State :=
  match x with
  | .unit u => s.setEnt (Key.shdLast u.val) w
  | _ => s

/-- An expiry without an escalation step is recorded (R502): at most one record for each level and unit in a second, with the
count since the previous one. -/
def State.noteExpiry (s : State) (l : Nat) (x : ChargedUnit) (action info : Nat) : State :=
  let k := chargeKey l x
  let last := tget 0 s.shdTold k
  let n := tget 0 s.shdTold (k + 1) + 1
  let word := fun seq => w64 (l * 2 ^ 60 + action * 2 ^ 56 + seq * 2 ^ 32 + info % 2 ^ 32)
  if last = 0 ∨ last - 1 + secTicks ≤ s.raw.toNat then
    let q := s.nextSeq 32
    let s := { s with shdTold := tput (tput (tput s.shdTold k (s.raw.toNat + 1)) (k + 1) 0) (k + 2) q }
    (s.setShdLast x (word q)).record 0x80 [w64 l, w64 (chargeNo x), w64 n, word q]
  else { s with shdTold := tput s.shdTold (k + 1) n }.setShdLast x (word (tget 0 s.shdTold (k + 2)))

/-- Whether an expiry changes no COUNT (R500). -/
def State.notCounted (s : State) (x : ChargedUnit) : Bool :=
  match x with
  | .unit u => (s.un u.val).quar || !((s.un u.val).released) ||
      (match s.resetJob with | some j => decide (2 ≤ j.kind.rank) || (j.kind == .part && j.scope.contains u.val) | none => false)
  | .part p => (match s.resetJob with | some j => decide (2 ≤ j.kind.rank) || j.parts.any (fun q => q.1 == p.val) | none => false)
  | .carrier _ => false

/-- One more than the raw value of the last expiry of a level and unit, 0 for none; whether WINDOW has passed without one (R498). -/
def State.shdLastAt (s : State) (l : Nat) (x : ChargedUnit) : Nat := tget 0 s.shdTold (chargeKey l x + 3)
def State.windowPassed (s : State) (l : Nat) (x : ChargedUnit) : Bool :=
  decide (s.shdLastAt l x + msTicks (bf (s.ent (shdCfg l)) 31 0) ≤ s.raw.toNat)

/-- SHD_ESCALATE (R498, R500, R502): an expiry at a level is charged, its ABORT or RETRY action taken. -/
def State.charge (s : State) (l : Nat) (x : ChargedUnit) (action info : Nat) : State :=
  let s := s.inc32 (Key.shdExpiries l) 1
  let s := match x with | .unit u => s.incSat (Key.shdStat u.val) 63 48 1 | _ => s
  let s := if s.windowPassed l x then s.setLadder l x 0 0 else s
  let s := { s with shdTold := tput s.shdTold (chargeKey l x + 3) (s.raw.toNat + 1) }
  if s.notCounted x then s.setShdLast x (w64 (l * 2 ^ 60 + saCounted * 2 ^ 56 +
    tget 0 s.shdTold (chargeKey l x + 2) * 2 ^ 32 + info % 2 ^ 32))
  else
    let cfg := s.ent (shdCfg l)
    let (step, count) := s.ladder l x
    if count + 1 < bf cfg 63 56 then (s.setLadder l x step (count + 1)).noteExpiry l x action info
    else
      let s := s.setLadder l x step 0
      match [1, 2, 3].find? (fun n => decide (step < n) && decide (n ≤ bf cfg 49 48) && s.stepApplies l x n) with
      | some n =>
        let s := s.setLadder l x n 0
        let q := s.nextSeq 40
        let s := (s.setShdLast x (w64 (l * 2 ^ 60 + (n + 1) * 2 ^ 56 + q * 2 ^ 32 + info % 2 ^ 32))).record 0x81
          [w64 l, w64 (chargeNo x), w64 (n + 1), 0, w64 n]
        s.sheepIrq.takeStep l x n
      | none => s.noteExpiry l x saCounted info

/-! Return to service (R504, R505) -/

/-- Whether the table Terrier segments has segments for a unit. -/
def hasSegments (u : Nat) : Bool :=
  match unitKind u with
  | 1 | 2 | 3 => true
  | 4 => decide ((u - 584) % 32 ≤ 16) || (u - 584) % 32 == 20
  | _ => u == 1013 

/-- A unit returns to service: its quarantine ends, and it receives a UNIT reset (R504). -/
def State.returnUnit (s : State) (u result : Nat) : State :=
  let s := s.setUn u { s.un u with quar := false, retest := false, autoReturn := false }
  let s := { s.setEntN (Key.shdQuar u) 0 with retests := s.retests.filter (· != u) }
  (s.record 0x82 [w64 u, w64 result]).unitReset u 1 |>.1

end Sys2Proof.Machine
end

