-- ==== Sys2Proof/Machine/Parity.lean ====
section
/-!
DEFINITION. Parity.lean: re-fetch and anchor failures (R391 to R393, R585), the remap table (R408, R409), merge flushes (R399), the
Groomer's and the scrubber's walks (R402 to R405), and the logs' records (R406).
-/
namespace Sys2Proof.Machine

/-- Anchor copy of an IM word (R391): its HBM address, none where EP_IM_ANCHOR is 0. -/
def State.anchorOf (s : State) (a : Nat) : Option Nat :=
  match regionOf a with
  | .im t => let b := s.fld (Key.epImAnchor t) 39 0; if b = 0 then none else some (b + (a - imAddr t 0))
  | _ => none

/-- Whether a word has a copy to be fetched again (R390): an IM word with an anchor, a word of classes 4, 6 and 8 with a device anchor
area, a clean line of classes 7 and 11. -/
def State.anchored (s : State) (a : Nat) : Bool :=
  if isInner a then (match innerClass a with | 4 | 6 | 8 => s.anchorArea != 0 | _ => true) else (s.anchorOf a).isSome

/-- An anchor failure is counted, told and reported to Sheepdog (R392, R585). -/
def State.reportAnchor (s : State) (c unit addr : Nat) : State :=
  let s := ((s.incSat (Key.epClassCnt c) 15 8 1).protectionIrq).record 0x61 [w64 c, w64 unit, w64 addr]
  if h : unit < 1024 then s.charge 0 (.unit ⟨unit, h⟩) saAbort addr else s

/-- An anchor failure (R392): the word is poisoned besides. -/
def State.anchorFail (s : State) (a : Nat) : State :=
  let u := memUnit s a
  let c := (memClass a).getD 0
  ((s.setPoison a).logError c 2 u (logAddr a)).reportAnchor c u (logAddr a)

/-- A fresh error in an anchored word is met (R391, R392): its re-fetch starts, or fails at once without an anchor. -/
def State.startRefetch (s : State) (w r : Nat) : State :=
  let a := 8 * w
  if s.refetch.any (fun q => q.1 == a) then s
  else if s.anchored a then { s with refetch := s.refetch ++ [(a, false, r)] }
  else s.anchorFail a

/-- A requester's read meets the fresh errors in n bytes (R390): IM words are re-fetched, the others poisoned. -/
def State.meetFresh (s : State) (r a n : Nat) : State :=
  (wordsOf a n).foldl (fun s w =>
    if s.freshWord w then (if memClass (8 * w) = some 0 then s.startRefetch w r else s.poisonWord w) else s) s

/-- A word is rewritten from its anchor copy with good parity (R391): where the copy can be read and is good. -/
def State.refetched (s : State) (a : Nat) (anchorOk : Bool) : Option State :=
  if isInner a then
    if anchorOk ∧ s.anchored a then some { s with fresh := tdrop s.fresh (fun i => i / 8 == a / 8) } else none
  else match s.anchorOf a with
    | some h => if anchorOk ∧ !(s.poisoned h) ∧ !(s.freshWord (h / 8)) then some (s.store a (s.bytes h 8)) else none
    | none => none

/-- ANCHOR_REFETCH_DONE (R391 to R393): the anchor read of a re-fetch returns. A tile that fetches from the word began it. -/
def execAnchorRefetchDone (a : BitVec 55) (anchorOk : Bool) (s : State) : Out :=
  let a := a.toNat / 8 * 8
  let fetching : Bool := match regionOf a with
    | .im t => (s.tl t).st == .running && s.freshWord (a / 8) && (s.tl t).pc.toNat / 8 * 8 + imAddr t 0 == a
    | _ => false
  let s := if fetching then s.startRefetch (a / 8) 19 else s
  .next (match s.refetch.find? (fun q => q.1 == a) with
    | some q =>
      let s := { s with refetch := s.refetch.filter (fun q => q.1 != a) }
      if q.2.1 then s
      else match s.refetched a anchorOk with
        | some t => t.noteCorrected ((memClass a).getD 0) (memUnit s a) (logAddr a)
        | none => s.anchorFail a
    | none => s)

/-- MERGE_FLUSH (R399): an entry that has not been written for 4,096 FCLK cycles. -/
def execMergeFlush (port : Nat) (block : Nat) (s : State) : Out :=
  .next (match s.merges.find? (fun m => m.port == port && m.block == block) with
    | some m => if m.lastRaw + 2048 ≤ s.raw.toNat then s.flushMerge m else s
    | none => s)

/-! Remapping (R408, R409) -/

/-- Classes that the remap table covers. -/
def remapClasses : List Nat := [5, 8, 9, 10]

/-- A word is remapped (R409): an entry is added and committed, or the table is full. -/
def State.remapNow (s : State) (c unit addr : Nat) : State :=
  let word := fun (spare : Nat) => c * 2 ^ 59 + unit % 4096 * 2 ^ 47 + spare * 2 ^ 40 + addr % 2 ^ 40
  match (List.range 8).find? (fun n => !(s.flag (Key.epRemap n) 63)) with
  | some n =>
    let v := w64 (2 ^ 63 + word n)
    let used := (List.range 8).countP (fun n => s.flag (Key.epRemap n) 63) + 1
    ((s.ownCommit [(Key.epRemap n, v), (Key.epRemapStat, setf (s.ent Key.epRemapStat) 15 8 used)]).record 0x62 [v, 0]).protectionIrq
  | none =>
    let s := (s.ownCommit [(Key.epRemapStat, setBit (s.ent Key.epRemapStat) 0 true)]).record 0x62 [w64 (word 0), 1]
    if h : unit < 1024 then s.charge 0 (.unit ⟨unit, h⟩) saAbort addr else s

/-- A remap addition, which waits during a supply warning (R410). -/
def State.remapAdd (s : State) (c unit addr : Nat) : State :=
  if !s.warn then s.remapNow c unit addr
  else if s.mramWaits.contains (.remap c unit addr) then s
  else s.mramWait (.remap c unit addr)

/-- Whether an entry of the remap table redirects a word. -/
def State.remapped (s : State) (c unit addr : Nat) : Bool :=
  (List.range 8).any (fun n =>
    let v := s.ent (Key.epRemap n)
    bit v 63 && bf v 62 59 == c && bf v 58 47 == unit % 4096 && bf v 39 0 == addr % 2 ^ 40)

/-- An error of a word of a privileged memory has been logged: the word is remapped once its log COUNT has reached `EP_REPEAT` (R409). -/
def State.remapRepeat (s : State) (c unit addr : Nat) : State :=
  if remapClasses.contains c ∧ !(s.remapped c unit addr) ∧ (List.range 16).any (fun i =>
      let v := s.ent (Key.epClassLog c i)
      v != 0 && bf v 39 0 == addr % 2 ^ 40 && bf v 59 48 == unit % 4096 && decide (s.entN Key.epRepeat ≤ bf v 47 40)) then
    s.remapAdd c unit addr
  else s

/-! Memories outside the device address map (R390) -/

/-- A word of the flow engine's context cache or stash: whether it is poisoned at a fresh error. A line that the cache holds modified,
an empty line and the stash have no copy in HBM. -/
def State.flowModified (s : State) (off : Nat) : Bool :=
  match tfind s.ctxCache (off / 512) with
  | some l => l.2
  | none => true

/-- A word is poisoned, logged and counted; a privileged memory's may be remapped (R395, R409). -/
def State.poisonInner (s : State) (c u off : Nat) : State :=
  ((s.setPoison (innerAddr c u off)).notePoisoned c u off).remapRepeat c u off

/-- A reader finds a fresh error in a word of a memory outside the map, and the memory takes its class's action (R390). A modified
line of a control core's caches that is poisoned carries the marking to its address (R396). -/
def State.meetInner (s : State) (w : InnerWord) : State :=
  let u := w.unit.toNat
  let off := w.off.toNat / 8 * 8
  let c := w.cls.toNat
  let a := innerAddr c u off
  let again := { s with fresh := tput s.fresh a true }.startRefetch (a / 8) 19
  if s.poisoned a then s
  else match c with
    | 4 | 6 | 8 => again
    | 5 =>
      let (i, s) := s.drawBelow storeSize
      let p := (u - 584) / 32
      let x := s.entry p i
      let s := if x.st = .free then s
        else s.setEntry p i { x with slots := x.slots.map (fun t => (t.1, { t.2 with w0 := setBit t.2.w0 26 true })) }
      (s.notePoisoned 5 u off).remapRepeat 5 u off
    | 7 => if w.modified then (if regionOf w.line.toNat = .hbm then (s.poisonInner 7 u off).setPoison w.line.toNat else s.poisonInner 7 u off)
      else again
    | 9 | 10 => s.poisonInner c u off
    | 11 => if s.flowModified off then s.poisonInner 11 u off else again
    | _ => s

/-- Whether a word lies in such a memory of a unit: accelerators hold class 4, Kennel instances 5 and 6, control cores (1 MiB of L2 each)
and the control complex's 16 MiB of L3, which the Spine's number stands for, class 7, the root island 8 to 10 (512 KiB of SRAM), the
flow engine 11. -/
def innerOk (w : InnerWord) : Bool :=
  let u := w.unit.toNat
  let off := w.off.toNat
  match w.cls.toNat with
  | 4 => unitKind u == 4 && decide ((u - 584) % 32 < 17)
  | 5 => unitKind u == 4 && (u - 584) % 32 == 20 && decide (off < 0x600000)
  | 6 => unitKind u == 4 && (u - 584) % 32 == 20
  | 7 => (unitKind u == 5 && decide (off < 0x100000)) || (u == 1014 && decide (off < 0x1000000))
  | 8 => u == 1013 && decide (off < Config.shadowBlocks * 4096)
  | 9 => u == 1013 && decide (off < 0x80000)
  | 10 => u == 1013 && decide (off < 0x10000)
  | 11 => u == 856 && decide (off < 0x804000)
  | _ => false

/-- The words of those memories that a walk finds with wrong parity. -/
def State.walkInner (s : State) (ws : List InnerWord) (p : InnerWord → Bool) : State :=
  (ws.filter (fun w => innerOk w && p w)).foldl State.meetInner s

/-- The MRAM writes that waited are made, in their order, once no warning is active (R190). -/
def State.mramDrain (s : State) : State :=
  s.mramWaits.foldl (fun s w => match w with
    | .remap c u a => s.remapNow c u a
    | .image es => s.ownImage es
    | .data a bs => s.writeMem .root a bs false) { s with mramWaits := [] }

/-! The walks -/

/-- A Groomer's step over one word (R403). -/
def State.groomWord (s : State) (verify : Bool) (w : Nat) : State :=
  let a := 8 * w
  if s.freshWord w then s.meetFresh 19 a 8
  else if s.poisoned a then s
  else match s.anchorOf a with
    | some h =>
      if verify ∧ !(s.poisoned h) ∧ !(s.freshWord (h / 8)) ∧ s.bytes a 8 ≠ s.bytes h 8 then
        ((s.store a (s.bytes h 8)).inc32 (Key.epClassMismatch 0) 1).logError 0 4 (memUnit s a) a
      else s
    | none => s

/-- Blocks of 64 bytes in a pack's walk: PM, CSM, LM and IM. -/
def walkBlocks : Nat := 0x3400000 / 64
/-- Transfers of 256 bytes in the walk of HBM. -/
def hbmBlocks : Nat := 0x1800000000 / 256

/-- A walk goes on or completes (R405): WALKS, and its duration in units of so many ticks. -/
def State.walkOn (s : State) (key who hi width size ticks : Nat) : State :=
  let pos := s.fld key (width - 1) 0
  let began := tget s.raw.toNat s.walkRaw who
  let s := if pos = 0 then { s with walkRaw := tput s.walkRaw who s.raw.toNat } else s
  if pos + 1 < size then s.setFld key (width - 1) 0 (pos + 1)
  else ((s.setFld key (width - 1) 0 0).incWrap key 63 hi 1).setFld key 47 32 (min 65535 ((s.raw.toNat - began) / ticks))

/-- Whether INTERVAL FCLK cycles, two to a tick, have passed since a walk's last block (R402, R405). -/
def State.walkDue (s : State) (who interval : Nat) : Bool :=
  match tfind s.walkRaw (48 + who) with
  | some r => decide (2 * r + interval ≤ 2 * s.raw.toNat)
  | none => true
/-- A walk reads a block now. -/
def State.walked (s : State) (who : Nat) : State := { s with walkRaw := tput s.walkRaw (48 + who) s.raw.toNat }

/-- GROOMER_BLOCK (R402 to R405): the Groomer of pack p reads its next block, in which it finds the bytes `upset` wrong, and the words
`inner` of the pack's memories of classes 4 to 6. -/
def execGroomerBlock (p : Fin 8) (upset : List Addr) (inner : List InnerWord) (s : State) : Out :=
  let cfg := s.ent (Key.grmCfg p.val)
  .next (
    if bit cfg 63 ∧ s.walkDue p.val (bf cfg 15 0) ∧ s.packUp p.val ∧ s.unitRuns (accUnit p.val 21) ∧ s.fld Key.pwrThermStat 49 48 = 0 then
      let pos := s.fld (Key.grmStat p.val) 19 0 % walkBlocks
      let a := packBase p.val + pos * 64
      let s := ((s.walked p.val).upset a 64 upset).flushOver 19 a 64
      let s := s.walkInner inner (fun w => 4 ≤ w.cls.toNat && w.cls.toNat ≤ 6 && unitPack w.unit.toNat == some p.val)
      ((List.range 8).foldl (fun s i => s.groomWord (bit cfg 62) (a / 8 + i)) s).walkOn (Key.grmStat p.val) p.val 48 20 walkBlocks 491520
    else s)

/-- Every word of the transfer at a is poisoned and counted (R401). -/
def State.hbmPoison (s : State) (a n : Nat) : State :=
  (wordsOf a n).foldl (fun s w => if s.poisoned (8 * w) then s else (s.setPoison (8 * w)).notePoisoned 14 (memUnit s (8 * w)) (8 * w)) s

/-- HBM_SCRUB_TRANSFER (R401 to R404): the scrubber reads its next transfer of HBM, and the stack reports. Alongside it reads the
memories of classes 7 to 11, and MRAM, one block of 64 bytes every 768 transfers. -/
def execHbmScrubTransfer (r : HbmReport) (upset : List Addr) (inner : List InnerWord) (s : State) : Out :=
  .next (
    if s.flag Key.grmHbmCfg 63 ∧ s.walkDue 8 (s.fld Key.grmHbmCfg 15 0) ∧ s.fld Key.pwrThermStat 49 48 = 0 ∧ !(s.flag Key.lshPauseB 0) ∧
        !s.warn ∧ s.phase ≠ phReset ∧ s.dev ≠ .hold then
      let n := s.fld Key.grmHbmStat 28 0 % hbmBlocks
      let a := n * 256
      let s := (s.walked 8).flushOver 19 a 256
      let s := match r with
        | .clean => s
        | .corrected => s.noteCorrected 14 (memUnit s a) a
        | .uncorrectable | .parity => s.hbmPoison a 256
      let s := s.walkInner inner (fun w => 7 ≤ w.cls.toNat && w.cls.toNat ≤ 11)
      let m := mramBase + n / 768 * 64
      let s := if n % 768 = 0 then (s.upset m 64 upset).readTouch m 64 else s
      (s.readTouch a 256).walkOn Key.grmHbmStat 8 48 29 hbmBlocks secTicks
    else s)

/-! Logs -/

/-- A class's log is emptied (R406). -/
def State.emptyLog (s : State) (c : Nat) : State :=
  { s with od := tdrop s.od (fun k => decide (Key.epClassLog c 0 ≤ k) && decide (k ≤ Key.epClassLog c 15)) }

/-- EP_CLASS_CLEAR (R406). -/
def execEpClassClear (rq : Requester) (c : Fin 16) (s : State) : Out :=
  .next (s.guarded (s.checkWrite rq (Key.epClassClear c.val) 1) (s.emptyLog c.val))

/-- The fields of `EP_CLASSc_CNT`: high and low bit. -/
def cntFields : List (Nat × Nat) := [(63, 32), (31, 16), (15, 8), (7, 0)]

/-- Counts of a class since its previous record (R406): those kept when the counters were read, and those counted since. -/
def State.epSince (s : State) (c : Nat) : U64 :=
  let kept := tget 0 s.epTold c
  let base := tget 0 s.epTold (16 + c)
  let cnt := s.ent (Key.epClassCnt c)
  cntFields.foldl (fun v f => setf v f.1 f.2 (min (2 ^ (f.1 + 1 - f.2) - 1) (bf kept f.1 f.2 + (bf cnt f.1 f.2 - bf base f.1 f.2)))) 0

/-- A read clears the class's counters: what the next record owes is kept. -/
def State.epCntRead (s : State) (c : Nat) : State :=
  let v := s.epSince c
  { s.setEnt (Key.epClassCnt c) 0 with epTold := tput (tput s.epTold c v) (16 + c) 0 }

/-- EP_ERROR_RECORD (R406): the counts of a class since its previous record, at most one record a second. -/
def execEpErrorRecord (c : Fin 16) (s : State) : Out :=
  let v := s.epSince c.val
  let last := tget 0 s.epTime c.val
  .next (
    if v ≠ 0 ∧ (last = 0 ∨ last - 1 + secTicks ≤ s.raw.toNat) then
      { s.record 0x60 [w64 c.val, v] with
        epTold := tput (tput s.epTold c.val 0) (16 + c.val) (s.ent (Key.epClassCnt c.val))
        epTime := tput s.epTime c.val (s.raw.toNat + 1) }
    else s)

end Sys2Proof.Machine
end

