-- ==== Sys2Proof/Machine/Kennel.lean ====
section
/-! DEFINITION. Kennel.lean: the commands of the task scheduler (R77 to R120, R582 to R584). -/
namespace Sys2Proof.Machine

/-- The front item of a producer's queue, where a credit of the producer's covers it (R103). -/
def State.frontOf (s : State) (x : Producer) : Option (Item × State) :=
  match s.queueOf x with
  | [] => none
  | i :: q => if i.takes ∧ prodCredits x ≤ s.deferredOf x then none else some (i, s.setQueue x q)

/-- DESCRIPTOR_SUBMIT (R582, R104, R119, R120): Kennel takes the descriptor at the front of a producer's queue. -/
def execDescriptorSubmit (src : Producer) (badPath : Bool) (s : State) : Out :=
  .next (match s.frontOf src with
    | some (.desc d ret part, s') => s'.submitDesc src d ret part badPath
    | _ => s)

/-- DEFERRED_DESCRIPTOR_ALLOCATE (R104): the first waiting descriptor that may allocate now takes its entry. It is tested anew first,
under all of R582: kind, partition and health as they are now (DESIGN CHOICE, assumption 79). -/
def execDeferredDescriptorAllocate (p : Fin 8) (s : State) : Out :=
  let k := s.kn p.val
  let (a, b) := k.waiting.span (fun w => !(s.mayAllocate p.val w.desc.cls))
  .next (match b with
    | [] => s
    | w :: r =>
      let s := s.setKn p.val { k with waiting := a ++ r }
      match s.refusal p.val w.desc w.part true false with
      | some st => s.refuseDesc p.val w.desc w.part st w.ret
      | none => s.acceptDesc p.val w.desc w.ret w.part)

/-- TOKEN_ACCEPT (R84 to R87, R397): Kennel takes the token at the front of a producer's queue. -/
def execTokenAccept (src : Producer) (path : TokenPath) (s : State) : Out :=
  .next (match s.frontOf src with
    | some (.token t part ret, s') =>
      let home := s'.homeOf src
      let s' := match ret with
        | .portEntry c e => s'.store (portBase c + 0x1800 + 8 * e) (leBytes 8 (2 ^ 63))
        | _ => s'
      match path with
      | .clean => s'.deliverToken home t part
      | .badWord0 => (s'.knCount (Key.knInvalid home)).notePath 12 (accUnit home 20) 0
      | .badValue => (s'.deliverToken home ⟨setBit t.w0 26 true, t.value⟩ part).notePath 12 (accUnit home 20) 0
    | some (.back t part, s') => s'.deliverToken (s'.homeOf src) t part
    | _ => s)

/-! Dispatch -/

/-- The tiles of a tile task's target. -/
def tilesIn (u : Nat) : List Nat :=
  match unitKind u with
  | 1 => [u]
  | 2 => (List.range 8).map (fun i => (u - 512) * 8 + i)
  | 3 => (List.range 64).map (fun i => (u - 576) * 64 + i)
  | _ => []

/-- Whether a Terrier signature of tile t is still to be read (R507). -/
def State.sigPending (s : State) (t : Nat) : Bool :=
  match tfind s.segment (t / 64) with
  | some g => g.kind == 0 && g.unit == t && g.signature.isSome
  | none => false

/-- Whether a task is Terrier's own on a quarantined tile under retest (R504). -/
def State.retestTask (s : State) (d : Desc) : Bool :=
  s.terKind d.kind && decide (d.target < 512) && (s.un d.target).retest && s.health d.target == 3

/-- Whether a tile blocked in FETCH is eligible for a task (R91). -/
def State.eligible (s : State) (d : Desc) (t : Nat) : Bool :=
  (s.tl t).st == .fetchWait && s.tileClocked t && !(s.sigPending t) &&
    (s.retestTask d || (bit (s.ent (Key.knTileCfg t)) d.cls && decide (s.health t ≤ 1)))

/-- Whether the dispatch of a task to tile t would be its probe (R110): an unordered task of the kind goes first. -/
def State.probeFor (s : State) (p : Nat) (d : Desc) (t : Nat) : Bool :=
  let u := s.un t
  u.lame && u.probeDue && u.lameKind == d.kind &&
    (!d.ordered || !((s.kn p).used.any (fun e => e.2.st == .ready && e.2.desc.kind == d.kind && !e.2.desc.ordered &&
      (tilesIn e.2.desc.target).contains t)))

/-- Whether tile t counts as lame for a task (R109, R110). -/
def State.lameFor (s : State) (p : Nat) (d : Desc) (t : Nat) : Bool := (s.un t).lame && !(s.probeFor p d t)

/-- The affinity tile of a task (R91, R92). -/
def State.affTile (s : State) (d : Desc) : Option Nat :=
  if d.affinity = 0 then none
  else leastBy (fun t => 2 ^ 64 - (s.tl t).lastRecv)
    ((tilesIn d.target).filter (fun t => s.fld (Key.knTileStat t) 31 16 == d.affinity))

/-- What R91 decides for one READY task: where it goes, that it is returned, or nothing. -/
inductive Choice where
  | toTile (t : Nat) | toUnit (u : Nat) | giveBack
deriving DecidableEq, Repr

/-- The tile of R91 for a tile task. -/
def State.chooseTile (s : State) (p : Nat) (x : Entry) : Option Choice :=
  let d := x.desc
  let lame := s.lameFor p d
  let tiles := ((tilesIn d.target).filter (s.eligible d)).filter (fun t => !d.ordered || !(lame t))
  let pick := fun (l : List Nat) => (leastBy (fun t => (s.tl t).blockedAt) l).map Choice.toTile
  if tiles.isEmpty then none
  else match s.affTile d with
    | some a =>
      if tiles.contains a ∧ !(lame a) then some (.toTile a)
      else if (s.tl a).task.isSome ∧ !(lame a) ∧ 4 * (s.raw.toNat - x.readyRaw) < s.entN Key.knAffWait then none
      else pick (if (tiles.filter (!lame ·)).isEmpty then tiles else tiles.filter (!lame ·))
    | none => pick (if (tiles.filter (!lame ·)).isEmpty then tiles else tiles.filter (!lame ·))

/-- Whether an accelerator can take a task (R93, R103). -/
def State.accelReady (s : State) (u : Nat) : Bool :=
  let p := (u - 584) / 32
  let k := (u - 584) % 32
  (s.taskOn u).isNone && (tfind s.job (p * 32 + k)).isNone && (tfind s.decode (p * 32 + k)).isNone &&
    !(match tfind s.segment p with | some g => g.kind == 2 && g.unit == u | none => false) &&
    (if h : p < 8 ∧ k < 17 then s.creditOf (.accel ⟨p, h.1⟩ ⟨k, h.2⟩) != 0 else true)

/-- Frames in a core's task ring (R194). -/
def Port.used (x : Port) : Nat := (x.head - x.tail).toNat
def portInit : Port := ⟨0, 0⟩
def State.prt (s : State) (c : Nat) : Port := tget portInit s.port c
/-- The ring pointers of a core change; its Kennel interrupt follows them. -/
def State.setPrt (s : State) (c : Nat) (x : Port) : State :=
  { s with port := tput s.port c x }.setIrq .ring c (x.head != x.tail)

/-- The decision of R91 for one READY task. -/
def State.choose (s : State) (p : Nat) (x : Entry) : Option Choice :=
  let d := x.desc
  if (s.oldest p d.domain).elim false (fun o => d.ordered && decide (o + s.entN Key.knDomDepth ≤ x.seq)) then none
  else if s.unitDown d.target ∧ !(s.retestTask d) then some .giveBack
  else if unitKind d.target = 4 then (if s.accelReady d.target then some (.toUnit d.target) else none)
  else if unitKind d.target = 5 then (if (s.prt (d.target - 840)).used < 64 then some (.toUnit d.target) else none)
  else s.chooseTile p x

/-- READY tasks in class order and ready order. -/
def State.readyTasks (s : State) (p : Nat) : List (Nat × Entry) :=
  let r := (s.kn p).used.filter (fun e => e.2.st == .ready)
  (r.map (fun e => (e.2.desc.cls * 2 ^ 64 + e.2.readyNo, e))).foldl (fun t e => tput t e.1 e.2) ([] : Tab (Nat × Entry)) |>.map (·.2)

/-- The 256 bytes of a task frame (R95). -/
def frameOf (p i : Nat) (x : Entry) : List Byte :=
  wordsBytes x.desc.words ++
  (List.range 8).flatMap (fun k => match (if k < x.desc.nops then tfind x.slots k else none) with
    | some t => wordsBytes [t.w0, t.value]
    | none => List.replicate 16 0) ++
  leBytes 4 (handleOf p i x) ++ leBytes 4 (b01 x.probe + 2 * b01 x.desc.ordered) ++ List.replicate 56 0

/-- LM offset of the task frame. -/
def frameOff : Nat := 0x3FF00

/-- A task goes to tile t (R91, R95, R153): FETCH completes. -/
def State.toTile (s : State) (p i t : Nat) : State :=
  let x0 := s.entry p i
  let probe := s.probeFor p x0.desc t
  let k := s.kn p
  let x := { x0 with st := .running, unit := t, probe := probe, dispatchRaw := s.raw.toNat }
  let s := s.setKn p { k with entries := tput k.entries i x, dispatchNo := k.dispatchNo + 1 }
  let s := (s.inc64 (Key.knDispatched p) 1).incWrap (Key.odQueue x0.desc.target) 31 0 1
  let s := (s.incWrap (Key.knTileStat t) 63 32 1).setFld (Key.knTileStat t) 31 16 x.desc.affinity
  let s := if probe then s.setUn t { s.un t with probeDue := false } else s
  let s := s.store (lmAddr t frameOff) (frameOf p i x)
  let y := s.tl t
  let v := handleOf p i x * 2 ^ 32 + x.desc.kind * 2 ^ 20 + 2 * b01 x.desc.ordered + b01 probe
  let y := { y with st := .running, poison := false, task := some (p, i), fetchedAt := s.raw.toNat, lastRecv := k.dispatchNo + 1 }
  retire s t (y.wr y.fetchRd (w64 v))

/-- A task goes to an accelerator, or its frame into a core's ring (R93, R194). -/
def State.toUnit (s : State) (p i u : Nat) : State :=
  let x := { s.entry p i with st := .running, unit := u, dispatchRaw := s.raw.toNat }
  let s := ((s.setEntry p i x).inc64 (Key.knDispatched p) 1).incWrap (Key.odQueue x.desc.target) 31 0 1
  if unitKind u = 5 then
    let c := u - 840
    let q := s.prt c
    (s.store (portBase c + 0x4000 + q.head.toNat % 64 * 0x100) (frameOf p i x)).setPrt c { q with head := q.head + 1 }
  else s

/-- A matching store finds a fresh error in entry i (R390, class 5): POISON is set in every operand slot of its frame. -/
def State.poisonEntry (s : State) (p i : Nat) : State :=
  let x := s.entry p i
  (s.setEntry p i { x with slots := x.slots.map (fun t => (t.1, { t.2 with w0 := setBit t.2.w0 26 true })) }).notePoisoned 5 (accUnit p 20) i
    |>.remapRepeat 5 (accUnit p 20) i

/-- TASK_DISPATCH (R91 to R93): one decision; `parity` is a fresh error in the entry as it is read for its frame. -/
def execTaskDispatch (p : Fin 8) (parity : Bool) (s : State) : Out :=
  let met := fun (i : Nat) => if parity then s.poisonEntry p.val i else s
  .next (match (s.readyTasks p.val).findSome? (fun e => (s.choose p.val e.2).map (fun c => (e.1, c))) with
    | some (i, .toTile t) => (met i).toTile p.val i t
    | some (i, .toUnit u) => (met i).toUnit p.val i u
    | some (i, .giveBack) => s.endTask p.val i ksUnitDown
    | none => s)

/-- UNIT_DOWN_SWEEP (R583): one task, WAITING or READY, whose target is down is returned; the spec gives no order among them,
so a drawn number chooses. -/
def execUnitDownSweep (p : Fin 8) (s : State) : Out :=
  let l := (s.kn p.val).used.filter (fun e =>
    (e.2.st == .waiting || e.2.st == .ready) && !(s.inService e.2.desc.target) && !(s.retestTask e.2.desc))
  .next (if l.isEmpty then s
    else
      let (a, s) := s.drawBelow l.length
      s.endTask p.val ((l.getD a (0, entryInit)).1) ksUnitDown)

/-- The lower median of a list (R107). -/
def lowMedian (l : List Nat) : Nat :=
  ((l.foldl (fun (t : List Nat) v => t.filter (· ≤ v) ++ [v] ++ t.filter (v < ·)) [])).getD ((l.length - 1) / 2) 0

/-- The kinds of a pack that have valid averages on tiles HEALTHY or LAME: kind and the averages, by tile. -/
def State.validAvgs (s : State) (p kd : Nat) : List (Nat × Nat) :=
  ((s.kn p).avg.filter (fun a => a.1 % 4096 == kd && decide (256 ≤ a.2.n) && decide (s.health (a.1 / 4096) ≤ 1))).map
    (fun a => (a.1 / 4096, a.2.avg))

/-- The medians anew, then HEALTHY tiles above the ratio are marked (R107, R108). -/
def State.lameMedians (s : State) (p : Fin 8) : State :=
  let kinds := (((s.kn p.val).avg.map (fun a => a.1 % 4096)).eraseDups).filter (fun kd => bit (s.kindWord p.val kd) 60)
  let med := kinds.filterMap (fun kd =>
    let l := s.validAvgs p.val kd
    if l.length < 8 then none else some (kd, lowMedian (l.map (·.2))))
  let s := s.setKn p.val { s.kn p.val with median := med.foldl (fun t e => tput t e.1 e.2) [] }
  if s.entN Key.knLameEn = 1 then
    med.foldl (fun s e => (s.validAvgs p.val e.1).foldl (fun s a =>
      if s.health a.1 = 0 ∧ s.exceeds a.2 e.2 then
        ((s.setUn a.1 { s.un a.1 with lame := true, lameKind := e.1, lameSince := s.raw.toNat, probeDue := false }).incSat
          (Key.knTileStat a.1) 15 8 1).noteLame a.1 e.1 a.2 e.2 true
      else s) s) s
  else s

/-- LAME_MEDIAN_RECOMPUTE (R107, R108): at a tick at which the raw counter is a multiple of 491,520. -/
def execLameMedianRecompute (p : Fin 8) (s : State) : Out :=
  .next (if s.raw.toNat % 491520 = 0 then s.lameMedians p else s)

/-- LAME_PROBE_DUE (R110): KN_LAME_PROBE µs have passed since the marking or the last probe's completion. -/
def execLameProbeDue (t : Fin 512) (s : State) : Out :=
  let u := s.un t.val
  let probing := match (s.tl t.val).task with | some (p, i) => (s.entry p i).probe | none => false
  .next (if u.lame ∧ !probing ∧ s.entN Key.knLameProbe * 12288 ≤ 25 * (s.raw.toNat - u.lameSince) then s.setUn t.val { u with probeDue := true } else s)

/-! Slot plans -/

def State.setCar (s : State) (c : Nat) (x : Carrier) : State := { s with carrier := tput s.carrier c x }

/-- The iteration bank of the new slot sequence is reopened (R298). -/
def State.reopenBank (s : State) (c sq at_ : Nat) : State :=
  let cfg := s.ent (Key.cdBankCfg c)
  let b : Bank := ⟨sq % 16, bit cfg 63, 0, 0, bf cfg 31 0, at_ + nsT (s.entN (Key.cdBankClose c)), bf cfg 47 40,
    s.ent (Key.cdBankGu c)⟩
  { s with bank8 := tput s.bank8 (c * 8 + sq % 8) b, lateSlot := tdel s.lateSlot (c * 16 + sq % 16) }

/-- The enabled rows of a carrier's plan. -/
def State.planRows (s : State) (c : Fin 384) : List Nat :=
  (List.range 2048).filter (fun r => bit (s.ent (rowKey (.plan c) 0 r 0)) 1)

/-- A row's descriptor: the template without its plan bits. -/
def rowDesc (ws : List U64) : Desc := let d := descOf ws; { d with w0 := setf d.w0 13 0 0 }

/-- Rows of an instance are latched and take entries in row order, and their handles go into the handle frame (R115, R116, R98): each
row with its entry and its latched words. Every row is held by the home pack, whose KN_KIND tests it and whose domain orders it, a row
whose TARGET lies in another pack among them (DESIGN CHOICE, assumption 79). -/
def State.instRows (s : State) (c : Fin 384) (p sq off part : Nat) : List Nat → State × List (Nat × List U64)
  | [] => (s, [])
  | r :: rs =>
    let s := s.beginOcc (.plan c) r sq
    let ws := s.rowOf (.plan c) 0 r
    let (s, i) := s.allocate p (rowDesc ws) part (some (c.val, sq, r))
    let s := s.store (pmAddr p (off + sq % 16 * 0x2000 + 4 * r)) (leBytes 4 (handleOf p i (s.entry p i)))
    let (s, l) := s.instRows c p sq off part rs
    (s, (i, ws) :: l)

/-- A row whose TARGET lies in another member goes there (R119, R582); its own entry releases and its handle is stale (DESIGN CHOICE,
assumption 79). Its START token follows when the member has answered with the handle. -/
def State.rowAfar (s : State) (p i g part : Nat) (start : Option U64) : State :=
  let x := s.entry p i
  let s := s.forward g x.desc (match start with | some v => .startOf p part v | none => .none) part
  (s.setEntry p i { x with desc := { x.desc with w2 := 0 } }).endTask p i ksDone

/-- An entry of a new instance meets the tests of R582: it is forwarded, returned at once, or stays (R584). -/
def State.rowTest (s : State) (p part i : Nat) (start : Option U64) : State :=
  let x := s.entry p i
  match (if 1024 ≤ x.desc.target then s.linkTo (x.desc.target / 1024) else none) with
  | some g => s.rowAfar p i g part start
  | none =>
    match s.refusal p x.desc part false false with
    | some st =>
      let s := if st = ksUnitDown ∧ s.foreign part x.desc.target then s.knCount (Key.knXpart p) else s
      s.endTask p i st
    | none => s

/-- An entry of a new instance takes its START token and is READY where no slot is open (R88, R113, R114). -/
def State.rowStart (s : State) (p part i : Nat) (start : Option U64) : State :=
  let x := s.entry p i
  match start with
  | some v => (s.deliverToken p ⟨w64 (handleOf p i x * 2 ^ 32 + 1012), v⟩ part).readyIf p i
  | none => s.readyIf p i

/-- The tests of the rows, in row order, and then their start, in entry order (R91, R113, R114, R584). -/
def State.instStart (s : State) (p part at_ : Nat) (l : List (Nat × List U64)) : State :=
  let v := w64 (at_ / secU % 2 ^ 32 * 2 ^ 32 + at_ % secU / 2 ^ 32)
  let start := fun (ws : List U64) => if bit (ws.getD 0 0) 2 then some v else none
  let s := l.foldl (fun s e => s.rowTest p part e.1 (start e.2)) s
  (l.foldl (fun t e => tput t e.1 e.2) ([] : Tab (List U64))).foldl (fun s e =>
    if (s.entry p e.1).st = .waiting then s.rowStart p part e.1 (start e.2) else s) s

/-- A slot that fails (R117, R118). -/
def State.planFails (s : State) (c : Fin 384) (p sq reason : Nat) : State :=
  (((s.incSat (Key.knPlanStat c.val) 31 16 1).setSticky (Key.knPlanStat c.val) 0).setSticky (Key.knFlags p) 2).record 0x22
    [w64 c.val, w64 sq, w64 reason]

/-- Deferred writes of plan rows that no task executes any longer are applied (R39, R116). -/
def State.planReady (s : State) (c : Fin 384) : State :=
  ((s.lv (.plan c)).deferred.map (·.1)).foldl (fun s r => if s.executing (.plan c) r then s else s.applyDeferred (.plan c) r) s

/-- A slot starts at instant `at_`, in computed time, on a carrier whose plan is enabled (R115, R117, R118, R298, R492). -/
def State.slotStart (s : State) (c : Fin 384) (at_ : Nat) : State :=
  let s := s.planReady c
  let cfg := s.ent (Key.knPlanCfg c.val)
  let p := bf cfg 62 60
  let x := s.car c.val
  let sq := (x.seq + 1) % 2 ^ 32
  let rows := s.planRows c
  let busy := s.kennel.any (fun k => k.2.used.any (fun e =>
    match e.2.plan with | some (c', q, _) => c' == c.val && q % 16 == sq % 16 | none => false))
  let reason := if (s.partOfCarrier c.val).isNone ∨ s.partOfPack p ≠ s.partOfCarrier c.val then some 2
    else if busy then some 1
    else if storeSize - s.occ p < rows.length then some 0
    else none
  let s := s.setCar c.val { x with seq := sq, slots := (⟨sq, at_, reason.isSome⟩ :: x.slots).take 16 }
  let s := s.reopenBank c.val sq at_
  let s := if s.flag (Key.shdL2Carrier c.val) 63 then { s with l2 := s.l2 ++ [(c.val, sq, at_)] } else s
  match reason with
  | some w => s.planFails c p sq w
  | none =>
    let part := (s.partOfPack p).getD 8
    let s := s.store (pmAddr p (bf cfg 23 0 + sq % 16 * 0x2000)) (List.replicate 8192 0)
    let (s, l) := s.instRows c p sq (bf cfg 23 0) part rows
    let s := s.incWrap (Key.knPlanStat c.val) 63 32 1
    let s := s.setFld (Key.knPlanStat c.val) 11 8 sq
    let s := s.instStart p part at_ l
    if s.instanceHas c.val sq then s else s.disarmL2 c.val sq

/-- PLAN_INSTANTIATE (R115): Kennel takes the slot-start instant of carrier c that row `row` of unit u has fired; the boundary's swap
was made there. -/
def execPlanInstantiate (c : Fin 384) (u : Fin 64) (row : Fin 16) (s : State) : Out :=
  let mine := fun (d : SlotDue) => d.carrier == c.val && d.unit == u.val && d.row == row.val
  .next (match s.slotDue.find? mine with
    | some d =>
      let s := { s with slotDue := s.slotDue.eraseP mine }
      if s.flag (Key.knPlanCfg c.val) 63 then (s.wakePack (s.fld (Key.knPlanCfg c.val) 62 60)).slotStart c d.time else s
    | none => s)

end Sys2Proof.Machine
end

