-- ==== Sys2Proof/Machine/Bus.lean ====
section
/-! DEFINITION. Bus.lean: accesses at device addresses (R180 to R183, R390 to R397, R401) and the port pages (R192 to R194). -/
namespace Sys2Proof.Machine

/-! Port pages -/

/-- Whether control core c runs. -/
def State.coreRuns (s : State) (c : Nat) : Bool := match tfind s.core c with | some x => x.running && !x.stopped | none => false

/-- Pushed entries that Kennel has not accepted (R192). -/
def State.portFill (s : State) (c : Fin 16) : Nat := prodCredits (.core c) - s.creditOf (.core c)

/-- RESULT word of entry e of core c. -/
def resultAddr (c e : Nat) : Nat := portBase c + 0x1800 + 8 * e

/-- A load from a core's own page: its computed words, and what lies in its memory. -/
def State.portWord (s : State) (c : Fin 16) (off : Nat) : Option U64 :=
  match off with
  | 0x1008 => some (w64 (s.portFill c))
  | 0x1010 => some (w64 (s.prt c.val).head.toNat)
  | 0x1018 => some (w64 (s.prt c.val).tail.toNat)
  | _ => none

/-- Where a page may be read and written as memory. -/
def portReads (off n : Nat) : Bool := (decide (0x1800 ≤ off) && decide (off + n ≤ 0x1A00)) || (decide (0x4000 ≤ off) && decide (off + n ≤ 0x8000))
def portWrites (off n : Nat) : Bool := decide (off + n ≤ 0x1000)

/-- PORT_PUSH (R192, R193): the entry is copied into the port queue, or refused where it is full. -/
def State.portPush (s : State) (c : Fin 16) (v : U64) : State :=
  let e := bf v 5 0
  let r := resultAddr c.val e
  if s.portFill c = 64 then s.store r (leBytes 8 (3 * 2 ^ 62 + 0x10))
  else
    let s := s.store r (leBytes 8 ((s.word r).toNat % 2 ^ 63))
    let ws := bytesWords 8 (s.bytes (portBase c.val + 64 * e) 64)
    let part := s.partOfProd (.core c)
    let tok : Token := ⟨setf (setf (ws.getD 0 0) 25 12 0) 11 0 (coreUnit c.val), ws.getD 1 0⟩
    s.sendItem (.core c) (if bit v 8 then .token tok part (.portEntry c.val e) else .desc (descOf ws) (.portEntry c.val e) part)

/-- PORT_PUSH (R192). -/
def execPortPush (c : Fin 16) (v : U64) (s : State) : Out := .next (if s.coreRuns c.val then s.portPush c v else s)

/-- DONE of a port page (R194): it retires a task that runs on this core; any other is counted stale. -/
def State.portDone (s : State) (c : Fin 16) (h : Nat) : State :=
  let p := h / 2 ^ 27
  let i := h % 2 ^ 15
  if 8 ≤ p then s.knCount (Key.knStale (((s.partOfCore c.val).bind s.lowPack).getD 0))
  else
    let x := s.entry p i
    if x.st = .running ∧ x.unit = coreUnit c.val ∧ x.gen.toNat = h / 2 ^ 15 % 4096 then s.endTask p i ksDone
    else s.knCount (Key.knStale p)

/-- PORT_DONE (R194). -/
def execPortDone (c : Fin 16) (handle : BitVec 32) (s : State) : Out :=
  .next (if s.coreRuns c.val then s.portDone c handle.toNat else s)

/-- A write of RING_TAIL (R194): outside RING_HEAD − 64 to RING_HEAD it is refused. -/
def State.portTail (s : State) (c : Fin 16) (m : PrivMode) (v : U64) : State :=
  let x := s.prt c.val
  let t : BitVec 7 := BitVec.ofNat 7 v.toNat
  if (x.head - t).toNat ≤ 64 ∧ v.toNat < 128 then s.setPrt c.val { x with tail := t }
  else (s.accessFault (.core c m) (portBase c.val + 0x1018)).answer .fault

/-- PORT_RING_TAIL_WRITE (R194). -/
def execPortRingTailWrite (c : Fin 16) (v : U64) (s : State) : Out :=
  .next (if s.coreRuns c.val then s.portTail c .machine v else s)

/-- An access to a core's own port page. -/
def State.portAccess (s : State) (c : Fin 16) (m : PrivMode) (off n : Nat) (data : Option (List Byte)) : State :=
  match data with
  | none =>
    match (if n = 8 then s.portWord c off else none) with
    | some v => s.answer (.bytes (leBytes 8 v.toNat) false)
    | none => if portReads off n then s.answer (.bytes (s.bytes (portBase c.val + off) n) false)
      else (s.accessFault (.core c m) (portBase c.val + off)).answer .fault
  | some bs =>
    let v := w64 (leNat (bs.take 8))
    if portWrites off n then (s.store (portBase c.val + off) bs).status .ok
    else if n = 8 ∧ off = 0x1000 then (s.portPush c v).status .ok
    else if n = 8 ∧ off = 0x1018 then s.portTail c m v
    else if n = 8 ∧ off = 0x1020 then (s.portDone c (v.toNat % 2 ^ 32)).status .ok
    else (s.accessFault (.core c m) (portBase c.val + off)).answer .fault

/-! Accesses -/

/-- Whether the requester exists to issue an access: a core that runs. -/
def State.mayIssue (s : State) : Accessor → Bool
  | .core c _ => s.coreRuns c.val
  | _ => s.phase != phReset

/-- A read of n bytes at a that its target accepts (R390 to R396): IM words with fresh errors hold the requester while they are
re-fetched, poisoned words of IM are reported, and a control core takes an access fault on a poisoned word. -/
def State.readServed (s : State) (who : Accessor) (a n : Nat) : State :=
  match s.imFresh a n with
  | some w => (s.startRefetch w (reqNo who)).answer .stalled
  | none =>
    let s := match regionOf a, s.firstPoison a n with
      | .im t, some b => s.reportAnchor 0 t (b / 8 * 8)
      | _, _ => s
    let (s, bs, p) := s.readMem who a n
    match who with
    | .core _ _ => s.answer (if p then .fault else .bytes bs false)
    | _ => s.answer (.bytes bs p)

/-- MEMORY_ACCESS (R28, R181, R397, R401): one access at a device address, of at most 256 B. -/
def execMemoryAccess (a : MemAccess) (s : State) : Out :=
  let x := a.addr.toNat
  let n := match a.data with | some bs => bs.length | none => a.bytes
  if !(s.mayIssue a.who) ∨ 256 < n then .next s
  else
    match regionOf x, a.who with
    | .port c, .core c' m => .next (
        if c = c'.val ∧ 0 < n ∧ x + n ≤ portBase c + 0x10000 then s.portAccess c' m (x - portBase c) n a.data
        else (s.accessFault a.who x).answer .fault)
    | .remote _, .core _ _ | .remote _, .dma _ => .next (
        let r := match a.data with
          | none => s.remoteRead a.who true x n
          | some bs => s.remoteWrite a.who true x (bs.map (·, false))
        if r.2 then r.1.answer .stalled else (r.1.accessFault a.who x).answer .fault)
    | r, _ =>
      if !(s.accessOk a.who x n a.data.isSome) then .next ((s.accessFault a.who x).answer .fault)
      else if a.pathError then .next ((s.notePath 15 (memUnit s x) x).answer .fault)
      else match r, a.data with
        | .ctl p, none => .next (s.answer (.bytes (leBytes 8 (s.ctlRead p (x - ctlAddr p 0)).toNat) false))
        | .ctl p, some bs => .next ((s.ctlWrite p (x - ctlAddr p 0) (w64 (leNat bs))).status .ok)
        | .mram, some bs => .next (if s.warn then (s.mramWait (.data x bs)).answer .stalled
            else ((s.upset x n a.upset).writeMem a.who x bs false).status .ok)
        | _, some bs => .next (((s.upset x n a.upset).writeMem a.who x bs false).status .ok)
        | .hbm, none => .next ((if a.uncorrectable then s.hbmPoison x n else s.upset x n a.upset).readServed a.who x n)
        | _, none => .next ((s.upset x n a.upset).readServed a.who x n)

end Sys2Proof.Machine
end

