-- ==== Sys2Proof/Machine/PolarCore.lean ====
section
/-!
DEFINITION. PolarCore.lean: the polar codes of TS 38.212 clauses 5.3.1, 5.4.1, 6.3.1, 7.1 and 7.3 (R309, R310): construction, parity-check
bits, interleavers, rate matching, and successive-cancellation list decoding. The polar sequence and the input pattern are the
standard's tables (`Config.polarOrder`, `Config.polarInput`). Decoding is in exact arithmetic (assumption 82: DESIGN CHOICE).
-/
namespace Sys2Proof.Machine

/-- The generator of CRC24C. -/
def crc24C (init : Nat) (l : List Bool) : Nat := crcFrom 24 0xB2B117 init l

/-- Segments of UCI of a bits in e coded bits (TS 38.212 clause 6.3.1.2.1). -/
def polarSegs (a e : Nat) : Nat := if 1013 ≤ a ∨ (360 ≤ a ∧ 1088 ≤ e) then 2 else 1

/-- The mother code length N for k bits with CRC in e coded bits (TS 38.212 clause 5.3.1). -/
def polarN (k e nmax : Nat) : Nat :=
  let l2 := fun x => minOf ((List.range 16).filter (fun n => x ≤ 2 ^ n))
  let n1 := let n := l2 e; if 8 * e ≤ 9 * 2 ^ (n - 1) ∧ 16 * k < 9 * e then n - 1 else n
  2 ^ max 5 (min (min n1 (l2 (8 * k))) nmax)

/-- The sub-block interleaver: where bit i of the rate-matched order comes from (clause 5.4.1.1). -/
def polarJ (n i : Nat) : Nat :=
  let p := [0, 1, 2, 4, 3, 5, 6, 7, 8, 16, 9, 17, 10, 18, 11, 19, 12, 20, 13, 21, 14, 22, 15, 23, 24, 25, 26, 28, 27, 29, 30, 31]
  p.getD (32 * i / n) 0 * (n / 32) + i % (n / 32)

/-- A code: mother length, information bits with CRC, coded bits, parity-check bits, of them those of least row weight. -/
structure PCode where
  n : Nat
  k : Nat
  e : Nat
  pc : Nat
  wm : Nat

/-- Whether puncturing is used where the code is cut. -/
def PCode.punct (c : PCode) : Bool := decide (16 * c.k ≤ 7 * c.e)

/-- Bit indices that rate matching freezes (clause 5.4.1.1). -/
def PCode.cut (c : PCode) : List Nat :=
  if c.n ≤ c.e then []
  else if c.punct then
    (List.range (c.n - c.e)).map (polarJ c.n) ++
      List.range (if 3 * c.n ≤ 4 * c.e then cdiv (3 * c.n - 2 * c.e) 4 else cdiv (9 * c.n - 4 * c.e) 16)
  else ((List.range (c.n - c.e)).map (c.e + ·)).map (polarJ c.n)

/-- The bit indices of information and parity-check bits, the most reliable last. -/
def PCode.info (c : PCode) : List Nat :=
  let l := ((List.range 1024).map Config.polarOrder).filter (fun i => decide (i < c.n) && !(c.cut.contains i))
  l.drop (l.length - (c.k + c.pc))

/-- Weight of a row of the generator: 2 to the ones of its index. -/
def rowWeight (i : Nat) : Nat := 2 ^ ((List.range 10).countP (fun b => i / 2 ^ b % 2 == 1))

/-- The parity-check bits: the least reliable, and those of least row weight among the rest, the most reliable of them. -/
def PCode.checks (c : PCode) : List Nat :=
  let q := c.info
  let r := q.drop c.pc
  let w := minOf (r.map rowWeight)
  let m := r.filter (fun i => rowWeight i == w)
  q.take (c.pc - c.wm) ++ m.drop (m.length - c.wm)

/-- One step of the parity-check register. -/
def pcTurn : List Bool → List Bool
  | [] => []
  | a :: r => r ++ [a]
/-- Bit i decided as v: the register after it. -/
def pcTake (y : List Bool) (v : Bool) : List Bool :=
  match y with
  | [] => []
  | a :: r => (a != v) :: r

/-- The encoder's input word, by index, from the bits left to place and the register (clause 5.3.1.2). -/
def pcPlace (info checks : List Nat) : List Nat → List Bool → List Bool → List Bool
  | [], _, _ => []
  | i :: r, c, y =>
    let y := pcTurn y
    if !(info.contains i) then false :: pcPlace info checks r c y
    else if checks.contains i then y.headD false :: pcPlace info checks r c y
    else c.headD false :: pcPlace info checks r c.tail (pcTake y (c.headD false))

/-- The polar transform of a word of 2^n bits. -/
def polarXform : Nat → List Bool → List Bool
  | 0, u => u
  | n + 1, u =>
    let h := 2 ^ n
    let a := polarXform n (u.take h)
    let b := polarXform n (u.drop h)
    (a.zip b).map (fun q => q.1 != q.2) ++ b

/-- log2 of a mother length. -/
def log2Of (n : Nat) : Nat := minOf ((List.range 16).filter (fun i => n ≤ 2 ^ i))

/-- The codeword of a segment before rate matching. -/
def PCode.encode (c : PCode) (bits : List Bool) : List Bool :=
  polarXform (log2Of c.n) (pcPlace c.info c.checks (List.range c.n) bits [false, false, false, false, false])

/-- The position in the sub-block interleaved word of coded bit i (clause 5.4.1.2). -/
def PCode.pos (c : PCode) (i : Nat) : Nat :=
  if c.n ≤ c.e then i % c.n else if c.punct then i + (c.n - c.e) else i

/-- The cells of the triangular interleaver of e bits, in the order they are read (clause 5.4.1.3): indices of the bits written. -/
def triOrder (e : Nat) : List Nat :=
  let t := minOf ((List.range 200).filter (fun t => 2 * e ≤ t * (t + 1)))
  (List.range t).flatMap (fun j => (List.range (t - j)).filterMap (fun i =>
    let k := i * t - i * (i - 1) / 2 + j
    if k < e then some k else none))

/-- Rate matching of a segment; `il` for the channel interleaver. -/
def PCode.match_ (c : PCode) (il : Bool) (d : List Bool) : List Bool :=
  let e := (List.range c.e).map (fun i => d.getD (polarJ c.n (c.pos i)) false)
  if il then (triOrder c.e).map (fun k => e.getD k false) else e

/-- The values of a segment's codeword from its coded bits: repeats added, shortened positions known to be 0, none elsewhere. -/
def PCode.recover (c : PCode) (il : Bool) (big : Int) (v : List Int) : List Int :=
  let e := if il then
      (((triOrder c.e).zip v).foldl (fun (a : Array Int) q => a.setIfInBounds q.1 q.2) (Array.replicate c.e 0)).toList
    else v
  let y : Array Int := if c.n ≤ c.e ∨ c.punct then Array.replicate c.n 0
    else ((List.range c.n).map (fun i => if i < c.e then (0 : Int) else big)).toArray
  let y := ((List.range c.e).zip e).foldl (fun (a : Array Int) q => a.modify (c.pos q.1) (· + q.2)) y
  (((List.range c.n).map (fun i => (polarJ c.n i, y.getD i 0))).foldl (fun (a : Array Int) q => a.setIfInBounds q.1 q.2)
    (Array.replicate c.n 0)).toList

/-! List decoding -/

/-- The value of bit i given the values of 2^n coded bits and the bits decided before it. -/
def polarLlr : Nat → List Int → List Bool → Nat → Int
  | 0, v, _, _ => v.headD 0
  | n + 1, v, u, i =>
    let h := 2 ^ n
    let ab := (v.take h).zip (v.drop h)
    if i < h then
      polarLlr n (ab.map (fun q => (if (q.1 < 0) != (q.2 < 0) then -1 else 1) * (min q.1.natAbs q.2.natAbs : Nat))) u i
    else
      let s := polarXform n (u.take h)
      polarLlr n ((ab.zip s).map (fun q => q.1.2 + (if q.2 then -q.1.1 else q.1.1))) (u.drop h) (i - h)

/-- A path: the bits decided, the information bits among them, the parity-check register, the metric. -/
structure PPath where
  u : List Bool
  c : List Bool
  y : List Bool
  m : Nat

/-- A path decides bit v; the metric grows by the value's magnitude where the bit goes against it. -/
def PPath.take (x : PPath) (l : Int) (v info : Bool) : PPath :=
  ⟨x.u ++ [v], if info then x.c ++ [v] else x.c, if info then pcTake x.y v else x.y, if v = decide (l < 0) then x.m else x.m + l.natAbs⟩

/-- The least metrics first, earlier paths first among equals. -/
def sortPaths (l : List PPath) : List PPath :=
  l.foldl (fun r x => r.takeWhile (fun z => decide (z.m ≤ x.m)) ++ [x] ++ r.dropWhile (fun z => decide (z.m ≤ x.m))) []

/-- Successive-cancellation list decoding with a list of `width`, over the bit indices left. -/
def PCode.list (c : PCode) (width : Nat) (v : List Int) : List Nat → List PPath → List PPath
  | [], ps => ps
  | i :: r, ps =>
    let lg := log2Of c.n
    let ps := ps.map (fun x => ({ x with y := pcTurn x.y } : PPath))
    let next := ps.flatMap (fun x =>
      let l := polarLlr lg v x.u i
      if !(c.info.contains i) then [x.take l false false]
      else if c.checks.contains i then [x.take l (x.y.headD false) false]
      else [x.take l false true, x.take l true true])
    c.list width v r ((sortPaths next).take width)

/-- A segment's paths, best first, from its coded values. -/
def PCode.decode (c : PCode) (il : Bool) (v : List Int) : List PPath :=
  let big := ((v.map Int.natAbs).sum + 1 : Nat)
  sortPaths (c.list 8 (c.recover il big v) (List.range c.n) [⟨[], [], [false, false, false, false, false], 0⟩])

/-- The code of a UCI segment: k bits with CRC in e coded bits (clause 6.3.1.3.1). -/
def uciCode (k e : Nat) : PCode :=
  if 18 ≤ k ∧ k ≤ 25 then ⟨polarN k e 10, k, e, 3, if k + 189 < e then 1 else 0⟩ else ⟨polarN k e 10, k, e, 0, 0⟩
/-- The code of a DCI or of the BCH (clauses 7.1.4, 7.3.3). -/
def dciCode (k e : Nat) : PCode := ⟨polarN k e 9, k, e, 0, 0⟩

/-- Input interleaving of k bits (clause 5.3.1.1). -/
def polarIl (c : List Bool) : List Bool :=
  (((List.range 164).map Config.polarInput).filter (fun p => decide (164 - c.length ≤ p))).map (fun p => c.getD (p - (164 - c.length)) false)

/-- A segment of UCI with its CRC (clause 6.3.1.2.1). -/
def uciCrc (a : Nat) (l : List Bool) : List Bool := l ++ (if a ≤ 19 then numBits 6 (crc6T l) else numBits 11 (crc11T l))

/-- DCI and BCH bits with CRC24C; a DCI's CRC starts from ones and its last 16 bits take the RNTI (clause 7.3.2). -/
def dciCrc (dci : Bool) (rnti : Nat) (l : List Bool) : List Bool :=
  let r := crc24C 0 (if dci then List.replicate 24 true ++ l else l)
  l ++ numBits 24 (if dci then r ^^^ (rnti % 2 ^ 16) else r)

/-- The segments of a UCI payload, zeros in front where it does not divide. -/
def uciSplit (segs : Nat) (l : List Bool) : List (List Bool) :=
  let per := cdiv l.length segs
  let l := List.replicate (per * segs - l.length) false ++ l
  (List.range segs).map (fun g => (l.drop (g * per)).take per)

end Sys2Proof.Machine
end

