-- ==== Sys2Proof/Machine/TurboCore.lean ====
section
/-!
DEFINITION. TurboCore.lean: the turbo code of TS 36.212 clause 5.1.3.2 (R307, R308): the constituent encoders with their trellis
termination, the QPP interleaver, and max-log-MAP decoding. The interleaver's table is the standard's (`Config.qpp`). Decoding is in exact
arithmetic: the spec gives the extrinsic scaling 11/16 and no word length (assumption 82: DESIGN CHOICE).
-/
namespace Sys2Proof.Machine

/-- A constituent encoder's three registers. -/
abbrev TState := Fin 8

/-- The feedback of a state: the second and third registers added. -/
def tcFeed (q : TState) : Bool := (q.val / 2 + q.val) % 2 == 1
/-- One step on an input bit: the next state and the parity bit (g0 = 1 + D² + D³, g1 = 1 + D + D³). -/
def tcStep (q : TState) (x : Bool) : TState × Bool :=
  let a := x != tcFeed q
  (⟨(b01 a * 4 + q.val / 2) % 8, Nat.mod_lt _ (by decide)⟩, a != ((q.val / 4 + q.val) % 2 == 1))

/-- The parity bits of an input and the state after it. -/
def tcRun (q : TState) : List Bool → TState × List Bool
  | [] => (q, [])
  | x :: r => let (q, z) := tcStep q x; let (q, zs) := tcRun q r; (q, z :: zs)

/-- The three tail steps that bring an encoder to state 0: inputs and parities. -/
def tcTail : Nat → TState → List (Bool × Bool)
  | 0, _ => []
  | n + 1, q => let x := tcFeed q; let (q, z) := tcStep q x; (x, z) :: tcTail n q

/-- Π(i) of the interleaver for K. -/
def qppAt (k i : Nat) : Nat := ((Config.qpp k).1 * i + (Config.qpp k).2 * i * i) % k

/-- Bits in interleaved order. -/
def interleave {α : Type} (k : Nat) (d : α) (c : List α) : List α := (List.range k).map (fun i => c.getD (qppAt k i) d)
/-- Values back in natural order. -/
def deinterleave (k : Nat) (v : List Int) : List Int :=
  (((List.range k).zip v).foldl (fun (a : Array Int) q => a.setIfInBounds (qppAt k q.1) q.2) (Array.replicate k 0)).toList

/-- The three output streams of a codeblock of K bits, each of K + 4 (TS 36.212 clause 5.1.3.2.2). -/
def tcStreams (c : List Bool) : List Bool × List Bool × List Bool :=
  let (q1, z1) := tcRun 0 c
  let (q2, z2) := tcRun 0 (interleave c.length false c)
  let t := fun (l : List (Bool × Bool)) (i : Nat) => l.getD i (false, false)
  let a := t (tcTail 3 q1)
  let b := t (tcTail 3 q2)
  (c ++ [(a 0).1, (a 1).2, (b 0).1, (b 1).2], z1 ++ [(a 0).2, (a 2).1, (b 0).2, (b 2).1], z2 ++ [(a 1).1, (a 2).2, (b 1).1, (b 2).2])

/-! Decoding. A value favours bit 0 where it is positive. -/

/-- The greater of two metrics, none standing for an impossible path. -/
def mMax : Option Int → Option Int → Option Int
  | none, b => b
  | a, none => a
  | some a, some b => some (max a b)
/-- The metric of a branch with input x and parity z on systematic value l and parity value p. -/
def branch (l p : Int) (x z : Bool) : Int := (if x then -l else 0) + (if z then -p else 0)
def mAdd (a : Option Int) (b : Int) : Option Int := a.map (· + b)

/-- One step forward of the state metrics. -/
def alphaStep (al : List (Option Int)) (l p : Int) : List (Option Int) :=
  (List.finRange 8).map (fun q' => (List.finRange 8).foldl (fun m q =>
    [false, true].foldl (fun m x =>
      let (n, z) := tcStep q x
      if n = q' then mMax m (mAdd (al.getD q.val none) (branch l p x z)) else m) m) none)
/-- One step backward. -/
def betaStep (be : List (Option Int)) (l p : Int) : List (Option Int) :=
  (List.finRange 8).map (fun q => [false, true].foldl (fun m x =>
    let (n, z) := tcStep q x
    mMax m (mAdd (be.getD n.val none) (branch l p x z))) none)

/-- The metrics of paths that start in, or end in, state 0. -/
def atZero : List (Option Int) := some 0 :: List.replicate 7 none

/-- The a posteriori value of a bit between forward metrics and the backward metrics after it. -/
def appOf (al be : List (Option Int)) (l p : Int) : Int :=
  let best := fun (x : Bool) => (List.finRange 8).foldl (fun m q =>
    let (n, z) := tcStep q x
    match al.getD q.val none, be.getD n.val none with
    | some a, some b => mMax m (some (a + b + branch l p x z))
    | _, _ => m) none
  match best false, best true with
  | some a, some b => a - b
  | _, _ => 0

/-- Backward metrics after each of the steps, the last first: those of the tail, which ends in state 0, come before them. -/
def betas (steps : List (Int × Int)) : List (List (Option Int)) :=
  (steps.foldr (fun s t => betaStep (t.headD atZero) s.1 s.2 :: t) [atZero])

/-- The a posteriori values of max-log-MAP over systematic and parity values, tail steps last. -/
def mapDecode (k : Nat) (steps : List (Int × Int)) : List Int :=
  let be := (betas steps).drop 1
  ((steps.take k).zip be).foldl (fun (q : List Int × List (Option Int)) s =>
    (q.1 ++ [appOf q.2 s.2 s.1.1 s.1.2], alphaStep q.2 s.1.1 s.1.2)) ([], atZero) |>.1

/-- Channel values of a codeblock: systematic, both parities, and the tails of both encoders. -/
structure TcInput where
  sys : List Int
  par1 : List Int
  par2 : List Int
  tail1 : List (Int × Int)
  tail2 : List (Int × Int)

/-- One half-iteration: systematic values with the a priori ones added, in units of `u`; a posteriori and extrinsic values. -/
def tcHalf (k : Nat) (u : Int) (sys par : List Int) (tail : List (Int × Int)) (ap : List Int) : List Int × List Int :=
  let ls := (sys.zip ap).map (fun q => q.1 * u + q.2)
  let app := mapDecode k ((ls.zip par).map (fun q => (q.1, q.2 * u)) ++ tail.map (fun q => (q.1 * u, q.2 * u)))
  (app, (app.zip ls).map (fun q => q.1 - q.2))

/-- One iteration on a priori values in units of u: the hard decisions and the next a priori values, in units of 256u. -/
def tcIterate (k : Nat) (x : TcInput) (u : Int) (ap : List Int) : List Bool × List Int :=
  let (_, e1) := tcHalf k u x.sys x.par1 x.tail1 ap
  let (app, e2) := tcHalf k (16 * u) (interleave k 0 x.sys) x.par2 x.tail2 (interleave k 0 (e1.map (11 * ·)))
  ((deinterleave k app).map (· < 0), deinterleave k (e2.map (11 * ·)))

end Sys2Proof.Machine
end

