-- ==== Sys2Proof/Machine/Coding.lean ====
section
/-! DEFINITION. Coding.lean: the LDPC decoders and encoders, the turbo codec and the polar codec (R282 to R310). -/
namespace Sys2Proof.Machine

/-! Checks (R283, R287) -/

/-- The ARG words of a coding job (R283); `res` says that RES may not be 0. -/
def cdArgsOk (x : Entry) (res : Bool) : Bool :=
  let d := x.desc
  !(d.inslot && d.nops == 0) && bf d.a0 60 33 == 0 && bf d.a0 31 0 == 0 && bf d.a1 63 40 % 64 == 0 && bf d.a2 63 40 == 0 &&
  bf d.a3 63 40 == 0 && (!res || bf d.a3 39 0 != 0)

/-- The ranges of the block's fields: kind 0 LD DECODE, 1 LD TBCRC, 2 LE ENCODE, 3 TC DECODE, 4 TC ENCODE, 5 TC TBCRC. -/
def tbRanges (b : List Byte) (t : Tb) (kind : Nat) : Bool :=
  let ld := decide (kind ≤ 2)
  let dec := kind == 0 || kind == 3
  let enc := kind == 2 || kind == 4
  (if ld then decide (24 ≤ t.tbs) && decide (t.tbs ≤ 1277992) && t.tbs % 8 == 0 else decide (16 ≤ t.tbs) && decide (t.tbs ≤ 391656)) &&
  decide (1 ≤ t.ncb) && (if ld then t.bg == 1 || t.bg == 2 else t.bg == 0) && [1, 2, 4, 6, 8].contains t.qm &&
  decide (1 ≤ t.nl) && decide (t.nl ≤ 4) && decide (t.rv ≤ 3) && decide (t.cinit < 2 ^ 31) && t.wb != 3 &&
  (!t.mod || enc) && decide (t.inShift ≤ 4) && (t.inShift == 0 || dec) &&
  (if enc then t.itMax == 0 else if ld then decide (1 ≤ t.itMax) && decide (t.itMax ≤ 32) else decide (1 ≤ t.itMax) && decide (t.itMax ≤ 8)) &&
  decide (t.offset ≤ 15) && (t.offset == 0 || kind == 0) && decide (t.seq < 16) && bf t.bank 14 9 == 0 && decide (t.carrier ≤ 383) &&
  decide (t.amp ≤ 32767) && (t.amp == 0 || (enc && t.mod)) && le b 38 2 == 0 && t.harq % 64 == 0 && decide (t.harq < 2 ^ 40) && le b 52 12 == 0

/-- The cases of R287. -/
def tbOk (s : State) (p : Nat) (b : List Byte) (t : Tb) (d : Dims) (kind : Nat) : Bool :=
  let ctx := if t.cTx = 0 then d.c else t.cTx
  tbRanges b t kind && decide (t.firstCb + t.ncb ≤ d.c) && decide (t.rFirst + t.ncb ≤ ctx) && decide (t.cTx ≤ d.c) &&
  t.g % (t.qm * t.nl) == 0 && ((t.harqNew && t.wb == 0) || t.harq != 0) &&
  (!t.bankEn || s.fld (Key.knPlanCfg t.carrier) 62 60 == p) &&
  (kind < 3 || (t.firstCb == 0 && t.ncb == d.c)) &&
  (!(kind == 2 || kind == 4) || t.mod || eBefore t d t.rFirst % 8 == 0)

/-! DECODE -/

/-- Per-codeblock sizes of a job: buffer length, start, the header's Zc field, BG field, positions that hold nothing. -/
structure CbDims where
  nb : Nat
  k0 : Nat
  z : Nat
  bgf : Nat
  skip : Nat → Bool

def cbDims (turbo : Bool) (t : Tb) (d : Dims) (r : Nat) : CbDims :=
  if turbo then
    let k := tcK d r
    ⟨tcNcb t k, tcK0 t k, k, 3, tcNull k (if r = 0 then d.fill else 0)⟩
  else ⟨d.nb, d.k0, d.zc, t.bg, ldFiller d⟩

/-- Bytes at a whose words are poisoned, by place. -/
def poisonedBytes (s : State) (a n : Nat) : List Bool := (List.range n).map (fun i => s.poisoned (a + i))

/-- A HARQ slot read, with the flags OLD_PASSED, MISMATCH, NEW_USED (R284, R295). -/
def readHarq (x : Run) (p : Fin 8) (t : Tb) (cd : CbDims) (r : Nat) : Run × HarqIn :=
  let fresh : HarqIn := ⟨false, List.replicate cd.nb 0, 0, 0, 1⟩
  if t.harqNew then (x, { fresh with flags := 0 })
  else
    let a := t.harq + r * harqSlot cd.nb
    let (x, h) := x.read p a 64
    if x.bad ≠ 0 then (x, fresh)
    else
      let f := le h 11 1
      let same := f % 2 == 1 && le h 0 4 == t.htag && le h 4 4 == cd.nb && le h 8 2 == cd.z && le h 10 1 == cd.bgf
      let passed := f / 2 % 2 == 1
      if same && !passed then
        let n := 3 * cdiv cd.nb 4
        let (x, g) := x.read p (a + 64) n
        let bad := poisonedBytes x.s (a + 64) n
        let gone := fun j => let b := 3 * (j / 4) + 6 * (j % 4) / 8; bad.getD b false ||
          (decide (6 * (j % 4) % 8 + 6 > 8) && bad.getD (b + 1) false)
        (x, ⟨true, (List.range cd.nb).map (fun j => if gone j || cd.skip j then 0 else harqGet g j),
          ((List.range cd.nb).filter (fun j => gone j && !cd.skip j)).length, le h 12 2, 0⟩)
      else (x, { fresh with flags := 1 + 2 * b01 (!same) + 4 * b01 passed })

/-- A HARQ slot written (R296). -/
def writeHarq (x : Run) (p : Fin 8) (t : Tb) (cd : CbDims) (r : Nat) (h : HarqIn) (v : List Int) (pass : Bool) : Run × Bool :=
  let a := t.harq + r * harqSlot cd.nb
  let xc := if h.used then min (h.xcnt + 1) 65535 else 1
  let hdr := fun f => leBytes 4 t.htag ++ leBytes 4 cd.nb ++ leBytes 2 cd.z ++ leBytes 1 cd.bgf ++ leBytes 1 f ++ leBytes 2 xc ++
    List.replicate 50 0
  if t.wb = 2 ∨ (t.wb = 1 ∧ !pass) then
    let vs := v.zipIdx.map (fun q => if cd.skip q.2 then 0 else q.1)
    (((x.write p a (hdr 0)).write p (a + 64) (harqPut vs)).write p a (hdr 1), true)
  else if t.wb = 1 ∧ pass then (x.write p a (hdr 3), false)
  else (x, false)

/-- RESULT of a completion token (table RESULT in the completion token). -/
def resultOf (all : Bool) (tb failed : Nat) : Nat := b01 all * 2 ^ 15 + tb * 2 ^ 13 + min failed 8191

/-! A DECODE job runs one draw at a time, so that draws of other units and a reopening of its bank fall between its own (R302, R303):
its first command reads its input, each later one starts the next codeblock or makes the next draw of the one under decode, and the
one that ends its last codeblock writes its record (assumption 36). -/

/-- A job's parameters as its block gives them. -/
structure DecodePar where
  turbo : Bool
  t : Tb
  d : Dims

def DecodeJob.par (j : DecodeJob) (turbo : Bool) : DecodePar :=
  let t := tbOf j.block
  ⟨turbo, t, if turbo then tcDims t else ldDims t⟩

/-- The bank instance a job names. -/
def DecodePar.bank (q : DecodePar) (s : State) : Bank := s.bankOf q.t.carrier (q.t.seq % 8)
def DecodePar.setBank (q : DecodePar) (s : State) (b : Bank) : State := s.setBank q.t.carrier (q.t.seq % 8) b

/-- The decoder input of a codeblock (step 6 of R288): none for the punctured bits and places never received, +31 for filler bits. -/
def ldInput (t : Tb) (d : Dims) (comb : List Int) : List Int :=
  let c := comb.toArray
  (List.range (bgCols t.bg * d.zc)).map (fun q =>
    if q < 2 * d.zc then (0 : Int) else if ldFiller d (q - 2 * d.zc) then 31 else c.getD (q - 2 * d.zc) 0)

/-- The channel values of a turbo codeblock: filler bits are known to be 0 (R307). -/
def tcInput (d : Dims) (r : Nat) (cd : CbDims) (comb : List Int) : TcInput :=
  let k := tcK d r
  let c := comb.toArray
  let fill := if r = 0 then d.fill else 0
  let m := (List.range cd.nb).foldl (fun (a : Array Int) j => match tcSource k j with
    | some (st, i) => a.setIfInBounds (st * (k + 4) + i) (c.getD j 0)
    | none => a) (Array.replicate (3 * (k + 4)) 0)
  let g := fun st i => m.getD (st * (k + 4) + i) 0
  ⟨(List.range k).map (fun i => if i < fill then 31 else g 0 i), (List.range k).map (fun i => if i < fill then 31 else g 1 i),
   (List.range k).map (g 2),
   [(g 0 k, g 1 k), (g 2 k, g 0 (k + 1)), (g 1 (k + 1), g 2 (k + 1))],
   [(g 0 (k + 2), g 1 (k + 2)), (g 2 (k + 2), g 0 (k + 3)), (g 1 (k + 3), g 2 (k + 3))]⟩

/-- Whether hard decisions pass their CRC: CRC24B for C > 1, the transport block's for C = 1 (R292). -/
def cbPass (d : Dims) (h : List Bool) : Bool := if d.c = 1 then tbCrcOk d.crc h else crc24B h == 0

/-- Iteration k of codeblock r: its new values, messages, hard decisions without filler, and unsatisfied checks (1 for TC). -/
def iterate (q : DecodePar) (r : Nat) (x : CbRun) : CbRun × Nat :=
  if q.turbo then
    let k := tcK q.d r
    let (h, ap) := tcIterate k (tcInput q.d r (cbDims true q.t q.d r) x.comb) (256 ^ x.k) x.vals
    ({ x with vals := ap, bits := if r = 0 then h.drop q.d.fill else h }, 1)
  else
    let m := activeRows q.t.bg q.d.zc (ldInput q.t q.d x.comb)
    let (v, ms) := ldIteration q.t.bg q.d.zc m q.t.offset (x.vals, x.msgs)
    ({ x with vals := v, msgs := ms, bits := (hardBits v).take q.d.kp }, unsatisfied q.t.bg q.d.zc m (hardBits v))

/-- The cost of an iteration (R290, R300). -/
def iterCost (q : DecodePar) (r : Nat) (comb : List Int) : Nat :=
  if q.turbo then cdiv (tcK q.d r) 8 else activeRows q.t.bg q.d.zc (ldInput q.t q.d comb) * cdiv q.d.zc 16

/-- The next codeblock's transmission and HARQ slot are combined (steps 1 to 5 of R288); no transfer follows a failed one. -/
def combine (q : DecodePar) (p : Fin 8) (j : DecodeJob) (x : Run) : Run × CbRun :=
  let t := q.t
  let i := j.outs.length
  let r := t.firstCb + i
  let cd := cbDims q.turbo t q.d r
  let e := eOf t q.d (t.rFirst + i)
  let off := eBefore t q.d (t.rFirst + i)
  let at0 := off - eBefore t q.d t.rFirst
  let er := (j.gone.drop at0).take e
  let xs := (((j.llrs.drop at0).take e).zip er).map (fun q => if q.2 then (0 : Int) else sgn 8 q.1.toNat)
  let v := softIn t.inShift (if t.scr then gold t.cinit off e else List.replicate e false) xs
  let v := if q.turbo then v else bitDeil t.qm v
  let nw := accumulate cd.nb (rmOrder cd.nb cd.k0 e cd.skip) v
  let (x, h) := readHarq x p t cd r
  let comb := (h.llrs.zip nw).map (fun q => max (-31) (min 31 (q.1 + q.2)))
  let vals := if q.turbo then List.replicate (tcK q.d r) 0 else (ldInput t q.d comb).map (2 * ·)
  (x, ⟨h, (er.filter id).length, comb, vals, [], [], 0, [], 0⟩)

/-- The bits a codeblock writes (R293): hard decisions without filler and CRC24B. -/
def payloadOf (q : DecodePar) (bits : List Bool) : List Bool :=
  if q.d.c = 1 then bits.take (q.t.tbs + q.d.crc) else bits.take (bits.length - 24)

/-- A codeblock is counted for its unit, and for its carrier's bank and slot (`CD_Pp_Ak_` and `CD_BANK_STAT`). -/
def DecodePar.count (q : DecodePar) (s : State) (p k : Nat) (o : CbOut) : State :=
  let s := s.incSat (Key.cdCb p k) 63 32 1
  let s := if o.status = csPass then s else s.incSat (Key.cdCb p k) 31 16 1
  let s := if o.flags / 2 % 2 = 1 then s.incSat (Key.cdCb p k) 15 0 1 else s
  let s := s.inc64 (Key.cdIter p k) o.iters
  let s := if 0 < o.erased then s.inc32 (Key.cdErased p k) 1 else s
  if !q.t.bankEn then s
  else
    let key := Key.cdBankStat q.t.carrier
    let s := if o.status = csBankEmpty then s.incSat key 47 32 1 else if o.status = csGaveUp then s.incSat key 31 16 1 else s
    let slot := q.t.carrier * 16 + q.t.seq
    if (o.status = csLate ∨ o.status = csNoTime) ∧ !(tget false s.lateSlot slot) then
      ({ s with lateSlot := tput s.lateSlot slot true }).incSat key 63 48 1
    else s

/-- The bank turns out to be another slot's (R299, R303): the job is stale, which is counted once. -/
def DecodePar.goStale (q : DecodePar) (s : State) (j : DecodeJob) : State × DecodeJob :=
  if j.stale then (s, j) else (s.incSat (Key.cdBankStat q.t.carrier) 15 0 1, { j with stale := true })

/-- The end of a job: its record is written, and its completion waits for ACCEL_JOB_COMPLETE. -/
def finishDecode (q : DecodePar) (p : Fin 8) (k : Nat) (a : Desc) (j : DecodeJob) (s : State) : State :=
  let os := j.outs
  let pass := (os.filter (fun o => o.status = csPass)).length
  let all := pass == os.length
  let bits := os.flatMap (fun o => o.bits.getD [])
  let tb := if q.d.c = 1 then (if os.all (fun o => o.bits.isNone) then 0 else if all then 1 else 2)
    else if q.t.ncb = q.d.c ∧ all then (if tbCrcOk q.d.crc bits then 1 else 2) else 0
  let rec_ := leBytes 2 os.length ++ leBytes 2 pass ++ leBytes 1 tb ++
    leBytes 1 (2 * b01 (!j.banked && !j.stale) + b01 j.stale) ++
    leBytes 2 0 ++ leBytes 4 (os.map (·.drawn)).sum ++ leBytes 4 0 ++
    os.flatMap (fun o => leBytes 1 o.status ++ leBytes 1 o.iters ++ leBytes 2 o.w ++ leBytes 2 o.erased ++ leBytes 1 o.flags ++ leBytes 1 0)
  let y := Run.write ⟨s, 0, false, 0⟩ p (bf a.a3 39 0) rec_
  { y.s with decode := tdel y.s.decode (jobKey p.val k)
             job := tput y.s.job (jobKey p.val k)
               ⟨j.pack, j.entry, if y.bad ≠ 0 then y.bad else jsOk, resultOf all tb (os.length - pass), false, 0, j.cycles⟩ }

/-- A failed transfer ends a job: no further one is issued, and its later codeblocks are not decoded (R258). -/
def failDecode (p : Fin 8) (k : Nat) (j : DecodeJob) (s : State) (bad : Nat) : State :=
  { s with decode := tdel s.decode (jobKey p.val k)
           job := tput s.job (jobKey p.val k) ⟨j.pack, j.entry, bad, 0, false, 0, j.cycles⟩ }

/-- A codeblock ends: it is counted, and the job goes on with the next or ends. -/
def endCb (q : DecodePar) (p : Fin 8) (k : Nat) (a : Desc) (j : DecodeJob) (o : CbOut) (cyc : Nat) (s : State) : State :=
  let s := q.count s p.val k o
  let j := { j with cur := none, outs := j.outs ++ [o], cycles := j.cycles + cyc }
  if j.outs.length < q.t.ncb then { s with decode := tput s.decode (jobKey p.val k) j } else finishDecode q p k a j s

/-- A codeblock that is not decoded (NO_TIME). -/
def noTime : CbOut := ⟨csNoTime, 0, 0, 0, 0, 0, none⟩

/-- The codeblock under decode stops: its HARQ slot and its payload are written, without marking (R284, R293, R296). -/
def stopCb (q : DecodePar) (p : Fin 8) (k : Nat) (a : Desc) (j : DecodeJob) (x : CbRun) (status : Nat) (s : State) : State :=
  let i := j.outs.length
  let r := q.t.firstCb + i
  let cd := cbDims q.turbo q.t q.d r
  let payload := payloadOf q x.bits
  let y : Run := ⟨s, 0, false, 0⟩
  let (y, wr) := writeHarq y p q.t cd r x.harq x.comb (status == csPass)
  let y := if x.k = 0 then y
    else y.write p (a.out + r * (if q.d.c = 1 then 0 else (q.t.tbs + 24) / (8 * q.d.c))) (packBits payload)
  let ran := x.k * iterCost q r x.comb
  let cyc := max ((if q.turbo then 64 else 56) + ran)
    (max (cdiv (eOf q.t q.d (q.t.rFirst + i)) 32) (if q.t.harq = 0 then 0 else cdiv cd.nb 64))
  if y.bad ≠ 0 then failDecode p k { j with cycles := j.cycles + cyc } y.s y.bad
  else
    let o : CbOut := ⟨status, x.k, if q.turbo then 0 else min (x.ws.headD 0) 65535, min (x.erased + x.harq.erased) 65535,
      x.harq.flags + 8 * b01 wr, x.drawn, some payload⟩
    endCb q p k a j o cyc y.s

/-- What the fair share of an ended codeblock that ran k iterations leaves in OWED (R300). -/
def Bank.settle (b : Bank) (k : Nat) : Bank := { b with owed := b.owed - (b.fair - k) }

/-- The next draw of the codeblock under decode and the iteration it pays for (R292, R300); a bank reopened meanwhile ends it LATE
(R303). -/
def drawCb (q : DecodePar) (p : Fin 8) (k : Nat) (a : Desc) (j : DecodeJob) (x : CbRun) (s : State) : State :=
  let r := q.t.firstCb + j.outs.length
  let b := q.bank s
  if j.banked ∧ b.seq ≠ q.t.seq then
    let (s, j) := q.goStale s j
    stopCb q p k a j x csLate s
  else
    let cost := iterCost q r x.comb
    let stop := fun (x : CbRun) (st : Nat) (s : State) =>
      stopCb q p k a j x st (if j.banked then q.setBank s ((q.bank s).settle x.k) else s)
    if x.k = q.t.itMax then stop x csMaxIt s
    else if j.banked ∧ b.close < s.now + aclkT cost then stop x csLate s
    else if j.banked ∧ b.left < (if x.k < b.fair then cost else cost + b.owed * cost) then stop x csBankEmpty s
    else
      let s := if j.banked then q.setBank s { b with
        left := b.left - cost, owed := if x.k < b.fair ∧ 0 < b.owed then b.owed - 1 else b.owed } else s
      let (x, w) := iterate q r x
      let x := { x with k := x.k + 1, ws := w :: x.ws, drawn := x.drawn + (if j.banked then cost else 0) }
      let win := bf b.gu 11 8
      if cbPass q.d x.bits then stop x csPass s
      else if w = 0 then stop x csCrcFail s
      else if j.banked ∧ !q.turbo ∧ bf b.gu 7 0 ≠ 0 ∧ bf b.gu 23 16 ≤ x.k ∧ win < x.k ∧ x.ws.getD win 0 * bf b.gu 7 0 < w * 256 then
        stop x csGaveUp s
      else { s with decode := tput s.decode (jobKey p.val k) { j with cur := some x } }

/-- The next codeblock starts: NO_TIME after the close or with a bank that is another slot's (R299, R300, R303), else it is combined. -/
def startCb (q : DecodePar) (p : Fin 8) (k : Nat) (a : Desc) (j : DecodeJob) (s : State) : State :=
  let r := q.t.firstCb + j.outs.length
  let b := q.bank s
  let first := if q.turbo then cdiv (tcK q.d r) 8 else 4 * cdiv q.d.zc 16
  if j.stale then endCb q p k a j noTime 8 s
  else if j.banked ∧ b.seq ≠ q.t.seq then
    let (s, j) := q.goStale s j
    endCb q p k a j noTime 8 s
  else if j.banked ∧ b.close < s.now + aclkT first then
    endCb q p k a j noTime 8 (q.setBank s (b.settle 0))
  else
    let (x, cb) := combine q p j ⟨s, 0, false, 0⟩
    if x.bad ≠ 0 then failDecode p k j x.s x.bad
    else { x.s with decode := tput x.s.decode (jobKey p.val k) { j with cur := some cb } }

/-- A DECODE job starts (R287, R288, R299, R300): its block and LLRs are read, and its slot's codeblocks declared to the bank. -/
def startDecode (turbo : Bool) (p : Fin 8) (k q i : Nat) (s : State) : State :=
  let e := s.entry q i
  let a := e.desc
  let fail := fun (s : State) (st cyc : Nat) =>
    { s with job := tput s.job (jobKey p.val k) ⟨q, i, st, 0, false, 0, cyc⟩ }
  if !(cdArgsOk e true) then fail s jsParam 0
  else
    let (x, b) := Run.readPm ⟨s, 0, false, 0⟩ p (bf a.a1 63 40) 64
    let t := tbOf b
    let d := if turbo then tcDims t else ldDims t
    if x.bad ≠ 0 then fail x.s x.bad 0
    else if !(tbOk x.s p.val b t d (if turbo then 3 else 0)) then fail x.s jsParam 0
    else
      let n := ((List.range t.ncb).map (fun i => eOf t d (t.rFirst + i))).sum
      let src := e.input + eBefore t d t.rFirst
      let (x, llr) := x.read p src n
      if x.bad ≠ 0 then fail x.s x.bad 64
      else
        let s := x.s
        let par : DecodePar := ⟨turbo, t, d⟩
        let bank := par.bank s
        let stale := t.bankEn && bank.seq != t.seq
        let banked := t.bankEn && !stale && bank.isOpen
        let s := if banked ∧ bank.decl < t.slotNcb then
            par.setBank s { bank with owed := bank.owed + bank.fair * (t.slotNcb - bank.decl), decl := t.slotNcb } else s
        let s := if stale then s.incSat (Key.cdBankStat t.carrier) 15 0 1 else s
        { s with decode := tput s.decode (jobKey p.val k) ⟨q, i, b, llr, poisonedBytes s src n, banked, stale, none, [], 0⟩ }

/-- The next act of the DECODE job on unit k of pack p; a unit without a job of this OP does nothing. -/
def State.runDecode (s : State) (turbo : Bool) (p : Fin 8) (k : Nat) : State :=
  match tfind s.decode (jobKey p.val k) with
  | some j =>
    let a := (s.entry j.pack j.entry).desc
    match j.cur with
    | none => startCb (j.par turbo) p k a j s
    | some x => drawCb (j.par turbo) p k a j x s
  | none =>
    match s.taskOn (accUnit p.val k) with
    | none => s
    | some (q, i) =>
      if (tfind s.job (jobKey p.val k)).isSome ∨ (s.entry q i).desc.op ≠ 0 then s else startDecode turbo p k q i s

/-- LD_DECODE (R288 to R304): the next act of the decoder's job. -/
def execLdDecode (p : Fin 8) (k : Fin 6) (s : State) : Out := .next (s.runDecode false p k.val)
/-- TC_DECODE (R307): the next act of the codec's job. -/
def execTcDecode (p : Fin 8) (s : State) : Out := .next (s.runDecode true p 8)

/-! TBCRC -/

/-- A TBCRC job (R285). -/
def tbcrcJob (turbo : Bool) (p : Fin 8) (x : Run) (e : Entry) : Run × Nat × Nat × Nat :=
  let a := e.desc
  if !(cdArgsOk e true) then x.param
  else
    let (x, b) := x.readPm p (bf a.a1 63 40) 64
    let t := tbOf b
    let d := if turbo then tcDims t else ldDims t
    if x.bad = 0 ∧ !(tbOk x.s p.val b t d (if turbo then 5 else 1)) then x.param
    else
      let (x, bs) := x.read p e.input ((t.tbs + d.crc) / 8)
      if x.bad ≠ 0 then (x, 0, 0, 64)
      else
        let l := bitsOf bs
        let rem := if d.crc = 24 then crc24A l else crc16T l
        let ok := rem == 0
        let y := { x with poison := false }.write p (bf a.a3 39 0) (leBytes 4 (if ok then 1 else 2) ++ leBytes 4 rem ++ leBytes 8 0)
        (y, resultOf ok (if ok then 1 else 2) 0, 0, 64 + cdiv t.tbs 512)

/-- LD_TBCRC (R285). -/
def execLdTbcrc (p : Fin 8) (k : Fin 6) (s : State) : Out := .next (s.runJob p k.val [1] (tbcrcJob false p))
/-- TC_TBCRC (R285). -/
def execTcTbcrc (p : Fin 8) (s : State) : Out := .next (s.runJob p 8 [2] (tbcrcJob true p))

/-! ENCODE -/

/-- The E coded bits of transmitted codeblock i of a job, from its transport block's bits with CRC. -/
def encodeCb (turbo : Bool) (t : Tb) (d : Dims) (tb : List Bool) (i : Nat) : List Bool :=
  let r := t.firstCb + i
  let cd := cbDims turbo t d r
  let e := eOf t d (t.rFirst + i)
  let cut := if turbo then
      let k := fun q => tcK d q - (if d.c = 1 then 0 else 24) - (if q = 0 then d.fill else 0)
      (tb.drop ((List.range r).map k).sum).take (k r)
    else if d.c = 1 then tb else (tb.drop (r * (d.kp - 24))).take (d.kp - 24)
  let cb := if d.c = 1 then cut else cut ++ numBits 24 (crc24B cut)
  let buf : Nat → Bool := if turbo then
      let k := tcK d r
      let (a, b, c) := tcStreams (List.replicate (k - cb.length) false ++ cb)
      let w := [a.toArray, b.toArray, c.toArray]
      fun j => match tcSource k j with | some (st, q) => (w.getD st #[]).getD q false | none => false
    else
      let c := (ldEncode t.bg d.zc (cb ++ List.replicate (d.k - d.kp) false)).toArray
      fun j => c.getD (j + 2 * d.zc) false
  let sel := (rmOrder cd.nb cd.k0 e cd.skip).map buf
  let sel := if turbo then sel else bitIl t.qm sel
  if t.scr then (sel.zip (gold t.cinit (eBefore t d (t.rFirst + i)) e)).map (fun q => q.1 != q.2) else sel

/-- The c16 symbols of coded bits (R305). -/
def modSymbols (qm amp : Nat) : Nat → List Bool → List Nat
  | 0, _ => []
  | n + 1, b =>
    let q := qamPoint qm (b.take qm)
    packC (ampComp amp (qamNorm qm) q.1) (ampComp amp (qamNorm qm) q.2) :: modSymbols qm amp n (b.drop qm)

/-- An ENCODE job (R305, R306, R308). -/
def encodeJob (turbo : Bool) (p : Fin 8) (x : Run) (e : Entry) : Run × Nat × Nat × Nat :=
  let a := e.desc
  if !(cdArgsOk e false) then x.param
  else
    let (x, b) := x.readPm p (bf a.a1 63 40) 64
    let t := tbOf b
    let d := if turbo then tcDims t else ldDims t
    if x.bad = 0 ∧ !(tbOk x.s p.val b t d (if turbo then 4 else 2)) then x.param
    else
      let whole := turbo || t.firstCb + t.ncb == d.c
      let per := (d.kp - 24) / 8
      let (x, bs) := if whole then x.read p e.input (t.tbs / 8)
        else x.read p (e.input + t.firstCb * per) (t.ncb * per)
      if x.bad ≠ 0 then (x, 0, 0, 64)
      else
        let info := if whole then bitsOf bs else List.replicate (t.firstCb * per * 8) false ++ bitsOf bs
        let tb := info ++ (if whole then (if d.crc = 24 then numBits 24 (crc24A info) else numBits 16 (crc16T info)) else [])
        let code := (List.range t.ncb).flatMap (encodeCb turbo t d tb)
        let off := eBefore t d t.rFirst
        let cyc := ((List.range t.ncb).map (fun i =>
          let el := eOf t d (t.rFirst + i)
          let k := if turbo then tcK d (t.firstCb + i) else d.k
          (if turbo then 32 else 40) + max (if turbo then cdiv k 32 else cdiv k 48) (max (cdiv el 96) (if t.mod then cdiv el (8 * t.qm) else 0)))).sum
        let x := if t.mod then
            x.write p (a.out + 4 * (off / t.qm)) (sampleBytes (modSymbols t.qm t.amp (code.length / t.qm) code))
          else x.writeBits p a.out off code
        (x, resultOf false 0 0, 0, cyc)

/-- LE_ENCODE (R305). -/
def execLeEncode (p : Fin 8) (k : Fin 2) (s : State) : Out := .next (s.runJob p (6 + k.val) [0] (encodeJob false p))
/-- TC_ENCODE (R308). -/
def execTcEncode (p : Fin 8) (s : State) : Out := .next (s.runJob p 8 [1] (encodeJob true p))

/-! Polar codec -/

/-- The polar parameter block's limits (R309, R310); an ENCODE's A as the channel allows. -/
def polarOk (b : List Byte) (enc : Bool) : Bool :=
  let n := le b 0 2
  let ch := le b 4 1
  let f := w64 (le b 5 1)
  decide (1 ≤ le b 2 2) && decide (le b 2 2 ≤ 16384) && decide (ch ≤ 2) && bf f 6 3 == 0 && decide (bf f 2 0 ≤ 4) &&
  decide (le b 8 4 < 2 ^ 31) && le b 12 52 == 0 && (le b 6 2 == 0 || ch == 1) &&
  (if enc then bf f 2 0 == 0 && (match ch with
      | 0 => decide (12 ≤ n) && decide (n ≤ 1706)
      | 1 => decide (1 ≤ n) && decide (n ≤ 140)
      | _ => n == 32)
    else ch == 0 && decide (12 ≤ n) && decide (n ≤ 1706))

/-- A polar DECODE job (R309). -/
def polarDecode (p : Fin 8) (x : Run) (e : Entry) : Run × Nat × Nat × Nat :=
  let a := e.desc
  if !(cdArgsOk e true) then x.param
  else
    let (x, b) := x.readPm p (bf a.a1 63 40) 64
    if x.bad = 0 ∧ !(polarOk b false) then x.param
    else
      let n := le b 0 2
      let el := le b 2 2
      let (x, llr) := x.read p e.input el
      if x.bad ≠ 0 then (x, 0, 0, 128)
      else
        let gone := poisonedBytes x.s e.input el
        let f := w64 (le b 5 1)
        let xs := (llr.zip gone).map (fun q => if q.2 then (0 : Int) else sgn 8 q.1.toNat)
        let v := softIn (bf f 2 0) (if bit f 7 then gold (le b 8 4) 0 el else List.replicate el false) xs
        let segs := polarSegs n el
        let crc := if n ≤ 19 then 6 else 11
        let per := cdiv n segs
        let es := el / segs
        let code := uciCode (per + crc) es
        let dec := (List.range segs).map (fun g =>
          let ps := code.decode true ((v.drop (g * es)).take es)
          let good := ps.findIdx? (fun x => if crc = 6 then crc6T x.c == 0 else crc11T x.c == 0)
          (good.isSome, good.getD 0, ps.getD (good.getD 0) ⟨[], [], [], 0⟩))
        let ok := dec.all (·.1)
        let bits := dec.flatMap (fun q => q.2.2.c.take per)
        let bits := bits.drop (bits.length - n)
        let first := dec.headD (false, 0, ⟨[], [], [], 0⟩)
        let rec_ := leBytes 1 (b01 (!ok)) ++ leBytes 1 segs ++ leBytes 1 first.2.1 ++ leBytes 1 0 ++
          leBytes 4 (Config.polarMetric first.2.2.m).toNat ++ leBytes 8 0
        let y := ({ x with poison := false }.write p a.out (packBits bits)).write p (bf a.a3 39 0) rec_
        (y, resultOf ok (if ok then 1 else 2) (dec.filter (!·.1)).length, 0, segs * (128 + cdiv (code.n * log2Of code.n) 4))

/-- PC_DECODE (R309). -/
def execPcDecode (p : Fin 8) (s : State) : Out := .next (s.runJob p 9 [0] (polarDecode p))

/-- A polar ENCODE job (R310). -/
def polarEncode (p : Fin 8) (x : Run) (e : Entry) : Run × Nat × Nat × Nat :=
  let a := e.desc
  if !(cdArgsOk e false) then x.param
  else
    let (x, b) := x.readPm p (bf a.a1 63 40) 64
    if x.bad = 0 ∧ !(polarOk b true) then x.param
    else
      let n := le b 0 2
      let el := le b 2 2
      let ch := le b 4 1
      let (x, bs) := x.read p e.input (cdiv n 8)
      if x.bad ≠ 0 then (x, 0, 0, 64)
      else
        let l := (bitsOf bs).take n
        let segs := if ch = 0 then polarSegs n el else 1
        let code := if ch = 0 then uciCode (cdiv n segs + if n ≤ 19 then 6 else 11) (el / segs) else dciCode (n + 24) el
        let coded := if ch = 0 then (uciSplit segs l).flatMap (fun c => code.match_ true (code.encode (uciCrc n c)))
          else code.match_ false (code.encode (polarIl (dciCrc (ch == 1) (le b 6 2) l)))
        let coded := (List.range el).map (fun i => coded.getD i false)
        let coded := if bit (w64 (le b 5 1)) 7 then (coded.zip (gold (le b 8 4) 0 el)).map (fun q => q.1 != q.2) else coded
        (x.write p a.out (packBits coded), resultOf false 0 0, 0, segs * (64 + cdiv (max code.n (el / segs)) 16))

/-- PC_ENCODE (R310). -/
def execPcEncode (p : Fin 8) (s : State) : Out := .next (s.runJob p 9 [1] (polarEncode p))

end Sys2Proof.Machine
end

