-- ==== Sys2Proof/Machine/Gelpel.lean ====
section
/-!
DEFINITION. Gelpel.lean: the commands of the Gelpel link (R543 to R553), but for a relayed access that arrives.
-/
namespace Sys2Proof.Machine

/-! Configuration and HELLO -/

/-- A write of `GPL_Gg_CFG` (R543, R552): with EN clear the port goes DOWN; with EN set it trains, and in TRAIN a write that
names lanes moves it to HELLO. -/
def State.gplGCfgWrite (s : State) (g : Nat) (v : U64) : State :=
  let st := s.gplState g
  let s := s.setEnt (Key.gplGCfg g) v
  if !(bit v 63) then s.gplDown g
  else if st = gpTrain ∧ bf v 15 0 ≠ 0 then (s.setGplState g gpHello).gplHeard g
  else s.gplTrain g

/-- GPL_ENABLE (R543): a write of the port's configuration for its EN. -/
def execGplEnable (rq : Requester) (g : Fin 4) (v : U64) (s : State) : Out :=
  .next (s.guarded (s.checkWrite rq (Key.gplGCfg g.val) v) (s.gplGCfgWrite g.val v))

/-- GPL_LANES_WRITE (R543): a write of the port's configuration for its LANES. -/
def execGplLanesWrite (rq : Requester) (g : Fin 4) (v : U64) (s : State) : Out :=
  .next (s.guarded (s.checkWrite rq (Key.gplGCfg g.val) v) (s.gplGCfgWrite g.val v))

/-- GPL_HELLO_SEND (R549): in HELLO a HELLO flit leaves every 1 µs. -/
def execGplHelloSend (g : Fin 4) (s : State) : Out :=
  .next (if s.gplState g.val = gpHello ∧ ((s.gpl g.val).helloRaw.elim true (fun r => decide (r + usTicks 1 ≤ s.raw.toNat))) then
      s.setGpl g.val { s.gpl g.val with helloRaw := some s.raw.toNat }
    else s)

/-- What a HELLO says of the peer comes into the port's objects and credits (R18, R547, R549). -/
def State.gplPeerTold (s : State) (g : Nat) (h : GplHello) : State :=
  let stat := s.gplState g * 2 ^ 60 + h.pos.toNat * 2 ^ 56 + (h.pos.toNat + 4 - s.ownPos) % 4 * 2 ^ 48 + h.lo.toNat * 2 ^ 16 + h.hi.toNat
  ((s.setEntN (Key.gplStat g) stat).setEnt (Key.gplPeer g) h.serial).setGpl g
    { s.gpl g with cr0 := h.cr0.toNat, cr1 := h.cr1.toNat }

/-- Whether a HELLO fails a POS test or names other lanes (R549). -/
def State.helloConflicts (s : State) (g : Nat) (h : GplHello) : Bool :=
  h.pos.toNat == s.ownPos || h.lanes.toNat != s.fld (Key.gplGCfg g) 15 0 ||
    (s.upPorts.any (fun q => q != g && s.fld (Key.gplStat q) 57 56 == h.pos.toNat))

/-- Whether the port takes flits: it has left TRAIN. -/
def State.gplHears (s : State) (g : Nat) : Bool := decide (gpHello ≤ s.gplState g)

/-- GPL_HELLO (R549, R550, R533, R552): a HELLO flit arrives. -/
def execGplHello (g : Fin 4) (h : GplHello) (s : State) : Out :=
  .next (
    if !(s.gplHears g.val) then s
    else if !h.crcOk then s.gplCount g.val 63 48 1
    else if s.gplState g.val ≠ gpHello then s.gplHeard g.val
    else
      let b := s
      let s := (s.gplHeard g.val).gplPeerTold g.val h
      if s.helloConflicts g.val h then s.setGplState g.val gpConflict
      else if h.acksOurs ∧ (s.gpl g.val).helloRaw.isSome then
        (s.setGplState g.val (if s.gplSpreadOk g.val then gpUp else gpDialect)).dialectsSince b
      else s)

/-! Flits -/

/-- Whether the port carries DATA flits. -/
def State.gplCarries (s : State) (g : Nat) : Bool := s.gplState g == gpUp || s.gplState g == gpDialect

/-- The replay buffer without what an ACK covers (R544, R546). -/
def ackFlits (ack : Byte) (l : List Flit) : List Flit :=
  let (a, b) := l.span (fun f => f.seq != ack)
  match b with
  | [] => a
  | _ :: r => r

/-- A DATA flit that is accepted (R546, R547): the next SEQ is expected, its ACK and credits are taken, its buffer is freed. -/
def Gelpel.takeFlit (x : Gelpel) (f : GplFlit) : Gelpel :=
  { x with expect := x.expect + 1
           nakSent := false
           unacked := ackFlits f.ack x.unacked
           cr0 := x.cr0 + f.cr0.toNat
           cr1 := x.cr1 + f.cr1.toNat
           free0 := x.free0 + b01 (!f.vc)
           free1 := x.free1 + b01 f.vc }

/-- GPL_DATA_FLIT (R546, R397): a flit with a bad CRC or an unexpected SEQ is discarded, with one NAK until the expected one
arrives. -/
def execGplDataFlit (g : Fin 4) (f : GplFlit) (s : State) : Out :=
  .next (
    if !(s.gplCarries g.val) then s
    else
      let s := if f.crcOk then s.gplHeard g.val else s.gplCount g.val 63 48 1
      let x := s.gpl g.val
      if f.crcOk ∧ f.seq = x.expect then s.pumpGpl g.val (x.takeFlit f)
      else s.setGpl g.val { x with nakSent := true })

/-- One second of the raw counter. -/
def rawSecond : Nat := 491520000

/-- A replay is counted, and recorded at most once a second (R546, R554). -/
def State.gplReplay (s : State) (g : Nat) : State :=
  let s := s.gplCount g 47 32 1
  let x := s.gpl g
  if x.replayRaw.elim true (fun r => decide (r + rawSecond ≤ s.raw.toNat)) then
    (s.setGpl g { x with replays := 0, replayRaw := some s.raw.toNat }).record 0xB8 [w64 g, w64 (x.replays + 1)]
  else s.setGpl g { x with replays := x.replays + 1 }

/-- A NAK arrives; those of the last 1 ms are kept (R552). -/
def Gelpel.nakked (x : Gelpel) (raw : Nat) : Gelpel :=
  { x with naks := raw :: x.naks.filter (fun t => decide (raw ≤ t + msTicks 1)), goodRaw := raw }

/-- GPL_NAK (R546, R552): the flits before the SEQ named are acknowledged, the others are sent again. -/
def execGplNak (g : Fin 4) (seq : Byte) (s : State) : Out :=
  .next (
    if !(s.gplCarries g.val) then s
    else
      let x := (s.gpl g.val).nakked s.raw.toNat
      let u := ackFlits (seq - 1) x.unacked
      let s := s.pumpGpl g.val { x with unacked := u }
      if u.isEmpty then s else s.gplReplay g.val)

/-- GPL_REPLAY_TIMEOUT (R546): ACK has not advanced for 2 µs, which a replay starts anew. -/
def execGplReplayTimeout (g : Fin 4) (s : State) : Out :=
  let x := s.gpl g.val
  .next (if s.gplCarries g.val ∧ !(x.unacked.isEmpty) ∧ x.ackRaw + usTicks 2 ≤ s.raw.toNat then
      (s.setGpl g.val { x with ackRaw := s.raw.toNat }).gplReplay g.val
    else s)

/-! Messages -/

/-- A refused message is counted (R551). -/
def State.gplRefused (s : State) (g : Nat) : State := s.gplCount g 15 0 1

/-- The local partition that a message of a far partition may reach: the owner of unit u, where their pair is enabled (R551). -/
def State.gplAdmits (s : State) (g far u : Nat) : Option Nat :=
  if 1024 ≤ u then none else (s.partOfUnit u).filter (s.gplPairs g far)

/-- A TASK that arrives (R119, R120, R551): it goes to Kennel as the port's item, or is returned. -/
def State.gplTaskIn (s : State) (g : Fin 4) (far : Nat) (d : Desc) : State :=
  match s.gplAdmits g.val far d.target with
  | some q => s.sendItem (.gelpel g) (.desc d (.remote g.val) q)
  | none =>
    let p := s.execPack 0 d.target
    let s := (s.gplRefused g.val).knCount (Key.knXpart p)
    s.refuseDesc p d ((s.partOfUnit d.target).getD 8) ksUnitDown (.remote g.val)

/-- GPL_TASK (R119, R120, R551): a TASK message arrives. The port's queue toward Kennel holds it in order; what exceeds the port's
credits stands in the flit buffers (R103, R547). -/
def execGplTask (g : Fin 4) (part : BitVec 4) (words : List U64) (s : State) : Out :=
  .next (if s.gplState g.val = gpUp then s.gplTaskIn g part.toNat (descOf words) else s)

/-- A TOKEN that arrives (R119, R120, R551). A stale one is Kennel's to count. -/
def State.gplTokenIn (s : State) (g : Fin 4) (far : Nat) (t : Token) : State :=
  match s.tokenEntry t.w0 with
  | some (p, i) =>
    match s.gplAdmits g.val far (s.entry p i).desc.target with
    | some q => s.sendItem (.gelpel g) (.token t q .none)
    | none => (((s.gplRefused g.val).knCount (Key.knDown p)).knCount (Key.knXpart p))
  | none =>
    if !(bit t.w0 31) ∧ 2 ^ 30 ≤ bf t.w0 63 32 then (s.gplRefused g.val).knCount (Key.knDown 0)
    else s.sendItem (.gelpel g) (.token t 8 .none)

/-- GPL_TOKEN (R119, R120, R551): a TOKEN message arrives. -/
def execGplToken (g : Fin 4) (part : BitVec 4) (w0 value : U64) (s : State) : Out :=
  .next (if s.gplState g.val = gpUp then s.gplTokenIn g part.toNat ⟨w0, value⟩ else s)

/-- The first request at a port that p holds of is answered: it, and the state without it. -/
def State.popGpl (s : State) (g : Nat) (p : Outstanding → Bool) : Option (Outstanding × State) :=
  let x := s.gpl g
  let (a, b) := x.waiting.span (fun o => !(p o))
  match b with
  | [] => none
  | o :: r => some (o, s.setGpl g { x with waiting := a ++ r })

/-- GPL_RESULT (R548, R154): the result of a remote submission arrives. -/
def execGplResult (g : Fin 4) (result : U64) (s : State) : Out :=
  .next (if s.gplState g.val ≠ gpUp then s
    else match s.popGpl g.val (fun o => match o with | .result _ => true | _ => false) with
      | some (.result ret, s) => s.giveResult ret result
      | _ => s)

/-- Response codes of RD_DATA and WR_RSP. -/
def rspWord (ok poison : Bool) : U64 := w64 (b01 (!ok) + 2 * b01 poison)

/-- A window read of the far member (R181, R183, R551, R581): checked here, answered with the bytes and their marking, on the
VC of the request. `uncorrectable` and `upset` are what the memory finds as it is read (R390, R401). -/
def State.gplReadIn (s : State) (g : Fin 4) (far : Fin 8) (vc : Bool) (a n : Nat) (uncorrectable : Bool) (upset : List Addr) : State :=
  let who : Accessor := .gelpel g far
  if s.accessOk who a n false then
    match regionOf a with
    | .ctl p => s.sendMsg g.val vc (messageOf 5 0 (rspWord true false) [s.ctlRead p (a - ctlAddr p 0)])
    | r =>
      let s := if uncorrectable ∧ r = .hbm then s.hbmPoison a n else s.upset a n upset
      let (s, bs, q) := s.readMem who a n
      s.sendMsg g.val vc (messageMarked (wordMarks (bs.zipIdx.map (fun b => (b.1, s.poisoned (a + b.2))))) 5 0 (rspWord true q) (dataWords bs))
  else
    let s := (s.accessFault who a).gplRefused g.val
    s.sendMsg g.val vc (messageOf 5 0 (rspWord false false) [])

/-- GPL_RD_REQ (R181, R183, R551): a remote-window read arrives. -/
def execGplRdReq (g : Fin 4) (part : BitVec 4) (vc : Bool) (a : Addr) (bytes : Nat) (uncorrectable : Bool) (upset : List Addr)
    (s : State) : Out :=
  .next (
    if s.gplState g.val ≠ gpUp then s
    else if h : part.toNat < 8 then s.gplReadIn g ⟨part.toNat, h⟩ vc a.toNat bytes uncorrectable upset
    else (s.gplRefused g.val).sendMsg g.val vc (messageOf 5 0 (rspWord false false) []))

/-- GPL_RD_DATA (R545, R581): the answer to a window read arrives, its bytes with their markings. -/
def execGplRdData (g : Fin 4) (r : BusAnswer) (data : List (Byte × Bool)) (s : State) : Out :=
  .next (if s.gplState g.val ≠ gpUp then s
    else match s.popGpl g.val (fun o => match o with | .read _ _ => true | _ => false) with
      | some (.read who a, s) => s.gplReadDone g.val who a r data
      | _ => s)

/-- A window write of the far member (R181, R183, R551), its bytes with their markings. -/
def State.gplWriteIn (s : State) (g : Fin 4) (far : Fin 8) (vc : Bool) (a : Nat) (bs : List (Byte × Bool)) : State :=
  let who : Accessor := .gelpel g far
  if s.accessOk who a bs.length true then
    let s := match regionOf a with
      | .ctl p => s.ctlWrite p (a - ctlAddr p 0) (w64 (leNat (bs.map (fun (b : Byte × Bool) => b.1))))
      | _ => s.writeMarks who a bs
    s.sendMsg g.val vc (messageOf 7 0 (rspWord true false) [])
  else
    let s := (s.accessFault who a).gplRefused g.val
    s.sendMsg g.val vc (messageOf 7 0 (rspWord false false) [])

/-- GPL_WR_REQ (R181, R183, R551): a remote-window write arrives. -/
def execGplWrReq (g : Fin 4) (part : BitVec 4) (vc : Bool) (a : Addr) (data : List (Byte × Bool)) (s : State) : Out :=
  .next (
    if s.gplState g.val ≠ gpUp then s
    else if h : part.toNat < 8 then s.gplWriteIn g ⟨part.toNat, h⟩ vc a.toNat data
    else (s.gplRefused g.val).sendMsg g.val vc (messageOf 7 0 (rspWord false false) []))

/-- GPL_WR_RSP (R545): the answer to a window write arrives. -/
def execGplWrRsp (g : Fin 4) (r : BusAnswer) (s : State) : Out :=
  .next (if s.gplState g.val ≠ gpUp then s
    else match s.popGpl g.val (fun o => match o with | .write _ _ => true | _ => false) with
      | some (.write who a, s) => s.gplWriteDone who a r
      | _ => s)

/-- GPL_LINKSTAT (R550, R533): the far member's own dialects have changed. -/
def execGplLinkstat (g : Fin 4) (lo hi : BitVec 16) (s : State) : Out :=
  .next (
    if !(s.gplCarries g.val) then s
    else
      let b := s
      let s := s.setFld (Key.gplStat g.val) 31 0 (lo.toNat * 65536 + hi.toNat)
      (s.gplRejudge g.val).dialectsSince b)

/-- Whether a cause of R552 is present at port g. -/
def State.gplCause (s : State) (g : Nat) (why : LinkDownCause) : Bool :=
  match why with
  | .silent => s.gplHears g && decide ((s.gpl g).goodRaw + usTicks 10 ≤ s.raw.toNat)
  | .naks => decide (64 < ((s.gpl g).naks.filter (fun t => decide (s.raw.toNat ≤ t + msTicks 1))).length)
  | .los => (List.range 16).any (fun i => bit (s.ent (Key.gplGCfg g)) i && s.flag (Key.lnStat (64 + 16 * g + i)) 1)
  | .disabled => !(s.flag (Key.gplGCfg g) 63)

/-- GPL_LINK_DOWN (R552, R120, R20): the port goes DOWN, and trains again while EN is set. -/
def execGplLinkDown (g : Fin 4) (why : LinkDownCause) (s : State) : Out :=
  .next (if s.gplState g.val ≠ gpDown ∧ s.gplCause g.val why then (s.gplDown g.val).gplTrain g.val else s)

/-! Relaying (R553) -/

/-- The requester's own `GPL_RELAY_REQ`. -/
def relayKey (rq : Requester) : Nat := slotKey rq Key.gplRelayReq

/-- A write of `GPL_RELAY_REQ` (R553). -/
def State.relayWrite (s : State) (rq : Requester) (v : U64) : State :=
  let chip := bf v 49 48
  let op := bf v 63 62
  if bit (tget 0 s.bank (relayKey rq)) 63 then s.status .busy
  else if chip = 0 ∨ op = 0 ∨ op = 3 then s.status .range
  else match s.linkTo chip with
    | none => (s.relayDone (rqSlot rq) 7 (tget 0 s.bank (slotKey rq Key.gplRelayVal))).status .ok
    | some g =>
      let s := { s with bank := tput s.bank (relayKey rq) (w64 (2 ^ 63)) }
      ((s.sendMsg g true (messageOf 8 ((s.rqPart rq).getD 15) v [tget 0 s.bank (slotKey rq Key.gplRelayVal)])).awaitGpl g
        (.relay (rqSlot rq))).status .ok

/-- RELAY_REQ (R553). -/
def execRelayReq (rq : Requester) (v : U64) (s : State) : Out :=
  .next (match s.checkWrite rq Key.gplRelayReq v with
    | .ok => s.relayWrite rq v
    | e => s.status e)

/-- The answer to a relay arrives: its requester's STATUS and value (R553). -/
def State.relayAnswer (s : State) (g : Nat) (status : BitVec 16) (v : U64) : State :=
  match s.popGpl g (fun o => match o with | .relay _ => true | _ => false) with
  | some (.relay slot, s) => s.relayDone slot status.toNat v
  | _ => s

end Sys2Proof.Machine
end

