-- ==== Sys2Proof/Machine/HandoverCore.lean ====
section
/-!
DEFINITION. HandoverCore.lean: the handover channels up to the cut and after it (R536 to R538, R541).
-/
namespace Sys2Proof.Machine

/-- Whether MAC m is set in MACS of channel n. -/
def State.hoMac (s : State) (n m : Nat) : Bool := bit (s.ent (Key.hoMacs n (m / 64))) (m % 64)

/-- Whether region entry e is enabled and owned by partition p. -/
def State.regionOwned (s : State) (e p : Nat) : Bool :=
  s.flag (Key.memHbmRegion e) 63 && s.fld (Key.memHbmRegion e) 61 58 == p

/-- The requirements of PAIR that answer RANGE (R536). -/
def State.hoPairOk (s : State) (n : Nat) : Bool :=
  let c := s.hoCarrier n
  let src := s.hoSrc n
  s.partOfCarrier c == some src && s.partState (s.hoDst n) == psRunning &&
    !((List.range 16).any (fun m => m != n && s.hoState m != hsIdle && s.hoCarrier m == c)) &&
    (List.range 64).all (fun e => !(s.flag (Key.hoRegions n) e) || s.regionOwned e src) &&
    (!(s.flag (Key.hoExport n) 7) || s.regionOwned (s.fld (Key.hoExport n) 5 0) src) &&
    (List.range 128).all (fun m => !(s.hoMac n m) || s.partOfMac m == some src)

/-- EXPORT_DIALECT: the lower of the two partitions' own dialects (R536). -/
def State.exportDialect (s : State) (n : Nat) : Nat :=
  leastOf ([s.hoSrc n, s.hoDst n].filterMap s.ownDialect)

/-- The carrier's live-table number, if it is one. -/
def planOf (c : Nat) : Option TableId := if h : c < 384 then some (.plan ⟨c, h⟩) else none

/-- PAIR (R536). -/
def State.hoPair (s : State) (rq : Requester) (n : Nat) : State :=
  if !(s.actsFor rq (s.hoSrc n)) then s.status .access
  else if s.hoState n ≠ hsIdle then s.status .busy
  else if !(s.hoPairOk n) then s.status .range
  else if (planOf (s.hoCarrier n)).elim false (fun t => s.liveState t != lsIdle) then s.status .busy
  else ((s.setFld (Key.hoOp n) 47 32 (s.exportDialect n)).setHo n hsPaired 0).status .ok

/-- The cut instant T (R538). -/
def State.hoInstant (s : State) (n : Nat) : Nat := frameRefT s (s.hoCarrier n) + s.fld (Key.hoCfg n) 31 0 * nsT 10000000

/-- Whether a requester may order channel n: the source, the destination or device administration. -/
def State.hoActs (s : State) (rq : Requester) (n : Nat) : Bool := s.actsFor rq (s.hoSrc n) || s.actsFor rq (s.hoDst n)

/-- ARM (R538): T at least 20 ms ahead. -/
def State.hoArm (s : State) (rq : Requester) (n : Nat) : State :=
  if !(s.hoActs rq n) then s.status .access
  else if s.hoState n ≠ hsPaired then s.status .busy
  else if s.hoInstant n < s.now + nsT 20000000 then s.status .range
  else ({ s with hoT := tput s.hoT n (s.hoInstant n), hoChecked := s.hoChecked.filter (· ≠ n) }.setHo n hsArmed 0).status .ok

/-- CANCEL (R538): before T. -/
def State.hoCancel (s : State) (rq : Requester) (n : Nat) : State :=
  let st := s.hoState n
  if !(s.hoActs rq n) then s.status .access
  else if st = hsPaired ∨ (st = hsArmed ∧ s.now < tget 0 s.hoT n) then (s.setHo n hsCancelled 1).status .ok
  else s.status .busy

/-- CLEAR (R541). -/
def State.hoClear (s : State) (rq : Requester) (n : Nat) : State :=
  let st := s.hoState n
  if !(s.hoActs rq n) then s.status .access
  else if st = hsDone ∨ st = hsCancelled then (s.setHo n hsIdle 0).status .ok
  else s.status .busy

/-- A write of `PRT_HOn_OP` (R536 to R541): its reserved bits are zero and OP is 1 to 4. -/
def State.hoOpWrite (s : State) (rq : Requester) (n : Nat) (v : U64) : State :=
  match bf v 2 0 with
  | 1 => s.hoPair rq n
  | 2 => s.hoArm rq n
  | 3 => s.hoCancel rq n
  | 4 => s.hoClear rq n
  | _ => s.status .range

/-- A write of `PRT_HOn_OP` with an OP by a requester. -/
def State.hoOpBy (s : State) (rq : Requester) (n op : Nat) : State :=
  match s.checkWrite rq (Key.hoOp n) (w64 op) with
  | .ok => s.hoOpWrite rq n (w64 op)
  | e => s.status e

/-- HO_PAIR (R536). -/
def execHoPair (rq : Requester) (n : Fin 16) (s : State) : Out := .next (s.hoOpBy rq n.val 1)
/-- HO_ARM (R538). -/
def execHoArm (rq : Requester) (n : Fin 16) (s : State) : Out := .next (s.hoOpBy rq n.val 2)
/-- HO_CANCEL (R538). -/
def execHoCancel (rq : Requester) (n : Fin 16) (s : State) : Out := .next (s.hoOpBy rq n.val 3)
/-- HO_CLEAR (R541). -/
def execHoClear (rq : Requester) (n : Fin 16) (s : State) : Out := .next (s.hoOpBy rq n.val 4)

/-- A write of `PRT_HOn_CFG`: BUSY outside IDLE, except of FRAME alone before ARM. -/
def State.hoCfgWrite (s : State) (n : Nat) (v : U64) : State :=
  let old := s.ent (Key.hoCfg n)
  if s.hoState n = hsIdle ∨ (s.hoState n = hsPaired ∧ bf v 63 32 = bf old 63 32) then (s.setEnt (Key.hoCfg n) v).status .ok
  else s.status .busy

/-- The carriers of enabled streams on a MAC of channel n. -/
def State.hoStreams (s : State) (n : Nat) : List Nat :=
  (s.od.filter (fun e => decide (Key.ethStr 0 0 ≤ e.1) && decide (e.1 < Key.ethStr 4096 0) && (e.1 - Key.ethStr 0 0) % 256 == 0 &&
    bit e.2 63 && s.hoMac n (bf e.2 59 53))).map (fun e => bf e.2 52 44)

/-- The streams' check of R538: each belongs to a channel ARMED with the same T and DST. -/
def State.hoMacsOk (s : State) (n : Nat) : Bool :=
  (s.hoStreams n).all (fun c => (List.range 16).any (fun m =>
    s.hoState m == hsArmed && tget 0 s.hoT m == tget 0 s.hoT n && s.hoDst m == s.hoDst n && s.hoCarrier m == c))

/-- The checks at T − 1 ms (R538), once. -/
def State.hoPrecheck (s : State) (n : Nat) : State :=
  if s.hoState n = hsArmed ∧ n ∉ s.hoChecked ∧ tget 0 s.hoT n ≤ s.now + nsT 1000000 then
    if s.partState (s.hoSrc n) ≠ psRunning ∨ s.partState (s.hoDst n) ≠ psRunning then s.setHo n hsCancelled 3
    else if !(s.hoMacsOk n) then s.setHo n hsCancelled 4
    else { s with hoChecked := n :: s.hoChecked }
  else s

/-- HO_PRECHECK (R538): at T − 1 ms. -/
def execHoPrecheck (n : Fin 16) (s : State) : Out := .next (s.hoPrecheck n.val)

/-- Whether a slot instance of carrier c made before T is neither complete nor past its L2 deadline (R541, R493). -/
def State.hoPending (s : State) (c t : Nat) : Bool :=
  s.kennel.any (fun k => k.2.used.any (fun e =>
    match e.2.plan with
    | some (c', q, _) =>
      c' == c && (((s.car c).slots.find? (fun r => r.seq == q)).elim true (fun r => decide (r.time < t))) &&
        !(s.flag (Key.shdL2Carrier c) 63 && !(s.l2.any (fun e => e.1 == c && e.2.1 == q && decide (s.now < e.2.2 + s.l2Limit c))))
    | none => false))

/-- HO_DRAIN_END (R541). -/
def execHoDrainEnd (n : Fin 16) (s : State) : Out :=
  .next (if s.hoState n.val = hsDrain ∧ !(s.hoPending (s.hoCarrier n.val) (tget 0 s.hoT n.val)) then s.setHo n.val hsDone 0 else s)

end Sys2Proof.Machine
end

