-- ==== Sys2Proof/Machine/Recorder.lean ====
section
/-! DEFINITION. Recorder.lean: the event recorder's ring, cursors and software records (R510 to R517). -/
namespace Sys2Proof.Machine

/-- A requester's own instance of a banked entry (R415). -/
def State.rqBank (s : State) (rq : Requester) (k : Nat) : U64 := tget 0 s.bank (slotKey rq k)
def State.setRqBank (s : State) (rq : Requester) (k : Nat) (v : U64) : State := { s with bank := tput s.bank (slotKey rq k) v }

/-- A record's bytes in the ring (R511). -/
def recBytes (r : Rec) : List Byte :=
  let body := leBytes 2 r.type.toNat ++ leBytes 2 r.payload.length ++ leBytes 5 r.opsec ++ leBytes 4 r.pwrcyc ++ leBytes 3 r.seq ++ r.payload
  let b := body ++ leBytes 4 (crc32c 0xFFFFFFFF body)
  b ++ List.replicate (recSize r.payload.length - b.length) 0

/-- A block of the ring is begun (R510): its old records are discarded and counted, its space is zero. -/
def State.beginBlock (s : State) (b : Nat) : State :=
  let s := if s.ring.any (·.block == b) then s.incWrap Key.evrCnt 15 0 1 else s
  { s.store (Sys2Proof.Machine.ringBase + b * 4096) (List.replicate 4096 0) with
    ring := s.ring.filter (·.block != b), ringBlock := b, ringOff := 0 }

/-- EVR_MRAM_WRITE (R510, R513, R579): the oldest staged record is written, unless a supply warning holds writes (R190). -/
def execEvrMramWrite (s : State) : Out :=
  .next (match s.staged with
    | [] => s
    | r :: rest =>
      if s.warn ∨ !s.pwrgood ∨ s.aonPor then s
      else
        let n := recSize r.payload.length
        let s := if s.ringOff = 0 then s.beginBlock s.ringBlock
          else if 4096 < s.ringOff + n then s.beginBlock ((s.ringBlock + 1) % 4096) else s
        { s.store (Sys2Proof.Machine.ringBase + s.ringBlock * 4096 + s.ringOff) (recBytes r) with
          staged := rest
          ring := s.ring ++ [⟨r.seq, s.ringBlock, s.ringOff, n, false⟩]
          ringBlock := if s.ringOff + n = 4096 then (s.ringBlock + 1) % 4096 else s.ringBlock
          ringOff := (s.ringOff + n) % 4096 })

def ecOk : Nat := 0
def ecGone : Nat := 1
def ecNotYet : Nat := 2
def ecTorn : Nat := 3

/-- The state of the record with a SEQ, and its bytes where it is in the ring whole (R515). -/
def State.recAt (s : State) (q : Nat) : Nat × List Byte :=
  match s.ring.find? (·.seq == q) with
  | some r => if r.torn then (ecTorn, []) else (ecOk, s.bytes (Sys2Proof.Machine.ringBase + r.block * 4096 + r.off) r.len)
  | none => if s.staged.any (·.seq == q) ∨ (q + 2 ^ 24 - s.evSeq) % 2 ^ 24 < 2 ^ 23 then (ecNotYet, []) else (ecGone, [])

/-- A cursor write copies the record (R515). -/
def State.evrCursor (s : State) (rq : Requester) (v : U64) : State :=
  let q := bf v 23 0
  let (st, bs) := s.recAt q
  let ws := bytesWords 512 bs
  let s := (List.range 512).foldl (fun s i => s.setRqBank rq (Key.evrRecord i) (ws.getD i 0)) s
  s.setRqBank rq Key.evrCursor (w64 (st * 2 ^ 62 + bs.length * 2 ^ 24 + q))

/-- EVR_CURSOR_WRITE (R515). -/
def execEvrCursorWrite (rq : Requester) (v : U64) (s : State) : Out :=
  .next (s.guarded (s.checkWrite rq Key.evrCursor v) (s.evrCursor rq v))

/-- A software record is formed (R516); its SEQ is readable. -/
def State.evrUser (s : State) (rq : Requester) (v : U64) : State :=
  let bytes := ((List.range 255).flatMap (fun i => leBytes 8 (s.rqBank rq (Key.evrUserBuf i)).toNat)).take (bf v 11 0)
  let s := s.recordBytes (bf v 63 48) bytes
  s.setRqBank rq Key.evrUserCtl (w64 s.lastSeq)

/-- EVR_USER_CTL (R516). -/
def execEvrUserCtl (rq : Requester) (v : U64) (s : State) : Out :=
  .next (s.guarded (s.checkWrite rq Key.evrUserCtl v) (s.evrUser rq v))

/-- EVR_CLEAR (R517), with the token's key slot and counter: none where no record of the ring has the SEQ. -/
def State.evrClear (s : State) (slot counter q : Nat) : Option State :=
  match s.ring.span (·.seq != q) with
  | (a, r :: rest) =>
    let old := (a ++ [r]).headD r
    some { s.record 1 [w64 slot, w64 counter, w64 old.seq, w64 q] with ring := rest }
  | (_, []) => none

/-- OPSEC_COMMIT (R512): the root island commits both counts, once an hour. -/
def execOpsecCommit (s : State) : Out :=
  .next (if s.phase = phReset ∨ s.hourNow ≤ s.opsecHour then s else { s.commitOpsec with opsecHour := s.hourNow })

end Sys2Proof.Machine
end

