-- ==== Sys2Proof/Machine/Pins.lean ====
section
/-! DEFINITION. Pins.lean: GPIO pads (R557 to R559) and the I2C ports (R562). -/
namespace Sys2Proof.Machine

/-- What the device drives on GPIO pad n, none for high impedance (R557 to R559). -/
def State.padDrive (s : State) (n : Nat) : Option Bool :=
  let v := s.ent (Key.pinGpioCfg n)
  let hold := s.dev == .hold
  if s.phase < phStart ∧ !hold then none
  else match bf v 63 62 with
    | 0 => none
    | 1 => if hold then none else some (bit v 60)
    | 2 => if hold || bit v 60 then none else some false
    | _ => some (s.padActive n s.now != bit v 61)

/-- PIN_GPIO_IN (R557): the level of every pad. -/
def State.gpioIn (s : State) : U64 :=
  w64 (((List.range 64).map (fun n => b01 ((s.padDrive n).getD (tget false s.padIn n)) * 2 ^ n)).sum)

/-- PIN_STAT. -/
def State.pinStat (s : State) : U64 :=
  w64 (s.bootsel.toNat * 16 + b01 s.thermTrip * 4 + b01 s.pwrgood * 2 + b01 s.resetN)

/-- The level of FAULT_N (R462, R496): low with the states of R462, and while a condition that `SHD_FAULT_CFG` selects holds. -/
def State.faultPin (s : State) : Bool :=
  s.faultN && !(s.flag Key.shdFaultCfg 1 && s.unit.any (fun e => e.2.quar)) &&
    !(s.flag Key.shdFaultCfg 0 && (List.range 8).any (fun p => s.partState p != 0 && s.partState p != psRunning))

/-! JTAG (R531, R564) -/

/-- Whether the JTAG port offers more than boundary scan: TRST_N high and DBG_EN set (R531, R564). -/
def State.jtagDebug (s : State) : Bool := s.trstN && s.flag Key.secDebug 0

/-! I2C -/

/-- What a transfer puts on the bus: its address with the direction bit and the bytes of the buffer, then for READ and WRITE_READ the
address again to read (R562; the address byte of SMBus is PRESUMED, assumption 65). -/
def State.i2cSends (s : State) (i : Nat) (v : U64) : List Byte :=
  let a := bf v 54 48 * 2
  (if bf v 63 62 = 2 then [] else BitVec.ofNat 8 a :: (s.octs (Key.pinI2cBuf i) 32).take (bf v 45 40)) ++
    (if 2 ≤ bf v 63 62 then [BitVec.ofNat 8 (a + 1)] else [])

/-- A write of PIN_I2Ci_XFER (R562). -/
def State.i2cWriteXfer (s : State) (i : Nat) (v : U64) : State :=
  if bf v 63 62 = 0 ∨ 32 < bf v 45 40 ∨ 32 < bf v 37 32 then s.status .range
  else if (tfind s.i2cBusy i).isSome then s.status .busy
  else { s.setEntN (Key.pinI2cXfer i) (2 ^ 63) with i2cBusy := tput s.i2cBusy i ⟨v, s.raw.toNat, s.i2cSends i v⟩ }.status .ok

def State.i2cBy (s : State) (rq : Requester) (i op : Nat) (v : U64) : State :=
  let v := setf v 63 62 op
  match s.checkWho rq (Key.pinI2cXfer i) v with
  | .ok => s.i2cWriteXfer i v
  | e => s.status e

/-- I2C_WRITE (R562). -/
def execI2cWrite (rq : Requester) (i : Fin 2) (v : U64) (s : State) : Out := .next (s.i2cBy rq i.val 1 v)
/-- I2C_READ (R562). -/
def execI2cRead (rq : Requester) (i : Fin 2) (v : U64) (s : State) : Out := .next (s.i2cBy rq i.val 2 v)
/-- I2C_WRITE_READ (R562). -/
def execI2cWriteRead (rq : Requester) (i : Fin 2) (v : U64) (s : State) : Out := .next (s.i2cBy rq i.val 3 v)

/-- STATUS of a transfer. -/
def i2cStatus : I2cResult → Nat
  | .ok _ => 0 | .nackAddr => 1 | .nackData => 2 | .arbLost => 3 | .timeout => 4

/-- Whether a transfer can end so now: TIMEOUT needs a clock held low for more than 25 ms (R562). -/
def State.i2cMayEnd (s : State) (x : I2cXfer) : I2cResult → Bool
  | .timeout => decide (x.raw + msTicks 25 < s.raw.toNat)
  | _ => true

/-- I2C_DONE (R562): the transfer ends; bytes read go into the buffer from byte 0. -/
def execI2cDone (i : Fin 2) (r : I2cResult) (s : State) : Out :=
  .next (match tfind s.i2cBusy i.val with
    | some x =>
      let v := x.word
      if !(s.i2cMayEnd x r) then s
      else
      let s := { s.setEntN (Key.pinI2cXfer i.val) (i2cStatus r) with i2cBusy := tdel s.i2cBusy i.val }
      match r with
      | .ok bs =>
        let n := if 2 ≤ bf v 63 62 then bf v 37 32 else 0
        let old := s.octs (Key.pinI2cBuf i.val) 32
        let new := bs.take n
        if new.isEmpty then s else s.setOcts (Key.pinI2cBuf i.val) (new ++ old.drop new.length)
      | _ => s
    | none => s)

end Sys2Proof.Machine
end

