-- ==== Sys2Proof/Machine/DictRead.lean ====
section
/-!
DEFINITION. DictRead.lean: what a read of a dictionary entry returns (R40, R44, R411 to R416, R420, R436) and what it clears (R6, R74).
-/
namespace Sys2Proof.Machine

/-- The number i as an index below n. -/
def finAt (n i : Nat) : Option (Fin n) := if h : i < n then some ⟨i, h⟩ else none

/-- The live table that an object belongs to, by its first index. -/
def tableOf (o : ObjId) (i : Nat) : Option TableId :=
  match o with
  | .knPlanCtl | .knPlanRow => (finAt 384 i).map .plan
  | .gclCtl | .gclRow => (finAt 128 i).map .gcl
  | .hndCtl | .hndRow => (finAt 8 i).map .watch
  | .ttCtl | .ttRow => (finAt 64 i).map .trig
  | _ => none

/-- Row and word of an entry of a live table's copy, from its place. -/
def rowPlace (t : TableId) (ix : List Nat) : Nat × Nat :=
  match t with
  | .watch _ => (ix.getD 2 0, ix.getD 3 0)
  | t => (ix.getD 2 0 / liveWords t, ix.getD 2 0 % liveWords t)

/-- POWER of a unit (R15, R464, R465): a quarantined unit's clocks stop as in P1 (R503). -/
def State.powerOf (s : State) (u : Nat) : Nat :=
  let p1 := b01 (s.quarIn u)
  match unitKind u with
  | 14 => s.dev.ctorIdx
  | 5 => max p1 (b01 ((tfind s.core (u - 840)).elim false (·.stopped)))
  | _ => match unitPack u with
    | some p =>
      if s.packP p ≠ 0 then s.packP p
      else if unitKind u = 2 then b01 ((List.range 8).all (fun i => s.quarIn ((u - 512) * 8 + i)))
      else p1
    | none => p1

/-- PARTITION of a unit: 0 to 7, 0xFE shared, 0xFF none. -/
def State.partField (s : State) (u : Nat) : Nat :=
  match s.partOfUnit u with
  | some p => p
  | none => if unitKind u = 5 ∨ unitKind u = 7 ∨ (unitPack u).isSome then 0xFF else 0xFE

/-- READY tasks whose TARGET is a unit. -/
def State.readyFor (s : State) (u : Nat) : Nat :=
  (s.kennel.map (fun k => (k.2.used.filter (fun e => e.2.st == .ready && e.2.desc.target == u)).length)).sum

/-- Entries of a store in a state. -/
def State.countIn (s : State) (p : Nat) (st : EState) : Nat := ((s.kn p).used.filter (fun e => e.2.st == st)).length

/-- STATE of `PX_Tt_STAT`. -/
def pxState : TileState → Nat
  | .reset => 0 | .running => 1 | .fetchWait => 2 | .postStall => 3 | .halted => 4 | .trapped => 5

/-- A word with the bits of the numbers for which f holds. -/
def flagBits (n : Nat) (f : Nat → Bool) : Nat := ((List.range n).map (fun i => b01 (f i) * 2 ^ i)).sum

/-- Milliseconds of so many ticks (R46). -/
def msOf (ticks : Nat) : Nat := ticks / 491520

/-- Seconds to the automatic RELEASE of a unit, 0 for none (R505). -/
def State.toRelease (s : State) (u : Nat) : Nat :=
  let x := s.un u
  let n := s.entN Key.shdReturn
  if x.quar && x.autoReturn && n ≠ 0 then (x.quarSince + n * secTicks - s.raw.toNat + secTicks - 1) / secTicks else 0

/-- The live part of the per-unit block's entries. -/
def State.unitValue (s : State) (o : ObjId) (u : Nat) (v : U64) : U64 :=
  if unitKind u = 0 then 0
  else match o with
    | .odInfo => w64 (u * 2 ^ 52 + unitParent u * 2 ^ 40 + unitKind u * 2 ^ 32)
    | .odState => w64 (s.partField u * 2 ^ 56 + s.powerOf u * 16 + s.health u)
    | .odQueue => setf v 47 32 (s.readyFor u)
    | .shdQuar => setf (setBit v 63 (s.un u).quar) 31 0 (s.toRelease u)
    | _ => v

/-- `EVR_STAT` (R510): the newest and oldest SEQ of the ring and the block being written. -/
def State.evrStatNow (s : State) : U64 :=
  let seqs := match s.ring.head?, s.ring.getLast? with
    | some a, some b => b.seq * 2 ^ 24 + a.seq
    | _, _ => Config.ringEmpty
  w64 (seqs * 2 ^ 16 + s.ringBlock)

/-- Whether a slot's COMMIT waits or runs (R436). -/
def State.committing (s : State) (slot : Nat) : Bool := s.commits.any (·.slot == slot)

/-- The value of an entry that reports hardware state, from its stored part v; `slot` is the reader's. -/
def State.liveValue (s : State) (slot : Nat) (o : ObjId) (ix : List Nat) (v : U64) : U64 :=
  let i := ix.getD 0 0
  let j := ix.getD 1 0
  match o with
  | .idDevice => if Config.gradeE then 0x0BEA9512A1010000 else v
  | .idPartStr => if i = 0 then (if Config.gradeE then 0x452D323135395442 else 0x432D323135395442) else 0
  | .idSerial => Config.idSerial
  | .idLot => Config.idLot
  | .idMgmtMac => Config.idMgmtMac.setWidth 64
  | .idKey => w64 (leNat ((idPublic.drop (8 * i)).take 8))
  | .odDialect =>
    if i = 0 then (let w := s.scopeWindow 0xFF; w64 (w.1 * 65536 + w.2))
    else match s.ownDialect (i - 1) with
      | some d => w64 (lowDialect d * 65536 + d)
      | none => 0
  | .odDialectRoot => Config.rootDialect.setWidth 64
  | .odSessions => setf (setf v 63 56 s.session.length) 55 48 s.handshake.length
  | .odCommit => setBit v 63 (s.committing slot)
  | .odNvStat =>
    setf (setf (setBit (setBit v 0 s.nvA.valid) 1 s.nvB.valid) 63 32 s.nvNow.gen.toNat) 31 16 s.nvNow.entries.length
  | .odInfo | .odState | .odDflt | .odCtl | .odQueue | .pwrReq | .pwrReqStat | .pwrRes | .pwrHours | .shdStat | .shdLast
  | .shdQuar | .terUStat | .terLast => s.unitValue o i v
  | .knStore => w64 (s.countIn i .waiting * 2 ^ 48 + s.countIn i .ready * 2 ^ 32 + s.countIn i .running * 2 ^ 16 + s.countIn i .held)
  | .knFlags => setBit v 0 (decide (s.entN Key.knHighWater < s.occ i))
  | .knTileStat => setBit (setBit v 1 (s.un i).probeDue) 0 (s.un i).lame
  | .pxStat => w64 ((s.tl i).pc.toNat * 2 ^ 32 + pxState (s.tl i).st)
  | .knPlanCtl | .gclCtl | .hndCtl | .ttCtl => match tableOf o i with | some t => s.readLiveCtl t | none => v
  | .knPlanRow | .gclRow | .hndRow | .ttRow =>
    match tableOf o i with
    | some t => s.readRow t j (rowPlace t ix).1 (rowPlace t ix).2
    | none => v
  | .clkSynceOut => setBit v 30 (!(s.cdrLocked (bf v 6 0)))
  | .lshFlags => setBit v 0 s.pausedB
  | .tbNow =>
    let c := tget ⟨0, 0⟩ s.capSlots slot
    if i = 0 then s.raw else if i = 1 then t128Sec c.time else t128Ns c.time
  | .tbCapRaw => ((tget [] s.capFifo i).head?.map (·.raw)).getD 0
  | .tbCapTime =>
    let c := tget ⟨0, 0⟩ s.capPopped j
    if i = 0 then t128Sec c.time else t128Ns c.time
  | .tbCapStat => setf v 18 16 (tget [] s.capFifo i).length
  | .hndStat =>
    let load := match finAt 8 i with | some e => s.houndLoad e 0 none / (16 * 10240000) | none => 0
    w64 (flagBits 16 (fun l => ((s.hnd i).l l).isOpen) * 2 ^ 48 + load % 65536 * 2 ^ 32)
  | .hndFloor =>
    let x := (s.hnd i).w j
    setBit (setf v 63 40 (uns 24 x.lf)) 1 x.seeded
  | .hndLbt =>
    let x := (s.hnd i).w j
    setf (setf v 31 16 (x.cwOf (bf (s.ent (Key.hndRow i 0 j 4)) 59 58))) 15 8 x.maxDraws
  | .cdBank =>
    let b := s.bankOf i j
    w64 (b.seq % 16 * 2 ^ 60 + b01 b.isOpen * 2 ^ 59 + b.owed % 2 ^ 24 * 2 ^ 32 + b.left % 2 ^ 32)
  | .txGate => s.txGateLive i
  | .flStat => s.flStatLive
  | .lnOStat =>
    w64 (flagBits 8 (fun l => s.laneState (8 * i + l) == lnUp) * 2 ^ 56 + flagBits 8 (fun l => s.flag (Key.lnStat (8 * i + l)) 1) * 2 ^ 48 +
      b01 (Config.sdrefPresent i))
  | .ethCfg => setf v 55 52 (s.ethState i)
  | .ethBrStat => w64 (s.fdb.length % 65536)
  | .cpriStat => s.cpriLive i
  | .pwrRail => setBit v 63 (s.railLow.contains i)
  | .pwrWarnStat =>
    setf (setf (setBit v 63 s.warn) 25 16 (flagBits 10 s.railLow.contains)) 15 0
      (if s.warn then min 65535 (msOf (s.raw.toNat - s.warnSince)) else 0)
  | .shdPet => w64 (msOf (s.raw.toNat - tget 0 s.petRaw i) % 2 ^ 32)
  | .evrStat => s.evrStatNow
  | .evrOpsec => w64 s.opsec
  | .prtSpan => s.spanWord
  | .pinGpioIn => if i = 0 then s.gpioIn else 0
  | .pinStat => s.pinStat
  | .epSpares => (Config.spares i).setWidth 64
  | _ => v

/-- The value that a read of an entry returns to the requester of a slot, as the entry stands: its own instance of a banked entry,
its staged value of a class N entry (R436), zero for a write-only, an undefined or a diagnostic entry (R184, R412). -/
def State.valueAt (s : State) (slot k : Nat) : U64 :=
  match lookupObj k with
  | none => 0
  | some (r, ix) =>
    if r.acc = .wo then 0
    else
      let key := slot * 2 ^ 32 + k
      match (if r.cls = .n then tfind s.staging key else none) with
      | some v => v
      | none => s.liveValue slot r.id ix (if r.banked then tget 0 s.bank key else s.ent k)

/-- What a read changes besides the reader's answer: clear-on-read entries (R6), a capture of the timebase (R59), the head of a
capture FIFO (R74), the received word of a lane (R349). `clear` is false where a read clears nothing (R442). -/
def State.readEffect (s : State) (slot k : Nat) (clear : Bool) : State :=
  match lookupObj k with
  | none => s
  | some (r, ix) =>
    let i := ix.getD 0 0
    match r.id with
    | .tbNow => if i = 0 then { s with capSlots := tput s.capSlots slot ⟨s.raw, s.now⟩ } else s
    | .tbCapRaw =>
      match tget [] s.capFifo i with
      | c :: q => { s with capFifo := tput s.capFifo i q, capPopped := tput s.capPopped i c }
      | [] => s.setFlag (Key.tbCapStat i) 31 true
    | .tbCapStat => if clear then (s.setFlag k 31 false).setFld k 15 0 0 else s
    | .epClassCnt => if clear then s.epCntRead i else s
    | _ => if clear && r.acc == .rc then s.setEnt k 0 else s

/-- A read of an entry: its value and the state after it. -/
def State.readEntry (s : State) (slot k : Nat) (clear : Bool) : U64 × State :=
  match lookupObj k with
  | some (r, ix) =>
    if r.id = .lnRxword then s.rxword (ix.getD 0 0) [] else (s.valueAt slot k, s.readEffect slot k clear)
  | none => (0, s)

/-- Whether an entry lies in the diagnostics range: it reads zero and ignores writes (R412). -/
def isDiag (k : Nat) : Bool := decide (0xF0000000 ≤ k)

/-- A read by a requester, with its answer (R416). -/
def State.readBy (s : State) (rq : Requester) (k : Nat) : State :=
  match (if isDiag k then .ok else s.checkRead rq k) with
  | .ok => let (v, s) := s.readEntry (rqSlot rq) k true; s.answer (.value v)
  | e => s.status e

/-- RC_READ (R6): the value is returned and the entry cleared as one action. -/
def execRcRead (rq : Requester) (o : Obj) (s : State) : Out :=
  .next (match lookupObj (objKey o) with
    | some (r, _) => if r.acc = .rc then s.readBy rq (objKey o) else s
    | none => s)

end Sys2Proof.Machine
end

