-- ==== Sys2Proof/Machine/Dma.lean ====
section
/-! DEFINITION. Dma.lean: the commands of the DMA engines (R203 to R225). -/
namespace Sys2Proof.Machine

/-- DMA_DOORBELL (R210). -/
def execDmaDoorbell (rq : Requester) (n : Fin 272) (s : State) : Out :=
  .next (asWriter s rq (Key.dmaDoorbell n.val) 0 ((s.doorbell n).status .ok))

/-- The channel an engine chooses (R204): the highest PRIO, in round-robin order after the last one chosen. -/
def State.pickChan (s : State) (e last : Nat) (ready : Nat → Bool) : Option Nat :=
  leastBy (fun n => (7 - s.fld (Key.dmaCfg n) 61 59) * 1024 + (chanIn n + 63 - last) % 64) ((chansOf e).filter ready)

/-- DMA_ISSUE (R204): one read transfer and one write transfer of an engine. -/
def execDmaIssue (e : Fin 9) (s : State) : Out :=
  let g := tget ⟨63, 63⟩ s.engine e.val
  let rd := s.pickChan e.val g.lastRead (fun n => if h : n < 272 then (s.readReady ⟨n, h⟩).isSome else false)
  let wr := s.pickChan e.val g.lastWrite (fun n => (s.writeReady n).isSome)
  let wx := wr.bind (fun n => (s.writeReady n).map (fun w => (n, w)))
  let s := { s with engine := tput s.engine e.val ⟨(rd.map chanIn).getD g.lastRead, (wr.map chanIn).getD g.lastWrite⟩ }
  let s := match rd with
    | some n => if h : n < 272 then
        match s.readReady ⟨n, h⟩ with | some r => s.dmaIssueRead ⟨n, h⟩ r | none => s
      else s
    | none => s
  .next (match wx with
    | some (n, w) => if h : n < 272 then s.dmaIssueWrite ⟨n, h⟩ w else s
    | none => s)

/-- DMA_DESC_FETCH_DONE (R207, R208, R210, R212): the read of a descriptor, or of its word 3, is answered. -/
def execDmaDescFetchDone (n : Fin 272) (r : BusAnswer) (s : State) : Out :=
  .next (match (s.ch n.val).reads.find? (fun x => x.kind != .data && x.kind != .table && !(isWindow x.addr)) with
    | some x => s.dmaAnswerRead n x r
    | none => s)

/-- DMA_READ_RESPONSE (R219): the oldest outstanding read of data or of the index table of this device is answered; the reads through a
window are answered by the link. -/
def execDmaReadResponse (n : Fin 272) (r : BusAnswer) (s : State) : Out :=
  .next (match (s.ch n.val).reads.find? (fun x => (x.kind == .data || x.kind == .table) && !(isWindow x.addr)) with
    | some x => s.dmaAnswerRead n x r
    | none => s)

/-- DMA_WRITE_RESPONSE (R220): the oldest outstanding write to this device is answered. -/
def execDmaWriteResponse (n : Fin 272) (r : BusAnswer) (s : State) : Out :=
  .next (match (s.ch n.val).writes.find? (fun x => !(isWindow x.addr)) with
    | some w => s.dmaAnswerWrite n w r
    | none => s)

/-- DMA_DESC_COMPLETE (R214, R216): every write response has been received and a credit for the token is held. What else waits for the
token's credit goes on: a RESUME (R224), a channel told to stop (R223). -/
def execDmaDescComplete (n : Fin 272) (s : State) : Out :=
  let x := s.ch n.val
  .next (
    if x.stop then s.dmaSettle n
    else if s.chSt n.val ≠ dsDrain ∨ s.tokenless n then s
    else match x.after with
      | some (action, code) => s.dmaLeave n action code
      | none => if x.writes.isEmpty then s.dmaComplete n else s)

/-- DMA_TAIL_POLL (R212): the polling interval has passed in TAIL_WAIT; FCLK makes two cycles a tick. -/
def execDmaTailPoll (n : Fin 272) (s : State) : Out :=
  let x := s.ch n.val
  let poll := s.entN (Key.dmaTailPoll (engOf n.val))
  .next (
    if s.chSt n.val = dsTail ∧ poll ≠ 0 ∧ poll ≤ 2 * (s.raw.toNat - x.pollRaw) ∧ x.need.isNone ∧ x.reads.isEmpty then
      s.setCh n.val { x with need := some .tail, pollRaw := s.raw.toNat }
    else s)

/-- A write of RESUME by a requester. -/
def State.resumeBy (s : State) (rq : Requester) (n : Fin 272) (action index : Nat) : State :=
  let v := w64 (action * 2 ^ 62 + index)
  match s.checkWrite rq (Key.dmaResume n.val) v with
  | .ok => s.dmaResume n action index
  | e => s.status e

/-- DMA_RESUME_RETRY (R224). -/
def execDmaResumeRetry (rq : Requester) (n : Fin 272) (index : BitVec 32) (s : State) : Out :=
  .next (s.resumeBy rq n 1 index.toNat)

/-- DMA_RESUME_NEXT (R224). -/
def execDmaResumeNext (rq : Requester) (n : Fin 272) (index : BitVec 32) (s : State) : Out :=
  .next (s.resumeBy rq n 2 index.toNat)

/-- DMA_RESUME_STOP (R224). -/
def execDmaResumeStop (rq : Requester) (n : Fin 272) (index : BitVec 32) (s : State) : Out :=
  .next (s.resumeBy rq n 3 index.toNat)

/-- DMA_CHANNEL_DISABLE (R223): a write of 0 to EN. -/
def execDmaChannelDisable (rq : Requester) (n : Fin 272) (s : State) : Out :=
  let k := Key.dmaCfg n.val
  let v := setBit (s.ent k) 63 false
  .next (match s.checkWrite rq k v with
    | .ok => s.dmaCfgWrite n v
    | e => s.status e)

end Sys2Proof.Machine
end

