-- ==== Sys2Proof/Machine/Firmware.lean ====
section
/-! DEFINITION. Firmware.lean: owners of carriers (R521), firmware trials (R525 to R527), the boot flash (R529) and attestation (R532). -/
namespace Sys2Proof.Machine

/-! Carriers -/

/-- Byte i of a slot of PRT_CARRIERS. -/
def ownByte (v : U64) (i : Nat) : Nat := bf v (8 * i + 7) (8 * i)

/-- A write of a slot of PRT_CARRIERS (R521): every byte that changes must be the writer's to change, and its slot plan off. -/
def State.carriersWrite (s : State) (rq : Requester) (cc : Nat) (v : U64) : State :=
  let old := s.ent (Key.prtCarriers cc)
  let ch := (List.range 8).filter (fun i => ownByte old i != ownByte v i)
  let may := fun i => s.isAdmin rq || (match s.rqPart rq with
    | some p => (ownByte old i == 255 && ownByte v i == p) || (ownByte old i == p && ownByte v i == 255)
    | none => false)
  if !(ch.all may) then s.status .access
  else if !(ch.all (fun i => ownByte v i == 255 || decide (ownByte v i < 8))) then s.status .range
  else if ch.any (fun i => s.flag (Key.knPlanCfg (8 * cc + i)) 63) then s.status .busy
  else (s.setEnt (Key.prtCarriers cc) v).status .ok

/-- CARRIER_OWNER_WRITE (R521). -/
def execCarrierOwnerWrite (rq : Requester) (c : Fin 384) (owner : Byte) (s : State) : Out :=
  let k := Key.prtCarriers (c.val / 8)
  let v := setf (s.ent k) (8 * (c.val % 8) + 7) (8 * (c.val % 8)) owner.toNat
  .next (match s.checkWrite rq k v with
    | .ok => s.carriersWrite rq (c.val / 8) v
    | e => s.status e)

/-! Trials -/

/-- A write of FW_PTp_CTL (R525, R526). -/
def State.fwCtlWrite (s : State) (p op : Nat) : State :=
  let cfg := s.ent (Key.fwCfg p)
  let active := b01 (bit cfg 63)
  let trial := bit cfg 62
  if op = 1 then
    if trial then s.status .busy
    else if s.fwSlotAt p (1 - active) = 0 then s.status .range
    else (s.ownCommit [(Key.fwCfg p, setBit cfg 62 true)]).status .ok
  else if op = 2 then
    if !trial ∨ (tfind s.trialStart p).isNone ∨ !(s.flag (Key.rstPtStat p) 63) then s.status .busy
    else ({ s with trialStart := tdel s.trialStart p }.ownCommit [(Key.fwCfg p, setBit (setBit cfg 62 false) 63 (active == 0))]).status .ok
  else if op = 3 then
    (if trial then { s with trialStart := tdel s.trialStart p }.ownCommit [(Key.fwCfg p, setBit cfg 62 false)] else s).status .ok
  else s.status .range

def State.fwCtlBy (s : State) (rq : Requester) (p op : Nat) : State :=
  match s.checkWrite rq (Key.fwCtl p) (w64 op) with
  | .ok => s.fwCtlWrite p op
  | e => s.status e

/-- FW_TRIAL (R525). -/
def execFwTrial (rq : Requester) (p : Fin 8) (s : State) : Out := .next (s.fwCtlBy rq p.val 1)
/-- FW_CONFIRM (R526). -/
def execFwConfirm (rq : Requester) (p : Fin 8) (s : State) : Out := .next (s.fwCtlBy rq p.val 2)
/-- FW_ABANDON (R526). -/
def execFwAbandon (rq : Requester) (p : Fin 8) (s : State) : Out := .next (s.fwCtlBy rq p.val 3)

/-- FW_TRIAL_LIMIT (R527): the trial image has run too long without a CONFIRM. -/
def execFwTrialLimit (p : Fin 8) (s : State) : Out :=
  .next (match tfind s.trialStart p.val with
    | some r =>
      if s.entN Key.fwTrialLimit * 491520000 ≤ s.raw.toNat - r then ((s.rollback p.val 1).partReset p.val 5 false).1 else s
    | none => s)

/-! The flash -/

/-- Who asks, as FW_FLASH records it (R554). -/
def State.flashWho (s : State) (rq : Requester) : U64 :=
  match rq with
  | .core c _ => w64 c.val
  | .session i => w64 (2 ^ 32 + ((s.sess i.val).map (fun x => x.id.toNat)).getD 0)
  | _ => w64 (2 * 2 ^ 32)

/-- Whether a requester may use the flash (R529). -/
def State.flashMay (s : State) (rq : Requester) : Bool :=
  match rq with
  | .core c m => m == .machine && (match s.partOfCore c.val with | some p => s.flag Key.fwFlashParts p | none => false)
  | .session _ => s.isAdmin rq
  | .root => true
  | .relay _ => false

/-- Whether n bytes at a touch an image that is ACTIVE or on trial (R529). -/
def State.flashProtected (s : State) (a n : Nat) : Bool :=
  (List.range 8).any (fun p => s.partState p != psNone && (List.range 2).any (fun slot =>
    let o := s.fwSlotAt p slot
    (slot == b01 (s.flag (Key.fwCfg p) 63) || s.flag (Key.fwCfg p) 62) && o != 0 && decide (a < o + 0x4000000 + 512) && decide (o < a + n)))

/-- Statuses of FW_FLASH_CTL. -/
def fsDone : Nat := 0
def fsProtected : Nat := 1
def fsRange : Nat := 2
def fsError : Nat := 3

/-- The first byte of a flash operation and how many it touches: an ERASE its whole sector. -/
def flashSpan (v : U64) : Nat × Nat :=
  if bf v 63 62 = 1 then (bf v 31 16 * 65536, 65536) else (bf v 31 0, bf v 41 32 + 1)

/-- A write of FW_FLASH_CTL (R529). -/
def State.flashWrite (s : State) (rq : Requester) (v : U64) : State :=
  let (a, n) := flashSpan v
  let ctl := slotKey rq Key.fwFlashCtl
  let done := fun (st : Nat) => { s with bank := tput s.bank ctl (w64 st) }.status .ok
  if !(s.flashMay rq) then s.status .access
  else if bf v 63 62 = 0 then s.status .range
  else if s.flashOp.isSome then s.status .busy
  else if Config.flashSize < a + n then done fsRange
  else if bf v 63 62 ≠ 3 ∧ s.flashProtected a n then done fsProtected
  else { s with flashOp := some ⟨rqSlot rq, bf v 63 62, n, a, s.flashWho rq⟩, bank := tput s.bank ctl (w64 (2 ^ 63)) }.status .ok

def State.flashBy (s : State) (rq : Requester) (op : Nat) (v : U64) : State :=
  let v := setf v 63 62 op
  match s.checkWrite rq Key.fwFlashCtl v with
  | .ok => s.flashWrite rq v
  | e => s.status e

/-- FLASH_ERASE (R529). -/
def execFlashErase (rq : Requester) (v : U64) (s : State) : Out := .next (s.flashBy rq 1 v)
/-- FLASH_PROGRAM (R529). -/
def execFlashProgram (rq : Requester) (v : U64) (s : State) : Out := .next (s.flashBy rq 2 v)
/-- FLASH_READ (R529). -/
def execFlashRead (rq : Requester) (v : U64) (s : State) : Out := .next (s.flashBy rq 3 v)

/-- Bytes of a banked OCTETS object of a requester slot (R414, R415). -/
def State.bankOcts (s : State) (slot : Nat) (f : Nat → Nat) (n : Nat) : List Byte :=
  ((List.range ((n + 7) / 8)).flatMap (fun i => leBytes 8 (tget 0 s.bank (slot * 2 ^ 32 + f i)).toNat)).take n
def State.setBankOcts (s : State) (slot : Nat) (f : Nat → Nat) (bs : List Byte) : State :=
  let ws := bytesWords ((bs.length + 7) / 8) bs
  { s with bank := (List.range ws.length).foldl (fun t i => tput t (slot * 2 ^ 32 + f i) (ws.getD i 0)) s.bank }

/-- n bytes of the flash from a on take values. -/
def putFlash (t : Tab Byte) (a : Nat) (bs : List Byte) : Tab Byte :=
  (List.range bs.length).foldl (fun t i =>
    let b := bs.getD i 0xFF
    if b = 0xFF then tdel t (a + i) else tput t (a + i) b) t

/-- Whether the slot still belongs to who began the operation. -/
def State.stillWho (s : State) (slot : Nat) (who : U64) : Bool :=
  decide (slot < 17) || (match s.sess (slot - 17) with | some x => bf who 31 0 == x.id.toNat | none => false)

/-- FLASH_OP_DONE (R529): the operation ends. A program clears bits only; after an error what it touched is not known. -/
def execFlashOpDone (ok : Bool) (s : State) : Out :=
  .next (match s.flashOp with
    | some o =>
      let old := s.flashBytes o.addr o.len
      let (f, s') := s.draw
      let noise := (List.range o.len).map (fun i => BitVec.ofNat 8 (Config.freeValue (f + i)))
      let s := { s' with flashOp := none }
      let data := s.bankOcts o.slot Key.fwFlashBuf o.len
      let s := if o.op = 3 then (if s.stillWho o.slot o.who then s.setBankOcts o.slot Key.fwFlashBuf (if ok then old else noise) else s)
        else
          let new := if !ok then noise else if o.op = 1 then List.replicate o.len 0xFF else (old.zip data).map (fun q => q.1 &&& q.2)
          { s with flash := putFlash s.flash o.addr new }
      let s := if ok ∧ o.op = 1 then s.record 0xB2 [w64 o.addr, o.who] else s
      if s.stillWho o.slot o.who then
        { s with bank := tput s.bank (o.slot * 2 ^ 32 + Key.fwFlashCtl) (w64 (if ok then fsDone else fsError)) } else s
    | none => s)

/-! Attestation -/

/-- A write of SEC_ATTEST_CTL (R532). -/
def State.attestWrite (s : State) (rq : Requester) (v : U64) : State :=
  let k := slotKey rq Key.secAttestCtl
  if !(bit v 0) then s.status .ok
  else if bit (tget 0 s.bank k) 63 then s.status .busy
  else { s with bank := tput s.bank k (w64 (2 ^ 63)) }.status .ok

/-- ATTEST_GO (R532). -/
def execAttestGo (rq : Requester) (v : U64) (s : State) : Out :=
  .next (match s.checkWrite rq Key.secAttestCtl v with
    | .ok => s.attestWrite rq v
    | e => s.status e)

/-- Every slot of the key objects, in index order. -/
def State.keySlots (s : State) : List Byte :=
  ((List.range 16).flatMap (fun n => s.octs (Key.odPeerKey n) 64)) ++ ((List.range 4).flatMap (fun n => s.octs (Key.odTokenKey n) 64)) ++
    ((List.range 4).flatMap (fun n => s.octs (Key.secFwKey n) 64))

/-- A report without its signature (table Attestation report). -/
def State.attestBody (s : State) (nonce : List Byte) : List Byte :=
  beBytes 2 1 ++ beBytes 2 898 ++ beBytes 1 (s.bootsel.toNat * 2 + b01 (s.flag Key.secDebug 0)) ++ List.replicate 3 0 ++
    beBytes 8 (s.entN Key.idDevice) ++ beBytes 8 Config.idSerial.toNat ++ beBytes 4 (s.entN Key.idRom) ++ beBytes 4 s.pwrcyc ++
    beBytes 8 s.opsec ++ beBytes 4 s.nvNow.gen.toNat ++ beBytes 4 (s.entN Key.secSvnFloor) ++ nonce ++ shake 64 s.keySlots ++
    (List.range 8).flatMap (fun p =>
      beBytes 1 (s.partState p) ++ beBytes 1 (tget 0xFF s.loadSlot p) ++ beBytes 2 (s.fld (Key.fwStat p) 31 16) ++
        beBytes 4 (s.fld (Key.fwVer p) 63 32) ++ beBytes 4 (s.fld (Key.fwVer p) 31 0) ++ List.replicate 4 0 ++ s.octs (Key.fwMeas p) 64)

/-- ATTEST_DONE (R532): the report is signed and BUSY clears. -/
def execAttestDone (rq : Requester) (s : State) : Out :=
  let k := slotKey rq Key.secAttestCtl
  .next (
    if bit (tget 0 s.bank k) 63 then
      let body := s.attestBody (s.bankOcts (rqSlot rq) Key.secAttestNonce 32)
      let sig := idSign (ascii "BT9-ATTEST") body
      let s := s.setBankOcts (rqSlot rq) Key.secAttestReport (body ++ sig)
      { s with bank := tput s.bank k 898 }
    else s)

end Sys2Proof.Machine
end

