-- ==== Sys2Proof/Machine/PowerCore.lean ====
section
/-!
DEFINITION. PowerCore.lean: power states of packs and of the device: the sleep handshake (R469 to R477), wakes (R480 to R482) and
emergencies (R477).
-/
namespace Sys2Proof.Machine

/-! States and masking -/

/-- Power states of the device as TARGET and POWER give them (R464). -/
def devNo : DevPower → Nat := DevPower.ctorIdx

/-- PRESENT follows the packs' states (R200, R466). -/
def State.presentSync (s : State) : State :=
  (List.range 24).foldl (fun s r => if s.present r then (if s.isMasked r then s.unmaskReq r else s) else s.maskReq r) s

/-- Guard packs (R478). -/
def State.guardPack (s : State) (p : Nat) : Bool := (List.range 16).any (s.wakeWatch p)

/-- A pack is gated in P1; its PCLK stands (R465, R468). -/
def State.gatePack (s : State) (p : Nat) : State :=
  { s with packPower := tput s.packPower p 1, packStop := tput s.packStop p s.raw.toNat }

/-- A pack takes a state in which nothing is lost. -/
def State.setPack (s : State) (p st : Nat) : State :=
  if s.packP p = st then s
  else if st = 0 ∧ s.packP p = 1 then s.wakePack p
  else if st = 1 ∧ s.packP p = 0 then s.gatePack p
  else
    let s := if s.packP p = 0 then s.gatePack p else s
    if st = 0 then { s with packPower := tput s.packPower p 1 }.wakePack p else { s with packPower := tput s.packPower p st }

/-- A pack is powered down to P3: its tiles stop, its SRAM is lost (R465, R481). -/
def State.packDown (s : State) (p st : Nat) : State :=
  if st = 3 then
    let us := unitsUnder (packUnit p)
    let s := us.foldl (fun s u => if unitKind u = 1 then s.setTl u tileInit else s) ((s.setPack p 3).dropWork us)
    { s with packStop := tdel s.packStop p }
  else s.setPack p st

/-- Addresses of a pack's SRAM. -/
def inPack (p a : Nat) : Bool := decide (packBase p ≤ a) && decide (a < packBase p + 0x3400000)

/-- A pack wakes from P3 (R481, R482): SRAM zero with good parity, E entries at their defaults, IM from its anchor, tiles with RUN
set from RESET_PC. -/
def State.packRestore (s : State) (p : Nat) : State :=
  let us := unitsUnder (packUnit p)
  let s := { s with mem := s.mem.filter (fun c => !(inPack p c.1))
                    poison := tdrop s.poison (fun w => inPack p (8 * w))
                    fresh := tdrop s.fresh (inPack p)
                    merges := s.merges.filter (fun m => !(inPack p (64 * m.block)))
                    kennel := tput s.kennel p { knInit with entries := (s.kn p).entries }
                    packPower := tput s.packPower p 0
                    packStop := tdel s.packStop p }
  let s := if h : p < 8 then { s with hound := tdel s.hound p }.setLv (.watch ⟨p, h⟩) liveInit else s
  let s := s.dropEntries (fun r ix _ => r.cls == .e && us.contains (ownerUnit r ix))
  let s := (List.range 64).foldl (fun s i =>
    let t := 64 * p + i
    let b := s.fld (Key.epImAnchor t) 39 0
    if b = 0 then s else s.store (imAddr t 0) (s.bytes b 0x10000)) s
  (s.noteDefaulted us 8 dcP3Wake).startTiles us

/-! Requests -/

def rqsRunning : Nat := 1
def rqsOk : Nat := 2
def rqsRefused : Nat := 3
def rqsSuperseded : Nat := 4
def rqsEmergency : Nat := 5

def pwrInit : PwrSlot := ⟨none, none⟩
def State.slotOf (s : State) (u : Nat) : PwrSlot := tget pwrInit s.pwr u
def State.setSlot (s : State) (u : Nat) (x : PwrSlot) : State :=
  { s with pwr := if x = pwrInit then tdel s.pwr u else tput s.pwr u x }

/-- Phase of the handshake as PWR_Un_REQ_STAT gives it. -/
def phaseNo : Phase → Nat := Phase.ctorIdx

/-- PWR_Un_REQ_STAT of a request (R469 to R477). -/
def State.reqStat (s : State) (u target tag status refuser seq : Nat) : State :=
  s.setEntN (Key.pwrReqStat u) (tag * 2 ^ 48 + status * 2 ^ 44 + target * 2 ^ 41 + refuser * 2 ^ 28 +
    (match (s.slotOf u).cur with | some t => phaseNo t.phase | none => 0) * 2 ^ 24 + seq)

/-- The units that can hold a transition (R475), device first. -/
def pwrUnits : List Nat := 1020 :: (List.range 8).map packUnit
/-- Whether a transition runs. -/
def State.inTransition (s : State) : Bool := s.pwr.any (fun e => e.2.cur.isSome)

/-- The power interrupt at a partition's lowest control core (R472). -/
def State.askIrq (s : State) (p : Nat) : State :=
  match (s.coresOf p).head? with | some c => s.setIrq .power c true | none => s
/-- The refusing unit of a participant: the unit of its lowest core, or the pack (R474). -/
def State.refuserOf (s : State) (x : Nat) : Nat :=
  if 8 ≤ x then packUnit (x - 8) else match (s.coresOf x).head? with | some c => coreUnit c | none => 1020

/-- ASKED of a partition clears. -/
def State.unask (s : State) (p : Nat) : State := s.setEntN (Key.pwrVote p) 0

/-- Whether a pack is the home of an enabled slot plan (R472). -/
def State.isHome (s : State) (p : Nat) : Bool :=
  (List.range 384).any (fun c => s.flag (Key.knPlanCfg c) 63 && s.fld (Key.knPlanCfg c) 62 60 == p)

/-- The transition of u is rolled back (R474, R477) with a status: packs woken and partitions released, in reverse order. -/
def State.rollbackPwr (s : State) (u status refuser reason : Nat) : State :=
  match (s.slotOf u).cur with
  | some t =>
    let s := s.setSlot u { s.slotOf u with cur := none }
    let s := t.done.foldl (fun s p => s.setPack p (tget 0 t.prev p)) s
    let s := t.asked.foldl (fun s p => (s.unask p).askIrq p) s
    let s := match t.todo with | p :: _ => if p < 8 then s.unask p else s | [] => s
    let q := s.nextSeq 40
    let s := if status = rqsRefused then s.record 0x70 [w64 u, w64 t.tag, w64 status, w64 refuser, w64 reason] else s
    (s.reqStat u t.target t.tag status refuser (if status = rqsRefused then q else 0)).presentSync
  | none => s

/-- First frame boundary of the reference carrier after now (R479, R228). -/
def State.nextFrame (s : State) : Nat :=
  let r := frameRefT s (s.fld Key.pwrGuardCfg 15 7)
  let f := nsT 10000000
  r + (if s.now < r then 0 else ((s.now - r) / f + 1) * f)

/-- Control cores stop or go on at their place (R464, R480). -/
def State.coresStop (s : State) (b : Bool) : State := { s with core := s.core.map (fun e => (e.1, { e.2 with stopped := b })) }

/-- Octets without KEEP leave or resume operation with the device state (R352, R464). -/
def State.octetsSync (s : State) (was : State) : State :=
  (List.range 16).foldl (fun s o =>
    if was.lanesRun o && !(s.lanesRun o) then s.octetIdle o 4
    else if !(was.lanesRun o) && s.lanesRun o then s.octetStart o else s) s

/-- Whether a pack may leave P3 (R23, R453): it belongs to a partition and is not fenced. -/
def State.mayWake (s : State) (p : Nat) : Bool := (s.partOfPack p).isSome && !((s.un (packUnit p)).fenced)

/-- COMMIT of a device state (R473, R464): packs powered down in ascending order, then the state. -/
def State.enterDown (s : State) (d : DevPower) : State :=
  let was := s
  let s := (List.range 8).foldl (fun s p =>
    if s.packP p = 3 then (if d = .guard ∧ s.guardPack p ∧ tget 0 s.packReq p ≠ 3 ∧ s.mayWake p then (s.packRestore p).packDown p 2 else s)
    else s.packDown p (if d = .guard ∧ s.guardPack p then 2 else 3)) s
  let s := { s with dev := d, guardLead := false, guardAt := s.nextFrame, sleepRaw := s.raw.toNat }
  let s := if d = .guard then s.coresStop true else s
  let s := s.octetsSync was
  (if d = .guard then s else s.commitOpsec).presentSync

/-- COMMIT of the transition of u, whose participants have all acknowledged. -/
def State.commitPwr (s : State) (u : Nat) : State :=
  match (s.slotOf u).cur with
  | some t =>
    let s := s.setSlot u { s.slotOf u with cur := none }
    let s := if u = 1020 then s.enterDown (if t.target = 2 then .guard else .dormant)
      else
        let p := u - 576
        let s := { s with packReq := tput s.packReq p t.target }
        (if s.packP p = 3 then (if t.target = 2 ∧ s.mayWake p then (s.packRestore p).packDown p 2 else s)
          else s.packDown p t.target).presentSync
    let s := t.asked.foldl State.unask s
    s.reqStat u t.target t.tag rqsOk 0 0
  | none => s

/-- The participant in front of a transition is asked now. -/
def State.askedNow (s : State) (u : Nat) (t : Trans) : State :=
  s.setSlot u { s.slotOf u with cur := some { t with since := s.raw.toNat } }

/-- The participant in front is asked; NONE acknowledges at once, a home pack refuses at once (R472). The state, and whether the
transition waits. -/
def State.askNext (u : Nat) : Nat → State → State
  | 0, s => s
  | n + 1, s =>
    match (s.slotOf u).cur with
    | some t =>
      match t.todo with
      | [] => s.commitPwr u
      | x :: rest =>
        if x < 8 then
          if s.partState x = psNone then State.askNext u n (s.setSlot u { s.slotOf u with cur := some { t with todo := rest } })
          else ((s.askedNow u t).setEntN (Key.pwrVote x) (2 ^ 63 + t.target * 2 ^ 60 + u * 2 ^ 48)).askIrq x
        else if s.isHome (x - 8) then s.rollbackPwr u rqsRefused (packUnit (x - 8)) 3
        else s.askedNow u t
    | none => s

/-- Participants of a transition (R471), in order. -/
def State.participants (s : State) (u : Nat) : List Nat :=
  let scope := if u = 1020 then List.range 8 else [u - 576]
  ((List.range 8).filter (fun p => s.holdsFw p && (u == 1020 && !((s.packsOf p).isEmpty) || scope.any (fun q => s.partOfPack q == some p)))) ++
    scope.map (8 + ·)

/-- A pack in P3 that is requested otherwise waits for its wake; others take the state at once, P1 where they are idle (R468, R470). -/
def State.packTo (s : State) (p target : Nat) : State :=
  let s := { s with packReq := tput s.packReq p target }
  (if s.packP p = 3 then s
   else if target = 1 then (if s.packIdle p true then s.setPack p 1 else s.setPack p 0)
   else s.setPack p target).presentSync

/-- The device wakes to RUN or HUSH (R480), or changes between them (R468): packs return to what is requested of them, cores go on. -/
def State.devTo (s : State) (d : DevPower) : State :=
  let was := s
  let down := decide (2 ≤ devNo s.dev)
  let s := { s with dev := d, guardLead := false, thermalDormant := false }
  let s := (List.range 8).foldl (fun s p =>
    if s.packP p = 3 then s
    else if down then (if s.packP p = 2 then s.packTo p (tget 0 s.packReq p) else s)
    else if d = .run ∧ tget 0 s.packReq p = 0 then s.wakePack p else s) s
  ((s.coresStop false).octetsSync was).presentSync

/-- A wake (R480): the device takes a state, the cause is noted and recorded, the cores get the interrupt. -/
def State.wakeDev (s : State) (d : DevPower) (cause engine : Nat) : State :=
  let s := s.devTo d
  let v := s.ent Key.pwrGuardStat
  let v := setf (setf v 31 28 cause) 15 0 (bf v 15 0 + 1)
  let s := s.setEnt Key.pwrGuardStat (if cause = 1 then setf v 27 24 engine else v)
  let s := s.record 0x71 [w64 cause, w64 (if cause = 1 then engine else 0)]
  s.core.foldl (fun s e => s.setIrq .power e.1 true) s

/-- WAKE_TO (R480). -/
def State.wakeTo (s : State) : DevPower := if s.flag Key.pwrGuardCfg 0 then .hush else .run
/-- Whether a wake source wakes now (R480). -/
def State.wakeable (s : State) : Bool := s.dev == .guard || (s.dev == .dormant && !s.thermalDormant)

/-- A request starts (R470): with the handshake, or at once. -/
def State.startReq (s : State) (u target tag : Nat) : State :=
  let there := if u = 1020 then devNo s.dev == target else s.packP (u - 576) == target
  if 2 ≤ target ∧ !there then
    let t : Trans := ⟨target, tag, .prepare, [], s.participants u, [], [], s.raw.toNat⟩
    let s := (s.setSlot u { s.slotOf u with cur := some t }).reqStat u target tag rqsRunning 0 0
    s.askNext u 17
  else if u = 1020 then
    let d := if target = 1 then DevPower.hush else if target = 0 then .run else s.dev
    let s := if devNo s.dev = target then s else if 2 ≤ devNo s.dev then s.wakeDev d 4 0 else s.devTo d
    s.reqStat u target tag rqsOk 0 0
  else
    let p := u - 576
    let s := s.packTo p target
    if s.packP p = 3 ∧ s.mayWake p then
      (s.setSlot u { s.slotOf u with cur := some ⟨target, tag, .commit, [], [], [], [], s.raw.toNat⟩ }).reqStat u target tag rqsRunning 0 0
    else s.reqStat u target tag rqsOk 0 0

/-- Whether a request for u can start now (R475, R476). -/
def State.mayStart (s : State) (u : Nat) : Bool :=
  !s.inTransition && (u == 1020 || s.dev == .run || s.dev == .hush)

/-- Pending requests start as they can (R475, R476): the device's first, then the packs' in order. -/
def State.startPending : Nat → State → State
  | 0, s => s
  | n + 1, s =>
    match pwrUnits.find? (fun u => (s.slotOf u).pending.isSome && s.mayStart u) with
    | some u =>
      match (s.slotOf u).pending with
      | some (target, tag) =>
        State.startPending n ((((s.setSlot u { s.slotOf u with pending := none }).setEntN (Key.pwrReq u) 0)).startReq u target tag)
      | none => s
    | none => s

/-- A request that is accepted (R469, R475): it starts, or waits in its pending slot. -/
def State.takeReq (s : State) (u target tag : Nat) : State :=
  if (s.slotOf u).cur.isNone ∧ s.mayStart u then (s.startReq u target tag).startPending 9
  else
    let s := match (s.slotOf u).pending with
      | some (t, g) => s.reqStat u t g rqsSuperseded 0 0
      | none => s
    (s.setSlot u { s.slotOf u with pending := some (target, tag) }).setEntN (Key.pwrReq u) (tag * 2 ^ 48 + 2 ^ 47 + target)

/-- A write of PWR_Un_REQ (R469, R478, R490): its status, and what it does. -/
def State.pwrReqWrite (s : State) (u : Nat) (v : U64) : State :=
  let target := bf v 2 0
  let tag := bf v 63 48
  let src := s.ent Key.pwrWakeSrc
  if !((unitKind u = 3 ∧ target ≤ 3) ∨ (u = 1020 ∧ target ≤ 3)) then s.status .range
  else if u = 1020 ∧ (s.dev = .hold ∨ (s.thermalDormant ∧ s.fld Key.pwrThermStat 49 48 ≠ 0)) then s.status .busy
  else if u = 1020 ∧ target = 2 ∧ !((List.range 8).any s.guardPack) ∧ !(bit src 63) ∧ !(bit src 47) then s.status .range
  else (s.takeReq u target tag).status .ok

/-! Emergencies -/

/-- An emergency takes effect (R477): a transition before COMMIT rolls back, pending requests are superseded. -/
def State.emergency (s : State) : State :=
  pwrUnits.foldl (fun s u =>
    let s := match (s.slotOf u).cur with
      | some _ => s.rollbackPwr u rqsEmergency 0 0
      | none => s
    match (s.slotOf u).pending with
    | some (t, g) => (((s.setSlot u { s.slotOf u with pending := none }).setEntN (Key.pwrReq u) 0)).reqStat u t g rqsSuperseded 0 0
    | none => s) s

/-- The thermal emergency's action (R490): DORMANT without votes; every task still running ends ABORTED. -/
def State.thermalDown (s : State) : State :=
  if s.dev = .hold then s
  else
    let us := (List.range 8).flatMap (fun p => unitsUnder (packUnit p))
    let s := us.foldl (fun s u => s.abortUnit us u) (s.dropWork us)
    { s.enterDown .dormant with thermalDormant := true }

/-- The emergencies that wait take effect at a safe point (R477): the supply's ends in HOLD, which leaves the other nothing to do. -/
def State.emergeNow (s : State) : State :=
  if s.emergencies = [] then s
  else
    let es := s.emergencies
    let s := { s with emergencies := [] }.emergency
    if es.contains .supply then s.enterHold hcSupply else s.thermalDown

/-- An emergency is raised (R477): at once where no transition runs, else at its next safe point. -/
def State.raise (s : State) (e : Emergency) : State :=
  let s := { s with emergencies := e :: s.emergencies.filter (· != e) }
  if s.inTransition then s else s.emergeNow

/-- A transition has completed or rolled back: an emergency that waits acts, else pending requests start (R475, R477). -/
def State.afterTrans (s : State) : State :=
  if s.emergencies = [] then s.startPending 9 else if s.inTransition then s else s.emergeNow

end Sys2Proof.Machine
end

