-- ==== Sys2Proof/Machine/Power.lean ====
section
/-! DEFINITION. Power.lean: requests and votes (R469 to R477), GUARD (R478 to R480), residency (R483), supplies (R484 to R488) and
temperature (R489 to R491). -/
namespace Sys2Proof.Machine

/-- PWR_REQUEST (R469). -/
def execPwrRequest (rq : Requester) (u : Fin 1024) (v : U64) (s : State) : Out :=
  .next (match s.checkWrite rq (Key.pwrReq u.val) v with
    | .ok => s.pwrReqWrite u.val v
    | e => s.status e)

/-- The transition in PREPARE, with its unit. -/
def State.preparing (s : State) : Option (Nat × Trans) :=
  pwrUnits.findSome? (fun u => match (s.slotOf u).cur with
    | some t => if t.phase = .prepare then some (u, t) else none
    | none => none)

/-- The participant in front has acknowledged: the next one is asked (R472), or the transition commits (R473). An emergency takes effect
before the next one is asked, or after the COMMIT (R477). -/
def State.ackFront (s : State) (u : Nat) (t : Trans) : State :=
  let s := s.setSlot u { s.slotOf u with cur := some t }
  (if s.emergencies ≠ [] ∧ t.todo ≠ [] then s.emergeNow else (s.askNext u 17).afterTrans).presentSync

/-- A refusal before COMMIT (R474). -/
def State.refusePwr (s : State) (u x reason : Nat) : State := (s.rollbackPwr u rqsRefused (s.refuserOf x) reason).afterTrans

/-- A write of PWR_PTp_VOTE (R472, R474): BUSY while the partition is not asked; after COMMIT an answer is ignored. -/
def State.voteWrite (s : State) (p : Nat) (v : U64) : State :=
  let op := bf v 1 0
  if op = 0 ∨ op = 3 then s.status .range
  else if !(s.flag (Key.pwrVote p) 63) then s.status .busy
  else
    (match s.preparing with
      | some (u, t) =>
        if op = 2 then s.refusePwr u p 1
        else (match t.todo with
          | x :: rest => if x = p then s.ackFront u { t with todo := rest, asked := p :: t.asked } else s
          | [] => s)
      | none => s).status .ok

def State.voteBy (s : State) (rq : Requester) (p : Nat) (v : U64) : State :=
  match s.checkWho rq (Key.pwrVote p) v with
  | .ok => s.voteWrite p v
  | e => s.status e

/-- PWR_PARTITION_ACK (R472). -/
def execPwrPartitionAck (rq : Requester) (p : Fin 8) (s : State) : Out := .next (s.voteBy rq p.val 1)
/-- PWR_PARTITION_REFUSE (R474). -/
def execPwrPartitionRefuse (rq : Requester) (p : Fin 8) (s : State) : Out := .next (s.voteBy rq p.val 2)

/-- PWR_PACK_ACK (R472): the pack asked is idle with an empty store; it stops in P1. -/
def execPwrPackAck (p : Fin 8) (s : State) : Out :=
  .next (match s.preparing with
    | some (u, t) =>
      match t.todo with
      | x :: rest =>
        if x = 8 + p.val ∧ s.packIdle p.val false ∧ s.occ p.val = 0 ∧ !(s.isHome p.val) then
          let t := { t with todo := rest, done := p.val :: t.done, prev := tput t.prev p.val (s.packP p.val) }
          (if s.packP p.val = 0 then s.gatePack p.val else s).ackFront u t
        else s
      | [] => s
    | none => s)

/-- PWR_PREP_TIMEOUT (R472): the participant in front has not answered in time. -/
def execPwrPrepTimeout (s : State) : Out :=
  .next (match s.preparing with
    | some (u, t) =>
      (match t.todo with
        | x :: _ => if t.since + usTicks (s.entN Key.pwrPrepTimeout) ≤ s.raw.toNat then s.refusePwr u x 2 else s
        | [] => s)
    | none => s)

/-- HUSH_IDLE_GATE (R468): a pack that has been idle for PWR_HUSH_IDLE cycles of FCLK, two a tick, enters P1 in HUSH; one that is
requested P1 does so as soon as it is idle. -/
def execHushIdleGate (p : Fin 8) (s : State) : Out :=
  let r := tget 0 s.packReq p.val
  .next (
    if s.packP p.val = 0 ∧ s.packIdle p.val true ∧ ((s.dev = .hush ∧ r = 0 ∧ s.entN Key.pwrHushIdle ≤ 2 * tget 0 s.packIdleFor p.val) ∨ ((s.dev = .run ∨ s.dev = .hush) ∧ r = 1)) then
      s.gatePack p.val
    else s)

/-- PACK_P3_WAKE (R482): a pack that is requested a state above P3 reaches it; a request that waits for it completes. -/
def execPackP3Wake (p : Fin 8) (s : State) : Out :=
  let u := packUnit p.val
  let r := tget 0 s.packReq p.val
  .next (
    if s.packP p.val = 3 ∧ r < 3 ∧ (s.dev = .run ∨ s.dev = .hush) ∧ s.mayWake p.val then
      let s := (s.packRestore p.val).packTo p.val r
      match (s.slotOf u).cur with
      | some t =>
        if t.phase = .commit then
          (((s.setSlot u { s.slotOf u with cur := none }).reqStat u t.target t.tag rqsOk 0 0)).afterTrans
        else s
      | none => s
    else s)

/-! GUARD -/

/-- GUARD_LEAD (R479): LEAD µs before the cycle begins, the guard packs' Hound engines come to operation. -/
def execGuardLead (s : State) : Out :=
  .next (if s.dev = .guard ∧ !s.guardLead ∧ s.guardAt ≤ s.now + nsT (1000 * s.fld Key.pwrGuardCfg 31 16) then { s with guardLead := true } else s)

/-- The open occasions of the Hound engine of guard pack e end with the listening (R252). -/
def State.listenEnd (s : State) (e : Fin 8) : State :=
  if s.packP e = 2 then
    let s := (s.lv (.watch e)).occ.foldl (fun s o => s.endOcc (.watch e) (· == o)) s
    let h := s.hnd e
    s.setHnd e { h with watches := h.watches.map (fun q => (q.1, { q.2 with runs := [] })) }
  else s

/-- GUARD_LISTEN_END (R479): no wake by the end of LISTEN; the guard packs return to P2 and the cycle counts. -/
def execGuardListenEnd (s : State) : Out :=
  .next (
    if s.dev = .guard ∧ s.guardLead ∧ s.guardAt + nsT (1000000 * s.fld Key.pwrGuardCfg 47 32) ≤ s.now then
      { ((List.finRange 8).foldl State.listenEnd s).incWrap Key.pwrGuardStat 63 32 1 with
        guardLead := false, guardAt := s.guardAt + nsT (1000000 * s.fld Key.pwrGuardCfg 63 48) }
    else s)

/-- WAKE_GPIO_EDGE (R480): an edge at a GPIO; it wakes where PWR_WAKE_SRC selects it. -/
def execWakeGpioEdge (n : Fin 64) (rising : Bool) (s : State) : Out :=
  let v := s.ent Key.pwrWakeSrc
  let s := { s with padIn := tput s.padIn n.val rising }
  .next (
    if s.wakeable ∧ bit v 63 ∧ bf v 53 48 = n.val ∧ (if rising then bit v 61 else bit v 62) then s.wakeDev s.wakeTo 2 0 else s)

/-- WAKE_TIMER (R480): MAX_S seconds have passed without a wake. -/
def execWakeTimer (s : State) : Out :=
  .next (if s.wakeable ∧ s.flag Key.pwrWakeSrc 47 ∧ s.sleepRaw + s.fld Key.pwrWakeSrc 31 0 * secTicks ≤ s.raw.toNat then s.wakeDev s.wakeTo 3 0 else s)

/-- A Hound engine's wake request (R252, R480). -/
def State.houndWake (s : State) (e : Nat) : State := if s.dev = .guard then s.wakeDev s.wakeTo 1 e else s

/-! Residency -/

/-- The states counted: pack units with four, unit 1020 with five. -/
def resPlaces : List (Nat × Nat) :=
  (List.range 8).flatMap (fun p => (List.range 4).map (fun i => (packUnit p, i))) ++ (List.range 5).map (fun i => (1020, i))

/-- RESIDENCY_HOUR_COMMIT (R483): once an hour its whole seconds are added and committed, the remainder carried; not during a warning. -/
def execResidencyHourCommit (s : State) : Out :=
  .next (
    if s.warn ∨ s.hourNow ≤ s.hourTold then s
    else
      let secs := fun (q : Nat × Nat) => (s.entN (Key.pwrRes q.1 q.2) - tget 0 s.resTold (q.1 * 8 + q.2)) / 1000000
      let told := resPlaces.foldl (fun t q => if secs q = 0 then t else tput t (q.1 * 8 + q.2) (tget 0 t (q.1 * 8 + q.2) + 1000000 * secs q)) s.resTold
      { s.ownCommit (resPlaces.map (fun q => (Key.pwrHours q.1 q.2, w64 (satAdd 32 (s.entN (Key.pwrHours q.1 q.2)) (secs q))))) with
        resTold := told, hourTold := s.hourNow })

/-! Supplies -/

/-- WARN level of a rail in mV (table Rail monitors). -/
def warnMv (r : Nat) : Nat := [684, 760, 713, 713, 855, 1140, 1045, 380, 1710, 1710].getD r 0

/-- The power interrupt (R485, R490). -/
def State.powerIrq (s : State) : State := s.setIrq .power (s.entN Key.pwrIrqCore) true

/-- SUPPLY_WARN (R485): a rail falls below WARN. -/
def execSupplyWarn (r : Fin 10) (mv : Nat) (s : State) : Out :=
  .next (
    if s.pwrgood ∧ mv < warnMv r.val ∧ !(s.railLow.contains r.val) then
      let s := { s with railLow := r.val :: s.railLow, dips := s.dips.filter (fun d => d.1 != r.val)
                        warn := true, warnSince := if s.warn then s.warnSince else s.raw.toNat }
      (s.setSticky Key.pwrWarnStat 32).powerIrq
    else s)

/-- A recovered dip goes into PWR_RAILr, with its record (R486). -/
def State.noteDip (s : State) (d : Nat × Nat × Nat) : State :=
  let v := s.ent (Key.pwrRail d.1)
  (s.setEntN (Key.pwrRail d.1) (d.2.1 % 2 ^ 15 * 2 ^ 48 + min 65535 (bf v 47 32 + 1) * 2 ^ 32 + min d.2.2 (2 ^ 32 - 1))).record 0x72
    [w64 d.1, w64 d.2.1, w64 d.2.2]

/-- SUPPLY_RECOVER (R486): a rail is above its recovery level again; with the last one the warning clears, the dips are noted and the
MRAM writes that waited are made. -/
def execSupplyRecover (r : Fin 10) (minMv us : Nat) (s : State) : Out :=
  .next (
    if s.railLow.contains r.val then
      let s := { s with railLow := s.railLow.filter (· != r.val), dips := s.dips ++ [(r.val, minMv, us)] }
      if s.railLow.isEmpty then { s.dips.foldl State.noteDip { s with warn := false } with dips := [] }.mramDrain else s
    else s)

/-- WARN_HOLD_EXPIRY (R487): the warning has lasted PWR_WARN_HOLD; an emergency ends in HOLD. -/
def execWarnHoldExpiry (s : State) : Out :=
  .next (
    if s.warn ∧ s.dev ≠ .hold ∧ s.entN Key.pwrWarnHold * 12288 ≤ 25 * (s.raw.toNat - s.warnSince) then s.raise .supply
    else s)

/-! Temperature -/

/-- Thresholds of a level in 1/16 °C. -/
def State.thermAt (s : State) (level : Nat) : Int :=
  16 * sgn 8 (if level = 2 then s.fld Key.pwrThermCfg 55 48 else s.fld Key.pwrThermCfg 63 56)
def State.thermLevel (s : State) : Nat := s.fld Key.pwrThermStat 49 48

/-- The hottest sensor's reading (R489). -/
def State.noteTemp (s : State) (sensor : Nat) (temp : BitVec 16) : State :=
  let s := s.setEnt (Key.pwrTemp sensor) (temp.signExtend 64)
  (s.setFld Key.pwrThermStat 63 56 (uns 8 (temp.toInt / 16))).setFld Key.pwrThermStat 55 52 sensor

/-- LEVEL is reached (R490): counted, told and recorded. -/
def State.thermTo (s : State) (level sensor : Nat) (temp : BitVec 16) : State :=
  let s := s.setFld Key.pwrThermStat 49 48 level
  let s := if level = 1 then s.incSat Key.pwrThermStat 31 16 1 else s.incSat Key.pwrThermStat 15 0 1
  s.powerIrq.record 0x73 [w64 sensor, temp.signExtend 64, w64 level]

/-- THERMAL_THROTTLE (R490). -/
def execThermalThrottle (sensor : Fin 16) (temp : BitVec 16) (s : State) : Out :=
  .next (
    if s.thermLevel = 0 ∧ s.thermAt 1 ≤ temp.toInt ∧ s.phase ≠ phReset then (s.noteTemp sensor.val temp).thermTo 1 sensor.val temp else s)

/-- THERMAL_CRIT (R490): an emergency. -/
def execThermalCrit (sensor : Fin 16) (temp : BitVec 16) (s : State) : Out :=
  .next (
    if s.thermLevel < 2 ∧ s.thermAt 2 ≤ temp.toInt ∧ s.phase ≠ phReset then
      let s := s.noteTemp sensor.val temp
      let s := if s.thermLevel = 0 then s.thermTo 1 sensor.val temp else s
      (s.thermTo 2 sensor.val temp).raise .thermal
    else s)

/-- THERMAL_LEVEL_FALL (R490): the hottest sensor is 5 °C below the level's threshold. -/
def execThermalLevelFall (sensor : Fin 16) (temp : BitVec 16) (s : State) : Out :=
  .next (
    let l := s.thermLevel
    if l ≠ 0 ∧ temp.toInt ≤ s.thermAt l - 80 then
      (s.noteTemp sensor.val temp).setFld Key.pwrThermStat 49 48 (if l = 2 ∧ s.thermAt 1 - 80 < temp.toInt then 1 else 0)
    else s)

/-- THERMAL_TRIP (R491): THERM_TRIP_N is asserted and every clock but the always-on domain's stops. -/
def execThermalTrip (s : State) : Out :=
  .next (if s.pwrgood then { s with thermTrip := true } else s)

end Sys2Proof.Machine
end

