-- ==== Sys2Proof/Machine/Hound.lean ====
section
/-! DEFINITION. Hound.lean: occasions, energy and floor (R226 to R235), the qualifier (R236 to R238), burst lanes (R239 to R245) and
sensing (R246 to R252). -/
namespace Sys2Proof.Machine

/-! Fields of a watch row -/

def wWord (ws : List U64) (i : Nat) : U64 := ws.getD i 0
def wType (ws : List U64) : Nat := bf (wWord ws 0) 61 59
def wCarrier (ws : List U64) : Nat := bf (wWord ws 0) 56 48
def wWin (ws : List U64) : Nat := bf (wWord ws 0) 27 16 + 1
def wStreams (ws : List U64) : Nat := popcount (wWord ws 1)
def wLength (ws : List U64) : Nat := nsT (bf (wWord ws 2) 31 0)
def wSeqLen (ws : List U64) : Nat := bf (wWord ws 4) 31 20
def wSymLen (ws : List U64) : Nat := bf (wWord ws 5) 63 48
def wBurst (ws : List U64) : Nat := bf (wWord ws 5) 47 40
def wTemplate (ws : List U64) : Nat := bf (wWord ws 6) 63 40

/-- SYM_NS of a watch. -/
def wSym (ws : List U64) : Nat := nsT (bf (wWord ws 5) 31 0)
/-- The stream slots of a watch, ascending. -/
def wSlots (ws : List U64) : List Nat := (List.range 64).filter (bit (wWord ws 1) ·)

/-- Whether GUARD listens now: from a cycle's begin for LISTEN ms (R479). -/
def State.listens (s : State) : Bool :=
  s.guardLead && decide (s.guardAt ≤ s.now) && decide (s.now < s.guardAt + nsT (1000000 * s.fld Key.pwrGuardCfg 47 32))

/-- Whether engine e runs a watch of a type now (R227, R252, R479): its pack is up, or listens in GUARD. -/
def State.houndRuns (s : State) (e : Nat) (type : Nat) : Bool :=
  s.houndUp e && (s.dev != .guard || (type == 4 && s.listens))

/-- The open occasions of watch w of engine e, oldest first. -/
def State.occsOf (s : State) (e : Fin 8) (w : Nat) : List Occ := (s.lv (.watch e)).occ.filter (fun o => o.row == w)

/-- What the occasion beginning at a time has done. -/
def Watch.run (x : Watch) (time : Nat) : HoundOcc :=
  (x.runs.find? (fun r => r.time == time)).getD ⟨time, [], [], 0, true, 0, 0, [], 0⟩
def Watch.setRun (x : Watch) (r : HoundOcc) : Watch :=
  { x with runs := x.runs.map (fun q => if q.time = r.time then r else q) }
def Watch.endRun (x : Watch) (time : Nat) : Watch := { x with runs := x.runs.eraseP (fun q => q.time == time) }

/-- The occasion of watch w that begins next and whose window holds the present time: its number and begin (R228). In GUARD only those
that begin in the wake interval count (R252). -/
def State.occasionNow (s : State) (e : Fin 8) (w : Nat) : Option (Nat × Nat) :=
  let ws := s.rowOf (.watch e) 0 w
  let x := (s.hnd e.val).w w
  if bit (wWord ws 0) 62 ∧ s.houndRuns e.val (wType ws) then
    leastBy (·.2) ((s.occasions ws).zipIdx.filterMap (fun q =>
      let from_ := max (max (tget 0 x.nextBegin q.2) (s.barOf (.watch e) w)) (if s.dev = .guard then s.guardAt else 0)
      let b := q.1.base + q.1.before (max from_ (s.now + 1 - wLength ws)) * q.1.period
      if b ≤ s.now ∧ s.now < b + wLength ws then some (q.2, b) else none))
  else none

/-- The draw of a Type 1 procedure at the window start (R248, R251): after K draws at CWmax the window goes back to CWmin. -/
def State.senseDraw (s : State) (ws : List U64) (x : Watch) : Nat × Watch × State :=
  let p := bf (wWord ws 4) 59 58
  let (cw, m) := if x.cwOf p = cwMax p ∧ bf (wWord ws 4) 47 44 ≤ x.maxDraws then (cwMin p, 0) else (x.cwOf p, x.maxDraws)
  let (r, s) := s.drawBelow (2 ^ 32)
  (r * (cw + 1) / 2 ^ 32, { x with cw := cw, maxDraws := if cw = cwMax p then m + 1 else 0 }, s)

/-- HOUND_OCCASION_START (R226, R228, R248): an occasion window begins; one of a carrier of another partition is skipped. -/
def execHoundOccasionStart (e : Fin 8) (w : Fin 16) (s : State) : Out :=
  let s := s.swapBefore (.watch e) (fun s => (s.occasionNow e w.val).map (·.2))
  .next (match s.occasionNow e w.val with
    | none => s
    | some (k, b) =>
      let ws := s.rowOf (.watch e) 0 w.val
      let h := s.hnd e.val
      let x := { h.w w.val with nextBegin := tput (h.w w.val).nextBegin k (b + 1) }
      if s.partOfCarrier (wCarrier ws) ≠ s.partOfPack e.val then
        (s.setHnd e.val (h.setW w.val x)).incSat (Key.hndOcc e.val w.val) 31 16 1
      else
        let s := ((s.setHnd e.val (h.setW w.val x)).beginOcc (.watch e) w.val b).incWrap (Key.hndOcc e.val w.val) 63 32 1
        let h := s.hnd e.val
        let x := h.w w.val
        let ws := match (s.lv (.watch e)).occ.getLast? with | some o => o.words | none => ws
        let (n, x, s) := if wType ws = 3 ∧ bf (wWord ws 4) 63 60 = 1 then s.senseDraw ws x else (0, x, s)
        s.setHnd e.val (h.setW w.val { x with runs := x.runs ++ [⟨b, [], [], n, true, 0, 0, [], 0⟩] }))

/-! Energy -/

/-- Sum of |x|² over samples. -/
def energySum (x : List (List C16)) : Nat :=
  (x.map (fun l => (l.map (fun c => (reOf c.toNat * reOf c.toNat + imOf c.toNat * imOf c.toNat).toNat)).sum)).sum

/-- Whether 10^((5 k + d) / 200) ≤ num / den, for an integer k. -/
def levelLe (num den : Nat) (k d : Int) : Bool :=
  let x := 5 * k + d
  decide (10 ^ x.toNat * den ^ 200 ≤ num ^ 200 * 10 ^ (-x).toNat)

/-- floor(40 log10(num / den) + d / 5), searched from `top` down to -620. -/
def levelFloor (top num den : Nat) (d : Int) : Int :=
  match ((List.range (top + 621)).map (fun (i : Nat) => (top : Int) - (i : Int))).find? (fun k => levelLe num den k (-d)) with
  | some k => k
  | none => -620

/-- The level LE of an energy window (R232): within ±0.05 dB of the exact value before it is truncated; for no energy at all no
level is stated. -/
def State.levelOf (s : State) (num den : Nat) : Int × State :=
  if num = 0 then (let (a, s) := s.drawBelow (2 ^ 15); (-(a : Int), s))
  else
    let lo := levelFloor 20 num (den * 2 ^ 30) (-1)
    let hi := levelFloor 20 num (den * 2 ^ 30) 1
    let (a, s) := s.drawBelow 2
    (if a = 0 then lo else hi, s)

/-- The sample of a delay line's place; one that the source did not deliver reads 0. -/
def sampleOr0 (q : (Nat × Option C16) × Nat) : C16 := q.1.2.getD 0

/-- The next energy window of an occasion (R232): the samples of each stream and the time of the last of them, once all have come. -/
def Hound.window (h : Hound) (o : Occ) (r : HoundOcc) : Option (HoundOcc × List (List C16) × Nat) :=
  let n := wWin o.words
  let qs := (wSlots o.words).map (fun m => (m, ((h.line m).span (tget 0 r.upto m) o.time (o.time + wLength o.words)).take n))
  if qs = [] ∨ qs.any (fun q => q.2.length != n) then none
  else
    let upto := qs.foldl (fun t q => tput t q.1 (((q.2.getLast?).map (·.2 + 1)).getD 0)) r.upto
    some ({ r with upto := upto }, qs.map (fun q => q.2.map sampleOr0), (((qs.headD (0, [])).2.getLast?).map (·.1.1)).getD o.time)

/-- An energy window against the floor (R233 to R235): it seeds the floor, triggers, or moves it. -/
def State.energy (s : State) (e : Fin 8) (w : Nat) (o : Occ) (r : HoundOcc) (x : List (List C16)) (last : Nat) : State :=
  let ws := o.words
  let (le, s) := s.levelOf (energySum x) (wWin ws * wStreams ws)
  let h := s.hnd e.val
  let y := (h.w w).setRun r
  let put := fun (s : State) (y : Watch) => s.setHnd e.val (h.setW w y)
  if !y.seeded then
    let y := { y with seedN := y.seedN + 1, seedSum := y.seedSum + le, escN := 0, escSum := 0 }
    put s (if y.seedN = 16 then { y with seeded := true, lf := y.seedSum * 16, seedN := 0, seedSum := 0 } else y)
  else if y.lf + 256 * (bf (wWord ws 0) 47 40 : Nat) ≤ 256 * le then
    let at_ := o.time + (last - o.time) / wSym ws * wSym ws
    let y := y.setRun { r with trigs := r.trigs.filter (fun q => q.1 != at_) ++ [(at_, le)] }
    let y := if y.escN < s.entN Key.hndFloorEscape then
        { y with escN := y.escN + 1, escSum := y.escSum + le, escFrom := if y.escN = 0 then at_ else y.escFrom, escTo := at_ } else y
    (put s y).incSat (Key.hndDet e.val w) 63 32 1
  else
    let opened := (List.range 16).any (fun l => (h.l l).isOpen && (h.l l).watch == w)
    let lf := if opened then y.lf else y.lf + (256 * le - y.lf) / (2 ^ bf (wWord ws 0) 39 36 : Nat)
    put s (if y.escN < s.entN Key.hndFloorEscape then { y with lf := lf, escN := 0, escSum := 0 } else { y with lf := lf })

/-- HOUND_ENERGY_WINDOW (R232 to R235): the next window of the oldest occasion that has one. -/
def execHoundEnergyWindow (e : Fin 8) (w : Fin 16) (s : State) : Out :=
  let h := s.hnd e.val
  .next (match (s.occsOf e w.val).findSome? (fun o =>
      if wType o.words ≠ 3 ∧ s.houndRuns e.val (wType o.words) then (h.window o ((h.w w.val).run o.time)).map (fun q => (o, q)) else none) with
    | some (o, r, x, last) => s.energy e w.val o r x last
    | none => s)

/-- HOUND_FLOOR_ESCAPE (R235): the run of triggered windows is complete and the qualifier has run on every interval of it without a
peak; LF takes the mean LE of the windows. Which way the mean is rounded is open. -/
def execHoundFloorEscape (e : Fin 8) (w : Fin 16) (s : State) : Out :=
  let h := s.hnd e.val
  let y := h.w w.val
  let n := s.entN Key.hndFloorEscape
  .next (
    if n ≤ y.escN ∧ y.escN ≠ 0 ∧ y.runs.all (fun r => r.trigs.all (fun q => decide (q.1 < y.escFrom) || decide (y.escTo < q.1))) then
      let q := y.escSum * 256 / (y.escN : Int)
      let (a, s) := s.drawBelow 2
      let lf := if y.escSum * 256 % (y.escN : Int) = 0 then q else q + (a : Int)
      ((s.setHnd e.val (h.setW w.val { y with lf := lf, escN := 0, escSum := 0 })).setSticky (Key.hndFloor e.val w.val) 0).incSat
        (Key.hndFloor e.val w.val) 31 16 1
    else s)

/-! The qualifier -/

/-- A peak: reference, lag, metric. -/
structure Peak where
  r : Nat
  lag : Nat
  m : Nat
deriving DecidableEq, Repr

/-- |Σ x[n] conj(ref[(n - τ) mod L])|² of one stream. -/
def corr (x ref : List Nat) (len lag : Nat) : Nat :=
  let t := (List.range len).foldl (fun (a : Int × Int) n =>
    let c := x.getD n 0
    let q := ref.getD ((n + len - lag) % len) 0
    (a.1 + reOf c * reOf q + imOf c * imOf q, a.2 + imOf c * reOf q - reOf c * imOf q)) (0, 0)
  (t.1 * t.1 + t.2 * t.2).toNat

/-- c(r, τ) for every lag (R236). -/
def corrs (x : List (List C16)) (ref : List Nat) (len : Nat) : List Nat :=
  (List.range len).map (fun lag => (x.map (fun l => corr (l.map (·.toNat)) ref len lag)).sum)

/-- Peaks of a reference (R237): at least QUAL_THR over the mean, above both cyclic neighbours. M is at most 40 log10 SEQ_LEN, 145. -/
def peaksOf (r thr : Nat) (c : List Nat) : List Peak :=
  let len := c.length
  let total := c.sum
  (List.range len).filterMap (fun t =>
    let v := c.getD t 0
    let m := levelFloor 160 (v * len) total 0
    if 0 < total ∧ 0 < v ∧ c.getD ((t + 1) % len) 0 < v ∧ c.getD ((t + len - 1) % len) 0 < v ∧ (thr : Int) ≤ m then some ⟨r, t, m.toNat⟩
    else none)

/-- Strongest first, then the lower r, then the lower τ. -/
def insertPeak (p : Peak) : List Peak → List Peak
  | [] => [p]
  | q :: l => if q.m < p.m ∨ (q.m = p.m ∧ (p.r < q.r ∨ (p.r = q.r ∧ p.lag < q.lag))) then p :: q :: l else q :: insertPeak p l

/-- The arrivals of an interval (R237). -/
def State.arrivals (s : State) (e : Fin 8) (ws : List U64) (x : List (List C16)) : State × List Peak :=
  let len := wSeqLen ws
  let off := bf (wWord ws 4) 63 40
  let n := bf (wWord ws 4) 39 32 + 1
  let (s, refs) := (List.range n).foldl (fun (a : State × List (List Nat)) r =>
    let q := a.1.readMem (.pack e) (pmAddr e.val (off + r * len * 4)) (len * 4)
    (q.1, a.2 ++ [samplesOf q.2.1])) (s, [])
  let ps := (List.range n).flatMap (fun r => peaksOf r (bf (wWord ws 0) 35 28) (corrs x (refs.getD r []) len))
  (s, (ps.foldl (fun l p => insertPeak p l) []).take 8)

/-- Cyclic distance of two lags. -/
def lagDist (len a b : Nat) : Nat := min ((a + len - b) % len) ((b + len - a) % len)

/-! Burst lanes -/

/-- A template is submitted (R239, R241, R250), or waits for a credit (R103): none where its NOPS is too low; `tag` replaces its TAG. -/
def State.submitTemplate (s : State) (e : Fin 8) (w : Nat) (ws : List U64) (nops lane b : Nat) (tag : Option Nat) : State × Bool :=
  let q := s.readMem (.pack e) (pmAddr e.val (wTemplate ws)) 64
  let d := descOf (bytesWords 8 q.2.1)
  let d := match tag with | some t => { d with w1 := setf d.w1 31 0 t } | none => d
  if d.nops < nops then ((q.1.inc32 (Key.hndErrors e.val) 1).record 0x40 [w64 e.val, w64 w, 0x10, 0], false)
  else
    let i := Item.desc d (.lane e.val lane b w) (q.1.partOfProd (.hound e))
    let h := q.1.hnd e.val
    (if q.1.creditOf (.hound e) = 0 ∨ h.templates ≠ [] then q.1.setHnd e.val { h with templates := h.templates ++ [i] }
      else q.1.sendItem (.hound e) i, true)

/-- The samples of a symbol that a lane copies in one stream (R240): the last SYM_LEN of computed times a to b; those that have not come
read 0. -/
def Hound.symbolOf (h : Hound) (m n a b : Nat) : List ((Nat × Option C16) × Nat) :=
  let l := (h.line m).span 0 a b
  l.drop (l.length - n)

/-- A lane opens for an arrival in the interval from `at_` (R239): context record, template, start token. -/
def State.openLane (s : State) (e : Fin 8) (w l : Nat) (o : Occ) (le : Int) (at_ : Nat) (p : Peak) : State :=
  let ws := o.words
  let h := s.hnd e.val
  let y := h.w w
  let b := (h.bseq + 1) % 2 ^ 21
  let tag := e.val * 2 ^ 29 + w * 2 ^ 25 + l * 2 ^ 21 + h.bseq
  let st := y.lf + 256 * (p.m : Int)
  let stamp := match h.symbolOf ((wSlots ws).headD 0) (wSymLen ws) at_ (at_ + wSym ws) with | q :: _ => q.1.1 | [] => at_
  let ctx := leBytes 4 tag ++ leBytes 2 (wCarrier ws) ++ leBytes 1 w ++ leBytes 1 0xFF ++ leBytes 8 (wWord ws 1).toNat ++
    leBytes 8 (t128Sec stamp).toNat ++ leBytes 8 (t128Ns stamp).toNat ++ leBytes 2 (uns 16 le) ++ leBytes 2 (uns 16 (y.lf / 256)) ++
    leBytes 2 p.m ++ leBytes 2 (uns 16 (st / 256)) ++ leBytes 2 p.r ++ leBytes 2 p.lag ++ List.replicate 20 0
  let buf := s.laneBuf e.val l
  let x : Lane := ⟨true, w, p.r, p.lag, st, h.bseq, none, 0, 0, 0, h.order, false, ws, o.time + wLength ws, at_, false, 0⟩
  let s := s.setHnd e.val { h.setL l x with bseq := b, order := h.order + 1 }
  let (s, ok) := (s.writeMem (.pack e) buf ctx false).submitTemplate e w ws 2 l h.bseq (some tag)
  let h' := s.hnd e.val
  if ok then
    s.setHnd e.val { h' with tokens := h'.tokens ++ [⟨l, h.bseq, w, true, ⟨tokenTo 0 0 (houndUnit e.val) false, w64 buf⟩⟩] }
  else s.setHnd e.val (h'.setL l { x with isOpen := false })

/-- A new arrival takes a lane (R239, R243), captures one, or is dropped. -/
def State.takeLane (s : State) (e : Fin 8) (w : Nat) (o : Occ) (le : Int) (at_ : Nat) (p : Peak) : State :=
  let h := s.hnd e.val
  match (List.range 16).find? (fun l => !(h.l l).isOpen) with
  | some l => s.openLane e w l o le at_ p
  | none =>
    let low := (List.range 16).foldl (fun a l =>
      let x := h.l l
      let y := h.l a
      if x.st < y.st ∨ (x.st = y.st ∧ (y.order < x.order ∨ (y.order = x.order ∧ a < l))) then l else a) 0
    if (h.l low).st + 256 * (s.entN Key.hndCaptureMargin : Nat) ≤ (h.w w).lf + 256 * (p.m : Int) then
      ((s.endLane e.val low bePreempted).incSat (Key.hndLoss e.val (h.l low).watch) 47 32 1).openLane e w low o le at_ p
    else s.incSat (Key.hndLoss e.val w) 31 16 1

/-- One arrival of an interval (R238): one of an open lane's burst opens nothing; a new one counts and takes a lane. -/
def State.arrival (s : State) (e : Fin 8) (w : Nat) (o : Occ) (le : Int) (at_ : Nat) (p : Peak) : State :=
  let h := s.hnd e.val
  let known := (List.range 16).any (fun l => let x := h.l l
    x.isOpen && x.watch == w && x.ref == p.r && decide (lagDist (wSeqLen o.words) x.lag p.lag ≤ bf (wWord o.words 4) 15 0))
  if known then s
  else
    let s := s.incSat (Key.hndDet e.val w) 31 0 1
    if wType o.words = 4 then s else s.takeLane e w o le at_ p

/-- The first interval of an occasion in which a window triggered, with LE, once its samples have come (R236): a whole one. -/
def Hound.dueInterval (h : Hound) (o : Occ) (r : HoundOcc) : Option (Nat × Int) :=
  (leastBy (·.1) r.trigs).filter (fun q =>
    let end_ := q.1 + wSym o.words
    decide (end_ ≤ o.time + wLength o.words) && (wSlots o.words).all (fun m => decide (end_ ≤ (h.line m).till)))

/-- The qualifier runs on the interval from `at_` (R236 to R239, R243, R252). -/
def State.qualify (s : State) (e : Fin 8) (w : Nat) (o : Occ) (at_ : Nat) (le : Int) : State :=
  let h := s.hnd e.val
  let n := wSeqLen o.words
  let x := (wSlots o.words).map (fun m =>
    let l := (h.symbolOf m n at_ (at_ + wSym o.words)).map sampleOr0
    List.replicate (n - l.length) 0 ++ l)
  let (s, ps) := s.arrivals e o.words x
  let y := h.w w
  let r := y.run o.time
  let y := y.setRun { r with trigs := r.trigs.filter (fun q => q.1 != at_) }
  let y := if ps.isEmpty ∨ at_ < y.escFrom then y else { y with escN := 0, escSum := 0 }
  let s := ps.foldl (fun s p => s.arrival e w o le at_ p) (s.setHnd e.val (h.setW w y))
  if wType o.words = 4 ∧ !ps.isEmpty then s.houndWake e.val else s

/-- HOUND_QUALIFY (R236 to R239, R243, R252): an interval in which a window triggered has ended. -/
def execHoundQualify (e : Fin 8) (w : Fin 16) (s : State) : Out :=
  let h := s.hnd e.val
  .next (match (s.occsOf e w.val).findSome? (fun o =>
      if wType o.words ≠ 3 ∧ s.houndRuns e.val (wType o.words) then (h.dueInterval o ((h.w w.val).run o.time)).map (fun q => (o, q)) else none) with
    | some (o, at_, le) => s.qualify e w.val o at_ le
    | none => s)

/-- The samples of each stream of a lane's symbol k go to its buffer (R240). -/
def State.laneStore (s : State) (e : Fin 8) (lane : Nat) (xs : List (List C16)) : State :=
  let y := (s.hnd e.val).l lane
  xs.zipIdx.foldl (fun s j =>
    s.writeMem (.pack e) (s.laneBuf e.val lane + 64 + (j.2 * wBurst y.latched + y.syms) * wSymLen y.latched * 4)
      (j.1.flatMap (fun c => leBytes 4 c.toNat)) false) s

/-- A lane copies its next whole symbol (R240, R242): from the second on its energy is held against the fade level. Samples that the
source did not deliver read 0. `ended` says that the window has ended, so that nothing more is awaited. -/
def State.laneSymbol (s : State) (e : Fin 8) (lane : Nat) (ended : Bool) : State :=
  let h := s.hnd e.val
  let y := h.l lane
  let ws := y.latched
  let n := wSymLen ws
  let a := y.start + y.syms * wSym ws
  let b := a + wSym ws
  if y.isOpen ∧ !y.fadeDue ∧ y.syms < wBurst ws ∧ b ≤ y.winEnd ∧ (ended ∨ (wSlots ws).all (fun m => decide (b ≤ (h.line m).till))) then
    let qs := (wSlots ws).map (fun m => h.symbolOf m n a b)
    let gap := qs.any (fun q => q.length != n || q.any (·.1.2.isNone))
    let xs := qs.map (fun q => List.replicate (n - q.length) 0 ++ q.map sampleOr0)
    let s := s.laneStore e lane xs
    let (le, s) := if y.syms = 0 then ((0 : Int), s) else s.levelOf (energySum xs) (n * wStreams ws)
    let faded := decide (y.syms ≠ 0) && decide (256 * le < (h.w y.watch).lf + 256 * (s.entN Key.hndFadeMargin : Nat))
    let fades := if faded then y.fades + 1 else 0
    let y := { y with syms := y.syms + 1, samples := y.samples + n, gap := y.gap || gap, fades := fades
                      fadeDue := decide (s.entN Key.hndFadeSyms ≤ fades) && faded
                      perSym := if y.syms = 0 then ((h.line ((wSlots ws).headD 0)).span 0 a b).length else y.perSym }
    let h := s.hnd e.val
    let s := s.setHnd e.val (h.setL lane y)
    if y.syms = wBurst ws ∧ !y.fadeDue then s.endLane e.val lane (if y.gap then beGap else beComplete) else s
  else s

/-- HOUND_LANE_SYMBOL (R240, R242): a lane copies its next symbol once all of it has come. -/
def execHoundLaneSymbol (e : Fin 8) (lane : Fin 16) (s : State) : Out := .next (s.laneSymbol e lane.val false)

/-- The samples of a symbol that the window end cuts (R240): those after the prefix, which is what arrived in the first symbol beyond
SYM_LEN. -/
def State.laneCut (s : State) (e : Fin 8) (lane : Nat) : State :=
  let h := s.hnd e.val
  let y := h.l lane
  let ws := y.latched
  let a := y.start + y.syms * wSym ws
  if y.isOpen ∧ y.syms < wBurst ws ∧ a < y.winEnd then
    let xs := (wSlots ws).map (fun m =>
      ((((h.line m).span 0 a y.winEnd).drop (y.perSym - wSymLen ws)).take (wSymLen ws)))
    let s := s.laneStore e lane (xs.map (fun l => l.map sampleOr0))
    let h := s.hnd e.val
    s.setHnd e.val (h.setL lane { y with samples := y.samples + (xs.map List.length).foldl max 0
                                         gap := y.gap || xs.any (fun l => l.any (·.1.2.isNone)) })
  else s

/-- A lane ends FADED, and its watch counts it (R242). -/
def State.fadeLane (s : State) (e : Fin 8) (lane : Nat) : State :=
  let y := (s.hnd e.val).l lane
  if y.isOpen ∧ y.fadeDue then
    ((s.endLane e.val lane beFaded).incSat (Key.hndLoss e.val y.watch) 15 0 1).incSat (Key.hndLoss e.val y.watch) 63 48 1
  else s

/-- HOUND_LANE_FADE (R242): the lane ends FADED. -/
def execHoundLaneFade (e : Fin 8) (lane : Fin 16) (s : State) : Out := .next (s.fadeLane e lane.val)

/-- A lane meets the end of its window (R240): it copies what is left of its burst and ends. -/
def State.laneWindowEnd (s : State) (e : Fin 8) (lane : Nat) : State :=
  let s := (List.range 32).foldl (fun s _ => s.laneSymbol e lane true) s
  let s := (s.fadeLane e lane).laneCut e lane
  s.endLane e.val lane (if ((s.hnd e.val).l lane).gap then beGap else beComplete)

/-- HOUND_OCCASION_END (R228, R240): a window has ended, and with it the lanes of its watch that have not ended. -/
def execHoundOccasionEnd (e : Fin 8) (w : Fin 16) (s : State) : Out :=
  .next (match (s.occsOf e w.val).find? (fun o => wType o.words != 3 && decide (o.time + wLength o.words ≤ s.now)) with
    | some o =>
      let s := (List.range 16).foldl (fun s l =>
        let x := (s.hnd e.val).l l
        if x.isOpen ∧ x.watch = w.val ∧ x.winEnd = o.time + wLength o.words then s.laneWindowEnd e l else s) s
      let h := s.hnd e.val
      (s.setHnd e.val (h.setW w.val ((h.w w.val).endRun o.time))).endOcc (.watch e) (· == o)
    | none => s)

/-- HOUND_TOKEN_SEND (R103, R239 to R241): while a credit is held, a waiting template goes to Kennel, else a token, in lane order. -/
def execHoundTokenSend (e : Fin 8) (s : State) : Out :=
  let h := s.hnd e.val
  .next (
    if s.creditOf (.hound e) = 0 then s
    else match h.templates with
    | i :: r => (s.setHnd e.val { h with templates := r }).sendItem (.hound e) i
    | [] => match (List.range 17).findSome? (fun l => (h.tokens.find? (fun t => t.lane == l)).filter (fun t => !t.waiting)) with
      | some t =>
        (s.setHnd e.val { h with tokens := h.tokens.erase t }).sendItem (.hound e) (.token t.tok (s.partOfProd (.hound e)) .none)
      | none => s)

/-! Verdicts -/

/-- A watch's contention window changes (R251). -/
def State.setCw (s : State) (e w cw : Nat) : State :=
  let h := s.hnd e
  let y := h.w w
  s.setHnd e (h.setW w { y with cw := cw, maxDraws := if cw = y.cw then y.maxDraws else 0 })

/-- A write of HND_En_VERDICT (R244, R251). -/
def State.verdictWrite (s : State) (e : Fin 8) (v : U64) : State :=
  let op := bf v 63 62
  let w := bf v 3 0
  let ws := s.rowOf (.watch e) 0 w
  let p := bf (wWord ws 4) 59 58
  if op = 0 then s.status .range
  else if op = 1 then
    if bf v 31 29 = e.val then (s.incSat (Key.hndLoss e.val (bf v 28 25)) 63 48 1).status .ok else s.status .range
  else if wType ws ≠ 3 then s.status .range
  else if op = 2 then
    let cw := ((s.hnd e.val).w w).cwOf p
    (s.setCw e.val w (((cwAllowed p).find? (fun c => decide (cw < c))).getD (cwMax p))).status .ok
  else (s.setCw e.val w (cwMin p)).status .ok

def State.verdictBy (s : State) (rq : Requester) (e : Fin 8) (v : U64) : State :=
  match s.checkWrite rq (Key.hndVerdict e.val) v with
  | .ok => s.verdictWrite e v
  | st => s.status st

/-- VERDICT_CRC_FAIL (R244). -/
def execVerdictCrcFail (rq : Requester) (e : Fin 8) (tag : BitVec 32) (s : State) : Out :=
  .next (s.verdictBy rq e (w64 (2 ^ 62 + tag.toNat)))
/-- VERDICT_CW_INCREASE (R251). -/
def execVerdictCwIncrease (rq : Requester) (e : Fin 8) (w : Fin 16) (s : State) : Out :=
  .next (s.verdictBy rq e (w64 (2 ^ 63 + w.val)))
/-- VERDICT_CW_RESET (R251). -/
def execVerdictCwReset (rq : Requester) (e : Fin 8) (w : Fin 16) (s : State) : Out :=
  .next (s.verdictBy rq e (w64 (3 * 2 ^ 62 + w.val)))

/-! Sensing -/

/-- One microsecond. -/
def usT : Nat := nsT 1000
/-- Whether the mean power of n samples whose squares sum to p is below ED_THR (R247), as a share of full scale, 2^30. -/
def belowThr (thr p n : Nat) : Bool := n != 0 && decide (p ^ 20 * 10 ^ thr < (n * 2 ^ 30) ^ 20)

/-- Whether the 4 µs window from u µs after the begin of an occasion lies below ED_THR, by bound stream (R247). -/
def Hound.below (h : Hound) (o : Occ) (u : Nat) : List Bool :=
  (wSlots o.words).map (fun m =>
    let l := ((h.line m).span 0 (o.time + u * usT) (o.time + (u + 4) * usT)).map sampleOr0
    belowThr (bf (wWord o.words 4) 55 48) (energySum [l]) l.length)

/-- The windows of an occasion are measured at every µs up to `upto`, excluded (R247); the last 128 are kept. -/
def Hound.measure (h : Hound) (o : Occ) (r : HoundOcc) (upto : Nat) : HoundOcc :=
  let new := (List.range (upto - r.measN)).map (fun i => h.below o (r.measN + i))
  { r with meas := (new.reverse ++ r.meas).take 128, measN := max r.measN upto }

/-- Whether the sensing slot from `a` ns after the begin is idle: in every stream a 4 µs window that lies in it is below ED_THR. -/
def HoundOcc.idle (r : HoundOcc) (streams a : Nat) : Bool :=
  let us := (List.range 6).map (fun i => (a + 999) / 1000 + i) |>.filter (fun u => decide (u * 1000 + 4000 ≤ a + 9000) && decide (u < r.measN))
  (List.range streams).all (fun m => us.any (fun u => (r.meas.getD (r.measN - 1 - u) []).getD m false))

/-- A slot in the Type 1 procedure (R248); `mp` slots follow the 16 µs of a defer duration, whose first slot is at its start. A busy
slot is followed by a new defer duration. -/
def HoundOcc.senseSlot (r : HoundOcc) (mp : Nat) (idle : Bool) : HoundOcc :=
  let next := fun (r : HoundOcc) (us : Nat) => { r with slot := r.slot + us }
  if r.inDefer then
    if !idle then next { r with deferSlots := 0 } 9
    else if r.deferSlots = 0 then next { r with deferSlots := 1 } 16
    else if r.deferSlots < mp then next { r with deferSlots := r.deferSlots + 1 } 9
    else next { r with inDefer := false, deferSlots := 0 } 9
  else if r.n = 0 then next r 9
  else if idle then next { r with n := r.n - 1 } 9
  else next { r with inDefer := true, deferSlots := 0 } 9

/-- The next sensing slot of an occasion, once its samples have come: measured, and followed by the procedure's step. -/
def Hound.sense (h : Hound) (o : Occ) (r : HoundOcc) : Option HoundOcc :=
  let end_ := o.time + (r.slot + 9) * usT
  if wType o.words = 3 ∧ end_ ≤ o.time + wLength o.words ∧ (wSlots o.words).all (fun m => decide (end_ ≤ (h.line m).till)) then
    let r := h.measure o r (r.slot + 6)
    some (r.senseSlot (senseMp (bf (wWord o.words 4) 59 58)) (r.idle (wStreams o.words) (r.slot * 1000)))
  else none

/-- SENSE_SLOT (R247, R248): the next sensing slot of the oldest occasion that has one. -/
def execSenseSlot (e : Fin 8) (w : Fin 16) (s : State) : Out :=
  let h := s.hnd e.val
  .next (match (s.occsOf e w.val).findSome? (fun o => if s.houndRuns e.val 3 then h.sense o ((h.w w.val).run o.time) else none) with
    | some r => s.setHnd e.val (h.setW w.val ((h.w w.val).setRun r))
    | none => s)

/-- The result at the window end (R248, R249): the slots that lie immediately before it. -/
def senseClear (ws : List U64) (r : HoundOcc) : Bool :=
  let len := bf (wWord ws 2) 31 0
  let idle := fun (before : Nat) => r.idle (wStreams ws) (len - before)
  let mp := senseMp (bf (wWord ws 4) 59 58)
  match bf (wWord ws 4) 63 60 with
  | 1 => decide (r.n = 0) && !r.inDefer && idle (16000 + 9000 * mp) && (List.range mp).all (fun i => idle (9000 * (i + 1)))
  | 2 => idle 25000 && idle 9000
  | 3 => idle 16000
  | _ => true

/-- SENSE_RESULT (R249, R250): CLEAR opens the carrier's gate for COT; the template and its token go out. -/
def execSenseResult (e : Fin 8) (w : Fin 16) (s : State) : Out :=
  .next (match (s.occsOf e w.val).find? (fun o => wType o.words == 3 && decide (o.time + wLength o.words ≤ s.now)) with
    | some o =>
      let ws := o.words
      let end_ := o.time + wLength ws
      let h := s.hnd e.val
      let r := (h.w w.val).run o.time
      let clear := senseClear ws (h.measure o r ((bf (wWord ws 2) 31 0 - 3000) / 1000))
      let s := (s.setHnd e.val (h.setW w.val ((h.w w.val).endRun o.time))).endOcc (.watch e) (· == o)
      let s := if clear then (s.openGate (wCarrier ws) end_ (end_ + nsT (bf (wWord ws 5) 63 32))).incWrap (Key.hndLbt e.val w.val) 63 48 1
        else s.incSat (Key.hndLbt e.val w.val) 47 32 1
      let h := s.hnd e.val
      let b := 2 ^ 21 + h.order * 16 + w.val
      let s := s.setHnd e.val { h with order := h.order + 1 }
      let (s, ok) := s.submitTemplate e w.val ws 1 16 b none
      if ok then
        let h := s.hnd e.val
        s.setHnd e.val { h with tokens := h.tokens ++
          [⟨16, b, w.val, true, ⟨tokenTo 0 0 (houndUnit e.val) (!clear), w64 (b01 (!clear) * 2 ^ 56 + (end_ % secU) / 2 ^ 32)⟩⟩] }
      else s
    | none => s)

end Sys2Proof.Machine
end

