-- ==== Sys2Proof/Machine/Reset.lean ====
section
/-! DEFINITION. Reset.lean: the commands of reset, boot, self-test and HOLD (R47, R49, R334, R421, R444 to R461). -/
namespace Sys2Proof.Machine

/-- PLL_LOCK (R47, R49, R452): CLKREF present, the root PLL locks; the clocks run and FREERUN clears; a device that waits for it
boots. Without CLKREF while free-running it cannot lock. -/
def execPllLock (s : State) : Out :=
  if (s.flag Key.clkStatus clkFreerun && !(s.flag Key.clkStatus clkRefOk)) || s.thermTrip then .next s
  else
    let s := { ((s.setFlag Key.clkStatus clkRefOk true).setFlag Key.clkStatus clkLock true).setFlag Key.clkStatus clkFreerun false with
               clocksStopped := false }
    .next (if s.pwrgood ∧ s.resetN ∧ s.phase = phReset ∧ s.resetJob.isSome then s.bootFromRom else s)

/-- CLK_LOSS_HOLD_EXPIRY (R49): CLKREF stays absent for longer than CLK_LOSS_HOLD; the device enters HOLD. -/
def execClkLossHoldExpiry (s : State) : Out :=
  .next (if s.flag Key.clkStatus clkFreerun ∧ !(s.flag Key.clkStatus clkRefOk) ∧ s.dev ≠ .hold ∧ phPost ≤ s.phase ∧
      s.entN Key.clkLossHold * 12288 < 25 * (s.raw.toNat - s.refLostRaw) then
    s.enterHold hcClkref else s)

/-- Units whose UNIT reset is refused (R421). -/
def noUnitReset : List Nat := [1012, 1013, 1014, 1020]

/-- OP UNIT_RESET of an accepted write (R421, R448). -/
def State.odReset (s : State) (u : Nat) : State :=
  if noUnitReset.contains u then s.status .range
  else match s.unitReset u 0 with
    | (s, true) => s.status .busy
    | (s, false) => s.status .ok

/-- OD_UNIT_RESET (R421, R446). -/
def execOdUnitReset (rq : Requester) (u : Fin 1024) (s : State) : Out :=
  .next (match (if unitKind u.val = 0 then .noObject else s.checkWrite rq (Key.odCtl u.val) 1) with
    | .ok => s.odReset u.val
    | e => s.status e)

/-- A write of `RST_PTp_CTL` that has passed its right (R446, R448). -/
def State.ptCtl (s : State) (p op : Nat) : State :=
  if op = 1 ∨ op = 2 then
    match s.partReset p 0 (op == 2) with
    | (s, true) => s.status .busy
    | (s, false) => s.status .ok
  else if op = 3 then
    if s.partState p = psHeld ∧ s.resettable ∧ s.resetJob.isNone then
      let s := (s.setEntN (Key.rstPtStat p) psReset).queueLoads [p]
      (s.releaseUnits (s.partUnits p)).status .ok
    else s.status .busy
  else s.status .range

def State.ptCtlBy (s : State) (rq : Requester) (p op : Nat) : State :=
  match s.checkWrite rq (Key.rstPtCtl p) (w64 op) with
  | .ok => s.ptCtl p op
  | e => s.status e

/-- PART_RESET (R446, R520). -/
def execPartReset (rq : Requester) (p : Fin 8) (s : State) : Out := .next (s.ptCtlBy rq p.val 1)
/-- PART_HOLD (R446). -/
def execPartHold (rq : Requester) (p : Fin 8) (s : State) : Out := .next (s.ptCtlBy rq p.val 2)
/-- PART_RELEASE (R446, R520). -/
def execPartRelease (rq : Requester) (p : Fin 8) (s : State) : Out := .next (s.ptCtlBy rq p.val 3)

/-- RESET_RELEASE (R446): a UNIT or PART reset reaches step 5, the purges it waits for being done; its units are released, its
partitions load firmware or stay held. -/
def execResetRelease (s : State) : Out :=
  match s.resetJob with
  | some j =>
    if j.kind.rank ≤ 1 ∧ j.purges.isEmpty then
      let s := j.parts.foldl (fun s q => if q.2 then s.setEntN (Key.rstPtStat q.1) psHeld else s.queueLoads [q.1]) s
      .next ((s.noteReset j).releaseUnits j.scope)
    else .next s
  | none => .next s

/-- FL_PARTITION_PURGE (R334): the purge that a PART reset of p waits for is done. -/
def execFlPartitionPurge (p : Fin 8) (s : State) : Out :=
  match s.resetJob with
  | some j =>
    if j.purges.contains p.val then
      .next { s.purgePart p.val with resetJob := some { j with purges := j.purges.filter (· != p.val) } }
    else .next s
  | none => .next s

/-- A write of `RST_DEVICE_CTL` that has passed its right. -/
def State.deviceCtl (s : State) (op : Nat) : State :=
  if op = 1 then
    match s.resetJob with
    | some j => if 2 ≤ j.kind.rank then { s with resetJob := some { j with named := j.named ++ [resetWord .warm 0 1020 1] } }.status .busy
      else (s.warmReset 0).status .ok
    | none => (s.warmReset 0).status .ok
  else if op = 2 then
    if s.phase < phPost then s.status .busy else (if s.dev = .hold then s else s.enterHold hcCommand).status .ok
  else s.status .range

def State.deviceCtlBy (s : State) (rq : Requester) (op : Nat) : State :=
  match s.checkWrite rq Key.rstDeviceCtl (w64 op) with
  | .ok => s.deviceCtl op
  | e => s.status e

/-- WARM_RESET (R458). -/
def execWarmReset (rq : Requester) (s : State) : Out := .next (s.deviceCtlBy rq 1)
/-- HOLD_COMMAND (R460). -/
def execHoldCommand (rq : Requester) (s : State) : Out := .next (s.deviceCtlBy rq 2)

/-- PIN_RESET (R459): RESET_N has been low for at least 1 µs. -/
def execPinReset (s : State) : Out :=
  .next (
    if !s.resetN then s
    else if !s.pwrgood then { s with resetN := false }
    else { (s.deviceReset .pin 2 false).setPhase phReset with resetN := false })

/-- RESET_N_RELEASE (R459, R528): BOOTSEL is sampled, and the boot runs from the ROM row. -/
def execResetNRelease (bootsel : BitVec 3) (s : State) : Out :=
  .next (
    if s.resetN then s
    else
      let s := { s with resetN := true, bootsel := bootsel, bootRaw := s.raw.toNat }
      if s.pwrgood ∧ !s.clocksStopped ∧ !s.thermTrip ∧ s.phase = phReset then s.bootFromRom else s)

/-- A POR of the always-on domain (R444, R447, R579): the raw counter starts at zero, the clocks stand until the PLL locks,
staging is lost, and a record that was being written is torn. Whether one was is open. -/
def State.porAon (s : State) (source : Nat) : State :=
  let (w, s) := s.drawBelow 2
  let ring := match s.staged with
    | r :: _ => if w = 1 then s.ring ++ [⟨r.seq, s.ringBlock, s.ringOff, recSize r.payload.length, true⟩] else s.ring
    | [] => s.ring
  let torn := decide (ring.length ≠ s.ring.length)
  let s := { (s.deviceReset .por source true).setPhase phReset with
    raw := 0, bootRaw := 0, tbWrites := [], aonPor := true, clocksStopped := true, staged := [], lostRun := 0, lostFirst := 0, ring := ring
    ringBlock := if torn then (s.ringBlock + 1) % 4096 else s.ringBlock
    ringOff := if torn then 0 else s.ringOff
    heartbeat := false, warn := false, railLow := [], dips := [], mramWaits := [], thermTrip := false
    poison := tdrop s.poison (fun w => keepsInner (8 * w) || !(keepsMem (8 * w)))
    fresh := tdrop s.fresh (fun a => keepsInner a || !(keepsMem a)) }
  if torn then s.incSat Key.evrCnt 31 16 1 else s

/-- POR (R444, R488): PWRGOOD low or VDD_AON at RESET resets the whole device; any other rail resets the other domains as PIN does,
with the dip's record, and the boot goes on from ROM. -/
def execPor (k : PorCause) (s : State) : Out :=
  match k with
  | .pwrgood => .next (if s.pwrgood then { s.porAon 3 with pwrgood := false, faultN := true } else s)
  | .rail r minMv us =>
    .next (
      if !s.pwrgood then s
      else if r = 3 then s.porAon 4
      else
        let s := (s.deviceReset .por 4 false).setPhase phReset
        let v := s.ent (Key.pwrRail r.val)
        let s := s.setEntN (Key.pwrRail r.val) (minMv % 2 ^ 15 * 2 ^ 48 + min 65535 (bf v 47 32 + 1) * 2 ^ 32 + min us (2 ^ 32 - 1))
        let s : State := { s.record 0x72 [w64 r.val, w64 minMv, w64 us] with warn := false, railLow := [], dips := [], mramWaits := [], thermTrip := false, bootRaw := s.raw.toNat }
        if s.resetN ∧ !s.clocksStopped then s.bootFromRom else s)

/-- PWRGOOD_RISE (R452, R528). -/
def execPwrgoodRise (bootsel : BitVec 3) (s : State) : Out :=
  .next (if s.pwrgood then s
    else { s with pwrgood := true, bootsel := bootsel, bootRaw := s.raw.toNat, faultN := false, heartbeat := false })

/-! Self-test (R454 to R456) -/

/-- The units that a self-test fences (table Power-on self-test), with what lies in them. -/
def selfFences (r : SelfTest) : List Nat :=
  let packs := (List.finRange 8).filter (fun p => r.lbistFail.contains p || r.pmFail.contains p || r.knFail.contains p)
  let roots := packs.map (fun p => packUnit p.val) ++ r.tiles.map (·.val) ++ r.clusters.map (512 + ·.val) ++
    r.accels.map (fun a => accUnit a.1.val a.2.val) ++ r.cores.map (fun c => coreUnit c.val) ++ r.hbm.map (1016 + ·.val)
  allUnits.filter (fun u => roots.any (fun x => unitUnder x u))

/-- A bitmap of n flags. -/
def flags (n : Nat) (p : Nat → Bool) : Nat := ((List.range n).map (fun i => b01 (p i) * 2 ^ i)).sum

/-- SELF_TEST_DONE (R455, R456): fencing, the RST_POST_ objects, ID_CAPACITY and MEM_HBM_STAT, one record, then LOAD or HOLD. -/
def execSelfTestDone (r : SelfTest) (s : State) : Out :=
  if s.phase ≠ phPost then .next s
  else
    let fs := selfFences r
    let fenced := fun u => fs.contains u
    let s := s.zeroAll
    let s := allUnits.foldl (fun s u => s.setUn u { s.un u with fenced := fenced u }) s
    let s := (List.finRange 8).foldl (fun s p =>
      let q := p.val
      (s.setEntN (Key.rstPost q) (b01 (r.lbistFail.contains p) * 2 ^ 63 + b01 (r.pmFail.contains p) * 2 ^ 62 +
        b01 (r.knFail.contains p) * 2 ^ 61 + b01 (fenced (packUnit q)) * 2 ^ 60 + flags 18 (fun k => fenced (accUnit q k)) * 2 ^ 40 +
        flags 8 (fun c => fenced (512 + 8 * q + c)) * 2 ^ 32)).setEntN (Key.rstPostTiles q) (flags 64 (fun t => fenced (64 * q + t)))) s
    let s := s.setEntN Key.rstPostCc (b01 r.l3Fail * 2 ^ 63 + b01 r.spineFail * 2 ^ 62 + b01 r.rootFail * 2 ^ 61 +
      b01 r.timebaseFail * 2 ^ 60 + flags 16 (fun c => fenced (coreUnit c)))
    let lane := fun l => r.lanes.any (fun x => x.val == l)
    let s := (s.setEntN (Key.rstPostLanes 0) (flags 64 lane)).setEntN (Key.rstPostLanes 1) (flags 64 (fun l => lane (64 + l)))
    let packs := 8 - (List.range 8).countP (fun p => fenced (packUnit p))
    let hbmOk := 4 - (List.range 4).countP (fun n => fenced (1016 + n))
    let tiles := 512 - (List.range 512).countP fenced
    let lanes := 128 - (List.range 128).countP lane
    let cores := 16 - (List.range 16).countP (fun c => fenced (coreUnit c))
    let s := s.setEntN Key.idCapacity (packs * 2 ^ 56 + hbmOk * 2 ^ 48 + tiles * 2 ^ 32 + lanes)
    let s := (List.range 4).foldl (fun s n => s.setEntN (Key.memHbmStat n)
      (b01 (!(fenced (1016 + n))) * 2 ^ 63 + flags 32 (fun i => r.channels.any (fun c => c.val == 32 * n + i)))) s
    let s := s.bootTime 47 32
    let s := s.record 4 ((List.range 8).flatMap (fun p => [s.ent (Key.rstPost p), s.ent (Key.rstPostTiles p)]) ++
      [s.ent Key.rstPostCc, s.ent (Key.rstPostLanes 0), s.ent (Key.rstPostLanes 1), s.ent Key.idCapacity] ++
      (List.range 4).map (fun n => s.ent (Key.memHbmStat n)))
    let pol := s.ent Key.rstBootPolicy
    .next (
      if r.rootFail ∨ r.l3Fail ∨ r.spineFail ∨ cores < 2 ∨ hbmOk = 0 ∨ r.timebaseFail then s.enterHold hcCommon
      else if (bit pol 63 ∧ (packs < 8 ∨ hbmOk < 4 ∨ cores < 16)) ∨ packs < bf pol 59 56 ∨ hbmOk < bf pol 55 53 ∨ cores < bf pol 52 48 ∨
          lanes < bf pol 15 0 then s.enterHold hcPolicy
      else s.enterLoad)

/-- FW_LOAD_DONE (R522 to R524): the partition at the head of the queue has been loaded, or neither slot could be. -/
def execFwLoadDone (p : Fin 8) (flash : FlashHealth) (s : State) : Out :=
  if s.loadQueue.head? = some p.val ∧ s.partState p.val = psLoading then
    let s := { s.fwLoad p.val flash with loadQueue := s.loadQueue.drop 1 }.loadNext
    .next (if s.phase = phLoad ∧ s.loadQueue.isEmpty then s.enterStart else s.checkReady)
  else .next s

/-- A write of READY in `RST_PTp_STAT` (R453): by the partition itself, while its firmware runs. -/
def State.readyWrite (s : State) (rq : Requester) (p : Nat) (v : U64) : State :=
  if !(s.actsFor rq p) then s.status .access
  else if s.partState p ≠ psRunning then s.status .busy
  else ((s.setFlag (Key.rstPtStat p) 63 (bit v 63)).checkReady).status .ok

/-- PARTITION_READY (R453). -/
def execPartitionReady (rq : Requester) (p : Fin 8) (s : State) : Out :=
  let v := w64 (2 ^ 63)
  .next (match s.checkWrite rq (Key.rstPtStat p.val) v with
    | .ok => s.readyWrite rq p.val v
    | e => s.status e)

end Sys2Proof.Machine
end

