-- ==== Sys2Proof/Machine/TerCore.lean ====
section
/-!
DEFINITION. TerCore.lean: Terrier's order of segments (table Terrier segments, R506) and what a failure leaves (R509). Key 8 of
the segment tables is the device scrubber's, keys 0 to 7 the packs'.
-/
namespace Sys2Proof.Machine

def skTile : Nat := 0
def skMem : Nat := 1
def skAccel : Nat := 2

/-- A segment's kind, the unit it tests, the memory class and the address of its block. -/
structure SegPlace where
  kind : Nat
  unit : Nat
  cls : Nat
  addr : Nat
deriving DecidableEq, Repr

/-- Segments of a pack's pass: 64 TILE, 14,848 MEM, 17 ACCEL. -/
def packSegs : Nat := 14929
/-- Segments of order g. -/
def segCount (g : Nat) : Nat := if g < 8 then packSegs else Config.shadowBlocks + 16

/-- The segment at a position of order g: of a pack, or of the device's shadow and staging. -/
def segAt (g i : Nat) : SegPlace :=
  let j := i - 64
  let blk := fun (c base u : Nat) => (⟨skMem, u, c, packBase g + base⟩ : SegPlace)
  if 8 ≤ g then (if i < 16 then ⟨skMem, 1013, 10, i * 4096⟩ else ⟨skMem, 1013, 8, (i - 16) * 4096⟩)
  else if i < 64 then ⟨skTile, g * 64 + i, 0, 0⟩
  else if j < 1024 then blk 0 (0x3000000 + j * 4096) (g * 64 + j / 16)
  else if j < 5120 then blk 1 (0x2000000 + (j - 1024) * 4096) (g * 64 + (j - 1024) / 64)
  else if j < 9216 then blk 2 (0x1000000 + (j - 5120) * 4096) (512 + g * 8 + (j - 5120) / 512)
  else if j < 13312 then blk 3 ((j - 9216) * 4096) (packUnit g)
  else if j < 14848 then ⟨skMem, accUnit g 20, 5, (j - 13312) * 4096⟩
  else ⟨skAccel, accUnit g (j - 14848), 0, 0⟩

/-- Positions of every segment of a unit in order g. -/
def segsOf (g u : Nat) : List Nat := (List.range (segCount g)).filter (fun i => (segAt g i).unit == u)

/-- The order in which a unit's segments lie. -/
def segOrder (u : Nat) : Nat := (unitPack u).getD 8

/-- TER_Un_RUN (R506): every segment of the unit goes to the head of its pack's order. -/
def State.terRunUnit (s : State) (u : Nat) : State :=
  let g := segOrder u
  { s with segHead := tput s.segHead g (segsOf g u ++ tget [] s.segHead g) }

/-- A failure of a Terrier segment is noted (R509): the unit's counts, its last failure, the record; and what the ladder bit asks. -/
def State.terFail (s : State) (u : Nat) (w : U64) (sig : U64) (quar : Bool) : State :=
  let s := (s.incSat (Key.terUStat u) 31 16 1).setEnt (Key.terLast u) w
  let s := match unitPack u with | some p => s.incSat (Key.terPStat p) 15 0 1 | none => s
  let s := s.record 0x90 [w64 u, w, sig]
  if quar ∧ s.mayQuarantine u then s.quarantine u 4 true else s

/-- A failure of a unit under retest, of which RETEST_DONE says what it comes to (R504): TER_Un_LAST and the signature found. -/
def State.retestFailed (s : State) (u : Nat) (w sig : U64) : State := s.setUn u { s.un u with retestFail := some (w, sig) }

/-- A segment of order g ends: passed, or failed with `w`. -/
def State.segEnd (s : State) (g u : Nat) (fail : Option U64) (sig : U64) (quar : Bool) : State :=
  let s := { s with segment := tdel s.segment g }
  match fail with
    | some w => if (s.un u).retest then s.retestFailed u w sig else s.terFail u w sig quar
    | none => s.incWrap (Key.terUStat u) 63 32 1

/-- Whether no segment of a unit waits at the head of its order or is under way (R504). -/
def State.segsDone (s : State) (u : Nat) : Bool :=
  let g := segOrder u
  !((tget [] s.segHead g).any (fun i => (segAt g i).unit == u)) &&
    (match tfind s.segment g with
      | some x => (if x.kind = skMem then (segAt g x.unit).unit else x.unit) != u
      | none => true)

/-- A release that is accepted (R504). -/
def State.releaseQuar (s : State) (u : Nat) : State :=
  if s.flag Key.terCfg 63 ∧ hasSegments u then
    let s := { s.setUn u { s.un u with retest := true, retestFail := none } with retests := s.retests ++ [u] }.terRunUnit u
    (List.range 24).foldl (fun s r => if s.present r then s.unmaskReq r else s) s
  else s.returnUnit u 2

end Sys2Proof.Machine
end

