-- ==== Sys2Proof/Machine/Sheepdog.lean ====
section
/-! DEFINITION. Sheepdog.lean: expiries (R492 to R502), pets and the device check (R494, R495), and return to service (R503 to R505). -/
namespace Sys2Proof.Machine

/-! L0 -/

/-- The unit charged with an expiry at a device address (R492). -/
def State.l0Unit (s : State) (a : Nat) : Nat :=
  match regionOf a with
  | .mram | .window | .port _ | .reserved => 1020
  | .remote k => match s.linkTo k with | some g => 1008 + g | none => 1020
  | _ => memUnit s a

/-- An expiry charged to a unit. -/
def State.chargeUnit (s : State) (l u action info : Nat) : State :=
  if h : u < 1024 then s.charge l (.unit ⟨u, h⟩) action info else s

/-- Whether the L0 limit of a DMA channel's transfer has passed (R492): FCLK makes two cycles a tick of TCLK, and a remote window has four
times the limit. -/
def State.l0Expired (s : State) (x : Xfer) : Bool :=
  decide ((if isWindow x.addr then 4 else 1) * s.entN Key.shdL0Limit ≤ 2 * (s.raw.toNat - x.since))

/-- SHD_L0_EXPIRY (R492, R497): the requester receives its error, or its read is reissued once; the target is charged. -/
def execShdL0Expiry (x : L0Item) (s : State) : Out :=
  let at_ := fun (s : State) (a action : Nat) => s.chargeUnit 0 (s.l0Unit a) action a
  .next (match x with
    | .dmaRead n =>
      match (s.ch n.val).reads.find? s.l0Expired with
      | some r => if r.again then at_ (s.dmaReadDone n r .timeout []) r.addr saAbort else at_ (s.dmaReissue n r) r.addr saRetry
      | none => s
    | .dmaWrite n =>
      match (s.ch n.val).writes.find? s.l0Expired with
      | some w => at_ (s.dmaWriteDone n w .timeout) w.addr saAbort
      | none => s
    | .core c a => if s.coreRuns c.val then at_ (s.answer .fault) a.toNat saAbort else s
    | .tileLoad t a =>
      match tileDev t.val a.toNat 1 with
      | some d => if (s.tl t.val).st = .running then at_ (s.setTl t.val ((s.tl t.val).notePoison (some a.toNat))) d saAbort else s
      | none => s
    | .tileStore t a =>
      match tileDev t.val a.toNat 1 with
      | some d => if (s.tl t.val).st = .running then at_ s d saAbort else s
      | none => s
    | .accel p k a write =>
      if (s.taskOn (accUnit p.val k.val)).isSome then at_ (s.failJob p k (if write then jsWrite else jsRead)) a.toNat saAbort else s
    | .anchor u =>
      if u.val < 512 ∧ (s.tl u.val).st = .running ∧ s.poisoned (imAddr u.val (s.tl u.val).pc.toNat) then
        s.reportAnchor 0 u.val (imAddr u.val ((s.tl u.val).pc.toNat / 8 * 8))
      else s)

/-! L1 -/

/-- The tile's ABORT becomes pending (R158). -/
def State.setAbort (s : State) (t : Nat) : State := s.setTl t { s.tl t with ipend := (s.tl t).ipend ||| 1 }
/-- A unit is to take an ABORT from now on (R501). -/
def State.abortFrom (s : State) (u : Nat) : State := s.setUn u { s.un u with abortRaw := some s.raw.toNat }

/-- Whether the L1 limit of an entry's task has passed (R97): a unit of L1_LIMIT is 1,024 PCLK cycles, 256 ticks. -/
def State.l1Expired (s : State) (p i : Nat) : Bool :=
  let x := s.entry p i
  let limit := bf (s.kindWord p x.desc.kind) 47 32
  x.st == .running && limit != 0 && decide (x.dispatchRaw + 256 * limit ≤ s.raw.toNat)

/-- SHD_L1_EXPIRY (R97, R497, R507): the task of an entry has run too long. -/
def execShdL1Expiry (p : Fin 8) (entry : BitVec 15) (s : State) : Out :=
  let i := entry.toNat
  let x := s.entry p.val i
  if s.l1Expired p.val i then
    let u := x.unit
    let ter := match tfind s.segment p.val with | some g => g.kind == 0 && g.entry == i && g.unit == u | none => false
    let s := match unitKind u with
      | 1 => (((s.endTask p.val i ksAborted).untask u).setAbort u).abortFrom u
      | 5 => (s.endTask p.val i ksAborted).abortFrom u
      | 4 => if h : (u - 584) / 32 < 8 ∧ (u - 584) % 32 < 17 then s.abortJob ⟨_, h.1⟩ ⟨_, h.2⟩ else s.endTask p.val i ksAborted
      | _ => s.endTask p.val i ksAborted
    let s := if ter then
        let s := { s with segment := tdel s.segment p.val }
        if (s.un u).retest then s.retestFailed u (w64 (2 ^ 48)) 0 else s.terFail u (w64 (2 ^ 48)) 0 (s.flag Key.terCfg 59)
      else s
    .next (s.chargeUnit 1 u saAbort x.desc.tag)
  else .next s

/-! L2 to L4 -/

/-- SHD_L2_EXPIRY (R55, R492, R493, R497): a slot instance has missed its deadline; every task of it ends. -/
def execShdL2Expiry (c : Fin 384) (seq : BitVec 32) (s : State) : Out :=
  let q := seq.toNat
  if s.l2.any (fun e => e.1 == c.val && e.2.1 == q && decide (e.2.2 + s.l2Limit c.val ≤ s.now)) then
    let s := s.disarmL2 c.val q
    let es := s.kennel.flatMap (fun k => (k.2.used.filter (fun e => match e.2.plan with
      | some (c', q', _) => c' == c.val && q' == q | none => false)).map (fun e => (k.1, e.1)))
    let s := es.foldl (fun s e => s.endTask e.1 e.2 ksAborted) s
    let s := (s.incSat (Key.shdL2Stat c.val) 63 32 1).setFld (Key.shdL2Stat c.val) 31 16 (min 65535 es.length)
    .next (s.charge 2 (.carrier c) saAbort q)
  else .next s

/-- The L3 limit of a partition in ticks (R492, R494): `SHD_L3_FIRST` until its first pet. -/
def State.l3Limit (s : State) (p : Nat) : Nat :=
  if tget 0 s.petRaw (8 + p) = 0 then msTicks (s.entN Key.shdL3First) else usTicks (s.entN Key.shdL3Limit)

/-- SHD_L3_EXPIRY (R492, R497): a partition's firmware has not petted its timer; without a reset the timer starts again. -/
def execShdL3Expiry (p : Fin 8) (s : State) : Out :=
  .next (if s.partState p.val = psRunning ∧ tget 0 s.petRaw p.val + s.l3Limit p.val ≤ s.raw.toNat then
    let s := s.charge 3 (.part p) saAbort 0
    if s.partState p.val = psRunning then { s with petRaw := tput (tput s.petRaw p.val s.raw.toNat) (8 + p.val) 1 } else s
  else s)

/-- SHD_L4_EXPIRY (R499): the device check has not passed in time; a WARM reset, with the full self-test where the previous expiry
lies within WINDOW. -/
def execShdL4Expiry (s : State) : Out :=
  .next (if s.phase = phReady ∧ s.l4Last + usTicks (s.entN Key.shdL4Limit) ≤ s.raw.toNat then
    let again := decide (s.shdLastAt 4 (.unit 1020) ≠ 0) && !(s.windowPassed 4 (.unit 1020))
    { s.setLadder 4 (.unit 1020) 0 0 with postNext := again }.charge 4 (.unit 1020) saCounted 0
  else s)

/-- SHD_WINDOW_RESET (R498): WINDOW has passed without an expiry. -/
def execShdWindowReset (level : Fin 5) (x : ChargedUnit) (s : State) : Out :=
  .next (if s.windowPassed level.val x then s.setLadder level.val x 0 0 else s)

/-- Whether an ABORT has been pending at a unit for 1,024 PCLK cycles (R501), 256 ticks. -/
def State.abortUntaken (s : State) (u : Nat) : Bool :=
  match (s.un u).abortRaw with | some r => decide (r + 256 ≤ s.raw.toNat) | none => false

/-- SHD_ABORT_UNTAKEN (R501): a tile or a control core does not take an ABORT; it is quarantined at once. -/
def execShdAbortUntaken (u : Fin 1024) (s : State) : Out :=
  let pendingAbort := decide (u.val < 512) && (s.tl u.val).ipend.toNat % 2 == 1 && (s.tl u.val).st != .reset
  .next (
    if (pendingAbort ∨ (unitKind u.val = 5 ∧ s.coreRuns (u.val - 840))) ∧ s.abortUntaken u.val ∧ !((s.un u.val).quar) ∧ s.mayQuarantine u.val then
      let (step, count) := s.ladder 1 (.unit u)
      let s := (s.setLadder 1 (.unit u) (max step 1) count).record 0x81 [1, w64 u.val, 2, w64 count, w64 (max step 1)]
      (s.setUn u.val { s.un u.val with abortRaw := none }).sheepIrq.quarantine u.val 3 true
    else s)

/-- A pet (R494). -/
def State.pet (s : State) (p : Nat) : State :=
  if s.partState p = psRunning then { s with petRaw := tput (tput s.petRaw p s.raw.toNat) (8 + p) 1 } else s

/-- SHD_PET (R494). -/
def execShdPet (rq : Requester) (p : Fin 8) (s : State) : Out :=
  .next (s.guarded (s.checkWrite rq (Key.shdPet p.val) 1) (s.pet p.val))

/-- DEVICE_CHECK (R495): every 0.5 ms; a check that passes restarts the L4 timer and toggles HEARTBEAT. -/
def execDeviceCheck (ok : Bool) (s : State) : Out :=
  .next (if s.phase = phReady ∧ s.checkRaw + 245760 ≤ s.raw.toNat then
      (if ok then { s with checkRaw := s.raw.toNat, l4Last := s.raw.toNat, heartbeat := !s.heartbeat } else { s with checkRaw := s.raw.toNat })
    else s)

/-! Quarantine and return -/

/-- OP QUARANTINE of an accepted write (R499, R503). -/
def State.odQuar (s : State) (u : Nat) : State :=
  if s.mayQuarantine u then (s.quarantine u 0 false).status .ok else s.status .range

/-- OP RELEASE of an accepted write (R504). -/
def State.odRelease (s : State) (u : Nat) : State :=
  if (s.un u).quar ∧ !((s.un u).retest) then (s.releaseQuar u).status .ok else s.status .busy

/-- A write of `OD_Un_CTL` (R421, R503, R504). -/
def State.odCtlWrite (s : State) (u op : Nat) : State :=
  match op with
  | 1 => s.odReset u
  | 2 => s.odRelease u
  | 3 => s.odQuar u
  | _ => s.status .range

/-- A write of an operation of `OD_Un_CTL` by a requester. -/
def State.odCtlBy (s : State) (rq : Requester) (u op : Nat) : State :=
  match (if unitKind u = 0 then .noObject else s.checkWrite rq (Key.odCtl u) (w64 op)) with
  | .ok => s.odCtlWrite u op
  | e => s.status e

/-- OD_QUARANTINE (R503). -/
def execOdQuarantine (rq : Requester) (u : Fin 1024) (s : State) : Out := .next (s.odCtlBy rq u.val 3)
/-- OD_RELEASE (R504). -/
def execOdRelease (rq : Requester) (u : Fin 1024) (s : State) : Out := .next (s.odCtlBy rq u.val 2)

/-- SHD_AUTO_RETURN (R505): SHD_RETURN seconds after Sheepdog's quarantine, it releases the unit. -/
def execShdAutoReturn (u : Fin 1024) (s : State) : Out :=
  let x := s.un u.val
  let n := s.entN Key.shdReturn
  .next (if x.quar ∧ x.autoReturn ∧ !x.retest ∧ n ≠ 0 ∧ x.quarSince + n * secTicks ≤ s.raw.toNat then
    (s.setUn u.val { x with autoReturn := false }).releaseQuar u.val else s)

/-- RETEST_DONE (R504): every segment of the quarantined unit has run; it returns to service, or stays quarantined where one failed. -/
def execRetestDone (u : Fin 1024) (s : State) : Out :=
  .next (
    if (s.un u.val).quar ∧ (s.un u.val).retest ∧ s.segsDone u.val then
      match (s.un u.val).retestFail with
      | none => s.returnUnit u.val 0
      | some (w, sig) =>
        let s := s.setUn u.val { s.un u.val with retest := false, retestFail := none }
        let s := { s.setFld (Key.shdQuar u.val) 62 60 4 with retests := s.retests.filter (· != u.val) }
        let s := (List.range 24).foldl (fun s r => if s.present r then s else s.maskReq r) s
        (s.terFail u.val w sig false).record 0x82 [w64 u.val, 1]
    else s)

end Sys2Proof.Machine
end

