-- ==== Sys2Proof/Machine/BinCore.lean ====
section
/-!
DEFINITION. BinCore.lean: arithmetic in binary32 with rounding to nearest even, the internal arithmetic of the equalizers (R268): numbers
as m × 2^e, their complex pairs, and matrices. The spec fixes the format and the rounding; sums are taken in ascending order and
inverses by elimination in order (assumption 83: DESIGN CHOICE). A result beyond the format, or a division by zero, is `lost`: the spec
states no value there.
-/
namespace Sys2Proof.Machine

/-- A binary32 number m × 2^e, or a lost one. -/
structure F32 where
  m : Int
  e : Int
  lost : Bool
deriving DecidableEq, Repr

/-- Bits of a magnitude. -/
def bitLen (n : Nat) : Nat := if n = 0 then 0 else Nat.log2 n + 1

/-- The binary32 number nearest to m × 2^e, ties to even. -/
def rnd (m e : Int) : F32 :=
  let n := bitLen m.natAbs
  let q := max (e + n - 24) (-149)
  if q ≤ e then ⟨m, e, decide (128 < e + n)⟩
  else
    let d := (q - e).toNat
    let a := m.natAbs / 2 ^ d
    let r := m.natAbs % 2 ^ d
    let h := 2 ^ (d - 1)
    let a := if h < r ∨ (r = h ∧ a % 2 = 1) then a + 1 else a
    ⟨if m < 0 then -a else a, q, decide (128 < q + bitLen a)⟩

def F32.zero : F32 := ⟨0, 0, false⟩
def F32.ofInt (n : Int) : F32 := rnd n 0
def F32.neg (a : F32) : F32 := { a with m := -a.m }
def F32.add (a b : F32) : F32 :=
  let e := min a.e b.e
  let r := rnd (a.m * (2 ^ (a.e - e).toNat : Nat) + b.m * (2 ^ (b.e - e).toNat : Nat)) e
  { r with lost := r.lost || a.lost || b.lost }
def F32.sub (a b : F32) : F32 := a.add b.neg
def F32.mul (a b : F32) : F32 :=
  let r := rnd (a.m * b.m) (a.e + b.e)
  { r with lost := r.lost || a.lost || b.lost }
/-- A quotient: enough bits, the last of them standing for the rest. -/
def F32.div (a b : F32) : F32 :=
  if b.m = 0 then ⟨0, 0, true⟩
  else
    let k := 64 + bitLen b.m.natAbs
    let n := a.m.natAbs * 2 ^ k
    let q := 2 * (n / b.m.natAbs) + b01 (n % b.m.natAbs != 0)
    let r := rnd (if (a.m < 0) != (b.m < 0) then -q else q) (a.e - b.e - k - 1)
    { r with lost := r.lost || a.lost || b.lost }
def F32.isZero (a : F32) : Bool := a.m == 0 && !a.lost
def F32.lt (a b : F32) : Bool :=
  let e := min a.e b.e
  decide (a.m * (2 ^ (a.e - e).toNat : Nat) < b.m * (2 ^ (b.e - e).toNat : Nat))
/-- floor(x × 2^f) (R260). -/
def F32.floorAt (a : F32) (f : Nat) : Int :=
  let e := a.e + f
  if 0 ≤ e then a.m * (2 ^ e.toNat : Nat) else a.m / (2 ^ (-e).toNat : Nat)
/-- Sum and mean in ascending order. -/
def F32.sum : List F32 → F32
  | [] => F32.zero
  | x :: r => r.foldl F32.add x
def F32.mean (l : List F32) : F32 := (F32.sum l).div (F32.ofInt l.length)

/-- The square root of a ratio of naturals, rounded. -/
def F32.sqrtOf (num den : Nat) : F32 :=
  let r := (num * 2 ^ 128 / den).sqrt
  rnd (2 * r + 1 : Nat) (-65)

/-- floor(40 log10 x), a level in 0.25 dB, as an S16; the least for none. -/
def F32.quarterDb (a : F32) : Int :=
  if a.m ≤ 0 then -32768
  else
    let ge := fun (k : Int) =>   -- 10^k ≤ x^40
      let num := a.m.toNat ^ 40 * 2 ^ (40 * a.e).toNat * 10 ^ (-k).toNat
      let den := 2 ^ (-(40 * a.e)).toNat * 10 ^ k.toNat
      decide (den ≤ num)
    ((((List.range 65536).countP (fun (i : Nat) => ge ((i : Int) - 32768))) : Nat) : Int) - 32769

/-- The n-th root of a natural below 2^bits, rounded down. -/
def nthRoot (n x : Nat) : Nat → Nat
  | 0 => 0
  | b + 1 => let r := nthRoot n (x / 2 ^ n) b; if (2 * r + 1) ^ n ≤ x then 2 * r + 1 else 2 * r

/-- 10^(q/40), rounded: the ratio that a level in 0.25 dB stands for. -/
def F32.ofQuarterDb (q : Int) : F32 :=
  let bits := 3000
  let x := 10 ^ q.toNat * 2 ^ (40 * bits) / 10 ^ (-q).toNat
  rnd (2 * (nthRoot 40 x (2 * bits)) + 1 : Nat) (-bits - 1)

/-! Complex numbers -/

structure C32 where
  re : F32
  im : F32
deriving DecidableEq, Repr

def C32.zero : C32 := ⟨F32.zero, F32.zero⟩
def C32.one : C32 := ⟨F32.ofInt 1, F32.zero⟩
def C32.ofSample (c : Nat) : C32 := ⟨F32.ofInt (reOf c), F32.ofInt (imOf c)⟩
def C32.add (a b : C32) : C32 := ⟨a.re.add b.re, a.im.add b.im⟩
def C32.sub (a b : C32) : C32 := ⟨a.re.sub b.re, a.im.sub b.im⟩
def C32.mul (a b : C32) : C32 := ⟨(a.re.mul b.re).sub (a.im.mul b.im), (a.re.mul b.im).add (a.im.mul b.re)⟩
def C32.conj (a : C32) : C32 := ⟨a.re, a.im.neg⟩
def C32.norm (a : C32) : F32 := (a.re.mul a.re).add (a.im.mul a.im)
def C32.scale (a : C32) (x : F32) : C32 := ⟨a.re.mul x, a.im.mul x⟩
def C32.divR (a : C32) (x : F32) : C32 := ⟨a.re.div x, a.im.div x⟩
def C32.div (a b : C32) : C32 := (a.mul b.conj).divR b.norm
def C32.sum : List C32 → C32
  | [] => C32.zero
  | x :: r => r.foldl C32.add x
def C32.mean (l : List C32) : C32 := (C32.sum l).divR (F32.ofInt l.length)
/-- e^(j 2π num/den), rounded. -/
def C32.turn (num : Int) (den : Nat) : C32 := ⟨rnd (cosFix num den) (-80), rnd (sinFix num den) (-80)⟩

/-! Matrices, by rows -/

abbrev CMat := List (List C32)
def CMat.at_ (a : CMat) (i j : Nat) : C32 := (a.getD i []).getD j C32.zero
def CMat.of (rows cols : Nat) (f : Nat → Nat → C32) : CMat := (List.range rows).map (fun i => (List.range cols).map (f i))
def CMat.mul (a b : CMat) (n k m : Nat) : CMat :=
  CMat.of n m (fun i j => C32.sum ((List.range k).map (fun l => (a.at_ i l).mul (b.at_ l j))))
def CMat.herm (a : CMat) (n m : Nat) : CMat := CMat.of m n (fun i j => (a.at_ j i).conj)

/-- Elimination of column c: row c is divided by its pivot, and taken from every other row. -/
def elimCol (a : CMat) (c : Nat) : CMat :=
  let p := (a.getD c []).map (fun x => x.div ((a.getD c []).getD c C32.zero))
  a.zipIdx.map (fun r => if r.2 = c then p else
    let f := r.1.getD c C32.zero
    (r.1.zip p).map (fun q => q.1.sub (f.mul q.2)))
/-- The inverse of an n × n matrix. -/
def CMat.inv (a : CMat) (n : Nat) : CMat :=
  let aug := CMat.of n (2 * n) (fun i j => if j < n then a.at_ i j else if j - n = i then C32.one else C32.zero)
  ((List.range n).foldl elimCol aug).map (·.drop n)

end Sys2Proof.Machine
end

