-- ==== Sys2Proof/Machine/EqCore.lean ====
section
/-!
DEFINITION. EqCore.lean: what an equalizer computes (R266 to R269): DMRS values, channel and noise estimates, weights, SINR, symbols and LLRs,
in binary32. Where R267 names a step and not its formula, the formula is the model's (assumption 83).
-/
namespace Sys2Proof.Machine

/-! The parameter block -/

/-- Little-endian field of n bytes at an offset of a block. -/
def pbField (b : List Byte) (off n : Nat) : Nat := leNat ((b.drop off).take n)

/-- Fields of the equalizer parameter block. -/
def eqAnt (b : List Byte) : Nat := pbField b 0 1
def eqUe (b : List Byte) : Nat := pbField b 1 1
def eqPrb0 (b : List Byte) : Nat := pbField b 4 2
def eqNprb (b : List Byte) : Nat := pbField b 6 2
def eqStride (b : List Byte) : Nat := pbField b 8 4
def eqDmrs (b : List Byte) : Nat := pbField b 12 2
def eqData (b : List Byte) : Nat := pbField b 14 2
def eqF16 (b : List Byte) (hi lo : Nat) : Nat := bf (w64 (pbField b 16 1)) hi lo
def eqF17 (b : List Byte) (hi lo : Nat) : Nat := bf (w64 (pbField b 17 1)) hi lo
def eqF18 (b : List Byte) (hi lo : Nat) : Nat := bf (w64 (pbField b 18 1)) hi lo
def eqNl (b : List Byte) (u : Nat) : Nat := pbField b (64 + 32 * u) 1
def eqQm (b : List Byte) (u : Nat) : Nat := pbField b (65 + 32 * u) 1
def eqScid (b : List Byte) (u : Nat) : Nat := pbField b (66 + 32 * u) 1
def eqPort (b : List Byte) (u v : Nat) : Nat := pbField b (68 + 32 * u) 2 / 2 ^ (4 * v) % 16
def eqUes (b : List Byte) : List Nat := List.range (eqUe b)
def eqLayers (b : List Byte) : Nat := ((eqUes b).map (eqNl b)).sum
def eqType2 (b : List Byte) : Bool := eqF16 b 7 7 == 1
def eqDouble (b : List Byte) : Bool := eqF16 b 6 6 == 1
def eqNd (b : List Byte) : Nat := eqF16 b 5 4
def eqTp (b : List Byte) : Bool := eqF16 b 0 0 == 1
def eqIrc (b : List Byte) : Bool := eqF18 b 7 7 == 1
/-- PRBs of a group. -/
def eqGran (b : List Byte) : Nat := 2 ^ eqF17 b 1 0

/-- The pairs of NSCID and port of a block's layers. -/
def eqPorts (b : List Byte) : List (Nat × Nat) :=
  (eqUes b).flatMap (fun u => (List.range (eqNl b u)).map (fun v => (eqScid b u, eqPort b u v)))
/-- The first layer of a UE. -/
def eqFirst (b : List Byte) (u : Nat) : Nat := ((List.range u).map (eqNl b)).sum

/-- The symbols of a mask. -/
def maskSyms (m : Nat) : List Nat := (List.range 14).filter (fun l => m / 2 ^ l % 2 == 1)

/-- The subcarriers of a PRB that carry data in a symbol: those outside the CDM groups without data where it carries DMRS. -/
def eqScs (b : List Byte) (l : Nat) : List Nat :=
  if (eqDmrs b) / 2 ^ l % 2 = 0 then List.range 12
  else (List.range 12).filter (fun i => decide (eqNd b ≤ (if eqType2 b then i % 6 / 2 else i % 2)))

/-- The data resource elements in codeword order (R269): symbol, and subcarrier of the allocation. -/
def eqRes (b : List Byte) : List (Nat × Nat) :=
  (maskSyms (eqData b)).flatMap (fun l => (List.range (eqNprb b)).flatMap (fun q => (eqScs b l).map (fun i => (l, 12 * q + i))))

/-- DMRS symbol groups (R267): one symbol each, or two adjacent ones when DOUBLE is set. -/
def eqDmrsSets (b : List Byte) : List (List Nat) :=
  let l := maskSyms (eqDmrs b)
  if eqDouble b then (List.range (cdiv l.length 2)).map (fun i => (l.drop (2 * i)).take 2) else l.map ([·])

/-- Groups of PRBs, and the sets of DMRS symbols of each time estimate (R267, R268). -/
def eqGroups (b : List Byte) : Nat := cdiv (eqNprb b) (eqGran b)
def eqTimes (b : List Byte) : List (List (List Nat)) :=
  if eqF17 b 5 5 = 0 then [eqDmrsSets b] else (eqDmrsSets b).map ([·])

/-- The time estimate of a data symbol: with TMODE 1 the nearest DMRS symbol group's, the earlier on a tie (R267). -/
def eqTimeOf (b : List Byte) (l : Nat) : Nat :=
  let ts := eqTimes b
  let dist := fun (t : List (List Nat)) => minOf (t.flatten.map (fun m => if m ≤ l then l - m else m - l))
  (leastBy (fun i => dist (ts.getD i [])) (List.range ts.length)).getD 0

/-! DMRS (TS 38.211 clause 6.4.1.1) -/

/-- CDM group of a port, and its cover codes: whether the second value of a frequency pair, and of a time pair, is negated. -/
def portGroup (type2 : Bool) (p : Nat) : Nat := if type2 then p % 6 / 2 else p % 4 / 2
def portFreq (p : Nat) : Bool := p % 2 == 1
def portTime (type2 : Bool) (p : Nat) : Bool := decide ((if type2 then 6 else 4) ≤ p)

/-- The DMRS subcarriers of a port over the allocation, in order; consecutive ones are a frequency pair. -/
def portScs (b : List Byte) (p : Nat) : List Nat :=
  let g := portGroup (eqType2 b) p
  if eqType2 b then (List.range (2 * eqNprb b)).flatMap (fun n => [6 * n + 2 * g, 6 * n + 2 * g + 1])
  else (List.range (3 * eqNprb b)).flatMap (fun n => [4 * n + g, 4 * n + 2 + g])

/-- The largest prime below n. -/
def primeBelow (n : Nat) : Nat :=
  ((List.range n).reverse.find? (fun q => decide (2 ≤ q) && (List.range q).all (fun d => decide (d < 2) || q % d != 0))).getD 2

/-- Value n of the low-PAPR sequence of a length for group u (TS 38.211 clause 5.2.2); the tables of short lengths are the standard's. -/
def lowPapr (len u n : Nat) : C32 :=
  if len < 36 ∧ len ≠ 30 then C32.turn (Config.basePhase len u n) 8
  else if len = 30 then C32.turn (-(((u + 1) * (n + 1) * (n + 2) : Nat) : Int)) 62
  else
    let z := primeBelow len
    let q := (2 * z * (u + 1) / 31 + 1) / 2
    let m := n % z
    C32.turn (-((q * m * (m + 1) : Nat) : Int)) (2 * z)

/-- The DMRS value of a port's i-th subcarrier in a symbol, before its cover codes. -/
def dmrsBase (b : List Byte) (scid l i : Nat) : C32 :=
  let amp := F32.sqrtOf (eqNd b) 1
  if eqTp b then (lowPapr (6 * eqNprb b) (pbField b 24 2 % 30) i).scale amp
  else
    let nid := if scid = 0 then pbField b 24 2 else pbField b 26 2
    let c := gold ((2 ^ 17 * (14 * pbField b 3 1 + l + 1) * (2 * nid + 1) + 2 * nid + scid) % 2 ^ 31)
      (2 * ((if eqType2 b then 4 else 6) * eqPrb0 b + i)) 2
    let h := F32.sqrtOf 1 2
    let x := fun (j : Nat) => if c.getD j false then h.neg else h
    (⟨x 0, x 1⟩ : C32).scale amp

/-- The inputs of a job: samples by stream, symbol and subcarrier, the FIR taps, and the reference table with REFTAB. -/
structure EqIn where
  b : List Byte
  y : Nat → Nat → Nat → Nat
  taps : List Int
  ref : Option (List Nat)

/-- The DMRS of layer v (its NSCID and port q) in a symbol: subcarriers and values before the cover codes. A table's values stand
where they are not zero. -/
def EqIn.dmrs (x : EqIn) (v : Nat) (q : Nat × Nat) (l : Nat) : List (Nat × C32) :=
  match x.ref with
  | none => ((portScs x.b q.2).zipIdx).map (fun k => (k.1, dmrsBase x.b q.1 l k.2))
  | some t =>
    let syms := maskSyms (eqDmrs x.b)
    let n := 12 * eqNprb x.b
    let at_ := (v * syms.length + (syms.idxOf l)) * n
    (List.range n).filterMap (fun k => let c := t.getD (at_ + k) 0; if c = 0 then none else some (k, C32.ofSample c))

/-- Whether the cover codes negate a layer's value at the j-th subcarrier of its list and the m-th symbol of its group. -/
def EqIn.flip (x : EqIn) (q : Nat × Nat) (j m : Nat) : Bool :=
  x.ref.isNone && ((portFreq q.2 && j % 2 == 1) != (portTime (eqType2 x.b) q.2 && eqDouble x.b && m == 1))

/-! Estimation (R267) -/

/-- The least-squares values of a layer on stream a in one DMRS symbol group: cover codes removed, averaged over each frequency pair and
over the group's symbols. -/
def EqIn.ls (x : EqIn) (a v : Nat) (q : Nat × Nat) (set : List Nat) : List (Nat × C32) :=
  let one := fun (l m : Nat) => ((x.dmrs v q l).zipIdx).map (fun d =>
    let h := (C32.ofSample (x.y a l d.1.1)).div d.1.2
    (d.1.1, if x.flip q d.2 m then C32.zero.sub h else h))
  let rows := (set.zipIdx).map (fun s => one s.1 s.2)
  let at_ := fun (j : Nat) => C32.mean (rows.map (fun r => (r.getD j (0, C32.zero)).2))
  let ks := (rows.headD []).map (·.1)
  (ks.zipIdx).map (fun k =>
    if x.ref.isNone then (k.1, C32.mean [at_ (k.2 / 2 * 2), at_ (k.2 / 2 * 2 + 1)]) else (k.1, at_ k.2))

/-- Linear interpolation at subcarrier k between positions; the edge values hold. -/
def interpAt (l : List (Nat × C32)) (k : Nat) : C32 :=
  match (l.filter (fun q => decide (q.1 ≤ k))).getLast?, l.find? (fun q => decide (k ≤ q.1)) with
  | some p, some q =>
    if p.1 = q.1 then p.2
    else p.2.add ((q.2.sub p.2).scale ((F32.ofInt (k - p.1 : Nat)).div (F32.ofInt (q.1 - p.1 : Nat))))
  | some p, none => p.2
  | none, some q => q.2
  | none, none => C32.zero

/-- Index i of n samples, mirrored at the edges. -/
def mirror (i : Int) (n : Nat) : Nat :=
  let i := if i < 0 then -i else i
  if i < n then i.toNat else (2 * (n : Int) - 2 - i).toNat % n

/-- The channel values of a layer on a stream over frequency (R267 step 2), by subcarrier: for FMODE 1 on every subcarrier. -/
def EqIn.freq (x : EqIn) (l : List (Nat × C32)) : List (Nat × C32) :=
  match eqF17 x.b 7 6 with
  | 0 => l.map (fun q => (q.1, C32.mean ((l.filter (fun r => r.1 / 12 == q.1 / 12)).map (·.2))))
  | 1 => (List.range (12 * eqNprb x.b)).map (fun k => (k, interpAt l k))
  | _ => (l.zipIdx).map (fun q => (q.1.1, C32.sum ((x.taps.zipIdx).map (fun t =>
      ((l.getD (mirror ((q.2 : Int) + t.2 - ((x.taps.length - 1) / 2 : Nat)) l.length) (0, C32.zero)).2).scale (rnd t.1 (-15))))))

/-- The channel of a layer on a stream for a time estimate (step 3): the mean over its DMRS symbol groups. -/
def EqIn.chan (x : EqIn) (a v : Nat) (q : Nat × Nat) (t : List (List Nat)) : List (Nat × C32) :=
  let rows := t.map (fun set => x.freq (x.ls a v q set))
  ((rows.headD []).zipIdx).map (fun k => (k.1.1, C32.mean (rows.map (fun r => (r.getD k.2 (0, C32.zero)).2))))

/-- What a group of PRBs and a time estimate have: the mean channel, the noise covariance (a diagonal without IRC), whether it is degenerate. -/
structure EqEst where
  h : CMat
  r : CMat
  degenerate : Bool

/-- The residual of stream a at a DMRS resource element (step 4). -/
def EqIn.residual (x : EqIn) (chans : List (List (List (Nat × C32)))) (a l m k : Nat) : C32 :=
  ((eqPorts x.b).zipIdx).foldl (fun y q =>
    match ((x.dmrs q.2 q.1 l).zipIdx).find? (fun d => d.1.1 == k) with
    | some d =>
      let v := if x.flip q.1 d.2 m then C32.zero.sub d.1.2 else d.1.2
      let h := ((((chans.getD a []).getD q.2 []).find? (fun c => c.1 == k)).map (·.2)).getD C32.zero
      y.sub (h.mul v)
    | none => y) (C32.ofSample (x.y a l k))

/-- The estimates of every group for one time estimate (R267, R268). -/
def EqIn.estimate (x : EqIn) (t : List (List Nat)) : List EqEst :=
  let b := x.b
  let na := eqAnt b
  let ports := eqPorts b
  let chans := (List.range na).map (fun a => (ports.zipIdx).map (fun q => x.chan a q.2 q.1 t))
  (List.range (eqGroups b)).map (fun g =>
    let inG := fun (k : Nat) => k / (12 * eqGran b) == g
    let h := CMat.of na ports.length (fun a v => C32.mean ((((chans.getD a []).getD v []).filter (fun c => inG c.1)).map (·.2)))
    let res := t.flatMap (fun set => (set.zipIdx).flatMap (fun s =>
      ((List.range (12 * eqNprb b)).filter (fun k => inG k && ((ports.zipIdx).any (fun q => (x.dmrs q.2 q.1 s.1).any (fun d => d.1 == k))))).map
        (fun k => (List.range na).map (fun a => x.residual chans a s.1 s.2 k))))
    let r := CMat.of na na (fun i j => if eqIrc b || i == j then
      C32.mean (res.map (fun e => (e.getD i C32.zero).mul (e.getD j C32.zero).conj)) else C32.zero)
    ⟨h, r, (List.range na).any (fun i => (r.at_ i i).re.isZero)⟩)

/-! Detection (R268, R269) -/

/-- W, the diagonal of (Hᴴ R⁻¹ H + I)⁻¹, and γ of each layer. -/
structure EqW where
  w : CMat
  d : List F32
  gamma : List F32

def EqEst.weights (x : EqEst) (na nl : Nat) : EqW :=
  let hr := CMat.mul (x.h.herm na nl) (x.r.inv na) nl na na
  let m := CMat.mul hr x.h nl na nl
  let m := CMat.of nl nl (fun i j => if i = j then (m.at_ i j).add C32.one else m.at_ i j)
  let inv := m.inv nl
  let d := (List.range nl).map (fun v => (inv.at_ v v).re)
  ⟨CMat.mul inv hr nl nl na, d, d.map (fun y => ((F32.ofInt 1).div y).sub (F32.ofInt 1))⟩

/-- The unbiased estimate of layer v at a resource element. -/
def EqW.symbol (x : EqW) (v : Nat) (ys : List C32) : C32 :=
  (C32.sum ((ys.zipIdx).map (fun y => (x.w.at_ v y.2).mul y.1))).divR ((F32.ofInt 1).sub (x.d.getD v F32.zero))

/-- A constellation point of TS 38.211 clause 5.1; QM 1 turns by a quarter at odd symbols (π/2-BPSK). -/
def pointOf (qm idx : Nat) (bits : List Bool) : C32 :=
  let q := qamPoint qm bits
  let h := F32.sqrtOf 1 (qamNorm qm)
  let p : C32 := ⟨(F32.ofInt q.1).mul h, (F32.ofInt q.2).mul h⟩
  if qm = 1 ∧ idx % 2 = 1 then ⟨p.im.neg, p.re⟩ else p

/-- The least distance, squared, to the points whose bit j has a value. -/
def leastDist (qm idx j : Nat) (v : Bool) (x : C32) : F32 :=
  (((List.range (2 ^ qm)).map (numBits qm)).filter (fun b => b.getD j false == v)).foldl (fun (m : Option F32) b =>
    let d := (x.sub (pointOf qm idx b)).norm
    match m with
    | some y => if d.lt y then some d else some y
    | none => some d) none |>.getD F32.zero

/-- A max-log LLR, ln(P(b = 0) / P(b = 1)), from the unbiased estimate and the noise variance 1/γ. -/
def llrOf (qm idx j : Nat) (x : C32) (gamma : F32) : F32 :=
  ((leastDist qm idx j true x).sub (leastDist qm idx j false x)).mul gamma

/-- A number narrowed to a signed field: its bits, and whether it was clamped; a lost one has free bits. -/
def narrow (w : Nat) (lo : Int) (x : Int) (lost : Bool) (key : List Nat) : Nat × Nat :=
  if lost then (Config.accelValue key % 2 ^ w, 0)
  else
    let y := max lo (min (2 ^ (w - 1) - 1) x)
    (uns w y, b01 (y != x))

end Sys2Proof.Machine
end

