-- ==== Sys2Proof/Machine/Transforms.lean ====
section
/-! DEFINITION. Transforms.lean: the DFT engines, the equalizers and the beam weight engine (R255 to R274). -/
namespace Sys2Proof.Machine

/-! DFT engines -/

/-- Fields of a DFT job (table DFT ARG0, R261). -/
def Desc.half (d : Desc) : Bool := bit d.a0 60
def Desc.phc (d : Desc) : Bool := bit d.a0 59
def Desc.ecp (d : Desc) : Bool := bit d.a0 58
def Desc.nsym (d : Desc) : Nat := bf d.a0 57 53 + 1
def Desc.shift (d : Desc) : Nat := bf d.a0 52 48
def Desc.l0 (d : Desc) : Nat := bf d.a0 47 42
def Desc.mu (d : Desc) : Nat := bf d.a0 41 40
def Desc.n (d : Desc) : Nat := bf d.a0 31 16
def Desc.cpAdv (d : Desc) : Nat := bf d.a0 15 0
def Desc.bins (d : Desc) : Nat := bf d.a3 63 48
def Desc.first (d : Desc) : Nat := (sgn 16 (bf d.a3 47 32) % (d.n : Int)).toNat
/-- FWD_CP and INV_CP. -/
def Desc.isCp (d : Desc) : Bool := d.op == 0 || d.op == 1
/-- FWD_CP and FWD. -/
def Desc.isFwd (d : Desc) : Bool := d.op == 0 || d.op == 2

/-- The prefix of symbol i of a job in samples (R262). -/
def Desc.prefixLen (d : Desc) (i : Nat) : Nat :=
  if !d.isCp then 0
  else if d.ecp then d.n * 512 / 2048
  else d.n * 144 / 2048 + (if (d.l0 + i) % (7 * 2 ^ d.mu) = 0 then d.n * 16 * 2 ^ d.mu / 2048 else 0)

/-- Powers of a base up to a limit. -/
def powersOf (b lim : Nat) : List Nat := ((List.range 20).map (b ^ ·)).filter (· ≤ lim)
/-- Sizes of the table DFT operations. -/
def cpSize (n : Nat) : Bool := [128, 256, 512, 1024, 2048, 4096, 1536, 3072].contains n
def pow2Size (n : Nat) : Bool := decide (16 ≤ n) && (powersOf 2 32768).contains n
def tri2Size (n : Nat) : Bool := ((powersOf 2 16384).map (3 * ·)).contains n
def mixedSize (n : Nat) : Bool :=
  decide (12 ≤ n) && decide (n ≤ 3300) && n % 12 == 0 &&
  (powersOf 2 3300).any (fun a => (powersOf 3 3300).any (fun b => (powersOf 5 3300).any (fun c => a * b * c == n)))
def primeSize (n : Nat) : Bool := [139, 571, 839, 1151].contains n
def plainSize (n : Nat) : Bool := pow2Size n || tri2Size n || mixedSize n || primeSize n

/-- The limits of a DFT job (R257, R261 to R263). -/
def dftOk (x : Entry) : Bool :=
  let d := x.desc
  !(d.inslot && d.nops == 0) && decide (d.nsym ≤ 28) && decide (d.shift ≤ 16) && bf d.a0 39 33 == 0 &&
  decide (d.l0 < 7 * 2 ^ d.mu) && (!d.half || d.op == 0) && bf d.a1 63 40 % 64 == 0 && bf d.a3 31 0 == 0 && bf d.a2 63 40 == 0 &&
  (if d.isCp then
    cpSize d.n && decide (12 ≤ d.bins) && decide (d.bins ≤ d.n) &&
      (d.op != 0 || (List.range d.nsym).all (fun i => decide (d.cpAdv < d.prefixLen i)))
  else plainSize d.n && d.a3 == 0)

/-- The sum over the inputs of one transform at output k: angles in units of one turn over 2^17 × N (R261, R263). -/
def dftSum (d : Desc) (phi k : Nat) : Nat → List Nat → Int × Int
  | _, [] => (0, 0)
  | n, x :: r =>
    let u : Int := (2 ^ 17 : Nat)
    let dir : Int := if d.isFwd then -1 else 1
    let ang := dir * u * ((k * n % d.n : Nat) : Int) - (if d.half then (2 ^ 16 : Nat) * (n : Int) else 0)
      + (if d.op = 0 then u * ((k * d.cpAdv % d.n : Nat) : Int) else 0) + (if d.phc then dir * (2 * d.n * phi : Nat) else 0)
    let c := cosFix ang (2 ^ 17 * d.n)
    let s := sinFix ang (2 ^ 17 * d.n)
    let (a, b) := dftSum d phi k (n + 1) r
    (a + reOf x * c - imOf x * s, b + reOf x * s + imOf x * c)

/-- An output component: an integer within 2 LSB of the exact result (R261), the same for the same inputs (R260). `x` is the result in
2^-(80 + SHIFT), known to within 2^44 of these. -/
def dftComp (d : Desc) (key : List Nat) (i : Nat) (x : Int) : Int :=
  let u : Int := (2 ^ (80 + d.shift) : Nat)
  let err : Int := (2 ^ 44 : Nat)
  let lo := -((2 * u + err - x) / u)
  let hi := (2 * u + err + x) / u
  lo + (Config.accelValue (i :: key) % (hi - lo + 1).toNat : Nat)

/-- The outputs of one transform: each sample with the number of its components clamped. -/
def dftOut (d : Desc) (phi sym : Nat) (xs : List Nat) : List (Nat × Nat) :=
  let key := [d.op, d.n, d.shift, d.cpAdv, b01 d.half, b01 d.phc, phi, sym] ++ xs
  (List.range d.n).map (fun k =>
    let (a, b) := dftSum d phi k 0 xs
    let a := dftComp d key (2 * k) a
    let b := dftComp d key (2 * k + 1) b
    (packC a b, clampedC a b))

/-- The K bins from FIRST on, and N bins with K placed there (R262). -/
def takeBins (d : Desc) (ys : List (Nat × Nat)) : List (Nat × Nat) :=
  (List.range d.bins).map (fun i => ys.getD ((d.first + i) % d.n) (0, 0))
def placeBins (d : Desc) (xs : List Nat) : List Nat :=
  (List.range d.n).map (fun k => let i := (k + d.n - d.first) % d.n; if i < d.bins then xs.getD i 0 else 0)

/-- Input samples of symbol i of a job. -/
def Desc.inLen (d : Desc) (i : Nat) : Nat := if d.op = 0 then d.prefixLen i + d.n else if d.op = 1 then d.bins else d.n

/-- The samples that a job writes, symbol by symbol, each with the number of its components clamped. -/
def dftSymbols (d : Desc) (phis : List Nat) : Nat → List Nat → Nat → List (Nat × Nat)
  | _, _, 0 => []
  | i, xs, n + 1 =>
    let len := d.inLen i
    let x := xs.take len
    let w := match d.op with
      | 0 => ((x.drop (d.prefixLen i)) |> fun u => if d.cpAdv = 0 then u else (x.drop (d.prefixLen i - d.cpAdv)).take d.n)
      | 1 => placeBins d x
      | _ => x
    let y := dftOut d (phis.getD i 0) i w
    let y := match d.op with
      | 0 => takeBins d y
      | 1 => y.drop (d.n - d.prefixLen i) ++ y
      | _ => y
    y ++ dftSymbols d phis (i + 1) (xs.drop len) n

/-- ACLK cycles of a symbol (R264). -/
def dftCost (n : Nat) : Nat :=
  if pow2Size n || n == 128 then n / 8
  else if tri2Size n then n / 6
  else if primeSize n then 3 * ((powersOf 2 32768).filter (fun m => 2 * n - 1 ≤ m)).headD 0 / 8
  else n / 4

/-- The split-8 receive stream whose slot buffers hold a PM offset of pack p. -/
def State.split8At (s : State) (p off : Nat) : Option Nat :=
  (List.range 4096).find? (fun n =>
    let x := s.str n
    x.en && !x.tx && x.kind != skOran && x.pack == p && decide (x.bufOff ≤ off) && decide (off < x.bufOff + x.nbuf * x.bufSize))

/-- The bins that a forward transform makes of the symbols of a split-8 stream are copied to the Hound engines (R227): the stream is the
one whose buffer the job reads, the slot the last one that the buffer took. -/
def State.dftFeed (s : State) (p : Fin 8) (d : Desc) (input : Nat) (ys : List Nat) : State :=
  let off := input - pmAddr p.val 0
  match (if input < pmAddr p.val 0 then none else s.split8At p.val off) with
  | none => s
  | some n =>
    let x := s.str n
    let b := (off - x.bufOff) / x.bufSize
    match (s.car x.carrier).slots.find? (fun r => r.seq % x.nbuf == b) with
    | none => s
    | some r =>
      let k := (off - x.bufOff) % x.bufSize / 4
      let m := ys.length / d.nsym
      (List.range d.nsym).foldl (fun s i =>
        let at_ := k + ((List.range i).map d.inLen).sum
        let t := r.time + x.samplesT at_
        s.houndFeed 1 x.port x.eaxc (r.time + x.samplesT (at_ + d.inLen i))
          (((ys.drop (i * m)).take m).map (fun c => (t, some (BitVec.ofNat 32 c))))) s

/-- A DFT job (R261 to R264). -/
def dftJob (p : Fin 8) (x : Run) (e : Entry) : Run × Nat × Nat × Nat :=
  let d := e.desc
  if !(dftOk e) then x.param
  else
    let (x, ph) := if d.phc then x.readPm p (bf d.a1 63 40) (2 * d.nsym) else (x, [])
    let len := ((List.range d.nsym).map d.inLen).sum
    let (x, bs) := x.read p e.input (4 * len)
    if x.bad ≠ 0 then (x, 0, 0, 256)
    else
      let ys := dftSymbols d (shortsOf ph) 0 (samplesOf bs) d.nsym
      let x := x.write p d.out (sampleBytes (ys.map (·.1)))
      let x := if x.bad = 0 ∧ d.op % 2 = 0 then { x with s := x.s.dftFeed p d e.input (ys.map (·.1)) } else x
      (x, min (ys.map (·.2)).sum 65535, 0, 256 + d.nsym * dftCost d.n)

/-- DFT_FWD_CP (R261 to R263). -/
def execDftFwdCp (p : Fin 8) (k : Fin 4) (s : State) : Out := .next (s.runJob p (10 + k.val) [0] (dftJob p))
/-- DFT_INV_CP. -/
def execDftInvCp (p : Fin 8) (k : Fin 4) (s : State) : Out := .next (s.runJob p (10 + k.val) [1] (dftJob p))
/-- DFT_FWD. -/
def execDftFwd (p : Fin 8) (k : Fin 4) (s : State) : Out := .next (s.runJob p (10 + k.val) [2] (dftJob p))
/-- DFT_INV. -/
def execDftInv (p : Fin 8) (k : Fin 4) (s : State) : Out := .next (s.runJob p (10 + k.val) [3] (dftJob p))

/-! Equalizers -/

/-- The greatest port of the DMRS type (R266). -/
def eqMaxPort (b : List Byte) : Nat :=
  match eqF16 b 7 7, eqF16 b 6 6 with
  | 0, 0 => 3 | 0, _ => 7 | _, 0 => 5 | _, _ => 11

/-- Every limit of an equalizer block (R257, R265, R266). -/
def eqBlockOk (b : List Byte) : Bool :=
  let within := fun (x lo hi : Nat) => decide (lo ≤ x) && decide (x ≤ hi)
  within (eqAnt b) 1 64 && within (eqUe b) 1 8 && decide (pbField b 2 1 ≤ 3) && decide (eqPrb0 b ≤ 274) &&
  within (eqNprb b) 1 (275 - eqPrb0 b) && eqStride b % 64 == 0 && decide (48 * (eqPrb0 b + eqNprb b) ≤ eqStride b) &&
  decide (eqDmrs b < 2 ^ 14) && decide (eqData b < 2 ^ 14) && within (eqF16 b 5 4) 1 3 && eqF16 b 3 2 == 0 &&
  decide (eqF17 b 7 6 ≤ 2) && eqF17 b 4 2 == 0 && eqF18 b 6 3 == 0 && decide (eqF18 b 2 0 ≤ 4) &&
  (eqF17 b 7 6 != 2 || within (pbField b 19 1) 1 16) && pbField b 32 32 == 0 &&
  (eqUes b).all (fun u => within (eqNl b u) 1 4 && [1, 2, 4, 6, 8].contains (eqQm b u) && decide (eqScid b u ≤ 1) &&
    pbField b (67 + 32 * u) 1 == 0 && pbField b (70 + 32 * u) 2 == 0 && pbField b (88 + 32 * u) 8 == 0 &&
    (eqQm b u != 1 || eqF16 b 0 0 == 1) && (eqF16 b 0 0 == 0 || eqNl b u == 1)) &&
  decide (eqLayers b ≤ 16) && decide ((eqPorts b).Nodup) && (eqPorts b).all (fun q => decide (q.2 ≤ eqMaxPort b)) &&
  (eqF18 b 7 7 == 0 || decide (eqAnt b ≤ 16))

/-- ACLK cycles of an equalizer job (R271). -/
def eqCost (b : List Byte) (op : Nat) : Nat :=
  let a := eqAnt b
  let l := eqLayers b
  let q := ((eqUes b).map (fun u => eqNl b u * eqQm b u)).sum
  let re := (eqRes b).length
  if op = 2 then 512 + cdiv q 64 * re
  else
    let ds := eqNprb b * (maskSyms (eqDmrs b)).length
    512 + ds * cdiv (a * l * 12) 128 + ds * cdiv ((if eqF18 b 7 7 = 1 then a * a else a) * 12) 128 +
      eqGroups b * (eqTimes b).length * (cdiv (a * l * l) 8 + cdiv (l * l * l) 4 + 256) +
      re * max (cdiv (a * l) 128) (max (cdiv a 16) (cdiv q 64))

/-- A data symbol of a UE's layer: symbol of the slot, place in codeword order, its unbiased estimate, its γ, whether its group is
degenerate. -/
structure EqCell where
  l : Nat
  idx : Nat
  x : C32
  gamma : F32
  dead : Bool

/-- The estimates and weights of a job, by time estimate and group. -/
structure EqRun where
  ests : List (List EqEst)
  ws : List (List EqW)

def eqRun (x : EqIn) : EqRun :=
  let es := (eqTimes x.b).map x.estimate
  ⟨es, es.map (fun l => l.map (fun e => e.weights (eqAnt x.b) (eqLayers x.b)))⟩

/-- Whether a group is degenerate (R268). -/
def EqRun.degenerate (r : EqRun) (g : Nat) : Bool := r.ests.any (fun l => ((l[g]?).map (·.degenerate)).getD false)

/-- The data symbols of UE u in codeword order (R269). -/
def eqCells (x : EqIn) (r : EqRun) (u : Nat) : List EqCell :=
  let b := x.b
  ((eqRes b).zipIdx).flatMap (fun q =>
    let (l, k) := q.1
    let g := k / (12 * eqGran b)
    let w := ((r.ws.getD (eqTimeOf b l) [])[g]?).getD ⟨[], [], []⟩
    let ys := (List.range (eqAnt b)).map (fun a => C32.ofSample (x.y a l k))
    (List.range (eqNl b u)).map (fun v =>
      ⟨l, q.2, w.symbol (eqFirst b u + v) ys, w.gamma.getD (eqFirst b u + v) F32.zero, r.degenerate g⟩))

/-- The data symbols that DEMAP reads: c16 estimates × 2^12, and one SINR for each symbol of the slot (R269). -/
def demapCells (b : List Byte) (u : Nat) (bs : List Byte) : List EqCell :=
  let n := (eqRes b).length * eqNl b u
  let cs := samplesOf (bs.take (4 * n))
  let sinr := (shortsOf (bs.drop (4 * n))).map (sgn 16)
  ((eqRes b).zipIdx).flatMap (fun q => (List.range (eqNl b u)).map (fun v =>
    let c := cs.getD (q.2 * eqNl b u + v) 0
    ⟨q.1.1, q.2, ⟨rnd (reOf c) (-12), rnd (imOf c) (-12)⟩,
      F32.ofQuarterDb (sinr.getD ((maskSyms (eqData b)).idxOf q.1.1) 0), false⟩))

/-- The LLRs of UE u (R269): floor(LLR × 2^LLR_FRAC) clamped to −127 to +127, 0 in a degenerate group; and how many were clamped. -/
def eqLlrOut (b : List Byte) (cs : List EqCell) (key : List Nat) (u : Nat) : List Byte × Nat :=
  let qm := eqQm b u
  let vs := cs.flatMap (fun c => (List.range qm).map (fun j =>
    if c.dead then (0, 0)
    else
      let y := llrOf qm c.idx j c.x c.gamma
      narrow 8 (-127) (y.floorAt (eqF18 b 2 0)) y.lost (2 :: u :: c.idx :: j :: key)))
  (vs.map (fun v => BitVec.ofNat 8 v.1), (vs.map (·.2)).sum)

/-- The mean of γ over cells: a level in 0.25 dB, as an S16; zero with none. -/
def eqLevel (cs : List EqCell) (key : List Nat) : Nat × Nat :=
  let cs := cs.filter (fun c => !c.dead)
  if cs.isEmpty then (0, 0)
  else let g := F32.mean (cs.map (·.gamma)); narrow 16 (-32768) g.quarterDb g.lost key

/-- The estimates × 2^12 of UE u and the SINR of each data symbol of the slot (R269); zero in a degenerate group. -/
def eqSymOut (b : List Byte) (cs : List EqCell) (key : List Nat) (u : Nat) : List Byte × Nat :=
  let vs := cs.map (fun c =>
    if c.dead then (0, 0)
    else
      let r := narrow 16 (-32768) (c.x.re.floorAt 12) c.x.re.lost (3 :: u :: c.idx :: 0 :: key)
      let i := narrow 16 (-32768) (c.x.im.floorAt 12) c.x.im.lost (3 :: u :: c.idx :: 1 :: key)
      (r.1 + 2 ^ 16 * i.1, r.2 + i.2))
  let ls := (maskSyms (eqData b)).map (fun l => eqLevel (cs.filter (fun c => c.l == l)) (4 :: u :: l :: key))
  (sampleBytes (vs.map (·.1)) ++ ls.flatMap (fun v => leBytes 2 v.1), (vs.map (·.2)).sum + (ls.map (·.2)).sum)

/-- The result record. The spec does not state how the timing offset and the noise level come from the estimates: free values. -/
def eqRecord (b : List Byte) (cells : List (List EqCell)) (key : List Nat) (deg : Nat) : List Byte :=
  leBytes 16 (min deg 65535) ++ (eqUes b).flatMap (fun u =>
    leBytes 2 (eqLevel (cells.getD u []) (5 :: u :: key)).1 ++ leBytes 2 (Config.accelValue (6 :: u :: key)) ++
      leBytes 2 (Config.accelValue (7 :: u :: key)) ++ leBytes 2 0 ++ leBytes 4 (eqRes b).length ++ leBytes 4 0)

/-- An equalizer job (R265 to R271). -/
def eqJob (p : Fin 8) (x : Run) (e : Entry) : Run × Nat × Nat × Nat :=
  let d := e.desc
  let off := bf d.a3 23 0
  if off % 64 ≠ 0 ∨ bf d.a3 63 24 ≠ 0 ∨ bf d.a0 60 33 ≠ 0 ∨ bf d.a0 31 0 ≠ 0 ∨ (d.inslot && (d.nops == 0 || d.op == 2)) ∨
      bf d.a1 63 40 ≠ 0 ∨ bf d.a2 63 40 ≠ 0 ∨ (d.op = 2 ∧ d.a1 ≠ 0) then x.param
  else
    let (x, b) := x.readPm p off 320
    if x.bad = 0 ∧ !(eqBlockOk b) then x.param
    else
      let syms := if d.op = 2 then [] else maskSyms (eqDmrs b ||| eqData b)
      let (x, ins) := x.reads p ((List.range (eqAnt b)).flatMap (fun a => syms.map (fun l =>
        (e.input + (a * 14 + l) * eqStride b + 48 * eqPrb0 b, 48 * eqNprb b))))
      let (x, taps) := if d.op ≠ 2 ∧ eqF17 b 7 6 = 2 then x.readPm p (pbField b 20 4) (2 * pbField b 19 1) else (x, [])
      let (x, refs) := if d.op ≠ 2 ∧ eqF16 b 1 1 = 1 then
        x.readPm p (pbField b 28 4) (48 * eqNprb b * (maskSyms (eqDmrs b)).length * eqLayers b) else (x, [])
      let res := (eqRes b).length
      let (x, sy) := if d.op = 2 then x.reads p ((eqUes b).map (fun u =>
        (bf (w64 (pbField b (80 + 32 * u) 8)) 39 0, res * eqNl b u * 4 + 2 * (maskSyms (eqData b)).length))) else (x, [])
      if x.bad ≠ 0 then (x, 0, 0, 512)
      else
        let key := d.op :: (b ++ ins.flatten ++ taps ++ refs ++ sy.flatten).map BitVec.toNat
        let cells := (ins.map (fun l => (samplesOf l).toArray)).toArray
        let inp : EqIn := ⟨b, fun a l k => (cells.getD (a * syms.length + syms.idxOf l) #[]).getD k 0,
          (shortsOf taps).map (sgn 16), if eqF16 b 1 1 = 1 then some (samplesOf refs) else none⟩
        let run := if d.op = 2 then none else some (eqRun inp)
        let deg := (run.map (fun r => ((List.range (eqGroups b)).filter r.degenerate).length)).getD 0
        let cells := (eqUes b).map (fun u => match run with
          | some r => eqCells inp r u
          | none => demapCells b u (sy.getD u []))
        let outs := (eqUes b).map (fun u =>
          let cs := cells.getD u []
          let (bytes, sat) := if d.op = 1 then eqSymOut b cs key u else eqLlrOut b cs key u
          (bf (w64 (pbField b ((if d.op = 1 then 80 else 72) + 32 * u) 8)) 39 0, bytes, sat))
        let x := (x.writes p (outs.map (fun o => (o.1, o.2.1)))).write p d.out (eqRecord b cells key deg)
        (x, min (outs.map (·.2.2)).sum 65535, deg, eqCost b d.op)

/-- EQ_DETECT (R265). -/
def execEqDetect (p : Fin 8) (k : Fin 2) (s : State) : Out := .next (s.runJob p (14 + k.val) [0] (eqJob p))
/-- EQ_EQUALIZE. -/
def execEqEqualize (p : Fin 8) (k : Fin 2) (s : State) : Out := .next (s.runJob p (14 + k.val) [1] (eqJob p))
/-- EQ_DEMAP. -/
def execEqDemap (p : Fin 8) (k : Fin 2) (s : State) : Out := .next (s.runJob p (14 + k.val) [2] (eqJob p))

/-! Beam weight engine -/

def bwAnt (d : Desc) : Nat := bf d.a3 47 40
def bwNl (d : Desc) : Nat := bf d.a3 39 32

/-- Limits common to both operations (table Beam weight ARG fields). -/
def bwOk (d : Desc) : Bool :=
  !(d.inslot && d.nops == 0) && bf d.a0 60 33 == 0 && bf d.a0 31 0 == 0 && bf d.a2 63 40 == 0 && bf d.a3 7 0 == 0 &&
  decide (1 ≤ bwAnt d) && decide (bwAnt d ≤ 64) && decide (1 ≤ bwNl d) && decide (bwNl d ≤ 16)

/-! COMPUTE (R272): the precoders are computed exactly, as ratios with one common denominator for each matrix, and only stored values are
rounded (R260); the spec gives the engine no internal format (assumption 83: DESIGN CHOICE). -/

/-- A complex matrix of integers, by rows. -/
abbrev ZMat := List (List (Int × Int))
def ZMat.at_ (a : ZMat) (i j : Nat) : Int × Int := (a.getD i []).getD j (0, 0)
def ZMat.of (n m : Nat) (f : Nat → Nat → Int × Int) : ZMat := (List.range n).map (fun i => (List.range m).map (f i))
def zMul (a b : Int × Int) : Int × Int := (a.1 * b.1 - a.2 * b.2, a.1 * b.2 + a.2 * b.1)
def zSum (l : List (Int × Int)) : Int × Int := ((l.map (·.1)).sum, (l.map (·.2)).sum)
def ZMat.mul (a b : ZMat) (n k m : Nat) : ZMat := ZMat.of n m (fun i j => zSum ((List.range k).map (fun l => zMul (a.at_ i l) (b.at_ l j))))
def ZMat.herm (a : ZMat) (n m : Nat) : ZMat := ZMat.of m n (fun i j => ((a.at_ j i).1, -(a.at_ j i).2))

/-- A determinant by expansion along the first row, of a matrix of so many rows. -/
def zDet : Nat → ZMat → Int × Int
  | 0, _ => (1, 0)
  | n + 1, a =>
    let top := a.headD []
    zSum ((top.zipIdx).map (fun q =>
      let m := zMul q.1 (zDet n ((a.drop 1).map (fun r => r.eraseIdx q.2)))
      if q.2 % 2 = 0 then m else (-m.1, -m.2)))
/-- The adjugate of an n × n matrix. -/
def zAdj (n : Nat) (a : ZMat) : ZMat :=
  ZMat.of n n (fun i j =>
    let d := zDet (n - 1) ((a.eraseIdx j).map (fun r => r.eraseIdx i))
    if (i + j) % 2 = 0 then d else (-d.1, -d.2))

/-- H (Hᴴ H + αI)⁻¹ up to a positive factor, which NORM removes: Hᴴ H is multiplied by 256 × NL to hold α whole; none where the matrix
has no inverse. -/
def bwDirection (na nl alpha : Nat) (h : ZMat) : Option ZMat :=
  let g := ZMat.mul (h.herm na nl) h nl na nl
  let tr := ((List.range nl).map (fun i => (g.at_ i i).1)).sum
  let a := ZMat.of nl nl (fun i j =>
    ((g.at_ i j).1 * (256 * nl : Nat) + (if i = j then (alpha : Int) * tr else 0), (g.at_ i j).2 * (256 * nl : Nat)))
  if (zDet nl a).1 ≤ 0 then none else some (ZMat.mul h (zAdj nl a) na nl nl)

def zNorm (z : Int × Int) : Nat := z.1.natAbs ^ 2 + z.2.natAbs ^ 2

/-- The squared length that each column of a precoder is divided by: its own with NORM 0, that of the largest antenna row with NORM 1. -/
def bwScale (na nl norm : Nat) (w : ZMat) (l : Nat) : Nat :=
  if norm = 0 then ((List.range na).map (fun a => zNorm (w.at_ a l))).sum
  else maxOf ((List.range na).map (fun a => ((List.range nl).map (fun l => zNorm (w.at_ a l))).sum))

/-- floor(x × 2^n / √m). -/
def rootDiv (x : Int) (n : Int) (m : Nat) : Int :=
  let num := x.natAbs ^ 2 * 4 ^ n.toNat
  let den := m * 4 ^ (-n).toNat
  let r := (num / den).sqrt
  if 0 ≤ x then r else -(if r * r * den < num then r + 1 else r : Nat)

/-- A group's weights, in the order of the layout, and its exponent: the least S8 for which no component clamps (R272). -/
def bwGroup (na nl norm : Nat) (w : ZMat) : List Nat × Int :=
  let comps := fun (e : Int) => (List.range nl).flatMap (fun l => (List.range na).map (fun a =>
    let m := bwScale na nl norm w l
    (rootDiv (w.at_ a l).1 (15 - e) m, rootDiv (w.at_ a l).2 (15 - e) m)))
  let fits := fun (e : Int) => (comps e).all (fun c => clampS 16 c.1 == c.1 && clampS 16 c.2 == c.2)
  let e := (((List.range 256).map (fun (i : Nat) => (i : Int) - 128)).find? fits).getD 127
  ((comps e).map (fun c => packC c.1 c.2), e)

/-- COMPUTE (R272). A group whose matrix has no inverse, or a column of length zero, has weights that the spec does not state: free. -/
def bwCompute (p : Fin 8) (x : Run) (e : Entry) : Run × Nat × Nat × Nat :=
  let d := e.desc
  let ng := d.bins
  if !(bwOk d) ∨ ng = 0 ∨ 275 < ng ∨ bf d.a1 63 40 ≠ 0 ∨ 1 < bf d.a3 15 8 then x.param
  else
    let na := bwAnt d
    let nl := bwNl d
    let n := nl * na
    let (x, bs) := x.read p e.input (4 * ng * n)
    if x.bad ≠ 0 then (x, 0, 0, 256)
    else
      let hs := (samplesOf bs).toArray
      let gs := (List.range ng).map (fun g =>
        let key := d.a3.toNat :: g :: ((List.range n).map (fun i => hs.getD (g * n + i) 0))
        let h := ZMat.of na nl (fun a l => let c := hs.getD ((g * nl + l) * na + a) 0; (reOf c, imOf c))
        match bwDirection na nl (bf d.a3 31 16) h with
        | some w =>
          if (List.range nl).all (fun l => bwScale na nl (bf d.a3 15 8) w l != 0) then bwGroup na nl (bf d.a3 15 8) w
          else ((List.range n).map (fun i => Config.accelValue (8 :: i :: key) % 2 ^ 32), sgn 8 (Config.accelValue (9 :: key) % 256))
        | none => ((List.range n).map (fun i => Config.accelValue (8 :: i :: key) % 2 ^ 32), sgn 8 (Config.accelValue (9 :: key) % 256)))
      let out := sampleBytes (gs.flatMap (·.1)) ++ gs.map (fun g => BitVec.ofInt 8 g.2)
      (x.write p d.out out, 0, 0, 256 + ng * (cdiv (na * nl * nl) 8 + cdiv (nl * nl * nl) 4 + 256))

/-- BW_COMPUTE (R272). -/
def execBwCompute (p : Fin 8) (s : State) : Out := .next (s.runJob p 16 [0] (bwCompute p))

/-- One output of APPLY (R273): the sum over the layers of weight times input, scaled by 2^-sh. -/
def bwDot (sh : Nat) : List (Nat × Nat) → Int × Int
  | [] => (0, 0)
  | l =>
    let re := (l.map (fun q => reOf q.1 * reOf q.2 - imOf q.1 * imOf q.2)).sum
    let im := (l.map (fun q => reOf q.1 * imOf q.2 + imOf q.1 * reOf q.2)).sum
    (re / (2 ^ sh : Nat), im / (2 ^ sh : Nat))

/-- APPLY (R273). -/
def bwApply (p : Fin 8) (x : Run) (e : Entry) : Run × Nat × Nat × Nat :=
  let d := e.desc
  let k := d.bins
  let nsym := bf d.a3 31 24
  let gran := bf d.a3 23 20
  let shift := bf d.a3 19 16
  if !(bwOk d) ∨ k < 12 ∨ 3300 < k ∨ k % 12 ≠ 0 ∨ nsym = 0 ∨ 14 < nsym ∨ 3 < gran ∨ bf d.a3 15 8 ≠ 0 ∨ bf d.a1 63 40 % 64 ≠ 0 then
    x.param
  else
    let na := bwAnt d
    let nl := bwNl d
    let per := 12 * 2 ^ gran
    let ng := cdiv k per
    let (x, ws) := x.readPm p (bf d.a1 63 40) (4 * ng * nl * na + ng)
    let w := samplesOf (ws.take (4 * ng * nl * na))
    let ex := (ws.drop (4 * ng * nl * na)).map (fun b => sgn 8 b.toNat)
    let sh := fun g => 15 + (shift : Int) - ex.getD g 0
    if x.bad = 0 ∧ !((List.range ng).all (fun g => decide (0 ≤ sh g) && decide (sh g ≤ 47))) then x.param
    else
      let (x, bs) := x.read p e.input (4 * nsym * nl * k)
      if x.bad ≠ 0 then (x, 0, 0, 256)
      else
        let xs := samplesOf bs
        let ys := (List.range nsym).flatMap (fun s => (List.range na).flatMap (fun a => (List.range k).map (fun b =>
          let g := b / per
          bwDot (sh g).toNat ((List.range nl).map (fun l =>
            (w.getD ((g * nl + l) * na + a) 0, xs.getD ((s * nl + l) * k + b) 0))))))
        let sat := (ys.map (fun y => clampedC y.1 y.2)).sum
        (x.write p d.out (sampleBytes (ys.map (fun y => packC y.1 y.2))), min sat 65535, 0,
          256 + nsym * k * max (cdiv (na * nl) 128) (max (cdiv na 16) (cdiv nl 16)))

/-- BW_APPLY (R273). -/
def execBwApply (p : Fin 8) (s : State) : Out := .next (s.runJob p 16 [1] (bwApply p))

/-! Completion -/

/-- Operations of a unit (tables Coding operations and DFT operations, R265, R272). -/
def accelOps (k : Nat) : Nat :=
  if k < 6 then 2 else if k < 8 then 1 else if k = 8 then 3 else if k = 9 then 2 else if k < 14 then 4 else if k < 16 then 3 else 2

end Sys2Proof.Machine
end

