-- ==== Sys2Proof/Machine/Terrier.lean ====
section
/-! DEFINITION. Terrier.lean: Terrier's segments (R504, R506 to R509). -/
namespace Sys2Proof.Machine

/-- Whether a kind of segment is enabled (TER_CFG, TER_SCRATCH). -/
def State.segEnabled (s : State) (kind : Nat) : Bool :=
  if kind = skTile then s.flag Key.terCfg 62
  else if kind = skMem then s.flag Key.terCfg 61
  else s.flag Key.terCfg 60 && s.flag Key.terScratch 31

/-- Whether any group of a unit, or the unit, is under retest (R504). -/
def State.retested (s : State) (u : Nat) : Bool := s.retests.any (fun v => unitUnder v u)

/-- The descriptor of a TILE segment (R507): class U3, TER_KIND, targeted at one tile; its arguments are not given. -/
def State.terDesc (s : State) (t : Nat) : Desc × State :=
  let (a, s) := s.draw
  let (b, s) := s.draw
  (⟨w64 (s.fld Key.terCfg 31 20 * 2 ^ 52 + 3 * 2 ^ 50), w64 (t * 2 ^ 52 + a % 2 ^ 32), 0, w64 b, w64 (Config.freeValue (b + 1)),
    w64 (Config.freeValue (b + 2)), w64 (Config.freeValue (b + 3)), w64 (Config.freeValue (b + 4))⟩, s)

/-- Whether a segment can start now. -/
def State.segMay (s : State) (g : Nat) (x : SegPlace) : Bool :=
  s.segEnabled x.kind && (s.inService x.unit || s.retested x.unit) && (s.un x.unit).released &&
  match x.kind with
  | 0 => s.mayAllocate g 3
  | 1 => decide (8 ≤ g) || s.packUp g
  | _ => s.packUp g && s.accelReady x.unit && !((s.kn g).used.any (fun e => e.2.st == .ready && e.2.desc.target == x.unit))

/-- The first segment that can start, from a position on. -/
def State.nextSeg (s : State) (g : Nat) : Nat → Nat → Option Nat
  | 0, _ => none
  | n + 1, i => if s.segMay g (segAt g i) then some i else s.nextSeg g n (i + 1)

/-- A segment starts. -/
def State.segStart (s : State) (g i : Nat) : State :=
  let x := segAt g i
  let s := { s with walkRaw := tput s.walkRaw (32 + g) s.raw.toNat }
  match x.kind with
  | 0 =>
    let (d, s) := s.terDesc x.unit
    let (s, e) := (s.wakePack g).allocate g d ((s.partOfPack g).getD 8) none
    ({ s with segment := tput s.segment g ⟨skTile, x.unit, none, e⟩ }).readyIf g e
  | 1 => { s with segment := tput s.segment g ⟨skMem, i, none, 0⟩ }
  | _ =>
    let (a, s) := s.draw
    let s := s.store (pmAddr g (s.fld Key.terScratch 23 0)) ((Config.terrierData (x.unit - accUnit g 0) a).take 0x40000)
    { s with segment := tput s.segment g ⟨skAccel, x.unit, none, 0⟩ }

/-- The position of order g moves behind segment i; a pass ends where it comes round (`TER_Pp_STAT`). -/
def State.segMoved (s : State) (g i : Nat) (wrapped : Bool) : State :=
  let n := (i + 1) % segCount g
  let began := tget s.raw.toNat s.walkRaw (16 + g)
  let s := { s with segNext := tput s.segNext g n }
  let s := if wrapped ∨ (tfind s.walkRaw (16 + g)).isNone then { s with walkRaw := tput s.walkRaw (16 + g) s.raw.toNat } else s
  if 8 ≤ g then s
  else
    let s := s.setFld (Key.terPStat g) 31 16 n
    if wrapped then
      (s.incWrap (Key.terPStat g) 63 48 1).setFld (Key.terPStat g) 47 32 (min 65535 ((s.raw.toNat - began) / secTicks))
    else s

/-- Whether Terrier runs in this state of the device (R506). -/
def State.terRuns (s : State) : Bool := (s.dev == .run || s.dev == .hush) && s.fld Key.pwrThermStat 49 48 == 0

/-- TERRIER_SEGMENT_START (R506, R504): the segments placed at the head come first, those of a retest whatever the schedule. -/
def execTerrierSegmentStart (p : Fin 9) (s : State) : Out :=
  let g := p.val
  let head := tget [] s.segHead g
  let due := match tfind s.walkRaw (32 + g) with
    | some r => decide (s.fld Key.terCfg 47 32 * 12288 ≤ 25 * (s.raw.toNat - r))
    | none => true
  let idle := (tfind s.segment g).isNone && s.flag Key.terCfg 63
  let sched := due && s.terRuns
  .next (
    if idle then
      match head with
      | i :: r =>
        if s.retested (segAt g i).unit ∨ sched then
          let s := { s with segHead := tput s.segHead g r }
          if s.segMay g (segAt g i) then s.segStart g i else s
        else s
      | [] =>
        if sched then
          let n := segCount g
          let at_ := tget 0 s.segNext g
          match s.nextSeg g (n - at_) at_ with
          | some i => (s.segStart g i).segMoved g i false
          | none => (match s.nextSeg g at_ 0 with
            | some i => (s.segStart g i).segMoved g i true
            | none => s)
        else s
    else s)

/-- TERRIER_SIGNATURE_CHECK (R507, R509): after DONE of a TILE segment, the signature is compared with the root ROM's. -/
def execTerrierSignatureCheck (p : Fin 8) (s : State) : Out :=
  .next (match tfind s.segment p.val with
    | some ⟨0, u, some sig, _⟩ =>
      s.segEnd p.val u (if sig = Config.terrierSig then none else some 0) sig (s.flag Key.terCfg 59)
    | _ => s)

/-- A word of a block is handled as a fresh error (R508, R390): an IM word is re-fetched, a word of the shadow is rewritten from its
anchor, a Kennel word poisons the slots of its entry, every other is poisoned. -/
def State.terLost (s : State) (cls unit addr : Nat) : State :=
  if cls = 0 then s.startRefetch (addr / 8) 19
  else if 4 ≤ cls then s.meetInner ⟨BitVec.ofNat 4 cls, BitVec.ofNat 10 unit, BitVec.ofNat 40 addr, true, 0⟩
  else s.poisonWord (addr / 8)

/-- What a step of a MEM segment finds at a bit of a block (R509): 3 retests, of which `again` fail too. -/
def State.memFinding (s : State) (unit cls addr bitNo again : Nat) : State × Bool :=
  let w := w64 (2 ^ 62 + bitNo * 2 ^ 56 + addr)
  if s.poisoned (if cls ≤ 3 then addr else innerAddr cls unit addr) then (s, false)
  else if 2 ≤ again then
    if (s.un unit).retest then (s.retestFailed unit w 0, true)
    else
      let mapped := remapClasses.contains cls
      let s := s.terFail unit w 0 (s.flag Key.terCfg 58 && !mapped)
      (if mapped then s.remapAdd cls unit addr else s, true)
  else (s.incSat (Key.terUStat unit) 15 0 1, false)

/-- TERRIER_MEM_STEP (R508, R509): one 64-byte block of the MEM segment under way. Its data are as before afterwards, but for a word
that does not read back. -/
def execTerrierMemStep (p : Fin 9) (bad : Option (BitVec 9)) (again : Fin 4) (lost : Option (Fin 8)) (s : State) : Out :=
  let g := p.val
  .next (match tfind s.segment g with
    | some ⟨1, i, sig, n⟩ =>
      let x := segAt g i
      let a := x.addr + 64 * n
      if !(s.terRuns || s.retested x.unit) then s else
      let s := if x.cls ≤ 3 then s.flushOver 19 a 64 else s
      let (s, failed) := match bad with
        | some b => s.memFinding x.unit x.cls (a + b.toNat / 64 * 8) (b.toNat % 64) again.val
        | none => (s, false)
      let s := match lost with
        | some w => if x.cls ≤ 3 ∧ s.poisoned (a + 8 * w.val) then s else s.terLost x.cls x.unit (a + 8 * w.val)
        | none => s
      let sig := if failed then some 0 else sig
      if n + 1 < 64 then { s with segment := tput s.segment g ⟨skMem, i, sig, n + 1⟩ }
      else if sig.isSome then { s with segment := tdel s.segment g }
      else s.segEnd g x.unit none 0 false
    | _ => s)

/-- TERRIER_RUN (R506). -/
def execTerrierRun (rq : Requester) (u : Fin 1024) (s : State) : Out :=
  .next (match s.checkWrite rq (Key.terRun u.val) 1 with
    | .ok => if hasSegments u.val then (s.terRunUnit u.val).status .ok else s.status .range
    | e => s.status e)

/-- The end of an ACCEL segment: its output's CRC is compared; what the unit answers to the ROM's vectors is free. -/
def State.accelSegment (s : State) (p k : Nat) : State :=
  let (a, s) := s.draw
  let (c, s) := s.drawBelow 2
  let s := s.store (pmAddr p (s.fld Key.terScratch 23 0)) ((Config.terrierData k a).take 0x40000)
  s.segEnd p (accUnit p k) (if c = 0 then none else some (w64 (2 ^ 63 + 2 ^ 49))) 0 (s.flag Key.terCfg 59)

/-- ACCEL_JOB_COMPLETE (R256): the job's completion token goes out, then its task retires. A job whose OP the unit does not have
ends PARAM. An ACCEL segment that the unit runs for Terrier ends (R509). -/
def execAccelJobComplete (p : Fin 8) (k : Fin 17) (s : State) : Out :=
  .next (match tfind s.job (jobKey p.val k.val) with
    | some j => s.finishJob p k j ksDone
    | none =>
      if (match tfind s.segment p.val with | some g => g.kind == skAccel && g.unit == accUnit p.val k.val | none => false) then
        s.accelSegment p.val k.val
      else
      match s.taskOn (accUnit p.val k.val) with
      | some (q, i) =>
        if accelOps k.val ≤ (s.entry q i).desc.op then s.finishJob p k ⟨q, i, jsParam, 0, false, 0, 0⟩ ksDone else s
      | none => s)

end Sys2Proof.Machine
end

