-- ==== Sys2Proof/Machine/DictWrite.lean ====
section
/-!
DEFINITION. DictWrite.lean: what an accepted write of a dictionary entry does (R413 to R417, R436 and the rules of the objects' own
chapters), and the write of an entry by a requester.
-/
namespace Sys2Proof.Machine

/-- The place i as an index below n, with the state of f there. -/
def State.within (s : State) (n i : Nat) (f : Fin n → State) : State :=
  match finAt n i with
  | some x => f x
  | none => s.status .noObject

/-- The entry takes what the write leaves of it (R7, R413). -/
def State.plainWrite (s : State) (r : Row) (k : Nat) (v : U64) : State := (s.setEnt k (mergeFlds r.flds (s.ent k) v)).status .ok

/-- A write while EN (the entry's bit i, set) is refused with BUSY unless it leaves every other field. -/
def State.enWrite (s : State) (r : Row) (k i : Nat) (v : U64) : State :=
  if s.flag k i ∧ setBit (s.ent k) i false ≠ setBit v i false then s.status .busy else s.plainWrite r k v

/-- `LN_Ln_PRBS`: a checker that starts, stops or takes another pattern has not locked (R350). -/
def State.prbsWrite (s : State) (r : Row) (k : Nat) (v : U64) : State :=
  let o := s.ent k
  let s := s.plainWrite r k v
  if bit o 30 = bit v 30 ∧ bf o 2 0 = bf v 2 0 then s else s.setFlag k 29 false

/-- `MEM_HBM_REGION`: OWNER, BASE and SIZE are checked in a write that sets EN (R185). -/
def regionOk (v : U64) : Bool :=
  !(bit v 63) || ((decide (bf v 61 58 ≤ 7) || bf v 61 58 == 15) && decide (1 ≤ bf v 15 0) && decide (bf v 31 16 + bf v 15 0 ≤ 6144))

/-- A write of a class N entry enters the requester's staging set (R436). -/
def State.stage (s : State) (rq : Requester) (k : Nat) (v : U64) : State :=
  let key := slotKey rq k
  let mine := s.staging.filter (fun e => e.1 / 2 ^ 32 == rqSlot rq)
  if 256 ≤ mine.length ∧ (tfind s.staging key).isNone then s.status .full
  else { s with staging := tput s.staging key v }.status .ok

/-- A write of the second slot of `OD_IP6` stages both slots, the first as held (R415). -/
def State.stageIp6 (s : State) (rq : Requester) (v : U64) : State :=
  let h := slotKey rq (Key.odIp6 0)
  let b := { s with hold := tdel s.hold h }
  let t := match tfind s.hold h with
    | some x => b.stage rq (Key.odIp6 0) x
    | none => b.status .ok
  let u := t.stage rq (Key.odIp6 1) v
  if t.reply = .status .ok ∧ u.reply = .status .ok then u else b.status .full

/-- GO of `OD_COMMIT` or an Enber COMMIT: the requester's staging set is copied and the COMMIT waits its turn (R436). -/
def State.commitAsk (s : State) (slot : Nat) (msg : Option (BitVec 32 × Nat)) : State :=
  if 8 ≤ s.commits.length then s.status .busy
  else
    let snap := (s.staging.filter (fun e => e.1 / 2 ^ 32 == slot)).map (fun e => (e.1 % 2 ^ 32, e.2))
    { s with commits := s.commits ++ [(⟨slot, snap, msg⟩ : Commit)] }.status .ok

/-- A write of `OD_TOKEN_CTL` (R435): the check of the bytes in `OD_TOKEN_BUF` starts. -/
def State.tokenAsk (s : State) (slot : Nat) (v : U64) : State :=
  let k := slot * 2 ^ 32 + Key.odTokenCtl
  if bit (tget 0 s.bank k) 63 then s.status .busy
  else { s with bank := tput s.bank k (w64 (2 ^ 63 + bf v 15 0)) }.status .ok

/-- A write of the control word or a row of a live table. -/
def State.liveWrite (s : State) (o : ObjId) (ix : List Nat) (v : U64) : State :=
  match tableOf o (ix.getD 0 0) with
  | none => s.status .noObject
  | some t =>
    match o with
    | .knPlanCtl | .gclCtl | .hndCtl | .ttCtl => s.liveCtlWrite t v
    | _ =>
      let p := rowPlace t ix
      if ix.getD 1 0 = 0 then s.directWrite t p.1 p.2 v else s.stagedWrite t p.1 p.2 v

/-- What a write does that its right, its owner and its range allow: the entry's own rules, or a plain write. -/
def State.ruleWrite (s : State) (rq : Requester) (r : Row) (ix : List Nat) (k : Nat) (v : U64) : State :=
  let i := ix.getD 0 0
  let j := ix.getD 1 0
  match r.id with
  | .knPlanCtl | .gclCtl | .hndCtl | .ttCtl | .knPlanRow | .gclRow | .hndRow | .ttRow => s.liveWrite r.id ix v
  | .odDefaulted => (s.setEnt k (s.ent k &&& ~~~v)).status .ok
  | .odCtl => s.odCtlWrite i (bf v 1 0)
  | .odCommit => if bit v 63 then s.commitAsk (rqSlot rq) none else s.status .ok
  | .odTokenCtl => s.tokenAsk (rqSlot rq) v
  | .rstDeviceCtl => s.deviceCtl (bf v 1 0)
  | .rstPtCtl => s.ptCtl i (bf v 1 0)
  | .rstPtStat => s.readyWrite rq i v
  | .pwrReq => s.pwrReqWrite i v
  | .pwrVote => s.voteWrite i v
  | .pwrThermCfg =>
    if bf v 55 48 ≤ 120 ∧ 60 ≤ bf v 63 56 ∧ bf v 63 56 < bf v 55 48 then s.plainWrite r k v else s.status .range
  | .tbIncrement => (s.register (.rate v)).status .ok
  | .tbStep => (s.register (.step v)).status .ok
  | .tbOffset =>
    let h := slotKey rq (Key.tbOffset 0)
    if i = 0 then { s with hold := tput s.hold h v }.status .ok
    else ({ s with hold := tdel s.hold h }.register (.offset (tfind s.hold h) v)).status .ok
  | .clkSynceOut =>
    let t := s.plainWrite r k v
    { t with synceLow := tput t.synceLow i (!(t.cdrLocked (t.fld k 6 0))) }
  | .ttOwner => s.within 64 i (fun u => (if v = s.ent k then s else (s.ttDefaultK u).setEnt k v).status .ok)
  | .ttCfg => s.within 64 i (fun u => s.ttCfgWrite u v)
  | .ttStart => s.within 64 i (fun u => s.ttTiming u (if j = 0 then 0 else 1) v)
  | .ttPeriod => s.within 64 i (fun u => s.ttTiming u 2 v)
  | .pxCtl => s.pxCtlWrite i v
  | .memHbmRegion => if regionOk v then s.plainWrite r k v else s.status .range
  | .lshFlags => (s.plainWrite r k v).leashIrq
  | .lshIrqCore => ((s.setIrq .leash (s.entN k) false).plainWrite r k v).leashIrq
  | .dmaCfg => s.within 272 i (fun n => s.dmaCfgWrite n v)
  | .dmaResume => s.within 272 i (fun n => s.dmaResume n (bf v 63 62) (bf v 31 0))
  | .dmaDoorbell => s.within 272 i (fun n => (s.doorbell n).status .ok)
  | .epClassClear => (s.emptyLog i).status .ok
  | .hndCfg =>
    if 0x1000000 < bf v 47 24 + 16 * (bf v 15 8 * 4096) then s.status .range else s.enWrite r k 0 v
  | .hndVerdict => s.within 8 i (fun e => s.verdictWrite e v)
  | .knPlanCfg => s.enWrite r k 63 v
  | .txCfg => s.txCfgWrite i v
  | .txRampTab | .txTdd => if s.flag (Key.txCfg i) 63 then s.status .busy else s.plainWrite r k v
  | .flRingCfg => s.flRingCfgWrite i v
  | .flRingBase => s.flRingBaseWrite i v
  | .flTableBase | .flCtxBase | .flSeed => s.flBaseWrite k v
  | .flPool => s.flPoolWrite i v
  | .lnOCfg => s.lnOCfgWrite i v
  | .lnCfg => s.lnCfgWrite i v
  | .lnAn => s.lnAnWrite i v
  | .lnTest => s.lnTestWrite i v
  | .lnEyeCtl => s.eyeWrite i v
  | .lnSlip => s.slipWrite i v
  | .lnPrbs => s.prbsWrite r k v
  | .ethCfg => s.ethCfgWrite i v
  | .ethDly => s.dlyWrite i v
  | .gclCfg => s.within 128 i (fun m => s.gclCfgWrite m v)
  | .gclBase | .gclCycle => s.gclTimeWrite i k v
  | .ethVlan => s.vlanWrite i v
  | .ethVlanMember | .ethVlanUntag => s.vlanMacsWrite i k j v
  | .ethStr => s.strWrite i j v
  | .shdPet => (s.pet i).status .ok
  | .shdL4Cfg => if bf v 63 56 = bf (s.ent k) 63 56 ∧ bf v 49 48 = bf (s.ent k) 49 48 then s.plainWrite r k v else s.status .range
  | .terRun => if hasSegments i then (s.terRunUnit i).status .ok else s.status .range
  | .evrCursor => (s.evrCursor rq v).status .ok
  | .evrUserCtl => (s.evrUser rq v).status .ok
  | .prtCarriers => s.carriersWrite rq i v
  | .fwCtl => s.fwCtlWrite i (bf v 1 0)
  | .fwFlashCtl => s.flashWrite rq v
  | .secAttestCtl => s.attestWrite rq v
  | .hoCfg => s.hoCfgWrite i v
  | .hoOp => s.hoOpWrite rq i v
  | .gplGCfg => (s.gplGCfgWrite i v).status .ok
  | .gplRelayReq => s.relayWrite rq v
  | .pinGpioCfg => if bf v 63 62 = 3 ∧ 16 ≤ i then s.status .range else s.plainWrite r k v
  | .pinI2cXfer => s.i2cWriteXfer i v
  | _ => if r.banked then { s with bank := tput s.bank (slotKey rq k) v }.status .ok else s.plainWrite r k v

/-- A write that its right and its owner allow. -/
def State.applyWrite (s : State) (rq : Requester) (r : Row) (ix : List Nat) (k : Nat) (v : U64) : State :=
  if r.cls = .n then
    if r.id = .odIp6 then
      (if ix.getD 0 0 = 0 then { s with hold := tput s.hold (slotKey rq k) v }.status .ok else s.stageIp6 rq v)
    else if r.id = .fwCfg ∧ s.flag k 62 ∧ bit v 63 ≠ s.flag k 63 then s.status .busy
    else s.stage rq k (mergeFlds r.flds (s.ent k) v)
  else s.ruleWrite rq r ix k v

/-- Objects whose own rules judge the value, fields out of range and reserved bits among them. -/
def ownRange (o : ObjId) : Bool :=
  match o with
  | .knPlanCtl | .gclCtl | .hndCtl | .ttCtl | .lnOCfg | .lnTest | .lnSlip | .pinI2cXfer => true
  | _ => false

/-- A write of an entry by a requester that R537 lets only DST make: the CUT entries of a channel are not among these. -/
def State.writeOther (s : State) (rq : Requester) (k : Nat) (v : U64) : State :=
  if isDiag k then s.status .ok
  else match s.seen rq k with
    | none => s.status .noObject
    | some (r, ix) =>
      if 0x3000000 ≤ k ∧ k < 0x7000000 ∧ unitKind (ix.getD 0 0) = 0 then s.status .noObject
      else
        let st := if ownRange r.id then s.checkWho rq k v else s.checkWrite rq k v
        let s := if st = .range ∧ r.id = .tbOffset ∧ ix.getD 0 0 = 1 then { s with hold := tdel s.hold (slotKey rq (Key.tbOffset 0)) } else s
        if st = .ok then s.applyWrite rq r ix k v else s.status st

/-! The CUT entries of a handover (R537, R539) -/

/-- The state as if DST owned carrier c and every EN that refuses writes of its objects were clear. -/
def State.asDst (s : State) (c dst k : Nat) : State :=
  let s := s.setFld (Key.prtCarriers (c / 8)) (8 * (c % 8) + 7) (8 * (c % 8)) dst
  let s := (s.setFlag (Key.txCfg c) 63 false).setFlag (Key.knPlanCfg c) 63 false
  match lookupObj k with
  | some (r, ix) => if r.id = .ethStr then s.setFlag (Key.ethStr (ix.getD 0 0) 0) 63 false else s
  | none => s

/-- Whether an entry lies in carrier c's block or is a word of a stream entry of the carrier. -/
def State.cutTarget (s : State) (c k : Nat) (v : U64) : Bool :=
  carrierOfKey k == some c ||
    (match lookupObj k with
      | some (r, ix) => r.id == .ethStr && (s.fld (Key.ethStr (ix.getD 0 0) 0) 52 44 == c || (ix.getD 1 0 == 0 && bf v 52 44 == c))
      | none => false)

/-- Whether a CUT entry passes: its write would be accepted of DST. -/
def State.cutOk (s : State) (n : Nat) (a v : U64) : Bool :=
  let k := bf a 31 0
  let c := s.hoCarrier n
  !(bit a 63) || (s.cutTarget c k v &&
    (match finAt 8 (s.hoDst n) with
      | some d => ((s.asDst c d.val k).writeOther (.relay (some d)) k v).reply == .status .ok
      | none => false))

/-- A write of a CUT entry's address word or value (R537): by DST, in PAIRED, RANGE where the write it names would fail. -/
def State.hoCutWrite (s : State) (rq : Requester) (n j : Nat) (v : U64) : State :=
  let k := Key.hoCut n j
  let a := if j % 2 = 0 then v else s.ent (Key.hoCut n (j - 1))
  let x := if j % 2 = 0 then s.ent (Key.hoCut n (j + 1)) else v
  if s.rqPart rq ≠ some (s.hoDst n) then s.status .access
  else if s.hoState n ≠ hsPaired then s.status .busy
  else if (j % 2 = 0 ∧ bf v 62 32 ≠ 0) ∨ !(s.cutOk n a x) then s.status .range
  else (s.setEnt k v).status .ok

/-- A write of an entry by a requester: its answer is the status. -/
def State.writeEntry (s : State) (rq : Requester) (k : Nat) (v : U64) : State :=
  match s.seen rq k with
  | some (r, ix) =>
    if r.id = .hoCut then
      (match s.checkWho rq k v with
        | .ok => s.hoCutWrite rq (ix.getD 0 0) (ix.getD 1 0) v
        | e => s.status e)
    else s.writeOther rq k v
  | none => s.writeOther rq k v

/-- OBJECT_WRITE (R413). -/
def execObjectWrite (rq : Requester) (o : Obj) (v : U64) (s : State) : Out := .next (s.writeEntry rq (objKey o) v)

/-! The memory window (R184) -/

/-- The entry at an address of the window, for an aligned 64-bit access. -/
def windowKey (a : Addr) (bytes : Nat) : Option Nat :=
  if a.toNat % 8 = 0 ∧ bytes = 8 ∧ 0xF000000000 ≤ a.toNat ∧ a.toNat < 0xF800000000 then some ((a.toNat - 0xF000000000) / 8) else none

/-- DICT_WINDOW_LOAD (R184): an undefined or write-only entry reads zero; another width or alignment is an access fault. -/
def execDictWindowLoad (c : Fin 16) (m : PrivMode) (a : Addr) (bytes : Nat) (s : State) : Out :=
  .next (
    if s.coreRuns c.val then
      match windowKey a bytes with
      | some k => let (v, s) := s.readEntry c.val k true; s.answer (.value v)
      | none => (s.accessFault (.core c m) a.toNat).answer .fault
    else s)

/-- DICT_WINDOW_STORE (R184): a store that is refused has no effect. -/
def execDictWindowStore (c : Fin 16) (m : PrivMode) (a : Addr) (bytes : Nat) (v : U64) (s : State) : Out :=
  .next (
    if s.coreRuns c.val then
      match windowKey a bytes with
      | some k => s.writeEntry (.core c m) k v
      | none => (s.accessFault (.core c m) a.toNat).answer .fault
    else s)

/-- COMMIT_GO (R436). -/
def execCommitGo (c : Fin 16) (m : PrivMode) (v : U64) (s : State) : Out := .next (s.writeEntry (.core c m) Key.odCommit v)

/-- TOKEN_CTL_WRITE (R435). -/
def execTokenCtlWrite (c : Fin 16) (m : PrivMode) (v : U64) (s : State) : Out := .next (s.writeEntry (.core c m) Key.odTokenCtl v)

end Sys2Proof.Machine
end

