-- ==== Sys2Proof/Machine/CommitCore.lean ====
section
/-!
DEFINITION. CommitCore.lean: what follows when class N entries take new values (R22, R23, R408, R518, R530), and the checks of a
COMMIT (R437, R518, R519).
-/
namespace Sys2Proof.Machine

/-- Whether partition p's units differ between two states. -/
def assignDiffers (b s : State) (p : Nat) : Bool :=
  s.ent (Key.prtPacks p) != b.ent (Key.prtPacks p) || s.ent (Key.prtCores p) != b.ent (Key.prtCores p) ||
    s.ent (Key.prtMacs p 0) != b.ent (Key.prtMacs p 0) || s.ent (Key.prtMacs p 1) != b.ent (Key.prtMacs p 1)

/-- Units that belong to a partition in state b and to none in s, and need one (R23). -/
def lostUnits (b s : State) : List Nat :=
  allUnits.filter (fun u => (unitKind u == 5 || unitKind u == 7 || (unitPack u).isSome) && (b.partOfUnit u).isSome && (s.partOfUnit u).isNone)

/-- An assignment in force since state b: a record for each partition changed (R518, R554); units left without a partition are held
in reset, their packs in P3 (R23); packs that a partition takes leave the P3 of R23. -/
def State.assignSince (s b : State) : State :=
  let ps := (List.range 8).filter (assignDiffers b s)
  if ps.isEmpty then s
  else
    let s := ps.foldl (fun s p => s.record 0xB4
      [w64 p, s.ent (Key.prtPacks p), s.ent (Key.prtCores p), s.ent (Key.prtMacs p 0), s.ent (Key.prtMacs p 1)]) s
    let us := lostUnits b s
    let s := if us.isEmpty then s else s.absent us
    (List.range 8).foldl (fun s q =>
      match b.partOfPack q, s.partOfPack q with
      | some _, none => { s.packDown q 3 with packReq := tput s.packReq q 3 }
      | none, some _ =>
        if (s.un (packUnit q)).fenced || s.dev == .hold then s
        else { s with packPower := tput s.packPower q 0, packReq := tdel s.packReq q }
      | _, _ => s) s

/-- The firmware keys changed since state b, each with its record: the token's COUNTER, 0 without a token (R530). -/
def State.keysSince (s b : State) (counter : U64) : State :=
  (List.range 4).foldl (fun s n =>
    if (List.range 8).all (fun i => s.ent (Key.secFwKey n i) == b.ent (Key.secFwKey n i)) then s
    else s.record 0xB3 [w64 (Key.secFwKey n 0), counter]) s

/-- What follows from N entries in force that were not in state b. -/
def State.forceSince (s b : State) (counter : U64) : State := (s.assignSince b).keysSince b counter

/-! The checks of R518 and R519 -/

/-- Whether two of the words share a bit, the words of list being pairwise apart from what has been used. -/
def apart : List U64 → Bool
  | [] => true
  | x :: r => r.all (fun y => x &&& y == 0) && apart r

/-- Whether two regions of 16 MiB units overlap: BASE and SIZE as in `PRT_PTp_HBM`. -/
def regionsApart : List U64 → Bool
  | [] => true
  | x :: r => r.all (fun y => decide (bf x 31 16 + bf x 15 0 ≤ bf y 31 16) || decide (bf y 31 16 + bf y 15 0 ≤ bf x 31 16)) && regionsApart r

/-- Whether partition p has units. -/
def State.hasUnits (s : State) (p : Nat) : Bool :=
  s.ent (Key.prtPacks p) != 0 || s.ent (Key.prtCores p) != 0 || s.ent (Key.prtMacs p 0) != 0 || s.ent (Key.prtMacs p 1) != 0

/-- R22: whole packs, at least one pack and one control core, no unit in two partitions. -/
def State.assignOk (s : State) : Bool :=
  (List.range 8).all (fun p => !(s.hasUnits p) || (s.ent (Key.prtPacks p) != 0 && s.ent (Key.prtCores p) != 0)) &&
  apart ((List.range 8).map (fun p => s.ent (Key.prtPacks p))) && apart ((List.range 8).map (fun p => s.ent (Key.prtCores p))) &&
  apart ((List.range 8).map (fun p => s.ent (Key.prtMacs p 0))) && apart ((List.range 8).map (fun p => s.ent (Key.prtMacs p 1)))

/-- R519: the boot regions of partitions with units are not empty and do not overlap. -/
def State.bootRegionsOk (s : State) : Bool :=
  let rs := ((List.range 8).filter s.hasUnits).map (fun p => s.ent (Key.prtHbm p))
  rs.all (fun x => bf x 15 0 != 0) && regionsApart rs

/-- Whether a list of new values carries an assignment or a boot region. -/
def touchesAssign (es : Tab U64) : Bool :=
  es.any (fun e => decide (Key.prtPacks 0 ≤ e.1) && decide (e.1 < Key.prtPacks 8) && decide (e.1 % 256 ≤ 4))

/-- The refusals of a COMMIT of new values (R518, R437), from the state in which they would be in force. -/
def State.commitStatus (s : State) (es : Tab U64) : Status :=
  let t := es.foldl (fun t e => t.setEnt e.1 e.2) s
  if touchesAssign es ∧ !(t.assignOk && t.bootRegionsOk) then .range
  else if (List.range 8).any (fun p => assignDiffers s t p && s.holdsFw p) then .busy
  else if 16384 < (imageWith s.nvNow.entries es).length then .full
  else .ok

/-- The copy that a COMMIT writes first is B: A is valid, and B is invalid or the older one (R437). -/
def State.nvFirstB (s : State) : Bool :=
  s.nvA.valid && (!s.nvB.valid || decide (0 < (s.nvA.gen - s.nvB.gen).toNat && (s.nvA.gen - s.nvB.gen).toNat < 2 ^ 31))

/-- Whether the supply was lost before both copies were written: no one is answered (R438). -/
def supplyLost (r : MramResult) : Bool := r == .lostInFirst || r == .lostInSecond
/-- Whether the first copy was verified, so that the new values are in force (R437). -/
def inForce (r : MramResult) : Bool := r != .firstFails && r != .lostInFirst

/-- New values come into force with the first copy's new image; what the verify of the copies found decides the other copy (R437). -/
def State.commitWrite (s : State) (es : Tab U64) (r : MramResult) (counter : U64) : State :=
  let b := s
  let c : NvCopy := ⟨true, s.nvNow.gen + 1, imageWith s.nvNow.entries es⟩
  let bad : NvCopy := ⟨false, 0, []⟩
  let into := fun (x y : NvCopy) => if b.nvFirstB then { s with nvB := x, nvA := y } else { s with nvA := x, nvB := y }
  match r with
  | .firstFails | .lostInFirst => into bad (if b.nvFirstB then s.nvA else s.nvB)
  | .firstOnly | .lostInSecond => (es.foldl (fun s e => s.setEnt e.1 e.2) (into c bad)).forceSince b counter
  | .bothGood => (es.foldl (fun s e => s.setEnt e.1 e.2) (into c c)).forceSince b counter

end Sys2Proof.Machine
end

