-- ==== Sys2Proof/Machine/Handover.lean ====
section
/-! DEFINITION. Handover.lean: the cut of a handover (R539), and an access that a Gelpel member relays (R553). -/
namespace Sys2Proof.Machine

/-- A bit map of MACs with those of MACS of channel n set or cleared. -/
def State.macMap (s : State) (n p half : Nat) (inIt : Bool) : U64 :=
  let v := s.ent (Key.prtMacs p half)
  let m := s.ent (Key.hoMacs n half)
  if inIt then v ||| m else v &&& ~~~m

/-- Step 1 (R539): the carrier and the MACs of channel n move to DST; the MAC assignment is a commit of the device's own. -/
def State.cutOwner (s : State) (n : Nat) : State :=
  let c := s.hoCarrier n
  let src := s.hoSrc n
  let dst := s.hoDst n
  let b := s
  let s := s.setFld (Key.prtCarriers (c / 8)) (8 * (c % 8) + 7) (8 * (c % 8)) dst
  if s.ent (Key.hoMacs n 0) = 0 ∧ s.ent (Key.hoMacs n 1) = 0 then s
  else
    let es := (List.range 2).flatMap (fun h => [(Key.prtMacs src h, s.macMap n src h false), (Key.prtMacs dst h, s.macMap n dst h true)])
    let s := (List.range 128).foldl (fun s m => if s.hoMac n m then s.setEntN (Key.ethOwner m) dst else s) s
    (s.ownCommit es).assignSince b

/-- A CUT entry is applied without the BUSY refusals (R539). -/
def State.cutApply (s : State) (dst : Fin 8) (k : Nat) (v : U64) : State :=
  let t := s.writeOther (.relay (some dst)) k v
  if t.reply = .status .busy then
    match lookupObj k with
    | some (r, _) => s.setEnt k (mergeFlds r.flds (s.ent k) v)
    | none => s
  else t

/-- Step 2 (R539): the CUT entries in their order. -/
def State.cutEntries (s : State) (n : Nat) : State :=
  match finAt 8 (s.hoDst n) with
  | none => s
  | some d => (List.range 64).foldl (fun s i =>
      let a := s.ent (Key.hoCut n (2 * i))
      if bit a 63 then s.cutApply d (bf a 31 0) (s.ent (Key.hoCut n (2 * i + 1))) else s) s

/-- Step 4 (R539): the OWNER of every REGIONS entry becomes DST. -/
def State.cutRegions (s : State) (n : Nat) : State :=
  (List.range 64).foldl (fun s e => if s.flag (Key.hoRegions n) e then s.setFld (Key.memHbmRegion e) 61 58 (s.hoDst n) else s) s

/-- The cut (R539), then DRAIN (R541). -/
def State.hoCutNow (s : State) (n : Nat) : State :=
  let c := s.hoCarrier n
  let s := (s.cutOwner n).cutEntries n
  let s := match planOf c with | some t => s.liveSwapNow t (tget 0 s.hoT n) | none => s
  let s := s.cutRegions n
  let s := (s.reownCarrier c (s.hoDst n)).1
  (s.setCar c { s.car c with moved := true }).setHo n hsDrain 0

/-- HO_CUT (R539): an ARMED handover reaches its cut instant. Checks of T − 1 ms that are still due come first, of every
channel (R538). -/
def execHoCut (n : Fin 16) (s : State) : Out :=
  let s := (List.range 16).foldl State.hoPrecheck s
  .next (if s.hoState n.val = hsArmed ∧ tget 0 s.hoT n.val ≤ s.now then { s.hoCutNow n.val with reply := s.reply } else s)

/-! Relayed accesses (R553) -/

/-- Codes of the statuses (table Status codes). -/
def Status.code : Status → Nat
  | .ok => 0 | .noObject => 1 | .access => 2 | .range => 3 | .busy => 4 | .token => 5 | .dialect => 6 | .session => 7
  | .full => 8 | .malformed => 9 | .nvFail => 10 | .auth => 11

/-- The status and the value that a state's reply gives. -/
def Reply.statusValue : Reply → Status × U64
  | .status st => (st, 0)
  | .value v => (.ok, v)
  | _ => (.ok, 0)

/-- The role of a relayed access: the partition paired with the requester's, else a reader (R553). -/
def State.relayRq (s : State) (g : Nat) (part : Fin 8) : Requester :=
  .relay ((s.gplLocal g part.val).bind (finAt 8))

/-- A relayed READ or WRITE, answered on VC1 with its status and value. -/
def State.relayServe (s : State) (g : Nat) (part : Fin 8) (write : Bool) (o : Obj) (v : U64) : State :=
  let rq := s.relayRq g part
  let s := if write then s.writeEntry rq (objKey o) v else s.readBy rq (objKey o)
  let (st, x) := s.reply.statusValue
  s.sendMsg g true (messageOf 8 15 (w64 st.code) [x])

/-- GPL_RELAY (R553): a request of the member is served, or the answer to ours arrives. -/
def execGplRelay (g : Fin 4) (m : RelayMsg) (s : State) : Out :=
  .next (
    if s.gplState g.val ≠ gpUp then s
    else match m with
      | .request part write o v => s.relayServe g.val part write o v
      | .answer st v => s.relayAnswer g.val st v)

end Sys2Proof.Machine
end

