-- ==== Sys2Proof/Machine/TokenCore.lean ====
section
/-!
DEFINITION. TokenCore.lean: signed tokens (R434, R435, R517, R530) and the engine that executes COMMITs (R436, R437).
-/
namespace Sys2Proof.Machine

/-- The key of 57 bytes that eight slots hold; no bytes where it is empty. -/
def State.keyAt (s : State) (f : Nat → Nat) : List Byte :=
  if (List.range 8).all (fun i => s.ent (f i) == 0) then [] else ((List.range 8).flatMap (fun i => leBytes 8 (s.ent (f i)).toNat)).take 57

/-- A token's fields (R434), in the bytes that carry it. -/
def tokNent (b : List Byte) : Nat := (b.getD 1 0).toNat
def tokSlot (b : List Byte) : Nat := (b.getD 2 0).toNat
def tokSerial (b : List Byte) : U64 := w64 (beNat ((b.drop 4).take 8))
def tokCounter (b : List Byte) : U64 := w64 (beNat ((b.drop 12).take 8))
def tokEntry (b : List Byte) (i : Nat) : Nat × U64 :=
  (beNat ((b.drop (20 + 16 * i)).take 4), w64 (beNat ((b.drop (28 + 16 * i)).take 8)))
def tokEntries (b : List Byte) : List (Nat × U64) := (List.range (tokNent b)).map (tokEntry b)
/-- The bytes that the signature covers, and its length in all. -/
def tokBody (b : List Byte) : Nat := 20 + 16 * tokNent b

/-- The form of a token (R434). -/
def tokForm (b : List Byte) : Bool :=
  b.getD 0 0 == 1 && decide (1 ≤ tokNent b) && decide (tokNent b ≤ 8) && decide (tokSlot b ≤ 3) && b.getD 3 0 == 0 &&
    b.length == tokBody b + 114 &&
    (List.range (tokNent b)).all (fun i => beNat ((b.drop (24 + 16 * i)).take 4) == 0)

/-- Whether a token is authentic and fresh (R435). -/
def State.tokGood (s : State) (b : List Byte) : Bool :=
  let key := s.keyAt (Key.odTokenKey (tokSlot b))
  tokForm b && tokSerial b == Config.idSerial && !key.isEmpty && decide (s.entN Key.odTokenCtr < (tokCounter b).toNat) &&
    ed448Verify key (ascii "ENBER-TOKEN") (b.take (tokBody b)) ((b.drop (tokBody b)).take 114)

/-- The status that an entry of a token meets before the rules of its object: its SIG right is satisfied (R435). -/
def State.tokCheck (s : State) (k : Nat) (v : U64) : Status :=
  match lookupObj k with
  | none => .noObject
  | some (r, ix) =>
    match r.acc with
    | .rw | .wo | .rws | .sig =>
      if (r.id = .memHbmRegion ∧ ix.getD 0 0 < 8) ∨ !(s.ownerOk .root r ix k v) then .access
      else if !(tyOk r.ty v && fldsOk r.flds v && nsOk r ix v) then .range
      else if s.unitBusy r ix then .busy else .ok
    | _ => .access

/-- One entry of a token that is not of class N takes effect (R435, R517). -/
def State.tokApply (s : State) (rq : Requester) (slot : Nat) (counter : U64) (k : Nat) (v : U64) : State :=
  match lookupObj k with
  | none => s.status .noObject
  | some (r, ix) =>
    if r.id = .evrClear then
      (match s.evrClear slot counter.toNat (bf v 23 0) with
        | some t => t.status .ok
        | none => s.status .range)
    else s.ruleWrite (if r.banked then rq else .root) r ix k v

/-- The entries of a token in order: the state after them and the first refusal. -/
def State.tokRun (s : State) (rq : Requester) (slot : Nat) (counter : U64) : List (Nat × U64) → State × Status
  | [] => (s, .ok)
  | (k, v) :: r =>
    match s.tokCheck k v with
    | .ok =>
      let n : Bool := match lookupObj k with | some (x, _) => decide (x.cls = .n) | none => false
      if n = true then s.tokRun rq slot counter r
      else
        let t := s.tokApply rq slot counter k v
        match t.reply with
        | .status .ok => t.tokRun rq slot counter r
        | .status e => (s, e)
        | _ => t.tokRun rq slot counter r
    | e => (s, e)

/-- The N entries of a token, with what they leave of their entries' old values; a signed write of EP_REMAP brings the table's
entries in use and clears FULL (R409). -/
def State.tokImage (s : State) (es : List (Nat × U64)) : Tab U64 :=
  let ns := es.filterMap (fun e => match lookupObj e.1 with
    | some (r, _) => if r.cls = .n then some (e.1, mergeFlds r.flds (s.ent e.1) e.2) else none
    | none => none)
  let t := ns.foldl (fun t e => t.setEnt e.1 e.2) s
  let used := (List.range 8).countP (fun n => t.flag (Key.epRemap n) 63)
  if ns.any (fun e => decide (Key.epRemap 0 ≤ e.1) && decide (e.1 < Key.epRemap 8)) then
    ns ++ [(Key.epRemapStat, setf (setBit (s.ent Key.epRemapStat) 0 false) 15 8 used)]
  else ns

/-- A token is checked and applied whole, in one commit with its counter (R435); else nothing is. `r` is what the verify of the commit
finds. -/
def State.tokenWrite (s : State) (rq : Requester) (b : List Byte) (r : MramResult) : State × Status :=
  if !(s.tokGood b) then (s, .token)
  else
    let es := tokEntries b
    let img := s.tokImage es ++ [(Key.odTokenCtr, tokCounter b)]
    match s.tokRun rq (tokSlot b) (tokCounter b) es with
    | (t, .ok) =>
      match s.commitStatus img with
      | .ok => ((if inForce r then t else s).commitWrite img r (tokCounter b), if r = .bothGood then .ok else .nvFail)
      | e => (s, e)
    | (_, e) => (s, e)

/-- TOKEN_CHECK_DONE (R435): the check of a core's token ends; it waits while a supply warning holds MRAM writes (R190), and for the
COMMITs that came before it (R436). -/
def execTokenCheckDone (c : Fin 16) (r : MramResult) (s : State) : Out :=
  let k := c.val * 2 ^ 32 + Key.odTokenCtl
  let v := tget 0 s.bank k
  .next (
    if bit v 63 ∧ !s.warn ∧ s.commits.isEmpty then
      let n := bf v 15 0
      let b := ((List.range 33).flatMap (fun i => leBytes 8 (tget 0 s.bank (c.val * 2 ^ 32 + Key.odTokenBuf i)).toNat)).take n
      let b := if n ≤ 264 then b else []
      let (t, st) := s.tokenWrite (.core c .machine) b r
      if supplyLost r then t else { t with bank := tput t.bank k (w64 st.code), reply := s.reply }
    else s)

/-! COMMIT -/

/-- A COMMIT ends with a status: its object says so, and where a session sent it the response goes out and is kept. -/
def State.commitDone (s : State) (c : Commit) (st : Status) : State :=
  let k := c.slot * 2 ^ 32 + Key.odCommit
  let s := { s with bank := tput s.bank k (w64 st.code) }
  match c.msg with
  | none => s
  | some (id, seq) =>
    let i := c.slot - 17
    match s.sess i with
    | none => s
    | some x =>
      let vals := beBytes 4 s.nvNow.gen.toNat ++ beBytes 4 s.nvNow.entries.length
      let r : Reply := .enber id st ⟨0, 0⟩ 0 [] (if st = .ok then vals else []) true
      if x.id = id then { s with session := tput s.session i { x with cache := ((seq, r) :: x.cache).take 16 }
                                 notes := s.notes ++ [(i, r)] }
      else s

/-- The staging set of a slot after its COMMIT ended OK: the snapshot's entries leave it, later ones stay (R436). -/
def State.unstage (s : State) (c : Commit) : State :=
  { s with staging := s.staging.filter (fun e => !(e.1 / 2 ^ 32 == c.slot && tfind c.snap (e.1 % 2 ^ 32) == some e.2)) }

/-- COMMIT_EXECUTE (R436, R437): the first COMMIT of the queue ends. It waits while a supply warning holds MRAM writes (R190). -/
def execCommitExecute (r : MramResult) (s : State) : Out :=
  .next (match s.commits with
    | [] => s
    | c :: rest =>
      if s.warn ∨ !s.pwrgood then s
      else
        let s := { s with commits := rest }
        if c.snap.isEmpty then s.commitDone c .ok
        else match s.commitStatus c.snap with
          | .ok =>
            let t := s.commitWrite c.snap r 0
            if supplyLost r then t else if r = .bothGood then (t.unstage c).commitDone c .ok else t.commitDone c .nvFail
          | e => s.commitDone c e)

end Sys2Proof.Machine
end

