-- ==== Sys2Proof/Machine/Enber.lean ====
section
/-!
DEFINITION. Enber.lean: the Enber protocol: messages (R422 to R428), sessions (R429 to R433, R440, R577), subscriptions
(R442, R443), and the other frames of the management port (R422, R560).
-/
namespace Sys2Proof.Machine

/-! Messages -/

/-- The header's bytes (R423). -/
def enberHeader (m : EnberMsg) : List Byte :=
  beBytes 2 m.magic.toNat ++ beBytes 2 m.dialect.toNat ++ [m.op, m.flags] ++ beBytes 2 m.status.toNat ++ beBytes 4 m.session.toNat ++
    beBytes 4 m.seq.toNat ++ beBytes 3 m.target.ix.toNat ++ beBytes 1 m.target.sub.toNat ++ beBytes 2 m.count.toNat ++
    beBytes 2 m.len.toNat

/-- The payload: LEN bytes. -/
def enberBody (m : EnberMsg) : List Byte := m.payload.take m.len.toNat

/-- The tag of a message under a key (R430). -/
def enberTag (key data : List Byte) : List Byte := kmac 32 key data (ascii "ENBER-TAG")

/-- Whether Enber answers: EN of `OD_ENBER_CFG`, and the management port's link up (R422, R450). -/
def State.enberOn (s : State) : Bool := s.flag Key.odEnberCfg 63 && s.pwrgood && s.resetN && decide (phPost ≤ s.phase)

/-- MAGIC and LEN (R424). -/
def enberFramed (m : EnberMsg) : Bool := m.magic == 0xEB4E && decide (m.len.toNat ≤ m.payload.length)

/-- The operations of requests (R423). -/
def knownOp (op : Nat) : Bool := [1, 2, 3, 4, 5, 7, 8, 9].contains op

/-- Whether the message carries the META or the TOKEN flag. -/
def enberMeta (m : EnberMsg) : Bool := m.flags.toNat / 2 % 2 == 1
def enberTok (m : EnberMsg) : Bool := m.flags.toNat / 4 % 2 == 1

/-- Whether operation, flags, LEN and COUNT agree (table Operations, R423). -/
def enberForm (m : EnberMsg) : Bool :=
  let c := m.count.toNat
  let l := m.len.toNat
  let plain := m.flags == 0
  m.status == 0 && decide (l ≤ 1400) &&
    (match m.op.toNat with
      | 1 => (plain || m.flags == 2) && c == 1 && l == 0
      | 2 => (plain && c == 1 && l == 8) || (m.flags == 4 && c == 0 && m.target == ⟨0, 0⟩)
      | 3 => (plain || m.flags == 2) && l == 0 && decide (1 ≤ c) && decide (c ≤ if enberMeta m then 58 else 175)
      | 4 => plain && decide (1 ≤ c) && decide (c ≤ 175) && l == 8 * c
      | 5 => plain && l == 8 && ((enberBody m).getD 1 0 == 0 || (decide (1 ≤ c) && decide (c ≤ 64)))
      | 7 => plain && l == 0
      | 8 => plain && l == 242
      | 9 => plain && l == 40
      | _ => false)

/-- The place of the open session with an identifier. -/
def State.sessionAt (s : State) (id : BitVec 32) : Option (Fin 16) := (List.finRange 16).find? (fun i => (s.sess i.val).elim false (fun x => x.id == id))

/-- A response without values. -/
def enberReply (m : EnberMsg) (st : Status) (tagged : Bool) : Reply := .enber m.session st m.target 0 [] [] tagged

/-- A count of `OD_SESSIONS` (saturating at 16 bits). -/
def State.sessionCount (s : State) (hi lo : Nat) : State := s.incSat Key.odSessions hi lo 1

/-- What a session keeps of a request that has been executed: H, and the response among the last 16 (R426). -/
def State.executed (s : State) (i : Fin 16) (seq : Nat) (r : Option Reply) : State :=
  match s.sess i.val with
  | none => s
  | some x => { s with session := tput s.session i.val { x with
      high := seq + 1, lastRaw := s.raw.toNat, cache := match r with | some r => ((seq, r) :: x.cache).take 16 | none => x.cache } }

/-- A request of an open session, in the order of R424: tag, SEQ (R426), DIALECT, then the operation itself. -/
def State.enberSession (s : State) (i : Fin 16) (x : Session) (m : EnberMsg) (run : Fin 16 → State → State × Option Reply) : State :=
  if m.tag ≠ enberTag (x.keys.take 32) (enberHeader m ++ enberBody m) then (s.sessionCount 31 16).answer .none
  else
    let seq := m.seq.toNat
    if x.high ≤ seq then
      if m.dialect.toNat ≠ x.dialect then s.answer (enberReply m .dialect true)
      else if !(enberForm m) then s.answer (enberReply m .malformed true)
      else match run i s with
        | (t, some r) => (t.executed i seq (some r)).answer r
        | (t, none) => t.answer .stalled
    else match x.cache.find? (fun e => e.1 == seq) with
      | some (_, r) => { s with session := tput s.session i.val { x with lastRaw := s.raw.toNat } }.answer r
      | none => (s.sessionCount 15 0).answer .none

/-- A message that is not a handshake's: `zero` answers it for SESSION 0, `run` within its session. -/
def State.enberServe (s : State) (m : EnberMsg) (zero : State → State) (run : Fin 16 → State → State × Option Reply) : State :=
  if !s.enberOn then s
  else if !(enberFramed m) then s.answer .none
  else if m.session = 0 then zero s
  else match s.sessionAt m.session with
    | none => s.answer (enberReply m .session false)
    | some i => match s.sess i.val with
      | some x => s.enberSession i x m run
      | none => s

/-- SESSION 0 carries only handshakes and reads (R424). -/
def enberZero (m : EnberMsg) (s : State) : State := s.answer (enberReply m .access false)

/-! Reads -/

/-- Code, P1 and P2 of a type (table Type codes reported by META). -/
def metaType (r : Row) (ix : List Nat) : Nat × Nat × Nat :=
  let bytes := match r.dims.getLast? with
    | some (_, n) => 8 * n
    | none => 8
  match r.ty with
  | .bool => (1, 0, 0)
  | .u n => if isNsSlot r ix then (0x0C, 0, 2) else (if n ≤ 8 then 2 else if n ≤ 16 then 3 else if n ≤ 32 then 4 else 5, 0, 0)
  | .sg n => (if n ≤ 8 then 6 else if n ≤ 16 then 7 else if n ≤ 32 then 8 else 9, 0, 0)
  | .q a b => (0x0A, a, b)
  | .enum => (0x0B, 0, 0)
  | .string => (0x0D, 0, bytes)
  | .octets => (0x0E, 0, match r.id with
      | .idKey | .odPeerKey | .odTokenKey | .secFwKey => 57
      | .secAttestReport => 898
      | _ => bytes)

/-- The description of an entry, 24 B; zeros for an undefined one (R427). -/
def State.describe (s : State) (k : Nat) : List Byte :=
  match lookupObj k with
  | none => List.replicate 24 0
  | some (r, ix) =>
    let (c, p1, p2) := metaType r ix
    leBytes 1 c ++ leBytes 1 p1 ++ beBytes 2 p2 ++ leBytes 1 r.acc.ctorIdx ++ leBytes 1 r.cls.ctorIdx ++
      leBytes 1 (b01 r.live + 2 * b01 (r.held && ix.getLastD 0 == 0)) ++ [0] ++ beBytes 2 (ownerUnit r ix) ++
      beBytes 2 (Config.firstDialect k) ++ [0, 0, 0, 0] ++ beBytes 8 (s.dfltOf k).toNat

/-- The key of entry i from a TARGET, entries running in ascending order (R425). -/
def keyFrom (o : Obj) (i : Nat) : Nat := objKey o + i

/-- The values of n consecutive entries, zero for an undefined one (R425). -/
def State.readMany (s : State) (rq : Option Requester) (slot k : Nat) (clear : Bool) : Nat → List U64 × State
  | 0 => ([], s)
  | n + 1 =>
    let vis := match rq with
      | some r => s.sees r k
      | none => true
    let (v, s1) := if vis then s.readEntry slot k clear else (0, s)
    let (vs, s2) := s1.readMany rq slot (k + 1) clear n
    (v :: vs, s2)

/-- The slot of a reader that has none of its own: a READ with SESSION 0. -/
def nobodySlot : Nat := 34

/-- Whether SESSION 0 may read an entry: in 0x000000 to 0x00FFFF and not RC (R424). -/
def zeroReads (k : Nat) : Bool :=
  decide (k < 0x1000000) && (match lookupObj k with | some (r, _) => r.acc != .rc | none => true)

/-- The status of a read within a block: an undefined entry reads zero. -/
def State.blockRead (s : State) (rq : Requester) (k : Nat) : Status :=
  if isDiag k then .ok else match s.checkRead rq k with
    | .noObject => .ok
    | e => e

/-- Whether an entry is write-only. -/
def isWo (k : Nat) : Bool := match lookupObj k with | some (r, _) => r.acc == .wo | none => false

/-- The first status of a list that is not OK. -/
def firstRefusal : List Status → Status
  | [] => .ok
  | .ok :: r => firstRefusal r
  | e :: _ => e

/-- READ or READ_BLOCK of n entries in a session. -/
def State.readRun (s : State) (i : Fin 16) (m : EnberMsg) (block : Bool) : State × Option Reply :=
  let rq : Requester := .session i
  let ks := (List.range m.count.toNat).map (keyFrom m.target)
  if enberMeta m then
    if !block && (s.seen rq (objKey m.target)).isNone then (s, some (enberReply m .noObject true))
    else
      let raw := ks.flatMap (fun k => if s.sees rq k then s.describe k else List.replicate 24 0)
      (s, some (.enber m.session .ok m.target m.count.toNat [] raw true))
  else
    let st := firstRefusal (ks.map (fun k => if block then s.blockRead rq k else if isDiag k then .ok else s.checkRead rq k))
    if st = .ok then
      let (vs, t) := s.readMany (some rq) (rqSlot rq) (objKey m.target) true m.count.toNat
      (t, some (.enber m.session .ok m.target m.count.toNat vs [] true))
    else (s, some (enberReply m st true))

/-- READ or READ_BLOCK with SESSION 0 (R424). -/
def State.readZero (s : State) (m : EnberMsg) (block : Bool) : State :=
  let ks := (List.range m.count.toNat).map (keyFrom m.target)
  if !(zeroReads (objKey m.target) && ks.all zeroReads) then s.answer (enberReply m .access false)
  else if !(enberForm m) then s.answer (enberReply m .malformed false)
  else if !block && (lookupObj (objKey m.target)).isNone then s.answer (enberReply m .noObject false)
  else if enberMeta m then s.answer (.enber 0 .ok m.target m.count.toNat [] (ks.flatMap s.describe) false)
  else if ks.any isWo then s.answer (enberReply m .access false)
  else
    let (vs, t) := s.readMany none nobodySlot (objKey m.target) false m.count.toNat
    t.answer (.enber 0 .ok m.target m.count.toNat vs [] false)

/-- ENBER_READ (R425). A message of an unknown operation is answered here too (MALFORMED). -/
def execEnberRead (m : EnberMsg) (s : State) : Out :=
  .next (if m.op = 1 then s.enberServe m (fun s => s.readZero m false) (fun i s => s.readRun i m false)
    else if !(knownOp m.op.toNat) then s.enberServe m (enberZero m) (fun _ s => (s, some (enberReply m .malformed true)))
    else s)

/-- ENBER_READ_BLOCK (R425). -/
def execEnberReadBlock (m : EnberMsg) (s : State) : Out :=
  .next (if m.op = 3 then s.enberServe m (fun s => s.readZero m true) (fun i s => s.readRun i m true) else s)

/-! Writes -/

/-- Value i of the payload. -/
def payloadValue (m : EnberMsg) (i : Nat) : U64 := w64 (beNat (((enberBody m).drop (8 * i)).take 8))

/-- A write of one entry in a session: its status and the state after it. -/
def State.writeStatus (s : State) (i : Fin 16) (k : Nat) (v : U64) : State × Status :=
  let t := s.writeEntry (.session i) k v
  (t, t.reply.statusValue.1)

/-- ENBER_WRITE (R416). -/
def execEnberWrite (m : EnberMsg) (s : State) : Out :=
  .next (if m.op = 2 ∧ !(enberTok m) then
      s.enberServe m (enberZero m) (fun i s =>
        let (t, st) := s.writeStatus i (objKey m.target) (payloadValue m 0)
        (t, some (.enber m.session st m.target 1 [] [] true)))
    else s)

/-- Entries of a block in order, up to the first refusal: the state, the status, and how many were applied (R425). -/
def State.writeMany (s : State) (i : Fin 16) (m : EnberMsg) : Nat → Nat → State × Status × Nat
  | 0, j => (s, .ok, j)
  | n + 1, j =>
    match s.writeStatus i (keyFrom m.target j) (payloadValue m j) with
    | (t, .ok) => t.writeMany i m n (j + 1)
    | (t, st) => (t, st, j)

/-- The entry at a key. -/
def keyObj (k : Nat) : Obj := ⟨BitVec.ofNat 24 (k / 256), BitVec.ofNat 8 k⟩

/-- ENBER_WRITE_BLOCK (R425). -/
def execEnberWriteBlock (m : EnberMsg) (s : State) : Out :=
  .next (if m.op = 4 then
      s.enberServe m (enberZero m) (fun i s =>
        let (t, st, j) := s.writeMany i m m.count.toNat 0
        (t, some (.enber m.session st (if st = .ok then m.target else keyObj (keyFrom m.target j)) j [] [] true)))
    else s)

/-- Whether a session has role READER (R433). -/
def State.isReader (s : State) (i : Fin 16) : Bool := s.roleOf (.session i) == some .reader

/-- ENBER_TOKEN_WRITE (R435); while a supply warning holds MRAM writes (R190), and while COMMITs that came before it wait (R436), the
request waits outside and executes nothing. -/
def execEnberTokenWrite (m : EnberMsg) (r : MramResult) (s : State) : Out :=
  .next (if m.op = 2 ∧ enberTok m then
      s.enberServe m (enberZero m) (fun i s =>
        if s.isReader i then (s, some (enberReply m .access true))
        else if s.warn || !s.commits.isEmpty then (s, none)
        else
          let (t, st) := s.tokenWrite (.session i) (enberBody m) r
          if supplyLost r then (t, none) else (t, some (enberReply m st true)))
    else s)

/-- ENBER_COMMIT (R436): the response follows when the COMMIT has executed. -/
def execEnberCommit (m : EnberMsg) (s : State) : Out :=
  .next (if m.op = 7 then
      s.enberServe m (enberZero m) (fun i s =>
        if s.isReader i then (s, some (enberReply m .access true))
        else
          let t := s.commitAsk (rqSlot (.session i)) (some (m.session, m.seq.toNat))
          if t.reply = .status .ok then (t.executed i m.seq.toNat none, none)
          else (s, some (enberReply m .busy true)))
    else s)

/-! Subscriptions -/

/-- A sample of a subscription's entries (R442): it clears no RC entry. -/
def State.sample (s : State) (i : Fin 16) (b : Sub) : List U64 × State :=
  s.readMany (some (.session i)) (rqSlot (.session i)) (objKey b.target) false b.count

/-- A NOTIFY of a subscription with the values of a sample. -/
def State.sendSub (s : State) (i : Fin 16) (subid : Nat) (b : Sub) (vals : List U64) : State :=
  let s := s.notify i.val .ok subid 0 b.target vals
  match s.sess i.val with
  | none => s
  | some x => { s with session := tput s.session i.val { x with subs := tput x.subs subid { b with last := vals, sentRaw := s.raw.toNat } } }

/-- Entries under subscription in the device (R442). -/
def State.subscribed (s : State) : Nat := (s.session.map (fun e => (e.2.subs.map (fun b => b.2.count)).sum)).sum

/-- The status of a subscription request: its parameters, its entries, and the room for them. -/
def State.subStatus (s : State) (i : Fin 16) (m : EnberMsg) (x : Session) (subid mode pad period : Nat) : Status :=
  if 63 < subid ∨ 2 < mode ∨ pad ≠ 0 ∨ (mode = 2 ∧ !(decide (10 ≤ period) && decide (period ≤ 3600000))) then .range
  else if mode = 0 then .ok
  else
    match firstRefusal ((List.range m.count.toNat).map (fun j =>
        let k := keyFrom m.target j
        if isDiag k then .ok else s.checkRead (.session i) k)) with
    | .ok =>
      let old := (tfind x.subs subid).elim 0 (·.count)
      if 4096 < s.subscribed - old + m.count.toNat then .full else .ok
    | e => e

/-- SUBSCRIBE in a session (R442). -/
def State.subscribe (s : State) (i : Fin 16) (m : EnberMsg) : State × Option Reply :=
  match s.sess i.val with
  | none => (s, some (enberReply m .session true))
  | some x =>
    let b := enberBody m
    let subid := (b.getD 0 0).toNat
    let mode := (b.getD 1 0).toNat
    let period := beNat ((b.drop 4).take 4)
    match s.subStatus i m x subid mode (beNat ((b.drop 2).take 2)) period with
    | .ok =>
      let r : Option Reply := some (.enber m.session .ok m.target m.count.toNat [] [] true)
      if mode = 0 then ({ s with session := tput s.session i.val { x with subs := tdel x.subs subid } }, r)
      else
        let sub : Sub := ⟨BitVec.ofNat 8 mode, period, m.target, m.count.toNat, [], 0, s.raw.toNat⟩
        let (vals, t) := s.sample i sub
        (t.sendSub i subid sub vals, r)
    | e => (s, some (enberReply m e true))

/-- ENBER_SUBSCRIBE (R442). -/
def execEnberSubscribe (m : EnberMsg) (s : State) : Out :=
  .next (if m.op = 5 then s.enberServe m (enberZero m) (fun i s => s.subscribe i m) else s)

/-- NOTIFY_SEND (R442, R443): a subscription is sampled; a NOTIFY follows when it is due. -/
def execNotifySend (i : Fin 16) (subid : BitVec 6) (s : State) : Out :=
  .next (match s.sess i.val with
    | none => s
    | some x => match tfind x.subs subid.toNat with
      | none => s
      | some b =>
        if !(decide (b.sampleRaw + msTicks (if b.mode = 2 then b.period else 1) ≤ s.raw.toNat)) then s
        else
          let (vals, t) := s.sample i b
          let b := { b with sampleRaw := s.raw.toNat }
          let t := { t with session := tput t.session i.val { x with subs := tput x.subs subid.toNat b } }
          if b.mode = 2 ∨ (vals ≠ b.last ∧ b.sentRaw + msTicks (s.entN Key.odNotifyMin) ≤ s.raw.toNat) then t.sendSub i subid.toNat b vals else t)

/-! Sessions -/

/-- Whether a part has passed final test (R577). -/
def isFused : Bool := Config.idSerial != 0 && Config.keyFused

/-- The next number from n on, of 1 to m - 1, that is not among those given; `tries` of them are looked at. -/
def freshNum (given : List Nat) (m : Nat) : Nat → Nat → Nat
  | 0, n => n % m
  | t + 1, n => if n % m = 0 ∨ given.contains (n % m) then freshNum given m t (n + 1) else n % m

/-- An identifier that no session and no handshake has had (R431). -/
def State.drawId (s : State) : BitVec 32 × State :=
  let (n, t) := s.draw
  let x := freshNum s.idsGiven (2 ^ 32) (s.idsGiven.length + 1) n
  (BitVec.ofNat 32 x, { t with idsGiven := x :: t.idsGiven })

/-- An ephemeral private key that no handshake has had (R431), by the number that its free bits spell. -/
def State.drawEph (s : State) : Nat × State :=
  let (n, t) := s.draw
  let x := freshNum s.ephGiven (2 ^ 445) (s.ephGiven.length + 1) n
  (4 * x, { t with ephGiven := x :: t.ephGiven })

/-- The highest dialect common to a HELLO's range and a window (R440). -/
def chooseDialect (lo hi : Nat) (w : Nat × Nat) : Option Nat :=
  let top := min hi w.2
  if max (max lo w.1) 1 ≤ top then some top else none

/-- The HELLO response up to its signature (table Handshake payloads). -/
def helloResponse (d : Nat) (w : Nat × Nat) (nonce eph : Nat) : List Byte :=
  beBytes 2 d ++ beBytes 2 w.1 ++ beBytes 2 w.2 ++ [0, 0] ++ leBytes 32 nonce ++ x448Public eph ++
    idPublic ++ List.replicate 7 0

/-- A HELLO that opens a handshake (R429, R430, R440). -/
def State.hello (s : State) (m : EnberMsg) : State :=
  let b := enberBody m
  let no := fun st => s.answer (enberReply m st false)
  let scope := b.getD 4 0
  if !(enberForm m) ∨ (b.drop 5).take 3 ≠ [0, 0, 0] ∨ (8 ≤ scope.toNat ∧ scope ≠ 0xFF) then no .malformed
  else if !isFused then no .auth
  else
    let w := s.scopeWindow scope.toNat
    match (List.range 8).find? (fun h => (tfind s.handshake h).isNone) with
    | none => no .busy
    | some h =>
      match chooseDialect (beNat (b.take 2)) (beNat ((b.drop 2).take 2)) w with
      | none => s.answer (.enber 0 .dialect m.target 0 [] (beBytes 2 w.1 ++ beBytes 2 w.2) false)
      | some d =>
        let (id, s) := s.drawId
        let (eph, s) := s.drawEph
        let (nonce, s) := s.draw
        let resp := helloResponse d w nonce eph
        let t1 := shake 64 (b ++ resp)
        let sig := idSign (ascii "ENBER-HELLO") t1
        { s with handshake := tput s.handshake h ⟨id, d, scope, t1, eph, s.raw.toNat⟩ }.answer
          (.enber id .ok m.target 0 [] (resp ++ sig) false)

/-- ENBER_HELLO (R440); with SESSION set to the session's own identifier it ends the session (R433). -/
def execEnberHello (m : EnberMsg) (s : State) : Out :=
  .next (if m.op = 9 then
      s.enberServe m (fun s => s.hello m) (fun i s => (s.endSession i.val, some (enberReply m .ok true)))
    else s)

/-- How an AUTH ends: refused with a status, or accepted with a role. -/
inductive AuthEnd where
  | refused (st : Status)
  | accepted (r : Role)

/-- Whether an AUTH may open a session, and in which role (R431, R432). -/
def State.authCheck (s : State) (slot : Nat) (scope : Byte) (key t2 sig : List Byte) : AuthEnd :=
  let good := ed448Verify key (ascii "ENBER-AUTH") t2 sig
  if slot = 0xFF then
    if !(s.noKeys Key.odPeerKey 16) then .refused .access
    else if good ∧ key.any (· ≠ 0) then .accepted .admin else .refused .auth
  else if 16 ≤ slot ∨ (s.keyAt (Key.odPeerKey slot)).isEmpty ∨ s.keyAt (Key.odPeerKey slot) ≠ key ∨ !good then .refused .auth
  else
    match s.fld (Key.odPeerRole slot) 5 4 with
    | 0 => .accepted .reader
    | 2 => .accepted .admin
    | 1 =>
      (match finAt 8 (s.fld (Key.odPeerRole slot) 2 0) with
        | some p => if scope.toNat = p.val then .accepted (.part p) else .refused .access
        | none => .refused .auth)
    | _ => .refused .auth

/-- The claim of a device (R432): K_C and ROLE ADMIN in slot 0, committed. -/
def State.claim (s : State) (key : List Byte) : State :=
  s.ownCommit ((List.range 8).map (fun i => (Key.odPeerKey 0 i, w64 (leNat ((key.drop (8 * i)).take 8)))) ++ [(Key.odPeerRole 0, 0x20)])

/-- ROLE and partition of the AUTH response. -/
def roleBytes : Role → List Byte
  | .reader => [0, 0]
  | .part p => [1, BitVec.ofNat 8 p.val]
  | .admin => [2, 0]

/-- K_REQ and K_RSP (R430). -/
def sessionKeys (z t2 : List Byte) : List Byte :=
  kmac 32 z t2 (ascii "ENBER-REQ") ++ kmac 32 z t2 (ascii "ENBER-RSP")

/-- The session of an accepted AUTH opens at place i; the handshake h is at its end. -/
def State.openSession (s : State) (m : EnberMsg) (h i : Nat) (hs : Handshake) (role : Role) (t2 : List Byte) : State :=
  let (id, s) := s.drawId
  let z := x448 hs.eph (((enberBody m).drop 8).take 56)
  let x : Session := ⟨id, role, hs.scope, hs.dialect, 0, [], [], 0, sessionKeys z t2, s.raw.toNat⟩
  { s with session := tput s.session i x, handshake := tdel s.handshake h }.answer
    (.enber id .ok m.target 0 [] (beBytes 4 id.toNat ++ roleBytes role ++ beBytes 2 hs.dialect) true)

/-- An AUTH of handshake h (R431, R432). -/
def State.auth (s : State) (m : EnberMsg) (h : Nat) (hs : Handshake) : State :=
  let b := enberBody m
  let no := fun st => s.answer (enberReply m st false)
  if m.dialect.toNat ≠ hs.dialect then no .dialect
  else if !(enberForm m) ∨ ((b.drop 1).take 7 ++ (b.drop 121).take 7).any (· ≠ 0) then no .malformed
  else
    let key := (b.drop 64).take 57
    let t2 := shake 64 (hs.t1 ++ b.take 128)
    match s.authCheck (b.getD 0 0).toNat hs.scope key t2 (b.drop 128) with
    | .refused st => ({ s with handshake := tdel s.handshake h }.sessionCount 47 32).answer (enberReply m st false)
    | .accepted role =>
      match (List.range 16).find? (fun i => (s.sess i).isNone) with
      | none => no .full
      | some i => (if b.getD 0 0 = 0xFF then s.claim key else s).openSession m h i hs role t2

/-- ENBER_AUTH (R431). -/
def execEnberAuth (m : EnberMsg) (s : State) : Out :=
  .next (if m.op = 8 then
      if !s.enberOn then s
      else if !(enberFramed m) then s.answer .none
      else match s.handshake.find? (fun e => e.2.id == m.session) with
        | some (h, hs) => s.auth m h hs
        | none => s.answer (enberReply m .session false)
    else s)

/-- SESSION_IDLE_TIMEOUT (R433): `OD_SESSION_IDLE` has passed without a valid request. -/
def execSessionIdleTimeout (i : Fin 16) (s : State) : Out :=
  .next (match s.sess i.val with
    | none => s
    | some x => if x.lastRaw + s.entN Key.odSessionIdle * secTicks ≤ s.raw.toNat then s.endSession i.val else s)

/-- HANDSHAKE_EXPIRY (R429): 5 s after its HELLO. -/
def execHandshakeExpiry (h : Fin 8) (s : State) : Out :=
  .next (match tfind s.handshake h.val with
    | none => s
    | some x => if x.since + 5 * secTicks ≤ s.raw.toNat then { s with handshake := tdel s.handshake h.val } else s)

/-! Other frames of the management port -/

/-- The link-local IPv6 address formed from `ID_MGMT_MAC` (R422): the prefix FE80::/64 and the modified EUI-64 identifier. -/
def linkLocal : BitVec 128 :=
  let m := Config.idMgmtMac.toNat
  BitVec.ofNat 128 (0xFE80 * 2 ^ 112 + ((m / 2 ^ 24) ^^^ 0x020000) * 2 ^ 40 + 0xFFFE * 2 ^ 24 + m % 2 ^ 24)

/-- Whether an IPv4 or an IPv6 address is the device's (`OD_IP4`, `OD_IP6`, R422). -/
def State.ownIp4 (s : State) (a : BitVec 32) : Bool := s.flag Key.odIp4 63 && s.fld Key.odIp4 31 0 == a.toNat
def State.ownIp6 (s : State) (a : BitVec 128) : Bool :=
  a == linkLocal || (s.flag Key.odIp6Cfg 31 && s.entN (Key.odIp6 0) * 2 ^ 64 + s.entN (Key.odIp6 1) == a.toNat)

/-- MGMT_PORT_FRAME (R422): the port answers ARP and neighbour discovery with its MAC address, and echo with the payload; it carries
nothing else (R560). -/
def execMgmtPortFrame (f : MgmtFrame) (s : State) : Out :=
  let mac := beBytes 6 Config.idMgmtMac.toNat
  let out := fun (b : List Byte) => { s with mgmtOut := s.mgmtOut ++ [b] }
  .next (
    if !(s.pwrgood && s.resetN && decide (phPost ≤ s.phase)) then s
    else match f with
      | .arp ip => if s.ownIp4 ip then out (mac ++ beBytes 4 ip.toNat) else s
      | .neighbourSolicit ip => if s.ownIp6 ip then out (mac ++ beBytes 16 ip.toNat) else s
      | .echo4 dst b => if s.ownIp4 dst then out (beBytes 4 dst.toNat ++ b) else s
      | .echo6 dst b => if s.ownIp6 dst then out (beBytes 16 dst.toNat ++ b) else s
      | .other => s)

end Sys2Proof.Machine
end

