-- ==== Sys2Proof/Machine/PsimirScalar.lean ====
section
/-!
DEFINITION. PsimirScalar.lean: the scalar register, immediate, branch, loop, vector-length and status-register
instructions (R129, R149, R162, R169 to R173).
-/
namespace Sys2Proof.Machine

/-- A scalar register operation: rd := op ra rb. -/
def opRR (s : State) (t : Fin 512) (rd ra rb : Reg) (op : U64 → U64 → U64) : Out :=
  stepTile s t [rd, ra, rb] always (fun x => retire s t (x.wr rd (op (x.rs ra) (x.rs rb))))

/-- A scalar immediate operation: rd := op ra. -/
def opRI (s : State) (t : Fin 512) (rd ra : Reg) (legal : Bool) (op : U64 → U64) : Out :=
  stepTile s t [rd, ra] (fun _ => legal) (fun x => retire s t (x.wr rd (op (x.rs ra))))

def execAdd (t : Fin 512) (rd ra rb : Reg) (s : State) : Out := opRR s t rd ra rb (fun a b => a + b)
def execSub (t : Fin 512) (rd ra rb : Reg) (s : State) : Out := opRR s t rd ra rb (fun a b => a - b)
def execAnd (t : Fin 512) (rd ra rb : Reg) (s : State) : Out := opRR s t rd ra rb (fun a b => a &&& b)
def execOr (t : Fin 512) (rd ra rb : Reg) (s : State) : Out := opRR s t rd ra rb (fun a b => a ||| b)
def execXor (t : Fin 512) (rd ra rb : Reg) (s : State) : Out := opRR s t rd ra rb (fun a b => a ^^^ b)
/-- Shifts are by rb[5:0]. -/
def execSll (t : Fin 512) (rd ra rb : Reg) (s : State) : Out := opRR s t rd ra rb (fun a b => a <<< (b.toNat % 64))
def execSrl (t : Fin 512) (rd ra rb : Reg) (s : State) : Out := opRR s t rd ra rb (fun a b => a >>> (b.toNat % 64))
def execSra (t : Fin 512) (rd ra rb : Reg) (s : State) : Out :=
  opRR s t rd ra rb (fun a b => a.sshiftRight (b.toNat % 64))
def execSlt (t : Fin 512) (rd ra rb : Reg) (s : State) : Out :=
  opRR s t rd ra rb (fun a b => if a.toInt < b.toInt then 1 else 0)
def execSltu (t : Fin 512) (rd ra rb : Reg) (s : State) : Out :=
  opRR s t rd ra rb (fun a b => if a.toNat < b.toNat then 1 else 0)
def execMul (t : Fin 512) (rd ra rb : Reg) (s : State) : Out := opRR s t rd ra rb (fun a b => a * b)
/-- High 64 bits of the signed 128-bit product. -/
def execMulh (t : Fin 512) (rd ra rb : Reg) (s : State) : Out :=
  opRR s t rd ra rb (fun a b => BitVec.ofInt 64 (a.toInt * b.toInt / (2 ^ 64 : Nat)))
def execMin (t : Fin 512) (rd ra rb : Reg) (s : State) : Out :=
  opRR s t rd ra rb (fun a b => if a.toInt < b.toInt then a else b)
def execMax (t : Fin 512) (rd ra rb : Reg) (s : State) : Out :=
  opRR s t rd ra rb (fun a b => if a.toInt < b.toInt then b else a)

/-- IMM sign-extended to 64 bits (R169). -/
def sext16 (imm : BitVec 16) : U64 := imm.signExtend 64
/-- IMM zero-extended. -/
def zext16 (imm : BitVec 16) : U64 := imm.zeroExtend 64

def execAddi (t : Fin 512) (rd ra : Reg) (imm : BitVec 16) (s : State) : Out :=
  opRI s t rd ra true (fun a => a + sext16 imm)
def execAndi (t : Fin 512) (rd ra : Reg) (imm : BitVec 16) (s : State) : Out :=
  opRI s t rd ra true (fun a => a &&& zext16 imm)
def execOri (t : Fin 512) (rd ra : Reg) (imm : BitVec 16) (s : State) : Out :=
  opRI s t rd ra true (fun a => a ||| zext16 imm)
def execXori (t : Fin 512) (rd ra : Reg) (imm : BitVec 16) (s : State) : Out :=
  opRI s t rd ra true (fun a => a ^^^ zext16 imm)

/-- The shift immediates: IMM[15:8] must be zero and IMM[7:6] is the operation's code (table Major opcodes). -/
def shiftImmOk (imm : BitVec 16) (code : Nat) : Bool := imm.toNat / 64 == code

def execSlli (t : Fin 512) (rd ra : Reg) (imm : BitVec 16) (s : State) : Out :=
  opRI s t rd ra (shiftImmOk imm 0) (fun a => a <<< (imm.toNat % 64))
def execSrli (t : Fin 512) (rd ra : Reg) (imm : BitVec 16) (s : State) : Out :=
  opRI s t rd ra (shiftImmOk imm 1) (fun a => a >>> (imm.toNat % 64))
def execSrai (t : Fin 512) (rd ra : Reg) (imm : BitVec 16) (s : State) : Out :=
  opRI s t rd ra (shiftImmOk imm 2) (fun a => a.sshiftRight (imm.toNat % 64))
/-- LUI does not use ra, which must be zero (R165). -/
def execLui (t : Fin 512) (rd ra : Reg) (imm : BitVec 16) (s : State) : Out :=
  opRI s t rd ra (ra == 0) (fun _ => w64 (imm.toNat * 65536))
def execSlti (t : Fin 512) (rd ra : Reg) (imm : BitVec 16) (s : State) : Out :=
  opRI s t rd ra true (fun a => if a.toInt < (sext16 imm).toInt then 1 else 0)
def execSltiu (t : Fin 512) (rd ra : Reg) (imm : BitVec 16) (s : State) : Out :=
  opRI s t rd ra true (fun a => if a.toNat < (sext16 imm).toNat then 1 else 0)

/-- Address of the tile's PC + 4 × OFF, OFF signed. -/
def branchTo (x : Tile) (off : Int) : BitVec 32 := x.pc + BitVec.ofInt 32 (4 * off)

/-- A conditional branch (R170). -/
def opBR (s : State) (t : Fin 512) (ra rb : Reg) (off : BitVec 16) (c : U64 → U64 → Bool) : Out :=
  stepTile s t [ra, rb] always (fun x =>
    if c (x.rs ra) (x.rs rb) then retireTo s t x (branchTo x off.toInt) else retire s t x)

def execBeq (t : Fin 512) (ra rb : Reg) (off : BitVec 16) (s : State) : Out :=
  opBR s t ra rb off (fun a b => a == b)
def execBne (t : Fin 512) (ra rb : Reg) (off : BitVec 16) (s : State) : Out :=
  opBR s t ra rb off (fun a b => a != b)
def execBlt (t : Fin 512) (ra rb : Reg) (off : BitVec 16) (s : State) : Out :=
  opBR s t ra rb off (fun a b => decide (a.toInt < b.toInt))
def execBge (t : Fin 512) (ra rb : Reg) (off : BitVec 16) (s : State) : Out :=
  opBR s t ra rb off (fun a b => decide (b.toInt ≤ a.toInt))
def execBltu (t : Fin 512) (ra rb : Reg) (off : BitVec 16) (s : State) : Out :=
  opBR s t ra rb off (fun a b => decide (a.toNat < b.toNat))
def execBgeu (t : Fin 512) (ra rb : Reg) (off : BitVec 16) (s : State) : Out :=
  opBR s t ra rb off (fun a b => decide (b.toNat ≤ a.toNat))

/-- The address of the tile's next instruction in sequence, as a register value. -/
def linkOf (x : Tile) : U64 := w64 ((x.pc + 4).toNat)

def execJal (t : Fin 512) (rd : Reg) (off : BitVec 21) (s : State) : Out :=
  stepTile s t [rd] always (fun x => retireTo s t (x.wr rd (linkOf x)) (branchTo x off.toInt))
/-- JALR continues at ra + IMM with bits [1:0] cleared; the PC is 32 bits wide. -/
def execJalr (t : Fin 512) (rd ra : Reg) (imm : BitVec 16) (s : State) : Out :=
  stepTile s t [rd, ra] always (fun x =>
    retireTo s t (x.wr rd (linkOf x)) (BitVec.ofNat 32 ((x.rs ra + sext16 imm).toNat / 4 * 4)))

/-- LOOPk (R149, R171): a zero count continues past the body. -/
def opLoop (s : State) (t : Fin 512) (k : Nat) (ra : Reg) (rsv : BitVec 4) (fin : BitVec 16) : Out :=
  stepTile s t [ra] (fun _ => rsv == 0 && fin != 0) (fun x =>
    let n : BitVec 32 := (x.rs ra).truncate 32
    let lb := x.pc + 4
    let le := x.pc + BitVec.ofNat 32 (4 * fin.toNat)
    if k = 1 ∧ x.lc0 ≠ 0 ∧ ¬(x.lb0.toNat ≤ lb.toNat ∧ le.toNat ≤ x.le0.toNat) then
      raiseExc s t x cLoop 0 none
    else
      let st := mkStatus (x.stBit stIE) (x.stBit stPIE) true (x.stBit stPLPEN) (x.stBit stINH)
      let y : Tile :=
        if k = 0 then { x with lc0 := n, lb0 := lb, le0 := le, status := st }
        else { x with lc1 := n, lb1 := lb, le1 := le, status := st }
      if n = 0 then retireTo s t y (le + 4) else retire s t y)

def execLoop0 (t : Fin 512) (ra : Reg) (rsv : BitVec 4) (fin : BitVec 16) (s : State) : Out :=
  opLoop s t 0 ra rsv fin
def execLoop1 (t : Fin 512) (ra : Reg) (rsv : BitVec 4) (fin : BitVec 16) (s : State) : Out :=
  opLoop s t 1 ra rsv fin

/-- FENCE is a release point (R126); every store of the model is visible when made. -/
def execFence (t : Fin 512) (rd ra rb : Reg) (s : State) : Out :=
  stepTile s t [] (fun _ => rd == 0 && ra == 0 && rb == 0) (fun x => retire s t x)

/-- ERET (R162): ILLEGAL with INH = 0. It goes to PXS_EPC. Standing at lek it ends its pass like any other instruction (R150),
under the LPEN that it restores (assumption 80: DEDUCED); looping back, it resumes nothing. -/
def execEret (t : Fin 512) (rd ra rb : Reg) (s : State) : Out :=
  stepTile s t [] (fun x => rd == 0 && ra == 0 && rb == 0 && x.inh) (fun x =>
    let st := mkStatus (x.stBit stPIE) (x.stBit stPIE) (x.stBit stPLPEN) (x.stBit stPLPEN) false
    let y := loopEnd { x with status := st } x.epc
    (s.setTl t { y with resumed := y.pc == x.epc }).inc64 (Key.pxRetired t) 1)

/-- BREAK raises BREAK. -/
def execBrk (t : Fin 512) (rd ra rb : Reg) (s : State) : Out :=
  stepTile s t [] (fun _ => rd == 0 && ra == 0 && rb == 0) (fun x => raiseExc s t x cBreak 0 none)

/-- CSRR (R173). -/
def execCsrr (t : Fin 512) (rd ra : Reg) (csr : BitVec 12) (s : State) : Out :=
  stepTile s t [rd] (fun x => ra == 0 && (x.csr t csr.toNat 0).isSome) (fun x =>
    retire s t (x.wr rd ((x.csr t csr.toNat s.raw).getD 0)))

/-- CSRW (R173): a loop register takes its value after the loop end of the CSRW itself. -/
def execCsrw (t : Fin 512) (rd ra : Reg) (csr : BitVec 12) (s : State) : Out :=
  stepTile s t [ra] (fun x => rd == 0 && (x.csrWrite csr.toNat 0).isSome) (fun x =>
    let v := x.rs ra
    if csrLoop csr.toNat then
      let y := loopEnd { x with resumed := false } (x.pc + 4)
      (s.setTl t ((y.csrWrite csr.toNat v).getD y)).inc64 (Key.pxRetired t) 1
    else retire s t ((x.csrWrite csr.toNat v).getD x))

/-- VSETVL and VSETVLR (R129, R172) once the vtype is known. -/
def setVl (x : Tile) (rd ra : Reg) (vt : Nat) : Tile :=
  let n := min (x.rs ra).toNat (vlMax vt)
  ({ x with vtype := BitVec.ofNat 8 vt, vl := BitVec.ofNat 16 n }).wr rd (w64 n)

/-- Whether a vtype is legal: bits [7:6] and [3] zero, ETYPE not reserved. -/
def vtypeOk (vt : Nat) : Bool := vt / 64 == 0 && vt / 8 % 2 == 0 && decide (vt % 8 < 6)

def execVsetvl (t : Fin 512) (rd ra rb : Reg) (rsv : BitVec 4) (vtype : BitVec 6) (s : State) : Out :=
  stepTile s t [rd, ra] (fun _ => rb == 0 && rsv == 0 && vtypeOk vtype.toNat) (fun x =>
    retire s t (setVl x rd ra vtype.toNat))

/-- VSETVLR takes vtype from rb[7:0]; its VTYPE field is unused and must be zero (R165). -/
def execVsetvlr (t : Fin 512) (rd ra rb : Reg) (rsv : BitVec 4) (vtype : BitVec 6) (s : State) : Out :=
  stepTile s t [rd, ra, rb] (fun x => rsv == 0 && vtype == 0 && vtypeOk ((x.rs rb).toNat % 256)) (fun x =>
    retire s t (setVl x rd ra ((x.rs rb).toNat % 256)))

end Sys2Proof.Machine
end

