-- ==== Sys2Proof/Machine/PsimirVector.lean ====
section
/-!
DEFINITION. PsimirVector.lean: the vector multiply, ALU and permute/reduce instructions (R130 to R134, R144 to R148,
R167, R168, R176, R177). Chaining and latency change no result (R179) and are not modelled.
-/
namespace Sys2Proof.Machine

/-- Reduction to w bits: wrapped with S = 0, clamped with S = 1; and whether it was clamped (R145, R146). -/
def reduceTo (w : Nat) (sat : Bool) (v : Int) : Nat × Bool :=
  if sat then (uns w (clampS w v), clampS w v != v) else (uns w v, false)

/-- Components reduced to a type's component width, packed, and whether any was clamped. -/
def reducePack (t : Nat) (sat : Bool) (cs : List Int) : Nat × Bool :=
  (packComps t (cs.map (fun v => ((reduceTo (etW t) sat v).1 : Int))), cs.any (fun v => (reduceTo (etW t) sat v).2))

/-- The raw bits of the second operand of element i: of vb, or of sb for every element (R168). -/
def Tile.opB (x : Tile) (f : VA) (i : Nat) : Nat :=
  let e := etBytes f.ty.toNat
  if f.src then (x.rs f.b).toNat % 2 ^ (8 * e) else x.elem f.b.toNat e i

/-- Results written from PXS_VSTART on as type rt, PXS_SAT where one was clamped, PXS_VSTART cleared (R132, R146). -/
def Tile.putResults (x : Tile) (f : VA) (rt : Nat) (rs : List (Nat × Bool)) : Tile :=
  { x.setElems f.vd.toNat (etBytes rt) x.vstart.toNat (rs.map (·.1)) with
    vstart := 0
    sat := x.sat || rs.any (·.2) }

/-- An element instruction on components: the exact result of accumulator, first and second operand, reduced to rt. Every source
element is read as it stood before the instruction, also where the groups overlap (R131; assumption 80: DESIGN CHOICE). -/
def Tile.vecComps (x : Tile) (f : VA) (rt : Nat) (op : List Int → List Int → List Int → List Int) : Tile :=
  let t := f.ty.toNat
  x.putResults f rt (x.range.map (fun i =>
    reducePack rt f.s (op (comps rt (x.elem f.vd.toNat (etBytes rt) i)) (comps t (x.elem f.va.toNat (etBytes t) i))
      (comps t (x.opB f i)))))

/-- An element instruction on raw bits of the source width. -/
def Tile.vecBits (x : Tile) (f : VA) (op : Nat → Nat → Nat → Nat) : Tile :=
  let e := etBytes f.ty.toNat
  x.putResults f f.ty.toNat (x.range.map (fun i =>
    (op (x.elem f.vd.toNat e i) (x.elem f.va.toNat e i) (x.opB f i), false)))

/-- What a group table allows an instruction: its types, S, U and SRC. -/
structure VAllow where
  types : List Nat
  s : Bool
  u : Bool
  src : Bool
deriving DecidableEq, Repr

/-- Whether the fields of a VA instruction are allowed, and its vector operands stand where their effective groups let
them: va and, where `useB` and SRC = 0, vb at the source type; vd at type rt where there is a vector destination. -/
def vaLegal (al : VAllow) (f : VA) (rt : Option Nat) (useB : Bool) (x : Tile) : Bool :=
  let t := f.ty.toNat
  al.types.contains t && (al.s || !f.s) && (al.u || !f.u) && (al.src || !f.src)
    && x.egOk t f.va
    && (if useB && !f.src then x.egOk t f.b else true)
    && (match rt with | some r => x.egOk r f.vd | none => true)

/-- Scalar registers a VA instruction names. -/
def vaUses (f : VA) : List Reg := if f.src then [f.b] else []

/-- A vector element instruction (MAC and ALU groups). -/
def opVA (s : State) (t : Fin 512) (f : VA) (al : VAllow) (rt : Nat) (useB : Bool) (more : Tile → Bool)
    (op : Tile → Tile) : Out :=
  stepTile s t (vaUses f) (fun x => vaLegal al f (some rt) useB x && more x) (fun x => retire s t (op x))

def tyAll : List Nat := [0, 1, 2, 3, 4, 5]
def tyInt : List Nat := [0, 1, 2, 3]

/-- Products of the multiply forms (table Multiply and MAC forms). -/
def mul1 : List Int → List Int → List Int
  | [a], [b] => [a * b]
  | [ar, ai], [br, bi] => [ar * br - ai * bi, ar * bi + ai * br]
  | _, _ => []
/-- The product with the second operand conjugated. -/
def mulConj : List Int → List Int → List Int
  | [ar, ai], [br, bi] => [ar * br + ai * bi, ai * br - ar * bi]
  | a, b => mul1 a b
/-- Component-wise sum and difference. -/
def addC (a b : List Int) : List Int := List.zipWith (· + ·) a b
def subC (a b : List Int) : List Int := List.zipWith (· - ·) a b
/-- Shift right by k, truncating toward minus infinity. -/
def shrC (k : Nat) (a : List Int) : List Int := a.map (· / (2 ^ k : Nat))

def execVmul (t : Fin 512) (f : VA) (s : State) : Out :=
  opVA s t f ⟨[0, 1, 2, 3], true, false, true⟩ f.ty.toNat true always
    (fun x => x.vecComps f f.ty.toNat (fun _ a b => mul1 a b))
def execVmulq (t : Fin 512) (f : VA) (s : State) : Out :=
  opVA s t f ⟨[1, 2], true, false, true⟩ f.ty.toNat true always
    (fun x => x.vecComps f f.ty.toNat (fun _ a b => shrC (etW f.ty.toNat - 1) (mul1 a b)))
def execVmac (t : Fin 512) (f : VA) (s : State) : Out :=
  opVA s t f ⟨[0, 1, 2], true, false, true⟩ f.ty.toNat true always
    (fun x => x.vecComps f f.ty.toNat (fun c a b => addC c (mul1 a b)))
def execVmacw (t : Fin 512) (f : VA) (s : State) : Out :=
  opVA s t f ⟨[0, 1, 2], true, false, true⟩ (etWide f.ty.toNat) true always
    (fun x => x.vecComps f (etWide f.ty.toNat) (fun c a b => addC c (mul1 a b)))
def execVcmul (t : Fin 512) (f : VA) (s : State) : Out :=
  opVA s t f ⟨[4], true, false, true⟩ 4 true always
    (fun x => x.vecComps f 4 (fun _ a b => shrC 15 (mul1 a b)))
def execVcmacw (t : Fin 512) (f : VA) (s : State) : Out :=
  opVA s t f ⟨[4], true, false, true⟩ 5 true always
    (fun x => x.vecComps f 5 (fun c a b => addC c (mul1 a b)))
def execVcmacjw (t : Fin 512) (f : VA) (s : State) : Out :=
  opVA s t f ⟨[4], true, false, true⟩ 5 true always
    (fun x => x.vecComps f 5 (fun c a b => addC c (mulConj a b)))
def execVcmac (t : Fin 512) (f : VA) (s : State) : Out :=
  opVA s t f ⟨[5], true, false, true⟩ 5 true always
    (fun x => x.vecComps f 5 (fun c a b => addC c (mul1 a b)))

def execVadd (t : Fin 512) (f : VA) (s : State) : Out :=
  opVA s t f ⟨tyAll, true, false, true⟩ f.ty.toNat true always
    (fun x => x.vecComps f f.ty.toNat (fun _ a b => addC a b))
def execVsub (t : Fin 512) (f : VA) (s : State) : Out :=
  opVA s t f ⟨tyAll, true, false, true⟩ f.ty.toNat true always
    (fun x => x.vecComps f f.ty.toNat (fun _ a b => subC a b))
def execVand (t : Fin 512) (f : VA) (s : State) : Out :=
  opVA s t f ⟨tyInt, false, false, true⟩ f.ty.toNat true always (fun x => x.vecBits f (fun _ a b => a &&& b))
def execVor (t : Fin 512) (f : VA) (s : State) : Out :=
  opVA s t f ⟨tyInt, false, false, true⟩ f.ty.toNat true always (fun x => x.vecBits f (fun _ a b => a ||| b))
def execVxor (t : Fin 512) (f : VA) (s : State) : Out :=
  opVA s t f ⟨tyInt, false, false, true⟩ f.ty.toNat true always (fun x => x.vecBits f (fun _ a b => a ^^^ b))
/-- vd := (vd AND va) OR (NOT vd AND vb). -/
def execVbsl (t : Fin 512) (f : VA) (s : State) : Out :=
  opVA s t f ⟨tyInt, false, false, true⟩ f.ty.toNat true always
    (fun x => x.vecBits f (fun d a b => (d &&& a) ||| ((2 ^ etW f.ty.toNat - 1 - d) &&& b)))

/-- The shift amount: field B as an immediate, or sb modulo the (component) width (R176). -/
def Tile.shiftAmt (x : Tile) (f : VA) : Nat :=
  if f.src then (x.rs f.b).toNat % etW f.ty.toNat else f.b.toNat

def execVshl (t : Fin 512) (f : VA) (s : State) : Out :=
  opVA s t f ⟨tyAll, true, false, true⟩ f.ty.toNat false always
    (fun x => x.vecComps f f.ty.toNat (fun _ a _ => a.map (· * (2 ^ x.shiftAmt f : Nat))))
/-- Arithmetic, or logical with U = 1. -/
def execVshr (t : Fin 512) (f : VA) (s : State) : Out :=
  opVA s t f ⟨tyAll, false, true, true⟩ f.ty.toNat false always
    (fun x => x.vecComps f f.ty.toNat (fun _ a _ =>
      a.map (fun v => (if f.u then (uns (etW f.ty.toNat) v : Int) else v) / (2 ^ x.shiftAmt f : Nat))))
/-- Narrowing shift by 0 to width − 1; a larger immediate is not defined for the type. -/
def execVnshr (t : Fin 512) (f : VA) (s : State) : Out :=
  opVA s t f ⟨[1, 2, 3, 5], true, false, true⟩ (etNarrow f.ty.toNat) false
    (fun _ => f.src || decide (f.b.toNat < etW f.ty.toNat))
    (fun x => x.vecComps f (etNarrow f.ty.toNat) (fun _ a _ => shrC (x.shiftAmt f) a))

/-- Element order, signed or unsigned, on raw bits of width w. -/
def ltBits (w : Nat) (u : Bool) (a b : Nat) : Bool := if u then decide (a < b) else decide (sgn w a < sgn w b)

def execVmax (t : Fin 512) (f : VA) (s : State) : Out :=
  opVA s t f ⟨tyInt, false, true, true⟩ f.ty.toNat true always
    (fun x => x.vecBits f (fun _ a b => if ltBits (etW f.ty.toNat) f.u a b then b else a))
def execVmin (t : Fin 512) (f : VA) (s : State) : Out :=
  opVA s t f ⟨tyInt, false, true, true⟩ f.ty.toNat true always
    (fun x => x.vecBits f (fun _ a b => if ltBits (etW f.ty.toNat) f.u b a then b else a))
/-- All ones where the condition holds, else zero. -/
def maskIf (w : Nat) (c : Bool) : Nat := if c then 2 ^ w - 1 else 0
def execVcmpeq (t : Fin 512) (f : VA) (s : State) : Out :=
  opVA s t f ⟨tyInt, false, false, true⟩ f.ty.toNat true always
    (fun x => x.vecBits f (fun _ a b => maskIf (etW f.ty.toNat) (a == b)))
def execVcmplt (t : Fin 512) (f : VA) (s : State) : Out :=
  opVA s t f ⟨tyInt, false, true, true⟩ f.ty.toNat true always
    (fun x => x.vecBits f (fun _ a b => maskIf (etW f.ty.toNat) (ltBits (etW f.ty.toNat) f.u a b)))
def execVcmple (t : Fin 512) (f : VA) (s : State) : Out :=
  opVA s t f ⟨tyInt, false, true, true⟩ f.ty.toNat true always
    (fun x => x.vecBits f (fun _ a b => maskIf (etW f.ty.toNat) (!(ltBits (etW f.ty.toNat) f.u b a))))

/-- A field B that the instruction does not use must be zero (R165, R176). -/
def bZero (f : VA) : Tile → Bool := fun _ => f.b == 0

def execVconj (t : Fin 512) (f : VA) (s : State) : Out :=
  opVA s t f ⟨[4, 5], true, false, false⟩ f.ty.toNat false (bZero f)
    (fun x => x.vecComps f f.ty.toNat (fun _ a _ => match a with | [r, i] => [r, -i] | l => l))
def execVneg (t : Fin 512) (f : VA) (s : State) : Out :=
  opVA s t f ⟨tyAll, true, false, false⟩ f.ty.toNat false (bZero f)
    (fun x => x.vecComps f f.ty.toNat (fun _ a _ => a.map (fun v => -v)))
def execVcvtw (t : Fin 512) (f : VA) (s : State) : Out :=
  opVA s t f ⟨[0, 1, 2, 4], false, true, false⟩ (etWide f.ty.toNat) false (bZero f)
    (fun x => x.vecComps f (etWide f.ty.toNat) (fun _ a _ =>
      a.map (fun v => if f.u then (uns (etW f.ty.toNat) v : Int) else v)))
def execVcvtn (t : Fin 512) (f : VA) (s : State) : Out :=
  opVA s t f ⟨[1, 2, 3, 5], true, false, false⟩ (etNarrow f.ty.toNat) false (bZero f)
    (fun x => x.vecComps f (etNarrow f.ty.toNat) (fun _ a _ => a))
/-- VMOV: vd := va, or sb broadcast; the field of the operand it does not use must be zero. -/
def execVmov (t : Fin 512) (f : VA) (s : State) : Out :=
  opVA s t f ⟨tyAll, false, false, true⟩ f.ty.toNat false (fun _ => if f.src then f.va == 0 else f.b == 0)
    (fun x => x.vecBits f (fun _ a b => if f.src then b else a))

/-! Permute and reduce (R177) -/

/-- A permute instruction: element i of the destination from the source elements as they stood before. -/
def opPerm (s : State) (t : Fin 512) (f : VA) (al : VAllow) (useB : Bool) (more : Tile → Bool)
    (op : Tile → Nat → Nat) : Out :=
  opVA s t f al f.ty.toNat useB more
    (fun x => x.putResults f f.ty.toNat (x.range.map (fun i => (op x i, false))))

/-- Raw source element i of va. -/
def Tile.srcA (x : Tile) (f : VA) (i : Nat) : Nat := x.elem f.va.toNat (etBytes f.ty.toNat) i

/-- The slide amount: field B, or sb. -/
def Tile.slideAmt (x : Tile) (f : VA) : Nat := if f.src then (x.rs f.b).toNat else f.b.toNat

def execVslidedn (t : Fin 512) (f : VA) (s : State) : Out :=
  opPerm s t f ⟨tyAll, false, false, true⟩ false always
    (fun x i => let k := x.slideAmt f; if i + k < x.vl.toNat then x.srcA f (i + k) else 0)
def execVslideup (t : Fin 512) (f : VA) (s : State) : Out :=
  opPerm s t f ⟨tyAll, false, false, true⟩ false always
    (fun x i => let k := x.slideAmt f; if k ≤ i then x.srcA f (i - k) else 0)
def execVperm (t : Fin 512) (f : VA) (s : State) : Out :=
  opPerm s t f ⟨tyAll, false, false, false⟩ true always
    (fun x i => let j := x.elem f.b.toNat (etBytes f.ty.toNat) i; if j < x.vl.toNat then x.srcA f j else 0)
def execVzip (t : Fin 512) (f : VA) (s : State) : Out :=
  opPerm s t f ⟨tyAll, false, false, false⟩ true always
    (fun x i => if i % 2 = 0 then x.srcA f (i / 2) else x.elem f.b.toNat (etBytes f.ty.toNat) (i / 2))
def execVunzip (t : Fin 512) (f : VA) (s : State) : Out :=
  opPerm s t f ⟨tyAll, false, true, false⟩ false (bZero f)
    (fun x i => let j := 2 * i + b01 f.u; if j < x.vl.toNat then x.srcA f j else 0)

/-- The two scalar results of a reduction; where both name one register the spec gives no order, and a free value
chooses which is kept. -/
def twoScalars (s : State) (t : Nat) (x : Tile) (d e : Reg) (vd ve : U64) : State :=
  if d = e ∧ d ≠ 0 then
    let (k, s) := s.drawBelow 2
    retire s t (x.wr d (if k = 0 then vd else ve))
  else retire s t ((x.wr d vd).wr e ve)

/-- A scalar-result instruction: PXS_VSTART is cleared and PXS_SAT set where a result was clamped. -/
def Tile.endScan (x : Tile) (clamped : Bool) : Tile := { x with vstart := 0, sat := x.sat || clamped }

/-- Exact sum of a component over the elements processed. -/
def Tile.sumComp (x : Tile) (f : VA) (c : Nat) : Int :=
  (x.range.map (fun i => (comps f.ty.toNat (x.srcA f i)).getD c 0)).sum

/-- VREDSUM (R177): integer sum to s_d; complex sums to s_d and s_e, each reduced to 64 bits. -/
def execVredsum (t : Fin 512) (f : VA) (s : State) : Out :=
  stepTile s t [f.vd, f.b]
    (fun x => vaLegal ⟨tyAll, true, false, false⟩ f none false x && (etCplx f.ty.toNat || f.b == 0)) (fun x =>
    let r := reduceTo 64 f.s (x.sumComp f 0)
    let i := reduceTo 64 f.s (x.sumComp f 1)
    if etCplx f.ty.toNat then twoScalars s t (x.endScan (r.2 || i.2)) f.vd f.b (w64 r.1) (w64 i.1)
    else retire s t ((x.endScan r.2).wr f.vd (w64 r.1)))

/-- The value VMAXI and VMINI compare: the element, or a complex element's power. -/
def Tile.searchVal (x : Tile) (f : VA) (i : Nat) : Int :=
  let t := f.ty.toNat
  let b := x.srcA f i
  if etCplx t then ((comps t b).map (fun v => v * v)).sum else if f.u then (b : Int) else sgn (etW t) b

/-- The search's extreme value and lowest index; `better` compares a value with the best so far. -/
def Tile.search (x : Tile) (f : VA) (better : Int → Int → Bool) : Option (Int × Nat) :=
  x.range.foldl (fun best i =>
    let v := x.searchVal f i
    match best with
    | none => some (v, i)
    | some (w, j) => if better v w then some (v, i) else some (w, j)) none

/-- The identity of a search over no element (R148). -/
def searchIdentity (f : VA) (isMax : Bool) : Int :=
  let t := f.ty.toNat
  if etCplx t then (if isMax then 0 else (2 ^ 64 - 1 : Nat))
  else if f.u then (if isMax then 0 else (2 ^ etW t - 1 : Nat))
  else if isMax then -(2 ^ (etW t - 1) : Nat) else (2 ^ (etW t - 1) - 1 : Nat)

/-- VMAXI and VMINI (R148). -/
def opSearch (s : State) (t : Fin 512) (f : VA) (isMax : Bool) : Out :=
  stepTile s t [f.vd, f.b]
    (fun x => vaLegal ⟨tyAll, false, true, false⟩ f none false x && !(f.u && etCplx f.ty.toNat)) (fun x =>
    let better : Int → Int → Bool := fun v w => if isMax then decide (w < v) else decide (v < w)
    match x.search f better with
    | some (v, i) => twoScalars s t (x.endScan false) f.vd f.b (BitVec.ofInt 64 v) (w64 i)
    | none => twoScalars s t (x.endScan false) f.vd f.b (BitVec.ofInt 64 (searchIdentity f isMax)) (w64 (2 ^ 64 - 1)))

def execVmaxi (t : Fin 512) (f : VA) (s : State) : Out := opSearch s t f true
def execVmini (t : Fin 512) (f : VA) (s : State) : Out := opSearch s t f false

end Sys2Proof.Machine
end

