-- ==== Sys2Proof/Machine/Dispatch.lean ====
section
/-! DEFINITION. Dispatch.lean: one arm for each command, each one call of the command's meaning. -/
namespace Sys2Proof.Machine

def exec (i : Instr) (s : State) : Host.Outcome State Fault Refusal :=
  match i with
  | .liveStagedWrite rq t row word v => Sys2Proof.Machine.execLiveStagedWrite rq t row word v s
  | .liveArm rq t => Sys2Proof.Machine.execLiveArm rq t s
  | .liveCancel rq t => Sys2Proof.Machine.execLiveCancel rq t s
  | .liveClrCnt rq t arm cancel => Sys2Proof.Machine.execLiveClrCnt rq t arm cancel s
  | .liveSwap t => Sys2Proof.Machine.execLiveSwap t s
  | .liveCopyDone t => Sys2Proof.Machine.execLiveCopyDone t s
  | .liveDirectWrite rq t row word v => Sys2Proof.Machine.execLiveDirectWrite rq t row word v s
  | .liveDeferredApply t row => Sys2Proof.Machine.execLiveDeferredApply t row s
  | .pllLock => Sys2Proof.Machine.execPllLock s
  | .clkrefLoss => Sys2Proof.Machine.execClkrefLoss s
  | .clkrefReturn => Sys2Proof.Machine.execClkrefReturn s
  | .clkLossHoldExpiry => Sys2Proof.Machine.execClkLossHoldExpiry s
  | .tbIncrementWrite rq v => Sys2Proof.Machine.execTbIncrementWrite rq v s
  | .tbStepWrite rq v => Sys2Proof.Machine.execTbStepWrite rq v s
  | .tbOffsetSecondsWrite rq v => Sys2Proof.Machine.execTbOffsetSecondsWrite rq v s
  | .tbOffsetWrite rq v => Sys2Proof.Machine.execTbOffsetWrite rq v s
  | .timebaseTickApply n => Sys2Proof.Machine.execTimebaseTickApply n s
  | .tbNowRead rq sub => Sys2Proof.Machine.execTbNowRead rq sub s
  | .ttOwnerWrite rq u v => Sys2Proof.Machine.execTtOwnerWrite rq u v s
  | .ttEnable rq u v => Sys2Proof.Machine.execTtEnable rq u v s
  | .ttDisable rq u v => Sys2Proof.Machine.execTtDisable rq u v s
  | .ttTimingWrite rq u which v => Sys2Proof.Machine.execTtTimingWrite rq u which v s
  | .triggerFire u row => Sys2Proof.Machine.execTriggerFire u row s
  | .triggerTrailingEdge u row => Sys2Proof.Machine.execTriggerTrailingEdge u row s
  | .captureEdge source rising eighth => Sys2Proof.Machine.execCaptureEdge source rising eighth s
  | .capturePop rq n => Sys2Proof.Machine.execCapturePop rq n s
  | .ppsOutRise => Sys2Proof.Machine.execPpsOutRise s
  | .ppsOutFall => Sys2Proof.Machine.execPpsOutFall s
  | .synceSquelch n => Sys2Proof.Machine.execSynceSquelch n s
  | .descriptorSubmit src badPath => Sys2Proof.Machine.execDescriptorSubmit src badPath s
  | .deferredDescriptorAllocate p => Sys2Proof.Machine.execDeferredDescriptorAllocate p s
  | .tokenAccept src path => Sys2Proof.Machine.execTokenAccept src path s
  | .taskDispatch p parity => Sys2Proof.Machine.execTaskDispatch p parity s
  | .unitDownSweep p => Sys2Proof.Machine.execUnitDownSweep p s
  | .lameMedianRecompute p => Sys2Proof.Machine.execLameMedianRecompute p s
  | .lameProbeDue t => Sys2Proof.Machine.execLameProbeDue t s
  | .planInstantiate c u row => Sys2Proof.Machine.execPlanInstantiate c u row s
  | .add t rd ra rb => Sys2Proof.Machine.execAdd t rd ra rb s
  | .sub t rd ra rb => Sys2Proof.Machine.execSub t rd ra rb s
  | .andR t rd ra rb => Sys2Proof.Machine.execAnd t rd ra rb s
  | .orR t rd ra rb => Sys2Proof.Machine.execOr t rd ra rb s
  | .xorR t rd ra rb => Sys2Proof.Machine.execXor t rd ra rb s
  | .sll t rd ra rb => Sys2Proof.Machine.execSll t rd ra rb s
  | .srl t rd ra rb => Sys2Proof.Machine.execSrl t rd ra rb s
  | .sra t rd ra rb => Sys2Proof.Machine.execSra t rd ra rb s
  | .slt t rd ra rb => Sys2Proof.Machine.execSlt t rd ra rb s
  | .sltu t rd ra rb => Sys2Proof.Machine.execSltu t rd ra rb s
  | .mul t rd ra rb => Sys2Proof.Machine.execMul t rd ra rb s
  | .mulh t rd ra rb => Sys2Proof.Machine.execMulh t rd ra rb s
  | .min t rd ra rb => Sys2Proof.Machine.execMin t rd ra rb s
  | .max t rd ra rb => Sys2Proof.Machine.execMax t rd ra rb s
  | .addi t rd ra imm => Sys2Proof.Machine.execAddi t rd ra imm s
  | .andi t rd ra imm => Sys2Proof.Machine.execAndi t rd ra imm s
  | .ori t rd ra imm => Sys2Proof.Machine.execOri t rd ra imm s
  | .xori t rd ra imm => Sys2Proof.Machine.execXori t rd ra imm s
  | .slli t rd ra imm => Sys2Proof.Machine.execSlli t rd ra imm s
  | .srli t rd ra imm => Sys2Proof.Machine.execSrli t rd ra imm s
  | .srai t rd ra imm => Sys2Proof.Machine.execSrai t rd ra imm s
  | .lui t rd ra imm => Sys2Proof.Machine.execLui t rd ra imm s
  | .slti t rd ra imm => Sys2Proof.Machine.execSlti t rd ra imm s
  | .sltiu t rd ra imm => Sys2Proof.Machine.execSltiu t rd ra imm s
  | .ldB t rd ra imm => Sys2Proof.Machine.execLdB t rd ra imm s
  | .ldH t rd ra imm => Sys2Proof.Machine.execLdH t rd ra imm s
  | .ldW t rd ra imm => Sys2Proof.Machine.execLdW t rd ra imm s
  | .ldD t rd ra imm => Sys2Proof.Machine.execLdD t rd ra imm s
  | .ldBu t rd ra imm => Sys2Proof.Machine.execLdBu t rd ra imm s
  | .ldHu t rd ra imm => Sys2Proof.Machine.execLdHu t rd ra imm s
  | .ldWu t rd ra imm => Sys2Proof.Machine.execLdWu t rd ra imm s
  | .stB t rd ra imm => Sys2Proof.Machine.execStB t rd ra imm s
  | .stH t rd ra imm => Sys2Proof.Machine.execStH t rd ra imm s
  | .stW t rd ra imm => Sys2Proof.Machine.execStW t rd ra imm s
  | .stD t rd ra imm => Sys2Proof.Machine.execStD t rd ra imm s
  | .beq t ra rb off => Sys2Proof.Machine.execBeq t ra rb off s
  | .bne t ra rb off => Sys2Proof.Machine.execBne t ra rb off s
  | .blt t ra rb off => Sys2Proof.Machine.execBlt t ra rb off s
  | .bge t ra rb off => Sys2Proof.Machine.execBge t ra rb off s
  | .bltu t ra rb off => Sys2Proof.Machine.execBltu t ra rb off s
  | .bgeu t ra rb off => Sys2Proof.Machine.execBgeu t ra rb off s
  | .jal t rd off => Sys2Proof.Machine.execJal t rd off s
  | .jalr t rd ra imm => Sys2Proof.Machine.execJalr t rd ra imm s
  | .loop0 t ra rsv fin => Sys2Proof.Machine.execLoop0 t ra rsv fin s
  | .loop1 t ra rsv fin => Sys2Proof.Machine.execLoop1 t ra rsv fin s
  | .fetch t rd ra rb => Sys2Proof.Machine.execFetch t rd ra rb s
  | .postD t rd ra rb => Sys2Proof.Machine.execPostD t rd ra rb s
  | .postDResult t => Sys2Proof.Machine.execPostDResult t s
  | .postT t rd ra rb => Sys2Proof.Machine.execPostT t rd ra rb s
  | .postStallRelease t => Sys2Proof.Machine.execPostStallRelease t s
  | .done t rd ra rb => Sys2Proof.Machine.execDone t rd ra rb s
  | .fence t rd ra rb => Sys2Proof.Machine.execFence t rd ra rb s
  | .eret t rd ra rb => Sys2Proof.Machine.execEret t rd ra rb s
  | .brk t rd ra rb => Sys2Proof.Machine.execBrk t rd ra rb s
  | .csrr t rd ra csr => Sys2Proof.Machine.execCsrr t rd ra csr s
  | .csrw t rd ra csr => Sys2Proof.Machine.execCsrw t rd ra csr s
  | .vsetvl t rd ra rb rsv vtype => Sys2Proof.Machine.execVsetvl t rd ra rb rsv vtype s
  | .vsetvlr t rd ra rb rsv vtype => Sys2Proof.Machine.execVsetvlr t rd ra rb rsv vtype s
  | .vmul t f => Sys2Proof.Machine.execVmul t f s
  | .vmulq t f => Sys2Proof.Machine.execVmulq t f s
  | .vmac t f => Sys2Proof.Machine.execVmac t f s
  | .vmacw t f => Sys2Proof.Machine.execVmacw t f s
  | .vcmul t f => Sys2Proof.Machine.execVcmul t f s
  | .vcmacw t f => Sys2Proof.Machine.execVcmacw t f s
  | .vcmacjw t f => Sys2Proof.Machine.execVcmacjw t f s
  | .vcmac t f => Sys2Proof.Machine.execVcmac t f s
  | .vadd t f => Sys2Proof.Machine.execVadd t f s
  | .vsub t f => Sys2Proof.Machine.execVsub t f s
  | .vand t f => Sys2Proof.Machine.execVand t f s
  | .vor t f => Sys2Proof.Machine.execVor t f s
  | .vxor t f => Sys2Proof.Machine.execVxor t f s
  | .vbsl t f => Sys2Proof.Machine.execVbsl t f s
  | .vshl t f => Sys2Proof.Machine.execVshl t f s
  | .vshr t f => Sys2Proof.Machine.execVshr t f s
  | .vnshr t f => Sys2Proof.Machine.execVnshr t f s
  | .vmax t f => Sys2Proof.Machine.execVmax t f s
  | .vmin t f => Sys2Proof.Machine.execVmin t f s
  | .vcmpeq t f => Sys2Proof.Machine.execVcmpeq t f s
  | .vcmplt t f => Sys2Proof.Machine.execVcmplt t f s
  | .vcmple t f => Sys2Proof.Machine.execVcmple t f s
  | .vconj t f => Sys2Proof.Machine.execVconj t f s
  | .vneg t f => Sys2Proof.Machine.execVneg t f s
  | .vcvtw t f => Sys2Proof.Machine.execVcvtw t f s
  | .vcvtn t f => Sys2Proof.Machine.execVcvtn t f s
  | .vmov t f => Sys2Proof.Machine.execVmov t f s
  | .vslidedn t f => Sys2Proof.Machine.execVslidedn t f s
  | .vslideup t f => Sys2Proof.Machine.execVslideup t f s
  | .vperm t f => Sys2Proof.Machine.execVperm t f s
  | .vzip t f => Sys2Proof.Machine.execVzip t f s
  | .vunzip t f => Sys2Proof.Machine.execVunzip t f s
  | .vredsum t f => Sys2Proof.Machine.execVredsum t f s
  | .vmaxi t f => Sys2Proof.Machine.execVmaxi t f s
  | .vmini t f => Sys2Proof.Machine.execVmini t f s
  | .vld t f => Sys2Proof.Machine.execVld t f s
  | .vst t f => Sys2Proof.Machine.execVst t f s
  | .interruptEntry t => Sys2Proof.Machine.execInterruptEntry t s
  | .tileRun rq t run => Sys2Proof.Machine.execTileRun rq t run s
  | .tileHalt rq t halt => Sys2Proof.Machine.execTileHalt rq t halt s
  | .tileNotify rq t => Sys2Proof.Machine.execTileNotify rq t s
  | .memoryAccess a => Sys2Proof.Machine.execMemoryAccess a s
  | .dictWindowLoad c m a bytes => Sys2Proof.Machine.execDictWindowLoad c m a bytes s
  | .dictWindowStore c m a bytes v => Sys2Proof.Machine.execDictWindowStore c m a bytes v s
  | .rcRead rq o => Sys2Proof.Machine.execRcRead rq o s
  | .objectWrite rq o v => Sys2Proof.Machine.execObjectWrite rq o v s
  | .portPush c v => Sys2Proof.Machine.execPortPush c v s
  | .portDone c handle => Sys2Proof.Machine.execPortDone c handle s
  | .portRingTailWrite c v => Sys2Proof.Machine.execPortRingTailWrite c v s
  | .leashGrant pt reqs => Sys2Proof.Machine.execLeashGrant pt reqs s
  | .leashStarve pt r => Sys2Proof.Machine.execLeashStarve pt r s
  | .requesterMask r => Sys2Proof.Machine.execRequesterMask r s
  | .requesterUnmask r => Sys2Proof.Machine.execRequesterUnmask r s
  | .dmaDoorbell rq n => Sys2Proof.Machine.execDmaDoorbell rq n s
  | .dmaIssue e => Sys2Proof.Machine.execDmaIssue e s
  | .dmaDescFetchDone n r => Sys2Proof.Machine.execDmaDescFetchDone n r s
  | .dmaReadResponse n r => Sys2Proof.Machine.execDmaReadResponse n r s
  | .dmaWriteResponse n r => Sys2Proof.Machine.execDmaWriteResponse n r s
  | .dmaDescComplete n => Sys2Proof.Machine.execDmaDescComplete n s
  | .dmaTailPoll n => Sys2Proof.Machine.execDmaTailPoll n s
  | .dmaResumeRetry rq n index => Sys2Proof.Machine.execDmaResumeRetry rq n index s
  | .dmaResumeNext rq n index => Sys2Proof.Machine.execDmaResumeNext rq n index s
  | .dmaResumeStop rq n index => Sys2Proof.Machine.execDmaResumeStop rq n index s
  | .dmaChannelDisable rq n => Sys2Proof.Machine.execDmaChannelDisable rq n s
  | .houndOccasionStart e w => Sys2Proof.Machine.execHoundOccasionStart e w s
  | .houndOccasionEnd e w => Sys2Proof.Machine.execHoundOccasionEnd e w s
  | .houndEnergyWindow e w => Sys2Proof.Machine.execHoundEnergyWindow e w s
  | .houndFloorEscape e w => Sys2Proof.Machine.execHoundFloorEscape e w s
  | .houndQualify e w => Sys2Proof.Machine.execHoundQualify e w s
  | .houndLaneSymbol e lane => Sys2Proof.Machine.execHoundLaneSymbol e lane s
  | .houndLaneFade e lane => Sys2Proof.Machine.execHoundLaneFade e lane s
  | .houndTokenSend e => Sys2Proof.Machine.execHoundTokenSend e s
  | .verdictCrcFail rq e tag => Sys2Proof.Machine.execVerdictCrcFail rq e tag s
  | .verdictCwIncrease rq e w => Sys2Proof.Machine.execVerdictCwIncrease rq e w s
  | .verdictCwReset rq e w => Sys2Proof.Machine.execVerdictCwReset rq e w s
  | .senseSlot e w => Sys2Proof.Machine.execSenseSlot e w s
  | .senseResult e w => Sys2Proof.Machine.execSenseResult e w s
  | .dftFwdCp p k => Sys2Proof.Machine.execDftFwdCp p k s
  | .dftInvCp p k => Sys2Proof.Machine.execDftInvCp p k s
  | .dftFwd p k => Sys2Proof.Machine.execDftFwd p k s
  | .dftInv p k => Sys2Proof.Machine.execDftInv p k s
  | .eqDetect p k => Sys2Proof.Machine.execEqDetect p k s
  | .eqEqualize p k => Sys2Proof.Machine.execEqEqualize p k s
  | .eqDemap p k => Sys2Proof.Machine.execEqDemap p k s
  | .bwCompute p => Sys2Proof.Machine.execBwCompute p s
  | .bwApply p => Sys2Proof.Machine.execBwApply p s
  | .accelJobComplete p k => Sys2Proof.Machine.execAccelJobComplete p k s
  | .ldDecode p k => Sys2Proof.Machine.execLdDecode p k s
  | .ldTbcrc p k => Sys2Proof.Machine.execLdTbcrc p k s
  | .leEncode p k => Sys2Proof.Machine.execLeEncode p k s
  | .tcDecode p => Sys2Proof.Machine.execTcDecode p s
  | .tcEncode p => Sys2Proof.Machine.execTcEncode p s
  | .tcTbcrc p => Sys2Proof.Machine.execTcTbcrc p s
  | .pcDecode p => Sys2Proof.Machine.execPcDecode p s
  | .pcEncode p => Sys2Proof.Machine.execPcEncode p s
  | .txSymbol c n l => Sys2Proof.Machine.execTxSymbol c n l s
  | .txCfgEnable rq c v => Sys2Proof.Machine.execTxCfgEnable rq c v s
  | .flRingPoll n => Sys2Proof.Machine.execFlRingPoll n s
  | .ulPdu n => Sys2Proof.Machine.execUlPdu n s
  | .dlBuild n => Sys2Proof.Machine.execDlBuild n s
  | .flowOpen n => Sys2Proof.Machine.execFlowOpen n s
  | .flowClose n => Sys2Proof.Machine.execFlowClose n s
  | .flowFree f => Sys2Proof.Machine.execFlowFree f s
  | .keyInsert n => Sys2Proof.Machine.execKeyInsert n s
  | .keyDelete n => Sys2Proof.Machine.execKeyDelete n s
  | .ctxRead n => Sys2Proof.Machine.execCtxRead n s
  | .rekey n => Sys2Proof.Machine.execRekey n s
  | .reown n => Sys2Proof.Machine.execReown n s
  | .gtpuDlPacket m => Sys2Proof.Machine.execGtpuDlPacket m s
  | .flowTimerExpiry f k => Sys2Proof.Machine.execFlowTimerExpiry f k s
  | .flPartitionPurge p => Sys2Proof.Machine.execFlPartitionPurge p s
  | .octetReconfigure rq o v => Sys2Proof.Machine.execOctetReconfigure rq o v s
  | .octetRestart o => Sys2Proof.Machine.execOctetRestart o s
  | .testRateChange rq l v => Sys2Proof.Machine.execTestRateChange rq l v s
  | .anResolve l partner fecReq => Sys2Proof.Machine.execAnResolve l partner fecReq s
  | .trainingDone l => Sys2Proof.Machine.execTrainingDone l s
  | .ltTimeoutDownshift l => Sys2Proof.Machine.execLtTimeoutDownshift l s
  | .anFullRestart l => Sys2Proof.Machine.execAnFullRestart l s
  | .eyeStart rq l v => Sys2Proof.Machine.execEyeStart rq l v s
  | .eyePointDone l mismatch => Sys2Proof.Machine.execEyePointDone l mismatch s
  | .laneSlip rq l v => Sys2Proof.Machine.execLaneSlip rq l v s
  | .slipDone l => Sys2Proof.Machine.execSlipDone l s
  | .rxwordRead rq l line => Sys2Proof.Machine.execRxwordRead rq l line s
  | .losDetect l => Sys2Proof.Machine.execLosDetect l s
  | .cdrLockLoss l => Sys2Proof.Machine.execCdrLockLoss l s
  | .ethRxFrame m f => Sys2Proof.Machine.execEthRxFrame m f s
  | .fdbAgeOut vid mac => Sys2Proof.Machine.execFdbAgeOut vid mac s
  | .htxPoll m => Sys2Proof.Machine.execHtxPoll m s
  | .ethTxFrameStart m => Sys2Proof.Machine.execEthTxFrameStart m s
  | .txOverrun m q => Sys2Proof.Machine.execTxOverrun m q s
  | .gclEntryBegin m row => Sys2Proof.Machine.execGclEntryBegin m row s
  | .gclEntryEnd m row => Sys2Proof.Machine.execGclEntryEnd m row s
  | .gclEnable rq m v => Sys2Proof.Machine.execGclEnable rq m v s
  | .fhTokenGroup n g => Sys2Proof.Machine.execFhTokenGroup n g s
  | .fhSymbolWindowOpen n l => Sys2Proof.Machine.execFhSymbolWindowOpen n l s
  | .fhSymbolWindowClose n l => Sys2Proof.Machine.execFhSymbolWindowClose n l s
  | .cplaneSend c dl => Sys2Proof.Machine.execCplaneSend c dl s
  | .cpriHyperframe k h => Sys2Proof.Machine.execCpriHyperframe k h s
  | .delayMeasureStart rq m v => Sys2Proof.Machine.execDelayMeasureStart rq m v s
  | .delayTimeout m => Sys2Proof.Machine.execDelayTimeout m s
  | .anchorRefetchDone a anchorOk => Sys2Proof.Machine.execAnchorRefetchDone a anchorOk s
  | .mergeFlush port block => Sys2Proof.Machine.execMergeFlush port block s
  | .groomerBlock p upset inner => Sys2Proof.Machine.execGroomerBlock p upset inner s
  | .hbmScrubTransfer r upset inner => Sys2Proof.Machine.execHbmScrubTransfer r upset inner s
  | .epClassClear rq c => Sys2Proof.Machine.execEpClassClear rq c s
  | .epErrorRecord c => Sys2Proof.Machine.execEpErrorRecord c s
  | .enberRead m => Sys2Proof.Machine.execEnberRead m s
  | .enberWrite m => Sys2Proof.Machine.execEnberWrite m s
  | .enberTokenWrite m r => Sys2Proof.Machine.execEnberTokenWrite m r s
  | .enberReadBlock m => Sys2Proof.Machine.execEnberReadBlock m s
  | .enberWriteBlock m => Sys2Proof.Machine.execEnberWriteBlock m s
  | .enberSubscribe m => Sys2Proof.Machine.execEnberSubscribe m s
  | .enberCommit m => Sys2Proof.Machine.execEnberCommit m s
  | .enberHello m => Sys2Proof.Machine.execEnberHello m s
  | .enberAuth m => Sys2Proof.Machine.execEnberAuth m s
  | .notifySend ix subid => Sys2Proof.Machine.execNotifySend ix subid s
  | .sessionIdleTimeout ix => Sys2Proof.Machine.execSessionIdleTimeout ix s
  | .handshakeExpiry h => Sys2Proof.Machine.execHandshakeExpiry h s
  | .tokenCtlWrite c m v => Sys2Proof.Machine.execTokenCtlWrite c m v s
  | .commitGo c m v => Sys2Proof.Machine.execCommitGo c m v s
  | .commitExecute r => Sys2Proof.Machine.execCommitExecute r s
  | .odUnitReset rq u => Sys2Proof.Machine.execOdUnitReset rq u s
  | .odQuarantine rq u => Sys2Proof.Machine.execOdQuarantine rq u s
  | .odRelease rq u => Sys2Proof.Machine.execOdRelease rq u s
  | .resetRelease => Sys2Proof.Machine.execResetRelease s
  | .partReset rq p => Sys2Proof.Machine.execPartReset rq p s
  | .partHold rq p => Sys2Proof.Machine.execPartHold rq p s
  | .partRelease rq p => Sys2Proof.Machine.execPartRelease rq p s
  | .warmReset rq => Sys2Proof.Machine.execWarmReset rq s
  | .holdCommand rq => Sys2Proof.Machine.execHoldCommand rq s
  | .pinReset => Sys2Proof.Machine.execPinReset s
  | .resetNRelease bootsel => Sys2Proof.Machine.execResetNRelease bootsel s
  | .por k => Sys2Proof.Machine.execPor k s
  | .pwrgoodRise bootsel => Sys2Proof.Machine.execPwrgoodRise bootsel s
  | .selfTestDone r => Sys2Proof.Machine.execSelfTestDone r s
  | .fwLoadDone p flash => Sys2Proof.Machine.execFwLoadDone p flash s
  | .partitionReady rq p => Sys2Proof.Machine.execPartitionReady rq p s
  | .pwrRequest rq u v => Sys2Proof.Machine.execPwrRequest rq u v s
  | .pwrPartitionAck rq p => Sys2Proof.Machine.execPwrPartitionAck rq p s
  | .pwrPartitionRefuse rq p => Sys2Proof.Machine.execPwrPartitionRefuse rq p s
  | .pwrPackAck p => Sys2Proof.Machine.execPwrPackAck p s
  | .pwrPrepTimeout => Sys2Proof.Machine.execPwrPrepTimeout s
  | .hushIdleGate p => Sys2Proof.Machine.execHushIdleGate p s
  | .packP3Wake p => Sys2Proof.Machine.execPackP3Wake p s
  | .guardLead => Sys2Proof.Machine.execGuardLead s
  | .guardListenEnd => Sys2Proof.Machine.execGuardListenEnd s
  | .wakeGpioEdge n rising => Sys2Proof.Machine.execWakeGpioEdge n rising s
  | .wakeTimer => Sys2Proof.Machine.execWakeTimer s
  | .residencyHourCommit => Sys2Proof.Machine.execResidencyHourCommit s
  | .supplyWarn r mv => Sys2Proof.Machine.execSupplyWarn r mv s
  | .supplyRecover r minMv us => Sys2Proof.Machine.execSupplyRecover r minMv us s
  | .warnHoldExpiry => Sys2Proof.Machine.execWarnHoldExpiry s
  | .thermalThrottle sensor temp => Sys2Proof.Machine.execThermalThrottle sensor temp s
  | .thermalCrit sensor temp => Sys2Proof.Machine.execThermalCrit sensor temp s
  | .thermalLevelFall sensor temp => Sys2Proof.Machine.execThermalLevelFall sensor temp s
  | .thermalTrip => Sys2Proof.Machine.execThermalTrip s
  | .shdL0Expiry x => Sys2Proof.Machine.execShdL0Expiry x s
  | .shdL1Expiry p entry => Sys2Proof.Machine.execShdL1Expiry p entry s
  | .shdL2Expiry c seq => Sys2Proof.Machine.execShdL2Expiry c seq s
  | .shdL3Expiry p => Sys2Proof.Machine.execShdL3Expiry p s
  | .shdL4Expiry => Sys2Proof.Machine.execShdL4Expiry s
  | .shdWindowReset level x => Sys2Proof.Machine.execShdWindowReset level x s
  | .shdAbortUntaken u => Sys2Proof.Machine.execShdAbortUntaken u s
  | .shdPet rq p => Sys2Proof.Machine.execShdPet rq p s
  | .deviceCheck ok => Sys2Proof.Machine.execDeviceCheck ok s
  | .shdAutoReturn u => Sys2Proof.Machine.execShdAutoReturn u s
  | .retestDone u => Sys2Proof.Machine.execRetestDone u s
  | .terrierSegmentStart p => Sys2Proof.Machine.execTerrierSegmentStart p s
  | .terrierSignatureCheck p => Sys2Proof.Machine.execTerrierSignatureCheck p s
  | .terrierMemStep p bad again lost => Sys2Proof.Machine.execTerrierMemStep p bad again lost s
  | .terrierRun rq u => Sys2Proof.Machine.execTerrierRun rq u s
  | .evrMramWrite => Sys2Proof.Machine.execEvrMramWrite s
  | .evrCursorWrite rq v => Sys2Proof.Machine.execEvrCursorWrite rq v s
  | .evrUserCtl rq v => Sys2Proof.Machine.execEvrUserCtl rq v s
  | .opsecCommit => Sys2Proof.Machine.execOpsecCommit s
  | .carrierOwnerWrite rq c owner => Sys2Proof.Machine.execCarrierOwnerWrite rq c owner s
  | .fwTrial rq p => Sys2Proof.Machine.execFwTrial rq p s
  | .fwConfirm rq p => Sys2Proof.Machine.execFwConfirm rq p s
  | .fwAbandon rq p => Sys2Proof.Machine.execFwAbandon rq p s
  | .fwTrialLimit p => Sys2Proof.Machine.execFwTrialLimit p s
  | .flashErase rq v => Sys2Proof.Machine.execFlashErase rq v s
  | .flashProgram rq v => Sys2Proof.Machine.execFlashProgram rq v s
  | .flashRead rq v => Sys2Proof.Machine.execFlashRead rq v s
  | .flashOpDone ok => Sys2Proof.Machine.execFlashOpDone ok s
  | .attestGo rq v => Sys2Proof.Machine.execAttestGo rq v s
  | .attestDone rq => Sys2Proof.Machine.execAttestDone rq s
  | .hoPair rq n => Sys2Proof.Machine.execHoPair rq n s
  | .hoArm rq n => Sys2Proof.Machine.execHoArm rq n s
  | .hoCancel rq n => Sys2Proof.Machine.execHoCancel rq n s
  | .hoClear rq n => Sys2Proof.Machine.execHoClear rq n s
  | .hoPrecheck n => Sys2Proof.Machine.execHoPrecheck n s
  | .hoCut n => Sys2Proof.Machine.execHoCut n s
  | .hoDrainEnd n => Sys2Proof.Machine.execHoDrainEnd n s
  | .gplEnable rq g v => Sys2Proof.Machine.execGplEnable rq g v s
  | .gplLanesWrite rq g v => Sys2Proof.Machine.execGplLanesWrite rq g v s
  | .gplHelloSend g => Sys2Proof.Machine.execGplHelloSend g s
  | .gplHello g h => Sys2Proof.Machine.execGplHello g h s
  | .gplDataFlit g f => Sys2Proof.Machine.execGplDataFlit g f s
  | .gplNak g seq => Sys2Proof.Machine.execGplNak g seq s
  | .gplReplayTimeout g => Sys2Proof.Machine.execGplReplayTimeout g s
  | .gplTask g part words => Sys2Proof.Machine.execGplTask g part words s
  | .gplToken g part w0 value => Sys2Proof.Machine.execGplToken g part w0 value s
  | .gplResult g result => Sys2Proof.Machine.execGplResult g result s
  | .gplRdReq g part vc a bytes uncorrectable upset => Sys2Proof.Machine.execGplRdReq g part vc a bytes uncorrectable upset s
  | .gplRdData g r data => Sys2Proof.Machine.execGplRdData g r data s
  | .gplWrReq g part vc a data => Sys2Proof.Machine.execGplWrReq g part vc a data s
  | .gplWrRsp g r => Sys2Proof.Machine.execGplWrRsp g r s
  | .gplRelay g m => Sys2Proof.Machine.execGplRelay g m s
  | .gplLinkstat g lo hi => Sys2Proof.Machine.execGplLinkstat g lo hi s
  | .gplLinkDown g why => Sys2Proof.Machine.execGplLinkDown g why s
  | .relayReq rq v => Sys2Proof.Machine.execRelayReq rq v s
  | .i2cWrite rq ix v => Sys2Proof.Machine.execI2cWrite rq ix v s
  | .i2cRead rq ix v => Sys2Proof.Machine.execI2cRead rq ix v s
  | .i2cWriteRead rq ix v => Sys2Proof.Machine.execI2cWriteRead rq ix v s
  | .i2cDone ix r => Sys2Proof.Machine.execI2cDone ix r s
  | .cdrLockAcquire l => Sys2Proof.Machine.execCdrLockAcquire l s
  | .blockLockLoss l => Sys2Proof.Machine.execBlockLockLoss l s
  | .cpriLossOfFrame k => Sys2Proof.Machine.execCpriLossOfFrame k s
  | .txGateClose c => Sys2Proof.Machine.execTxGateClose c s
  | .tokenCheckDone c r => Sys2Proof.Machine.execTokenCheckDone c r s
  | .mgmtPortFrame f => Sys2Proof.Machine.execMgmtPortFrame f s
  | .prbsCheckerLock l errors => Sys2Proof.Machine.execPrbsCheckerLock l errors s

end Sys2Proof.Machine
end

