-- ==== Sys2Proof/Safety.lean ====
section
/-!
DEFINITION. Safety.lean: the terms the claims use: the invariant of memory, a tile that runs its next instruction, a memory without
errors, and a requester whose write of an entry nothing refuses.
-/
namespace Sys2Proof.Machine

/-- The invariant: memory is in its canonical form. -/
abbrev State.Inv (s : State) : Prop := Memory.wf s.mem = true

/-- Tile t is RUNNING with its clock, its PC lies in IM, the word there has no error, and no result that an instruction naming these
registers needs is awaited (R154, R157, R391). -/
abbrev State.tileReady (s : State) (t : Nat) (uses : List Reg) : Prop :=
  (s.tl t).st = .running ∧ s.tileClocked t = true ∧ (s.tl t).pc.toNat < 0x10000 ∧ uses.any (s.tl t).awaits = false ∧
    s.imBad t (s.tl t).pc.toNat = false

/-- No byte has a fresh parity error, no word is poisoned, and no merge entry is open (R388, R399). -/
abbrev State.clean (s : State) : Prop := s.fresh = [] ∧ s.poison = [] ∧ s.merges = []

/-- A write of entry k by a requester passes right, owner, range and the state of its unit (R413, R416, R417). -/
abbrev State.writes (s : State) (rq : Requester) (k : Nat) (v : U64) : Prop := s.checkWrite rq k v = .ok

end Sys2Proof.Machine
end

