-- ==== Sys2Proof/WellFormed.lean ====
section
/-!
DEFINITION. WellFormed.lean: which commands are well formed: what the operands of a command can be by the shape of the thing they stand
for (a row of a table, the bytes of a message, a Psimir word). No meaning depends on it: a command that is not well formed acts as its
rules say, and no sender of the part can form it.
-/
namespace Sys2Proof

/-- Rows and words of a live table's copy (R32, table Live tables). -/
def tableShape : TableId → Nat × Nat
  | .plan _ => (2048, 8)
  | .gcl _ => (1024, 2)
  | .watch _ => (16, 8)
  | .trig _ => (16, 2)

/-- A message's payload fits a datagram of LEN at most 1,400 (R423), and its tag is absent or of 32 bytes. -/
def EnberMsg.wf (m : EnberMsg) : Bool := decide (m.payload.length ≤ 1400) && (m.tag.isEmpty || m.tag.length == 32)

/-- A shift immediate's IMM[7:6] is the operation's code (table Major opcodes). -/
def shiftCode (imm : BitVec 16) (code : BitVec 2) : Bool := imm.extractLsb' 6 2 == code

/-- A CPRI hyperframe: 150 in a frame, 4,096 frames; 256 control words (R379 to R381). -/
def CpriHyper.wf (h : CpriHyper) : Bool := decide (h.number < 4096 * 150) && h.control.length == 256

/-- A memory access has 1 to 256 bytes (R28), and a write as many bytes as it says (R181). -/
def MemAccess.wf (a : MemAccess) : Bool :=
  decide (1 ≤ a.bytes) && decide (a.bytes ≤ 256) && (match a.data with | some b => b.length == a.bytes | none => true)

/-- Well-formed commands. -/
def Instr.wf (i : Instr) : Bool :=
  match i with
  | .liveStagedWrite _ t row word _ | .liveDirectWrite _ t row word _ =>
    decide (row < (tableShape t).1) && decide (word < (tableShape t).2)
  | .liveDeferredApply t row => decide (row < (tableShape t).1)
  | .slli _ _ _ imm => shiftCode imm 0
  | .srli _ _ _ imm => shiftCode imm 1
  | .srai _ _ _ imm => shiftCode imm 2
  | .memoryAccess a => a.wf
  | .leashGrant _ reqs => reqs.all (fun a => reqs.countP (fun b => b.r == a.r && b.classD == a.classD) == 1)
  | .cpriHyperframe _ h => h.wf
  | .ethRxFrame _ f => decide (18 ≤ f.bytes.length)
  | .enberRead m | .enberWrite m | .enberTokenWrite m _ | .enberReadBlock m | .enberWriteBlock m | .enberSubscribe m
  | .enberCommit m | .enberHello m | .enberAuth m => m.wf
  | .gplTask _ _ ws => ws.length == 8
  | .gplRdReq _ _ _ _ n _ _ => decide (1 ≤ n) && decide (n ≤ 256)
  | .gplWrReq _ _ _ _ b => !b.isEmpty && decide (b.length ≤ 256)
  | .i2cDone _ r => (match r with | .ok b => decide (b.length ≤ 32) | _ => true)
  | _ => true

end Sys2Proof
end

