-- ==== Sys2Proof/Certificates/Slice0/Obligations.lean ====
section
/-!
DEFINITION. Obligations.lean: the statements about the model, O1 to O60, for the provers. `exec c s = .next t` says that command c
completes; a free value (assumption 2) is never constrained.
-/
section
open Sys2Proof Sys2Proof.Machine

/-- O1. The step takes the command at the front of the queue and runs it on the state with the queue's rest; on an empty queue the
part idles (DESIGN CHOICE, assumption 1). -/
def Obligations.StepRunsFrontCommand : Prop :=
  (∀ (c : Instr) (r : List Instr) (s : State), step { s with pending := c :: r } = exec c { s with pending := r }) ∧
  (∀ s : State, s.pending = [] → step s = .next s)

/-- O2. Every command completes in every state: a block stops on nothing (no row of the table is refused or faults). -/
def Obligations.EveryCommandCompletes : Prop := ∀ (c : Instr) (s : State), ∃ t : State, exec c s = .next t

/-- O3. Writes of live tables (R34 to R41, R44, R45): a staged write in IDLE sets its word, in another state it is refused BUSY and counted;
ARM of an IDLE table arms it from this tick; CANCEL of an ARMED table whose boundary lies at least 64 FCLK cycles (32 ticks) ahead returns
it to IDLE, later it is refused, of an IDLE one it changes nothing; CLR_CNT clears both counters, and then an ARM or CANCEL set with it
is performed; a direct write is deferred while an occurrence executes the row, else applied at once, and refused while ARMED. -/
def Obligations.LiveTableWrites : Prop :=
  ∀ (s : State) (rq : Requester) (t : TableId) (row word : Nat) (v : U64),
    let d := tput (s.lv t).deferred row (tput (tget [] (s.lv t).deferred row) word (clearPend t word v))
    (row < liveRows t → word < liveWords t → s.checkWho rq (rowKey t 1 row word) v = .ok → s.liveState t = lsIdle →
      s.rowOk t 1 row ((s.rowOf t 1 row).set word (clearPend t word v)) word = true →
      exec (.liveStagedWrite rq t row word v) s = .next ((s.setEnt (rowKey t 1 row word) (clearPend t word v)).status .ok)) ∧
    (row < liveRows t → word < liveWords t → s.checkWho rq (rowKey t 1 row word) v = .ok → s.liveState t ≠ lsIdle →
      exec (.liveStagedWrite rq t row word v) s = .next ((s.incSat (liveCtlKey t) 47 32 1).status .busy)) ∧
    (s.checkWho rq (liveCtlKey t) (w64 (2 ^ 29)) = .ok → s.liveState t = lsIdle → s.armOk t = true →
      exec (.liveArm rq t) s =
        .next (((s.setLv t { (s.lv t) with armedAt := s.raw.toNat }).setFld (liveCtlKey t) 31 30 1).status .ok)) ∧
    (s.checkWho rq (liveCtlKey t) (w64 (2 ^ 28)) = .ok → s.liveState t = lsArmed →
      (∀ b, s.pendingBoundary t = some b → s.liveMaySwap t = true → s.raw.toNat + 32 ≤ s.tickOf b) →
      exec (.liveCancel rq t) s = .next (((s.setFlag (liveCtlKey t) 25 false).setFld (liveCtlKey t) 31 30 0).status .ok)) ∧
    (∀ b, s.checkWho rq (liveCtlKey t) (w64 (2 ^ 28)) = .ok → s.liveState t = lsArmed → s.pendingBoundary t = some b →
      s.liveMaySwap t = true → s.tickOf b < s.raw.toNat + 32 →
      exec (.liveCancel rq t) s = .next ((s.incSat (liveCtlKey t) 47 32 1).status .busy)) ∧
    (s.checkWho rq (liveCtlKey t) (w64 (2 ^ 28)) = .ok → s.liveState t = lsIdle →
      exec (.liveCancel rq t) s = .next (s.status .ok)) ∧
    (s.checkWho rq (liveCtlKey t) (w64 (2 ^ 27)) = .ok →
      exec (.liveClrCnt rq t false false) s =
        .next (((s.setFld (liveCtlKey t) 63 48 0).setFld (liveCtlKey t) 47 32 0).status .ok)) ∧
    (s.checkWho rq (liveCtlKey t) (w64 (2 ^ 29 + 2 ^ 27)) = .ok →
      exec (.liveClrCnt rq t true false) s =
        .next ((s.setFld (liveCtlKey t) 63 48 0).setFld (liveCtlKey t) 47 32 0 |>.liveArmNow t)) ∧
    (s.checkWho rq (liveCtlKey t) (w64 (2 ^ 28 + 2 ^ 27)) = .ok →
      exec (.liveClrCnt rq t false true) s =
        .next ((s.setFld (liveCtlKey t) 63 48 0).setFld (liveCtlKey t) 47 32 0 |>.liveCancelNow t)) ∧
    (s.checkWho rq (liveCtlKey t) (w64 (2 ^ 29 + 2 ^ 28 + 2 ^ 27)) = .ok →
      exec (.liveClrCnt rq t true true) s = .next ((s.incSat (liveCtlKey t) 47 32 1).status .range)) ∧
    (row < liveRows t → word < liveWords t → s.checkWho rq (rowKey t 0 row word) v = .ok → s.liveState t ≠ lsArmed →
      s.rowOk t 0 row ((s.shownRow t row).set word (clearPend t word v)) word = true → s.executing t row = true →
      exec (.liveDirectWrite rq t row word v) s =
        .next ((s.setLv t { (s.lv t) with deferred := d }).status .ok)) ∧
    (row < liveRows t → word < liveWords t → s.checkWho rq (rowKey t 0 row word) v = .ok → s.liveState t ≠ lsArmed →
      s.rowOk t 0 row ((s.shownRow t row).set word (clearPend t word v)) word = true → s.executing t row = false →
      exec (.liveDirectWrite rq t row word v) s =
        .next ((((s.setLv t { (s.lv t) with deferred := d }).barRow t row).applyDeferred t row).status .ok)) ∧
    (row < liveRows t → word < liveWords t → s.checkWho rq (rowKey t 0 row word) v = .ok → s.liveState t = lsArmed →
      exec (.liveDirectWrite rq t row word v) s = .next ((s.incSat (liveCtlKey t) 47 32 1).status .busy))

/-- O4. Live tables' own events (R34, R35, R39): an ARMED table swaps at the first boundary at least 64 FCLK cycles after its arm, once
that is reached, and then copies; where only an earlier boundary is reached, LATE is set; a copying table takes its active copy into the
staged one and is IDLE; a deferred row waits while an occurrence executes it and is applied once none does. -/
def Obligations.LiveTableEvents : Prop :=
  ∀ (s : State) (t : TableId) (row b : Nat),
    (s.liveState t = lsArmed → s.liveMaySwap t = true → s.nextBoundary t ((s.lv t).armedAt + 32) = some b →
      s.tickOf b ≤ s.raw.toNat → exec (.liveSwap t) s = .next (s.liveSwapNow t b)) ∧
    (s.liveState t = lsArmed → s.liveMaySwap t = true → s.boundaryReached t ((s.lv t).armedAt + 32) = false →
      s.boundaryReached t (s.lv t).armedAt = true → exec (.liveSwap t) s = .next (s.setFlag (liveCtlKey t) 25 true)) ∧
    (s.liveState t = lsCopying → exec (.liveCopyDone t) s = .next (s.liveCopied t)) ∧
    (s.liveState t = lsCopying → (s.lv t).deferred = [] →
      exec (.liveCopyDone t) s = .next ({ s with
        od := putAll (dropSpan s.od (rowKey t 1 0 0) (liveSpan t))
          (movedFrom s.od (rowKey t 0 0 0) (rowKey t 1 0 0) (liveSpan t)) }.setFld (liveCtlKey t) 31 30 0)) ∧
    (s.executing t row = true → exec (.liveDeferredApply t row) s = .next s) ∧
    (s.executing t row = false → exec (.liveDeferredApply t row) s = .next (s.applyDeferred t row)) ∧
    (tfind (s.lv t).deferred row = none → s.applyDeferred t row = s)

/-- O5. Clocks (R47 to R49, R76): loss of CLKREF clears REF_OK and LOCK, sets FREERUN, counts and records; its return sets REF_OK and
records the microseconds of its absence; lock of the PLL, where its reference is there and no thermal trip has stopped the clocks, clears
FREERUN and starts the clocks, and a part that waits in reset boots; a loss longer than CLK_LOSS_HOLD ends in HOLD, and not before; a
SYNCE output whose lane's CDR is not locked is held low. -/
def Obligations.ClockEvents : Prop :=
  ∀ (s : State) (n : Fin 2),
    (s.flag Key.clkStatus clkRefOk = true →
      exec .clkrefLoss s = .next ((((({ s with refLostRaw := s.raw.toNat }.setFlag Key.clkStatus clkRefOk false).setFlag Key.clkStatus
        clkLock false).setFlag Key.clkStatus clkFreerun true).inc32 Key.clkRefLossCnt 1).record 0x10 [0, 0])) ∧
    (s.flag Key.clkStatus clkFreerun = true → s.flag Key.clkStatus clkRefOk = false →
      exec .clkrefReturn s = .next ((s.setFlag Key.clkStatus clkRefOk true).record 0x10 [1, w64 (usOf (s.raw.toNat - s.refLostRaw))])) ∧
    (s.flag Key.clkStatus clkFreerun = false ∨ s.flag Key.clkStatus clkRefOk = true → s.thermTrip = false →
      let u := { ((s.setFlag Key.clkStatus clkRefOk true).setFlag Key.clkStatus clkLock true).setFlag Key.clkStatus clkFreerun false with
        clocksStopped := false }
      exec .pllLock s = .next (if u.pwrgood = true ∧ u.resetN = true ∧ u.phase = phReset ∧ u.resetJob.isSome = true then u.bootFromRom
        else u)) ∧
    (s.flag Key.clkStatus clkFreerun = true → s.flag Key.clkStatus clkRefOk = false → s.dev ≠ .hold → phPost ≤ s.phase →
      s.entN Key.clkLossHold * 12288 < 25 * (s.raw.toNat - s.refLostRaw) → exec .clkLossHoldExpiry s = .next (s.enterHold hcClkref)) ∧
    (25 * (s.raw.toNat - s.refLostRaw) ≤ s.entN Key.clkLossHold * 12288 → exec .clkLossHoldExpiry s = .next s) ∧
    (s.cdrLocked (s.fld (Key.clkSynceOut n.val) 6 0) = false →
      exec (.synceSquelch n) s = .next { s with synceLow := tput s.synceLow n.val true })

/-- O6. Timebase writes (R53, R54, R56, R415): an accepted write of TB_INCREMENT, TB_STEP or TB_OFFSET is registered and changes
nothing else; the seconds are held for their requester until the nanoseconds are written. -/
def Obligations.TimebaseWrites : Prop :=
  ∀ (s : State) (rq : Requester) (v : U64),
    (s.checkWrite rq Key.tbIncrement v = .ok →
      exec (.tbIncrementWrite rq v) s = .next ({ s with tbWrites := s.tbWrites ++ [TbWrite.rate v] }.status .ok)) ∧
    (s.checkWrite rq Key.tbStep v = .ok →
      exec (.tbStepWrite rq v) s = .next ({ s with tbWrites := s.tbWrites ++ [TbWrite.step v] }.status .ok)) ∧
    (s.checkWrite rq (Key.tbOffset 0) v = .ok →
      exec (.tbOffsetSecondsWrite rq v) s = .next ({ s with hold := tput s.hold (slotKey rq (Key.tbOffset 0)) v }.status .ok)) ∧
    (s.checkWrite rq (Key.tbOffset 1) v = .ok →
      exec (.tbOffsetWrite rq v) s = .next ({ s with
        hold := tdel s.hold (slotKey rq (Key.tbOffset 0))
        tbWrites := s.tbWrites ++ [TbWrite.offset (tfind s.hold (slotKey rq (Key.tbOffset 0))) v] }.status .ok)) ∧
    (s.checkWrite rq (Key.tbOffset 1) v = .range →
      exec (.tbOffsetWrite rq v) s = .next ({ s with hold := tdel s.hold (slotKey rq (Key.tbOffset 0)) }.status .range))

/-- O7. The computed time (R52): the offset plus the exact product of raw value and increment, truncated toward minus infinity to
units of 2^-32 ns, with seconds that wrap modulo 2^64; at the tick at which a change of rate takes effect it is what it was (R54). -/
def Obligations.ComputedTime : Prop :=
  (∀ (s : State) (raw : Nat), s.timeOf raw =
    (t128 (s.ent (Key.tbOffset 0)) (s.ent (Key.tbOffset 1)) + raw * (s.ent Key.tbIncrement).toNat / 2 ^ (48 - 32)) %
      (2 ^ 64 * (10 ^ 9 * 2 ^ 32))) ∧
  (∀ (s : State) (v : U64), (s.tbRate (.rate v)).timeOf s.raw.toNat = s.timeOf s.raw.toNat ∧ (s.tbRate (.rate v)).inc = v.toNat)

/-- O8. Ticks, readings and PPS_OUT (R46, R51, R57, R59, R75): n ticks advance the raw counter by n, and the writes that wait take effect at
the first of them; a read of TB_NOW.00 captures raw value and time in the reader's own slot, from which .01 and .02 are read; PPS_OUT
rises where the computed time crosses a whole second plus OFFSET while nothing holds it low, and falls WIDTH µs after it rose. -/
def Obligations.TicksAndReadings : Prop :=
  ∀ (s : State) (rq : Requester) (n : Nat),
    (n ≠ 0 → s.pwrgood = true → s.clocksStopped = false →
      ∃ u, exec (.timebaseTickApply n) s = .next u ∧ u.raw = s.raw + BitVec.ofNat 64 n ∧ u.mem = s.mem ∧ u.tbWrites = []) ∧
    (s.checkRead rq (Key.tbNow 0) = .ok →
      exec (.tbNowRead rq 0) s = .next ({ s with capSlots := tput s.capSlots (rqSlot rq) ⟨s.raw, s.now⟩ }.answer (.value s.raw))) ∧
    (s.checkRead rq (Key.tbNow 1) = .ok →
      exec (.tbNowRead rq 1) s = .next (s.answer (.value (t128Sec (tget ⟨0, 0⟩ s.capSlots (rqSlot rq)).time)))) ∧
    (s.checkRead rq (Key.tbNow 2) = .ok →
      exec (.tbNowRead rq 2) s = .next (s.answer (.value (t128Ns (tget ⟨0, 0⟩ s.capSlots (rqSlot rq)).time)))) ∧
    (s.ppsOpen = true →
      ((s.timeOf (s.raw.toNat - 1) : Int) - sgn 32 (s.fld Key.tbPpsOutCfg 63 32) * 2 ^ 32) / (secU : Int) <
        ((s.now : Int) - sgn 32 (s.fld Key.tbPpsOutCfg 63 32) * 2 ^ 32) / (secU : Int) →
      exec .ppsOutRise s = .next { s with ppsOut := true, ppsRaw := s.raw.toNat }) ∧
    (s.fld Key.tbPpsOutCfg 31 8 * 12288 ≤ 25 * (s.raw.toNat - s.ppsRaw) → exec .ppsOutFall s = .next { s with ppsOut := false }) ∧
    (25 * (s.raw.toNat - s.ppsRaw) < s.fld Key.tbPpsOutCfg 31 8 * 12288 → exec .ppsOutFall s = .next s)

/-- O9. Capture FIFOs (R74): a read of TB_CAPn_RAW pops the FIFO head and returns its raw value, after which reads of TB_CAPn_TIME are
that entry's TIME128; a read from an empty FIFO returns zero and sets EMPTY; a capture joins the FIFO of the unit that watches its
source, and at a full FIFO is discarded and counted in OVF, which saturates. -/
def Obligations.CaptureFifos : Prop :=
  ∀ (s : State) (rq : Requester) (m : Nat) (f : Fin 8) (src : BitVec 7) (rising : Bool) (eighth : Fin 8) (c : Cap) (q : List Cap),
    let only := m < 8 ∧ ∀ k, k < 8 → s.capTakes k src.toNat rising = decide (k = m)
    (s.checkRead rq (Key.tbCapRaw f.val) = .ok → tget [] s.capFifo f.val = c :: q →
      ∃ u, exec (.capturePop rq f) s = .next u ∧ u.reply = .value c.raw ∧ tget [] u.capFifo f.val = q ∧
        (∀ k, k ≠ f.val → tget [] u.capFifo k = tget [] s.capFifo k) ∧ u.od = s.od ∧
        ∀ slot v, u.liveValue slot .tbCapTime [0, f.val] v = t128Sec c.time ∧ u.liveValue slot .tbCapTime [1, f.val] v = t128Ns c.time) ∧
    (s.checkRead rq (Key.tbCapRaw f.val) = .ok → tget [] s.capFifo f.val = [] →
      exec (.capturePop rq f) s = .next ((s.setFlag (Key.tbCapStat f.val) 31 true).answer (.value 0))) ∧
    (only → (tget [] s.capFifo m).length < 4 →
      exec (.captureEdge src rising eighth) s =
        .next { s with capFifo := tput s.capFifo m (tget [] s.capFifo m ++ [s.edgeCap src.toNat eighth]) }) ∧
    (only → 4 ≤ (tget [] s.capFifo m).length → ∃ u, exec (.captureEdge src rising eighth) s = .next u ∧ u.capFifo = s.capFifo ∧
      u.fld (Key.tbCapStat m) 15 0 = min (s.fld (Key.tbCapStat m) 15 0 + 1) 65535) ∧
    ((∀ k, k < 8 → s.capTakes k src.toNat rising = false) → exec (.captureEdge src rising eighth) s = .next s) ∧
    (s.edgeCap src.toNat eighth).raw = s.raw ∧ (src.toNat ≠ 127 → s.offset < timeMod → (s.edgeCap src.toNat eighth).time = s.now)

/-- O10. Trigger units (R61 to R63, R68, R69, R72): a change of owner defaults the unit's class K objects; EN of a unit with an owner and a
period starts it: a periodic one at the first cycle at least 64 FCLK cycles ahead, a ONESHOT one at cycle 0, or it is MISSED; a
disabled unit's occurrences end; START and PERIOD are written with EN clear, and refused BUSY with EN set; a due row fires; a trailing edge
ends the occurrence whose width has passed. -/
def Obligations.TriggerUnits : Prop :=
  ∀ (s : State) (rq : Requester) (u : Fin 64) (row : Fin 16) (v : U64),
    let w := setBit v 0 true
    let b := (s.setEnt (Key.ttCfg u.val) w).status .ok
    let starts := s.checkWrite rq (Key.ttCfg u.val) w = .ok ∧ s.flag (Key.ttCfg u.val) 0 = false ∧ s.entN (Key.ttOwner u.val) < 8 ∧
      s.ttPeriod u.val ≠ 0
    (s.checkWrite rq (Key.ttOwner u.val) v = .ok → v ≠ s.ent (Key.ttOwner u.val) →
      exec (.ttOwnerWrite rq u v) s = .next (((s.ttDefaultK u).setEnt (Key.ttOwner u.val) v).status .ok)) ∧
    (starts → exec (.ttEnable rq u v) s = .next (b.ttStartUnit u)) ∧
    (b.flag (Key.ttCfg u.val) 1 = false →
      b.ttStartUnit u = b.setTrg u.val ⟨b.firstCycle (b.ttBase u.val) (b.ttPeriod u.val) (s.raw.toNat + 32), []⟩) ∧
    (b.flag (Key.ttCfg u.val) 1 = true → s.raw.toNat + 32 ≤ b.tickOf (b.ttBase u.val) → b.ttStartUnit u = b.setTrg u.val ⟨0, []⟩) ∧
    (b.flag (Key.ttCfg u.val) 1 = true → b.tickOf (b.ttBase u.val) < s.raw.toNat + 32 →
      b.ttStartUnit u = (b.setFlag (Key.ttStat u.val) 0 true).setFlag (Key.ttCfg u.val) 0 false) ∧
    (s.checkWrite rq (Key.ttCfg u.val) (setBit v 0 false) = .ok →
      exec (.ttDisable rq u v) s = .next (((s.setEnt (Key.ttCfg u.val) (setBit v 0 false)).status .ok).setLv (.trig u)
        { s.lv (.trig u) with occ := [] })) ∧
    (s.checkWrite rq (Key.ttStart u.val 0) v = .ok → s.flag (Key.ttCfg u.val) 0 = false →
      exec (.ttTimingWrite rq u 0 v) s = .next ((s.setEnt (Key.ttStart u.val 0) v).status .ok)) ∧
    (s.checkWrite rq (Key.ttStart u.val 1) v = .ok → s.flag (Key.ttCfg u.val) 0 = false →
      exec (.ttTimingWrite rq u 1 v) s = .next ((s.setEnt (Key.ttStart u.val 1) v).status .ok)) ∧
    (s.checkWrite rq (Key.ttPeriod u.val) v = .ok → s.flag (Key.ttCfg u.val) 0 = false →
      (∀ c r, c < 2 → r < 16 → s.trigRowOk u.val v.toNat (s.rowOf (.trig u) c r) = true) →
      exec (.ttTimingWrite rq u 2 v) s = .next ((s.setEnt (Key.ttPeriod u.val) v).status .ok)) ∧
    (∀ k, s.checkWrite rq (ttTimingKey u k) v = .ok → s.flag (Key.ttCfg u.val) 0 = true →
      exec (.ttTimingWrite rq u k v) s = .next (s.status .busy)) ∧
    (∀ t, (s.ttReady u row.val).ttDue u row.val = some t → t ≤ (s.ttReady u row.val).now →
      exec (.triggerFire u row) s =
        .next (((s.ttReady u row.val).ttFire u row.val ((s.ttReady u row.val).ttCycle u row.val) t).oneshotEnd u)) ∧
    (exec (.triggerTrailingEdge u row) s = .next ((s.endOcc (.trig u) (fun o => o.row == row.val && s.occOver o)).oneshotEnd u))

/-- O11. Scalar register operations and immediates (R169, tables Scalar register operations and Major opcodes): the result goes to rd and
the instruction retires. ADDI, SLTI and SLTIU sign-extend IMM, ANDI, ORI and XORI zero-extend it, a shift takes IMM[5:0], LUI writes
IMM × 65,536. -/
def Obligations.ScalarResults : Prop :=
  ∀ (s : State) (t : Fin 512) (rd ra rb : Reg) (imm : BitVec 16),
    let x := s.tl t
    let a := x.rs ra
    let b := x.rs rb
    let done := fun (v : U64) => (Host.Outcome.next (retire s t (x.wr rd v)) : Out)
    (s.tileReady t [rd, ra, rb] →
      exec (.add t rd ra rb) s = done (a + b) ∧
      exec (.sub t rd ra rb) s = done (a - b) ∧
      exec (.andR t rd ra rb) s = done (a &&& b) ∧
      exec (.orR t rd ra rb) s = done (a ||| b) ∧
      exec (.xorR t rd ra rb) s = done (a ^^^ b) ∧
      exec (.sll t rd ra rb) s = done (a <<< (b.toNat % 64)) ∧
      exec (.srl t rd ra rb) s = done (a >>> (b.toNat % 64)) ∧
      exec (.sra t rd ra rb) s = done (a.sshiftRight (b.toNat % 64)) ∧
      exec (.slt t rd ra rb) s = done (if BitVec.slt a b then 1 else 0) ∧
      exec (.sltu t rd ra rb) s = done (if BitVec.ult a b then 1 else 0) ∧
      exec (.mul t rd ra rb) s = done (a * b) ∧
      exec (.mulh t rd ra rb) s = done ((a.signExtend 128 * b.signExtend 128).extractLsb' 64 64) ∧
      exec (.min t rd ra rb) s = done (if BitVec.slt a b then a else b) ∧
      exec (.max t rd ra rb) s = done (if BitVec.slt a b then b else a)) ∧
    (s.tileReady t [rd, ra] →
      exec (.addi t rd ra imm) s = done (a + imm.signExtend 64) ∧
      exec (.andi t rd ra imm) s = done (a &&& imm.zeroExtend 64) ∧
      exec (.ori t rd ra imm) s = done (a ||| imm.zeroExtend 64) ∧
      exec (.xori t rd ra imm) s = done (a ^^^ imm.zeroExtend 64) ∧
      (imm.toNat / 64 = 0 → exec (.slli t rd ra imm) s = done (a <<< (imm.toNat % 64))) ∧
      (imm.toNat / 64 = 1 → exec (.srli t rd ra imm) s = done (a >>> (imm.toNat % 64))) ∧
      (imm.toNat / 64 = 2 → exec (.srai t rd ra imm) s = done (a.sshiftRight (imm.toNat % 64))) ∧
      (ra = 0 → exec (.lui t rd ra imm) s = done (BitVec.ofNat 64 (imm.toNat * 65536))) ∧
      exec (.slti t rd ra imm) s = done (if BitVec.slt a (imm.signExtend 64) then 1 else 0) ∧
      exec (.sltiu t rd ra imm) s = done (if BitVec.ult a (imm.signExtend 64) then 1 else 0))

/-- O12. Retiring an instruction (R150, R151): the scalar registers, the vector registers and the status of the tile are those of
the instruction's result, no other tile changes, memory does not change, and no entry but the count of retired instructions does. -/
def Obligations.RetireFrame : Prop :=
  ∀ (s : State) (t : Nat) (x : Tile),
    ((retire s t x).tl t).s = x.s ∧ ((retire s t x).tl t).v = x.v ∧ ((retire s t x).tl t).status = x.status ∧
    ((retire s t x).tl t).sat = x.sat ∧ ((retire s t x).tl t).vl = x.vl ∧ ((retire s t x).tl t).vtype = x.vtype ∧
    (∀ t', t' ≠ t → (retire s t x).tl t' = s.tl t') ∧
    (∀ a, (retire s t x).byte a = s.byte a) ∧
    (∀ k, k ≠ Key.pxRetired t → (retire s t x).ent k = s.ent k) ∧
    (x.lpen = false → ((retire s t x).tl t).pc = x.pc + 4)

/-- O13. Register s0 reads as zero and takes no value (Psimir scalar registers). -/
def Obligations.RegisterZero : Prop :=
  ∀ (x : Tile) (v : U64) (r r' : Reg), x.rs 0 = 0 ∧ x.wr 0 v = x ∧ (r ≠ 0 → (x.wr r v).rs r = v) ∧ (r' ≠ r → (x.wr r v).rs r' = x.rs r')

/-- O14. Scalar loads (R121, R143, R169, R225): at an address of the tile's memories that it does not watch, the bytes at the address,
little-endian, sign- or zero-extended, go to rd; from memory without errors nothing else changes, and in any memory the load meets fresh
errors and notes the first poisoned byte; an 8-byte load of the control page returns the pack's control word. -/
def Obligations.ScalarLoads : Prop :=
  ∀ (s : State) (t : Fin 512) (rd ra : Reg) (imm : BitVec 16), s.tileReady t [rd, ra] → ((s.tl t).rs ra).toNat < 2 ^ 32 →
    let x := s.tl t
    let a := (x.rs ra + imm.signExtend 64).toNat
    let got := fun (n : Nat) (i : Instr) (v : Nat → U64) => ∀ d, a < 2 ^ 32 → tileDev t a n = some d → x.firstWatched false a n = none →
      (s.clean → exec i s = .next (retire s t (x.wr rd (v (leNat (s.bytes d n)))))) ∧
      exec i s = .next (retire (s.tileRead t d n).1 t
        ((x.notePoison ((s.tileRead t d n).1.poisonAt a d n)).wr rd (v (leNat (s.tileRead t d n).2.1))))
    got 1 (.ldB t rd ra imm) (fun v => (BitVec.ofNat 8 v).signExtend 64) ∧
    got 2 (.ldH t rd ra imm) (fun v => (BitVec.ofNat 16 v).signExtend 64) ∧
    got 4 (.ldW t rd ra imm) (fun v => (BitVec.ofNat 32 v).signExtend 64) ∧
    got 8 (.ldD t rd ra imm) (BitVec.ofNat 64) ∧
    got 1 (.ldBu t rd ra imm) (BitVec.ofNat 64) ∧
    got 2 (.ldHu t rd ra imm) (BitVec.ofNat 64) ∧
    got 4 (.ldWu t rd ra imm) (BitVec.ofNat 64) ∧
    (inCtlPage a = true → a % 8 = 0 → x.firstWatched false a 8 = none →
      exec (.ldD t rd ra imm) s = .next (retire s t (x.wr rd (s.ctlRead (t.val / 64) (a - 0x8000000)))))

/-- O15. Scalar stores (R121, R169, R225): the low bytes of rd, little-endian, go to the address; every other byte of memory keeps its
value; open merge entries over the bytes are flushed first; an 8-byte store to the control page writes the pack's control word. -/
def Obligations.ScalarStores : Prop :=
  ∀ (s : State) (t : Fin 512) (rd ra : Reg) (imm : BitVec 16), s.tileReady t [rd, ra] → ((s.tl t).rs ra).toNat < 2 ^ 32 →
    let x := s.tl t
    let a := (x.rs ra + imm.signExtend 64).toNat
    let put := fun (n : Nat) (i : Instr) => ∀ d, a < 2 ^ 32 → tileDev t a n = some d → x.firstWatched true a n = none →
      (s.clean → exec i s = .next (retire (s.store d (leBytes n (x.rs rd).toNat)) t x) ∧
        (∀ b, (b < d ∨ d + n ≤ b) → (retire (s.store d (leBytes n (x.rs rd).toNat)) t x).byte b = s.byte b)) ∧
      exec i s = .next (retire ((s.flushOver (t.val / 64) d n).store d (leBytes n (x.rs rd).toNat)) t x)
    put 1 (.stB t rd ra imm) ∧ put 2 (.stH t rd ra imm) ∧ put 4 (.stW t rd ra imm) ∧ put 8 (.stD t rd ra imm) ∧
    (inCtlPage a = true → a % 8 = 0 → x.firstWatched true a 8 = none →
      exec (.stD t rd ra imm) s =
        .next (retire { s.ctlWrite (t.val / 64) (a - 0x8000000) (x.rs rd) with reply := s.reply } t x))

/-- O16. What a tile refuses (R122, R154, R157, R165, R169, R391): an access outside its memories and its control page raises ACCESS_LOAD or
ACCESS_STORE, a reserved form ILLEGAL, a PC outside IM ACCESS_FETCH, each into the handler with memory unchanged; a register whose
POST.D result is awaited stalls; a tile that does not run does nothing. -/
def Obligations.TileRefusals : Prop :=
  ∀ (s : State) (t : Fin 512) (rd ra rb : Reg) (imm : BitVec 16) (f : VA),
    let x := s.tl t
    let a := (x.rs ra + imm.signExtend 64).toNat
    let outside := x.inh = false ∧ a < 2 ^ 32 ∧ tileDev t a 8 = none ∧ inCtlPage a = false
    let enters := fun (i : Instr) (code : U64) => ∃ u, exec i s = .next u ∧ (u.tl t).cause = code ∧ (u.tl t).epc = x.pc ∧
      (u.tl t).pc = x.tvec ∧ (u.tl t).inh = true ∧ (u.tl t).s = x.s ∧ u.mem = s.mem
    (s.tileReady t [rd, ra] → outside → enters (.ldD t rd ra imm) 3 ∧ enters (.stD t rd ra imm) 4) ∧
    (s.tileReady t [rd, ra] → x.inh = false → (imm.toNat / 64 ≠ 0 → enters (.slli t rd ra imm) 1) ∧
      (imm.toNat / 64 ≠ 1 → enters (.srli t rd ra imm) 1) ∧ (imm.toNat / 64 ≠ 2 → enters (.srai t rd ra imm) 1) ∧
      (ra ≠ 0 → enters (.lui t rd ra imm) 1)) ∧
    (s.tileReady t (vaUses f) → x.inh = false → vaLegal ⟨[0, 1, 2, 3], true, false, true⟩ f (some f.ty.toNat) true x = false →
      enters (.vmul t f) 1) ∧
    (x.st = .running → s.tileClocked t = true → 0x10000 ≤ x.pc.toNat → x.inh = false → enters (.add t rd ra rb) 2) ∧
    (x.st = .running → s.tileClocked t = true → x.pc.toNat < 0x10000 → x.awaits ra = true →
      exec (.add t rd ra rb) s = .next (s.answer .stalled)) ∧
    (x.st ≠ .running → exec (.add t rd ra rb) s = .next s)

/-- O17. Branches and jumps (R170): a branch whose condition holds continues at its own address + 4 × OFF, else at the next; JAL and
JALR write the address of the next instruction to rd. -/
def Obligations.BranchesAndJumps : Prop :=
  ∀ (s : State) (t : Fin 512) (rd ra rb : Reg) (off imm : BitVec 16) (joff : BitVec 21),
    let x := s.tl t
    let a := x.rs ra
    let b := x.rs rb
    let dest := x.pc + off.signExtend 32 * 4
    let br := fun (i : Instr) (c : Bool) =>
      exec i s = .next (if c then retireTo s t x dest else retire s t x)
    (s.tileReady t [ra, rb] →
      br (.beq t ra rb off) (a == b) ∧ br (.bne t ra rb off) (a != b) ∧ br (.blt t ra rb off) (BitVec.slt a b) ∧
      br (.bge t ra rb off) (BitVec.sle b a) ∧ br (.bltu t ra rb off) (BitVec.ult a b) ∧ br (.bgeu t ra rb off) (BitVec.ule b a)) ∧
    (s.tileReady t [rd] → exec (.jal t rd joff) s =
      .next (retireTo s t (x.wr rd (BitVec.ofNat 64 (x.pc + 4).toNat)) (x.pc + joff.signExtend 32 * 4))) ∧
    (s.tileReady t [rd, ra] → exec (.jalr t rd ra imm) s =
      .next (retireTo s t (x.wr rd (BitVec.ofNat 64 (x.pc + 4).toNat)) (BitVec.ofNat 32 ((a + imm.signExtend 64).toNat / 4 * 4))))

/-- O18. Hardware loops, CSRs and vector length (R128, R129, R149 to R151, R171 to R173): LOOP0 sets its count, begin and end and enables
loop ends; LOOP1 the same outside a live level 0 or within its body, and else raises LOOP; a zero count continues past the body; CSRR
reads and CSRW writes a listed register, a loop register after the loop end of the CSRW; VSETVL and VSETVLR set type and length. -/
def Obligations.LoopsCsrsVectorLength : Prop :=
  ∀ (s : State) (t : Fin 512) (rd ra rb : Reg) (fin : BitVec 16) (csr : BitVec 12) (vt : BitVec 6) (v : U64) (y : Tile),
    let x := s.tl t
    let le := x.pc + BitVec.ofNat 32 (4 * fin.toNat)
    let st := mkStatus (x.stBit stIE) (x.stBit stPIE) true (x.stBit stPLPEN) (x.stBit stINH)
    let n : BitVec 32 := (x.rs ra).setWidth 32
    let nests := x.lc0 = 0 ∨ (x.lb0.toNat ≤ (x.pc + 4).toNat ∧ le.toNat ≤ x.le0.toNat)
    (s.tileReady t [ra] → fin ≠ 0 → n ≠ 0 →
      exec (.loop0 t ra 0 fin) s = .next (retire s t { x with lc0 := n, lb0 := x.pc + 4, le0 := le, status := st })) ∧
    (s.tileReady t [ra] → fin ≠ 0 → n ≠ 0 → nests →
      exec (.loop1 t ra 0 fin) s = .next (retire s t { x with lc1 := n, lb1 := x.pc + 4, le1 := le, status := st })) ∧
    (s.tileReady t [ra] → fin ≠ 0 → ¬ nests → exec (.loop1 t ra 0 fin) s = .next (raiseExc s t x cLoop 0 none)) ∧
    (s.tileReady t [ra] → fin ≠ 0 → n = 0 →
      exec (.loop0 t ra 0 fin) s =
        .next (retireTo s t { x with lc0 := 0, lb0 := x.pc + 4, le0 := le, status := st } (le + 4))) ∧
    (s.tileReady t [ra] → fin ≠ 0 → n = 0 → nests →
      exec (.loop1 t ra 0 fin) s =
        .next (retireTo s t { x with lc1 := 0, lb1 := x.pc + 4, le1 := le, status := st } (le + 4))) ∧
    (s.tileReady t [rd] → x.csr t csr.toNat s.raw = some v → exec (.csrr t rd 0 csr) s = .next (retire s t (x.wr rd v))) ∧
    (s.tileReady t [ra] → csrLoop csr.toNat = false → x.csrWrite csr.toNat (x.rs ra) = some y →
      exec (.csrw t 0 ra csr) s = .next (retire s t y)) ∧
    (s.tileReady t [ra] → csrLoop csr.toNat = true →
      (loopEnd { x with resumed := false } (x.pc + 4)).csrWrite csr.toNat (x.rs ra) = some y →
      exec (.csrw t 0 ra csr) s = .next ((s.setTl t y).inc64 (Key.pxRetired t) 1)) ∧
    (s.tileReady t [rd, ra] → vtypeOk vt.toNat = true →
      exec (.vsetvl t rd ra 0 0 vt) s = .next (retire s t (setVl x rd ra vt.toNat))) ∧
    (s.tileReady t [rd, ra, rb] → vtypeOk ((x.rs rb).toNat % 256) = true →
      exec (.vsetvlr t rd ra rb 0 0) s = .next (retire s t (setVl x rd ra ((x.rs rb).toNat % 256)))) ∧
    ((setVl x rd ra vt.toNat).vl.toNat = Nat.min (x.rs ra).toNat (vlMax vt.toNat))

/-- O19. Results of a vector element instruction (R132, R145, R146): each element from PXS_VSTART to PXS_VL − 1 of the destination holds
the reduction of the exact result, every other element keeps its bits, PXS_VSTART clears, PXS_SAT is set where a component was clamped
and else kept, and no scalar register changes. -/
def Obligations.VectorElements : Prop :=
  ∀ (x : Tile) (f : VA) (rt : Nat) (op : List Int → List Int → List Int → List Int), rt ≤ 5 →
    let e := etBytes rt
    let y := x.vecComps f rt op
    let r := fun i => reducePack rt f.s (op (comps rt (x.elem f.vd.toNat e i))
      (comps f.ty.toNat (x.elem f.va.toNat (etBytes f.ty.toNat) i)) (comps f.ty.toNat (x.opB f i)))
    (∀ i, x.vstart.toNat ≤ i → i < x.vl.toNat → y.elem f.vd.toNat e i = (r i).1 % 2 ^ (8 * e)) ∧
    (∀ i, (i < x.vstart.toNat ∨ x.vl.toNat ≤ i) → y.elem f.vd.toNat e i = x.elem f.vd.toNat e i) ∧
    y.vstart = 0 ∧ y.s = x.s ∧ y.pc = x.pc ∧ y.vl = x.vl ∧ y.vtype = x.vtype ∧ y.status = x.status ∧
    (y.sat = true ↔ x.sat = true ∨ ∃ i, x.vstart.toNat ≤ i ∧ i < x.vl.toNat ∧ (r i).2 = true)

/-- O20. Vector multiplies (table Multiply and MAC forms, R144): the products, the Q15 and Q31 forms shifted right by the width less
one, accumulated in the destination where the form says so, at the type or its widening. -/
def Obligations.VectorMultiplies : Prop :=
  ∀ (s : State) (t : Fin 512) (f : VA), s.tileReady t (vaUses f) →
    let x := s.tl t
    let ty := f.ty.toNat
    let does := fun (i : Instr) (types : List Nat) (rt : Nat) (op : List Int → List Int → List Int → List Int) =>
      vaLegal ⟨types, true, false, true⟩ f (some rt) true x = true → exec i s = .next (retire s t (x.vecComps f rt op))
    does (.vmul t f) [0, 1, 2, 3] ty (fun _ a b => mul1 a b) ∧
    does (.vmulq t f) [1, 2] ty (fun _ a b => (mul1 a b).map (· / (2 ^ (etW ty - 1) : Nat))) ∧
    does (.vmac t f) [0, 1, 2] ty (fun c a b => addC c (mul1 a b)) ∧
    does (.vmacw t f) [0, 1, 2] (etWide ty) (fun c a b => addC c (mul1 a b)) ∧
    does (.vcmul t f) [4] 4 (fun _ a b => (mul1 a b).map (· / (32768 : Nat))) ∧
    does (.vcmacw t f) [4] 5 (fun c a b => addC c (mul1 a b)) ∧
    does (.vcmacjw t f) [4] 5 (fun c a b => addC c (mulConj a b)) ∧
    does (.vcmac t f) [5] 5 (fun c a b => addC c (mul1 a b)) ∧
    (∀ a b c d : Int, mul1 [a] [b] = [a * b] ∧ mul1 [a, b] [c, d] = [a * c - b * d, a * d + b * c] ∧
      mulConj [a, b] [c, d] = [a * c + b * d, b * c - a * d])

/-- O21. Vector ALU forms on components and bits (table ALU group, R168, R176): each result from va, and vb or sb. -/
def Obligations.VectorAlu : Prop :=
  ∀ (s : State) (t : Fin 512) (f : VA), s.tileReady t (vaUses f) →
    let x := s.tl t
    let ty := f.ty.toNat
    let w := etW ty
    let ok := fun (al : VAllow) (rt : Nat) (useB : Bool) => vaLegal al f (some rt) useB x = true
    let comp := fun (i : Instr) (al : VAllow) (rt : Nat) (useB : Bool) (op : List Int → List Int → List Int) =>
      ok al rt useB → exec i s = .next (retire s t (x.vecComps f rt (fun _ a b => op a b)))
    let bits := fun (i : Instr) (al : VAllow) (useB : Bool) (op : Nat → Nat → Nat → Nat) =>
      ok al ty useB → exec i s = .next (retire s t (x.vecBits f op))
    let u := fun (v : Int) => if f.u then (uns w v : Int) else v
    let below := fun (a b : Nat) => if f.u then decide (a < b) else decide (sgn w a < sgn w b)
    let ones := 2 ^ w - 1
    comp (.vadd t f) ⟨tyAll, true, false, true⟩ ty true (List.zipWith (· + ·)) ∧
    comp (.vsub t f) ⟨tyAll, true, false, true⟩ ty true (List.zipWith (· - ·)) ∧
    bits (.vand t f) ⟨tyInt, false, false, true⟩ true (fun _ a b => a &&& b) ∧
    bits (.vor t f) ⟨tyInt, false, false, true⟩ true (fun _ a b => a ||| b) ∧
    bits (.vxor t f) ⟨tyInt, false, false, true⟩ true (fun _ a b => a ^^^ b) ∧
    bits (.vbsl t f) ⟨tyInt, false, false, true⟩ true (fun d a b => (d &&& a) ||| ((ones - d) &&& b)) ∧
    comp (.vshl t f) ⟨tyAll, true, false, true⟩ ty false (fun a _ => a.map (· * (2 ^ x.shiftAmt f : Nat))) ∧
    comp (.vshr t f) ⟨tyAll, false, true, true⟩ ty false (fun a _ => a.map (fun v => u v / (2 ^ x.shiftAmt f : Nat))) ∧
    ((f.src = true ∨ f.b.toNat < w) →
      comp (.vnshr t f) ⟨[1, 2, 3, 5], true, false, true⟩ (etNarrow ty) false
        (fun a _ => a.map (· / (2 ^ x.shiftAmt f : Nat)))) ∧
    bits (.vmax t f) ⟨tyInt, false, true, true⟩ true (fun _ a b => if below a b then b else a) ∧
    bits (.vmin t f) ⟨tyInt, false, true, true⟩ true (fun _ a b => if below b a then b else a) ∧
    bits (.vcmpeq t f) ⟨tyInt, false, false, true⟩ true (fun _ a b => if a == b then ones else 0) ∧
    bits (.vcmplt t f) ⟨tyInt, false, true, true⟩ true (fun _ a b => if below a b then ones else 0) ∧
    bits (.vcmple t f) ⟨tyInt, false, true, true⟩ true (fun _ a b => if !below b a then ones else 0) ∧
    (f.b = 0 → comp (.vneg t f) ⟨tyAll, true, false, false⟩ ty false (fun a _ => a.map (fun v => -v))) ∧
    (f.b = 0 → comp (.vconj t f) ⟨[4, 5], true, false, false⟩ ty false
      (fun a _ => match a with | [r, i] => [r, -i] | l => l)) ∧
    (f.b = 0 → comp (.vcvtw t f) ⟨[0, 1, 2, 4], false, true, false⟩ (etWide ty) false (fun a _ => a.map u)) ∧
    (f.b = 0 → comp (.vcvtn t f) ⟨[1, 2, 3, 5], true, false, false⟩ (etNarrow ty) false (fun a _ => a)) ∧
    (f.src = false → f.b = 0 → bits (.vmov t f) ⟨tyAll, false, false, true⟩ false (fun _ a _ => a)) ∧
    (f.src = true → f.va = 0 → bits (.vmov t f) ⟨tyAll, false, false, true⟩ false (fun _ _ b => b))

/-- O22. Permutes, sums and searches (R148, R177): every element from the source as it stood before; VREDSUM writes the exact sum
reduced to 64 bits, of the real parts to s_d and of the imaginary parts to s_e; VMAXI and VMINI the identity over no element. Where s_d
and s_e are one register the spec gives no order: one of the two results is kept (a free value chooses, see the assumption log). -/
def Obligations.VectorPermutesReductions : Prop :=
  ∀ (s : State) (t : Fin 512) (f : VA), s.tileReady t (vaUses f) →
    let x := s.tl t
    let ty := f.ty.toNat
    let e := etBytes ty
    let perm := fun (i : Instr) (u src useB : Bool) (op : Nat → Nat) =>
      vaLegal ⟨tyAll, false, u, src⟩ f (some ty) useB x = true →
        exec i s = .next (retire s t (x.putResults f ty (x.range.map (fun i => (op i, false)))))
    let k := if f.src then (x.rs f.b).toNat else f.b.toNat
    let va := fun i => x.elem f.va.toNat e i
    let vb := fun i => x.elem f.b.toNat e i
    let one := fun (c : Nat) => reduceTo 64 f.s (x.sumComp f c)
    perm (.vslidedn t f) false true false (fun i => if i + k < x.vl.toNat then va (i + k) else 0) ∧
    perm (.vslideup t f) false true false (fun i => if k ≤ i then va (i - k) else 0) ∧
    perm (.vperm t f) false false true (fun i => if vb i < x.vl.toNat then va (vb i) else 0) ∧
    perm (.vzip t f) false false true (fun i => if i % 2 = 0 then va (i / 2) else vb (i / 2)) ∧
    (f.b = 0 → perm (.vunzip t f) true false false
      (fun i => if 2 * i + b01 f.u < x.vl.toNat then va (2 * i + b01 f.u) else 0)) ∧
    (s.tileReady t [f.vd, f.b] → ty ≤ 3 → f.b = 0 → vaLegal ⟨tyAll, true, false, false⟩ f none false x = true →
      exec (.vredsum t f) s = .next (retire s t ((x.endScan (one 0).2).wr f.vd (w64 (one 0).1)))) ∧
    (s.tileReady t [f.vd, f.b] → 4 ≤ ty → (f.vd ≠ f.b ∨ f.vd = 0) → vaLegal ⟨tyAll, true, false, false⟩ f none false x = true →
      exec (.vredsum t f) s =
        .next (retire s t (((x.endScan ((one 0).2 || (one 1).2)).wr f.vd (w64 (one 0).1)).wr f.b (w64 (one 1).1)))) ∧
    (s.tileReady t [f.vd, f.b] → 4 ≤ ty → f.vd = f.b → f.vd ≠ 0 → vaLegal ⟨tyAll, true, false, false⟩ f none false x = true →
      ∃ c u, c ≤ 1 ∧ u.tile = s.tile ∧ u.mem = s.mem ∧ u.od = s.od ∧
        exec (.vredsum t f) s = .next (retire u t ((x.endScan ((one 0).2 || (one 1).2)).wr f.vd (w64 (one c).1)))) ∧
    (s.tileReady t [f.vd, f.b] → f.vd = f.b → f.vd ≠ 0 → (f.u && etCplx ty) = false →
      vaLegal ⟨tyAll, false, true, false⟩ f none false x = true →
      (∀ v i, x.search f (fun v w => decide (w < v)) = some (v, i) → ∃ r u, (r = BitVec.ofInt 64 v ∨ r = w64 i) ∧ u.tile = s.tile ∧
        u.mem = s.mem ∧ exec (.vmaxi t f) s = .next (retire u t ((x.endScan false).wr f.vd r))) ∧
      (∀ v i, x.search f (fun v w => decide (v < w)) = some (v, i) → ∃ r u, (r = BitVec.ofInt 64 v ∨ r = w64 i) ∧ u.tile = s.tile ∧
        u.mem = s.mem ∧ exec (.vmini t f) s = .next (retire u t ((x.endScan false).wr f.vd r)))) ∧
    (s.tileReady t [f.vd, f.b] → (f.vd ≠ f.b ∨ f.vd = 0) → (f.u && etCplx ty) = false →
      vaLegal ⟨tyAll, false, true, false⟩ f none false x = true →
      (∀ v i, x.search f (fun v w => decide (w < v)) = some (v, i) → exec (.vmaxi t f) s =
        .next (retire s t (((x.endScan false).wr f.vd (BitVec.ofInt 64 v)).wr f.b (w64 i)))) ∧
      (∀ v i, x.search f (fun v w => decide (v < w)) = some (v, i) → exec (.vmini t f) s =
        .next (retire s t (((x.endScan false).wr f.vd (BitVec.ofInt 64 v)).wr f.b (w64 i)))) ∧
      (x.vl.toNat ≤ x.vstart.toNat → exec (.vmaxi t f) s =
        .next (retire s t (((x.endScan false).wr f.vd (BitVec.ofInt 64 (searchIdentity f true))).wr f.b (w64 (2 ^ 64 - 1))))) ∧
      (x.vl.toNat ≤ x.vstart.toNat → exec (.vmini t f) s =
        .next (retire s t (((x.endScan false).wr f.vd (BitVec.ofInt 64 (searchIdentity f false))).wr f.b (w64 (2 ^ 64 - 1))))))

/-- O23. VMAXI and VMINI (R148), where two registers take the two results: the extreme value over elements PXS_VSTART to PXS_VL − 1 goes
to s_d, and to s_e its index, the lowest of those that hold it; values compare signed or with U unsigned, complex ones by exact power;
over no element s_e is all ones and s_d the search's identity. -/
def Obligations.SearchExtreme : Prop :=
  ∀ (s : State) (t : Fin 512) (f : VA), s.tileReady t [f.vd, f.b] → f.vd ≠ f.b → f.vd ≠ 0 → f.b ≠ 0 → (f.u && etCplx f.ty.toNat) = false →
    vaLegal ⟨tyAll, false, true, false⟩ f none false (s.tl t) = true →
    let x := s.tl t
    let ty := f.ty.toNat
    let w := etW ty
    let val : Nat → Int := fun i =>
      let b := x.elem f.va.toNat (etBytes ty) i
      if 4 ≤ ty then sgn w b * sgn w b + sgn w (b / 2 ^ w) * sgn w (b / 2 ^ w) else if f.u then (b : Int) else sgn w b
    let inside := fun (i : Nat) => x.vstart.toNat ≤ i ∧ i < x.vl.toNat
    let none_ : Prop := x.vl.toNat ≤ x.vstart.toNat
    let gives := fun (i : Instr) (d e : U64) => ∃ u, exec i s = .next u ∧ (u.tl t).rs f.vd = d ∧ (u.tl t).rs f.b = e ∧ u.mem = s.mem ∧
      (∀ r, r ≠ f.vd → r ≠ f.b → (u.tl t).rs r = x.rs r) ∧ (u.tl t).v = x.v
    (x.vstart.toNat < x.vl.toNat → ∃ i, inside i ∧ gives (.vmaxi t f) (BitVec.ofInt 64 (val i)) (w64 i) ∧
      ∀ j, inside j → val j ≤ val i ∧ (val j = val i → i ≤ j)) ∧
    (x.vstart.toNat < x.vl.toNat → ∃ i, inside i ∧ gives (.vmini t f) (BitVec.ofInt 64 (val i)) (w64 i) ∧
      ∀ j, inside j → val i ≤ val j ∧ (val j = val i → i ≤ j)) ∧
    (none_ → gives (.vmaxi t f)
      (if 4 ≤ ty then 0 else if f.u then 0 else BitVec.ofInt 64 (-(2 ^ (w - 1) : Nat))) 0xFFFFFFFFFFFFFFFF) ∧
    (none_ → gives (.vmini t f) (if 4 ≤ ty then 0xFFFFFFFFFFFFFFFF else if f.u then w64 (2 ^ w - 1) else w64 (2 ^ (w - 1) - 1))
      0xFFFFFFFFFFFFFFFF)

/-- O24. Vector loads and stores (R121, R139, R140, R174): in memory without errors, where no element from PXS_VSTART to PXS_VL − 1
faults, each is read or written at base + i × e, INC adds PXS_VL × e to ra, and a store leaves every byte outside its elements as it
was. With a fault element the exception is raised at that element, ra unchanged. -/
def Obligations.VectorLoadsStores : Prop :=
  ∀ (s : State) (t : Fin 512) (f : VM), s.tileReady t [f.ra, f.ro] → s.clean → vmLegal f (s.tl t) = true →
    let x := s.tl t
    let e := etBytes f.ty.toNat
    let base := x.rs f.ra + x.rs f.ro
    let wide := decide (2 ^ 32 ≤ (x.rs f.ra).toNat) || decide (2 ^ 32 ≤ (x.rs f.ro).toNat)
    let at_ := fun (i : Nat) => (base + w64 (i * e)).toNat
    let done := fun (y : Tile) => { y with vstart := 0 }
    let bump := fun (y : Tile) => if f.inc then (done y).wr f.ra (x.rs f.ra + w64 (x.vl.toNat * e)) else done y
    (x.faultElem t false wide base e x.range = none →
      ∃ y, exec (.vld t f) s = .next (retire s t (bump y)) ∧ y.s = x.s ∧ y.poison = x.poison ∧
        (∀ i, x.vstart.toNat ≤ i → i < x.vl.toNat → ∃ d, tileDev t (at_ i) e = some d ∧
          y.elem f.v.toNat e i = leNat (s.bytes d e)) ∧
        (∀ i, (i < x.vstart.toNat ∨ x.vl.toNat ≤ i) → y.elem f.v.toNat e i = x.elem f.v.toNat e i)) ∧
    (x.faultElem t true wide base e x.range = none →
      ∃ u, exec (.vst t f) s = .next (retire u t (bump x)) ∧ u.tile = s.tile ∧ u.od = s.od ∧
        (∀ i d, x.vstart.toNat ≤ i → i < x.vl.toNat → tileDev t (at_ i) e = some d →
          u.bytes d e = leBytes e (x.elem f.v.toNat e i)) ∧
        (∀ b, (∀ i d, x.vstart.toNat ≤ i → i < x.vl.toNat → tileDev t (at_ i) e = some d → b < d ∨ d + e ≤ b) →
          u.byte b = s.byte b)) ∧
    (∀ i c b, x.faultElem t false wide base e x.range = some (i, c, b) → x.inh = false →
      ∃ u, exec (.vld t f) s = .next u ∧ (u.tl t).epc = x.pc ∧ (u.tl t).cause = w64 c ∧ (u.tl t).vstart = BitVec.ofNat 16 i ∧
        (u.tl t).pc = x.tvec ∧ (u.tl t).s = x.s ∧ u.mem = s.mem) ∧
    (∀ i c b, x.faultElem t true wide base e x.range = some (i, c, b) → x.inh = false →
      ∃ u, exec (.vst t f) s = .next u ∧ (u.tl t).epc = x.pc ∧ (u.tl t).cause = w64 c ∧ (u.tl t).vstart = BitVec.ofNat 16 i ∧
        (u.tl t).pc = x.tvec ∧ (u.tl t).s = x.s)

/-- O25. System instructions (R125, R149, R150, R157, R161, R162): FENCE retires; ERET in the handler takes IE and LPEN from PIE and PLPEN,
clears INH and goes to PXS_EPC, its own loop end evaluated under the LPEN it restores (DEDUCED, assumption 80); BREAK raises BREAK, and
with INH set stops the tile in TRAPPED. -/
def Obligations.SystemInstructions : Prop :=
  ∀ (s : State) (t : Fin 512), s.tileReady t [] →
    let x := s.tl t
    let st := mkStatus (x.stBit stPIE) (x.stBit stPIE) (x.stBit stPLPEN) (x.stBit stPLPEN) false
    let y := loopEnd { x with status := st } x.epc
    exec (.fence t 0 0 0) s = .next (retire s t x) ∧
    (x.inh = true → exec (.eret t 0 0 0) s =
      .next ((s.setTl t { y with resumed := y.pc == x.epc }).inc64 (Key.pxRetired t) 1)) ∧
    (x.inh = true → x.stBit stPLPEN = false → y.pc = x.epc ∧ y.status = st ∧ y.s = x.s ∧ y.v = x.v) ∧
    (x.inh = false → ∃ u, exec (.brk t 0 0 0) s = .next u ∧ (u.tl t).cause = 6 ∧ (u.tl t).epc = x.pc ∧ (u.tl t).pc = x.tvec ∧
      (u.tl t).inh = true ∧ (u.tl t).stBit stPIE = x.stBit stIE ∧ (u.tl t).stBit stPLPEN = x.stBit stLPEN ∧
      (u.tl t).stBit stIE = false ∧ (u.tl t).stBit stLPEN = false ∧ (u.tl t).s = x.s ∧ u.mem = s.mem) ∧
    (x.inh = true → ∃ u, exec (.brk t 0 0 0) s = .next u ∧ (u.tl t).st = .trapped ∧ (u.tl t).pc = x.pc ∧ (u.tl t).epc = x.epc ∧
      (u.tl t).cause = x.cause ∧ u.mem = s.mem)

/-- O26. Tasks on a tile (R96, R100, R103, R143, R153 to R156): FETCH completes a current task and blocks; POST.D submits the 64 bytes at
LM address ra and awaits its result, and the oldest awaited result, once there, goes to its register; POST.T sends a token with SRC and
POISON filled; where a POST waits the tile stalls, and goes on once it no longer does; DONE completes the task and retires. -/
def Obligations.TileTasks : Prop :=
  ∀ (s : State) (t : Fin 512) (rd ra rb r : Reg) (v : U64) (p q : List (Reg × Option U64)) (i : Item),
    let x := s.tl t
    let a := (x.rs ra).toNat
    let d := lmAddr t (a - 0x100000)
    let u := (s.tileRead t d 64).1
    let y := x.notePoison (u.poisonAt a d 64)
    let ds : Item := .desc (descOf (bytesWords 8 (s.tileRead t d 64).2.1)) (.tileReg t rd) (u.partOfProd (.tile t))
    let w := setf (setf (x.rs ra) 25 12 0) 11 0 t.val
    let tok : Item := .token ⟨if x.poison then setBit w 26 true else w, x.rs rb⟩ (s.partOfProd (.tile t)) .none
    (s.tileReady t [rd] → x.inh = false → exec (.fetch t rd 0 0) s =
      .next ((s.tileDone t).setTl t { (s.tileDone t).tl t with
        st := .fetchWait, fetchRd := rd, blockedAt := (s.tileDone t).raw.toNat, resumed := false })) ∧
    (s.tileReady t [rd, ra] → a % 64 = 0 → 0x100000 ≤ a → a + 64 ≤ 0x140000 → x.firstWatched false a 64 = none →
      (u.postWaits t = false → exec (.postD t rd ra 0) s = .next ((u.setTl t y).postSend t ds)) ∧
      (u.postWaits t = true → exec (.postD t rd ra 0) s =
        .next (u.setTl t { y with st := .postStall, stalledPost := some ds, resumed := false }))) ∧
    (x.pendingD = p ++ (r, some v) :: q → (∀ e ∈ p, e.2 = none) →
      exec (.postDResult t) s = .next (s.setTl t { x.wr r v with pendingD := p ++ q })) ∧
    (s.tileReady t [ra, rb] → s.postWaits t = false →
      exec (.postT t 0 ra rb) s = .next ((s.setTl t x).postSend t tok)) ∧
    (s.tileReady t [ra, rb] → s.postWaits t = true →
      exec (.postT t 0 ra rb) s = .next (s.setTl t { x with st := .postStall, stalledPost := some tok, resumed := false })) ∧
    (x.st = .postStall → x.stalledPost = some i → s.postWaits t = false →
      exec (.postStallRelease t) s = .next (s.postSend t i)) ∧
    (x.task = none → (s.setTl t x).postSend t tok =
      retire ((s.setTl t x).sendItem (.tile t) tok) t
        { ((s.setTl t x).sendItem (.tile t) tok).tl t with st := .running, stalledPost := none }) ∧
    (s.tileReady t [] → exec (.done t 0 0 0) s = .next (retire (s.tileDone t) t ((s.tileDone t).tl t)))

/-- O27. Interrupts and run controls (R158 to R161, R164): a due interrupt of a running, fetching or stalled tile saves the PC, sets
PXS_CAUSE bit 63 with its number and enters the handler, ABORT before NOTIFY; RUN starts a tile at RESET_PC, halted where HALT is
kept, and clearing it puts the tile in reset; HALT stops and resumes it; NOTIFY becomes pending. -/
def Obligations.TileInterruptsControls : Prop :=
  ∀ (s : State) (t : Fin 512) (rq : Requester),
    let x := s.tl t
    let k := Key.pxCtl t
    let v := fun (i : Nat) (b : Bool) => setBit (setBit (s.ent k) 2 false) i b
    let takes := x.st = .running ∨ x.st = .fetchWait ∨ x.st = .postStall
    (takes → x.ipend.toNat % 2 = 1 → ∃ u, exec (.interruptEntry t) s = .next u ∧ (u.tl t).st = .running ∧
      (u.tl t).epc = x.pc ∧ (u.tl t).cause = w64 (2 ^ 63 + 16) ∧ (u.tl t).pc = x.tvec ∧ (u.tl t).eval = 0 ∧
      (u.tl t).ipend.toNat % 2 = 0 ∧ (u.tl t).s = x.s ∧ u.mem = s.mem) ∧
    (takes → x.ipend = 2 → x.stBit stIE = true → ∃ u, exec (.interruptEntry t) s = .next u ∧ (u.tl t).st = .running ∧
      (u.tl t).epc = x.pc ∧ (u.tl t).cause = w64 (2 ^ 63 + 17) ∧ (u.tl t).pc = x.tvec ∧ (u.tl t).ipend = 0 ∧ (u.tl t).inh = true ∧
      u.flag k 2 = false) ∧
    (s.checkWrite rq k (v 0 true) = .ok → s.flag k 0 = false → x.st = .reset → s.mayRun t = true →
      ∃ u, exec (.tileRun rq t true) s = .next u ∧ (u.tl t).st = (if s.flag k 1 then .halted else .running) ∧
        (u.tl t).pc = BitVec.ofNat 32 (bf (s.ent (Key.pxPackCfg (t.val / 64))) 15 0) ∧ (u.tl t).s = [] ∧ u.reply = .status .ok) ∧
    (s.checkWrite rq k (v 0 false) = .ok → s.flag k 0 = true → s.flag k 1 = false → x.st ≠ .trapped →
      ∃ u, exec (.tileRun rq t false) s = .next u ∧ (u.tl t).st = .reset ∧ (u.tl t).s = [] ∧ (u.tl t).pc = 0 ∧
        u.reply = .status .ok) ∧
    (s.checkWrite rq k (v 1 true) = .ok → x.st = .running → s.flag k 0 = true →
      ∃ u, exec (.tileHalt rq t true) s = .next u ∧ (u.tl t).st = .halted ∧ (u.tl t).pc = x.pc ∧ (u.tl t).s = x.s) ∧
    (s.checkWrite rq k (v 1 false) = .ok → x.st = .halted → s.flag k 0 = true →
      ∃ u, exec (.tileHalt rq t false) s = .next u ∧ (u.tl t).st = x.haltedFrom ∧ (u.tl t).pc = x.pc) ∧
    (s.checkWrite rq k (v 2 true) = .ok → x.st = .running → s.flag k 0 = true → s.flag k 1 = false →
      ∃ u, exec (.tileNotify rq t) s = .next u ∧ (u.tl t).ipend = x.ipend ||| 2 ∧ (u.tl t).pc = x.pc ∧ u.flag k 2 = true)

/-- O28. Descriptors and tokens at Kennel (R80 to R88, R103, R104, R119, R120, R397, R582, R583): Kennel takes the front item of a producer
that holds a credit. A descriptor that passes the tests takes an entry and its submitter gets the handle, over the high-water mark it
waits and is tested and allocated later, one refused is counted, returned and told, one for another member goes there; a token fills its
slot, a full slot counts DUP, a slot beyond NOPS INVALID, one without an entry is stale; an entry with all its slots full is READY. -/
def Obligations.KennelDescriptorsTokens : Prop :=
  ∀ (s s' : State) (src : Producer) (d : Desc) (ret : RetTo) (part : Nat) (it : Item) (q : List Item) (p : Fin 8) (w : Deferred)
    (l r : List Deferred) (t : Token) (i st g c e pk : Nat),
    let home := s'.homeOf src
    let told := s'.store (portBase c + 0x1800 + 8 * e) (leBytes 8 (2 ^ 63))
    let k := s.setKn p.val { s.kn p.val with waiting := l ++ r }
    let bad := (s'.notePath 12 (accUnit home 20) 0)
    (s.queueOf src = it :: q → s.deferredOf src < prodCredits src → s.frontOf src = some (it, s.setQueue src q)) ∧
    (s.frontOf src = some (.desc d ret part, s') → d.target < 1024 → s'.execPack home d.target = pk →
      (s'.refusal pk d part true false = none → (s'.wakePack pk).mayAllocate pk d.cls = true →
        exec (.descriptorSubmit src false) s = .next ((s'.wakePack pk).acceptDesc pk d ret part)) ∧
      (s'.refusal pk d part true false = none → (s'.wakePack pk).mayAllocate pk d.cls = false →
        exec (.descriptorSubmit src false) s = .next ((s'.wakePack pk).setKn pk { (s'.wakePack pk).kn pk with
          waiting := ((s'.wakePack pk).kn pk).waiting ++ [⟨src, d, ret, part⟩] })) ∧
      (s'.refusal pk d part true false = some st →
        exec (.descriptorSubmit src false) s = .next (s'.refuseDesc pk d part st ret))) ∧
    (s.frontOf src = some (.desc d ret part, s') → 1024 ≤ d.target →
      (s'.linkTo (d.target / 1024) = some g → exec (.descriptorSubmit src false) s = .next (s'.forward g d ret part)) ∧
      (s'.linkTo (d.target / 1024) = none → exec (.descriptorSubmit src false) s = .next (s'.refuseDesc home d part 1 ret))) ∧
    (s.frontOf src = some (.desc d ret part, s') →
      exec (.descriptorSubmit src true) s = .next (bad.refuseDesc (s'.execPack home d.target) d part 3 ret)) ∧
    ((s.kn p.val).waiting = l ++ w :: r → (∀ y ∈ l, s.mayAllocate p.val y.desc.cls = false) → s.mayAllocate p.val w.desc.cls = true →
      (k.refusal p.val w.desc w.part true false = none →
        exec (.deferredDescriptorAllocate p) s = .next (k.acceptDesc p.val w.desc w.ret w.part)) ∧
      (k.refusal p.val w.desc w.part true false = some st →
        exec (.deferredDescriptorAllocate p) s = .next (k.refuseDesc p.val w.desc w.part st w.ret))) ∧
    (s.frontOf src = some (.token t part .none, s') → exec (.tokenAccept src .clean) s = .next (s'.deliverToken home t part)) ∧
    (s.frontOf src = some (.token t part (.portEntry c e), s') → exec (.tokenAccept src .clean) s = .next (told.deliverToken home t part)) ∧
    (s.frontOf src = some (.back t part, s') → exec (.tokenAccept src .clean) s = .next (s'.deliverToken home t part)) ∧
    (s.frontOf src = some (.token t part .none, s') → exec (.tokenAccept src .badWord0) s =
      .next ((s'.inc32 (Key.knInvalid home) 1).notePath 12 (accUnit home 20) 0)) ∧
    (s.frontOf src = some (.token t part .none, s') → exec (.tokenAccept src .badValue) s =
      .next ((s'.deliverToken home ⟨setBit t.w0 26 true, t.value⟩ part).notePath 12 (accUnit home 20) 0)) ∧
    ((bit t.w0 31 = true ∨ bf t.w0 63 32 < 2 ^ 30) → s.tokenEntry t.w0 = some (pk, i) →
      let u := s.wakePack pk
      let x := u.entry pk i
      let slot := bf t.w0 30 28
      u.foreign part x.desc.target = false →
      (slot < x.desc.nops → tfind x.slots slot = none →
        s.deliverToken g t part = (u.setEntry pk i { x with slots := tput x.slots slot t }).readyIf pk i) ∧
      (slot < x.desc.nops → (tfind x.slots slot).isSome = true → s.deliverToken g t part = u.inc32 (Key.knDup pk) 1) ∧
      (x.desc.nops ≤ slot → s.deliverToken g t part = u.inc32 (Key.knInvalid pk) 1)) ∧
    (bit t.w0 31 = false → bf t.w0 63 32 < 2 ^ 30 → s.tokenEntry t.w0 = none →
      s.deliverToken g t part = s.inc32 (Key.knStale (bf t.w0 63 32 / 2 ^ 27)) 1) ∧
    ((s.entry pk i).st = .waiting → (∀ j, j < (s.entry pk i).desc.nops → (tfind (s.entry pk i).slots j).isSome = true) →
      ((s.readyIf pk i).entry pk i).st = .ready)

/-- O29. Dispatch, down units, lame tiles and slot plans (R91 to R95, R107 to R110, R115 to R118, R153, R390, R583): the first READY task
that R91 can place goes to a tile, whose FETCH completes, to a unit, or back; a fresh error in its entry poisons every operand; a task
whose target is down is returned UNIT_DOWN; medians are taken anew and tiles marked at multiples of 491,520 ticks; a probe falls due
KN_LAME_PROBE µs on; a slot-start instant that has fired starts the slot sequence of a plan that is enabled. -/
def Obligations.KennelDispatchPlans : Prop :=
  ∀ (s : State) (p : Fin 8) (i t u : Nat) (tile : Fin 512) (c : Fin 384) (un : Fin 64) (row : Fin 16) (b : Bool) (d : SlotDue),
    let pick := (s.readyTasks p.val).findSome? (fun e => (s.choose p.val e.2).map (fun k => (e.1, k)))
    let met := if b then s.poisonEntry p.val i else s
    let down := (s.kn p.val).used.filter (fun e => (e.2.st == .waiting || e.2.st == .ready) && !(s.inService e.2.desc.target) &&
      !(s.retestTask e.2.desc))
    let probing := match (s.tl tile.val).task with | some (a, j) => (s.entry a j).probe | none => false
    let v := s.toTile p.val i t
    let taken := { s with slotDue := s.slotDue.eraseP (fun d => d.carrier == c.val && d.unit == un.val && d.row == row.val) }
    (pick = some (i, .toTile t) → exec (.taskDispatch p b) s = .next (met.toTile p.val i t)) ∧
    ((v.tl t).st = .running ∧ (v.tl t).task = some (p.val, i) ∧ (v.tl t).poison = false ∧ (v.tl t).v = (s.tl t).v) ∧
    (pick = some (i, .toUnit u) → exec (.taskDispatch p b) s = .next (met.toUnit p.val i u)) ∧
    (unitKind u = 4 → ((s.toUnit p.val i u).entry p.val i).st = .running ∧ ((s.toUnit p.val i u).entry p.val i).unit = u ∧
      (s.toUnit p.val i u).mem = s.mem ∧ (s.toUnit p.val i u).tile = s.tile) ∧
    (pick = some (i, .giveBack) → exec (.taskDispatch p b) s = .next (s.endTask p.val i 1)) ∧
    (pick = none → exec (.taskDispatch p b) s = .next s) ∧
    (∀ k o, tfind ((s.poisonEntry p.val i).entry p.val i).slots k = some o → bit o.w0 26 = true) ∧
    (down ≠ [] → ∃ e ∈ down, exec (.unitDownSweep p) s = .next ({ s with free := s.free + 1 }.endTask p.val e.1 1)) ∧
    (s.raw.toNat % 491520 = 0 → exec (.lameMedianRecompute p) s = .next (s.lameMedians p)) ∧
    (s.raw.toNat % 491520 ≠ 0 → exec (.lameMedianRecompute p) s = .next s) ∧
    (s.entN Key.knLameEn ≠ 1 → (s.lameMedians p).unit = s.unit ∧ (s.lameMedians p).od = s.od ∧
      ∀ kd, bit (s.kindWord p.val kd) 60 = true → 8 ≤ (s.validAvgs p.val kd).length →
        tfind ((s.lameMedians p).kn p.val).median kd = some (lowMedian ((s.validAvgs p.val kd).map (·.2)))) ∧
    (s.entN Key.knLameEn = 1 → ∀ kd e, bit (s.kindWord p.val kd) 60 = true → 8 ≤ (s.validAvgs p.val kd).length →
      e ∈ s.validAvgs p.val kd → e.1 < 512 → s.health e.1 = 0 →
      s.exceeds e.2 (lowMedian ((s.validAvgs p.val kd).map (·.2))) = true → ((s.lameMedians p).un e.1).lame = true) ∧
    ((s.un tile.val).lame = true → probing = false → s.entN Key.knLameProbe * 12288 ≤ 25 * (s.raw.toNat - (s.un tile.val).lameSince) →
      exec (.lameProbeDue tile) s = .next (s.setUn tile.val { s.un tile.val with probeDue := true })) ∧
    (25 * (s.raw.toNat - (s.un tile.val).lameSince) < s.entN Key.knLameProbe * 12288 → exec (.lameProbeDue tile) s = .next s) ∧
    (s.slotDue.find? (fun d => d.carrier == c.val && d.unit == un.val && d.row == row.val) = some d →
      (s.flag (Key.knPlanCfg c.val) 63 = true → exec (.planInstantiate c un row) s =
        .next ((taken.wakePack (s.fld (Key.knPlanCfg c.val) 62 60)).slotStart c d.time)) ∧
      (s.flag (Key.knPlanCfg c.val) 63 = false → exec (.planInstantiate c un row) s = .next taken))

/-- O30. Accesses and port pages (R28, R180 to R182, R190, R192 to R194, R390, R391, R395 to R397, R401): an accepted write stores its
bytes and, in memory without errors, leaves every other byte; an accepted read answers the bytes of clean memory; one that finds
errors meets them first; a refused access is counted, recorded and answered FAULT; MRAM writes of a supply warning wait. A push sends
its entry's descriptor or token with BUSY in its RESULT word, or is refused FULL; DONE retires the core's task or is stale; RING_TAIL moves
within its bounds and is refused outside. -/
def Obligations.MemoryAccessesPorts : Prop :=
  ∀ (s : State) (w : Accessor) (a : BitVec 40) (n : Nat) (bs : List Byte) (up : List Addr) (unc : Bool) (c : Fin 16) (h : BitVec 32) (v : U64),
    let r := regionOf a.toNat
    let memory := r = .hbm ∨ (∃ p, r = .pm p) ∨ (∃ k, r = .csm k) ∨ (∃ t, r = .lm t) ∨ (∃ t, r = .im t)
    let e := bf v 5 0
    let ra := resultAddr c.val e
    let p := h.toNat / 2 ^ 27
    let x := s.entry p (h.toNat % 2 ^ 15)
    let u := s.store ra (leBytes 8 ((s.word ra).toNat % 2 ^ 63))
    let y := s.writeMem w a.toNat bs false
    let ws := bytesWords 8 (u.bytes (portBase c.val + 64 * e) 64)
    (s.mayIssue w = true → bs.length ≤ 256 → memory → s.accessOk w a.toNat bs.length true = true →
      exec (.memoryAccess ⟨w, a, n, some bs, false, unc, up⟩) s =
        .next (((s.upset a.toNat bs.length up).writeMem w a.toNat bs false).status .ok)) ∧
    (s.clean → y.bytes a.toNat bs.length = bs ∧ y.od = s.od ∧ ∀ b, b < a.toNat ∨ a.toNat + bs.length ≤ b → y.byte b = s.byte b) ∧
    (s.mayIssue w = true → n ≤ 256 → memory ∨ r = .mram → s.accessOk w a.toNat n false = true →
      exec (.memoryAccess ⟨w, a, n, none, false, unc, up⟩) s =
        .next ((if r = .hbm ∧ unc = true then s.hbmPoison a.toNat n else s.upset a.toNat n up).readServed w a.toNat n)) ∧
    (s.clean → (s.readServed w a.toNat n).reply = .bytes (s.bytes a.toNat n) false ∧ (s.readServed w a.toNat n).mem = s.mem ∧
      (s.readServed w a.toNat n).od = s.od) ∧
    (s.mayIssue w = true → n ≤ 256 → memory → s.accessOk w a.toNat n false = false →
      exec (.memoryAccess ⟨w, a, n, none, false, unc, up⟩) s = .next ((s.accessFault w a.toNat).answer .fault)) ∧
    (s.mayIssue w = true → n ≤ 256 → memory → s.accessOk w a.toNat n false = true →
      exec (.memoryAccess ⟨w, a, n, none, true, unc, up⟩) s = .next ((s.notePath 15 (memUnit s a.toNat) a.toNat).answer .fault)) ∧
    (s.mayIssue w = true → bs.length ≤ 256 → r = .mram → s.accessOk w a.toNat bs.length true = true → s.warn = true →
      exec (.memoryAccess ⟨w, a, n, some bs, false, unc, up⟩) s = .next ((s.mramWait (.data a.toNat bs)).answer .stalled)) ∧
    (∀ m, s.coreRuns c.val = true → r = .port c.val → 0 < n → n ≤ 256 → a.toNat + n ≤ portBase c.val + 0x10000 →
      exec (.memoryAccess ⟨.core c m, a, n, none, false, unc, up⟩) s = .next (s.portAccess c m (a.toNat - portBase c.val) n none)) ∧
    (s.coreRuns c.val = true → s.portFill c = 64 →
      exec (.portPush c v) s = .next (s.store ra (leBytes 8 (3 * 2 ^ 62 + 0x10)))) ∧
    (s.coreRuns c.val = true → s.portFill c ≠ 64 → bit v 8 = false →
      exec (.portPush c v) s = .next (u.sendItem (.core c) (.desc (descOf ws) (.portEntry c.val e) (u.partOfProd (.core c))))) ∧
    (s.coreRuns c.val = true → s.portFill c ≠ 64 → bit v 8 = true →
      exec (.portPush c v) s = .next (u.sendItem (.core c) (.token
        ⟨setf (setf (ws.getD 0 0) 25 12 0) 11 0 (coreUnit c.val), ws.getD 1 0⟩ (u.partOfProd (.core c)) (.portEntry c.val e)))) ∧
    (s.coreRuns c.val = true → p < 8 → x.st = .running → x.unit = coreUnit c.val → x.gen.toNat = h.toNat / 2 ^ 15 % 4096 →
      exec (.portDone c h) s = .next (s.endTask p (h.toNat % 2 ^ 15) 0)) ∧
    (s.coreRuns c.val = true → p < 8 → (x.st ≠ .running ∨ x.unit ≠ coreUnit c.val ∨ x.gen.toNat ≠ h.toNat / 2 ^ 15 % 4096) →
      exec (.portDone c h) s = .next (s.inc32 (Key.knStale p) 1)) ∧
    (s.coreRuns c.val = true → v.toNat < 128 → ((s.prt c.val).head - BitVec.ofNat 7 v.toNat).toNat ≤ 64 →
      exec (.portRingTailWrite c v) s = .next (s.setPrt c.val { s.prt c.val with tail := BitVec.ofNat 7 v.toNat })) ∧
    (s.coreRuns c.val = true → v.toNat < 128 → 64 < ((s.prt c.val).head - BitVec.ofNat 7 v.toNat).toNat →
      exec (.portRingTailWrite c v) s = .next ((s.accessFault (.core c .machine) (portBase c.val + 0x1018)).answer .fault))

/-- O31. Leash (R195 to R202): at each point and cycle a class D transfer under way goes on; else the next class D request in round-robin
order is granted, a class B transfer with beats left being cut and counted as a restart; a pause grants no class B and cuts it; else
a class B transfer goes on, or weighted round robin grants one. A loss count at its limit sets STARVE and is recorded; a requester that
is not present is masked at every point, and takes part again once present. -/
def Obligations.LeashDecisions : Prop :=
  ∀ (s : State) (pt : Fin 160) (r : Fin 24) (rs : List LeashReq) (q : LeashReq) (o : Owner) (k : Nat),
    let n := pt.val
    let x := s.pnt n
    let l := (addReqs x.reqs rs).filter (fun q => !(s.isMasked q.r.val))
    let cur := x.owner.bind (fun o => if o.beat + 1 < o.beats then some o else none)
    let noD := ∀ o, cur = some o → o.classD = false
    let y := { x with owner := none, reqs := l }
    (cur = some o → o.classD = true →
      ∃ u, exec (.leashGrant pt rs) s = .next u ∧ (u.pnt n).owner = some { o with beat := o.beat + 1 } ∧ (u.pnt n).reqs = l) ∧
    (noD → rrAfter l true x.lastD = some q →
      ∃ u, exec (.leashGrant pt rs) s = .next u ∧ (u.pnt n).owner = some ⟨q.r.val, q.classD, 0, leashBeats n q⟩ ∧
        (u.pnt n).lastD = q.r.val ∧ u.mem = s.mem ∧
        u.entN (Key.lshRestarts n) = (if cur.isSome then s.inc32 (Key.lshRestarts n) 1 else s).entN (Key.lshRestarts n)) ∧
    (rrAfter l true k = some q → q ∈ l ∧ q.classD = true ∧
      ∀ z ∈ l, z.classD = true → (q.r.val + 23 - k % 24) % 24 ≤ (z.r.val + 23 - k % 24) % 24) ∧
    (cur = some o → o.classD = false → rrAfter l true x.lastD = none → s.pausedB = false →
      ∃ u, exec (.leashGrant pt rs) s = .next u ∧ (u.pnt n).owner = some { o with beat := o.beat + 1 }) ∧
    (cur = some o → o.classD = false → rrAfter l true x.lastD = none → s.pausedB = true →
      ∃ u, exec (.leashGrant pt rs) s = .next u ∧ (u.pnt n).owner = none ∧
        u.entN (Key.lshRestarts n) = (s.inc32 (Key.lshRestarts n) 1).entN (Key.lshRestarts n)) ∧
    (cur = none → rrAfter l true x.lastD = none → s.pausedB = true → x.owner = none → exec (.leashGrant pt rs) s = .next (s.setPnt n y)) ∧
    (cur = none → rrAfter l true x.lastD = none → s.pausedB = false → x.owner = none → s.wrr y = some (q, k) →
      exec (.leashGrant pt rs) s =
        .next (s.setPnt n { (y.take n q).lose (s.entN Key.lshStarveLimit) q.r.val with turn := q.r.val, used := k })) ∧
    (s.entN Key.lshStarveLimit ≤ tget 0 x.loss r.val → tget 0 x.loss r.val < 2 ^ 32 →
      ∃ u, exec (.leashStarve pt r) s = .next u ∧ u.flag (Key.lshFlags n) 1 = true ∧
        u.fld (Key.lshFlags n) 31 24 = r.val ∧ u.mem = s.mem) ∧
    (s.present r.val = false → ∃ u, exec (.requesterMask r) s = .next u ∧ u.isMasked r.val = true ∧
      (∀ e ∈ u.point, e.2.reqs.all (fun y => y.r.val != r.val) = true) ∧ u.od = s.od ∧ u.mem = s.mem) ∧
    (s.present r.val = true → ∃ u, exec (.requesterUnmask r) s = .next u ∧ u.isMasked r.val = false ∧ u.point = s.point)

/-- O32. DMA channels (R203 to R224): a doorbell of an idle channel goes to the descriptor at HEAD, of one that is OFF is counted as lost, of
another latches. An engine issues the transfers of the channels it chooses, of highest PRIO; answers go to the oldest outstanding
transfer: a good fetched descriptor becomes the channel's, good data join the buffer, an accepted write stores its bytes, a failed read with
nothing left to write halts with its code. A descriptor whose responses are all received and whose token has a credit completes;
TAIL_WAIT polls once its interval has passed; RESUME and EN act as their table says. -/
def Obligations.DmaChannels : Prop :=
  ∀ (s : State) (rq : Requester) (n m : Fin 272) (e : Fin 9) (r w : Xfer) (ix : BitVec 32) (an : BusAnswer) (a act code : Nat),
    let x := s.ch n.val
    let st := s.chSt n.val
    let woken := if n.val < 256 then s.wakePack (n.val / 32) else s
    let rings := s.checkWho rq (Key.dmaDoorbell n.val) 0 = .ok
    let eng := tget ⟨63, 63⟩ s.engine e.val
    let canRead := fun k => if h : k < 272 then (s.readReady ⟨k, h⟩).isSome else false
    let rd := s.pickChan e.val eng.lastRead canRead
    let wr := s.pickChan e.val eng.lastWrite (fun k => (s.writeReady k).isSome)
    let turn := fun (i j : Nat) => { s with engine := tput s.engine e.val ⟨i, j⟩ }
    let here := fun (t : Xfer) => isWindow t.addr = false ∧ ∀ p, regionOf t.addr ≠ .ctl p
    let resume := fun (k : Nat) => s.checkWrite rq (Key.dmaResume n.val) (w64 (k * 2 ^ 62 + ix.toNat)) = .ok
    let poll := s.entN (Key.dmaTailPoll (engOf n.val))
    let may := st = 5 ∧ x.stop = false ∧ indexOk x.words ix.toNat = true
    let errs := s.fld (Key.dmaStatus n.val) 55 48
    let clr := (s.setDmaError n.val 0 0 0).setFlag (Key.dmaStatus n.val) 58 false
    let off := setBit (s.ent (Key.dmaCfg n.val)) 63 false
    (rings → st = 1 → exec (.dmaDoorbell rq n) s = .next (((woken.setLatch n.val false).dmaGoto n (s.entN (Key.dmaHead n.val))).status .ok)) ∧
    (rings → st = 0 → exec (.dmaDoorbell rq n) s = .next ((woken.incSat (Key.dmaCount n.val) 7 0 1).status .ok)) ∧
    (rings → 2 ≤ st → exec (.dmaDoorbell rq n) s = .next ((woken.setLatch n.val true).status .ok)) ∧
    (x.aheadBad = none → x.ahead = [] → x.reads = [] → (s.dmaGoto n a).chSt n.val = 2 ∧ ((s.dmaGoto n a).ch n.val).need = some .fetch ∧
      (s.dmaGoto n a).cur n.val = a % 2 ^ 40 ∧ (s.dmaGoto n a).mem = s.mem) ∧
    (rd = some n.val → s.readReady n = some r → wr = none →
      exec (.dmaIssue e) s = .next ((turn (chanIn n.val) eng.lastWrite).dmaIssueRead n r)) ∧
    (rd = none → wr = some m.val → s.writeReady m.val = some w →
      exec (.dmaIssue e) s = .next ((turn eng.lastRead (chanIn m.val)).dmaIssueWrite m w)) ∧
    (rd = some n.val → s.readReady n = some r → wr = some m.val → s.writeReady m.val = some w →
      exec (.dmaIssue e) s = .next (((turn (chanIn n.val) (chanIn m.val)).dmaIssueRead n r).dmaIssueWrite m w)) ∧
    (rd = some a → a ∈ chansOf e.val ∧ canRead a = true ∧
      ∀ k ∈ chansOf e.val, canRead k = true → s.fld (Key.dmaCfg k) 61 59 ≤ s.fld (Key.dmaCfg a) 61 59) ∧
    (x.reads.find? (fun t => t.kind != .data && t.kind != .table && !(isWindow t.addr)) = some r →
      exec (.dmaDescFetchDone n an) s = .next (s.dmaAnswerRead n r an)) ∧
    (x.reads.find? (fun t => (t.kind == .data || t.kind == .table) && !(isWindow t.addr)) = some r →
      exec (.dmaReadResponse n an) s = .next (s.dmaAnswerRead n r an)) ∧
    (x.writes.find? (fun t => !(isWindow t.addr)) = some w → exec (.dmaWriteResponse n an) s = .next (s.dmaAnswerWrite n w an)) ∧
    (x.reads = [r] → r.kind = .fetch → r.len = 32 → x.stop = false → x.fail = none → x.writes = [] → here r →
      s.accessOk (.dma n) r.addr 32 false = true → s.clean → descInvalid (bytesWords 4 (s.bytes r.addr 32)) = false → x.skip = 0 →
      ∃ u, exec (.dmaDescFetchDone n .good) s = .next u ∧ (u.ch n.val).words = bytesWords 4 (s.bytes r.addr 32) ∧
        (u.ch n.val).reads = [] ∧ u.chSt n.val = 2 ∧ u.mem = s.mem) ∧
    (x.reads = [r] → r.kind = .data → x.stop = false → x.fail = none → x.writes = [w] → here r →
      s.accessOk (.dma n) r.addr r.len false = true → s.clean →
      ∃ u, exec (.dmaReadResponse n .good) s = .next u ∧ (u.ch n.val).reads = [] ∧ u.mem = s.mem ∧
        ∀ i, i < r.len → tfind (u.ch n.val).buf (r.pos + i) = some (s.byte (r.addr + i), false)) ∧
    (x.reads = [r] → r.kind = .data → isWindow r.addr = false → x.stop = false → x.fail = none → x.writes = [] → st = 2 → x.buf = [] →
      s.writeReady n.val = none →
      ∃ u, exec (.dmaReadResponse n .error) s = .next u ∧ u.chSt n.val = 5 ∧ u.fld (Key.dmaStatus n.val) 55 48 = 4 ∧
        u.mem = s.mem) ∧
    (x.writes = [w] → x.stop = false → x.fail = none → here w → w.data.all (fun b => !b.2) = true →
      s.accessOk (.dma n) w.addr w.data.length true = true → s.clean →
      ∃ u, exec (.dmaWriteResponse n .good) s = .next u ∧ u.bytes w.addr w.data.length = w.data.map (·.1) ∧ (u.ch n.val).writes = [] ∧
        (∀ b, b < w.addr ∨ w.addr + w.data.length ≤ b → u.byte b = s.byte b)) ∧
    (x.stop = false → st = 3 → s.tokenless n = false → x.after = none → x.writes = [] →
      exec (.dmaDescComplete n) s = .next (s.dmaComplete n)) ∧
    (x.stop = false → st = 3 → s.tokenless n = false → x.after = some (act, code) →
      exec (.dmaDescComplete n) s = .next (s.dmaLeave n act code)) ∧
    (x.stop = true → exec (.dmaDescComplete n) s = .next (s.dmaSettle n)) ∧
    (s.merges = [] → x.fail = none → x.poison = false → bit (x.words.getD 0 0) 29 = false → bit (x.words.getD 0 0) 28 = false →
      endBit x.words = true → (s.dmaComplete n).chSt n.val = 4 ∧ (s.dmaComplete n).mem = s.mem ∧
        (s.dmaComplete n).fld (Key.dmaCount n.val) 63 32 = satAdd 32 (s.fld (Key.dmaCount n.val) 63 32) 1) ∧
    (st = 4 → poll ≠ 0 → poll ≤ 2 * (s.raw.toNat - x.pollRaw) → x.need = none → x.reads = [] →
      exec (.dmaTailPoll n) s = .next (s.setCh n.val { x with need := some .tail, pollRaw := s.raw.toNat })) ∧
    (resume 1 → may → exec (.dmaResumeRetry rq n ix) s =
      .next (((clr.setCh n.val { x with need := some .fetch, skip := ix.toNat, done := false }).setChSt n.val 2).status .ok)) ∧
    (resume 2 → may → (x.done = true ∨ s.tokenless n = false) →
      exec (.dmaResumeNext rq n ix) s = .next ((clr.dmaLeave n 2 errs).status .ok)) ∧
    (resume 3 → may → (x.done = true ∨ s.tokenless n = false) →
      exec (.dmaResumeStop rq n ix) s = .next ((clr.dmaLeave n 3 errs).status .ok)) ∧
    (resume 2 → may → x.done = false → s.tokenless n = true →
      exec (.dmaResumeNext rq n ix) s = .next (((clr.setCh n.val { x with after := some (2, errs) }).setChSt n.val 3).status .ok)) ∧
    ((s.dmaLeave n 2 code).chSt n.val = 4 ∧ ((s.dmaLeave n 2 code).ch n.val).need = some .tail) ∧
    ((s.dmaLeave n 3 code).chSt n.val = 1 ∧ (s.dmaLeave n 3 code).latch n.val = false ∧ (s.dmaLeave n 3 code).ch n.val = chanInit) ∧
    (resume 1 → st ≠ 5 → exec (.dmaResumeRetry rq n ix) s = .next (s.status .busy)) ∧
    (s.checkWrite rq (Key.dmaCfg n.val) off = .ok →
      exec (.dmaChannelDisable rq n) s = .next (((s.setEnt (Key.dmaCfg n.val) off).status .ok).dmaDisable n)) ∧
    (st ≠ 0 → x.reads = [] → x.writes = [] → x.done = true → s.dmaDisable n =
      ((s.setCh n.val { x with stop := true, need := none, after := none }).dmaOff n.val)) ∧
    ((s.dmaOff n.val).chSt n.val = 0 ∧ (s.dmaOff n.val).latch n.val = false ∧ (s.dmaOff n.val).mem = s.mem)

/-- O33. Hound occasions, floor and qualifier (R226 to R238, R252): the occasion that begins next is skipped and counted where its carrier is
another partition's, else begins; one ends at its window's end, its open lanes first; a window of samples seeds the floor, 16 of
them complete it, later ones trigger at DET over it or move it; the escape sets it to a mean between the floor and the ceiling of the
exact one; an interval in which a window triggered is qualified, and without an arrival nothing opens. -/
def Obligations.HoundOccasionsFloor : Prop :=
  ∀ (s : State) (e : Fin 8) (w : Fin 16) (k b last at_ : Nat) (o : Occ) (r : HoundOcc) (x : List (List C16)) (lv : Int),
    let h := s.hnd e.val
    let y := h.w w.val
    let sw := s.swapBefore (.watch e) (fun s => (s.occasionNow e w.val).map (·.2))
    let z := (sw.hnd e.val).w w.val
    let c := wCarrier (sw.rowOf (.watch e) 0 w.val)
    let ending := (s.occsOf e w.val).find? (fun o => wType o.words != 3 && decide (o.time + wLength o.words ≤ s.now))
    let closed := (List.range 16).foldl (fun s l =>
      let x := (s.hnd e.val).l l
      if x.isOpen ∧ x.watch = w.val ∧ x.winEnd = o.time + wLength o.words then s.laneWindowEnd e l else s) s
    let window := (s.occsOf e w.val).findSome? (fun o =>
      if wType o.words ≠ 3 ∧ s.houndRuns e.val (wType o.words) then (h.window o (y.run o.time)).map (fun q => (o, q)) else none)
    let due := (s.occsOf e w.val).findSome? (fun o =>
      if wType o.words ≠ 3 ∧ s.houndRuns e.val (wType o.words) then (h.dueInterval o (y.run o.time)).map (fun q => (o, q)) else none)
    let le := (s.levelOf (energySum x) (wWin o.words * wStreams o.words)).1
    let v := s.energy e w.val o r x last
    let vy := (v.hnd e.val).w w.val
    let det := y.lf + 256 * (bf (wWord o.words 0) 47 40 : Nat)
    let n := s.entN Key.hndFloorEscape
    let q := wSeqLen o.words
    let xs := (wSlots o.words).map (fun m =>
      let l := (h.symbolOf m q at_ (at_ + wSym o.words)).map sampleOr0
      List.replicate (q - l.length) 0 ++ l)
    let ar := s.arrivals e o.words xs
    let same := fun (u t : State) => u.mem = t.mem ∧ u.tile = t.tile ∧ u.kennel = t.kennel ∧ u.outq = t.outq
    (sw.occasionNow e w.val = some (k, b) → sw.partOfCarrier c ≠ sw.partOfPack e.val → exec (.houndOccasionStart e w) s =
      .next ((sw.setHnd e.val ((sw.hnd e.val).setW w.val { z with nextBegin := tput z.nextBegin k (b + 1) })).incSat
        (Key.hndOcc e.val w.val) 31 16 1)) ∧
    (sw.occasionNow e w.val = some (k, b) → sw.partOfCarrier c = sw.partOfPack e.val → tfind (sw.lv (.watch e)).deferred w.val = none →
      ∃ u i, exec (.houndOccasionStart e w) s = .next u ∧ u.executing (.watch e) w.val = true ∧
        ((u.hnd e.val).w w.val).nextBegin = tput z.nextBegin k (b + 1) ∧
        ((u.hnd e.val).w w.val).runs = z.runs ++ [⟨b, [], [], i, true, 0, 0, [], 0⟩] ∧ same u sw) ∧
    (sw.occasionNow e w.val = none → exec (.houndOccasionStart e w) s = .next sw) ∧
    (ending = some o → exec (.houndOccasionEnd e w) s = .next ((closed.setHnd e.val ((closed.hnd e.val).setW w.val
      (((closed.hnd e.val).w w.val).endRun o.time))).endOcc (.watch e) (· == o))) ∧
    ((∀ l, l < 16 → (h.l l).isOpen = false ∨ (h.l l).watch ≠ w.val) → closed = s) ∧
    (window = some (o, r, x, last) → exec (.houndEnergyWindow e w) s = .next v) ∧
    (y.seeded = false → y.seedN < 15 →
      vy = { y.setRun r with seedN := y.seedN + 1, seedSum := y.seedSum + le, escN := 0, escSum := 0 } ∧ v.od = s.od ∧ same v s) ∧
    (y.seeded = false → y.seedN = 15 → vy.seeded = true ∧ vy.lf = (y.seedSum + le) * 16 ∧ v.od = s.od ∧ same v s) ∧
    (y.seeded = true → det ≤ 256 * le → vy.lf = y.lf ∧ same v s ∧
      v.fld (Key.hndDet e.val w.val) 63 32 = satAdd 32 (s.fld (Key.hndDet e.val w.val) 63 32) 1) ∧
    (y.seeded = true → 256 * le < det → (∀ l, l < 16 → (h.l l).isOpen = false ∨ (h.l l).watch ≠ w.val) →
      vy.lf = y.lf + (256 * le - y.lf) / (2 ^ bf (wWord o.words 0) 39 36 : Nat) ∧ v.od = s.od ∧ same v s) ∧
    (n ≤ y.escN → y.escN ≠ 0 → y.runs.all (fun r => r.trigs.all (fun q => decide (q.1 < y.escFrom) || decide (y.escTo < q.1))) = true →
      ∃ u, exec (.houndFloorEscape e w) s = .next u ∧
        ((u.hnd e.val).w w.val).escN = 0 ∧ ((u.hnd e.val).w w.val).escSum = 0 ∧
        y.escSum * 256 / (y.escN : Int) ≤ ((u.hnd e.val).w w.val).lf ∧
        ((u.hnd e.val).w w.val).lf ≤ y.escSum * 256 / (y.escN : Int) + 1 ∧
        (y.escSum * 256 % (y.escN : Int) = 0 → ((u.hnd e.val).w w.val).lf = y.escSum * 256 / (y.escN : Int)) ∧
        u.flag (Key.hndFloor e.val w.val) 0 = true ∧ same u s) ∧
    (due = some (o, at_, lv) → exec (.houndQualify e w) s = .next (s.qualify e w.val o at_ lv)) ∧
    (ar.2 = [] → s.qualify e w.val o at_ lv = ar.1.setHnd e.val (h.setW w.val
      (y.setRun { y.run o.time with trigs := (y.run o.time).trigs.filter (fun q => q.1 != at_) }))) ∧
    (due = none → exec (.houndQualify e w) s = .next s)

/-- O34. Hound lanes, tokens, verdicts and sensing (R240 to R251): a symbol whose samples have come is copied behind the context record, the
burst's last one ends the lane; a faded lane ends and counts; while a credit is held a waiting template goes first, else the first token
in lane order; a verdict of a CRC failure counts; the contention window grows to the next allowed size or falls to the least; a sensing
slot whose samples have come moves its procedure; at the window's end a clear result opens the gate, another is counted BUSY. -/
def Obligations.HoundLanesSensing : Prop :=
  ∀ (s : State) (rq : Requester) (e : Fin 8) (w : Fin 16) (l : Fin 16) (o : Occ) (r : HoundOcc) (tag : BitVec 32) (tk : HoundTok)
    (i : Item) (is : List Item) (mp : Nat),
    let h := s.hnd e.val
    let y := h.l l.val
    let n := wSymLen y.latched
    let a := y.start + y.syms * wSym y.latched
    let b := a + wSym y.latched
    let qs := (wSlots y.latched).map (fun m => h.symbolOf m n a b)
    let xs := qs.map (fun q => List.replicate (n - q.length) 0 ++ q.map sampleOr0)
    let gap := qs.any (fun q => q.length != n || q.any (·.1.2.isNone))
    let comes := y.isOpen = true ∧ y.fadeDue = false ∧ b ≤ y.winEnd ∧ (wSlots y.latched).all (fun m => decide (b ≤ (h.line m).till)) = true
    let ws := s.rowOf (.watch e) 0 w.val
    let pc := bf (wWord ws 4) 59 58
    let cw := (h.w w.val).cwOf pc
    let slot := (s.occsOf e w.val).findSome? (fun o => if s.houndRuns e.val 3 then h.sense o ((h.w w.val).run o.time) else none)
    let end_ := o.time + wLength o.words
    let ended := (s.occsOf e w.val).find? (fun o => wType o.words == 3 && decide (o.time + wLength o.words ≤ s.now))
    let clear := senseClear o.words (h.measure o ((h.w w.val).run o.time) ((bf (wWord o.words 2) 31 0 - 3000) / 1000))
    (comes → y.syms < wBurst y.latched → ∃ u, exec (.houndLaneSymbol e l) s = .next u ∧ ((u.hnd e.val).l l.val).syms = y.syms + 1 ∧
      ((u.hnd e.val).l l.val).samples = y.samples + n ∧ ((u.hnd e.val).l l.val).gap = (y.gap || gap)) ∧
    (comes → y.syms = 0 → 1 < wBurst y.latched → ∃ u, exec (.houndLaneSymbol e l) s = .next u ∧ u.mem = (s.laneStore e l.val xs).mem ∧
      ((u.hnd e.val).l l.val).isOpen = true ∧ (u.hnd e.val).tokens = h.tokens) ∧
    (comes → y.syms = 0 → wBurst y.latched = 1 → y.gap = false → gap = false →
      ∃ u, exec (.houndLaneSymbol e l) s = .next u ∧ ((u.hnd e.val).l l.val).isOpen = false ∧
        (u.hnd e.val).tokens = h.tokens ++ [⟨l.val, y.bseq, y.watch, y.handle.isNone,
          ⟨tokenTo ((y.handle.getD 0).toNat) 1 (houndUnit e.val) false, 0⟩⟩]) ∧
    (y.isOpen = true → y.fadeDue = true →
      exec (.houndLaneFade e l) s = .next (((s.endLane e.val l.val 1).incSat (Key.hndLoss e.val y.watch) 15 0 1).incSat
        (Key.hndLoss e.val y.watch) 63 48 1)) ∧
    (s.creditOf (.hound e) ≠ 0 → h.templates = i :: is →
      exec (.houndTokenSend e) s = .next ((s.setHnd e.val { h with templates := is }).sendItem (.hound e) i)) ∧
    (s.creditOf (.hound e) ≠ 0 → h.templates = [] →
      (List.range 17).findSome? (fun l => (h.tokens.find? (fun t => t.lane == l)).filter (fun t => !t.waiting)) = some tk →
      exec (.houndTokenSend e) s = .next ((s.setHnd e.val { h with tokens := h.tokens.erase tk }).sendItem (.hound e)
        (.token tk.tok (s.partOfProd (.hound e)) .none))) ∧
    (s.creditOf (.hound e) = 0 → exec (.houndTokenSend e) s = .next s) ∧
    (s.checkWrite rq (Key.hndVerdict e.val) (w64 (2 ^ 62 + tag.toNat)) = .ok → tag.toNat / 2 ^ 29 = e.val →
      exec (.verdictCrcFail rq e tag) s =
        .next ((s.incSat (Key.hndLoss e.val (tag.toNat / 2 ^ 25 % 16)) 63 48 1).status .ok)) ∧
    (s.checkWrite rq (Key.hndVerdict e.val) (w64 (2 ^ 63 + w.val)) = .ok → wType ws = 3 →
      exec (.verdictCwIncrease rq e w) s =
        .next ((s.setCw e.val w.val (((cwAllowed pc).find? (fun c => decide (cw < c))).getD (cwMax pc))).status .ok)) ∧
    (s.checkWrite rq (Key.hndVerdict e.val) (w64 (3 * 2 ^ 62 + w.val)) = .ok → wType ws = 3 →
      exec (.verdictCwReset rq e w) s = .next ((s.setCw e.val w.val (cwMin pc)).status .ok)) ∧
    (slot = some r → exec (.senseSlot e w) s = .next (s.setHnd e.val (h.setW w.val ((h.w w.val).setRun r)))) ∧
    (r.inDefer = false → 0 < r.n → (r.senseSlot mp true).n = r.n - 1 ∧ (r.senseSlot mp false).inDefer = true ∧
      (r.senseSlot mp true).slot = r.slot + 9) ∧
    (ended = some o → clear = true → ∃ u, exec (.senseResult e w) s = .next u ∧
      u.txGates = (s.openGate (wCarrier o.words) end_ (end_ + nsT (bf (wWord o.words 5) 63 32))).txGates ∧
      u.fld (Key.hndLbt e.val w.val) 63 48 = wrapAdd 16 (s.fld (Key.hndLbt e.val w.val) 63 48) 1) ∧
    (ended = some o → clear = false → ∃ u, exec (.senseResult e w) s = .next u ∧ u.txGates = s.txGates ∧
      (u.lv (.watch e)).occ = ((s.endOcc (.watch e) (· == o)).lv (.watch e)).occ ∧
      u.fld (Key.hndLbt e.val w.val) 47 32 = satAdd 16 (s.fld (Key.hndLbt e.val w.val) 47 32) 1)

/-- O35. Jobs of the transforms and coding units (R255 to R258, R261, R265, R272, R282 to R288, R299 to R303, R305 to R310): the task on a unit
whose OP its table has runs: its accesses happen and its end is noted with its STATUS, that of an error, DEGENERATE where the equalizer
marks groups, else OK; a transform whose parameters are out of its limits ends PARAM and touches nothing. A DECODE job starts by
reading its input and then goes on a codeblock or a draw at a time, ended PARAM where its ARG words are out of their limits. -/
def Obligations.AcceleratorJobs : Prop :=
  ∀ (s : State) (p : Fin 8) (q i : Nat) (x : Run) (res deg cyc : Nat) (j : DecodeJob) (cb : CbRun),
    let e := s.entry q i
    let waits := fun (k op : Nat) => s.taskOn (accUnit p.val k) = some (q, i) ∧ tfind s.job (jobKey p.val k) = none ∧ e.desc.op = op
    let ends := fun (c : Instr) (k : Nat) (y : Run) (st : Nat) =>
      exec c s = .next { y.s with job := tput y.s.job (jobKey p.val k) ⟨q, i, st, res, y.poison, deg, cyc⟩ }
    let run := fun (c : Instr) (k op : Nat) (f : Run → Entry → Run × Nat × Nat × Nat) =>
      waits k op → f ⟨s, 0, false, 0⟩ e = (x, res, deg, cyc) → ends c k x (if x.bad ≠ 0 then x.bad else if deg ≠ 0 then 4 else 0)
    let decodes := fun (c : Instr) (k : Nat) (turbo : Bool) =>
      (waits k 0 → tfind s.decode (jobKey p.val k) = none → exec c s = .next (startDecode turbo p k q i s)) ∧
      (tfind s.decode (jobKey p.val k) = some j → j.cur = none →
        exec c s = .next (startCb (j.par turbo) p k (s.entry j.pack j.entry).desc j s)) ∧
      (tfind s.decode (jobKey p.val k) = some j → j.cur = some cb →
        exec c s = .next (drawCb (j.par turbo) p k (s.entry j.pack j.entry).desc j cb s)) ∧
      (cdArgsOk e true = false → startDecode turbo p k q i s = { s with
        job := tput s.job (jobKey p.val k) ⟨q, i, 1, 0, false, 0, 0⟩ })
    (∀ k : Fin 4, run (.dftFwdCp p k) (10 + k.val) 0 (dftJob p) ∧ run (.dftInvCp p k) (10 + k.val) 1 (dftJob p) ∧
      run (.dftFwd p k) (10 + k.val) 2 (dftJob p) ∧ run (.dftInv p k) (10 + k.val) 3 (dftJob p)) ∧
    (∀ k : Fin 2, run (.eqDetect p k) (14 + k.val) 0 (eqJob p) ∧ run (.eqEqualize p k) (14 + k.val) 1 (eqJob p) ∧
      run (.eqDemap p k) (14 + k.val) 2 (eqJob p)) ∧
    run (.bwCompute p) 16 0 (bwCompute p) ∧ run (.bwApply p) 16 1 (bwApply p) ∧
    (∀ k : Fin 6, decodes (.ldDecode p k) k.val false ∧ run (.ldTbcrc p k) k.val 1 (tbcrcJob false p)) ∧
    (∀ k : Fin 2, run (.leEncode p k) (6 + k.val) 0 (encodeJob false p)) ∧
    decodes (.tcDecode p) 8 true ∧ run (.tcEncode p) 8 1 (encodeJob true p) ∧ run (.tcTbcrc p) 8 2 (tbcrcJob true p) ∧
    run (.pcDecode p) 9 0 (polarDecode p) ∧ run (.pcEncode p) 9 1 (polarEncode p) ∧
    (dftOk e = false → dftJob p ⟨s, 0, false, 0⟩ e = (⟨s, 1, false, 0⟩, 0, 0, 0))

/-- O36. A job's end (R256, R258, R399): the job leaves its unit, its merge entries are flushed, it is counted, its completion token
goes out and its task retires DONE; a task whose OP the unit does not have ends with STATUS PARAM. -/
def Obligations.AcceleratorCompletion : Prop :=
  ∀ (s : State) (p : Fin 8) (k : Fin 17) (j : Job) (q i : Nat),
    let key := jobKey p.val k.val
    let freed := { s with job := tdel s.job key, decode := tdel s.decode key }.flushFor p.val
    let runs := fun (j : Job) => (s.entry j.pack j.entry).st = .running ∧ (s.entry j.pack j.entry).unit = accUnit p.val k.val
    let done := fun (j : Job) =>
      let e := s.entry j.pack j.entry
      ((freed.countJob p.val k.val e.desc j).jobToken p k e j).endTask j.pack j.entry 0
    let bad : Job := ⟨q, i, 1, 0, false, 0, 0⟩
    (tfind s.job key = some j → runs j → exec (.accelJobComplete p k) s = .next (done j)) ∧
    (tfind s.job key = some j → ¬ runs j → exec (.accelJobComplete p k) s = .next freed) ∧
    (tfind s.job key = none → (∀ g, tfind s.segment p.val = some g → g.kind ≠ 2 ∨ g.unit ≠ accUnit p.val k.val) →
      s.taskOn (accUnit p.val k.val) = some (q, i) → runs bad → accelOps k.val ≤ (s.entry q i).desc.op →
      exec (.accelJobComplete p k) s = .next (done bad)) ∧
    (∀ d : Desc, (s.countJob p.val k.val d j).mem = s.mem ∧ (s.countJob p.val k.val d j).kennel = s.kennel)

/-- O37. Arithmetic of the transforms and of the coding checks (R260, R261, R285): a sample's components are clamped to 16 bits, each DFT
output component lies within 2 LSB of the sum, known to within 2^44 of its 2^-(80 + SHIFT), and a CRC fits its width. -/
def Obligations.TransformArithmetic : Prop :=
  (∀ re im : Int, reOf (packC re im) = clampS 16 re ∧ imOf (packC re im) = clampS 16 im) ∧
  (∀ (d : Desc) (key : List Nat) (i : Nat) (x : Int), let u : Int := (2 ^ (80 + d.shift) : Nat)
    x - 2 * u - (2 ^ 44 : Nat) ≤ dftComp d key i x * u ∧ dftComp d key i x * u ≤ x + 2 * u + (2 ^ 44 : Nat)) ∧
  (∀ (d : Desc) (phi sym : Nat) (xs : List Nat) (k : Nat), k < d.n → ∃ key,
    ((dftOut d phi sym xs).getD k (0, 0)).1 =
      packC (dftComp d key (2 * k) (dftSum d phi k 0 xs).1) (dftComp d key (2 * k + 1) (dftSum d phi k 0 xs).2)) ∧
  (∀ d phi sym xs, (dftOut d phi sym xs).length = d.n) ∧
  (∀ l : List Bool, crc24A l < 2 ^ 24 ∧ crc24B l < 2 ^ 24 ∧ crc16T l < 2 ^ 16) ∧
  (∀ c off n, (gold c off n).length = n)

/-- O38. Transmit shaping (R275 to R281): a symbol of a downlink stream is judged once, as its window opens with its buffer ready or as its
CPRI link sends it; with EN clear it is left as it is; one whose pattern is on with an open gate leaves; one whose gate is closed is
withheld as zeros and counted. EN is taken with its settings in range, and refused BUSY where a field changes while it is set;
intervals of a gate that have ended are gone. -/
def Obligations.TransmitShaping : Prop :=
  ∀ (s w : State) (rq : Requester) (c : Fin 384) (n : Fin 4096) (l : Fin 14) (v : U64) (seq sl sfn k m : Nat) (h : Shaped) (y : Str)
    (xs : List C16),
    let x := s.str n.val
    let live := x.en = true ∧ x.tx = true ∧ x.carrier = c.val ∧ l.val < x.nsym
    let win := (s.winOcc x l.val).bind (fun o => s.winSlot x o 0)
    let t := s.txs y.carrier m
    let cfg := s.ent (Key.txCfg y.carrier)
    let g := txStr cfg
    let air := s.txAir y.carrier k l.val
    let pattern := y.kind = skOran ∨ s.tddOn y.carrier (k % g.slots) l.val = true
    let gate := bit cfg 62 = false ∨ s.gateCovers y.carrier air (air + samplesT cfg (g.symLen (k % g.slots) l.val)) = true
    let d := s.txDecide m y k l.val xs
    let kc := Key.txCfg c.val
    (live → x.kind = skCpri → s.seqOf x (s.slotCount x (s.now + nsT (s.fld (Key.cpriCfg x.port) 19 0))) = some seq →
      exec (.txSymbol c n l) s = .next (s.txSymbol n.val x seq l.val).1) ∧
    (live → x.kind ≠ skCpri → win = some (seq, sl, sfn) → s.ready x seq = (w, true) →
      exec (.txSymbol c n l) s = .next (w.txSymbol n.val x seq l.val).1) ∧
    (live → x.kind ≠ skCpri → win = some (seq, sl, sfn) → s.ready x seq = (w, false) → exec (.txSymbol c n l) s = .next w) ∧
    (t.hist.find? (fun q => q.slot == s.countOf y seq && q.symbol == l.val) = some h →
      s.txSymbol m y seq l.val = (s, some (h.isOn, h.out))) ∧
    (t.hist.find? (fun q => q.slot == s.countOf y seq && q.symbol == l.val) = none → s.txEn y.carrier = false →
      s.txSymbol m y seq l.val = (s.setTxs y.carrier m ⟨false, [], 0, t.hist⟩, none)) ∧
    (pattern → gate → (d.1.txs y.carrier m).lastOn = true ∧ d.2.1 = true ∧ (t.lastOn = true → d.2.2 = xs)) ∧
    (pattern → ¬ gate → (d.1.txs y.carrier m).lastOn = false ∧ d.2.1 = false ∧ (t.lastOn = false → d.2.2 = zeros xs.length ∧
      d.1.fld (Key.txStat y.carrier) 63 48 = satAdd 16 (s.fld (Key.txStat y.carrier) 63 48) 1)) ∧
    (s.checkWrite rq kc v = .ok → s.flag kc 63 = false → s.txCfgOk c.val v = true →
      exec (.txCfgEnable rq c v) s = .next ((s.setEnt kc v).status .ok)) ∧
    (s.checkWrite rq kc v = .ok → s.flag kc 63 = false → bit v 63 = true → s.txCfgOk c.val v = false →
      exec (.txCfgEnable rq c v) s = .next (s.status .range)) ∧
    (s.checkWrite rq kc v = .ok → s.flag kc 63 = true → setBit (s.ent kc) 63 false ≠ setBit v 63 false →
      exec (.txCfgEnable rq c v) s = .next (s.status .busy)) ∧
    (exec (.txGateClose c) s = .next { s with
      txGates := tput s.txGates c.val ((s.gates c.val).filter (fun g => decide (s.now < g.2))) })

/-- O39. Flow rings and contexts (R313, R314, R320, R329, R332, R333): a poll takes PROD, and ends an entry whose OP its ring does not have
with PARAM; an entry that is worked on ends with its STATUS and RESULT; FLOW_OPEN fills a context not in use by its image, or ends PARAM,
FOREIGN or FULL; FLOW_CLOSE leaves the context CLOSING, until FLOW_FREE frees it and ends the entry; REKEY stages the next keys;
CTX_READ writes the context with its key region zero; REOWN moves what a carrier has and counts its contexts; a command on a
context not in use ends NOT_FOUND, on another owner's FOREIGN. The places of a context's fields in its image are free. -/
def Obligations.FlowContexts : Prop :=
  ∀ (s s1 s2 : State) (n : Fin 256) (v : Nat) (e : REntry) (b : List Byte) (f : BitVec 20),
    let front := fun (op : Nat) => s.ringFront n.val = (s1, some e) ∧ e.op = op ∧ s.ringType n.val = (if op < 16 then 0 else 1)
    let fc := e.arg 24 4
    let t := s1.touchFlow fc
    let x := t.fl fc
    let mine := fc < ctxCount ∧ x.st ≠ .free ∧ x.hdr.owner = t.ringOwner n.val
    let absent := fc < ctxCount ∧ x.st = .free
    let foreign := fc < ctxCount ∧ x.st ≠ .free ∧ x.hdr.owner ≠ t.ringOwner n.val
    let ends := fun (c : Instr) (u : State) (st : Nat) (res : Option Nat) => exec c s = .next (u.ringEnd e st res)
    let polled := { s1 with ringTaken := tput s1.ringTaken n.val (v % 2 ^ 32) }
    let polls := s.ringEn n.val = true ∧ s.ringType n.val < 2 ∧ s.readNum .flow (s.ringBase n.val) 8 = (s1, some v)
    let y := Flow.ofImage b
    let own := y.hdr.owner == s2.ringOwner n.val && s2.fld (Key.flPeer y.hdr.peer 7) 3 0 == s2.ringOwner n.val &&
      y.hdr.pool == s2.ringOwner n.val
    let opens := front 0x10 ∧ s1.flRead e.addr 512 = (s2, some (b, false))
    let p := e.arg 24 1
    let others := s1.flow.any (fun g => g.2.hdr.carrier == e.carrier && g.2.hdr.owner != s1.ringOwner n.val) = true ∨
      s1.allEntries.any (fun q => s1.entryCarrier (s1.teAt q) == e.carrier && teOwner (s1.teAt q) != s1.ringOwner n.val) = true
    (polls → (∀ g, (polled.ringFront n.val).2 = some g → opOk (polled.ringType n.val) g.op = true) →
      exec (.flRingPoll n) s = .next polled) ∧
    (polls → polled.ringFront n.val = (s2, some e) → opOk (polled.ringType n.val) e.op = false →
      exec (.flRingPoll n) s = .next (s2.ringEnd e 2 none)) ∧
    (opens → ∃ g, (s2.flow.length < ctxCount → g < ctxCount ∧ tfind s2.flow g = none) ∧ exec (.flowOpen n) s = .next (
      if y.hdr.ok = false then s2.ringEnd e 2 none else if own = false then s2.ringEnd e 1 none
      else if ctxCount ≤ s2.flow.length then s2.ringEnd e 6 none
      else ((s2.drawBelow ctxCount).2.makeFlow g y).ringEnd e 0 (some g))) ∧
    (front 0x11 → mine → x.st ≠ .closing →
      exec (.flowClose n) s = .next (t.setFl fc { x with st := .closing, closeRing := some n.val })) ∧
    (front 0x11 → absent → ends (.flowClose n) t 7 none) ∧ (front 0x11 → foreign → ends (.flowClose n) t 1 none) ∧
    ((s.fl f.toNat).st = .closing → (s.fl f.toNat).closeRing = some n.val → (s.freeFlow f.toNat).ringFront n.val = (s1, some e) →
      ends (.flowFree f) s1 0 none) ∧
    (tfind (s.freeFlow f.toNat).flow f.toNat = none) ∧
    (front 0x15 → mine → t.flRead e.addr 64 = (s2, some (b, false)) →
      let z := s2.fl fc
      ends (.rekey n) (s2.setFl fc { z with keys := if z.rekeyed then z.nextKeys else z.keys, nextKeys := b.take 32, rekeyed := true
                                            nextCount := e.arg 28 4 }) 0 none) ∧
    (front 0x15 → absent → ends (.rekey n) t 7 none) ∧ (front 0x15 → foreign → ends (.rekey n) t 1 none) ∧
    (front 0x14 → mine → t.busWrite .flow e.addr (patch x.bytes 64 (List.replicate 64 0)) false = (s2, true) →
      ends (.ctxRead n) s2 0 none) ∧
    (front 0x14 → absent → ends (.ctxRead n) t 7 none) ∧ (front 0x14 → foreign → ends (.ctxRead n) t 1 none) ∧
    (front 0x16 → e.carrier ≤ 383 → p < 8 → ¬ others →
      ends (.reown n) (s1.reownCarrier e.carrier p).1 0 (some (s1.reownCarrier e.carrier p).2)) ∧
    (front 0x16 → e.carrier ≤ 383 → p < 8 → others → ends (.reown n) s1 1 none) ∧
    (front 0x16 → 383 < e.carrier ∨ 8 ≤ p → ends (.reown n) s1 2 none) ∧
    (∀ g z, tfind (s1.reownCarrier e.carrier p).1.flow g = some z → z.hdr.carrier = e.carrier → z.hdr.owner = p)

/-- O40. Flow packets, keys and timers (R318, R319, R321, R323 to R330): a key that is absent is placed, RESULT its bucket, or ends FULL;
one that is present ends EXISTS or FOREIGN; a deleted entry reads all zero; a MAC PDU's parts are dealt with in order and counted
in RESULT; a MAC PDU is built of control elements, the flows' PDUs and padding; a frame for the engine is taken, a fragment goes to
EXC; a timer that has reached its value is stopped, or started again, as its procedure says, and none acts before. -/
def Obligations.FlowPacketsKeys : Prop :=
  ∀ (s s1 s2 s3 : State) (n : Fin 256) (m : Fin 128) (e : REntry) (b ce f : List Byte) (q : Place) (fr : List (List Byte))
    (ctx : BitVec 20) (tm : FlowTimer),
    let front := fun (op : Nat) => s.ringFront n.val = (s1, some e) ∧ e.op = op ∧ s.ringType n.val = (if op < 16 then 0 else 1)
    let ends := fun (c : Instr) (u : State) (st : Nat) (res : Option Nat) => exec c s = .next (u.ringEnd e st res)
    let kt := e.arg 24 1
    let fc := e.arg 28 4
    let t := s1.touchFlow fc
    let mine := fc < ctxCount ∧ (t.fl fc).st ≠ .free ∧ (t.fl fc).hdr.owner = t.ringOwner n.val
    let key := (e.b.drop 32).take 16
    let place := t.placeEntry kt key (teMake kt (t.ringOwner n.val) fc key)
    let parts := macParts (s2.carrierLte e.carrier) b
    let foreign := parts.1.any (fun x => x.kind == .sdu && (match s2.lookup 1 (ulKey e.carrier e.ue x.lcid) with
      | some q => teOwner (s2.teAt q) != s2.ringOwner n.val || s2.flowForeign n.val (teFlow (s2.teAt q))
      | none => false))
    let u := parts.1.foldl (fun u x => u.part e (s2.ringOwner n.val) b x) (⟨s2, 0, 0, 0, false⟩ : Ul)
    let fs := (((List.range 8).map (fun i => e.arg (24 + i) 1)).filter (· ≠ 0xFF)).flatMap (s1.flowsOf e.carrier e.ue)
    let built := fs.foldl Build.flow (⟨s2, s1.carrierLte e.carrier, e.len - e.arg 38 2, [], 0, 0⟩ : Build)
    let took := s.setMc m.val { s.mc m.val with flowIn := fr }
    let x := s.fl ctx.toNat
    let due : Bool := match tm with
      | .tReordering => s.timerDone x.tReordering x.hdr.msReordering
      | .tPollRetransmit => s.timerDone x.tPoll x.hdr.msPoll
      | .tReassembly => s.timerDone x.tReassembly x.hdr.msReassembly
      | .tStatusProhibit => s.timerDone x.tProhibit x.hdr.msProhibit
    let w := s.touchFlow ctx.toNat
    let y := w.fl ctx.toNat
    let expires := fun (k : FlowTimer) (v : State) => tm = k → x.st = .opened → due = true → s.flowRuns = true → y.st = .opened →
      exec (.flowTimerExpiry ctx tm) s = .next v
    let um := y.umExpiry w.raw.toNat
    (front 0x12 → kt < 3 → mine → t.lookup kt key = none → exec (.keyInsert n) s = .next (
      match place with
      | (v, some (.slot k _)) => v.ringEnd e 0 (some k)
      | (v, some (.stash _)) => v.ringEnd e 0 (some (2 ^ 63 + (v.buckets kt key).1))
      | (v, none) => v.ringEnd e 6 none)) ∧
    (front 0x12 → kt < 3 → mine → t.lookup kt key = some q →
      ends (.keyInsert n) t (if teOwner (t.teAt q) = t.ringOwner n.val then 5 else 1) none) ∧
    (front 0x12 → 3 ≤ kt → ends (.keyInsert n) s1 2 none) ∧
    (front 0x13 → kt < 3 → s1.lookup kt key = some q → teOwner (s1.teAt q) = s1.ringOwner n.val →
      ends (.keyDelete n) (s1.tePut q (List.replicate 64 0)) 0 none) ∧
    (front 0x13 → kt < 3 → s1.lookup kt key = some q → teOwner (s1.teAt q) ≠ s1.ringOwner n.val → ends (.keyDelete n) s1 1 none) ∧
    (front 0x13 → kt < 3 → s1.lookup kt key = none → ends (.keyDelete n) s1 7 none) ∧
    (front 1 → e.carrier ≤ 383 → s1.flRead e.addr e.len = (s2, some (b, false)) → foreign = false → parts.2 = false →
      ends (.ulPdu n) u.s (if u.poison then 4 else 0) (some (u.pdcp * 2 ^ 48 + u.exc * 2 ^ 32 + u.drop * 2 ^ 16))) ∧
    (front 1 → e.carrier ≤ 383 → s1.flRead e.addr e.len = (s2, some (b, false)) → foreign = false → parts.2 = true →
      ends (.ulPdu n) (u.s.flDrop fdMalformed) (if u.poison then 4 else 3)
        (some (u.pdcp * 2 ^ 48 + u.exc * 2 ^ 32 + u.drop * 2 ^ 16))) ∧
    (front 1 → e.carrier ≤ 383 → s1.flRead e.addr e.len = (s2, some (b, false)) → foreign = true → ends (.ulPdu n) s2 1 none) ∧
    (front 1 → 383 < e.carrier → ends (.ulPdu n) s1 2 none) ∧
    (front 2 → e.carrier ≤ 383 → e.arg 38 2 + 1 ≤ e.len → (∀ f ∈ fs, (s1.fl f).hdr.owner = s1.ringOwner n.val) →
      s1.flRead (e.arg 32 5) (e.arg 38 2) = (s2, some (ce, false)) →
      built.s.busWrite .flow e.addr (ce ++ built.bytes) false = (s3, true) →
      ends (.dlBuild n) s3 0 (some (built.data * 2 ^ 32 + built.pdus * 2 ^ 16 + built.room % 2 ^ 16))) ∧
    (front 2 → 383 < e.carrier ∨ e.len < e.arg 38 2 + 1 → ends (.dlBuild n) s1 2 none) ∧
    ((s.mc m.val).flowIn = f :: fr → s.flowRuns = true → exec (.gtpuDlPacket m) s = .next (took.dlPacket m f)) ∧
    (ipFragment f = true → s.dlPacket m f = s.excRecord (s.entN (Key.ethOwner m.val)) .fragment [m.val] f) ∧
    expires .tReordering (w.reorderExpiry ctx.toNat) ∧ expires .tPollRetransmit (w.setFl ctx.toNat y.pollExpiry) ∧
    expires .tReassembly (if y.hdr.am then w.setFl ctx.toNat (y.amExpiry w.raw.toNat)
      else (w.setFl ctx.toNat um.1).toPdcp ctx.toNat um.2) ∧
    expires .tStatusProhibit (w.setFl ctx.toNat { y with tProhibit := none }) ∧
    (y.pollExpiry.tPoll = none ∧ (y.amExpiry w.raw.toNat).statusDue = true) ∧
    (due = false → exec (.flowTimerExpiry ctx tm) s = .next s)

/-- O41. Octets, ports and lanes (R336, R339, R345 to R353): a write that keeps mode and layout changes the entry alone, any other takes
the octet to electrical idle for 1 ms, a mode the octet has not is refused; a restart starts the ports that wait; a waiting port
resolves the highest common ability; training ends UP in lock; a time-out takes the ability away; loss of signal, of the lock
and of the block lock are noted and the port starts anew; a lock acquired outside ETH brings the lane up; the eye scan, the slip, the
receive word and the checker. -/
def Obligations.LanesPorts : Prop :=
  ∀ (s : State) (rq : Requester) (o : Fin 16) (l : Fin 128) (v : U64) (partner : BitVec 9) (fec : Bool) (b n : Nat) (line : List Bool),
    let f := l.val
    let old := s.ent (Key.lnOCfg o.val)
    let r := bf v 31 0
    let both := (tget 0 s.laneAdv f).toNat &&& partner.toNat
    let ok := fun (k : Nat) (w : U64) => s.checkWho rq k w = .ok
    let octOk := ok (Key.lnOCfg o.val) v ∧ bf v 55 0 = 0 ∧ s.modeOk o.val (bf v 63 60) = true
    let keeps := bf v 63 58 = bf old 63 58 ∧ bit v 56 = bit old 56
    let rateOk := bf v 62 32 = 0 ∧ (if bit v 63 then 50000 ≤ r ∧ r ≤ 112000 else 1250 ≤ r ∧ r ≤ 56250)
    let renews := s.laneMode f = omTest ∧ s.fld (Key.lnTest f) 31 0 ≠ r
    let tested := s.setEnt (Key.lnTest f) v
    let first := s.isFirst f = true
    let training := first ∧ s.laneState f = lnTraining
    let late := training ∧ s.flag (Key.lnCfg f) 57 = true ∧ s.portWaited f (s.entN Key.lnLtTimeout) = true
    let had := s.fld (Key.lnStat f) 59 56
    let adv := (tget 0 s.laneAdv f).toNat
    let left := adv - adv / 2 ^ had % 2 * 2 ^ had
    let trains := (s.portLanes f).foldl (fun (s : State) q => s.setLaneState q lnTraining)
      { s with laneAt := tput s.laneAt f (s.raw.toNat + 1) }
    let x := tget rxInit s.rx f
    let heard := x.feed line
    let bits := heard.2.1.drop ((64 - x.pos) % 64)
    let down := (s.incSat (Key.lnCnt f) 31 16 1).record 0x50 [w64 f, w64 had]
    let los := ((s.setFlag (Key.lnStat f) 1 true).setSticky (Key.lnStat f) 0).incSat (Key.lnCnt f) 63 48 1
    let nolock := ((s.setCdr f false).incSat (Key.lnCnt f) 47 32 1).abortEye f
    let locks := (s.setCdr f true).setFlag (Key.lnStat f) 1 false
    let lockUp := if s.laneMode f ≠ omEth ∧ locks.laneState f = lnIdle then locks.setLaneState f lnUp else locks
    let ev := setBit v 63 true
    let eyeOk := s.checkWrite rq (Key.lnEyeCtl f) ev = .ok
    let running := s.flag (Key.lnEyeCtl f) 63 = true
    let hears := s.laneMode f = omGelpel ∧ s.cdrLocked f = true
    (octOk → keeps → exec (.octetReconfigure rq o v) s = .next ((s.setEnt (Key.lnOCfg o.val) v).status .ok)) ∧
    (octOk → ¬ keeps → exec (.octetReconfigure rq o v) s =
      .next ((((s.octetIdle o.val 3).setEnt (Key.lnOCfg o.val) v).octetHold o.val 3).status .ok)) ∧
    (ok (Key.lnOCfg o.val) v → bf v 55 0 ≠ 0 ∨ s.modeOk o.val (bf v 63 60) = false →
      exec (.octetReconfigure rq o v) s = .next (s.status .range)) ∧
    (let u := (s.octPorts o.val).foldl (fun (s : State) l => if s.laneState l = lnIdle then s.startPort l else s) s
     exec (.octetRestart o) s = .next (if 8 ≤ o.val then u.gplTrain ((o.val - 8) / 2) else u)) ∧
    (ok (Key.lnTest f) v → rateOk → ¬ renews → exec (.testRateChange rq l v) s = .next (tested.status .ok)) ∧
    (ok (Key.lnTest f) v → rateOk → renews → exec (.testRateChange rq l v) s =
      .next ((((tested.portDown f 3).portTo f (if (tested.portDown f 3).laneEn f then lnIdle else lnDisabled)).idleFrom f).status .ok)) ∧
    (ok (Key.lnTest f) v → ¬ rateOk → exec (.testRateChange rq l v) s = .next (s.status .range)) ∧
    (first → s.laneState f = lnAnState → b < 9 → both / 2 ^ b % 2 = 1 → both < 2 ^ (b + 1) → exec (.anResolve l partner fec) s =
      .next ((trains.setFld (Key.lnStat f) 59 56 b).setFld (Key.lnStat f) 55 54 (abilityFec b (fec || trains.flag (Key.lnAn f) 15)))) ∧
    (first → s.laneState f = lnAnState → both = 0 → exec (.anResolve l partner fec) s = .next s) ∧
    (training → exec (.trainingDone l) s =
      .next ((s.portLanes f).foldl (fun (s : State) q => (s.setLaneState q lnUp).setFld (Key.lnStat q) 3 2 3) s)) ∧
    (late → s.flag (Key.lnCfg f) 56 = false → exec (.ltTimeoutDownshift l) s = .next (s.portTo f lnAnState)) ∧
    (late → s.flag (Key.lnCfg f) 56 = true → exec (.ltTimeoutDownshift l) s =
      .next { down.portTo f (if left = 0 then lnIdle else lnAnState) with
        laneAt := tput down.laneAt f (down.raw.toNat + 1), laneAdv := tput down.laneAdv f (BitVec.ofNat 9 left) }) ∧
    (¬ late → exec (.ltTimeoutDownshift l) s = .next s) ∧
    (first → s.laneState f = lnIdle → s.laneMode f = omEth → s.flag (Key.lnCfg f) 57 = true → tget 0 s.laneAdv f = 0 →
      s.portWaited f 1000 = true → exec (.anFullRestart l) s = .next (s.startPort f)) ∧
    (s.portWaited f 1000 = false → exec (.anFullRestart l) s = .next s) ∧
    (s.rxRuns f = true → s.flag (Key.lnStat f) 1 = false → exec (.losDetect l) s =
      .next (((if los.laneMode f = omCpri then los.incSat (Key.cpriCnt f) 47 32 1 else los).abortEye f).portLost f 0)) ∧
    (s.cdrLocked f = true → exec (.cdrLockLoss l) s =
      .next ({ nolock.setFlag (Key.lnPrbs f) 29 false with rx := tdel nolock.rx f }.portLost f 1)) ∧
    (s.flag (Key.lnStat f) 3 = true →
      exec (.blockLockLoss l) s = .next ((s.setFlag (Key.lnStat f) 3 false).portLost f 2)) ∧
    (s.rxRuns f = true → s.lanesRun (f / 8) = true → s.cdrLocked f = false → ∃ u, exec (.cdrLockAcquire l) s = .next u ∧
      u.cdrLocked f = true ∧ u.flag (Key.lnStat f) 1 = false ∧
      (s.laneMode f ≠ omEth → s.laneState f = lnIdle → u.laneState f = lnUp) ∧ u.mem = s.mem ∧ u.tile = s.tile ∧
      ∀ k : Fin 2, s.fld (Key.clkSynceOut k.val) 6 0 = f → tget false u.synceLow k.val = false) ∧
    (s.flag (Key.lnPrbs f) 30 = true → s.rxRuns f = true → s.dev ≠ .hold → s.flag (Key.lnPrbs f) 29 = false →
      exec (.prbsCheckerLock l n) s = .next (s.setFlag (Key.lnPrbs f) 29 true)) ∧
    (s.flag (Key.lnPrbs f) 30 = true → s.rxRuns f = true → s.dev ≠ .hold → s.flag (Key.lnPrbs f) 29 = true →
      exec (.prbsCheckerLock l n) s = .next (s.inc64 (Key.lnPrbsErr f) n)) ∧
    (eyeOk → ¬ running → bf ev 62 61 = 0 ∨ s.lanePam4 f = true →
      exec (.eyeStart rq l v) s = .next (((s.setEnt (Key.lnEyeCtl f) ev).setEnt (Key.lnEyeRes f) 0).status .ok)) ∧
    (eyeOk → ¬ running → bf ev 62 61 ≠ 0 → s.lanePam4 f = false → exec (.eyeStart rq l v) s = .next (s.status .range)) ∧
    (eyeOk → running → exec (.eyeStart rq l v) s = .next (s.status .busy)) ∧
    (running → n ≤ 2 ^ s.fld (Key.lnEyeCtl f) 5 0 → exec (.eyePointDone l n) s =
      .next ((s.setFlag (Key.lnEyeCtl f) 63 false).setEntN (Key.lnEyeRes f) (2 ^ 62 + min n (2 ^ 48 - 1)))) ∧
    (ok (Key.lnSlip f) 1 → s.laneMode f = omGelpel → s.flag (Key.lnStat f) 4 = false →
      exec (.laneSlip rq l 1) s = .next ((s.setFlag (Key.lnStat f) 4 true).status .ok)) ∧
    (ok (Key.lnSlip f) 1 → s.laneMode f = omGelpel → s.flag (Key.lnStat f) 4 = true →
      exec (.laneSlip rq l 1) s = .next (s.status .busy)) ∧
    (ok (Key.lnSlip f) v → s.laneMode f ≠ omGelpel → exec (.laneSlip rq l v) s = .next (s.status .range)) ∧
    (s.flag (Key.lnStat f) 4 = true → exec (.slipDone l) s =
      .next { s.setFlag (Key.lnStat f) 4 false with rx := tput s.rx f { x with pos := (x.pos + 63) % 64 } }) ∧
    (s.checkRead rq (Key.lnRxword f) = .ok → hears → heard.2.2 = 0 → 64 ≤ bits.length →
      exec (.rxwordRead rq l line) s =
        .next ({ s with rx := tput s.rx f { heard.1 with pos := (x.pos + heard.2.1.length) % 64 } }.answer
          (.value (w64 ((bits.take 64).foldl (fun a b => 2 * a + b01 b) 0))))) ∧
    (s.checkRead rq (Key.lnRxword f) = .ok → hears → ∃ (u : State) (w : U64), exec (.rxwordRead rq l line) s = .next (u.answer (.value w)) ∧
      u.fld (Key.lnCnt f) 15 0 = min (s.fld (Key.lnCnt f) 15 0 + heard.2.2) 65535) ∧
    (s.checkRead rq (Key.lnRxword f) = .ok → ¬ hears → exec (.rxwordRead rq l line) s = .next (s.answer (.value 0)))

/-- O42. Ethernet MACs (R355 to R365, R382, R397): a MAC not in service takes nothing; a frame for which MAXLEN is not free is counted,
any other enters the FIFO, which drains oldest first while the framer takes its frames; a frame too short, too long, with a bad FCS or
for no one is counted, a local one goes to its consumer; a descriptor of the transmit ring joins its queue; the highest eligible
queue's head leaves whole with its FCS; an address not renewed ages out; an overrun head is discarded; a gate row's interval begins at
its instant with its words latched and ends with it; gating starts at a cycle; the delay measurement asks, and times out after
10 ms. -/
def Obligations.EthernetFrames : Prop :=
  ∀ (s s1 s2 s3 : State) (rq : Requester) (m : Fin 128) (f : RxFrame) (g : HeldFrame) (gs : List HeldFrame) (x : TxFrame)
    (r : List TxFrame) (q : Fin 8) (row : Fin 1024) (v : U64) (vid : BitVec 12) (mac : BitVec 48) (e : Fdb) (n k at_ : Nat) (d b : List Byte)
    (p1 p2 : Bool),
    let y := s.mc m.val
    let held := (y.fifo.map (fun g => g.bytes.length)).sum
    let roomy := f.room = true ∧ held + s.maxLen m.val ≤ s.fifoSize m.val
    let st := s.stamp
    let joined := st.2.2.setMc m.val { st.2.2.mc m.val with
      fifo := y.fifo ++ [⟨f.bytes, f.fcsOk, st.1, st.2.2.ingress m.val st.2.1⟩] }
    let waits := s.toFramer m g = true ∧ s.creditOf (.framer m) = 0
    let long := 64 ≤ g.bytes.length
    let fits := long ∧ g.bytes.length ≤ s.maxLen m.val
    let counted := ((s.ethCount m.val 0 1).ethCount m.val 1 g.bytes.length).countDst m.val 2 (dstOf g.bytes)
    let plain := ptpEvent g.bytes = false ∧ counted.ethBit m.val 57 = false
    let fk := fdbKey vid.toNat mac.toNat
    let s0 := s.ethResume m
    let ring := hostRing (s0.ent (Key.ethHtx m.val))
    let i := (s1.mc m.val).htxTaken
    let rings := bit (s0.ent (Key.ethHtx m.val)) 63 = true ∧ s0.ethBit m.val 63 = true ∧ s0.macActive m.val = true ∧
      s0.unitRuns (macUnit m.val) = true ∧ s0.readNum (.mac m) ring.base 8 = (s1, some n)
    let taken := s2.setMc m.val { s2.mc m.val with htxTaken := (i + 1) % 2 ^ 32 }
    let fl := leNat ((d.drop 10).take 2)
    let whole := s.sendFrame m q.val x
    let late := s.gclEn m.val = true ∧ x.headSince + s.gclCycleT m.val ≤ s.now ∧ s.headEligible m q.val = false
    let gone := (s.dequeue m.val q.val).ethCount m.val 0x17 1
    let swapped := s.swapBefore (.gcl m) (fun s => s.gclDue m row.val)
    let w := if swapped.executing (.gcl m) row.val then swapped else swapped.applyDeferred (.gcl m) row.val
    let cfgOk := s.checkWrite rq (Key.gclCfg m.val) v = .ok
    let set := s.setEnt (Key.gclCfg m.val) v
    let ended := fun (o : Occ) => o.row == row.val && decide (o.time + nsT (bf (o.words.getD 0 0) 31 0) ≤ s.now)
    let due := y.dlyBusy = true ∧ y.dlyRaw + msTicks 10 ≤ s.raw.toNat
    (s.ethRuns m.val = false → exec (.ethRxFrame m f) s = .next s) ∧
    (s.ethRuns m.val = true → ¬ roomy → exec (.ethRxFrame m f) s = .next (s.ethCount m.val 8 1)) ∧
    (s.ethRuns m.val = true → roomy → f.fifoOk = false → exec (.ethRxFrame m f) s = .next (s.notePath 12 (macUnit m.val) 0)) ∧
    (s.ethRuns m.val = true → roomy → f.fifoOk = true →
      exec (.ethRxFrame m f) s = .next (joined.ethDrain m (y.fifo.length + 1))) ∧
    (y.fifo = [] → s.ethDrain m k = s) ∧ (y.fifo = g :: gs → waits → s.ethDrain m k = s) ∧
    (y.fifo = g :: gs → ¬ waits → s.ethDrain m (k + 1) = ((s.setMc m.val { y with fifo := gs }).ethTake m g).ethDrain m k) ∧
    (¬ long → s.ethTake m g = s.ethCount m.val 6 1) ∧ (long → ¬ fits → s.ethTake m g = s.ethCount m.val 7 1) ∧
    (fits → g.fcsOk = false → s.ethTake m g = s.ethCount m.val 5 1) ∧
    (fits → g.fcsOk = true → plain → counted.isLocal m.val (dstOf g.bytes) = false → s.ethTake m g = counted.ethCount m.val 9 1) ∧
    (fits → g.fcsOk = true → plain → counted.isLocal m.val (dstOf g.bytes) = true →
      s.ethTake m g = counted.consume m g.bytes g.time) ∧
    (tfind s.fdb fk = some e → s.entN Key.ethBrAge * 491520000 ≤ s.raw.toNat - e.learnedRaw →
      exec (.fdbAgeOut vid mac) s = .next { s with fdb := tdel s.fdb fk }) ∧
    (tfind s.fdb fk = some e → s.raw.toNat - e.learnedRaw < s.entN Key.ethBrAge * 491520000 → exec (.fdbAgeOut vid mac) s = .next s) ∧
    (rings → i = n % 2 ^ 32 → exec (.htxPoll m) s = .next s1) ∧
    (rings → i ≠ n % 2 ^ 32 → s1.busRead (.mac m) (ring.slot i) 16 = (s2, some (d, p1)) →
      taken.busRead (.mac m) (leNat (d.take 8) % 2 ^ 40) (leNat ((d.drop 8).take 2)) = (s3, some (b, p2)) →
      exec (.htxPoll m) s = .next (s3.enqueue m.val (fl / 16 % 8)
        { plainFrame b with ring := some i, onestep := fl / 2 % 2 == 1, ts := fl % 2 == 1 })) ∧
    (s.ethRuns m.val = true → y.txEnd ≤ s.now → y.q q.val = x :: r → s.headEligible m q.val = true →
      (∀ j, q.val < j → j < 8 → s.headEligible m j = false) → exec (.ethTxFrameStart m) s = .next whole) ∧
    (y.txEnd > s.now → exec (.ethTxFrameStart m) s = .next s) ∧
    (x.ring = none → x.rawIn = none → x.dly = false → (whole.mc m.val).sent = y.sent ++ [wireBytes x.bytes] ∧
      (whole.mc m.val).txEnd = s.now + s.txTime m.val x.bytes ∧ whole.mem = s.mem) ∧
    (y.q q.val = x :: r → late → exec (.txOverrun m q) s =
      .next (match x.ring with | some i => gone.htxEnd m i 1 none | none => gone)) ∧
    (y.q q.val = x :: r → ¬ late → exec (.txOverrun m q) s = .next s) ∧
    (w.gclDue m row.val = some at_ → at_ ≤ w.now → exec (.gclEntryBegin m row) s = .next ((w.setMc m.val { w.mc m.val with
      gclNext := tput (w.mc m.val).gclNext row.val (w.gclNextCycle m row.val + 1) }).beginOcc (.gcl m) row.val at_)) ∧
    (w.gclDue m row.val = some at_ → w.now < at_ → exec (.gclEntryBegin m row) s = .next w) ∧
    (w.gclEn m.val = true → bit (w.ent (rowKey (.gcl m) 0 row.val 0)) 62 = true → w.gclDue m row.val =
      some (gclBaseT w m.val + w.gclNextCycle m row.val * w.gclCycleT m.val + (rowSpan (w.rowOf (.gcl m) 0 row.val)).1)) ∧
    (exec (.gclEntryEnd m row) s = .next (s.endOcc (.gcl m) ended)) ∧
    (((s.endOcc (.gcl m) ended).lv (.gcl m)).occ = (s.lv (.gcl m)).occ.eraseP ended) ∧
    (cfgOk → bit v 63 = true → s.entN (Key.gclCycle m.val) = 0 → exec (.gclEnable rq m v) s = .next (s.status .range)) ∧
    (cfgOk → bit v 63 = true → s.entN (Key.gclCycle m.val) ≠ 0 → s.gclEn m.val = true →
      exec (.gclEnable rq m v) s = .next (set.status .ok)) ∧
    (cfgOk → bit v 63 = true → s.entN (Key.gclCycle m.val) ≠ 0 → s.gclEn m.val = false →
      exec (.gclEnable rq m v) s = .next ((set.setMc m.val { set.mc m.val with
        gclFrom := set.firstCycle (gclBaseT set m.val) (set.gclCycleT m.val) (set.raw.toNat + marginTicks), gclNext := [] }).status .ok)) ∧
    (cfgOk → bit v 63 = false →
      exec (.gclEnable rq m v) s = .next ((set.setLv (.gcl m) { set.lv (.gcl m) with occ := [] }).status .ok)) ∧
    (s.checkWrite rq (Key.ethDly m.val) (setBit v 63 true) = .ok → ∃ u, exec (.delayMeasureStart rq m v) s = .next u ∧
      (u.mc m.val).dlyBusy = true ∧ (u.mc m.val).dlyId = bf v 7 0 ∧ (u.mc m.val).dlyRaw = s.raw.toNat ∧ u.reply = .status .ok ∧
      u.mem = s.mem) ∧
    (due → exec (.delayTimeout m) s = .next ((s.setSticky (Key.ethDly m.val) 62).setMc m.val { y with dlyBusy := false })) ∧
    (¬ due → exec (.delayTimeout m) s = .next s)

/-- O43. Fronthaul and CPRI (R369, R374, R375, R377, R379, R380): a due token leaves with a credit and waits without one; a symbol's window
that opens is remembered once, and a transmit symbol goes out; a window whose occurrence goes on stays open, one that ends is
recorded and closes its group; the C-plane list is sent once a slot; a hyperframe that arrives on a
running link sends one, whose control words but those the link itself makes are given; a link that loses frame is counted. -/
def Obligations.FronthaulCpri : Prop :=
  ∀ (s s2 : State) (n : Fin 4096) (g l : Fin 14) (d : FhDue) (o : Occ) (seq sl sfn : Nat) (w : Win) (c : Fin 384) (dl : Bool) (k : Fin 32)
    (h : CpriHyper) (hp : (s.str n.val).port < 128) (b : List Byte),
    let x := s.str n.val
    let f := s.fhs n.val
    let who := Producer.framer ⟨x.port, hp⟩
    let synced := x.kind = skCpri → 2 ≤ s.fld (Key.cpriStat x.port) 63 60
    let due := f.due.find? (fun d => d.group == g.val)
    let left := (s.setFhs n.val { f with due := f.due.erase d }).sendItem who (.token (s.fhToken n.val d) (s.partOfProd who) .none)
    let shows := x.en = true ∧ x.kind ≤ 1 ∧ l.val < x.nsym ∧ s.winOcc x l.val = some o ∧ s.winSlot x o 0 = some (seq, sl, sfn)
    let seen := f.closed.any (fun c => c.1.seq == seq && c.1.l == l.val) = true ∨
      f.wins.any (fun w => w.seq == seq && w.l == l.val) = true
    let nw : Win := ⟨l.val, seq, sl, sfn, o.time⟩
    let opened := s.setFhs n.val { f with wins := f.wins ++ [nw] }
    let going := (s.winOcc x l.val).any (fun o => o.time == w.at_) = true
    let closed := s.setFhs n.val { f with wins := f.wins.erase w, closed := ((w, s.now) :: f.closed).take 256 }
    let mq := (closed.mc x.port).q (closed.fhQ x.port)
    let mine := fun (t : TxFrame) => t.fh == some (n.val, symKey w.seq l.val)
    let cfg := s.ent (Key.ethCpCfg c.val)
    let size := bf cfg 23 16 * 1024
    let sent := tget 0 s.cpSent (c.val * 2 + b01 dl) = seq + 1
    let t := { s with cpSent := tput s.cpSent (c.val * 2 + b01 dl) (seq + 1) }
    let names := (List.range 4096).find? (fun n => let x := s.str n; x.en && x.kind == skOran && x.carrier == c.val && x.tx == dl) =
      some n.val
    let cwin := names ∧ s.winOcc x (if dl then 14 else 15) = some o ∧ s.winSlot x o 1 = some (seq, sl, sfn)
    let lost := s.cpriRuns k.val = true ∧ 2 ≤ s.fld (Key.cpriStat k.val) 63 60
    (synced → due = none → exec (.fhTokenGroup n g) s = .next s) ∧
    (synced → due = some d → s.creditOf who = 0 → exec (.fhTokenGroup n g) s = .next s) ∧
    (synced → due = some d → s.creditOf who ≠ 0 → exec (.fhTokenGroup n g) s = .next (left.ethResume ⟨x.port, hp⟩)) ∧
    (shows → ¬ seen → x.tx = false → exec (.fhSymbolWindowOpen n l) s = .next opened) ∧
    (shows → ¬ seen → x.tx = true → exec (.fhSymbolWindowOpen n l) s = .next (opened.fhTransmit n.val nw)) ∧
    (shows → seen → exec (.fhSymbolWindowOpen n l) s = .next s) ∧
    (s.winOcc x l.val = none → exec (.fhSymbolWindowOpen n l) s = .next s) ∧
    (f.wins.find? (fun w => w.l == l.val) = some w → going → exec (.fhSymbolWindowClose n l) s = .next s) ∧
    (f.wins.find? (fun w => w.l == l.val) = some w → ¬ going → x.tx = false → exec (.fhSymbolWindowClose n l) s =
      .next (if x.lastOf (l.val / x.tsize) = l.val then closed.fhGroupClose n.val w.seq w.slot (l.val / x.tsize) else closed)) ∧
    (f.wins.find? (fun w => w.l == l.val) = some w → ¬ going → x.tx = true → exec (.fhSymbolWindowClose n l) s =
      .next ((closed.setMc x.port ((closed.mc x.port).setQ (closed.fhQ x.port) (mq.filter (fun t => !(mine t))))).ethCount x.port 0x18
        (mq.filter mine).length)) ∧
    (bit cfg 63 = false → exec (.cplaneSend c dl) s = .next s) ∧ (cwin → sent → exec (.cplaneSend c dl) s = .next s) ∧
    (cwin → bit cfg 63 = true → ¬ sent →
      t.fhRead { x with w1 := setf x.w1 39 37 (bf cfg 62 60) } (bf cfg 59 36 + seq % 2 ^ bf cfg 15 14 * size) size = (s2, b) →
      exec (.cplaneSend c dl) s = .next (if leNat (b.take 8) / 2 ^ 63 = 1 ∧ leNat (b.take 8) / 2 ^ 32 % 16 = seq % 16 then
        s2.cpEntries c.val x.port dl seq sl sfn (bf cfg 62 60) (leNat (b.take 8) % 65536) (b.drop 8) else s2.ethCount x.port 0x1A 1)) ∧
    (s.cpriRuns k.val = false → exec (.cpriHyperframe k h) s = .next s ∧ exec (.cpriLossOfFrame k) s = .next s) ∧
    (s.cpriRuns k.val = true → ∃ u y, exec (.cpriHyperframe k h) s = .next u ∧ tfind u.cpriTx k.val = some y ∧ y.control.length = 256 ∧
      ∀ i : Fin 4, y.control.getD (64 * i.val) (some []) = none) ∧
    (lost → exec (.cpriLossOfFrame k) s = .next ((s.setFld (Key.cpriStat k.val) 63 60 1).incSat (Key.cpriCnt k.val) 63 48 1)) ∧
    (¬ lost → exec (.cpriLossOfFrame k) s = .next s)

/-- O44. Parity, merges and walks (R391 to R393, R399, R402 to R406): a re-fetch that returns rewrites the word from its anchor and is
counted, or fails; a tile's fetch begins one; a merge entry not written for 4,096 FCLK cycles is flushed; a walk that is off, not due
or suspended does nothing, else reads its next block and goes on; a class's log is emptied; a class's error counts are recorded at
most once a second. -/
def Obligations.ParityWalks : Prop :=
  ∀ (s v : State) (rq : Requester) (a : BitVec 55) (ok : Bool) (q : Nat × Bool × Nat) (h port block : Nat) (p : Fin 8) (c : Fin 16)
    (r : HbmReport) (ups : List Addr) (inner : List InnerWord) (m : Merge) (tn : Nat) (e : Status),
    let w := a.toNat / 8 * 8
    let t := { s with refetch := s.refetch.filter (fun q => q.1 != w) }
    let pending := s.refetch.find? (fun q => q.1 == w) = some q
    let idle := s.refetch.find? (fun q => q.1 == w) = none
    let gcfg := s.ent (Key.grmCfg p.val)
    let grooms := bit gcfg 63 = true ∧ s.walkDue p.val (bf gcfg 15 0) = true ∧ s.packUp p.val = true ∧
      s.unitRuns (accUnit p.val 21) = true ∧ s.fld Key.pwrThermStat 49 48 = 0
    let ga := packBase p.val + s.fld (Key.grmStat p.val) 19 0 % walkBlocks * 64
    let g1 := (((s.walked p.val).upset ga 64 ups).flushOver 19 ga 64).walkInner inner
      (fun w => 4 ≤ w.cls.toNat && w.cls.toNat ≤ 6 && unitPack w.unit.toNat == some p.val)
    let scrubs := s.flag Key.grmHbmCfg 63 = true ∧ s.walkDue 8 (s.fld Key.grmHbmCfg 15 0) = true ∧ s.fld Key.pwrThermStat 49 48 = 0 ∧
      s.flag Key.lshPauseB 0 = false ∧ s.warn = false ∧ s.phase ≠ phReset ∧ s.dev ≠ .hold
    let n := s.fld Key.grmHbmStat 28 0 % hbmBlocks
    let h1 := (s.walked 8).flushOver 19 (n * 256) 256
    let h2 := (match r with
      | .clean => h1
      | .corrected => h1.noteCorrected 14 (memUnit h1 (n * 256)) (n * 256)
      | .uncorrectable | .parity => h1.hbmPoison (n * 256) 256).walkInner inner (fun w => 7 ≤ w.cls.toNat && w.cls.toNat ≤ 11)
    let h3 := if n % 768 = 0 then (h2.upset (mramBase + n / 768 * 64) 64 ups).readTouch (mramBase + n / 768 * 64) 64 else h2
    let cnt := s.epSince c.val
    let last := tget 0 s.epTime c.val
    let tells := cnt ≠ 0 ∧ (last = 0 ∨ last - 1 + secTicks ≤ s.raw.toNat)
    (pending → q.2.1 = true → exec (.anchorRefetchDone a ok) s = .next t) ∧
    (pending → q.2.1 = false → t.refetched w ok = some v →
      exec (.anchorRefetchDone a ok) s = .next (v.noteCorrected ((memClass w).getD 0) (memUnit t w) (logAddr w))) ∧
    (pending → q.2.1 = false → t.refetched w ok = none → exec (.anchorRefetchDone a ok) s = .next (t.anchorFail w)) ∧
    (isInner w = false → s.anchorOf w = some h → s.refetched w ok =
      if ok = true ∧ s.poisoned h = false ∧ s.freshWord (h / 8) = false then some (s.store w (s.bytes h 8)) else none) ∧
    (idle → regionOf w = .im tn → (s.tl tn).st = .running → s.freshWord (w / 8) = true → (s.tl tn).pc.toNat / 8 * 8 + imAddr tn 0 = w →
      exec (.anchorRefetchDone a ok) s = exec (.anchorRefetchDone a ok) (s.startRefetch (w / 8) 19)) ∧
    (idle → s.freshWord (w / 8) = false → exec (.anchorRefetchDone a ok) s = .next s) ∧
    (s.merges.find? (fun m => m.port == port && m.block == block) = none → exec (.mergeFlush port block) s = .next s) ∧
    (s.merges.find? (fun m => m.port == port && m.block == block) = some m → m.lastRaw + 2048 ≤ s.raw.toNat →
      exec (.mergeFlush port block) s = .next (s.flushMerge m)) ∧
    (s.merges.find? (fun m => m.port == port && m.block == block) = some m → s.raw.toNat < m.lastRaw + 2048 →
      exec (.mergeFlush port block) s = .next s) ∧
    (grooms → exec (.groomerBlock p ups inner) s = .next (((List.range 8).foldl
      (fun (s : State) i => s.groomWord (bit gcfg 62) (ga / 8 + i)) g1).walkOn (Key.grmStat p.val) p.val 48 20 walkBlocks 491520)) ∧
    (¬ grooms → exec (.groomerBlock p ups inner) s = .next s) ∧
    (scrubs → exec (.hbmScrubTransfer r ups inner) s =
      .next ((h3.readTouch (n * 256) 256).walkOn Key.grmHbmStat 8 48 29 hbmBlocks secTicks)) ∧
    (¬ scrubs → exec (.hbmScrubTransfer r ups inner) s = .next s) ∧
    (s.checkWrite rq (Key.epClassClear c.val) 1 = .ok → exec (.epClassClear rq c) s = .next ((s.emptyLog c.val).status .ok)) ∧
    (s.checkWrite rq (Key.epClassClear c.val) 1 = e → e ≠ .ok → exec (.epClassClear rq c) s = .next (s.status e)) ∧
    (∀ i : Fin 16, tfind (s.emptyLog c.val).od (Key.epClassLog c.val i.val) = none) ∧
    (tells → exec (.epErrorRecord c) s = .next { s.record 0x60 [w64 c.val, cnt] with
      epTold := tput (tput s.epTold c.val 0) (16 + c.val) (s.ent (Key.epClassCnt c.val))
      epTime := tput s.epTime c.val (s.raw.toNat + 1) }) ∧
    (¬ tells → exec (.epErrorRecord c) s = .next s)

/-- O45. Dictionary, window, I2C and management port (R6, R184, R412, R413, R416, R422, R436, R562): a clear-on-read entry is returned and
cleared in one action; a write is refused in the order of R416, staged in class N, and plain where the object has no rule of its own;
the window is reached by aligned 64-bit accesses only; an I2C transfer runs once, and ends for clock time-out only after 25 ms; the
port answers for its own addresses. -/
def Obligations.DictionaryPorts : Prop :=
  ∀ (s : State) (rq : Requester) (o : Obj) (v : U64) (p : Fin 8) (c : Fin 16) (md : PrivMode) (a : Addr) (n k : Nat)
    (i : Fin 2) (res : I2cResult) (xf : I2cXfer) (ip4 : BitVec 32) (ip6 : BitVec 128) (b : List Byte) (e : Status) (r : Row) (ix : List Nat),
    let x := objKey o
    let up := s.pwrgood = true ∧ s.resetN = true ∧ phPost ≤ s.phase
    let rc := lookupObj x = some (r, ix) ∧ r.acc = .rc
    let got := s.readEntry (rqSlot rq) x true
    let xfer := fun (op : Nat) => setf v 63 62 op
    let start := fun (c : Instr) (op : Nat) => s.checkWho rq (Key.pinI2cXfer i.val) (xfer op) = .ok → bf v 45 40 ≤ 32 → bf v 37 32 ≤ 32 →
      (tfind s.i2cBusy i.val = none → exec c s = .next ({ s.setEntN (Key.pinI2cXfer i.val) (2 ^ 63) with
        i2cBusy := tput s.i2cBusy i.val ⟨xfer op, s.raw.toNat, s.i2cSends i.val (xfer op)⟩ }.status .ok)) ∧
      (tfind s.i2cBusy i.val = some xf → exec c s = .next (s.status .busy))
    let ends := fun (st : Nat) => { s.setEntN (Key.pinI2cXfer i.val) st with i2cBusy := tdel s.i2cBusy i.val }
    let reads := b.take (if 2 ≤ bf xf.word 63 62 then bf xf.word 37 32 else 0)
    let put := fun (y : List Byte) => { s with mgmtOut := s.mgmtOut ++ [y] }
    (rc → isDiag x = true ∨ s.checkRead rq x = .ok → exec (.rcRead rq o) s = .next (got.2.answer (.value got.1))) ∧
    (rc → isDiag x = false → s.checkRead rq x = e → e ≠ .ok → exec (.rcRead rq o) s = .next (s.status e)) ∧
    (s.readEntry (rqSlot rq) (Key.knDup p.val) true = (s.ent (Key.knDup p.val), s.setEnt (Key.knDup p.val) 0)) ∧
    (isDiag x = true → s.seen rq x = none → exec (.objectWrite rq o v) s = .next (s.status .ok)) ∧
    (isDiag x = false → s.seen rq x = none → exec (.objectWrite rq o v) s = .next (s.status .noObject)) ∧
    (x = Key.knHighWater → s.checkWrite rq x v = .ok → exec (.objectWrite rq o v) s = .next ((s.setEnt x v).status .ok)) ∧
    (x = Key.knHighWater → s.checkWrite rq x v = e → e ≠ .ok → exec (.objectWrite rq o v) s = .next (s.status e)) ∧
    (x = Key.odSessionIdle → s.checkWrite rq x v = .ok → exec (.objectWrite rq o v) s =
      .next (if 256 ≤ (s.staging.filter (fun e => e.1 / 2 ^ 32 == rqSlot rq)).length ∧ (tfind s.staging (slotKey rq x)).isNone
        then s.status .full else { s with staging := tput s.staging (slotKey rq x) v }.status .ok)) ∧
    (s.coreRuns c.val = true → windowKey a n = some k → exec (.dictWindowLoad c md a n) s =
      .next ((s.readEntry c.val k true).2.answer (.value (s.readEntry c.val k true).1))) ∧
    (s.coreRuns c.val = true → windowKey a n = none →
      exec (.dictWindowLoad c md a n) s = .next ((s.accessFault (.core c md) a.toNat).answer .fault) ∧
      exec (.dictWindowStore c md a n v) s = .next ((s.accessFault (.core c md) a.toNat).answer .fault)) ∧
    (s.coreRuns c.val = true → windowKey a n = some k →
      exec (.dictWindowStore c md a n v) s = .next (s.writeEntry (.core c md) k v)) ∧
    (s.coreRuns c.val = false → exec (.dictWindowLoad c md a n) s = .next s ∧ exec (.dictWindowStore c md a n v) s = .next s) ∧
    start (.i2cWrite rq i v) 1 ∧ start (.i2cRead rq i v) 2 ∧ start (.i2cWriteRead rq i v) 3 ∧
    (tfind s.i2cBusy i.val = some xf → (∀ b, res ≠ .ok b) → s.i2cMayEnd xf res = true →
      exec (.i2cDone i res) s = .next (ends (i2cStatus res))) ∧
    (tfind s.i2cBusy i.val = some xf → s.i2cMayEnd xf res = false → exec (.i2cDone i res) s = .next s) ∧
    (tfind s.i2cBusy i.val = some xf → reads = [] → exec (.i2cDone i (.ok b)) s = .next (ends 0)) ∧
    (tfind s.i2cBusy i.val = some xf → reads ≠ [] → exec (.i2cDone i (.ok b)) s =
      .next ((ends 0).setOcts (Key.pinI2cBuf i.val) (reads ++ ((ends 0).octs (Key.pinI2cBuf i.val) 32).drop reads.length))) ∧
    (tfind s.i2cBusy i.val = none → exec (.i2cDone i res) s = .next s) ∧
    (up → s.ownIp4 ip4 = true →
      exec (.mgmtPortFrame (.arp ip4)) s = .next (put (beBytes 6 Config.idMgmtMac.toNat ++ beBytes 4 ip4.toNat))) ∧
    (up → s.ownIp6 ip6 = true →
      exec (.mgmtPortFrame (.neighbourSolicit ip6)) s = .next (put (beBytes 6 Config.idMgmtMac.toNat ++ beBytes 16 ip6.toNat))) ∧
    (up → s.ownIp4 ip4 = true → exec (.mgmtPortFrame (.echo4 ip4 b)) s = .next (put (beBytes 4 ip4.toNat ++ b))) ∧
    (up → s.ownIp6 ip6 = true → exec (.mgmtPortFrame (.echo6 ip6 b)) s = .next (put (beBytes 16 ip6.toNat ++ b))) ∧
    (s.ownIp4 ip4 = false → exec (.mgmtPortFrame (.arp ip4)) s = .next s) ∧
    (exec (.mgmtPortFrame .other) s = .next s)

/-- O46. Enber requests (R422 to R426, R433, R435, R436, R442): a request of a session that passes tag, SEQ, dialect and form is executed,
raises H and is answered; a repeated one is answered from the cache, an older one and one with a wrong tag are counted and not answered;
outside a session only a handshake and reads are served; a token waits for a supply warning and for the COMMITs before it. -/
def Obligations.EnberRequests : Prop :=
  ∀ (s t : State) (m : EnberMsg) (i : Fin 16) (x : Session) (r : Reply) (st : Status) (j : Nat) (ver : MramResult)
    (zero : State → State) (run : Fin 16 → State → State × Option Reply),
    let seq := m.seq.toNat
    let on := s.enberOn = true ∧ enberFramed m = true
    let mine := on ∧ m.session ≠ 0 ∧ s.sessionAt m.session = some i ∧ s.sess i.val = some x
    let tagOk := m.tag = enberTag (x.keys.take 32) (enberHeader m ++ enberBody m)
    let served := mine ∧ tagOk ∧ x.high ≤ seq ∧ m.dialect.toNat = x.dialect ∧ enberForm m = true
    let body := enberBody m
    let id := (body.getD 0 0).toNat
    let mode := (body.getD 1 0).toNat
    let period := beNat ((body.drop 4).take 4)
    let subs := s.subStatus i m x id mode (beNat ((body.drop 2).take 2)) period
    let sub : Sub := ⟨BitVec.ofNat 8 mode, period, m.target, m.count.toNat, [], 0, s.raw.toNat⟩
    let fine : Reply := .enber m.session .ok m.target m.count.toNat [] [] true
    let done := fun (t : State) (r : Reply) => (t.executed i seq (some r)).answer r
    let asked := s.commitAsk (rqSlot (.session i)) (some (m.session, seq))
    let writer := s.isReader i = false
    let token := m.op = 2 ∧ enberTok m = true ∧ served
    (m.op = 1 → served → s.readRun i m false = (t, some r) → exec (.enberRead m) s = .next (done t r)) ∧
    (m.op = 3 → served → s.readRun i m true = (t, some r) → exec (.enberReadBlock m) s = .next (done t r)) ∧
    (m.op = 2 → enberTok m = false → served → s.writeStatus i (objKey m.target) (payloadValue m 0) = (t, st) →
      exec (.enberWrite m) s = .next (done t (.enber m.session st m.target 1 [] [] true))) ∧
    (m.op = 4 → served → s.writeMany i m m.count.toNat 0 = (t, st, j) → exec (.enberWriteBlock m) s =
      .next (done t (.enber m.session st (if st = .ok then m.target else keyObj (keyFrom m.target j)) j [] [] true))) ∧
    (m.op = 5 → served → subs = .ok → mode = 0 → exec (.enberSubscribe m) s =
      .next (done { s with session := tput s.session i.val { x with subs := tdel x.subs id } } fine)) ∧
    (m.op = 5 → served → subs = .ok → mode ≠ 0 → exec (.enberSubscribe m) s =
      .next (done ((s.sample i sub).2.sendSub i id sub (s.sample i sub).1) fine)) ∧
    (m.op = 5 → served → subs = st → st ≠ .ok → exec (.enberSubscribe m) s = .next (done s (enberReply m st true))) ∧
    (token → s.isReader i = true → exec (.enberTokenWrite m ver) s = .next (done s (enberReply m .access true))) ∧
    (token → writer → s.warn = true ∨ s.commits ≠ [] → exec (.enberTokenWrite m ver) s = .next (s.answer .stalled)) ∧
    (token → writer → s.warn = false → s.commits = [] → supplyLost ver = false → s.tokenWrite (.session i) body ver = (t, st) →
      exec (.enberTokenWrite m ver) s = .next (done t (enberReply m st true))) ∧
    (token → writer → s.warn = false → s.commits = [] → supplyLost ver = true → s.tokenWrite (.session i) body ver = (t, st) →
      exec (.enberTokenWrite m ver) s = .next (t.answer .stalled)) ∧
    (m.op = 7 → served → writer → s.commits.length < 8 → exec (.enberCommit m) s =
      .next ((asked.executed i seq none).answer .stalled)) ∧
    (m.op = 7 → served → writer → 8 ≤ s.commits.length → exec (.enberCommit m) s = .next (done s (enberReply m .busy true))) ∧
    (m.op = 7 → served → s.isReader i = true → exec (.enberCommit m) s = .next (done s (enberReply m .access true))) ∧
    (mine → tagOk → seq < x.high → x.cache.find? (fun e => e.1 == seq) = some (j, r) → s.enberServe m zero run =
      { s with session := tput s.session i.val { x with lastRaw := s.raw.toNat } }.answer r) ∧
    (mine → tagOk → seq < x.high → x.cache.find? (fun e => e.1 == seq) = none →
      s.enberServe m zero run = (s.sessionCount 15 0).answer .none) ∧
    (mine → ¬ tagOk → s.enberServe m zero run = (s.sessionCount 31 16).answer .none) ∧
    (mine → tagOk → x.high ≤ seq → m.dialect.toNat ≠ x.dialect → s.enberServe m zero run = s.answer (enberReply m .dialect true)) ∧
    (on → m.session = 0 → s.enberServe m zero run = zero s) ∧
    (on → m.session ≠ 0 → s.sessionAt m.session = none → s.enberServe m zero run = s.answer (enberReply m .session false)) ∧
    (s.enberOn = false → s.enberServe m zero run = s) ∧
    (m.op = 1 → on → m.session = 0 → exec (.enberRead m) s = .next (s.readZero m false)) ∧
    (m.op = 2 → enberTok m = false → on → m.session = 0 → exec (.enberWrite m) s = .next (s.answer (enberReply m .access false)))

/-- O47. Enber sessions (R429, R431 to R433, R440, R442): a HELLO opens a handshake, where the part is fused, a place is free and the
dialects meet; an AUTH of a handshake ends it with a session or a refusal; a HELLO with the session's identifier ends it; a session and
a handshake end at their times; a subscription is sampled at its period, or each ms, and a NOTIFY follows in mode 2, and in mode 1
when a value has changed and the least interval has passed. -/
def Obligations.EnberSessions : Prop :=
  ∀ (s : State) (m : EnberMsg) (i : Fin 16) (h : Nat) (x : Session) (hs : Handshake) (hn : Fin 8) (sub : BitVec 6) (b : Sub)
    (role : Role),
    let y := enberBody m
    let on := s.enberOn = true ∧ enberFramed m = true
    let scope := y.getD 4 0
    let formed := enberForm m = true ∧ (y.drop 5).take 3 = [0, 0, 0] ∧ (scope.toNat < 8 ∨ scope = 0xFF)
    let hello := m.op = 9 ∧ on ∧ m.session = 0
    let free := (List.range 8).find? (fun h => (tfind s.handshake h).isNone)
    let win := s.scopeWindow scope.toNat
    let dial := chooseDialect (beNat (y.take 2)) (beNat ((y.drop 2).take 2)) win
    let di := s.drawId
    let de := di.2.drawEph
    let dn := de.2.draw
    let resp := fun (d : Nat) => helloResponse d win dn.1 de.1
    let t1 := fun (d : Nat) => shake 64 (y ++ resp d)
    let auth := m.op = 8 ∧ on ∧ s.handshake.find? (fun e => e.2.id == m.session) = some (h, hs)
    let aform := m.dialect.toNat = hs.dialect ∧ enberForm m = true ∧ ((y.drop 1).take 7 ++ (y.drop 121).take 7).any (· ≠ 0) = false
    let key := (y.drop 64).take 57
    let t2 := shake 64 (hs.t1 ++ y.take 128)
    let check := s.authCheck (y.getD 0 0).toNat hs.scope key t2 (y.drop 128)
    let place := (List.range 16).find? (fun i => (s.sess i).isNone)
    let subbed := s.sess i.val = some x ∧ tfind x.subs sub.toNat = some b
    let time := b.sampleRaw + msTicks (if b.mode = 2 then b.period else 1) ≤ s.raw.toNat
    let vals := (s.sample i b).1
    let b2 := { b with sampleRaw := s.raw.toNat }
    let u := { (s.sample i b).2 with session := tput (s.sample i b).2.session i.val { x with subs := tput x.subs sub.toNat b2 } }
    let tells := b.mode = 2 ∨ (b.sentRaw + msTicks (s.entN Key.odNotifyMin) ≤ s.raw.toNat ∧ vals ≠ b.last)
    (hello → formed → exec (.enberHello m) s = .next (
      if isFused = false then s.answer (enberReply m .auth false)
      else match free, dial with
        | none, _ => s.answer (enberReply m .busy false)
        | some _, none => s.answer (.enber 0 .dialect m.target 0 [] (beBytes 2 win.1 ++ beBytes 2 win.2) false)
        | some h, some d => { dn.2 with handshake := tput dn.2.handshake h ⟨di.1, d, scope, t1 d, de.1, dn.2.raw.toNat⟩ }.answer
            (.enber di.1 .ok m.target 0 [] (resp d ++ idSign (ascii "ENBER-HELLO") (t1 d)) false))) ∧
    (hello → ¬ formed → exec (.enberHello m) s = .next (s.answer (enberReply m .malformed false))) ∧
    (auth → aform → exec (.enberAuth m) s = .next (match check, place with
        | .refused st, _ => ({ s with handshake := tdel s.handshake h }.sessionCount 47 32).answer (enberReply m st false)
        | .accepted _, none => s.answer (enberReply m .full false)
        | .accepted role, some i => (if y.getD 0 0 = 0xFF then s.claim key else s).openSession m h i hs role t2)) ∧
    (auth → m.dialect.toNat ≠ hs.dialect → exec (.enberAuth m) s = .next (s.answer (enberReply m .dialect false))) ∧
    (m.op = 8 → on → s.handshake.find? (fun e => e.2.id == m.session) = none →
      exec (.enberAuth m) s = .next (s.answer (enberReply m .session false))) ∧
    ((s.openSession m h i.val hs role t2).session = tput s.session i.val ⟨s.drawId.1, role, hs.scope, hs.dialect, 0, [], [], 0,
      sessionKeys (x448 hs.eph ((y.drop 8).take 56)) t2, s.raw.toNat⟩ ∧
      (s.openSession m h i.val hs role t2).handshake = tdel s.handshake h) ∧
    (m.op = 9 → on → m.session ≠ 0 → s.sessionAt m.session = some i → s.sess i.val = some x →
      m.tag = enberTag (x.keys.take 32) (enberHeader m ++ y) → x.high ≤ m.seq.toNat → m.dialect.toNat = x.dialect → enberForm m = true →
      exec (.enberHello m) s = .next (((s.endSession i.val).executed i m.seq.toNat (some (enberReply m .ok true))).answer
        (enberReply m .ok true))) ∧
    ((s.endSession i.val).sess i.val = none) ∧
    (s.sess i.val = some x → x.lastRaw + s.entN Key.odSessionIdle * secTicks ≤ s.raw.toNat →
      exec (.sessionIdleTimeout i) s = .next (s.endSession i.val)) ∧
    (s.sess i.val = some x → s.raw.toNat < x.lastRaw + s.entN Key.odSessionIdle * secTicks →
      exec (.sessionIdleTimeout i) s = .next s) ∧
    (tfind s.handshake hn.val = some hs → hs.since + 5 * secTicks ≤ s.raw.toNat →
      exec (.handshakeExpiry hn) s = .next { s with handshake := tdel s.handshake hn.val }) ∧
    (tfind s.handshake hn.val = some hs → s.raw.toNat < hs.since + 5 * secTicks → exec (.handshakeExpiry hn) s = .next s) ∧
    (subbed → ¬ time → exec (.notifySend i sub) s = .next s) ∧
    (subbed → time → tells → exec (.notifySend i sub) s = .next (u.sendSub i sub.toNat b2 vals)) ∧
    (subbed → time → ¬ tells → exec (.notifySend i sub) s = .next u)

/-- O48. Tokens and COMMITs (R190, R435 to R438): a token's check starts once; it waits while a supply warning holds MRAM writes and for the
COMMITs before it; it ends with a status, and bytes that are no token with TOKEN and nothing else changed; GO copies the staging set
into the queue, which holds eight; the first COMMIT of the queue takes effect whole, or fails and leaves its staged values, and
answers no one where the supply is lost. -/
def Obligations.TokensCommits : Prop :=
  ∀ (s u : State) (c : Fin 16) (md : PrivMode) (v : U64) (r : MramResult) (x : Commit) (rest : List Commit) (st : Status),
    let k := c.val * 2 ^ 32 + Key.odTokenCtl
    let n := bf (tget 0 s.bank k) 15 0
    let b := ((List.range 33).flatMap (fun i => leBytes 8 (tget 0 s.bank (c.val * 2 ^ 32 + Key.odTokenBuf i)).toNat)).take n
    let checking := bit (tget 0 s.bank k) 63 = true
    let held := s.warn = true ∨ s.commits ≠ []
    let snap := (s.staging.filter (fun e => e.1 / 2 ^ 32 == c.val)).map (fun e => (e.1 % 2 ^ 32, e.2))
    let t := { s with commits := rest }
    let ran := s.commits = x :: rest ∧ s.warn = false ∧ s.pwrgood = true
    let wrote := t.commitWrite x.snap r 0
    (s.checkWrite (.core c md) Key.odTokenCtl v = .ok → ¬ checking → exec (.tokenCtlWrite c md v) s =
      .next ({ s with bank := tput s.bank k (w64 (2 ^ 63 + bf v 15 0)) }.status .ok)) ∧
    (s.checkWrite (.core c md) Key.odTokenCtl v = .ok → checking → exec (.tokenCtlWrite c md v) s = .next (s.status .busy)) ∧
    (held → exec (.tokenCheckDone c r) s = .next s) ∧
    (checking → ¬ held → supplyLost r = false → s.tokenWrite (.core c .machine) (if n ≤ 264 then b else []) r = (u, st) →
      exec (.tokenCheckDone c r) s = .next { u with bank := tput u.bank k (w64 st.code), reply := s.reply }) ∧
    (checking → ¬ held → supplyLost r = true → s.tokenWrite (.core c .machine) (if n ≤ 264 then b else []) r = (u, st) →
      exec (.tokenCheckDone c r) s = .next u) ∧
    (s.tokGood b = false → s.tokenWrite (.core c .machine) b r = (s, .token)) ∧ (s.tokGood [] = false) ∧
    (s.checkWrite (.core c md) Key.odCommit v = .ok → bit v 63 = true → s.commits.length < 8 → exec (.commitGo c md v) s =
      .next ({ s with commits := s.commits ++ [(⟨c.val, snap, none⟩ : Commit)] }.status .ok)) ∧
    (s.checkWrite (.core c md) Key.odCommit v = .ok → bit v 63 = true → 8 ≤ s.commits.length →
      exec (.commitGo c md v) s = .next (s.status .busy)) ∧
    (s.commits = [] → exec (.commitExecute r) s = .next s) ∧
    (s.warn = true → exec (.commitExecute r) s = .next s) ∧
    (ran → x.snap = [] → exec (.commitExecute r) s = .next (t.commitDone x .ok)) ∧
    (ran → x.snap ≠ [] → t.commitStatus x.snap = .ok → r = .bothGood → exec (.commitExecute r) s =
      .next ((wrote.unstage x).commitDone x .ok)) ∧
    (ran → x.snap ≠ [] → t.commitStatus x.snap = .ok → r = .firstFails ∨ r = .firstOnly → exec (.commitExecute r) s =
      .next (wrote.commitDone x .nvFail)) ∧
    (ran → x.snap ≠ [] → t.commitStatus x.snap = .ok → supplyLost r = true → exec (.commitExecute r) s = .next wrote) ∧
    (ran → x.snap ≠ [] → t.commitStatus x.snap = st → st ≠ .ok → exec (.commitExecute r) s = .next (t.commitDone x st))

/-- O49. Resets, boot and HOLD (R421, R444 to R460, R334, R488, R522, R528): a UNIT or PART reset is requested and in progress until its
release; some units refuse; a purge is awaited; WARM, the pins and a POR start anew, the boot going on where the clocks run; HOLD holds;
self-test fences, leaves memory zero, and ends in LOAD or HOLD; a partition's load ends; READY is set by the running partition alone. -/
def Obligations.ResetsBoot : Prop :=
  ∀ (s : State) (rq : Requester) (u : Fin 1024) (p : Fin 8) (j : ResetJob) (b : BitVec 3) (st : SelfTest) (fl : FlashHealth) (r : Fin 10)
    (x y : Nat),
    let ctl := fun (op : Nat) => s.checkWrite rq (Key.rstPtCtl p.val) (w64 op) = .ok
    let dev := fun (op : Nat) => s.checkWrite rq Key.rstDeviceCtl (w64 op) = .ok
    let uctl := unitKind u.val ≠ 0 ∧ s.checkWrite rq (Key.odCtl u.val) 1 = .ok
    let rel := (s.setEntN (Key.rstPtStat p.val) psReset).queueLoads [p.val]
    let freed := j.parts.foldl (fun (s : State) q => if q.2 then s.setEntN (Key.rstPtStat q.1) psHeld else s.queueLoads [q.1]) s
    let loaded := { s.fwLoad p.val fl with loadQueue := s.loadQueue.drop 1 }.loadNext
    let v := w64 (2 ^ 63)
    let readies := s.checkWrite rq (Key.rstPtStat p.val) v = .ok ∧ s.actsFor rq p.val = true
    let high := { s with resetN := true, bootsel := b, bootRaw := s.raw.toNat }
    let boots := s.pwrgood = true ∧ s.clocksStopped = false ∧ s.thermTrip = false ∧ s.phase = phReset
    let down := (s.deviceReset .por 4 false).setPhase phReset
    let rail := down.ent (Key.pwrRail r.val)
    let dip := down.setEntN (Key.pwrRail r.val) (x % 2 ^ 15 * 2 ^ 48 + min 65535 (bf rail 47 32 + 1) * 2 ^ 32 + min y (2 ^ 32 - 1))
    let again := { dip.record 0x72 [w64 r.val, w64 x, w64 y] with
      warn := false, railLow := [], dips := [], mramWaits := [], thermTrip := false, bootRaw := dip.raw.toNat }
    let fenced := fun u => (selfFences st).contains u
    let packs := 8 - (List.range 8).countP (fun p => fenced (packUnit p))
    let hbms := 4 - (List.range 4).countP (fun n => fenced (1016 + n))
    let cores := 16 - (List.range 16).countP (fun c => fenced (coreUnit c))
    let tiles := 512 - (List.range 512).countP fenced
    let lanes := 128 - (List.range 128).countP (fun l => st.lanes.any (fun x => x.val == l))
    let common := st.rootFail = true ∨ st.l3Fail = true ∨ st.spineFail = true ∨ cores < 2 ∨ hbms = 0 ∨ st.timebaseFail = true
    let policy := fun (pol : U64) => (bit pol 63 = true ∧ (packs < 8 ∨ hbms < 4 ∨ cores < 16)) ∨ packs < bf pol 59 56 ∨
      hbms < bf pol 55 53 ∨ cores < bf pol 52 48 ∨ lanes < bf pol 15 0
    (unitKind u.val = 0 → exec (.odUnitReset rq u) s = .next (s.status .noObject)) ∧
    (uctl → u.val ∈ [1012, 1013, 1014, 1020] → exec (.odUnitReset rq u) s = .next (s.status .range)) ∧
    (uctl → u.val ∉ [1012, 1013, 1014, 1020] →
      exec (.odUnitReset rq u) s = .next ((s.unitReset u.val 0).1.status (if (s.unitReset u.val 0).2 then .busy else .ok))) ∧
    (s.resettable = true → s.resetJob = none → s.unitReset u.val 0 = ({ s.resetSteps .unit (unitScope u.val) [] with
      resetJob := some ⟨.unit, u.val, 0, unitScope u.val, [], [], []⟩ }, false)) ∧
    (s.resettable = false → s.unitReset u.val 0 = (s, true)) ∧
    (ctl 1 → exec (.partReset rq p) s =
      .next ((s.partReset p.val 0 false).1.status (if (s.partReset p.val 0 false).2 then .busy else .ok))) ∧
    (ctl 2 → exec (.partHold rq p) s =
      .next ((s.partReset p.val 0 true).1.status (if (s.partReset p.val 0 true).2 then .busy else .ok))) ∧
    (∀ hold, s.resettable = true → s.resetJob = none →
      s.partReset p.val 0 hold = ({ (s.endTrials [p.val]).resetSteps .part (s.partUnits p.val) [p.val] with
        resetJob := some ⟨.part, p.val, 0, s.partUnits p.val, [(p.val, hold)], [], [p.val]⟩ }, false)) ∧
    (∀ hold, s.resettable = false → s.partReset p.val 0 hold = (s, true)) ∧
    (ctl 3 → s.partState p.val = psHeld → s.resettable = true → s.resetJob = none →
      exec (.partRelease rq p) s = .next ((rel.releaseUnits (rel.partUnits p.val)).status .ok)) ∧
    (ctl 3 → s.partState p.val ≠ psHeld → exec (.partRelease rq p) s = .next (s.status .busy)) ∧
    (s.resetJob = some j → j.kind.rank ≤ 1 → j.purges = [] → exec .resetRelease s = .next ((freed.noteReset j).releaseUnits j.scope)) ∧
    (s.resetJob = some j → j.purges ≠ [] → exec .resetRelease s = .next s) ∧
    (s.resetJob = none → exec .resetRelease s = .next s ∧ exec (.flPartitionPurge p) s = .next s) ∧
    (s.resetJob = some j → j.purges.contains p.val = true → exec (.flPartitionPurge p) s =
      .next { s.purgePart p.val with resetJob := some { j with purges := j.purges.filter (· != p.val) } }) ∧
    (dev 1 → (∀ j, s.resetJob = some j → j.kind.rank < 2) → exec (.warmReset rq) s = .next ((s.warmReset 0).status .ok)) ∧
    (dev 1 → s.resetJob = some j → 2 ≤ j.kind.rank → exec (.warmReset rq) s =
      .next ({ s with resetJob := some { j with named := j.named ++ [resetWord .warm 0 1020 1] } }.status .busy)) ∧
    (dev 2 → s.phase < phPost → exec (.holdCommand rq) s = .next (s.status .busy)) ∧
    (dev 2 → phPost ≤ s.phase → s.dev ≠ .hold → exec (.holdCommand rq) s = .next ((s.enterHold hcCommand).status .ok)) ∧
    (dev 2 → phPost ≤ s.phase → s.dev = .hold → exec (.holdCommand rq) s = .next (s.status .ok)) ∧
    ((s.enterHold hcCommand).dev = .hold ∧ (s.enterHold hcCommand).phase = phHold ∧ (s.enterHold hcCommand).faultN = false ∧
      (s.enterHold hcCommand).fld Key.rstBootStat 59 56 = hcCommand) ∧
    (s.resetN = false → exec .pinReset s = .next s) ∧
    (s.resetN = true → s.pwrgood = false → exec .pinReset s = .next { s with resetN := false }) ∧
    (s.resetN = true → s.pwrgood = true → exec .pinReset s =
      .next { (s.deviceReset .pin 2 false).setPhase phReset with resetN := false }) ∧
    (s.resetN = true → exec (.resetNRelease b) s = .next s) ∧
    (s.resetN = false → boots → exec (.resetNRelease b) s = .next high.bootFromRom) ∧
    (s.resetN = false → ¬ boots → exec (.resetNRelease b) s = .next high) ∧
    (s.pwrgood = true → exec (.por .pwrgood) s = .next { s.porAon 3 with pwrgood := false, faultN := true }) ∧
    ((s.porAon 3).raw = 0 ∧ (s.porAon 3).clocksStopped = true ∧ (s.porAon 3).staged = [] ∧ (s.porAon 3).aonPor = true) ∧
    (s.pwrgood = false → exec (.por .pwrgood) s = .next s ∧ exec (.por (.rail r x y)) s = .next s) ∧
    (s.pwrgood = true → r ≠ 3 → exec (.por (.rail r x y)) s =
      .next (if again.resetN = true ∧ again.clocksStopped = false then again.bootFromRom else again)) ∧
    (s.pwrgood = true → r = 3 → exec (.por (.rail r x y)) s = .next (s.porAon 4)) ∧
    (s.pwrgood = false → exec (.pwrgoodRise b) s =
      .next { s with pwrgood := true, bootsel := b, bootRaw := s.raw.toNat, faultN := false, heartbeat := false }) ∧
    (s.pwrgood = true → exec (.pwrgoodRise b) s = .next s) ∧
    (s.phase ≠ phPost → exec (.selfTestDone st) s = .next s) ∧
    (s.phase = phPost → ∃ t : State, t.mem = s.zeroAll.mem ∧ (∀ q : Fin 1024, unitKind q.val ≠ 0 → (t.un q.val).fenced = fenced q.val) ∧
      t.ent Key.idCapacity = w64 (packs * 2 ^ 56 + hbms * 2 ^ 48 + tiles * 2 ^ 32 + lanes) ∧
      (common → exec (.selfTestDone st) s = .next (t.enterHold hcCommon)) ∧
      (¬ common → policy (t.ent Key.rstBootPolicy) → exec (.selfTestDone st) s = .next (t.enterHold hcPolicy)) ∧
      (¬ common → ¬ policy (t.ent Key.rstBootPolicy) → exec (.selfTestDone st) s = .next t.enterLoad)) ∧
    (s.loadQueue.head? = some p.val → s.partState p.val = psLoading → exec (.fwLoadDone p fl) s =
      .next (if loaded.phase = phLoad ∧ loaded.loadQueue.isEmpty then loaded.enterStart else loaded.checkReady)) ∧
    (s.loadQueue.head? ≠ some p.val → exec (.fwLoadDone p fl) s = .next s) ∧
    (readies → s.partState p.val = psRunning →
      exec (.partitionReady rq p) s = .next (((s.setFlag (Key.rstPtStat p.val) 63 true).checkReady).status .ok)) ∧
    (readies → s.partState p.val ≠ psRunning → exec (.partitionReady rq p) s = .next (s.status .busy))

/-- O50. Power transitions (R468 to R475, R478, R482): a request is refused, starts, or waits in its pending slot; the participant in front
acknowledges, refuses or times out; a pack that acknowledges is gated; a pack idle long enough is gated, one above P3 again is
restored. -/
def Obligations.PowerTransitions : Prop :=
  ∀ (s : State) (rq : Requester) (u : Fin 1024) (v : U64) (p : Fin 8) (n x : Nat) (t : Trans) (rest : List Nat),
    let k := Key.pwrVote p.val
    let target := bf v 2 0
    let tag := bf v 63 48
    let ok := s.checkWrite rq (Key.pwrReq u.val) v = .ok
    let named := (unitKind u.val = 3 ∨ u.val = 1020) ∧ target ≤ 3
    let closed := u.val = 1020 ∧ (s.dev = .hold ∨ (s.thermalDormant = true ∧ s.fld Key.pwrThermStat 49 48 ≠ 0))
    let deaf := u.val = 1020 ∧ target = 2 ∧ (List.range 8).any s.guardPack = false ∧ s.flag Key.pwrWakeSrc 63 = false ∧
      s.flag Key.pwrWakeSrc 47 = false
    let starts := (s.slotOf u.val).cur = none ∧ s.mayStart u.val = true
    let prior := match (s.slotOf u.val).pending with | some (t, g) => s.reqStat u.val t g rqsSuperseded 0 0 | none => s
    let asked := s.flag k 63 = true ∧ s.preparing = some (n, t)
    let may := s.checkWho rq k 1 = .ok
    let mayNot := s.checkWho rq k 2 = .ok
    let pack := packUnit p.val
    let r := tget 0 s.packReq p.val
    let stops := s.preparing = some (n, t) ∧ t.todo = (8 + p.val) :: rest ∧ s.packIdle p.val false = true ∧ s.occ p.val = 0 ∧
      s.isHome p.val = false
    let late := t.since + usTicks (s.entN Key.pwrPrepTimeout) ≤ s.raw.toNat
    let gates := s.packP p.val = 0 ∧ s.packIdle p.val true = true ∧
      ((s.dev = .hush ∧ r = 0 ∧ s.entN Key.pwrHushIdle ≤ 2 * tget 0 s.packIdleFor p.val) ∨ ((s.dev = .run ∨ s.dev = .hush) ∧ r = 1))
    let wakes := s.packP p.val = 3 ∧ r < 3 ∧ (s.dev = .run ∨ s.dev = .hush) ∧ s.mayWake p.val = true
    let woken := (s.packRestore p.val).packTo p.val r
    (ok → ¬ named → exec (.pwrRequest rq u v) s = .next (s.status .range)) ∧
    (ok → named → closed → exec (.pwrRequest rq u v) s = .next (s.status .busy)) ∧
    (ok → named → ¬ closed → deaf → exec (.pwrRequest rq u v) s = .next (s.status .range)) ∧
    (ok → named → ¬ closed → ¬ deaf → starts →
      exec (.pwrRequest rq u v) s = .next (((s.startReq u.val target tag).startPending 9).status .ok)) ∧
    (ok → named → ¬ closed → ¬ deaf → ¬ starts → exec (.pwrRequest rq u v) s =
      .next (((prior.setSlot u.val { prior.slotOf u.val with pending := some (target, tag) }).setEntN (Key.pwrReq u.val)
        (tag * 2 ^ 48 + 2 ^ 47 + target)).status .ok)) ∧
    (may → s.flag k 63 = false → exec (.pwrPartitionAck rq p) s = .next (s.status .busy)) ∧
    (may → asked → t.todo = p.val :: rest → exec (.pwrPartitionAck rq p) s =
      .next ((s.ackFront n { t with todo := rest, asked := p.val :: t.asked }).status .ok)) ∧
    (may → asked → t.todo.head? ≠ some p.val → exec (.pwrPartitionAck rq p) s = .next (s.status .ok)) ∧
    (mayNot → asked → exec (.pwrPartitionRefuse rq p) s = .next ((s.refusePwr n p.val 1).status .ok)) ∧
    (mayNot → s.flag k 63 = false → exec (.pwrPartitionRefuse rq p) s = .next (s.status .busy)) ∧
    (stops → exec (.pwrPackAck p) s = .next ((if s.packP p.val = 0 then s.gatePack p.val else s).ackFront n
      { t with todo := rest, done := p.val :: t.done, prev := tput t.prev p.val (s.packP p.val) })) ∧
    (s.preparing = none → exec (.pwrPackAck p) s = .next s ∧ exec .pwrPrepTimeout s = .next s) ∧
    (s.preparing = some (n, t) → t.todo = x :: rest → late → exec .pwrPrepTimeout s = .next (s.refusePwr n x 2)) ∧
    (s.preparing = some (n, t) → t.todo = x :: rest → ¬ late → exec .pwrPrepTimeout s = .next s) ∧
    (gates → exec (.hushIdleGate p) s = .next (s.gatePack p.val)) ∧ (¬ gates → exec (.hushIdleGate p) s = .next s) ∧
    ((s.gatePack p.val).packP p.val = 1) ∧
    (wakes → (woken.slotOf pack).cur = none → exec (.packP3Wake p) s = .next woken) ∧
    (wakes → (woken.slotOf pack).cur = some t → t.phase = .commit → exec (.packP3Wake p) s =
      .next (((woken.setSlot pack { woken.slotOf pack with cur := none }).reqStat pack t.target t.tag rqsOk 0 0).afterTrans)) ∧
    (¬ wakes → exec (.packP3Wake p) s = .next s)

/-- O51. GUARD, wakes, residency, supplies and temperature (R479, R480, R483 to R487, R489 to R491): the guard cycle, the wake sources, the
hour's commit, warnings and recoveries, emergencies, thermal levels and the trip; what has not come due does nothing. -/
def Obligations.PowerEvents : Prop :=
  ∀ (s : State) (g : Fin 64) (up : Bool) (r : Fin 10) (mv us : Nat) (sn : Fin 16) (temp : BitVec 16),
    let lead := nsT (1000 * s.fld Key.pwrGuardCfg 31 16)
    let listen := nsT (1000000 * s.fld Key.pwrGuardCfg 47 32)
    let leads := s.dev = .guard ∧ s.guardLead = false ∧ s.guardAt ≤ s.now + lead
    let ends := s.dev = .guard ∧ s.guardLead = true ∧ s.guardAt + listen ≤ s.now
    let src := s.ent Key.pwrWakeSrc
    let edge := s.wakeable = true ∧ bit src 63 = true ∧ bf src 53 48 = g.val ∧ (if up then bit src 61 else bit src 62) = true
    let slept := s.wakeable = true ∧ s.flag Key.pwrWakeSrc 47 = true ∧ s.sleepRaw + s.fld Key.pwrWakeSrc 31 0 * secTicks ≤ s.raw.toNat
    let t := { s with padIn := tput s.padIn g.val up }
    let secs := fun (q : Nat × Nat) => (s.entN (Key.pwrRes q.1 q.2) - tget 0 s.resTold (q.1 * 8 + q.2)) / 1000000
    let told := resPlaces.foldl (fun t q => if secs q = 0 then t else
      tput t (q.1 * 8 + q.2) (tget 0 t (q.1 * 8 + q.2) + 1000000 * secs q)) s.resTold
    let hour := s.warn = false ∧ s.hourTold < s.hourNow
    let falls := s.pwrgood = true ∧ mv < warnMv r.val ∧ r.val ∉ s.railLow
    let back := { s with railLow := s.railLow.filter (· != r.val), dips := s.dips ++ [(r.val, mv, us)] }
    let long := s.warn = true ∧ s.dev ≠ .hold ∧ s.entN Key.pwrWarnHold * 12288 ≤ 25 * (s.raw.toNat - s.warnSince)
    let lv := s.thermLevel
    let noted := s.noteTemp sn.val temp
    let hot := lv = 0 ∧ s.thermAt 1 ≤ temp.toInt ∧ s.phase ≠ phReset
    let crit := lv < 2 ∧ s.thermAt 2 ≤ temp.toInt ∧ s.phase ≠ phReset
    let cools := lv ≠ 0 ∧ temp.toInt ≤ s.thermAt lv - 80
    (leads → exec .guardLead s = .next { s with guardLead := true }) ∧ (¬ leads → exec .guardLead s = .next s) ∧
    (ends → exec .guardListenEnd s = .next { ((List.finRange 8).foldl State.listenEnd s).incWrap Key.pwrGuardStat 63 32 1 with
      guardLead := false, guardAt := s.guardAt + nsT (1000000 * s.fld Key.pwrGuardCfg 63 48) }) ∧
    (¬ ends → exec .guardListenEnd s = .next s) ∧
    (edge → exec (.wakeGpioEdge g up) s = .next (t.wakeDev t.wakeTo 2 0)) ∧ (¬ edge → exec (.wakeGpioEdge g up) s = .next t) ∧
    (slept → exec .wakeTimer s = .next (s.wakeDev s.wakeTo 3 0)) ∧ (¬ slept → exec .wakeTimer s = .next s) ∧
    (hour → exec .residencyHourCommit s = .next { s.ownCommit (resPlaces.map (fun q => (Key.pwrHours q.1 q.2,
      w64 (satAdd 32 (s.entN (Key.pwrHours q.1 q.2)) (secs q))))) with resTold := told, hourTold := s.hourNow }) ∧
    (¬ hour → exec .residencyHourCommit s = .next s) ∧
    (falls → exec (.supplyWarn r mv) s = .next (({ s with
      railLow := r.val :: s.railLow, dips := s.dips.filter (fun d => d.1 != r.val)
      warn := true, warnSince := if s.warn then s.warnSince else s.raw.toNat }.setSticky Key.pwrWarnStat 32).powerIrq)) ∧
    (¬ falls → exec (.supplyWarn r mv) s = .next s) ∧
    (r.val ∈ s.railLow → back.railLow ≠ [] → exec (.supplyRecover r mv us) s = .next back) ∧
    (r.val ∈ s.railLow → back.railLow = [] → exec (.supplyRecover r mv us) s =
      .next { back.dips.foldl State.noteDip { back with warn := false } with dips := [] }.mramDrain) ∧
    (r.val ∉ s.railLow → exec (.supplyRecover r mv us) s = .next s) ∧
    (long → exec .warnHoldExpiry s = .next (s.raise .supply)) ∧ (¬ long → exec .warnHoldExpiry s = .next s) ∧
    (s.emergencies = [] → s.inTransition = false →
      s.raise .supply = ({ s with emergencies := [] }.emergency).enterHold hcSupply ∧
      s.raise .thermal = ({ s with emergencies := [] }.emergency).thermalDown) ∧
    (hot → exec (.thermalThrottle sn temp) s = .next (noted.thermTo 1 sn.val temp)) ∧
    (¬ hot → exec (.thermalThrottle sn temp) s = .next s) ∧
    (crit → lv = 1 → exec (.thermalCrit sn temp) s = .next ((noted.thermTo 2 sn.val temp).raise .thermal)) ∧
    (crit → lv = 0 → exec (.thermalCrit sn temp) s = .next (((noted.thermTo 1 sn.val temp).thermTo 2 sn.val temp).raise .thermal)) ∧
    (¬ crit → exec (.thermalCrit sn temp) s = .next s) ∧
    (cools → exec (.thermalLevelFall sn temp) s =
      .next (noted.setFld Key.pwrThermStat 49 48 (if lv = 2 ∧ s.thermAt 1 - 80 < temp.toInt then 1 else 0))) ∧
    (¬ cools → exec (.thermalLevelFall sn temp) s = .next s) ∧
    (s.pwrgood = true → exec .thermalTrip s = .next { s with thermTrip := true }) ∧
    (s.pwrgood = false → exec .thermalTrip s = .next s)

/-- O52. Sheepdog (R421, R492 to R505): an expiry answers the requester, or has its read issued once more, and charges the target; a task
too long is ended; a slot past its deadline ends its tasks and is counted; L3 and L4; a pet and a device check restart their timers;
a ladder starts anew after WINDOW; an ABORT untaken quarantines; quarantine, release and return. -/
def Obligations.SheepdogActions : Prop :=
  ∀ (s : State) (rq : Requester) (c : Fin 16) (a : Addr) (p : Fin 8) (e : BitVec 15) (cr : Fin 384) (q : BitVec 32) (l : Fin 5)
    (x : ChargedUnit) (u : Fin 1024) (ch : Fin 272) (xr : Xfer) (tile : Fin 512) (la : BitVec 32) (d : Nat) (k : Fin 17) (wr : Bool)
    (sig : U64 × U64),
    let at_ := fun (s : State) (a action : Nat) => s.chargeUnit 0 (s.l0Unit a) action a
    let i := e.toNat
    let t := s.entry p.val i
    let ended := match unitKind t.unit with
      | 1 => (((s.endTask p.val i ksAborted).untask t.unit).setAbort t.unit).abortFrom t.unit
      | 5 => (s.endTask p.val i ksAborted).abortFrom t.unit
      | 4 => if h : (t.unit - 584) / 32 < 8 ∧ (t.unit - 584) % 32 < 17 then s.abortJob ⟨_, h.1⟩ ⟨_, h.2⟩ else s.endTask p.val i ksAborted
      | _ => s.endTask p.val i ksAborted
    let segs := (tfind s.segment p.val).any (fun g => g.kind == 0 && g.entry == i && g.unit == t.unit)
    let cut := { ended with segment := tdel ended.segment p.val }
    let q1 := s.disarmL2 cr.val q.toNat
    let es := q1.kennel.flatMap (fun k => (k.2.used.filter (fun e => match e.2.plan with
      | some (c', q', _) => c' == cr.val && q' == q.toNat | none => false)).map (fun e => (k.1, e.1)))
    let q2 := es.foldl (fun (s : State) e => s.endTask e.1 e.2 ksAborted) q1
    let missed := s.l2.any (fun e => e.1 == cr.val && e.2.1 == q.toNat && decide (e.2.2 + s.l2Limit cr.val ≤ s.now)) = true
    let starves := s.partState p.val = psRunning ∧ tget 0 s.petRaw p.val + s.l3Limit p.val ≤ s.raw.toNat
    let l3 := s.charge 3 (.part p) saAbort 0
    let dead := s.phase = phReady ∧ s.l4Last + usTicks (s.entN Key.shdL4Limit) ≤ s.raw.toNat
    let twice := decide (s.shdLastAt 4 (.unit 1020) ≠ 0) && !(s.windowPassed 4 (.unit 1020))
    let pends := (u.val < 512 ∧ (s.tl u.val).ipend.toNat % 2 = 1 ∧ (s.tl u.val).st ≠ .reset) ∨
      (unitKind u.val = 5 ∧ s.coreRuns (u.val - 840) = true)
    let un := s.un u.val
    let untaken := pends ∧ s.abortUntaken u.val = true ∧ un.quar = false ∧ s.mayQuarantine u.val = true
    let step := (s.ladder 1 (.unit u)).1
    let count := (s.ladder 1 (.unit u)).2
    let stuck := (s.setLadder 1 (.unit u) (max step 1) count).record 0x81 [1, w64 u.val, 2, w64 count, w64 (max step 1)]
    let checks := s.phase = phReady ∧ s.checkRaw + 245760 ≤ s.raw.toNat
    let ctl := fun (op : Nat) => unitKind u.val ≠ 0 ∧ s.checkWrite rq (Key.odCtl u.val) (w64 op) = .ok
    let n := s.entN Key.shdReturn
    let due := un.quar = true ∧ un.autoReturn = true ∧ un.retest = false ∧ n ≠ 0 ∧ un.quarSince + n * secTicks ≤ s.raw.toNat
    let tested := un.quar = true ∧ un.retest = true ∧ s.segsDone u.val = true
    (s.coreRuns c.val = true → exec (.shdL0Expiry (.core c a)) s = .next (at_ (s.answer .fault) a.toNat saAbort)) ∧
    (s.coreRuns c.val = false → exec (.shdL0Expiry (.core c a)) s = .next s) ∧
    ((s.ch ch.val).reads.find? s.l0Expired = some xr → xr.again = false → exec (.shdL0Expiry (.dmaRead ch)) s =
      .next (at_ (s.dmaReissue ch xr) xr.addr saRetry)) ∧
    ((s.ch ch.val).reads.find? s.l0Expired = some xr → xr.again = true → exec (.shdL0Expiry (.dmaRead ch)) s =
      .next (at_ (s.dmaReadDone ch xr .timeout []) xr.addr saAbort)) ∧
    ((s.ch ch.val).writes.find? s.l0Expired = some xr → exec (.shdL0Expiry (.dmaWrite ch)) s =
      .next (at_ (s.dmaWriteDone ch xr .timeout) xr.addr saAbort)) ∧
    (tileDev tile.val la.toNat 1 = some d → (s.tl tile.val).st = .running →
      exec (.shdL0Expiry (.tileStore tile la)) s = .next (at_ s d saAbort) ∧
      exec (.shdL0Expiry (.tileLoad tile la)) s = .next (at_ (s.setTl tile.val ((s.tl tile.val).notePoison (some la.toNat))) d saAbort)) ∧
    ((s.taskOn (accUnit p.val k.val)).isSome = true → exec (.shdL0Expiry (.accel p k a wr)) s =
      .next (at_ (s.failJob p k (if wr then jsWrite else jsRead)) a.toNat saAbort)) ∧
    (s.l1Expired p.val i = true → segs = false →
      exec (.shdL1Expiry p e) s = .next (ended.chargeUnit 1 t.unit saAbort t.desc.tag)) ∧
    (s.l1Expired p.val i = true → segs = true → exec (.shdL1Expiry p e) s = .next ((if (cut.un t.unit).retest
      then cut.retestFailed t.unit (w64 (2 ^ 48)) 0 else cut.terFail t.unit (w64 (2 ^ 48)) 0 (cut.flag Key.terCfg 59)).chargeUnit 1
        t.unit saAbort t.desc.tag)) ∧
    (s.l1Expired p.val i = false → exec (.shdL1Expiry p e) s = .next s) ∧
    (missed → exec (.shdL2Expiry cr q) s = .next (((q2.incSat (Key.shdL2Stat cr.val) 63 32 1).setFld (Key.shdL2Stat cr.val) 31 16
      (min 65535 es.length)).charge 2 (.carrier cr) saAbort q.toNat)) ∧
    (¬ missed → exec (.shdL2Expiry cr q) s = .next s) ∧
    (starves → exec (.shdL3Expiry p) s = .next (if l3.partState p.val = psRunning
      then { l3 with petRaw := tput (tput l3.petRaw p.val l3.raw.toNat) (8 + p.val) 1 } else l3)) ∧
    (¬ starves → exec (.shdL3Expiry p) s = .next s) ∧
    (dead → exec .shdL4Expiry s =
      .next ({ s.setLadder 4 (.unit 1020) 0 0 with postNext := twice }.charge 4 (.unit 1020) saCounted 0)) ∧
    (¬ dead → exec .shdL4Expiry s = .next s) ∧
    (s.windowPassed l.val x = true → exec (.shdWindowReset l x) s = .next (s.setLadder l.val x 0 0)) ∧
    (s.windowPassed l.val x = false → exec (.shdWindowReset l x) s = .next s) ∧
    (untaken → exec (.shdAbortUntaken u) s =
      .next ((stuck.setUn u.val { stuck.un u.val with abortRaw := none }).sheepIrq.quarantine u.val 3 true)) ∧
    (¬ untaken → exec (.shdAbortUntaken u) s = .next s) ∧
    (s.checkWrite rq (Key.shdPet p.val) 1 = .ok → exec (.shdPet rq p) s = .next ((if s.partState p.val = psRunning
      then { s with petRaw := tput (tput s.petRaw p.val s.raw.toNat) (8 + p.val) 1 } else s).status .ok)) ∧
    (checks → exec (.deviceCheck true) s =
      .next { s with checkRaw := s.raw.toNat, l4Last := s.raw.toNat, heartbeat := !s.heartbeat }) ∧
    (checks → exec (.deviceCheck false) s = .next { s with checkRaw := s.raw.toNat }) ∧
    (¬ checks → exec (.deviceCheck wr) s = .next s) ∧
    (ctl 3 → s.mayQuarantine u.val = true → exec (.odQuarantine rq u) s = .next ((s.quarantine u.val 0 false).status .ok)) ∧
    (ctl 3 → s.mayQuarantine u.val = false → exec (.odQuarantine rq u) s = .next (s.status .range)) ∧
    (ctl 2 → un.quar = true → un.retest = false → exec (.odRelease rq u) s = .next ((s.releaseQuar u.val).status .ok)) ∧
    (ctl 2 → un.quar = false → exec (.odRelease rq u) s = .next (s.status .busy)) ∧
    (due → exec (.shdAutoReturn u) s = .next ((s.setUn u.val { un with autoReturn := false }).releaseQuar u.val)) ∧
    (¬ due → exec (.shdAutoReturn u) s = .next s) ∧
    (tested → un.retestFail = none → exec (.retestDone u) s = .next (s.returnUnit u.val 0)) ∧
    (tested → un.retestFail = some sig → ∃ w : State, exec (.retestDone u) s = .next w ∧ (w.un u.val).retest = false ∧
      (w.un u.val).quar = true ∧ w.retests.contains u.val = false ∧ w.mem = s.mem) ∧
    (¬ tested → exec (.retestDone u) s = .next s)

/-- O53. Terrier and the event recorder (R190, R504, R506 to R509, R510, R512, R513, R515 to R517, R579): a segment placed at the
head, or the next of the order in its turn, starts where its group may; a segment under way holds the next one; a signature that
matches passes and another fails; a memory step tests one block; a run places the unit's segments at the head; a staged record is
written in order unless a warning, the supply or a power-on reset holds it; a cursor, a software record and the hourly commit. -/
def Obligations.TerrierRecorder : Prop :=
  ∀ (s : State) (rq : Requester) (p : Fin 8) (g : Fin 9) (u : Fin 1024) (i n e : Nat) (sg : Option U64) (sig v : U64) (r : Rec) (l : List Nat)
    (rest : List Rec) (bad : Option (BitVec 9)) (again : Fin 4) (lost : Option (Fin 8)),
    let gap := (tfind s.walkRaw (32 + g.val)).elim true (fun r => decide (s.fld Key.terCfg 47 32 * 12288 ≤ 25 * (s.raw.toNat - r)))
    let sched := gap = true ∧ s.terRuns = true
    let idle := tfind s.segment g.val = none ∧ s.flag Key.terCfg 63 = true
    let head := tget [] s.segHead g.val
    let at_ := tget 0 s.segNext g.val
    let ahead := s.nextSeg g.val (segCount g.val - at_) at_
    let first := s.retested (segAt g.val i).unit = true ∨ sched
    let taken : State := { s with segHead := tput s.segHead g.val l }
    let x := segAt g.val i
    let a := x.addr + 64 * n
    let tests := tfind s.segment g.val = some ⟨1, i, sg, n⟩ ∧ (s.terRuns = true ∨ s.retested x.unit = true)
    let clear : State := if x.cls ≤ 3 then s.flushOver 19 a 64 else s
    let stepped := fun (w : State) => if n + 1 < 64 then { w with segment := tput w.segment g.val ⟨skMem, i, sg, n + 1⟩ }
      else if sg.isSome then { w with segment := tdel w.segment g.val } else w.segEnd g.val x.unit none 0 false
    let runs := s.checkWrite rq (Key.terRun u.val) 1 = .ok
    let len := recSize r.payload.length
    let may := s.staged = r :: rest ∧ s.warn = false ∧ s.pwrgood = true ∧ s.aonPor = false
    let b := if s.ringOff = 0 then s.beginBlock s.ringBlock
      else if 4096 < s.ringOff + len then s.beginBlock ((s.ringBlock + 1) % 4096) else s
    (¬ idle → exec (.terrierSegmentStart g) s = .next s) ∧
    (idle → head = i :: l → ¬ first → exec (.terrierSegmentStart g) s = .next s) ∧
    (idle → head = i :: l → first → taken.segMay g.val x = true → exec (.terrierSegmentStart g) s = .next (taken.segStart g.val i)) ∧
    (idle → head = i :: l → first → taken.segMay g.val x = false → exec (.terrierSegmentStart g) s = .next taken) ∧
    (idle → head = [] → ¬ sched → exec (.terrierSegmentStart g) s = .next s) ∧
    (idle → head = [] → sched → exec (.terrierSegmentStart g) s = .next (match ahead, s.nextSeg g.val at_ 0 with
      | some i, _ => (s.segStart g.val i).segMoved g.val i false
      | none, some i => (s.segStart g.val i).segMoved g.val i true
      | none, none => s)) ∧
    (tfind s.segment p.val = some ⟨0, u.val, some sig, e⟩ → exec (.terrierSignatureCheck p) s = .next (
      let w : State := { s with segment := tdel s.segment p.val }
      if sig = Config.terrierSig then w.incWrap (Key.terUStat u.val) 63 32 1
      else if (s.un u.val).retest = true then w.retestFailed u.val 0 sig else w.terFail u.val 0 sig (s.flag Key.terCfg 59))) ∧
    (tfind s.segment p.val = none ∨ tfind s.segment p.val = some ⟨1, i, some sig, e⟩ ∨ tfind s.segment p.val = some ⟨0, i, none, e⟩ →
      exec (.terrierSignatureCheck p) s = .next s) ∧
    (tests → exec (.terrierMemStep g none again none) s = .next (stepped clear)) ∧
    (tests → ∀ (d : BitVec 9) (t : State), clear.memFinding x.unit x.cls (a + d.toNat / 64 * 8) (d.toNat % 64) again.val = (t, false) →
      exec (.terrierMemStep g (some d) again none) s = .next (stepped t)) ∧
    (tests → n + 1 < 64 → ∀ (d : BitVec 9) (t : State),
      clear.memFinding x.unit x.cls (a + d.toNat / 64 * 8) (d.toNat % 64) again.val = (t, true) →
      exec (.terrierMemStep g (some d) again none) s = .next { t with segment := tput t.segment g.val ⟨skMem, i, some 0, n + 1⟩ }) ∧
    (tests → 64 ≤ n + 1 → ∀ (d : BitVec 9) (t : State),
      clear.memFinding x.unit x.cls (a + d.toNat / 64 * 8) (d.toNat % 64) again.val = (t, true) →
      exec (.terrierMemStep g (some d) again none) s = .next { t with segment := tdel t.segment g.val }) ∧
    (tests → ∀ w : Fin 8, exec (.terrierMemStep g none again (some w)) s =
      .next (stepped (if x.cls ≤ 3 ∧ clear.poisoned (a + 8 * w.val) = true then clear else clear.terLost x.cls x.unit (a + 8 * w.val)))) ∧
    (tfind s.segment g.val = none → exec (.terrierMemStep g bad again lost) s = .next s) ∧
    (tfind s.segment g.val = some ⟨1, i, sg, n⟩ → s.terRuns = false → s.retested x.unit = false →
      exec (.terrierMemStep g bad again lost) s = .next s) ∧
    (runs → hasSegments u.val = true → exec (.terrierRun rq u) s = .next ((s.terRunUnit u.val).status .ok)) ∧
    (runs → hasSegments u.val = false → exec (.terrierRun rq u) s = .next (s.status .range)) ∧
    (s.staged = [] → exec .evrMramWrite s = .next s) ∧
    (s.warn = true ∨ s.pwrgood = false ∨ s.aonPor = true → exec .evrMramWrite s = .next s) ∧
    (may → exec .evrMramWrite s = .next { b.store (ringBase + b.ringBlock * 4096 + b.ringOff) (recBytes r) with
      staged := rest
      ring := b.ring ++ [⟨r.seq, b.ringBlock, b.ringOff, len, false⟩]
      ringBlock := if b.ringOff + len = 4096 then (b.ringBlock + 1) % 4096 else b.ringBlock
      ringOff := (b.ringOff + len) % 4096 }) ∧
    (s.checkWrite rq Key.evrCursor v = .ok → exec (.evrCursorWrite rq v) s = .next ((s.evrCursor rq v).status .ok)) ∧
    (s.checkWrite rq Key.evrUserCtl v = .ok → exec (.evrUserCtl rq v) s = .next ((s.evrUser rq v).status .ok)) ∧
    (s.phase ≠ phReset → s.opsecHour < s.hourNow → exec .opsecCommit s = .next { s.commitOpsec with opsecHour := s.hourNow }) ∧
    (s.phase = phReset ∨ s.hourNow ≤ s.opsecHour → exec .opsecCommit s = .next s)

/-- O54. Firmware, flash and attestation (R521, R525 to R527, R529, R532): a carrier's owner changes while its slot plan is off; a trial
is set, confirmed or abandoned in a commit; a trial too long rolls back; the flash takes one operation at a time, in its range and
outside protected images, and an operation that ends has its effect; a report is asked once and is signed. -/
def Obligations.FirmwareFlash : Prop :=
  ∀ (s : State) (rq : Requester) (c : Fin 384) (ow : Byte) (p : Fin 8) (v : U64) (o : FlashOp) (n : Nat) (ok : Bool),
    let k := Key.prtCarriers (c.val / 8)
    let w := setf (s.ent k) (8 * (c.val % 8) + 7) (8 * (c.val % 8)) ow.toNat
    let own := s.checkWrite rq k w = .ok
    let cfg := s.ent (Key.fwCfg p.val)
    let active := b01 (bit cfg 63)
    let trial := tfind s.trialStart p.val
    let ctl := fun (op : Nat) => s.checkWrite rq (Key.fwCtl p.val) (w64 op) = .ok
    let ends : State := { s with trialStart := tdel s.trialStart p.val }
    let fv := fun (op : Nat) => setf v 63 62 op
    let may := fun (op : Nat) => s.checkWrite rq Key.fwFlashCtl (fv op) = .ok ∧ s.flashMay rq = true
    let free := fun (op : Nat) => may op ∧ s.flashOp = none
    let span := fun (op : Nat) => flashSpan (fv op)
    let fk := slotKey rq Key.fwFlashCtl
    let started := fun (op : Nat) => ({ s with
      flashOp := some ⟨rqSlot rq, bf (fv op) 63 62, (span op).2, (span op).1, s.flashWho rq⟩
      bank := tput s.bank fk (w64 (2 ^ 63)) } : State).status .ok
    let said := fun (st : Nat) => ({ s with bank := tput s.bank fk (w64 st) } : State).status .ok
    let outside := fun (op : Nat) (t : State) => if Config.flashSize < (span op).1 + (span op).2 then said fsRange else t
    let ak := slotKey rq Key.secAttestCtl
    let asks := s.checkWrite rq Key.secAttestCtl v = .ok
    let body := s.attestBody (s.bankOcts (rqSlot rq) Key.secAttestNonce 32)
    let told := s.setBankOcts (rqSlot rq) Key.secAttestReport (body ++ idSign (ascii "BT9-ATTEST") body)
    (own → exec (.carrierOwnerWrite rq c ow) s = .next (s.carriersWrite rq (c.val / 8) w)) ∧
    (s.isAdmin rq = true → (∀ i < 8, ownByte w i = 255 ∨ ownByte w i < 8) →
      (∀ i < 8, ownByte (s.ent k) i ≠ ownByte w i → s.flag (Key.knPlanCfg (8 * (c.val / 8) + i)) 63 = false) →
      s.carriersWrite rq (c.val / 8) w = (s.setEnt k w).status .ok) ∧
    (s.isAdmin rq = true → (∀ i < 8, ownByte w i = 255 ∨ ownByte w i < 8) →
      (∃ i < 8, ownByte (s.ent k) i ≠ ownByte w i ∧ s.flag (Key.knPlanCfg (8 * (c.val / 8) + i)) 63 = true) →
      s.carriersWrite rq (c.val / 8) w = s.status .busy) ∧
    (ctl 1 → bit cfg 62 = false → s.fwSlotAt p.val (1 - active) ≠ 0 →
      exec (.fwTrial rq p) s = .next ((s.ownCommit [(Key.fwCfg p.val, setBit cfg 62 true)]).status .ok)) ∧
    (ctl 1 → bit cfg 62 = false → s.fwSlotAt p.val (1 - active) = 0 → exec (.fwTrial rq p) s = .next (s.status .range)) ∧
    (ctl 1 → bit cfg 62 = true → exec (.fwTrial rq p) s = .next (s.status .busy)) ∧
    (ctl 2 → bit cfg 62 = true → trial = some n → s.flag (Key.rstPtStat p.val) 63 = true → exec (.fwConfirm rq p) s =
      .next ((ends.ownCommit [(Key.fwCfg p.val, setBit (setBit cfg 62 false) 63 (active == 0))]).status .ok)) ∧
    (ctl 2 → bit cfg 62 = false ∨ trial = none ∨ s.flag (Key.rstPtStat p.val) 63 = false →
      exec (.fwConfirm rq p) s = .next (s.status .busy)) ∧
    (ctl 3 → bit cfg 62 = true →
      exec (.fwAbandon rq p) s = .next ((ends.ownCommit [(Key.fwCfg p.val, setBit cfg 62 false)]).status .ok)) ∧
    (ctl 3 → bit cfg 62 = false → exec (.fwAbandon rq p) s = .next (s.status .ok)) ∧
    (trial = some n → s.entN Key.fwTrialLimit * 491520000 ≤ s.raw.toNat - n →
      exec (.fwTrialLimit p) s = .next ((s.rollback p.val 1).partReset p.val 5 false).1) ∧
    (trial = some n → s.raw.toNat - n < s.entN Key.fwTrialLimit * 491520000 → exec (.fwTrialLimit p) s = .next s) ∧
    (trial = none → exec (.fwTrialLimit p) s = .next s) ∧
    (free 1 → exec (.flashErase rq v) s = .next (outside 1 (if s.flashProtected (span 1).1 (span 1).2 = true then said fsProtected else started 1))) ∧
    (free 2 → exec (.flashProgram rq v) s = .next (outside 2 (if s.flashProtected (span 2).1 (span 2).2 = true then said fsProtected else started 2))) ∧
    (free 3 → exec (.flashRead rq v) s = .next (outside 3 (started 3))) ∧
    (may 1 → s.flashOp = some o → exec (.flashErase rq v) s = .next (s.status .busy)) ∧
    (s.checkWrite rq Key.fwFlashCtl (fv 2) = .ok → s.flashMay rq = false → exec (.flashProgram rq v) s = .next (s.status .access)) ∧
    (s.flashOp = none → exec (.flashOpDone ok) s = .next s) ∧
    (s.flashOp = some o → o.op = 1 → ∃ z : State, exec (.flashOpDone true) s = .next z ∧ z.flashOp = none ∧
      z.flash = putFlash s.flash o.addr (List.replicate o.len 0xFF) ∧ z.mem = s.mem) ∧
    (s.flashOp = some o → o.op = 2 → ∃ z : State, exec (.flashOpDone true) s = .next z ∧ z.flashOp = none ∧ z.flash = putFlash s.flash o.addr
      (((s.flashBytes o.addr o.len).zip (s.bankOcts o.slot Key.fwFlashBuf o.len)).map (fun q => q.1 &&& q.2)) ∧ z.mem = s.mem ∧ z.od = s.od) ∧
    (s.flashOp = some o → o.op = 3 → s.stillWho o.slot o.who = true → ∃ z : State, exec (.flashOpDone true) s = .next z ∧ z.flashOp = none ∧
      z.flash = s.flash ∧ z.mem = s.mem ∧ z.bank = tput (s.setBankOcts o.slot Key.fwFlashBuf (s.flashBytes o.addr o.len)).bank
        (o.slot * 2 ^ 32 + Key.fwFlashCtl) (w64 fsDone)) ∧
    (s.flashOp = some o → ∃ z : State, exec (.flashOpDone false) s = .next z ∧ z.flashOp = none ∧ z.mem = s.mem ∧ z.od = s.od ∧
      (s.stillWho o.slot o.who = true → tget 0 z.bank (o.slot * 2 ^ 32 + Key.fwFlashCtl) = w64 fsError)) ∧
    (asks → bit v 0 = true → bit (tget 0 s.bank ak) 63 = false →
      exec (.attestGo rq v) s = .next ({ s with bank := tput s.bank ak (w64 (2 ^ 63)) }.status .ok)) ∧
    (asks → bit v 0 = true → bit (tget 0 s.bank ak) 63 = true → exec (.attestGo rq v) s = .next (s.status .busy)) ∧
    (asks → bit v 0 = false → exec (.attestGo rq v) s = .next (s.status .ok)) ∧
    (bit (tget 0 s.bank ak) 63 = true → exec (.attestDone rq) s = .next { told with bank := tput told.bank ak 898 }) ∧
    (bit (tget 0 s.bank ak) 63 = false → exec (.attestDone rq) s = .next s)

/-- O55. Handover (R536 to R541): PAIR, ARM, CANCEL and CLEAR move a channel between its states or are refused; the check before T, made
once, cancels or passes; at T an armed channel is cut and drains; the drain ends when no slot instance of before T is pending. -/
def Obligations.Handovers : Prop :=
  ∀ (s : State) (rq : Requester) (n : Fin 16),
    let ok := fun (op : Nat) => s.checkWrite rq (Key.hoOp n.val) (w64 op) = .ok
    let st := s.hoState n.val
    let T := tget 0 s.hoT n.val
    let src := s.actsFor rq (s.hoSrc n.val)
    let acts := s.hoActs rq n.val
    let swaps := ∃ t, planOf (s.hoCarrier n.val) = some t ∧ s.liveState t ≠ lsIdle
    let runs := s.partState (s.hoSrc n.val) = psRunning ∧ s.partState (s.hoDst n.val) = psRunning
    let due := st = hsArmed ∧ n.val ∉ s.hoChecked ∧ T ≤ s.now + nsT 1000000
    let w := (List.range 16).foldl State.hoPrecheck s
    let cuts := w.hoState n.val = hsArmed ∧ tget 0 w.hoT n.val ≤ w.now
    (ok 1 → src = true → st = hsIdle → s.hoPairOk n.val = true → ¬ swaps → exec (.hoPair rq n) s =
      .next (((s.setFld (Key.hoOp n.val) 47 32 (s.exportDialect n.val)).setHo n.val hsPaired 0).status .ok)) ∧
    (ok 1 → src = false → exec (.hoPair rq n) s = .next (s.status .access)) ∧
    (ok 1 → src = true → st ≠ hsIdle → exec (.hoPair rq n) s = .next (s.status .busy)) ∧
    (ok 1 → src = true → st = hsIdle → s.hoPairOk n.val = false → exec (.hoPair rq n) s = .next (s.status .range)) ∧
    (ok 1 → src = true → st = hsIdle → s.hoPairOk n.val = true → swaps → exec (.hoPair rq n) s = .next (s.status .busy)) ∧
    (ok 2 → acts = true → st = hsPaired → s.now + nsT 20000000 ≤ s.hoInstant n.val → exec (.hoArm rq n) s =
      .next (({ s with hoT := tput s.hoT n.val (s.hoInstant n.val), hoChecked := s.hoChecked.filter (· ≠ n.val) }.setHo n.val
        hsArmed 0).status .ok)) ∧
    (ok 2 → acts = true → st = hsPaired → s.hoInstant n.val < s.now + nsT 20000000 → exec (.hoArm rq n) s = .next (s.status .range)) ∧
    (ok 2 → acts = true → st ≠ hsPaired → exec (.hoArm rq n) s = .next (s.status .busy)) ∧
    (ok 2 → acts = false → exec (.hoArm rq n) s = .next (s.status .access)) ∧
    (ok 3 → acts = true → st = hsPaired ∨ (st = hsArmed ∧ s.now < T) →
      exec (.hoCancel rq n) s = .next ((s.setHo n.val hsCancelled 1).status .ok)) ∧
    (ok 3 → acts = true → ¬ (st = hsPaired ∨ (st = hsArmed ∧ s.now < T)) → exec (.hoCancel rq n) s = .next (s.status .busy)) ∧
    (ok 3 → acts = false → exec (.hoCancel rq n) s = .next (s.status .access)) ∧
    (ok 4 → acts = true → st = hsDone ∨ st = hsCancelled → exec (.hoClear rq n) s = .next ((s.setHo n.val hsIdle 0).status .ok)) ∧
    (ok 4 → acts = true → ¬ (st = hsDone ∨ st = hsCancelled) → exec (.hoClear rq n) s = .next (s.status .busy)) ∧
    (ok 4 → acts = false → exec (.hoClear rq n) s = .next (s.status .access)) ∧
    (due → ¬ runs → exec (.hoPrecheck n) s = .next (s.setHo n.val hsCancelled 3)) ∧
    (due → runs → s.hoMacsOk n.val = false → exec (.hoPrecheck n) s = .next (s.setHo n.val hsCancelled 4)) ∧
    (due → runs → s.hoMacsOk n.val = true → exec (.hoPrecheck n) s = .next { s with hoChecked := n.val :: s.hoChecked }) ∧
    (¬ due → exec (.hoPrecheck n) s = .next s) ∧
    (cuts → exec (.hoCut n) s = .next { w.hoCutNow n.val with reply := w.reply }) ∧
    (¬ cuts → exec (.hoCut n) s = .next w) ∧
    (st = hsDrain → s.hoPending (s.hoCarrier n.val) T = false → exec (.hoDrainEnd n) s = .next (s.setHo n.val hsDone 0)) ∧
    (st ≠ hsDrain ∨ s.hoPending (s.hoCarrier n.val) T = true → exec (.hoDrainEnd n) s = .next s)

/-- O56. Gelpel (R119, R120, R181, R183, R543 to R547, R549 to R553): a port is enabled, trains, says HELLO every microsecond and comes
UP or conflicts; an expected flit is taken, another is answered with a NAK, and a replay sends again; messages of the member go to Kennel,
are served or are refused and counted; answers go to who waits; a port whose cause is present goes DOWN; own relays. -/
def Obligations.GelpelLink : Prop :=
  ∀ (s t : State) (rq : Requester) (g : Fin 4) (v w0 : U64) (h : GplHello) (f : GplFlit) (seq : Byte) (part : BitVec 4) (ws : List U64)
    (vc un : Bool) (a : Addr) (n : Nat) (r : BusAnswer) (bs : List (Byte × Bool)) (rt : RetTo) (who : Accessor) (lo hi : BitVec 16)
    (up : List Addr) (why : LinkDownCause) (m : RelayMsg) (q : Fin 8) (wr : Bool) (o : Obj) (c : BitVec 16) (sl at_ : Nat),
    let st := s.gplState g.val
    let x := s.gpl g.val
    let key := s.checkWrite rq (Key.gplGCfg g.val) v = .ok
    let set := s.setEnt (Key.gplGCfg g.val) v
    let names := st = gpTrain ∧ bf v 15 0 ≠ 0
    let sends := st = gpHello ∧ x.helloRaw.elim true (fun r => decide (r + usTicks 1 ≤ s.raw.toNat)) = true
    let hears := s.gplHears g.val = true
    let heard := s.gplHeard g.val
    let told := heard.gplPeerTold g.val h
    let both := h.acksOurs = true ∧ (told.gpl g.val).helloRaw.isSome = true
    let carries := s.gplCarries g.val = true
    let hx := heard.gpl g.val
    let bad := s.gplCount g.val 63 48 1
    let kept := ackFlits (seq - 1) x.unacked
    let naked := s.pumpGpl g.val { x.nakked s.raw.toNat with unacked := kept }
    let stale := carries ∧ x.unacked ≠ [] ∧ x.ackRaw + usTicks 2 ≤ s.raw.toNat
    let isUp := st = gpUp
    let fails := fun (mt : Nat) => (s.gplRefused g.val).sendMsg g.val vc (messageOf mt 0 (rspWord false false) [])
    let restat := s.setFld (Key.gplStat g.val) 31 0 (lo.toNat * 65536 + hi.toNat)
    let falls := st ≠ gpDown ∧ s.gplCause g.val why = true
    let waits := fun (p : Outstanding → Bool) (y : Outstanding) => isUp ∧ s.popGpl g.val p = some (y, t)
    let relays := s.checkWrite rq Key.gplRelayReq v = .ok
    let rBusy := bit (tget 0 s.bank (relayKey rq)) 63
    let rOk := bf v 49 48 ≠ 0 ∧ (bf v 63 62 = 1 ∨ bf v 63 62 = 2)
    let val := tget 0 s.bank (slotKey rq Key.gplRelayVal)
    let sent := ({ s with bank := tput s.bank (relayKey rq) (w64 (2 ^ 63)) } : State).sendMsg at_ true
      (messageOf 8 ((s.rqPart rq).getD 15) v [val])
    (key → bit v 63 = false → exec (.gplEnable rq g v) s = .next ((set.gplDown g.val).status .ok) ∧
      exec (.gplLanesWrite rq g v) s = .next ((set.gplDown g.val).status .ok)) ∧
    (key → bit v 63 = true → names → exec (.gplEnable rq g v) s = .next (((set.setGplState g.val gpHello).gplHeard g.val).status .ok) ∧
      exec (.gplLanesWrite rq g v) s = .next (((set.setGplState g.val gpHello).gplHeard g.val).status .ok)) ∧
    (key → bit v 63 = true → ¬ names → exec (.gplEnable rq g v) s = .next ((set.gplTrain g.val).status .ok) ∧
      exec (.gplLanesWrite rq g v) s = .next ((set.gplTrain g.val).status .ok)) ∧
    (sends → exec (.gplHelloSend g) s = .next (s.setGpl g.val { x with helloRaw := some s.raw.toNat })) ∧
    (¬ sends → exec (.gplHelloSend g) s = .next s) ∧
    (¬ hears → exec (.gplHello g h) s = .next s) ∧
    (hears → h.crcOk = false → exec (.gplHello g h) s = .next bad) ∧
    (hears → h.crcOk = true → st ≠ gpHello → exec (.gplHello g h) s = .next heard) ∧
    (st = gpHello → h.crcOk = true → told.helloConflicts g.val h = true →
      exec (.gplHello g h) s = .next (told.setGplState g.val gpConflict)) ∧
    (st = gpHello → h.crcOk = true → told.helloConflicts g.val h = false → both → exec (.gplHello g h) s =
      .next ((told.setGplState g.val (if told.gplSpreadOk g.val then gpUp else gpDialect)).dialectsSince s)) ∧
    (st = gpHello → h.crcOk = true → told.helloConflicts g.val h = false → ¬ both → exec (.gplHello g h) s = .next told) ∧
    (¬ carries → exec (.gplDataFlit g f) s = .next s ∧ exec (.gplNak g seq) s = .next s ∧ exec (.gplLinkstat g lo hi) s = .next s) ∧
    (carries → f.crcOk = true → f.seq = hx.expect → exec (.gplDataFlit g f) s = .next (heard.pumpGpl g.val (hx.takeFlit f))) ∧
    (carries → f.crcOk = true → f.seq ≠ hx.expect → exec (.gplDataFlit g f) s = .next (heard.setGpl g.val { hx with nakSent := true })) ∧
    (carries → f.crcOk = false →
      exec (.gplDataFlit g f) s = .next (bad.setGpl g.val { bad.gpl g.val with nakSent := true })) ∧
    (carries → kept = [] → exec (.gplNak g seq) s = .next naked) ∧
    (carries → kept ≠ [] → exec (.gplNak g seq) s = .next (naked.gplReplay g.val)) ∧
    (stale → exec (.gplReplayTimeout g) s = .next ((s.setGpl g.val { x with ackRaw := s.raw.toNat }).gplReplay g.val)) ∧
    (¬ stale → exec (.gplReplayTimeout g) s = .next s) ∧
    (isUp → exec (.gplTask g part ws) s = .next (s.gplTaskIn g part.toNat (descOf ws))) ∧
    (s.gplAdmits g.val part.toNat (descOf ws).target = some n →
      s.gplTaskIn g part.toNat (descOf ws) = s.sendItem (.gelpel g) (.desc (descOf ws) (.remote g.val) n)) ∧
    (isUp → exec (.gplToken g part w0 v) s = .next (s.gplTokenIn g part.toNat ⟨w0, v⟩)) ∧
    (s.tokenEntry w0 = none → bit w0 31 = true → s.gplTokenIn g part.toNat ⟨w0, v⟩ = s.sendItem (.gelpel g) (.token ⟨w0, v⟩ 8 .none)) ∧
    (s.tokenEntry w0 = none → bit w0 31 = false → 2 ^ 30 ≤ bf w0 63 32 →
      s.gplTokenIn g part.toNat ⟨w0, v⟩ = (s.gplRefused g.val).knCount (Key.knDown 0)) ∧
    (waits (fun o => match o with | .result _ => true | _ => false) (.result rt) → exec (.gplResult g v) s = .next (t.giveResult rt v)) ∧
    (isUp → 8 ≤ part.toNat → exec (.gplRdReq g part vc a n un up) s = .next (fails 5)) ∧
    (isUp → 8 ≤ part.toNat → exec (.gplWrReq g part vc a bs) s = .next (fails 7)) ∧
    (isUp → part.toNat = q.val → exec (.gplRdReq g part vc a n un up) s = .next (s.gplReadIn g q vc a.toNat n un up)) ∧
    (isUp → part.toNat = q.val → exec (.gplWrReq g part vc a bs) s = .next (s.gplWriteIn g q vc a.toNat bs)) ∧
    (s.accessOk (.gelpel g q) a.toNat n false = false → s.gplReadIn g q vc a.toNat n un up =
      ((s.accessFault (.gelpel g q) a.toNat).gplRefused g.val).sendMsg g.val vc (messageOf 5 0 (rspWord false false) [])) ∧
    (s.accessOk (.gelpel g q) a.toNat bs.length true = true → regionOf a.toNat = .hbm → s.gplWriteIn g q vc a.toNat bs =
      (s.writeMarks (.gelpel g q) a.toNat bs).sendMsg g.val vc (messageOf 7 0 (rspWord true false) [])) ∧
    (waits (fun o => match o with | .read _ _ => true | _ => false) (.read who at_) →
      exec (.gplRdData g r bs) s = .next (t.gplReadDone g.val who at_ r bs)) ∧
    (waits (fun o => match o with | .write _ _ => true | _ => false) (.write who at_) →
      exec (.gplWrRsp g r) s = .next (t.gplWriteDone who at_ r)) ∧
    (carries → exec (.gplLinkstat g lo hi) s = .next ((restat.gplRejudge g.val).dialectsSince s)) ∧
    (falls → exec (.gplLinkDown g why) s = .next ((s.gplDown g.val).gplTrain g.val)) ∧
    (¬ falls → exec (.gplLinkDown g why) s = .next s) ∧
    (isUp → exec (.gplRelay g (.request q wr o v)) s = .next (s.relayServe g.val q wr o v)) ∧
    (waits (fun o => match o with | .relay _ => true | _ => false) (.relay sl) →
      exec (.gplRelay g (.answer c v)) s = .next (t.relayDone sl c.toNat v)) ∧
    (¬ isUp → exec (.gplTask g part ws) s = .next s ∧ exec (.gplToken g part w0 v) s = .next s ∧ exec (.gplResult g v) s = .next s ∧
      exec (.gplRelay g m) s = .next s ∧ exec (.gplRdReq g part vc a n un up) s = .next s ∧ exec (.gplWrReq g part vc a bs) s = .next s ∧
      exec (.gplRdData g r bs) s = .next s ∧ exec (.gplWrRsp g r) s = .next s) ∧
    (relays → rBusy = true → exec (.relayReq rq v) s = .next (s.status .busy)) ∧
    (relays → rBusy = false → ¬ rOk → exec (.relayReq rq v) s = .next (s.status .range)) ∧
    (relays → rBusy = false → rOk → s.linkTo (bf v 49 48) = none →
      exec (.relayReq rq v) s = .next ((s.relayDone (rqSlot rq) 7 val).status .ok)) ∧
    (relays → rBusy = false → rOk → s.linkTo (bf v 49 48) = some at_ →
      exec (.relayReq rq v) s = .next ((sent.awaitGpl at_ (.relay (rqSlot rq))).status .ok))

/-- O57. Psimir encodings (R165, R166 and the tables of 05_psimir_instructions.md): the word that a well-formed Psimir instruction is encoded
in decodes to that instruction, on its tile and with every operand at every value the encoding admits. -/
def Obligations.PsimirRoundTrip : Prop :=
  ∀ (i : Instr) (t : Fin 512) (w : BitVec 32), i.wf = true → encodePsimir i = some (t, w) → decodePsimir t w = some i

/-- O58. Psimir words of the spec's table Encodings of representative instructions decode to what the table says, words of the other
formats to what the formats say, and reserved ones to nothing. -/
def Obligations.PsimirWords : Prop :=
  ∀ t : Fin 512,
    decodePsimir t 0xB8C30004 = some (.vsetvl t 6 3 0 0 4) ∧
    decodePsimir t 0xC50001B2 = some (.vmov t ⟨8, 0, 0, false, false, true, 5⟩) ∧
    decodePsimir t 0xD0540280 = some (.vld t ⟨2, 20, 0, true, false, 4, 0⟩) ∧
    decodePsimir t 0xA0700006 = some (.loop0 t 7 0 6) ∧
    decodePsimir t 0xC1031086 = some (.vcmacjw t ⟨8, 3, 2, false, false, false, 4⟩) ∧
    decodePsimir t 0xC1022485 = some (.vcmacw t ⟨8, 2, 4, true, false, false, 4⟩) ∧
    decodePsimir t 0xC94858A5 = some (.vredsum t ⟨10, 8, 11, false, false, false, 5⟩) ∧
    decodePsimir t 0xB0200000 = some (.fetch t 1 0 0) ∧
    decodePsimir t 0b000001_00011_00001_00010_00000000000 = some (.add t 3 1 2) ∧
    decodePsimir t 0b000010_00100_00001_1111111111111000 = some (.addi t 4 1 0xFFF8) ∧
    decodePsimir t 0b100110_00001_000000000000000000100 = some (.jal t 1 4) ∧
    decodePsimir t 0b110100_00111_00010_00000_1_1_0_011_00000 = some (.vst t ⟨7, 2, 0, true, false, 3, 0⟩) ∧
    decodePsimir t 0b101101_00110_00000_0000_000000100000 = some (.csrr t 6 0 0x020) ∧
    decodePsimir t 0x00000000 = none ∧ decodePsimir t 0b000001_00011_00001_00010_00000001110 = none

/-- O59. What reset leaves that the spec states or the model's canonical form asks for: memory in its form, no command waiting, the raw
counter at zero, PHASE RESET, and no word of the table spells a command (opcode_table.json gives no bits). -/
def Obligations.ResetInvariant : Prop :=
  State.reset.Inv ∧ State.reset.pending = [] ∧ State.reset.raw = 0 ∧ State.reset.phase = phReset ∧
    (∀ s nbits w, decodeTableWord nbits w = none ∧ State.withFetchWord s nbits w = s)

/-- O60. Every step keeps memory in its canonical form: addresses rising, and no entry equal to what an unlisted address reads as. -/
def Obligations.StepKeepsInvariant : Prop :=
  ∀ s s' : State, s.Inv → step s = .next s' → s'.Inv

end
end

