-- ==== Sys2Proof/Laws/Tab.lean ====
section
/-!
SUPPORT. Tab.lean: tables read back what was written (tget, tfind, tput, tdel), and a write leaves every other key alone.
-/
namespace Sys2Proof.Machine

variable {α : Type}

/-- A table's keys rise. -/
def TabSorted : Tab α → Prop
  | [] => True
  | [_] => True
  | (i, _) :: (j, w) :: r => i < j ∧ TabSorted ((j, w) :: r)

theorem tfind_tput_self (t : Tab α) (k : Nat) (v : α) : tfind (tput t k v) k = some v := by
  induction t with
  | nil => simp [tput, tfind]
  | cons e r ih =>
    obtain ⟨i, w⟩ := e
    unfold tput
    split
    · simp [tfind]
    · split
      · simp [tfind]
      · have : i ≠ k := by omega
        simp [tfind, this, ih]

theorem tfind_tput_ne (t : Tab α) {k k' : Nat} (v : α) (h : k' ≠ k) : tfind (tput t k v) k' = tfind t k' := by
  induction t with
  | nil => simp [tput, tfind, Ne.symm h]
  | cons e r ih =>
    obtain ⟨i, w⟩ := e
    unfold tput
    split
    · simp [tfind, Ne.symm h]
    · split
      · subst_vars; simp [tfind, Ne.symm h]
      · simp [tfind, ih]

@[simp] theorem tget_tput_self (d : α) (t : Tab α) (k : Nat) (v : α) : tget d (tput t k v) k = v := by
  induction t with
  | nil => simp [tput, tget]
  | cons e r ih =>
    obtain ⟨i, w⟩ := e
    unfold tput
    split
    · simp [tget]
    · split
      · simp [tget]
      · have : i ≠ k := by omega
        simp [tget, this, ih]

theorem tget_tput_ne (d : α) (t : Tab α) {k k' : Nat} (v : α) (h : k' ≠ k) : tget d (tput t k v) k' = tget d t k' := by
  induction t with
  | nil => simp [tput, tget, Ne.symm h]
  | cons e r ih =>
    obtain ⟨i, w⟩ := e
    unfold tput
    split
    · simp [tget, Ne.symm h]
    · split
      · subst_vars; simp [tget, Ne.symm h]
      · simp [tget, ih]

theorem tget_tput (d : α) (t : Tab α) (k k' : Nat) (v : α) : tget d (tput t k v) k' = if k' = k then v else tget d t k' := by
  split
  · subst_vars; simp
  · exact tget_tput_ne d t v ‹_›

theorem tfind_tput (t : Tab α) (k k' : Nat) (v : α) : tfind (tput t k v) k' = if k' = k then some v else tfind t k' := by
  split
  · subst_vars; exact tfind_tput_self t _ v
  · exact tfind_tput_ne t v ‹_›

@[simp] theorem tfind_tdel_self (t : Tab α) (k : Nat) : tfind (tdel t k) k = none := by
  induction t with
  | nil => rfl
  | cons e r ih =>
    obtain ⟨i, w⟩ := e
    by_cases h : i = k
    · subst h; simpa [tdel] using ih
    · have : tdel ((i, w) :: r) k = (i, w) :: tdel r k := by simp [tdel, h]
      rw [this]; simpa [tfind, h] using ih

theorem tfind_tdel_ne (t : Tab α) {k k' : Nat} (h : k' ≠ k) : tfind (tdel t k) k' = tfind t k' := by
  induction t with
  | nil => rfl
  | cons e r ih =>
    obtain ⟨i, w⟩ := e
    by_cases hi : i = k
    · subst hi
      have : tdel ((i, w) :: r) i = tdel r i := by simp [tdel]
      rw [this, ih]; simp [tfind, Ne.symm h]
    · have : tdel ((i, w) :: r) k = (i, w) :: tdel r k := by simp [tdel, hi]
      rw [this]; simp [tfind, ih]

theorem tget_eq_tfind (d : α) (t : Tab α) (k : Nat) : tget d t k = (tfind t k).getD d := by
  induction t with
  | nil => rfl
  | cons e r ih =>
    obtain ⟨i, w⟩ := e
    by_cases h : i = k <;> simp [tget, tfind, h, ih]

end Sys2Proof.Machine
end

