-- ==== Sys2Proof/Laws/Bits.lean ====
section
/-!
SUPPORT. Bits.lean: a field of a word reads back what was set in it, and setting a field leaves the fields apart from it alone; the
same of the dictionary's entries.
-/
namespace Sys2Proof.Machine

theorem bf_lt (v : U64) (hi lo : Nat) : bf v hi lo < 2 ^ (hi + 1 - lo) := Nat.mod_lt _ (Nat.two_pow_pos _)

/-- The number of a word with a field set: what lies above, the field, what lies below. -/
theorem setf_toNat (v : U64) (hi lo x : Nat) (h : lo ≤ hi) (h64 : hi < 64) :
    (setf v hi lo x).toNat =
      v.toNat / 2 ^ (hi + 1) * 2 ^ (hi + 1) + x % 2 ^ (hi + 1 - lo) * 2 ^ lo + v.toNat % 2 ^ lo := by
  have hsplit : 2 ^ (hi + 1) = 2 ^ (hi + 1 - lo) * 2 ^ lo := by rw [← pow_add]; congr 1; omega
  have e1 : v.toNat = v.toNat / 2 ^ lo * 2 ^ lo + v.toNat % 2 ^ lo := by
    rw [Nat.mul_comm]; exact (Nat.div_add_mod _ _).symm
  have e2 : v.toNat / 2 ^ lo = v.toNat / 2 ^ (hi + 1) * 2 ^ (hi + 1 - lo) + bf v hi lo := by
    unfold bf
    have : v.toNat / 2 ^ (hi + 1) = v.toNat / 2 ^ lo / 2 ^ (hi + 1 - lo) := by
      rw [Nat.div_div_eq_div_mul, hsplit, Nat.mul_comm]
    rw [this, Nat.mul_comm]; exact (Nat.div_add_mod _ _).symm
  have hv : v.toNat = v.toNat / 2 ^ (hi + 1) * 2 ^ (hi + 1) + bf v hi lo * 2 ^ lo + v.toNat % 2 ^ lo := by
    conv_lhs => rw [e1, e2]
    rw [Nat.add_mul, Nat.mul_assoc, ← hsplit]
  have hlt : v.toNat / 2 ^ (hi + 1) * 2 ^ (hi + 1) + x % 2 ^ (hi + 1 - lo) * 2 ^ lo + v.toNat % 2 ^ lo < 2 ^ 64 := by
    have a1 : x % 2 ^ (hi + 1 - lo) + 1 ≤ 2 ^ (hi + 1 - lo) := Nat.mod_lt _ (Nat.two_pow_pos _)
    have a2 : v.toNat % 2 ^ lo + 1 ≤ 2 ^ lo := Nat.mod_lt _ (Nat.two_pow_pos _)
    have a3 : (x % 2 ^ (hi + 1 - lo) + 1) * 2 ^ lo ≤ 2 ^ (hi + 1) := by
      rw [hsplit]; exact Nat.mul_le_mul_right _ a1
    have a4 : (v.toNat / 2 ^ (hi + 1) + 1) * 2 ^ (hi + 1) ≤ 2 ^ 64 := by
      have hp : 2 ^ 64 = 2 ^ (64 - (hi + 1)) * 2 ^ (hi + 1) := by rw [← pow_add]; congr 1; omega
      rw [hp]
      apply Nat.mul_le_mul_right
      apply Nat.succ_le_of_lt
      rw [Nat.div_lt_iff_lt_mul (Nat.two_pow_pos _), ← hp]
      exact v.isLt
    rw [Nat.add_mul] at a3 a4
    omega
  unfold setf
  rw [BitVec.toNat_ofNat]
  have : v.toNat - bf v hi lo * 2 ^ lo + x % 2 ^ (hi + 1 - lo) * 2 ^ lo =
      v.toNat / 2 ^ (hi + 1) * 2 ^ (hi + 1) + x % 2 ^ (hi + 1 - lo) * 2 ^ lo + v.toNat % 2 ^ lo := by omega
  rw [this, Nat.mod_eq_of_lt hlt]

/-- A field reads back what was set in it. -/
theorem bf_setf_self (v : U64) (hi lo x : Nat) (h : lo ≤ hi) (h64 : hi < 64) :
    bf (setf v hi lo x) hi lo = x % 2 ^ (hi + 1 - lo) := by
  have hsplit : 2 ^ (hi + 1) = 2 ^ (hi + 1 - lo) * 2 ^ lo := by rw [← pow_add]; congr 1; omega
  unfold bf
  rw [setf_toNat v hi lo x h h64]
  have e : v.toNat / 2 ^ (hi + 1) * 2 ^ (hi + 1) + x % 2 ^ (hi + 1 - lo) * 2 ^ lo + v.toNat % 2 ^ lo =
      v.toNat % 2 ^ lo + 2 ^ lo * (v.toNat / 2 ^ (hi + 1) * 2 ^ (hi + 1 - lo) + x % 2 ^ (hi + 1 - lo)) := by
    rw [hsplit]; ring
  rw [e, Nat.add_mul_div_left _ _ (Nat.two_pow_pos _), Nat.div_eq_of_lt (Nat.mod_lt _ (Nat.two_pow_pos _)), Nat.zero_add,
    Nat.add_comm, Nat.add_mul_mod_self_right, Nat.mod_mod]

/-- Setting a field leaves a field below it alone. -/
theorem bf_setf_below (v : U64) (hi lo x hi' lo' : Nat) (h : lo ≤ hi) (h64 : hi < 64) (h' : lo' ≤ hi') (hb : hi' < lo) :
    bf (setf v hi lo x) hi' lo' = bf v hi' lo' := by
  unfold bf
  rw [setf_toNat v hi lo x h h64]
  have key : ∀ a b : Nat, a % 2 ^ lo = b % 2 ^ lo → a / 2 ^ lo' % 2 ^ (hi' + 1 - lo') = b / 2 ^ lo' % 2 ^ (hi' + 1 - lo') := by
    intro a b hab
    have step : ∀ c : Nat, c / 2 ^ lo' % 2 ^ (hi' + 1 - lo') = c % 2 ^ lo / 2 ^ lo' % 2 ^ (hi' + 1 - lo') := by
      intro c
      have hlo : 2 ^ lo = 2 ^ lo' * 2 ^ (lo - lo') := by rw [← pow_add]; congr 1; omega
      rw [hlo, Nat.mod_mul_right_div_self]
      have hd : 2 ^ (hi' + 1 - lo') ∣ 2 ^ (lo - lo') := Nat.pow_dvd_pow 2 (by omega)
      exact (Nat.mod_mod_of_dvd _ hd).symm
    rw [step a, step b, hab]
  apply key
  have hsplit : 2 ^ (hi + 1) = 2 ^ (hi + 1 - lo) * 2 ^ lo := by rw [← pow_add]; congr 1; omega
  have e : v.toNat / 2 ^ (hi + 1) * 2 ^ (hi + 1) + x % 2 ^ (hi + 1 - lo) * 2 ^ lo + v.toNat % 2 ^ lo =
      v.toNat % 2 ^ lo + (v.toNat / 2 ^ (hi + 1) * 2 ^ (hi + 1 - lo) + x % 2 ^ (hi + 1 - lo)) * 2 ^ lo := by
    rw [hsplit]; ring
  rw [e, Nat.add_mul_mod_self_right, Nat.mod_mod]

/-- Setting a field leaves a field above it alone. -/
theorem bf_setf_above (v : U64) (hi lo x hi' lo' : Nat) (h : lo ≤ hi) (h64 : hi < 64) (hb : hi < lo') :
    bf (setf v hi lo x) hi' lo' = bf v hi' lo' := by
  unfold bf
  rw [setf_toNat v hi lo x h h64]
  congr 1
  have hp : 2 ^ lo' = 2 ^ (hi + 1) * 2 ^ (lo' - (hi + 1)) := by rw [← pow_add]; congr 1; omega
  rw [hp, ← Nat.div_div_eq_div_mul, ← Nat.div_div_eq_div_mul]
  congr 1
  have hsplit : 2 ^ (hi + 1) = 2 ^ (hi + 1 - lo) * 2 ^ lo := by rw [← pow_add]; congr 1; omega
  have a1 : x % 2 ^ (hi + 1 - lo) + 1 ≤ 2 ^ (hi + 1 - lo) := Nat.mod_lt _ (Nat.two_pow_pos _)
  have a2 : v.toNat % 2 ^ lo + 1 ≤ 2 ^ lo := Nat.mod_lt _ (Nat.two_pow_pos _)
  have a3 : (x % 2 ^ (hi + 1 - lo) + 1) * 2 ^ lo ≤ 2 ^ (hi + 1) := by rw [hsplit]; exact Nat.mul_le_mul_right _ a1
  rw [Nat.add_mul] at a3
  have a4 : (x % 2 ^ (hi + 1 - lo) * 2 ^ lo + v.toNat % 2 ^ lo) / 2 ^ (hi + 1) = 0 := Nat.div_eq_of_lt (by omega)
  rw [Nat.add_assoc, Nat.mul_comm, Nat.mul_add_div (Nat.two_pow_pos _), a4, Nat.add_zero]

theorem bf_setf_ne (v : U64) (hi lo x hi' lo' : Nat) (h : lo ≤ hi) (h64 : hi < 64) (h' : lo' ≤ hi') (hd : hi < lo' ∨ hi' < lo) :
    bf (setf v hi lo x) hi' lo' = bf v hi' lo' := by
  rcases hd with hd | hd
  · exact bf_setf_above v hi lo x hi' lo' h h64 hd
  · exact bf_setf_below v hi lo x hi' lo' h h64 h' hd

theorem bit_eq_bf (v : U64) (i : Nat) : bit v i = (bf v i i == 1) := by
  unfold bit bf; simp

theorem bit_setBit_self (v : U64) (i : Nat) (b : Bool) (h : i < 64) : bit (setBit v i b) i = b := by
  rw [bit_eq_bf, setBit, bf_setf_self _ _ _ _ (le_refl i) h]
  cases b <;> simp

theorem bit_setBit_ne (v : U64) (i j : Nat) (b : Bool) (h : i < 64) (hij : j ≠ i) : bit (setBit v i b) j = bit v j := by
  rw [bit_eq_bf, bit_eq_bf, setBit, bf_setf_ne _ _ _ _ _ _ (le_refl i) h (le_refl j) (by omega)]

/-! Entries -/

@[simp] theorem State.ent_setEnt_self (s : State) (k : Nat) (v : U64) : (s.setEnt k v).ent k = v := by
  simp [State.ent, State.setEnt, tfind_tput_self]

theorem State.ent_setEnt_ne (s : State) {k k' : Nat} (v : U64) (h : k' ≠ k) : (s.setEnt k v).ent k' = s.ent k' := by
  simp only [State.ent, State.setEnt, tfind_tput_ne _ _ h]; rfl

theorem State.fld_setFld_self (s : State) (k hi lo x : Nat) (h : lo ≤ hi) (h64 : hi < 64) :
    (s.setFld k hi lo x).fld k hi lo = x % 2 ^ (hi + 1 - lo) := by
  simp [State.fld, State.setFld, bf_setf_self _ _ _ _ h h64]

theorem State.fld_setFld_other (s : State) (k hi lo x hi' lo' : Nat) (h : lo ≤ hi) (h64 : hi < 64) (h' : lo' ≤ hi')
    (hd : hi < lo' ∨ hi' < lo) : (s.setFld k hi lo x).fld k hi' lo' = s.fld k hi' lo' := by
  simp [State.fld, State.setFld, bf_setf_ne _ _ _ _ _ _ h h64 h' hd]

theorem State.ent_setFld_ne (s : State) {k k' : Nat} (hi lo x : Nat) (h : k' ≠ k) : (s.setFld k hi lo x).ent k' = s.ent k' :=
  State.ent_setEnt_ne s _ h

theorem State.ent_setFlag_ne (s : State) {k k' : Nat} (i : Nat) (b : Bool) (h : k' ≠ k) : (s.setFlag k i b).ent k' = s.ent k' :=
  State.ent_setEnt_ne s _ h

theorem State.flag_setFlag_self (s : State) (k i : Nat) (b : Bool) (h : i < 64) : (s.setFlag k i b).flag k i = b := by
  simp only [State.flag, State.setFlag, State.setFld, State.ent_setEnt_self]
  have := bit_setBit_self (s.ent k) i b h
  simpa [setBit, b01] using this

theorem State.flag_setFlag_ne (s : State) (k i j : Nat) (b : Bool) (h : i < 64) (hij : j ≠ i) :
    (s.setFlag k i b).flag k j = s.flag k j := by
  simp only [State.flag, State.setFlag, State.setFld, State.ent_setEnt_self]
  have := bit_setBit_ne (s.ent k) i j b h hij
  simpa [setBit, b01] using this

/-- A saturating counter's field after n more events (R5). -/
theorem State.fld_incSat_self (s : State) (k hi lo n : Nat) (h : lo ≤ hi) (h64 : hi < 64) :
    (s.incSat k hi lo n).fld k hi lo = satAdd (hi + 1 - lo) (s.fld k hi lo) n := by
  rw [State.incSat, State.fld_setFld_self _ _ _ _ _ h h64]
  apply Nat.mod_eq_of_lt
  unfold satAdd
  have := Nat.two_pow_pos (hi + 1 - lo)
  omega

end Sys2Proof.Machine
end

