-- ==== Sys2Proof/Laws/Exec.lean ====
section
/-!
SUPPORT. Exec.lean: exec of each command is its meaning (so that no proof unfolds exec's case split).
-/
namespace Sys2Proof.Machine

@[simp] theorem exec_liveStagedWrite (rq : Requester) (t : TableId) (row : Nat) (word : Nat) (v : U64) (s : State) : exec (.liveStagedWrite rq t row word v) s = execLiveStagedWrite rq t row word v s := rfl
@[simp] theorem exec_liveArm (rq : Requester) (t : TableId) (s : State) : exec (.liveArm rq t) s = execLiveArm rq t s := rfl
@[simp] theorem exec_liveCancel (rq : Requester) (t : TableId) (s : State) : exec (.liveCancel rq t) s = execLiveCancel rq t s := rfl
@[simp] theorem exec_liveClrCnt (rq : Requester) (t : TableId) (arm : Bool) (cancel : Bool) (s : State) : exec (.liveClrCnt rq t arm cancel) s = execLiveClrCnt rq t arm cancel s := rfl
@[simp] theorem exec_liveSwap (t : TableId) (s : State) : exec (.liveSwap t) s = execLiveSwap t s := rfl
@[simp] theorem exec_liveCopyDone (t : TableId) (s : State) : exec (.liveCopyDone t) s = execLiveCopyDone t s := rfl
@[simp] theorem exec_liveDirectWrite (rq : Requester) (t : TableId) (row : Nat) (word : Nat) (v : U64) (s : State) : exec (.liveDirectWrite rq t row word v) s = execLiveDirectWrite rq t row word v s := rfl
@[simp] theorem exec_liveDeferredApply (t : TableId) (row : Nat) (s : State) : exec (.liveDeferredApply t row) s = execLiveDeferredApply t row s := rfl
@[simp] theorem exec_pllLock (s : State) : exec (.pllLock) s = execPllLock s := rfl
@[simp] theorem exec_clkrefLoss (s : State) : exec (.clkrefLoss) s = execClkrefLoss s := rfl
@[simp] theorem exec_clkrefReturn (s : State) : exec (.clkrefReturn) s = execClkrefReturn s := rfl
@[simp] theorem exec_clkLossHoldExpiry (s : State) : exec (.clkLossHoldExpiry) s = execClkLossHoldExpiry s := rfl
@[simp] theorem exec_tbIncrementWrite (rq : Requester) (v : U64) (s : State) : exec (.tbIncrementWrite rq v) s = execTbIncrementWrite rq v s := rfl
@[simp] theorem exec_tbStepWrite (rq : Requester) (v : U64) (s : State) : exec (.tbStepWrite rq v) s = execTbStepWrite rq v s := rfl
@[simp] theorem exec_tbOffsetSecondsWrite (rq : Requester) (v : U64) (s : State) : exec (.tbOffsetSecondsWrite rq v) s = execTbOffsetSecondsWrite rq v s := rfl
@[simp] theorem exec_tbOffsetWrite (rq : Requester) (v : U64) (s : State) : exec (.tbOffsetWrite rq v) s = execTbOffsetWrite rq v s := rfl
@[simp] theorem exec_timebaseTickApply (n : Nat) (s : State) : exec (.timebaseTickApply n) s = execTimebaseTickApply n s := rfl
@[simp] theorem exec_tbNowRead (rq : Requester) (sub : Fin 3) (s : State) : exec (.tbNowRead rq sub) s = execTbNowRead rq sub s := rfl
@[simp] theorem exec_ttOwnerWrite (rq : Requester) (u : Fin 64) (v : U64) (s : State) : exec (.ttOwnerWrite rq u v) s = execTtOwnerWrite rq u v s := rfl
@[simp] theorem exec_ttEnable (rq : Requester) (u : Fin 64) (v : U64) (s : State) : exec (.ttEnable rq u v) s = execTtEnable rq u v s := rfl
@[simp] theorem exec_ttDisable (rq : Requester) (u : Fin 64) (v : U64) (s : State) : exec (.ttDisable rq u v) s = execTtDisable rq u v s := rfl
@[simp] theorem exec_ttTimingWrite (rq : Requester) (u : Fin 64) (which : Fin 3) (v : U64) (s : State) : exec (.ttTimingWrite rq u which v) s = execTtTimingWrite rq u which v s := rfl
@[simp] theorem exec_triggerFire (u : Fin 64) (row : Fin 16) (s : State) : exec (.triggerFire u row) s = execTriggerFire u row s := rfl
@[simp] theorem exec_triggerTrailingEdge (u : Fin 64) (row : Fin 16) (s : State) : exec (.triggerTrailingEdge u row) s = execTriggerTrailingEdge u row s := rfl
@[simp] theorem exec_captureEdge (source : BitVec 7) (rising : Bool) (eighth : Fin 8) (s : State) : exec (.captureEdge source rising eighth) s = execCaptureEdge source rising eighth s := rfl
@[simp] theorem exec_capturePop (rq : Requester) (n : Fin 8) (s : State) : exec (.capturePop rq n) s = execCapturePop rq n s := rfl
@[simp] theorem exec_ppsOutRise (s : State) : exec (.ppsOutRise) s = execPpsOutRise s := rfl
@[simp] theorem exec_ppsOutFall (s : State) : exec (.ppsOutFall) s = execPpsOutFall s := rfl
@[simp] theorem exec_synceSquelch (n : Fin 2) (s : State) : exec (.synceSquelch n) s = execSynceSquelch n s := rfl
@[simp] theorem exec_descriptorSubmit (src : Producer) (badPath : Bool) (s : State) : exec (.descriptorSubmit src badPath) s = execDescriptorSubmit src badPath s := rfl
@[simp] theorem exec_deferredDescriptorAllocate (p : Fin 8) (s : State) : exec (.deferredDescriptorAllocate p) s = execDeferredDescriptorAllocate p s := rfl
@[simp] theorem exec_tokenAccept (src : Producer) (path : TokenPath) (s : State) : exec (.tokenAccept src path) s = execTokenAccept src path s := rfl
@[simp] theorem exec_taskDispatch (p : Fin 8) (parity : Bool) (s : State) : exec (.taskDispatch p parity) s = execTaskDispatch p parity s := rfl
@[simp] theorem exec_unitDownSweep (p : Fin 8) (s : State) : exec (.unitDownSweep p) s = execUnitDownSweep p s := rfl
@[simp] theorem exec_lameMedianRecompute (p : Fin 8) (s : State) : exec (.lameMedianRecompute p) s = execLameMedianRecompute p s := rfl
@[simp] theorem exec_lameProbeDue (t : Fin 512) (s : State) : exec (.lameProbeDue t) s = execLameProbeDue t s := rfl
@[simp] theorem exec_planInstantiate (c : Fin 384) (u : Fin 64) (row : Fin 16) (s : State) : exec (.planInstantiate c u row) s = execPlanInstantiate c u row s := rfl
@[simp] theorem exec_add (t : Fin 512) (rd ra rb : Reg) (s : State) : exec (.add t rd ra rb) s = execAdd t rd ra rb s := rfl
@[simp] theorem exec_sub (t : Fin 512) (rd ra rb : Reg) (s : State) : exec (.sub t rd ra rb) s = execSub t rd ra rb s := rfl
@[simp] theorem exec_andR (t : Fin 512) (rd ra rb : Reg) (s : State) : exec (.andR t rd ra rb) s = execAnd t rd ra rb s := rfl
@[simp] theorem exec_orR (t : Fin 512) (rd ra rb : Reg) (s : State) : exec (.orR t rd ra rb) s = execOr t rd ra rb s := rfl
@[simp] theorem exec_xorR (t : Fin 512) (rd ra rb : Reg) (s : State) : exec (.xorR t rd ra rb) s = execXor t rd ra rb s := rfl
@[simp] theorem exec_sll (t : Fin 512) (rd ra rb : Reg) (s : State) : exec (.sll t rd ra rb) s = execSll t rd ra rb s := rfl
@[simp] theorem exec_srl (t : Fin 512) (rd ra rb : Reg) (s : State) : exec (.srl t rd ra rb) s = execSrl t rd ra rb s := rfl
@[simp] theorem exec_sra (t : Fin 512) (rd ra rb : Reg) (s : State) : exec (.sra t rd ra rb) s = execSra t rd ra rb s := rfl
@[simp] theorem exec_slt (t : Fin 512) (rd ra rb : Reg) (s : State) : exec (.slt t rd ra rb) s = execSlt t rd ra rb s := rfl
@[simp] theorem exec_sltu (t : Fin 512) (rd ra rb : Reg) (s : State) : exec (.sltu t rd ra rb) s = execSltu t rd ra rb s := rfl
@[simp] theorem exec_mul (t : Fin 512) (rd ra rb : Reg) (s : State) : exec (.mul t rd ra rb) s = execMul t rd ra rb s := rfl
@[simp] theorem exec_mulh (t : Fin 512) (rd ra rb : Reg) (s : State) : exec (.mulh t rd ra rb) s = execMulh t rd ra rb s := rfl
@[simp] theorem exec_min (t : Fin 512) (rd ra rb : Reg) (s : State) : exec (.min t rd ra rb) s = execMin t rd ra rb s := rfl
@[simp] theorem exec_max (t : Fin 512) (rd ra rb : Reg) (s : State) : exec (.max t rd ra rb) s = execMax t rd ra rb s := rfl
@[simp] theorem exec_addi (t : Fin 512) (rd ra : Reg) (imm : BitVec 16) (s : State) : exec (.addi t rd ra imm) s = execAddi t rd ra imm s := rfl
@[simp] theorem exec_andi (t : Fin 512) (rd ra : Reg) (imm : BitVec 16) (s : State) : exec (.andi t rd ra imm) s = execAndi t rd ra imm s := rfl
@[simp] theorem exec_ori (t : Fin 512) (rd ra : Reg) (imm : BitVec 16) (s : State) : exec (.ori t rd ra imm) s = execOri t rd ra imm s := rfl
@[simp] theorem exec_xori (t : Fin 512) (rd ra : Reg) (imm : BitVec 16) (s : State) : exec (.xori t rd ra imm) s = execXori t rd ra imm s := rfl
@[simp] theorem exec_slli (t : Fin 512) (rd ra : Reg) (imm : BitVec 16) (s : State) : exec (.slli t rd ra imm) s = execSlli t rd ra imm s := rfl
@[simp] theorem exec_srli (t : Fin 512) (rd ra : Reg) (imm : BitVec 16) (s : State) : exec (.srli t rd ra imm) s = execSrli t rd ra imm s := rfl
@[simp] theorem exec_srai (t : Fin 512) (rd ra : Reg) (imm : BitVec 16) (s : State) : exec (.srai t rd ra imm) s = execSrai t rd ra imm s := rfl
@[simp] theorem exec_lui (t : Fin 512) (rd ra : Reg) (imm : BitVec 16) (s : State) : exec (.lui t rd ra imm) s = execLui t rd ra imm s := rfl
@[simp] theorem exec_slti (t : Fin 512) (rd ra : Reg) (imm : BitVec 16) (s : State) : exec (.slti t rd ra imm) s = execSlti t rd ra imm s := rfl
@[simp] theorem exec_sltiu (t : Fin 512) (rd ra : Reg) (imm : BitVec 16) (s : State) : exec (.sltiu t rd ra imm) s = execSltiu t rd ra imm s := rfl
@[simp] theorem exec_ldB (t : Fin 512) (rd ra : Reg) (imm : BitVec 16) (s : State) : exec (.ldB t rd ra imm) s = execLdB t rd ra imm s := rfl
@[simp] theorem exec_ldH (t : Fin 512) (rd ra : Reg) (imm : BitVec 16) (s : State) : exec (.ldH t rd ra imm) s = execLdH t rd ra imm s := rfl
@[simp] theorem exec_ldW (t : Fin 512) (rd ra : Reg) (imm : BitVec 16) (s : State) : exec (.ldW t rd ra imm) s = execLdW t rd ra imm s := rfl
@[simp] theorem exec_ldD (t : Fin 512) (rd ra : Reg) (imm : BitVec 16) (s : State) : exec (.ldD t rd ra imm) s = execLdD t rd ra imm s := rfl
@[simp] theorem exec_ldBu (t : Fin 512) (rd ra : Reg) (imm : BitVec 16) (s : State) : exec (.ldBu t rd ra imm) s = execLdBu t rd ra imm s := rfl
@[simp] theorem exec_ldHu (t : Fin 512) (rd ra : Reg) (imm : BitVec 16) (s : State) : exec (.ldHu t rd ra imm) s = execLdHu t rd ra imm s := rfl
@[simp] theorem exec_ldWu (t : Fin 512) (rd ra : Reg) (imm : BitVec 16) (s : State) : exec (.ldWu t rd ra imm) s = execLdWu t rd ra imm s := rfl
@[simp] theorem exec_stB (t : Fin 512) (rd ra : Reg) (imm : BitVec 16) (s : State) : exec (.stB t rd ra imm) s = execStB t rd ra imm s := rfl
@[simp] theorem exec_stH (t : Fin 512) (rd ra : Reg) (imm : BitVec 16) (s : State) : exec (.stH t rd ra imm) s = execStH t rd ra imm s := rfl
@[simp] theorem exec_stW (t : Fin 512) (rd ra : Reg) (imm : BitVec 16) (s : State) : exec (.stW t rd ra imm) s = execStW t rd ra imm s := rfl
@[simp] theorem exec_stD (t : Fin 512) (rd ra : Reg) (imm : BitVec 16) (s : State) : exec (.stD t rd ra imm) s = execStD t rd ra imm s := rfl
@[simp] theorem exec_beq (t : Fin 512) (ra rb : Reg) (off : BitVec 16) (s : State) : exec (.beq t ra rb off) s = execBeq t ra rb off s := rfl
@[simp] theorem exec_bne (t : Fin 512) (ra rb : Reg) (off : BitVec 16) (s : State) : exec (.bne t ra rb off) s = execBne t ra rb off s := rfl
@[simp] theorem exec_blt (t : Fin 512) (ra rb : Reg) (off : BitVec 16) (s : State) : exec (.blt t ra rb off) s = execBlt t ra rb off s := rfl
@[simp] theorem exec_bge (t : Fin 512) (ra rb : Reg) (off : BitVec 16) (s : State) : exec (.bge t ra rb off) s = execBge t ra rb off s := rfl
@[simp] theorem exec_bltu (t : Fin 512) (ra rb : Reg) (off : BitVec 16) (s : State) : exec (.bltu t ra rb off) s = execBltu t ra rb off s := rfl
@[simp] theorem exec_bgeu (t : Fin 512) (ra rb : Reg) (off : BitVec 16) (s : State) : exec (.bgeu t ra rb off) s = execBgeu t ra rb off s := rfl
@[simp] theorem exec_jal (t : Fin 512) (rd : Reg) (off : BitVec 21) (s : State) : exec (.jal t rd off) s = execJal t rd off s := rfl
@[simp] theorem exec_jalr (t : Fin 512) (rd ra : Reg) (imm : BitVec 16) (s : State) : exec (.jalr t rd ra imm) s = execJalr t rd ra imm s := rfl
@[simp] theorem exec_loop0 (t : Fin 512) (ra : Reg) (rsv : BitVec 4) (fin : BitVec 16) (s : State) : exec (.loop0 t ra rsv fin) s = execLoop0 t ra rsv fin s := rfl
@[simp] theorem exec_loop1 (t : Fin 512) (ra : Reg) (rsv : BitVec 4) (fin : BitVec 16) (s : State) : exec (.loop1 t ra rsv fin) s = execLoop1 t ra rsv fin s := rfl
@[simp] theorem exec_fetch (t : Fin 512) (rd ra rb : Reg) (s : State) : exec (.fetch t rd ra rb) s = execFetch t rd ra rb s := rfl
@[simp] theorem exec_postD (t : Fin 512) (rd ra rb : Reg) (s : State) : exec (.postD t rd ra rb) s = execPostD t rd ra rb s := rfl
@[simp] theorem exec_postDResult (t : Fin 512) (s : State) : exec (.postDResult t) s = execPostDResult t s := rfl
@[simp] theorem exec_postT (t : Fin 512) (rd ra rb : Reg) (s : State) : exec (.postT t rd ra rb) s = execPostT t rd ra rb s := rfl
@[simp] theorem exec_postStallRelease (t : Fin 512) (s : State) : exec (.postStallRelease t) s = execPostStallRelease t s := rfl
@[simp] theorem exec_done (t : Fin 512) (rd ra rb : Reg) (s : State) : exec (.done t rd ra rb) s = execDone t rd ra rb s := rfl
@[simp] theorem exec_fence (t : Fin 512) (rd ra rb : Reg) (s : State) : exec (.fence t rd ra rb) s = execFence t rd ra rb s := rfl
@[simp] theorem exec_eret (t : Fin 512) (rd ra rb : Reg) (s : State) : exec (.eret t rd ra rb) s = execEret t rd ra rb s := rfl
@[simp] theorem exec_brk (t : Fin 512) (rd ra rb : Reg) (s : State) : exec (.brk t rd ra rb) s = execBrk t rd ra rb s := rfl
@[simp] theorem exec_csrr (t : Fin 512) (rd ra : Reg) (csr : BitVec 12) (s : State) : exec (.csrr t rd ra csr) s = execCsrr t rd ra csr s := rfl
@[simp] theorem exec_csrw (t : Fin 512) (rd ra : Reg) (csr : BitVec 12) (s : State) : exec (.csrw t rd ra csr) s = execCsrw t rd ra csr s := rfl
@[simp] theorem exec_vsetvl (t : Fin 512) (rd ra rb : Reg) (rsv : BitVec 4) (vtype : BitVec 6) (s : State) : exec (.vsetvl t rd ra rb rsv vtype) s = execVsetvl t rd ra rb rsv vtype s := rfl
@[simp] theorem exec_vsetvlr (t : Fin 512) (rd ra rb : Reg) (rsv : BitVec 4) (vtype : BitVec 6) (s : State) : exec (.vsetvlr t rd ra rb rsv vtype) s = execVsetvlr t rd ra rb rsv vtype s := rfl
@[simp] theorem exec_vmul (t : Fin 512) (f : VA) (s : State) : exec (.vmul t f) s = execVmul t f s := rfl
@[simp] theorem exec_vmulq (t : Fin 512) (f : VA) (s : State) : exec (.vmulq t f) s = execVmulq t f s := rfl
@[simp] theorem exec_vmac (t : Fin 512) (f : VA) (s : State) : exec (.vmac t f) s = execVmac t f s := rfl
@[simp] theorem exec_vmacw (t : Fin 512) (f : VA) (s : State) : exec (.vmacw t f) s = execVmacw t f s := rfl
@[simp] theorem exec_vcmul (t : Fin 512) (f : VA) (s : State) : exec (.vcmul t f) s = execVcmul t f s := rfl
@[simp] theorem exec_vcmacw (t : Fin 512) (f : VA) (s : State) : exec (.vcmacw t f) s = execVcmacw t f s := rfl
@[simp] theorem exec_vcmacjw (t : Fin 512) (f : VA) (s : State) : exec (.vcmacjw t f) s = execVcmacjw t f s := rfl
@[simp] theorem exec_vcmac (t : Fin 512) (f : VA) (s : State) : exec (.vcmac t f) s = execVcmac t f s := rfl
@[simp] theorem exec_vadd (t : Fin 512) (f : VA) (s : State) : exec (.vadd t f) s = execVadd t f s := rfl
@[simp] theorem exec_vsub (t : Fin 512) (f : VA) (s : State) : exec (.vsub t f) s = execVsub t f s := rfl
@[simp] theorem exec_vand (t : Fin 512) (f : VA) (s : State) : exec (.vand t f) s = execVand t f s := rfl
@[simp] theorem exec_vor (t : Fin 512) (f : VA) (s : State) : exec (.vor t f) s = execVor t f s := rfl
@[simp] theorem exec_vxor (t : Fin 512) (f : VA) (s : State) : exec (.vxor t f) s = execVxor t f s := rfl
@[simp] theorem exec_vbsl (t : Fin 512) (f : VA) (s : State) : exec (.vbsl t f) s = execVbsl t f s := rfl
@[simp] theorem exec_vshl (t : Fin 512) (f : VA) (s : State) : exec (.vshl t f) s = execVshl t f s := rfl
@[simp] theorem exec_vshr (t : Fin 512) (f : VA) (s : State) : exec (.vshr t f) s = execVshr t f s := rfl
@[simp] theorem exec_vnshr (t : Fin 512) (f : VA) (s : State) : exec (.vnshr t f) s = execVnshr t f s := rfl
@[simp] theorem exec_vmax (t : Fin 512) (f : VA) (s : State) : exec (.vmax t f) s = execVmax t f s := rfl
@[simp] theorem exec_vmin (t : Fin 512) (f : VA) (s : State) : exec (.vmin t f) s = execVmin t f s := rfl
@[simp] theorem exec_vcmpeq (t : Fin 512) (f : VA) (s : State) : exec (.vcmpeq t f) s = execVcmpeq t f s := rfl
@[simp] theorem exec_vcmplt (t : Fin 512) (f : VA) (s : State) : exec (.vcmplt t f) s = execVcmplt t f s := rfl
@[simp] theorem exec_vcmple (t : Fin 512) (f : VA) (s : State) : exec (.vcmple t f) s = execVcmple t f s := rfl
@[simp] theorem exec_vconj (t : Fin 512) (f : VA) (s : State) : exec (.vconj t f) s = execVconj t f s := rfl
@[simp] theorem exec_vneg (t : Fin 512) (f : VA) (s : State) : exec (.vneg t f) s = execVneg t f s := rfl
@[simp] theorem exec_vcvtw (t : Fin 512) (f : VA) (s : State) : exec (.vcvtw t f) s = execVcvtw t f s := rfl
@[simp] theorem exec_vcvtn (t : Fin 512) (f : VA) (s : State) : exec (.vcvtn t f) s = execVcvtn t f s := rfl
@[simp] theorem exec_vmov (t : Fin 512) (f : VA) (s : State) : exec (.vmov t f) s = execVmov t f s := rfl
@[simp] theorem exec_vslidedn (t : Fin 512) (f : VA) (s : State) : exec (.vslidedn t f) s = execVslidedn t f s := rfl
@[simp] theorem exec_vslideup (t : Fin 512) (f : VA) (s : State) : exec (.vslideup t f) s = execVslideup t f s := rfl
@[simp] theorem exec_vperm (t : Fin 512) (f : VA) (s : State) : exec (.vperm t f) s = execVperm t f s := rfl
@[simp] theorem exec_vzip (t : Fin 512) (f : VA) (s : State) : exec (.vzip t f) s = execVzip t f s := rfl
@[simp] theorem exec_vunzip (t : Fin 512) (f : VA) (s : State) : exec (.vunzip t f) s = execVunzip t f s := rfl
@[simp] theorem exec_vredsum (t : Fin 512) (f : VA) (s : State) : exec (.vredsum t f) s = execVredsum t f s := rfl
@[simp] theorem exec_vmaxi (t : Fin 512) (f : VA) (s : State) : exec (.vmaxi t f) s = execVmaxi t f s := rfl
@[simp] theorem exec_vmini (t : Fin 512) (f : VA) (s : State) : exec (.vmini t f) s = execVmini t f s := rfl
@[simp] theorem exec_vld (t : Fin 512) (f : VM) (s : State) : exec (.vld t f) s = execVld t f s := rfl
@[simp] theorem exec_vst (t : Fin 512) (f : VM) (s : State) : exec (.vst t f) s = execVst t f s := rfl
@[simp] theorem exec_interruptEntry (t : Fin 512) (s : State) : exec (.interruptEntry t) s = execInterruptEntry t s := rfl
@[simp] theorem exec_tileRun (rq : Requester) (t : Fin 512) (run : Bool) (s : State) : exec (.tileRun rq t run) s = execTileRun rq t run s := rfl
@[simp] theorem exec_tileHalt (rq : Requester) (t : Fin 512) (halt : Bool) (s : State) : exec (.tileHalt rq t halt) s = execTileHalt rq t halt s := rfl
@[simp] theorem exec_tileNotify (rq : Requester) (t : Fin 512) (s : State) : exec (.tileNotify rq t) s = execTileNotify rq t s := rfl
@[simp] theorem exec_memoryAccess (a : MemAccess) (s : State) : exec (.memoryAccess a) s = execMemoryAccess a s := rfl
@[simp] theorem exec_dictWindowLoad (c : Fin 16) (m : PrivMode) (a : Addr) (bytes : Nat) (s : State) : exec (.dictWindowLoad c m a bytes) s = execDictWindowLoad c m a bytes s := rfl
@[simp] theorem exec_dictWindowStore (c : Fin 16) (m : PrivMode) (a : Addr) (bytes : Nat) (v : U64) (s : State) : exec (.dictWindowStore c m a bytes v) s = execDictWindowStore c m a bytes v s := rfl
@[simp] theorem exec_rcRead (rq : Requester) (o : Obj) (s : State) : exec (.rcRead rq o) s = execRcRead rq o s := rfl
@[simp] theorem exec_objectWrite (rq : Requester) (o : Obj) (v : U64) (s : State) : exec (.objectWrite rq o v) s = execObjectWrite rq o v s := rfl
@[simp] theorem exec_portPush (c : Fin 16) (v : U64) (s : State) : exec (.portPush c v) s = execPortPush c v s := rfl
@[simp] theorem exec_portDone (c : Fin 16) (handle : BitVec 32) (s : State) : exec (.portDone c handle) s = execPortDone c handle s := rfl
@[simp] theorem exec_portRingTailWrite (c : Fin 16) (v : U64) (s : State) : exec (.portRingTailWrite c v) s = execPortRingTailWrite c v s := rfl
@[simp] theorem exec_leashGrant (pt : Fin 160) (reqs : List LeashReq) (s : State) : exec (.leashGrant pt reqs) s = execLeashGrant pt reqs s := rfl
@[simp] theorem exec_leashStarve (pt : Fin 160) (r : Fin 24) (s : State) : exec (.leashStarve pt r) s = execLeashStarve pt r s := rfl
@[simp] theorem exec_requesterMask (r : Fin 24) (s : State) : exec (.requesterMask r) s = execRequesterMask r s := rfl
@[simp] theorem exec_requesterUnmask (r : Fin 24) (s : State) : exec (.requesterUnmask r) s = execRequesterUnmask r s := rfl
@[simp] theorem exec_dmaDoorbell (rq : Requester) (n : Fin 272) (s : State) : exec (.dmaDoorbell rq n) s = execDmaDoorbell rq n s := rfl
@[simp] theorem exec_dmaIssue (e : Fin 9) (s : State) : exec (.dmaIssue e) s = execDmaIssue e s := rfl
@[simp] theorem exec_dmaDescFetchDone (n : Fin 272) (r : BusAnswer) (s : State) : exec (.dmaDescFetchDone n r) s = execDmaDescFetchDone n r s := rfl
@[simp] theorem exec_dmaReadResponse (n : Fin 272) (r : BusAnswer) (s : State) : exec (.dmaReadResponse n r) s = execDmaReadResponse n r s := rfl
@[simp] theorem exec_dmaWriteResponse (n : Fin 272) (r : BusAnswer) (s : State) : exec (.dmaWriteResponse n r) s = execDmaWriteResponse n r s := rfl
@[simp] theorem exec_dmaDescComplete (n : Fin 272) (s : State) : exec (.dmaDescComplete n) s = execDmaDescComplete n s := rfl
@[simp] theorem exec_dmaTailPoll (n : Fin 272) (s : State) : exec (.dmaTailPoll n) s = execDmaTailPoll n s := rfl
@[simp] theorem exec_dmaResumeRetry (rq : Requester) (n : Fin 272) (index : BitVec 32) (s : State) : exec (.dmaResumeRetry rq n index) s = execDmaResumeRetry rq n index s := rfl
@[simp] theorem exec_dmaResumeNext (rq : Requester) (n : Fin 272) (index : BitVec 32) (s : State) : exec (.dmaResumeNext rq n index) s = execDmaResumeNext rq n index s := rfl
@[simp] theorem exec_dmaResumeStop (rq : Requester) (n : Fin 272) (index : BitVec 32) (s : State) : exec (.dmaResumeStop rq n index) s = execDmaResumeStop rq n index s := rfl
@[simp] theorem exec_dmaChannelDisable (rq : Requester) (n : Fin 272) (s : State) : exec (.dmaChannelDisable rq n) s = execDmaChannelDisable rq n s := rfl
@[simp] theorem exec_houndOccasionStart (e : Fin 8) (w : Fin 16) (s : State) : exec (.houndOccasionStart e w) s = execHoundOccasionStart e w s := rfl
@[simp] theorem exec_houndOccasionEnd (e : Fin 8) (w : Fin 16) (s : State) : exec (.houndOccasionEnd e w) s = execHoundOccasionEnd e w s := rfl
@[simp] theorem exec_houndEnergyWindow (e : Fin 8) (w : Fin 16) (s : State) : exec (.houndEnergyWindow e w) s = execHoundEnergyWindow e w s := rfl
@[simp] theorem exec_houndFloorEscape (e : Fin 8) (w : Fin 16) (s : State) : exec (.houndFloorEscape e w) s = execHoundFloorEscape e w s := rfl
@[simp] theorem exec_houndQualify (e : Fin 8) (w : Fin 16) (s : State) : exec (.houndQualify e w) s = execHoundQualify e w s := rfl
@[simp] theorem exec_houndLaneSymbol (e : Fin 8) (lane : Fin 16) (s : State) : exec (.houndLaneSymbol e lane) s = execHoundLaneSymbol e lane s := rfl
@[simp] theorem exec_houndLaneFade (e : Fin 8) (lane : Fin 16) (s : State) : exec (.houndLaneFade e lane) s = execHoundLaneFade e lane s := rfl
@[simp] theorem exec_houndTokenSend (e : Fin 8) (s : State) : exec (.houndTokenSend e) s = execHoundTokenSend e s := rfl
@[simp] theorem exec_verdictCrcFail (rq : Requester) (e : Fin 8) (tag : BitVec 32) (s : State) : exec (.verdictCrcFail rq e tag) s = execVerdictCrcFail rq e tag s := rfl
@[simp] theorem exec_verdictCwIncrease (rq : Requester) (e : Fin 8) (w : Fin 16) (s : State) : exec (.verdictCwIncrease rq e w) s = execVerdictCwIncrease rq e w s := rfl
@[simp] theorem exec_verdictCwReset (rq : Requester) (e : Fin 8) (w : Fin 16) (s : State) : exec (.verdictCwReset rq e w) s = execVerdictCwReset rq e w s := rfl
@[simp] theorem exec_senseSlot (e : Fin 8) (w : Fin 16) (s : State) : exec (.senseSlot e w) s = execSenseSlot e w s := rfl
@[simp] theorem exec_senseResult (e : Fin 8) (w : Fin 16) (s : State) : exec (.senseResult e w) s = execSenseResult e w s := rfl
@[simp] theorem exec_dftFwdCp (p : Fin 8) (k : Fin 4) (s : State) : exec (.dftFwdCp p k) s = execDftFwdCp p k s := rfl
@[simp] theorem exec_dftInvCp (p : Fin 8) (k : Fin 4) (s : State) : exec (.dftInvCp p k) s = execDftInvCp p k s := rfl
@[simp] theorem exec_dftFwd (p : Fin 8) (k : Fin 4) (s : State) : exec (.dftFwd p k) s = execDftFwd p k s := rfl
@[simp] theorem exec_dftInv (p : Fin 8) (k : Fin 4) (s : State) : exec (.dftInv p k) s = execDftInv p k s := rfl
@[simp] theorem exec_eqDetect (p : Fin 8) (k : Fin 2) (s : State) : exec (.eqDetect p k) s = execEqDetect p k s := rfl
@[simp] theorem exec_eqEqualize (p : Fin 8) (k : Fin 2) (s : State) : exec (.eqEqualize p k) s = execEqEqualize p k s := rfl
@[simp] theorem exec_eqDemap (p : Fin 8) (k : Fin 2) (s : State) : exec (.eqDemap p k) s = execEqDemap p k s := rfl
@[simp] theorem exec_bwCompute (p : Fin 8) (s : State) : exec (.bwCompute p) s = execBwCompute p s := rfl
@[simp] theorem exec_bwApply (p : Fin 8) (s : State) : exec (.bwApply p) s = execBwApply p s := rfl
@[simp] theorem exec_accelJobComplete (p : Fin 8) (k : Fin 17) (s : State) : exec (.accelJobComplete p k) s = execAccelJobComplete p k s := rfl
@[simp] theorem exec_ldDecode (p : Fin 8) (k : Fin 6) (s : State) : exec (.ldDecode p k) s = execLdDecode p k s := rfl
@[simp] theorem exec_ldTbcrc (p : Fin 8) (k : Fin 6) (s : State) : exec (.ldTbcrc p k) s = execLdTbcrc p k s := rfl
@[simp] theorem exec_leEncode (p : Fin 8) (k : Fin 2) (s : State) : exec (.leEncode p k) s = execLeEncode p k s := rfl
@[simp] theorem exec_tcDecode (p : Fin 8) (s : State) : exec (.tcDecode p) s = execTcDecode p s := rfl
@[simp] theorem exec_tcEncode (p : Fin 8) (s : State) : exec (.tcEncode p) s = execTcEncode p s := rfl
@[simp] theorem exec_tcTbcrc (p : Fin 8) (s : State) : exec (.tcTbcrc p) s = execTcTbcrc p s := rfl
@[simp] theorem exec_pcDecode (p : Fin 8) (s : State) : exec (.pcDecode p) s = execPcDecode p s := rfl
@[simp] theorem exec_pcEncode (p : Fin 8) (s : State) : exec (.pcEncode p) s = execPcEncode p s := rfl
@[simp] theorem exec_txSymbol (c : Fin 384) (n : Fin 4096) (l : Fin 14) (s : State) : exec (.txSymbol c n l) s = execTxSymbol c n l s := rfl
@[simp] theorem exec_txCfgEnable (rq : Requester) (c : Fin 384) (v : U64) (s : State) : exec (.txCfgEnable rq c v) s = execTxCfgEnable rq c v s := rfl
@[simp] theorem exec_flRingPoll (n : Fin 256) (s : State) : exec (.flRingPoll n) s = execFlRingPoll n s := rfl
@[simp] theorem exec_ulPdu (n : Fin 256) (s : State) : exec (.ulPdu n) s = execUlPdu n s := rfl
@[simp] theorem exec_dlBuild (n : Fin 256) (s : State) : exec (.dlBuild n) s = execDlBuild n s := rfl
@[simp] theorem exec_flowOpen (n : Fin 256) (s : State) : exec (.flowOpen n) s = execFlowOpen n s := rfl
@[simp] theorem exec_flowClose (n : Fin 256) (s : State) : exec (.flowClose n) s = execFlowClose n s := rfl
@[simp] theorem exec_flowFree (f : BitVec 20) (s : State) : exec (.flowFree f) s = execFlowFree f s := rfl
@[simp] theorem exec_keyInsert (n : Fin 256) (s : State) : exec (.keyInsert n) s = execKeyInsert n s := rfl
@[simp] theorem exec_keyDelete (n : Fin 256) (s : State) : exec (.keyDelete n) s = execKeyDelete n s := rfl
@[simp] theorem exec_ctxRead (n : Fin 256) (s : State) : exec (.ctxRead n) s = execCtxRead n s := rfl
@[simp] theorem exec_rekey (n : Fin 256) (s : State) : exec (.rekey n) s = execRekey n s := rfl
@[simp] theorem exec_reown (n : Fin 256) (s : State) : exec (.reown n) s = execReown n s := rfl
@[simp] theorem exec_gtpuDlPacket (m : Fin 128) (s : State) : exec (.gtpuDlPacket m) s = execGtpuDlPacket m s := rfl
@[simp] theorem exec_flowTimerExpiry (f : BitVec 20) (k : FlowTimer) (s : State) : exec (.flowTimerExpiry f k) s = execFlowTimerExpiry f k s := rfl
@[simp] theorem exec_flPartitionPurge (p : Fin 8) (s : State) : exec (.flPartitionPurge p) s = execFlPartitionPurge p s := rfl
@[simp] theorem exec_octetReconfigure (rq : Requester) (o : Fin 16) (v : U64) (s : State) : exec (.octetReconfigure rq o v) s = execOctetReconfigure rq o v s := rfl
@[simp] theorem exec_octetRestart (o : Fin 16) (s : State) : exec (.octetRestart o) s = execOctetRestart o s := rfl
@[simp] theorem exec_testRateChange (rq : Requester) (l : Fin 128) (v : U64) (s : State) : exec (.testRateChange rq l v) s = execTestRateChange rq l v s := rfl
@[simp] theorem exec_anResolve (l : Fin 128) (partner : BitVec 9) (fecReq : Bool) (s : State) : exec (.anResolve l partner fecReq) s = execAnResolve l partner fecReq s := rfl
@[simp] theorem exec_trainingDone (l : Fin 128) (s : State) : exec (.trainingDone l) s = execTrainingDone l s := rfl
@[simp] theorem exec_ltTimeoutDownshift (l : Fin 128) (s : State) : exec (.ltTimeoutDownshift l) s = execLtTimeoutDownshift l s := rfl
@[simp] theorem exec_anFullRestart (l : Fin 128) (s : State) : exec (.anFullRestart l) s = execAnFullRestart l s := rfl
@[simp] theorem exec_eyeStart (rq : Requester) (l : Fin 128) (v : U64) (s : State) : exec (.eyeStart rq l v) s = execEyeStart rq l v s := rfl
@[simp] theorem exec_eyePointDone (l : Fin 128) (mismatch : Nat) (s : State) : exec (.eyePointDone l mismatch) s = execEyePointDone l mismatch s := rfl
@[simp] theorem exec_laneSlip (rq : Requester) (l : Fin 128) (v : U64) (s : State) : exec (.laneSlip rq l v) s = execLaneSlip rq l v s := rfl
@[simp] theorem exec_slipDone (l : Fin 128) (s : State) : exec (.slipDone l) s = execSlipDone l s := rfl
@[simp] theorem exec_rxwordRead (rq : Requester) (l : Fin 128) (line : List Bool) (s : State) : exec (.rxwordRead rq l line) s = execRxwordRead rq l line s := rfl
@[simp] theorem exec_losDetect (l : Fin 128) (s : State) : exec (.losDetect l) s = execLosDetect l s := rfl
@[simp] theorem exec_cdrLockLoss (l : Fin 128) (s : State) : exec (.cdrLockLoss l) s = execCdrLockLoss l s := rfl
@[simp] theorem exec_ethRxFrame (m : Fin 128) (f : RxFrame) (s : State) : exec (.ethRxFrame m f) s = execEthRxFrame m f s := rfl
@[simp] theorem exec_fdbAgeOut (vid : BitVec 12) (mac : BitVec 48) (s : State) : exec (.fdbAgeOut vid mac) s = execFdbAgeOut vid mac s := rfl
@[simp] theorem exec_htxPoll (m : Fin 128) (s : State) : exec (.htxPoll m) s = execHtxPoll m s := rfl
@[simp] theorem exec_ethTxFrameStart (m : Fin 128) (s : State) : exec (.ethTxFrameStart m) s = execEthTxFrameStart m s := rfl
@[simp] theorem exec_txOverrun (m : Fin 128) (q : Fin 8) (s : State) : exec (.txOverrun m q) s = execTxOverrun m q s := rfl
@[simp] theorem exec_gclEntryBegin (m : Fin 128) (row : Fin 1024) (s : State) : exec (.gclEntryBegin m row) s = execGclEntryBegin m row s := rfl
@[simp] theorem exec_gclEntryEnd (m : Fin 128) (row : Fin 1024) (s : State) : exec (.gclEntryEnd m row) s = execGclEntryEnd m row s := rfl
@[simp] theorem exec_gclEnable (rq : Requester) (m : Fin 128) (v : U64) (s : State) : exec (.gclEnable rq m v) s = execGclEnable rq m v s := rfl
@[simp] theorem exec_fhTokenGroup (n : Fin 4096) (g : Fin 14) (s : State) : exec (.fhTokenGroup n g) s = execFhTokenGroup n g s := rfl
@[simp] theorem exec_fhSymbolWindowOpen (n : Fin 4096) (l : Fin 14) (s : State) : exec (.fhSymbolWindowOpen n l) s = execFhSymbolWindowOpen n l s := rfl
@[simp] theorem exec_fhSymbolWindowClose (n : Fin 4096) (l : Fin 14) (s : State) : exec (.fhSymbolWindowClose n l) s = execFhSymbolWindowClose n l s := rfl
@[simp] theorem exec_cplaneSend (c : Fin 384) (dl : Bool) (s : State) : exec (.cplaneSend c dl) s = execCplaneSend c dl s := rfl
@[simp] theorem exec_cpriHyperframe (k : Fin 32) (h : CpriHyper) (s : State) : exec (.cpriHyperframe k h) s = execCpriHyperframe k h s := rfl
@[simp] theorem exec_delayMeasureStart (rq : Requester) (m : Fin 128) (v : U64) (s : State) : exec (.delayMeasureStart rq m v) s = execDelayMeasureStart rq m v s := rfl
@[simp] theorem exec_delayTimeout (m : Fin 128) (s : State) : exec (.delayTimeout m) s = execDelayTimeout m s := rfl
@[simp] theorem exec_anchorRefetchDone (a : BitVec 55) (anchorOk : Bool) (s : State) : exec (.anchorRefetchDone a anchorOk) s = execAnchorRefetchDone a anchorOk s := rfl
@[simp] theorem exec_mergeFlush (port : Nat) (block : Nat) (s : State) : exec (.mergeFlush port block) s = execMergeFlush port block s := rfl
@[simp] theorem exec_groomerBlock (p : Fin 8) (upset : List Addr) (inner : List InnerWord) (s : State) : exec (.groomerBlock p upset inner) s = execGroomerBlock p upset inner s := rfl
@[simp] theorem exec_hbmScrubTransfer (r : HbmReport) (upset : List Addr) (inner : List InnerWord) (s : State) : exec (.hbmScrubTransfer r upset inner) s = execHbmScrubTransfer r upset inner s := rfl
@[simp] theorem exec_epClassClear (rq : Requester) (c : Fin 16) (s : State) : exec (.epClassClear rq c) s = execEpClassClear rq c s := rfl
@[simp] theorem exec_epErrorRecord (c : Fin 16) (s : State) : exec (.epErrorRecord c) s = execEpErrorRecord c s := rfl
@[simp] theorem exec_enberRead (m : EnberMsg) (s : State) : exec (.enberRead m) s = execEnberRead m s := rfl
@[simp] theorem exec_enberWrite (m : EnberMsg) (s : State) : exec (.enberWrite m) s = execEnberWrite m s := rfl
@[simp] theorem exec_enberTokenWrite (m : EnberMsg) (r : MramResult) (s : State) : exec (.enberTokenWrite m r) s = execEnberTokenWrite m r s := rfl
@[simp] theorem exec_enberReadBlock (m : EnberMsg) (s : State) : exec (.enberReadBlock m) s = execEnberReadBlock m s := rfl
@[simp] theorem exec_enberWriteBlock (m : EnberMsg) (s : State) : exec (.enberWriteBlock m) s = execEnberWriteBlock m s := rfl
@[simp] theorem exec_enberSubscribe (m : EnberMsg) (s : State) : exec (.enberSubscribe m) s = execEnberSubscribe m s := rfl
@[simp] theorem exec_enberCommit (m : EnberMsg) (s : State) : exec (.enberCommit m) s = execEnberCommit m s := rfl
@[simp] theorem exec_enberHello (m : EnberMsg) (s : State) : exec (.enberHello m) s = execEnberHello m s := rfl
@[simp] theorem exec_enberAuth (m : EnberMsg) (s : State) : exec (.enberAuth m) s = execEnberAuth m s := rfl
@[simp] theorem exec_notifySend (ix : Fin 16) (subid : BitVec 6) (s : State) : exec (.notifySend ix subid) s = execNotifySend ix subid s := rfl
@[simp] theorem exec_sessionIdleTimeout (ix : Fin 16) (s : State) : exec (.sessionIdleTimeout ix) s = execSessionIdleTimeout ix s := rfl
@[simp] theorem exec_handshakeExpiry (h : Fin 8) (s : State) : exec (.handshakeExpiry h) s = execHandshakeExpiry h s := rfl
@[simp] theorem exec_tokenCtlWrite (c : Fin 16) (m : PrivMode) (v : U64) (s : State) : exec (.tokenCtlWrite c m v) s = execTokenCtlWrite c m v s := rfl
@[simp] theorem exec_commitGo (c : Fin 16) (m : PrivMode) (v : U64) (s : State) : exec (.commitGo c m v) s = execCommitGo c m v s := rfl
@[simp] theorem exec_commitExecute (r : MramResult) (s : State) : exec (.commitExecute r) s = execCommitExecute r s := rfl
@[simp] theorem exec_odUnitReset (rq : Requester) (u : Fin 1024) (s : State) : exec (.odUnitReset rq u) s = execOdUnitReset rq u s := rfl
@[simp] theorem exec_odQuarantine (rq : Requester) (u : Fin 1024) (s : State) : exec (.odQuarantine rq u) s = execOdQuarantine rq u s := rfl
@[simp] theorem exec_odRelease (rq : Requester) (u : Fin 1024) (s : State) : exec (.odRelease rq u) s = execOdRelease rq u s := rfl
@[simp] theorem exec_resetRelease (s : State) : exec (.resetRelease) s = execResetRelease s := rfl
@[simp] theorem exec_partReset (rq : Requester) (p : Fin 8) (s : State) : exec (.partReset rq p) s = execPartReset rq p s := rfl
@[simp] theorem exec_partHold (rq : Requester) (p : Fin 8) (s : State) : exec (.partHold rq p) s = execPartHold rq p s := rfl
@[simp] theorem exec_partRelease (rq : Requester) (p : Fin 8) (s : State) : exec (.partRelease rq p) s = execPartRelease rq p s := rfl
@[simp] theorem exec_warmReset (rq : Requester) (s : State) : exec (.warmReset rq) s = execWarmReset rq s := rfl
@[simp] theorem exec_holdCommand (rq : Requester) (s : State) : exec (.holdCommand rq) s = execHoldCommand rq s := rfl
@[simp] theorem exec_pinReset (s : State) : exec (.pinReset) s = execPinReset s := rfl
@[simp] theorem exec_resetNRelease (bootsel : BitVec 3) (s : State) : exec (.resetNRelease bootsel) s = execResetNRelease bootsel s := rfl
@[simp] theorem exec_por (k : PorCause) (s : State) : exec (.por k) s = execPor k s := rfl
@[simp] theorem exec_pwrgoodRise (bootsel : BitVec 3) (s : State) : exec (.pwrgoodRise bootsel) s = execPwrgoodRise bootsel s := rfl
@[simp] theorem exec_selfTestDone (r : SelfTest) (s : State) : exec (.selfTestDone r) s = execSelfTestDone r s := rfl
@[simp] theorem exec_fwLoadDone (p : Fin 8) (flash : FlashHealth) (s : State) : exec (.fwLoadDone p flash) s = execFwLoadDone p flash s := rfl
@[simp] theorem exec_partitionReady (rq : Requester) (p : Fin 8) (s : State) : exec (.partitionReady rq p) s = execPartitionReady rq p s := rfl
@[simp] theorem exec_pwrRequest (rq : Requester) (u : Fin 1024) (v : U64) (s : State) : exec (.pwrRequest rq u v) s = execPwrRequest rq u v s := rfl
@[simp] theorem exec_pwrPartitionAck (rq : Requester) (p : Fin 8) (s : State) : exec (.pwrPartitionAck rq p) s = execPwrPartitionAck rq p s := rfl
@[simp] theorem exec_pwrPartitionRefuse (rq : Requester) (p : Fin 8) (s : State) : exec (.pwrPartitionRefuse rq p) s = execPwrPartitionRefuse rq p s := rfl
@[simp] theorem exec_pwrPackAck (p : Fin 8) (s : State) : exec (.pwrPackAck p) s = execPwrPackAck p s := rfl
@[simp] theorem exec_pwrPrepTimeout (s : State) : exec (.pwrPrepTimeout) s = execPwrPrepTimeout s := rfl
@[simp] theorem exec_hushIdleGate (p : Fin 8) (s : State) : exec (.hushIdleGate p) s = execHushIdleGate p s := rfl
@[simp] theorem exec_packP3Wake (p : Fin 8) (s : State) : exec (.packP3Wake p) s = execPackP3Wake p s := rfl
@[simp] theorem exec_guardLead (s : State) : exec (.guardLead) s = execGuardLead s := rfl
@[simp] theorem exec_guardListenEnd (s : State) : exec (.guardListenEnd) s = execGuardListenEnd s := rfl
@[simp] theorem exec_wakeGpioEdge (n : Fin 64) (rising : Bool) (s : State) : exec (.wakeGpioEdge n rising) s = execWakeGpioEdge n rising s := rfl
@[simp] theorem exec_wakeTimer (s : State) : exec (.wakeTimer) s = execWakeTimer s := rfl
@[simp] theorem exec_residencyHourCommit (s : State) : exec (.residencyHourCommit) s = execResidencyHourCommit s := rfl
@[simp] theorem exec_supplyWarn (r : Fin 10) (mv : Nat) (s : State) : exec (.supplyWarn r mv) s = execSupplyWarn r mv s := rfl
@[simp] theorem exec_supplyRecover (r : Fin 10) (minMv : Nat) (us : Nat) (s : State) : exec (.supplyRecover r minMv us) s = execSupplyRecover r minMv us s := rfl
@[simp] theorem exec_warnHoldExpiry (s : State) : exec (.warnHoldExpiry) s = execWarnHoldExpiry s := rfl
@[simp] theorem exec_thermalThrottle (sensor : Fin 16) (temp : BitVec 16) (s : State) : exec (.thermalThrottle sensor temp) s = execThermalThrottle sensor temp s := rfl
@[simp] theorem exec_thermalCrit (sensor : Fin 16) (temp : BitVec 16) (s : State) : exec (.thermalCrit sensor temp) s = execThermalCrit sensor temp s := rfl
@[simp] theorem exec_thermalLevelFall (sensor : Fin 16) (temp : BitVec 16) (s : State) : exec (.thermalLevelFall sensor temp) s = execThermalLevelFall sensor temp s := rfl
@[simp] theorem exec_thermalTrip (s : State) : exec (.thermalTrip) s = execThermalTrip s := rfl
@[simp] theorem exec_shdL0Expiry (x : L0Item) (s : State) : exec (.shdL0Expiry x) s = execShdL0Expiry x s := rfl
@[simp] theorem exec_shdL1Expiry (p : Fin 8) (entry : BitVec 15) (s : State) : exec (.shdL1Expiry p entry) s = execShdL1Expiry p entry s := rfl
@[simp] theorem exec_shdL2Expiry (c : Fin 384) (seq : BitVec 32) (s : State) : exec (.shdL2Expiry c seq) s = execShdL2Expiry c seq s := rfl
@[simp] theorem exec_shdL3Expiry (p : Fin 8) (s : State) : exec (.shdL3Expiry p) s = execShdL3Expiry p s := rfl
@[simp] theorem exec_shdL4Expiry (s : State) : exec (.shdL4Expiry) s = execShdL4Expiry s := rfl
@[simp] theorem exec_shdWindowReset (level : Fin 5) (x : ChargedUnit) (s : State) : exec (.shdWindowReset level x) s = execShdWindowReset level x s := rfl
@[simp] theorem exec_shdAbortUntaken (u : Fin 1024) (s : State) : exec (.shdAbortUntaken u) s = execShdAbortUntaken u s := rfl
@[simp] theorem exec_shdPet (rq : Requester) (p : Fin 8) (s : State) : exec (.shdPet rq p) s = execShdPet rq p s := rfl
@[simp] theorem exec_deviceCheck (ok : Bool) (s : State) : exec (.deviceCheck ok) s = execDeviceCheck ok s := rfl
@[simp] theorem exec_shdAutoReturn (u : Fin 1024) (s : State) : exec (.shdAutoReturn u) s = execShdAutoReturn u s := rfl
@[simp] theorem exec_retestDone (u : Fin 1024) (s : State) : exec (.retestDone u) s = execRetestDone u s := rfl
@[simp] theorem exec_terrierSegmentStart (p : Fin 9) (s : State) : exec (.terrierSegmentStart p) s = execTerrierSegmentStart p s := rfl
@[simp] theorem exec_terrierSignatureCheck (p : Fin 8) (s : State) : exec (.terrierSignatureCheck p) s = execTerrierSignatureCheck p s := rfl
@[simp] theorem exec_terrierMemStep (p : Fin 9) (bad : Option (BitVec 9)) (again : Fin 4) (lost : Option (Fin 8)) (s : State) : exec (.terrierMemStep p bad again lost) s = execTerrierMemStep p bad again lost s := rfl
@[simp] theorem exec_terrierRun (rq : Requester) (u : Fin 1024) (s : State) : exec (.terrierRun rq u) s = execTerrierRun rq u s := rfl
@[simp] theorem exec_evrMramWrite (s : State) : exec (.evrMramWrite) s = execEvrMramWrite s := rfl
@[simp] theorem exec_evrCursorWrite (rq : Requester) (v : U64) (s : State) : exec (.evrCursorWrite rq v) s = execEvrCursorWrite rq v s := rfl
@[simp] theorem exec_evrUserCtl (rq : Requester) (v : U64) (s : State) : exec (.evrUserCtl rq v) s = execEvrUserCtl rq v s := rfl
@[simp] theorem exec_opsecCommit (s : State) : exec (.opsecCommit) s = execOpsecCommit s := rfl
@[simp] theorem exec_carrierOwnerWrite (rq : Requester) (c : Fin 384) (owner : Byte) (s : State) : exec (.carrierOwnerWrite rq c owner) s = execCarrierOwnerWrite rq c owner s := rfl
@[simp] theorem exec_fwTrial (rq : Requester) (p : Fin 8) (s : State) : exec (.fwTrial rq p) s = execFwTrial rq p s := rfl
@[simp] theorem exec_fwConfirm (rq : Requester) (p : Fin 8) (s : State) : exec (.fwConfirm rq p) s = execFwConfirm rq p s := rfl
@[simp] theorem exec_fwAbandon (rq : Requester) (p : Fin 8) (s : State) : exec (.fwAbandon rq p) s = execFwAbandon rq p s := rfl
@[simp] theorem exec_fwTrialLimit (p : Fin 8) (s : State) : exec (.fwTrialLimit p) s = execFwTrialLimit p s := rfl
@[simp] theorem exec_flashErase (rq : Requester) (v : U64) (s : State) : exec (.flashErase rq v) s = execFlashErase rq v s := rfl
@[simp] theorem exec_flashProgram (rq : Requester) (v : U64) (s : State) : exec (.flashProgram rq v) s = execFlashProgram rq v s := rfl
@[simp] theorem exec_flashRead (rq : Requester) (v : U64) (s : State) : exec (.flashRead rq v) s = execFlashRead rq v s := rfl
@[simp] theorem exec_flashOpDone (ok : Bool) (s : State) : exec (.flashOpDone ok) s = execFlashOpDone ok s := rfl
@[simp] theorem exec_attestGo (rq : Requester) (v : U64) (s : State) : exec (.attestGo rq v) s = execAttestGo rq v s := rfl
@[simp] theorem exec_attestDone (rq : Requester) (s : State) : exec (.attestDone rq) s = execAttestDone rq s := rfl
@[simp] theorem exec_hoPair (rq : Requester) (n : Fin 16) (s : State) : exec (.hoPair rq n) s = execHoPair rq n s := rfl
@[simp] theorem exec_hoArm (rq : Requester) (n : Fin 16) (s : State) : exec (.hoArm rq n) s = execHoArm rq n s := rfl
@[simp] theorem exec_hoCancel (rq : Requester) (n : Fin 16) (s : State) : exec (.hoCancel rq n) s = execHoCancel rq n s := rfl
@[simp] theorem exec_hoClear (rq : Requester) (n : Fin 16) (s : State) : exec (.hoClear rq n) s = execHoClear rq n s := rfl
@[simp] theorem exec_hoPrecheck (n : Fin 16) (s : State) : exec (.hoPrecheck n) s = execHoPrecheck n s := rfl
@[simp] theorem exec_hoCut (n : Fin 16) (s : State) : exec (.hoCut n) s = execHoCut n s := rfl
@[simp] theorem exec_hoDrainEnd (n : Fin 16) (s : State) : exec (.hoDrainEnd n) s = execHoDrainEnd n s := rfl
@[simp] theorem exec_gplEnable (rq : Requester) (g : Fin 4) (v : U64) (s : State) : exec (.gplEnable rq g v) s = execGplEnable rq g v s := rfl
@[simp] theorem exec_gplLanesWrite (rq : Requester) (g : Fin 4) (v : U64) (s : State) : exec (.gplLanesWrite rq g v) s = execGplLanesWrite rq g v s := rfl
@[simp] theorem exec_gplHelloSend (g : Fin 4) (s : State) : exec (.gplHelloSend g) s = execGplHelloSend g s := rfl
@[simp] theorem exec_gplHello (g : Fin 4) (h : GplHello) (s : State) : exec (.gplHello g h) s = execGplHello g h s := rfl
@[simp] theorem exec_gplDataFlit (g : Fin 4) (f : GplFlit) (s : State) : exec (.gplDataFlit g f) s = execGplDataFlit g f s := rfl
@[simp] theorem exec_gplNak (g : Fin 4) (seq : Byte) (s : State) : exec (.gplNak g seq) s = execGplNak g seq s := rfl
@[simp] theorem exec_gplReplayTimeout (g : Fin 4) (s : State) : exec (.gplReplayTimeout g) s = execGplReplayTimeout g s := rfl
@[simp] theorem exec_gplTask (g : Fin 4) (part : BitVec 4) (words : List U64) (s : State) : exec (.gplTask g part words) s = execGplTask g part words s := rfl
@[simp] theorem exec_gplToken (g : Fin 4) (part : BitVec 4) (w0 : U64) (value : U64) (s : State) : exec (.gplToken g part w0 value) s = execGplToken g part w0 value s := rfl
@[simp] theorem exec_gplResult (g : Fin 4) (result : U64) (s : State) : exec (.gplResult g result) s = execGplResult g result s := rfl
@[simp] theorem exec_gplRdReq (g : Fin 4) (part : BitVec 4) (vc : Bool) (a : Addr) (bytes : Nat) (uncorrectable : Bool) (upset : List Addr) (s : State) : exec (.gplRdReq g part vc a bytes uncorrectable upset) s = execGplRdReq g part vc a bytes uncorrectable upset s := rfl
@[simp] theorem exec_gplRdData (g : Fin 4) (r : BusAnswer) (data : List (Byte × Bool)) (s : State) : exec (.gplRdData g r data) s = execGplRdData g r data s := rfl
@[simp] theorem exec_gplWrReq (g : Fin 4) (part : BitVec 4) (vc : Bool) (a : Addr) (data : List (Byte × Bool)) (s : State) : exec (.gplWrReq g part vc a data) s = execGplWrReq g part vc a data s := rfl
@[simp] theorem exec_gplWrRsp (g : Fin 4) (r : BusAnswer) (s : State) : exec (.gplWrRsp g r) s = execGplWrRsp g r s := rfl
@[simp] theorem exec_gplRelay (g : Fin 4) (m : RelayMsg) (s : State) : exec (.gplRelay g m) s = execGplRelay g m s := rfl
@[simp] theorem exec_gplLinkstat (g : Fin 4) (lo : BitVec 16) (hi : BitVec 16) (s : State) : exec (.gplLinkstat g lo hi) s = execGplLinkstat g lo hi s := rfl
@[simp] theorem exec_gplLinkDown (g : Fin 4) (why : LinkDownCause) (s : State) : exec (.gplLinkDown g why) s = execGplLinkDown g why s := rfl
@[simp] theorem exec_relayReq (rq : Requester) (v : U64) (s : State) : exec (.relayReq rq v) s = execRelayReq rq v s := rfl
@[simp] theorem exec_i2cWrite (rq : Requester) (ix : Fin 2) (v : U64) (s : State) : exec (.i2cWrite rq ix v) s = execI2cWrite rq ix v s := rfl
@[simp] theorem exec_i2cRead (rq : Requester) (ix : Fin 2) (v : U64) (s : State) : exec (.i2cRead rq ix v) s = execI2cRead rq ix v s := rfl
@[simp] theorem exec_i2cWriteRead (rq : Requester) (ix : Fin 2) (v : U64) (s : State) : exec (.i2cWriteRead rq ix v) s = execI2cWriteRead rq ix v s := rfl
@[simp] theorem exec_i2cDone (ix : Fin 2) (r : I2cResult) (s : State) : exec (.i2cDone ix r) s = execI2cDone ix r s := rfl
@[simp] theorem exec_cdrLockAcquire (l : Fin 128) (s : State) : exec (.cdrLockAcquire l) s = execCdrLockAcquire l s := rfl
@[simp] theorem exec_blockLockLoss (l : Fin 128) (s : State) : exec (.blockLockLoss l) s = execBlockLockLoss l s := rfl
@[simp] theorem exec_cpriLossOfFrame (k : Fin 32) (s : State) : exec (.cpriLossOfFrame k) s = execCpriLossOfFrame k s := rfl
@[simp] theorem exec_txGateClose (c : Fin 384) (s : State) : exec (.txGateClose c) s = execTxGateClose c s := rfl
@[simp] theorem exec_tokenCheckDone (c : Fin 16) (r : MramResult) (s : State) : exec (.tokenCheckDone c r) s = execTokenCheckDone c r s := rfl
@[simp] theorem exec_mgmtPortFrame (f : MgmtFrame) (s : State) : exec (.mgmtPortFrame f) s = execMgmtPortFrame f s := rfl
@[simp] theorem exec_prbsCheckerLock (l : Fin 128) (errors : Nat) (s : State) : exec (.prbsCheckerLock l errors) s = execPrbsCheckerLock l errors s := rfl

end Sys2Proof.Machine
end

