-- ==== Sys2Proof/Laws/Memory.lean ====
section
/-!
SUPPORT. Memory.lean: memory reads back what was stored, a store leaves every other byte alone, and every memory operation keeps the
canonical form.
-/
namespace Sys2Proof.Machine

theorem memWfFrom_mono {m : List Host.Cell} {a b : Nat} (h : memWfFrom b m = true) (hab : a ≤ b) : memWfFrom a m = true := by
  cases m with
  | nil => rfl
  | cons e r =>
    obtain ⟨i, c⟩ := e
    simp only [memWfFrom, Bool.and_eq_true, decide_eq_true_eq] at h ⊢
    exact ⟨⟨by omega, h.1.2⟩, h.2⟩

theorem memGet_of_lt {m : List Host.Cell} {lo a : Nat} (h : memWfFrom lo m = true) (ha : a < lo) : memGet m a = memDefault := by
  induction m generalizing lo with
  | nil => rfl
  | cons e r ih =>
    obtain ⟨i, c⟩ := e
    simp only [memWfFrom, Bool.and_eq_true, decide_eq_true_eq] at h
    have : i ≠ a := by omega
    simp only [memGet, this, if_false]
    exact ih h.2 (by omega)

theorem memWfFrom_memSet {m : List Host.Cell} {lo a : Nat} (b : Byte) (h : memWfFrom lo m = true) (ha : lo ≤ a) :
    memWfFrom lo (memSet m a b) = true := by
  induction m generalizing lo with
  | nil =>
    unfold memSet
    split
    · rfl
    · simp [memWfFrom, *]
  | cons e r ih =>
    obtain ⟨i, c⟩ := e
    have h' := h
    simp only [memWfFrom, Bool.and_eq_true, decide_eq_true_eq] at h
    unfold memSet
    split
    · split
      · exact h'
      · simp [memWfFrom, *]
    · split
      · subst_vars
        split
        · exact memWfFrom_mono h.2 (by omega)
        · simp [memWfFrom, *]
      · simp only [memWfFrom, Bool.and_eq_true, decide_eq_true_eq]
        exact ⟨h.1, ih h.2 (by omega)⟩

/-- A store of one byte keeps the canonical form. -/
theorem Memory.wf_memSet {m : List Host.Cell} (h : Memory.wf m = true) (a : Nat) (b : Byte) : Memory.wf (memSet m a b) = true :=
  memWfFrom_memSet b h (Nat.zero_le a)

/-- A store of bytes keeps the canonical form. -/
theorem Memory.wf_memSetBytes {m : List Host.Cell} (h : Memory.wf m = true) (a : Nat) (bs : List Byte) :
    Memory.wf (memSetBytes m a bs) = true := by
  induction bs generalizing m a with
  | nil => exact h
  | cons b r ih => exact ih (Memory.wf_memSet h a b) (a + 1)

@[simp] theorem Memory.wf_nil : Memory.wf [] = true := rfl

theorem memGet_memSet_self {m : List Host.Cell} {lo : Nat} (h : memWfFrom lo m = true) (a : Nat) (b : Byte) :
    memGet (memSet m a b) a = b := by
  induction m generalizing lo with
  | nil => unfold memSet; split <;> simp [memGet, *]
  | cons e r ih =>
    obtain ⟨i, c⟩ := e
    have h' := h
    simp only [memWfFrom, Bool.and_eq_true, decide_eq_true_eq] at h
    unfold memSet
    split
    · split
      · rename_i hlt hb
        rw [hb]
        have hne : i ≠ a := by omega
        simp only [memGet, hne, if_false]
        exact memGet_of_lt h.2 (by omega)
      · simp [memGet]
    · split
      · subst_vars
        split
        · rename_i hb; rw [hb]; exact memGet_of_lt h.2 (by omega)
        · simp [memGet]
      · have hne : i ≠ a := by omega
        simp only [memGet, hne, if_false]
        exact ih h.2

/-- A store leaves every other byte alone. -/
theorem memGet_memSet_ne (m : List Host.Cell) {a x : Nat} (b : Byte) (hx : x ≠ a) : memGet (memSet m a b) x = memGet m x := by
  induction m with
  | nil => unfold memSet; split <;> simp [memGet, Ne.symm hx]
  | cons e r ih =>
    obtain ⟨i, c⟩ := e
    unfold memSet
    split
    · split
      · rfl
      · simp [memGet, Ne.symm hx]
    · split
      · subst_vars
        split <;> simp [memGet, Ne.symm hx]
      · simp [memGet, ih]

/-- A store of bytes leaves every byte outside them alone. -/
theorem memGet_memSetBytes_out (m : List Host.Cell) (a x : Nat) (bs : List Byte) (h : x < a ∨ a + bs.length ≤ x) :
    memGet (memSetBytes m a bs) x = memGet m x := by
  induction bs generalizing m a with
  | nil => rfl
  | cons b r ih =>
    simp only [memSetBytes]
    rw [ih (memSet m a b) (a + 1) (by simp at h ⊢; omega)]
    exact memGet_memSet_ne m b (by simp at h; omega)

/-- A state's store keeps the canonical form. -/
theorem State.store_wf {s : State} (h : Memory.wf s.mem = true) (a : Nat) (bs : List Byte) : Memory.wf (s.store a bs).mem = true :=
  Memory.wf_memSetBytes h a bs

/-- A marking leaves every byte of memory alone. -/
@[simp] theorem State.markByte_mem (s : State) (a : Nat) : (s.markByte a).mem = s.mem := by
  simp only [State.markByte]
  repeat' split
  all_goals rfl

@[simp] theorem State.markBytes_mem (s : State) (a : Nat) (ms : List Bool) : (s.markBytes a ms).mem = s.mem := by
  induction ms generalizing s a with
  | nil => rfl
  | cons m r ih =>
    rw [State.markBytes, ih]
    split <;> simp

/-- A store of marked bytes keeps the canonical form. -/
theorem State.storeMarks_wf {s : State} (h : Memory.wf s.mem = true) (a : Nat) (bs : List (Byte × Bool)) :
    Memory.wf (s.storeMarks a bs).mem = true := by
  rw [State.storeMarks, State.markBytes_mem]
  exact State.store_wf h a _

theorem State.storeMarked_wf {s : State} (h : Memory.wf s.mem = true) (a : Nat) (bs : List Byte) (p : Bool) :
    Memory.wf (s.storeMarked a bs p).mem = true := State.storeMarks_wf h a _

/-- A state's store leaves every byte outside the bytes stored alone. -/
theorem State.byte_store_out (s : State) (a x : Nat) (bs : List Byte) (h : x < a ∨ a + bs.length ≤ x) :
    (s.store a bs).byte x = s.byte x := memGet_memSetBytes_out s.mem a x bs h

end Sys2Proof.Machine
end

