-- ==== Sys2Proof/Laws/State.lean ====
section
/-!
SUPPORT. State.lean: the shared updates of State, one lemma for each field that an update leaves alone, and what it makes of the field
it changes.
-/
namespace Sys2Proof.Machine

/-! `State.setEnt` -/

@[simp] theorem State.setEnt_pending (s : State) (k : Nat) (v : U64) : (s.setEnt k v).pending = s.pending := rfl
@[simp] theorem State.setEnt_bank (s : State) (k : Nat) (v : U64) : (s.setEnt k v).bank = s.bank := rfl
@[simp] theorem State.setEnt_hold (s : State) (k : Nat) (v : U64) : (s.setEnt k v).hold = s.hold := rfl
@[simp] theorem State.setEnt_staging (s : State) (k : Nat) (v : U64) : (s.setEnt k v).staging = s.staging := rfl
@[simp] theorem State.setEnt_mem (s : State) (k : Nat) (v : U64) : (s.setEnt k v).mem = s.mem := rfl
@[simp] theorem State.setEnt_poison (s : State) (k : Nat) (v : U64) : (s.setEnt k v).poison = s.poison := rfl
@[simp] theorem State.setEnt_fresh (s : State) (k : Nat) (v : U64) : (s.setEnt k v).fresh = s.fresh := rfl
@[simp] theorem State.setEnt_merges (s : State) (k : Nat) (v : U64) : (s.setEnt k v).merges = s.merges := rfl
@[simp] theorem State.setEnt_refetch (s : State) (k : Nat) (v : U64) : (s.setEnt k v).refetch = s.refetch := rfl
@[simp] theorem State.setEnt_raw (s : State) (k : Nat) (v : U64) : (s.setEnt k v).raw = s.raw := rfl
@[simp] theorem State.setEnt_tbWrites (s : State) (k : Nat) (v : U64) : (s.setEnt k v).tbWrites = s.tbWrites := rfl
@[simp] theorem State.setEnt_capSlots (s : State) (k : Nat) (v : U64) : (s.setEnt k v).capSlots = s.capSlots := rfl
@[simp] theorem State.setEnt_capFifo (s : State) (k : Nat) (v : U64) : (s.setEnt k v).capFifo = s.capFifo := rfl
@[simp] theorem State.setEnt_capPopped (s : State) (k : Nat) (v : U64) : (s.setEnt k v).capPopped = s.capPopped := rfl
@[simp] theorem State.setEnt_live (s : State) (k : Nat) (v : U64) : (s.setEnt k v).live = s.live := rfl
@[simp] theorem State.setEnt_trig (s : State) (k : Nat) (v : U64) : (s.setEnt k v).trig = s.trig := rfl
@[simp] theorem State.setEnt_slotDue (s : State) (k : Nat) (v : U64) : (s.setEnt k v).slotDue = s.slotDue := rfl
@[simp] theorem State.setEnt_refLostRaw (s : State) (k : Nat) (v : U64) : (s.setEnt k v).refLostRaw = s.refLostRaw := rfl
@[simp] theorem State.setEnt_ppsRaw (s : State) (k : Nat) (v : U64) : (s.setEnt k v).ppsRaw = s.ppsRaw := rfl
@[simp] theorem State.setEnt_synceLow (s : State) (k : Nat) (v : U64) : (s.setEnt k v).synceLow = s.synceLow := rfl
@[simp] theorem State.setEnt_kennel (s : State) (k : Nat) (v : U64) : (s.setEnt k v).kennel = s.kennel := rfl
@[simp] theorem State.setEnt_outq (s : State) (k : Nat) (v : U64) : (s.setEnt k v).outq = s.outq := rfl
@[simp] theorem State.setEnt_carrier (s : State) (k : Nat) (v : U64) : (s.setEnt k v).carrier = s.carrier := rfl
@[simp] theorem State.setEnt_tile (s : State) (k : Nat) (v : U64) : (s.setEnt k v).tile = s.tile := rfl
@[simp] theorem State.setEnt_packStop (s : State) (k : Nat) (v : U64) : (s.setEnt k v).packStop = s.packStop := rfl
@[simp] theorem State.setEnt_core (s : State) (k : Nat) (v : U64) : (s.setEnt k v).core = s.core := rfl
@[simp] theorem State.setEnt_port (s : State) (k : Nat) (v : U64) : (s.setEnt k v).port = s.port := rfl
@[simp] theorem State.setEnt_irq (s : State) (k : Nat) (v : U64) : (s.setEnt k v).irq = s.irq := rfl
@[simp] theorem State.setEnt_chan (s : State) (k : Nat) (v : U64) : (s.setEnt k v).chan = s.chan := rfl
@[simp] theorem State.setEnt_engine (s : State) (k : Nat) (v : U64) : (s.setEnt k v).engine = s.engine := rfl
@[simp] theorem State.setEnt_point (s : State) (k : Nat) (v : U64) : (s.setEnt k v).point = s.point := rfl
@[simp] theorem State.setEnt_masked (s : State) (k : Nat) (v : U64) : (s.setEnt k v).masked = s.masked := rfl
@[simp] theorem State.setEnt_stackIntlv (s : State) (k : Nat) (v : U64) : (s.setEnt k v).stackIntlv = s.stackIntlv := rfl
@[simp] theorem State.setEnt_mgtRuns (s : State) (k : Nat) (v : U64) : (s.setEnt k v).mgtRuns = s.mgtRuns := rfl
@[simp] theorem State.setEnt_hound (s : State) (k : Nat) (v : U64) : (s.setEnt k v).hound = s.hound := rfl
@[simp] theorem State.setEnt_job (s : State) (k : Nat) (v : U64) : (s.setEnt k v).job = s.job := rfl
@[simp] theorem State.setEnt_accelBusy (s : State) (k : Nat) (v : U64) : (s.setEnt k v).accelBusy = s.accelBusy := rfl
@[simp] theorem State.setEnt_tx (s : State) (k : Nat) (v : U64) : (s.setEnt k v).tx = s.tx := rfl
@[simp] theorem State.setEnt_txGates (s : State) (k : Nat) (v : U64) : (s.setEnt k v).txGates = s.txGates := rfl
@[simp] theorem State.setEnt_paChecks (s : State) (k : Nat) (v : U64) : (s.setEnt k v).paChecks = s.paChecks := rfl
@[simp] theorem State.setEnt_bank8 (s : State) (k : Nat) (v : U64) : (s.setEnt k v).bank8 = s.bank8 := rfl
@[simp] theorem State.setEnt_lateSlot (s : State) (k : Nat) (v : U64) : (s.setEnt k v).lateSlot = s.lateSlot := rfl
@[simp] theorem State.setEnt_decode (s : State) (k : Nat) (v : U64) : (s.setEnt k v).decode = s.decode := rfl
@[simp] theorem State.setEnt_flow (s : State) (k : Nat) (v : U64) : (s.setEnt k v).flow = s.flow := rfl
@[simp] theorem State.setEnt_stash (s : State) (k : Nat) (v : U64) : (s.setEnt k v).stash = s.stash := rfl
@[simp] theorem State.setEnt_ringTaken (s : State) (k : Nat) (v : U64) : (s.setEnt k v).ringTaken = s.ringTaken := rfl
@[simp] theorem State.setEnt_ctxCache (s : State) (k : Nat) (v : U64) : (s.setEnt k v).ctxCache = s.ctxCache := rfl
@[simp] theorem State.setEnt_laneAdv (s : State) (k : Nat) (v : U64) : (s.setEnt k v).laneAdv = s.laneAdv := rfl
@[simp] theorem State.setEnt_sdref (s : State) (k : Nat) (v : U64) : (s.setEnt k v).sdref = s.sdref := rfl
@[simp] theorem State.setEnt_laneIdle (s : State) (k : Nat) (v : U64) : (s.setEnt k v).laneIdle = s.laneIdle := rfl
@[simp] theorem State.setEnt_laneAt (s : State) (k : Nat) (v : U64) : (s.setEnt k v).laneAt = s.laneAt := rfl
@[simp] theorem State.setEnt_rx (s : State) (k : Nat) (v : U64) : (s.setEnt k v).rx = s.rx := rfl
@[simp] theorem State.setEnt_mac (s : State) (k : Nat) (v : U64) : (s.setEnt k v).mac = s.mac := rfl
@[simp] theorem State.setEnt_stream (s : State) (k : Nat) (v : U64) : (s.setEnt k v).stream = s.stream := rfl
@[simp] theorem State.setEnt_cpriTx (s : State) (k : Nat) (v : U64) : (s.setEnt k v).cpriTx = s.cpriTx := rfl
@[simp] theorem State.setEnt_cpSent (s : State) (k : Nat) (v : U64) : (s.setEnt k v).cpSent = s.cpSent := rfl
@[simp] theorem State.setEnt_fdb (s : State) (k : Nat) (v : U64) : (s.setEnt k v).fdb = s.fdb := rfl
@[simp] theorem State.setEnt_epTold (s : State) (k : Nat) (v : U64) : (s.setEnt k v).epTold = s.epTold := rfl
@[simp] theorem State.setEnt_epTime (s : State) (k : Nat) (v : U64) : (s.setEnt k v).epTime = s.epTime := rfl
@[simp] theorem State.setEnt_session (s : State) (k : Nat) (v : U64) : (s.setEnt k v).session = s.session := rfl
@[simp] theorem State.setEnt_handshake (s : State) (k : Nat) (v : U64) : (s.setEnt k v).handshake = s.handshake := rfl
@[simp] theorem State.setEnt_idsGiven (s : State) (k : Nat) (v : U64) : (s.setEnt k v).idsGiven = s.idsGiven := rfl
@[simp] theorem State.setEnt_ephGiven (s : State) (k : Nat) (v : U64) : (s.setEnt k v).ephGiven = s.ephGiven := rfl
@[simp] theorem State.setEnt_commits (s : State) (k : Nat) (v : U64) : (s.setEnt k v).commits = s.commits := rfl
@[simp] theorem State.setEnt_mramWaits (s : State) (k : Nat) (v : U64) : (s.setEnt k v).mramWaits = s.mramWaits := rfl
@[simp] theorem State.setEnt_nvA (s : State) (k : Nat) (v : U64) : (s.setEnt k v).nvA = s.nvA := rfl
@[simp] theorem State.setEnt_nvB (s : State) (k : Nat) (v : U64) : (s.setEnt k v).nvB = s.nvB := rfl
@[simp] theorem State.setEnt_unit (s : State) (k : Nat) (v : U64) : (s.setEnt k v).unit = s.unit := rfl
@[simp] theorem State.setEnt_packPower (s : State) (k : Nat) (v : U64) : (s.setEnt k v).packPower = s.packPower := rfl
@[simp] theorem State.setEnt_packReq (s : State) (k : Nat) (v : U64) : (s.setEnt k v).packReq = s.packReq := rfl
@[simp] theorem State.setEnt_pwr (s : State) (k : Nat) (v : U64) : (s.setEnt k v).pwr = s.pwr := rfl
@[simp] theorem State.setEnt_dev (s : State) (k : Nat) (v : U64) : (s.setEnt k v).dev = s.dev := rfl
@[simp] theorem State.setEnt_guardLead (s : State) (k : Nat) (v : U64) : (s.setEnt k v).guardLead = s.guardLead := rfl
@[simp] theorem State.setEnt_guardAt (s : State) (k : Nat) (v : U64) : (s.setEnt k v).guardAt = s.guardAt := rfl
@[simp] theorem State.setEnt_thermalDormant (s : State) (k : Nat) (v : U64) : (s.setEnt k v).thermalDormant = s.thermalDormant := rfl
@[simp] theorem State.setEnt_warn (s : State) (k : Nat) (v : U64) : (s.setEnt k v).warn = s.warn := rfl
@[simp] theorem State.setEnt_warnSince (s : State) (k : Nat) (v : U64) : (s.setEnt k v).warnSince = s.warnSince := rfl
@[simp] theorem State.setEnt_railLow (s : State) (k : Nat) (v : U64) : (s.setEnt k v).railLow = s.railLow := rfl
@[simp] theorem State.setEnt_dips (s : State) (k : Nat) (v : U64) : (s.setEnt k v).dips = s.dips := rfl
@[simp] theorem State.setEnt_packIdleFor (s : State) (k : Nat) (v : U64) : (s.setEnt k v).packIdleFor = s.packIdleFor := rfl
@[simp] theorem State.setEnt_sleepRaw (s : State) (k : Nat) (v : U64) : (s.setEnt k v).sleepRaw = s.sleepRaw := rfl
@[simp] theorem State.setEnt_emergencies (s : State) (k : Nat) (v : U64) : (s.setEnt k v).emergencies = s.emergencies := rfl
@[simp] theorem State.setEnt_hourTold (s : State) (k : Nat) (v : U64) : (s.setEnt k v).hourTold = s.hourTold := rfl
@[simp] theorem State.setEnt_opsecHour (s : State) (k : Nat) (v : U64) : (s.setEnt k v).opsecHour = s.opsecHour := rfl
@[simp] theorem State.setEnt_resTold (s : State) (k : Nat) (v : U64) : (s.setEnt k v).resTold = s.resTold := rfl
@[simp] theorem State.setEnt_resetJob (s : State) (k : Nat) (v : U64) : (s.setEnt k v).resetJob = s.resetJob := rfl
@[simp] theorem State.setEnt_aonPor (s : State) (k : Nat) (v : U64) : (s.setEnt k v).aonPor = s.aonPor := rfl
@[simp] theorem State.setEnt_bootRaw (s : State) (k : Nat) (v : U64) : (s.setEnt k v).bootRaw = s.bootRaw := rfl
@[simp] theorem State.setEnt_bootsel (s : State) (k : Nat) (v : U64) : (s.setEnt k v).bootsel = s.bootsel := rfl
@[simp] theorem State.setEnt_loadQueue (s : State) (k : Nat) (v : U64) : (s.setEnt k v).loadQueue = s.loadQueue := rfl
@[simp] theorem State.setEnt_loadSlot (s : State) (k : Nat) (v : U64) : (s.setEnt k v).loadSlot = s.loadSlot := rfl
@[simp] theorem State.setEnt_trialStart (s : State) (k : Nat) (v : U64) : (s.setEnt k v).trialStart = s.trialStart := rfl
@[simp] theorem State.setEnt_l2 (s : State) (k : Nat) (v : U64) : (s.setEnt k v).l2 = s.l2 := rfl
@[simp] theorem State.setEnt_shdTold (s : State) (k : Nat) (v : U64) : (s.setEnt k v).shdTold = s.shdTold := rfl
@[simp] theorem State.setEnt_shdPart (s : State) (k : Nat) (v : U64) : (s.setEnt k v).shdPart = s.shdPart := rfl
@[simp] theorem State.setEnt_petRaw (s : State) (k : Nat) (v : U64) : (s.setEnt k v).petRaw = s.petRaw := rfl
@[simp] theorem State.setEnt_l4Last (s : State) (k : Nat) (v : U64) : (s.setEnt k v).l4Last = s.l4Last := rfl
@[simp] theorem State.setEnt_checkRaw (s : State) (k : Nat) (v : U64) : (s.setEnt k v).checkRaw = s.checkRaw := rfl
@[simp] theorem State.setEnt_postNext (s : State) (k : Nat) (v : U64) : (s.setEnt k v).postNext = s.postNext := rfl
@[simp] theorem State.setEnt_segment (s : State) (k : Nat) (v : U64) : (s.setEnt k v).segment = s.segment := rfl
@[simp] theorem State.setEnt_segNext (s : State) (k : Nat) (v : U64) : (s.setEnt k v).segNext = s.segNext := rfl
@[simp] theorem State.setEnt_segHead (s : State) (k : Nat) (v : U64) : (s.setEnt k v).segHead = s.segHead := rfl
@[simp] theorem State.setEnt_retests (s : State) (k : Nat) (v : U64) : (s.setEnt k v).retests = s.retests := rfl
@[simp] theorem State.setEnt_walkRaw (s : State) (k : Nat) (v : U64) : (s.setEnt k v).walkRaw = s.walkRaw := rfl
@[simp] theorem State.setEnt_staged (s : State) (k : Nat) (v : U64) : (s.setEnt k v).staged = s.staged := rfl
@[simp] theorem State.setEnt_lostRun (s : State) (k : Nat) (v : U64) : (s.setEnt k v).lostRun = s.lostRun := rfl
@[simp] theorem State.setEnt_lostFirst (s : State) (k : Nat) (v : U64) : (s.setEnt k v).lostFirst = s.lostFirst := rfl
@[simp] theorem State.setEnt_evSeq (s : State) (k : Nat) (v : U64) : (s.setEnt k v).evSeq = s.evSeq := rfl
@[simp] theorem State.setEnt_ring (s : State) (k : Nat) (v : U64) : (s.setEnt k v).ring = s.ring := rfl
@[simp] theorem State.setEnt_ringBlock (s : State) (k : Nat) (v : U64) : (s.setEnt k v).ringBlock = s.ringBlock := rfl
@[simp] theorem State.setEnt_ringOff (s : State) (k : Nat) (v : U64) : (s.setEnt k v).ringOff = s.ringOff := rfl
@[simp] theorem State.setEnt_opsec (s : State) (k : Nat) (v : U64) : (s.setEnt k v).opsec = s.opsec := rfl
@[simp] theorem State.setEnt_pwrcycSt (s : State) (k : Nat) (v : U64) : (s.setEnt k v).pwrcycSt = s.pwrcycSt := rfl
@[simp] theorem State.setEnt_hoT (s : State) (k : Nat) (v : U64) : (s.setEnt k v).hoT = s.hoT := rfl
@[simp] theorem State.setEnt_hoChecked (s : State) (k : Nat) (v : U64) : (s.setEnt k v).hoChecked = s.hoChecked := rfl
@[simp] theorem State.setEnt_flash (s : State) (k : Nat) (v : U64) : (s.setEnt k v).flash = s.flash := rfl
@[simp] theorem State.setEnt_flashOp (s : State) (k : Nat) (v : U64) : (s.setEnt k v).flashOp = s.flashOp := rfl
@[simp] theorem State.setEnt_gelpel (s : State) (k : Nat) (v : U64) : (s.setEnt k v).gelpel = s.gelpel := rfl
@[simp] theorem State.setEnt_padIn (s : State) (k : Nat) (v : U64) : (s.setEnt k v).padIn = s.padIn := rfl
@[simp] theorem State.setEnt_ppsOut (s : State) (k : Nat) (v : U64) : (s.setEnt k v).ppsOut = s.ppsOut := rfl
@[simp] theorem State.setEnt_heartbeat (s : State) (k : Nat) (v : U64) : (s.setEnt k v).heartbeat = s.heartbeat := rfl
@[simp] theorem State.setEnt_heartHz (s : State) (k : Nat) (v : U64) : (s.setEnt k v).heartHz = s.heartHz := rfl
@[simp] theorem State.setEnt_faultN (s : State) (k : Nat) (v : U64) : (s.setEnt k v).faultN = s.faultN := rfl
@[simp] theorem State.setEnt_thermTrip (s : State) (k : Nat) (v : U64) : (s.setEnt k v).thermTrip = s.thermTrip := rfl
@[simp] theorem State.setEnt_pwrgood (s : State) (k : Nat) (v : U64) : (s.setEnt k v).pwrgood = s.pwrgood := rfl
@[simp] theorem State.setEnt_resetN (s : State) (k : Nat) (v : U64) : (s.setEnt k v).resetN = s.resetN := rfl
@[simp] theorem State.setEnt_trstN (s : State) (k : Nat) (v : U64) : (s.setEnt k v).trstN = s.trstN := rfl
@[simp] theorem State.setEnt_uart (s : State) (k : Nat) (v : U64) : (s.setEnt k v).uart = s.uart := rfl
@[simp] theorem State.setEnt_clocksStopped (s : State) (k : Nat) (v : U64) : (s.setEnt k v).clocksStopped = s.clocksStopped := rfl
@[simp] theorem State.setEnt_i2cBusy (s : State) (k : Nat) (v : U64) : (s.setEnt k v).i2cBusy = s.i2cBusy := rfl
@[simp] theorem State.setEnt_reply (s : State) (k : Nat) (v : U64) : (s.setEnt k v).reply = s.reply := rfl
@[simp] theorem State.setEnt_mgmtOut (s : State) (k : Nat) (v : U64) : (s.setEnt k v).mgmtOut = s.mgmtOut := rfl
@[simp] theorem State.setEnt_notes (s : State) (k : Nat) (v : U64) : (s.setEnt k v).notes = s.notes := rfl
@[simp] theorem State.setEnt_dfltAll (s : State) (k : Nat) (v : U64) : (s.setEnt k v).dfltAll = s.dfltAll := rfl
@[simp] theorem State.setEnt_free (s : State) (k : Nat) (v : U64) : (s.setEnt k v).free = s.free := rfl

/-! `State.setFld` -/

@[simp] theorem State.setFld_pending (s : State) (k hi lo x : Nat) : (s.setFld k hi lo x).pending = s.pending := rfl
@[simp] theorem State.setFld_bank (s : State) (k hi lo x : Nat) : (s.setFld k hi lo x).bank = s.bank := rfl
@[simp] theorem State.setFld_hold (s : State) (k hi lo x : Nat) : (s.setFld k hi lo x).hold = s.hold := rfl
@[simp] theorem State.setFld_staging (s : State) (k hi lo x : Nat) : (s.setFld k hi lo x).staging = s.staging := rfl
@[simp] theorem State.setFld_mem (s : State) (k hi lo x : Nat) : (s.setFld k hi lo x).mem = s.mem := rfl
@[simp] theorem State.setFld_poison (s : State) (k hi lo x : Nat) : (s.setFld k hi lo x).poison = s.poison := rfl
@[simp] theorem State.setFld_fresh (s : State) (k hi lo x : Nat) : (s.setFld k hi lo x).fresh = s.fresh := rfl
@[simp] theorem State.setFld_merges (s : State) (k hi lo x : Nat) : (s.setFld k hi lo x).merges = s.merges := rfl
@[simp] theorem State.setFld_refetch (s : State) (k hi lo x : Nat) : (s.setFld k hi lo x).refetch = s.refetch := rfl
@[simp] theorem State.setFld_raw (s : State) (k hi lo x : Nat) : (s.setFld k hi lo x).raw = s.raw := rfl
@[simp] theorem State.setFld_tbWrites (s : State) (k hi lo x : Nat) : (s.setFld k hi lo x).tbWrites = s.tbWrites := rfl
@[simp] theorem State.setFld_capSlots (s : State) (k hi lo x : Nat) : (s.setFld k hi lo x).capSlots = s.capSlots := rfl
@[simp] theorem State.setFld_capFifo (s : State) (k hi lo x : Nat) : (s.setFld k hi lo x).capFifo = s.capFifo := rfl
@[simp] theorem State.setFld_capPopped (s : State) (k hi lo x : Nat) : (s.setFld k hi lo x).capPopped = s.capPopped := rfl
@[simp] theorem State.setFld_live (s : State) (k hi lo x : Nat) : (s.setFld k hi lo x).live = s.live := rfl
@[simp] theorem State.setFld_trig (s : State) (k hi lo x : Nat) : (s.setFld k hi lo x).trig = s.trig := rfl
@[simp] theorem State.setFld_slotDue (s : State) (k hi lo x : Nat) : (s.setFld k hi lo x).slotDue = s.slotDue := rfl
@[simp] theorem State.setFld_refLostRaw (s : State) (k hi lo x : Nat) : (s.setFld k hi lo x).refLostRaw = s.refLostRaw := rfl
@[simp] theorem State.setFld_ppsRaw (s : State) (k hi lo x : Nat) : (s.setFld k hi lo x).ppsRaw = s.ppsRaw := rfl
@[simp] theorem State.setFld_synceLow (s : State) (k hi lo x : Nat) : (s.setFld k hi lo x).synceLow = s.synceLow := rfl
@[simp] theorem State.setFld_kennel (s : State) (k hi lo x : Nat) : (s.setFld k hi lo x).kennel = s.kennel := rfl
@[simp] theorem State.setFld_outq (s : State) (k hi lo x : Nat) : (s.setFld k hi lo x).outq = s.outq := rfl
@[simp] theorem State.setFld_carrier (s : State) (k hi lo x : Nat) : (s.setFld k hi lo x).carrier = s.carrier := rfl
@[simp] theorem State.setFld_tile (s : State) (k hi lo x : Nat) : (s.setFld k hi lo x).tile = s.tile := rfl
@[simp] theorem State.setFld_packStop (s : State) (k hi lo x : Nat) : (s.setFld k hi lo x).packStop = s.packStop := rfl
@[simp] theorem State.setFld_core (s : State) (k hi lo x : Nat) : (s.setFld k hi lo x).core = s.core := rfl
@[simp] theorem State.setFld_port (s : State) (k hi lo x : Nat) : (s.setFld k hi lo x).port = s.port := rfl
@[simp] theorem State.setFld_irq (s : State) (k hi lo x : Nat) : (s.setFld k hi lo x).irq = s.irq := rfl
@[simp] theorem State.setFld_chan (s : State) (k hi lo x : Nat) : (s.setFld k hi lo x).chan = s.chan := rfl
@[simp] theorem State.setFld_engine (s : State) (k hi lo x : Nat) : (s.setFld k hi lo x).engine = s.engine := rfl
@[simp] theorem State.setFld_point (s : State) (k hi lo x : Nat) : (s.setFld k hi lo x).point = s.point := rfl
@[simp] theorem State.setFld_masked (s : State) (k hi lo x : Nat) : (s.setFld k hi lo x).masked = s.masked := rfl
@[simp] theorem State.setFld_stackIntlv (s : State) (k hi lo x : Nat) : (s.setFld k hi lo x).stackIntlv = s.stackIntlv := rfl
@[simp] theorem State.setFld_mgtRuns (s : State) (k hi lo x : Nat) : (s.setFld k hi lo x).mgtRuns = s.mgtRuns := rfl
@[simp] theorem State.setFld_hound (s : State) (k hi lo x : Nat) : (s.setFld k hi lo x).hound = s.hound := rfl
@[simp] theorem State.setFld_job (s : State) (k hi lo x : Nat) : (s.setFld k hi lo x).job = s.job := rfl
@[simp] theorem State.setFld_accelBusy (s : State) (k hi lo x : Nat) : (s.setFld k hi lo x).accelBusy = s.accelBusy := rfl
@[simp] theorem State.setFld_tx (s : State) (k hi lo x : Nat) : (s.setFld k hi lo x).tx = s.tx := rfl
@[simp] theorem State.setFld_txGates (s : State) (k hi lo x : Nat) : (s.setFld k hi lo x).txGates = s.txGates := rfl
@[simp] theorem State.setFld_paChecks (s : State) (k hi lo x : Nat) : (s.setFld k hi lo x).paChecks = s.paChecks := rfl
@[simp] theorem State.setFld_bank8 (s : State) (k hi lo x : Nat) : (s.setFld k hi lo x).bank8 = s.bank8 := rfl
@[simp] theorem State.setFld_lateSlot (s : State) (k hi lo x : Nat) : (s.setFld k hi lo x).lateSlot = s.lateSlot := rfl
@[simp] theorem State.setFld_decode (s : State) (k hi lo x : Nat) : (s.setFld k hi lo x).decode = s.decode := rfl
@[simp] theorem State.setFld_flow (s : State) (k hi lo x : Nat) : (s.setFld k hi lo x).flow = s.flow := rfl
@[simp] theorem State.setFld_stash (s : State) (k hi lo x : Nat) : (s.setFld k hi lo x).stash = s.stash := rfl
@[simp] theorem State.setFld_ringTaken (s : State) (k hi lo x : Nat) : (s.setFld k hi lo x).ringTaken = s.ringTaken := rfl
@[simp] theorem State.setFld_ctxCache (s : State) (k hi lo x : Nat) : (s.setFld k hi lo x).ctxCache = s.ctxCache := rfl
@[simp] theorem State.setFld_laneAdv (s : State) (k hi lo x : Nat) : (s.setFld k hi lo x).laneAdv = s.laneAdv := rfl
@[simp] theorem State.setFld_sdref (s : State) (k hi lo x : Nat) : (s.setFld k hi lo x).sdref = s.sdref := rfl
@[simp] theorem State.setFld_laneIdle (s : State) (k hi lo x : Nat) : (s.setFld k hi lo x).laneIdle = s.laneIdle := rfl
@[simp] theorem State.setFld_laneAt (s : State) (k hi lo x : Nat) : (s.setFld k hi lo x).laneAt = s.laneAt := rfl
@[simp] theorem State.setFld_rx (s : State) (k hi lo x : Nat) : (s.setFld k hi lo x).rx = s.rx := rfl
@[simp] theorem State.setFld_mac (s : State) (k hi lo x : Nat) : (s.setFld k hi lo x).mac = s.mac := rfl
@[simp] theorem State.setFld_stream (s : State) (k hi lo x : Nat) : (s.setFld k hi lo x).stream = s.stream := rfl
@[simp] theorem State.setFld_cpriTx (s : State) (k hi lo x : Nat) : (s.setFld k hi lo x).cpriTx = s.cpriTx := rfl
@[simp] theorem State.setFld_cpSent (s : State) (k hi lo x : Nat) : (s.setFld k hi lo x).cpSent = s.cpSent := rfl
@[simp] theorem State.setFld_fdb (s : State) (k hi lo x : Nat) : (s.setFld k hi lo x).fdb = s.fdb := rfl
@[simp] theorem State.setFld_epTold (s : State) (k hi lo x : Nat) : (s.setFld k hi lo x).epTold = s.epTold := rfl
@[simp] theorem State.setFld_epTime (s : State) (k hi lo x : Nat) : (s.setFld k hi lo x).epTime = s.epTime := rfl
@[simp] theorem State.setFld_session (s : State) (k hi lo x : Nat) : (s.setFld k hi lo x).session = s.session := rfl
@[simp] theorem State.setFld_handshake (s : State) (k hi lo x : Nat) : (s.setFld k hi lo x).handshake = s.handshake := rfl
@[simp] theorem State.setFld_idsGiven (s : State) (k hi lo x : Nat) : (s.setFld k hi lo x).idsGiven = s.idsGiven := rfl
@[simp] theorem State.setFld_ephGiven (s : State) (k hi lo x : Nat) : (s.setFld k hi lo x).ephGiven = s.ephGiven := rfl
@[simp] theorem State.setFld_commits (s : State) (k hi lo x : Nat) : (s.setFld k hi lo x).commits = s.commits := rfl
@[simp] theorem State.setFld_mramWaits (s : State) (k hi lo x : Nat) : (s.setFld k hi lo x).mramWaits = s.mramWaits := rfl
@[simp] theorem State.setFld_nvA (s : State) (k hi lo x : Nat) : (s.setFld k hi lo x).nvA = s.nvA := rfl
@[simp] theorem State.setFld_nvB (s : State) (k hi lo x : Nat) : (s.setFld k hi lo x).nvB = s.nvB := rfl
@[simp] theorem State.setFld_unit (s : State) (k hi lo x : Nat) : (s.setFld k hi lo x).unit = s.unit := rfl
@[simp] theorem State.setFld_packPower (s : State) (k hi lo x : Nat) : (s.setFld k hi lo x).packPower = s.packPower := rfl
@[simp] theorem State.setFld_packReq (s : State) (k hi lo x : Nat) : (s.setFld k hi lo x).packReq = s.packReq := rfl
@[simp] theorem State.setFld_pwr (s : State) (k hi lo x : Nat) : (s.setFld k hi lo x).pwr = s.pwr := rfl
@[simp] theorem State.setFld_dev (s : State) (k hi lo x : Nat) : (s.setFld k hi lo x).dev = s.dev := rfl
@[simp] theorem State.setFld_guardLead (s : State) (k hi lo x : Nat) : (s.setFld k hi lo x).guardLead = s.guardLead := rfl
@[simp] theorem State.setFld_guardAt (s : State) (k hi lo x : Nat) : (s.setFld k hi lo x).guardAt = s.guardAt := rfl
@[simp] theorem State.setFld_thermalDormant (s : State) (k hi lo x : Nat) : (s.setFld k hi lo x).thermalDormant = s.thermalDormant := rfl
@[simp] theorem State.setFld_warn (s : State) (k hi lo x : Nat) : (s.setFld k hi lo x).warn = s.warn := rfl
@[simp] theorem State.setFld_warnSince (s : State) (k hi lo x : Nat) : (s.setFld k hi lo x).warnSince = s.warnSince := rfl
@[simp] theorem State.setFld_railLow (s : State) (k hi lo x : Nat) : (s.setFld k hi lo x).railLow = s.railLow := rfl
@[simp] theorem State.setFld_dips (s : State) (k hi lo x : Nat) : (s.setFld k hi lo x).dips = s.dips := rfl
@[simp] theorem State.setFld_packIdleFor (s : State) (k hi lo x : Nat) : (s.setFld k hi lo x).packIdleFor = s.packIdleFor := rfl
@[simp] theorem State.setFld_sleepRaw (s : State) (k hi lo x : Nat) : (s.setFld k hi lo x).sleepRaw = s.sleepRaw := rfl
@[simp] theorem State.setFld_emergencies (s : State) (k hi lo x : Nat) : (s.setFld k hi lo x).emergencies = s.emergencies := rfl
@[simp] theorem State.setFld_hourTold (s : State) (k hi lo x : Nat) : (s.setFld k hi lo x).hourTold = s.hourTold := rfl
@[simp] theorem State.setFld_opsecHour (s : State) (k hi lo x : Nat) : (s.setFld k hi lo x).opsecHour = s.opsecHour := rfl
@[simp] theorem State.setFld_resTold (s : State) (k hi lo x : Nat) : (s.setFld k hi lo x).resTold = s.resTold := rfl
@[simp] theorem State.setFld_resetJob (s : State) (k hi lo x : Nat) : (s.setFld k hi lo x).resetJob = s.resetJob := rfl
@[simp] theorem State.setFld_aonPor (s : State) (k hi lo x : Nat) : (s.setFld k hi lo x).aonPor = s.aonPor := rfl
@[simp] theorem State.setFld_bootRaw (s : State) (k hi lo x : Nat) : (s.setFld k hi lo x).bootRaw = s.bootRaw := rfl
@[simp] theorem State.setFld_bootsel (s : State) (k hi lo x : Nat) : (s.setFld k hi lo x).bootsel = s.bootsel := rfl
@[simp] theorem State.setFld_loadQueue (s : State) (k hi lo x : Nat) : (s.setFld k hi lo x).loadQueue = s.loadQueue := rfl
@[simp] theorem State.setFld_loadSlot (s : State) (k hi lo x : Nat) : (s.setFld k hi lo x).loadSlot = s.loadSlot := rfl
@[simp] theorem State.setFld_trialStart (s : State) (k hi lo x : Nat) : (s.setFld k hi lo x).trialStart = s.trialStart := rfl
@[simp] theorem State.setFld_l2 (s : State) (k hi lo x : Nat) : (s.setFld k hi lo x).l2 = s.l2 := rfl
@[simp] theorem State.setFld_shdTold (s : State) (k hi lo x : Nat) : (s.setFld k hi lo x).shdTold = s.shdTold := rfl
@[simp] theorem State.setFld_shdPart (s : State) (k hi lo x : Nat) : (s.setFld k hi lo x).shdPart = s.shdPart := rfl
@[simp] theorem State.setFld_petRaw (s : State) (k hi lo x : Nat) : (s.setFld k hi lo x).petRaw = s.petRaw := rfl
@[simp] theorem State.setFld_l4Last (s : State) (k hi lo x : Nat) : (s.setFld k hi lo x).l4Last = s.l4Last := rfl
@[simp] theorem State.setFld_checkRaw (s : State) (k hi lo x : Nat) : (s.setFld k hi lo x).checkRaw = s.checkRaw := rfl
@[simp] theorem State.setFld_postNext (s : State) (k hi lo x : Nat) : (s.setFld k hi lo x).postNext = s.postNext := rfl
@[simp] theorem State.setFld_segment (s : State) (k hi lo x : Nat) : (s.setFld k hi lo x).segment = s.segment := rfl
@[simp] theorem State.setFld_segNext (s : State) (k hi lo x : Nat) : (s.setFld k hi lo x).segNext = s.segNext := rfl
@[simp] theorem State.setFld_segHead (s : State) (k hi lo x : Nat) : (s.setFld k hi lo x).segHead = s.segHead := rfl
@[simp] theorem State.setFld_retests (s : State) (k hi lo x : Nat) : (s.setFld k hi lo x).retests = s.retests := rfl
@[simp] theorem State.setFld_walkRaw (s : State) (k hi lo x : Nat) : (s.setFld k hi lo x).walkRaw = s.walkRaw := rfl
@[simp] theorem State.setFld_staged (s : State) (k hi lo x : Nat) : (s.setFld k hi lo x).staged = s.staged := rfl
@[simp] theorem State.setFld_lostRun (s : State) (k hi lo x : Nat) : (s.setFld k hi lo x).lostRun = s.lostRun := rfl
@[simp] theorem State.setFld_lostFirst (s : State) (k hi lo x : Nat) : (s.setFld k hi lo x).lostFirst = s.lostFirst := rfl
@[simp] theorem State.setFld_evSeq (s : State) (k hi lo x : Nat) : (s.setFld k hi lo x).evSeq = s.evSeq := rfl
@[simp] theorem State.setFld_ring (s : State) (k hi lo x : Nat) : (s.setFld k hi lo x).ring = s.ring := rfl
@[simp] theorem State.setFld_ringBlock (s : State) (k hi lo x : Nat) : (s.setFld k hi lo x).ringBlock = s.ringBlock := rfl
@[simp] theorem State.setFld_ringOff (s : State) (k hi lo x : Nat) : (s.setFld k hi lo x).ringOff = s.ringOff := rfl
@[simp] theorem State.setFld_opsec (s : State) (k hi lo x : Nat) : (s.setFld k hi lo x).opsec = s.opsec := rfl
@[simp] theorem State.setFld_pwrcycSt (s : State) (k hi lo x : Nat) : (s.setFld k hi lo x).pwrcycSt = s.pwrcycSt := rfl
@[simp] theorem State.setFld_hoT (s : State) (k hi lo x : Nat) : (s.setFld k hi lo x).hoT = s.hoT := rfl
@[simp] theorem State.setFld_hoChecked (s : State) (k hi lo x : Nat) : (s.setFld k hi lo x).hoChecked = s.hoChecked := rfl
@[simp] theorem State.setFld_flash (s : State) (k hi lo x : Nat) : (s.setFld k hi lo x).flash = s.flash := rfl
@[simp] theorem State.setFld_flashOp (s : State) (k hi lo x : Nat) : (s.setFld k hi lo x).flashOp = s.flashOp := rfl
@[simp] theorem State.setFld_gelpel (s : State) (k hi lo x : Nat) : (s.setFld k hi lo x).gelpel = s.gelpel := rfl
@[simp] theorem State.setFld_padIn (s : State) (k hi lo x : Nat) : (s.setFld k hi lo x).padIn = s.padIn := rfl
@[simp] theorem State.setFld_ppsOut (s : State) (k hi lo x : Nat) : (s.setFld k hi lo x).ppsOut = s.ppsOut := rfl
@[simp] theorem State.setFld_heartbeat (s : State) (k hi lo x : Nat) : (s.setFld k hi lo x).heartbeat = s.heartbeat := rfl
@[simp] theorem State.setFld_heartHz (s : State) (k hi lo x : Nat) : (s.setFld k hi lo x).heartHz = s.heartHz := rfl
@[simp] theorem State.setFld_faultN (s : State) (k hi lo x : Nat) : (s.setFld k hi lo x).faultN = s.faultN := rfl
@[simp] theorem State.setFld_thermTrip (s : State) (k hi lo x : Nat) : (s.setFld k hi lo x).thermTrip = s.thermTrip := rfl
@[simp] theorem State.setFld_pwrgood (s : State) (k hi lo x : Nat) : (s.setFld k hi lo x).pwrgood = s.pwrgood := rfl
@[simp] theorem State.setFld_resetN (s : State) (k hi lo x : Nat) : (s.setFld k hi lo x).resetN = s.resetN := rfl
@[simp] theorem State.setFld_trstN (s : State) (k hi lo x : Nat) : (s.setFld k hi lo x).trstN = s.trstN := rfl
@[simp] theorem State.setFld_uart (s : State) (k hi lo x : Nat) : (s.setFld k hi lo x).uart = s.uart := rfl
@[simp] theorem State.setFld_clocksStopped (s : State) (k hi lo x : Nat) : (s.setFld k hi lo x).clocksStopped = s.clocksStopped := rfl
@[simp] theorem State.setFld_i2cBusy (s : State) (k hi lo x : Nat) : (s.setFld k hi lo x).i2cBusy = s.i2cBusy := rfl
@[simp] theorem State.setFld_reply (s : State) (k hi lo x : Nat) : (s.setFld k hi lo x).reply = s.reply := rfl
@[simp] theorem State.setFld_mgmtOut (s : State) (k hi lo x : Nat) : (s.setFld k hi lo x).mgmtOut = s.mgmtOut := rfl
@[simp] theorem State.setFld_notes (s : State) (k hi lo x : Nat) : (s.setFld k hi lo x).notes = s.notes := rfl
@[simp] theorem State.setFld_dfltAll (s : State) (k hi lo x : Nat) : (s.setFld k hi lo x).dfltAll = s.dfltAll := rfl
@[simp] theorem State.setFld_free (s : State) (k hi lo x : Nat) : (s.setFld k hi lo x).free = s.free := rfl

/-! `State.setFlag` -/

@[simp] theorem State.setFlag_pending (s : State) (k i : Nat) (b : Bool) : (s.setFlag k i b).pending = s.pending := rfl
@[simp] theorem State.setFlag_bank (s : State) (k i : Nat) (b : Bool) : (s.setFlag k i b).bank = s.bank := rfl
@[simp] theorem State.setFlag_hold (s : State) (k i : Nat) (b : Bool) : (s.setFlag k i b).hold = s.hold := rfl
@[simp] theorem State.setFlag_staging (s : State) (k i : Nat) (b : Bool) : (s.setFlag k i b).staging = s.staging := rfl
@[simp] theorem State.setFlag_mem (s : State) (k i : Nat) (b : Bool) : (s.setFlag k i b).mem = s.mem := rfl
@[simp] theorem State.setFlag_poison (s : State) (k i : Nat) (b : Bool) : (s.setFlag k i b).poison = s.poison := rfl
@[simp] theorem State.setFlag_fresh (s : State) (k i : Nat) (b : Bool) : (s.setFlag k i b).fresh = s.fresh := rfl
@[simp] theorem State.setFlag_merges (s : State) (k i : Nat) (b : Bool) : (s.setFlag k i b).merges = s.merges := rfl
@[simp] theorem State.setFlag_refetch (s : State) (k i : Nat) (b : Bool) : (s.setFlag k i b).refetch = s.refetch := rfl
@[simp] theorem State.setFlag_raw (s : State) (k i : Nat) (b : Bool) : (s.setFlag k i b).raw = s.raw := rfl
@[simp] theorem State.setFlag_tbWrites (s : State) (k i : Nat) (b : Bool) : (s.setFlag k i b).tbWrites = s.tbWrites := rfl
@[simp] theorem State.setFlag_capSlots (s : State) (k i : Nat) (b : Bool) : (s.setFlag k i b).capSlots = s.capSlots := rfl
@[simp] theorem State.setFlag_capFifo (s : State) (k i : Nat) (b : Bool) : (s.setFlag k i b).capFifo = s.capFifo := rfl
@[simp] theorem State.setFlag_capPopped (s : State) (k i : Nat) (b : Bool) : (s.setFlag k i b).capPopped = s.capPopped := rfl
@[simp] theorem State.setFlag_live (s : State) (k i : Nat) (b : Bool) : (s.setFlag k i b).live = s.live := rfl
@[simp] theorem State.setFlag_trig (s : State) (k i : Nat) (b : Bool) : (s.setFlag k i b).trig = s.trig := rfl
@[simp] theorem State.setFlag_slotDue (s : State) (k i : Nat) (b : Bool) : (s.setFlag k i b).slotDue = s.slotDue := rfl
@[simp] theorem State.setFlag_refLostRaw (s : State) (k i : Nat) (b : Bool) : (s.setFlag k i b).refLostRaw = s.refLostRaw := rfl
@[simp] theorem State.setFlag_ppsRaw (s : State) (k i : Nat) (b : Bool) : (s.setFlag k i b).ppsRaw = s.ppsRaw := rfl
@[simp] theorem State.setFlag_synceLow (s : State) (k i : Nat) (b : Bool) : (s.setFlag k i b).synceLow = s.synceLow := rfl
@[simp] theorem State.setFlag_kennel (s : State) (k i : Nat) (b : Bool) : (s.setFlag k i b).kennel = s.kennel := rfl
@[simp] theorem State.setFlag_outq (s : State) (k i : Nat) (b : Bool) : (s.setFlag k i b).outq = s.outq := rfl
@[simp] theorem State.setFlag_carrier (s : State) (k i : Nat) (b : Bool) : (s.setFlag k i b).carrier = s.carrier := rfl
@[simp] theorem State.setFlag_tile (s : State) (k i : Nat) (b : Bool) : (s.setFlag k i b).tile = s.tile := rfl
@[simp] theorem State.setFlag_packStop (s : State) (k i : Nat) (b : Bool) : (s.setFlag k i b).packStop = s.packStop := rfl
@[simp] theorem State.setFlag_core (s : State) (k i : Nat) (b : Bool) : (s.setFlag k i b).core = s.core := rfl
@[simp] theorem State.setFlag_port (s : State) (k i : Nat) (b : Bool) : (s.setFlag k i b).port = s.port := rfl
@[simp] theorem State.setFlag_irq (s : State) (k i : Nat) (b : Bool) : (s.setFlag k i b).irq = s.irq := rfl
@[simp] theorem State.setFlag_chan (s : State) (k i : Nat) (b : Bool) : (s.setFlag k i b).chan = s.chan := rfl
@[simp] theorem State.setFlag_engine (s : State) (k i : Nat) (b : Bool) : (s.setFlag k i b).engine = s.engine := rfl
@[simp] theorem State.setFlag_point (s : State) (k i : Nat) (b : Bool) : (s.setFlag k i b).point = s.point := rfl
@[simp] theorem State.setFlag_masked (s : State) (k i : Nat) (b : Bool) : (s.setFlag k i b).masked = s.masked := rfl
@[simp] theorem State.setFlag_stackIntlv (s : State) (k i : Nat) (b : Bool) : (s.setFlag k i b).stackIntlv = s.stackIntlv := rfl
@[simp] theorem State.setFlag_mgtRuns (s : State) (k i : Nat) (b : Bool) : (s.setFlag k i b).mgtRuns = s.mgtRuns := rfl
@[simp] theorem State.setFlag_hound (s : State) (k i : Nat) (b : Bool) : (s.setFlag k i b).hound = s.hound := rfl
@[simp] theorem State.setFlag_job (s : State) (k i : Nat) (b : Bool) : (s.setFlag k i b).job = s.job := rfl
@[simp] theorem State.setFlag_accelBusy (s : State) (k i : Nat) (b : Bool) : (s.setFlag k i b).accelBusy = s.accelBusy := rfl
@[simp] theorem State.setFlag_tx (s : State) (k i : Nat) (b : Bool) : (s.setFlag k i b).tx = s.tx := rfl
@[simp] theorem State.setFlag_txGates (s : State) (k i : Nat) (b : Bool) : (s.setFlag k i b).txGates = s.txGates := rfl
@[simp] theorem State.setFlag_paChecks (s : State) (k i : Nat) (b : Bool) : (s.setFlag k i b).paChecks = s.paChecks := rfl
@[simp] theorem State.setFlag_bank8 (s : State) (k i : Nat) (b : Bool) : (s.setFlag k i b).bank8 = s.bank8 := rfl
@[simp] theorem State.setFlag_lateSlot (s : State) (k i : Nat) (b : Bool) : (s.setFlag k i b).lateSlot = s.lateSlot := rfl
@[simp] theorem State.setFlag_decode (s : State) (k i : Nat) (b : Bool) : (s.setFlag k i b).decode = s.decode := rfl
@[simp] theorem State.setFlag_flow (s : State) (k i : Nat) (b : Bool) : (s.setFlag k i b).flow = s.flow := rfl
@[simp] theorem State.setFlag_stash (s : State) (k i : Nat) (b : Bool) : (s.setFlag k i b).stash = s.stash := rfl
@[simp] theorem State.setFlag_ringTaken (s : State) (k i : Nat) (b : Bool) : (s.setFlag k i b).ringTaken = s.ringTaken := rfl
@[simp] theorem State.setFlag_ctxCache (s : State) (k i : Nat) (b : Bool) : (s.setFlag k i b).ctxCache = s.ctxCache := rfl
@[simp] theorem State.setFlag_laneAdv (s : State) (k i : Nat) (b : Bool) : (s.setFlag k i b).laneAdv = s.laneAdv := rfl
@[simp] theorem State.setFlag_sdref (s : State) (k i : Nat) (b : Bool) : (s.setFlag k i b).sdref = s.sdref := rfl
@[simp] theorem State.setFlag_laneIdle (s : State) (k i : Nat) (b : Bool) : (s.setFlag k i b).laneIdle = s.laneIdle := rfl
@[simp] theorem State.setFlag_laneAt (s : State) (k i : Nat) (b : Bool) : (s.setFlag k i b).laneAt = s.laneAt := rfl
@[simp] theorem State.setFlag_rx (s : State) (k i : Nat) (b : Bool) : (s.setFlag k i b).rx = s.rx := rfl
@[simp] theorem State.setFlag_mac (s : State) (k i : Nat) (b : Bool) : (s.setFlag k i b).mac = s.mac := rfl
@[simp] theorem State.setFlag_stream (s : State) (k i : Nat) (b : Bool) : (s.setFlag k i b).stream = s.stream := rfl
@[simp] theorem State.setFlag_cpriTx (s : State) (k i : Nat) (b : Bool) : (s.setFlag k i b).cpriTx = s.cpriTx := rfl
@[simp] theorem State.setFlag_cpSent (s : State) (k i : Nat) (b : Bool) : (s.setFlag k i b).cpSent = s.cpSent := rfl
@[simp] theorem State.setFlag_fdb (s : State) (k i : Nat) (b : Bool) : (s.setFlag k i b).fdb = s.fdb := rfl
@[simp] theorem State.setFlag_epTold (s : State) (k i : Nat) (b : Bool) : (s.setFlag k i b).epTold = s.epTold := rfl
@[simp] theorem State.setFlag_epTime (s : State) (k i : Nat) (b : Bool) : (s.setFlag k i b).epTime = s.epTime := rfl
@[simp] theorem State.setFlag_session (s : State) (k i : Nat) (b : Bool) : (s.setFlag k i b).session = s.session := rfl
@[simp] theorem State.setFlag_handshake (s : State) (k i : Nat) (b : Bool) : (s.setFlag k i b).handshake = s.handshake := rfl
@[simp] theorem State.setFlag_idsGiven (s : State) (k i : Nat) (b : Bool) : (s.setFlag k i b).idsGiven = s.idsGiven := rfl
@[simp] theorem State.setFlag_ephGiven (s : State) (k i : Nat) (b : Bool) : (s.setFlag k i b).ephGiven = s.ephGiven := rfl
@[simp] theorem State.setFlag_commits (s : State) (k i : Nat) (b : Bool) : (s.setFlag k i b).commits = s.commits := rfl
@[simp] theorem State.setFlag_mramWaits (s : State) (k i : Nat) (b : Bool) : (s.setFlag k i b).mramWaits = s.mramWaits := rfl
@[simp] theorem State.setFlag_nvA (s : State) (k i : Nat) (b : Bool) : (s.setFlag k i b).nvA = s.nvA := rfl
@[simp] theorem State.setFlag_nvB (s : State) (k i : Nat) (b : Bool) : (s.setFlag k i b).nvB = s.nvB := rfl
@[simp] theorem State.setFlag_unit (s : State) (k i : Nat) (b : Bool) : (s.setFlag k i b).unit = s.unit := rfl
@[simp] theorem State.setFlag_packPower (s : State) (k i : Nat) (b : Bool) : (s.setFlag k i b).packPower = s.packPower := rfl
@[simp] theorem State.setFlag_packReq (s : State) (k i : Nat) (b : Bool) : (s.setFlag k i b).packReq = s.packReq := rfl
@[simp] theorem State.setFlag_pwr (s : State) (k i : Nat) (b : Bool) : (s.setFlag k i b).pwr = s.pwr := rfl
@[simp] theorem State.setFlag_dev (s : State) (k i : Nat) (b : Bool) : (s.setFlag k i b).dev = s.dev := rfl
@[simp] theorem State.setFlag_guardLead (s : State) (k i : Nat) (b : Bool) : (s.setFlag k i b).guardLead = s.guardLead := rfl
@[simp] theorem State.setFlag_guardAt (s : State) (k i : Nat) (b : Bool) : (s.setFlag k i b).guardAt = s.guardAt := rfl
@[simp] theorem State.setFlag_thermalDormant (s : State) (k i : Nat) (b : Bool) : (s.setFlag k i b).thermalDormant = s.thermalDormant := rfl
@[simp] theorem State.setFlag_warn (s : State) (k i : Nat) (b : Bool) : (s.setFlag k i b).warn = s.warn := rfl
@[simp] theorem State.setFlag_warnSince (s : State) (k i : Nat) (b : Bool) : (s.setFlag k i b).warnSince = s.warnSince := rfl
@[simp] theorem State.setFlag_railLow (s : State) (k i : Nat) (b : Bool) : (s.setFlag k i b).railLow = s.railLow := rfl
@[simp] theorem State.setFlag_dips (s : State) (k i : Nat) (b : Bool) : (s.setFlag k i b).dips = s.dips := rfl
@[simp] theorem State.setFlag_packIdleFor (s : State) (k i : Nat) (b : Bool) : (s.setFlag k i b).packIdleFor = s.packIdleFor := rfl
@[simp] theorem State.setFlag_sleepRaw (s : State) (k i : Nat) (b : Bool) : (s.setFlag k i b).sleepRaw = s.sleepRaw := rfl
@[simp] theorem State.setFlag_emergencies (s : State) (k i : Nat) (b : Bool) : (s.setFlag k i b).emergencies = s.emergencies := rfl
@[simp] theorem State.setFlag_hourTold (s : State) (k i : Nat) (b : Bool) : (s.setFlag k i b).hourTold = s.hourTold := rfl
@[simp] theorem State.setFlag_opsecHour (s : State) (k i : Nat) (b : Bool) : (s.setFlag k i b).opsecHour = s.opsecHour := rfl
@[simp] theorem State.setFlag_resTold (s : State) (k i : Nat) (b : Bool) : (s.setFlag k i b).resTold = s.resTold := rfl
@[simp] theorem State.setFlag_resetJob (s : State) (k i : Nat) (b : Bool) : (s.setFlag k i b).resetJob = s.resetJob := rfl
@[simp] theorem State.setFlag_aonPor (s : State) (k i : Nat) (b : Bool) : (s.setFlag k i b).aonPor = s.aonPor := rfl
@[simp] theorem State.setFlag_bootRaw (s : State) (k i : Nat) (b : Bool) : (s.setFlag k i b).bootRaw = s.bootRaw := rfl
@[simp] theorem State.setFlag_bootsel (s : State) (k i : Nat) (b : Bool) : (s.setFlag k i b).bootsel = s.bootsel := rfl
@[simp] theorem State.setFlag_loadQueue (s : State) (k i : Nat) (b : Bool) : (s.setFlag k i b).loadQueue = s.loadQueue := rfl
@[simp] theorem State.setFlag_loadSlot (s : State) (k i : Nat) (b : Bool) : (s.setFlag k i b).loadSlot = s.loadSlot := rfl
@[simp] theorem State.setFlag_trialStart (s : State) (k i : Nat) (b : Bool) : (s.setFlag k i b).trialStart = s.trialStart := rfl
@[simp] theorem State.setFlag_l2 (s : State) (k i : Nat) (b : Bool) : (s.setFlag k i b).l2 = s.l2 := rfl
@[simp] theorem State.setFlag_shdTold (s : State) (k i : Nat) (b : Bool) : (s.setFlag k i b).shdTold = s.shdTold := rfl
@[simp] theorem State.setFlag_shdPart (s : State) (k i : Nat) (b : Bool) : (s.setFlag k i b).shdPart = s.shdPart := rfl
@[simp] theorem State.setFlag_petRaw (s : State) (k i : Nat) (b : Bool) : (s.setFlag k i b).petRaw = s.petRaw := rfl
@[simp] theorem State.setFlag_l4Last (s : State) (k i : Nat) (b : Bool) : (s.setFlag k i b).l4Last = s.l4Last := rfl
@[simp] theorem State.setFlag_checkRaw (s : State) (k i : Nat) (b : Bool) : (s.setFlag k i b).checkRaw = s.checkRaw := rfl
@[simp] theorem State.setFlag_postNext (s : State) (k i : Nat) (b : Bool) : (s.setFlag k i b).postNext = s.postNext := rfl
@[simp] theorem State.setFlag_segment (s : State) (k i : Nat) (b : Bool) : (s.setFlag k i b).segment = s.segment := rfl
@[simp] theorem State.setFlag_segNext (s : State) (k i : Nat) (b : Bool) : (s.setFlag k i b).segNext = s.segNext := rfl
@[simp] theorem State.setFlag_segHead (s : State) (k i : Nat) (b : Bool) : (s.setFlag k i b).segHead = s.segHead := rfl
@[simp] theorem State.setFlag_retests (s : State) (k i : Nat) (b : Bool) : (s.setFlag k i b).retests = s.retests := rfl
@[simp] theorem State.setFlag_walkRaw (s : State) (k i : Nat) (b : Bool) : (s.setFlag k i b).walkRaw = s.walkRaw := rfl
@[simp] theorem State.setFlag_staged (s : State) (k i : Nat) (b : Bool) : (s.setFlag k i b).staged = s.staged := rfl
@[simp] theorem State.setFlag_lostRun (s : State) (k i : Nat) (b : Bool) : (s.setFlag k i b).lostRun = s.lostRun := rfl
@[simp] theorem State.setFlag_lostFirst (s : State) (k i : Nat) (b : Bool) : (s.setFlag k i b).lostFirst = s.lostFirst := rfl
@[simp] theorem State.setFlag_evSeq (s : State) (k i : Nat) (b : Bool) : (s.setFlag k i b).evSeq = s.evSeq := rfl
@[simp] theorem State.setFlag_ring (s : State) (k i : Nat) (b : Bool) : (s.setFlag k i b).ring = s.ring := rfl
@[simp] theorem State.setFlag_ringBlock (s : State) (k i : Nat) (b : Bool) : (s.setFlag k i b).ringBlock = s.ringBlock := rfl
@[simp] theorem State.setFlag_ringOff (s : State) (k i : Nat) (b : Bool) : (s.setFlag k i b).ringOff = s.ringOff := rfl
@[simp] theorem State.setFlag_opsec (s : State) (k i : Nat) (b : Bool) : (s.setFlag k i b).opsec = s.opsec := rfl
@[simp] theorem State.setFlag_pwrcycSt (s : State) (k i : Nat) (b : Bool) : (s.setFlag k i b).pwrcycSt = s.pwrcycSt := rfl
@[simp] theorem State.setFlag_hoT (s : State) (k i : Nat) (b : Bool) : (s.setFlag k i b).hoT = s.hoT := rfl
@[simp] theorem State.setFlag_hoChecked (s : State) (k i : Nat) (b : Bool) : (s.setFlag k i b).hoChecked = s.hoChecked := rfl
@[simp] theorem State.setFlag_flash (s : State) (k i : Nat) (b : Bool) : (s.setFlag k i b).flash = s.flash := rfl
@[simp] theorem State.setFlag_flashOp (s : State) (k i : Nat) (b : Bool) : (s.setFlag k i b).flashOp = s.flashOp := rfl
@[simp] theorem State.setFlag_gelpel (s : State) (k i : Nat) (b : Bool) : (s.setFlag k i b).gelpel = s.gelpel := rfl
@[simp] theorem State.setFlag_padIn (s : State) (k i : Nat) (b : Bool) : (s.setFlag k i b).padIn = s.padIn := rfl
@[simp] theorem State.setFlag_ppsOut (s : State) (k i : Nat) (b : Bool) : (s.setFlag k i b).ppsOut = s.ppsOut := rfl
@[simp] theorem State.setFlag_heartbeat (s : State) (k i : Nat) (b : Bool) : (s.setFlag k i b).heartbeat = s.heartbeat := rfl
@[simp] theorem State.setFlag_heartHz (s : State) (k i : Nat) (b : Bool) : (s.setFlag k i b).heartHz = s.heartHz := rfl
@[simp] theorem State.setFlag_faultN (s : State) (k i : Nat) (b : Bool) : (s.setFlag k i b).faultN = s.faultN := rfl
@[simp] theorem State.setFlag_thermTrip (s : State) (k i : Nat) (b : Bool) : (s.setFlag k i b).thermTrip = s.thermTrip := rfl
@[simp] theorem State.setFlag_pwrgood (s : State) (k i : Nat) (b : Bool) : (s.setFlag k i b).pwrgood = s.pwrgood := rfl
@[simp] theorem State.setFlag_resetN (s : State) (k i : Nat) (b : Bool) : (s.setFlag k i b).resetN = s.resetN := rfl
@[simp] theorem State.setFlag_trstN (s : State) (k i : Nat) (b : Bool) : (s.setFlag k i b).trstN = s.trstN := rfl
@[simp] theorem State.setFlag_uart (s : State) (k i : Nat) (b : Bool) : (s.setFlag k i b).uart = s.uart := rfl
@[simp] theorem State.setFlag_clocksStopped (s : State) (k i : Nat) (b : Bool) : (s.setFlag k i b).clocksStopped = s.clocksStopped := rfl
@[simp] theorem State.setFlag_i2cBusy (s : State) (k i : Nat) (b : Bool) : (s.setFlag k i b).i2cBusy = s.i2cBusy := rfl
@[simp] theorem State.setFlag_reply (s : State) (k i : Nat) (b : Bool) : (s.setFlag k i b).reply = s.reply := rfl
@[simp] theorem State.setFlag_mgmtOut (s : State) (k i : Nat) (b : Bool) : (s.setFlag k i b).mgmtOut = s.mgmtOut := rfl
@[simp] theorem State.setFlag_notes (s : State) (k i : Nat) (b : Bool) : (s.setFlag k i b).notes = s.notes := rfl
@[simp] theorem State.setFlag_dfltAll (s : State) (k i : Nat) (b : Bool) : (s.setFlag k i b).dfltAll = s.dfltAll := rfl
@[simp] theorem State.setFlag_free (s : State) (k i : Nat) (b : Bool) : (s.setFlag k i b).free = s.free := rfl

/-! `State.incSat` -/

@[simp] theorem State.incSat_pending (s : State) (k hi lo n : Nat) : (s.incSat k hi lo n).pending = s.pending := rfl
@[simp] theorem State.incSat_bank (s : State) (k hi lo n : Nat) : (s.incSat k hi lo n).bank = s.bank := rfl
@[simp] theorem State.incSat_hold (s : State) (k hi lo n : Nat) : (s.incSat k hi lo n).hold = s.hold := rfl
@[simp] theorem State.incSat_staging (s : State) (k hi lo n : Nat) : (s.incSat k hi lo n).staging = s.staging := rfl
@[simp] theorem State.incSat_mem (s : State) (k hi lo n : Nat) : (s.incSat k hi lo n).mem = s.mem := rfl
@[simp] theorem State.incSat_poison (s : State) (k hi lo n : Nat) : (s.incSat k hi lo n).poison = s.poison := rfl
@[simp] theorem State.incSat_fresh (s : State) (k hi lo n : Nat) : (s.incSat k hi lo n).fresh = s.fresh := rfl
@[simp] theorem State.incSat_merges (s : State) (k hi lo n : Nat) : (s.incSat k hi lo n).merges = s.merges := rfl
@[simp] theorem State.incSat_refetch (s : State) (k hi lo n : Nat) : (s.incSat k hi lo n).refetch = s.refetch := rfl
@[simp] theorem State.incSat_raw (s : State) (k hi lo n : Nat) : (s.incSat k hi lo n).raw = s.raw := rfl
@[simp] theorem State.incSat_tbWrites (s : State) (k hi lo n : Nat) : (s.incSat k hi lo n).tbWrites = s.tbWrites := rfl
@[simp] theorem State.incSat_capSlots (s : State) (k hi lo n : Nat) : (s.incSat k hi lo n).capSlots = s.capSlots := rfl
@[simp] theorem State.incSat_capFifo (s : State) (k hi lo n : Nat) : (s.incSat k hi lo n).capFifo = s.capFifo := rfl
@[simp] theorem State.incSat_capPopped (s : State) (k hi lo n : Nat) : (s.incSat k hi lo n).capPopped = s.capPopped := rfl
@[simp] theorem State.incSat_live (s : State) (k hi lo n : Nat) : (s.incSat k hi lo n).live = s.live := rfl
@[simp] theorem State.incSat_trig (s : State) (k hi lo n : Nat) : (s.incSat k hi lo n).trig = s.trig := rfl
@[simp] theorem State.incSat_slotDue (s : State) (k hi lo n : Nat) : (s.incSat k hi lo n).slotDue = s.slotDue := rfl
@[simp] theorem State.incSat_refLostRaw (s : State) (k hi lo n : Nat) : (s.incSat k hi lo n).refLostRaw = s.refLostRaw := rfl
@[simp] theorem State.incSat_ppsRaw (s : State) (k hi lo n : Nat) : (s.incSat k hi lo n).ppsRaw = s.ppsRaw := rfl
@[simp] theorem State.incSat_synceLow (s : State) (k hi lo n : Nat) : (s.incSat k hi lo n).synceLow = s.synceLow := rfl
@[simp] theorem State.incSat_kennel (s : State) (k hi lo n : Nat) : (s.incSat k hi lo n).kennel = s.kennel := rfl
@[simp] theorem State.incSat_outq (s : State) (k hi lo n : Nat) : (s.incSat k hi lo n).outq = s.outq := rfl
@[simp] theorem State.incSat_carrier (s : State) (k hi lo n : Nat) : (s.incSat k hi lo n).carrier = s.carrier := rfl
@[simp] theorem State.incSat_tile (s : State) (k hi lo n : Nat) : (s.incSat k hi lo n).tile = s.tile := rfl
@[simp] theorem State.incSat_packStop (s : State) (k hi lo n : Nat) : (s.incSat k hi lo n).packStop = s.packStop := rfl
@[simp] theorem State.incSat_core (s : State) (k hi lo n : Nat) : (s.incSat k hi lo n).core = s.core := rfl
@[simp] theorem State.incSat_port (s : State) (k hi lo n : Nat) : (s.incSat k hi lo n).port = s.port := rfl
@[simp] theorem State.incSat_irq (s : State) (k hi lo n : Nat) : (s.incSat k hi lo n).irq = s.irq := rfl
@[simp] theorem State.incSat_chan (s : State) (k hi lo n : Nat) : (s.incSat k hi lo n).chan = s.chan := rfl
@[simp] theorem State.incSat_engine (s : State) (k hi lo n : Nat) : (s.incSat k hi lo n).engine = s.engine := rfl
@[simp] theorem State.incSat_point (s : State) (k hi lo n : Nat) : (s.incSat k hi lo n).point = s.point := rfl
@[simp] theorem State.incSat_masked (s : State) (k hi lo n : Nat) : (s.incSat k hi lo n).masked = s.masked := rfl
@[simp] theorem State.incSat_stackIntlv (s : State) (k hi lo n : Nat) : (s.incSat k hi lo n).stackIntlv = s.stackIntlv := rfl
@[simp] theorem State.incSat_mgtRuns (s : State) (k hi lo n : Nat) : (s.incSat k hi lo n).mgtRuns = s.mgtRuns := rfl
@[simp] theorem State.incSat_hound (s : State) (k hi lo n : Nat) : (s.incSat k hi lo n).hound = s.hound := rfl
@[simp] theorem State.incSat_job (s : State) (k hi lo n : Nat) : (s.incSat k hi lo n).job = s.job := rfl
@[simp] theorem State.incSat_accelBusy (s : State) (k hi lo n : Nat) : (s.incSat k hi lo n).accelBusy = s.accelBusy := rfl
@[simp] theorem State.incSat_tx (s : State) (k hi lo n : Nat) : (s.incSat k hi lo n).tx = s.tx := rfl
@[simp] theorem State.incSat_txGates (s : State) (k hi lo n : Nat) : (s.incSat k hi lo n).txGates = s.txGates := rfl
@[simp] theorem State.incSat_paChecks (s : State) (k hi lo n : Nat) : (s.incSat k hi lo n).paChecks = s.paChecks := rfl
@[simp] theorem State.incSat_bank8 (s : State) (k hi lo n : Nat) : (s.incSat k hi lo n).bank8 = s.bank8 := rfl
@[simp] theorem State.incSat_lateSlot (s : State) (k hi lo n : Nat) : (s.incSat k hi lo n).lateSlot = s.lateSlot := rfl
@[simp] theorem State.incSat_decode (s : State) (k hi lo n : Nat) : (s.incSat k hi lo n).decode = s.decode := rfl
@[simp] theorem State.incSat_flow (s : State) (k hi lo n : Nat) : (s.incSat k hi lo n).flow = s.flow := rfl
@[simp] theorem State.incSat_stash (s : State) (k hi lo n : Nat) : (s.incSat k hi lo n).stash = s.stash := rfl
@[simp] theorem State.incSat_ringTaken (s : State) (k hi lo n : Nat) : (s.incSat k hi lo n).ringTaken = s.ringTaken := rfl
@[simp] theorem State.incSat_ctxCache (s : State) (k hi lo n : Nat) : (s.incSat k hi lo n).ctxCache = s.ctxCache := rfl
@[simp] theorem State.incSat_laneAdv (s : State) (k hi lo n : Nat) : (s.incSat k hi lo n).laneAdv = s.laneAdv := rfl
@[simp] theorem State.incSat_sdref (s : State) (k hi lo n : Nat) : (s.incSat k hi lo n).sdref = s.sdref := rfl
@[simp] theorem State.incSat_laneIdle (s : State) (k hi lo n : Nat) : (s.incSat k hi lo n).laneIdle = s.laneIdle := rfl
@[simp] theorem State.incSat_laneAt (s : State) (k hi lo n : Nat) : (s.incSat k hi lo n).laneAt = s.laneAt := rfl
@[simp] theorem State.incSat_rx (s : State) (k hi lo n : Nat) : (s.incSat k hi lo n).rx = s.rx := rfl
@[simp] theorem State.incSat_mac (s : State) (k hi lo n : Nat) : (s.incSat k hi lo n).mac = s.mac := rfl
@[simp] theorem State.incSat_stream (s : State) (k hi lo n : Nat) : (s.incSat k hi lo n).stream = s.stream := rfl
@[simp] theorem State.incSat_cpriTx (s : State) (k hi lo n : Nat) : (s.incSat k hi lo n).cpriTx = s.cpriTx := rfl
@[simp] theorem State.incSat_cpSent (s : State) (k hi lo n : Nat) : (s.incSat k hi lo n).cpSent = s.cpSent := rfl
@[simp] theorem State.incSat_fdb (s : State) (k hi lo n : Nat) : (s.incSat k hi lo n).fdb = s.fdb := rfl
@[simp] theorem State.incSat_epTold (s : State) (k hi lo n : Nat) : (s.incSat k hi lo n).epTold = s.epTold := rfl
@[simp] theorem State.incSat_epTime (s : State) (k hi lo n : Nat) : (s.incSat k hi lo n).epTime = s.epTime := rfl
@[simp] theorem State.incSat_session (s : State) (k hi lo n : Nat) : (s.incSat k hi lo n).session = s.session := rfl
@[simp] theorem State.incSat_handshake (s : State) (k hi lo n : Nat) : (s.incSat k hi lo n).handshake = s.handshake := rfl
@[simp] theorem State.incSat_idsGiven (s : State) (k hi lo n : Nat) : (s.incSat k hi lo n).idsGiven = s.idsGiven := rfl
@[simp] theorem State.incSat_ephGiven (s : State) (k hi lo n : Nat) : (s.incSat k hi lo n).ephGiven = s.ephGiven := rfl
@[simp] theorem State.incSat_commits (s : State) (k hi lo n : Nat) : (s.incSat k hi lo n).commits = s.commits := rfl
@[simp] theorem State.incSat_mramWaits (s : State) (k hi lo n : Nat) : (s.incSat k hi lo n).mramWaits = s.mramWaits := rfl
@[simp] theorem State.incSat_nvA (s : State) (k hi lo n : Nat) : (s.incSat k hi lo n).nvA = s.nvA := rfl
@[simp] theorem State.incSat_nvB (s : State) (k hi lo n : Nat) : (s.incSat k hi lo n).nvB = s.nvB := rfl
@[simp] theorem State.incSat_unit (s : State) (k hi lo n : Nat) : (s.incSat k hi lo n).unit = s.unit := rfl
@[simp] theorem State.incSat_packPower (s : State) (k hi lo n : Nat) : (s.incSat k hi lo n).packPower = s.packPower := rfl
@[simp] theorem State.incSat_packReq (s : State) (k hi lo n : Nat) : (s.incSat k hi lo n).packReq = s.packReq := rfl
@[simp] theorem State.incSat_pwr (s : State) (k hi lo n : Nat) : (s.incSat k hi lo n).pwr = s.pwr := rfl
@[simp] theorem State.incSat_dev (s : State) (k hi lo n : Nat) : (s.incSat k hi lo n).dev = s.dev := rfl
@[simp] theorem State.incSat_guardLead (s : State) (k hi lo n : Nat) : (s.incSat k hi lo n).guardLead = s.guardLead := rfl
@[simp] theorem State.incSat_guardAt (s : State) (k hi lo n : Nat) : (s.incSat k hi lo n).guardAt = s.guardAt := rfl
@[simp] theorem State.incSat_thermalDormant (s : State) (k hi lo n : Nat) : (s.incSat k hi lo n).thermalDormant = s.thermalDormant := rfl
@[simp] theorem State.incSat_warn (s : State) (k hi lo n : Nat) : (s.incSat k hi lo n).warn = s.warn := rfl
@[simp] theorem State.incSat_warnSince (s : State) (k hi lo n : Nat) : (s.incSat k hi lo n).warnSince = s.warnSince := rfl
@[simp] theorem State.incSat_railLow (s : State) (k hi lo n : Nat) : (s.incSat k hi lo n).railLow = s.railLow := rfl
@[simp] theorem State.incSat_dips (s : State) (k hi lo n : Nat) : (s.incSat k hi lo n).dips = s.dips := rfl
@[simp] theorem State.incSat_packIdleFor (s : State) (k hi lo n : Nat) : (s.incSat k hi lo n).packIdleFor = s.packIdleFor := rfl
@[simp] theorem State.incSat_sleepRaw (s : State) (k hi lo n : Nat) : (s.incSat k hi lo n).sleepRaw = s.sleepRaw := rfl
@[simp] theorem State.incSat_emergencies (s : State) (k hi lo n : Nat) : (s.incSat k hi lo n).emergencies = s.emergencies := rfl
@[simp] theorem State.incSat_hourTold (s : State) (k hi lo n : Nat) : (s.incSat k hi lo n).hourTold = s.hourTold := rfl
@[simp] theorem State.incSat_opsecHour (s : State) (k hi lo n : Nat) : (s.incSat k hi lo n).opsecHour = s.opsecHour := rfl
@[simp] theorem State.incSat_resTold (s : State) (k hi lo n : Nat) : (s.incSat k hi lo n).resTold = s.resTold := rfl
@[simp] theorem State.incSat_resetJob (s : State) (k hi lo n : Nat) : (s.incSat k hi lo n).resetJob = s.resetJob := rfl
@[simp] theorem State.incSat_aonPor (s : State) (k hi lo n : Nat) : (s.incSat k hi lo n).aonPor = s.aonPor := rfl
@[simp] theorem State.incSat_bootRaw (s : State) (k hi lo n : Nat) : (s.incSat k hi lo n).bootRaw = s.bootRaw := rfl
@[simp] theorem State.incSat_bootsel (s : State) (k hi lo n : Nat) : (s.incSat k hi lo n).bootsel = s.bootsel := rfl
@[simp] theorem State.incSat_loadQueue (s : State) (k hi lo n : Nat) : (s.incSat k hi lo n).loadQueue = s.loadQueue := rfl
@[simp] theorem State.incSat_loadSlot (s : State) (k hi lo n : Nat) : (s.incSat k hi lo n).loadSlot = s.loadSlot := rfl
@[simp] theorem State.incSat_trialStart (s : State) (k hi lo n : Nat) : (s.incSat k hi lo n).trialStart = s.trialStart := rfl
@[simp] theorem State.incSat_l2 (s : State) (k hi lo n : Nat) : (s.incSat k hi lo n).l2 = s.l2 := rfl
@[simp] theorem State.incSat_shdTold (s : State) (k hi lo n : Nat) : (s.incSat k hi lo n).shdTold = s.shdTold := rfl
@[simp] theorem State.incSat_shdPart (s : State) (k hi lo n : Nat) : (s.incSat k hi lo n).shdPart = s.shdPart := rfl
@[simp] theorem State.incSat_petRaw (s : State) (k hi lo n : Nat) : (s.incSat k hi lo n).petRaw = s.petRaw := rfl
@[simp] theorem State.incSat_l4Last (s : State) (k hi lo n : Nat) : (s.incSat k hi lo n).l4Last = s.l4Last := rfl
@[simp] theorem State.incSat_checkRaw (s : State) (k hi lo n : Nat) : (s.incSat k hi lo n).checkRaw = s.checkRaw := rfl
@[simp] theorem State.incSat_postNext (s : State) (k hi lo n : Nat) : (s.incSat k hi lo n).postNext = s.postNext := rfl
@[simp] theorem State.incSat_segment (s : State) (k hi lo n : Nat) : (s.incSat k hi lo n).segment = s.segment := rfl
@[simp] theorem State.incSat_segNext (s : State) (k hi lo n : Nat) : (s.incSat k hi lo n).segNext = s.segNext := rfl
@[simp] theorem State.incSat_segHead (s : State) (k hi lo n : Nat) : (s.incSat k hi lo n).segHead = s.segHead := rfl
@[simp] theorem State.incSat_retests (s : State) (k hi lo n : Nat) : (s.incSat k hi lo n).retests = s.retests := rfl
@[simp] theorem State.incSat_walkRaw (s : State) (k hi lo n : Nat) : (s.incSat k hi lo n).walkRaw = s.walkRaw := rfl
@[simp] theorem State.incSat_staged (s : State) (k hi lo n : Nat) : (s.incSat k hi lo n).staged = s.staged := rfl
@[simp] theorem State.incSat_lostRun (s : State) (k hi lo n : Nat) : (s.incSat k hi lo n).lostRun = s.lostRun := rfl
@[simp] theorem State.incSat_lostFirst (s : State) (k hi lo n : Nat) : (s.incSat k hi lo n).lostFirst = s.lostFirst := rfl
@[simp] theorem State.incSat_evSeq (s : State) (k hi lo n : Nat) : (s.incSat k hi lo n).evSeq = s.evSeq := rfl
@[simp] theorem State.incSat_ring (s : State) (k hi lo n : Nat) : (s.incSat k hi lo n).ring = s.ring := rfl
@[simp] theorem State.incSat_ringBlock (s : State) (k hi lo n : Nat) : (s.incSat k hi lo n).ringBlock = s.ringBlock := rfl
@[simp] theorem State.incSat_ringOff (s : State) (k hi lo n : Nat) : (s.incSat k hi lo n).ringOff = s.ringOff := rfl
@[simp] theorem State.incSat_opsec (s : State) (k hi lo n : Nat) : (s.incSat k hi lo n).opsec = s.opsec := rfl
@[simp] theorem State.incSat_pwrcycSt (s : State) (k hi lo n : Nat) : (s.incSat k hi lo n).pwrcycSt = s.pwrcycSt := rfl
@[simp] theorem State.incSat_hoT (s : State) (k hi lo n : Nat) : (s.incSat k hi lo n).hoT = s.hoT := rfl
@[simp] theorem State.incSat_hoChecked (s : State) (k hi lo n : Nat) : (s.incSat k hi lo n).hoChecked = s.hoChecked := rfl
@[simp] theorem State.incSat_flash (s : State) (k hi lo n : Nat) : (s.incSat k hi lo n).flash = s.flash := rfl
@[simp] theorem State.incSat_flashOp (s : State) (k hi lo n : Nat) : (s.incSat k hi lo n).flashOp = s.flashOp := rfl
@[simp] theorem State.incSat_gelpel (s : State) (k hi lo n : Nat) : (s.incSat k hi lo n).gelpel = s.gelpel := rfl
@[simp] theorem State.incSat_padIn (s : State) (k hi lo n : Nat) : (s.incSat k hi lo n).padIn = s.padIn := rfl
@[simp] theorem State.incSat_ppsOut (s : State) (k hi lo n : Nat) : (s.incSat k hi lo n).ppsOut = s.ppsOut := rfl
@[simp] theorem State.incSat_heartbeat (s : State) (k hi lo n : Nat) : (s.incSat k hi lo n).heartbeat = s.heartbeat := rfl
@[simp] theorem State.incSat_heartHz (s : State) (k hi lo n : Nat) : (s.incSat k hi lo n).heartHz = s.heartHz := rfl
@[simp] theorem State.incSat_faultN (s : State) (k hi lo n : Nat) : (s.incSat k hi lo n).faultN = s.faultN := rfl
@[simp] theorem State.incSat_thermTrip (s : State) (k hi lo n : Nat) : (s.incSat k hi lo n).thermTrip = s.thermTrip := rfl
@[simp] theorem State.incSat_pwrgood (s : State) (k hi lo n : Nat) : (s.incSat k hi lo n).pwrgood = s.pwrgood := rfl
@[simp] theorem State.incSat_resetN (s : State) (k hi lo n : Nat) : (s.incSat k hi lo n).resetN = s.resetN := rfl
@[simp] theorem State.incSat_trstN (s : State) (k hi lo n : Nat) : (s.incSat k hi lo n).trstN = s.trstN := rfl
@[simp] theorem State.incSat_uart (s : State) (k hi lo n : Nat) : (s.incSat k hi lo n).uart = s.uart := rfl
@[simp] theorem State.incSat_clocksStopped (s : State) (k hi lo n : Nat) : (s.incSat k hi lo n).clocksStopped = s.clocksStopped := rfl
@[simp] theorem State.incSat_i2cBusy (s : State) (k hi lo n : Nat) : (s.incSat k hi lo n).i2cBusy = s.i2cBusy := rfl
@[simp] theorem State.incSat_reply (s : State) (k hi lo n : Nat) : (s.incSat k hi lo n).reply = s.reply := rfl
@[simp] theorem State.incSat_mgmtOut (s : State) (k hi lo n : Nat) : (s.incSat k hi lo n).mgmtOut = s.mgmtOut := rfl
@[simp] theorem State.incSat_notes (s : State) (k hi lo n : Nat) : (s.incSat k hi lo n).notes = s.notes := rfl
@[simp] theorem State.incSat_dfltAll (s : State) (k hi lo n : Nat) : (s.incSat k hi lo n).dfltAll = s.dfltAll := rfl
@[simp] theorem State.incSat_free (s : State) (k hi lo n : Nat) : (s.incSat k hi lo n).free = s.free := rfl

/-! `State.incWrap` -/

@[simp] theorem State.incWrap_pending (s : State) (k hi lo n : Nat) : (s.incWrap k hi lo n).pending = s.pending := rfl
@[simp] theorem State.incWrap_bank (s : State) (k hi lo n : Nat) : (s.incWrap k hi lo n).bank = s.bank := rfl
@[simp] theorem State.incWrap_hold (s : State) (k hi lo n : Nat) : (s.incWrap k hi lo n).hold = s.hold := rfl
@[simp] theorem State.incWrap_staging (s : State) (k hi lo n : Nat) : (s.incWrap k hi lo n).staging = s.staging := rfl
@[simp] theorem State.incWrap_mem (s : State) (k hi lo n : Nat) : (s.incWrap k hi lo n).mem = s.mem := rfl
@[simp] theorem State.incWrap_poison (s : State) (k hi lo n : Nat) : (s.incWrap k hi lo n).poison = s.poison := rfl
@[simp] theorem State.incWrap_fresh (s : State) (k hi lo n : Nat) : (s.incWrap k hi lo n).fresh = s.fresh := rfl
@[simp] theorem State.incWrap_merges (s : State) (k hi lo n : Nat) : (s.incWrap k hi lo n).merges = s.merges := rfl
@[simp] theorem State.incWrap_refetch (s : State) (k hi lo n : Nat) : (s.incWrap k hi lo n).refetch = s.refetch := rfl
@[simp] theorem State.incWrap_raw (s : State) (k hi lo n : Nat) : (s.incWrap k hi lo n).raw = s.raw := rfl
@[simp] theorem State.incWrap_tbWrites (s : State) (k hi lo n : Nat) : (s.incWrap k hi lo n).tbWrites = s.tbWrites := rfl
@[simp] theorem State.incWrap_capSlots (s : State) (k hi lo n : Nat) : (s.incWrap k hi lo n).capSlots = s.capSlots := rfl
@[simp] theorem State.incWrap_capFifo (s : State) (k hi lo n : Nat) : (s.incWrap k hi lo n).capFifo = s.capFifo := rfl
@[simp] theorem State.incWrap_capPopped (s : State) (k hi lo n : Nat) : (s.incWrap k hi lo n).capPopped = s.capPopped := rfl
@[simp] theorem State.incWrap_live (s : State) (k hi lo n : Nat) : (s.incWrap k hi lo n).live = s.live := rfl
@[simp] theorem State.incWrap_trig (s : State) (k hi lo n : Nat) : (s.incWrap k hi lo n).trig = s.trig := rfl
@[simp] theorem State.incWrap_slotDue (s : State) (k hi lo n : Nat) : (s.incWrap k hi lo n).slotDue = s.slotDue := rfl
@[simp] theorem State.incWrap_refLostRaw (s : State) (k hi lo n : Nat) : (s.incWrap k hi lo n).refLostRaw = s.refLostRaw := rfl
@[simp] theorem State.incWrap_ppsRaw (s : State) (k hi lo n : Nat) : (s.incWrap k hi lo n).ppsRaw = s.ppsRaw := rfl
@[simp] theorem State.incWrap_synceLow (s : State) (k hi lo n : Nat) : (s.incWrap k hi lo n).synceLow = s.synceLow := rfl
@[simp] theorem State.incWrap_kennel (s : State) (k hi lo n : Nat) : (s.incWrap k hi lo n).kennel = s.kennel := rfl
@[simp] theorem State.incWrap_outq (s : State) (k hi lo n : Nat) : (s.incWrap k hi lo n).outq = s.outq := rfl
@[simp] theorem State.incWrap_carrier (s : State) (k hi lo n : Nat) : (s.incWrap k hi lo n).carrier = s.carrier := rfl
@[simp] theorem State.incWrap_tile (s : State) (k hi lo n : Nat) : (s.incWrap k hi lo n).tile = s.tile := rfl
@[simp] theorem State.incWrap_packStop (s : State) (k hi lo n : Nat) : (s.incWrap k hi lo n).packStop = s.packStop := rfl
@[simp] theorem State.incWrap_core (s : State) (k hi lo n : Nat) : (s.incWrap k hi lo n).core = s.core := rfl
@[simp] theorem State.incWrap_port (s : State) (k hi lo n : Nat) : (s.incWrap k hi lo n).port = s.port := rfl
@[simp] theorem State.incWrap_irq (s : State) (k hi lo n : Nat) : (s.incWrap k hi lo n).irq = s.irq := rfl
@[simp] theorem State.incWrap_chan (s : State) (k hi lo n : Nat) : (s.incWrap k hi lo n).chan = s.chan := rfl
@[simp] theorem State.incWrap_engine (s : State) (k hi lo n : Nat) : (s.incWrap k hi lo n).engine = s.engine := rfl
@[simp] theorem State.incWrap_point (s : State) (k hi lo n : Nat) : (s.incWrap k hi lo n).point = s.point := rfl
@[simp] theorem State.incWrap_masked (s : State) (k hi lo n : Nat) : (s.incWrap k hi lo n).masked = s.masked := rfl
@[simp] theorem State.incWrap_stackIntlv (s : State) (k hi lo n : Nat) : (s.incWrap k hi lo n).stackIntlv = s.stackIntlv := rfl
@[simp] theorem State.incWrap_mgtRuns (s : State) (k hi lo n : Nat) : (s.incWrap k hi lo n).mgtRuns = s.mgtRuns := rfl
@[simp] theorem State.incWrap_hound (s : State) (k hi lo n : Nat) : (s.incWrap k hi lo n).hound = s.hound := rfl
@[simp] theorem State.incWrap_job (s : State) (k hi lo n : Nat) : (s.incWrap k hi lo n).job = s.job := rfl
@[simp] theorem State.incWrap_accelBusy (s : State) (k hi lo n : Nat) : (s.incWrap k hi lo n).accelBusy = s.accelBusy := rfl
@[simp] theorem State.incWrap_tx (s : State) (k hi lo n : Nat) : (s.incWrap k hi lo n).tx = s.tx := rfl
@[simp] theorem State.incWrap_txGates (s : State) (k hi lo n : Nat) : (s.incWrap k hi lo n).txGates = s.txGates := rfl
@[simp] theorem State.incWrap_paChecks (s : State) (k hi lo n : Nat) : (s.incWrap k hi lo n).paChecks = s.paChecks := rfl
@[simp] theorem State.incWrap_bank8 (s : State) (k hi lo n : Nat) : (s.incWrap k hi lo n).bank8 = s.bank8 := rfl
@[simp] theorem State.incWrap_lateSlot (s : State) (k hi lo n : Nat) : (s.incWrap k hi lo n).lateSlot = s.lateSlot := rfl
@[simp] theorem State.incWrap_decode (s : State) (k hi lo n : Nat) : (s.incWrap k hi lo n).decode = s.decode := rfl
@[simp] theorem State.incWrap_flow (s : State) (k hi lo n : Nat) : (s.incWrap k hi lo n).flow = s.flow := rfl
@[simp] theorem State.incWrap_stash (s : State) (k hi lo n : Nat) : (s.incWrap k hi lo n).stash = s.stash := rfl
@[simp] theorem State.incWrap_ringTaken (s : State) (k hi lo n : Nat) : (s.incWrap k hi lo n).ringTaken = s.ringTaken := rfl
@[simp] theorem State.incWrap_ctxCache (s : State) (k hi lo n : Nat) : (s.incWrap k hi lo n).ctxCache = s.ctxCache := rfl
@[simp] theorem State.incWrap_laneAdv (s : State) (k hi lo n : Nat) : (s.incWrap k hi lo n).laneAdv = s.laneAdv := rfl
@[simp] theorem State.incWrap_sdref (s : State) (k hi lo n : Nat) : (s.incWrap k hi lo n).sdref = s.sdref := rfl
@[simp] theorem State.incWrap_laneIdle (s : State) (k hi lo n : Nat) : (s.incWrap k hi lo n).laneIdle = s.laneIdle := rfl
@[simp] theorem State.incWrap_laneAt (s : State) (k hi lo n : Nat) : (s.incWrap k hi lo n).laneAt = s.laneAt := rfl
@[simp] theorem State.incWrap_rx (s : State) (k hi lo n : Nat) : (s.incWrap k hi lo n).rx = s.rx := rfl
@[simp] theorem State.incWrap_mac (s : State) (k hi lo n : Nat) : (s.incWrap k hi lo n).mac = s.mac := rfl
@[simp] theorem State.incWrap_stream (s : State) (k hi lo n : Nat) : (s.incWrap k hi lo n).stream = s.stream := rfl
@[simp] theorem State.incWrap_cpriTx (s : State) (k hi lo n : Nat) : (s.incWrap k hi lo n).cpriTx = s.cpriTx := rfl
@[simp] theorem State.incWrap_cpSent (s : State) (k hi lo n : Nat) : (s.incWrap k hi lo n).cpSent = s.cpSent := rfl
@[simp] theorem State.incWrap_fdb (s : State) (k hi lo n : Nat) : (s.incWrap k hi lo n).fdb = s.fdb := rfl
@[simp] theorem State.incWrap_epTold (s : State) (k hi lo n : Nat) : (s.incWrap k hi lo n).epTold = s.epTold := rfl
@[simp] theorem State.incWrap_epTime (s : State) (k hi lo n : Nat) : (s.incWrap k hi lo n).epTime = s.epTime := rfl
@[simp] theorem State.incWrap_session (s : State) (k hi lo n : Nat) : (s.incWrap k hi lo n).session = s.session := rfl
@[simp] theorem State.incWrap_handshake (s : State) (k hi lo n : Nat) : (s.incWrap k hi lo n).handshake = s.handshake := rfl
@[simp] theorem State.incWrap_idsGiven (s : State) (k hi lo n : Nat) : (s.incWrap k hi lo n).idsGiven = s.idsGiven := rfl
@[simp] theorem State.incWrap_ephGiven (s : State) (k hi lo n : Nat) : (s.incWrap k hi lo n).ephGiven = s.ephGiven := rfl
@[simp] theorem State.incWrap_commits (s : State) (k hi lo n : Nat) : (s.incWrap k hi lo n).commits = s.commits := rfl
@[simp] theorem State.incWrap_mramWaits (s : State) (k hi lo n : Nat) : (s.incWrap k hi lo n).mramWaits = s.mramWaits := rfl
@[simp] theorem State.incWrap_nvA (s : State) (k hi lo n : Nat) : (s.incWrap k hi lo n).nvA = s.nvA := rfl
@[simp] theorem State.incWrap_nvB (s : State) (k hi lo n : Nat) : (s.incWrap k hi lo n).nvB = s.nvB := rfl
@[simp] theorem State.incWrap_unit (s : State) (k hi lo n : Nat) : (s.incWrap k hi lo n).unit = s.unit := rfl
@[simp] theorem State.incWrap_packPower (s : State) (k hi lo n : Nat) : (s.incWrap k hi lo n).packPower = s.packPower := rfl
@[simp] theorem State.incWrap_packReq (s : State) (k hi lo n : Nat) : (s.incWrap k hi lo n).packReq = s.packReq := rfl
@[simp] theorem State.incWrap_pwr (s : State) (k hi lo n : Nat) : (s.incWrap k hi lo n).pwr = s.pwr := rfl
@[simp] theorem State.incWrap_dev (s : State) (k hi lo n : Nat) : (s.incWrap k hi lo n).dev = s.dev := rfl
@[simp] theorem State.incWrap_guardLead (s : State) (k hi lo n : Nat) : (s.incWrap k hi lo n).guardLead = s.guardLead := rfl
@[simp] theorem State.incWrap_guardAt (s : State) (k hi lo n : Nat) : (s.incWrap k hi lo n).guardAt = s.guardAt := rfl
@[simp] theorem State.incWrap_thermalDormant (s : State) (k hi lo n : Nat) : (s.incWrap k hi lo n).thermalDormant = s.thermalDormant := rfl
@[simp] theorem State.incWrap_warn (s : State) (k hi lo n : Nat) : (s.incWrap k hi lo n).warn = s.warn := rfl
@[simp] theorem State.incWrap_warnSince (s : State) (k hi lo n : Nat) : (s.incWrap k hi lo n).warnSince = s.warnSince := rfl
@[simp] theorem State.incWrap_railLow (s : State) (k hi lo n : Nat) : (s.incWrap k hi lo n).railLow = s.railLow := rfl
@[simp] theorem State.incWrap_dips (s : State) (k hi lo n : Nat) : (s.incWrap k hi lo n).dips = s.dips := rfl
@[simp] theorem State.incWrap_packIdleFor (s : State) (k hi lo n : Nat) : (s.incWrap k hi lo n).packIdleFor = s.packIdleFor := rfl
@[simp] theorem State.incWrap_sleepRaw (s : State) (k hi lo n : Nat) : (s.incWrap k hi lo n).sleepRaw = s.sleepRaw := rfl
@[simp] theorem State.incWrap_emergencies (s : State) (k hi lo n : Nat) : (s.incWrap k hi lo n).emergencies = s.emergencies := rfl
@[simp] theorem State.incWrap_hourTold (s : State) (k hi lo n : Nat) : (s.incWrap k hi lo n).hourTold = s.hourTold := rfl
@[simp] theorem State.incWrap_opsecHour (s : State) (k hi lo n : Nat) : (s.incWrap k hi lo n).opsecHour = s.opsecHour := rfl
@[simp] theorem State.incWrap_resTold (s : State) (k hi lo n : Nat) : (s.incWrap k hi lo n).resTold = s.resTold := rfl
@[simp] theorem State.incWrap_resetJob (s : State) (k hi lo n : Nat) : (s.incWrap k hi lo n).resetJob = s.resetJob := rfl
@[simp] theorem State.incWrap_aonPor (s : State) (k hi lo n : Nat) : (s.incWrap k hi lo n).aonPor = s.aonPor := rfl
@[simp] theorem State.incWrap_bootRaw (s : State) (k hi lo n : Nat) : (s.incWrap k hi lo n).bootRaw = s.bootRaw := rfl
@[simp] theorem State.incWrap_bootsel (s : State) (k hi lo n : Nat) : (s.incWrap k hi lo n).bootsel = s.bootsel := rfl
@[simp] theorem State.incWrap_loadQueue (s : State) (k hi lo n : Nat) : (s.incWrap k hi lo n).loadQueue = s.loadQueue := rfl
@[simp] theorem State.incWrap_loadSlot (s : State) (k hi lo n : Nat) : (s.incWrap k hi lo n).loadSlot = s.loadSlot := rfl
@[simp] theorem State.incWrap_trialStart (s : State) (k hi lo n : Nat) : (s.incWrap k hi lo n).trialStart = s.trialStart := rfl
@[simp] theorem State.incWrap_l2 (s : State) (k hi lo n : Nat) : (s.incWrap k hi lo n).l2 = s.l2 := rfl
@[simp] theorem State.incWrap_shdTold (s : State) (k hi lo n : Nat) : (s.incWrap k hi lo n).shdTold = s.shdTold := rfl
@[simp] theorem State.incWrap_shdPart (s : State) (k hi lo n : Nat) : (s.incWrap k hi lo n).shdPart = s.shdPart := rfl
@[simp] theorem State.incWrap_petRaw (s : State) (k hi lo n : Nat) : (s.incWrap k hi lo n).petRaw = s.petRaw := rfl
@[simp] theorem State.incWrap_l4Last (s : State) (k hi lo n : Nat) : (s.incWrap k hi lo n).l4Last = s.l4Last := rfl
@[simp] theorem State.incWrap_checkRaw (s : State) (k hi lo n : Nat) : (s.incWrap k hi lo n).checkRaw = s.checkRaw := rfl
@[simp] theorem State.incWrap_postNext (s : State) (k hi lo n : Nat) : (s.incWrap k hi lo n).postNext = s.postNext := rfl
@[simp] theorem State.incWrap_segment (s : State) (k hi lo n : Nat) : (s.incWrap k hi lo n).segment = s.segment := rfl
@[simp] theorem State.incWrap_segNext (s : State) (k hi lo n : Nat) : (s.incWrap k hi lo n).segNext = s.segNext := rfl
@[simp] theorem State.incWrap_segHead (s : State) (k hi lo n : Nat) : (s.incWrap k hi lo n).segHead = s.segHead := rfl
@[simp] theorem State.incWrap_retests (s : State) (k hi lo n : Nat) : (s.incWrap k hi lo n).retests = s.retests := rfl
@[simp] theorem State.incWrap_walkRaw (s : State) (k hi lo n : Nat) : (s.incWrap k hi lo n).walkRaw = s.walkRaw := rfl
@[simp] theorem State.incWrap_staged (s : State) (k hi lo n : Nat) : (s.incWrap k hi lo n).staged = s.staged := rfl
@[simp] theorem State.incWrap_lostRun (s : State) (k hi lo n : Nat) : (s.incWrap k hi lo n).lostRun = s.lostRun := rfl
@[simp] theorem State.incWrap_lostFirst (s : State) (k hi lo n : Nat) : (s.incWrap k hi lo n).lostFirst = s.lostFirst := rfl
@[simp] theorem State.incWrap_evSeq (s : State) (k hi lo n : Nat) : (s.incWrap k hi lo n).evSeq = s.evSeq := rfl
@[simp] theorem State.incWrap_ring (s : State) (k hi lo n : Nat) : (s.incWrap k hi lo n).ring = s.ring := rfl
@[simp] theorem State.incWrap_ringBlock (s : State) (k hi lo n : Nat) : (s.incWrap k hi lo n).ringBlock = s.ringBlock := rfl
@[simp] theorem State.incWrap_ringOff (s : State) (k hi lo n : Nat) : (s.incWrap k hi lo n).ringOff = s.ringOff := rfl
@[simp] theorem State.incWrap_opsec (s : State) (k hi lo n : Nat) : (s.incWrap k hi lo n).opsec = s.opsec := rfl
@[simp] theorem State.incWrap_pwrcycSt (s : State) (k hi lo n : Nat) : (s.incWrap k hi lo n).pwrcycSt = s.pwrcycSt := rfl
@[simp] theorem State.incWrap_hoT (s : State) (k hi lo n : Nat) : (s.incWrap k hi lo n).hoT = s.hoT := rfl
@[simp] theorem State.incWrap_hoChecked (s : State) (k hi lo n : Nat) : (s.incWrap k hi lo n).hoChecked = s.hoChecked := rfl
@[simp] theorem State.incWrap_flash (s : State) (k hi lo n : Nat) : (s.incWrap k hi lo n).flash = s.flash := rfl
@[simp] theorem State.incWrap_flashOp (s : State) (k hi lo n : Nat) : (s.incWrap k hi lo n).flashOp = s.flashOp := rfl
@[simp] theorem State.incWrap_gelpel (s : State) (k hi lo n : Nat) : (s.incWrap k hi lo n).gelpel = s.gelpel := rfl
@[simp] theorem State.incWrap_padIn (s : State) (k hi lo n : Nat) : (s.incWrap k hi lo n).padIn = s.padIn := rfl
@[simp] theorem State.incWrap_ppsOut (s : State) (k hi lo n : Nat) : (s.incWrap k hi lo n).ppsOut = s.ppsOut := rfl
@[simp] theorem State.incWrap_heartbeat (s : State) (k hi lo n : Nat) : (s.incWrap k hi lo n).heartbeat = s.heartbeat := rfl
@[simp] theorem State.incWrap_heartHz (s : State) (k hi lo n : Nat) : (s.incWrap k hi lo n).heartHz = s.heartHz := rfl
@[simp] theorem State.incWrap_faultN (s : State) (k hi lo n : Nat) : (s.incWrap k hi lo n).faultN = s.faultN := rfl
@[simp] theorem State.incWrap_thermTrip (s : State) (k hi lo n : Nat) : (s.incWrap k hi lo n).thermTrip = s.thermTrip := rfl
@[simp] theorem State.incWrap_pwrgood (s : State) (k hi lo n : Nat) : (s.incWrap k hi lo n).pwrgood = s.pwrgood := rfl
@[simp] theorem State.incWrap_resetN (s : State) (k hi lo n : Nat) : (s.incWrap k hi lo n).resetN = s.resetN := rfl
@[simp] theorem State.incWrap_trstN (s : State) (k hi lo n : Nat) : (s.incWrap k hi lo n).trstN = s.trstN := rfl
@[simp] theorem State.incWrap_uart (s : State) (k hi lo n : Nat) : (s.incWrap k hi lo n).uart = s.uart := rfl
@[simp] theorem State.incWrap_clocksStopped (s : State) (k hi lo n : Nat) : (s.incWrap k hi lo n).clocksStopped = s.clocksStopped := rfl
@[simp] theorem State.incWrap_i2cBusy (s : State) (k hi lo n : Nat) : (s.incWrap k hi lo n).i2cBusy = s.i2cBusy := rfl
@[simp] theorem State.incWrap_reply (s : State) (k hi lo n : Nat) : (s.incWrap k hi lo n).reply = s.reply := rfl
@[simp] theorem State.incWrap_mgmtOut (s : State) (k hi lo n : Nat) : (s.incWrap k hi lo n).mgmtOut = s.mgmtOut := rfl
@[simp] theorem State.incWrap_notes (s : State) (k hi lo n : Nat) : (s.incWrap k hi lo n).notes = s.notes := rfl
@[simp] theorem State.incWrap_dfltAll (s : State) (k hi lo n : Nat) : (s.incWrap k hi lo n).dfltAll = s.dfltAll := rfl
@[simp] theorem State.incWrap_free (s : State) (k hi lo n : Nat) : (s.incWrap k hi lo n).free = s.free := rfl

/-! `State.answer` -/

@[simp] theorem State.answer_pending (s : State) (r : Reply) : (s.answer r).pending = s.pending := rfl
@[simp] theorem State.answer_od (s : State) (r : Reply) : (s.answer r).od = s.od := rfl
@[simp] theorem State.answer_bank (s : State) (r : Reply) : (s.answer r).bank = s.bank := rfl
@[simp] theorem State.answer_hold (s : State) (r : Reply) : (s.answer r).hold = s.hold := rfl
@[simp] theorem State.answer_staging (s : State) (r : Reply) : (s.answer r).staging = s.staging := rfl
@[simp] theorem State.answer_mem (s : State) (r : Reply) : (s.answer r).mem = s.mem := rfl
@[simp] theorem State.answer_poison (s : State) (r : Reply) : (s.answer r).poison = s.poison := rfl
@[simp] theorem State.answer_fresh (s : State) (r : Reply) : (s.answer r).fresh = s.fresh := rfl
@[simp] theorem State.answer_merges (s : State) (r : Reply) : (s.answer r).merges = s.merges := rfl
@[simp] theorem State.answer_anchor (s : State) (r : Reply) : (s.answer r).anchor = s.anchor := rfl
@[simp] theorem State.answer_refetch (s : State) (r : Reply) : (s.answer r).refetch = s.refetch := rfl
@[simp] theorem State.answer_raw (s : State) (r : Reply) : (s.answer r).raw = s.raw := rfl
@[simp] theorem State.answer_tbWrites (s : State) (r : Reply) : (s.answer r).tbWrites = s.tbWrites := rfl
@[simp] theorem State.answer_capSlots (s : State) (r : Reply) : (s.answer r).capSlots = s.capSlots := rfl
@[simp] theorem State.answer_capFifo (s : State) (r : Reply) : (s.answer r).capFifo = s.capFifo := rfl
@[simp] theorem State.answer_capPopped (s : State) (r : Reply) : (s.answer r).capPopped = s.capPopped := rfl
@[simp] theorem State.answer_live (s : State) (r : Reply) : (s.answer r).live = s.live := rfl
@[simp] theorem State.answer_trig (s : State) (r : Reply) : (s.answer r).trig = s.trig := rfl
@[simp] theorem State.answer_slotDue (s : State) (r : Reply) : (s.answer r).slotDue = s.slotDue := rfl
@[simp] theorem State.answer_refLostRaw (s : State) (r : Reply) : (s.answer r).refLostRaw = s.refLostRaw := rfl
@[simp] theorem State.answer_ppsRaw (s : State) (r : Reply) : (s.answer r).ppsRaw = s.ppsRaw := rfl
@[simp] theorem State.answer_synceLow (s : State) (r : Reply) : (s.answer r).synceLow = s.synceLow := rfl
@[simp] theorem State.answer_kennel (s : State) (r : Reply) : (s.answer r).kennel = s.kennel := rfl
@[simp] theorem State.answer_outq (s : State) (r : Reply) : (s.answer r).outq = s.outq := rfl
@[simp] theorem State.answer_carrier (s : State) (r : Reply) : (s.answer r).carrier = s.carrier := rfl
@[simp] theorem State.answer_tile (s : State) (r : Reply) : (s.answer r).tile = s.tile := rfl
@[simp] theorem State.answer_packStop (s : State) (r : Reply) : (s.answer r).packStop = s.packStop := rfl
@[simp] theorem State.answer_core (s : State) (r : Reply) : (s.answer r).core = s.core := rfl
@[simp] theorem State.answer_port (s : State) (r : Reply) : (s.answer r).port = s.port := rfl
@[simp] theorem State.answer_irq (s : State) (r : Reply) : (s.answer r).irq = s.irq := rfl
@[simp] theorem State.answer_chan (s : State) (r : Reply) : (s.answer r).chan = s.chan := rfl
@[simp] theorem State.answer_engine (s : State) (r : Reply) : (s.answer r).engine = s.engine := rfl
@[simp] theorem State.answer_point (s : State) (r : Reply) : (s.answer r).point = s.point := rfl
@[simp] theorem State.answer_masked (s : State) (r : Reply) : (s.answer r).masked = s.masked := rfl
@[simp] theorem State.answer_stackIntlv (s : State) (r : Reply) : (s.answer r).stackIntlv = s.stackIntlv := rfl
@[simp] theorem State.answer_mgtRuns (s : State) (r : Reply) : (s.answer r).mgtRuns = s.mgtRuns := rfl
@[simp] theorem State.answer_hound (s : State) (r : Reply) : (s.answer r).hound = s.hound := rfl
@[simp] theorem State.answer_job (s : State) (r : Reply) : (s.answer r).job = s.job := rfl
@[simp] theorem State.answer_accelBusy (s : State) (r : Reply) : (s.answer r).accelBusy = s.accelBusy := rfl
@[simp] theorem State.answer_tx (s : State) (r : Reply) : (s.answer r).tx = s.tx := rfl
@[simp] theorem State.answer_txGates (s : State) (r : Reply) : (s.answer r).txGates = s.txGates := rfl
@[simp] theorem State.answer_paChecks (s : State) (r : Reply) : (s.answer r).paChecks = s.paChecks := rfl
@[simp] theorem State.answer_bank8 (s : State) (r : Reply) : (s.answer r).bank8 = s.bank8 := rfl
@[simp] theorem State.answer_lateSlot (s : State) (r : Reply) : (s.answer r).lateSlot = s.lateSlot := rfl
@[simp] theorem State.answer_decode (s : State) (r : Reply) : (s.answer r).decode = s.decode := rfl
@[simp] theorem State.answer_flow (s : State) (r : Reply) : (s.answer r).flow = s.flow := rfl
@[simp] theorem State.answer_stash (s : State) (r : Reply) : (s.answer r).stash = s.stash := rfl
@[simp] theorem State.answer_ringTaken (s : State) (r : Reply) : (s.answer r).ringTaken = s.ringTaken := rfl
@[simp] theorem State.answer_ctxCache (s : State) (r : Reply) : (s.answer r).ctxCache = s.ctxCache := rfl
@[simp] theorem State.answer_laneAdv (s : State) (r : Reply) : (s.answer r).laneAdv = s.laneAdv := rfl
@[simp] theorem State.answer_sdref (s : State) (r : Reply) : (s.answer r).sdref = s.sdref := rfl
@[simp] theorem State.answer_laneIdle (s : State) (r : Reply) : (s.answer r).laneIdle = s.laneIdle := rfl
@[simp] theorem State.answer_laneAt (s : State) (r : Reply) : (s.answer r).laneAt = s.laneAt := rfl
@[simp] theorem State.answer_rx (s : State) (r : Reply) : (s.answer r).rx = s.rx := rfl
@[simp] theorem State.answer_mac (s : State) (r : Reply) : (s.answer r).mac = s.mac := rfl
@[simp] theorem State.answer_stream (s : State) (r : Reply) : (s.answer r).stream = s.stream := rfl
@[simp] theorem State.answer_cpriTx (s : State) (r : Reply) : (s.answer r).cpriTx = s.cpriTx := rfl
@[simp] theorem State.answer_cpSent (s : State) (r : Reply) : (s.answer r).cpSent = s.cpSent := rfl
@[simp] theorem State.answer_fdb (s : State) (r : Reply) : (s.answer r).fdb = s.fdb := rfl
@[simp] theorem State.answer_epTold (s : State) (r : Reply) : (s.answer r).epTold = s.epTold := rfl
@[simp] theorem State.answer_epTime (s : State) (r : Reply) : (s.answer r).epTime = s.epTime := rfl
@[simp] theorem State.answer_session (s : State) (r : Reply) : (s.answer r).session = s.session := rfl
@[simp] theorem State.answer_handshake (s : State) (r : Reply) : (s.answer r).handshake = s.handshake := rfl
@[simp] theorem State.answer_idsGiven (s : State) (r : Reply) : (s.answer r).idsGiven = s.idsGiven := rfl
@[simp] theorem State.answer_ephGiven (s : State) (r : Reply) : (s.answer r).ephGiven = s.ephGiven := rfl
@[simp] theorem State.answer_commits (s : State) (r : Reply) : (s.answer r).commits = s.commits := rfl
@[simp] theorem State.answer_mramWaits (s : State) (r : Reply) : (s.answer r).mramWaits = s.mramWaits := rfl
@[simp] theorem State.answer_nvA (s : State) (r : Reply) : (s.answer r).nvA = s.nvA := rfl
@[simp] theorem State.answer_nvB (s : State) (r : Reply) : (s.answer r).nvB = s.nvB := rfl
@[simp] theorem State.answer_unit (s : State) (r : Reply) : (s.answer r).unit = s.unit := rfl
@[simp] theorem State.answer_packPower (s : State) (r : Reply) : (s.answer r).packPower = s.packPower := rfl
@[simp] theorem State.answer_packReq (s : State) (r : Reply) : (s.answer r).packReq = s.packReq := rfl
@[simp] theorem State.answer_pwr (s : State) (r : Reply) : (s.answer r).pwr = s.pwr := rfl
@[simp] theorem State.answer_dev (s : State) (r : Reply) : (s.answer r).dev = s.dev := rfl
@[simp] theorem State.answer_guardLead (s : State) (r : Reply) : (s.answer r).guardLead = s.guardLead := rfl
@[simp] theorem State.answer_guardAt (s : State) (r : Reply) : (s.answer r).guardAt = s.guardAt := rfl
@[simp] theorem State.answer_thermalDormant (s : State) (r : Reply) : (s.answer r).thermalDormant = s.thermalDormant := rfl
@[simp] theorem State.answer_warn (s : State) (r : Reply) : (s.answer r).warn = s.warn := rfl
@[simp] theorem State.answer_warnSince (s : State) (r : Reply) : (s.answer r).warnSince = s.warnSince := rfl
@[simp] theorem State.answer_railLow (s : State) (r : Reply) : (s.answer r).railLow = s.railLow := rfl
@[simp] theorem State.answer_dips (s : State) (r : Reply) : (s.answer r).dips = s.dips := rfl
@[simp] theorem State.answer_packIdleFor (s : State) (r : Reply) : (s.answer r).packIdleFor = s.packIdleFor := rfl
@[simp] theorem State.answer_sleepRaw (s : State) (r : Reply) : (s.answer r).sleepRaw = s.sleepRaw := rfl
@[simp] theorem State.answer_emergencies (s : State) (r : Reply) : (s.answer r).emergencies = s.emergencies := rfl
@[simp] theorem State.answer_hourTold (s : State) (r : Reply) : (s.answer r).hourTold = s.hourTold := rfl
@[simp] theorem State.answer_opsecHour (s : State) (r : Reply) : (s.answer r).opsecHour = s.opsecHour := rfl
@[simp] theorem State.answer_resTold (s : State) (r : Reply) : (s.answer r).resTold = s.resTold := rfl
@[simp] theorem State.answer_resetJob (s : State) (r : Reply) : (s.answer r).resetJob = s.resetJob := rfl
@[simp] theorem State.answer_aonPor (s : State) (r : Reply) : (s.answer r).aonPor = s.aonPor := rfl
@[simp] theorem State.answer_bootRaw (s : State) (r : Reply) : (s.answer r).bootRaw = s.bootRaw := rfl
@[simp] theorem State.answer_bootsel (s : State) (r : Reply) : (s.answer r).bootsel = s.bootsel := rfl
@[simp] theorem State.answer_loadQueue (s : State) (r : Reply) : (s.answer r).loadQueue = s.loadQueue := rfl
@[simp] theorem State.answer_loadSlot (s : State) (r : Reply) : (s.answer r).loadSlot = s.loadSlot := rfl
@[simp] theorem State.answer_trialStart (s : State) (r : Reply) : (s.answer r).trialStart = s.trialStart := rfl
@[simp] theorem State.answer_l2 (s : State) (r : Reply) : (s.answer r).l2 = s.l2 := rfl
@[simp] theorem State.answer_shdTold (s : State) (r : Reply) : (s.answer r).shdTold = s.shdTold := rfl
@[simp] theorem State.answer_shdPart (s : State) (r : Reply) : (s.answer r).shdPart = s.shdPart := rfl
@[simp] theorem State.answer_petRaw (s : State) (r : Reply) : (s.answer r).petRaw = s.petRaw := rfl
@[simp] theorem State.answer_l4Last (s : State) (r : Reply) : (s.answer r).l4Last = s.l4Last := rfl
@[simp] theorem State.answer_checkRaw (s : State) (r : Reply) : (s.answer r).checkRaw = s.checkRaw := rfl
@[simp] theorem State.answer_postNext (s : State) (r : Reply) : (s.answer r).postNext = s.postNext := rfl
@[simp] theorem State.answer_segment (s : State) (r : Reply) : (s.answer r).segment = s.segment := rfl
@[simp] theorem State.answer_segNext (s : State) (r : Reply) : (s.answer r).segNext = s.segNext := rfl
@[simp] theorem State.answer_segHead (s : State) (r : Reply) : (s.answer r).segHead = s.segHead := rfl
@[simp] theorem State.answer_retests (s : State) (r : Reply) : (s.answer r).retests = s.retests := rfl
@[simp] theorem State.answer_walkRaw (s : State) (r : Reply) : (s.answer r).walkRaw = s.walkRaw := rfl
@[simp] theorem State.answer_staged (s : State) (r : Reply) : (s.answer r).staged = s.staged := rfl
@[simp] theorem State.answer_lostRun (s : State) (r : Reply) : (s.answer r).lostRun = s.lostRun := rfl
@[simp] theorem State.answer_lostFirst (s : State) (r : Reply) : (s.answer r).lostFirst = s.lostFirst := rfl
@[simp] theorem State.answer_evSeq (s : State) (r : Reply) : (s.answer r).evSeq = s.evSeq := rfl
@[simp] theorem State.answer_ring (s : State) (r : Reply) : (s.answer r).ring = s.ring := rfl
@[simp] theorem State.answer_ringBlock (s : State) (r : Reply) : (s.answer r).ringBlock = s.ringBlock := rfl
@[simp] theorem State.answer_ringOff (s : State) (r : Reply) : (s.answer r).ringOff = s.ringOff := rfl
@[simp] theorem State.answer_opsec (s : State) (r : Reply) : (s.answer r).opsec = s.opsec := rfl
@[simp] theorem State.answer_pwrcycSt (s : State) (r : Reply) : (s.answer r).pwrcycSt = s.pwrcycSt := rfl
@[simp] theorem State.answer_hoT (s : State) (r : Reply) : (s.answer r).hoT = s.hoT := rfl
@[simp] theorem State.answer_hoChecked (s : State) (r : Reply) : (s.answer r).hoChecked = s.hoChecked := rfl
@[simp] theorem State.answer_flash (s : State) (r : Reply) : (s.answer r).flash = s.flash := rfl
@[simp] theorem State.answer_flashOp (s : State) (r : Reply) : (s.answer r).flashOp = s.flashOp := rfl
@[simp] theorem State.answer_gelpel (s : State) (r : Reply) : (s.answer r).gelpel = s.gelpel := rfl
@[simp] theorem State.answer_padIn (s : State) (r : Reply) : (s.answer r).padIn = s.padIn := rfl
@[simp] theorem State.answer_ppsOut (s : State) (r : Reply) : (s.answer r).ppsOut = s.ppsOut := rfl
@[simp] theorem State.answer_heartbeat (s : State) (r : Reply) : (s.answer r).heartbeat = s.heartbeat := rfl
@[simp] theorem State.answer_heartHz (s : State) (r : Reply) : (s.answer r).heartHz = s.heartHz := rfl
@[simp] theorem State.answer_faultN (s : State) (r : Reply) : (s.answer r).faultN = s.faultN := rfl
@[simp] theorem State.answer_thermTrip (s : State) (r : Reply) : (s.answer r).thermTrip = s.thermTrip := rfl
@[simp] theorem State.answer_pwrgood (s : State) (r : Reply) : (s.answer r).pwrgood = s.pwrgood := rfl
@[simp] theorem State.answer_resetN (s : State) (r : Reply) : (s.answer r).resetN = s.resetN := rfl
@[simp] theorem State.answer_trstN (s : State) (r : Reply) : (s.answer r).trstN = s.trstN := rfl
@[simp] theorem State.answer_uart (s : State) (r : Reply) : (s.answer r).uart = s.uart := rfl
@[simp] theorem State.answer_clocksStopped (s : State) (r : Reply) : (s.answer r).clocksStopped = s.clocksStopped := rfl
@[simp] theorem State.answer_i2cBusy (s : State) (r : Reply) : (s.answer r).i2cBusy = s.i2cBusy := rfl
@[simp] theorem State.answer_mgmtOut (s : State) (r : Reply) : (s.answer r).mgmtOut = s.mgmtOut := rfl
@[simp] theorem State.answer_notes (s : State) (r : Reply) : (s.answer r).notes = s.notes := rfl
@[simp] theorem State.answer_dfltAll (s : State) (r : Reply) : (s.answer r).dfltAll = s.dfltAll := rfl
@[simp] theorem State.answer_free (s : State) (r : Reply) : (s.answer r).free = s.free := rfl

/-! `State.status` -/

@[simp] theorem State.status_pending (s : State) (st : Status) : (s.status st).pending = s.pending := rfl
@[simp] theorem State.status_od (s : State) (st : Status) : (s.status st).od = s.od := rfl
@[simp] theorem State.status_bank (s : State) (st : Status) : (s.status st).bank = s.bank := rfl
@[simp] theorem State.status_hold (s : State) (st : Status) : (s.status st).hold = s.hold := rfl
@[simp] theorem State.status_staging (s : State) (st : Status) : (s.status st).staging = s.staging := rfl
@[simp] theorem State.status_mem (s : State) (st : Status) : (s.status st).mem = s.mem := rfl
@[simp] theorem State.status_poison (s : State) (st : Status) : (s.status st).poison = s.poison := rfl
@[simp] theorem State.status_fresh (s : State) (st : Status) : (s.status st).fresh = s.fresh := rfl
@[simp] theorem State.status_merges (s : State) (st : Status) : (s.status st).merges = s.merges := rfl
@[simp] theorem State.status_anchor (s : State) (st : Status) : (s.status st).anchor = s.anchor := rfl
@[simp] theorem State.status_refetch (s : State) (st : Status) : (s.status st).refetch = s.refetch := rfl
@[simp] theorem State.status_raw (s : State) (st : Status) : (s.status st).raw = s.raw := rfl
@[simp] theorem State.status_tbWrites (s : State) (st : Status) : (s.status st).tbWrites = s.tbWrites := rfl
@[simp] theorem State.status_capSlots (s : State) (st : Status) : (s.status st).capSlots = s.capSlots := rfl
@[simp] theorem State.status_capFifo (s : State) (st : Status) : (s.status st).capFifo = s.capFifo := rfl
@[simp] theorem State.status_capPopped (s : State) (st : Status) : (s.status st).capPopped = s.capPopped := rfl
@[simp] theorem State.status_live (s : State) (st : Status) : (s.status st).live = s.live := rfl
@[simp] theorem State.status_trig (s : State) (st : Status) : (s.status st).trig = s.trig := rfl
@[simp] theorem State.status_slotDue (s : State) (st : Status) : (s.status st).slotDue = s.slotDue := rfl
@[simp] theorem State.status_refLostRaw (s : State) (st : Status) : (s.status st).refLostRaw = s.refLostRaw := rfl
@[simp] theorem State.status_ppsRaw (s : State) (st : Status) : (s.status st).ppsRaw = s.ppsRaw := rfl
@[simp] theorem State.status_synceLow (s : State) (st : Status) : (s.status st).synceLow = s.synceLow := rfl
@[simp] theorem State.status_kennel (s : State) (st : Status) : (s.status st).kennel = s.kennel := rfl
@[simp] theorem State.status_outq (s : State) (st : Status) : (s.status st).outq = s.outq := rfl
@[simp] theorem State.status_carrier (s : State) (st : Status) : (s.status st).carrier = s.carrier := rfl
@[simp] theorem State.status_tile (s : State) (st : Status) : (s.status st).tile = s.tile := rfl
@[simp] theorem State.status_packStop (s : State) (st : Status) : (s.status st).packStop = s.packStop := rfl
@[simp] theorem State.status_core (s : State) (st : Status) : (s.status st).core = s.core := rfl
@[simp] theorem State.status_port (s : State) (st : Status) : (s.status st).port = s.port := rfl
@[simp] theorem State.status_irq (s : State) (st : Status) : (s.status st).irq = s.irq := rfl
@[simp] theorem State.status_chan (s : State) (st : Status) : (s.status st).chan = s.chan := rfl
@[simp] theorem State.status_engine (s : State) (st : Status) : (s.status st).engine = s.engine := rfl
@[simp] theorem State.status_point (s : State) (st : Status) : (s.status st).point = s.point := rfl
@[simp] theorem State.status_masked (s : State) (st : Status) : (s.status st).masked = s.masked := rfl
@[simp] theorem State.status_stackIntlv (s : State) (st : Status) : (s.status st).stackIntlv = s.stackIntlv := rfl
@[simp] theorem State.status_mgtRuns (s : State) (st : Status) : (s.status st).mgtRuns = s.mgtRuns := rfl
@[simp] theorem State.status_hound (s : State) (st : Status) : (s.status st).hound = s.hound := rfl
@[simp] theorem State.status_job (s : State) (st : Status) : (s.status st).job = s.job := rfl
@[simp] theorem State.status_accelBusy (s : State) (st : Status) : (s.status st).accelBusy = s.accelBusy := rfl
@[simp] theorem State.status_tx (s : State) (st : Status) : (s.status st).tx = s.tx := rfl
@[simp] theorem State.status_txGates (s : State) (st : Status) : (s.status st).txGates = s.txGates := rfl
@[simp] theorem State.status_paChecks (s : State) (st : Status) : (s.status st).paChecks = s.paChecks := rfl
@[simp] theorem State.status_bank8 (s : State) (st : Status) : (s.status st).bank8 = s.bank8 := rfl
@[simp] theorem State.status_lateSlot (s : State) (st : Status) : (s.status st).lateSlot = s.lateSlot := rfl
@[simp] theorem State.status_decode (s : State) (st : Status) : (s.status st).decode = s.decode := rfl
@[simp] theorem State.status_flow (s : State) (st : Status) : (s.status st).flow = s.flow := rfl
@[simp] theorem State.status_stash (s : State) (st : Status) : (s.status st).stash = s.stash := rfl
@[simp] theorem State.status_ringTaken (s : State) (st : Status) : (s.status st).ringTaken = s.ringTaken := rfl
@[simp] theorem State.status_ctxCache (s : State) (st : Status) : (s.status st).ctxCache = s.ctxCache := rfl
@[simp] theorem State.status_laneAdv (s : State) (st : Status) : (s.status st).laneAdv = s.laneAdv := rfl
@[simp] theorem State.status_sdref (s : State) (st : Status) : (s.status st).sdref = s.sdref := rfl
@[simp] theorem State.status_laneIdle (s : State) (st : Status) : (s.status st).laneIdle = s.laneIdle := rfl
@[simp] theorem State.status_laneAt (s : State) (st : Status) : (s.status st).laneAt = s.laneAt := rfl
@[simp] theorem State.status_rx (s : State) (st : Status) : (s.status st).rx = s.rx := rfl
@[simp] theorem State.status_mac (s : State) (st : Status) : (s.status st).mac = s.mac := rfl
@[simp] theorem State.status_stream (s : State) (st : Status) : (s.status st).stream = s.stream := rfl
@[simp] theorem State.status_cpriTx (s : State) (st : Status) : (s.status st).cpriTx = s.cpriTx := rfl
@[simp] theorem State.status_cpSent (s : State) (st : Status) : (s.status st).cpSent = s.cpSent := rfl
@[simp] theorem State.status_fdb (s : State) (st : Status) : (s.status st).fdb = s.fdb := rfl
@[simp] theorem State.status_epTold (s : State) (st : Status) : (s.status st).epTold = s.epTold := rfl
@[simp] theorem State.status_epTime (s : State) (st : Status) : (s.status st).epTime = s.epTime := rfl
@[simp] theorem State.status_session (s : State) (st : Status) : (s.status st).session = s.session := rfl
@[simp] theorem State.status_handshake (s : State) (st : Status) : (s.status st).handshake = s.handshake := rfl
@[simp] theorem State.status_idsGiven (s : State) (st : Status) : (s.status st).idsGiven = s.idsGiven := rfl
@[simp] theorem State.status_ephGiven (s : State) (st : Status) : (s.status st).ephGiven = s.ephGiven := rfl
@[simp] theorem State.status_commits (s : State) (st : Status) : (s.status st).commits = s.commits := rfl
@[simp] theorem State.status_mramWaits (s : State) (st : Status) : (s.status st).mramWaits = s.mramWaits := rfl
@[simp] theorem State.status_nvA (s : State) (st : Status) : (s.status st).nvA = s.nvA := rfl
@[simp] theorem State.status_nvB (s : State) (st : Status) : (s.status st).nvB = s.nvB := rfl
@[simp] theorem State.status_unit (s : State) (st : Status) : (s.status st).unit = s.unit := rfl
@[simp] theorem State.status_packPower (s : State) (st : Status) : (s.status st).packPower = s.packPower := rfl
@[simp] theorem State.status_packReq (s : State) (st : Status) : (s.status st).packReq = s.packReq := rfl
@[simp] theorem State.status_pwr (s : State) (st : Status) : (s.status st).pwr = s.pwr := rfl
@[simp] theorem State.status_dev (s : State) (st : Status) : (s.status st).dev = s.dev := rfl
@[simp] theorem State.status_guardLead (s : State) (st : Status) : (s.status st).guardLead = s.guardLead := rfl
@[simp] theorem State.status_guardAt (s : State) (st : Status) : (s.status st).guardAt = s.guardAt := rfl
@[simp] theorem State.status_thermalDormant (s : State) (st : Status) : (s.status st).thermalDormant = s.thermalDormant := rfl
@[simp] theorem State.status_warn (s : State) (st : Status) : (s.status st).warn = s.warn := rfl
@[simp] theorem State.status_warnSince (s : State) (st : Status) : (s.status st).warnSince = s.warnSince := rfl
@[simp] theorem State.status_railLow (s : State) (st : Status) : (s.status st).railLow = s.railLow := rfl
@[simp] theorem State.status_dips (s : State) (st : Status) : (s.status st).dips = s.dips := rfl
@[simp] theorem State.status_packIdleFor (s : State) (st : Status) : (s.status st).packIdleFor = s.packIdleFor := rfl
@[simp] theorem State.status_sleepRaw (s : State) (st : Status) : (s.status st).sleepRaw = s.sleepRaw := rfl
@[simp] theorem State.status_emergencies (s : State) (st : Status) : (s.status st).emergencies = s.emergencies := rfl
@[simp] theorem State.status_hourTold (s : State) (st : Status) : (s.status st).hourTold = s.hourTold := rfl
@[simp] theorem State.status_opsecHour (s : State) (st : Status) : (s.status st).opsecHour = s.opsecHour := rfl
@[simp] theorem State.status_resTold (s : State) (st : Status) : (s.status st).resTold = s.resTold := rfl
@[simp] theorem State.status_resetJob (s : State) (st : Status) : (s.status st).resetJob = s.resetJob := rfl
@[simp] theorem State.status_aonPor (s : State) (st : Status) : (s.status st).aonPor = s.aonPor := rfl
@[simp] theorem State.status_bootRaw (s : State) (st : Status) : (s.status st).bootRaw = s.bootRaw := rfl
@[simp] theorem State.status_bootsel (s : State) (st : Status) : (s.status st).bootsel = s.bootsel := rfl
@[simp] theorem State.status_loadQueue (s : State) (st : Status) : (s.status st).loadQueue = s.loadQueue := rfl
@[simp] theorem State.status_loadSlot (s : State) (st : Status) : (s.status st).loadSlot = s.loadSlot := rfl
@[simp] theorem State.status_trialStart (s : State) (st : Status) : (s.status st).trialStart = s.trialStart := rfl
@[simp] theorem State.status_l2 (s : State) (st : Status) : (s.status st).l2 = s.l2 := rfl
@[simp] theorem State.status_shdTold (s : State) (st : Status) : (s.status st).shdTold = s.shdTold := rfl
@[simp] theorem State.status_shdPart (s : State) (st : Status) : (s.status st).shdPart = s.shdPart := rfl
@[simp] theorem State.status_petRaw (s : State) (st : Status) : (s.status st).petRaw = s.petRaw := rfl
@[simp] theorem State.status_l4Last (s : State) (st : Status) : (s.status st).l4Last = s.l4Last := rfl
@[simp] theorem State.status_checkRaw (s : State) (st : Status) : (s.status st).checkRaw = s.checkRaw := rfl
@[simp] theorem State.status_postNext (s : State) (st : Status) : (s.status st).postNext = s.postNext := rfl
@[simp] theorem State.status_segment (s : State) (st : Status) : (s.status st).segment = s.segment := rfl
@[simp] theorem State.status_segNext (s : State) (st : Status) : (s.status st).segNext = s.segNext := rfl
@[simp] theorem State.status_segHead (s : State) (st : Status) : (s.status st).segHead = s.segHead := rfl
@[simp] theorem State.status_retests (s : State) (st : Status) : (s.status st).retests = s.retests := rfl
@[simp] theorem State.status_walkRaw (s : State) (st : Status) : (s.status st).walkRaw = s.walkRaw := rfl
@[simp] theorem State.status_staged (s : State) (st : Status) : (s.status st).staged = s.staged := rfl
@[simp] theorem State.status_lostRun (s : State) (st : Status) : (s.status st).lostRun = s.lostRun := rfl
@[simp] theorem State.status_lostFirst (s : State) (st : Status) : (s.status st).lostFirst = s.lostFirst := rfl
@[simp] theorem State.status_evSeq (s : State) (st : Status) : (s.status st).evSeq = s.evSeq := rfl
@[simp] theorem State.status_ring (s : State) (st : Status) : (s.status st).ring = s.ring := rfl
@[simp] theorem State.status_ringBlock (s : State) (st : Status) : (s.status st).ringBlock = s.ringBlock := rfl
@[simp] theorem State.status_ringOff (s : State) (st : Status) : (s.status st).ringOff = s.ringOff := rfl
@[simp] theorem State.status_opsec (s : State) (st : Status) : (s.status st).opsec = s.opsec := rfl
@[simp] theorem State.status_pwrcycSt (s : State) (st : Status) : (s.status st).pwrcycSt = s.pwrcycSt := rfl
@[simp] theorem State.status_hoT (s : State) (st : Status) : (s.status st).hoT = s.hoT := rfl
@[simp] theorem State.status_hoChecked (s : State) (st : Status) : (s.status st).hoChecked = s.hoChecked := rfl
@[simp] theorem State.status_flash (s : State) (st : Status) : (s.status st).flash = s.flash := rfl
@[simp] theorem State.status_flashOp (s : State) (st : Status) : (s.status st).flashOp = s.flashOp := rfl
@[simp] theorem State.status_gelpel (s : State) (st : Status) : (s.status st).gelpel = s.gelpel := rfl
@[simp] theorem State.status_padIn (s : State) (st : Status) : (s.status st).padIn = s.padIn := rfl
@[simp] theorem State.status_ppsOut (s : State) (st : Status) : (s.status st).ppsOut = s.ppsOut := rfl
@[simp] theorem State.status_heartbeat (s : State) (st : Status) : (s.status st).heartbeat = s.heartbeat := rfl
@[simp] theorem State.status_heartHz (s : State) (st : Status) : (s.status st).heartHz = s.heartHz := rfl
@[simp] theorem State.status_faultN (s : State) (st : Status) : (s.status st).faultN = s.faultN := rfl
@[simp] theorem State.status_thermTrip (s : State) (st : Status) : (s.status st).thermTrip = s.thermTrip := rfl
@[simp] theorem State.status_pwrgood (s : State) (st : Status) : (s.status st).pwrgood = s.pwrgood := rfl
@[simp] theorem State.status_resetN (s : State) (st : Status) : (s.status st).resetN = s.resetN := rfl
@[simp] theorem State.status_trstN (s : State) (st : Status) : (s.status st).trstN = s.trstN := rfl
@[simp] theorem State.status_uart (s : State) (st : Status) : (s.status st).uart = s.uart := rfl
@[simp] theorem State.status_clocksStopped (s : State) (st : Status) : (s.status st).clocksStopped = s.clocksStopped := rfl
@[simp] theorem State.status_i2cBusy (s : State) (st : Status) : (s.status st).i2cBusy = s.i2cBusy := rfl
@[simp] theorem State.status_mgmtOut (s : State) (st : Status) : (s.status st).mgmtOut = s.mgmtOut := rfl
@[simp] theorem State.status_notes (s : State) (st : Status) : (s.status st).notes = s.notes := rfl
@[simp] theorem State.status_dfltAll (s : State) (st : Status) : (s.status st).dfltAll = s.dfltAll := rfl
@[simp] theorem State.status_free (s : State) (st : Status) : (s.status st).free = s.free := rfl

/-! `State.setUn` -/

@[simp] theorem State.setUn_pending (s : State) (u : Nat) (x : UnitSt) : (s.setUn u x).pending = s.pending := rfl
@[simp] theorem State.setUn_od (s : State) (u : Nat) (x : UnitSt) : (s.setUn u x).od = s.od := rfl
@[simp] theorem State.setUn_bank (s : State) (u : Nat) (x : UnitSt) : (s.setUn u x).bank = s.bank := rfl
@[simp] theorem State.setUn_hold (s : State) (u : Nat) (x : UnitSt) : (s.setUn u x).hold = s.hold := rfl
@[simp] theorem State.setUn_staging (s : State) (u : Nat) (x : UnitSt) : (s.setUn u x).staging = s.staging := rfl
@[simp] theorem State.setUn_mem (s : State) (u : Nat) (x : UnitSt) : (s.setUn u x).mem = s.mem := rfl
@[simp] theorem State.setUn_poison (s : State) (u : Nat) (x : UnitSt) : (s.setUn u x).poison = s.poison := rfl
@[simp] theorem State.setUn_fresh (s : State) (u : Nat) (x : UnitSt) : (s.setUn u x).fresh = s.fresh := rfl
@[simp] theorem State.setUn_merges (s : State) (u : Nat) (x : UnitSt) : (s.setUn u x).merges = s.merges := rfl
@[simp] theorem State.setUn_anchor (s : State) (u : Nat) (x : UnitSt) : (s.setUn u x).anchor = s.anchor := rfl
@[simp] theorem State.setUn_refetch (s : State) (u : Nat) (x : UnitSt) : (s.setUn u x).refetch = s.refetch := rfl
@[simp] theorem State.setUn_raw (s : State) (u : Nat) (x : UnitSt) : (s.setUn u x).raw = s.raw := rfl
@[simp] theorem State.setUn_tbWrites (s : State) (u : Nat) (x : UnitSt) : (s.setUn u x).tbWrites = s.tbWrites := rfl
@[simp] theorem State.setUn_capSlots (s : State) (u : Nat) (x : UnitSt) : (s.setUn u x).capSlots = s.capSlots := rfl
@[simp] theorem State.setUn_capFifo (s : State) (u : Nat) (x : UnitSt) : (s.setUn u x).capFifo = s.capFifo := rfl
@[simp] theorem State.setUn_capPopped (s : State) (u : Nat) (x : UnitSt) : (s.setUn u x).capPopped = s.capPopped := rfl
@[simp] theorem State.setUn_live (s : State) (u : Nat) (x : UnitSt) : (s.setUn u x).live = s.live := rfl
@[simp] theorem State.setUn_trig (s : State) (u : Nat) (x : UnitSt) : (s.setUn u x).trig = s.trig := rfl
@[simp] theorem State.setUn_slotDue (s : State) (u : Nat) (x : UnitSt) : (s.setUn u x).slotDue = s.slotDue := rfl
@[simp] theorem State.setUn_refLostRaw (s : State) (u : Nat) (x : UnitSt) : (s.setUn u x).refLostRaw = s.refLostRaw := rfl
@[simp] theorem State.setUn_ppsRaw (s : State) (u : Nat) (x : UnitSt) : (s.setUn u x).ppsRaw = s.ppsRaw := rfl
@[simp] theorem State.setUn_synceLow (s : State) (u : Nat) (x : UnitSt) : (s.setUn u x).synceLow = s.synceLow := rfl
@[simp] theorem State.setUn_kennel (s : State) (u : Nat) (x : UnitSt) : (s.setUn u x).kennel = s.kennel := rfl
@[simp] theorem State.setUn_outq (s : State) (u : Nat) (x : UnitSt) : (s.setUn u x).outq = s.outq := rfl
@[simp] theorem State.setUn_carrier (s : State) (u : Nat) (x : UnitSt) : (s.setUn u x).carrier = s.carrier := rfl
@[simp] theorem State.setUn_tile (s : State) (u : Nat) (x : UnitSt) : (s.setUn u x).tile = s.tile := rfl
@[simp] theorem State.setUn_packStop (s : State) (u : Nat) (x : UnitSt) : (s.setUn u x).packStop = s.packStop := rfl
@[simp] theorem State.setUn_core (s : State) (u : Nat) (x : UnitSt) : (s.setUn u x).core = s.core := rfl
@[simp] theorem State.setUn_port (s : State) (u : Nat) (x : UnitSt) : (s.setUn u x).port = s.port := rfl
@[simp] theorem State.setUn_irq (s : State) (u : Nat) (x : UnitSt) : (s.setUn u x).irq = s.irq := rfl
@[simp] theorem State.setUn_chan (s : State) (u : Nat) (x : UnitSt) : (s.setUn u x).chan = s.chan := rfl
@[simp] theorem State.setUn_engine (s : State) (u : Nat) (x : UnitSt) : (s.setUn u x).engine = s.engine := rfl
@[simp] theorem State.setUn_point (s : State) (u : Nat) (x : UnitSt) : (s.setUn u x).point = s.point := rfl
@[simp] theorem State.setUn_masked (s : State) (u : Nat) (x : UnitSt) : (s.setUn u x).masked = s.masked := rfl
@[simp] theorem State.setUn_stackIntlv (s : State) (u : Nat) (x : UnitSt) : (s.setUn u x).stackIntlv = s.stackIntlv := rfl
@[simp] theorem State.setUn_mgtRuns (s : State) (u : Nat) (x : UnitSt) : (s.setUn u x).mgtRuns = s.mgtRuns := rfl
@[simp] theorem State.setUn_hound (s : State) (u : Nat) (x : UnitSt) : (s.setUn u x).hound = s.hound := rfl
@[simp] theorem State.setUn_job (s : State) (u : Nat) (x : UnitSt) : (s.setUn u x).job = s.job := rfl
@[simp] theorem State.setUn_accelBusy (s : State) (u : Nat) (x : UnitSt) : (s.setUn u x).accelBusy = s.accelBusy := rfl
@[simp] theorem State.setUn_tx (s : State) (u : Nat) (x : UnitSt) : (s.setUn u x).tx = s.tx := rfl
@[simp] theorem State.setUn_txGates (s : State) (u : Nat) (x : UnitSt) : (s.setUn u x).txGates = s.txGates := rfl
@[simp] theorem State.setUn_paChecks (s : State) (u : Nat) (x : UnitSt) : (s.setUn u x).paChecks = s.paChecks := rfl
@[simp] theorem State.setUn_bank8 (s : State) (u : Nat) (x : UnitSt) : (s.setUn u x).bank8 = s.bank8 := rfl
@[simp] theorem State.setUn_lateSlot (s : State) (u : Nat) (x : UnitSt) : (s.setUn u x).lateSlot = s.lateSlot := rfl
@[simp] theorem State.setUn_decode (s : State) (u : Nat) (x : UnitSt) : (s.setUn u x).decode = s.decode := rfl
@[simp] theorem State.setUn_flow (s : State) (u : Nat) (x : UnitSt) : (s.setUn u x).flow = s.flow := rfl
@[simp] theorem State.setUn_stash (s : State) (u : Nat) (x : UnitSt) : (s.setUn u x).stash = s.stash := rfl
@[simp] theorem State.setUn_ringTaken (s : State) (u : Nat) (x : UnitSt) : (s.setUn u x).ringTaken = s.ringTaken := rfl
@[simp] theorem State.setUn_ctxCache (s : State) (u : Nat) (x : UnitSt) : (s.setUn u x).ctxCache = s.ctxCache := rfl
@[simp] theorem State.setUn_laneAdv (s : State) (u : Nat) (x : UnitSt) : (s.setUn u x).laneAdv = s.laneAdv := rfl
@[simp] theorem State.setUn_sdref (s : State) (u : Nat) (x : UnitSt) : (s.setUn u x).sdref = s.sdref := rfl
@[simp] theorem State.setUn_laneIdle (s : State) (u : Nat) (x : UnitSt) : (s.setUn u x).laneIdle = s.laneIdle := rfl
@[simp] theorem State.setUn_laneAt (s : State) (u : Nat) (x : UnitSt) : (s.setUn u x).laneAt = s.laneAt := rfl
@[simp] theorem State.setUn_rx (s : State) (u : Nat) (x : UnitSt) : (s.setUn u x).rx = s.rx := rfl
@[simp] theorem State.setUn_mac (s : State) (u : Nat) (x : UnitSt) : (s.setUn u x).mac = s.mac := rfl
@[simp] theorem State.setUn_stream (s : State) (u : Nat) (x : UnitSt) : (s.setUn u x).stream = s.stream := rfl
@[simp] theorem State.setUn_cpriTx (s : State) (u : Nat) (x : UnitSt) : (s.setUn u x).cpriTx = s.cpriTx := rfl
@[simp] theorem State.setUn_cpSent (s : State) (u : Nat) (x : UnitSt) : (s.setUn u x).cpSent = s.cpSent := rfl
@[simp] theorem State.setUn_fdb (s : State) (u : Nat) (x : UnitSt) : (s.setUn u x).fdb = s.fdb := rfl
@[simp] theorem State.setUn_epTold (s : State) (u : Nat) (x : UnitSt) : (s.setUn u x).epTold = s.epTold := rfl
@[simp] theorem State.setUn_epTime (s : State) (u : Nat) (x : UnitSt) : (s.setUn u x).epTime = s.epTime := rfl
@[simp] theorem State.setUn_session (s : State) (u : Nat) (x : UnitSt) : (s.setUn u x).session = s.session := rfl
@[simp] theorem State.setUn_handshake (s : State) (u : Nat) (x : UnitSt) : (s.setUn u x).handshake = s.handshake := rfl
@[simp] theorem State.setUn_idsGiven (s : State) (u : Nat) (x : UnitSt) : (s.setUn u x).idsGiven = s.idsGiven := rfl
@[simp] theorem State.setUn_ephGiven (s : State) (u : Nat) (x : UnitSt) : (s.setUn u x).ephGiven = s.ephGiven := rfl
@[simp] theorem State.setUn_commits (s : State) (u : Nat) (x : UnitSt) : (s.setUn u x).commits = s.commits := rfl
@[simp] theorem State.setUn_mramWaits (s : State) (u : Nat) (x : UnitSt) : (s.setUn u x).mramWaits = s.mramWaits := rfl
@[simp] theorem State.setUn_nvA (s : State) (u : Nat) (x : UnitSt) : (s.setUn u x).nvA = s.nvA := rfl
@[simp] theorem State.setUn_nvB (s : State) (u : Nat) (x : UnitSt) : (s.setUn u x).nvB = s.nvB := rfl
@[simp] theorem State.setUn_packPower (s : State) (u : Nat) (x : UnitSt) : (s.setUn u x).packPower = s.packPower := rfl
@[simp] theorem State.setUn_packReq (s : State) (u : Nat) (x : UnitSt) : (s.setUn u x).packReq = s.packReq := rfl
@[simp] theorem State.setUn_pwr (s : State) (u : Nat) (x : UnitSt) : (s.setUn u x).pwr = s.pwr := rfl
@[simp] theorem State.setUn_dev (s : State) (u : Nat) (x : UnitSt) : (s.setUn u x).dev = s.dev := rfl
@[simp] theorem State.setUn_guardLead (s : State) (u : Nat) (x : UnitSt) : (s.setUn u x).guardLead = s.guardLead := rfl
@[simp] theorem State.setUn_guardAt (s : State) (u : Nat) (x : UnitSt) : (s.setUn u x).guardAt = s.guardAt := rfl
@[simp] theorem State.setUn_thermalDormant (s : State) (u : Nat) (x : UnitSt) : (s.setUn u x).thermalDormant = s.thermalDormant := rfl
@[simp] theorem State.setUn_warn (s : State) (u : Nat) (x : UnitSt) : (s.setUn u x).warn = s.warn := rfl
@[simp] theorem State.setUn_warnSince (s : State) (u : Nat) (x : UnitSt) : (s.setUn u x).warnSince = s.warnSince := rfl
@[simp] theorem State.setUn_railLow (s : State) (u : Nat) (x : UnitSt) : (s.setUn u x).railLow = s.railLow := rfl
@[simp] theorem State.setUn_dips (s : State) (u : Nat) (x : UnitSt) : (s.setUn u x).dips = s.dips := rfl
@[simp] theorem State.setUn_packIdleFor (s : State) (u : Nat) (x : UnitSt) : (s.setUn u x).packIdleFor = s.packIdleFor := rfl
@[simp] theorem State.setUn_sleepRaw (s : State) (u : Nat) (x : UnitSt) : (s.setUn u x).sleepRaw = s.sleepRaw := rfl
@[simp] theorem State.setUn_emergencies (s : State) (u : Nat) (x : UnitSt) : (s.setUn u x).emergencies = s.emergencies := rfl
@[simp] theorem State.setUn_hourTold (s : State) (u : Nat) (x : UnitSt) : (s.setUn u x).hourTold = s.hourTold := rfl
@[simp] theorem State.setUn_opsecHour (s : State) (u : Nat) (x : UnitSt) : (s.setUn u x).opsecHour = s.opsecHour := rfl
@[simp] theorem State.setUn_resTold (s : State) (u : Nat) (x : UnitSt) : (s.setUn u x).resTold = s.resTold := rfl
@[simp] theorem State.setUn_resetJob (s : State) (u : Nat) (x : UnitSt) : (s.setUn u x).resetJob = s.resetJob := rfl
@[simp] theorem State.setUn_aonPor (s : State) (u : Nat) (x : UnitSt) : (s.setUn u x).aonPor = s.aonPor := rfl
@[simp] theorem State.setUn_bootRaw (s : State) (u : Nat) (x : UnitSt) : (s.setUn u x).bootRaw = s.bootRaw := rfl
@[simp] theorem State.setUn_bootsel (s : State) (u : Nat) (x : UnitSt) : (s.setUn u x).bootsel = s.bootsel := rfl
@[simp] theorem State.setUn_loadQueue (s : State) (u : Nat) (x : UnitSt) : (s.setUn u x).loadQueue = s.loadQueue := rfl
@[simp] theorem State.setUn_loadSlot (s : State) (u : Nat) (x : UnitSt) : (s.setUn u x).loadSlot = s.loadSlot := rfl
@[simp] theorem State.setUn_trialStart (s : State) (u : Nat) (x : UnitSt) : (s.setUn u x).trialStart = s.trialStart := rfl
@[simp] theorem State.setUn_l2 (s : State) (u : Nat) (x : UnitSt) : (s.setUn u x).l2 = s.l2 := rfl
@[simp] theorem State.setUn_shdTold (s : State) (u : Nat) (x : UnitSt) : (s.setUn u x).shdTold = s.shdTold := rfl
@[simp] theorem State.setUn_shdPart (s : State) (u : Nat) (x : UnitSt) : (s.setUn u x).shdPart = s.shdPart := rfl
@[simp] theorem State.setUn_petRaw (s : State) (u : Nat) (x : UnitSt) : (s.setUn u x).petRaw = s.petRaw := rfl
@[simp] theorem State.setUn_l4Last (s : State) (u : Nat) (x : UnitSt) : (s.setUn u x).l4Last = s.l4Last := rfl
@[simp] theorem State.setUn_checkRaw (s : State) (u : Nat) (x : UnitSt) : (s.setUn u x).checkRaw = s.checkRaw := rfl
@[simp] theorem State.setUn_postNext (s : State) (u : Nat) (x : UnitSt) : (s.setUn u x).postNext = s.postNext := rfl
@[simp] theorem State.setUn_segment (s : State) (u : Nat) (x : UnitSt) : (s.setUn u x).segment = s.segment := rfl
@[simp] theorem State.setUn_segNext (s : State) (u : Nat) (x : UnitSt) : (s.setUn u x).segNext = s.segNext := rfl
@[simp] theorem State.setUn_segHead (s : State) (u : Nat) (x : UnitSt) : (s.setUn u x).segHead = s.segHead := rfl
@[simp] theorem State.setUn_retests (s : State) (u : Nat) (x : UnitSt) : (s.setUn u x).retests = s.retests := rfl
@[simp] theorem State.setUn_walkRaw (s : State) (u : Nat) (x : UnitSt) : (s.setUn u x).walkRaw = s.walkRaw := rfl
@[simp] theorem State.setUn_staged (s : State) (u : Nat) (x : UnitSt) : (s.setUn u x).staged = s.staged := rfl
@[simp] theorem State.setUn_lostRun (s : State) (u : Nat) (x : UnitSt) : (s.setUn u x).lostRun = s.lostRun := rfl
@[simp] theorem State.setUn_lostFirst (s : State) (u : Nat) (x : UnitSt) : (s.setUn u x).lostFirst = s.lostFirst := rfl
@[simp] theorem State.setUn_evSeq (s : State) (u : Nat) (x : UnitSt) : (s.setUn u x).evSeq = s.evSeq := rfl
@[simp] theorem State.setUn_ring (s : State) (u : Nat) (x : UnitSt) : (s.setUn u x).ring = s.ring := rfl
@[simp] theorem State.setUn_ringBlock (s : State) (u : Nat) (x : UnitSt) : (s.setUn u x).ringBlock = s.ringBlock := rfl
@[simp] theorem State.setUn_ringOff (s : State) (u : Nat) (x : UnitSt) : (s.setUn u x).ringOff = s.ringOff := rfl
@[simp] theorem State.setUn_opsec (s : State) (u : Nat) (x : UnitSt) : (s.setUn u x).opsec = s.opsec := rfl
@[simp] theorem State.setUn_pwrcycSt (s : State) (u : Nat) (x : UnitSt) : (s.setUn u x).pwrcycSt = s.pwrcycSt := rfl
@[simp] theorem State.setUn_hoT (s : State) (u : Nat) (x : UnitSt) : (s.setUn u x).hoT = s.hoT := rfl
@[simp] theorem State.setUn_hoChecked (s : State) (u : Nat) (x : UnitSt) : (s.setUn u x).hoChecked = s.hoChecked := rfl
@[simp] theorem State.setUn_flash (s : State) (u : Nat) (x : UnitSt) : (s.setUn u x).flash = s.flash := rfl
@[simp] theorem State.setUn_flashOp (s : State) (u : Nat) (x : UnitSt) : (s.setUn u x).flashOp = s.flashOp := rfl
@[simp] theorem State.setUn_gelpel (s : State) (u : Nat) (x : UnitSt) : (s.setUn u x).gelpel = s.gelpel := rfl
@[simp] theorem State.setUn_padIn (s : State) (u : Nat) (x : UnitSt) : (s.setUn u x).padIn = s.padIn := rfl
@[simp] theorem State.setUn_ppsOut (s : State) (u : Nat) (x : UnitSt) : (s.setUn u x).ppsOut = s.ppsOut := rfl
@[simp] theorem State.setUn_heartbeat (s : State) (u : Nat) (x : UnitSt) : (s.setUn u x).heartbeat = s.heartbeat := rfl
@[simp] theorem State.setUn_heartHz (s : State) (u : Nat) (x : UnitSt) : (s.setUn u x).heartHz = s.heartHz := rfl
@[simp] theorem State.setUn_faultN (s : State) (u : Nat) (x : UnitSt) : (s.setUn u x).faultN = s.faultN := rfl
@[simp] theorem State.setUn_thermTrip (s : State) (u : Nat) (x : UnitSt) : (s.setUn u x).thermTrip = s.thermTrip := rfl
@[simp] theorem State.setUn_pwrgood (s : State) (u : Nat) (x : UnitSt) : (s.setUn u x).pwrgood = s.pwrgood := rfl
@[simp] theorem State.setUn_resetN (s : State) (u : Nat) (x : UnitSt) : (s.setUn u x).resetN = s.resetN := rfl
@[simp] theorem State.setUn_trstN (s : State) (u : Nat) (x : UnitSt) : (s.setUn u x).trstN = s.trstN := rfl
@[simp] theorem State.setUn_uart (s : State) (u : Nat) (x : UnitSt) : (s.setUn u x).uart = s.uart := rfl
@[simp] theorem State.setUn_clocksStopped (s : State) (u : Nat) (x : UnitSt) : (s.setUn u x).clocksStopped = s.clocksStopped := rfl
@[simp] theorem State.setUn_i2cBusy (s : State) (u : Nat) (x : UnitSt) : (s.setUn u x).i2cBusy = s.i2cBusy := rfl
@[simp] theorem State.setUn_reply (s : State) (u : Nat) (x : UnitSt) : (s.setUn u x).reply = s.reply := rfl
@[simp] theorem State.setUn_mgmtOut (s : State) (u : Nat) (x : UnitSt) : (s.setUn u x).mgmtOut = s.mgmtOut := rfl
@[simp] theorem State.setUn_notes (s : State) (u : Nat) (x : UnitSt) : (s.setUn u x).notes = s.notes := rfl
@[simp] theorem State.setUn_dfltAll (s : State) (u : Nat) (x : UnitSt) : (s.setUn u x).dfltAll = s.dfltAll := rfl
@[simp] theorem State.setUn_free (s : State) (u : Nat) (x : UnitSt) : (s.setUn u x).free = s.free := rfl

/-! `State.setTl` -/

@[simp] theorem State.setTl_pending (s : State) (t : Nat) (x : Tile) : (s.setTl t x).pending = s.pending := rfl
@[simp] theorem State.setTl_od (s : State) (t : Nat) (x : Tile) : (s.setTl t x).od = s.od := rfl
@[simp] theorem State.setTl_bank (s : State) (t : Nat) (x : Tile) : (s.setTl t x).bank = s.bank := rfl
@[simp] theorem State.setTl_hold (s : State) (t : Nat) (x : Tile) : (s.setTl t x).hold = s.hold := rfl
@[simp] theorem State.setTl_staging (s : State) (t : Nat) (x : Tile) : (s.setTl t x).staging = s.staging := rfl
@[simp] theorem State.setTl_mem (s : State) (t : Nat) (x : Tile) : (s.setTl t x).mem = s.mem := rfl
@[simp] theorem State.setTl_poison (s : State) (t : Nat) (x : Tile) : (s.setTl t x).poison = s.poison := rfl
@[simp] theorem State.setTl_fresh (s : State) (t : Nat) (x : Tile) : (s.setTl t x).fresh = s.fresh := rfl
@[simp] theorem State.setTl_merges (s : State) (t : Nat) (x : Tile) : (s.setTl t x).merges = s.merges := rfl
@[simp] theorem State.setTl_anchor (s : State) (t : Nat) (x : Tile) : (s.setTl t x).anchor = s.anchor := rfl
@[simp] theorem State.setTl_refetch (s : State) (t : Nat) (x : Tile) : (s.setTl t x).refetch = s.refetch := rfl
@[simp] theorem State.setTl_raw (s : State) (t : Nat) (x : Tile) : (s.setTl t x).raw = s.raw := rfl
@[simp] theorem State.setTl_tbWrites (s : State) (t : Nat) (x : Tile) : (s.setTl t x).tbWrites = s.tbWrites := rfl
@[simp] theorem State.setTl_capSlots (s : State) (t : Nat) (x : Tile) : (s.setTl t x).capSlots = s.capSlots := rfl
@[simp] theorem State.setTl_capFifo (s : State) (t : Nat) (x : Tile) : (s.setTl t x).capFifo = s.capFifo := rfl
@[simp] theorem State.setTl_capPopped (s : State) (t : Nat) (x : Tile) : (s.setTl t x).capPopped = s.capPopped := rfl
@[simp] theorem State.setTl_live (s : State) (t : Nat) (x : Tile) : (s.setTl t x).live = s.live := rfl
@[simp] theorem State.setTl_trig (s : State) (t : Nat) (x : Tile) : (s.setTl t x).trig = s.trig := rfl
@[simp] theorem State.setTl_slotDue (s : State) (t : Nat) (x : Tile) : (s.setTl t x).slotDue = s.slotDue := rfl
@[simp] theorem State.setTl_refLostRaw (s : State) (t : Nat) (x : Tile) : (s.setTl t x).refLostRaw = s.refLostRaw := rfl
@[simp] theorem State.setTl_ppsRaw (s : State) (t : Nat) (x : Tile) : (s.setTl t x).ppsRaw = s.ppsRaw := rfl
@[simp] theorem State.setTl_synceLow (s : State) (t : Nat) (x : Tile) : (s.setTl t x).synceLow = s.synceLow := rfl
@[simp] theorem State.setTl_kennel (s : State) (t : Nat) (x : Tile) : (s.setTl t x).kennel = s.kennel := rfl
@[simp] theorem State.setTl_outq (s : State) (t : Nat) (x : Tile) : (s.setTl t x).outq = s.outq := rfl
@[simp] theorem State.setTl_carrier (s : State) (t : Nat) (x : Tile) : (s.setTl t x).carrier = s.carrier := rfl
@[simp] theorem State.setTl_packStop (s : State) (t : Nat) (x : Tile) : (s.setTl t x).packStop = s.packStop := rfl
@[simp] theorem State.setTl_core (s : State) (t : Nat) (x : Tile) : (s.setTl t x).core = s.core := rfl
@[simp] theorem State.setTl_port (s : State) (t : Nat) (x : Tile) : (s.setTl t x).port = s.port := rfl
@[simp] theorem State.setTl_irq (s : State) (t : Nat) (x : Tile) : (s.setTl t x).irq = s.irq := rfl
@[simp] theorem State.setTl_chan (s : State) (t : Nat) (x : Tile) : (s.setTl t x).chan = s.chan := rfl
@[simp] theorem State.setTl_engine (s : State) (t : Nat) (x : Tile) : (s.setTl t x).engine = s.engine := rfl
@[simp] theorem State.setTl_point (s : State) (t : Nat) (x : Tile) : (s.setTl t x).point = s.point := rfl
@[simp] theorem State.setTl_masked (s : State) (t : Nat) (x : Tile) : (s.setTl t x).masked = s.masked := rfl
@[simp] theorem State.setTl_stackIntlv (s : State) (t : Nat) (x : Tile) : (s.setTl t x).stackIntlv = s.stackIntlv := rfl
@[simp] theorem State.setTl_mgtRuns (s : State) (t : Nat) (x : Tile) : (s.setTl t x).mgtRuns = s.mgtRuns := rfl
@[simp] theorem State.setTl_hound (s : State) (t : Nat) (x : Tile) : (s.setTl t x).hound = s.hound := rfl
@[simp] theorem State.setTl_job (s : State) (t : Nat) (x : Tile) : (s.setTl t x).job = s.job := rfl
@[simp] theorem State.setTl_accelBusy (s : State) (t : Nat) (x : Tile) : (s.setTl t x).accelBusy = s.accelBusy := rfl
@[simp] theorem State.setTl_tx (s : State) (t : Nat) (x : Tile) : (s.setTl t x).tx = s.tx := rfl
@[simp] theorem State.setTl_txGates (s : State) (t : Nat) (x : Tile) : (s.setTl t x).txGates = s.txGates := rfl
@[simp] theorem State.setTl_paChecks (s : State) (t : Nat) (x : Tile) : (s.setTl t x).paChecks = s.paChecks := rfl
@[simp] theorem State.setTl_bank8 (s : State) (t : Nat) (x : Tile) : (s.setTl t x).bank8 = s.bank8 := rfl
@[simp] theorem State.setTl_lateSlot (s : State) (t : Nat) (x : Tile) : (s.setTl t x).lateSlot = s.lateSlot := rfl
@[simp] theorem State.setTl_decode (s : State) (t : Nat) (x : Tile) : (s.setTl t x).decode = s.decode := rfl
@[simp] theorem State.setTl_flow (s : State) (t : Nat) (x : Tile) : (s.setTl t x).flow = s.flow := rfl
@[simp] theorem State.setTl_stash (s : State) (t : Nat) (x : Tile) : (s.setTl t x).stash = s.stash := rfl
@[simp] theorem State.setTl_ringTaken (s : State) (t : Nat) (x : Tile) : (s.setTl t x).ringTaken = s.ringTaken := rfl
@[simp] theorem State.setTl_ctxCache (s : State) (t : Nat) (x : Tile) : (s.setTl t x).ctxCache = s.ctxCache := rfl
@[simp] theorem State.setTl_laneAdv (s : State) (t : Nat) (x : Tile) : (s.setTl t x).laneAdv = s.laneAdv := rfl
@[simp] theorem State.setTl_sdref (s : State) (t : Nat) (x : Tile) : (s.setTl t x).sdref = s.sdref := rfl
@[simp] theorem State.setTl_laneIdle (s : State) (t : Nat) (x : Tile) : (s.setTl t x).laneIdle = s.laneIdle := rfl
@[simp] theorem State.setTl_laneAt (s : State) (t : Nat) (x : Tile) : (s.setTl t x).laneAt = s.laneAt := rfl
@[simp] theorem State.setTl_rx (s : State) (t : Nat) (x : Tile) : (s.setTl t x).rx = s.rx := rfl
@[simp] theorem State.setTl_mac (s : State) (t : Nat) (x : Tile) : (s.setTl t x).mac = s.mac := rfl
@[simp] theorem State.setTl_stream (s : State) (t : Nat) (x : Tile) : (s.setTl t x).stream = s.stream := rfl
@[simp] theorem State.setTl_cpriTx (s : State) (t : Nat) (x : Tile) : (s.setTl t x).cpriTx = s.cpriTx := rfl
@[simp] theorem State.setTl_cpSent (s : State) (t : Nat) (x : Tile) : (s.setTl t x).cpSent = s.cpSent := rfl
@[simp] theorem State.setTl_fdb (s : State) (t : Nat) (x : Tile) : (s.setTl t x).fdb = s.fdb := rfl
@[simp] theorem State.setTl_epTold (s : State) (t : Nat) (x : Tile) : (s.setTl t x).epTold = s.epTold := rfl
@[simp] theorem State.setTl_epTime (s : State) (t : Nat) (x : Tile) : (s.setTl t x).epTime = s.epTime := rfl
@[simp] theorem State.setTl_session (s : State) (t : Nat) (x : Tile) : (s.setTl t x).session = s.session := rfl
@[simp] theorem State.setTl_handshake (s : State) (t : Nat) (x : Tile) : (s.setTl t x).handshake = s.handshake := rfl
@[simp] theorem State.setTl_idsGiven (s : State) (t : Nat) (x : Tile) : (s.setTl t x).idsGiven = s.idsGiven := rfl
@[simp] theorem State.setTl_ephGiven (s : State) (t : Nat) (x : Tile) : (s.setTl t x).ephGiven = s.ephGiven := rfl
@[simp] theorem State.setTl_commits (s : State) (t : Nat) (x : Tile) : (s.setTl t x).commits = s.commits := rfl
@[simp] theorem State.setTl_mramWaits (s : State) (t : Nat) (x : Tile) : (s.setTl t x).mramWaits = s.mramWaits := rfl
@[simp] theorem State.setTl_nvA (s : State) (t : Nat) (x : Tile) : (s.setTl t x).nvA = s.nvA := rfl
@[simp] theorem State.setTl_nvB (s : State) (t : Nat) (x : Tile) : (s.setTl t x).nvB = s.nvB := rfl
@[simp] theorem State.setTl_unit (s : State) (t : Nat) (x : Tile) : (s.setTl t x).unit = s.unit := rfl
@[simp] theorem State.setTl_packPower (s : State) (t : Nat) (x : Tile) : (s.setTl t x).packPower = s.packPower := rfl
@[simp] theorem State.setTl_packReq (s : State) (t : Nat) (x : Tile) : (s.setTl t x).packReq = s.packReq := rfl
@[simp] theorem State.setTl_pwr (s : State) (t : Nat) (x : Tile) : (s.setTl t x).pwr = s.pwr := rfl
@[simp] theorem State.setTl_dev (s : State) (t : Nat) (x : Tile) : (s.setTl t x).dev = s.dev := rfl
@[simp] theorem State.setTl_guardLead (s : State) (t : Nat) (x : Tile) : (s.setTl t x).guardLead = s.guardLead := rfl
@[simp] theorem State.setTl_guardAt (s : State) (t : Nat) (x : Tile) : (s.setTl t x).guardAt = s.guardAt := rfl
@[simp] theorem State.setTl_thermalDormant (s : State) (t : Nat) (x : Tile) : (s.setTl t x).thermalDormant = s.thermalDormant := rfl
@[simp] theorem State.setTl_warn (s : State) (t : Nat) (x : Tile) : (s.setTl t x).warn = s.warn := rfl
@[simp] theorem State.setTl_warnSince (s : State) (t : Nat) (x : Tile) : (s.setTl t x).warnSince = s.warnSince := rfl
@[simp] theorem State.setTl_railLow (s : State) (t : Nat) (x : Tile) : (s.setTl t x).railLow = s.railLow := rfl
@[simp] theorem State.setTl_dips (s : State) (t : Nat) (x : Tile) : (s.setTl t x).dips = s.dips := rfl
@[simp] theorem State.setTl_packIdleFor (s : State) (t : Nat) (x : Tile) : (s.setTl t x).packIdleFor = s.packIdleFor := rfl
@[simp] theorem State.setTl_sleepRaw (s : State) (t : Nat) (x : Tile) : (s.setTl t x).sleepRaw = s.sleepRaw := rfl
@[simp] theorem State.setTl_emergencies (s : State) (t : Nat) (x : Tile) : (s.setTl t x).emergencies = s.emergencies := rfl
@[simp] theorem State.setTl_hourTold (s : State) (t : Nat) (x : Tile) : (s.setTl t x).hourTold = s.hourTold := rfl
@[simp] theorem State.setTl_opsecHour (s : State) (t : Nat) (x : Tile) : (s.setTl t x).opsecHour = s.opsecHour := rfl
@[simp] theorem State.setTl_resTold (s : State) (t : Nat) (x : Tile) : (s.setTl t x).resTold = s.resTold := rfl
@[simp] theorem State.setTl_resetJob (s : State) (t : Nat) (x : Tile) : (s.setTl t x).resetJob = s.resetJob := rfl
@[simp] theorem State.setTl_aonPor (s : State) (t : Nat) (x : Tile) : (s.setTl t x).aonPor = s.aonPor := rfl
@[simp] theorem State.setTl_bootRaw (s : State) (t : Nat) (x : Tile) : (s.setTl t x).bootRaw = s.bootRaw := rfl
@[simp] theorem State.setTl_bootsel (s : State) (t : Nat) (x : Tile) : (s.setTl t x).bootsel = s.bootsel := rfl
@[simp] theorem State.setTl_loadQueue (s : State) (t : Nat) (x : Tile) : (s.setTl t x).loadQueue = s.loadQueue := rfl
@[simp] theorem State.setTl_loadSlot (s : State) (t : Nat) (x : Tile) : (s.setTl t x).loadSlot = s.loadSlot := rfl
@[simp] theorem State.setTl_trialStart (s : State) (t : Nat) (x : Tile) : (s.setTl t x).trialStart = s.trialStart := rfl
@[simp] theorem State.setTl_l2 (s : State) (t : Nat) (x : Tile) : (s.setTl t x).l2 = s.l2 := rfl
@[simp] theorem State.setTl_shdTold (s : State) (t : Nat) (x : Tile) : (s.setTl t x).shdTold = s.shdTold := rfl
@[simp] theorem State.setTl_shdPart (s : State) (t : Nat) (x : Tile) : (s.setTl t x).shdPart = s.shdPart := rfl
@[simp] theorem State.setTl_petRaw (s : State) (t : Nat) (x : Tile) : (s.setTl t x).petRaw = s.petRaw := rfl
@[simp] theorem State.setTl_l4Last (s : State) (t : Nat) (x : Tile) : (s.setTl t x).l4Last = s.l4Last := rfl
@[simp] theorem State.setTl_checkRaw (s : State) (t : Nat) (x : Tile) : (s.setTl t x).checkRaw = s.checkRaw := rfl
@[simp] theorem State.setTl_postNext (s : State) (t : Nat) (x : Tile) : (s.setTl t x).postNext = s.postNext := rfl
@[simp] theorem State.setTl_segment (s : State) (t : Nat) (x : Tile) : (s.setTl t x).segment = s.segment := rfl
@[simp] theorem State.setTl_segNext (s : State) (t : Nat) (x : Tile) : (s.setTl t x).segNext = s.segNext := rfl
@[simp] theorem State.setTl_segHead (s : State) (t : Nat) (x : Tile) : (s.setTl t x).segHead = s.segHead := rfl
@[simp] theorem State.setTl_retests (s : State) (t : Nat) (x : Tile) : (s.setTl t x).retests = s.retests := rfl
@[simp] theorem State.setTl_walkRaw (s : State) (t : Nat) (x : Tile) : (s.setTl t x).walkRaw = s.walkRaw := rfl
@[simp] theorem State.setTl_staged (s : State) (t : Nat) (x : Tile) : (s.setTl t x).staged = s.staged := rfl
@[simp] theorem State.setTl_lostRun (s : State) (t : Nat) (x : Tile) : (s.setTl t x).lostRun = s.lostRun := rfl
@[simp] theorem State.setTl_lostFirst (s : State) (t : Nat) (x : Tile) : (s.setTl t x).lostFirst = s.lostFirst := rfl
@[simp] theorem State.setTl_evSeq (s : State) (t : Nat) (x : Tile) : (s.setTl t x).evSeq = s.evSeq := rfl
@[simp] theorem State.setTl_ring (s : State) (t : Nat) (x : Tile) : (s.setTl t x).ring = s.ring := rfl
@[simp] theorem State.setTl_ringBlock (s : State) (t : Nat) (x : Tile) : (s.setTl t x).ringBlock = s.ringBlock := rfl
@[simp] theorem State.setTl_ringOff (s : State) (t : Nat) (x : Tile) : (s.setTl t x).ringOff = s.ringOff := rfl
@[simp] theorem State.setTl_opsec (s : State) (t : Nat) (x : Tile) : (s.setTl t x).opsec = s.opsec := rfl
@[simp] theorem State.setTl_pwrcycSt (s : State) (t : Nat) (x : Tile) : (s.setTl t x).pwrcycSt = s.pwrcycSt := rfl
@[simp] theorem State.setTl_hoT (s : State) (t : Nat) (x : Tile) : (s.setTl t x).hoT = s.hoT := rfl
@[simp] theorem State.setTl_hoChecked (s : State) (t : Nat) (x : Tile) : (s.setTl t x).hoChecked = s.hoChecked := rfl
@[simp] theorem State.setTl_flash (s : State) (t : Nat) (x : Tile) : (s.setTl t x).flash = s.flash := rfl
@[simp] theorem State.setTl_flashOp (s : State) (t : Nat) (x : Tile) : (s.setTl t x).flashOp = s.flashOp := rfl
@[simp] theorem State.setTl_gelpel (s : State) (t : Nat) (x : Tile) : (s.setTl t x).gelpel = s.gelpel := rfl
@[simp] theorem State.setTl_padIn (s : State) (t : Nat) (x : Tile) : (s.setTl t x).padIn = s.padIn := rfl
@[simp] theorem State.setTl_ppsOut (s : State) (t : Nat) (x : Tile) : (s.setTl t x).ppsOut = s.ppsOut := rfl
@[simp] theorem State.setTl_heartbeat (s : State) (t : Nat) (x : Tile) : (s.setTl t x).heartbeat = s.heartbeat := rfl
@[simp] theorem State.setTl_heartHz (s : State) (t : Nat) (x : Tile) : (s.setTl t x).heartHz = s.heartHz := rfl
@[simp] theorem State.setTl_faultN (s : State) (t : Nat) (x : Tile) : (s.setTl t x).faultN = s.faultN := rfl
@[simp] theorem State.setTl_thermTrip (s : State) (t : Nat) (x : Tile) : (s.setTl t x).thermTrip = s.thermTrip := rfl
@[simp] theorem State.setTl_pwrgood (s : State) (t : Nat) (x : Tile) : (s.setTl t x).pwrgood = s.pwrgood := rfl
@[simp] theorem State.setTl_resetN (s : State) (t : Nat) (x : Tile) : (s.setTl t x).resetN = s.resetN := rfl
@[simp] theorem State.setTl_trstN (s : State) (t : Nat) (x : Tile) : (s.setTl t x).trstN = s.trstN := rfl
@[simp] theorem State.setTl_uart (s : State) (t : Nat) (x : Tile) : (s.setTl t x).uart = s.uart := rfl
@[simp] theorem State.setTl_clocksStopped (s : State) (t : Nat) (x : Tile) : (s.setTl t x).clocksStopped = s.clocksStopped := rfl
@[simp] theorem State.setTl_i2cBusy (s : State) (t : Nat) (x : Tile) : (s.setTl t x).i2cBusy = s.i2cBusy := rfl
@[simp] theorem State.setTl_reply (s : State) (t : Nat) (x : Tile) : (s.setTl t x).reply = s.reply := rfl
@[simp] theorem State.setTl_mgmtOut (s : State) (t : Nat) (x : Tile) : (s.setTl t x).mgmtOut = s.mgmtOut := rfl
@[simp] theorem State.setTl_notes (s : State) (t : Nat) (x : Tile) : (s.setTl t x).notes = s.notes := rfl
@[simp] theorem State.setTl_dfltAll (s : State) (t : Nat) (x : Tile) : (s.setTl t x).dfltAll = s.dfltAll := rfl
@[simp] theorem State.setTl_free (s : State) (t : Nat) (x : Tile) : (s.setTl t x).free = s.free := rfl

/-! `State.setIrq` -/

@[simp] theorem State.setIrq_pending (s : State) (i : Irq) (c : Nat) (b : Bool) : (s.setIrq i c b).pending = s.pending := rfl
@[simp] theorem State.setIrq_od (s : State) (i : Irq) (c : Nat) (b : Bool) : (s.setIrq i c b).od = s.od := rfl
@[simp] theorem State.setIrq_bank (s : State) (i : Irq) (c : Nat) (b : Bool) : (s.setIrq i c b).bank = s.bank := rfl
@[simp] theorem State.setIrq_hold (s : State) (i : Irq) (c : Nat) (b : Bool) : (s.setIrq i c b).hold = s.hold := rfl
@[simp] theorem State.setIrq_staging (s : State) (i : Irq) (c : Nat) (b : Bool) : (s.setIrq i c b).staging = s.staging := rfl
@[simp] theorem State.setIrq_mem (s : State) (i : Irq) (c : Nat) (b : Bool) : (s.setIrq i c b).mem = s.mem := rfl
@[simp] theorem State.setIrq_poison (s : State) (i : Irq) (c : Nat) (b : Bool) : (s.setIrq i c b).poison = s.poison := rfl
@[simp] theorem State.setIrq_fresh (s : State) (i : Irq) (c : Nat) (b : Bool) : (s.setIrq i c b).fresh = s.fresh := rfl
@[simp] theorem State.setIrq_merges (s : State) (i : Irq) (c : Nat) (b : Bool) : (s.setIrq i c b).merges = s.merges := rfl
@[simp] theorem State.setIrq_anchor (s : State) (i : Irq) (c : Nat) (b : Bool) : (s.setIrq i c b).anchor = s.anchor := rfl
@[simp] theorem State.setIrq_refetch (s : State) (i : Irq) (c : Nat) (b : Bool) : (s.setIrq i c b).refetch = s.refetch := rfl
@[simp] theorem State.setIrq_raw (s : State) (i : Irq) (c : Nat) (b : Bool) : (s.setIrq i c b).raw = s.raw := rfl
@[simp] theorem State.setIrq_tbWrites (s : State) (i : Irq) (c : Nat) (b : Bool) : (s.setIrq i c b).tbWrites = s.tbWrites := rfl
@[simp] theorem State.setIrq_capSlots (s : State) (i : Irq) (c : Nat) (b : Bool) : (s.setIrq i c b).capSlots = s.capSlots := rfl
@[simp] theorem State.setIrq_capFifo (s : State) (i : Irq) (c : Nat) (b : Bool) : (s.setIrq i c b).capFifo = s.capFifo := rfl
@[simp] theorem State.setIrq_capPopped (s : State) (i : Irq) (c : Nat) (b : Bool) : (s.setIrq i c b).capPopped = s.capPopped := rfl
@[simp] theorem State.setIrq_live (s : State) (i : Irq) (c : Nat) (b : Bool) : (s.setIrq i c b).live = s.live := rfl
@[simp] theorem State.setIrq_trig (s : State) (i : Irq) (c : Nat) (b : Bool) : (s.setIrq i c b).trig = s.trig := rfl
@[simp] theorem State.setIrq_slotDue (s : State) (i : Irq) (c : Nat) (b : Bool) : (s.setIrq i c b).slotDue = s.slotDue := rfl
@[simp] theorem State.setIrq_refLostRaw (s : State) (i : Irq) (c : Nat) (b : Bool) : (s.setIrq i c b).refLostRaw = s.refLostRaw := rfl
@[simp] theorem State.setIrq_ppsRaw (s : State) (i : Irq) (c : Nat) (b : Bool) : (s.setIrq i c b).ppsRaw = s.ppsRaw := rfl
@[simp] theorem State.setIrq_synceLow (s : State) (i : Irq) (c : Nat) (b : Bool) : (s.setIrq i c b).synceLow = s.synceLow := rfl
@[simp] theorem State.setIrq_kennel (s : State) (i : Irq) (c : Nat) (b : Bool) : (s.setIrq i c b).kennel = s.kennel := rfl
@[simp] theorem State.setIrq_outq (s : State) (i : Irq) (c : Nat) (b : Bool) : (s.setIrq i c b).outq = s.outq := rfl
@[simp] theorem State.setIrq_carrier (s : State) (i : Irq) (c : Nat) (b : Bool) : (s.setIrq i c b).carrier = s.carrier := rfl
@[simp] theorem State.setIrq_tile (s : State) (i : Irq) (c : Nat) (b : Bool) : (s.setIrq i c b).tile = s.tile := rfl
@[simp] theorem State.setIrq_packStop (s : State) (i : Irq) (c : Nat) (b : Bool) : (s.setIrq i c b).packStop = s.packStop := rfl
@[simp] theorem State.setIrq_core (s : State) (i : Irq) (c : Nat) (b : Bool) : (s.setIrq i c b).core = s.core := rfl
@[simp] theorem State.setIrq_port (s : State) (i : Irq) (c : Nat) (b : Bool) : (s.setIrq i c b).port = s.port := rfl
@[simp] theorem State.setIrq_chan (s : State) (i : Irq) (c : Nat) (b : Bool) : (s.setIrq i c b).chan = s.chan := rfl
@[simp] theorem State.setIrq_engine (s : State) (i : Irq) (c : Nat) (b : Bool) : (s.setIrq i c b).engine = s.engine := rfl
@[simp] theorem State.setIrq_point (s : State) (i : Irq) (c : Nat) (b : Bool) : (s.setIrq i c b).point = s.point := rfl
@[simp] theorem State.setIrq_masked (s : State) (i : Irq) (c : Nat) (b : Bool) : (s.setIrq i c b).masked = s.masked := rfl
@[simp] theorem State.setIrq_stackIntlv (s : State) (i : Irq) (c : Nat) (b : Bool) : (s.setIrq i c b).stackIntlv = s.stackIntlv := rfl
@[simp] theorem State.setIrq_mgtRuns (s : State) (i : Irq) (c : Nat) (b : Bool) : (s.setIrq i c b).mgtRuns = s.mgtRuns := rfl
@[simp] theorem State.setIrq_hound (s : State) (i : Irq) (c : Nat) (b : Bool) : (s.setIrq i c b).hound = s.hound := rfl
@[simp] theorem State.setIrq_job (s : State) (i : Irq) (c : Nat) (b : Bool) : (s.setIrq i c b).job = s.job := rfl
@[simp] theorem State.setIrq_accelBusy (s : State) (i : Irq) (c : Nat) (b : Bool) : (s.setIrq i c b).accelBusy = s.accelBusy := rfl
@[simp] theorem State.setIrq_tx (s : State) (i : Irq) (c : Nat) (b : Bool) : (s.setIrq i c b).tx = s.tx := rfl
@[simp] theorem State.setIrq_txGates (s : State) (i : Irq) (c : Nat) (b : Bool) : (s.setIrq i c b).txGates = s.txGates := rfl
@[simp] theorem State.setIrq_paChecks (s : State) (i : Irq) (c : Nat) (b : Bool) : (s.setIrq i c b).paChecks = s.paChecks := rfl
@[simp] theorem State.setIrq_bank8 (s : State) (i : Irq) (c : Nat) (b : Bool) : (s.setIrq i c b).bank8 = s.bank8 := rfl
@[simp] theorem State.setIrq_lateSlot (s : State) (i : Irq) (c : Nat) (b : Bool) : (s.setIrq i c b).lateSlot = s.lateSlot := rfl
@[simp] theorem State.setIrq_decode (s : State) (i : Irq) (c : Nat) (b : Bool) : (s.setIrq i c b).decode = s.decode := rfl
@[simp] theorem State.setIrq_flow (s : State) (i : Irq) (c : Nat) (b : Bool) : (s.setIrq i c b).flow = s.flow := rfl
@[simp] theorem State.setIrq_stash (s : State) (i : Irq) (c : Nat) (b : Bool) : (s.setIrq i c b).stash = s.stash := rfl
@[simp] theorem State.setIrq_ringTaken (s : State) (i : Irq) (c : Nat) (b : Bool) : (s.setIrq i c b).ringTaken = s.ringTaken := rfl
@[simp] theorem State.setIrq_ctxCache (s : State) (i : Irq) (c : Nat) (b : Bool) : (s.setIrq i c b).ctxCache = s.ctxCache := rfl
@[simp] theorem State.setIrq_laneAdv (s : State) (i : Irq) (c : Nat) (b : Bool) : (s.setIrq i c b).laneAdv = s.laneAdv := rfl
@[simp] theorem State.setIrq_sdref (s : State) (i : Irq) (c : Nat) (b : Bool) : (s.setIrq i c b).sdref = s.sdref := rfl
@[simp] theorem State.setIrq_laneIdle (s : State) (i : Irq) (c : Nat) (b : Bool) : (s.setIrq i c b).laneIdle = s.laneIdle := rfl
@[simp] theorem State.setIrq_laneAt (s : State) (i : Irq) (c : Nat) (b : Bool) : (s.setIrq i c b).laneAt = s.laneAt := rfl
@[simp] theorem State.setIrq_rx (s : State) (i : Irq) (c : Nat) (b : Bool) : (s.setIrq i c b).rx = s.rx := rfl
@[simp] theorem State.setIrq_mac (s : State) (i : Irq) (c : Nat) (b : Bool) : (s.setIrq i c b).mac = s.mac := rfl
@[simp] theorem State.setIrq_stream (s : State) (i : Irq) (c : Nat) (b : Bool) : (s.setIrq i c b).stream = s.stream := rfl
@[simp] theorem State.setIrq_cpriTx (s : State) (i : Irq) (c : Nat) (b : Bool) : (s.setIrq i c b).cpriTx = s.cpriTx := rfl
@[simp] theorem State.setIrq_cpSent (s : State) (i : Irq) (c : Nat) (b : Bool) : (s.setIrq i c b).cpSent = s.cpSent := rfl
@[simp] theorem State.setIrq_fdb (s : State) (i : Irq) (c : Nat) (b : Bool) : (s.setIrq i c b).fdb = s.fdb := rfl
@[simp] theorem State.setIrq_epTold (s : State) (i : Irq) (c : Nat) (b : Bool) : (s.setIrq i c b).epTold = s.epTold := rfl
@[simp] theorem State.setIrq_epTime (s : State) (i : Irq) (c : Nat) (b : Bool) : (s.setIrq i c b).epTime = s.epTime := rfl
@[simp] theorem State.setIrq_session (s : State) (i : Irq) (c : Nat) (b : Bool) : (s.setIrq i c b).session = s.session := rfl
@[simp] theorem State.setIrq_handshake (s : State) (i : Irq) (c : Nat) (b : Bool) : (s.setIrq i c b).handshake = s.handshake := rfl
@[simp] theorem State.setIrq_idsGiven (s : State) (i : Irq) (c : Nat) (b : Bool) : (s.setIrq i c b).idsGiven = s.idsGiven := rfl
@[simp] theorem State.setIrq_ephGiven (s : State) (i : Irq) (c : Nat) (b : Bool) : (s.setIrq i c b).ephGiven = s.ephGiven := rfl
@[simp] theorem State.setIrq_commits (s : State) (i : Irq) (c : Nat) (b : Bool) : (s.setIrq i c b).commits = s.commits := rfl
@[simp] theorem State.setIrq_mramWaits (s : State) (i : Irq) (c : Nat) (b : Bool) : (s.setIrq i c b).mramWaits = s.mramWaits := rfl
@[simp] theorem State.setIrq_nvA (s : State) (i : Irq) (c : Nat) (b : Bool) : (s.setIrq i c b).nvA = s.nvA := rfl
@[simp] theorem State.setIrq_nvB (s : State) (i : Irq) (c : Nat) (b : Bool) : (s.setIrq i c b).nvB = s.nvB := rfl
@[simp] theorem State.setIrq_unit (s : State) (i : Irq) (c : Nat) (b : Bool) : (s.setIrq i c b).unit = s.unit := rfl
@[simp] theorem State.setIrq_packPower (s : State) (i : Irq) (c : Nat) (b : Bool) : (s.setIrq i c b).packPower = s.packPower := rfl
@[simp] theorem State.setIrq_packReq (s : State) (i : Irq) (c : Nat) (b : Bool) : (s.setIrq i c b).packReq = s.packReq := rfl
@[simp] theorem State.setIrq_pwr (s : State) (i : Irq) (c : Nat) (b : Bool) : (s.setIrq i c b).pwr = s.pwr := rfl
@[simp] theorem State.setIrq_dev (s : State) (i : Irq) (c : Nat) (b : Bool) : (s.setIrq i c b).dev = s.dev := rfl
@[simp] theorem State.setIrq_guardLead (s : State) (i : Irq) (c : Nat) (b : Bool) : (s.setIrq i c b).guardLead = s.guardLead := rfl
@[simp] theorem State.setIrq_guardAt (s : State) (i : Irq) (c : Nat) (b : Bool) : (s.setIrq i c b).guardAt = s.guardAt := rfl
@[simp] theorem State.setIrq_thermalDormant (s : State) (i : Irq) (c : Nat) (b : Bool) : (s.setIrq i c b).thermalDormant = s.thermalDormant := rfl
@[simp] theorem State.setIrq_warn (s : State) (i : Irq) (c : Nat) (b : Bool) : (s.setIrq i c b).warn = s.warn := rfl
@[simp] theorem State.setIrq_warnSince (s : State) (i : Irq) (c : Nat) (b : Bool) : (s.setIrq i c b).warnSince = s.warnSince := rfl
@[simp] theorem State.setIrq_railLow (s : State) (i : Irq) (c : Nat) (b : Bool) : (s.setIrq i c b).railLow = s.railLow := rfl
@[simp] theorem State.setIrq_dips (s : State) (i : Irq) (c : Nat) (b : Bool) : (s.setIrq i c b).dips = s.dips := rfl
@[simp] theorem State.setIrq_packIdleFor (s : State) (i : Irq) (c : Nat) (b : Bool) : (s.setIrq i c b).packIdleFor = s.packIdleFor := rfl
@[simp] theorem State.setIrq_sleepRaw (s : State) (i : Irq) (c : Nat) (b : Bool) : (s.setIrq i c b).sleepRaw = s.sleepRaw := rfl
@[simp] theorem State.setIrq_emergencies (s : State) (i : Irq) (c : Nat) (b : Bool) : (s.setIrq i c b).emergencies = s.emergencies := rfl
@[simp] theorem State.setIrq_hourTold (s : State) (i : Irq) (c : Nat) (b : Bool) : (s.setIrq i c b).hourTold = s.hourTold := rfl
@[simp] theorem State.setIrq_opsecHour (s : State) (i : Irq) (c : Nat) (b : Bool) : (s.setIrq i c b).opsecHour = s.opsecHour := rfl
@[simp] theorem State.setIrq_resTold (s : State) (i : Irq) (c : Nat) (b : Bool) : (s.setIrq i c b).resTold = s.resTold := rfl
@[simp] theorem State.setIrq_resetJob (s : State) (i : Irq) (c : Nat) (b : Bool) : (s.setIrq i c b).resetJob = s.resetJob := rfl
@[simp] theorem State.setIrq_aonPor (s : State) (i : Irq) (c : Nat) (b : Bool) : (s.setIrq i c b).aonPor = s.aonPor := rfl
@[simp] theorem State.setIrq_bootRaw (s : State) (i : Irq) (c : Nat) (b : Bool) : (s.setIrq i c b).bootRaw = s.bootRaw := rfl
@[simp] theorem State.setIrq_bootsel (s : State) (i : Irq) (c : Nat) (b : Bool) : (s.setIrq i c b).bootsel = s.bootsel := rfl
@[simp] theorem State.setIrq_loadQueue (s : State) (i : Irq) (c : Nat) (b : Bool) : (s.setIrq i c b).loadQueue = s.loadQueue := rfl
@[simp] theorem State.setIrq_loadSlot (s : State) (i : Irq) (c : Nat) (b : Bool) : (s.setIrq i c b).loadSlot = s.loadSlot := rfl
@[simp] theorem State.setIrq_trialStart (s : State) (i : Irq) (c : Nat) (b : Bool) : (s.setIrq i c b).trialStart = s.trialStart := rfl
@[simp] theorem State.setIrq_l2 (s : State) (i : Irq) (c : Nat) (b : Bool) : (s.setIrq i c b).l2 = s.l2 := rfl
@[simp] theorem State.setIrq_shdTold (s : State) (i : Irq) (c : Nat) (b : Bool) : (s.setIrq i c b).shdTold = s.shdTold := rfl
@[simp] theorem State.setIrq_shdPart (s : State) (i : Irq) (c : Nat) (b : Bool) : (s.setIrq i c b).shdPart = s.shdPart := rfl
@[simp] theorem State.setIrq_petRaw (s : State) (i : Irq) (c : Nat) (b : Bool) : (s.setIrq i c b).petRaw = s.petRaw := rfl
@[simp] theorem State.setIrq_l4Last (s : State) (i : Irq) (c : Nat) (b : Bool) : (s.setIrq i c b).l4Last = s.l4Last := rfl
@[simp] theorem State.setIrq_checkRaw (s : State) (i : Irq) (c : Nat) (b : Bool) : (s.setIrq i c b).checkRaw = s.checkRaw := rfl
@[simp] theorem State.setIrq_postNext (s : State) (i : Irq) (c : Nat) (b : Bool) : (s.setIrq i c b).postNext = s.postNext := rfl
@[simp] theorem State.setIrq_segment (s : State) (i : Irq) (c : Nat) (b : Bool) : (s.setIrq i c b).segment = s.segment := rfl
@[simp] theorem State.setIrq_segNext (s : State) (i : Irq) (c : Nat) (b : Bool) : (s.setIrq i c b).segNext = s.segNext := rfl
@[simp] theorem State.setIrq_segHead (s : State) (i : Irq) (c : Nat) (b : Bool) : (s.setIrq i c b).segHead = s.segHead := rfl
@[simp] theorem State.setIrq_retests (s : State) (i : Irq) (c : Nat) (b : Bool) : (s.setIrq i c b).retests = s.retests := rfl
@[simp] theorem State.setIrq_walkRaw (s : State) (i : Irq) (c : Nat) (b : Bool) : (s.setIrq i c b).walkRaw = s.walkRaw := rfl
@[simp] theorem State.setIrq_staged (s : State) (i : Irq) (c : Nat) (b : Bool) : (s.setIrq i c b).staged = s.staged := rfl
@[simp] theorem State.setIrq_lostRun (s : State) (i : Irq) (c : Nat) (b : Bool) : (s.setIrq i c b).lostRun = s.lostRun := rfl
@[simp] theorem State.setIrq_lostFirst (s : State) (i : Irq) (c : Nat) (b : Bool) : (s.setIrq i c b).lostFirst = s.lostFirst := rfl
@[simp] theorem State.setIrq_evSeq (s : State) (i : Irq) (c : Nat) (b : Bool) : (s.setIrq i c b).evSeq = s.evSeq := rfl
@[simp] theorem State.setIrq_ring (s : State) (i : Irq) (c : Nat) (b : Bool) : (s.setIrq i c b).ring = s.ring := rfl
@[simp] theorem State.setIrq_ringBlock (s : State) (i : Irq) (c : Nat) (b : Bool) : (s.setIrq i c b).ringBlock = s.ringBlock := rfl
@[simp] theorem State.setIrq_ringOff (s : State) (i : Irq) (c : Nat) (b : Bool) : (s.setIrq i c b).ringOff = s.ringOff := rfl
@[simp] theorem State.setIrq_opsec (s : State) (i : Irq) (c : Nat) (b : Bool) : (s.setIrq i c b).opsec = s.opsec := rfl
@[simp] theorem State.setIrq_pwrcycSt (s : State) (i : Irq) (c : Nat) (b : Bool) : (s.setIrq i c b).pwrcycSt = s.pwrcycSt := rfl
@[simp] theorem State.setIrq_hoT (s : State) (i : Irq) (c : Nat) (b : Bool) : (s.setIrq i c b).hoT = s.hoT := rfl
@[simp] theorem State.setIrq_hoChecked (s : State) (i : Irq) (c : Nat) (b : Bool) : (s.setIrq i c b).hoChecked = s.hoChecked := rfl
@[simp] theorem State.setIrq_flash (s : State) (i : Irq) (c : Nat) (b : Bool) : (s.setIrq i c b).flash = s.flash := rfl
@[simp] theorem State.setIrq_flashOp (s : State) (i : Irq) (c : Nat) (b : Bool) : (s.setIrq i c b).flashOp = s.flashOp := rfl
@[simp] theorem State.setIrq_gelpel (s : State) (i : Irq) (c : Nat) (b : Bool) : (s.setIrq i c b).gelpel = s.gelpel := rfl
@[simp] theorem State.setIrq_padIn (s : State) (i : Irq) (c : Nat) (b : Bool) : (s.setIrq i c b).padIn = s.padIn := rfl
@[simp] theorem State.setIrq_ppsOut (s : State) (i : Irq) (c : Nat) (b : Bool) : (s.setIrq i c b).ppsOut = s.ppsOut := rfl
@[simp] theorem State.setIrq_heartbeat (s : State) (i : Irq) (c : Nat) (b : Bool) : (s.setIrq i c b).heartbeat = s.heartbeat := rfl
@[simp] theorem State.setIrq_heartHz (s : State) (i : Irq) (c : Nat) (b : Bool) : (s.setIrq i c b).heartHz = s.heartHz := rfl
@[simp] theorem State.setIrq_faultN (s : State) (i : Irq) (c : Nat) (b : Bool) : (s.setIrq i c b).faultN = s.faultN := rfl
@[simp] theorem State.setIrq_thermTrip (s : State) (i : Irq) (c : Nat) (b : Bool) : (s.setIrq i c b).thermTrip = s.thermTrip := rfl
@[simp] theorem State.setIrq_pwrgood (s : State) (i : Irq) (c : Nat) (b : Bool) : (s.setIrq i c b).pwrgood = s.pwrgood := rfl
@[simp] theorem State.setIrq_resetN (s : State) (i : Irq) (c : Nat) (b : Bool) : (s.setIrq i c b).resetN = s.resetN := rfl
@[simp] theorem State.setIrq_trstN (s : State) (i : Irq) (c : Nat) (b : Bool) : (s.setIrq i c b).trstN = s.trstN := rfl
@[simp] theorem State.setIrq_uart (s : State) (i : Irq) (c : Nat) (b : Bool) : (s.setIrq i c b).uart = s.uart := rfl
@[simp] theorem State.setIrq_clocksStopped (s : State) (i : Irq) (c : Nat) (b : Bool) : (s.setIrq i c b).clocksStopped = s.clocksStopped := rfl
@[simp] theorem State.setIrq_i2cBusy (s : State) (i : Irq) (c : Nat) (b : Bool) : (s.setIrq i c b).i2cBusy = s.i2cBusy := rfl
@[simp] theorem State.setIrq_reply (s : State) (i : Irq) (c : Nat) (b : Bool) : (s.setIrq i c b).reply = s.reply := rfl
@[simp] theorem State.setIrq_mgmtOut (s : State) (i : Irq) (c : Nat) (b : Bool) : (s.setIrq i c b).mgmtOut = s.mgmtOut := rfl
@[simp] theorem State.setIrq_notes (s : State) (i : Irq) (c : Nat) (b : Bool) : (s.setIrq i c b).notes = s.notes := rfl
@[simp] theorem State.setIrq_dfltAll (s : State) (i : Irq) (c : Nat) (b : Bool) : (s.setIrq i c b).dfltAll = s.dfltAll := rfl
@[simp] theorem State.setIrq_free (s : State) (i : Irq) (c : Nat) (b : Bool) : (s.setIrq i c b).free = s.free := rfl

/-! `State.store` -/

@[simp] theorem State.store_pending (s : State) (a : Nat) (bs : List Byte) : (s.store a bs).pending = s.pending := rfl
@[simp] theorem State.store_od (s : State) (a : Nat) (bs : List Byte) : (s.store a bs).od = s.od := rfl
@[simp] theorem State.store_bank (s : State) (a : Nat) (bs : List Byte) : (s.store a bs).bank = s.bank := rfl
@[simp] theorem State.store_hold (s : State) (a : Nat) (bs : List Byte) : (s.store a bs).hold = s.hold := rfl
@[simp] theorem State.store_staging (s : State) (a : Nat) (bs : List Byte) : (s.store a bs).staging = s.staging := rfl
@[simp] theorem State.store_merges (s : State) (a : Nat) (bs : List Byte) : (s.store a bs).merges = s.merges := rfl
@[simp] theorem State.store_anchor (s : State) (a : Nat) (bs : List Byte) : (s.store a bs).anchor = s.anchor := rfl
@[simp] theorem State.store_raw (s : State) (a : Nat) (bs : List Byte) : (s.store a bs).raw = s.raw := rfl
@[simp] theorem State.store_tbWrites (s : State) (a : Nat) (bs : List Byte) : (s.store a bs).tbWrites = s.tbWrites := rfl
@[simp] theorem State.store_capSlots (s : State) (a : Nat) (bs : List Byte) : (s.store a bs).capSlots = s.capSlots := rfl
@[simp] theorem State.store_capFifo (s : State) (a : Nat) (bs : List Byte) : (s.store a bs).capFifo = s.capFifo := rfl
@[simp] theorem State.store_capPopped (s : State) (a : Nat) (bs : List Byte) : (s.store a bs).capPopped = s.capPopped := rfl
@[simp] theorem State.store_live (s : State) (a : Nat) (bs : List Byte) : (s.store a bs).live = s.live := rfl
@[simp] theorem State.store_trig (s : State) (a : Nat) (bs : List Byte) : (s.store a bs).trig = s.trig := rfl
@[simp] theorem State.store_slotDue (s : State) (a : Nat) (bs : List Byte) : (s.store a bs).slotDue = s.slotDue := rfl
@[simp] theorem State.store_refLostRaw (s : State) (a : Nat) (bs : List Byte) : (s.store a bs).refLostRaw = s.refLostRaw := rfl
@[simp] theorem State.store_ppsRaw (s : State) (a : Nat) (bs : List Byte) : (s.store a bs).ppsRaw = s.ppsRaw := rfl
@[simp] theorem State.store_synceLow (s : State) (a : Nat) (bs : List Byte) : (s.store a bs).synceLow = s.synceLow := rfl
@[simp] theorem State.store_kennel (s : State) (a : Nat) (bs : List Byte) : (s.store a bs).kennel = s.kennel := rfl
@[simp] theorem State.store_outq (s : State) (a : Nat) (bs : List Byte) : (s.store a bs).outq = s.outq := rfl
@[simp] theorem State.store_carrier (s : State) (a : Nat) (bs : List Byte) : (s.store a bs).carrier = s.carrier := rfl
@[simp] theorem State.store_tile (s : State) (a : Nat) (bs : List Byte) : (s.store a bs).tile = s.tile := rfl
@[simp] theorem State.store_packStop (s : State) (a : Nat) (bs : List Byte) : (s.store a bs).packStop = s.packStop := rfl
@[simp] theorem State.store_core (s : State) (a : Nat) (bs : List Byte) : (s.store a bs).core = s.core := rfl
@[simp] theorem State.store_port (s : State) (a : Nat) (bs : List Byte) : (s.store a bs).port = s.port := rfl
@[simp] theorem State.store_irq (s : State) (a : Nat) (bs : List Byte) : (s.store a bs).irq = s.irq := rfl
@[simp] theorem State.store_chan (s : State) (a : Nat) (bs : List Byte) : (s.store a bs).chan = s.chan := rfl
@[simp] theorem State.store_engine (s : State) (a : Nat) (bs : List Byte) : (s.store a bs).engine = s.engine := rfl
@[simp] theorem State.store_point (s : State) (a : Nat) (bs : List Byte) : (s.store a bs).point = s.point := rfl
@[simp] theorem State.store_masked (s : State) (a : Nat) (bs : List Byte) : (s.store a bs).masked = s.masked := rfl
@[simp] theorem State.store_stackIntlv (s : State) (a : Nat) (bs : List Byte) : (s.store a bs).stackIntlv = s.stackIntlv := rfl
@[simp] theorem State.store_mgtRuns (s : State) (a : Nat) (bs : List Byte) : (s.store a bs).mgtRuns = s.mgtRuns := rfl
@[simp] theorem State.store_hound (s : State) (a : Nat) (bs : List Byte) : (s.store a bs).hound = s.hound := rfl
@[simp] theorem State.store_job (s : State) (a : Nat) (bs : List Byte) : (s.store a bs).job = s.job := rfl
@[simp] theorem State.store_accelBusy (s : State) (a : Nat) (bs : List Byte) : (s.store a bs).accelBusy = s.accelBusy := rfl
@[simp] theorem State.store_tx (s : State) (a : Nat) (bs : List Byte) : (s.store a bs).tx = s.tx := rfl
@[simp] theorem State.store_txGates (s : State) (a : Nat) (bs : List Byte) : (s.store a bs).txGates = s.txGates := rfl
@[simp] theorem State.store_paChecks (s : State) (a : Nat) (bs : List Byte) : (s.store a bs).paChecks = s.paChecks := rfl
@[simp] theorem State.store_bank8 (s : State) (a : Nat) (bs : List Byte) : (s.store a bs).bank8 = s.bank8 := rfl
@[simp] theorem State.store_lateSlot (s : State) (a : Nat) (bs : List Byte) : (s.store a bs).lateSlot = s.lateSlot := rfl
@[simp] theorem State.store_decode (s : State) (a : Nat) (bs : List Byte) : (s.store a bs).decode = s.decode := rfl
@[simp] theorem State.store_flow (s : State) (a : Nat) (bs : List Byte) : (s.store a bs).flow = s.flow := rfl
@[simp] theorem State.store_stash (s : State) (a : Nat) (bs : List Byte) : (s.store a bs).stash = s.stash := rfl
@[simp] theorem State.store_ringTaken (s : State) (a : Nat) (bs : List Byte) : (s.store a bs).ringTaken = s.ringTaken := rfl
@[simp] theorem State.store_ctxCache (s : State) (a : Nat) (bs : List Byte) : (s.store a bs).ctxCache = s.ctxCache := rfl
@[simp] theorem State.store_laneAdv (s : State) (a : Nat) (bs : List Byte) : (s.store a bs).laneAdv = s.laneAdv := rfl
@[simp] theorem State.store_sdref (s : State) (a : Nat) (bs : List Byte) : (s.store a bs).sdref = s.sdref := rfl
@[simp] theorem State.store_laneIdle (s : State) (a : Nat) (bs : List Byte) : (s.store a bs).laneIdle = s.laneIdle := rfl
@[simp] theorem State.store_laneAt (s : State) (a : Nat) (bs : List Byte) : (s.store a bs).laneAt = s.laneAt := rfl
@[simp] theorem State.store_rx (s : State) (a : Nat) (bs : List Byte) : (s.store a bs).rx = s.rx := rfl
@[simp] theorem State.store_mac (s : State) (a : Nat) (bs : List Byte) : (s.store a bs).mac = s.mac := rfl
@[simp] theorem State.store_stream (s : State) (a : Nat) (bs : List Byte) : (s.store a bs).stream = s.stream := rfl
@[simp] theorem State.store_cpriTx (s : State) (a : Nat) (bs : List Byte) : (s.store a bs).cpriTx = s.cpriTx := rfl
@[simp] theorem State.store_cpSent (s : State) (a : Nat) (bs : List Byte) : (s.store a bs).cpSent = s.cpSent := rfl
@[simp] theorem State.store_fdb (s : State) (a : Nat) (bs : List Byte) : (s.store a bs).fdb = s.fdb := rfl
@[simp] theorem State.store_epTold (s : State) (a : Nat) (bs : List Byte) : (s.store a bs).epTold = s.epTold := rfl
@[simp] theorem State.store_epTime (s : State) (a : Nat) (bs : List Byte) : (s.store a bs).epTime = s.epTime := rfl
@[simp] theorem State.store_session (s : State) (a : Nat) (bs : List Byte) : (s.store a bs).session = s.session := rfl
@[simp] theorem State.store_handshake (s : State) (a : Nat) (bs : List Byte) : (s.store a bs).handshake = s.handshake := rfl
@[simp] theorem State.store_idsGiven (s : State) (a : Nat) (bs : List Byte) : (s.store a bs).idsGiven = s.idsGiven := rfl
@[simp] theorem State.store_ephGiven (s : State) (a : Nat) (bs : List Byte) : (s.store a bs).ephGiven = s.ephGiven := rfl
@[simp] theorem State.store_commits (s : State) (a : Nat) (bs : List Byte) : (s.store a bs).commits = s.commits := rfl
@[simp] theorem State.store_mramWaits (s : State) (a : Nat) (bs : List Byte) : (s.store a bs).mramWaits = s.mramWaits := rfl
@[simp] theorem State.store_nvA (s : State) (a : Nat) (bs : List Byte) : (s.store a bs).nvA = s.nvA := rfl
@[simp] theorem State.store_nvB (s : State) (a : Nat) (bs : List Byte) : (s.store a bs).nvB = s.nvB := rfl
@[simp] theorem State.store_unit (s : State) (a : Nat) (bs : List Byte) : (s.store a bs).unit = s.unit := rfl
@[simp] theorem State.store_packPower (s : State) (a : Nat) (bs : List Byte) : (s.store a bs).packPower = s.packPower := rfl
@[simp] theorem State.store_packReq (s : State) (a : Nat) (bs : List Byte) : (s.store a bs).packReq = s.packReq := rfl
@[simp] theorem State.store_pwr (s : State) (a : Nat) (bs : List Byte) : (s.store a bs).pwr = s.pwr := rfl
@[simp] theorem State.store_dev (s : State) (a : Nat) (bs : List Byte) : (s.store a bs).dev = s.dev := rfl
@[simp] theorem State.store_guardLead (s : State) (a : Nat) (bs : List Byte) : (s.store a bs).guardLead = s.guardLead := rfl
@[simp] theorem State.store_guardAt (s : State) (a : Nat) (bs : List Byte) : (s.store a bs).guardAt = s.guardAt := rfl
@[simp] theorem State.store_thermalDormant (s : State) (a : Nat) (bs : List Byte) : (s.store a bs).thermalDormant = s.thermalDormant := rfl
@[simp] theorem State.store_warn (s : State) (a : Nat) (bs : List Byte) : (s.store a bs).warn = s.warn := rfl
@[simp] theorem State.store_warnSince (s : State) (a : Nat) (bs : List Byte) : (s.store a bs).warnSince = s.warnSince := rfl
@[simp] theorem State.store_railLow (s : State) (a : Nat) (bs : List Byte) : (s.store a bs).railLow = s.railLow := rfl
@[simp] theorem State.store_dips (s : State) (a : Nat) (bs : List Byte) : (s.store a bs).dips = s.dips := rfl
@[simp] theorem State.store_packIdleFor (s : State) (a : Nat) (bs : List Byte) : (s.store a bs).packIdleFor = s.packIdleFor := rfl
@[simp] theorem State.store_sleepRaw (s : State) (a : Nat) (bs : List Byte) : (s.store a bs).sleepRaw = s.sleepRaw := rfl
@[simp] theorem State.store_emergencies (s : State) (a : Nat) (bs : List Byte) : (s.store a bs).emergencies = s.emergencies := rfl
@[simp] theorem State.store_hourTold (s : State) (a : Nat) (bs : List Byte) : (s.store a bs).hourTold = s.hourTold := rfl
@[simp] theorem State.store_opsecHour (s : State) (a : Nat) (bs : List Byte) : (s.store a bs).opsecHour = s.opsecHour := rfl
@[simp] theorem State.store_resTold (s : State) (a : Nat) (bs : List Byte) : (s.store a bs).resTold = s.resTold := rfl
@[simp] theorem State.store_resetJob (s : State) (a : Nat) (bs : List Byte) : (s.store a bs).resetJob = s.resetJob := rfl
@[simp] theorem State.store_aonPor (s : State) (a : Nat) (bs : List Byte) : (s.store a bs).aonPor = s.aonPor := rfl
@[simp] theorem State.store_bootRaw (s : State) (a : Nat) (bs : List Byte) : (s.store a bs).bootRaw = s.bootRaw := rfl
@[simp] theorem State.store_bootsel (s : State) (a : Nat) (bs : List Byte) : (s.store a bs).bootsel = s.bootsel := rfl
@[simp] theorem State.store_loadQueue (s : State) (a : Nat) (bs : List Byte) : (s.store a bs).loadQueue = s.loadQueue := rfl
@[simp] theorem State.store_loadSlot (s : State) (a : Nat) (bs : List Byte) : (s.store a bs).loadSlot = s.loadSlot := rfl
@[simp] theorem State.store_trialStart (s : State) (a : Nat) (bs : List Byte) : (s.store a bs).trialStart = s.trialStart := rfl
@[simp] theorem State.store_l2 (s : State) (a : Nat) (bs : List Byte) : (s.store a bs).l2 = s.l2 := rfl
@[simp] theorem State.store_shdTold (s : State) (a : Nat) (bs : List Byte) : (s.store a bs).shdTold = s.shdTold := rfl
@[simp] theorem State.store_shdPart (s : State) (a : Nat) (bs : List Byte) : (s.store a bs).shdPart = s.shdPart := rfl
@[simp] theorem State.store_petRaw (s : State) (a : Nat) (bs : List Byte) : (s.store a bs).petRaw = s.petRaw := rfl
@[simp] theorem State.store_l4Last (s : State) (a : Nat) (bs : List Byte) : (s.store a bs).l4Last = s.l4Last := rfl
@[simp] theorem State.store_checkRaw (s : State) (a : Nat) (bs : List Byte) : (s.store a bs).checkRaw = s.checkRaw := rfl
@[simp] theorem State.store_postNext (s : State) (a : Nat) (bs : List Byte) : (s.store a bs).postNext = s.postNext := rfl
@[simp] theorem State.store_segment (s : State) (a : Nat) (bs : List Byte) : (s.store a bs).segment = s.segment := rfl
@[simp] theorem State.store_segNext (s : State) (a : Nat) (bs : List Byte) : (s.store a bs).segNext = s.segNext := rfl
@[simp] theorem State.store_segHead (s : State) (a : Nat) (bs : List Byte) : (s.store a bs).segHead = s.segHead := rfl
@[simp] theorem State.store_retests (s : State) (a : Nat) (bs : List Byte) : (s.store a bs).retests = s.retests := rfl
@[simp] theorem State.store_walkRaw (s : State) (a : Nat) (bs : List Byte) : (s.store a bs).walkRaw = s.walkRaw := rfl
@[simp] theorem State.store_staged (s : State) (a : Nat) (bs : List Byte) : (s.store a bs).staged = s.staged := rfl
@[simp] theorem State.store_lostRun (s : State) (a : Nat) (bs : List Byte) : (s.store a bs).lostRun = s.lostRun := rfl
@[simp] theorem State.store_lostFirst (s : State) (a : Nat) (bs : List Byte) : (s.store a bs).lostFirst = s.lostFirst := rfl
@[simp] theorem State.store_evSeq (s : State) (a : Nat) (bs : List Byte) : (s.store a bs).evSeq = s.evSeq := rfl
@[simp] theorem State.store_ring (s : State) (a : Nat) (bs : List Byte) : (s.store a bs).ring = s.ring := rfl
@[simp] theorem State.store_ringBlock (s : State) (a : Nat) (bs : List Byte) : (s.store a bs).ringBlock = s.ringBlock := rfl
@[simp] theorem State.store_ringOff (s : State) (a : Nat) (bs : List Byte) : (s.store a bs).ringOff = s.ringOff := rfl
@[simp] theorem State.store_opsec (s : State) (a : Nat) (bs : List Byte) : (s.store a bs).opsec = s.opsec := rfl
@[simp] theorem State.store_pwrcycSt (s : State) (a : Nat) (bs : List Byte) : (s.store a bs).pwrcycSt = s.pwrcycSt := rfl
@[simp] theorem State.store_hoT (s : State) (a : Nat) (bs : List Byte) : (s.store a bs).hoT = s.hoT := rfl
@[simp] theorem State.store_hoChecked (s : State) (a : Nat) (bs : List Byte) : (s.store a bs).hoChecked = s.hoChecked := rfl
@[simp] theorem State.store_flash (s : State) (a : Nat) (bs : List Byte) : (s.store a bs).flash = s.flash := rfl
@[simp] theorem State.store_flashOp (s : State) (a : Nat) (bs : List Byte) : (s.store a bs).flashOp = s.flashOp := rfl
@[simp] theorem State.store_gelpel (s : State) (a : Nat) (bs : List Byte) : (s.store a bs).gelpel = s.gelpel := rfl
@[simp] theorem State.store_padIn (s : State) (a : Nat) (bs : List Byte) : (s.store a bs).padIn = s.padIn := rfl
@[simp] theorem State.store_ppsOut (s : State) (a : Nat) (bs : List Byte) : (s.store a bs).ppsOut = s.ppsOut := rfl
@[simp] theorem State.store_heartbeat (s : State) (a : Nat) (bs : List Byte) : (s.store a bs).heartbeat = s.heartbeat := rfl
@[simp] theorem State.store_heartHz (s : State) (a : Nat) (bs : List Byte) : (s.store a bs).heartHz = s.heartHz := rfl
@[simp] theorem State.store_faultN (s : State) (a : Nat) (bs : List Byte) : (s.store a bs).faultN = s.faultN := rfl
@[simp] theorem State.store_thermTrip (s : State) (a : Nat) (bs : List Byte) : (s.store a bs).thermTrip = s.thermTrip := rfl
@[simp] theorem State.store_pwrgood (s : State) (a : Nat) (bs : List Byte) : (s.store a bs).pwrgood = s.pwrgood := rfl
@[simp] theorem State.store_resetN (s : State) (a : Nat) (bs : List Byte) : (s.store a bs).resetN = s.resetN := rfl
@[simp] theorem State.store_trstN (s : State) (a : Nat) (bs : List Byte) : (s.store a bs).trstN = s.trstN := rfl
@[simp] theorem State.store_uart (s : State) (a : Nat) (bs : List Byte) : (s.store a bs).uart = s.uart := rfl
@[simp] theorem State.store_clocksStopped (s : State) (a : Nat) (bs : List Byte) : (s.store a bs).clocksStopped = s.clocksStopped := rfl
@[simp] theorem State.store_i2cBusy (s : State) (a : Nat) (bs : List Byte) : (s.store a bs).i2cBusy = s.i2cBusy := rfl
@[simp] theorem State.store_reply (s : State) (a : Nat) (bs : List Byte) : (s.store a bs).reply = s.reply := rfl
@[simp] theorem State.store_mgmtOut (s : State) (a : Nat) (bs : List Byte) : (s.store a bs).mgmtOut = s.mgmtOut := rfl
@[simp] theorem State.store_notes (s : State) (a : Nat) (bs : List Byte) : (s.store a bs).notes = s.notes := rfl
@[simp] theorem State.store_dfltAll (s : State) (a : Nat) (bs : List Byte) : (s.store a bs).dfltAll = s.dfltAll := rfl
@[simp] theorem State.store_free (s : State) (a : Nat) (bs : List Byte) : (s.store a bs).free = s.free := rfl

@[simp] theorem State.setEnt_od (s : State) (k : Nat) (v : U64) : (s.setEnt k v).od = tput s.od k v := rfl
@[simp] theorem State.answer_reply (s : State) (r : Reply) : (s.answer r).reply = r := rfl
@[simp] theorem State.status_reply (s : State) (st : Status) : (s.status st).reply = .status st := rfl
@[simp] theorem State.setUn_unit (s : State) (u : Nat) (x : UnitSt) : (s.setUn u x).unit = tput s.unit u x := rfl
@[simp] theorem State.setTl_tile (s : State) (t : Nat) (x : Tile) : (s.setTl t x).tile = tput s.tile t x := rfl
@[simp] theorem State.store_mem (s : State) (a : Nat) (bs : List Byte) : (s.store a bs).mem = memSetBytes s.mem a bs := rfl

end Sys2Proof.Machine
end

