-- ==== Sys2Proof/Laws/Psimir.lean ====
section
/-!
SUPPORT. Psimir.lean: an instruction of a ready tile acts as its meaning says, and an illegal one enters the handler.
-/
namespace Sys2Proof.Machine

/-- A ready tile and a legal instruction: the instruction acts. -/
theorem stepTile_ready {s : State} {t : Nat} {uses : List Reg} {legal : Tile → Bool} {f : Tile → State}
    (h : s.tileReady t uses) (hl : legal (s.tl t) = true) : stepTile s t uses legal f = .next (f (s.tl t)) := by
  obtain ⟨h1, h2, h3, h4, h5⟩ := h
  have h6 : ¬ (0x10000 ≤ (s.tl t).pc.toNat) := by omega
  unfold stepTile
  simp only [h1, h2, h4, h5, h6, hl]
  simp

/-- A ready tile and an illegal instruction: the exception is raised. -/
theorem stepTile_illegal {s : State} {t : Nat} {uses : List Reg} {legal : Tile → Bool} {f : Tile → State}
    (h : s.tileReady t uses) (hl : legal (s.tl t) = false) :
    stepTile s t uses legal f = .next (raiseExc s t (s.tl t) cIllegal 0 none) := by
  obtain ⟨h1, h2, h3, h4, h5⟩ := h
  have h6 : ¬ (0x10000 ≤ (s.tl t).pc.toNat) := by omega
  unfold stepTile
  simp only [h1, h2, h4, h5, h6, hl]
  simp

/-- A vector element instruction on a ready tile with legal fields. -/
theorem opVA_ready {s : State} {t : Fin 512} {f : VA} {al : VAllow} {rt : Nat} {useB : Bool} {more : Tile → Bool} {op : Tile → Tile}
    (h : s.tileReady t (vaUses f)) (hl : vaLegal al f (some rt) useB (s.tl t) = true) (hm : more (s.tl t) = true) :
    opVA s t f al rt useB more op = .next (retire s t (op (s.tl t))) :=
  stepTile_ready h (by simp [hl, hm])

@[simp] theorem State.tl_setTl_self (s : State) (t : Nat) (x : Tile) : (s.setTl t x).tl t = x := by
  simp [State.tl, State.setTl, tget_tput]

theorem State.tl_setTl_ne (s : State) {t t' : Nat} (x : Tile) (h : t' ≠ t) : (s.setTl t x).tl t' = s.tl t' := by
  simp [State.tl, State.setTl, tget_tput, h]

/-- A tile's state does not depend on the dictionary. -/
@[simp] theorem State.tl_setEnt (s : State) (k : Nat) (v : U64) (t : Nat) : (s.setEnt k v).tl t = s.tl t := rfl
@[simp] theorem State.tl_setFld (s : State) (k hi lo x t : Nat) : (s.setFld k hi lo x).tl t = s.tl t := rfl
@[simp] theorem State.tl_setFlag (s : State) (k i : Nat) (b : Bool) (t : Nat) : (s.setFlag k i b).tl t = s.tl t := rfl
@[simp] theorem State.tl_incSat (s : State) (k hi lo n t : Nat) : (s.incSat k hi lo n).tl t = s.tl t := rfl
@[simp] theorem State.tl_inc64 (s : State) (k n t : Nat) : (s.inc64 k n).tl t = s.tl t := rfl
@[simp] theorem State.tl_inc32 (s : State) (k n t : Nat) : (s.inc32 k n).tl t = s.tl t := rfl
@[simp] theorem State.tl_status (s : State) (st : Status) (t : Nat) : (s.status st).tl t = s.tl t := rfl

/-- Retiring leaves the tile with the loop end's program counter. -/
@[simp] theorem tl_retireTo (s : State) (t : Nat) (x : Tile) (npc : BitVec 32) :
    (retireTo s t x npc).tl t = loopEnd { x with resumed := false } npc := by
  simp [retireTo]

end Sys2Proof.Machine
end

