-- ==== Sys2Proof/Machine/PsimirWord.lean ====
section
/-!
DEFINITION. PsimirWord.lean: a tile executes a 32-bit word (R165): the instruction that it spells, or ILLEGAL where its operation or
function code is reserved or it is zero. The table's rows are the instructions already decoded; this is their fetch from IM.
-/
namespace Sys2Proof.Machine

/-- A tile executes a word: a word that spells no instruction raises ILLEGAL (R165). -/
def psimirWord (t : Fin 512) (w : BitVec 32) (s : State) : Out :=
  match decodePsimir t w with
  | some i => exec i s
  | none => stepTile s t [] (fun _ => false) (fun _ => s)

/-- The word of IM at the tile's PC (R122). -/
def State.imWord (s : State) (t : Fin 512) : BitVec 32 :=
  BitVec.ofNat 32 (leNat (s.bytes (imAddr t (s.tl t).pc.toNat) 4))

/-- A tile fetches the word at its PC and executes it; outside IM the fetch itself fails, whatever the word (R122). -/
def psimirFetch (t : Fin 512) (s : State) : Out := psimirWord t (s.imWord t) s

end Sys2Proof.Machine
end

