-- ==== Sys2Proof/Tests/Slice0.lean ====
section
/-!
SUPPORT. Slice0.lean: the model's own tests. Each `test_<Name>_meets` shows states and operands that meet the hypotheses of the
statement Obligations.<Name>, clause by clause (those with a tag, a result that arrives, or the own address of the port, in a theorem apart);
then an ill-formed command for each check of Instr.wf, words of Psimir written out from
the spec's encoding, and single steps with results from the spec's tables.
-/
namespace Sys2Proof.Tests
set_option Elab.async false
open Sys2Proof.Machine

/-- READY, everything powered, nothing in progress. -/
def up : State :=
  { (State.reset.setPhase phReady) with pwrgood := true, clocksStopped := false, resetJob := none, aonPor := false }
/-- Trigger unit 0 runs with a period of 1 µs; row 0 is enabled. -/
def tu : State :=
  (((up.setEnt (Key.ttOwner 0) 0).setEnt (Key.ttPeriod 0) 0x3E800000000).setFlag (Key.ttCfg 0) 0 true).setFlag (Key.ttRow 0 0 1) 62 true
/-- Tile 511 runs: s1 names the first byte of LM, s2 is 7, PXS_VL is 4. -/
def px : State := { up with tile := [(511, { tileInit with st := .running, s := [(1, 0x100000), (2, 7)], vl := 4 })] }
/-- Tile 511 of `px` changed. -/
def pxWith (f : Tile → Tile) : State := px.setTl 511 (f (px.tl 511))
/-- Tile 511 with element type and group ty in PXS_VTYPE. -/
def pv (ty : Byte) : State := pxWith (fun x => { x with vtype := ty })
/-- Tile 511 in its handler. -/
def pinh : State := pxWith (fun x => { x with status := mkStatus false true false true true })
/-- Descriptor of kind k for target u with n operands. -/
def ds (k u n : Nat) : Desc := ⟨w64 (k * 2 ^ 52 + n * 2 ^ 46), w64 (u * 2 ^ 52), 0, 0, 0, 0, 0, 0⟩
/-- An entry in use. -/
def en (st : EState) (d : Desc) : Entry := { entryInit with st := st, desc := d }
/-- Kind 5 runs on tiles and kind 6 on accelerators of pack 0; tile 0, accelerator 584 and control core 840 run. -/
def kup : State :=
  ((({ up with unit := [0, 1, 2, 3, 4, 5, 6, 7, 584, 840].map (fun u => (u, { unitInit with released := true })) }).setEnt (Key.knKind 0 5)
    0x9000000000000000).setEnt (Key.knKind 0 6) 0xA000000000000000)
/-- `kup` with entries in the store of pack 0. -/
def kst (es : Tab Entry) : State := kup.setKn 0 { knInit with entries := es }
/-- Control core 15 runs. -/
def cup : State := { kup with core := [(15, ⟨true, false, 0, .machine, 0, 0, 0⟩)] }
/-- Pack 0 is partition 0's and runs. -/
def dup : State := (kup.setUn 576 { unitInit with released := true }).setEnt (Key.prtPacks 0) 1
/-- DMA channel 31 in a state. -/
def dch (st : Nat) (x : Chan) : State := (dup.setChSt 31 st).setCh 31 x
/-- A transfer at the first byte of a tile's LM. -/
def xf (k : ReadFor) (n : Nat) (d : List (Byte × Bool)) : Xfer := ⟨k, 0, 0, 0x1802000000, n, d, 0, false⟩
/-- Hound engine 7 runs; watch 15 has type ty, one stream, windows of 20 µs, and symbols and references of one sample. -/
def hrow (ty : Nat) : List U64 :=
  [w64 (2 ^ 62 + ty * 2 ^ 59), 1, 20000, 0, w64 (ty * 2 ^ 60 + 2 ^ 20), w64 (2 ^ 48 + 2 * 2 ^ 40 + 1), 0, 0]
def hup (ty : Nat) : State :=
  ((up.setUn (houndUnit 7) { unitInit with released := true }).setFlag (Key.hndCfg 7) 0 true).setRowFrom (.watch 7) 0 15 0 (hrow ty)
/-- Stream slot 0 has delivered sample c of 5 µs, and all up to 20 µs. -/
def hfed (c : C16) (s : State) : State :=
  s.setHnd 7 { s.hnd 7 with lines := [(0, ⟨1, nsT 20000, [(nsT 5000, some c)]⟩)] }
/-- An occasion of watch 15 is open, and has ended by now. -/
def hocc (ty : Nat) (c : C16) : State := hfed c { (hup ty).setLv (.watch 7) ⟨0, [], [⟨15, hrow ty, 0, 0⟩], [], 0⟩ with raw := 2 ^ 14 }
def hw (ty : Nat) (f : Watch → Watch) : State :=
  (hocc ty 0).setHnd 7 (((hocc ty 0).hnd 7).setW 15 (f (((hocc ty 0).hnd 7).w 15)))
/-- Burst lane 15 of engine 7 is open. -/
def hl (f : Lane → Lane) : State :=
  (hfed 0 (hup 0)).setHnd 7 (((hfed 0 (hup 0)).hnd 7).setL 15 (f { laneInit with isOpen := true, latched := hrow 0, winEnd := nsT 20000 }))
/-- A job of unit k of pack 0 with OP op: input at 0x1800002000, block at PM offset 64, output at 0x1800004000, record at 0x1800006000. -/
def job (k op : Nat) (a0 a3 : Nat) (blk : List Nat) : State :=
  (dup.setKn 0 { knInit with entries := [(7, { en .running ⟨0, 0, 0, w64 (op * 2 ^ 61 + a0), w64 (64 * 2 ^ 40 + 0x1800002000), w64 0x1800004000, w64 a3, 0⟩ with
    unit := accUnit 0 k })] }).store 0x1800000040 (blk.map (BitVec.ofNat 8))
/-- Unit k of pack 0 has a job of OP op, not begun. -/
def jobMeets (k op : Nat) (s : State) : Bool :=
  s.taskOn (accUnit 0 k) == some (0, 7) && (tfind s.job (jobKey 0 k)).isNone && (s.entry 0 7).desc.op == op
/-- A coding block: TBS, BG, QM, IT_MAX, and a bank whose slot is another one. -/
def cblk (tbs bg it : Nat) : List Nat :=
  [tbs, 0, 0, 0, 64, 0, 0, 0, 0, 0, 1, 0, 0, 0, 0, 0, bg, 2, 1, 0, 0, 0, 0, 0, 0, 0, 0, 0, 0x40, it, 0, 1, 0, 0x80] ++ List.replicate 30 0
/-- An equalizer block: one antenna, one UE of one layer, one PRB, a DMRS and a data symbol. -/
def eblk : List Nat :=
  [1, 1, 0, 0, 0, 0, 1, 0, 64, 0, 0, 0, 1, 0, 2, 0, 0x10] ++ List.replicate 47 0 ++
  [1, 2, 0, 0, 0, 0, 0, 0, 0, 0x80, 0, 0, 0x18, 0, 0, 0, 0, 0xC0, 0, 0, 0x18, 0, 0, 0] ++ List.replicate 232 0
/-- A polar block. -/
def pblk : List Nat := [12, 0, 64] ++ List.replicate 61 0
/-- A job without a block: its input address alone. -/
def job0 (k op a0 a3 : Nat) : State :=
  dup.setKn 0 { knInit with entries := [(7, { en .running ⟨0, 0, 0, w64 (op * 2 ^ 61 + a0), w64 0x1800002000, w64 0x1800004000, w64 a3, 0⟩ with
    unit := accUnit 0 k })] }
/-- An equalizer's job with its block at PM offset 64. -/
def jobE (k op : Nat) : State :=
  (dup.setKn 0 { knInit with entries := [(7, { en .running ⟨0, 0, 0, w64 (op * 2 ^ 61), w64 (if op = 2 then 0 else 0x1800002000),
    w64 0x1800004000, 64, 0⟩ with unit := accUnit 0 k })] }).store 0x1800000040 (eblk.map (BitVec.ofNat 8))
/-- An operation answered a value, and the state and the value meet f. -/
def meets {α : Type} (p : State × Option α) (f : State → α → Bool) : Bool := p.2.any (f p.1)
/-- Ring 255 of the flow engine, partition 0's, of type ty at HBM 0x1000000: the entry b at slot 1 is offered. -/
def rg (ty : Nat) (b : List Byte) : State :=
  let s := ((({ up with ringTaken := [(255, 2)] }.setUn 856 { unitInit with released := true }).setFlag Key.flCfg 63 true).setEnt
    (Key.flRingCfg 255) (w64 (2 ^ 63 + ty * 2 ^ 61 + 4 * 2 ^ 40))).setEnt (Key.flRingBase 255) 0x1000000
  (s.store 0x1000008 [1]).store 0x1000080 b
/-- An entry's bytes: OP, carrier 383, ADDR 0x1100000, LEN, and the operand area from byte 24. -/
def rent (op len : Nat) (args : List Byte) : List Byte :=
  [BitVec.ofNat 8 op, 0, 0x7F, 1, 0, 0, 0, 0, 0, 0, 0x10, 1, 0, 0, 0, 0, BitVec.ofNat 8 len, 0, 0, 0, 0, 0, 0, 0] ++ args
/-- A header of partition 0. -/
def fhdr : FlowHdr := ⟨0, 383, 0, 4, false, true, 12, 12, 0, 0, 0, false, false, false, false, 0, 0, 0, 0, 0, 64, 40, 45, 35, 20, 4, 25⟩
/-- Context 2^20 - 1 of `fhdr` in a state, changed. -/
def fctx (s : State) (f : Flow → Flow) : State :=
  { s with ctxCache := [(16368, (2 ^ 20 - 1, false))] }.setFl (2 ^ 20 - 1) (f { flowInit with st := .opened, hdr := fhdr })
/-- The ring's front entry has OP op and meets f. -/
def fronts (s : State) (op : Nat) (f : State → REntry → Bool) : Bool :=
  meets (s.ringFront 255) (fun t e => e.op == op && s.ringType 255 == (if op < 16 then 0 else 1) && f t e)
/-- The entry names an open context of the ring's owner. -/
def minef (s : State) (e : REntry) : Bool :=
  decide (e.arg 24 4 < ctxCount) && (s.fl (e.arg 24 4)).st == .opened && (s.fl (e.arg 24 4)).hdr.owner == s.ringOwner 255
def gonef (s : State) (e : REntry) : Bool := decide (e.arg 24 4 < ctxCount) && (s.fl (e.arg 24 4)).st == .free
/-- A frame that holds the first fragment of an IPv4 packet. -/
def ipf : List Byte := List.replicate 12 0 ++ [8, 0, 0x45, 0, 0, 20, 0, 0, 0x20, 0] ++ List.replicate 40 0
/-- Lane 63 alone in its port, of octet 7 in mode md, enabled, in lane state st. -/
def ln (md st : Nat) : State :=
  (((((up.setUn 999 { unitInit with released := true }).setUn (macUnit 63) { unitInit with released := true }).setEnt (Key.lnOCfg 7)
    (w64 (md * 2 ^ 60))).setFlag (Key.lnCfg 63) 63 true).setLaneState 63 st).setEntN (Key.ethOwner 63) 0
/-- Its MAC runs. -/
def mac : State := ((ln 1 4).setEnt (Key.ethCfg 63) (w64 (2 ^ 63 + 9600))).setFld (Key.lnStat 63) 59 56 3
/-- A frame of n bytes at the head of queue 7 of MAC 63. -/
def tfr : TxFrame := plainFrame (List.replicate 60 0)
def macQ : State := mac.setMc 63 { mac.mc 63 with queues := [(7, [tfr])] }
/-- HTX of MAC 63 at 0x1000000, PROD 1, its descriptor for 60 bytes at 0x1100000. -/
def mhtx : State := ((((mac.setEnt (Key.prtMacs 0 0) (w64 (2 ^ 63))).setEnt (Key.memHbmRegion 63) (w64 (2 ^ 63 + 2 ^ 16 + 1))).setEnt (Key.ethHtx 63) (w64 (2 ^ 63 + 4 * 2 ^ 48 + 0x1000000))).store 0x1000000 [1]).store 0x1000040
  [0, 0, 0x10, 1, 0, 0, 0, 0, 60, 0, 0x70, 0, 0, 0, 0, 0]
/-- Stream n on port 127 and trigger unit 0, carrier 383; kd adds TX and KIND to its first word. -/
def fhN (n kd : Nat) (f : Stream → Stream) : State :=
  (((tu.setFhs n (f streamInit)).setEnt (Key.ethStr n 0) (w64 (2 ^ 63 + kd + 127 * 2 ^ 53 + 383 * 2 ^ 44))).setEnt (Key.ethStr n 3) (w64 (3 * 2 ^ 47))).setEnt
    (Key.ethCpCfg 383) (w64 (2 ^ 63 + 2 ^ 16))
def fh : Nat → (Stream → Stream) → State := fhN 4095
/-- Window row r of trigger unit 0 is open for port 127, in a slot of carrier 383. -/
def fwin (r : Nat) (s : State) : State :=
  { s.setLv (.trig 0) ⟨0, [], [⟨r, [0, w64 (3 * 2 ^ 56 + 127 * 2 ^ 32)], 0, 0⟩], [], 0⟩ with carrier := [(383, ⟨0, [⟨5, 0, false⟩], false⟩)] }
/-- CPRI link 31 runs. -/
def cpri : State := ((((up.setEnt (Key.lnOCfg 3) (w64 (2 * 2 ^ 60))).setFlag (Key.lnCfg 31) 63 true).setLaneState 31 4).setUn 995 { unitInit with released := true }).setFlag
  (Key.cpriCfg 31) 63 true
/-- Enber answers; session 15 with identifier 7 and a role is open at dialect 1, next SEQ 5. -/
def sesOf (r : Role) : Session := ⟨7, r, 0xFF, 1, 5, [(4, .none)], [], 0, [], 0⟩
def ses (r : Role) : State := { up.setFlag Key.odEnberCfg 63 true with session := [(15, sesOf r)] }
/-- A message of session 7 at SEQ sq, and its tag under the session's keys. -/
def emRaw (op fl sq : Nat) (o : Obj) (n : Nat) (b : List Byte) : EnberMsg :=
  ⟨0xEB4E, 1, BitVec.ofNat 8 op, BitVec.ofNat 8 fl, 0, 7, BitVec.ofNat 32 sq, o, BitVec.ofNat 16 n, BitVec.ofNat 16 b.length, b, []⟩
def em (op fl sq : Nat) (o : Obj) (n : Nat) (b : List Byte) : EnberMsg :=
  { emRaw op fl sq o n b with tag := enberTag [] (enberHeader (emRaw op fl sq o n b) ++ enberBody (emRaw op fl sq o n b)) }
/-- A message of a handshake: session id. -/
def eh (op id : Nat) (b : List Byte) : EnberMsg := { emRaw op 0 0 ⟨0, 0⟩ 0 b with session := BitVec.ofNat 32 id }
/-- Framed, and for session 15 in s. -/
def emMine (s : State) (m : EnberMsg) : Bool :=
  s.enberOn && enberFramed m && m.session != 0 && s.sessionAt m.session == some 15 && (s.sess 15).isSome
/-- New, at the session's dialect, well formed. -/
def emServed (s : State) (m : EnberMsg) : Bool :=
  emMine s m && (s.sess 15).any (fun x => decide (x.high ≤ m.seq.toNat) && m.dialect.toNat == x.dialect) && enberForm m
/-- Its tag is the one under the session's keys. -/
def emGood (s : State) (m : EnberMsg) : Prop :=
  m.tag = enberTag (((s.sess 15).elim [] (·.keys)).take 32) (enberHeader m ++ enberBody m)
/-- The tag that `em` gives its message. -/
theorem em_tag (op fl sq : Nat) (o : Obj) (n : Nat) (b : List Byte) :
    (em op fl sq o n b).tag = enberTag [] (enberHeader (em op fl sq o n b) ++ enberBody (em op fl sq o n b)) := rfl
theorem readRun_some (s : State) (i : Fin 16) (m : EnberMsg) (b : Bool) : (s.readRun i m b).2.isSome = true := by
  unfold State.readRun; dsimp only; repeat' split
  all_goals rfl
/-- Self-tests whose root part failed. -/
def selfBad : SelfTest := ⟨true, false, false, false, [], [], [], [], [], [], [], [], [], []⟩
/-- Handover channel 15 in state st: carrier 383, from partition 7 to partition 0, both running. -/
def ho (st : Nat) : State :=
  ((((((up.setEnt (Key.hoCfg 15) (w64 (383 * 2 ^ 55 + 7 * 2 ^ 52 + 2))).setFld (Key.hoOp 15) 63 60 st).setPartState 7 3).setPartState 0 3).setEnt
    (Key.prtCarriers 47) (w64 (7 * 2 ^ 56))).setEnt (Key.prtCores 6) 0x8000)
/-- Gelpel port 3 in state st, its pair of far partition 7 with partition 0 enabled. -/
def gp (st : Nat) (f : Gelpel → Gelpel) : State :=
  (((((kup.setUn 576 { unitInit with released := true }).setEnt (Key.prtPacks 0) 1).setFld (Key.gplStat 3) 63 60 st).setEnt (Key.gplPair 3) 0x87).setEnt Key.gplCfg 2).setGpl 3 (f gplInit)
/-- A HELLO of position p, and a flit of SEQ n. -/
def hel (ok : Bool) (p : BitVec 2) : GplHello := ⟨ok, true, p, 0, 0, 0, 0, 0, 0⟩
def flt (ok : Bool) (n : Byte) : GplFlit := ⟨ok, n, 0, 0, 0, false, []⟩
/-- `minef` of the context that a KEY_INSERT names. -/
def minef2 (s : State) (e : REntry) : Bool :=
  decide (e.arg 28 4 < ctxCount) && (s.fl (e.arg 28 4)).st != .free && (s.fl (e.arg 28 4)).hdr.owner == s.ringOwner 255

/-! Hypotheses of the statements, clause by clause -/

theorem test_StepRunsFrontCommand_meets :
    up.pending = [] := by decide +kernel

theorem test_LiveTableWrites_meets :
    (fun (s : State) (rq : Requester) (t : TableId) (row : Nat) (word : Nat) (v : U64) =>
      row < liveRows t ∧ word < liveWords t ∧ s.checkWho rq (rowKey t 1 row word) v = .ok ∧ s.liveState t = lsIdle ∧
        s.rowOk t 1 row ((s.rowOf t 1 row).set word (clearPend t word v)) word = true) (up) (.root) (.trig 0) (15) (1) (0) ∧
    (fun (s : State) (rq : Requester) (t : TableId) (row : Nat) (word : Nat) (v : U64) =>
      row < liveRows t ∧ word < liveWords t ∧ s.checkWho rq (rowKey t 1 row word) v = .ok ∧ s.liveState t ≠ lsIdle)
        (up.setLiveState (.trig 0) lsArmed) (.root) (.trig 0) (15) (1) (0) ∧
    (fun (s : State) (rq : Requester) (t : TableId) =>
      s.checkWho rq (liveCtlKey t) (w64 (2 ^ 29)) = .ok ∧ s.liveState t = lsIdle ∧ s.armOk t = true) (up) (.root) (.trig 0) ∧
    (fun (s : State) (rq : Requester) (t : TableId) =>
      (s.checkWho rq (liveCtlKey t) (w64 (2 ^ 28)) = .ok ∧ s.liveState t = lsArmed ∧
        (s.pendingBoundary t).all (fun b => !(s.liveMaySwap t) || decide (s.raw.toNat + 32 ≤ s.tickOf b)) = true))
        (up.setLiveState (.trig 0) lsArmed) (.root) (.trig 0) ∧
    (fun (s : State) (rq : Requester) (t : TableId) (b : Nat) =>
      s.checkWho rq (liveCtlKey t) (w64 (2 ^ 28)) = .ok ∧ s.liveState t = lsArmed ∧ s.pendingBoundary t = some b ∧
        s.liveMaySwap t = true ∧ s.tickOf b < s.raw.toNat + 32) (({ tu with raw := 470 }).setLiveState (.trig 0) lsArmed) (.root)
        (.trig 0) (4294967296000) ∧
    (fun (s : State) (rq : Requester) (t : TableId) =>
      s.checkWho rq (liveCtlKey t) (w64 (2 ^ 28)) = .ok ∧ s.liveState t = lsIdle) (up) (.root) (.trig 0) ∧
    (fun (s : State) (rq : Requester) (t : TableId) =>
      s.checkWho rq (liveCtlKey t) (w64 (2 ^ 27)) = .ok) (up) (.root) (.trig 0) ∧
    (fun (s : State) (rq : Requester) (t : TableId) =>
      s.checkWho rq (liveCtlKey t) (w64 (2 ^ 29 + 2 ^ 27)) = .ok) (up) (.root) (.trig 0) ∧
    (fun (s : State) (rq : Requester) (t : TableId) =>
      s.checkWho rq (liveCtlKey t) (w64 (2 ^ 28 + 2 ^ 27)) = .ok) (up) (.root) (.trig 0) ∧
    (fun (s : State) (rq : Requester) (t : TableId) =>
      s.checkWho rq (liveCtlKey t) (w64 (2 ^ 29 + 2 ^ 28 + 2 ^ 27)) = .ok) (up) (.root) (.trig 0) ∧
    (fun (s : State) (rq : Requester) (t : TableId) (row : Nat) (word : Nat) (v : U64) =>
      row < liveRows t ∧ word < liveWords t ∧ s.checkWho rq (rowKey t 0 row word) v = .ok ∧ s.liveState t ≠ lsArmed ∧
        s.rowOk t 0 row ((s.shownRow t row).set word (clearPend t word v)) word = true ∧ s.executing t row = true)
        (up.setLv (.trig 0) ⟨0, [], [⟨15, [0, 0], 0, 0⟩], [], 0⟩) (.root) (.trig 0) (15) (1) (0) ∧
    (fun (s : State) (rq : Requester) (t : TableId) (row : Nat) (word : Nat) (v : U64) =>
      row < liveRows t ∧ word < liveWords t ∧ s.checkWho rq (rowKey t 0 row word) v = .ok ∧ s.liveState t ≠ lsArmed ∧
        s.rowOk t 0 row ((s.shownRow t row).set word (clearPend t word v)) word = true ∧ s.executing t row = false) (up) (.root)
        (.trig 0) (15) (1) (0) ∧
    (fun (s : State) (rq : Requester) (t : TableId) (row : Nat) (word : Nat) (v : U64) =>
      row < liveRows t ∧ word < liveWords t ∧ s.checkWho rq (rowKey t 0 row word) v = .ok ∧ s.liveState t = lsArmed)
        (up.setLiveState (.trig 0) lsArmed) (.root) (.trig 0) (15) (1) (0) := by
  refine ⟨?_, ?_, ?_, ?_, ?_, ?_, ?_, ?_⟩
  rotate_left 7
  refine ⟨?_, ?_, ?_, ?_, ?_, ?_⟩
  all_goals decide +kernel

theorem test_LiveTableEvents_meets :
    (fun (s : State) (t : TableId) (b : Nat) =>
      s.liveState t = lsArmed ∧ s.liveMaySwap t = true ∧ s.nextBoundary t ((s.lv t).armedAt + 32) = some b ∧ s.tickOf b ≤ s.raw.toNat)
        (({ tu with raw := 492 }).setLiveState (.trig 0) lsArmed) (.trig 0) (4294967296000) ∧
    (fun (s : State) (t : TableId) =>
      s.liveState t = lsArmed ∧ s.liveMaySwap t = true ∧ s.boundaryReached t ((s.lv t).armedAt + 32) = false ∧
        s.boundaryReached t (s.lv t).armedAt = true)
        ((({ tu with raw := 500 }).setLv (.trig 0) ⟨480, [], [], [], 0⟩).setLiveState (.trig 0) lsArmed) (.trig 0) ∧
    (fun (s : State) (t : TableId) =>
      s.liveState t = lsCopying) (up.setLiveState (.trig 0) lsCopying) (.trig 0) ∧
    (fun (s : State) (t : TableId) =>
      s.liveState t = lsCopying ∧ (s.lv t).deferred = []) (up.setLiveState (.trig 0) lsCopying) (.trig 0) ∧
    (fun (s : State) (t : TableId) (row : Nat) =>
      s.executing t row = true) (up.setLv (.trig 0) ⟨0, [], [⟨15, [0, 0], 0, 0⟩], [], 0⟩) (.trig 0) (15) ∧
    (fun (s : State) (t : TableId) (row : Nat) =>
      s.executing t row = false) (up) (.trig 0) (15) ∧
    (fun (s : State) (t : TableId) (row : Nat) =>
      tfind (s.lv t).deferred row = none) (up) (.trig 0) (0) := by
  refine ⟨?_, ?_, ?_, ?_, ?_, ?_, ?_⟩
  all_goals decide +kernel

theorem test_ClockEvents_meets :
    (fun (s : State) =>
      s.flag Key.clkStatus clkRefOk = true) ((up.setFlag Key.clkStatus clkRefOk true)) ∧
    (fun (s : State) =>
      s.flag Key.clkStatus clkFreerun = true ∧ s.flag Key.clkStatus clkRefOk = false) ((up.setFlag Key.clkStatus clkFreerun true)) ∧
    (fun (s : State) =>
      (s.flag Key.clkStatus clkFreerun = false ∨ s.flag Key.clkStatus clkRefOk = true) ∧ s.thermTrip = false) (up) ∧
    (fun (s : State) =>
      s.flag Key.clkStatus clkFreerun = true ∧ s.flag Key.clkStatus clkRefOk = false ∧ s.dev ≠ .hold ∧ phPost ≤ s.phase ∧
        s.entN Key.clkLossHold * 12288 < 25 * (s.raw.toNat - s.refLostRaw))
        ({ (up.setFlag Key.clkStatus clkFreerun true) with raw := 2 ^ 40, dev := .run }.setPhase phReady) ∧
    (fun (s : State) =>
      25 * (s.raw.toNat - s.refLostRaw) ≤ s.entN Key.clkLossHold * 12288) (up) ∧
    (fun (s : State) (n : Fin 2) =>
      s.cdrLocked (s.fld (Key.clkSynceOut n.val) 6 0) = false) (up) (0) := by
  refine ⟨?_, ?_, ?_, ?_, ?_, ?_⟩
  all_goals decide +kernel

theorem test_TimebaseWrites_meets :
    (fun (s : State) (rq : Requester) (v : U64) =>
      s.checkWrite rq Key.tbIncrement v = .ok) (up) (.root) (0x000208D555555555) ∧
    (fun (s : State) (rq : Requester) (v : U64) =>
      s.checkWrite rq Key.tbStep v = .ok) (up) (.root) (5) ∧
    (fun (s : State) (rq : Requester) (v : U64) =>
      s.checkWrite rq (Key.tbOffset 0) v = .ok) (up) (.root) (0) ∧
    (fun (s : State) (rq : Requester) (v : U64) =>
      s.checkWrite rq (Key.tbOffset 1) v = .ok) (up) (.root) (999999999 <<< 32) ∧
    (fun (s : State) (rq : Requester) (v : U64) =>
      s.checkWrite rq (Key.tbOffset 1) v = .range) (up) (.root) (1000000000 <<< 32) := by
  refine ⟨?_, ?_, ?_, ?_, ?_⟩
  all_goals decide +kernel

theorem test_TicksAndReadings_meets :
    (fun (s : State) (n : Nat) =>
      n ≠ 0 ∧ s.pwrgood = true ∧ s.clocksStopped = false) (up) (1) ∧
    (fun (s : State) (rq : Requester) =>
      s.checkRead rq (Key.tbNow 0) = .ok) (up) (.root) ∧
    (fun (s : State) (rq : Requester) =>
      s.checkRead rq (Key.tbNow 1) = .ok) (up) (.root) ∧
    (fun (s : State) (rq : Requester) =>
      s.checkRead rq (Key.tbNow 2) = .ok) (up) (.root) ∧
    (fun (s : State) =>
      s.ppsOpen = true ∧
        ((s.timeOf (s.raw.toNat - 1) : Int) - sgn 32 (s.fld Key.tbPpsOutCfg 63 32) * 2 ^ 32) / (secU : Int) < ((s.now : Int) - sgn 32 (s.fld Key.tbPpsOutCfg 63 32) * 2 ^ 32) / (secU : Int)) (({ up with raw := 0x1D4C0001 }).setFlag Key.tbPpsOutCfg 0 true) ∧
    (fun (s : State) =>
      s.fld Key.tbPpsOutCfg 31 8 * 12288 ≤ 25 * (s.raw.toNat - s.ppsRaw)) (up) ∧
    (fun (s : State) =>
      25 * (s.raw.toNat - s.ppsRaw) < s.fld Key.tbPpsOutCfg 31 8 * 12288) (up.setFld Key.tbPpsOutCfg 31 8 1) := by
  refine ⟨?_, ?_, ?_, ?_, ?_, ?_, ?_⟩
  all_goals decide +kernel

theorem test_CaptureFifos_meets :
    (fun (s : State) (rq : Requester) (f : Fin 8) (c : Cap) (q : List Cap) =>
      s.checkRead rq (Key.tbCapRaw f.val) = .ok ∧ tget [] s.capFifo f.val = c :: q) ({ up with capFifo := [(7, [⟨5, 6⟩])] }) (.root)
        (7) (⟨5, 6⟩) ([]) ∧
    (fun (s : State) (rq : Requester) (f : Fin 8) =>
      s.checkRead rq (Key.tbCapRaw f.val) = .ok ∧ tget [] s.capFifo f.val = []) (up) (.root) (7) ∧
    (fun (s : State) (m : Nat) (src : BitVec 7) (rising : Bool) =>
      let only := m < 8 ∧ ∀ k, k < 8 → s.capTakes k src.toNat rising = decide (k = m)
      only ∧ (tget [] s.capFifo m).length < 4) ((up.setEnt (Key.tbCapCfg 7) 0x80000140)) (7) (0x40) (true) ∧
    (fun (s : State) (m : Nat) (src : BitVec 7) (rising : Bool) =>
      let only := m < 8 ∧ ∀ k, k < 8 → s.capTakes k src.toNat rising = decide (k = m)
      only ∧ 4 ≤ (tget [] s.capFifo m).length)
        (({ (up.setEnt (Key.tbCapCfg 7) 0x80000140) with capFifo := [(7, [⟨1, 1⟩, ⟨2, 2⟩, ⟨3, 3⟩, ⟨4, 4⟩])] })) (7) (0x40) (true) ∧
    (fun (s : State) (src : BitVec 7) (rising : Bool) =>
      ((∀ k, k < 8 → s.capTakes k src.toNat rising = false))) (up) (0) (false) := by
  refine ⟨?_, ?_, ?_, ?_, ?_⟩
  all_goals decide +kernel

theorem test_TriggerUnits_meets :
    (fun (s : State) (rq : Requester) (u : Fin 64) (v : U64) =>
      s.checkWrite rq (Key.ttOwner u.val) v = .ok ∧ v ≠ s.ent (Key.ttOwner u.val)) (up) (.root) (0) (3) ∧
    (fun (s : State) (rq : Requester) (u : Fin 64) (v : U64) =>
      let w := setBit v 0 true
      let starts := s.checkWrite rq (Key.ttCfg u.val) w = .ok ∧ s.flag (Key.ttCfg u.val) 0 = false ∧ s.entN (Key.ttOwner u.val) < 8 ∧
        s.ttPeriod u.val ≠ 0
      starts) ((tu.setFlag (Key.ttCfg 0) 0 false)) (.root) (0) (0) ∧
    (fun (s : State) (u : Fin 64) (v : U64) =>
      let w := setBit v 0 true
      let b := (s.setEnt (Key.ttCfg u.val) w).status .ok
      b.flag (Key.ttCfg u.val) 1 = false) (up) (0) (0) ∧
    (fun (s : State) (u : Fin 64) (v : U64) =>
      let w := setBit v 0 true
      let b := (s.setEnt (Key.ttCfg u.val) w).status .ok
      b.flag (Key.ttCfg u.val) 1 = true ∧ s.raw.toNat + 32 ≤ b.tickOf (b.ttBase u.val)) ((tu.setEnt (Key.ttStart 0 0) 9)) (0) (2) ∧
    (fun (s : State) (u : Fin 64) (v : U64) =>
      let w := setBit v 0 true
      let b := (s.setEnt (Key.ttCfg u.val) w).status .ok
      b.flag (Key.ttCfg u.val) 1 = true ∧ b.tickOf (b.ttBase u.val) < s.raw.toNat + 32) ({ tu with raw := 491520000 }) (0) (2) ∧
    (fun (s : State) (rq : Requester) (u : Fin 64) (v : U64) =>
      s.checkWrite rq (Key.ttCfg u.val) (setBit v 0 false) = .ok) (up) (.root) (0) (0) ∧
    (fun (s : State) (rq : Requester) (u : Fin 64) (v : U64) =>
      s.checkWrite rq (Key.ttStart u.val 0) v = .ok ∧ s.flag (Key.ttCfg u.val) 0 = false) (up) (.root) (0) (0) ∧
    (fun (s : State) (rq : Requester) (u : Fin 64) (v : U64) =>
      s.checkWrite rq (Key.ttStart u.val 1) v = .ok ∧ s.flag (Key.ttCfg u.val) 0 = false) (up) (.root) (0) (0) ∧
    (fun (s : State) (rq : Requester) (u : Fin 64) (v : U64) =>
      (s.checkWrite rq (Key.ttPeriod u.val) v = .ok ∧ s.flag (Key.ttCfg u.val) 0 = false ∧
        (List.range 2).all (fun c => (List.range 16).all (fun r => s.trigRowOk u.val v.toNat (s.rowOf (.trig u) c r))) = true))
        ((tu.setFlag (Key.ttCfg 0) 0 false)) (.root) (0) (0) ∧
    (fun (s : State) (rq : Requester) (u : Fin 64) (v : U64) (k : Fin 3) =>
      s.checkWrite rq (ttTimingKey u k) v = .ok ∧ s.flag (Key.ttCfg u.val) 0 = true) (tu) (.root) (0) (0) (0) ∧
    (fun (s : State) (u : Fin 64) (row : Fin 16) (t : Nat) =>
      (s.ttReady u row.val).ttDue u row.val = some t ∧ t ≤ (s.ttReady u row.val).now) ({ tu with raw := 492 }) (0) (0) (0) := by
  refine ⟨?_, ?_, ?_, ?_, ?_, ?_, ?_, ?_⟩
  rotate_left 7
  refine ⟨?_, ?_, ?_, ?_⟩
  all_goals decide +kernel

theorem test_ScalarResults_meets :
    (fun (s : State) (t : Fin 512) (rd : Reg) (ra : Reg) (rb : Reg) =>
      s.tileReady t [rd, ra, rb]) (px) (511) (31) (1) (2) ∧
    (fun (s : State) (t : Fin 512) (rd : Reg) (ra : Reg) (imm : BitVec 16) =>
      s.tileReady t [rd, ra] ∧ imm.toNat / 64 = 0) (px) (511) (31) (1) (63) ∧
    (fun (s : State) (t : Fin 512) (rd : Reg) (ra : Reg) (imm : BitVec 16) =>
      s.tileReady t [rd, ra] ∧ imm.toNat / 64 = 1) (px) (511) (31) (1) (127) ∧
    (fun (s : State) (t : Fin 512) (rd : Reg) (ra : Reg) (imm : BitVec 16) =>
      s.tileReady t [rd, ra] ∧ imm.toNat / 64 = 2) (px) (511) (31) (1) (191) ∧
    (fun (s : State) (t : Fin 512) (rd : Reg) (ra : Reg) =>
      s.tileReady t [rd, ra] ∧ ra = 0) (px) (511) (31) (0) ∧
    (fun (s : State) (t : Fin 512) (rd : Reg) (ra : Reg) (imm : BitVec 16) =>
      s.tileReady t [rd, ra] ∧ imm.toNat / 64 = 0) (px) (511) (31) (1) (63) ∧
    (fun (s : State) (t : Fin 512) (rd : Reg) (ra : Reg) (imm : BitVec 16) =>
      s.tileReady t [rd, ra] ∧ imm.toNat / 64 = 1) (px) (511) (31) (1) (127) ∧
    (fun (s : State) (t : Fin 512) (rd : Reg) (ra : Reg) (imm : BitVec 16) =>
      s.tileReady t [rd, ra] ∧ imm.toNat / 64 = 2) (px) (511) (31) (1) (191) ∧
    (fun (s : State) (t : Fin 512) (rd : Reg) (ra : Reg) =>
      s.tileReady t [rd, ra] ∧ ra = 0) (px) (511) (31) (0) ∧
    (fun (s : State) (t : Fin 512) (rd : Reg) (ra : Reg) (imm : BitVec 16) =>
      s.tileReady t [rd, ra] ∧ imm.toNat / 64 = 0) (px) (511) (31) (1) (63) ∧
    (fun (s : State) (t : Fin 512) (rd : Reg) (ra : Reg) (imm : BitVec 16) =>
      s.tileReady t [rd, ra] ∧ imm.toNat / 64 = 1) (px) (511) (31) (1) (127) ∧
    (fun (s : State) (t : Fin 512) (rd : Reg) (ra : Reg) (imm : BitVec 16) =>
      s.tileReady t [rd, ra] ∧ imm.toNat / 64 = 2) (px) (511) (31) (1) (191) ∧
    (fun (s : State) (t : Fin 512) (rd : Reg) (ra : Reg) =>
      s.tileReady t [rd, ra] ∧ ra = 0) (px) (511) (31) (0) ∧
    (fun (s : State) (t : Fin 512) (rd : Reg) (ra : Reg) (imm : BitVec 16) =>
      s.tileReady t [rd, ra] ∧ imm.toNat / 64 = 0) (px) (511) (31) (1) (63) ∧
    (fun (s : State) (t : Fin 512) (rd : Reg) (ra : Reg) (imm : BitVec 16) =>
      s.tileReady t [rd, ra] ∧ imm.toNat / 64 = 1) (px) (511) (31) (1) (127) ∧
    (fun (s : State) (t : Fin 512) (rd : Reg) (ra : Reg) (imm : BitVec 16) =>
      s.tileReady t [rd, ra] ∧ imm.toNat / 64 = 2) (px) (511) (31) (1) (191) ∧
    (fun (s : State) (t : Fin 512) (rd : Reg) (ra : Reg) =>
      s.tileReady t [rd, ra] ∧ ra = 0) (px) (511) (31) (0) ∧
    (fun (s : State) (t : Fin 512) (rd : Reg) (ra : Reg) (imm : BitVec 16) =>
      s.tileReady t [rd, ra] ∧ imm.toNat / 64 = 0) (px) (511) (31) (1) (63) ∧
    (fun (s : State) (t : Fin 512) (rd : Reg) (ra : Reg) (imm : BitVec 16) =>
      s.tileReady t [rd, ra] ∧ imm.toNat / 64 = 1) (px) (511) (31) (1) (127) ∧
    (fun (s : State) (t : Fin 512) (rd : Reg) (ra : Reg) (imm : BitVec 16) =>
      s.tileReady t [rd, ra] ∧ imm.toNat / 64 = 2) (px) (511) (31) (1) (191) ∧
    (fun (s : State) (t : Fin 512) (rd : Reg) (ra : Reg) =>
      s.tileReady t [rd, ra] ∧ ra = 0) (px) (511) (31) (0) ∧
    (fun (s : State) (t : Fin 512) (rd : Reg) (ra : Reg) (imm : BitVec 16) =>
      s.tileReady t [rd, ra] ∧ imm.toNat / 64 = 0) (px) (511) (31) (1) (63) ∧
    (fun (s : State) (t : Fin 512) (rd : Reg) (ra : Reg) (imm : BitVec 16) =>
      s.tileReady t [rd, ra] ∧ imm.toNat / 64 = 1) (px) (511) (31) (1) (127) ∧
    (fun (s : State) (t : Fin 512) (rd : Reg) (ra : Reg) (imm : BitVec 16) =>
      s.tileReady t [rd, ra] ∧ imm.toNat / 64 = 2) (px) (511) (31) (1) (191) ∧
    (fun (s : State) (t : Fin 512) (rd : Reg) (ra : Reg) =>
      s.tileReady t [rd, ra] ∧ ra = 0) (px) (511) (31) (0) ∧
    (fun (s : State) (t : Fin 512) (rd : Reg) (ra : Reg) (imm : BitVec 16) =>
      s.tileReady t [rd, ra] ∧ imm.toNat / 64 = 0) (px) (511) (31) (1) (63) ∧
    (fun (s : State) (t : Fin 512) (rd : Reg) (ra : Reg) (imm : BitVec 16) =>
      s.tileReady t [rd, ra] ∧ imm.toNat / 64 = 1) (px) (511) (31) (1) (127) ∧
    (fun (s : State) (t : Fin 512) (rd : Reg) (ra : Reg) (imm : BitVec 16) =>
      s.tileReady t [rd, ra] ∧ imm.toNat / 64 = 2) (px) (511) (31) (1) (191) ∧
    (fun (s : State) (t : Fin 512) (rd : Reg) (ra : Reg) =>
      s.tileReady t [rd, ra] ∧ ra = 0) (px) (511) (31) (0) ∧
    (fun (s : State) (t : Fin 512) (rd : Reg) (ra : Reg) (imm : BitVec 16) =>
      s.tileReady t [rd, ra] ∧ imm.toNat / 64 = 0) (px) (511) (31) (1) (63) ∧
    (fun (s : State) (t : Fin 512) (rd : Reg) (ra : Reg) (imm : BitVec 16) =>
      s.tileReady t [rd, ra] ∧ imm.toNat / 64 = 1) (px) (511) (31) (1) (127) ∧
    (fun (s : State) (t : Fin 512) (rd : Reg) (ra : Reg) (imm : BitVec 16) =>
      s.tileReady t [rd, ra] ∧ imm.toNat / 64 = 2) (px) (511) (31) (1) (191) ∧
    (fun (s : State) (t : Fin 512) (rd : Reg) (ra : Reg) =>
      s.tileReady t [rd, ra] ∧ ra = 0) (px) (511) (31) (0) ∧
    (fun (s : State) (t : Fin 512) (rd : Reg) (ra : Reg) (imm : BitVec 16) =>
      s.tileReady t [rd, ra] ∧ imm.toNat / 64 = 0) (px) (511) (31) (1) (63) ∧
    (fun (s : State) (t : Fin 512) (rd : Reg) (ra : Reg) (imm : BitVec 16) =>
      s.tileReady t [rd, ra] ∧ imm.toNat / 64 = 1) (px) (511) (31) (1) (127) ∧
    (fun (s : State) (t : Fin 512) (rd : Reg) (ra : Reg) (imm : BitVec 16) =>
      s.tileReady t [rd, ra] ∧ imm.toNat / 64 = 2) (px) (511) (31) (1) (191) ∧
    (fun (s : State) (t : Fin 512) (rd : Reg) (ra : Reg) =>
      s.tileReady t [rd, ra] ∧ ra = 0) (px) (511) (31) (0) ∧
    (fun (s : State) (t : Fin 512) (rd : Reg) (ra : Reg) (imm : BitVec 16) =>
      s.tileReady t [rd, ra] ∧ imm.toNat / 64 = 0) (px) (511) (31) (1) (63) ∧
    (fun (s : State) (t : Fin 512) (rd : Reg) (ra : Reg) (imm : BitVec 16) =>
      s.tileReady t [rd, ra] ∧ imm.toNat / 64 = 1) (px) (511) (31) (1) (127) ∧
    (fun (s : State) (t : Fin 512) (rd : Reg) (ra : Reg) (imm : BitVec 16) =>
      s.tileReady t [rd, ra] ∧ imm.toNat / 64 = 2) (px) (511) (31) (1) (191) ∧
    (fun (s : State) (t : Fin 512) (rd : Reg) (ra : Reg) =>
      s.tileReady t [rd, ra] ∧ ra = 0) (px) (511) (31) (0) := by
  refine ⟨?_, ?_, ?_, ?_, ?_, ?_, ?_, ?_⟩
  rotate_left 7
  refine ⟨?_, ?_, ?_, ?_, ?_, ?_, ?_, ?_⟩
  rotate_left 7
  refine ⟨?_, ?_, ?_, ?_, ?_, ?_, ?_, ?_⟩
  rotate_left 7
  refine ⟨?_, ?_, ?_, ?_, ?_, ?_, ?_, ?_⟩
  rotate_left 7
  refine ⟨?_, ?_, ?_, ?_, ?_, ?_, ?_, ?_⟩
  rotate_left 7
  refine ⟨?_, ?_, ?_, ?_, ?_, ?_⟩
  all_goals decide +kernel

theorem test_RetireFrame_meets :
    tileInit.lpen = false ∧ (510 : Nat) ≠ 511 ∧ (0 : Nat) ≠ Key.pxRetired 511 := by decide +kernel

theorem test_RegisterZero_meets :
    (31 : Reg) ≠ 0 ∧ (30 : Reg) ≠ 31 := by decide +kernel

theorem test_ScalarLoads_meets :
    (fun (s : State) (t : Fin 512) (rd : Reg) (ra : Reg) (imm : BitVec 16) =>
      let x := s.tl t
      let a := (x.rs ra + imm.signExtend 64).toNat
      s.tileReady t [rd, ra] ∧ ((s.tl t).rs ra).toNat < 2 ^ 32 ∧ s.clean ∧ a < 2 ^ 32 ∧ tileDev t a 1 = some (lmAddr t 262143) ∧
        x.firstWatched false a 1 = none) ((pxWith (fun x => { x with s := [(1, 0x138000)] }))) (511) (31) (1) (0x7FFF) ∧
    (fun (s : State) (t : Fin 512) (rd : Reg) (ra : Reg) (imm : BitVec 16) =>
      let x := s.tl t
      let a := (x.rs ra + imm.signExtend 64).toNat
      s.tileReady t [rd, ra] ∧ ((s.tl t).rs ra).toNat < 2 ^ 32 ∧ s.clean ∧ a < 2 ^ 32 ∧ tileDev t a 2 = some (lmAddr t 262142) ∧
        x.firstWatched false a 2 = none) ((pxWith (fun x => { x with s := [(1, 0x137FFF)] }))) (511) (31) (1) (0x7FFF) ∧
    (fun (s : State) (t : Fin 512) (rd : Reg) (ra : Reg) (imm : BitVec 16) =>
      let x := s.tl t
      let a := (x.rs ra + imm.signExtend 64).toNat
      s.tileReady t [rd, ra] ∧ ((s.tl t).rs ra).toNat < 2 ^ 32 ∧ s.clean ∧ a < 2 ^ 32 ∧ tileDev t a 4 = some (lmAddr t 262140) ∧
        x.firstWatched false a 4 = none) ((pxWith (fun x => { x with s := [(1, 0x137FFD)] }))) (511) (31) (1) (0x7FFF) ∧
    (fun (s : State) (t : Fin 512) (rd : Reg) (ra : Reg) (imm : BitVec 16) =>
      let x := s.tl t
      let a := (x.rs ra + imm.signExtend 64).toNat
      s.tileReady t [rd, ra] ∧ ((s.tl t).rs ra).toNat < 2 ^ 32 ∧ s.clean ∧ a < 2 ^ 32 ∧ tileDev t a 8 = some (lmAddr t 262136) ∧
        x.firstWatched false a 8 = none) ((pxWith (fun x => { x with s := [(1, 0x137FF9)] }))) (511) (31) (1) (0x7FFF) ∧
    (fun (s : State) (t : Fin 512) (rd : Reg) (ra : Reg) (imm : BitVec 16) =>
      let x := s.tl t
      let a := (x.rs ra + imm.signExtend 64).toNat
      s.tileReady t [rd, ra] ∧ ((s.tl t).rs ra).toNat < 2 ^ 32 ∧ inCtlPage a = true ∧ a % 8 = 0 ∧ x.firstWatched false a 8 = none)
        ((pxWith (fun x => { x with s := [(1, 0x800FFF8)] }))) (511) (31) (1) (0) := by
  refine ⟨?_, ?_, ?_, ?_, ?_⟩
  all_goals decide +kernel

theorem test_ScalarStores_meets :
    (fun (s : State) (t : Fin 512) (rd : Reg) (ra : Reg) (imm : BitVec 16) =>
      let x := s.tl t
      let a := (x.rs ra + imm.signExtend 64).toNat
      s.tileReady t [rd, ra] ∧ ((s.tl t).rs ra).toNat < 2 ^ 32 ∧ s.clean ∧ a < 2 ^ 32 ∧ tileDev t a 1 = some (lmAddr t 262143) ∧
        x.firstWatched true a 1 = none) ((pxWith (fun x => { x with s := [(1, 0x138000)] }))) (511) (31) (1) (0x7FFF) ∧
    (fun (s : State) (t : Fin 512) (rd : Reg) (ra : Reg) (imm : BitVec 16) =>
      let x := s.tl t
      let a := (x.rs ra + imm.signExtend 64).toNat
      s.tileReady t [rd, ra] ∧ ((s.tl t).rs ra).toNat < 2 ^ 32 ∧ s.clean ∧ a < 2 ^ 32 ∧ tileDev t a 2 = some (lmAddr t 262142) ∧
        x.firstWatched true a 2 = none) ((pxWith (fun x => { x with s := [(1, 0x137FFF)] }))) (511) (31) (1) (0x7FFF) ∧
    (fun (s : State) (t : Fin 512) (rd : Reg) (ra : Reg) (imm : BitVec 16) =>
      let x := s.tl t
      let a := (x.rs ra + imm.signExtend 64).toNat
      s.tileReady t [rd, ra] ∧ ((s.tl t).rs ra).toNat < 2 ^ 32 ∧ s.clean ∧ a < 2 ^ 32 ∧ tileDev t a 4 = some (lmAddr t 262140) ∧
        x.firstWatched true a 4 = none) ((pxWith (fun x => { x with s := [(1, 0x137FFD)] }))) (511) (31) (1) (0x7FFF) ∧
    (fun (s : State) (t : Fin 512) (rd : Reg) (ra : Reg) (imm : BitVec 16) =>
      let x := s.tl t
      let a := (x.rs ra + imm.signExtend 64).toNat
      s.tileReady t [rd, ra] ∧ ((s.tl t).rs ra).toNat < 2 ^ 32 ∧ s.clean ∧ a < 2 ^ 32 ∧ tileDev t a 8 = some (lmAddr t 262136) ∧
        x.firstWatched true a 8 = none) ((pxWith (fun x => { x with s := [(1, 0x137FF9)] }))) (511) (31) (1) (0x7FFF) ∧
    (fun (s : State) (t : Fin 512) (rd : Reg) (ra : Reg) (imm : BitVec 16) =>
      let x := s.tl t
      let a := (x.rs ra + imm.signExtend 64).toNat
      s.tileReady t [rd, ra] ∧ ((s.tl t).rs ra).toNat < 2 ^ 32 ∧ inCtlPage a = true ∧ a % 8 = 0 ∧ x.firstWatched true a 8 = none)
        ((pxWith (fun x => { x with s := [(1, 0x800FFF8)] }))) (511) (31) (1) (0) := by
  refine ⟨?_, ?_, ?_, ?_, ?_⟩
  all_goals decide +kernel

theorem test_TileRefusals_meets :
    (fun (s : State) (t : Fin 512) (rd : Reg) (ra : Reg) (imm : BitVec 16) =>
      let x := s.tl t
      let a := (x.rs ra + imm.signExtend 64).toNat
      let outside := x.inh = false ∧ a < 2 ^ 32 ∧ tileDev t a 8 = none ∧ inCtlPage a = false
      s.tileReady t [rd, ra] ∧ outside) ((pxWith (fun x => { x with s := [(1, 0x700000)] }))) (511) (31) (1) (0xFFF8) ∧
    (fun (s : State) (t : Fin 512) (rd : Reg) (ra : Reg) (imm : BitVec 16) =>
      let x := s.tl t
      s.tileReady t [rd, ra] ∧ x.inh = false ∧ imm.toNat / 64 ≠ 0) (px) (511) (31) (1) (64) ∧
    (fun (s : State) (t : Fin 512) (rd : Reg) (ra : Reg) (imm : BitVec 16) =>
      let x := s.tl t
      s.tileReady t [rd, ra] ∧ x.inh = false ∧ imm.toNat / 64 ≠ 1) (px) (511) (31) (1) (128) ∧
    (fun (s : State) (t : Fin 512) (rd : Reg) (ra : Reg) (imm : BitVec 16) =>
      let x := s.tl t
      s.tileReady t [rd, ra] ∧ x.inh = false ∧ imm.toNat / 64 ≠ 2) (px) (511) (31) (1) (192) ∧
    (fun (s : State) (t : Fin 512) (rd : Reg) (ra : Reg) =>
      let x := s.tl t
      s.tileReady t [rd, ra] ∧ x.inh = false ∧ ra ≠ 0) (px) (511) (31) (1) ∧
    (fun (s : State) (t : Fin 512) (rd : Reg) (ra : Reg) (imm : BitVec 16) =>
      let x := s.tl t
      s.tileReady t [rd, ra] ∧ x.inh = false ∧ imm.toNat / 64 ≠ 0) (px) (511) (31) (1) (64) ∧
    (fun (s : State) (t : Fin 512) (rd : Reg) (ra : Reg) (imm : BitVec 16) =>
      let x := s.tl t
      s.tileReady t [rd, ra] ∧ x.inh = false ∧ imm.toNat / 64 ≠ 1) (px) (511) (31) (1) (128) ∧
    (fun (s : State) (t : Fin 512) (rd : Reg) (ra : Reg) (imm : BitVec 16) =>
      let x := s.tl t
      s.tileReady t [rd, ra] ∧ x.inh = false ∧ imm.toNat / 64 ≠ 2) (px) (511) (31) (1) (192) ∧
    (fun (s : State) (t : Fin 512) (rd : Reg) (ra : Reg) =>
      let x := s.tl t
      s.tileReady t [rd, ra] ∧ x.inh = false ∧ ra ≠ 0) (px) (511) (31) (1) ∧
    (fun (s : State) (t : Fin 512) (rd : Reg) (ra : Reg) (imm : BitVec 16) =>
      let x := s.tl t
      s.tileReady t [rd, ra] ∧ x.inh = false ∧ imm.toNat / 64 ≠ 0) (px) (511) (31) (1) (64) ∧
    (fun (s : State) (t : Fin 512) (rd : Reg) (ra : Reg) (imm : BitVec 16) =>
      let x := s.tl t
      s.tileReady t [rd, ra] ∧ x.inh = false ∧ imm.toNat / 64 ≠ 1) (px) (511) (31) (1) (128) ∧
    (fun (s : State) (t : Fin 512) (rd : Reg) (ra : Reg) (imm : BitVec 16) =>
      let x := s.tl t
      s.tileReady t [rd, ra] ∧ x.inh = false ∧ imm.toNat / 64 ≠ 2) (px) (511) (31) (1) (192) ∧
    (fun (s : State) (t : Fin 512) (rd : Reg) (ra : Reg) =>
      let x := s.tl t
      s.tileReady t [rd, ra] ∧ x.inh = false ∧ ra ≠ 0) (px) (511) (31) (1) ∧
    (fun (s : State) (t : Fin 512) (rd : Reg) (ra : Reg) (imm : BitVec 16) =>
      let x := s.tl t
      s.tileReady t [rd, ra] ∧ x.inh = false ∧ imm.toNat / 64 ≠ 0) (px) (511) (31) (1) (64) ∧
    (fun (s : State) (t : Fin 512) (rd : Reg) (ra : Reg) (imm : BitVec 16) =>
      let x := s.tl t
      s.tileReady t [rd, ra] ∧ x.inh = false ∧ imm.toNat / 64 ≠ 1) (px) (511) (31) (1) (128) ∧
    (fun (s : State) (t : Fin 512) (rd : Reg) (ra : Reg) (imm : BitVec 16) =>
      let x := s.tl t
      s.tileReady t [rd, ra] ∧ x.inh = false ∧ imm.toNat / 64 ≠ 2) (px) (511) (31) (1) (192) ∧
    (fun (s : State) (t : Fin 512) (rd : Reg) (ra : Reg) =>
      let x := s.tl t
      s.tileReady t [rd, ra] ∧ x.inh = false ∧ ra ≠ 0) (px) (511) (31) (1) ∧
    (fun (s : State) (t : Fin 512) (f : VA) =>
      let x := s.tl t
      s.tileReady t (vaUses f) ∧ x.inh = false ∧ vaLegal ⟨[0, 1, 2, 3], true, false, true⟩ f (some f.ty.toNat) true x = false) (px)
        (511) (⟨2, 3, 4, false, true, false, 0⟩) ∧
    (fun (s : State) (t : Fin 512) =>
      let x := s.tl t
      x.st = .running ∧ s.tileClocked t = true ∧ 0x10000 ≤ x.pc.toNat ∧ x.inh = false) ((pxWith (fun x => { x with pc := 0x10000 })))
        (511) ∧
    (fun (s : State) (t : Fin 512) (ra : Reg) =>
      let x := s.tl t
      x.st = .running ∧ s.tileClocked t = true ∧ x.pc.toNat < 0x10000 ∧ x.awaits ra = true)
        ((pxWith (fun x => { x with pendingD := [(1, none)] }))) (511) (1) ∧
    (fun (s : State) (t : Fin 512) =>
      let x := s.tl t
      x.st ≠ .running) (up) (511) := by
  refine ⟨?_, ?_, ?_, ?_, ?_, ?_, ?_, ?_⟩
  rotate_left 7
  refine ⟨?_, ?_, ?_, ?_, ?_, ?_, ?_, ?_⟩
  rotate_left 7
  refine ⟨?_, ?_, ?_, ?_, ?_, ?_, ?_⟩
  all_goals decide +kernel

theorem test_BranchesAndJumps_meets :
    (fun (s : State) (t : Fin 512) (ra : Reg) (rb : Reg) =>
      s.tileReady t [ra, rb]) (px) (511) (1) (2) ∧
    (fun (s : State) (t : Fin 512) (rd : Reg) =>
      s.tileReady t [rd]) (px) (511) (31) ∧
    (fun (s : State) (t : Fin 512) (rd : Reg) (ra : Reg) =>
      s.tileReady t [rd, ra]) (px) (511) (31) (1) := by
  refine ⟨?_, ?_, ?_⟩
  all_goals decide +kernel

theorem test_LoopsCsrsVectorLength_meets :
    (fun (s : State) (t : Fin 512) (ra : Reg) (fin : BitVec 16) =>
      let x := s.tl t
      let n : BitVec 32 := (x.rs ra).setWidth 32
      s.tileReady t [ra] ∧ fin ≠ 0 ∧ n ≠ 0) (px) (511) (2) (16383) ∧
    (fun (s : State) (t : Fin 512) (ra : Reg) (fin : BitVec 16) =>
      let x := s.tl t
      let le := x.pc + BitVec.ofNat 32 (4 * fin.toNat)
      let n : BitVec 32 := (x.rs ra).setWidth 32
      let nests := x.lc0 = 0 ∨ (x.lb0.toNat ≤ (x.pc + 4).toNat ∧ le.toNat ≤ x.le0.toNat)
      s.tileReady t [ra] ∧ fin ≠ 0 ∧ n ≠ 0 ∧ nests) (px) (511) (2) (16383) ∧
    (fun (s : State) (t : Fin 512) (ra : Reg) (fin : BitVec 16) =>
      let x := s.tl t
      let le := x.pc + BitVec.ofNat 32 (4 * fin.toNat)
      let nests := x.lc0 = 0 ∨ (x.lb0.toNat ≤ (x.pc + 4).toNat ∧ le.toNat ≤ x.le0.toNat)
      s.tileReady t [ra] ∧ fin ≠ 0 ∧ (¬ nests)) ((pxWith (fun x => { x with lc0 := 2, lb0 := 8, le0 := 12 }))) (511) (2) (1) ∧
    (fun (s : State) (t : Fin 512) (ra : Reg) (fin : BitVec 16) =>
      let x := s.tl t
      let n : BitVec 32 := (x.rs ra).setWidth 32
      s.tileReady t [ra] ∧ fin ≠ 0 ∧ n = 0) ((pxWith (fun x => { x with s := [] }))) (511) (1) (1) ∧
    (fun (s : State) (t : Fin 512) (ra : Reg) (fin : BitVec 16) =>
      let x := s.tl t
      let le := x.pc + BitVec.ofNat 32 (4 * fin.toNat)
      let n : BitVec 32 := (x.rs ra).setWidth 32
      let nests := x.lc0 = 0 ∨ (x.lb0.toNat ≤ (x.pc + 4).toNat ∧ le.toNat ≤ x.le0.toNat)
      s.tileReady t [ra] ∧ fin ≠ 0 ∧ n = 0 ∧ nests) ((pxWith (fun x => { x with s := [] }))) (511) (1) (1) ∧
    (fun (s : State) (t : Fin 512) (rd : Reg) (csr : BitVec 12) =>
      let x := s.tl t
      s.tileReady t [rd] ∧ (x.csr t csr.toNat s.raw).isSome = true) (px) (511) (31) (0x014) ∧
    (fun (s : State) (t : Fin 512) (ra : Reg) (csr : BitVec 12) =>
      let x := s.tl t
      s.tileReady t [ra] ∧ csrLoop csr.toNat = false ∧ (x.csrWrite csr.toNat (x.rs ra)).isSome = true) (px) (511) (1) (0x014) ∧
    (fun (s : State) (t : Fin 512) (ra : Reg) (csr : BitVec 12) =>
      let x := s.tl t
      s.tileReady t [ra] ∧ csrLoop csr.toNat = true ∧
        ((loopEnd { x with resumed := false } (x.pc + 4)).csrWrite csr.toNat (x.rs ra)).isSome = true) (px) (511) (1) (0x046) ∧
    (fun (s : State) (t : Fin 512) (rd : Reg) (ra : Reg) (vt : BitVec 6) =>
      s.tileReady t [rd, ra] ∧ vtypeOk vt.toNat = true) (px) (511) (31) (1) (0x34) ∧
    (fun (s : State) (t : Fin 512) (rd : Reg) (ra : Reg) (rb : Reg) =>
      let x := s.tl t
      s.tileReady t [rd, ra, rb] ∧ vtypeOk ((x.rs rb).toNat % 256) = true) ((pxWith (fun x => { x with s := [(2, 0x35)] }))) (511) (31)
        (1) (2) := by
  refine ⟨?_, ?_, ?_, ?_, ?_, ?_, ?_, ?_⟩
  rotate_left 7
  refine ⟨?_, ?_, ?_⟩
  all_goals decide +kernel

theorem test_VectorElements_meets :
    (fun (x : Tile) =>
      x.vstart.toNat < x.vl.toNat) ((px.tl 511)) := by decide +kernel

theorem test_VectorMultiplies_meets :
    ([([0, 1, 2, 3], 3, 3), ([1, 2], 2, 2), ([0, 1, 2], 2, 2), ([0, 1, 2], 2, 3), ([4], 4, 4), ([4], 4, 5), ([4], 4, 5), ([5], 5, 5)].all
      (fun (q : List Nat × Nat × Nat) => vaLegal ⟨q.1, true, false, true⟩ ⟨8, 16, 24, true, false, false, BitVec.ofNat 3 q.2.1⟩ (some q.2.2) true
        ((pv (BitVec.ofNat 8 q.2.1)).tl 511)) = true) ∧
    (px.tileReady 511 (vaUses ⟨8, 16, 24, true, false, true, 3⟩)) := by
  refine ⟨?_, ?_⟩
  all_goals decide +kernel

theorem test_VectorAlu_meets :
    ([(tyAll, 5, 5, true), (tyInt, 3, 3, true), (tyAll, 5, 5, false), ([1, 2, 3, 5], 5, 4, false), ([4, 5], 5, 5, false), ([0, 1, 2, 4], 4, 5, false),
        ([1, 2, 3, 5], 1, 0, false)].all
      (fun (q : List Nat × Nat × Nat × Bool) => vaLegal ⟨q.1, false, false, false⟩ ⟨8, 16, 0, false, false, false, BitVec.ofNat 3 q.2.1⟩ (some q.2.2.1) q.2.2.2
        ((pv (BitVec.ofNat 8 (16 + q.2.1))).tl 511)) = true) ∧
    ((pv 1).tileReady 511 [] ∧ (15 : Nat) < etW 1) := by
  refine ⟨?_, ?_⟩
  all_goals decide +kernel

theorem test_VectorPermutesReductions_meets :
    ((List.range 6).all (fun ty => vaLegal ⟨tyAll, false, false, false⟩ ⟨8, 16, 0, false, false, false, BitVec.ofNat 3 ty⟩ (some ty) true
        ((pv (BitVec.ofNat 8 ty)).tl 511)) = true) ∧
    (px.tileReady 511 [8, 8] ∧ vaLegal ⟨tyAll, true, false, false⟩ ⟨8, 16, 8, false, false, false, 5⟩ none false ((pv 5).tl 511) = true) ∧
    (vaLegal ⟨tyAll, false, true, false⟩ ⟨8, 16, 8, false, true, false, 3⟩ none false ((pv 3).tl 511) = true ∧
      ((pv 3).tl 511).search ⟨8, 16, 8, false, true, false, 3⟩ (fun v w => decide (w < v)) = some (0, 0)) := by
  refine ⟨?_, ?_, ?_⟩
  all_goals decide +kernel

theorem test_SearchExtreme_meets :
    (fun (s : State) (t : Fin 512) (f : VA) =>
      let x := s.tl t
      s.tileReady t [f.vd, f.b] ∧ f.vd ≠ f.b ∧ f.vd ≠ 0 ∧ f.b ≠ 0 ∧ (f.u && etCplx f.ty.toNat) = false ∧
        vaLegal ⟨tyAll, false, true, false⟩ f none false (s.tl t) = true ∧ x.vstart.toNat < x.vl.toNat) ((pv 3)) (511)
        (⟨2, 8, 4, false, false, false, 3⟩) ∧
    (fun (s : State) (t : Fin 512) (f : VA) =>
      let x := s.tl t
      s.tileReady t [f.vd, f.b] ∧ f.vd ≠ f.b ∧ f.vd ≠ 0 ∧ f.b ≠ 0 ∧ (f.u && etCplx f.ty.toNat) = false ∧
        vaLegal ⟨tyAll, false, true, false⟩ f none false (s.tl t) = true ∧ x.vstart.toNat < x.vl.toNat) ((pv 3)) (511)
        (⟨2, 8, 4, false, false, false, 3⟩) ∧
    (fun (s : State) (t : Fin 512) (f : VA) =>
      let x := s.tl t
      s.tileReady t [f.vd, f.b] ∧ f.vd ≠ f.b ∧ f.vd ≠ 0 ∧ f.b ≠ 0 ∧ (f.u && etCplx f.ty.toNat) = false ∧
        vaLegal ⟨tyAll, false, true, false⟩ f none false (s.tl t) = true ∧ x.vstart.toNat < x.vl.toNat) (px) (511)
        (⟨2, 8, 4, false, true, false, 0⟩) ∧
    (fun (s : State) (t : Fin 512) (f : VA) =>
      let x := s.tl t
      s.tileReady t [f.vd, f.b] ∧ f.vd ≠ f.b ∧ f.vd ≠ 0 ∧ f.b ≠ 0 ∧ (f.u && etCplx f.ty.toNat) = false ∧
        vaLegal ⟨tyAll, false, true, false⟩ f none false (s.tl t) = true ∧ x.vstart.toNat < x.vl.toNat) (px) (511)
        (⟨2, 8, 4, false, true, false, 0⟩) ∧
    (fun (s : State) (t : Fin 512) (f : VA) =>
      let x := s.tl t
      s.tileReady t [f.vd, f.b] ∧ f.vd ≠ f.b ∧ f.vd ≠ 0 ∧ f.b ≠ 0 ∧ (f.u && etCplx f.ty.toNat) = false ∧
        vaLegal ⟨tyAll, false, true, false⟩ f none false (s.tl t) = true ∧ x.vl.toNat ≤ x.vstart.toNat)
        ((pxWith (fun x => { x with vtype := 5, vl := 0 }))) (511) (⟨2, 8, 4, false, false, false, 5⟩) ∧
    (fun (s : State) (t : Fin 512) (f : VA) =>
      let x := s.tl t
      s.tileReady t [f.vd, f.b] ∧ f.vd ≠ f.b ∧ f.vd ≠ 0 ∧ f.b ≠ 0 ∧ (f.u && etCplx f.ty.toNat) = false ∧
        vaLegal ⟨tyAll, false, true, false⟩ f none false (s.tl t) = true ∧ x.vl.toNat ≤ x.vstart.toNat)
        ((pxWith (fun x => { x with vtype := 5, vl := 0 }))) (511) (⟨2, 8, 4, false, false, false, 5⟩) := by
  refine ⟨?_, ?_, ?_, ?_, ?_, ?_⟩
  all_goals decide +kernel

theorem test_VectorLoadsStores_meets :
    (fun (s : State) (t : Fin 512) (f : VM) =>
      let x := s.tl t
      let e := etBytes f.ty.toNat
      let base := x.rs f.ra + x.rs f.ro
      let wide := decide (2 ^ 32 ≤ (x.rs f.ra).toNat) || decide (2 ^ 32 ≤ (x.rs f.ro).toNat)
      s.tileReady t [f.ra, f.ro] ∧ s.clean ∧ vmLegal f (s.tl t) = true ∧ x.faultElem t false wide base e x.range = none) ((pv 3)) (511)
        (⟨31, 1, 2, true, false, 3, 0⟩) ∧
    (fun (s : State) (t : Fin 512) (f : VM) =>
      let x := s.tl t
      let e := etBytes f.ty.toNat
      let base := x.rs f.ra + x.rs f.ro
      let wide := decide (2 ^ 32 ≤ (x.rs f.ra).toNat) || decide (2 ^ 32 ≤ (x.rs f.ro).toNat)
      s.tileReady t [f.ra, f.ro] ∧ s.clean ∧ vmLegal f (s.tl t) = true ∧ x.faultElem t true wide base e x.range = none) ((pv 3)) (511)
        (⟨31, 1, 2, true, false, 3, 0⟩) ∧
    (fun (s : State) (t : Fin 512) (f : VM) (i : Nat) (c : Nat) (b : Nat) =>
      let x := s.tl t
      let e := etBytes f.ty.toNat
      let base := x.rs f.ra + x.rs f.ro
      let wide := decide (2 ^ 32 ≤ (x.rs f.ra).toNat) || decide (2 ^ 32 ≤ (x.rs f.ro).toNat)
      s.tileReady t [f.ra, f.ro] ∧ s.clean ∧ vmLegal f (s.tl t) = true ∧ x.faultElem t false wide base e x.range = some (i, c, b) ∧
        x.inh = false) ((pxWith (fun x => { x with vtype := 3, vl := 4, s := [(1, 0x13FFF0)] }))) (511) (⟨31, 1, 2, true, false, 3, 0⟩)
        (2) (3) (0x140000) ∧
    (fun (s : State) (t : Fin 512) (f : VM) (i : Nat) (c : Nat) (b : Nat) =>
      let x := s.tl t
      let e := etBytes f.ty.toNat
      let base := x.rs f.ra + x.rs f.ro
      let wide := decide (2 ^ 32 ≤ (x.rs f.ra).toNat) || decide (2 ^ 32 ≤ (x.rs f.ro).toNat)
      s.tileReady t [f.ra, f.ro] ∧ s.clean ∧ vmLegal f (s.tl t) = true ∧ x.faultElem t true wide base e x.range = some (i, c, b) ∧
        x.inh = false) ((pxWith (fun x => { x with vtype := 3, vl := 4, s := [(1, 0x13FFF0)] }))) (511) (⟨31, 1, 2, true, false, 3, 0⟩)
        (2) (4) (0x140000) := by
  refine ⟨?_, ?_, ?_, ?_⟩
  all_goals decide +kernel

theorem test_SystemInstructions_meets :
    (fun (s : State) (t : Fin 512) =>
      let x := s.tl t
      s.tileReady t [] ∧ x.inh = true) (pinh) (511) ∧
    (fun (s : State) (t : Fin 512) =>
      let x := s.tl t
      s.tileReady t [] ∧ x.inh = true ∧ x.stBit stPLPEN = false)
        ((pxWith (fun x => { x with status := mkStatus false true false false true }))) (511) ∧
    (fun (s : State) (t : Fin 512) =>
      let x := s.tl t
      s.tileReady t [] ∧ x.inh = false) (px) (511) ∧
    (fun (s : State) (t : Fin 512) =>
      let x := s.tl t
      s.tileReady t [] ∧ x.inh = true) (pinh) (511) := by
  refine ⟨?_, ?_, ?_, ?_⟩
  all_goals decide +kernel

theorem test_TileTasks_meets :
    (fun (s : State) (t : Fin 512) (rd : Reg) =>
      let x := s.tl t
      s.tileReady t [rd] ∧ x.inh = false) (px) (511) (31) ∧
    (fun (s : State) (t : Fin 512) (rd : Reg) (ra : Reg) =>
      let x := s.tl t
      let a := (x.rs ra).toNat
      let d := lmAddr t (a - 0x100000)
      let u := (s.tileRead t d 64).1
      s.tileReady t [rd, ra] ∧ a % 64 = 0 ∧ 0x100000 ≤ a ∧ a + 64 ≤ 0x140000 ∧ x.firstWatched false a 64 = none ∧
        u.postWaits t = false) ((pxWith (fun x => { x with s := [(1, 0x13FFC0)] }))) (511) (31) (1) ∧
    (fun (s : State) (t : Fin 512) (rd : Reg) (ra : Reg) =>
      let x := s.tl t
      let a := (x.rs ra).toNat
      let d := lmAddr t (a - 0x100000)
      let u := (s.tileRead t d 64).1
      s.tileReady t [rd, ra] ∧ a % 64 = 0 ∧ 0x100000 ≤ a ∧ a + 64 ≤ 0x140000 ∧ x.firstWatched false a 64 = none ∧ u.postWaits t = true)
        ({ (pxWith (fun x => { x with s := [(1, 0x13FFC0)] })) with outq := [(511, List.replicate 99 (.token ⟨0, 0⟩ 8 .none))] }) (511)
        (31) (1) ∧
    (fun (s : State) (t : Fin 512) (rd : Reg) (ra : Reg) =>
      let x := s.tl t
      let a := (x.rs ra).toNat
      let d := lmAddr t (a - 0x100000)
      let u := (s.tileRead t d 64).1
      s.tileReady t [rd, ra] ∧ a % 64 = 0 ∧ 0x100000 ≤ a ∧ a + 64 ≤ 0x140000 ∧ x.firstWatched false a 64 = none ∧
        u.postWaits t = false) ((pxWith (fun x => { x with s := [(1, 0x13FFC0)] }))) (511) (31) (1) ∧
    (fun (s : State) (t : Fin 512) (rd : Reg) (ra : Reg) =>
      let x := s.tl t
      let a := (x.rs ra).toNat
      let d := lmAddr t (a - 0x100000)
      let u := (s.tileRead t d 64).1
      s.tileReady t [rd, ra] ∧ a % 64 = 0 ∧ 0x100000 ≤ a ∧ a + 64 ≤ 0x140000 ∧ x.firstWatched false a 64 = none ∧ u.postWaits t = true)
        ({ (pxWith (fun x => { x with s := [(1, 0x13FFC0)] })) with outq := [(511, List.replicate 99 (.token ⟨0, 0⟩ 8 .none))] }) (511)
        (31) (1) ∧
    (fun (s : State) (t : Fin 512) (ra : Reg) (rb : Reg) =>
      s.tileReady t [ra, rb] ∧ s.postWaits t = false) (px) (511) (1) (2) ∧
    (fun (s : State) (t : Fin 512) (ra : Reg) (rb : Reg) =>
      s.tileReady t [ra, rb] ∧ s.postWaits t = true) ({ px with outq := [(511, List.replicate 99 (.token ⟨0, 0⟩ 8 .none))] }) (511) (1)
        (2) ∧
    (fun (s : State) (t : Fin 512) (i : Item) =>
      let x := s.tl t
      x.st = .postStall ∧ x.stalledPost = some i ∧ s.postWaits t = false)
        ((pxWith (fun x => { x with st := .postStall, stalledPost := some (.token ⟨0, 0⟩ 8 .none) }))) (511) ((.token ⟨0, 0⟩ 8 .none)) ∧
    (fun (s : State) (t : Fin 512) =>
      let x := s.tl t
      x.task = none) (px) (511) ∧
    (fun (s : State) (t : Fin 512) =>
      s.tileReady t []) (px) (511) := by
  refine ⟨?_, ?_, ?_, ?_, ?_, ?_, ?_, ?_⟩
  rotate_left 7
  refine ⟨?_, ?_, ?_⟩
  all_goals decide +kernel

theorem test_TileTasks_meets_result :
    (fun (s : State) (t : Fin 512) (r : Reg) (v : U64) (p : List (Reg × Option U64)) (q : List (Reg × Option U64)) =>
      let x := s.tl t
      x.pendingD = p ++ (r, some v) :: q ∧ ((∀ e ∈ p, e.2 = none))) ((pxWith (fun x => { x with pendingD := [(31, some 5)] }))) (511)
        (31) (5) ([]) ([]) := ⟨by decide +kernel, by simp⟩

theorem test_TileInterruptsControls_meets :
    (fun (s : State) (t : Fin 512) =>
      let x := s.tl t
      let takes := x.st = .running ∨ x.st = .fetchWait ∨ x.st = .postStall
      takes ∧ x.ipend.toNat % 2 = 1) ((pxWith (fun x => { x with ipend := 3 }))) (511) ∧
    (fun (s : State) (t : Fin 512) =>
      let x := s.tl t
      let takes := x.st = .running ∨ x.st = .fetchWait ∨ x.st = .postStall
      takes ∧ x.ipend = 2 ∧ x.stBit stIE = true)
        ((pxWith (fun x => { x with ipend := 2, status := mkStatus true false false false false }))) (511) ∧
    (fun (s : State) (t : Fin 512) (rq : Requester) =>
      let x := s.tl t
      let k := Key.pxCtl t
      let v := fun (i : Nat) (b : Bool) => setBit (setBit (s.ent k) 2 false) i b
      s.checkWrite rq k (v 0 true) = .ok ∧ s.flag k 0 = false ∧ x.st = .reset ∧ s.mayRun t = true)
        ({ up with unit := [(511, { unitInit with released := true }), (575, { unitInit with released := true }), (packUnit 7, { unitInit with released := true })] }) (511) (.root) ∧
    (fun (s : State) (t : Fin 512) (rq : Requester) =>
      let x := s.tl t
      let k := Key.pxCtl t
      let v := fun (i : Nat) (b : Bool) => setBit (setBit (s.ent k) 2 false) i b
      s.checkWrite rq k (v 0 false) = .ok ∧ s.flag k 0 = true ∧ s.flag k 1 = false ∧ x.st ≠ .trapped)
        ((px.setFlag (Key.pxCtl 511) 0 true)) (511) (.root) ∧
    (fun (s : State) (t : Fin 512) (rq : Requester) =>
      let x := s.tl t
      let k := Key.pxCtl t
      let v := fun (i : Nat) (b : Bool) => setBit (setBit (s.ent k) 2 false) i b
      s.checkWrite rq k (v 1 true) = .ok ∧ x.st = .running ∧ s.flag k 0 = true) ((px.setFlag (Key.pxCtl 511) 0 true)) (511) (.root) ∧
    (fun (s : State) (t : Fin 512) (rq : Requester) =>
      let x := s.tl t
      let k := Key.pxCtl t
      let v := fun (i : Nat) (b : Bool) => setBit (setBit (s.ent k) 2 false) i b
      s.checkWrite rq k (v 1 false) = .ok ∧ x.st = .halted ∧ s.flag k 0 = true)
        (((pxWith (fun x => { x with st := .halted })).setFlag (Key.pxCtl 511) 0 true)) (511) (.root) ∧
    (fun (s : State) (t : Fin 512) (rq : Requester) =>
      let x := s.tl t
      let k := Key.pxCtl t
      let v := fun (i : Nat) (b : Bool) => setBit (setBit (s.ent k) 2 false) i b
      s.checkWrite rq k (v 2 true) = .ok ∧ x.st = .running ∧ s.flag k 0 = true ∧ s.flag k 1 = false)
        ((px.setFlag (Key.pxCtl 511) 0 true)) (511) (.root) := by
  refine ⟨?_, ?_, ?_, ?_, ?_, ?_, ?_⟩
  all_goals decide +kernel

theorem test_KennelDescriptorsTokens_meets :
    (fun (s : State) (src : Producer) (it : Item) (q : List Item) =>
      s.queueOf src = it :: q ∧ s.deferredOf src < prodCredits src) ((kup.setQueue (.tile 0) [.desc (ds 5 0 0) (.tileReg 0 31) 8]))
        (.tile 0) ((.desc (ds 5 0 0) (.tileReg 0 31) 8)) ([]) ∧
    (fun (s : State) (s' : State) (src : Producer) (d : Desc) (ret : RetTo) (part : Nat) (pk : Nat) =>
      let home := s'.homeOf src
      s.frontOf src = some (.desc d ret part, s') ∧ d.target < 1024 ∧ s'.execPack home d.target = pk ∧
        s'.refusal pk d part true false = none ∧ (s'.wakePack pk).mayAllocate pk d.cls = true)
        ((kup.setQueue (.tile 0) [.desc (ds 5 0 0) (.tileReg 0 31) 8])) ((kup.setQueue (.tile 0) [])) (.tile 0) ((ds 5 0 0))
        (.tileReg 0 31) (8) (0) ∧
    (fun (s : State) (s' : State) (src : Producer) (d : Desc) (ret : RetTo) (part : Nat) (pk : Nat) =>
      let home := s'.homeOf src
      s.frontOf src = some (.desc d ret part, s') ∧ d.target < 1024 ∧ s'.execPack home d.target = pk ∧
        s'.refusal pk d part true false = none ∧ (s'.wakePack pk).mayAllocate pk d.cls = false)
        (((kup.setEntN Key.knHighWater 0).setQueue (.tile 0) [.desc ⟨w64 (5 * 2 ^ 52 + 2 ^ 51), 0, 0, 0, 0, 0, 0, 0⟩ (.tileReg 0 31) 8])) (((kup.setEntN Key.knHighWater 0).setQueue (.tile 0) [])) (.tile 0) (⟨w64 (5 * 2 ^ 52 + 2 ^ 51), 0, 0, 0, 0, 0, 0, 0⟩) (.tileReg 0 31) (8) (0) ∧
    (fun (s : State) (s' : State) (src : Producer) (d : Desc) (ret : RetTo) (part : Nat) (st : Nat) (pk : Nat) =>
      let home := s'.homeOf src
      s.frontOf src = some (.desc d ret part, s') ∧ d.target < 1024 ∧ s'.execPack home d.target = pk ∧
        s'.refusal pk d part true false = some st) ((kup.setQueue (.tile 0) [.desc (ds 7 0 0) (.tileReg 0 31) 8]))
        ((kup.setQueue (.tile 0) [])) (.tile 0) ((ds 7 0 0)) (.tileReg 0 31) (8) (3) (0) ∧
    (fun (s : State) (s' : State) (src : Producer) (d : Desc) (ret : RetTo) (part : Nat) (g : Nat) =>
      s.frontOf src = some (.desc d ret part, s') ∧ 1024 ≤ d.target ∧ s'.linkTo (d.target / 1024) = some g)
        ((((kup.setFld (Key.gplStat 0) 63 60 3).setFld (Key.gplStat 0) 57 56 1).setQueue (.tile 0) [.desc (ds 5 1024 0)
        (.tileReg 0 31) 8])) ((((kup.setFld (Key.gplStat 0) 63 60 3).setFld (Key.gplStat 0) 57 56 1).setQueue (.tile 0) [])) (.tile 0)
        ((ds 5 1024 0)) (.tileReg 0 31) (8) (0) ∧
    (fun (s : State) (s' : State) (src : Producer) (d : Desc) (ret : RetTo) (part : Nat) =>
      s.frontOf src = some (.desc d ret part, s') ∧ 1024 ≤ d.target ∧ s'.linkTo (d.target / 1024) = none)
        ((kup.setQueue (.tile 0) [.desc (ds 5 1024 0) (.tileReg 0 31) 8])) ((kup.setQueue (.tile 0) [])) (.tile 0) ((ds 5 1024 0))
        (.tileReg 0 31) (8) ∧
    (fun (s : State) (s' : State) (src : Producer) (d : Desc) (ret : RetTo) (part : Nat) =>
      s.frontOf src = some (.desc d ret part, s')) ((kup.setQueue (.tile 0) [.desc (ds 5 0 0) (.tileReg 0 31) 8]))
        ((kup.setQueue (.tile 0) [])) (.tile 0) ((ds 5 0 0)) (.tileReg 0 31) (8) ∧
    (fun (s : State) (p : Fin 8) (w : Deferred) (l : List Deferred) (r : List Deferred) =>
      let k := s.setKn p.val { s.kn p.val with waiting := l ++ r }
      (s.kn p.val).waiting = l ++ w :: r ∧ ((∀ y ∈ l, s.mayAllocate p.val y.desc.cls = false)) ∧
        s.mayAllocate p.val w.desc.cls = true ∧ k.refusal p.val w.desc w.part true false = none)
        ((kup.setKn 0 { knInit with waiting := [⟨.tile 0, ds 5 0 0, .none, 8⟩] })) (0) (⟨.tile 0, ds 5 0 0, .none, 8⟩) ([]) ([]) ∧
    (fun (s : State) (p : Fin 8) (w : Deferred) (l : List Deferred) (r : List Deferred) (st : Nat) =>
      let k := s.setKn p.val { s.kn p.val with waiting := l ++ r }
      (s.kn p.val).waiting = l ++ w :: r ∧ ((∀ y ∈ l, s.mayAllocate p.val y.desc.cls = false)) ∧
        s.mayAllocate p.val w.desc.cls = true ∧ k.refusal p.val w.desc w.part true false = some st)
        ((kup.setKn 0 { knInit with waiting := [⟨.tile 0, ds 7 0 0, .none, 8⟩] })) (0) (⟨.tile 0, ds 7 0 0, .none, 8⟩) ([]) ([]) (3) ∧
    (fun (s : State) (s' : State) (src : Producer) (part : Nat) (t : Token) =>
      s.frontOf src = some (.token t part .none, s'))
        ((kup.setQueue (.tile 0) [.token ⟨w64 (383 * 2 ^ 55 + 2047 * 2 ^ 40 + 2 ^ 31 + 2 ^ 28), 9⟩ 8 .none]))
        ((kup.setQueue (.tile 0) [])) (.tile 0) (8) (⟨w64 (383 * 2 ^ 55 + 2047 * 2 ^ 40 + 2 ^ 31 + 2 ^ 28), 9⟩) ∧
    (fun (s : State) (s' : State) (src : Producer) (part : Nat) (t : Token) (c : Nat) (e : Nat) =>
      s.frontOf src = some (.token t part (.portEntry c e), s'))
        ((kup.setQueue (.tile 0) [.token ⟨w64 (383 * 2 ^ 55 + 2047 * 2 ^ 40 + 2 ^ 31 + 2 ^ 28), 9⟩ 8 (.portEntry 15 63)]))
        ((kup.setQueue (.tile 0) [])) (.tile 0) (8) (⟨w64 (383 * 2 ^ 55 + 2047 * 2 ^ 40 + 2 ^ 31 + 2 ^ 28), 9⟩) (15) (63) ∧
    (fun (s : State) (s' : State) (src : Producer) (part : Nat) (t : Token) =>
      s.frontOf src = some (.back t part, s'))
        ((kup.setQueue (.tile 0) [.back ⟨w64 (383 * 2 ^ 55 + 2047 * 2 ^ 40 + 2 ^ 31 + 2 ^ 28), 9⟩ 8])) ((kup.setQueue (.tile 0) []))
        (.tile 0) (8) (⟨w64 (383 * 2 ^ 55 + 2047 * 2 ^ 40 + 2 ^ 31 + 2 ^ 28), 9⟩) ∧
    (fun (s : State) (s' : State) (src : Producer) (part : Nat) (t : Token) =>
      s.frontOf src = some (.token t part .none, s'))
        ((kup.setQueue (.tile 0) [.token ⟨w64 (383 * 2 ^ 55 + 2047 * 2 ^ 40 + 2 ^ 31 + 2 ^ 28), 9⟩ 8 .none]))
        ((kup.setQueue (.tile 0) [])) (.tile 0) (8) (⟨w64 (383 * 2 ^ 55 + 2047 * 2 ^ 40 + 2 ^ 31 + 2 ^ 28), 9⟩) ∧
    (fun (s : State) (s' : State) (src : Producer) (part : Nat) (t : Token) =>
      s.frontOf src = some (.token t part .none, s'))
        ((kup.setQueue (.tile 0) [.token ⟨w64 (383 * 2 ^ 55 + 2047 * 2 ^ 40 + 2 ^ 31 + 2 ^ 28), 9⟩ 8 .none]))
        ((kup.setQueue (.tile 0) [])) (.tile 0) (8) (⟨w64 (383 * 2 ^ 55 + 2047 * 2 ^ 40 + 2 ^ 31 + 2 ^ 28), 9⟩) ∧
    (fun (s : State) (part : Nat) (t : Token) (i : Nat) (pk : Nat) =>
      let u := s.wakePack pk
      let x := u.entry pk i
      let slot := bf t.w0 30 28
      ((bit t.w0 31 = true ∨ bf t.w0 63 32 < 2 ^ 30)) ∧ s.tokenEntry t.w0 = some (pk, i) ∧ u.foreign part x.desc.target = false ∧
        slot < x.desc.nops ∧ tfind x.slots slot = none) ((kst [(32767, { en .waiting (ds 5 0 2) with plan := some (383, 0, 2047) })]))
        (8) (⟨w64 (383 * 2 ^ 55 + 2047 * 2 ^ 40 + 2 ^ 31 + 2 ^ 28), 9⟩) (32767) (0) ∧
    (fun (s : State) (part : Nat) (t : Token) (i : Nat) (pk : Nat) =>
      let u := s.wakePack pk
      let x := u.entry pk i
      let slot := bf t.w0 30 28
      ((bit t.w0 31 = true ∨ bf t.w0 63 32 < 2 ^ 30)) ∧ s.tokenEntry t.w0 = some (pk, i) ∧ u.foreign part x.desc.target = false ∧
        slot < x.desc.nops ∧ (tfind x.slots slot).isSome = true)
        ((kst [(32767, { en .waiting (ds 5 0 2) with plan := some (383, 0, 2047), slots := [(1, ⟨0, 0⟩)] })])) (8)
        (⟨w64 (383 * 2 ^ 55 + 2047 * 2 ^ 40 + 2 ^ 31 + 2 ^ 28), 9⟩) (32767) (0) ∧
    (fun (s : State) (part : Nat) (t : Token) (i : Nat) (pk : Nat) =>
      let u := s.wakePack pk
      let x := u.entry pk i
      let slot := bf t.w0 30 28
      ((bit t.w0 31 = true ∨ bf t.w0 63 32 < 2 ^ 30)) ∧ s.tokenEntry t.w0 = some (pk, i) ∧ u.foreign part x.desc.target = false ∧
        x.desc.nops ≤ slot) ((kst [(32767, { en .waiting (ds 5 0 1) with plan := some (383, 0, 2047) })])) (8)
        (⟨w64 (383 * 2 ^ 55 + 2047 * 2 ^ 40 + 2 ^ 31 + 2 ^ 28), 9⟩) (32767) (0) ∧
    (fun (s : State) (t : Token) =>
      bit t.w0 31 = false ∧ bf t.w0 63 32 < 2 ^ 30 ∧ s.tokenEntry t.w0 = none) (kup) (⟨w64 (32767 * 2 ^ 32), 9⟩) ∧
    (fun (s : State) (i : Nat) (pk : Nat) =>
      (s.entry pk i).st = .waiting ∧ ((∀ j, j < (s.entry pk i).desc.nops → (tfind (s.entry pk i).slots j).isSome = true)))
        ((kst [(32767, en .waiting (ds 5 0 0))])) (32767) (0) := by
  refine ⟨?_, ?_, ?_, ?_, ?_, ?_, ?_, ?_⟩
  rotate_left 7
  refine ⟨?_, ?_, ?_, ?_, ?_, ?_, ?_, ?_⟩
  rotate_left 7
  refine ⟨?_, ?_, ?_, ?_, ?_⟩
  all_goals decide +kernel

theorem test_KennelDispatchPlans_meets :
    (fun (s : State) (p : Fin 8) (i : Nat) (t : Nat) =>
      let pick := (s.readyTasks p.val).findSome? (fun e => (s.choose p.val e.2).map (fun k => (e.1, k)))
      pick = some (i, .toTile t))
        (({ kst [(32767, en .ready (ds 5 0 0))] with tile := [(0, { tileInit with st := .fetchWait })] }.setEnt (Key.knTileCfg 0) 1))
        (0) (32767) (0) ∧
    (fun (s : State) (p : Fin 8) (i : Nat) (u : Nat) =>
      let pick := (s.readyTasks p.val).findSome? (fun e => (s.choose p.val e.2).map (fun k => (e.1, k)))
      pick = some (i, .toUnit u)) ((kst [(32767, en .ready (ds 6 584 0))])) (0) (32767) (584) ∧
    (fun (u : Nat) =>
      unitKind u = 4) (584) ∧
    (fun (s : State) (p : Fin 8) (i : Nat) =>
      let pick := (s.readyTasks p.val).findSome? (fun e => (s.choose p.val e.2).map (fun k => (e.1, k)))
      pick = some (i, .giveBack)) ((kst [(3, en .ready (ds 5 70 0))])) (0) (3) ∧
    (fun (s : State) (p : Fin 8) =>
      let pick := (s.readyTasks p.val).findSome? (fun e => (s.choose p.val e.2).map (fun k => (e.1, k)))
      pick = none) (kup) (0) ∧
    (fun (s : State) (p : Fin 8) (i : Nat) =>
      (tfind ((s.poisonEntry p.val i).entry p.val i).slots 1).isSome = true)
        ((kst [(32767, { en .waiting (ds 5 0 2) with plan := some (383, 0, 2047), slots := [(1, ⟨0, 0⟩)] })])) (0) (32767) ∧
    (fun (s : State) (p : Fin 8) =>
      let down := (s.kn p.val).used.filter (fun e => (e.2.st == .waiting || e.2.st == .ready) && !(s.inService e.2.desc.target) && !(s.retestTask e.2.desc))
      down ≠ []) ((kst [(3, en .waiting (ds 5 70 1))])) (0) ∧
    (fun (s : State) =>
      s.raw.toNat % 491520 = 0) (up) ∧
    (fun (s : State) =>
      s.raw.toNat % 491520 ≠ 0) ({ up with raw := 1 }) ∧
    (fun (s : State) (p : Fin 8) =>
      s.entN Key.knLameEn ≠ 1 ∧ bit (s.kindWord p.val 5) 60 = true ∧ 8 ≤ (s.validAvgs p.val 5).length)
        (((({ up with unit := (List.range 64).map (fun u => (u, { unitInit with released := true })) }).setKn 0 { knInit with avg := (List.range 8).map (fun t => (t * 4096 + 5, ⟨if t = 7 then 2 ^ 60 else 1, 256⟩)) }).setEnt (Key.knKind 0 5) 0x9000000000000000|>.setEnt Key.knLameEn 0)) (0) ∧
    (fun (s : State) (p : Fin 8) =>
      (s.entN Key.knLameEn = 1 ∧ bit (s.kindWord p.val 5) 60 = true ∧ 8 ≤ (s.validAvgs p.val 5).length ∧
        (s.validAvgs p.val 5).any (fun e => decide (e.1 < 512) && s.health e.1 == 0 && s.exceeds e.2 (lowMedian ((s.validAvgs p.val 5).map (·.2)))) = true)) (((({ up with unit := (List.range 64).map (fun u => (u, { unitInit with released := true })) }).setKn 0 { knInit with avg := (List.range 8).map (fun t => (t * 4096 + 5, ⟨if t = 7 then 2 ^ 60 else 1, 256⟩)) }).setEnt (Key.knKind 0 5) 0x9000000000000000|>.setEnt Key.knLameEn 1)) (0) ∧
    (fun (s : State) (tile : Fin 512) =>
      let probing := match (s.tl tile.val).task with | some (a, j) => (s.entry a j).probe | none => false
      (s.un tile.val).lame = true ∧ probing = false ∧ s.entN Key.knLameProbe * 12288 ≤ 25 * (s.raw.toNat - (s.un tile.val).lameSince))
        (({ up with raw := 2 ^ 60 }.setUn 511 { unitInit with lame := true })) (511) ∧
    (fun (s : State) (tile : Fin 512) =>
      25 * (s.raw.toNat - (s.un tile.val).lameSince) < s.entN Key.knLameProbe * 12288)
        (((up.setEntN Key.knLameProbe 1).setUn 511 { unitInit with lame := true })) (511) ∧
    (fun (s : State) (c : Fin 384) (un : Fin 64) (row : Fin 16) (d : SlotDue) =>
      (s.slotDue.find? (fun d => d.carrier == c.val && d.unit == un.val && d.row == row.val) = some d) ∧
        s.flag (Key.knPlanCfg c.val) 63 = true) ({ up with slotDue := [⟨383, 63, 15, 1⟩] }.setFlag (Key.knPlanCfg 383) 63 true) (383)
        (63) (15) (⟨383, 63, 15, 1⟩) ∧
    (fun (s : State) (c : Fin 384) (un : Fin 64) (row : Fin 16) (d : SlotDue) =>
      (s.slotDue.find? (fun d => d.carrier == c.val && d.unit == un.val && d.row == row.val) = some d) ∧
        s.flag (Key.knPlanCfg c.val) 63 = false) ({ up with slotDue := [⟨383, 63, 15, 1⟩] }) (383) (63) (15) (⟨383, 63, 15, 1⟩) := by
  refine ⟨?_, ?_, ?_, ?_, ?_, ?_, ?_, ?_⟩
  rotate_left 7
  refine ⟨?_, ?_, ?_, ?_, ?_, ?_, ?_, ?_⟩
  all_goals decide +kernel

theorem test_MemoryAccessesPorts_meets :
    (fun (s : State) (w : Accessor) (a : BitVec 40) (bs : List Byte) =>
      let r := regionOf a.toNat
      s.mayIssue w = true ∧ r = .hbm ∧ s.accessOk w a.toNat bs.length true = true) (up) (.root) (0x17FFFFFFFF) ([7]) ∧
    (fun (s : State) (w : Accessor) (a : BitVec 40) (bs : List Byte) =>
      let r := regionOf a.toNat
      s.mayIssue w = true ∧ r = .lm 0 ∧ s.accessOk w a.toNat bs.length true = true)
        (((kup.setUn 576 { unitInit with released := true }).setEnt (Key.prtPacks 0) 1)) (.dma 0) (0x1802000000) ([1, 2]) ∧
    (fun (s : State) =>
      s.clean) (up) ∧
    (fun (s : State) (w : Accessor) (a : BitVec 40) (n : Nat) =>
      let r := regionOf a.toNat
      s.mayIssue w = true ∧ r = .hbm ∧ s.accessOk w a.toNat n false = true) (up) (.root) (0x17FFFFFFFF) (1) ∧
    (fun (s : State) (w : Accessor) (a : BitVec 40) (n : Nat) =>
      let r := regionOf a.toNat
      s.mayIssue w = true ∧ r = .mram ∧ s.accessOk w a.toNat n false = true) (up) (.root) (mramBase) (8) ∧
    (fun (s : State) =>
      s.clean) (up) ∧
    (fun (s : State) (w : Accessor) (a : BitVec 40) (n : Nat) =>
      let r := regionOf a.toNat
      s.mayIssue w = true ∧ r = .hbm ∧ s.accessOk w a.toNat n false = false) (up) (.root) (0x17FFFFFFFF) (2) ∧
    (fun (s : State) (w : Accessor) (a : BitVec 40) (n : Nat) =>
      let r := regionOf a.toNat
      s.mayIssue w = true ∧ r = .hbm ∧ s.accessOk w a.toNat n false = true) (up) (.root) (0x17FFFFFFFF) (1) ∧
    (fun (s : State) (w : Accessor) (a : BitVec 40) (bs : List Byte) =>
      let r := regionOf a.toNat
      s.mayIssue w = true ∧ bs.length ≤ 256 ∧ r = .mram ∧ s.accessOk w a.toNat bs.length true = true ∧ s.warn = true)
        ({ up with warn := true }) (.root) (mramBase) ([1]) ∧
    (fun (s : State) (a : BitVec 40) (n : Nat) (c : Fin 16) =>
      let r := regionOf a.toNat
      s.coreRuns c.val = true ∧ r = .port c.val ∧ 0 < n ∧ n ≤ 256 ∧ a.toNat + n ≤ portBase c.val + 0x10000) (cup)
        (BitVec.ofNat 40 (portBase 15)) (8) (15) ∧
    (fun (s : State) (c : Fin 16) =>
      s.coreRuns c.val = true ∧ s.portFill c = 64) (cup.setQueue (.core 15) (List.replicate 64 (.token ⟨0, 0⟩ 8 .none))) (15) ∧
    (fun (s : State) (c : Fin 16) (v : U64) =>
      s.coreRuns c.val = true ∧ s.portFill c ≠ 64 ∧ bit v 8 = false) (cup) (15) (0) ∧
    (fun (s : State) (c : Fin 16) (v : U64) =>
      s.coreRuns c.val = true ∧ s.portFill c ≠ 64 ∧ bit v 8 = true) (cup) (15) (256) ∧
    (fun (s : State) (c : Fin 16) (h : BitVec 32) =>
      let p := h.toNat / 2 ^ 27
      let x := s.entry p (h.toNat % 2 ^ 15)
      s.coreRuns c.val = true ∧ p < 8 ∧ x.st = .running ∧ x.unit = coreUnit c.val ∧ x.gen.toNat = h.toNat / 2 ^ 15 % 4096)
        ({ cup with kennel := [(0, { knInit with entries := [(7, { en .running (ds 5 840 0) with unit := coreUnit 15 })] })] }) (15) (7) ∧
    (fun (s : State) (c : Fin 16) (h : BitVec 32) =>
      let p := h.toNat / 2 ^ 27
      let x := s.entry p (h.toNat % 2 ^ 15)
      s.coreRuns c.val = true ∧ p < 8 ∧ ((x.st ≠ .running ∨ x.unit ≠ coreUnit c.val ∨ x.gen.toNat ≠ h.toNat / 2 ^ 15 % 4096))) (cup)
        (15) (0x3FFFFFFF) ∧
    (fun (s : State) (c : Fin 16) (v : U64) =>
      s.coreRuns c.val = true ∧ v.toNat < 128 ∧ ((s.prt c.val).head - BitVec.ofNat 7 v.toNat).toNat ≤ 64)
        ({ cup with port := [(15, ⟨64, 0⟩)] }) (15) (0) ∧
    (fun (s : State) (c : Fin 16) (v : U64) =>
      s.coreRuns c.val = true ∧ v.toNat < 128 ∧ 64 < ((s.prt c.val).head - BitVec.ofNat 7 v.toNat).toNat)
        ({ cup with port := [(15, ⟨65, 0⟩)] }) (15) (0) := by
  refine ⟨?_, ?_, ?_, ?_, ?_, ?_, ?_, ?_⟩
  rotate_left 7
  refine ⟨?_, ?_, ?_, ?_, ?_, ?_, ?_, ?_⟩
  rotate_left 7
  refine ⟨?_, ?_, ?_⟩
  all_goals decide +kernel

theorem test_LeashDecisions_meets :
    (fun (s : State) (pt : Fin 160) (o : Owner) =>
      let n := pt.val
      let x := s.pnt n
      let cur := x.owner.bind (fun o => if o.beat + 1 < o.beats then some o else none)
      cur = some o ∧ o.classD = true) ({ up with point := [(159, { pointInit with owner := some ⟨23, true, 2, 4⟩ })] }) (159)
        (⟨23, true, 2, 4⟩) ∧
    (fun (s : State) (pt : Fin 160) (rs : List LeashReq) (q : LeashReq) (o : Owner) =>
      let n := pt.val
      let x := s.pnt n
      let l := (addReqs x.reqs rs).filter (fun q => !(s.isMasked q.r.val))
      let cur := x.owner.bind (fun o => if o.beat + 1 < o.beats then some o else none)
      let noD := ∀ o, cur = some o → o.classD = false
      noD ∧ rrAfter l true x.lastD = some q) (up) (159) ([⟨23, true, 4⟩]) (⟨23, true, 4⟩) (⟨0, true, 0, 1⟩) ∧
    (fun (s : State) (pt : Fin 160) (rs : List LeashReq) (q : LeashReq) (o : Owner) =>
      let n := pt.val
      let x := s.pnt n
      let l := (addReqs x.reqs rs).filter (fun q => !(s.isMasked q.r.val))
      let cur := x.owner.bind (fun o => if o.beat + 1 < o.beats then some o else none)
      let noD := ∀ o, cur = some o → o.classD = false
      noD ∧ rrAfter l true x.lastD = some q) ({ up with point := [(159, { pointInit with owner := some ⟨0, false, 2, 4⟩ })] }) (159)
        ([⟨23, true, 4⟩]) (⟨23, true, 4⟩) (⟨0, true, 0, 1⟩) ∧
    (fun (s : State) (pt : Fin 160) (rs : List LeashReq) (q : LeashReq) (k : Nat) =>
      let n := pt.val
      let x := s.pnt n
      let l := (addReqs x.reqs rs).filter (fun q => !(s.isMasked q.r.val))
      rrAfter l true k = some q ∧ (q ∈ l ∧ q.classD = true ∧ ∀ z ∈ l, z.classD = true)) (up) (159) ([⟨23, true, 4⟩]) (⟨23, true, 4⟩) (0) ∧
    (fun (s : State) (pt : Fin 160) (rs : List LeashReq) (q : LeashReq) (o : Owner) =>
      let n := pt.val
      let x := s.pnt n
      let l := (addReqs x.reqs rs).filter (fun q => !(s.isMasked q.r.val))
      let cur := x.owner.bind (fun o => if o.beat + 1 < o.beats then some o else none)
      cur = some o ∧ o.classD = false ∧ rrAfter l true x.lastD = none ∧ s.pausedB = false)
        ({ up with point := [(159, { pointInit with owner := some ⟨0, false, 2, 4⟩ })] }) (159) ([]) (⟨23, false, 4⟩) (⟨0, false, 2, 4⟩) ∧
    (fun (s : State) (pt : Fin 160) (rs : List LeashReq) (q : LeashReq) (o : Owner) =>
      let n := pt.val
      let x := s.pnt n
      let l := (addReqs x.reqs rs).filter (fun q => !(s.isMasked q.r.val))
      let cur := x.owner.bind (fun o => if o.beat + 1 < o.beats then some o else none)
      cur = some o ∧ o.classD = false ∧ rrAfter l true x.lastD = none ∧ s.pausedB = true)
        ({ up with point := [(159, { pointInit with owner := some ⟨0, false, 2, 4⟩ })] }.setFlag Key.lshPauseB 0 true) (159) ([])
        (⟨23, false, 4⟩) (⟨0, false, 2, 4⟩) ∧
    (fun (s : State) (pt : Fin 160) (rs : List LeashReq) (q : LeashReq) (o : Owner) =>
      let n := pt.val
      let x := s.pnt n
      let l := (addReqs x.reqs rs).filter (fun q => !(s.isMasked q.r.val))
      let cur := x.owner.bind (fun o => if o.beat + 1 < o.beats then some o else none)
      cur = none ∧ rrAfter l true x.lastD = none ∧ s.pausedB = true ∧ x.owner = none) (up.setFlag Key.lshPauseB 0 true) (159) ([])
        (⟨23, false, 4⟩) (⟨0, true, 0, 1⟩) ∧
    (fun (s : State) (pt : Fin 160) (rs : List LeashReq) (q : LeashReq) (o : Owner) (k : Nat) =>
      let n := pt.val
      let x := s.pnt n
      let l := (addReqs x.reqs rs).filter (fun q => !(s.isMasked q.r.val))
      let cur := x.owner.bind (fun o => if o.beat + 1 < o.beats then some o else none)
      let y := { x with owner := none, reqs := l }
      cur = none ∧ rrAfter l true x.lastD = none ∧ s.pausedB = false ∧ x.owner = none ∧ s.wrr y = some (q, k)) (up) (159)
        ([⟨23, false, 4⟩]) (⟨23, false, 4⟩) (⟨0, true, 0, 1⟩) (1) ∧
    (fun (s : State) (pt : Fin 160) (r : Fin 24) =>
      let n := pt.val
      let x := s.pnt n
      s.entN Key.lshStarveLimit ≤ tget 0 x.loss r.val ∧ tget 0 x.loss r.val < 2 ^ 32)
        ({ up with point := [(159, { pointInit with loss := [(23, 2 ^ 32 - 1)] })] }) (159) (23) ∧
    (fun (s : State) (r : Fin 24) =>
      s.present r.val = false) (up) (0) ∧
    (fun (s : State) (r : Fin 24) =>
      s.present r.val = true) (up.setUn (packUnit 0) { unitInit with released := true }) (0) := by
  refine ⟨?_, ?_, ?_, ?_, ?_, ?_, ?_, ?_⟩
  rotate_left 7
  refine ⟨?_, ?_, ?_, ?_⟩
  all_goals decide +kernel

theorem test_DmaChannels_meets :
    (fun (s : State) (rq : Requester) (n : Fin 272) =>
      let st := s.chSt n.val
      let rings := s.checkWho rq (Key.dmaDoorbell n.val) 0 = .ok
      rings ∧ st = 1) (dch 1 chanInit) (.root) (31) ∧
    (fun (s : State) (rq : Requester) (n : Fin 272) =>
      let st := s.chSt n.val
      let rings := s.checkWho rq (Key.dmaDoorbell n.val) 0 = .ok
      rings ∧ st = 0) (dch 0 chanInit) (.root) (31) ∧
    (fun (s : State) (rq : Requester) (n : Fin 272) =>
      let st := s.chSt n.val
      let rings := s.checkWho rq (Key.dmaDoorbell n.val) 0 = .ok
      rings ∧ 2 ≤ st) (dch 2 chanInit) (.root) (31) ∧
    (fun (s : State) (n : Fin 272) =>
      let x := s.ch n.val
      x.aheadBad = none ∧ x.ahead = [] ∧ x.reads = []) (dch 1 chanInit) (31) ∧
    (fun (s : State) (n : Fin 272) (e : Fin 9) (r : Xfer) =>
      let eng := tget ⟨63, 63⟩ s.engine e.val
      let canRead := fun k => if h : k < 272 then (s.readReady ⟨k, h⟩).isSome else false
      let rd := s.pickChan e.val eng.lastRead canRead
      let wr := s.pickChan e.val eng.lastWrite (fun k => (s.writeReady k).isSome)
      rd = some n.val ∧ s.readReady n = some r ∧ wr = none) ((dch 2 { chanInit with need := some .fetch })) (31) (0)
        ((((dch 2 { chanInit with need := some .fetch }).readReady 31).getD (xf .data 1 []))) ∧
    (fun (s : State) (m : Fin 272) (e : Fin 9) (w : Xfer) =>
      let eng := tget ⟨63, 63⟩ s.engine e.val
      let canRead := fun k => if h : k < 272 then (s.readReady ⟨k, h⟩).isSome else false
      let rd := s.pickChan e.val eng.lastRead canRead
      let wr := s.pickChan e.val eng.lastWrite (fun k => (s.writeReady k).isSome)
      rd = none ∧ wr = some m.val ∧ s.writeReady m.val = some w)
        ((dch 2 { chanInit with words := [w64 0, w64 (2 ^ 40 + 0x1802000000), 0x1802000000, w64 (2 ^ 63)], buf := [(0, (7, false))], rpos := 1 })) (31) (0) ((((dch 2 { chanInit with words := [w64 0, w64 (2 ^ 40 + 0x1802000000), 0x1802000000, w64 (2 ^ 63)], buf := [(0, (7, false))], rpos := 1 }).writeReady 31).getD (xf .data 1 []))) ∧
    (fun (s : State) (n : Fin 272) (m : Fin 272) (e : Fin 9) (r : Xfer) (w : Xfer) =>
      let eng := tget ⟨63, 63⟩ s.engine e.val
      let canRead := fun k => if h : k < 272 then (s.readReady ⟨k, h⟩).isSome else false
      let rd := s.pickChan e.val eng.lastRead canRead
      let wr := s.pickChan e.val eng.lastWrite (fun k => (s.writeReady k).isSome)
      rd = some n.val ∧ s.readReady n = some r ∧ wr = some m.val ∧ s.writeReady m.val = some w)
        ((dch 2 { chanInit with words := [w64 0, w64 (2 ^ 40 + 0x1802000000), 0x1802000000, w64 (2 ^ 63)], buf := [(0, (7, false))], rpos := 1, need := some .fetch })) (31) (31) (0) ((((dch 2 { chanInit with words := [w64 0, w64 (2 ^ 40 + 0x1802000000), 0x1802000000, w64 (2 ^ 63)], buf := [(0, (7, false))], rpos := 1, need := some .fetch }).readReady 31).getD (xf .data 1 []))) ((((dch 2 { chanInit with words := [w64 0, w64 (2 ^ 40 + 0x1802000000), 0x1802000000, w64 (2 ^ 63)], buf := [(0, (7, false))], rpos := 1, need := some .fetch }).writeReady 31).getD (xf .data 1 []))) ∧
    (fun (s : State) (e : Fin 9) (a : Nat) =>
      let eng := tget ⟨63, 63⟩ s.engine e.val
      let canRead := fun k => if h : k < 272 then (s.readReady ⟨k, h⟩).isSome else false
      let rd := s.pickChan e.val eng.lastRead canRead
      rd = some a) ((dch 2 { chanInit with need := some .fetch })) (0) (31) ∧
    (fun (s : State) (n : Fin 272) (r : Xfer) =>
      let x := s.ch n.val
      (x.reads.find? (fun t => t.kind != .data && t.kind != .table && !(isWindow t.addr)) = some r))
        (dch 2 { chanInit with reads := [xf .fetch 32 []] }) (31) (xf .fetch 32 []) ∧
    (fun (s : State) (n : Fin 272) (r : Xfer) =>
      let x := s.ch n.val
      (x.reads.find? (fun t => (t.kind == .data || t.kind == .table) && !(isWindow t.addr)) = some r))
        (dch 2 { chanInit with words := [w64 0, w64 (2 ^ 40 + 0x1802000000), 0x1802000000, w64 (2 ^ 63)], reads := [xf .data 1 []] })
        (31) (xf .data 1 []) ∧
    (fun (s : State) (n : Fin 272) (w : Xfer) =>
      let x := s.ch n.val
      (x.writes.find? (fun t => !(isWindow t.addr)) = some w))
        (dch 2 { chanInit with words := [w64 0, w64 (2 ^ 40 + 0x1802000000), 0x1802000000, w64 (2 ^ 63)], rpos := 1, reads := [xf .data 1 []], writes := [xf .data 1 [(7, false)]] }) (31) (xf .data 1 [(7, false)]) ∧
    (fun (s : State) (n : Fin 272) (r : Xfer) =>
      let x := s.ch n.val
      x.reads = [r] ∧ r.kind = .fetch ∧ r.len = 32 ∧ x.stop = false ∧ x.fail = none ∧ x.writes = [] ∧ isWindow r.addr = false ∧
        regionOf r.addr = .lm 0 ∧ s.accessOk (.dma n) r.addr 32 false = true ∧ s.clean ∧
        descInvalid (bytesWords 4 (s.bytes r.addr 32)) = false ∧ x.skip = 0)
        ({ dch 2 { chanInit with reads := [xf .fetch 32 []] } with mem := [(0x180200000D, 1)] }) (31) (xf .fetch 32 []) ∧
    (fun (s : State) (n : Fin 272) (r : Xfer) (w : Xfer) =>
      let x := s.ch n.val
      x.reads = [r] ∧ r.kind = .data ∧ x.stop = false ∧ x.fail = none ∧ x.writes = [w] ∧ isWindow r.addr = false ∧
        regionOf r.addr = .lm 0 ∧ s.accessOk (.dma n) r.addr r.len false = true ∧ s.clean)
        (dch 2 { chanInit with words := [w64 0, w64 (2 ^ 40 + 0x1802000000), 0x1802000000, w64 (2 ^ 63)], rpos := 1, reads := [xf .data 1 []], writes := [xf .data 1 [(7, false)]] }) (31) (xf .data 1 []) (xf .data 1 [(7, false)]) ∧
    (fun (s : State) (n : Fin 272) (r : Xfer) =>
      let x := s.ch n.val
      let st := s.chSt n.val
      x.reads = [r] ∧ r.kind = .data ∧ isWindow r.addr = false ∧ x.stop = false ∧ x.fail = none ∧ x.writes = [] ∧ st = 2 ∧ x.buf = [] ∧
        s.writeReady n.val = none)
        (dch 2 { chanInit with words := [w64 0, w64 (2 ^ 40 + 0x1802000000), 0x1802000000, w64 (2 ^ 63)], reads := [xf .data 1 []] })
        (31) (xf .data 1 []) ∧
    (fun (s : State) (n : Fin 272) (w : Xfer) =>
      let x := s.ch n.val
      (x.writes = [w] ∧ x.stop = false ∧ x.fail = none ∧ isWindow w.addr = false ∧ regionOf w.addr = .lm 0 ∧
        w.data.all (fun b => !b.2) = true ∧ s.accessOk (.dma n) w.addr w.data.length true = true ∧ s.clean))
        (dch 2 { chanInit with words := [w64 0, w64 (2 ^ 40 + 0x1802000000), 0x1802000000, w64 (2 ^ 63)], rpos := 1, reads := [xf .data 1 []], writes := [xf .data 1 [(7, false)]] }) (31) (xf .data 1 [(7, false)]) ∧
    (fun (s : State) (n : Fin 272) =>
      let x := s.ch n.val
      let st := s.chSt n.val
      x.stop = false ∧ st = 3 ∧ s.tokenless n = false ∧ x.after = none ∧ x.writes = []) (dch 3 chanInit) (31) ∧
    (fun (s : State) (n : Fin 272) (act : Nat) (code : Nat) =>
      let x := s.ch n.val
      let st := s.chSt n.val
      x.stop = false ∧ st = 3 ∧ s.tokenless n = false ∧ x.after = some (act, code)) (dch 3 { chanInit with after := some (2, 4) }) (31)
        (2) (4) ∧
    (fun (s : State) (n : Fin 272) =>
      let x := s.ch n.val
      x.stop = true) (dch 3 { chanInit with stop := true }) (31) ∧
    (fun (s : State) (n : Fin 272) =>
      let x := s.ch n.val
      s.merges = [] ∧ x.fail = none ∧ x.poison = false ∧ bit (x.words.getD 0 0) 29 = false ∧ bit (x.words.getD 0 0) 28 = false ∧
        endBit x.words = true)
        (dch 3 { chanInit with words := [w64 0, w64 (2 ^ 40 + 0x1802000000), 0x1802000000, w64 (2 ^ 63)], done := false }) (31) ∧
    (fun (s : State) (n : Fin 272) =>
      let x := s.ch n.val
      let st := s.chSt n.val
      let poll := s.entN (Key.dmaTailPoll (engOf n.val))
      st = 4 ∧ poll ≠ 0 ∧ poll ≤ 2 * (s.raw.toNat - x.pollRaw) ∧ x.need = none ∧ x.reads = [])
        ({ (dch 4 chanInit).setEnt (Key.dmaTailPoll 0) 1 with raw := 1 }) (31) ∧
    (fun (s : State) (rq : Requester) (n : Fin 272) (ix : BitVec 32) =>
      let x := s.ch n.val
      let st := s.chSt n.val
      let resume := fun (k : Nat) => s.checkWrite rq (Key.dmaResume n.val) (w64 (k * 2 ^ 62 + ix.toNat)) = .ok
      let may := st = 5 ∧ x.stop = false ∧ indexOk x.words ix.toNat = true
      resume 1 ∧ may) (dch 5 chanInit) (.root) (31) (0) ∧
    (fun (s : State) (rq : Requester) (n : Fin 272) (ix : BitVec 32) =>
      let x := s.ch n.val
      let st := s.chSt n.val
      let resume := fun (k : Nat) => s.checkWrite rq (Key.dmaResume n.val) (w64 (k * 2 ^ 62 + ix.toNat)) = .ok
      let may := st = 5 ∧ x.stop = false ∧ indexOk x.words ix.toNat = true
      resume 2 ∧ may ∧ ((x.done = true ∨ s.tokenless n = false))) (dch 5 chanInit) (.root) (31) (0) ∧
    (fun (s : State) (rq : Requester) (n : Fin 272) (ix : BitVec 32) =>
      let x := s.ch n.val
      let st := s.chSt n.val
      let resume := fun (k : Nat) => s.checkWrite rq (Key.dmaResume n.val) (w64 (k * 2 ^ 62 + ix.toNat)) = .ok
      let may := st = 5 ∧ x.stop = false ∧ indexOk x.words ix.toNat = true
      resume 3 ∧ may ∧ ((x.done = true ∨ s.tokenless n = false))) (dch 5 chanInit) (.root) (31) (0) ∧
    (fun (s : State) (rq : Requester) (n : Fin 272) (ix : BitVec 32) =>
      let x := s.ch n.val
      let st := s.chSt n.val
      let resume := fun (k : Nat) => s.checkWrite rq (Key.dmaResume n.val) (w64 (k * 2 ^ 62 + ix.toNat)) = .ok
      let may := st = 5 ∧ x.stop = false ∧ indexOk x.words ix.toNat = true
      resume 2 ∧ may ∧ x.done = false ∧ s.tokenless n = true)
        ((dch 5 { chanInit with words := [w64 (2 ^ 29), w64 (2 ^ 40)], done := false }).setQueue (.dma 31)
        (List.replicate 99 (.token ⟨0, 0⟩ 8 .none))) (.root) (31) (0) ∧
    (fun (s : State) (rq : Requester) (n : Fin 272) (ix : BitVec 32) =>
      let st := s.chSt n.val
      let resume := fun (k : Nat) => s.checkWrite rq (Key.dmaResume n.val) (w64 (k * 2 ^ 62 + ix.toNat)) = .ok
      resume 1 ∧ st ≠ 5) (dch 1 chanInit) (.root) (31) (0) ∧
    (fun (s : State) (rq : Requester) (n : Fin 272) =>
      let off := setBit (s.ent (Key.dmaCfg n.val)) 63 false
      s.checkWrite rq (Key.dmaCfg n.val) off = .ok) (dch 1 chanInit) (.root) (31) ∧
    (fun (s : State) (n : Fin 272) =>
      let x := s.ch n.val
      let st := s.chSt n.val
      st ≠ 0 ∧ x.reads = [] ∧ x.writes = [] ∧ x.done = true) (dch 2 chanInit) (31) := by
  refine ⟨?_, ?_, ?_, ?_, ?_, ?_, ?_, ?_⟩
  rotate_left 7
  refine ⟨?_, ?_, ?_, ?_, ?_, ?_, ?_, ?_⟩
  rotate_left 7
  refine ⟨?_, ?_, ?_, ?_, ?_, ?_, ?_, ?_⟩
  rotate_left 7
  refine ⟨?_, ?_, ?_, ?_, ?_, ?_⟩
  all_goals decide +kernel

theorem test_HoundOccasionsFloor_meets :
    (fun (s : State) (e : Fin 8) (w : Fin 16) (k : Nat) (b : Nat) =>
      let sw := s.swapBefore (.watch e) (fun s => (s.occasionNow e w.val).map (·.2))
      let c := wCarrier (sw.rowOf (.watch e) 0 w.val)
      sw.occasionNow e w.val = some (k, b) ∧ sw.partOfCarrier c ≠ sw.partOfPack e.val) ((hup 0).setEnt (Key.prtPacks 0) 0x80) (7) (15)
        (0) (0) ∧
    (fun (s : State) (e : Fin 8) (w : Fin 16) (k : Nat) (b : Nat) =>
      let sw := s.swapBefore (.watch e) (fun s => (s.occasionNow e w.val).map (·.2))
      let c := wCarrier (sw.rowOf (.watch e) 0 w.val)
      sw.occasionNow e w.val = some (k, b) ∧ sw.partOfCarrier c = sw.partOfPack e.val ∧ tfind (sw.lv (.watch e)).deferred w.val = none)
        (hup 0) (7) (15) (0) (0) ∧
    (fun (s : State) (e : Fin 8) (w : Fin 16) =>
      let sw := s.swapBefore (.watch e) (fun s => (s.occasionNow e w.val).map (·.2))
      sw.occasionNow e w.val = none) (up) (7) (15) ∧
    (fun (s : State) (e : Fin 8) (w : Fin 16) (o : Occ) =>
      let ending := (s.occsOf e w.val).find? (fun o => wType o.words != 3 && decide (o.time + wLength o.words ≤ s.now))
      ending = some o) (hocc 0 0) (7) (15) (⟨15, hrow 0, 0, 0⟩) ∧
    (fun (s : State) (e : Fin 8) (w : Fin 16) =>
      let h := s.hnd e.val
      ((∀ l, l < 16 → (h.l l).isOpen = false ∨ (h.l l).watch ≠ w.val))) (hocc 0 0) (7) (15) ∧
    (fun (s : State) (e : Fin 8) (w : Fin 16) (last : Nat) (o : Occ) (r : HoundOcc) (x : List (List C16)) =>
      let h := s.hnd e.val
      let y := h.w w.val
      let window := (s.occsOf e w.val).findSome? (fun o => if wType o.words ≠ 3 ∧
        s.houndRuns e.val (wType o.words) then (h.window o (y.run o.time)).map (fun q => (o, q)) else none)
      window = some (o, r, x, last)) ((hw 0 id)) (7) (15)
        (((((hw 0 id).hnd 7).window ⟨15, hrow 0, 0, 0⟩ ⟨0, [], [], 0, true, 0, 0, [], 0⟩).getD (⟨0, [], [], 0, true, 0, 0, [], 0⟩, [], 0)).2.2) (⟨15, hrow 0, 0, 0⟩) (((((hw 0 id).hnd 7).window ⟨15, hrow 0, 0, 0⟩ ⟨0, [], [], 0, true, 0, 0, [], 0⟩).getD (⟨0, [], [], 0, true, 0, 0, [], 0⟩, [], 0)).1) (((((hw 0 id).hnd 7).window ⟨15, hrow 0, 0, 0⟩ ⟨0, [], [], 0, true, 0, 0, [], 0⟩).getD (⟨0, [], [], 0, true, 0, 0, [], 0⟩, [], 0)).2.1) ∧
    (fun (s : State) (e : Fin 8) (w : Fin 16) =>
      let h := s.hnd e.val
      let y := h.w w.val
      y.seeded = false ∧ y.seedN < 15) (hw 0 id) (7) (15) ∧
    (fun (s : State) (e : Fin 8) (w : Fin 16) =>
      let h := s.hnd e.val
      let y := h.w w.val
      y.seeded = false ∧ y.seedN = 15) (hw 0 (fun x => { x with seedN := 15 })) (7) (15) ∧
    (fun (s : State) (e : Fin 8) (w : Fin 16) (o : Occ) (x : List (List C16)) =>
      let h := s.hnd e.val
      let y := h.w w.val
      let det := y.lf + 256 * (bf (wWord o.words 0) 47 40 : Nat)
      y.seeded = true ∧ energySum x ≠ 0 ∧ det ≤ 256 * levelFloor 20 (energySum x) (wWin o.words * wStreams o.words * 2 ^ 30) (-1) ∧
        det ≤ 256 * levelFloor 20 (energySum x) (wWin o.words * wStreams o.words * 2 ^ 30) 1)
        (hw 0 (fun x => { x with seeded := true, lf := -100000 })) (7) (15) (⟨15, hrow 0, 0, 0⟩) ([[0x00010001]]) ∧
    (fun (s : State) (e : Fin 8) (w : Fin 16) (o : Occ) (x : List (List C16)) =>
      let h := s.hnd e.val
      let y := h.w w.val
      let det := y.lf + 256 * (bf (wWord o.words 0) 47 40 : Nat)
      (y.seeded = true ∧ energySum x ≠ 0 ∧ 256 * levelFloor 20 (energySum x) (wWin o.words * wStreams o.words * 2 ^ 30) (-1) < det ∧
        256 * levelFloor 20 (energySum x) (wWin o.words * wStreams o.words * 2 ^ 30) 1 < det ∧ ∀ l, l < 16 → (h.l l).isOpen = false ∨
        (h.l l).watch ≠ w.val)) (hw 0 (fun x => { x with seeded := true, lf := 100000 })) (7) (15) (⟨15, hrow 0, 0, 0⟩) ([[0x00010001]]) ∧
    (fun (s : State) (e : Fin 8) (w : Fin 16) (o : Occ) (r : HoundOcc) =>
      let h := s.hnd e.val
      let y := h.w w.val
      let n := s.entN Key.hndFloorEscape
      let q := wSeqLen o.words
      n ≤ y.escN ∧ y.escN ≠ 0 ∧
        (y.runs.all (fun r => r.trigs.all (fun q => decide (q.1 < y.escFrom) || decide (y.escTo < q.1))) = true))
        ((hw 0 (fun x => { x with escN := 1, escSum := 5 })).setEnt Key.hndFloorEscape 1) (7) (15) (⟨15, hrow 0, 0, 0⟩)
        (⟨0, [], [], 0, true, 0, 0, [], 0⟩) ∧
    (fun (s : State) (e : Fin 8) (w : Fin 16) (at_ : Nat) (o : Occ) (lv : Int) =>
      let h := s.hnd e.val
      let y := h.w w.val
      let due := (s.occsOf e w.val).findSome? (fun o => if wType o.words ≠ 3 ∧
        s.houndRuns e.val (wType o.words) then (h.dueInterval o (y.run o.time)).map (fun q => (o, q)) else none)
      due = some (o, at_, lv)) (hw 0 (fun x => { x with runs := [⟨0, [], [(0, 7)], 0, true, 0, 0, [], 0⟩] })) (7) (15) (0)
        (⟨15, hrow 0, 0, 0⟩) (7) ∧
    (fun (s : State) (e : Fin 8) (at_ : Nat) (o : Occ) =>
      let h := s.hnd e.val
      let q := wSeqLen o.words
      let xs := (wSlots o.words).map (fun m => let l := (h.symbolOf m q at_ (at_ + wSym o.words)).map sampleOr0; List.replicate (q - l.length) 0 ++ l)
      let ar := s.arrivals e o.words xs
      ar.2 = []) (hw 0 (fun x => { x with runs := [⟨0, [], [(0, 7)], 0, true, 0, 0, [], 0⟩] })) (7) (0) (⟨15, hrow 0, 0, 0⟩) ∧
    (fun (s : State) (e : Fin 8) (w : Fin 16) (o : Occ) =>
      let h := s.hnd e.val
      let y := h.w w.val
      let due := (s.occsOf e w.val).findSome? (fun o => if wType o.words ≠ 3 ∧
        s.houndRuns e.val (wType o.words) then (h.dueInterval o (y.run o.time)).map (fun q => (o, q)) else none)
      due = none) (hw 0 id) (7) (15) (⟨15, hrow 0, 0, 0⟩) := by
  refine ⟨?_, ?_, ?_, ?_, ?_, ?_, ?_, ?_⟩
  rotate_left 7
  refine ⟨?_, ?_, ?_, ?_, ?_, ?_, ?_⟩
  all_goals decide +kernel

theorem test_HoundLanesSensing_meets :
    (fun (s : State) (e : Fin 8) (l : Fin 16) =>
      let h := s.hnd e.val
      let y := h.l l.val
      let a := y.start + y.syms * wSym y.latched
      let b := a + wSym y.latched
      let comes := y.isOpen = true ∧ y.fadeDue = false ∧ b ≤ y.winEnd ∧
        (wSlots y.latched).all (fun m => decide (b ≤ (h.line m).till)) = true
      comes ∧ y.syms < wBurst y.latched) (hl id) (7) (15) ∧
    (fun (s : State) (e : Fin 8) (l : Fin 16) =>
      let h := s.hnd e.val
      let y := h.l l.val
      let a := y.start + y.syms * wSym y.latched
      let b := a + wSym y.latched
      let comes := y.isOpen = true ∧ y.fadeDue = false ∧ b ≤ y.winEnd ∧
        (wSlots y.latched).all (fun m => decide (b ≤ (h.line m).till)) = true
      comes ∧ y.syms = 0 ∧ 1 < wBurst y.latched) (hl id) (7) (15) ∧
    (fun (s : State) (e : Fin 8) (l : Fin 16) =>
      let h := s.hnd e.val
      let y := h.l l.val
      let n := wSymLen y.latched
      let a := y.start + y.syms * wSym y.latched
      let b := a + wSym y.latched
      let qs := (wSlots y.latched).map (fun m => h.symbolOf m n a b)
      let gap := qs.any (fun q => q.length != n || q.any (·.1.2.isNone))
      let comes := y.isOpen = true ∧ y.fadeDue = false ∧ b ≤ y.winEnd ∧
        (wSlots y.latched).all (fun m => decide (b ≤ (h.line m).till)) = true
      comes ∧ y.syms = 0 ∧ wBurst y.latched = 1 ∧ y.gap = false ∧ gap = false)
        (hl (fun x => { x with latched := (hrow 0).set 5 (w64 (2 ^ 48 + 2 ^ 40 + 1)), start := nsT 5000 })) (7) (15) ∧
    (fun (s : State) (e : Fin 8) (l : Fin 16) =>
      let h := s.hnd e.val
      let y := h.l l.val
      y.isOpen = true ∧ y.fadeDue = true) (hl (fun x => { x with fadeDue := true })) (7) (15) ∧
    (fun (s : State) (e : Fin 8) (i : Item) (is : List Item) =>
      let h := s.hnd e.val
      s.creditOf (.hound e) ≠ 0 ∧ h.templates = i :: is) ((hup 0).setHnd 7 { houndInit with templates := [.token ⟨0, 0⟩ 8 .none] }) (7)
        ((.token ⟨0, 0⟩ 8 .none)) ([]) ∧
    (fun (s : State) (e : Fin 8) (l : Fin 16) (tk : HoundTok) =>
      let h := s.hnd e.val
      s.creditOf (.hound e) ≠ 0 ∧ h.templates = [] ∧
        ((List.range 17).findSome? (fun l => (h.tokens.find? (fun t => t.lane == l)).filter (fun t => !t.waiting)) = some tk))
        ((hup 0).setHnd 7 { houndInit with tokens := [⟨16, 0, 15, false, ⟨1, 0⟩⟩] }) (7) (15) (⟨16, 0, 15, false, ⟨1, 0⟩⟩) ∧
    (fun (s : State) (e : Fin 8) =>
      s.creditOf (.hound e) = 0) (up.setQueue (.hound 7) (List.replicate 99 (.token ⟨0, 0⟩ 8 .none))) (7) ∧
    (fun (s : State) (rq : Requester) (e : Fin 8) (tag : BitVec 32) =>
      s.checkWrite rq (Key.hndVerdict e.val) (w64 (2 ^ 62 + tag.toNat)) = .ok ∧ tag.toNat / 2 ^ 29 = e.val) (up) (.root) (7) (0xE0000000) ∧
    (fun (s : State) (rq : Requester) (e : Fin 8) (w : Fin 16) =>
      let ws := s.rowOf (.watch e) 0 w.val
      s.checkWrite rq (Key.hndVerdict e.val) (w64 (2 ^ 63 + w.val)) = .ok ∧ wType ws = 3) (hup 3) (.root) (7) (15) ∧
    (fun (s : State) (rq : Requester) (e : Fin 8) (w : Fin 16) =>
      let ws := s.rowOf (.watch e) 0 w.val
      s.checkWrite rq (Key.hndVerdict e.val) (w64 (3 * 2 ^ 62 + w.val)) = .ok ∧ wType ws = 3) (hup 3) (.root) (7) (15) ∧
    (fun (s : State) (e : Fin 8) (w : Fin 16) (o : Occ) (r : HoundOcc) =>
      let h := s.hnd e.val
      let slot := (s.occsOf e w.val).findSome? (fun o => if s.houndRuns e.val 3 then h.sense o ((h.w w.val).run o.time) else none)
      slot = some r) (hocc 3 0) (7) (15) (⟨15, hrow 0, 0, 0⟩)
        (((((hocc 3 0).hnd 7).sense ⟨15, hrow 3, 0, 0⟩ ⟨0, [], [], 0, true, 0, 0, [], 0⟩).getD ⟨0, [], [], 0, true, 0, 0, [], 0⟩)) ∧
    (fun (r : HoundOcc) =>
      r.inDefer = false ∧ 0 < r.n) (⟨0, [], [], 1, false, 0, 0, [], 0⟩) ∧
    (fun (s : State) (e : Fin 8) (w : Fin 16) (o : Occ) =>
      let h := s.hnd e.val
      let ended := (s.occsOf e w.val).find? (fun o => wType o.words == 3 && decide (o.time + wLength o.words ≤ s.now))
      let clear := senseClear o.words (h.measure o ((h.w w.val).run o.time) ((bf (wWord o.words 2) 31 0 - 3000) / 1000))
      ended = some o ∧ clear = true) (hocc 3 0) (7) (15) (⟨15, hrow 3, 0, 0⟩) ∧
    (fun (s : State) (e : Fin 8) (w : Fin 16) (o : Occ) =>
      let h := s.hnd e.val
      let ended := (s.occsOf e w.val).find? (fun o => wType o.words == 3 && decide (o.time + wLength o.words ≤ s.now))
      let clear := senseClear o.words (h.measure o ((h.w w.val).run o.time) ((bf (wWord o.words 2) 31 0 - 3000) / 1000))
      ended = some o ∧ clear = false) (hocc 3 0x7FFF7FFF) (7) (15) (⟨15, hrow 3, 0, 0⟩) := by
  refine ⟨?_, ?_, ?_, ?_, ?_, ?_, ?_, ?_⟩
  rotate_left 7
  refine ⟨?_, ?_, ?_, ?_, ?_, ?_, ?_⟩
  all_goals decide +kernel

theorem test_AcceleratorJobs_meets :
    (jobMeets 13 0 (job0 13 0 (128 * 2 ^ 16) (12 * 2 ^ 48)) = true ∧ jobMeets 10 1 (job0 10 1 (128 * 2 ^ 16) (12 * 2 ^ 48)) = true) ∧
    (jobMeets 10 2 (job0 10 2 (12 * 2 ^ 16) 0) = true ∧ jobMeets 13 3 (job0 13 3 (12 * 2 ^ 16) 0) = true) ∧
    (jobMeets 14 0 (jobE 14 0) = true ∧ jobMeets 15 1 (jobE 15 1) = true ∧ jobMeets 15 2 (jobE 15 2) = true) ∧
    (jobMeets 16 0 (job0 16 0 0 (2 ^ 48 + 2 ^ 40 + 2 ^ 32)) = true ∧
        jobMeets 16 1 (job 16 1 0 (12 * 2 ^ 48 + 2 ^ 40 + 2 ^ 32 + 2 ^ 24) []) = true) ∧
    (jobMeets 5 0 (job 5 0 0 0x1800006000 (cblk 24 2 1)) = true ∧
        tfind (job 5 0 0 0x1800006000 (cblk 24 2 1)).decode (jobKey 0 5) = none ∧
        jobMeets 5 1 (job 5 1 0 0x1800006000 (cblk 24 2 1)) = true) ∧
    (jobMeets 7 0 (job 7 0 0 0 (cblk 24 2 0)) = true) ∧
    (jobMeets 8 0 (job 8 0 0 0x1800006000 (cblk 40 0 1)) = true ∧ jobMeets 8 1 (job 8 1 0 0 (cblk 40 0 0)) = true ∧
        jobMeets 8 2 (job 8 2 0 0x1800006000 (cblk 40 0 1)) = true) ∧
    ((tfind ({ up with decode := [(jobKey 0 8, ⟨0, 7, [], [], [], false, false, none, [], 0⟩)] } : State).decode (jobKey 0 8)).any (fun j => j.cur.isNone) = true) ∧
    ((tfind ({ up with decode := [(jobKey 0 8, ⟨0, 7, [], [], [], false, false, some ⟨⟨false, [], 0, 0, 0⟩, 0, [], [], [], [], 0, [], 0⟩, [], 0⟩)] } : State).decode (jobKey 0 8)).any (fun j => j.cur.isSome) = true) ∧
    (cdArgsOk ((job0 5 0 0 0).entry 0 7) true = false) ∧
    (jobMeets 9 0 (job 9 0 0 0x1800006000 pblk) = true ∧ jobMeets 9 1 (job 9 1 0 0 pblk) = true) ∧
    (dftOk ((job0 10 2 (13 * 2 ^ 16) 0).entry 0 7) = false) := by
  refine ⟨?_, ?_, ?_, ?_, ?_, ?_, ?_, ?_⟩
  rotate_left 7
  refine ⟨?_, ?_, ?_, ?_, ?_⟩
  all_goals decide +kernel

theorem test_AcceleratorCompletion_meets :
    (fun (s : State) (p : Fin 8) (k : Fin 17) (j : Job) =>
      let key := jobKey p.val k.val
      let runs := fun (j : Job) => (s.entry j.pack j.entry).st = .running ∧ (s.entry j.pack j.entry).unit = accUnit p.val k.val
      tfind s.job key = some j ∧ runs j) ({ job0 13 0 0 0 with job := [(jobKey 0 13, ⟨0, 7, 0, 0, false, 0, 0⟩)] }) (0) (13)
        (⟨0, 7, 0, 0, false, 0, 0⟩) ∧
    (fun (s : State) (p : Fin 8) (k : Fin 17) (j : Job) =>
      let key := jobKey p.val k.val
      let runs := fun (j : Job) => (s.entry j.pack j.entry).st = .running ∧ (s.entry j.pack j.entry).unit = accUnit p.val k.val
      tfind s.job key = some j ∧ (¬ runs j)) ({ job0 13 0 0 0 with job := [(jobKey 0 13, ⟨0, 8, 0, 0, false, 0, 0⟩)] }) (0) (13)
        (⟨0, 8, 0, 0, false, 0, 0⟩) ∧
    (fun (s : State) (p : Fin 8) (k : Fin 17) (j : Job) (q : Nat) (i : Nat) =>
      let key := jobKey p.val k.val
      let runs := fun (j : Job) => (s.entry j.pack j.entry).st = .running ∧ (s.entry j.pack j.entry).unit = accUnit p.val k.val
      let bad : Job := ⟨q, i, 1, 0, false, 0, 0⟩
      tfind s.job key = none ∧ s.segment = [] ∧ s.taskOn (accUnit p.val k.val) = some (q, i) ∧ runs bad ∧
        accelOps k.val ≤ (s.entry q i).desc.op) ((job0 9 2 0 0)) (0) (9) (⟨0, 7, 0, 0, false, 0, 0⟩) (0) (7) := by
  refine ⟨?_, ?_, ?_⟩
  all_goals decide +kernel

theorem test_TransformArithmetic_meets :
    (0 : Nat) < (ds 0 0 0).n ∨ (11 : Nat) < (⟨0, 0, 0, 12 * 2 ^ 16, 0, 0, 0, 0⟩ : Desc).n := by decide +kernel

theorem test_TransmitShaping_meets :
    (fun (s : State) (c : Fin 384) (n : Fin 4096) (l : Fin 14) (seq : Nat) =>
      let x := s.str n.val
      let live := x.en = true ∧ x.tx = true ∧ x.carrier = c.val ∧ l.val < x.nsym
      live ∧ x.kind = skCpri ∧ s.seqOf x (s.slotCount x (s.now + nsT (s.fld (Key.cpriCfg x.port) 19 0))) = some seq)
        ({ fhN 0 (2 ^ 62 + 2 * 2 ^ 60) id with carrier := [(383, ⟨0, [⟨5, 0, false⟩], false⟩)] }) (383) (0) (0) (5) ∧
    (fun (s : State) (w : State) (c : Fin 384) (n : Fin 4096) (l : Fin 14) (seq : Nat) (sl : Nat) (sfn : Nat) =>
      let x := s.str n.val
      let live := x.en = true ∧ x.tx = true ∧ x.carrier = c.val ∧ l.val < x.nsym
      let win := (s.winOcc x l.val).bind (fun o => s.winSlot x o 0)
      live ∧ x.kind ≠ skCpri ∧ win = some (seq, sl, sfn) ∧ s.ready x seq = (w, true))
        (((((fwin 0 (fhN 0 (2 ^ 62) id)).setUn 576 { unitInit with released := true }).setEnt (Key.prtPacks 0) 1).store 0x1800000000 [5, 0, 0, 0, 0, 0, 0, 0x80])) ((((((fwin 0 (fhN 0 (2 ^ 62) id)).setUn 576 { unitInit with released := true }).setEnt (Key.prtPacks 0) 1).store 0x1800000000 [5, 0, 0, 0, 0, 0, 0, 0x80]).ready (((((fwin 0 (fhN 0 (2 ^ 62) id)).setUn 576 { unitInit with released := true }).setEnt (Key.prtPacks 0) 1).store 0x1800000000 [5, 0, 0, 0, 0, 0, 0, 0x80]).str 0) 5).1) (383) (0) (0) (5) (0) (0) ∧
    (fun (s : State) (w : State) (c : Fin 384) (n : Fin 4096) (l : Fin 14) (seq : Nat) (sl : Nat) (sfn : Nat) =>
      let x := s.str n.val
      let live := x.en = true ∧ x.tx = true ∧ x.carrier = c.val ∧ l.val < x.nsym
      let win := (s.winOcc x l.val).bind (fun o => s.winSlot x o 0)
      live ∧ x.kind ≠ skCpri ∧ win = some (seq, sl, sfn) ∧ s.ready x seq = (w, false)) ((fwin 0 (fhN 0 (2 ^ 62) id)))
        (((fwin 0 (fhN 0 (2 ^ 62) id)).ready ((fwin 0 (fhN 0 (2 ^ 62) id)).str 0) 5).1) (383) (0) (0) (5) (0) (0) ∧
    (fun (s : State) (l : Fin 14) (seq : Nat) (m : Nat) (h : Shaped) (y : Str) =>
      let t := s.txs y.carrier m
      (t.hist.find? (fun q => q.slot == s.countOf y seq && q.symbol == l.val) = some h))
        (((up.setTxs 383 0 ⟨true, [], 0, [⟨0, 0, true, []⟩]⟩))) (0) (0) (0) (⟨0, 0, true, []⟩) (⟨w64 (383 * 2 ^ 44), 0, 0, 0⟩) ∧
    (fun (s : State) (l : Fin 14) (seq : Nat) (m : Nat) (y : Str) =>
      let t := s.txs y.carrier m
      (t.hist.find? (fun q => q.slot == s.countOf y seq && q.symbol == l.val) = none) ∧ s.txEn y.carrier = false) (up) (0) (0) (0)
        (⟨w64 (383 * 2 ^ 44), 0, 0, 0⟩) ∧
    (fun (s : State) (l : Fin 14) (k : Nat) (y : Str) =>
      let cfg := s.ent (Key.txCfg y.carrier)
      let g := txStr cfg
      let air := s.txAir y.carrier k l.val
      let pattern := y.kind = skOran ∨ s.tddOn y.carrier (k % g.slots) l.val = true
      let gate := bit cfg 62 = false ∨ s.gateCovers y.carrier air (air + samplesT cfg (g.symLen (k % g.slots) l.val)) = true
      pattern ∧ gate) (((up.setEnt (Key.txCfg 383)
        (w64 (2 ^ 63 + 2 ^ 16))).setFlag (Key.txTdd 383 0) 0 true).setTxs 383 0 ⟨true, [], 0, []⟩) (0) (0)
        (⟨w64 (2 ^ 60 + 383 * 2 ^ 44), 0, 0, 0⟩) ∧
    (fun (s : State) (l : Fin 14) (k : Nat) (y : Str) =>
      let cfg := s.ent (Key.txCfg y.carrier)
      let g := txStr cfg
      let air := s.txAir y.carrier k l.val
      let pattern := y.kind = skOran ∨ s.tddOn y.carrier (k % g.slots) l.val = true
      let gate := bit cfg 62 = false ∨ s.gateCovers y.carrier air (air + samplesT cfg (g.symLen (k % g.slots) l.val)) = true
      pattern ∧ gate) (((up.setEnt (Key.txCfg 383)
        (w64 (2 ^ 63 + 2 ^ 16))).setFlag (Key.txTdd 383 0) 0 true).setTxs 383 0 ⟨true, [], 0, []⟩) (0) (0)
        (⟨w64 (2 ^ 60 + 383 * 2 ^ 44), 0, 0, 0⟩) ∧
    (fun (s : State) (l : Fin 14) (k : Nat) (m : Nat) (y : Str) =>
      let t := s.txs y.carrier m
      let cfg := s.ent (Key.txCfg y.carrier)
      let g := txStr cfg
      let air := s.txAir y.carrier k l.val
      let pattern := y.kind = skOran ∨ s.tddOn y.carrier (k % g.slots) l.val = true
      let gate := bit cfg 62 = false ∨ s.gateCovers y.carrier air (air + samplesT cfg (g.symLen (k % g.slots) l.val)) = true
      pattern ∧ gate ∧ t.lastOn = true) (((up.setEnt (Key.txCfg 383)
        (w64 (2 ^ 63 + 2 ^ 16))).setFlag (Key.txTdd 383 0) 0 true).setTxs 383 0 ⟨true, [], 0, []⟩) (0) (0) (0)
        (⟨w64 (2 ^ 60 + 383 * 2 ^ 44), 0, 0, 0⟩) ∧
    (fun (s : State) (l : Fin 14) (k : Nat) (y : Str) =>
      let cfg := s.ent (Key.txCfg y.carrier)
      let g := txStr cfg
      let air := s.txAir y.carrier k l.val
      let pattern := y.kind = skOran ∨ s.tddOn y.carrier (k % g.slots) l.val = true
      let gate := bit cfg 62 = false ∨ s.gateCovers y.carrier air (air + samplesT cfg (g.symLen (k % g.slots) l.val)) = true
      pattern ∧ (¬ gate)) ((up.setEnt (Key.txCfg 383) (w64 (2 ^ 63 + 2 ^ 16+ 1 * 2 ^ 62)))) (0) (0) (⟨w64 (383 * 2 ^ 44), 0, 0, 0⟩) ∧
    (fun (s : State) (l : Fin 14) (k : Nat) (y : Str) =>
      let cfg := s.ent (Key.txCfg y.carrier)
      let g := txStr cfg
      let air := s.txAir y.carrier k l.val
      let pattern := y.kind = skOran ∨ s.tddOn y.carrier (k % g.slots) l.val = true
      let gate := bit cfg 62 = false ∨ s.gateCovers y.carrier air (air + samplesT cfg (g.symLen (k % g.slots) l.val)) = true
      pattern ∧ (¬ gate)) ((up.setEnt (Key.txCfg 383) (w64 (2 ^ 63 + 2 ^ 16+ 1 * 2 ^ 62)))) (0) (0) (⟨w64 (383 * 2 ^ 44), 0, 0, 0⟩) ∧
    (fun (s : State) (l : Fin 14) (k : Nat) (m : Nat) (y : Str) =>
      let t := s.txs y.carrier m
      let cfg := s.ent (Key.txCfg y.carrier)
      let g := txStr cfg
      let air := s.txAir y.carrier k l.val
      let pattern := y.kind = skOran ∨ s.tddOn y.carrier (k % g.slots) l.val = true
      let gate := bit cfg 62 = false ∨ s.gateCovers y.carrier air (air + samplesT cfg (g.symLen (k % g.slots) l.val)) = true
      pattern ∧ (¬ gate) ∧ t.lastOn = false) ((up.setEnt (Key.txCfg 383) (w64 (2 ^ 63 + 2 ^ 16+ 1 * 2 ^ 62)))) (0) (0) (0)
        (⟨w64 (383 * 2 ^ 44), 0, 0, 0⟩) ∧
    (fun (s : State) (rq : Requester) (c : Fin 384) (v : U64) =>
      let kc := Key.txCfg c.val
      s.checkWrite rq kc v = .ok ∧ s.flag kc 63 = false ∧ s.txCfgOk c.val v = true) (up) (.root) (383) (w64 (2 ^ 63 + 2 ^ 16)) ∧
    (fun (s : State) (rq : Requester) (c : Fin 384) (v : U64) =>
      let kc := Key.txCfg c.val
      s.checkWrite rq kc v = .ok ∧ s.flag kc 63 = false ∧ bit v 63 = true ∧ s.txCfgOk c.val v = false) (up) (.root) (383) (w64 (2 ^ 63)) ∧
    (fun (s : State) (rq : Requester) (c : Fin 384) (v : U64) =>
      let kc := Key.txCfg c.val
      s.checkWrite rq kc v = .ok ∧ s.flag kc 63 = true ∧ setBit (s.ent kc) 63 false ≠ setBit v 63 false) ((up.setEnt (Key.txCfg 383)
        (w64 (2 ^ 63 + 2 ^ 16)))) (.root) (383) (w64 (2 ^ 62)) := by
  refine ⟨?_, ?_, ?_, ?_, ?_, ?_, ?_, ?_⟩
  rotate_left 7
  refine ⟨?_, ?_, ?_, ?_, ?_, ?_, ?_⟩
  all_goals decide +kernel

theorem test_FlowContexts_meets :
    (fun (s : State) (n : Fin 256) =>
      (s.ringEn n.val = true ∧ s.ringType n.val < 2 ∧ meets (s.readNum .flow (s.ringBase 255) 8)
        (fun t v => ({ t with ringTaken := tput t.ringTaken 255 (v % 2 ^ 32) }.ringFront 255).2.isNone) = true))
        ((rg 1 [] |>.store 0x1000000 [1])) (255) ∧
    (fun (s : State) (n : Fin 256) =>
      (s.ringEn n.val = true ∧ s.ringType n.val < 2 ∧ meets (s.readNum .flow (s.ringBase 255) 8)
        (fun t v => ({ t with ringTaken := tput t.ringTaken 255 (v % 2 ^ 32) }.ringFront 255).2.any (fun (e : REntry) => !(opOk 1 e.op))) = true)) ((rg 1 (rent 0x30 0 []) |>.store 0x1000000 [2])) (255) ∧
    (fun (s : State) =>
      (fronts s 0x10 (fun t e => meets (t.flRead e.addr 512) (fun _ b => !b.2)) = true)) ((rg 1 (rent 0x10 0 []))) ∧
    (fun (s : State) =>
      (fronts s 0x11 (fun t e => minef (t.touchFlow (e.arg 24 4)) e && ((t.touchFlow (e.arg 24 4)).fl (e.arg 24 4)).st != .closing) = true)) (((fctx (rg 1 (rent 0x11 0 [0xFF, 0xFF, 0x0F, 0])) id))) ∧
    (fun (s : State) =>
      (fronts s 0x11 (fun t e => gonef (t.touchFlow (e.arg 24 4)) e) = true)) ((rg 1 (rent 0x11 0 [0xFF, 0xFF, 0x0F, 0]))) ∧
    (fun (s : State) =>
      (fronts s 0x11 (fun t e => decide (e.arg 24 4 < ctxCount) && ((t.touchFlow (e.arg 24 4)).fl (e.arg 24 4)).st != .free && ((t.touchFlow (e.arg 24 4)).fl (e.arg 24 4)).hdr.owner != 0) = true)) (((fctx (rg 1 (rent 0x11 0 [0xFF, 0xFF, 0x0F, 0])) (fun x => { x with hdr := { x.hdr with owner := 7 } })))) ∧
    (fun (s : State) (n : Fin 256) (f : BitVec 20) =>
      (s.fl f.toNat).st = .closing ∧ (s.fl f.toNat).closeRing = some n.val ∧ ((s.freeFlow f.toNat).ringFront n.val).2.isSome = true)
        (((((fctx (rg 1 (rent 0x11 0 [0xFF, 0xFF, 0x0F, 0]))
        (fun x => { x with st := .closing, closeRing := some 255 })))).setEnt Key.flCtxBase 0x8000000000)) (255) (0xFFFFF) ∧
    (fun (s : State) =>
      (fronts s 0x15 (fun t e => minef (t.touchFlow (e.arg 24 4)) e && meets ((t.touchFlow (e.arg 24 4)).flRead e.addr 64)
        (fun _ b => !b.2)) = true)) (((fctx (rg 1 (rent 0x15 0 [0xFF, 0xFF, 0x0F, 0])) id))) ∧
    (fun (s : State) =>
      (fronts s 0x15 (fun t e => gonef (t.touchFlow (e.arg 24 4)) e) = true)) ((rg 1 (rent 0x15 0 [0xFF, 0xFF, 0x0F, 0]))) ∧
    (fun (s : State) =>
      (fronts s 0x15 (fun t e => decide (e.arg 24 4 < ctxCount) && ((t.touchFlow (e.arg 24 4)).fl (e.arg 24 4)).st != .free && ((t.touchFlow (e.arg 24 4)).fl (e.arg 24 4)).hdr.owner != 0) = true)) (((fctx (rg 1 (rent 0x15 0 [0xFF, 0xFF, 0x0F, 0])) (fun x => { x with hdr := { x.hdr with owner := 7 } })))) ∧
    (fun (s : State) =>
      (fronts s 0x14 (fun t e => minef (t.touchFlow (e.arg 24 4)) e && ((t.touchFlow (e.arg 24 4)).busWrite .flow e.addr (patch ((t.touchFlow (e.arg 24 4)).fl (e.arg 24 4)).bytes 64 (List.replicate 64 0)) false).2) = true)) (((fctx (rg 1 (rent 0x14 0 [0xFF, 0xFF, 0x0F, 0])) id))) ∧
    (fun (s : State) =>
      (fronts s 0x14 (fun t e => gonef (t.touchFlow (e.arg 24 4)) e) = true)) ((rg 1 (rent 0x14 0 [0xFF, 0xFF, 0x0F, 0]))) ∧
    (fun (s : State) =>
      (fronts s 0x14 (fun t e => decide (e.arg 24 4 < ctxCount) && ((t.touchFlow (e.arg 24 4)).fl (e.arg 24 4)).st != .free && ((t.touchFlow (e.arg 24 4)).fl (e.arg 24 4)).hdr.owner != 0) = true)) (((fctx (rg 1 (rent 0x14 0 [0xFF, 0xFF, 0x0F, 0])) (fun x => { x with hdr := { x.hdr with owner := 7 } })))) ∧
    (fun (s : State) =>
      (fronts s 0x16 (fun t e => decide (e.carrier ≤ 383) && decide (e.arg 24 1 < 8) && !(t.flow.any (fun g => g.2.hdr.carrier == e.carrier && g.2.hdr.owner != 0) || t.allEntries.any (fun q => t.entryCarrier (t.teAt q) == e.carrier && teOwner (t.teAt q) != 0))) = true)) ((fctx (rg 1 (rent 0x16 0 [7])) id)) ∧
    (fun (s : State) =>
      (fronts s 0x16 (fun t e => decide (e.carrier ≤ 383) && decide (e.arg 24 1 < 8) && (t.flow.any (fun g => g.2.hdr.carrier == e.carrier && g.2.hdr.owner != 0) || t.allEntries.any (fun q => t.entryCarrier (t.teAt q) == e.carrier && teOwner (t.teAt q) != 0))) = true)) ((fctx (rg 1 (rent 0x16 0 [7])) (fun x => { x with hdr := { x.hdr with owner := 7 } }))) ∧
    (fun (s : State) =>
      (fronts s 0x16 (fun t e => decide (8 ≤ e.arg 24 1)) = true)) ((rg 1 (rent 0x16 0 [8]))) ∧
    (fun (s : State) =>
      (fronts s 0x16 (fun t e => (tfind (t.reownCarrier e.carrier 7).1.flow (2 ^ 20 - 1)).isSome && (t.fl (2 ^ 20 - 1)).hdr.carrier == e.carrier) = true)) ((fctx (rg 1 (rent 0x16 0 [7])) id)) := by
  refine ⟨?_, ?_, ?_, ?_, ?_, ?_, ?_, ?_⟩
  rotate_left 7
  refine ⟨?_, ?_, ?_, ?_, ?_, ?_, ?_, ?_⟩
  rotate_left 7
  refine ⟨?_, ?_, ?_⟩
  all_goals decide +kernel

theorem test_FlowPacketsKeys_meets :
    (fun (s : State) =>
      (fronts s 0x12 (fun t e => minef2 (t.touchFlow (e.arg 28 4)) e && decide (e.arg 24 1 < 3) && ((t.touchFlow (e.arg 28 4)).lookup (e.arg 24 1) ((e.b.drop 32).take 16)).isNone) = true)) ((fctx (rg 1 (rent 0x12 0 [2, 0, 0, 0, 0xFF, 0xFF, 0x0F, 0, 1])) id)) ∧
    (fun (s : State) =>
      (fronts s 0x12 (fun t e => minef2 (t.touchFlow (e.arg 28 4)) e && decide (e.arg 24 1 < 3) && ((t.touchFlow (e.arg 28 4)).lookup (e.arg 24 1) ((e.b.drop 32).take 16)).isSome) = true)) ((fctx ({ rg 1 (rent 0x12 0 [2, 0, 0, 0, 0xFF, 0xFF, 0x0F, 0, 1]) with stash := [(255, teMake 2 0 (2 ^ 20 - 1) (1 :: List.replicate 15 0))] }) id)) ∧
    (fun (s : State) =>
      (fronts s 0x12 (fun t e => decide (3 ≤ e.arg 24 1)) = true)) ((rg 1 (rent 0x12 0 [3, 0, 0, 0, 0xFF, 0xFF, 0x0F, 0, 1]))) ∧
    (fun (s : State) =>
      (fronts s 0x13 (fun t e => (t.lookup (e.arg 24 1)
        ((e.b.drop 32).take 16)).any (fun q => teOwner (t.teAt q) == t.ringOwner 255)) = true))
        (({ rg 1 (rent 0x13 0 [2, 0, 0, 0, 0xFF, 0xFF, 0x0F, 0, 1]) with stash := [(255, teMake 2 0 (2 ^ 20 - 1) (1 :: List.replicate 15 0))] })) ∧
    (fun (s : State) =>
      (fronts s 0x13 (fun t e => (t.lookup (e.arg 24 1)
        ((e.b.drop 32).take 16)).any (fun q => teOwner (t.teAt q) != t.ringOwner 255)) = true))
        (({ rg 1 (rent 0x13 0 [2, 0, 0, 0, 0xFF, 0xFF, 0x0F, 0, 1]) with stash := [(255, teMake 2 7 (2 ^ 20 - 1) (1 :: List.replicate 15 0))] })) ∧
    (fun (s : State) =>
      (fronts s 0x13 (fun t e => decide (e.arg 24 1 < 3) && (t.lookup (e.arg 24 1) ((e.b.drop 32).take 16)).isNone) = true))
        ((rg 1 (rent 0x13 0 [2, 0, 0, 0, 0xFF, 0xFF, 0x0F, 0, 1]))) ∧
    (fun (s : State) =>
      (fronts s 0x1 (fun t e => decide (e.carrier ≤ 383) && meets (t.flRead e.addr e.len)
        (fun u b => !b.2 && !(macParts (u.carrierLte e.carrier) b.1).2 && (macParts (u.carrierLte e.carrier) b.1).1.all (fun y => y.kind != .sdu))) = true)) (((rg 0 (rent 1 2 [])).store 0x1100000 [63, 0])) ∧
    (fun (s : State) =>
      (fronts s 0x1 (fun t e => decide (e.carrier ≤ 383) && meets (t.flRead e.addr e.len)
        (fun u b => !b.2 && (macParts (u.carrierLte e.carrier) b.1).2 && (macParts (u.carrierLte e.carrier) b.1).1.all (fun y => y.kind != .sdu))) = true)) (((rg 0 (rent 1 2 [])).store 0x1100000 [1, 9])) ∧
    (fun (s : State) (q : Place) =>
      (fronts s 0x1 (fun t e => decide (e.carrier ≤ 383) && meets (t.flRead e.addr e.len)
        (fun u b => !b.2 && (macParts (u.carrierLte e.carrier) b.1).1.any (fun x => x.kind == .sdu && (match u.lookup 1 (ulKey e.carrier e.ue x.lcid) with | some q => teOwner (u.teAt q) != u.ringOwner 255 | none => false)))) = true)) (({ (rg 0 (rent 1 3 [])).store 0x1100000 [4, 1, 0xAA] with stash := [(255, teMake 1 7 0 (ulKey 383 0 4))] })) (.stash 0) ∧
    (fun (s : State) =>
      (fronts s 0x1 (fun t e => decide (383 < e.carrier)) = true)) ((rg 0 ((rent 1 2 []).set 2 0x80))) ∧
    (fun (s : State) =>
      (fronts s 0x2 (fun t e => decide (e.carrier ≤ 383) && e.arg 38 2 == 0 && decide (2 ≤ e.len) && (List.range 8).all (fun i => e.arg (24 + i) 1 == 0xFF) && (t.busWrite .flow e.addr (List.replicate 2 0) false).2) = true)) ((rg 0 (rent 2 2 (List.replicate 8 0xFF ++ [0, 0, 0x10, 1])))) ∧
    (fun (s : State) =>
      (fronts s 0x2 (fun t e => decide (383 < e.carrier)) = true)) ((rg 0 ((rent 2 2 []).set 2 0x80))) ∧
    (fun (s : State) (m : Fin 128) (f : List Byte) (fr : List (List Byte)) =>
      (s.mc m.val).flowIn = f :: fr ∧ s.flowRuns = true) (((rg 0 []).setMc 127 { (rg 0 []).mc 127 with flowIn := [ipf] })) (127) (ipf)
        ([]) ∧
    (fun (f : List Byte) =>
      ipFragment f = true) (ipf) ∧
    (fun (s : State) (ctx : BitVec 20) (tm : FlowTimer) =>
      let x := s.fl ctx.toNat
      let due : Bool := match tm with | .tReordering => s.timerDone x.tReordering x.hdr.msReordering | .tPollRetransmit => s.timerDone x.tPoll x.hdr.msPoll | .tReassembly => s.timerDone x.tReassembly x.hdr.msReassembly | .tStatusProhibit => s.timerDone x.tProhibit x.hdr.msProhibit
      let w := s.touchFlow ctx.toNat
      let y := w.fl ctx.toNat
      x.st = .opened ∧ due = true ∧ s.flowRuns = true ∧ y.st = .opened)
        ({ fctx (rg 0 []) (fun x => { x with tReordering := some 0 }) with raw := 2 ^ 40 }) (0xFFFFF) (.tReordering) ∧
    (fun (s : State) (ctx : BitVec 20) (tm : FlowTimer) =>
      let x := s.fl ctx.toNat
      let due : Bool := match tm with | .tReordering => s.timerDone x.tReordering x.hdr.msReordering | .tPollRetransmit => s.timerDone x.tPoll x.hdr.msPoll | .tReassembly => s.timerDone x.tReassembly x.hdr.msReassembly | .tStatusProhibit => s.timerDone x.tProhibit x.hdr.msProhibit
      let w := s.touchFlow ctx.toNat
      let y := w.fl ctx.toNat
      x.st = .opened ∧ due = true ∧ s.flowRuns = true ∧ y.st = .opened)
        ({ fctx (rg 0 []) (fun x => { x with tPoll := some 0 }) with raw := 2 ^ 40 }) (0xFFFFF) (.tPollRetransmit) ∧
    (fun (s : State) (ctx : BitVec 20) (tm : FlowTimer) =>
      let x := s.fl ctx.toNat
      let due : Bool := match tm with | .tReordering => s.timerDone x.tReordering x.hdr.msReordering | .tPollRetransmit => s.timerDone x.tPoll x.hdr.msPoll | .tReassembly => s.timerDone x.tReassembly x.hdr.msReassembly | .tStatusProhibit => s.timerDone x.tProhibit x.hdr.msProhibit
      let w := s.touchFlow ctx.toNat
      let y := w.fl ctx.toNat
      x.st = .opened ∧ due = true ∧ s.flowRuns = true ∧ y.st = .opened)
        ({ fctx (rg 0 []) (fun x => { x with tReassembly := some 0 }) with raw := 2 ^ 40 }) (0xFFFFF) (.tReassembly) ∧
    (fun (s : State) (ctx : BitVec 20) (tm : FlowTimer) =>
      let x := s.fl ctx.toNat
      let due : Bool := match tm with | .tReordering => s.timerDone x.tReordering x.hdr.msReordering | .tPollRetransmit => s.timerDone x.tPoll x.hdr.msPoll | .tReassembly => s.timerDone x.tReassembly x.hdr.msReassembly | .tStatusProhibit => s.timerDone x.tProhibit x.hdr.msProhibit
      let w := s.touchFlow ctx.toNat
      let y := w.fl ctx.toNat
      x.st = .opened ∧ due = true ∧ s.flowRuns = true ∧ y.st = .opened)
        ({ fctx (rg 0 []) (fun x => { x with tProhibit := some 0 }) with raw := 2 ^ 40 }) (0xFFFFF) (.tStatusProhibit) ∧
    (fun (s : State) (ctx : BitVec 20) (tm : FlowTimer) =>
      let x := s.fl ctx.toNat
      let due : Bool := match tm with | .tReordering => s.timerDone x.tReordering x.hdr.msReordering | .tPollRetransmit => s.timerDone x.tPoll x.hdr.msPoll | .tReassembly => s.timerDone x.tReassembly x.hdr.msReassembly | .tStatusProhibit => s.timerDone x.tProhibit x.hdr.msProhibit
      due = false) ({ fctx (rg 0 []) (fun x => { x with tPoll := some 0 }) with raw := 0 }) (0xFFFFF) (.tPollRetransmit) := by
  refine ⟨?_, ?_, ?_, ?_, ?_, ?_, ?_, ?_⟩
  rotate_left 7
  refine ⟨?_, ?_, ?_, ?_, ?_, ?_, ?_, ?_⟩
  rotate_left 7
  refine ⟨?_, ?_, ?_, ?_, ?_⟩
  all_goals decide +kernel

theorem test_LanesPorts_meets :
    (fun (s : State) (rq : Requester) (o : Fin 16) (v : U64) =>
      let old := s.ent (Key.lnOCfg o.val)
      let ok := fun (k : Nat) (w : U64) => s.checkWho rq k w = .ok
      let octOk := ok (Key.lnOCfg o.val) v ∧ bf v 55 0 = 0 ∧ s.modeOk o.val (bf v 63 60) = true
      let keeps := bf v 63 58 = bf old 63 58 ∧ bit v 56 = bit old 56
      octOk ∧ keeps) (ln 1 4) (.root) (7) (w64 (2 ^ 60)) ∧
    (fun (s : State) (rq : Requester) (o : Fin 16) (v : U64) =>
      let old := s.ent (Key.lnOCfg o.val)
      let ok := fun (k : Nat) (w : U64) => s.checkWho rq k w = .ok
      let octOk := ok (Key.lnOCfg o.val) v ∧ bf v 55 0 = 0 ∧ s.modeOk o.val (bf v 63 60) = true
      let keeps := bf v 63 58 = bf old 63 58 ∧ bit v 56 = bit old 56
      octOk ∧ (¬ keeps)) (ln 1 4) (.root) (7) (w64 (2 ^ 60 + 2 ^ 59)) ∧
    (fun (s : State) (rq : Requester) (o : Fin 16) (v : U64) =>
      let ok := fun (k : Nat) (w : U64) => s.checkWho rq k w = .ok
      ok (Key.lnOCfg o.val) v ∧ (bf v 55 0 ≠ 0 ∨ s.modeOk o.val (bf v 63 60) = false)) (ln 1 4) (.root) (7) (w64 (15 * 2 ^ 60)) ∧
    (fun (s : State) (rq : Requester) (l : Fin 128) (v : U64) =>
      let f := l.val
      let r := bf v 31 0
      let ok := fun (k : Nat) (w : U64) => s.checkWho rq k w = .ok
      let rateOk := bf v 62 32 = 0 ∧ (if bit v 63 then 50000 ≤ r ∧ r ≤ 112000 else 1250 ≤ r ∧ r ≤ 56250)
      let renews := s.laneMode f = omTest ∧ s.fld (Key.lnTest f) 31 0 ≠ r
      ok (Key.lnTest f) v ∧ rateOk ∧ (¬ renews)) (ln 1 4) (.root) (63) (w64 (2 ^ 63 + 112000)) ∧
    (fun (s : State) (rq : Requester) (l : Fin 128) (v : U64) =>
      let f := l.val
      let r := bf v 31 0
      let ok := fun (k : Nat) (w : U64) => s.checkWho rq k w = .ok
      let rateOk := bf v 62 32 = 0 ∧ (if bit v 63 then 50000 ≤ r ∧ r ≤ 112000 else 1250 ≤ r ∧ r ≤ 56250)
      let renews := s.laneMode f = omTest ∧ s.fld (Key.lnTest f) 31 0 ≠ r
      ok (Key.lnTest f) v ∧ rateOk ∧ renews) (ln 4 4) (.root) (63) (1250) ∧
    (fun (s : State) (rq : Requester) (l : Fin 128) (v : U64) =>
      let f := l.val
      let r := bf v 31 0
      let ok := fun (k : Nat) (w : U64) => s.checkWho rq k w = .ok
      let rateOk := bf v 62 32 = 0 ∧ (if bit v 63 then 50000 ≤ r ∧ r ≤ 112000 else 1250 ≤ r ∧ r ≤ 56250)
      ok (Key.lnTest f) v ∧ (¬ rateOk)) (ln 4 4) (.root) (63) (1249) ∧
    (fun (s : State) (l : Fin 128) (partner : BitVec 9) (b : Nat) =>
      let f := l.val
      let both := (tget 0 s.laneAdv f).toNat &&& partner.toNat
      let first := s.isFirst f = true
      first ∧ s.laneState f = lnAnState ∧ b < 9 ∧ both / 2 ^ b % 2 = 1 ∧ both < 2 ^ (b + 1)) ({ ln 1 2 with laneAdv := [(63, 0x1FF)] })
        (63) (0x100) (8) ∧
    (fun (s : State) (l : Fin 128) (partner : BitVec 9) =>
      let f := l.val
      let both := (tget 0 s.laneAdv f).toNat &&& partner.toNat
      let first := s.isFirst f = true
      first ∧ s.laneState f = lnAnState ∧ both = 0) (ln 1 2) (63) (0) ∧
    (fun (s : State) (l : Fin 128) =>
      let f := l.val
      let first := s.isFirst f = true
      let training := first ∧ s.laneState f = lnTraining
      training) (ln 1 3) (63) ∧
    (fun (s : State) (l : Fin 128) =>
      let f := l.val
      let first := s.isFirst f = true
      let training := first ∧ s.laneState f = lnTraining
      let late := training ∧ s.flag (Key.lnCfg f) 57 = true ∧ s.portWaited f (s.entN Key.lnLtTimeout) = true
      late ∧ s.flag (Key.lnCfg f) 56 = false) ({ ((ln 1 3).setFlag (Key.lnCfg 63) 57 true) with raw := 2 ^ 45, laneAt := [(63, 1)] }) (63) ∧
    (fun (s : State) (l : Fin 128) =>
      let f := l.val
      let first := s.isFirst f = true
      let training := first ∧ s.laneState f = lnTraining
      let late := training ∧ s.flag (Key.lnCfg f) 57 = true ∧ s.portWaited f (s.entN Key.lnLtTimeout) = true
      late ∧ s.flag (Key.lnCfg f) 56 = true)
        ({ (((ln 1 3).setFlag (Key.lnCfg 63) 57 true).setFlag (Key.lnCfg 63) 56 true) with raw := 2 ^ 45, laneAt := [(63, 1)] }) (63) ∧
    (fun (s : State) (l : Fin 128) =>
      let f := l.val
      let first := s.isFirst f = true
      let training := first ∧ s.laneState f = lnTraining
      let late := training ∧ s.flag (Key.lnCfg f) 57 = true ∧ s.portWaited f (s.entN Key.lnLtTimeout) = true
      (¬ late)) (ln 1 4) (63) ∧
    (fun (s : State) (l : Fin 128) =>
      let f := l.val
      let first := s.isFirst f = true
      first ∧ s.laneState f = lnIdle ∧ s.laneMode f = omEth ∧ s.flag (Key.lnCfg f) 57 = true ∧ tget 0 s.laneAdv f = 0 ∧
        s.portWaited f 1000 = true) ({ ((ln 1 1).setFlag (Key.lnCfg 63) 57 true) with raw := 2 ^ 45, laneAt := [(63, 1)] }) (63) ∧
    (fun (s : State) (l : Fin 128) =>
      let f := l.val
      s.portWaited f 1000 = false) ({ ln 1 1 with laneAt := [(63, 1)] }) (63) ∧
    (fun (s : State) (l : Fin 128) =>
      let f := l.val
      s.rxRuns f = true ∧ s.flag (Key.lnStat f) 1 = false) (ln 1 4) (63) ∧
    (fun (s : State) (l : Fin 128) =>
      let f := l.val
      s.cdrLocked f = true) ((ln 1 4).setCdr 63 true) (63) ∧
    (fun (s : State) (l : Fin 128) =>
      let f := l.val
      s.flag (Key.lnStat f) 3 = true) ((ln 1 4).setFlag (Key.lnStat 63) 3 true) (63) ∧
    (fun (s : State) (l : Fin 128) =>
      s.rxRuns l.val = true ∧ s.lanesRun (l.val / 8) = true ∧ s.cdrLocked l.val = false) (ln 4 1) (63) ∧
    (fun (s : State) (l : Fin 128) =>
      let f := l.val
      s.flag (Key.lnPrbs f) 30 = true ∧ s.rxRuns f = true ∧ s.dev ≠ .hold ∧ s.flag (Key.lnPrbs f) 29 = false)
        ((ln 4 4).setFlag (Key.lnPrbs 63) 30 true) (63) ∧
    (fun (s : State) (l : Fin 128) =>
      let f := l.val
      s.flag (Key.lnPrbs f) 30 = true ∧ s.rxRuns f = true ∧ s.dev ≠ .hold ∧ s.flag (Key.lnPrbs f) 29 = true)
        (((ln 4 4).setFlag (Key.lnPrbs 63) 30 true).setFlag (Key.lnPrbs 63) 29 true) (63) ∧
    (fun (s : State) (rq : Requester) (l : Fin 128) (v : U64) =>
      let f := l.val
      let ev := setBit v 63 true
      let eyeOk := s.checkWrite rq (Key.lnEyeCtl f) ev = .ok
      let running := s.flag (Key.lnEyeCtl f) 63 = true
      eyeOk ∧ (¬ running) ∧ (bf ev 62 61 = 0 ∨ s.lanePam4 f = true)) (ln 1 4) (.root) (63) (10) ∧
    (fun (s : State) (rq : Requester) (l : Fin 128) (v : U64) =>
      let f := l.val
      let ev := setBit v 63 true
      let eyeOk := s.checkWrite rq (Key.lnEyeCtl f) ev = .ok
      let running := s.flag (Key.lnEyeCtl f) 63 = true
      eyeOk ∧ (¬ running) ∧ bf ev 62 61 ≠ 0 ∧ s.lanePam4 f = false) (ln 1 4) (.root) (63) (w64 (2 ^ 61 + 10)) ∧
    (fun (s : State) (rq : Requester) (l : Fin 128) (v : U64) =>
      let f := l.val
      let ev := setBit v 63 true
      let eyeOk := s.checkWrite rq (Key.lnEyeCtl f) ev = .ok
      let running := s.flag (Key.lnEyeCtl f) 63 = true
      eyeOk ∧ running) ((ln 1 4).setFlag (Key.lnEyeCtl 63) 63 true) (.root) (63) (10) ∧
    (fun (s : State) (l : Fin 128) (n : Nat) =>
      let f := l.val
      let running := s.flag (Key.lnEyeCtl f) 63 = true
      running ∧ n ≤ 2 ^ s.fld (Key.lnEyeCtl f) 5 0) ((ln 1 4).setEnt (Key.lnEyeCtl 63) (w64 (2 ^ 63 + 40))) (63) (2 ^ 40) ∧
    (fun (s : State) (rq : Requester) (l : Fin 128) =>
      let f := l.val
      let ok := fun (k : Nat) (w : U64) => s.checkWho rq k w = .ok
      ok (Key.lnSlip f) 1 ∧ s.laneMode f = omGelpel ∧ s.flag (Key.lnStat f) 4 = false) (((((up.setEnt (Key.lnOCfg 15)
        (w64 (3 * 2 ^ 60))).setUn 1007 { unitInit with released := true }).setFlag (Key.lnCfg 127) 63 true).setCdr 127 true)) (.root)
        (127) ∧
    (fun (s : State) (rq : Requester) (l : Fin 128) =>
      let f := l.val
      let ok := fun (k : Nat) (w : U64) => s.checkWho rq k w = .ok
      ok (Key.lnSlip f) 1 ∧ s.laneMode f = omGelpel ∧ s.flag (Key.lnStat f) 4 = true) (((((up.setEnt (Key.lnOCfg 15)
        (w64 (3 * 2 ^ 60))).setUn 1007 { unitInit with released := true }).setFlag (Key.lnCfg 127) 63 true).setCdr 127 true).setFlag (Key.lnStat 127) 4 true) (.root) (127) ∧
    (fun (s : State) (rq : Requester) (l : Fin 128) (v : U64) =>
      let f := l.val
      let ok := fun (k : Nat) (w : U64) => s.checkWho rq k w = .ok
      ok (Key.lnSlip f) v ∧ s.laneMode f ≠ omGelpel) (ln 1 4) (.root) (63) (1) ∧
    (fun (s : State) (l : Fin 128) =>
      let f := l.val
      s.flag (Key.lnStat f) 4 = true) (((((up.setEnt (Key.lnOCfg 15)
        (w64 (3 * 2 ^ 60))).setUn 1007 { unitInit with released := true }).setFlag (Key.lnCfg 127) 63 true).setCdr 127 true).setFlag (Key.lnStat 127) 4 true) (127) ∧
    (fun (s : State) (rq : Requester) (l : Fin 128) (line : List Bool) =>
      let f := l.val
      let x := tget rxInit s.rx f
      let heard := x.feed line
      let bits := heard.2.1.drop ((64 - x.pos) % 64)
      let hears := s.laneMode f = omGelpel ∧ s.cdrLocked f = true
      s.checkRead rq (Key.lnRxword f) = .ok ∧ hears ∧ heard.2.2 = 0 ∧ 64 ≤ bits.length) (((((up.setEnt (Key.lnOCfg 15)
        (w64 (3 * 2 ^ 60))).setUn 1007 { unitInit with released := true }).setFlag (Key.lnCfg 127) 63 true).setCdr 127 true)) (.root)
        (127) ((List.replicate 80 [true, false]).flatten) ∧
    (fun (s : State) (rq : Requester) (l : Fin 128) =>
      let f := l.val
      let hears := s.laneMode f = omGelpel ∧ s.cdrLocked f = true
      s.checkRead rq (Key.lnRxword f) = .ok ∧ hears) (((((up.setEnt (Key.lnOCfg 15)
        (w64 (3 * 2 ^ 60))).setUn 1007 { unitInit with released := true }).setFlag (Key.lnCfg 127) 63 true).setCdr 127 true)) (.root)
        (127) ∧
    (fun (s : State) (rq : Requester) (l : Fin 128) =>
      let f := l.val
      let hears := s.laneMode f = omGelpel ∧ s.cdrLocked f = true
      s.checkRead rq (Key.lnRxword f) = .ok ∧ (¬ hears)) (ln 1 4) (.root) (63) := by
  refine ⟨?_, ?_, ?_, ?_, ?_, ?_, ?_, ?_⟩
  rotate_left 7
  refine ⟨?_, ?_, ?_, ?_, ?_, ?_, ?_, ?_⟩
  rotate_left 7
  refine ⟨?_, ?_, ?_, ?_, ?_, ?_, ?_, ?_⟩
  rotate_left 7
  refine ⟨?_, ?_, ?_, ?_, ?_, ?_, ?_, ?_⟩
  rotate_left 7
  refine ⟨?_, ?_, ?_⟩
  all_goals decide +kernel

theorem test_EthernetFrames_meets :
    (fun (s : State) (m : Fin 128) =>
      s.ethRuns m.val = false) (up) (63) ∧
    (fun (s : State) (m : Fin 128) (f : RxFrame) (g : HeldFrame) =>
      let y := s.mc m.val
      let held := (y.fifo.map (fun g => g.bytes.length)).sum
      let roomy := f.room = true ∧ held + s.maxLen m.val ≤ s.fifoSize m.val
      s.ethRuns m.val = true ∧ (¬ roomy)) (mac) (63) (⟨List.replicate 64 0, true, false, true⟩) (⟨[], true, 0, 0⟩) ∧
    (fun (s : State) (m : Fin 128) (f : RxFrame) (g : HeldFrame) =>
      let y := s.mc m.val
      let held := (y.fifo.map (fun g => g.bytes.length)).sum
      let roomy := f.room = true ∧ held + s.maxLen m.val ≤ s.fifoSize m.val
      s.ethRuns m.val = true ∧ roomy ∧ f.fifoOk = false) (mac) (63) (⟨List.replicate 64 0, true, true, false⟩) (⟨[], true, 0, 0⟩) ∧
    (fun (s : State) (m : Fin 128) (f : RxFrame) (g : HeldFrame) =>
      let y := s.mc m.val
      let held := (y.fifo.map (fun g => g.bytes.length)).sum
      let roomy := f.room = true ∧ held + s.maxLen m.val ≤ s.fifoSize m.val
      s.ethRuns m.val = true ∧ roomy ∧ f.fifoOk = true) (mac) (63) (⟨List.replicate 64 0, true, true, true⟩) (⟨[], true, 0, 0⟩) ∧
    (fun (s : State) (m : Fin 128) =>
      let y := s.mc m.val
      y.fifo = []) (mac) (63) ∧
    (fun (s : State) (m : Fin 128) (g : HeldFrame) (gs : List HeldFrame) =>
      let y := s.mc m.val
      let waits := s.toFramer m g = true ∧ s.creditOf (.framer m) = 0
      y.fifo = g :: gs ∧ waits) (((((mac.setEnt (Key.ethCfg 63) (w64 (2 ^ 63 + 2 ^ 61 + 2 ^ 59 + 9600))).setQueue (.framer 63)
        (List.replicate 256 (.token ⟨0, 0⟩ 8 .none)))).setMc 63 { (((mac.setEnt (Key.ethCfg 63) (w64 (2 ^ 63 + 2 ^ 61 + 2 ^ 59 + 9600))).setQueue (.framer 63) (List.replicate 256 (.token ⟨0, 0⟩ 8 .none)))).mc 63 with fifo := [⟨List.replicate 12 0 ++ [0xAE, 0xFE] ++ List.replicate 50 0, true, 0, 0⟩] })) (63) (⟨List.replicate 12 0 ++ [0xAE, 0xFE] ++ List.replicate 50 0, true, 0, 0⟩) ([]) ∧
    (fun (s : State) (m : Fin 128) (g : HeldFrame) (gs : List HeldFrame) =>
      let y := s.mc m.val
      let waits := s.toFramer m g = true ∧ s.creditOf (.framer m) = 0
      y.fifo = g :: gs ∧ (¬ waits)) (((mac).setMc 63 { (mac).mc 63 with fifo := [⟨List.replicate 64 0, true, 0, 0⟩] })) (63)
        (⟨List.replicate 64 0, true, 0, 0⟩) ([]) ∧
    (fun (g : HeldFrame) =>
      let long := 64 ≤ g.bytes.length
      (¬ long)) (⟨List.replicate 63 0, true, 0, 0⟩) ∧
    (fun (s : State) (m : Fin 128) (g : HeldFrame) =>
      let long := 64 ≤ g.bytes.length
      let fits := long ∧ g.bytes.length ≤ s.maxLen m.val
      long ∧ (¬ fits)) (mac) (63) (⟨List.replicate 9601 0, true, 0, 0⟩) ∧
    (fun (s : State) (m : Fin 128) (g : HeldFrame) =>
      let long := 64 ≤ g.bytes.length
      let fits := long ∧ g.bytes.length ≤ s.maxLen m.val
      fits ∧ g.fcsOk = false) (mac) (63) (⟨List.replicate 9600 0, false, 0, 0⟩) ∧
    (fun (s : State) (m : Fin 128) (g : HeldFrame) =>
      let long := 64 ≤ g.bytes.length
      let fits := long ∧ g.bytes.length ≤ s.maxLen m.val
      let counted := ((s.ethCount m.val 0 1).ethCount m.val 1 g.bytes.length).countDst m.val 2 (dstOf g.bytes)
      let plain := ptpEvent g.bytes = false ∧ counted.ethBit m.val 57 = false
      fits ∧ g.fcsOk = true ∧ plain ∧ counted.isLocal m.val (dstOf g.bytes) = false) (mac) (63) (⟨List.replicate 64 0, true, 0, 0⟩) ∧
    (fun (s : State) (m : Fin 128) (g : HeldFrame) =>
      let long := 64 ≤ g.bytes.length
      let fits := long ∧ g.bytes.length ≤ s.maxLen m.val
      let counted := ((s.ethCount m.val 0 1).ethCount m.val 1 g.bytes.length).countDst m.val 2 (dstOf g.bytes)
      let plain := ptpEvent g.bytes = false ∧ counted.ethBit m.val 57 = false
      fits ∧ g.fcsOk = true ∧ plain ∧ counted.isLocal m.val (dstOf g.bytes) = true) ((mac.setEnt (Key.ethCfg 63)
        (w64 (2 ^ 63 + 2 ^ 61 + 9600)))) (63) (⟨List.replicate 64 0, true, 0, 0⟩) ∧
    (fun (s : State) (vid : BitVec 12) (mac : BitVec 48) (e : Fdb) =>
      let fk := fdbKey vid.toNat mac.toNat
      tfind s.fdb fk = some e ∧ s.entN Key.ethBrAge * 491520000 ≤ s.raw.toNat - e.learnedRaw)
        ({ mac with raw := 147456000000, fdb := [(fdbKey 0xFFF 5, ⟨63, 0⟩)] }) (0xFFF) (5) (⟨63, 0⟩) ∧
    (fun (s : State) (vid : BitVec 12) (mac : BitVec 48) (e : Fdb) =>
      let fk := fdbKey vid.toNat mac.toNat
      tfind s.fdb fk = some e ∧ s.raw.toNat - e.learnedRaw < s.entN Key.ethBrAge * 491520000)
        ({ mac with raw := 147455999999, fdb := [(fdbKey 0xFFF 5, ⟨63, 0⟩)] }) (0xFFF) (5) (⟨63, 0⟩) ∧
    (fun (s : State) (s1 : State) (m : Fin 128) (n : Nat) =>
      let s0 := s.ethResume m
      let ring := hostRing (s0.ent (Key.ethHtx m.val))
      let i := (s1.mc m.val).htxTaken
      let rings := bit (s0.ent (Key.ethHtx m.val)) 63 = true ∧ s0.ethBit m.val 63 = true ∧ s0.macActive m.val = true ∧
        s0.unitRuns (macUnit m.val) = true ∧ s0.readNum (.mac m) ring.base 8 = (s1, some n)
      rings ∧ i = n % 2 ^ 32) ((mhtx.setMc 63 { mhtx.mc 63 with htxTaken := 1 }))
        (((((mhtx.setMc 63 { mhtx.mc 63 with htxTaken := 1 })).ethResume 63).readNum (.mac 63) 0x1000000 8).1) (63) (1) ∧
    (fun (s : State) (s1 : State) (s2 : State) (s3 : State) (m : Fin 128) (n : Nat) (d : List Byte) (b : List Byte) (p1 : Bool)
        (p2 : Bool) =>
      let s0 := s.ethResume m
      let ring := hostRing (s0.ent (Key.ethHtx m.val))
      let i := (s1.mc m.val).htxTaken
      let rings := bit (s0.ent (Key.ethHtx m.val)) 63 = true ∧ s0.ethBit m.val 63 = true ∧ s0.macActive m.val = true ∧
        s0.unitRuns (macUnit m.val) = true ∧ s0.readNum (.mac m) ring.base 8 = (s1, some n)
      let taken := s2.setMc m.val { s2.mc m.val with htxTaken := (i + 1) % 2 ^ 32 }
      rings ∧ i ≠ n % 2 ^ 32 ∧ s1.busRead (.mac m) (ring.slot i) 16 = (s2, some (d, p1)) ∧ taken.busRead (.mac m)
        (leNat (d.take 8) % 2 ^ 40) (leNat ((d.drop 8).take 2)) = (s3, some (b, p2))) (mhtx)
        ((((mhtx).ethResume 63).readNum (.mac 63) 0x1000000 8).1)
        ((((((mhtx).ethResume 63).readNum (.mac 63) 0x1000000 8).1).busRead (.mac 63) 0x1000040 16).1)
        ((((((((mhtx).ethResume 63).readNum (.mac 63) 0x1000000 8).1).busRead (.mac 63) 0x1000040 16).1.setMc 63 { (((((mhtx).ethResume 63).readNum (.mac 63) 0x1000000 8).1).busRead (.mac 63) 0x1000040 16).1.mc 63 with htxTaken := 1 }).busRead (.mac 63) 0x1100000 60).1) (63) (1) ((((((((mhtx).ethResume 63).readNum (.mac 63) 0x1000000 8).1).busRead (.mac 63) 0x1000040 16)).2.getD ([], false)).1) ((((((((((mhtx).ethResume 63).readNum (.mac 63) 0x1000000 8).1).busRead (.mac 63) 0x1000040 16).1.setMc 63 { (((((mhtx).ethResume 63).readNum (.mac 63) 0x1000000 8).1).busRead (.mac 63) 0x1000040 16).1.mc 63 with htxTaken := 1 }).busRead (.mac 63) 0x1100000 60)).2.getD ([], false)).1) ((((((((mhtx).ethResume 63).readNum (.mac 63) 0x1000000 8).1).busRead (.mac 63) 0x1000040 16)).2.getD ([], false)).2) ((((((((((mhtx).ethResume 63).readNum (.mac 63) 0x1000000 8).1).busRead (.mac 63) 0x1000040 16).1.setMc 63 { (((((mhtx).ethResume 63).readNum (.mac 63) 0x1000000 8).1).busRead (.mac 63) 0x1000040 16).1.mc 63 with htxTaken := 1 }).busRead (.mac 63) 0x1100000 60)).2.getD ([], false)).2) ∧
    (fun (s : State) (m : Fin 128) (x : TxFrame) (r : List TxFrame) (q : Fin 8) =>
      (s.ethRuns m.val = true ∧ (s.mc m.val).txEnd ≤ s.now ∧ (s.mc m.val).q q.val = x :: r ∧ s.headEligible m q.val = true ∧
        ∀ j : Fin 8, q.val < j.val → s.headEligible m j.val = false)) (macQ) (63) (tfr) ([]) (7) ∧
    (fun (s : State) (m : Fin 128) =>
      let y := s.mc m.val
      y.txEnd > s.now) ((mac.setMc 63 { mac.mc 63 with txEnd := 1 })) (63) ∧
    (fun (x : TxFrame) =>
      x.ring = none ∧ x.rawIn = none ∧ x.dly = false) (tfr) ∧
    (fun (s : State) (m : Fin 128) (x : TxFrame) (r : List TxFrame) (q : Fin 8) =>
      let y := s.mc m.val
      let late := s.gclEn m.val = true ∧ x.headSince + s.gclCycleT m.val ≤ s.now ∧ s.headEligible m q.val = false
      y.q q.val = x :: r ∧ late) ({ ((macQ.setEnt (Key.gclCfg 63) (w64 (2 ^ 63))).setEntN (Key.gclCycle 63) 1) with raw := 2 ^ 12 })
        (63) (tfr) ([]) (7) ∧
    (fun (s : State) (m : Fin 128) (x : TxFrame) (r : List TxFrame) (q : Fin 8) =>
      let y := s.mc m.val
      let late := s.gclEn m.val = true ∧ x.headSince + s.gclCycleT m.val ≤ s.now ∧ s.headEligible m q.val = false
      y.q q.val = x :: r ∧ (¬ late)) (macQ) (63) (tfr) ([]) (7) ∧
    (fun (s : State) (m : Fin 128) (row : Fin 1024) (at_ : Nat) =>
      let swapped := s.swapBefore (.gcl m) (fun s => s.gclDue m row.val)
      let w := if swapped.executing (.gcl m) row.val then swapped else swapped.applyDeferred (.gcl m) row.val
      w.gclDue m row.val = some at_ ∧ at_ ≤ w.now)
        ({ (((mac.setFlag (Key.gclCfg 63) 63 true).setEntN (Key.gclCycle 63) 1000000).setEnt (rowKey (.gcl 63) 0 1023 0) (w64 (2 ^ 62 + 500000))) with raw := 2 ^ 40 }) (63) (1023) ((match ((fun (s : State) => let w := s.swapBefore (.gcl 63) (fun s => s.gclDue 63 1023); if w.executing (.gcl 63) 1023 then w else w.applyDeferred (.gcl 63) 1023) ({ (((mac.setFlag (Key.gclCfg 63) 63 true).setEntN (Key.gclCycle 63) 1000000).setEnt (rowKey (.gcl 63) 0 1023 0) (w64 (2 ^ 62 + 500000))) with raw := 2 ^ 40 })).gclDue 63 1023 with | some a => a | none => 0)) ∧
    (fun (s : State) (m : Fin 128) (row : Fin 1024) (at_ : Nat) =>
      let swapped := s.swapBefore (.gcl m) (fun s => s.gclDue m row.val)
      let w := if swapped.executing (.gcl m) row.val then swapped else swapped.applyDeferred (.gcl m) row.val
      w.gclDue m row.val = some at_ ∧ w.now < at_)
        (((((mac.setFlag (Key.gclCfg 63) 63 true).setEntN (Key.gclCycle 63) 1000000).setEnt (rowKey (.gcl 63) 0 1023 0)
        (w64 (2 ^ 62 + 500000))).setMc 63 { (((mac.setFlag (Key.gclCfg 63) 63 true).setEntN (Key.gclCycle 63) 1000000).setEnt (rowKey (.gcl 63) 0 1023 0) (w64 (2 ^ 62 + 500000))).mc 63 with gclNext := [(1023, 5)] })) (63) (1023) ((match ((fun (s : State) => let w := s.swapBefore (.gcl 63) (fun s => s.gclDue 63 1023); if w.executing (.gcl 63) 1023 then w else w.applyDeferred (.gcl 63) 1023) (((((mac.setFlag (Key.gclCfg 63) 63 true).setEntN (Key.gclCycle 63) 1000000).setEnt (rowKey (.gcl 63) 0 1023 0) (w64 (2 ^ 62 + 500000))).setMc 63 { (((mac.setFlag (Key.gclCfg 63) 63 true).setEntN (Key.gclCycle 63) 1000000).setEnt (rowKey (.gcl 63) 0 1023 0) (w64 (2 ^ 62 + 500000))).mc 63 with gclNext := [(1023, 5)] }))).gclDue 63 1023 with | some a => a | none => 0)) ∧
    (fun (s : State) (m : Fin 128) (row : Fin 1024) =>
      let swapped := s.swapBefore (.gcl m) (fun s => s.gclDue m row.val)
      let w := if swapped.executing (.gcl m) row.val then swapped else swapped.applyDeferred (.gcl m) row.val
      w.gclEn m.val = true ∧ bit (w.ent (rowKey (.gcl m) 0 row.val 0)) 62 = true)
        ((((mac.setFlag (Key.gclCfg 63) 63 true).setEntN (Key.gclCycle 63) 1000000).setEnt (rowKey (.gcl 63) 0 1023 0)
        (w64 (2 ^ 62 + 500000)))) (63) (1023) ∧
    (fun (s : State) (rq : Requester) (m : Fin 128) (v : U64) =>
      let cfgOk := s.checkWrite rq (Key.gclCfg m.val) v = .ok
      cfgOk ∧ bit v 63 = true ∧ s.entN (Key.gclCycle m.val) = 0) (mac) (.root) (63) (w64 (2 ^ 63)) ∧
    (fun (s : State) (rq : Requester) (m : Fin 128) (v : U64) =>
      let cfgOk := s.checkWrite rq (Key.gclCfg m.val) v = .ok
      cfgOk ∧ bit v 63 = true ∧ s.entN (Key.gclCycle m.val) ≠ 0 ∧ s.gclEn m.val = true)
        ((((mac.setFlag (Key.gclCfg 63) 63 true).setEntN (Key.gclCycle 63) 1000000).setEnt (rowKey (.gcl 63) 0 1023 0)
        (w64 (2 ^ 62 + 500000)))) (.root) (63) (w64 (2 ^ 63)) ∧
    (fun (s : State) (rq : Requester) (m : Fin 128) (v : U64) =>
      let cfgOk := s.checkWrite rq (Key.gclCfg m.val) v = .ok
      cfgOk ∧ bit v 63 = true ∧ s.entN (Key.gclCycle m.val) ≠ 0 ∧ s.gclEn m.val = false) ((mac.setEntN (Key.gclCycle 63) 1000000))
        (.root) (63) (w64 (2 ^ 63)) ∧
    (fun (s : State) (rq : Requester) (m : Fin 128) (v : U64) =>
      let cfgOk := s.checkWrite rq (Key.gclCfg m.val) v = .ok
      cfgOk ∧ bit v 63 = false)
        ((((mac.setFlag (Key.gclCfg 63) 63 true).setEntN (Key.gclCycle 63) 1000000).setEnt (rowKey (.gcl 63) 0 1023 0)
        (w64 (2 ^ 62 + 500000)))) (.root) (63) (0) ∧
    (fun (s : State) (rq : Requester) (m : Fin 128) (v : U64) =>
      s.checkWrite rq (Key.ethDly m.val) (setBit v 63 true) = .ok) (mac) (.root) (63) (5) ∧
    (fun (s : State) (m : Fin 128) =>
      let y := s.mc m.val
      let due := y.dlyBusy = true ∧ y.dlyRaw + msTicks 10 ≤ s.raw.toNat
      due) ({ mac.setMc 63 { mac.mc 63 with dlyBusy := true } with raw := 2 ^ 40 }) (63) ∧
    (fun (s : State) (m : Fin 128) =>
      let y := s.mc m.val
      let due := y.dlyBusy = true ∧ y.dlyRaw + msTicks 10 ≤ s.raw.toNat
      (¬ due)) (mac) (63) := by
  refine ⟨?_, ?_, ?_, ?_, ?_, ?_, ?_, ?_⟩
  rotate_left 7
  refine ⟨?_, ?_, ?_, ?_, ?_, ?_, ?_, ?_⟩
  rotate_left 7
  refine ⟨?_, ?_, ?_, ?_, ?_, ?_, ?_, ?_⟩
  rotate_left 7
  refine ⟨?_, ?_, ?_, ?_, ?_, ?_, ?_, ?_⟩
  rotate_left 7
  refine ⟨?_, ?_, ?_⟩
  all_goals decide +kernel

theorem test_FronthaulCpri_meets :
    (fun (s : State) (n : Fin 4096) (g : Fin 14) (d : FhDue) =>
      let x := s.str n.val
      let f := s.fhs n.val
      let synced := x.kind = skCpri → 2 ≤ s.fld (Key.cpriStat x.port) 63 60
      let due := f.due.find? (fun d => d.group == g.val)
      synced ∧ due = none) (fh 0 id) (4095) (13) (⟨3, 13, true⟩) ∧
    (fun (s : State) (n : Fin 4096) (g : Fin 14) (d : FhDue) (hp : (s.str n.val).port < 128) =>
      let x := s.str n.val
      let f := s.fhs n.val
      let who := Producer.framer ⟨x.port, hp⟩
      let synced := x.kind = skCpri → 2 ≤ s.fld (Key.cpriStat x.port) 63 60
      let due := f.due.find? (fun d => d.group == g.val)
      synced ∧ due = some d ∧ s.creditOf who = 0)
        ({ fh 0 (fun x => { x with due := [⟨3, 13, true⟩] }) with outq := [(prodKey (.framer 127), List.replicate 256 (.token ⟨0, 0⟩ 8 .none))] }) (4095) (13) (⟨3, 13, true⟩) (by decide +kernel) ∧
    (fun (s : State) (n : Fin 4096) (g : Fin 14) (d : FhDue) (hp : (s.str n.val).port < 128) =>
      let x := s.str n.val
      let f := s.fhs n.val
      let who := Producer.framer ⟨x.port, hp⟩
      let synced := x.kind = skCpri → 2 ≤ s.fld (Key.cpriStat x.port) 63 60
      let due := f.due.find? (fun d => d.group == g.val)
      synced ∧ due = some d ∧ s.creditOf who ≠ 0) (fh 0 (fun x => { x with due := [⟨3, 13, true⟩] })) (4095) (13) (⟨3, 13, true⟩)
        (by decide +kernel) ∧
    (fun (s : State) (n : Fin 4096) (l : Fin 14) (o : Occ) (seq : Nat) (sl : Nat) (sfn : Nat) (w : Win) (c : Fin 384) =>
      let x := s.str n.val
      let f := s.fhs n.val
      let shows := x.en = true ∧ x.kind ≤ 1 ∧ l.val < x.nsym ∧ s.winOcc x l.val = some o ∧ s.winSlot x o 0 = some (seq, sl, sfn)
      let seen := f.closed.any (fun c => c.1.seq == seq && c.1.l == l.val) = true ∨
        f.wins.any (fun w => w.seq == seq && w.l == l.val) = true
      shows ∧ (¬ seen) ∧ x.tx = false) (fwin 13 (fh 0 id)) (4095) (13) (⟨13, [0, w64 (3 * 2 ^ 56 + 127 * 2 ^ 32)], 0, 0⟩) (5) (0) (0)
        (⟨13, 5, 0, 0, 0⟩) (383) ∧
    (fun (s : State) (n : Fin 4096) (l : Fin 14) (o : Occ) (seq : Nat) (sl : Nat) (sfn : Nat) (w : Win) (c : Fin 384) =>
      let x := s.str n.val
      let f := s.fhs n.val
      let shows := x.en = true ∧ x.kind ≤ 1 ∧ l.val < x.nsym ∧ s.winOcc x l.val = some o ∧ s.winSlot x o 0 = some (seq, sl, sfn)
      let seen := f.closed.any (fun c => c.1.seq == seq && c.1.l == l.val) = true ∨
        f.wins.any (fun w => w.seq == seq && w.l == l.val) = true
      shows ∧ (¬ seen) ∧ x.tx = true) (fwin 13 (fh (2 ^ 62) id)) (4095) (13) (⟨13, [0, w64 (3 * 2 ^ 56 + 127 * 2 ^ 32)], 0, 0⟩) (5) (0)
        (0) (⟨13, 5, 0, 0, 0⟩) (383) ∧
    (fun (s : State) (n : Fin 4096) (l : Fin 14) (o : Occ) (seq : Nat) (sl : Nat) (sfn : Nat) (w : Win) (c : Fin 384) =>
      let x := s.str n.val
      let f := s.fhs n.val
      let shows := x.en = true ∧ x.kind ≤ 1 ∧ l.val < x.nsym ∧ s.winOcc x l.val = some o ∧ s.winSlot x o 0 = some (seq, sl, sfn)
      let seen := f.closed.any (fun c => c.1.seq == seq && c.1.l == l.val) = true ∨
        f.wins.any (fun w => w.seq == seq && w.l == l.val) = true
      shows ∧ seen) (fwin 13 (fh 0 (fun x => { x with wins := [⟨13, 5, 0, 0, 0⟩] }))) (4095) (13)
        (⟨13, [0, w64 (3 * 2 ^ 56 + 127 * 2 ^ 32)], 0, 0⟩) (5) (0) (0) (⟨13, 5, 0, 0, 0⟩) (383) ∧
    (fun (s : State) (n : Fin 4096) (l : Fin 14) =>
      let x := s.str n.val
      s.winOcc x l.val = none) (fh 0 id) (4095) (13) ∧
    (fun (s : State) (n : Fin 4096) (l : Fin 14) (o : Occ) (w : Win) =>
      let x := s.str n.val
      let f := s.fhs n.val
      let going := (s.winOcc x l.val).any (fun o => o.time == w.at_) = true
      (f.wins.find? (fun w => w.l == l.val) = some w) ∧ going) (fwin 13 (fh 0 (fun x => { x with wins := [⟨13, 5, 0, 0, 0⟩] }))) (4095)
        (13) (⟨13, [0, w64 (3 * 2 ^ 56 + 127 * 2 ^ 32)], 0, 0⟩) (⟨13, 5, 0, 0, 0⟩) ∧
    (fun (s : State) (n : Fin 4096) (l : Fin 14) (o : Occ) (w : Win) =>
      let x := s.str n.val
      let f := s.fhs n.val
      let going := (s.winOcc x l.val).any (fun o => o.time == w.at_) = true
      (f.wins.find? (fun w => w.l == l.val) = some w) ∧ (¬ going) ∧ x.tx = false)
        (fh 0 (fun x => { x with wins := [⟨13, 5, 0, 0, 9⟩] })) (4095) (13) (⟨13, [0, w64 (3 * 2 ^ 56 + 127 * 2 ^ 32)], 0, 0⟩)
        (⟨13, 5, 0, 0, 9⟩) ∧
    (fun (s : State) (n : Fin 4096) (l : Fin 14) (o : Occ) (w : Win) =>
      let x := s.str n.val
      let f := s.fhs n.val
      let going := (s.winOcc x l.val).any (fun o => o.time == w.at_) = true
      (f.wins.find? (fun w => w.l == l.val) = some w) ∧ (¬ going) ∧ x.tx = true) (fh (2 ^ 62)
        (fun x => { x with wins := [⟨13, 5, 0, 0, 9⟩] })) (4095) (13) (⟨13, [0, w64 (3 * 2 ^ 56 + 127 * 2 ^ 32)], 0, 0⟩)
        (⟨13, 5, 0, 0, 9⟩) ∧
    (fun (s : State) (c : Fin 384) =>
      let cfg := s.ent (Key.ethCpCfg c.val)
      bit cfg 63 = false) (up) (383) ∧
    (fun (s : State) (n : Fin 4096) (o : Occ) (seq : Nat) (sl : Nat) (sfn : Nat) (c : Fin 384) (dl : Bool) =>
      let x := s.str n.val
      let sent := tget 0 s.cpSent (c.val * 2 + b01 dl) = seq + 1
      let names := (List.range 4096).find? (fun n => let x := s.str n; x.en && x.kind == skOran && x.carrier == c.val && x.tx == dl) = some n.val
      let cwin := names ∧ s.winOcc x (if dl then 14 else 15) = some o ∧ s.winSlot x o 1 = some (seq, sl, sfn)
      cwin ∧ sent) ({ fwin 14 (fhN 3 (2 ^ 62) id) with cpSent := [(767, 7)] }) (3) (⟨14, [0, w64 (3 * 2 ^ 56 + 127 * 2 ^ 32)], 0, 0⟩)
        (6) (1) (0) (383) (true) ∧
    (fun (s : State) (s2 : State) (n : Fin 4096) (o : Occ) (seq : Nat) (sl : Nat) (sfn : Nat) (c : Fin 384) (dl : Bool) (b : List Byte) =>
      let x := s.str n.val
      let cfg := s.ent (Key.ethCpCfg c.val)
      let size := bf cfg 23 16 * 1024
      let sent := tget 0 s.cpSent (c.val * 2 + b01 dl) = seq + 1
      let t := { s with cpSent := tput s.cpSent (c.val * 2 + b01 dl) (seq + 1) }
      let names := (List.range 4096).find? (fun n => let x := s.str n; x.en && x.kind == skOran && x.carrier == c.val && x.tx == dl) = some n.val
      let cwin := names ∧ s.winOcc x (if dl then 14 else 15) = some o ∧ s.winSlot x o 1 = some (seq, sl, sfn)
      cwin ∧ bit cfg 63 = true ∧ (¬ sent) ∧
        t.fhRead { x with w1 := setf x.w1 39 37 (bf cfg 62 60) } (bf cfg 59 36 + seq % 2 ^ bf cfg 15 14 * size) size = (s2, b))
        ({ fwin 15 (fhN 3 (0) id) with cpSent := [(766, 6)] })
        ((({ (fwin 15 (fhN 3 0 id)) with cpSent := tput (fwin 15 (fhN 3 0 id)).cpSent (383 * 2 + b01 false) 7 }).fhRead { ((fwin 15 (fhN 3 0 id)).str 3) with w1 := setf ((fwin 15 (fhN 3 0 id)).str 3).w1 39 37 (bf ((fwin 15 (fhN 3 0 id)).ent (Key.ethCpCfg 383)) 62 60) } (bf ((fwin 15 (fhN 3 0 id)).ent (Key.ethCpCfg 383)) 59 36 + 6 % 2 ^ bf ((fwin 15 (fhN 3 0 id)).ent (Key.ethCpCfg 383)) 15 14 * (bf ((fwin 15 (fhN 3 0 id)).ent (Key.ethCpCfg 383)) 23 16 * 1024)) (bf ((fwin 15 (fhN 3 0 id)).ent (Key.ethCpCfg 383)) 23 16 * 1024)).1) (3) (⟨15, [0, w64 (3 * 2 ^ 56 + 127 * 2 ^ 32)], 0, 0⟩) (6) (1) (0) (383) (false) ((({ (fwin 15 (fhN 3 0 id)) with cpSent := tput (fwin 15 (fhN 3 0 id)).cpSent (383 * 2 + b01 false) 7 }).fhRead { ((fwin 15 (fhN 3 0 id)).str 3) with w1 := setf ((fwin 15 (fhN 3 0 id)).str 3).w1 39 37 (bf ((fwin 15 (fhN 3 0 id)).ent (Key.ethCpCfg 383)) 62 60) } (bf ((fwin 15 (fhN 3 0 id)).ent (Key.ethCpCfg 383)) 59 36 + 6 % 2 ^ bf ((fwin 15 (fhN 3 0 id)).ent (Key.ethCpCfg 383)) 15 14 * (bf ((fwin 15 (fhN 3 0 id)).ent (Key.ethCpCfg 383)) 23 16 * 1024)) (bf ((fwin 15 (fhN 3 0 id)).ent (Key.ethCpCfg 383)) 23 16 * 1024)).2) ∧
    (fun (s : State) (k : Fin 32) =>
      s.cpriRuns k.val = false) (up) (31) ∧
    (fun (s : State) (k : Fin 32) =>
      s.cpriRuns k.val = true) (cpri) (31) ∧
    (fun (s : State) (k : Fin 32) =>
      let lost := s.cpriRuns k.val = true ∧ 2 ≤ s.fld (Key.cpriStat k.val) 63 60
      lost) (cpri.setFld (Key.cpriStat 31) 63 60 2) (31) ∧
    (fun (s : State) (k : Fin 32) =>
      let lost := s.cpriRuns k.val = true ∧ 2 ≤ s.fld (Key.cpriStat k.val) 63 60
      (¬ lost)) (cpri) (31) := by
  refine ⟨?_, ?_, ?_, ?_, ?_, ?_, ?_, ?_⟩
  rotate_left 7
  refine ⟨?_, ?_, ?_, ?_, ?_, ?_, ?_, ?_⟩
  rotate_left 7
  refine ⟨?_, ?_, ?_⟩
  all_goals decide +kernel

theorem test_ParityWalks_meets :
    (fun (s : State) (a : BitVec 55) (q : Nat × Bool × Nat) =>
      let w := a.toNat / 8 * 8
      let pending := s.refetch.find? (fun q => q.1 == w) = some q
      pending ∧ q.2.1 = true) ({ up with refetch := [(imAddr 511 0x7FF8, true, 19)] }) (BitVec.ofNat _ (imAddr 511 0x7FF8))
        ((imAddr 511 0x7FF8, true, 19)) ∧
    (fun (s : State) (v : State) (a : BitVec 55) (ok : Bool) (q : Nat × Bool × Nat) =>
      let w := a.toNat / 8 * 8
      let t := { s with refetch := s.refetch.filter (fun q => q.1 != w) }
      let pending := s.refetch.find? (fun q => q.1 == w) = some q
      pending ∧ q.2.1 = false ∧ t.refetched w ok = some v)
        ((({ up with refetch := [(imAddr 511 0x7FF8, false, 19)] }).setEnt (Key.epImAnchor 511) 0x1000000))
        (((({ (({ up with refetch := [(imAddr 511 0x7FF8, false, 19)] }).setEnt (Key.epImAnchor 511) 0x1000000) with refetch := [] }).refetched (imAddr 511 0x7FF8) true).getD up)) (BitVec.ofNat _ (imAddr 511 0x7FF8)) (true) ((imAddr 511 0x7FF8, false, 19)) ∧
    (fun (s : State) (a : BitVec 55) (ok : Bool) (q : Nat × Bool × Nat) =>
      let w := a.toNat / 8 * 8
      let t := { s with refetch := s.refetch.filter (fun q => q.1 != w) }
      let pending := s.refetch.find? (fun q => q.1 == w) = some q
      pending ∧ q.2.1 = false ∧ t.refetched w ok = none) ({ up with refetch := [(imAddr 511 0x7FF8, false, 19)] })
        (BitVec.ofNat _ (imAddr 511 0x7FF8)) (true) ((imAddr 511 0x7FF8, false, 19)) ∧
    (fun (s : State) (a : BitVec 55) (h : Nat) =>
      let w := a.toNat / 8 * 8
      isInner w = false ∧ s.anchorOf w = some h) ((up.setEnt (Key.epImAnchor 511) 0x1000000)) (BitVec.ofNat _ (imAddr 511 0x7FF8))
        (0x1007FF8) ∧
    (fun (s : State) (a : BitVec 55) (q : Nat × Bool × Nat) (tn : Nat) =>
      let w := a.toNat / 8 * 8
      let idle := s.refetch.find? (fun q => q.1 == w) = none
      idle ∧ regionOf w = .im tn ∧ (s.tl tn).st = .running ∧ s.freshWord (w / 8) = true ∧ (s.tl tn).pc.toNat / 8 * 8 + imAddr tn 0 = w)
        ({ px with fresh := [(imAddr 511 0, true)] }) (BitVec.ofNat _ (imAddr 511 0)) ((imAddr 511 0x7FF8, false, 19)) (511) ∧
    (fun (s : State) (a : BitVec 55) (q : Nat × Bool × Nat) =>
      let w := a.toNat / 8 * 8
      let idle := s.refetch.find? (fun q => q.1 == w) = none
      idle ∧ s.freshWord (w / 8) = false) (up) (BitVec.ofNat _ (imAddr 511 0x7FF8)) ((imAddr 511 0x7FF8, false, 19)) ∧
    (fun (s : State) (port : Nat) (block : Nat) (m : Merge) =>
      (s.merges.find? (fun m => m.port == port && m.block == block) = none)) (up) (5) (9) (⟨5, 0, 9, [], [], 0, false⟩) ∧
    (fun (s : State) (port : Nat) (block : Nat) (m : Merge) =>
      (s.merges.find? (fun m => m.port == port && m.block == block) = some m) ∧ m.lastRaw + 2048 ≤ s.raw.toNat)
        ({ up with merges := [⟨5, 0, 9, [], [], 0, false⟩], raw := 2048 }) (5) (9) (⟨5, 0, 9, [], [], 0, false⟩) ∧
    (fun (s : State) (port : Nat) (block : Nat) (m : Merge) =>
      (s.merges.find? (fun m => m.port == port && m.block == block) = some m) ∧ s.raw.toNat < m.lastRaw + 2048)
        ({ up with merges := [⟨5, 0, 9, [], [], 0, false⟩] }) (5) (9) (⟨5, 0, 9, [], [], 0, false⟩) ∧
    (fun (s : State) (p : Fin 8) =>
      let gcfg := s.ent (Key.grmCfg p.val)
      let grooms := bit gcfg 63 = true ∧ s.walkDue p.val (bf gcfg 15 0) = true ∧ s.packUp p.val = true ∧
        s.unitRuns (accUnit p.val 21) = true ∧ s.fld Key.pwrThermStat 49 48 = 0
      grooms) (((dup.setUn (accUnit 0 21) { unitInit with released := true }).setEnt (Key.grmCfg 0) (w64 (2 ^ 63)))) (0) ∧
    (fun (s : State) (p : Fin 8) =>
      let gcfg := s.ent (Key.grmCfg p.val)
      let grooms := bit gcfg 63 = true ∧ s.walkDue p.val (bf gcfg 15 0) = true ∧ s.packUp p.val = true ∧
        s.unitRuns (accUnit p.val 21) = true ∧ s.fld Key.pwrThermStat 49 48 = 0
      (¬ grooms)) (up) (7) ∧
    (fun (s : State) =>
      let scrubs := s.flag Key.grmHbmCfg 63 = true ∧ s.walkDue 8 (s.fld Key.grmHbmCfg 15 0) = true ∧ s.fld Key.pwrThermStat 49 48 = 0 ∧
        s.flag Key.lshPauseB 0 = false ∧ s.warn = false ∧ s.phase ≠ phReset ∧ s.dev ≠ .hold
      scrubs) (((up.setEnt Key.grmHbmCfg (w64 (2 ^ 63))).setFld Key.grmHbmStat 28 0 (hbmBlocks - 2))) ∧
    (fun (s : State) =>
      let scrubs := s.flag Key.grmHbmCfg 63 = true ∧ s.walkDue 8 (s.fld Key.grmHbmCfg 15 0) = true ∧ s.fld Key.pwrThermStat 49 48 = 0 ∧
        s.flag Key.lshPauseB 0 = false ∧ s.warn = false ∧ s.phase ≠ phReset ∧ s.dev ≠ .hold
      (¬ scrubs)) (up.setEnt Key.grmHbmCfg 0) ∧
    (fun (s : State) (rq : Requester) (c : Fin 16) =>
      s.checkWrite rq (Key.epClassClear c.val) 1 = .ok) (up) (.root) (15) ∧
    (fun (s : State) (rq : Requester) (c : Fin 16) (e : Status) =>
      s.checkWrite rq (Key.epClassClear c.val) 1 = e ∧ e ≠ .ok) (up) (.session 15) (15) ((up.checkWrite (.session 15)
        (Key.epClassClear 15) 1)) ∧
    (fun (s : State) (c : Fin 16) =>
      let cnt := s.epSince c.val
      let last := tget 0 s.epTime c.val
      let tells := cnt ≠ 0 ∧ (last = 0 ∨ last - 1 + secTicks ≤ s.raw.toNat)
      tells) ((up.setEnt (Key.epClassCnt 15) 256)) (15) ∧
    (fun (s : State) (c : Fin 16) =>
      let cnt := s.epSince c.val
      let last := tget 0 s.epTime c.val
      let tells := cnt ≠ 0 ∧ (last = 0 ∨ last - 1 + secTicks ≤ s.raw.toNat)
      (¬ tells)) ({ (up.setEnt (Key.epClassCnt 15) 256) with epTime := [(15, 1)] }) (15) := by
  refine ⟨?_, ?_, ?_, ?_, ?_, ?_, ?_, ?_⟩
  rotate_left 7
  refine ⟨?_, ?_, ?_, ?_, ?_, ?_, ?_, ?_⟩
  rotate_left 7
  refine ⟨?_, ?_, ?_⟩
  all_goals decide +kernel

theorem test_DictionaryPorts_meets :
    (fun (s : State) (rq : Requester) (o : Obj) =>
      ((lookupObj (objKey o)).any (fun q => q.1.acc == .rc) = true ∧ s.checkRead rq (objKey o) = .ok)) (up.setEnt (Key.knDup 7) 9)
        (.root) (keyObj (Key.knDup 7)) ∧
    (fun (s : State) (rq : Requester) (o : Obj) =>
      ((lookupObj (objKey o)).any (fun q => q.1.acc == .rc) = true ∧ isDiag (objKey o) = false ∧ s.checkRead rq (objKey o) ≠ .ok)) (up)
        (.session 15) (keyObj (Key.knDup 7)) ∧
    (fun (s : State) (rq : Requester) (o : Obj) =>
      let x := objKey o
      isDiag x = true ∧ s.seen rq x = none) (up) (.root) (keyObj 0xFFFFFFFF) ∧
    (fun (s : State) (rq : Requester) (o : Obj) =>
      let x := objKey o
      isDiag x = false ∧ s.seen rq x = none) (up) (.root) (⟨0x0FFF, 0xFF⟩) ∧
    (fun (s : State) (rq : Requester) (o : Obj) (v : U64) =>
      let x := objKey o
      x = Key.knHighWater ∧ s.checkWrite rq x v = .ok) (up) (.root) (keyObj Key.knHighWater) (32000) ∧
    (fun (s : State) (rq : Requester) (o : Obj) (v : U64) (e : Status) =>
      let x := objKey o
      x = Key.knHighWater ∧ s.checkWrite rq x v = e ∧ e ≠ .ok) (up) (.session 15) (keyObj Key.knHighWater) (5)
        ((up.checkWrite (.session 15) Key.knHighWater 5)) ∧
    (fun (s : State) (rq : Requester) (o : Obj) (v : U64) =>
      let x := objKey o
      x = Key.odSessionIdle ∧ s.checkWrite rq x v = .ok) (up) (.root) (keyObj Key.odSessionIdle) (300) ∧
    (fun (s : State) (c : Fin 16) (a : Addr) (n : Nat) (k : Nat) =>
      s.coreRuns c.val = true ∧ windowKey a n = some k) (cup) (15) (0xF7FFFFFFF8) (8) (0xFFFFFFFF) ∧
    (fun (s : State) (c : Fin 16) (a : Addr) (n : Nat) =>
      s.coreRuns c.val = true ∧ windowKey a n = none) (cup) (15) (0x5) (1) ∧
    (fun (s : State) (c : Fin 16) (a : Addr) (n : Nat) (k : Nat) =>
      s.coreRuns c.val = true ∧ windowKey a n = some k) (cup) (15) (0xF7FFFFFFF8) (8) (0xFFFFFFFF) ∧
    (fun (s : State) (c : Fin 16) =>
      s.coreRuns c.val = false) (up) (15) ∧
    (fun (s : State) (rq : Requester) (v : U64) (i : Fin 2) =>
      s.checkWho rq (Key.pinI2cXfer i.val) (setf v 63 62 3) = .ok ∧ bf v 45 40 ≤ 32 ∧ bf v 37 32 ≤ 32 ∧ tfind s.i2cBusy i.val = none)
        (up) (.root) (w64 (0 * 2 ^ 62 + 32 * 2 ^ 40 + 32 * 2 ^ 32 + 0x50)) (1) ∧
    (fun (s : State) (i : Fin 2) (xf : I2cXfer) =>
      tfind s.i2cBusy i.val = some xf ∧ s.i2cMayEnd xf .nackData = true)
        ({ up with i2cBusy := [(1, ⟨w64 (1 * 2 ^ 62 + 32 * 2 ^ 40 + 32 * 2 ^ 32 + 0x50), 0, []⟩)] }) (1)
        (⟨w64 (1 * 2 ^ 62 + 32 * 2 ^ 40 + 32 * 2 ^ 32 + 0x50), 0, []⟩) ∧
    (fun (s : State) (i : Fin 2) (res : I2cResult) (xf : I2cXfer) =>
      tfind s.i2cBusy i.val = some xf ∧ s.i2cMayEnd xf res = false)
        ({ up with i2cBusy := [(1, ⟨w64 (1 * 2 ^ 62 + 32 * 2 ^ 40 + 32 * 2 ^ 32 + 0x50), 0, []⟩)] }) (1) (.timeout)
        (⟨w64 (1 * 2 ^ 62 + 32 * 2 ^ 40 + 32 * 2 ^ 32 + 0x50), 0, []⟩) ∧
    (fun (s : State) (i : Fin 2) (xf : I2cXfer) (b : List Byte) =>
      let reads := b.take (if 2 ≤ bf xf.word 63 62 then bf xf.word 37 32 else 0)
      tfind s.i2cBusy i.val = some xf ∧ reads = [])
        ({ up with i2cBusy := [(1, ⟨w64 (1 * 2 ^ 62 + 32 * 2 ^ 40 + 32 * 2 ^ 32 + 0x50), 0, []⟩)] }) (1)
        (⟨w64 (1 * 2 ^ 62 + 32 * 2 ^ 40 + 32 * 2 ^ 32 + 0x50), 0, []⟩) ([1, 2]) ∧
    (fun (s : State) (i : Fin 2) (xf : I2cXfer) (b : List Byte) =>
      let reads := b.take (if 2 ≤ bf xf.word 63 62 then bf xf.word 37 32 else 0)
      tfind s.i2cBusy i.val = some xf ∧ reads ≠ [])
        ({ up with i2cBusy := [(1, ⟨w64 (2 * 2 ^ 62 + 32 * 2 ^ 40 + 32 * 2 ^ 32 + 0x50), 0, []⟩)] }) (1)
        (⟨w64 (2 * 2 ^ 62 + 32 * 2 ^ 40 + 32 * 2 ^ 32 + 0x50), 0, []⟩) ([1, 2]) ∧
    (fun (s : State) (i : Fin 2) =>
      tfind s.i2cBusy i.val = none) (up) (1) ∧
    (fun (s : State) (ip4 : BitVec 32) =>
      let up := s.pwrgood = true ∧ s.resetN = true ∧ phPost ≤ s.phase
      up ∧ s.ownIp4 ip4 = true)
        (((((up.setEnt Key.odIp4 (w64 (2 ^ 63 + 0x0A000001))).setFlag Key.odIp6Cfg 31 true).setEntN (Key.odIp6 0) 0).setEntN (Key.odIp6 1) 5)) (0x0A000001) ∧
    (fun (s : State) (ip4 : BitVec 32) =>
      let up := s.pwrgood = true ∧ s.resetN = true ∧ phPost ≤ s.phase
      up ∧ s.ownIp4 ip4 = true)
        (((((up.setEnt Key.odIp4 (w64 (2 ^ 63 + 0x0A000001))).setFlag Key.odIp6Cfg 31 true).setEntN (Key.odIp6 0) 0).setEntN (Key.odIp6 1) 5)) (0x0A000001) ∧
    (fun (s : State) (ip4 : BitVec 32) =>
      s.ownIp4 ip4 = false) (up) (0x0A000001) := by
  refine ⟨?_, ?_, ?_, ?_, ?_, ?_, ?_, ?_⟩
  rotate_left 7
  refine ⟨?_, ?_, ?_, ?_, ?_, ?_, ?_, ?_⟩
  rotate_left 7
  refine ⟨?_, ?_, ?_, ?_, ?_, ?_⟩
  all_goals decide +kernel

theorem test_DictionaryPorts_meets_ip6 :
    (fun (s : State) (ip6 : BitVec 128) =>
      let up := s.pwrgood = true ∧ s.resetN = true ∧ phPost ≤ s.phase
      up ∧ s.ownIp6 ip6 = true)
        (((((up.setEnt Key.odIp4 (w64 (2 ^ 63 + 0x0A000001))).setFlag Key.odIp6Cfg 31 true).setEntN (Key.odIp6 0) 0).setEntN (Key.odIp6 1) 5)) (linkLocal) ∧
    (fun (s : State) (ip6 : BitVec 128) =>
      let up := s.pwrgood = true ∧ s.resetN = true ∧ phPost ≤ s.phase
      up ∧ s.ownIp6 ip6 = true)
        (((((up.setEnt Key.odIp4 (w64 (2 ^ 63 + 0x0A000001))).setFlag Key.odIp6Cfg 31 true).setEntN (Key.odIp6 0) 0).setEntN (Key.odIp6 1) 5)) (linkLocal) := by
  refine ⟨?_, ?_⟩
  all_goals exact ⟨by decide +kernel, by simp [State.ownIp6]⟩

theorem test_EnberRequests_meets :
    (fun (s : State) (m : EnberMsg) (i : Fin 16) (x : Session) =>
      let on := s.enberOn = true ∧ enberFramed m = true
      let mine := on ∧ m.session ≠ 0 ∧ s.sessionAt m.session = some i ∧ s.sess i.val = some x
      let tagOk := m.tag = enberTag (x.keys.take 32) (enberHeader m ++ enberBody m)
      mine ∧ (¬ tagOk)) ((ses .admin)) ({ (em 1 0 5 (keyObj 0xFFFFFFFF) 1 []) with tag := [] }) (15) (sesOf .admin) ∧
    (fun (s : State) (m : EnberMsg) =>
      let on := s.enberOn = true ∧ enberFramed m = true
      on ∧ m.session = 0) ((ses .admin)) ((eh 1 0 [])) ∧
    (fun (s : State) (m : EnberMsg) =>
      let on := s.enberOn = true ∧ enberFramed m = true
      on ∧ m.session ≠ 0 ∧ s.sessionAt m.session = none) ((ses .admin)) ((eh 1 8 [])) ∧
    (fun (s : State) =>
      s.enberOn = false) (up.setFlag Key.odEnberCfg 63 false) ∧
    (fun (s : State) (m : EnberMsg) =>
      let on := s.enberOn = true ∧ enberFramed m = true
      m.op = 1 ∧ on ∧ m.session = 0) ((ses .admin)) ((eh 1 0 [])) ∧
    (fun (s : State) (m : EnberMsg) =>
      let on := s.enberOn = true ∧ enberFramed m = true
      m.op = 2 ∧ enberTok m = false ∧ on ∧ m.session = 0) ((ses .admin)) ((eh 2 0 [])) := by
  refine ⟨?_, ?_, ?_, ?_, ?_, ?_⟩
  all_goals decide +kernel

theorem test_EnberRequests_meets_tag :
    (fun (s : State) (m : EnberMsg) (i : Fin 16) (x : Session) =>
      let seq := m.seq.toNat
      let on := s.enberOn = true ∧ enberFramed m = true
      let mine := on ∧ m.session ≠ 0 ∧ s.sessionAt m.session = some i ∧ s.sess i.val = some x
      let tagOk := m.tag = enberTag (x.keys.take 32) (enberHeader m ++ enberBody m)
      let served := mine ∧ tagOk ∧ x.high ≤ seq ∧ m.dialect.toNat = x.dialect ∧ enberForm m = true
      m.op = 1 ∧ served ∧ (s.readRun i m false).2.isSome = true) ((ses .admin)) ((em 1 0 5 (keyObj 0xFFFFFFFF) 1 [])) (15) (sesOf .admin) ∧
    (fun (s : State) (m : EnberMsg) (i : Fin 16) (x : Session) =>
      let seq := m.seq.toNat
      let on := s.enberOn = true ∧ enberFramed m = true
      let mine := on ∧ m.session ≠ 0 ∧ s.sessionAt m.session = some i ∧ s.sess i.val = some x
      let tagOk := m.tag = enberTag (x.keys.take 32) (enberHeader m ++ enberBody m)
      let served := mine ∧ tagOk ∧ x.high ≤ seq ∧ m.dialect.toNat = x.dialect ∧ enberForm m = true
      m.op = 3 ∧ served ∧ (s.readRun i m true).2.isSome = true) ((ses .admin)) ((em 3 0 5 (keyObj 0xFFFFFFFF) 1 [])) (15) (sesOf .admin) ∧
    (fun (s : State) (m : EnberMsg) (i : Fin 16) (x : Session) =>
      let seq := m.seq.toNat
      let on := s.enberOn = true ∧ enberFramed m = true
      let mine := on ∧ m.session ≠ 0 ∧ s.sessionAt m.session = some i ∧ s.sess i.val = some x
      let tagOk := m.tag = enberTag (x.keys.take 32) (enberHeader m ++ enberBody m)
      let served := mine ∧ tagOk ∧ x.high ≤ seq ∧ m.dialect.toNat = x.dialect ∧ enberForm m = true
      m.op = 2 ∧ enberTok m = false ∧ served) ((ses .admin)) ((em 2 0 5 (keyObj 0xFFFFFFFF) 1 [0, 0, 0, 0, 0, 0, 0x7D, 0])) (15)
        (sesOf .admin) ∧
    (fun (s : State) (m : EnberMsg) (i : Fin 16) (x : Session) =>
      let seq := m.seq.toNat
      let on := s.enberOn = true ∧ enberFramed m = true
      let mine := on ∧ m.session ≠ 0 ∧ s.sessionAt m.session = some i ∧ s.sess i.val = some x
      let tagOk := m.tag = enberTag (x.keys.take 32) (enberHeader m ++ enberBody m)
      let served := mine ∧ tagOk ∧ x.high ≤ seq ∧ m.dialect.toNat = x.dialect ∧ enberForm m = true
      m.op = 4 ∧ served) ((ses .admin)) ((em 4 0 5 (keyObj 0xFFFFFFFF) 1 [0, 0, 0, 0, 0, 0, 0x7D, 0])) (15) (sesOf .admin) ∧
    (fun (s : State) (m : EnberMsg) (i : Fin 16) (x : Session) =>
      let seq := m.seq.toNat
      let on := s.enberOn = true ∧ enberFramed m = true
      let mine := on ∧ m.session ≠ 0 ∧ s.sessionAt m.session = some i ∧ s.sess i.val = some x
      let tagOk := m.tag = enberTag (x.keys.take 32) (enberHeader m ++ enberBody m)
      let served := mine ∧ tagOk ∧ x.high ≤ seq ∧ m.dialect.toNat = x.dialect ∧ enberForm m = true
      let body := enberBody m
      let id := (body.getD 0 0).toNat
      let mode := (body.getD 1 0).toNat
      let period := beNat ((body.drop 4).take 4)
      let subs := s.subStatus i m x id mode (beNat ((body.drop 2).take 2)) period
      m.op = 5 ∧ served ∧ subs = .ok ∧ mode = 0) ((ses .admin)) ((em 5 0 5 (keyObj 0xFFFFFFFF) 1 [63, 0, 0, 0, 0, 0, 0, 0])) (15)
        (sesOf .admin) ∧
    (fun (s : State) (m : EnberMsg) (i : Fin 16) (x : Session) =>
      let seq := m.seq.toNat
      let on := s.enberOn = true ∧ enberFramed m = true
      let mine := on ∧ m.session ≠ 0 ∧ s.sessionAt m.session = some i ∧ s.sess i.val = some x
      let tagOk := m.tag = enberTag (x.keys.take 32) (enberHeader m ++ enberBody m)
      let served := mine ∧ tagOk ∧ x.high ≤ seq ∧ m.dialect.toNat = x.dialect ∧ enberForm m = true
      let body := enberBody m
      let id := (body.getD 0 0).toNat
      let mode := (body.getD 1 0).toNat
      let period := beNat ((body.drop 4).take 4)
      let subs := s.subStatus i m x id mode (beNat ((body.drop 2).take 2)) period
      m.op = 5 ∧ served ∧ subs = .ok ∧ mode ≠ 0) ((ses .admin)) ((em 5 0 5 (keyObj 0xFFFFFFFF) 1 [63, 2, 0, 0, 0, 0, 0, 10])) (15)
        (sesOf .admin) ∧
    (fun (s : State) (m : EnberMsg) (i : Fin 16) (x : Session) (st : Status) =>
      let seq := m.seq.toNat
      let on := s.enberOn = true ∧ enberFramed m = true
      let mine := on ∧ m.session ≠ 0 ∧ s.sessionAt m.session = some i ∧ s.sess i.val = some x
      let tagOk := m.tag = enberTag (x.keys.take 32) (enberHeader m ++ enberBody m)
      let served := mine ∧ tagOk ∧ x.high ≤ seq ∧ m.dialect.toNat = x.dialect ∧ enberForm m = true
      let body := enberBody m
      let id := (body.getD 0 0).toNat
      let mode := (body.getD 1 0).toNat
      let period := beNat ((body.drop 4).take 4)
      let subs := s.subStatus i m x id mode (beNat ((body.drop 2).take 2)) period
      m.op = 5 ∧ served ∧ subs = st ∧ st ≠ .ok) ((ses .admin)) ((em 5 0 5 (keyObj 0xFFFFFFFF) 1 [64, 2, 0, 0, 0, 0, 0, 10])) (15)
        (sesOf .admin) (((ses .admin).subStatus 15 (em 5 0 5 (keyObj 0xFFFFFFFF) 1 [64, 2, 0, 0, 0, 0, 0, 10]) (sesOf .admin) 64 2 0 10)) ∧
    (fun (s : State) (m : EnberMsg) (i : Fin 16) (x : Session) =>
      let seq := m.seq.toNat
      let on := s.enberOn = true ∧ enberFramed m = true
      let mine := on ∧ m.session ≠ 0 ∧ s.sessionAt m.session = some i ∧ s.sess i.val = some x
      let tagOk := m.tag = enberTag (x.keys.take 32) (enberHeader m ++ enberBody m)
      let served := mine ∧ tagOk ∧ x.high ≤ seq ∧ m.dialect.toNat = x.dialect ∧ enberForm m = true
      let token := m.op = 2 ∧ enberTok m = true ∧ served
      token ∧ s.isReader i = true) ((ses .reader)) ((em 2 4 5 (⟨0, 0⟩) 0 [])) (15) (sesOf .reader) ∧
    (fun (s : State) (m : EnberMsg) (i : Fin 16) (x : Session) =>
      let seq := m.seq.toNat
      let on := s.enberOn = true ∧ enberFramed m = true
      let mine := on ∧ m.session ≠ 0 ∧ s.sessionAt m.session = some i ∧ s.sess i.val = some x
      let tagOk := m.tag = enberTag (x.keys.take 32) (enberHeader m ++ enberBody m)
      let served := mine ∧ tagOk ∧ x.high ≤ seq ∧ m.dialect.toNat = x.dialect ∧ enberForm m = true
      let writer := s.isReader i = false
      let token := m.op = 2 ∧ enberTok m = true ∧ served
      token ∧ writer ∧ (s.warn = true ∨ s.commits ≠ [])) ({ ses .admin with warn := true }) ((em 2 4 5 (⟨0, 0⟩) 0 [])) (15) (sesOf .admin) ∧
    (fun (s : State) (t : State) (m : EnberMsg) (i : Fin 16) (x : Session) (st : Status) (ver : MramResult) =>
      let seq := m.seq.toNat
      let on := s.enberOn = true ∧ enberFramed m = true
      let mine := on ∧ m.session ≠ 0 ∧ s.sessionAt m.session = some i ∧ s.sess i.val = some x
      let tagOk := m.tag = enberTag (x.keys.take 32) (enberHeader m ++ enberBody m)
      let served := mine ∧ tagOk ∧ x.high ≤ seq ∧ m.dialect.toNat = x.dialect ∧ enberForm m = true
      let body := enberBody m
      let writer := s.isReader i = false
      let token := m.op = 2 ∧ enberTok m = true ∧ served
      token ∧ writer ∧ s.warn = false ∧ s.commits = [] ∧ supplyLost ver = false ∧ s.tokenWrite (.session i) body ver = (t, st))
        ((ses .admin)) (((((ses .admin)).tokenWrite (.session 15) (enberBody (em 2 4 5 (⟨0, 0⟩) 0 [])) .bothGood)).1)
        ((em 2 4 5 (⟨0, 0⟩) 0 [])) (15) (sesOf .admin) (((((ses .admin)).tokenWrite (.session 15)
        (enberBody (em 2 4 5 (⟨0, 0⟩) 0 [])) .bothGood)).2) (.bothGood) ∧
    (fun (s : State) (t : State) (m : EnberMsg) (i : Fin 16) (x : Session) (st : Status) (ver : MramResult) =>
      let seq := m.seq.toNat
      let on := s.enberOn = true ∧ enberFramed m = true
      let mine := on ∧ m.session ≠ 0 ∧ s.sessionAt m.session = some i ∧ s.sess i.val = some x
      let tagOk := m.tag = enberTag (x.keys.take 32) (enberHeader m ++ enberBody m)
      let served := mine ∧ tagOk ∧ x.high ≤ seq ∧ m.dialect.toNat = x.dialect ∧ enberForm m = true
      let body := enberBody m
      let writer := s.isReader i = false
      let token := m.op = 2 ∧ enberTok m = true ∧ served
      token ∧ writer ∧ s.warn = false ∧ s.commits = [] ∧ supplyLost ver = true ∧ s.tokenWrite (.session i) body ver = (t, st))
        ((ses .admin)) (((((ses .admin)).tokenWrite (.session 15) (enberBody (em 2 4 5 (⟨0, 0⟩) 0 [])) .lostInFirst)).1)
        ((em 2 4 5 (⟨0, 0⟩) 0 [])) (15) (sesOf .admin) (((((ses .admin)).tokenWrite (.session 15)
        (enberBody (em 2 4 5 (⟨0, 0⟩) 0 [])) .lostInFirst)).2) (.lostInFirst) ∧
    (fun (s : State) (m : EnberMsg) (i : Fin 16) (x : Session) =>
      let seq := m.seq.toNat
      let on := s.enberOn = true ∧ enberFramed m = true
      let mine := on ∧ m.session ≠ 0 ∧ s.sessionAt m.session = some i ∧ s.sess i.val = some x
      let tagOk := m.tag = enberTag (x.keys.take 32) (enberHeader m ++ enberBody m)
      let served := mine ∧ tagOk ∧ x.high ≤ seq ∧ m.dialect.toNat = x.dialect ∧ enberForm m = true
      let writer := s.isReader i = false
      m.op = 7 ∧ served ∧ writer ∧ s.commits.length < 8) ((ses .admin)) ((em 7 0 5 (⟨0, 0⟩) 0 [])) (15) (sesOf .admin) ∧
    (fun (s : State) (m : EnberMsg) (i : Fin 16) (x : Session) =>
      let seq := m.seq.toNat
      let on := s.enberOn = true ∧ enberFramed m = true
      let mine := on ∧ m.session ≠ 0 ∧ s.sessionAt m.session = some i ∧ s.sess i.val = some x
      let tagOk := m.tag = enberTag (x.keys.take 32) (enberHeader m ++ enberBody m)
      let served := mine ∧ tagOk ∧ x.high ≤ seq ∧ m.dialect.toNat = x.dialect ∧ enberForm m = true
      let writer := s.isReader i = false
      m.op = 7 ∧ served ∧ writer ∧ 8 ≤ s.commits.length) ({ ses .admin with commits := List.replicate 8 ⟨15, [], none⟩ })
        ((em 7 0 5 (⟨0, 0⟩) 0 [])) (15) (sesOf .admin) ∧
    (fun (s : State) (m : EnberMsg) (i : Fin 16) (x : Session) =>
      let seq := m.seq.toNat
      let on := s.enberOn = true ∧ enberFramed m = true
      let mine := on ∧ m.session ≠ 0 ∧ s.sessionAt m.session = some i ∧ s.sess i.val = some x
      let tagOk := m.tag = enberTag (x.keys.take 32) (enberHeader m ++ enberBody m)
      let served := mine ∧ tagOk ∧ x.high ≤ seq ∧ m.dialect.toNat = x.dialect ∧ enberForm m = true
      m.op = 7 ∧ served ∧ s.isReader i = true) ((ses .reader)) ((em 7 0 5 (⟨0, 0⟩) 0 [])) (15) (sesOf .reader) ∧
    (fun (s : State) (m : EnberMsg) (i : Fin 16) (x : Session) (r : Reply) (j : Nat) =>
      let seq := m.seq.toNat
      let on := s.enberOn = true ∧ enberFramed m = true
      let mine := on ∧ m.session ≠ 0 ∧ s.sessionAt m.session = some i ∧ s.sess i.val = some x
      let tagOk := m.tag = enberTag (x.keys.take 32) (enberHeader m ++ enberBody m)
      mine ∧ tagOk ∧ seq < x.high ∧ (x.cache.find? (fun e => e.1 == seq) = some (j, r))) ((ses .admin))
        ((em 1 0 4 (keyObj 0xFFFFFFFF) 1 [])) (15) (sesOf .admin) (.none) (4) ∧
    (fun (s : State) (m : EnberMsg) (i : Fin 16) (x : Session) =>
      let seq := m.seq.toNat
      let on := s.enberOn = true ∧ enberFramed m = true
      let mine := on ∧ m.session ≠ 0 ∧ s.sessionAt m.session = some i ∧ s.sess i.val = some x
      let tagOk := m.tag = enberTag (x.keys.take 32) (enberHeader m ++ enberBody m)
      mine ∧ tagOk ∧ seq < x.high ∧ (x.cache.find? (fun e => e.1 == seq) = none)) ((ses .admin)) ((em 1 0 3 (keyObj 0xFFFFFFFF) 1 []))
        (15) (sesOf .admin) ∧
    (fun (s : State) (m : EnberMsg) (i : Fin 16) (x : Session) =>
      let seq := m.seq.toNat
      let on := s.enberOn = true ∧ enberFramed m = true
      let mine := on ∧ m.session ≠ 0 ∧ s.sessionAt m.session = some i ∧ s.sess i.val = some x
      let tagOk := m.tag = enberTag (x.keys.take 32) (enberHeader m ++ enberBody m)
      mine ∧ tagOk ∧ x.high ≤ seq ∧ m.dialect.toNat ≠ x.dialect)
        ({ ses .admin with session := [(15, { sesOf .admin with dialect := 2 })] }) ((em 1 0 5 (keyObj 0xFFFFFFFF) 1 [])) (15)
        ({ sesOf .admin with dialect := 2 }) := by
  refine ⟨?_, ?_, ?_, ?_, ?_, ?_, ?_, ?_⟩
  rotate_left 7
  refine ⟨?_, ?_, ?_, ?_, ?_, ?_, ?_, ?_⟩
  rotate_left 7
  refine ⟨?_, ?_, ?_⟩
  all_goals repeat' apply And.intro
  all_goals first | exact em_tag .. | exact readRun_some .. | decide +kernel

theorem test_EnberSessions_meets :
    (fun (s : State) (m : EnberMsg) =>
      let y := enberBody m
      let on := s.enberOn = true ∧ enberFramed m = true
      let scope := y.getD 4 0
      let formed := enberForm m = true ∧ (y.drop 5).take 3 = [0, 0, 0] ∧ (scope.toNat < 8 ∨ scope = 0xFF)
      let hello := m.op = 9 ∧ on ∧ m.session = 0
      hello ∧ formed) ((ses .admin)) ((eh 9 0 (List.replicate 4 0xFF ++ [0xFF] ++ List.replicate 35 0))) ∧
    (fun (s : State) (m : EnberMsg) =>
      let y := enberBody m
      let on := s.enberOn = true ∧ enberFramed m = true
      let scope := y.getD 4 0
      let formed := enberForm m = true ∧ (y.drop 5).take 3 = [0, 0, 0] ∧ (scope.toNat < 8 ∨ scope = 0xFF)
      let hello := m.op = 9 ∧ on ∧ m.session = 0
      hello ∧ (¬ formed)) ((ses .admin)) ((eh 9 0 [])) ∧
    (fun (s : State) (m : EnberMsg) (h : Nat) (hs : Handshake) =>
      let y := enberBody m
      let on := s.enberOn = true ∧ enberFramed m = true
      let auth := m.op = 8 ∧ on ∧ s.handshake.find? (fun e => e.2.id == m.session) = some (h, hs)
      let aform := m.dialect.toNat = hs.dialect ∧ enberForm m = true ∧ ((y.drop 1).take 7 ++ (y.drop 121).take 7).any (· ≠ 0) = false
      auth ∧ aform) ({ ses .admin with session := [], handshake := [(7, ⟨9, 1, 0xFF, [], 0, 0⟩)] })
        ((eh 8 9 (16 :: List.replicate 241 0))) (7) (⟨9, 1, 0xFF, [], 0, 0⟩) ∧
    (fun (s : State) (m : EnberMsg) (h : Nat) (hs : Handshake) =>
      let on := s.enberOn = true ∧ enberFramed m = true
      let auth := m.op = 8 ∧ on ∧ s.handshake.find? (fun e => e.2.id == m.session) = some (h, hs)
      auth ∧ m.dialect.toNat ≠ hs.dialect) ({ ses .admin with session := [], handshake := [(7, ⟨9, 1, 0xFF, [], 0, 0⟩)] })
        ({ eh 8 9 [] with dialect := 2 }) (7) (⟨9, 1, 0xFF, [], 0, 0⟩) ∧
    (fun (s : State) (m : EnberMsg) =>
      let on := s.enberOn = true ∧ enberFramed m = true
      m.op = 8 ∧ on ∧ (s.handshake.find? (fun e => e.2.id == m.session) = none))
        ({ ses .admin with session := [], handshake := [(7, ⟨9, 1, 0xFF, [], 0, 0⟩)] }) ((eh 8 8 [])) ∧
    (fun (s : State) (i : Fin 16) (x : Session) =>
      s.sess i.val = some x ∧ x.lastRaw + s.entN Key.odSessionIdle * secTicks ≤ s.raw.toNat) ({ ses .admin with raw := 2 ^ 60 }) (15)
        (sesOf .admin) ∧
    (fun (s : State) (i : Fin 16) (x : Session) =>
      s.sess i.val = some x ∧ s.raw.toNat < x.lastRaw + s.entN Key.odSessionIdle * secTicks)
        (((ses .admin).setEntN Key.odSessionIdle 300)) (15) (sesOf .admin) ∧
    (fun (s : State) (hs : Handshake) (hn : Fin 8) =>
      tfind s.handshake hn.val = some hs ∧ hs.since + 5 * secTicks ≤ s.raw.toNat)
        ({ up with handshake := [(7, ⟨9, 1, 0xFF, [], 0, 0⟩)], raw := BitVec.ofNat _ (5 * secTicks) }) (⟨9, 1, 0xFF, [], 0, 0⟩) (7) ∧
    (fun (s : State) (hs : Handshake) (hn : Fin 8) =>
      tfind s.handshake hn.val = some hs ∧ s.raw.toNat < hs.since + 5 * secTicks)
        ({ up with handshake := [(7, ⟨9, 1, 0xFF, [], 0, 0⟩)], raw := BitVec.ofNat _ (5 * secTicks - 1) }) (⟨9, 1, 0xFF, [], 0, 0⟩) (7) ∧
    (fun (s : State) (i : Fin 16) (x : Session) (sub : BitVec 6) (b : Sub) =>
      let subbed := s.sess i.val = some x ∧ tfind x.subs sub.toNat = some b
      let time := b.sampleRaw + msTicks (if b.mode = 2 then b.period else 1) ≤ s.raw.toNat
      subbed ∧ (¬ time))
        ({ ses .admin with session := [(15, { sesOf .admin with subs := [(63, ⟨2, 10, keyObj 0xFFFFFFFF, 1, [], 0, 0⟩)] })], raw := 5 }) (15) ({ sesOf .admin with subs := [(63, ⟨2, 10, keyObj 0xFFFFFFFF, 1, [], 0, 0⟩)] }) (63) (⟨2, 10, keyObj 0xFFFFFFFF, 1, [], 0, 0⟩) ∧
    (fun (s : State) (i : Fin 16) (x : Session) (sub : BitVec 6) (b : Sub) =>
      let subbed := s.sess i.val = some x ∧ tfind x.subs sub.toNat = some b
      let time := b.sampleRaw + msTicks (if b.mode = 2 then b.period else 1) ≤ s.raw.toNat
      let vals := (s.sample i b).1
      let tells := b.mode = 2 ∨ (b.sentRaw + msTicks (s.entN Key.odNotifyMin) ≤ s.raw.toNat ∧ vals ≠ b.last)
      subbed ∧ time ∧ tells)
        ({ ses .admin with session := [(15, { sesOf .admin with subs := [(63, ⟨2, 10, keyObj 0xFFFFFFFF, 1, [], 0, 0⟩)] })], raw := 2 ^ 40 }) (15) ({ sesOf .admin with subs := [(63, ⟨2, 10, keyObj 0xFFFFFFFF, 1, [], 0, 0⟩)] }) (63) (⟨2, 10, keyObj 0xFFFFFFFF, 1, [], 0, 0⟩) ∧
    (fun (s : State) (i : Fin 16) (x : Session) (sub : BitVec 6) (b : Sub) =>
      let subbed := s.sess i.val = some x ∧ tfind x.subs sub.toNat = some b
      let time := b.sampleRaw + msTicks (if b.mode = 2 then b.period else 1) ≤ s.raw.toNat
      let vals := (s.sample i b).1
      let tells := b.mode = 2 ∨ (b.sentRaw + msTicks (s.entN Key.odNotifyMin) ≤ s.raw.toNat ∧ vals ≠ b.last)
      subbed ∧ time ∧ (¬ tells))
        ({ ses .admin with session := [(15, { sesOf .admin with subs := [(63, ⟨1, 10, keyObj 0xFFFFFFFF, 1, [0], 2 ^ 40, 0⟩)] })], raw := 2 ^ 40 }) (15) ({ sesOf .admin with subs := [(63, ⟨1, 10, keyObj 0xFFFFFFFF, 1, [0], 2 ^ 40, 0⟩)] }) (63) (⟨1, 10, keyObj 0xFFFFFFFF, 1, [0], 2 ^ 40, 0⟩) := by
  refine ⟨?_, ?_, ?_, ?_, ?_, ?_, ?_, ?_⟩
  rotate_left 7
  refine ⟨?_, ?_, ?_, ?_, ?_⟩
  all_goals decide +kernel

theorem test_EnberSessions_meets_tag :
    (fun (s : State) (m : EnberMsg) (i : Fin 16) (x : Session) =>
      let y := enberBody m
      let on := s.enberOn = true ∧ enberFramed m = true
      m.op = 9 ∧ on ∧ m.session ≠ 0 ∧ s.sessionAt m.session = some i ∧ s.sess i.val = some x ∧ m.tag = enberTag (x.keys.take 32)
        (enberHeader m ++ y) ∧ x.high ≤ m.seq.toNat ∧ m.dialect.toNat = x.dialect ∧ enberForm m = true) ((ses .admin))
        ((em 9 0 5 (⟨0, 0⟩) 0 (List.replicate 40 0))) (15) (sesOf .admin) := by
  all_goals repeat' apply And.intro
  all_goals first | exact em_tag .. | exact readRun_some .. | decide +kernel

theorem test_TokensCommits_meets :
    (fun (s : State) (c : Fin 16) (md : PrivMode) (v : U64) =>
      let k := c.val * 2 ^ 32 + Key.odTokenCtl
      let checking := bit (tget 0 s.bank k) 63 = true
      s.checkWrite (.core c md) Key.odTokenCtl v = .ok ∧ (¬ checking)) (cup) (15) (.machine) (w64 (2 ^ 63 + 5)) ∧
    (fun (s : State) (c : Fin 16) (md : PrivMode) (v : U64) =>
      let k := c.val * 2 ^ 32 + Key.odTokenCtl
      let checking := bit (tget 0 s.bank k) 63 = true
      s.checkWrite (.core c md) Key.odTokenCtl v = .ok ∧ checking)
        ({ cup with bank := [(15 * 2 ^ 32 + Key.odTokenCtl, w64 (2 ^ 63 + 0))] }) (15) (.machine) (w64 (2 ^ 63 + 5)) ∧
    (fun (s : State) =>
      let held := s.warn = true ∨ s.commits ≠ []
      held) ({ cup with warn := true }) ∧
    (fun (s : State) =>
      let held := s.warn = true ∨ s.commits ≠ []
      held) ({ cup with commits := [⟨15, [], none⟩] }) ∧
    (fun (s : State) (u : State) (c : Fin 16) (r : MramResult) (st : Status) =>
      let k := c.val * 2 ^ 32 + Key.odTokenCtl
      let n := bf (tget 0 s.bank k) 15 0
      let b := ((List.range 33).flatMap (fun i => leBytes 8 (tget 0 s.bank (c.val * 2 ^ 32 + Key.odTokenBuf i)).toNat)).take n
      let checking := bit (tget 0 s.bank k) 63 = true
      let held := s.warn = true ∨ s.commits ≠ []
      checking ∧ (¬ held) ∧ supplyLost r = false ∧ s.tokenWrite (.core c .machine) (if n ≤ 264 then b else []) r = (u, st))
        ({ cup with bank := [(15 * 2 ^ 32 + Key.odTokenCtl, w64 (2 ^ 63 + 265))] })
        ((({ cup with bank := [(15 * 2 ^ 32 + Key.odTokenCtl, w64 (2 ^ 63 + 265))] }).tokenWrite (.core 15 .machine) [] .bothGood).1)
        (15) (.bothGood)
        ((({ cup with bank := [(15 * 2 ^ 32 + Key.odTokenCtl, w64 (2 ^ 63 + 265))] }).tokenWrite (.core 15 .machine) [] .bothGood).2) ∧
    (fun (s : State) (u : State) (c : Fin 16) (r : MramResult) (st : Status) =>
      let k := c.val * 2 ^ 32 + Key.odTokenCtl
      let n := bf (tget 0 s.bank k) 15 0
      let b := ((List.range 33).flatMap (fun i => leBytes 8 (tget 0 s.bank (c.val * 2 ^ 32 + Key.odTokenBuf i)).toNat)).take n
      let checking := bit (tget 0 s.bank k) 63 = true
      let held := s.warn = true ∨ s.commits ≠ []
      checking ∧ (¬ held) ∧ supplyLost r = true ∧ s.tokenWrite (.core c .machine) (if n ≤ 264 then b else []) r = (u, st))
        ({ cup with bank := [(15 * 2 ^ 32 + Key.odTokenCtl, w64 (2 ^ 63 + 265))] })
        ((({ cup with bank := [(15 * 2 ^ 32 + Key.odTokenCtl, w64 (2 ^ 63 + 265))] }).tokenWrite (.core 15 .machine) [] .lostInFirst).1) (15) (.lostInFirst) ((({ cup with bank := [(15 * 2 ^ 32 + Key.odTokenCtl, w64 (2 ^ 63 + 265))] }).tokenWrite (.core 15 .machine) [] .lostInFirst).2) ∧
    (fun (s : State) =>
      s.tokGood [1] = false) (cup) ∧
    (fun (s : State) (c : Fin 16) (md : PrivMode) (v : U64) =>
      s.checkWrite (.core c md) Key.odCommit v = .ok ∧ bit v 63 = true ∧ s.commits.length < 8) (cup) (15) (.machine) (w64 (2 ^ 63)) ∧
    (fun (s : State) (c : Fin 16) (md : PrivMode) (v : U64) =>
      s.checkWrite (.core c md) Key.odCommit v = .ok ∧ bit v 63 = true ∧ 8 ≤ s.commits.length)
        ({ cup with commits := List.replicate 8 ⟨15, [], none⟩ }) (15) (.machine) (w64 (2 ^ 63)) ∧
    (fun (s : State) =>
      s.commits = []) (cup) ∧
    (fun (s : State) =>
      s.warn = true) ({ cup with warn := true }) ∧
    (fun (s : State) (x : Commit) (rest : List Commit) =>
      let ran := s.commits = x :: rest ∧ s.warn = false ∧ s.pwrgood = true
      ran ∧ x.snap = []) ({ up with commits := [⟨15, [], none⟩] }) (⟨15, [], none⟩) ([]) ∧
    (fun (s : State) (r : MramResult) (x : Commit) (rest : List Commit) =>
      let t := { s with commits := rest }
      let ran := s.commits = x :: rest ∧ s.warn = false ∧ s.pwrgood = true
      ran ∧ x.snap ≠ [] ∧ t.commitStatus x.snap = .ok ∧ r = .bothGood)
        ({ up with commits := [⟨15, [(Key.knHighWater, 32000)], none⟩] }) (.bothGood) (⟨15, [(Key.knHighWater, 32000)], none⟩) ([]) ∧
    (fun (s : State) (r : MramResult) (x : Commit) (rest : List Commit) =>
      let t := { s with commits := rest }
      let ran := s.commits = x :: rest ∧ s.warn = false ∧ s.pwrgood = true
      ran ∧ x.snap ≠ [] ∧ t.commitStatus x.snap = .ok ∧ (r = .firstFails ∨ r = .firstOnly))
        ({ up with commits := [⟨15, [(Key.knHighWater, 32000)], none⟩] }) (.firstFails) (⟨15, [(Key.knHighWater, 32000)], none⟩) ([]) ∧
    (fun (s : State) (r : MramResult) (x : Commit) (rest : List Commit) =>
      let t := { s with commits := rest }
      let ran := s.commits = x :: rest ∧ s.warn = false ∧ s.pwrgood = true
      ran ∧ x.snap ≠ [] ∧ t.commitStatus x.snap = .ok ∧ supplyLost r = true)
        ({ up with commits := [⟨15, [(Key.knHighWater, 32000)], none⟩] }) (.lostInSecond) (⟨15, [(Key.knHighWater, 32000)], none⟩) ([]) ∧
    (fun (s : State) (x : Commit) (rest : List Commit) (st : Status) =>
      let t := { s with commits := rest }
      let ran := s.commits = x :: rest ∧ s.warn = false ∧ s.pwrgood = true
      ran ∧ x.snap ≠ [] ∧ t.commitStatus x.snap = st ∧ st ≠ .ok)
        ({ up with commits := [⟨15, [(Key.prtPacks 0, 3), (Key.prtPacks 1, 1)], none⟩] })
        (⟨15, [(Key.prtPacks 0, 3), (Key.prtPacks 1, 1)], none⟩) ([])
        ((({ up with commits := [] } : State).commitStatus [(Key.prtPacks 0, 3), (Key.prtPacks 1, 1)])) := by
  refine ⟨?_, ?_, ?_, ?_, ?_, ?_, ?_, ?_⟩
  rotate_left 7
  refine ⟨?_, ?_, ?_, ?_, ?_, ?_, ?_, ?_⟩
  rotate_left 7
  refine ⟨?_, ?_⟩
  all_goals decide +kernel

theorem test_ResetsBoot_meets :
    (fun (u : Fin 1024) =>
      unitKind u.val = 0) (1023) ∧
    (fun (s : State) (rq : Requester) (u : Fin 1024) =>
      let uctl := unitKind u.val ≠ 0 ∧ s.checkWrite rq (Key.odCtl u.val) 1 = .ok
      uctl ∧ u.val ∈ [1012, 1013, 1014, 1020]) (up) (.root) (1012) ∧
    (fun (s : State) (rq : Requester) (u : Fin 1024) =>
      let uctl := unitKind u.val ≠ 0 ∧ s.checkWrite rq (Key.odCtl u.val) 1 = .ok
      uctl ∧ u.val ∈ [1012, 1013, 1014, 1020]) (up) (.root) (1020) ∧
    (fun (s : State) (rq : Requester) (u : Fin 1024) =>
      let uctl := unitKind u.val ≠ 0 ∧ s.checkWrite rq (Key.odCtl u.val) 1 = .ok
      uctl ∧ u.val ∉ [1012, 1013, 1014, 1020]) (up) (.root) (511) ∧
    (fun (s : State) =>
      s.resettable = true ∧ s.resetJob = none) (up) ∧
    (fun (s : State) =>
      s.resettable = false) (up.setPhase phPost) ∧
    (fun (s : State) (rq : Requester) (p : Fin 8) =>
      let ctl := fun (op : Nat) => s.checkWrite rq (Key.rstPtCtl p.val) (w64 op) = .ok
      ctl 1) (up) (.root) (7) ∧
    (fun (s : State) (rq : Requester) (p : Fin 8) =>
      let ctl := fun (op : Nat) => s.checkWrite rq (Key.rstPtCtl p.val) (w64 op) = .ok
      ctl 2) (up) (.root) (7) ∧
    (fun (s : State) =>
      s.resettable = true ∧ s.resetJob = none) (up) ∧
    (fun (s : State) =>
      s.resettable = false) (up.setPhase phPost) ∧
    (fun (s : State) (rq : Requester) (p : Fin 8) =>
      let ctl := fun (op : Nat) => s.checkWrite rq (Key.rstPtCtl p.val) (w64 op) = .ok
      ctl 3 ∧ s.partState p.val = psHeld ∧ s.resettable = true ∧ s.resetJob = none) ((up.setPartState 7 4)) (.root) (7) ∧
    (fun (s : State) (rq : Requester) (p : Fin 8) =>
      let ctl := fun (op : Nat) => s.checkWrite rq (Key.rstPtCtl p.val) (w64 op) = .ok
      ctl 3 ∧ s.partState p.val ≠ psHeld) ((up.setPartState 7 3)) (.root) (7) ∧
    (fun (s : State) (j : ResetJob) =>
      s.resetJob = some j ∧ j.kind.rank ≤ 1 ∧ j.purges = []) ({ up with resetJob := some ⟨.part, 7, 0, [], [(7, true)], [], []⟩ })
        (⟨.part, 7, 0, [], [(7, true)], [], []⟩) ∧
    (fun (s : State) (j : ResetJob) =>
      s.resetJob = some j ∧ j.purges ≠ []) ({ up with resetJob := some ⟨.part, 7, 0, [], [(7, true)], [], [7]⟩ })
        (⟨.part, 7, 0, [], [(7, true)], [], [7]⟩) ∧
    (fun (s : State) =>
      s.resetJob = none) (up) ∧
    (fun (s : State) (p : Fin 8) (j : ResetJob) =>
      s.resetJob = some j ∧ j.purges.contains p.val = true) ({ up with resetJob := some ⟨.part, 7, 0, [], [(7, true)], [], [7]⟩ }) (7)
        (⟨.part, 7, 0, [], [(7, true)], [], [7]⟩) ∧
    (fun (s : State) (rq : Requester) =>
      s.checkWrite rq Key.rstDeviceCtl 1 = .ok ∧ s.resetJob = none) (up) (.root) ∧
    (fun (s : State) (rq : Requester) (j : ResetJob) =>
      let dev := fun (op : Nat) => s.checkWrite rq Key.rstDeviceCtl (w64 op) = .ok
      dev 1 ∧ s.resetJob = some j ∧ 2 ≤ j.kind.rank) ({ up with resetJob := some ⟨.warm, 7, 0, [], [(7, true)], [], []⟩ }) (.root)
        (⟨.warm, 7, 0, [], [(7, true)], [], []⟩) ∧
    (fun (s : State) (rq : Requester) =>
      let dev := fun (op : Nat) => s.checkWrite rq Key.rstDeviceCtl (w64 op) = .ok
      dev 2 ∧ s.phase < phPost) (up.setPhase phRom) (.root) ∧
    (fun (s : State) (rq : Requester) =>
      let dev := fun (op : Nat) => s.checkWrite rq Key.rstDeviceCtl (w64 op) = .ok
      dev 2 ∧ phPost ≤ s.phase ∧ s.dev ≠ .hold) (up) (.root) ∧
    (fun (s : State) (rq : Requester) =>
      let dev := fun (op : Nat) => s.checkWrite rq Key.rstDeviceCtl (w64 op) = .ok
      dev 2 ∧ phPost ≤ s.phase ∧ s.dev = .hold) ({ up.setUn 1013 { unitInit with released := true } with dev := .hold }) (.root) ∧
    (fun (s : State) =>
      s.resetN = false) ({ up with resetN := false }) ∧
    (fun (s : State) =>
      s.resetN = true ∧ s.pwrgood = false) ({ up with pwrgood := false }) ∧
    (fun (s : State) =>
      s.resetN = true ∧ s.pwrgood = true) (up) ∧
    (fun (s : State) =>
      s.resetN = true) (up) ∧
    (fun (s : State) =>
      let boots := s.pwrgood = true ∧ s.clocksStopped = false ∧ s.thermTrip = false ∧ s.phase = phReset
      s.resetN = false ∧ boots) ({ up with resetN := false }.setPhase phReset) ∧
    (fun (s : State) =>
      let boots := s.pwrgood = true ∧ s.clocksStopped = false ∧ s.thermTrip = false ∧ s.phase = phReset
      s.resetN = false ∧ (¬ boots)) ({ up with resetN := false, pwrgood := false }) ∧
    (fun (s : State) =>
      s.pwrgood = true) (up) ∧
    (fun (s : State) =>
      s.pwrgood = false) ({ up with pwrgood := false }) ∧
    (fun (s : State) (r : Fin 10) =>
      s.pwrgood = true ∧ r ≠ 3) (up) (9) ∧
    (fun (s : State) (r : Fin 10) =>
      s.pwrgood = true ∧ r = 3) (up) (3) ∧
    (fun (s : State) =>
      s.pwrgood = false) (State.reset) ∧
    (fun (s : State) =>
      s.pwrgood = true) (up) ∧
    (fun (s : State) =>
      s.phase ≠ phPost) (up) ∧
    (fun (s : State) (u : Fin 1024) (st : SelfTest) =>
      let fenced := fun u => (selfFences st).contains u
      let hbms := 4 - (List.range 4).countP (fun n => fenced (1016 + n))
      let cores := 16 - (List.range 16).countP (fun c => fenced (coreUnit c))
      let common := st.rootFail = true ∨ st.l3Fail = true ∨ st.spineFail = true ∨ cores < 2 ∨ hbms = 0 ∨ st.timebaseFail = true
      s.phase = phPost ∧ common) (up.setPhase phPost) (511) (selfBad) ∧
    (fun (s : State) (u : Fin 1024) (p : Fin 8) (st : SelfTest) (x : Nat) =>
      let fenced := fun u => (selfFences st).contains u
      let packs := 8 - (List.range 8).countP (fun p => fenced (packUnit p))
      let hbms := 4 - (List.range 4).countP (fun n => fenced (1016 + n))
      let cores := 16 - (List.range 16).countP (fun c => fenced (coreUnit c))
      let lanes := 128 - (List.range 128).countP (fun l => st.lanes.any (fun x => x.val == l))
      let common := st.rootFail = true ∨ st.l3Fail = true ∨ st.spineFail = true ∨ cores < 2 ∨ hbms = 0 ∨ st.timebaseFail = true
      let policy := fun (pol : U64) => (bit pol 63 = true ∧ (packs < 8 ∨ hbms < 4 ∨ cores < 16)) ∨ packs < bf pol 59 56 ∨
        hbms < bf pol 55 53 ∨ cores < bf pol 52 48 ∨ lanes < bf pol 15 0
      (s.phase = phPost ∧ ¬ common ∧ ¬ policy (s.ent Key.rstBootPolicy)))
        ((up.setPhase phPost).setEnt Key.rstBootPolicy (w64 (2 ^ 56 + 2 ^ 53 + 2 * 2 ^ 48))) (511) (7)
        (⟨false, false, false, false, [], [], [], [511], [], [], [], [], [], []⟩) (0) ∧
    (fun (s : State) (u : Fin 1024) (p : Fin 8) (st : SelfTest) (x : Nat) =>
      let fenced := fun u => (selfFences st).contains u
      let packs := 8 - (List.range 8).countP (fun p => fenced (packUnit p))
      let hbms := 4 - (List.range 4).countP (fun n => fenced (1016 + n))
      let cores := 16 - (List.range 16).countP (fun c => fenced (coreUnit c))
      let lanes := 128 - (List.range 128).countP (fun l => st.lanes.any (fun x => x.val == l))
      let common := st.rootFail = true ∨ st.l3Fail = true ∨ st.spineFail = true ∨ cores < 2 ∨ hbms = 0 ∨ st.timebaseFail = true
      let policy := fun (pol : U64) => (bit pol 63 = true ∧ (packs < 8 ∨ hbms < 4 ∨ cores < 16)) ∨ packs < bf pol 59 56 ∨
        hbms < bf pol 55 53 ∨ cores < bf pol 52 48 ∨ lanes < bf pol 15 0
      (s.phase = phPost ∧ ¬ common ∧ policy (s.ent Key.rstBootPolicy)))
        (((up.setPhase phPost).setEnt Key.rstBootPolicy (w64 (9 * 2 ^ 56 + 2 ^ 53 + 2 * 2 ^ 48)))) (511) (7)
        (⟨false, false, false, false, [], [], [], [], [], [], [], [], [], []⟩) (0) ∧
    (fun (s : State) (p : Fin 8) =>
      s.loadQueue.head? = some p.val ∧ s.partState p.val = psLoading) ({ (up.setPartState 7 2) with loadQueue := [7] }) (7) ∧
    (fun (s : State) (p : Fin 8) =>
      s.loadQueue.head? ≠ some p.val) (up) (7) ∧
    (fun (s : State) (rq : Requester) (p : Fin 8) =>
      let v := w64 (2 ^ 63)
      let readies := s.checkWrite rq (Key.rstPtStat p.val) v = .ok ∧ s.actsFor rq p.val = true
      readies ∧ s.partState p.val = psRunning) ((up.setPartState 7 3)) (.root) (7) ∧
    (fun (s : State) (rq : Requester) (p : Fin 8) =>
      let v := w64 (2 ^ 63)
      let readies := s.checkWrite rq (Key.rstPtStat p.val) v = .ok ∧ s.actsFor rq p.val = true
      readies ∧ s.partState p.val ≠ psRunning) ((up.setPartState 7 4)) (.root) (7) := by
  refine ⟨?_, ?_, ?_, ?_, ?_, ?_, ?_, ?_⟩
  rotate_left 7
  refine ⟨?_, ?_, ?_, ?_, ?_, ?_, ?_, ?_⟩
  rotate_left 7
  refine ⟨?_, ?_, ?_, ?_, ?_, ?_, ?_, ?_⟩
  rotate_left 7
  refine ⟨?_, ?_, ?_, ?_, ?_, ?_, ?_, ?_⟩
  rotate_left 7
  refine ⟨?_, ?_, ?_, ?_, ?_, ?_, ?_, ?_⟩
  rotate_left 7
  refine ⟨?_, ?_, ?_, ?_, ?_, ?_⟩
  all_goals decide +kernel

theorem test_PowerTransitions_meets :
    (fun (s : State) (rq : Requester) (u : Fin 1024) (v : U64) =>
      let target := bf v 2 0
      let ok := s.checkWrite rq (Key.pwrReq u.val) v = .ok
      let named := (unitKind u.val = 3 ∨ u.val = 1020) ∧ target ≤ 3
      ok ∧ (¬ named)) (up) (.root) (511) (3) ∧
    (fun (s : State) (rq : Requester) (u : Fin 1024) (v : U64) =>
      let target := bf v 2 0
      let ok := s.checkWrite rq (Key.pwrReq u.val) v = .ok
      let named := (unitKind u.val = 3 ∨ u.val = 1020) ∧ target ≤ 3
      let closed := u.val = 1020 ∧ (s.dev = .hold ∨ (s.thermalDormant = true ∧ s.fld Key.pwrThermStat 49 48 ≠ 0))
      ok ∧ named ∧ closed) ({ up.setUn 1013 { unitInit with released := true } with dev := .hold }) (.root) (1020) (1) ∧
    (fun (s : State) (rq : Requester) (u : Fin 1024) (v : U64) =>
      let target := bf v 2 0
      let ok := s.checkWrite rq (Key.pwrReq u.val) v = .ok
      let named := (unitKind u.val = 3 ∨ u.val = 1020) ∧ target ≤ 3
      let closed := u.val = 1020 ∧ (s.dev = .hold ∨ (s.thermalDormant = true ∧ s.fld Key.pwrThermStat 49 48 ≠ 0))
      let deaf := u.val = 1020 ∧ target = 2 ∧ (List.range 8).any s.guardPack = false ∧ s.flag Key.pwrWakeSrc 63 = false ∧
        s.flag Key.pwrWakeSrc 47 = false
      ok ∧ named ∧ (¬ closed) ∧ deaf) (up) (.root) (1020) (2) ∧
    (fun (s : State) (rq : Requester) (u : Fin 1024) (v : U64) =>
      let target := bf v 2 0
      let ok := s.checkWrite rq (Key.pwrReq u.val) v = .ok
      let named := (unitKind u.val = 3 ∨ u.val = 1020) ∧ target ≤ 3
      let closed := u.val = 1020 ∧ (s.dev = .hold ∨ (s.thermalDormant = true ∧ s.fld Key.pwrThermStat 49 48 ≠ 0))
      let deaf := u.val = 1020 ∧ target = 2 ∧ (List.range 8).any s.guardPack = false ∧ s.flag Key.pwrWakeSrc 63 = false ∧
        s.flag Key.pwrWakeSrc 47 = false
      let starts := (s.slotOf u.val).cur = none ∧ s.mayStart u.val = true
      ok ∧ named ∧ (¬ closed) ∧ (¬ deaf) ∧ starts) (up) (.root) (583) (3) ∧
    (fun (s : State) (rq : Requester) (u : Fin 1024) (v : U64) =>
      let target := bf v 2 0
      let ok := s.checkWrite rq (Key.pwrReq u.val) v = .ok
      let named := (unitKind u.val = 3 ∨ u.val = 1020) ∧ target ≤ 3
      let closed := u.val = 1020 ∧ (s.dev = .hold ∨ (s.thermalDormant = true ∧ s.fld Key.pwrThermStat 49 48 ≠ 0))
      let deaf := u.val = 1020 ∧ target = 2 ∧ (List.range 8).any s.guardPack = false ∧ s.flag Key.pwrWakeSrc 63 = false ∧
        s.flag Key.pwrWakeSrc 47 = false
      let starts := (s.slotOf u.val).cur = none ∧ s.mayStart u.val = true
      ok ∧ named ∧ (¬ closed) ∧ (¬ deaf) ∧ (¬ starts)) (up.setSlot 583 ⟨some ⟨1, 0, .prepare, [], [], [], [], 0⟩, none⟩) (.root) (583) (3) ∧
    (fun (s : State) (rq : Requester) (p : Fin 8) =>
      let k := Key.pwrVote p.val
      let may := s.checkWho rq k 1 = .ok
      may ∧ s.flag k 63 = false) ((up.setEnt (Key.prtCores 7) 0x8000)) ((.core 15 .machine)) (7) ∧
    (fun (s : State) (rq : Requester) (p : Fin 8) (n : Nat) (t : Trans) (rest : List Nat) =>
      let k := Key.pwrVote p.val
      let asked := s.flag k 63 = true ∧ s.preparing = some (n, t)
      let may := s.checkWho rq k 1 = .ok
      may ∧ asked ∧ t.todo = p.val :: rest)
        ((((up.setSlot 1020 ⟨some ⟨1, 0, .prepare, [], [7], [], [], 0⟩, none⟩).setFlag (Key.pwrVote 7) 63 true).setEnt (Key.prtCores 7) 0x8000)) ((.core 15 .machine)) (7) (1020) (⟨1, 0, .prepare, [], [7], [], [], 0⟩) ([]) ∧
    (fun (s : State) (rq : Requester) (p : Fin 8) (n : Nat) (t : Trans) =>
      let k := Key.pwrVote p.val
      let asked := s.flag k 63 = true ∧ s.preparing = some (n, t)
      let may := s.checkWho rq k 1 = .ok
      may ∧ asked ∧ t.todo.head? ≠ some p.val)
        ((((up.setSlot 1020 ⟨some ⟨1, 0, .prepare, [], [], [], [], 0⟩, none⟩).setFlag (Key.pwrVote 7) 63 true).setEnt (Key.prtCores 7) 0x8000)) ((.core 15 .machine)) (7) (1020) (⟨1, 0, .prepare, [], [], [], [], 0⟩) ∧
    (fun (s : State) (rq : Requester) (p : Fin 8) (n : Nat) (t : Trans) =>
      let k := Key.pwrVote p.val
      let asked := s.flag k 63 = true ∧ s.preparing = some (n, t)
      let mayNot := s.checkWho rq k 2 = .ok
      mayNot ∧ asked)
        ((((up.setSlot 1020 ⟨some ⟨1, 0, .prepare, [], [7], [], [], 0⟩, none⟩).setFlag (Key.pwrVote 7) 63 true).setEnt (Key.prtCores 7) 0x8000)) ((.core 15 .machine)) (7) (1020) (⟨1, 0, .prepare, [], [7], [], [], 0⟩) ∧
    (fun (s : State) (rq : Requester) (p : Fin 8) =>
      let k := Key.pwrVote p.val
      let mayNot := s.checkWho rq k 2 = .ok
      mayNot ∧ s.flag k 63 = false) ((up.setEnt (Key.prtCores 7) 0x8000)) ((.core 15 .machine)) (7) ∧
    (fun (s : State) (p : Fin 8) (n : Nat) (t : Trans) (rest : List Nat) =>
      let stops := s.preparing = some (n, t) ∧ t.todo = (8 + p.val) :: rest ∧ s.packIdle p.val false = true ∧ s.occ p.val = 0 ∧
        s.isHome p.val = false
      stops) (((up.setSlot 583 ⟨some ⟨1, 0, .prepare, [], [15], [], [], 0⟩, none⟩).setFlag (Key.pwrVote 7) 63 true)) (7) (583)
        (⟨1, 0, .prepare, [], [15], [], [], 0⟩) ([]) ∧
    (fun (s : State) =>
      s.preparing = none) (up) ∧
    (fun (s : State) (n : Nat) (x : Nat) (t : Trans) (rest : List Nat) =>
      let late := t.since + usTicks (s.entN Key.pwrPrepTimeout) ≤ s.raw.toNat
      s.preparing = some (n, t) ∧ t.todo = x :: rest ∧ late)
        ({ ((up.setSlot 1020 ⟨some ⟨1, 0, .prepare, [], [7], [], [], 0⟩, none⟩).setFlag (Key.pwrVote 7) 63 true) with raw := 2 ^ 60 })
        (1020) (7) (⟨1, 0, .prepare, [], [7], [], [], 0⟩) ([]) ∧
    (fun (s : State) (n : Nat) (x : Nat) (t : Trans) (rest : List Nat) =>
      let late := t.since + usTicks (s.entN Key.pwrPrepTimeout) ≤ s.raw.toNat
      s.preparing = some (n, t) ∧ t.todo = x :: rest ∧ (¬ late))
        (((up.setSlot 1020 ⟨some ⟨1, 0, .prepare, [], [7], [], [], 0⟩, none⟩).setFlag (Key.pwrVote 7) 63 true)) (1020) (7)
        (⟨1, 0, .prepare, [], [7], [], [], 0⟩) ([]) ∧
    (fun (s : State) (p : Fin 8) =>
      let r := tget 0 s.packReq p.val
      let gates := s.packP p.val = 0 ∧ s.packIdle p.val true = true ∧ ((s.dev = .hush ∧ r = 0 ∧
        s.entN Key.pwrHushIdle ≤ 2 * tget 0 s.packIdleFor p.val) ∨ ((s.dev = .run ∨ s.dev = .hush) ∧ r = 1))
      gates) ({ up with packReq := [(7, 1)] }) (7) ∧
    (fun (s : State) (p : Fin 8) =>
      let r := tget 0 s.packReq p.val
      let gates := s.packP p.val = 0 ∧ s.packIdle p.val true = true ∧ ((s.dev = .hush ∧ r = 0 ∧
        s.entN Key.pwrHushIdle ≤ 2 * tget 0 s.packIdleFor p.val) ∨ ((s.dev = .run ∨ s.dev = .hush) ∧ r = 1))
      (¬ gates)) (up) (7) ∧
    (fun (s : State) (p : Fin 8) =>
      let pack := packUnit p.val
      let r := tget 0 s.packReq p.val
      let wakes := s.packP p.val = 3 ∧ r < 3 ∧ (s.dev = .run ∨ s.dev = .hush) ∧ s.mayWake p.val = true
      let woken := (s.packRestore p.val).packTo p.val r
      wakes ∧ (woken.slotOf pack).cur = none) ({ ((up.setEnt (Key.prtPacks 3) 0x80)) with packPower := [(7, 3)] }) (7) ∧
    (fun (s : State) (p : Fin 8) (t : Trans) =>
      let pack := packUnit p.val
      let r := tget 0 s.packReq p.val
      let wakes := s.packP p.val = 3 ∧ r < 3 ∧ (s.dev = .run ∨ s.dev = .hush) ∧ s.mayWake p.val = true
      let woken := (s.packRestore p.val).packTo p.val r
      wakes ∧ (woken.slotOf pack).cur = some t ∧ t.phase = .commit)
        ({ (((up.setEnt (Key.prtPacks 3) 0x80)).setSlot 583 ⟨some ⟨0, 0, .commit, [], [], [], [], 0⟩, none⟩) with packPower := [(7, 3)] }) (7) (⟨0, 0, .commit, [], [], [], [], 0⟩) ∧
    (fun (s : State) (p : Fin 8) =>
      let r := tget 0 s.packReq p.val
      let wakes := s.packP p.val = 3 ∧ r < 3 ∧ (s.dev = .run ∨ s.dev = .hush) ∧ s.mayWake p.val = true
      (¬ wakes)) (up) (7) := by
  refine ⟨?_, ?_, ?_, ?_, ?_, ?_, ?_, ?_⟩
  rotate_left 7
  refine ⟨?_, ?_, ?_, ?_, ?_, ?_, ?_, ?_⟩
  rotate_left 7
  refine ⟨?_, ?_, ?_, ?_, ?_⟩
  all_goals decide +kernel

theorem test_PowerEvents_meets :
    (fun (s : State) =>
      let lead := nsT (1000 * s.fld Key.pwrGuardCfg 31 16)
      let leads := s.dev = .guard ∧ s.guardLead = false ∧ s.guardAt ≤ s.now + lead
      leads) ({ up with dev := .guard, guardAt := 0, raw := 0, guardLead := false }) ∧
    (fun (s : State) =>
      let lead := nsT (1000 * s.fld Key.pwrGuardCfg 31 16)
      let leads := s.dev = .guard ∧ s.guardLead = false ∧ s.guardAt ≤ s.now + lead
      (¬ leads)) ({ up with dev := .guard, guardAt := 2 ^ 100, raw := 0, guardLead := false }) ∧
    (fun (s : State) =>
      let listen := nsT (1000000 * s.fld Key.pwrGuardCfg 47 32)
      let ends := s.dev = .guard ∧ s.guardLead = true ∧ s.guardAt + listen ≤ s.now
      ends) ({ up with dev := .guard, guardAt := 0, raw := 2 ^ 60, guardLead := true }) ∧
    (fun (s : State) =>
      let listen := nsT (1000000 * s.fld Key.pwrGuardCfg 47 32)
      let ends := s.dev = .guard ∧ s.guardLead = true ∧ s.guardAt + listen ≤ s.now
      (¬ ends)) (up) ∧
    (fun (s : State) (g : Fin 64) (up : Bool) =>
      let src := s.ent Key.pwrWakeSrc
      let edge := s.wakeable = true ∧ bit src 63 = true ∧ bf src 53 48 = g.val ∧ (if up then bit src 61 else bit src 62) = true
      edge) ({ up with dev := .guard }.setEnt Key.pwrWakeSrc (w64 (2 ^ 63 + 2 ^ 61 + 63 * 2 ^ 48))) (63) (true) ∧
    (fun (s : State) (g : Fin 64) (up : Bool) =>
      let src := s.ent Key.pwrWakeSrc
      let edge := s.wakeable = true ∧ bit src 63 = true ∧ bf src 53 48 = g.val ∧ (if up then bit src 61 else bit src 62) = true
      (¬ edge)) (up) (63) (true) ∧
    (fun (s : State) =>
      let slept := s.wakeable = true ∧ s.flag Key.pwrWakeSrc 47 = true ∧ s.sleepRaw + s.fld Key.pwrWakeSrc 31 0 * secTicks ≤ s.raw.toNat
      slept) ({ up with dev := .dormant }.setEnt Key.pwrWakeSrc (w64 (2 ^ 47))) ∧
    (fun (s : State) =>
      let slept := s.wakeable = true ∧ s.flag Key.pwrWakeSrc 47 = true ∧ s.sleepRaw + s.fld Key.pwrWakeSrc 31 0 * secTicks ≤ s.raw.toNat
      (¬ slept)) (up) ∧
    (fun (s : State) =>
      let hour := s.warn = false ∧ s.hourTold < s.hourNow
      hour) ({ up with raw := BitVec.ofNat _ (3600 * secTicks) }) ∧
    (fun (s : State) =>
      let hour := s.warn = false ∧ s.hourTold < s.hourNow
      (¬ hour)) (up) ∧
    (fun (s : State) (r : Fin 10) (mv : Nat) =>
      let falls := s.pwrgood = true ∧ mv < warnMv r.val ∧ r.val ∉ s.railLow
      falls) (up) (9) (1) ∧
    (fun (s : State) (r : Fin 10) (mv : Nat) =>
      let falls := s.pwrgood = true ∧ mv < warnMv r.val ∧ r.val ∉ s.railLow
      (¬ falls)) (up) (9) (1710) ∧
    (fun (s : State) (r : Fin 10) (mv : Nat) (us : Nat) =>
      let back := { s with railLow := s.railLow.filter (· != r.val), dips := s.dips ++ [(r.val, mv, us)] }
      r.val ∈ s.railLow ∧ back.railLow ≠ []) ({ up with railLow := [8, 9], warn := true }) (9) (0) (5) ∧
    (fun (s : State) (r : Fin 10) (mv : Nat) (us : Nat) =>
      let back := { s with railLow := s.railLow.filter (· != r.val), dips := s.dips ++ [(r.val, mv, us)] }
      r.val ∈ s.railLow ∧ back.railLow = []) ({ up with railLow := [9], warn := true }) (9) (0) (5) ∧
    (fun (s : State) (r : Fin 10) =>
      r.val ∉ s.railLow) (up) (9) ∧
    (fun (s : State) =>
      let long := s.warn = true ∧ s.dev ≠ .hold ∧ s.entN Key.pwrWarnHold * 12288 ≤ 25 * (s.raw.toNat - s.warnSince)
      long) ({ up with warn := true, raw := 2 ^ 60 }) ∧
    (fun (s : State) =>
      let long := s.warn = true ∧ s.dev ≠ .hold ∧ s.entN Key.pwrWarnHold * 12288 ≤ 25 * (s.raw.toNat - s.warnSince)
      (¬ long)) (up) ∧
    (fun (s : State) =>
      s.emergencies = [] ∧ s.inTransition = false) (up) ∧
    (fun (s : State) (temp : BitVec 16) =>
      let lv := s.thermLevel
      let hot := lv = 0 ∧ s.thermAt 1 ≤ temp.toInt ∧ s.phase ≠ phReset
      hot) (((up.setEnt Key.pwrThermCfg (w64 (95 * 2 ^ 56 + 110 * 2 ^ 48))).setFld Key.pwrThermStat 49 48 0)) (2000) ∧
    (fun (s : State) (temp : BitVec 16) =>
      let lv := s.thermLevel
      let hot := lv = 0 ∧ s.thermAt 1 ≤ temp.toInt ∧ s.phase ≠ phReset
      (¬ hot)) (((up.setEnt Key.pwrThermCfg (w64 (95 * 2 ^ 56 + 110 * 2 ^ 48))).setFld Key.pwrThermStat 49 48 0)) (100) ∧
    (fun (s : State) (temp : BitVec 16) =>
      let lv := s.thermLevel
      let crit := lv < 2 ∧ s.thermAt 2 ≤ temp.toInt ∧ s.phase ≠ phReset
      crit ∧ lv = 1) (((up.setEnt Key.pwrThermCfg (w64 (95 * 2 ^ 56 + 110 * 2 ^ 48))).setFld Key.pwrThermStat 49 48 1)) (2000) ∧
    (fun (s : State) (temp : BitVec 16) =>
      let lv := s.thermLevel
      let crit := lv < 2 ∧ s.thermAt 2 ≤ temp.toInt ∧ s.phase ≠ phReset
      crit ∧ lv = 0) (((up.setEnt Key.pwrThermCfg (w64 (95 * 2 ^ 56 + 110 * 2 ^ 48))).setFld Key.pwrThermStat 49 48 0)) (2000) ∧
    (fun (s : State) (temp : BitVec 16) =>
      let lv := s.thermLevel
      let crit := lv < 2 ∧ s.thermAt 2 ≤ temp.toInt ∧ s.phase ≠ phReset
      (¬ crit)) (((up.setEnt Key.pwrThermCfg (w64 (95 * 2 ^ 56 + 110 * 2 ^ 48))).setFld Key.pwrThermStat 49 48 0)) (100) ∧
    (fun (s : State) (temp : BitVec 16) =>
      let lv := s.thermLevel
      let cools := lv ≠ 0 ∧ temp.toInt ≤ s.thermAt lv - 80
      cools) (((up.setEnt Key.pwrThermCfg (w64 (95 * 2 ^ 56 + 110 * 2 ^ 48))).setFld Key.pwrThermStat 49 48 2)) (1600) ∧
    (fun (s : State) (temp : BitVec 16) =>
      let lv := s.thermLevel
      let cools := lv ≠ 0 ∧ temp.toInt ≤ s.thermAt lv - 80
      (¬ cools)) (((up.setEnt Key.pwrThermCfg (w64 (95 * 2 ^ 56 + 110 * 2 ^ 48))).setFld Key.pwrThermStat 49 48 0)) (100) ∧
    (fun (s : State) =>
      s.pwrgood = true) (up) ∧
    (fun (s : State) =>
      s.pwrgood = false) ({ up with pwrgood := false }) := by
  refine ⟨?_, ?_, ?_, ?_, ?_, ?_, ?_, ?_⟩
  rotate_left 7
  refine ⟨?_, ?_, ?_, ?_, ?_, ?_, ?_, ?_⟩
  rotate_left 7
  refine ⟨?_, ?_, ?_, ?_, ?_, ?_, ?_, ?_⟩
  rotate_left 7
  refine ⟨?_, ?_, ?_, ?_, ?_, ?_⟩
  all_goals decide +kernel

theorem test_SheepdogActions_meets :
    (fun (s : State) (c : Fin 16) =>
      s.coreRuns c.val = true) (cup) (15) ∧
    (fun (s : State) (c : Fin 16) =>
      s.coreRuns c.val = false) (up) (15) ∧
    (fun (s : State) (ch : Fin 272) (xr : Xfer) =>
      (s.ch ch.val).reads.find? s.l0Expired = some xr ∧ xr.again = false)
        ({ (dch 2 { chanInit with reads := [(⟨.data, 0, 0, 0x1802000000, 4, [], 0, false⟩ : Xfer)] }) with raw := 2 ^ 50 }) (31)
        ((⟨.data, 0, 0, 0x1802000000, 4, [], 0, false⟩ : Xfer)) ∧
    (fun (s : State) (ch : Fin 272) (xr : Xfer) =>
      (s.ch ch.val).reads.find? s.l0Expired = some xr ∧ xr.again = true)
        ({ (dch 2 { chanInit with reads := [(⟨.data, 0, 0, 0x1802000000, 4, [], 0, true⟩ : Xfer)] }) with raw := 2 ^ 50 }) (31)
        ((⟨.data, 0, 0, 0x1802000000, 4, [], 0, true⟩ : Xfer)) ∧
    (fun (s : State) (ch : Fin 272) (xr : Xfer) =>
      (s.ch ch.val).writes.find? s.l0Expired = some xr)
        ({ (dch 2 { chanInit with writes := [(⟨.data, 0, 0, 0x1802000000, 4, [], 0, false⟩ : Xfer)] }) with raw := 2 ^ 50 }) (31)
        ((⟨.data, 0, 0, 0x1802000000, 4, [], 0, false⟩ : Xfer)) ∧
    (fun (s : State) (tile : Fin 512) (la : BitVec 32) (d : Nat) =>
      tileDev tile.val la.toNat 1 = some d ∧ (s.tl tile.val).st = .running) (px) (511) (0x13FFF8) (lmAddr 511 0x3FFF8) ∧
    (fun (s : State) (p : Fin 8) (k : Fin 17) =>
      (s.taskOn (accUnit p.val k.val)).isSome = true)
        ((kup.setKn 0 { knInit with entries := [(7, { en .running (ds 6 600 0) with unit := accUnit 0 16 })] })) (0) (16) ∧
    (fun (s : State) (p : Fin 8) (e : BitVec 15) =>
      let i := e.toNat
      let t := s.entry p.val i
      let segs := (tfind s.segment p.val).any (fun g => g.kind == 0 && g.entry == i && g.unit == t.unit)
      s.l1Expired p.val i = true ∧ segs = false)
        ({ ((kst [(32767, { en .running (ds 5 0 0) with unit := 63 })]).setEnt (Key.knKind 0 5) (w64 (9 * 2 ^ 60 + 2 ^ 32))) with raw := 2 ^ 20 }) (0) (0x7FFF) ∧
    (fun (s : State) (p : Fin 8) (e : BitVec 15) =>
      let i := e.toNat
      let t := s.entry p.val i
      let segs := (tfind s.segment p.val).any (fun g => g.kind == 0 && g.entry == i && g.unit == t.unit)
      s.l1Expired p.val i = true ∧ segs = true)
        ({ ((kst [(32767, { en .running (ds 5 0 0) with unit := 63 })]).setEnt (Key.knKind 0 5) (w64 (9 * 2 ^ 60 + 2 ^ 32))) with raw := 2 ^ 20, segment := [(0, ⟨0, 63, none, 0x7FFF⟩)] }) (0) (0x7FFF) ∧
    (fun (s : State) (p : Fin 8) (e : BitVec 15) =>
      let i := e.toNat
      s.l1Expired p.val i = false)
        ({ ((kst [(32767, { en .running (ds 5 0 0) with unit := 63 })]).setEnt (Key.knKind 0 5) (w64 (9 * 2 ^ 60 + 0))) with raw := 2 ^ 20 }) (0) (0x7FFF) ∧
    (fun (s : State) (e : BitVec 15) (cr : Fin 384) (q : BitVec 32) =>
      let missed := s.l2.any (fun e => e.1 == cr.val && e.2.1 == q.toNat && decide (e.2.2 + s.l2Limit cr.val ≤ s.now)) = true
      missed) ({ up with l2 := [(383, 9, 0)], raw := 2 ^ 50 }) (0x7FFF) (383) (9) ∧
    (fun (s : State) (e : BitVec 15) (cr : Fin 384) (q : BitVec 32) =>
      let missed := s.l2.any (fun e => e.1 == cr.val && e.2.1 == q.toNat && decide (e.2.2 + s.l2Limit cr.val ≤ s.now)) = true
      (¬ missed)) (up) (0x7FFF) (383) (9) ∧
    (fun (s : State) (p : Fin 8) =>
      let starves := s.partState p.val = psRunning ∧ tget 0 s.petRaw p.val + s.l3Limit p.val ≤ s.raw.toNat
      starves) ({ (up.setPartState 7 3) with raw := 2 ^ 50 }) (7) ∧
    (fun (s : State) (p : Fin 8) =>
      let starves := s.partState p.val = psRunning ∧ tget 0 s.petRaw p.val + s.l3Limit p.val ≤ s.raw.toNat
      (¬ starves)) ((up.setPartState 7 3)) (7) ∧
    (fun (s : State) =>
      let dead := s.phase = phReady ∧ s.l4Last + usTicks (s.entN Key.shdL4Limit) ≤ s.raw.toNat
      dead) ({ up with raw := 2 ^ 50 }) ∧
    (fun (s : State) =>
      let dead := s.phase = phReady ∧ s.l4Last + usTicks (s.entN Key.shdL4Limit) ≤ s.raw.toNat
      (¬ dead)) (up.setPhase phPost) ∧
    (fun (s : State) (l : Fin 5) (x : ChargedUnit) =>
      s.windowPassed l.val x = true) ({ up with raw := 2 ^ 60 }) (2) (.carrier 383) ∧
    (fun (s : State) (l : Fin 5) (x : ChargedUnit) =>
      s.windowPassed l.val x = false) (up) (2) (.carrier 383) ∧
    (fun (s : State) (u : Fin 1024) =>
      let pends := (u.val < 512 ∧ (s.tl u.val).ipend.toNat % 2 = 1 ∧ (s.tl u.val).st ≠ .reset) ∨ (unitKind u.val = 5 ∧
        s.coreRuns (u.val - 840) = true)
      let un := s.un u.val
      let untaken := pends ∧ s.abortUntaken u.val = true ∧ un.quar = false ∧ s.mayQuarantine u.val = true
      untaken) ({ up.setUn 511 { unitInit with released := true, abortRaw := some 0 } with raw := 256 }.setTl 511 { tileInit with st := .running, ipend := 1 }) (511) ∧
    (fun (s : State) (u : Fin 1024) =>
      let pends := (u.val < 512 ∧ (s.tl u.val).ipend.toNat % 2 = 1 ∧ (s.tl u.val).st ≠ .reset) ∨ (unitKind u.val = 5 ∧
        s.coreRuns (u.val - 840) = true)
      let un := s.un u.val
      let untaken := pends ∧ s.abortUntaken u.val = true ∧ un.quar = false ∧ s.mayQuarantine u.val = true
      (¬ untaken)) (up) (511) ∧
    (fun (s : State) (rq : Requester) (p : Fin 8) =>
      s.checkWrite rq (Key.shdPet p.val) 1 = .ok) (((up.setPartState 7 3).setEnt (Key.prtCores 7) 0x8000)) ((.core 15 .machine)) (7) ∧
    (fun (s : State) =>
      let checks := s.phase = phReady ∧ s.checkRaw + 245760 ≤ s.raw.toNat
      checks) ({ up with raw := 2 ^ 50 }) ∧
    (fun (s : State) =>
      let checks := s.phase = phReady ∧ s.checkRaw + 245760 ≤ s.raw.toNat
      checks) ({ up with raw := 2 ^ 50 }) ∧
    (fun (s : State) =>
      let checks := s.phase = phReady ∧ s.checkRaw + 245760 ≤ s.raw.toNat
      (¬ checks)) (up) ∧
    (fun (s : State) (rq : Requester) (u : Fin 1024) =>
      let ctl := fun (op : Nat) => unitKind u.val ≠ 0 ∧ s.checkWrite rq (Key.odCtl u.val) (w64 op) = .ok
      ctl 3 ∧ s.mayQuarantine u.val = true) (up) (.root) (511) ∧
    (fun (s : State) (rq : Requester) (u : Fin 1024) =>
      unitKind u.val ≠ 0 ∧ s.checkWrite rq (Key.odCtl u.val) 3 = .ok ∧ s.mayQuarantine u.val = false) (up) (.root) (1020) ∧
    (fun (s : State) (rq : Requester) (u : Fin 1024) =>
      let un := s.un u.val
      let ctl := fun (op : Nat) => unitKind u.val ≠ 0 ∧ s.checkWrite rq (Key.odCtl u.val) (w64 op) = .ok
      ctl 2 ∧ un.quar = true ∧ un.retest = false) ((up.setUn 511 { unitInit with released := true, quar := true })) (.root) (511) ∧
    (fun (s : State) (rq : Requester) (u : Fin 1024) =>
      let un := s.un u.val
      let ctl := fun (op : Nat) => unitKind u.val ≠ 0 ∧ s.checkWrite rq (Key.odCtl u.val) (w64 op) = .ok
      ctl 2 ∧ un.quar = false) (up) (.root) (511) ∧
    (fun (s : State) (u : Fin 1024) =>
      let un := s.un u.val
      let n := s.entN Key.shdReturn
      let due := un.quar = true ∧ un.autoReturn = true ∧ un.retest = false ∧ n ≠ 0 ∧ un.quarSince + n * secTicks ≤ s.raw.toNat
      due) ({ (up.setUn 511 { unitInit with released := true, quar := true, autoReturn := true }) with raw := 2 ^ 60 }.setEntN Key.shdReturn 1) (511) ∧
    (fun (s : State) (u : Fin 1024) =>
      let un := s.un u.val
      let n := s.entN Key.shdReturn
      let due := un.quar = true ∧ un.autoReturn = true ∧ un.retest = false ∧ n ≠ 0 ∧ un.quarSince + n * secTicks ≤ s.raw.toNat
      (¬ due)) (up) (511) ∧
    (fun (s : State) (u : Fin 1024) =>
      let un := s.un u.val
      let tested := un.quar = true ∧ un.retest = true ∧ s.segsDone u.val = true
      tested ∧ un.retestFail = none) ((up.setUn 511 { unitInit with released := true, quar := true, retest := true })) (511) ∧
    (fun (s : State) (u : Fin 1024) (sig : U64 × U64) =>
      (s.un u.val).quar = true ∧ (s.un u.val).retest = true ∧ s.segsDone u.val = true ∧ (s.un u.val).retestFail = some sig)
        ((up.setUn 511 { unitInit with released := true, quar := true, retest := true, retestFail := some (5, 6) })) (511) ((5, 6)) ∧
    (fun (s : State) (u : Fin 1024) =>
      let un := s.un u.val
      let tested := un.quar = true ∧ un.retest = true ∧ s.segsDone u.val = true
      (¬ tested)) (up) (511) := by
  refine ⟨?_, ?_, ?_, ?_, ?_, ?_, ?_, ?_⟩
  rotate_left 7
  refine ⟨?_, ?_, ?_, ?_, ?_, ?_, ?_, ?_⟩
  rotate_left 7
  refine ⟨?_, ?_, ?_, ?_, ?_, ?_, ?_, ?_⟩
  rotate_left 7
  refine ⟨?_, ?_, ?_, ?_, ?_, ?_, ?_, ?_⟩
  rotate_left 7
  refine ⟨?_, ?_, ?_, ?_, ?_⟩
  all_goals decide +kernel

theorem test_TerrierRecorder_meets :
    (fun (s : State) (g : Fin 9) =>
      let idle := tfind s.segment g.val = none ∧ s.flag Key.terCfg 63 = true
      (¬ idle)) (up.setFlag Key.terCfg 63 false) (8) ∧
    (fun (s : State) (g : Fin 9) (i : Nat) (r : Rec) (l : List Nat) =>
      let gap := (tfind s.walkRaw (32 + g.val)).elim true (fun r => decide (s.fld Key.terCfg 47 32 * 12288 ≤ 25 * (s.raw.toNat - r)))
      let sched := gap = true ∧ s.terRuns = true
      let idle := tfind s.segment g.val = none ∧ s.flag Key.terCfg 63 = true
      let head := tget [] s.segHead g.val
      let first := s.retested (segAt g.val i).unit = true ∨ sched
      idle ∧ head = i :: l ∧ (¬ first))
        ({ { ((up.setUn 1013 { unitInit with released := true }).setEnt Key.terCfg (w64 (2 ^ 64 - 1))) with segHead := [(8, [3])] } with dev := .hold }) (8) (3) (⟨5, [1, 2], 3, 0, 0⟩) ([]) ∧
    (fun (s : State) (g : Fin 9) (i : Nat) (r : Rec) (l : List Nat) =>
      let gap := (tfind s.walkRaw (32 + g.val)).elim true (fun r => decide (s.fld Key.terCfg 47 32 * 12288 ≤ 25 * (s.raw.toNat - r)))
      let sched := gap = true ∧ s.terRuns = true
      let idle := tfind s.segment g.val = none ∧ s.flag Key.terCfg 63 = true
      let head := tget [] s.segHead g.val
      let first := s.retested (segAt g.val i).unit = true ∨ sched
      let taken : State := { s with segHead := tput s.segHead g.val l }
      let x := segAt g.val i
      idle ∧ head = i :: l ∧ first ∧ taken.segMay g.val x = true)
        ({ ((up.setUn 1013 { unitInit with released := true }).setEnt Key.terCfg (w64 (2 ^ 64 - 1))) with segHead := [(8, [3])] }) (8)
        (3) (⟨5, [1, 2], 3, 0, 0⟩) ([]) ∧
    (fun (s : State) (g : Fin 9) (i : Nat) (r : Rec) (l : List Nat) =>
      let gap := (tfind s.walkRaw (32 + g.val)).elim true (fun r => decide (s.fld Key.terCfg 47 32 * 12288 ≤ 25 * (s.raw.toNat - r)))
      let sched := gap = true ∧ s.terRuns = true
      let idle := tfind s.segment g.val = none ∧ s.flag Key.terCfg 63 = true
      let head := tget [] s.segHead g.val
      let first := s.retested (segAt g.val i).unit = true ∨ sched
      let taken : State := { s with segHead := tput s.segHead g.val l }
      let x := segAt g.val i
      idle ∧ head = i :: l ∧ first ∧ taken.segMay g.val x = false) ({ (up.setFlag Key.terCfg 63 true) with segHead := [(8, [3])] }) (8)
        (3) (⟨5, [1, 2], 3, 0, 0⟩) ([]) ∧
    (fun (s : State) (g : Fin 9) (r : Rec) =>
      let gap := (tfind s.walkRaw (32 + g.val)).elim true (fun r => decide (s.fld Key.terCfg 47 32 * 12288 ≤ 25 * (s.raw.toNat - r)))
      let sched := gap = true ∧ s.terRuns = true
      let idle := tfind s.segment g.val = none ∧ s.flag Key.terCfg 63 = true
      let head := tget [] s.segHead g.val
      idle ∧ head = [] ∧ (¬ sched))
        ({ ((up.setUn 1013 { unitInit with released := true }).setEnt Key.terCfg (w64 (2 ^ 64 - 1))) with dev := .hold }) (8)
        (⟨5, [1, 2], 3, 0, 0⟩) ∧
    (fun (s : State) (g : Fin 9) (r : Rec) =>
      let gap := (tfind s.walkRaw (32 + g.val)).elim true (fun r => decide (s.fld Key.terCfg 47 32 * 12288 ≤ 25 * (s.raw.toNat - r)))
      let sched := gap = true ∧ s.terRuns = true
      let idle := tfind s.segment g.val = none ∧ s.flag Key.terCfg 63 = true
      let head := tget [] s.segHead g.val
      idle ∧ head = [] ∧ sched) (((up.setUn 1013 { unitInit with released := true }).setEnt Key.terCfg (w64 (2 ^ 64 - 1)))) (0)
        (⟨5, [1, 2], 3, 0, 0⟩) ∧
    (fun (s : State) (p : Fin 8) (u : Fin 1024) (e : Nat) (sig : U64) =>
      tfind s.segment p.val = some ⟨0, u.val, some sig, e⟩)
        ({ up.setFlag Key.terCfg 59 false with segment := [(0, ⟨0, 63, some 5, 9⟩)] }) (0) (63) (9) (5) ∧
    (fun (s : State) (p : Fin 8) (i : Nat) (e : Nat) (sig : U64) =>
      (tfind s.segment p.val = none ∨ tfind s.segment p.val = some ⟨1, i, some sig, e⟩ ∨ tfind s.segment p.val = some ⟨0, i, none, e⟩))
        (up) (0) (3) (9) (0) ∧
    (fun (s : State) (g : Fin 9) (i : Nat) (n : Nat) (sg : Option U64) =>
      let x := segAt g.val i
      let tests := tfind s.segment g.val = some ⟨1, i, sg, n⟩ ∧ (s.terRuns = true ∨ s.retested x.unit = true)
      tests) ({ up with segment := [(8, ⟨1, 3, none, 62⟩)] }) (8) (3) (62) (none) ∧
    (fun (s : State) (g : Fin 9) (i : Nat) (n : Nat) (sg : Option U64) (again : Fin 4) (d : BitVec 9) (t : State) =>
      let x := segAt g.val i
      let a := x.addr + 64 * n
      let tests := tfind s.segment g.val = some ⟨1, i, sg, n⟩ ∧ (s.terRuns = true ∨ s.retested x.unit = true)
      let clear : State := if x.cls ≤ 3 then s.flushOver 19 a 64 else s
      tests ∧ clear.memFinding x.unit x.cls (a + d.toNat / 64 * 8) (d.toNat % 64) again.val = (t, false))
        ({ up with segment := [(8, ⟨1, 3, none, 62⟩)] }) (8) (3) (62) (none) (0) (0)
        (((({ up with segment := [(8, ⟨1, 3, none, 62⟩)] } : State).memFinding 1013 10 (3 * 4096 + 64 * 62) 0 0).1)) ∧
    (fun (s : State) (g : Fin 9) (i : Nat) (n : Nat) (sg : Option U64) (again : Fin 4) (d : BitVec 9) (t : State) =>
      let x := segAt g.val i
      let a := x.addr + 64 * n
      let tests := tfind s.segment g.val = some ⟨1, i, sg, n⟩ ∧ (s.terRuns = true ∨ s.retested x.unit = true)
      let clear : State := if x.cls ≤ 3 then s.flushOver 19 a 64 else s
      tests ∧ n + 1 < 64 ∧ clear.memFinding x.unit x.cls (a + d.toNat / 64 * 8) (d.toNat % 64) again.val = (t, true))
        ({ up with segment := [(8, ⟨1, 3, none, 62⟩)] }) (8) (3) (62) (none) (2) (0)
        (((({ up with segment := [(8, ⟨1, 3, none, 62⟩)] } : State).memFinding 1013 10 (3 * 4096 + 64 * 62) 0 2).1)) ∧
    (fun (s : State) (g : Fin 9) (i : Nat) (n : Nat) (sg : Option U64) (again : Fin 4) (d : BitVec 9) (t : State) =>
      let x := segAt g.val i
      let a := x.addr + 64 * n
      let tests := tfind s.segment g.val = some ⟨1, i, sg, n⟩ ∧ (s.terRuns = true ∨ s.retested x.unit = true)
      let clear : State := if x.cls ≤ 3 then s.flushOver 19 a 64 else s
      tests ∧ 64 ≤ n + 1 ∧ clear.memFinding x.unit x.cls (a + d.toNat / 64 * 8) (d.toNat % 64) again.val = (t, true))
        ({ up with segment := [(8, ⟨1, 3, none, 63⟩)] }) (8) (3) (63) (none) (2) (0)
        (((({ up with segment := [(8, ⟨1, 3, none, 63⟩)] } : State).memFinding 1013 10 (3 * 4096 + 64 * 63) 0 2).1)) ∧
    (fun (s : State) (g : Fin 9) (i : Nat) (n : Nat) (sg : Option U64) =>
      let x := segAt g.val i
      let tests := tfind s.segment g.val = some ⟨1, i, sg, n⟩ ∧ (s.terRuns = true ∨ s.retested x.unit = true)
      tests) ({ up with segment := [(8, ⟨1, 3, none, 63⟩)] }) (8) (3) (63) (none) ∧
    (fun (s : State) (g : Fin 9) =>
      tfind s.segment g.val = none) (up) (8) ∧
    (fun (s : State) (g : Fin 9) (i : Nat) (n : Nat) (sg : Option U64) =>
      let x := segAt g.val i
      tfind s.segment g.val = some ⟨1, i, sg, n⟩ ∧ s.terRuns = false ∧ s.retested x.unit = false)
        ({ { up with dev := .hold } with segment := [(8, ⟨1, 3, none, 63⟩)] }) (8) (3) (63) (none) ∧
    (fun (s : State) (rq : Requester) (u : Fin 1024) =>
      let runs := s.checkWrite rq (Key.terRun u.val) 1 = .ok
      runs ∧ hasSegments u.val = true) (up) (.root) (63) ∧
    (fun (s : State) (rq : Requester) (u : Fin 1024) =>
      let runs := s.checkWrite rq (Key.terRun u.val) 1 = .ok
      runs ∧ hasSegments u.val = false) (up) (.root) (856) ∧
    (fun (s : State) =>
      s.staged = []) (up) ∧
    (fun (s : State) =>
      (s.warn = true ∨ s.pwrgood = false ∨ s.aonPor = true)) ({ up with warn := true }) ∧
    (fun (s : State) (r : Rec) (rest : List Rec) =>
      let may := s.staged = r :: rest ∧ s.warn = false ∧ s.pwrgood = true ∧ s.aonPor = false
      may) ({ up with staged := [⟨5, [1, 2], 3, 0, 0⟩], ringOff := 4000 }) (⟨5, [1, 2], 3, 0, 0⟩) ([]) ∧
    (fun (s : State) (rq : Requester) (v : U64) =>
      s.checkWrite rq Key.evrCursor v = .ok) ({ up with evSeq := 5 }) (.root) (6) ∧
    (fun (s : State) (rq : Requester) (v : U64) =>
      s.checkWrite rq Key.evrUserCtl v = .ok) (up) (.root) (w64 (2 ^ 63 + 2040)) ∧
    (fun (s : State) =>
      s.phase ≠ phReset ∧ s.opsecHour < s.hourNow) ({ up with raw := BitVec.ofNat _ (3600 * secTicks) }) ∧
    (fun (s : State) =>
      (s.phase = phReset ∨ s.hourNow ≤ s.opsecHour)) (up) := by
  refine ⟨?_, ?_, ?_, ?_, ?_, ?_, ?_, ?_⟩
  rotate_left 7
  refine ⟨?_, ?_, ?_, ?_, ?_, ?_, ?_, ?_⟩
  rotate_left 7
  refine ⟨?_, ?_, ?_, ?_, ?_, ?_, ?_, ?_⟩
  rotate_left 7
  refine ⟨?_, ?_, ?_⟩
  all_goals decide +kernel

theorem test_FirmwareFlash_meets :
    (fun (s : State) (rq : Requester) (c : Fin 384) (ow : Byte) =>
      let k := Key.prtCarriers (c.val / 8)
      let w := setf (s.ent k) (8 * (c.val % 8) + 7) (8 * (c.val % 8)) ow.toNat
      let own := s.checkWrite rq k w = .ok
      own) ((up.setEnt (Key.prtCarriers 47) (w64 (255 * 2 ^ 56)))) (.root) (383) (7) ∧
    (fun (s : State) (rq : Requester) (c : Fin 384) (ow : Byte) =>
      let k := Key.prtCarriers (c.val / 8)
      let w := setf (s.ent k) (8 * (c.val % 8) + 7) (8 * (c.val % 8)) ow.toNat
      s.isAdmin rq = true ∧ ((∀ i < 8, ownByte w i = 255 ∨ ownByte w i < 8)) ∧
        ((∀ i < 8, ownByte (s.ent k) i ≠ ownByte w i → s.flag (Key.knPlanCfg (8 * (c.val / 8) + i)) 63 = false)))
        ((up.setEnt (Key.prtCarriers 47) (w64 (7 * 2 ^ 56)))) (.root) (383) (255) ∧
    (fun (s : State) (rq : Requester) (c : Fin 384) (ow : Byte) =>
      let k := Key.prtCarriers (c.val / 8)
      let w := setf (s.ent k) (8 * (c.val % 8) + 7) (8 * (c.val % 8)) ow.toNat
      s.isAdmin rq = true ∧ ((∀ i < 8, ownByte w i = 255 ∨ ownByte w i < 8)) ∧ ((∃ i < 8, ownByte (s.ent k) i ≠ ownByte w i ∧
        s.flag (Key.knPlanCfg (8 * (c.val / 8) + i)) 63 = true))) (((up.setEnt (Key.prtCarriers 47)
        (w64 (7 * 2 ^ 56)))).setFlag (Key.knPlanCfg 383) 63 true) (.root) (383) (6) ∧
    (fun (s : State) (rq : Requester) (p : Fin 8) =>
      let cfg := s.ent (Key.fwCfg p.val)
      let active := b01 (bit cfg 63)
      let ctl := fun (op : Nat) => s.checkWrite rq (Key.fwCtl p.val) (w64 op) = .ok
      ctl 1 ∧ bit cfg 62 = false ∧ s.fwSlotAt p.val (1 - active) ≠ 0) (((up.setEnt (Key.fwSlot 7) 1).setFlag (Key.fwCfg 7) 63 false))
        (.root) (7) ∧
    (fun (s : State) (rq : Requester) (p : Fin 8) =>
      let cfg := s.ent (Key.fwCfg p.val)
      let active := b01 (bit cfg 63)
      let ctl := fun (op : Nat) => s.checkWrite rq (Key.fwCtl p.val) (w64 op) = .ok
      ctl 1 ∧ bit cfg 62 = false ∧ s.fwSlotAt p.val (1 - active) = 0) (up) (.root) (7) ∧
    (fun (s : State) (rq : Requester) (p : Fin 8) =>
      let cfg := s.ent (Key.fwCfg p.val)
      let ctl := fun (op : Nat) => s.checkWrite rq (Key.fwCtl p.val) (w64 op) = .ok
      ctl 1 ∧ bit cfg 62 = true) ((up.setFlag (Key.fwCfg 7) 62 true)) (.root) (7) ∧
    (fun (s : State) (rq : Requester) (p : Fin 8) (n : Nat) =>
      let cfg := s.ent (Key.fwCfg p.val)
      let trial := tfind s.trialStart p.val
      let ctl := fun (op : Nat) => s.checkWrite rq (Key.fwCtl p.val) (w64 op) = .ok
      ctl 2 ∧ bit cfg 62 = true ∧ trial = some n ∧ s.flag (Key.rstPtStat p.val) 63 = true)
        (({ (up.setFlag (Key.fwCfg 7) 62 true) with trialStart := [(7, 0)] }).setFlag (Key.rstPtStat 7) 63 true) (.root) (7) (0) ∧
    (fun (s : State) (rq : Requester) (p : Fin 8) =>
      let cfg := s.ent (Key.fwCfg p.val)
      let trial := tfind s.trialStart p.val
      let ctl := fun (op : Nat) => s.checkWrite rq (Key.fwCtl p.val) (w64 op) = .ok
      ctl 2 ∧ (bit cfg 62 = false ∨ trial = none ∨ s.flag (Key.rstPtStat p.val) 63 = false)) (up) (.root) (7) ∧
    (fun (s : State) (rq : Requester) (p : Fin 8) =>
      let cfg := s.ent (Key.fwCfg p.val)
      let ctl := fun (op : Nat) => s.checkWrite rq (Key.fwCtl p.val) (w64 op) = .ok
      ctl 3 ∧ bit cfg 62 = true) ((up.setFlag (Key.fwCfg 7) 62 true)) (.root) (7) ∧
    (fun (s : State) (rq : Requester) (p : Fin 8) =>
      let cfg := s.ent (Key.fwCfg p.val)
      let ctl := fun (op : Nat) => s.checkWrite rq (Key.fwCtl p.val) (w64 op) = .ok
      ctl 3 ∧ bit cfg 62 = false) (up) (.root) (7) ∧
    (fun (s : State) (p : Fin 8) (n : Nat) =>
      let trial := tfind s.trialStart p.val
      trial = some n ∧ s.entN Key.fwTrialLimit * 491520000 ≤ s.raw.toNat - n)
        ({ (up.setFlag (Key.fwCfg 7) 62 true) with trialStart := [(7, 0)], raw := 2 ^ 60 }) (7) (0) ∧
    (fun (s : State) (p : Fin 8) (n : Nat) =>
      let trial := tfind s.trialStart p.val
      trial = some n ∧ s.raw.toNat - n < s.entN Key.fwTrialLimit * 491520000)
        ({ (up.setFlag (Key.fwCfg 7) 62 true) with trialStart := [(7, 0)] }) (7) (0) ∧
    (fun (s : State) (p : Fin 8) =>
      let trial := tfind s.trialStart p.val
      trial = none) (up) (7) ∧
    (fun (s : State) (rq : Requester) (v : U64) =>
      let fv := fun (op : Nat) => setf v 63 62 op
      let may := fun (op : Nat) => s.checkWrite rq Key.fwFlashCtl (fv op) = .ok ∧ s.flashMay rq = true
      let free := fun (op : Nat) => may op ∧ s.flashOp = none
      free 1) (up) (.root) (w64 (65535 * 2 ^ 16)) ∧
    (fun (s : State) (rq : Requester) (v : U64) =>
      let fv := fun (op : Nat) => setf v 63 62 op
      let may := fun (op : Nat) => s.checkWrite rq Key.fwFlashCtl (fv op) = .ok ∧ s.flashMay rq = true
      let free := fun (op : Nat) => may op ∧ s.flashOp = none
      free 2) (up) (.root) (w64 (65535 * 2 ^ 16)) ∧
    (fun (s : State) (rq : Requester) (v : U64) =>
      let fv := fun (op : Nat) => setf v 63 62 op
      let may := fun (op : Nat) => s.checkWrite rq Key.fwFlashCtl (fv op) = .ok ∧ s.flashMay rq = true
      let free := fun (op : Nat) => may op ∧ s.flashOp = none
      free 3) (up) (.root) (w64 (65535 * 2 ^ 16)) ∧
    (fun (s : State) (rq : Requester) (v : U64) (o : FlashOp) =>
      let fv := fun (op : Nat) => setf v 63 62 op
      let may := fun (op : Nat) => s.checkWrite rq Key.fwFlashCtl (fv op) = .ok ∧ s.flashMay rq = true
      may 1 ∧ s.flashOp = some o) ({ up with flashOp := some ⟨16, 1, 65536, 65536, (up.flashWho .root)⟩ }) (.root)
        (w64 (65535 * 2 ^ 16)) (⟨16, 1, 65536, 65536, (up.flashWho .root)⟩) ∧
    (fun (s : State) (rq : Requester) (v : U64) =>
      let fv := fun (op : Nat) => setf v 63 62 op
      s.checkWrite rq Key.fwFlashCtl (fv 2) = .ok ∧ s.flashMay rq = false) ((up.setEnt (Key.prtCores 7) 0x8000)) ((.core 15 .machine))
        (w64 (65535 * 2 ^ 16)) ∧
    (fun (s : State) =>
      s.flashOp = none) (up) ∧
    (fun (s : State) (o : FlashOp) =>
      s.flashOp = some o ∧ o.op = 1) ({ up with flashOp := some ⟨16, 1, 65536, 65536, (up.flashWho .root)⟩ })
        (⟨16, 1, 65536, 65536, (up.flashWho .root)⟩) ∧
    (fun (s : State) (o : FlashOp) =>
      s.flashOp = some o ∧ o.op = 2) ({ up with flashOp := some ⟨16, 2, 5, 65536, (up.flashWho .root)⟩ })
        (⟨16, 2, 5, 65536, (up.flashWho .root)⟩) ∧
    (fun (s : State) (o : FlashOp) =>
      s.flashOp = some o ∧ o.op = 3 ∧ s.stillWho o.slot o.who = true)
        ({ up with flashOp := some ⟨16, 3, 5, 65536, (up.flashWho .root)⟩ }) (⟨16, 3, 5, 65536, (up.flashWho .root)⟩) ∧
    (fun (s : State) (o : FlashOp) =>
      s.flashOp = some o) ({ up with flashOp := some ⟨16, 3, 5, 65536, (up.flashWho .root)⟩ }) (⟨16, 3, 5, 65536, (up.flashWho .root)⟩) ∧
    (fun (s : State) (rq : Requester) (v : U64) =>
      let ak := slotKey rq Key.secAttestCtl
      let asks := s.checkWrite rq Key.secAttestCtl v = .ok
      asks ∧ bit v 0 = true ∧ bit (tget 0 s.bank ak) 63 = false) (up) (.root) (1) ∧
    (fun (s : State) (rq : Requester) (v : U64) =>
      let ak := slotKey rq Key.secAttestCtl
      let asks := s.checkWrite rq Key.secAttestCtl v = .ok
      asks ∧ bit v 0 = true ∧ bit (tget 0 s.bank ak) 63 = true) ({ up with bank := [(slotKey .root Key.secAttestCtl, w64 (2 ^ 63))] })
        (.root) (1) ∧
    (fun (s : State) (rq : Requester) (v : U64) =>
      let asks := s.checkWrite rq Key.secAttestCtl v = .ok
      asks ∧ bit v 0 = false) (up) (.root) (0) ∧
    (fun (s : State) (rq : Requester) =>
      let ak := slotKey rq Key.secAttestCtl
      bit (tget 0 s.bank ak) 63 = true) ({ up with bank := [(slotKey .root Key.secAttestCtl, w64 (2 ^ 63))] }) (.root) ∧
    (fun (s : State) (rq : Requester) =>
      let ak := slotKey rq Key.secAttestCtl
      bit (tget 0 s.bank ak) 63 = false) (up) (.root) := by
  refine ⟨?_, ?_, ?_, ?_, ?_, ?_, ?_, ?_⟩
  rotate_left 7
  refine ⟨?_, ?_, ?_, ?_, ?_, ?_, ?_, ?_⟩
  rotate_left 7
  refine ⟨?_, ?_, ?_, ?_, ?_, ?_, ?_, ?_⟩
  rotate_left 7
  refine ⟨?_, ?_, ?_, ?_, ?_, ?_, ?_⟩
  all_goals decide +kernel

theorem test_Handovers_meets :
    (fun (s : State) (rq : Requester) (n : Fin 16) =>
      let ok := fun (op : Nat) => s.checkWrite rq (Key.hoOp n.val) (w64 op) = .ok
      let st := s.hoState n.val
      let src := s.actsFor rq (s.hoSrc n.val)
      (ok 1 ∧ src = true ∧ st = hsIdle ∧ s.hoPairOk n.val = true ∧
        (planOf (s.hoCarrier n.val)).all (fun t => s.liveState t == lsIdle) = true)) (ho 0) (.root) (15) ∧
    (fun (s : State) (rq : Requester) (n : Fin 16) =>
      let ok := fun (op : Nat) => s.checkWrite rq (Key.hoOp n.val) (w64 op) = .ok
      let src := s.actsFor rq (s.hoSrc n.val)
      ok 1 ∧ src = false) (ho 0) ((.core 14 .machine)) (15) ∧
    (fun (s : State) (rq : Requester) (n : Fin 16) =>
      let ok := fun (op : Nat) => s.checkWrite rq (Key.hoOp n.val) (w64 op) = .ok
      let st := s.hoState n.val
      let src := s.actsFor rq (s.hoSrc n.val)
      ok 1 ∧ src = true ∧ st ≠ hsIdle) (ho 1) (.root) (15) ∧
    (fun (s : State) (rq : Requester) (n : Fin 16) =>
      let ok := fun (op : Nat) => s.checkWrite rq (Key.hoOp n.val) (w64 op) = .ok
      let st := s.hoState n.val
      let src := s.actsFor rq (s.hoSrc n.val)
      ok 1 ∧ src = true ∧ st = hsIdle ∧ s.hoPairOk n.val = false) ((ho 0).setPartState 0 4) (.root) (15) ∧
    (fun (s : State) (rq : Requester) (n : Fin 16) =>
      let ok := fun (op : Nat) => s.checkWrite rq (Key.hoOp n.val) (w64 op) = .ok
      let st := s.hoState n.val
      let src := s.actsFor rq (s.hoSrc n.val)
      (ok 1 ∧ src = true ∧ st = hsIdle ∧ s.hoPairOk n.val = true ∧
        (planOf (s.hoCarrier n.val)).any (fun t => s.liveState t != lsIdle) = true)) ((ho 0).setLiveState (.plan 383) lsArmed) (.root)
        (15) ∧
    (fun (s : State) (rq : Requester) (n : Fin 16) =>
      let ok := fun (op : Nat) => s.checkWrite rq (Key.hoOp n.val) (w64 op) = .ok
      let st := s.hoState n.val
      let acts := s.hoActs rq n.val
      ok 2 ∧ acts = true ∧ st = hsPaired ∧ s.now + nsT 20000000 ≤ s.hoInstant n.val) ((ho 1).setFld (Key.hoCfg 15) 31 0 2) (.root) (15) ∧
    (fun (s : State) (rq : Requester) (n : Fin 16) =>
      let ok := fun (op : Nat) => s.checkWrite rq (Key.hoOp n.val) (w64 op) = .ok
      let st := s.hoState n.val
      let acts := s.hoActs rq n.val
      ok 2 ∧ acts = true ∧ st = hsPaired ∧ s.hoInstant n.val < s.now + nsT 20000000) ((ho 1).setFld (Key.hoCfg 15) 31 0 1) (.root) (15) ∧
    (fun (s : State) (rq : Requester) (n : Fin 16) =>
      let ok := fun (op : Nat) => s.checkWrite rq (Key.hoOp n.val) (w64 op) = .ok
      let st := s.hoState n.val
      let acts := s.hoActs rq n.val
      ok 2 ∧ acts = true ∧ st ≠ hsPaired) (ho 2) (.root) (15) ∧
    (fun (s : State) (rq : Requester) (n : Fin 16) =>
      let ok := fun (op : Nat) => s.checkWrite rq (Key.hoOp n.val) (w64 op) = .ok
      let acts := s.hoActs rq n.val
      ok 2 ∧ acts = false) (ho 0) ((.core 14 .machine)) (15) ∧
    (fun (s : State) (rq : Requester) (n : Fin 16) =>
      let ok := fun (op : Nat) => s.checkWrite rq (Key.hoOp n.val) (w64 op) = .ok
      let st := s.hoState n.val
      let T := tget 0 s.hoT n.val
      let acts := s.hoActs rq n.val
      ok 3 ∧ acts = true ∧ (st = hsPaired ∨ (st = hsArmed ∧ s.now < T))) (ho 1) (.root) (15) ∧
    (fun (s : State) (rq : Requester) (n : Fin 16) =>
      let ok := fun (op : Nat) => s.checkWrite rq (Key.hoOp n.val) (w64 op) = .ok
      let st := s.hoState n.val
      let T := tget 0 s.hoT n.val
      let acts := s.hoActs rq n.val
      ok 3 ∧ acts = true ∧ (st = hsPaired ∨ (st = hsArmed ∧ s.now < T))) ({ ho 2 with hoT := [(15, 2 ^ 100)] }) (.root) (15) ∧
    (fun (s : State) (rq : Requester) (n : Fin 16) =>
      let ok := fun (op : Nat) => s.checkWrite rq (Key.hoOp n.val) (w64 op) = .ok
      let st := s.hoState n.val
      let T := tget 0 s.hoT n.val
      let acts := s.hoActs rq n.val
      ok 3 ∧ acts = true ∧ (¬ (st = hsPaired ∨ (st = hsArmed ∧ s.now < T)))) (ho 0) (.root) (15) ∧
    (fun (s : State) (rq : Requester) (n : Fin 16) =>
      let ok := fun (op : Nat) => s.checkWrite rq (Key.hoOp n.val) (w64 op) = .ok
      let acts := s.hoActs rq n.val
      ok 3 ∧ acts = false) (ho 0) ((.core 14 .machine)) (15) ∧
    (fun (s : State) (rq : Requester) (n : Fin 16) =>
      let ok := fun (op : Nat) => s.checkWrite rq (Key.hoOp n.val) (w64 op) = .ok
      let st := s.hoState n.val
      let acts := s.hoActs rq n.val
      ok 4 ∧ acts = true ∧ (st = hsDone ∨ st = hsCancelled)) (ho 4) (.root) (15) ∧
    (fun (s : State) (rq : Requester) (n : Fin 16) =>
      let ok := fun (op : Nat) => s.checkWrite rq (Key.hoOp n.val) (w64 op) = .ok
      let st := s.hoState n.val
      let acts := s.hoActs rq n.val
      ok 4 ∧ acts = true ∧ (st = hsDone ∨ st = hsCancelled)) (ho 5) (.root) (15) ∧
    (fun (s : State) (rq : Requester) (n : Fin 16) =>
      let ok := fun (op : Nat) => s.checkWrite rq (Key.hoOp n.val) (w64 op) = .ok
      let st := s.hoState n.val
      let acts := s.hoActs rq n.val
      ok 4 ∧ acts = true ∧ (¬ (st = hsDone ∨ st = hsCancelled))) (ho 1) (.root) (15) ∧
    (fun (s : State) (rq : Requester) (n : Fin 16) =>
      let ok := fun (op : Nat) => s.checkWrite rq (Key.hoOp n.val) (w64 op) = .ok
      let acts := s.hoActs rq n.val
      ok 4 ∧ acts = false) (ho 0) ((.core 14 .machine)) (15) ∧
    (fun (s : State) (n : Fin 16) =>
      let st := s.hoState n.val
      let T := tget 0 s.hoT n.val
      let runs := s.partState (s.hoSrc n.val) = psRunning ∧ s.partState (s.hoDst n.val) = psRunning
      let due := st = hsArmed ∧ n.val ∉ s.hoChecked ∧ T ≤ s.now + nsT 1000000
      due ∧ (¬ runs)) ((ho 2).setPartState 7 4) (15) ∧
    (fun (s : State) (n : Fin 16) =>
      let st := s.hoState n.val
      let T := tget 0 s.hoT n.val
      let runs := s.partState (s.hoSrc n.val) = psRunning ∧ s.partState (s.hoDst n.val) = psRunning
      let due := st = hsArmed ∧ n.val ∉ s.hoChecked ∧ T ≤ s.now + nsT 1000000
      due ∧ runs ∧ s.hoMacsOk n.val = false) (((ho 2).setEnt (Key.hoMacs 15 1) (w64 (2 ^ 63))).setEnt (Key.ethStr 4095 0)
        (w64 (2 ^ 63 + 127 * 2 ^ 53 + 382 * 2 ^ 44))) (15) ∧
    (fun (s : State) (n : Fin 16) =>
      let st := s.hoState n.val
      let T := tget 0 s.hoT n.val
      let runs := s.partState (s.hoSrc n.val) = psRunning ∧ s.partState (s.hoDst n.val) = psRunning
      let due := st = hsArmed ∧ n.val ∉ s.hoChecked ∧ T ≤ s.now + nsT 1000000
      due ∧ runs ∧ s.hoMacsOk n.val = true) (ho 2) (15) ∧
    (fun (s : State) (n : Fin 16) =>
      let st := s.hoState n.val
      let T := tget 0 s.hoT n.val
      let due := st = hsArmed ∧ n.val ∉ s.hoChecked ∧ T ≤ s.now + nsT 1000000
      (¬ due)) ({ ho 2 with hoT := [(15, 2 ^ 100)] }) (15) ∧
    (fun (s : State) (n : Fin 16) =>
      let w := (List.range 16).foldl State.hoPrecheck s
      let cuts := w.hoState n.val = hsArmed ∧ tget 0 w.hoT n.val ≤ w.now
      cuts) ({ ho 2 with hoChecked := [15] }) (15) ∧
    (fun (s : State) (n : Fin 16) =>
      let w := (List.range 16).foldl State.hoPrecheck s
      let cuts := w.hoState n.val = hsArmed ∧ tget 0 w.hoT n.val ≤ w.now
      (¬ cuts)) (ho 0) (15) ∧
    (fun (s : State) (n : Fin 16) =>
      let st := s.hoState n.val
      let T := tget 0 s.hoT n.val
      st = hsDrain ∧ s.hoPending (s.hoCarrier n.val) T = false) (ho 3) (15) ∧
    (fun (s : State) (n : Fin 16) =>
      let st := s.hoState n.val
      let T := tget 0 s.hoT n.val
      (st ≠ hsDrain ∨ s.hoPending (s.hoCarrier n.val) T = true)) (ho 0) (15) := by
  refine ⟨?_, ?_, ?_, ?_, ?_, ?_, ?_, ?_⟩
  rotate_left 7
  refine ⟨?_, ?_, ?_, ?_, ?_, ?_, ?_, ?_⟩
  rotate_left 7
  refine ⟨?_, ?_, ?_, ?_, ?_, ?_, ?_, ?_⟩
  rotate_left 7
  refine ⟨?_, ?_, ?_, ?_⟩
  all_goals decide +kernel

theorem test_GelpelLink_meets :
    (fun (s : State) (rq : Requester) (g : Fin 4) (v : U64) =>
      let key := s.checkWrite rq (Key.gplGCfg g.val) v = .ok
      key ∧ bit v 63 = false) ((gp 3 (id))) (.root) (3) (0) ∧
    (fun (s : State) (rq : Requester) (g : Fin 4) (v : U64) =>
      let st := s.gplState g.val
      let key := s.checkWrite rq (Key.gplGCfg g.val) v = .ok
      let names := st = gpTrain ∧ bf v 15 0 ≠ 0
      key ∧ bit v 63 = true ∧ names) ((gp 1 (id))) (.root) (3) (w64 (2 ^ 63 + 0xFFFF)) ∧
    (fun (s : State) (rq : Requester) (g : Fin 4) (v : U64) =>
      let st := s.gplState g.val
      let key := s.checkWrite rq (Key.gplGCfg g.val) v = .ok
      let names := st = gpTrain ∧ bf v 15 0 ≠ 0
      key ∧ bit v 63 = true ∧ (¬ names)) ((gp 0 (id))) (.root) (3) (w64 (2 ^ 63)) ∧
    (fun (s : State) (g : Fin 4) (r : BusAnswer) =>
      let st := s.gplState g.val
      let x := s.gpl g.val
      let sends := st = gpHello ∧ x.helloRaw.elim true (fun r => decide (r + usTicks 1 ≤ s.raw.toNat)) = true
      sends) ((gp 2 (id))) (3) (.good) ∧
    (fun (s : State) (g : Fin 4) (r : BusAnswer) =>
      let st := s.gplState g.val
      let x := s.gpl g.val
      let sends := st = gpHello ∧ x.helloRaw.elim true (fun r => decide (r + usTicks 1 ≤ s.raw.toNat)) = true
      (¬ sends)) ((gp 3 (id))) (3) (.good) ∧
    (fun (s : State) (g : Fin 4) =>
      let hears := s.gplHears g.val = true
      (¬ hears)) ((gp 0 (id))) (3) ∧
    (fun (s : State) (g : Fin 4) (h : GplHello) =>
      let hears := s.gplHears g.val = true
      hears ∧ h.crcOk = false) ((gp 2 (id))) (3) (hel false 1) ∧
    (fun (s : State) (g : Fin 4) (h : GplHello) =>
      let st := s.gplState g.val
      let hears := s.gplHears g.val = true
      hears ∧ h.crcOk = true ∧ st ≠ gpHello) ((gp 3 (id))) (3) (hel true 1) ∧
    (fun (s : State) (g : Fin 4) (h : GplHello) =>
      let st := s.gplState g.val
      let heard := s.gplHeard g.val
      let told := heard.gplPeerTold g.val h
      st = gpHello ∧ h.crcOk = true ∧ told.helloConflicts g.val h = true) ((gp 2 (id))) (3) (hel true 2) ∧
    (fun (s : State) (g : Fin 4) (h : GplHello) =>
      let st := s.gplState g.val
      let heard := s.gplHeard g.val
      let told := heard.gplPeerTold g.val h
      let both := h.acksOurs = true ∧ (told.gpl g.val).helloRaw.isSome = true
      st = gpHello ∧ h.crcOk = true ∧ told.helloConflicts g.val h = false ∧ both) ((gp 2 (fun x => { x with helloRaw := some 0 }))) (3)
        (hel true 1) ∧
    (fun (s : State) (g : Fin 4) (h : GplHello) =>
      let st := s.gplState g.val
      let heard := s.gplHeard g.val
      let told := heard.gplPeerTold g.val h
      let both := h.acksOurs = true ∧ (told.gpl g.val).helloRaw.isSome = true
      st = gpHello ∧ h.crcOk = true ∧ told.helloConflicts g.val h = false ∧ (¬ both)) ((gp 2 (id))) (3) (hel true 1) ∧
    (fun (s : State) (g : Fin 4) =>
      let carries := s.gplCarries g.val = true
      (¬ carries)) ((gp 0 (id))) (3) ∧
    (fun (s : State) (g : Fin 4) (f : GplFlit) =>
      let heard := s.gplHeard g.val
      let carries := s.gplCarries g.val = true
      let hx := heard.gpl g.val
      carries ∧ f.crcOk = true ∧ f.seq = hx.expect) ((gp 3 (id))) (3) (flt true 0) ∧
    (fun (s : State) (g : Fin 4) (f : GplFlit) =>
      let heard := s.gplHeard g.val
      let carries := s.gplCarries g.val = true
      let hx := heard.gpl g.val
      carries ∧ f.crcOk = true ∧ f.seq ≠ hx.expect) ((gp 3 (id))) (3) (flt true 9) ∧
    (fun (s : State) (g : Fin 4) (f : GplFlit) =>
      let carries := s.gplCarries g.val = true
      carries ∧ f.crcOk = false) ((gp 3 (id))) (3) (flt false 0) ∧
    (fun (s : State) (g : Fin 4) (seq : Byte) =>
      let x := s.gpl g.val
      let carries := s.gplCarries g.val = true
      let kept := ackFlits (seq - 1) x.unacked
      carries ∧ kept = []) ((gp 3 (fun x => { x with unacked := [⟨0, false, [], 0⟩] }))) (3) (1) ∧
    (fun (s : State) (g : Fin 4) (seq : Byte) =>
      let x := s.gpl g.val
      let carries := s.gplCarries g.val = true
      let kept := ackFlits (seq - 1) x.unacked
      carries ∧ kept ≠ []) ((gp 3 (fun x => { x with unacked := [⟨0, false, [], 0⟩] }))) (3) (0) ∧
    (fun (s : State) (g : Fin 4) =>
      let x := s.gpl g.val
      let carries := s.gplCarries g.val = true
      let stale := carries ∧ x.unacked ≠ [] ∧ x.ackRaw + usTicks 2 ≤ s.raw.toNat
      stale) ({ (gp 3 (fun x => { x with unacked := [⟨0, false, [], 0⟩] })) with raw := 2 ^ 40 }) (3) ∧
    (fun (s : State) (g : Fin 4) =>
      let x := s.gpl g.val
      let carries := s.gplCarries g.val = true
      let stale := carries ∧ x.unacked ≠ [] ∧ x.ackRaw + usTicks 2 ≤ s.raw.toNat
      (¬ stale)) ((gp 3 (id))) (3) ∧
    (fun (s : State) (g : Fin 4) =>
      let st := s.gplState g.val
      let isUp := st = gpUp
      isUp) ((gp 3 (id))) (3) ∧
    (fun (s : State) (g : Fin 4) (part : BitVec 4) (ws : List U64) (n : Nat) =>
      s.gplAdmits g.val part.toNat (descOf ws).target = some n) (((gp 3 id).setEnt (Key.prtCores 0) 1)) (3) (7)
        ([w64 (5 * 2 ^ 52), w64 (840 * 2 ^ 52), 0, 0, 0, 0, 0, 0]) (0) ∧
    (fun (s : State) (g : Fin 4) =>
      let st := s.gplState g.val
      let isUp := st = gpUp
      isUp) ((gp 3 (id))) (3) ∧
    (fun (s : State) (w0 : U64) =>
      s.tokenEntry w0 = none ∧ bit w0 31 = true) ((gp 3 (id))) (w64 (2 ^ 31)) ∧
    (fun (s : State) (w0 : U64) =>
      s.tokenEntry w0 = none ∧ bit w0 31 = false ∧ 2 ^ 30 ≤ bf w0 63 32) ((gp 3 (id))) (w64 (2 ^ 62)) ∧
    (fun (s : State) (t : State) (g : Fin 4) (rt : RetTo) (o : Obj) =>
      let st := s.gplState g.val
      let isUp := st = gpUp
      let waits := fun (p : Outstanding → Bool) (y : Outstanding) => isUp ∧ s.popGpl g.val p = some (y, t)
      (waits (fun o => match o with | .result _ => true | _ => false) (.result rt)))
        ((gp 3 (fun x => { x with waiting := [.result .none] })))
        ((((gp 3 (fun x => { x with waiting := [.result .none] })).popGpl 3 (fun o => match o with | .result _ => true | _ => false)).elim up (·.2))) (3) (.none) (⟨0, 0⟩) ∧
    (fun (s : State) (g : Fin 4) (part : BitVec 4) =>
      let st := s.gplState g.val
      let isUp := st = gpUp
      isUp ∧ 8 ≤ part.toNat) ((gp 3 (id))) (3) (8) ∧
    (fun (s : State) (g : Fin 4) (part : BitVec 4) =>
      let st := s.gplState g.val
      let isUp := st = gpUp
      isUp ∧ 8 ≤ part.toNat) ((gp 3 (id))) (3) (8) ∧
    (fun (s : State) (g : Fin 4) (part : BitVec 4) (q : Fin 8) =>
      let st := s.gplState g.val
      let isUp := st = gpUp
      isUp ∧ part.toNat = q.val) ((gp 3 (id))) (3) (7) (7) ∧
    (fun (s : State) (g : Fin 4) (part : BitVec 4) (q : Fin 8) =>
      let st := s.gplState g.val
      let isUp := st = gpUp
      isUp ∧ part.toNat = q.val) ((gp 3 (id))) (3) (7) (7) ∧
    (fun (s : State) (g : Fin 4) (a : Addr) (n : Nat) (q : Fin 8) =>
      s.accessOk (.gelpel g q) a.toNat n false = false) ((gp 3 (id))) (3) (0xFFFFFFFFF8) (8) (7) ∧
    (fun (s : State) (g : Fin 4) (a : Addr) (bs : List (Byte × Bool)) (q : Fin 8) =>
      s.accessOk (.gelpel g q) a.toNat bs.length true = true ∧ regionOf a.toNat = .hbm) (((gp 3 id).setEnt (Key.memHbmRegion 63)
        (w64 (2 ^ 63 + 2 ^ 16 + 1)))) (3) (0x1000000) ([(1, true)]) (7) ∧
    (fun (s : State) (t : State) (g : Fin 4) (who : Accessor) (o : Obj) (at_ : Nat) =>
      let st := s.gplState g.val
      let isUp := st = gpUp
      let waits := fun (p : Outstanding → Bool) (y : Outstanding) => isUp ∧ s.popGpl g.val p = some (y, t)
      (waits (fun o => match o with | .read _ _ => true | _ => false) (.read who at_)))
        ((gp 3 (fun x => { x with waiting := [.read (.core 15 .machine) 0] })))
        ((((gp 3 (fun x => { x with waiting := [.read (.core 15 .machine) 0] })).popGpl 3 (fun o => match o with | .read _ _ => true | _ => false)).elim up (·.2))) (3) (.core 15 .machine) (⟨0, 0⟩) (0) ∧
    (fun (s : State) (t : State) (g : Fin 4) (who : Accessor) (o : Obj) (at_ : Nat) =>
      let st := s.gplState g.val
      let isUp := st = gpUp
      let waits := fun (p : Outstanding → Bool) (y : Outstanding) => isUp ∧ s.popGpl g.val p = some (y, t)
      (waits (fun o => match o with | .write _ _ => true | _ => false) (.write who at_)))
        ((gp 3 (fun x => { x with waiting := [.write (.core 15 .machine) 0] })))
        ((((gp 3 (fun x => { x with waiting := [.write (.core 15 .machine) 0] })).popGpl 3 (fun o => match o with | .write _ _ => true | _ => false)).elim up (·.2))) (3) (.core 15 .machine) (⟨0, 0⟩) (0) ∧
    (fun (s : State) (g : Fin 4) =>
      let carries := s.gplCarries g.val = true
      carries) ((gp 3 (id))) (3) ∧
    (fun (s : State) (g : Fin 4) (why : LinkDownCause) =>
      let st := s.gplState g.val
      let falls := st ≠ gpDown ∧ s.gplCause g.val why = true
      falls) ({ (gp 3 (fun x => { x with naks := List.replicate 65 0 })) with raw := 5 }) (3) (.naks) ∧
    (fun (s : State) (g : Fin 4) (why : LinkDownCause) =>
      let st := s.gplState g.val
      let falls := st ≠ gpDown ∧ s.gplCause g.val why = true
      (¬ falls)) ((gp 3 (id))) (3) (.naks) ∧
    (fun (s : State) (g : Fin 4) =>
      let st := s.gplState g.val
      let isUp := st = gpUp
      isUp) ((gp 3 (id))) (3) ∧
    (fun (s : State) (t : State) (g : Fin 4) (o : Obj) (sl : Nat) =>
      let st := s.gplState g.val
      let isUp := st = gpUp
      let waits := fun (p : Outstanding → Bool) (y : Outstanding) => isUp ∧ s.popGpl g.val p = some (y, t)
      (waits (fun o => match o with | .relay _ => true | _ => false) (.relay sl)))
        ((gp 3 (fun x => { x with waiting := [.relay 15] })))
        ((((gp 3 (fun x => { x with waiting := [.relay 15] })).popGpl 3 (fun o => match o with | .relay _ => true | _ => false)).elim up (·.2))) (3) (⟨0, 0⟩) (15) ∧
    (fun (s : State) (g : Fin 4) =>
      let st := s.gplState g.val
      let isUp := st = gpUp
      (¬ isUp)) ((gp 0 (id))) (3) ∧
    (fun (s : State) (rq : Requester) (v : U64) =>
      let relays := s.checkWrite rq Key.gplRelayReq v = .ok
      let rBusy := bit (tget 0 s.bank (relayKey rq)) 63
      relays ∧ rBusy = true) ({ gp 3 id with bank := [(relayKey .root, w64 (2 ^ 63))] }) (.root) (w64 (2 ^ 62 + 2 ^ 48)) ∧
    (fun (s : State) (rq : Requester) (v : U64) =>
      let relays := s.checkWrite rq Key.gplRelayReq v = .ok
      let rBusy := bit (tget 0 s.bank (relayKey rq)) 63
      let rOk := bf v 49 48 ≠ 0 ∧ (bf v 63 62 = 1 ∨ bf v 63 62 = 2)
      relays ∧ rBusy = false ∧ (¬ rOk)) ((gp 3 (id))) (.root) (w64 (2 ^ 62)) ∧
    (fun (s : State) (rq : Requester) (v : U64) =>
      let relays := s.checkWrite rq Key.gplRelayReq v = .ok
      let rBusy := bit (tget 0 s.bank (relayKey rq)) 63
      let rOk := bf v 49 48 ≠ 0 ∧ (bf v 63 62 = 1 ∨ bf v 63 62 = 2)
      relays ∧ rBusy = false ∧ rOk ∧ s.linkTo (bf v 49 48) = none) ((gp 3 (id))) (.root) (w64 (2 ^ 62 + 3 * 2 ^ 48)) ∧
    (fun (s : State) (rq : Requester) (v : U64) (at_ : Nat) =>
      let relays := s.checkWrite rq Key.gplRelayReq v = .ok
      let rBusy := bit (tget 0 s.bank (relayKey rq)) 63
      let rOk := bf v 49 48 ≠ 0 ∧ (bf v 63 62 = 1 ∨ bf v 63 62 = 2)
      relays ∧ rBusy = false ∧ rOk ∧ s.linkTo (bf v 49 48) = some at_) ((gp 3 (id))) (.root) (w64 (2 ^ 62 + 2 * 2 ^ 48)) (3) := by
  refine ⟨?_, ?_, ?_, ?_, ?_, ?_, ?_, ?_⟩
  rotate_left 7
  refine ⟨?_, ?_, ?_, ?_, ?_, ?_, ?_, ?_⟩
  rotate_left 7
  refine ⟨?_, ?_, ?_, ?_, ?_, ?_, ?_, ?_⟩
  rotate_left 7
  refine ⟨?_, ?_, ?_, ?_, ?_, ?_, ?_, ?_⟩
  rotate_left 7
  refine ⟨?_, ?_, ?_, ?_, ?_, ?_, ?_, ?_⟩
  rotate_left 7
  refine ⟨?_, ?_, ?_, ?_, ?_, ?_, ?_, ?_⟩
  all_goals decide +kernel

theorem test_PsimirRoundTrip_meets :
    (Instr.add 511 31 30 29).wf = true ∧ (encodePsimir (.add 511 31 30 29)).isSome = true := by decide +kernel

theorem test_StepKeepsInvariant_meets :
    State.reset.Inv ∧ State.reset.pending = [] := by decide +kernel

/-! An ill-formed command for each check of `Instr.wf` -/

/-- One more row, or word, than the table has. -/
theorem test_live_row_ill : (Instr.liveStagedWrite .root (.trig 0) 16 0 0).wf = false ∧ (Instr.liveDirectWrite .root (.gcl 127) 1024 0 0).wf = false ∧
    (Instr.liveDeferredApply (.plan 383) 2048).wf = false := by decide
theorem test_live_word_ill : (Instr.liveStagedWrite .root (.trig 0) 15 2 0).wf = false ∧ (Instr.liveDirectWrite .root (.watch 7) 15 8 0).wf = false := by
  decide
theorem test_live_wf : (Instr.liveStagedWrite .root (.trig 0) 15 1 0).wf = true := by decide
/-- IMM[7:6] is another shift's. -/
theorem test_shift_ill : (Instr.slli 0 1 2 0x40).wf = false ∧ (Instr.srli 0 1 2 0x80).wf = false ∧ (Instr.srai 0 1 2 0).wf = false := by decide
theorem test_access_ill : (Instr.memoryAccess ⟨.root, 0, 0, none, false, false, []⟩).wf = false ∧ (Instr.memoryAccess ⟨.root, 0, 2, some [1], false, false, []⟩).wf = false := by
  decide
theorem test_leash_ill : (Instr.leashGrant 0 [⟨5, false, 4⟩, ⟨5, false, 4⟩]).wf = false := by decide
theorem test_cpri_ill : (Instr.cpriHyperframe 0 ⟨614400, true, true, List.replicate 256 [], []⟩).wf = false ∧
    (Instr.cpriHyperframe 0 ⟨0, true, true, [], []⟩).wf = false := by decide
theorem test_frame_ill : (Instr.ethRxFrame 0 ⟨List.replicate 17 0, true, true, true⟩).wf = false := by decide
theorem test_enber_ill : (Instr.enberRead { emRaw 1 0 0 ⟨0, 0⟩ 1 [] with payload := List.replicate 1401 0 }).wf = false ∧
    (Instr.enberAuth { emRaw 8 0 0 ⟨0, 0⟩ 0 [] with tag := [0] }).wf = false := by decide +kernel
theorem test_gelpel_ill : (Instr.gplTask 0 0 [0]).wf = false ∧ (Instr.gplRdReq 0 0 false 0 0 false []).wf = false ∧ (Instr.gplWrReq 0 0 false 0 []).wf = false := by
  decide
theorem test_i2c_ill : (Instr.i2cDone 0 (.ok (List.replicate 33 0))).wf = false := by decide

/-! Psimir words, bit by bit from the table Instruction words -/

theorem test_decode_sub : decodePsimir 9 0b000001_00011_00001_00010_00000000001 = some (.sub 9 3 1 2) := by decide
theorem test_decode_fails_on_reserved : decodePsimir 0 0b111111_00000_00000_0000000000000000 = none := by decide
theorem test_encode_refuses_ports : encodePsimir (.warmReset .root) = none := by decide

/-! Single steps -/

/-- An empty queue idles (assumption 1), and the front command is taken. -/
theorem test_step_idles : step State.reset = .next State.reset := rfl
theorem test_step_takes_front :
    (match step { px with pending := [.add 511 5 2 2, .brk 0 0 0 0] } with
      | .next t => t.pending == [.brk 0 0 0 0] && (t.tl 511).rs 5 == 14 && (t.tl 511).pc == 4
      | _ => false) = true := by decide +kernel
/-- ADDI wraps at 64 bits: 7 - 8 (R169: IMM is sign-extended). -/
theorem test_addi_wraps : (match exec (.addi 511 5 2 0xFFF8) px with | .next t => (t.tl 511).rs 5 == 0xFFFFFFFFFFFFFFFF | _ => false) = true := by
  decide +kernel
/-- A source that is also the destination is read first: s2 * s2. -/
theorem test_mul_same : (match exec (.mul 511 2 2 2) px with | .next t => (t.tl 511).rs 2 == 49 | _ => false) = true := by decide +kernel
end Sys2Proof.Tests
end

section
/-!
PROOFS. The live tables (R32 to R45): what a write of a row or of the control word does in each state of its table, what the table's own
events do, and with them the statements O3 and O4.
-/
namespace Sys2Proof.Machine

/-! Requesters and places -/

theorem asWriter_of_ok {s : State} {rq : Requester} {k : Nat} {v : U64} (h : s.checkWho rq k v = .ok) (u : State) :
    asWriter s rq k v u = u := by
  simp [asWriter, h]

theorem inTable_of_lt {t : TableId} {row word : Nat} (hr : row < liveRows t) (hw : word < liveWords t) :
    inTable t row word = true := by
  simp [inTable, hr, hw]

/-- A staged write within the table, by a requester that may make it, is the table's. -/
theorem execLiveStagedWrite_of_ok {s : State} {rq : Requester} {t : TableId} {row word : Nat} {v : U64} (hr : row < liveRows t)
    (hw : word < liveWords t) (hq : s.checkWho rq (rowKey t 1 row word) v = .ok) :
    execLiveStagedWrite rq t row word v s = .next (s.stagedWrite t row word v) := by
  rw [execLiveStagedWrite, if_pos (inTable_of_lt hr hw), asWriter_of_ok hq]

/-- A direct write within the table, by a requester that may make it, is the table's. -/
theorem execLiveDirectWrite_of_ok {s : State} {rq : Requester} {t : TableId} {row word : Nat} {v : U64} (hr : row < liveRows t)
    (hw : word < liveWords t) (hq : s.checkWho rq (rowKey t 0 row word) v = .ok) :
    execLiveDirectWrite rq t row word v s = .next (s.directWrite t row word v) := by
  rw [execLiveDirectWrite, if_pos (inTable_of_lt hr hw), asWriter_of_ok hq]

/-! What a table holds besides its rows -/

@[simp] theorem State.lv_setLv (s : State) (t : TableId) (x : Live) : (s.setLv t x).lv t = x := by
  simp [State.lv, State.setLv]

/-! Writes of rows (R34, R36, R38 to R41) -/

section Rows
variable {s : State} {t : TableId} {row word : Nat} {v : U64}

theorem State.stagedWrite_of_idle (hs : s.liveState t = lsIdle)
    (hok : s.rowOk t 1 row ((s.rowOf t 1 row).set word (clearPend t word v)) word = true) :
    s.stagedWrite t row word v = (s.setEnt (rowKey t 1 row word) (clearPend t word v)).status .ok := by
  simp [State.stagedWrite, hs, hok]

theorem State.stagedWrite_of_not_idle (hs : s.liveState t ≠ lsIdle) : s.stagedWrite t row word v = s.liveReject t .busy := by
  simp [State.stagedWrite, hs]

theorem State.directWrite_of_armed (hs : s.liveState t = lsArmed) : s.directWrite t row word v = s.liveReject t .busy := by
  simp [State.directWrite, hs]

/-- A table whose row r defers the value v, PENDING aside, of word w. -/
def State.deferWord (s : State) (t : TableId) (r w : Nat) (v : U64) : State :=
  s.setLv t { s.lv t with deferred := tput (s.lv t).deferred r (tput (tget [] (s.lv t).deferred r) w (clearPend t w v)) }

/-- Which rows are executed is a matter of the occurrences alone. -/
@[simp] theorem State.executing_deferWord (s : State) (t : TableId) (r w : Nat) (v : U64) :
    (s.deferWord t r w v).executing t = s.executing t := by
  funext r
  simp [State.executing, State.deferWord]

/-- An accepted direct write is deferred first; then the row takes it at once unless an occurrence executes it. -/
theorem State.directWrite_of_not_armed (hs : s.liveState t ≠ lsArmed)
    (hok : s.rowOk t 0 row ((s.shownRow t row).set word (clearPend t word v)) word = true) :
    s.directWrite t row word v =
      (if s.executing t row then s.deferWord t row word v
        else ((s.deferWord t row word v).barRow t row).applyDeferred t row).status .ok := by
  rw [← s.executing_deferWord t row word v, State.directWrite, if_neg hs, hok]
  rfl

end Rows

/-! Writes of the control word (R34, R36, R37, R45) -/

/-- The control word that asks for ARM, CANCEL and CLR_CNT. -/
def liveCtlWord (arm cancel clr : Bool) : U64 := w64 (b01 arm * 2 ^ 29 + b01 cancel * 2 ^ 28 + b01 clr * 2 ^ 27)

/-- The control word carries its three commands at their bits, and no reserved bit. -/
theorem liveCtlWord_fields (arm cancel clr : Bool) :
    bit (liveCtlWord arm cancel clr) 29 = arm ∧ bit (liveCtlWord arm cancel clr) 28 = cancel ∧
      bit (liveCtlWord arm cancel clr) 27 = clr ∧ bf (liveCtlWord arm cancel clr) 24 16 = 0 := by
  revert arm cancel clr
  decide

/-- SWAPS aside, the counters of a table's control word are cleared (R45). -/
def State.liveCntCleared (s : State) (t : TableId) : State :=
  (s.setFld (liveCtlKey t) 63 48 0).setFld (liveCtlKey t) 47 32 0

/-- ARM and CANCEL together are refused; else CLR_CNT comes first, then the command set with it. -/
theorem State.liveCtlWrite_liveCtlWord (s : State) (t : TableId) (arm cancel clr : Bool) :
    s.liveCtlWrite t (liveCtlWord arm cancel clr) =
      if arm && cancel then s.liveReject t .range
      else
        let u := if clr then s.liveCntCleared t else s
        if arm then u.liveArmNow t else if cancel then u.liveCancelNow t else u.status .ok := by
  obtain ⟨harm, hcancel, hclr, hres⟩ := liveCtlWord_fields arm cancel clr
  simp [State.liveCtlWrite, State.liveCntCleared, harm, hcancel, hclr, hres]

section Control
variable {s : State} {rq : Requester} {t : TableId}

theorem execLiveArm_of_ok (h : s.checkWho rq (liveCtlKey t) (w64 (2 ^ 29)) = .ok) :
    execLiveArm rq t s = .next (s.liveArmNow t) := by
  rw [execLiveArm, asWriter_of_ok h]
  exact congrArg _ (s.liveCtlWrite_liveCtlWord t true false false)

theorem execLiveCancel_of_ok (h : s.checkWho rq (liveCtlKey t) (w64 (2 ^ 28)) = .ok) :
    execLiveCancel rq t s = .next (s.liveCancelNow t) := by
  rw [execLiveCancel, asWriter_of_ok h]
  exact congrArg _ (s.liveCtlWrite_liveCtlWord t false true false)

theorem execLiveClrCnt_of_ok (arm cancel : Bool) {v : U64} (hv : v = liveCtlWord arm cancel true)
    (h : s.checkWho rq (liveCtlKey t) v = .ok) :
    execLiveClrCnt rq t arm cancel s =
      .next (if arm && cancel then s.liveReject t .range
        else if arm then (s.liveCntCleared t).liveArmNow t
        else if cancel then (s.liveCntCleared t).liveCancelNow t
        else (s.liveCntCleared t).status .ok) := by
  have hexec : execLiveClrCnt rq t arm cancel s =
      .next (asWriter s rq (liveCtlKey t) (liveCtlWord arm cancel true) (s.liveCtlWrite t (liveCtlWord arm cancel true))) := rfl
  subst hv
  rw [hexec, asWriter_of_ok h]
  exact congrArg _ (s.liveCtlWrite_liveCtlWord t arm cancel true)

theorem State.liveArmNow_of_idle (hs : s.liveState t = lsIdle) (hok : s.armOk t = true) :
    s.liveArmNow t = ((s.setLv t { s.lv t with armedAt := s.raw.toNat }).setLiveState t lsArmed).status .ok := by
  have hna : s.liveState t ≠ lsArmed := by rw [hs]; decide
  have hnc : s.liveState t ≠ lsCopying := by rw [hs]; decide
  simp [State.liveArmNow, hna, hnc, hok]

theorem State.liveCancelNow_of_idle (hs : s.liveState t = lsIdle) : s.liveCancelNow t = s.status .ok := by
  simp [State.liveCancelNow, hs]

/-- A commit is cancelled while no boundary at which it swaps lies less than 64 FCLK cycles ahead. -/
theorem State.liveCancelNow_of_armed_early (hs : s.liveState t = lsArmed)
    (hb : ∀ b, s.pendingBoundary t = some b → s.liveMaySwap t = true → s.raw.toNat + 32 ≤ s.tickOf b) :
    s.liveCancelNow t = ((s.setLate t false).setLiveState t lsIdle).status .ok := by
  have hni : s.liveState t ≠ lsIdle := by rw [hs]; decide
  have hnc : s.liveState t ≠ lsCopying := by rw [hs]; decide
  cases hp : s.pendingBoundary t with
  | none => simp [State.liveCancelNow, hni, hnc, hp]
  | some b =>
    have hnot : ¬ (s.liveMaySwap t = true ∧ s.tickOf b < s.raw.toNat + marginTicks) :=
      fun ⟨hm, hlt⟩ => Nat.not_lt.mpr (hb b hp hm) hlt
    simp [State.liveCancelNow, hni, hnc, hp, hnot]

theorem State.liveCancelNow_of_armed_late {b : Nat} (hs : s.liveState t = lsArmed) (hp : s.pendingBoundary t = some b)
    (hm : s.liveMaySwap t = true) (hb : s.tickOf b < s.raw.toNat + 32) : s.liveCancelNow t = s.liveReject t .busy := by
  have hni : s.liveState t ≠ lsIdle := by rw [hs]; decide
  have hnc : s.liveState t ≠ lsCopying := by rw [hs]; decide
  simp [State.liveCancelNow, hni, hnc, hp, hm, marginTicks, hb]

end Control

/-- Settles O3: each clause is what the state of the table leaves of the write, of a row or of the control word. -/
theorem liveTableWrites : Obligations.LiveTableWrites := by
  intro s rq t row word v d
  refine ⟨fun hr hw hq hs hok => ?stagedIdle, fun hr hw hq hs => ?stagedBusy, fun hq hs hok => ?arm, fun hq hs hb => ?cancelEarly,
    fun b hq hs hp hm hb => ?cancelLate, fun hq hs => ?cancelIdle, fun hq => ?clr, fun hq => ?clrArm, fun hq => ?clrCancel,
    fun hq => ?clrBoth, fun hr hw hq hs hok hex => ?directDeferred, fun hr hw hq hs hok hex => ?directApplied,
    fun hr hw hq hs => ?directBusy⟩
  case stagedIdle => rw [exec_liveStagedWrite, execLiveStagedWrite_of_ok hr hw hq, State.stagedWrite_of_idle hs hok]
  case stagedBusy => rw [exec_liveStagedWrite, execLiveStagedWrite_of_ok hr hw hq, State.stagedWrite_of_not_idle hs, State.liveReject]
  case arm => rw [exec_liveArm, execLiveArm_of_ok hq, State.liveArmNow_of_idle hs hok]; rfl
  case cancelEarly => rw [exec_liveCancel, execLiveCancel_of_ok hq, State.liveCancelNow_of_armed_early hs hb]; rfl
  case cancelLate => rw [exec_liveCancel, execLiveCancel_of_ok hq, State.liveCancelNow_of_armed_late hs hp hm hb, State.liveReject]
  case cancelIdle => rw [exec_liveCancel, execLiveCancel_of_ok hq, State.liveCancelNow_of_idle hs]
  case clr => simp [execLiveClrCnt_of_ok false false (by decide) hq, State.liveCntCleared]
  case clrArm => simp [execLiveClrCnt_of_ok true false (by decide) hq, State.liveCntCleared]
  case clrCancel => simp [execLiveClrCnt_of_ok false true (by decide) hq, State.liveCntCleared]
  case clrBoth => simp [execLiveClrCnt_of_ok true true (by decide) hq, State.liveReject]
  case directDeferred =>
    rw [exec_liveDirectWrite, execLiveDirectWrite_of_ok hr hw hq, State.directWrite_of_not_armed hs hok, if_pos hex]; rfl
  case directApplied =>
    rw [exec_liveDirectWrite, execLiveDirectWrite_of_ok hr hw hq, State.directWrite_of_not_armed hs hok, hex]; rfl
  case directBusy => rw [exec_liveDirectWrite, execLiveDirectWrite_of_ok hr hw hq, State.directWrite_of_armed hs, State.liveReject]

/-! The tables' own events (R34, R35, R39) -/

section Events
variable {s : State} {t : TableId}

theorem execLiveSwap_of_reached {b : Nat} (hs : s.liveState t = lsArmed) (hm : s.liveMaySwap t = true)
    (hp : s.pendingBoundary t = some b) (hb : s.tickOf b ≤ s.raw.toNat) : execLiveSwap t s = .next (s.liveSwapNow t b) := by
  simp [execLiveSwap, hs, hm, hp, Option.filter, hb]

/-- A boundary that comes too soon after the arm sets LATE. -/
theorem execLiveSwap_of_early (hs : s.liveState t = lsArmed) (hm : s.liveMaySwap t = true)
    (hfar : s.boundaryReached t ((s.lv t).armedAt + 32) = false) (hnear : s.boundaryReached t (s.lv t).armedAt = true) :
    execLiveSwap t s = .next (s.setLate t true) := by
  have hnone : (s.pendingBoundary t).filter (fun b => decide (s.tickOf b ≤ s.raw.toNat)) = none := by
    change (s.nextBoundary t ((s.lv t).armedAt + 32)).filter _ = none
    cases hp : s.nextBoundary t ((s.lv t).armedAt + 32) with
    | none => rfl
    | some b => simpa [State.boundaryReached, hp] using hfar
  simp [execLiveSwap, hs, hm, hnone, hnear]

theorem execLiveCopyDone_of_copying (hs : s.liveState t = lsCopying) : execLiveCopyDone t s = .next (s.liveCopied t) := by
  simp [execLiveCopyDone, hs]

/-- With nothing deferred the staged copy takes the active copy's entries alone. -/
theorem State.liveCopied_of_not_deferred (hd : (s.lv t).deferred = []) :
    s.liveCopied t = { s with
      od := putAll (dropSpan s.od (rowKey t 1 0 0) (liveSpan t))
        (movedFrom s.od (rowKey t 0 0 0) (rowKey t 1 0 0) (liveSpan t)) }.setLiveState t lsIdle := by
  have hlv : ∀ od, (State.lv { s with od := od } t).deferred = [] := fun _ => hd
  simp [State.liveCopied, hlv]

theorem State.applyDeferred_of_not_deferred {row : Nat} (h : tfind (s.lv t).deferred row = none) : s.applyDeferred t row = s := by
  simp [State.applyDeferred, h]

end Events

/-- Settles O4: the boundary that an armed table waits for, and the row that no occurrence executes, decide. -/
theorem liveTableEvents : Obligations.LiveTableEvents := by
  intro s t row b
  refine ⟨fun hs hm hp hb => execLiveSwap_of_reached hs hm hp hb, fun hs hm hfar hnear => execLiveSwap_of_early hs hm hfar hnear,
    fun hs => execLiveCopyDone_of_copying hs, fun hs hd => ?copied, fun hex => ?waits, fun hex => ?applied,
    State.applyDeferred_of_not_deferred⟩
  case copied =>
    rw [exec_liveCopyDone, execLiveCopyDone_of_copying hs, State.liveCopied_of_not_deferred hd]; rfl
  case waits => simp [execLiveDeferredApply, hex]
  case applied => simp [execLiveDeferredApply, hex]

end Sys2Proof.Machine
end

section
/-!
PROOFS. Clocks, timebase, captures and trigger units (R46 to R76), and the state after reset: what each command does in each of its
cases, and with them the statements O5, O6, O7, O9, O10 and O59.
-/
namespace Sys2Proof.Machine

/-! Clocks (R47 to R49, R76) -/

section Clocks
variable {s : State}

theorem execClkrefLoss_of_refOk (h : s.flag Key.clkStatus clkRefOk = true) :
    execClkrefLoss s = .next ((((({ s with refLostRaw := s.raw.toNat }.setFlag Key.clkStatus clkRefOk false).setFlag Key.clkStatus
      clkLock false).setFlag Key.clkStatus clkFreerun true).inc32 Key.clkRefLossCnt 1).record 0x10 [0, 0]) := by
  rw [execClkrefLoss, if_pos h]

theorem execClkrefReturn_of_lost (hf : s.flag Key.clkStatus clkFreerun = true) (hr : s.flag Key.clkStatus clkRefOk = false) :
    execClkrefReturn s =
      .next ((s.setFlag Key.clkStatus clkRefOk true).record 0x10 [1, w64 (usOf (s.raw.toNat - s.refLostRaw))]) := by
  simp [execClkrefReturn, hf, hr]

/-- The state in which the PLL has just locked: the clocks run from CLKREF. -/
def State.pllLocked (s : State) : State :=
  { ((s.setFlag Key.clkStatus clkRefOk true).setFlag Key.clkStatus clkLock true).setFlag Key.clkStatus clkFreerun false with
    clocksStopped := false }

/-- The PLL locks where it has a reference and no thermal trip has stopped the clocks; a part that waits in reset then boots. -/
theorem execPllLock_of_reference (hr : s.flag Key.clkStatus clkFreerun = false ∨ s.flag Key.clkStatus clkRefOk = true)
    (ht : s.thermTrip = false) :
    execPllLock s = .next (if s.pllLocked.pwrgood = true ∧ s.pllLocked.resetN = true ∧ s.pllLocked.phase = phReset ∧
      s.pllLocked.resetJob.isSome = true then s.pllLocked.bootFromRom else s.pllLocked) := by
  have hgo : ((s.flag Key.clkStatus clkFreerun && !(s.flag Key.clkStatus clkRefOk)) || s.thermTrip) = false := by
    rcases hr with h | h <;> simp [h, ht]
  rw [execPllLock, hgo]
  rfl

theorem execClkLossHoldExpiry_of_expired (hf : s.flag Key.clkStatus clkFreerun = true) (hr : s.flag Key.clkStatus clkRefOk = false)
    (hd : s.dev ≠ .hold) (hp : phPost ≤ s.phase) (hlong : s.entN Key.clkLossHold * 12288 < 25 * (s.raw.toNat - s.refLostRaw)) :
    execClkLossHoldExpiry s = .next (s.enterHold hcClkref) := by
  rw [execClkLossHoldExpiry, if_pos ⟨hf, by simp [hr], hd, hp, hlong⟩]

theorem execClkLossHoldExpiry_of_not_expired (h : 25 * (s.raw.toNat - s.refLostRaw) ≤ s.entN Key.clkLossHold * 12288) :
    execClkLossHoldExpiry s = .next s := by
  rw [execClkLossHoldExpiry, if_neg]
  exact fun ⟨_, _, _, _, hlong⟩ => Nat.not_lt.mpr h hlong

theorem execSynceSquelch_of_unlocked {n : Fin 2} (h : s.cdrLocked (s.fld (Key.clkSynceOut n.val) 6 0) = false) :
    execSynceSquelch n s = .next { s with synceLow := tput s.synceLow n.val true } := by
  simp [execSynceSquelch, h]

end Clocks

/-- Settles O5: each clock event does its work where its condition holds, and the loss that is not too long does nothing. -/
theorem clockEvents : Obligations.ClockEvents := by
  intro s n
  exact ⟨execClkrefLoss_of_refOk, execClkrefReturn_of_lost, execPllLock_of_reference, execClkLossHoldExpiry_of_expired,
    execClkLossHoldExpiry_of_not_expired, execSynceSquelch_of_unlocked⟩

/-! Writes of the timebase (R53, R54, R56, R415) -/

/-- A write that nothing refuses takes effect and answers OK. -/
theorem State.guarded_of_ok {st : Status} (h : st = .ok) (s f : State) : s.guarded st f = f.status .ok := if_pos h

/-- A refused write of the nanoseconds empties the hold register of the seconds too (R415). -/
theorem execTbOffsetWrite_of_range {s : State} {rq : Requester} {v : U64} (h : s.checkWrite rq (Key.tbOffset 1) v = .range) :
    execTbOffsetWrite rq v s = .next ({ s with hold := tdel s.hold (slotKey rq (Key.tbOffset 0)) }.status .range) := by
  simp only [execTbOffsetWrite, h]

/-- The nanoseconds complete the write of the offset, with the seconds that their requester's hold register has, if any. -/
theorem execTbOffsetWrite_of_ok {s : State} {rq : Requester} {v : U64} (h : s.checkWrite rq (Key.tbOffset 1) v = .ok) :
    execTbOffsetWrite rq v s = .next ({ s with
      hold := tdel s.hold (slotKey rq (Key.tbOffset 0))
      tbWrites := s.tbWrites ++ [TbWrite.offset (tfind s.hold (slotKey rq (Key.tbOffset 0))) v] }.status .ok) := by
  simp only [execTbOffsetWrite, h, State.register]

/-- Settles O6: an accepted write is registered or held, and the check alone decides. -/
theorem timebaseWrites : Obligations.TimebaseWrites := by
  intro s rq v
  refine ⟨fun h => ?rate, fun h => ?step, fun h => ?seconds, execTbOffsetWrite_of_ok, execTbOffsetWrite_of_range⟩
  case rate => rw [exec_tbIncrementWrite, execTbIncrementWrite, State.guarded_of_ok h, State.register]
  case step => rw [exec_tbStepWrite, execTbStepWrite, State.guarded_of_ok h, State.register]
  case seconds => rw [exec_tbOffsetSecondsWrite, execTbOffsetSecondsWrite, State.guarded_of_ok h]

/-! The computed time (R52, R54) -/

theorem timeMod_pos : 0 < timeMod := by decide

/-- A computed time is what its two slots make: its seconds fit 64 bits, and so do the nanoseconds within a second. -/
theorem t128_sec_ns {t : Nat} (h : t < timeMod) : t128 (t128Sec t) (t128Ns t) = t := by
  have hsec : (t128Sec t).toNat = t / secU := Nat.mod_eq_of_lt (Nat.div_lt_of_lt_mul h)
  have hns : (t128Ns t).toNat = t % secU := Nat.mod_eq_of_lt ((Nat.mod_lt t (by decide)).trans (by decide))
  rw [t128, hsec, hns, Nat.div_add_mod', Nat.mod_eq_of_lt h]

/-- The offset reads back the time set in it, modulo its range. -/
theorem State.offset_setOffset (s : State) (t : Nat) : (s.setOffset t).offset = t % timeMod := by
  have hsec : (s.setOffset t).ent (Key.tbOffset 0) = t128Sec (t % timeMod) :=
    (State.ent_setEnt_ne _ _ (by decide)).trans (State.ent_setEnt_self _ _ _)
  have hns : (s.setOffset t).ent (Key.tbOffset 1) = t128Ns (t % timeMod) := State.ent_setEnt_self _ _ _
  rw [State.offset, hsec, hns, t128_sec_ns (Nat.mod_lt t timeMod_pos)]

theorem State.offset_setEnt (s : State) {k : Nat} (v : U64) (h0 : Key.tbOffset 0 ≠ k) (h1 : Key.tbOffset 1 ≠ k) :
    (s.setEnt k v).offset = s.offset := by
  rw [State.offset, State.offset, State.ent_setEnt_ne s v h0, State.ent_setEnt_ne s v h1]

/-- A change of rate keeps, as the offset, the time in force less the product that the new rate makes of the raw value. -/
theorem State.offset_tbRate (s : State) (v : U64) : (s.tbRate (.rate v)).offset =
    (s.offset + prodT s.raw.toNat s.inc + timeMod - prodT s.raw.toNat v.toNat % timeMod) % timeMod := by
  rw [State.tbRate, State.incWrap, State.setFld, State.offset_setEnt _ _ (by decide) (by decide),
    State.offset_setEnt _ _ (by decide) (by decide), State.offset_setOffset]

theorem State.inc_tbRate (s : State) (v : U64) : (s.tbRate (.rate v)).inc = v.toNat := by
  rw [State.tbRate, State.incWrap, State.inc, State.entN, State.ent_setFld_ne _ _ _ _ (by decide), State.ent_setEnt_self]

/-- What is taken away modulo m comes back when it is added. -/
theorem sub_mod_add_mod (a p : Nat) {m : Nat} (hm : 0 < m) : ((a + m - p % m) % m + p) % m = a % m := by
  have hp : p % m ≤ a + m := (Nat.mod_lt p hm).le.trans (Nat.le_add_left m a)
  calc ((a + m - p % m) % m + p) % m = (a + m - p % m + p % m) % m := by rw [Nat.mod_add_mod, Nat.add_mod_mod]
    _ = a % m := by rw [Nat.sub_add_cancel hp, Nat.add_mod_right]

/-- The offset that a change of rate leaves and the new rate's product make the time that was in force (R54). -/
theorem State.timeOf_tbRate (s : State) (v : U64) : (s.tbRate (.rate v)).timeOf s.raw.toNat = s.timeOf s.raw.toNat := by
  rw [State.timeOf, State.offset_tbRate, State.inc_tbRate, sub_mod_add_mod _ _ timeMod_pos, State.timeOf]

/-- The computed time, its parts written out: both moduli are 2^64 seconds. -/
theorem State.timeOf_eq (s : State) (raw : Nat) : s.timeOf raw =
    (t128 (s.ent (Key.tbOffset 0)) (s.ent (Key.tbOffset 1)) + raw * (s.ent Key.tbIncrement).toNat / 2 ^ (48 - 32)) %
      (2 ^ 64 * (10 ^ 9 * 2 ^ 32)) := by
  have hmod : timeMod = 2 ^ 64 * (10 ^ 9 * 2 ^ 32) := by decide
  rw [State.timeOf, hmod]
  rfl

/-- Settles O7: the offset that a change of rate leaves makes up for what the new rate makes of the ticks so far. -/
theorem computedTime : Obligations.ComputedTime :=
  ⟨State.timeOf_eq, fun s v => ⟨s.timeOf_tbRate v, s.inc_tbRate v⟩⟩

/-! Captures (R73, R74) -/

section Captures
variable {s : State}

/-- A count in a unit's OVF changes no unit's TB_CAPn_CFG, so every unit takes the edges that it took. -/
theorem State.capTakes_incSat (s : State) {m : Nat} (hi lo n k src : Nat) (rising : Bool) (hk : k < 8) (hm : m < 8) :
    (s.incSat (Key.tbCapStat m) hi lo n).capTakes k src rising = s.capTakes k src rising := by
  have hne : Key.tbCapCfg k ≠ Key.tbCapStat m := by simp only [Key.tbCapCfg, Key.tbCapStat]; omega
  rw [State.capTakes, State.incSat, State.ent_setFld_ne _ _ _ _ hne, State.capTakes]

/-- What one capture unit that takes an edge does with it. -/
def State.capture (s : State) (n src : Nat) (eighth : Fin 8) : State :=
  if (tget [] s.capFifo n).length < 4 then { s with capFifo := tput s.capFifo n (tget [] s.capFifo n ++ [s.edgeCap src eighth]) }
  else s.incSat (Key.tbCapStat n) 15 0 1

theorem execCaptureEdge_eq (src : BitVec 7) (rising : Bool) (eighth : Fin 8) (s : State) :
    execCaptureEdge src rising eighth s = .next ((List.range 8).foldl
      (fun s n => if s.capTakes n src.toNat rising then s.capture n src.toNat eighth else s) s) := rfl

theorem State.capTakes_capture (s : State) {m k : Nat} (src : Nat) (rising : Bool) (eighth : Fin 8) (hk : k < 8) (hm : m < 8) :
    (s.capture m src eighth).capTakes k src rising = s.capTakes k src rising := by
  rw [State.capture]
  split
  · rfl
  · exact s.capTakes_incSat 15 0 1 k src rising hk hm

/-- A fold whose every step leaves the state as it is. -/
theorem foldl_range_eq_self {α : Type} {f : α → Nat → α} {a : α} {n : Nat} (h : ∀ k, k < n → f a k = a) :
    (List.range n).foldl f a = a := by
  induction n with
  | zero => rfl
  | succ n ih =>
    rw [List.range_succ, List.foldl_append, ih fun k hk => h k (Nat.lt_succ_of_lt hk)]
    exact h n (Nat.lt_succ_self n)

/-- A fold of which step m alone does something. -/
theorem foldl_range_eq_single {α : Type} {f : α → Nat → α} {a : α} {n m : Nat} (hm : m < n)
    (hbefore : ∀ k, k < n → k ≠ m → f a k = a) (hafter : ∀ k, k < n → k ≠ m → f (f a m) k = f a m) :
    (List.range n).foldl f a = f a m := by
  induction n with
  | zero => exact absurd hm (Nat.not_lt_zero m)
  | succ n ih =>
    rw [List.range_succ, List.foldl_append]
    rcases Nat.lt_succ_iff_lt_or_eq.mp hm with hlt | rfl
    · rw [ih hlt (fun k hk => hbefore k (Nat.lt_succ_of_lt hk)) fun k hk => hafter k (Nat.lt_succ_of_lt hk)]
      exact hafter n (Nat.lt_succ_self n) (Nat.ne_of_gt hlt)
    · rw [foldl_range_eq_self fun k hk => hbefore k (Nat.lt_succ_of_lt hk) (Nat.ne_of_lt hk)]
      rfl

/-- An edge that one unit alone watches is that unit's. -/
theorem execCaptureEdge_of_only {m : Nat} {src : BitVec 7} {rising : Bool} (eighth : Fin 8) (hm : m < 8)
    (honly : ∀ k, k < 8 → s.capTakes k src.toNat rising = decide (k = m)) :
    execCaptureEdge src rising eighth s = .next (s.capture m src.toNat eighth) := by
  have htakes : s.capTakes m src.toNat rising = true := by simpa using honly m hm
  rw [execCaptureEdge_eq, foldl_range_eq_single hm]
  · simp [htakes]
  · intro k hk hne
    simp [honly k hk, hne]
  · intro k hk hne
    simp [htakes, s.capTakes_capture src.toNat rising eighth hk hm, honly k hk, hne]

theorem execCaptureEdge_of_none {src : BitVec 7} {rising : Bool} (eighth : Fin 8)
    (hnone : ∀ k, k < 8 → s.capTakes k src.toNat rising = false) : execCaptureEdge src rising eighth s = .next s := by
  rw [execCaptureEdge_eq, foldl_range_eq_self fun k hk => by simp [hnone k hk]]

theorem State.capture_of_room {m src : Nat} {eighth : Fin 8} (h : (tget [] s.capFifo m).length < 4) :
    s.capture m src eighth = { s with capFifo := tput s.capFifo m (tget [] s.capFifo m ++ [s.edgeCap src eighth]) } := if_pos h

theorem State.capture_of_full {m src : Nat} {eighth : Fin 8} (h : 4 ≤ (tget [] s.capFifo m).length) :
    s.capture m src eighth = s.incSat (Key.tbCapStat m) 15 0 1 := if_neg (Nat.not_lt.mpr h)

theorem execCapturePop_of_cons {rq : Requester} {f : Fin 8} {c : Cap} {q : List Cap}
    (hr : s.checkRead rq (Key.tbCapRaw f.val) = .ok) (hq : tget [] s.capFifo f.val = c :: q) :
    execCapturePop rq f s =
      .next ({ s with capFifo := tput s.capFifo f.val q, capPopped := tput s.capPopped f.val c }.answer (.value c.raw)) := by
  simp only [execCapturePop, hr, hq]

theorem execCapturePop_of_nil {rq : Requester} {f : Fin 8} (hr : s.checkRead rq (Key.tbCapRaw f.val) = .ok)
    (hq : tget [] s.capFifo f.val = []) :
    execCapturePop rq f s = .next ((s.setFlag (Key.tbCapStat f.val) 31 true).answer (.value 0)) := by
  simp only [execCapturePop, hr, hq]

/-- TB_CAPn_TIME is the time of the entry popped last. -/
theorem State.liveValue_tbCapTime (s : State) (slot i n : Nat) (v : U64) : s.liveValue slot .tbCapTime [i, n] v =
    if i = 0 then t128Sec (tget ⟨0, 0⟩ s.capPopped n).time else t128Ns (tget ⟨0, 0⟩ s.capPopped n).time := rfl

/-- An edge of a source other than PPS_IN has the time of its tick (R73). -/
theorem State.edgeCap_time_of_gpio {src : Nat} {eighth : Fin 8} (h : src ≠ 127) : (s.edgeCap src eighth).time = s.now := by
  have hprod : 8 * s.raw.toNat * s.inc / 2 ^ 19 = prodT s.raw.toNat s.inc := by
    rw [prodT, Nat.mul_assoc, show (2 : Nat) ^ 19 = 8 * 2 ^ 16 from rfl, Nat.mul_div_mul_left _ _ (by decide)]
  rw [State.edgeCap, if_neg h, Nat.add_zero, hprod, State.now, State.timeOf]

end Captures

/-- Settles O9: the head of a FIFO is popped once and timed from then on; a FIFO of four takes no more. -/
theorem captureFifos : Obligations.CaptureFifos := by
  intro s rq m f src rising eighth c q only
  refine ⟨fun hr hq => ⟨_, execCapturePop_of_cons hr hq, ?popped⟩, execCapturePop_of_nil, fun ⟨hm, honly⟩ hroom => ?joins,
    fun ⟨hm, honly⟩ hfull => ⟨_, execCaptureEdge_of_only eighth hm honly, ?discarded⟩, execCaptureEdge_of_none eighth, rfl,
    fun hsrc _ => State.edgeCap_time_of_gpio hsrc⟩
  case popped =>
    refine ⟨rfl, tget_tput_self _ _ _ _, fun k hk => tget_tput_ne _ _ _ hk, rfl, fun slot v => ?_⟩
    simp [State.liveValue_tbCapTime]
  case joins => rw [exec_captureEdge, execCaptureEdge_of_only eighth hm honly, State.capture_of_room hroom]
  case discarded =>
    rw [State.capture_of_full hfull]
    exact ⟨rfl, State.fld_incSat_self s _ 15 0 1 (by decide) (by decide)⟩

/-! Trigger units (R61 to R63, R68, R69, R72) -/

section Units
variable {s : State} {rq : Requester} {u : Fin 64} {v : U64}

theorem execTtOwnerWrite_of_change (hok : s.checkWrite rq (Key.ttOwner u.val) v = .ok) (hne : v ≠ s.ent (Key.ttOwner u.val)) :
    execTtOwnerWrite rq u v s = .next (((s.ttDefaultK u).setEnt (Key.ttOwner u.val) v).status .ok) := by
  rw [execTtOwnerWrite, State.guarded_of_ok hok, if_neg hne]

theorem State.ttCfgBy_of_ok (hok : s.checkWrite rq (Key.ttCfg u.val) v = .ok) : s.ttCfgBy rq u v = s.ttCfgWrite u v := by
  rw [State.ttCfgBy, hok]

/-- EN set on a unit that does not run, has an owner and a period: it starts. -/
theorem State.ttCfgWrite_of_start (hv : bit v 0 = true) (hen : s.flag (Key.ttCfg u.val) 0 = false)
    (howner : s.entN (Key.ttOwner u.val) < 8) (hper : s.ttPeriod u.val ≠ 0) :
    s.ttCfgWrite u v = ((s.setEnt (Key.ttCfg u.val) v).status .ok).ttStartUnit u := by
  simp [State.ttCfgWrite, hv, hen, hper, Nat.not_le.mpr howner]

/-- EN clear: the unit stops, whatever it did. -/
theorem State.ttCfgWrite_of_stop (hv : bit v 0 = false) :
    s.ttCfgWrite u v = ((s.setEnt (Key.ttCfg u.val) v).status .ok).ttStop u := by
  simp [State.ttCfgWrite, hv]

theorem State.ttStartUnit_of_periodic (h : s.flag (Key.ttCfg u.val) 1 = false) :
    s.ttStartUnit u = s.setTrg u.val ⟨s.firstCycle (s.ttBase u.val) (s.ttPeriod u.val) (s.raw.toNat + 32), []⟩ := by
  rw [State.ttStartUnit, h]
  rfl

theorem State.ttStartUnit_of_oneshot_ahead (h : s.flag (Key.ttCfg u.val) 1 = true)
    (ht : s.raw.toNat + 32 ≤ s.tickOf (s.ttBase u.val)) : s.ttStartUnit u = s.setTrg u.val ⟨0, []⟩ := by
  rw [State.ttStartUnit, if_pos h]
  exact if_neg (Nat.not_lt.mpr ht)

theorem State.ttStartUnit_of_oneshot_missed (h : s.flag (Key.ttCfg u.val) 1 = true)
    (ht : s.tickOf (s.ttBase u.val) < s.raw.toNat + 32) :
    s.ttStartUnit u = (s.setFlag (Key.ttStat u.val) 0 true).setFlag (Key.ttCfg u.val) 0 false := by
  rw [State.ttStartUnit, if_pos h]
  exact if_pos ht

theorem execTtTimingWrite_of_ok {which : Fin 3} (hok : s.checkWrite rq (ttTimingKey u which) v = .ok) :
    execTtTimingWrite rq u which v s = .next (s.ttTiming u which v) := by
  rw [execTtTimingWrite, hok]

theorem State.ttTiming_of_enabled {which : Fin 3} (hen : s.flag (Key.ttCfg u.val) 0 = true) :
    s.ttTiming u which v = s.status .busy := if_pos hen

/-- A write of START checks no row. -/
theorem State.ttTiming_of_start {which : Fin 3} (hen : s.flag (Key.ttCfg u.val) 0 = false) (hw : which ≠ 2) :
    s.ttTiming u which v = (s.setEnt (ttTimingKey u which) v).status .ok := by
  simp [State.ttTiming, hen, hw]

/-- A period that every row of both copies allows is written. -/
theorem State.ttTiming_of_rowsOk (hen : s.flag (Key.ttCfg u.val) 0 = false)
    (hrows : ∀ c r, c < 2 → r < 16 → s.trigRowOk u.val v.toNat (s.rowOf (.trig u) c r) = true) :
    s.ttTiming u 2 v = (s.setEnt (Key.ttPeriod u.val) v).status .ok := by
  have hall : (List.range 2).all (fun c => (List.range 16).all fun r => s.trigRowOk u v.toNat (s.rowOf (.trig u) c r)) = true := by
    simp only [List.all_eq_true, List.mem_range]
    exact fun c hc r hr => hrows c r hc hr
  rw [State.ttTiming, hen, hall]
  simp [ttTimingKey]

/-- A row that is due fires; a ONESHOT unit may end with it. -/
theorem execTriggerFire_of_due {row : Fin 16} {t : Nat} (hdue : (s.ttReady u row.val).ttDue u row.val = some t)
    (ht : t ≤ (s.ttReady u row.val).now) :
    execTriggerFire u row s =
      .next (((s.ttReady u row.val).ttFire u row.val ((s.ttReady u row.val).ttCycle u row.val) t).oneshotEnd u) := by
  simp only [execTriggerFire, hdue, if_pos ht]

end Units

/-- Settles O10: EN decides between start, stop and BUSY, MODE and the tick of START between the ways to start. -/
theorem triggerUnits : Obligations.TriggerUnits := by
  intro s rq u row v w b starts
  have hset : bit w 0 = true := bit_setBit_self v 0 true (by decide)
  have hclear : bit (setBit v 0 false) 0 = false := bit_setBit_self v 0 false (by decide)
  refine ⟨execTtOwnerWrite_of_change, fun ⟨hok, hen, howner, hper⟩ => ?enabled, State.ttStartUnit_of_periodic,
    State.ttStartUnit_of_oneshot_ahead, State.ttStartUnit_of_oneshot_missed, fun hok => ?disabled, fun hok hen => ?seconds,
    fun hok hen => ?nanoseconds, fun hok hen hrows => ?period, fun k hok hen => ?busy, fun t => execTriggerFire_of_due, rfl⟩
  case enabled => rw [exec_ttEnable, execTtEnable, State.ttCfgBy_of_ok hok, State.ttCfgWrite_of_start hset hen howner hper]
  case disabled =>
    rw [exec_ttDisable, execTtDisable, State.ttCfgBy_of_ok hok, State.ttCfgWrite_of_stop hclear]
    rfl
  case seconds =>
    rw [exec_ttTimingWrite, execTtTimingWrite_of_ok hok, State.ttTiming_of_start hen (by decide)]
    rfl
  case nanoseconds =>
    rw [exec_ttTimingWrite, execTtTimingWrite_of_ok hok, State.ttTiming_of_start hen (by decide)]
    rfl
  case period => rw [exec_ttTimingWrite, execTtTimingWrite_of_ok hok, State.ttTiming_of_rowsOk hen hrows]
  case busy => rw [exec_ttTimingWrite, execTtTimingWrite_of_ok hok, State.ttTiming_of_enabled hen]

/-! The state after reset (R51) -/

/-- No row of the table has bits, so fetching a word of it leaves the queue as it is. -/
theorem State.withFetchWord_eq_self (s : State) (nbits w : Nat) : s.withFetchWord nbits w = s := rfl

/-- Settles O59: empty memory is canonical, and the table spells no command. -/
theorem resetInvariant : Obligations.ResetInvariant :=
  ⟨Memory.wf_nil, rfl, rfl, rfl, fun s nbits w => ⟨rfl, s.withFetchWord_eq_self nbits w⟩⟩

end Sys2Proof.Machine
end

section
/-!
PROOFS. Tasks on a tile (R96, R100, R103, R143, R153 to R156): FETCH, POST.D, POST.T and DONE of a ready tile, the result that moves
into its register and the stalled POST that goes on, and with them the statement O26.
-/
namespace Sys2Proof.Machine

section Tasks
variable {s : State} {t : Fin 512} {rd ra rb r : Reg}

/-- FETCH on a ready tile outside its handler: the current task is done and the tile blocks. -/
theorem execFetch_of_ready (h : s.tileReady t [rd]) (hinh : (s.tl t).inh = false) :
    execFetch t rd 0 0 s = .next ((s.tileDone t).setTl t { (s.tileDone t).tl t with
      st := .fetchWait, fetchRd := rd, blockedAt := (s.tileDone t).raw.toNat, resumed := false }) := by
  rw [execFetch, stepTile_ready h (by simp [hinh])]

theorem execDone_of_ready (h : s.tileReady t []) : execDone t 0 0 0 s = .next (retire (s.tileDone t) t ((s.tileDone t).tl t)) := by
  rw [execDone, stepTile_ready h (by decide)]

/-! POST.D -/

theorem tileDev_of_lm {t a n : Nat} (hlo : 0x100000 ≤ a) (hhi : a + n ≤ 0x140000) :
    tileDev t a n = some (lmAddr t (a - 0x100000)) := if_pos ⟨hlo, hhi⟩

/-- An access within LM that no watch matches may be performed. -/
theorem Tile.check_of_lm {x : Tile} {t i a n : Nat} {store ctl : Bool} (hlo : 0x100000 ≤ a) (hhi : a + n ≤ 0x140000)
    (hw : x.firstWatched store a n = none) : x.check t store ctl i a n = none := by
  simp [Tile.check, tileDev_of_lm hlo hhi, hw]

/-- POST.D of a descriptor within LM posts its 64 bytes, the marking noted first. -/
theorem execPostD_of_ready (h : s.tileReady t [rd, ra]) (hal : ((s.tl t).rs ra).toNat % 64 = 0)
    (hlo : 0x100000 ≤ ((s.tl t).rs ra).toNat) (hhi : ((s.tl t).rs ra).toNat + 64 ≤ 0x140000)
    (hw : (s.tl t).firstWatched false ((s.tl t).rs ra).toNat 64 = none) :
    let a := ((s.tl t).rs ra).toNat
    let d := lmAddr t (a - 0x100000)
    let u := (s.tileRead t d 64).1
    execPostD t rd ra 0 s = .next (u.post t ((s.tl t).notePoison (u.poisonAt a d 64))
      (.desc (descOf (bytesWords 8 (s.tileRead t d 64).2.1)) (.tileReg t rd) (u.partOfProd (.tile t)))) := by
  have hok : ¬ (((s.tl t).rs ra).toNat % 64 ≠ 0 ∨ ((s.tl t).rs ra).toNat < 0x100000 ∨ 0x140000 < ((s.tl t).rs ra).toNat + 64) := by
    omega
  simp only [execPostD]
  rw [stepTile_ready h (by decide), if_neg hok, Tile.check_of_lm hlo hhi hw]

theorem execPostT_of_ready (h : s.tileReady t [ra, rb]) : execPostT t 0 ra rb s =
    .next (s.post t (s.tl t) (.token ⟨if (s.tl t).poison then setBit (setf (setf ((s.tl t).rs ra) 25 12 0) 11 0 t.val) 26 true
      else setf (setf ((s.tl t).rs ra) 25 12 0) 11 0 t.val, (s.tl t).rs rb⟩ (s.partOfProd (.tile t)) .none)) := by
  rw [execPostT, stepTile_ready h (by decide)]

/-! Where a POST waits (R100, R103, R155) -/

theorem State.post_of_waits {x : Tile} {i : Item} (h : s.postWaits t = true) :
    s.post t x i = s.setTl t { x with st := .postStall, stalledPost := some i, resumed := false } := if_pos h

theorem State.post_of_free {x : Tile} {i : Item} (h : s.postWaits t = false) : s.post t x i = (s.setTl t x).postSend t i :=
  if_neg (by simp [h])

theorem execPostStallRelease_of_free {i : Item} (hst : (s.tl t).st = .postStall) (hi : (s.tl t).stalledPost = some i)
    (hw : s.postWaits t = false) : execPostStallRelease t s = .next (s.postSend t i) := by
  simp only [execPostStallRelease, hi, hst, hw]
  rfl

/-- A tile without a task holds no token back. -/
theorem State.postItem_of_no_task {i : Item} (h : (s.tl t).task = none) : s.postItem t i = s.sendItem (.tile t) i := by
  cases i <;> simp [State.postItem, h]

theorem State.postSend_token_of_no_task {k : Token} {part : Nat} {ret : RetTo} (h : (s.tl t).task = none) :
    s.postSend t (.token k part ret) = retire (s.sendItem (.tile t) (.token k part ret)) t
      { (s.sendItem (.tile t) (.token k part ret)).tl t with st := .running, stalledPost := none } := by
  simp only [State.postSend, State.postItem_of_no_task h]

/-! Results of POST.D (R154) -/

/-- A list splits where its first element fails p, whatever follows. -/
theorem span_append_cons {α : Type} {p : α → Bool} {l q : List α} {a : α} (hl : ∀ e ∈ l, p e = true) (ha : p a = false) :
    (l ++ a :: q).span p = (l, a :: q) := by
  rw [List.span_eq_takeWhile_dropWhile, List.takeWhile_append_of_pos hl, List.dropWhile_append_of_pos hl]
  simp [ha]

/-- The oldest result that is there goes to its register; those before it go on waiting. -/
theorem execPostDResult_of_arrived {v : U64} {p q : List (Reg × Option U64)} (hq : (s.tl t).pendingD = p ++ (r, some v) :: q)
    (hp : ∀ e ∈ p, e.2 = none) : execPostDResult t s = .next (s.setTl t { (s.tl t).wr r v with pendingD := p ++ q }) := by
  have hspan : (s.tl t).pendingD.span (fun e => e.2.isNone) = (p, (r, some v) :: q) := by
    rw [hq, span_append_cons (fun e he => by simp [hp e he]) rfl]
  simp only [execPostDResult, hspan]

end Tasks

/-- Settles O26: the tile is ready, so each instruction acts as its meaning says; whether a POST is sent or stalls is `postWaits`. -/
theorem tileTasks : Obligations.TileTasks := by
  intro s t rd ra rb r v p q i x a d u y ds w tok
  refine ⟨execFetch_of_ready, fun h hal hlo hhi hw => ⟨fun hfree => ?postD, fun hwaits => ?postDStall⟩, execPostDResult_of_arrived,
    fun h hfree => ?postT, fun h hwaits => ?postTStall, execPostStallRelease_of_free, fun htask => ?noTask, execDone_of_ready⟩
  case postD => rw [exec_postD, execPostD_of_ready h hal hlo hhi hw, State.post_of_free hfree]
  case postDStall => rw [exec_postD, execPostD_of_ready h hal hlo hhi hw, State.post_of_waits hwaits]
  case postT => rw [exec_postT, execPostT_of_ready h, State.post_of_free hfree]
  case postTStall => rw [exec_postT, execPostT_of_ready h, State.post_of_waits hwaits]
  case noTask => exact State.postSend_token_of_no_task (by rw [State.tl_setTl_self]; exact htask)

end Sys2Proof.Machine
end

section
/-!
PROOFS. Kennel's intake (R80 to R88, R103, R104, R119, R120, R397, R582, R583): what it does with the front item of a producer, with a
descriptor that waited for room and with a token that reaches the matching stores, and with them the statement O28.
-/
namespace Sys2Proof.Machine

section Intake
variable {s s' : State} {src : Producer} {d : Desc} {ret : RetTo} {part : Nat} {t : Token}

/-- A producer that holds a credit has its front item taken. -/
theorem State.frontOf_of_credit {i : Item} {q : List Item} (hq : s.queueOf src = i :: q) (hc : s.deferredOf src < prodCredits src) :
    s.frontOf src = some (i, s.setQueue src q) := by
  simp [State.frontOf, hq, hc]

/-! Descriptors (R582, R104, R119, R120) -/

theorem execDescriptorSubmit_of_front (b : Bool) (h : s.frontOf src = some (.desc d ret part, s')) :
    execDescriptorSubmit src b s = .next (s'.submitDesc src d ret part b) := by
  simp only [execDescriptorSubmit, h]

theorem State.submitDesc_of_link {g : Nat} (ht : 1024 ≤ d.target) (hg : s.linkTo (d.target / 1024) = some g) :
    s.submitDesc src d ret part false = s.forward g d ret part := by
  simp [State.submitDesc, ht, hg]

theorem State.submitDesc_of_no_link (ht : 1024 ≤ d.target) (hg : s.linkTo (d.target / 1024) = none) :
    s.submitDesc src d ret part false = s.refuseDesc (s.homeOf src) d part ksUnitDown ret := by
  simp [State.submitDesc, ht, hg]

theorem State.submitDesc_of_refused {st : Nat} (ht : d.target < 1024)
    (hr : s.refusal (s.execPack (s.homeOf src) d.target) d part true false = some st) :
    s.submitDesc src d ret part false = s.refuseDesc (s.execPack (s.homeOf src) d.target) d part st ret := by
  simp [State.submitDesc, Nat.not_le.mpr ht, hr]

/-- A local descriptor that passes the tests takes an entry, or waits for room. -/
theorem State.submitDesc_of_passed (ht : d.target < 1024)
    (hr : s.refusal (s.execPack (s.homeOf src) d.target) d part true false = none) :
    s.submitDesc src d ret part false =
      let p := s.execPack (s.homeOf src) d.target
      let u := s.wakePack p
      if u.mayAllocate p d.cls then u.acceptDesc p d ret part
      else u.setKn p { u.kn p with waiting := (u.kn p).waiting ++ [⟨src, d, ret, part⟩] } := by
  simp [State.submitDesc, Nat.not_le.mpr ht, hr]

/-- The first waiting descriptor that may allocate is tested anew (R104). -/
theorem execDeferredDescriptorAllocate_of_first {p : Fin 8} {w : Deferred} {l r : List Deferred}
    (hq : (s.kn p.val).waiting = l ++ w :: r) (hl : ∀ y ∈ l, s.mayAllocate p.val y.desc.cls = false)
    (hw : s.mayAllocate p.val w.desc.cls = true) :
    execDeferredDescriptorAllocate p s =
      let k := s.setKn p.val { s.kn p.val with waiting := l ++ r }
      .next (match k.refusal p.val w.desc w.part true false with
        | some st => k.refuseDesc p.val w.desc w.part st w.ret
        | none => k.acceptDesc p.val w.desc w.ret w.part) := by
  have hspan : (s.kn p.val).waiting.span (fun y => !(s.mayAllocate p.val y.desc.cls)) = (l, w :: r) := by
    rw [hq, span_append_cons (fun y hy => by simp [hl y hy]) (by simp [hw])]
  simp only [execDeferredDescriptorAllocate, hspan] <;> rfl

/-! Tokens (R84 to R87, R397) -/

/-- What TOKEN_ACCEPT does with a token once its port entry is told. -/
def State.acceptToken (s : State) (home : Nat) (t : Token) (part : Nat) (path : TokenPath) : State :=
  match path with
  | .clean => s.deliverToken home t part
  | .badWord0 => (s.knCount (Key.knInvalid home)).notePath 12 (accUnit home 20) 0
  | .badValue => (s.deliverToken home ⟨setBit t.w0 26 true, t.value⟩ part).notePath 12 (accUnit home 20) 0

theorem execTokenAccept_of_token (path : TokenPath) (h : s.frontOf src = some (.token t part .none, s')) :
    execTokenAccept src path s = .next (s'.acceptToken (s'.homeOf src) t part path) := by
  simp only [execTokenAccept, h]
  rfl

/-- A token that a core pushed clears its entry of the port page as well. -/
theorem execTokenAccept_of_pushed {c e : Nat} (path : TokenPath) (h : s.frontOf src = some (.token t part (.portEntry c e), s')) :
    execTokenAccept src path s =
      .next ((s'.store (portBase c + 0x1800 + 8 * e) (leBytes 8 (2 ^ 63))).acceptToken (s'.homeOf src) t part path) := by
  simp only [execTokenAccept, h]
  rfl

theorem execTokenAccept_of_back (path : TokenPath) (h : s.frontOf src = some (.back t part, s')) :
    execTokenAccept src path s = .next (s'.deliverToken (s'.homeOf src) t part) := by
  simp only [execTokenAccept, h]

/-- Whether a token names an entry of this member: a plan address, or a handle of one of its packs. -/
def Token.isLocal (t : Token) : Prop := bit t.w0 31 = true ∨ bf t.w0 63 32 < 2 ^ 30

/-- A token that names a local entry of its sender's partition meets the entry's slots, once the pack is awake. -/
theorem State.deliverToken_of_entry {g pk i : Nat} (hloc : t.isLocal) (he : s.tokenEntry t.w0 = some (pk, i))
    (hf : (s.wakePack pk).foreign part ((s.wakePack pk).entry pk i).desc.target = false) :
    s.deliverToken g t part =
      let u := s.wakePack pk
      let x := u.entry pk i
      let slot := bf t.w0 30 28
      if x.desc.nops ≤ slot then u.knCount (Key.knInvalid pk)
      else if (tfind x.slots slot).isSome then u.knCount (Key.knDup pk)
      else (u.setEntry pk i { x with slots := tput x.slots slot t }).readyIf pk i := by
  have hnot : ¬ ((!(bit t.w0 31)) = true ∧ 2 ^ 30 ≤ bf t.w0 63 32) := by
    rintro ⟨hb, hh⟩
    rcases hloc with h | h
    · simp [h] at hb
    · omega
  simp only [State.deliverToken, if_neg hnot, he, hf, Bool.false_eq_true, if_false]

/-- A handle that names no entry is stale, counted by its pack. -/
theorem State.deliverToken_of_stale {g : Nat} (hb : bit t.w0 31 = false) (hh : bf t.w0 63 32 < 2 ^ 30)
    (he : s.tokenEntry t.w0 = none) : s.deliverToken g t part = s.knCount (Key.knStale (bf t.w0 63 32 / 2 ^ 27)) := by
  have hpack : bf t.w0 63 32 / 2 ^ 27 % 8 = bf t.w0 63 32 / 2 ^ 27 := by omega
  simp only [State.deliverToken, hb, he, hpack, Nat.not_le.mpr hh, and_false, if_false, Bool.false_eq_true]

@[simp] theorem State.kn_setKn_self (s : State) (p : Nat) (k : Kennel) : (s.setKn p k).kn p = k := tget_tput_self _ _ _ _

/-- A waiting entry with every slot filled becomes READY (R88). -/
theorem State.entry_readyIf_of_filled {p i : Nat} (hst : (s.entry p i).st = .waiting)
    (hall : ∀ j, j < (s.entry p i).desc.nops → (tfind (s.entry p i).slots j).isSome = true) :
    ((s.readyIf p i).entry p i).st = .ready := by
  have hready : ((s.kn p).e i).st = .waiting ∧
      (List.range ((s.kn p).e i).desc.nops).all (fun j => (tfind ((s.kn p).e i).slots j).isSome) = true :=
    ⟨hst, List.all_eq_true.mpr fun j hj => hall j (List.mem_range.mp hj)⟩
  simp only [State.readyIf]
  rw [if_pos hready]
  simp [State.entry, Kennel.e]

end Intake

/-- Settles O28: an item at the front is taken in, a descriptor goes by R582 and by room, a token by the entry and the slot it names. -/
theorem kennelDescriptorsTokens : Obligations.KennelDescriptorsTokens := by
  intro s s' src d ret part it q p w l r t i st g c e pk home told k bad
  refine ⟨State.frontOf_of_credit, fun hfr ht hpk => ?passedOn, fun hfr ht => ⟨fun hg => ?forwarded, fun hg => ?noLink⟩,
    fun hfr => ?badPath, fun hq hl hw => ⟨fun hr => ?allocated, fun hr => ?refusedLater⟩, execTokenAccept_of_token .clean,
    execTokenAccept_of_pushed .clean, execTokenAccept_of_back .clean, execTokenAccept_of_token .badWord0,
    execTokenAccept_of_token .badValue, fun hloc he => ?slot, State.deliverToken_of_stale,
    State.entry_readyIf_of_filled⟩
  case passedOn =>
    subst hpk
    refine ⟨fun hr hroom => ?_, fun hr hroom => ?_, fun hr => ?_⟩
    · rw [exec_descriptorSubmit, execDescriptorSubmit_of_front _ hfr, State.submitDesc_of_passed ht hr]
      exact congrArg _ (if_pos hroom)
    · rw [exec_descriptorSubmit, execDescriptorSubmit_of_front _ hfr, State.submitDesc_of_passed ht hr]
      exact congrArg _ (if_neg (Bool.eq_false_iff.mp hroom))
    · rw [exec_descriptorSubmit, execDescriptorSubmit_of_front _ hfr, State.submitDesc_of_refused ht hr]
  case forwarded => rw [exec_descriptorSubmit, execDescriptorSubmit_of_front _ hfr, State.submitDesc_of_link ht hg]
  case noLink =>
    rw [exec_descriptorSubmit, execDescriptorSubmit_of_front _ hfr, State.submitDesc_of_no_link ht hg]
    rfl
  case badPath => rw [exec_descriptorSubmit, execDescriptorSubmit_of_front _ hfr]; rfl
  case allocated => rw [exec_deferredDescriptorAllocate, execDeferredDescriptorAllocate_of_first hq hl hw]; simp only [hr, k]
  case refusedLater => rw [exec_deferredDescriptorAllocate, execDeferredDescriptorAllocate_of_first hq hl hw]; simp only [hr, k]
  case slot =>
    intro u x slot hf
    rw [State.deliverToken_of_entry hloc he hf]
    refine ⟨fun hlt hfree => ?_, fun hlt hfull => ?_, fun hle => if_pos hle⟩
    · exact (if_neg (Nat.not_le.mpr hlt)).trans (if_neg (Option.not_isSome_iff_eq_none.mpr hfree))
    · exact (if_neg (Nat.not_le.mpr hlt)).trans (if_pos hfull)

end Sys2Proof.Machine
end

section
/-!
PROOFS. The Gelpel link (R119, R120, R181, R183, R543 to R547, R549 to R553): a port's configuration and HELLO, its flits, the messages
that arrive, their answers, LINK_DOWN and relays, and with them the statement O56.
-/
namespace Sys2Proof.Machine

section Link
variable {s : State} {rq : Requester} {g : Fin 4} {v : U64}

/-! Configuration and HELLO (R543, R549, R550) -/

theorem execGplEnable_of_ok (h : s.checkWrite rq (Key.gplGCfg g.val) v = .ok) :
    execGplEnable rq g v s = .next ((s.gplGCfgWrite g.val v).status .ok) := by
  rw [execGplEnable, State.guarded_of_ok h]

/-- Both rows of the table are writes of the one configuration. -/
theorem execGplLanesWrite_eq : execGplLanesWrite rq g v s = execGplEnable rq g v s := rfl

theorem State.gplGCfgWrite_of_disabled {p : Nat} (hv : bit v 63 = false) :
    s.gplGCfgWrite p v = (s.setEnt (Key.gplGCfg p) v).gplDown p := by
  simp [State.gplGCfgWrite, hv]

/-- A write that names lanes moves a port in TRAIN to HELLO. -/
theorem State.gplGCfgWrite_of_lanes {p : Nat} (hv : bit v 63 = true) (hn : s.gplState p = gpTrain ∧ bf v 15 0 ≠ 0) :
    s.gplGCfgWrite p v = ((s.setEnt (Key.gplGCfg p) v).setGplState p gpHello).gplHeard p := by
  simp [State.gplGCfgWrite, hv, hn]

theorem State.gplGCfgWrite_of_no_lanes {p : Nat} (hv : bit v 63 = true) (hn : ¬ (s.gplState p = gpTrain ∧ bf v 15 0 ≠ 0)) :
    s.gplGCfgWrite p v = (s.setEnt (Key.gplGCfg p) v).gplTrain p := by
  simp only [State.gplGCfgWrite, hv, if_neg hn, Bool.not_true, Bool.false_eq_true, if_false]

theorem execGplHelloSend_of_due (h : s.gplState g.val = gpHello ∧
    (s.gpl g.val).helloRaw.elim true (fun r => decide (r + usTicks 1 ≤ s.raw.toNat)) = true) :
    execGplHelloSend g s = .next (s.setGpl g.val { s.gpl g.val with helloRaw := some s.raw.toNat }) := by
  rw [execGplHelloSend, if_pos h]

theorem execGplHelloSend_of_not_due (h : ¬ (s.gplState g.val = gpHello ∧
    (s.gpl g.val).helloRaw.elim true (fun r => decide (r + usTicks 1 ≤ s.raw.toNat)) = true)) :
    execGplHelloSend g s = .next s := by
  rw [execGplHelloSend, if_neg h]

/-- A port in HELLO has left TRAIN, so it hears. -/
theorem State.gplHears_of_hello {p : Nat} (h : s.gplState p = gpHello) : s.gplHears p = true := by
  simp [State.gplHears, h]

section Hello
variable {h : GplHello}

theorem execGplHello_of_deaf (hd : ¬ s.gplHears g.val = true) : execGplHello g h s = .next s := by
  simp [execGplHello, hd]

theorem execGplHello_of_badCrc (hh : s.gplHears g.val = true) (hc : h.crcOk = false) :
    execGplHello g h s = .next (s.gplCount g.val 63 48 1) := by
  simp [execGplHello, hh, hc]

theorem execGplHello_of_trained (hh : s.gplHears g.val = true) (hc : h.crcOk = true) (hst : s.gplState g.val ≠ gpHello) :
    execGplHello g h s = .next (s.gplHeard g.val) := by
  simp [execGplHello, hh, hc, hst]

/-- In HELLO a good flit tells of the peer, and decides between CONFLICT, the end of HELLO and another HELLO. -/
theorem execGplHello_of_hello (hst : s.gplState g.val = gpHello) (hc : h.crcOk = true) :
    execGplHello g h s =
      let u := (s.gplHeard g.val).gplPeerTold g.val h
      .next (if u.helloConflicts g.val h then u.setGplState g.val gpConflict
        else if h.acksOurs ∧ (u.gpl g.val).helloRaw.isSome then
          (u.setGplState g.val (if u.gplSpreadOk g.val then gpUp else gpDialect)).dialectsSince s
        else u) := by
  simp [execGplHello, State.gplHears_of_hello hst, hc, hst]

end Hello

/-! Flits (R544, R546) -/

section Flits
variable {f : GplFlit} {seq : Byte}

theorem execGplDataFlit_of_idle (hc : ¬ s.gplCarries g.val = true) : execGplDataFlit g f s = .next s := by
  simp [execGplDataFlit, hc]

theorem execGplDataFlit_of_expected (hc : s.gplCarries g.val = true) (hf : f.crcOk = true)
    (hs : f.seq = ((s.gplHeard g.val).gpl g.val).expect) : execGplDataFlit g f s =
      .next ((s.gplHeard g.val).pumpGpl g.val (((s.gplHeard g.val).gpl g.val).takeFlit f)) := by
  simp [execGplDataFlit, hc, hf, hs]

theorem execGplDataFlit_of_unexpected (hc : s.gplCarries g.val = true) (hf : f.crcOk = true)
    (hs : f.seq ≠ ((s.gplHeard g.val).gpl g.val).expect) : execGplDataFlit g f s =
      .next ((s.gplHeard g.val).setGpl g.val { (s.gplHeard g.val).gpl g.val with nakSent := true }) := by
  simp [execGplDataFlit, hc, hf, hs]

theorem execGplDataFlit_of_badCrc (hc : s.gplCarries g.val = true) (hf : f.crcOk = false) : execGplDataFlit g f s =
    .next ((s.gplCount g.val 63 48 1).setGpl g.val { (s.gplCount g.val 63 48 1).gpl g.val with nakSent := true }) := by
  simp [execGplDataFlit, hc, hf]

theorem execGplNak_of_idle (hc : ¬ s.gplCarries g.val = true) : execGplNak g seq s = .next s := by
  simp [execGplNak, hc]

/-- A NAK acknowledges what lies before the SEQ it names; what is left is sent again. -/
theorem execGplNak_of_carries (hc : s.gplCarries g.val = true) : execGplNak g seq s =
    let kept := ackFlits (seq - 1) (s.gpl g.val).unacked
    let u := s.pumpGpl g.val { (s.gpl g.val).nakked s.raw.toNat with unacked := kept }
    .next (if kept = [] then u else u.gplReplay g.val) := by
  simp only [execGplNak, hc, Bool.not_true, Bool.false_eq_true, if_false, List.isEmpty_iff]
  rfl

theorem execGplReplayTimeout_eq : execGplReplayTimeout g s = .next
    (if s.gplCarries g.val = true ∧ (s.gpl g.val).unacked ≠ [] ∧ (s.gpl g.val).ackRaw + usTicks 2 ≤ s.raw.toNat then
      (s.setGpl g.val { s.gpl g.val with ackRaw := s.raw.toNat }).gplReplay g.val else s) := by
  simp [execGplReplayTimeout]

end Flits

/-! Messages that arrive (R119, R120, R181, R183, R551) -/

section Messages
variable {part : BitVec 4} {ws : List U64} {w0 : U64} {vc un : Bool} {a : Addr} {n : Nat} {up : List Addr} {bs : List (Byte × Bool)}
  {q : Fin 8}

theorem execGplTask_of_up (h : s.gplState g.val = gpUp) : execGplTask g part ws s = .next (s.gplTaskIn g part.toNat (descOf ws)) := by
  rw [execGplTask, if_pos h]

theorem execGplToken_of_up (h : s.gplState g.val = gpUp) :
    execGplToken g part w0 v s = .next (s.gplTokenIn g part.toNat ⟨w0, v⟩) := by
  rw [execGplToken, if_pos h]

theorem State.gplTaskIn_of_admitted {far : Nat} {d : Desc} (h : s.gplAdmits g.val far d.target = some n) :
    s.gplTaskIn g far d = s.sendItem (.gelpel g) (.desc d (.remote g.val) n) := by
  simp only [State.gplTaskIn, h]

/-- A token that names no entry goes to Kennel, which counts it as stale, unless its handle is of a third member. -/
theorem State.gplTokenIn_of_no_entry {far : Nat} {t : Token} (h : s.tokenEntry t.w0 = none) : s.gplTokenIn g far t =
    if bit t.w0 31 = false ∧ 2 ^ 30 ≤ bf t.w0 63 32 then (s.gplRefused g.val).knCount (Key.knDown 0)
    else s.sendItem (.gelpel g) (.token t 8 .none) := by
  simp [State.gplTokenIn, h]

/-- An access in the name of no partition of the far member is refused. -/
theorem execGplRdReq_of_no_part (h : s.gplState g.val = gpUp) (hp : 8 ≤ part.toNat) : execGplRdReq g part vc a n un up s =
    .next ((s.gplRefused g.val).sendMsg g.val vc (messageOf 5 0 (rspWord false false) [])) := by
  simp [execGplRdReq, h, Nat.not_lt.mpr hp]

theorem execGplRdReq_of_part (h : s.gplState g.val = gpUp) (hp : part.toNat = q.val) :
    execGplRdReq g part vc a n un up s = .next (s.gplReadIn g q vc a.toNat n un up) := by
  simp [execGplRdReq, h, hp]

theorem execGplWrReq_of_no_part (h : s.gplState g.val = gpUp) (hp : 8 ≤ part.toNat) : execGplWrReq g part vc a bs s =
    .next ((s.gplRefused g.val).sendMsg g.val vc (messageOf 7 0 (rspWord false false) [])) := by
  simp [execGplWrReq, h, Nat.not_lt.mpr hp]

theorem execGplWrReq_of_part (h : s.gplState g.val = gpUp) (hp : part.toNat = q.val) :
    execGplWrReq g part vc a bs s = .next (s.gplWriteIn g q vc a.toNat bs) := by
  simp [execGplWrReq, h, hp]

theorem State.gplReadIn_of_refused {b : Nat} (h : s.accessOk (.gelpel g q) b n false = false) : s.gplReadIn g q vc b n un up =
    ((s.accessFault (.gelpel g q) b).gplRefused g.val).sendMsg g.val vc (messageOf 5 0 (rspWord false false) []) := by
  simp [State.gplReadIn, h]

theorem State.gplWriteIn_of_hbm {b : Nat} (h : s.accessOk (.gelpel g q) b bs.length true = true) (hr : regionOf b = .hbm) :
    s.gplWriteIn g q vc b bs =
      (s.writeMarks (.gelpel g q) b bs).sendMsg g.val vc (messageOf 7 0 (rspWord true false) []) := by
  simp [State.gplWriteIn, h, hr]

end Messages

/-! Answers to who waits (R545, R548, R553) -/

/-- What each kind of answer is waited for by. -/
def Outstanding.isResult : Outstanding → Bool
  | .result _ => true
  | _ => false
def Outstanding.isRead : Outstanding → Bool
  | .read _ _ => true
  | _ => false
def Outstanding.isWrite : Outstanding → Bool
  | .write _ _ => true
  | _ => false
def Outstanding.isRelay : Outstanding → Bool
  | .relay _ => true
  | _ => false

section Answers
variable {t : State} {r : BusAnswer} {bs : List (Byte × Bool)}

theorem execGplResult_of_waiting {rt : RetTo} (h : s.gplState g.val = gpUp)
    (hp : s.popGpl g.val Outstanding.isResult = some (.result rt, t)) :
    execGplResult g v s = .next (t.giveResult rt v) := by
  rw [execGplResult, if_neg (not_not.mpr h)]
  exact congrArg Host.Outcome.next (congrArg (fun o => match o with | some (.result ret, u) => u.giveResult ret v | _ => s) hp)

theorem execGplRdData_of_waiting {who : Accessor} {b : Nat} (h : s.gplState g.val = gpUp)
    (hp : s.popGpl g.val Outstanding.isRead = some (.read who b, t)) :
    execGplRdData g r bs s = .next (t.gplReadDone g.val who b r bs) := by
  rw [execGplRdData, if_neg (not_not.mpr h)]
  exact congrArg Host.Outcome.next (congrArg (fun o => match o with | some (.read who a, u) => u.gplReadDone g.val who a r bs | _ => s) hp)

theorem execGplWrRsp_of_waiting {who : Accessor} {b : Nat} (h : s.gplState g.val = gpUp)
    (hp : s.popGpl g.val Outstanding.isWrite = some (.write who b, t)) :
    execGplWrRsp g r s = .next (t.gplWriteDone who b r) := by
  rw [execGplWrRsp, if_neg (not_not.mpr h)]
  exact congrArg Host.Outcome.next (congrArg (fun o => match o with | some (.write who a, u) => u.gplWriteDone who a r | _ => s) hp)

theorem State.relayAnswer_of_waiting {slot p : Nat} {c : BitVec 16}
    (hp : s.popGpl p Outstanding.isRelay = some (.relay slot, t)) :
    s.relayAnswer p c v = t.relayDone slot c.toNat v := by
  rw [State.relayAnswer]
  exact congrArg (fun o => match o with | some (.relay slot, u) => u.relayDone slot c.toNat v | _ => s) hp

end Answers

/-! The far member's dialects, and a port that goes DOWN (R550, R552) -/

theorem execGplLinkstat_of_idle {lo hi : BitVec 16} (hc : ¬ s.gplCarries g.val = true) : execGplLinkstat g lo hi s = .next s := by
  simp [execGplLinkstat, hc]

theorem execGplLinkstat_of_carries {lo hi : BitVec 16} (hc : s.gplCarries g.val = true) : execGplLinkstat g lo hi s =
    .next (((s.setFld (Key.gplStat g.val) 31 0 (lo.toNat * 65536 + hi.toNat)).gplRejudge g.val).dialectsSince s) := by
  simp [execGplLinkstat, hc]

theorem execGplLinkDown_of_cause {why : LinkDownCause} (h : s.gplState g.val ≠ gpDown ∧ s.gplCause g.val why = true) :
    execGplLinkDown g why s = .next ((s.gplDown g.val).gplTrain g.val) := by
  rw [execGplLinkDown, if_pos h]

theorem execGplLinkDown_of_no_cause {why : LinkDownCause} (h : ¬ (s.gplState g.val ≠ gpDown ∧ s.gplCause g.val why = true)) :
    execGplLinkDown g why s = .next s := by
  rw [execGplLinkDown, if_neg h]

/-- A port that is not UP takes no message (R545). -/
theorem exec_message_of_not_up {part : BitVec 4} {ws : List U64} {w0 : U64} {vc un : Bool} {a : Addr} {n : Nat} {up : List Addr}
    {bs : List (Byte × Bool)} {r : BusAnswer} {m : RelayMsg} (h : s.gplState g.val ≠ gpUp) :
    execGplTask g part ws s = .next s ∧ execGplToken g part w0 v s = .next s ∧ execGplResult g v s = .next s ∧
      execGplRelay g m s = .next s ∧ execGplRdReq g part vc a n un up s = .next s ∧ execGplWrReq g part vc a bs s = .next s ∧
      execGplRdData g r bs s = .next s ∧ execGplWrRsp g r s = .next s := by
  simp [execGplTask, execGplToken, execGplResult, execGplRelay, execGplRdReq, execGplWrReq, execGplRdData, execGplWrRsp, h]

/-! Relays (R553) -/

theorem execGplRelay_of_request {q : Fin 8} {wr : Bool} {o : Obj} (h : s.gplState g.val = gpUp) :
    execGplRelay g (.request q wr o v) s = .next (s.relayServe g.val q wr o v) := by
  simp [execGplRelay, h]

theorem execGplRelay_of_answer {t : State} {slot : Nat} {c : BitVec 16} (h : s.gplState g.val = gpUp)
    (hp : s.popGpl g.val Outstanding.isRelay = some (.relay slot, t)) :
    execGplRelay g (.answer c v) s = .next (t.relayDone slot c.toNat v) := by
  simp [execGplRelay, h, State.relayAnswer_of_waiting hp]

theorem execRelayReq_of_ok (h : s.checkWrite rq Key.gplRelayReq v = .ok) : execRelayReq rq v s = .next (s.relayWrite rq v) := by
  rw [execRelayReq, h]

theorem State.relayWrite_of_busy (h : bit (tget 0 s.bank (relayKey rq)) 63 = true) : s.relayWrite rq v = s.status .busy := if_pos h

/-- OP has two bits: what is neither READ nor WRITE is 0 or 3. -/
theorem relay_range_iff : bf v 49 48 = 0 ∨ bf v 63 62 = 0 ∨ bf v 63 62 = 3 ↔
    ¬ (bf v 49 48 ≠ 0 ∧ (bf v 63 62 = 1 ∨ bf v 63 62 = 2)) := by
  have hop : bf v 63 62 < 4 := bf_lt v 63 62
  omega

theorem State.relayWrite_of_range (hb : bit (tget 0 s.bank (relayKey rq)) 63 = false)
    (h : ¬ (bf v 49 48 ≠ 0 ∧ (bf v 63 62 = 1 ∨ bf v 63 62 = 2))) : s.relayWrite rq v = s.status .range := by
  simp only [State.relayWrite, hb, if_pos (relay_range_iff.mpr h), Bool.false_eq_true, if_false]

/-- A requester's value and its request word are two entries. -/
theorem relayVal_ne_relayKey (rq : Requester) : slotKey rq Key.gplRelayVal ≠ relayKey rq := by
  simp [slotKey, relayKey, Key.gplRelayVal, Key.gplRelayReq]

section
variable (hb : bit (tget 0 s.bank (relayKey rq)) 63 = false) (hok : bf v 49 48 ≠ 0 ∧ (bf v 63 62 = 1 ∨ bf v 63 62 = 2))
include hb hok

/-- A relay to a member that no port reaches ends at once with DOWN. -/
theorem State.relayWrite_of_no_link (hl : s.linkTo (bf v 49 48) = none) : s.relayWrite rq v =
    (s.relayDone (rqSlot rq) 7 (tget 0 s.bank (slotKey rq Key.gplRelayVal))).status .ok := by
  simp only [State.relayWrite, hb, if_neg (relay_range_iff.not.mpr (not_not.mpr hok)), hl, Bool.false_eq_true, if_false]

theorem State.relayWrite_of_link {p : Nat} (hl : s.linkTo (bf v 49 48) = some p) : s.relayWrite rq v =
    (((({ s with bank := tput s.bank (relayKey rq) (w64 (2 ^ 63)) } : State).sendMsg p true
      (messageOf 8 ((s.rqPart rq).getD 15) v [tget 0 s.bank (slotKey rq Key.gplRelayVal)])).awaitGpl p
        (.relay (rqSlot rq))).status .ok) := by
  simp only [State.relayWrite, hb, if_neg (relay_range_iff.not.mpr (not_not.mpr hok)), hl, Bool.false_eq_true, if_false]
  rw [tget_tput_ne _ _ _ (relayVal_ne_relayKey rq)]
  rfl

end

end Link

/-- Settles O56: the port's state decides whether a command acts, and the flit, the request that waits or the relay's word what it does. -/
theorem gelpelLink : Obligations.GelpelLink := by
  intro s t rq g v w0 h f seq part ws vc un a n r bs rt who lo hi up why m q wr o c sl at_ st x key set names sends hears heard told both
    carries hx bad kept naked stale isUp fails restat falls waits relays rBusy rOk val sent
  refine ⟨fun hk hv => ?disabled, fun hk hv hn => ?lanes, fun hk hv hn => ?trains, execGplHelloSend_of_due,
    execGplHelloSend_of_not_due, execGplHello_of_deaf, execGplHello_of_badCrc, execGplHello_of_trained,
    fun hst hc hcf => ?conflict, fun hst hc hcf hb => ?up, fun hst hc hcf hb => ?again,
    fun hc => ⟨execGplDataFlit_of_idle hc, execGplNak_of_idle hc, execGplLinkstat_of_idle hc⟩,
    execGplDataFlit_of_expected, execGplDataFlit_of_unexpected, execGplDataFlit_of_badCrc, fun hc hk => ?nakAll,
    fun hc hk => ?nakSome, fun hs => ?replay, fun hs => ?noReplay, execGplTask_of_up, State.gplTaskIn_of_admitted,
    execGplToken_of_up, fun he hb => ?planToken, fun he hb hh => ?thirdMember,
    fun ⟨hu, hp⟩ => execGplResult_of_waiting hu hp, execGplRdReq_of_no_part, execGplWrReq_of_no_part, execGplRdReq_of_part,
    execGplWrReq_of_part, State.gplReadIn_of_refused, State.gplWriteIn_of_hbm,
    fun ⟨hu, hp⟩ => execGplRdData_of_waiting hu hp, fun ⟨hu, hp⟩ => execGplWrRsp_of_waiting hu hp,
    execGplLinkstat_of_carries, execGplLinkDown_of_cause, execGplLinkDown_of_no_cause, execGplRelay_of_request,
    fun ⟨hu, hp⟩ => execGplRelay_of_answer hu hp, exec_message_of_not_up,
    fun hr hb => ?relayBusy, fun hr hb hok => ?relayRange, fun hr hb hok hl => ?relayDown, fun hr hb hok hl => ?relaySent⟩
  case disabled =>
    rw [exec_gplLanesWrite, execGplLanesWrite_eq, exec_gplEnable, execGplEnable_of_ok hk, State.gplGCfgWrite_of_disabled hv]
    exact ⟨rfl, rfl⟩
  case lanes =>
    rw [exec_gplLanesWrite, execGplLanesWrite_eq, exec_gplEnable, execGplEnable_of_ok hk, State.gplGCfgWrite_of_lanes hv hn]
    exact ⟨rfl, rfl⟩
  case trains =>
    rw [exec_gplLanesWrite, execGplLanesWrite_eq, exec_gplEnable, execGplEnable_of_ok hk, State.gplGCfgWrite_of_no_lanes hv hn]
    exact ⟨rfl, rfl⟩
  case conflict => exact (execGplHello_of_hello hst hc).trans (congrArg _ (if_pos hcf))
  case up => exact (execGplHello_of_hello hst hc).trans (congrArg _ ((if_neg (Bool.eq_false_iff.mp hcf)).trans (if_pos hb)))
  case again => exact (execGplHello_of_hello hst hc).trans (congrArg _ ((if_neg (Bool.eq_false_iff.mp hcf)).trans (if_neg hb)))
  case nakAll => exact (execGplNak_of_carries hc).trans (congrArg _ (if_pos hk))
  case nakSome => exact (execGplNak_of_carries hc).trans (congrArg _ (if_neg hk))
  case replay => exact execGplReplayTimeout_eq.trans (congrArg _ (if_pos hs))
  case noReplay => exact execGplReplayTimeout_eq.trans (congrArg _ (if_neg hs))
  case planToken => exact (State.gplTokenIn_of_no_entry he).trans (if_neg fun hn => by simp [hb] at hn)
  case thirdMember => exact (State.gplTokenIn_of_no_entry he).trans (if_pos ⟨hb, hh⟩)
  case relayBusy => rw [exec_relayReq, execRelayReq_of_ok hr, State.relayWrite_of_busy hb]
  case relayRange => rw [exec_relayReq, execRelayReq_of_ok hr, State.relayWrite_of_range hb hok]
  case relayDown => rw [exec_relayReq, execRelayReq_of_ok hr, State.relayWrite_of_no_link hb hok hl]
  case relaySent => rw [exec_relayReq, execRelayReq_of_ok hr, State.relayWrite_of_link hb hok hl]

end Sys2Proof.Machine
end

section
/-!
PROOFS. What leaves Kennel's stores unchanged: one lemma for each function of the model that resets, records, memory, ports, DMA
channels and Gelpel act by and that writes no Kennel.
-/
namespace Sys2Proof.Machine

/-- A fold whose steps write no Kennel writes none. -/
theorem foldl_kennel {α : Type} {f : State → α → State} (h : ∀ s a, (f s a).kennel = s.kennel) (l : List α) (s : State) :
    (l.foldl f s).kennel = s.kennel := by
  induction l generalizing s with
  | nil => rfl
  | cons a l ih => rw [List.foldl_cons, ih, h]

/-! Records, commits and counts -/

@[simp] theorem State.protectionIrq_kennel (s : State) : s.protectionIrq.kennel = s.kennel := rfl

@[simp] theorem State.stageOne_kennel (s : State) (ty : Nat) (payload : List Byte) :
    (s.stageOne ty payload).kennel = s.kennel := by
  simp [State.stageOne, apply_ite State.kennel]

@[simp] theorem State.recordBytes_kennel (s : State) (ty : Nat) (payload : List Byte) :
    (s.recordBytes ty payload).kennel = s.kennel := by
  simp [State.recordBytes, apply_ite State.kennel]

@[simp] theorem State.record_kennel (s : State) (ty : Nat) (ws : List U64) : (s.record ty ws).kennel = s.kennel := by
  simp [State.record]

@[simp] theorem State.mramWait_kennel (s : State) (w : MramWait) : (s.mramWait w).kennel = s.kennel := rfl
@[simp] theorem State.ownImage_kennel (s : State) (es : List (Nat × U64)) : (s.ownImage es).kennel = s.kennel := rfl

@[simp] theorem State.ownCommit_kennel (s : State) (es : List (Nat × U64)) : (s.ownCommit es).kennel = s.kennel := by
  have hfold := foldl_kennel (fun s (e : Nat × U64) => s.setEnt_kennel e.1 e.2) es s
  simp only [State.ownCommit]
  split <;> simpa using hfold

@[simp] theorem State.inc32_kennel (s : State) (k n : Nat) : (s.inc32 k n).kennel = s.kennel := rfl

@[simp] theorem State.setLadder_kennel (s : State) (l : Nat) (x : ChargedUnit) (step count : Nat) :
    (s.setLadder l x step count).kennel = s.kennel := by
  simp only [State.setLadder]
  split <;> simp

@[simp] theorem State.setShdLast_kennel (s : State) (x : ChargedUnit) (w : U64) : (s.setShdLast x w).kennel = s.kennel := by
  simp only [State.setShdLast]
  split <;> simp

@[simp] theorem State.noteExpiry_kennel (s : State) (l : Nat) (x : ChargedUnit) (action info : Nat) :
    (s.noteExpiry l x action info).kennel = s.kennel := by
  simp [State.noteExpiry, apply_ite State.kennel]

@[simp] theorem State.setEntN_kennel (s : State) (k n : Nat) : (s.setEntN k n).kennel = s.kennel := rfl
@[simp] theorem State.knCount_kennel (s : State) (k : Nat) : (s.knCount k).kennel = s.kennel := rfl

@[simp] theorem State.countStatus_kennel (s : State) (p st : Nat) : (s.countStatus p st).kennel = s.kennel := by
  simp [State.countStatus, apply_ite State.kennel]

@[simp] theorem State.setGpl_kennel (s : State) (g : Nat) (x : Gelpel) : (s.setGpl g x).kennel = s.kennel := rfl
@[simp] theorem State.sendMsg_kennel (s : State) (g : Nat) (vc : Bool) (m : List Granule) :
    (s.sendMsg g vc m).kennel = s.kennel := rfl

/-! Time tables and tokens -/

@[simp] theorem State.wakePack_kennel (s : State) (p : Nat) : (s.wakePack p).kennel = s.kennel := by
  simp [State.wakePack, apply_ite State.kennel]

@[simp] theorem State.setLv_kennel (s : State) (t : TableId) (x : Live) : (s.setLv t x).kennel = s.kennel := rfl
@[simp] theorem State.barRow_kennel (s : State) (t : TableId) (r : Nat) : (s.barRow t r).kennel = s.kennel := rfl

@[simp] theorem State.endOcc_kennel (s : State) (t : TableId) (p : Occ → Bool) : (s.endOcc t p).kennel = s.kennel := by
  simp only [State.endOcc]
  split <;> simp [apply_ite State.kennel]

@[simp] theorem State.disarmL2_kennel (s : State) (c sq : Nat) : (s.disarmL2 c sq).kennel = s.kennel := rfl

@[simp] theorem State.tokenAfar_kennel (s : State) (p g : Nat) (t : Token) (part : Nat) :
    (s.tokenAfar p g t part).kennel = s.kennel := by
  simp [State.tokenAfar, apply_ite State.kennel]

@[simp] theorem State.sendItem_kennel (s : State) (x : Producer) (i : Item) : (s.sendItem x i).kennel = s.kennel := rfl

/-! Memory -/

@[simp] theorem State.logError_kennel (s : State) (c kind unit addr : Nat) : (s.logError c kind unit addr).kennel = s.kennel := by
  simp only [State.logError]
  repeat' split
  all_goals simp

@[simp] theorem State.notePoisoned_kennel (s : State) (c unit addr : Nat) : (s.notePoisoned c unit addr).kennel = s.kennel := by
  simp [State.notePoisoned]

@[simp] theorem State.setPoison_kennel (s : State) (a : Nat) : (s.setPoison a).kennel = s.kennel := rfl

@[simp] theorem State.poisonWord_kennel (s : State) (w : Nat) : (s.poisonWord w).kennel = s.kennel := by
  simp only [State.poisonWord]
  split <;> simp

@[simp] theorem State.readTouch_kennel (s : State) (a n : Nat) : (s.readTouch a n).kennel = s.kennel := by
  simp [State.readTouch, apply_ite State.kennel, foldl_kennel]

@[simp] theorem State.markByte_kennel (s : State) (a : Nat) : (s.markByte a).kennel = s.kennel := by
  simp [State.markByte, apply_ite State.kennel]

@[simp] theorem State.markBytes_kennel (s : State) (a : Nat) (ms : List Bool) : (s.markBytes a ms).kennel = s.kennel := by
  induction ms generalizing s a with
  | nil => rfl
  | cons m r ih =>
    rw [State.markBytes, ih]
    split <;> simp

@[simp] theorem State.storeMarks_kennel (s : State) (a : Nat) (bs : List (Byte × Bool)) :
    (s.storeMarks a bs).kennel = s.kennel := by
  simp [State.storeMarks]

@[simp] theorem State.storeMarked_kennel (s : State) (a : Nat) (bs : List Byte) (p : Bool) :
    (s.storeMarked a bs p).kennel = s.kennel := by
  simp [State.storeMarked]

@[simp] theorem State.flushMerge_kennel (s : State) (m : Merge) : (s.flushMerge m).kennel = s.kennel := by
  simp [State.flushMerge, apply_ite State.kennel, foldl_kennel]

@[simp] theorem State.flushFor_kennel (s : State) (r : Nat) : (s.flushFor r).kennel = s.kennel := by
  simp [State.flushFor, foldl_kennel]

/-! Jobs, ports and Gelpel's counts -/

@[simp] theorem State.countJob_kennel (s : State) (p k : Nat) (d : Desc) (j : Job) : (s.countJob p k d j).kennel = s.kennel := by
  simp only [State.countJob]
  split <;> simp [apply_ite State.kennel]

@[simp] theorem State.portDown_kennel (s : State) (l cause : Nat) : (s.portDown l cause).kennel = s.kennel := by
  simp [State.portDown, apply_ite State.kennel]

@[simp] theorem State.abortEye_kennel (s : State) (l : Nat) : (s.abortEye l).kennel = s.kennel := by
  simp [State.abortEye, apply_ite State.kennel]

@[simp] theorem State.setLaneState_kennel (s : State) (l st : Nat) : (s.setLaneState l st).kennel = s.kennel := rfl

@[simp] theorem State.portTo_kennel (s : State) (l st : Nat) : (s.portTo l st).kennel = s.kennel := by
  simp [State.portTo, foldl_kennel]

@[simp] theorem State.octetIdle_kennel (s : State) (o cause : Nat) : (s.octetIdle o cause).kennel = s.kennel := by
  simp [State.octetIdle, foldl_kennel]

@[simp] theorem State.gplCount_kennel (s : State) (g hi lo n : Nat) : (s.gplCount g hi lo n).kennel = s.kennel := rfl
@[simp] theorem State.setHnd_kennel (s : State) (e : Nat) (h : Hound) : (s.setHnd e h).kennel = s.kennel := rfl

@[simp] theorem State.notePath_kennel (s : State) (c unit addr : Nat) : (s.notePath c unit addr).kennel = s.kennel := by
  simp [State.notePath]

/-! DMA channels and what they answer -/

@[simp] theorem State.setCh_kennel (s : State) (n : Nat) (x : Chan) : (s.setCh n x).kennel = s.kennel := rfl
@[simp] theorem State.setLeft_kennel (s : State) (n : Nat) : (s.setLeft n).kennel = s.kennel := rfl
@[simp] theorem State.setChSt_kennel (s : State) (n st : Nat) : (s.setChSt n st).kennel = s.kennel := rfl
@[simp] theorem State.dmaIrq_kennel (s : State) (n : Nat) : (s.dmaIrq n).kennel = s.kennel := rfl

@[simp] theorem State.noteDmaError_kennel (s : State) (n : Nat) (f : DmaFail) : (s.noteDmaError n f).kennel = s.kennel := by
  simp [State.noteDmaError]

@[simp] theorem State.setDmaError_kennel (s : State) (n code elem addr : Nat) :
    (s.setDmaError n code elem addr).kennel = s.kennel := rfl

@[simp] theorem State.dmaHalt_kennel (s : State) (n : Nat) (f : DmaFail) (completed : Bool) :
    (s.dmaHalt n f completed).kennel = s.kennel := by
  simp [State.dmaHalt]

@[simp] theorem State.dmaBegin_kennel (s : State) (n : Fin 272) (ws : List U64) (mark : Bool) :
    (s.dmaBegin n ws mark).kennel = s.kennel := by
  simp [State.dmaBegin, apply_ite State.kennel]

@[simp] theorem State.dmaGoto_kennel (s : State) (n : Fin 272) (a : Nat) : (s.dmaGoto n a).kennel = s.kennel := by
  simp only [State.dmaGoto]
  split <;> simp [apply_ite State.kennel]

@[simp] theorem State.dmaGotRead_kennel (s : State) (n : Fin 272) (r : Xfer) (bs : List (Byte × Bool)) :
    (s.dmaGotRead n r bs).kennel = s.kennel := by
  simp only [State.dmaGotRead]
  split <;> simp [apply_ite State.kennel]

@[simp] theorem State.dmaOff_kennel (s : State) (n : Nat) : (s.dmaOff n).kennel = s.kennel := rfl

@[simp] theorem State.dmaToken_kennel (s : State) (n : Fin 272) (code : Nat) : (s.dmaToken n code).kennel = s.kennel := by
  simp [State.dmaToken, apply_ite State.kennel]

@[simp] theorem State.dmaEnd_kennel (s : State) (n : Fin 272) (code : Nat) : (s.dmaEnd n code).kennel = s.kennel := by
  simp [State.dmaEnd, apply_ite State.kennel]

@[simp] theorem State.dmaSettle_kennel (s : State) (n : Fin 272) : (s.dmaSettle n).kennel = s.kennel := by
  simp only [State.dmaSettle]
  repeat' split
  all_goals simp

@[simp] theorem State.dmaReadDone_kennel (s : State) (n : Fin 272) (r : Xfer) (answer : BusAnswer) (bs : List (Byte × Bool)) :
    (s.dmaReadDone n r answer bs).kennel = s.kennel := by
  simp [State.dmaReadDone, apply_ite State.kennel]

@[simp] theorem State.gplReadDone_kennel (s : State) (g : Nat) (who : Accessor) (a : Nat) (r : BusAnswer) (bs : List (Byte × Bool)) :
    (s.gplReadDone g who a r bs).kennel = s.kennel := by
  simp only [State.gplReadDone]
  repeat' split
  all_goals simp

@[simp] theorem State.dmaWriteDone_kennel (s : State) (n : Fin 272) (w : Xfer) (answer : BusAnswer) :
    (s.dmaWriteDone n w answer).kennel = s.kennel := by
  simp [State.dmaWriteDone]

@[simp] theorem State.gplWriteDone_kennel (s : State) (who : Accessor) (a : Nat) (r : BusAnswer) :
    (s.gplWriteDone who a r).kennel = s.kennel := by
  simp only [State.gplWriteDone]
  repeat' split
  all_goals simp

@[simp] theorem State.relayDone_kennel (s : State) (slot st : Nat) (v : U64) : (s.relayDone slot st v).kennel = s.kennel := rfl

/-! Gelpel's ports and the tables of dialects -/

@[simp] theorem State.setGplState_kennel (s : State) (g st : Nat) : (s.setGplState g st).kennel = s.kennel := by
  simp [State.setGplState, apply_ite State.kennel]

@[simp] theorem State.gplRejudge_kennel (s : State) (g : Nat) : (s.gplRejudge g).kennel = s.kennel := by
  simp [State.gplRejudge, apply_ite State.kennel]

@[simp] theorem State.tellDialects_kennel (s b : State) : (s.tellDialects b).kennel = s.kennel := by
  simp [State.tellDialects, apply_ite State.kennel, foldl_kennel]

@[simp] theorem State.notify_kennel (s : State) (i : Nat) (st : Status) (sub kind : Nat) (o : Obj) (vals : List U64) :
    (s.notify i st sub kind o vals).kennel = s.kennel := by
  simp only [State.notify]
  split <;> simp

@[simp] theorem State.dropSlot_kennel (s : State) (slot : Nat) : (s.dropSlot slot).kennel = s.kennel := rfl
@[simp] theorem State.endSession_kennel (s : State) (i : Nat) : (s.endSession i).kennel = s.kennel := rfl

@[simp] theorem State.dialectsSince_kennel (s b : State) : (s.dialectsSince b).kennel = s.kennel := by
  simp only [State.dialectsSince, apply_ite State.kennel, State.record_kennel, ite_self]
  rw [foldl_kennel (fun s i => ?_), State.tellDialects_kennel]
  split
  · split
    · rfl
    · split <;> simp
  · rfl

/-! Resets: what a unit and its partition lose -/

@[simp] theorem State.maskReq_kennel (s : State) (r : Nat) : (s.maskReq r).kennel = s.kennel := rfl

@[simp] theorem State.endTrials_kennel (s : State) (ps : List Nat) : (s.endTrials ps).kennel = s.kennel := by
  refine foldl_kennel (fun s p => ?_) ps s
  dsimp only
  split <;> simp

@[simp] theorem State.setHo_kennel (s : State) (n st reason : Nat) : (s.setHo n st reason).kennel = s.kennel := by
  simp [State.setHo]

@[simp] theorem State.hoReset_kennel (s : State) (p : Nat) : (s.hoReset p).kennel = s.kennel := by
  simp [State.hoReset, apply_ite State.kennel, foldl_kennel]

@[simp] theorem State.dropWork_kennel (s : State) (us : List Nat) : (s.dropWork us).kennel = s.kennel := rfl

@[simp] theorem State.absent_kennel (s : State) (us : List Nat) : (s.absent us).kennel = s.kennel := by
  rw [State.absent, foldl_kennel (fun s r => by split <;> simp), foldl_kennel (fun s u => by simp)]

@[simp] theorem State.ttDefaultK_kennel (s : State) (u : Fin 64) : (s.ttDefaultK u).kennel = s.kennel := rfl

@[simp] theorem State.endLane_kennel (s : State) (e l st : Nat) : (s.endLane e l st).kennel = s.kennel := by
  simp [State.endLane, apply_ite State.kennel]

@[simp] theorem State.houndReset_kennel (s : State) (e : Fin 8) : (s.houndReset e).kennel = s.kennel := by
  simp only [State.houndReset, e.isLt, dif_pos, State.setLv_kennel, apply_ite State.kennel, State.record_kennel, State.inc32_kennel,
    ite_self]
  rw [foldl_kennel (fun s t => by simp), foldl_kennel (fun s l => by simp)]

@[simp] theorem State.dmaKill_kennel (s : State) (n : Fin 272) : (s.dmaKill n).kennel = s.kennel := by
  simp [State.dmaKill, apply_ite State.kennel]

@[simp] theorem State.flowClear_kennel (s : State) : s.flowClear.kennel = s.kennel := rfl
@[simp] theorem State.idleFrom_kennel (s : State) (l : Nat) : (s.idleFrom l).kennel = s.kennel := rfl

@[simp] theorem State.octetHold_kennel (s : State) (o cause : Nat) : (s.octetHold o cause).kennel = s.kennel := by
  rw [State.octetHold, foldl_kennel State.idleFrom_kennel, State.octetIdle_kennel]

@[simp] theorem State.dropEntries_kennel (s : State) (p : Row → List Nat → Nat → Bool) : (s.dropEntries p).kennel = s.kennel := rfl

@[simp] theorem State.noteDefaulted_kennel (s : State) (us : List Nat) (classes cause : Nat) :
    (s.noteDefaulted us classes cause).kennel = s.kennel := by
  simp only [State.noteDefaulted]
  split
  · rfl
  · rw [foldl_kennel (fun s u => by simp), State.record_kennel]

@[simp] theorem State.carrierClear_kennel (s : State) (c : Nat) : (s.carrierClear c).kennel = s.kennel := by
  simp only [State.carrierClear]
  split <;> simp

@[simp] theorem State.defaultScope_kennel (s : State) (k : RKind) (us cs : List Nat) :
    (s.defaultScope k us cs).kennel = s.kennel := rfl

/-! Device resets and the boot -/

@[simp] theorem State.flushOver_kennel (s : State) (r a n : Nat) : (s.flushOver r a n).kennel = s.kennel := by
  simp [State.flushOver, foldl_kennel]

@[simp] theorem State.wakeAt_kennel (s : State) (a : Nat) : (s.wakeAt a).kennel = s.kennel := by
  simp only [State.wakeAt]
  split <;> simp

@[simp] theorem State.writeMem_kennel (s : State) (who : Accessor) (a : Nat) (bs : List Byte) (marked : Bool) :
    (s.writeMem who a bs marked).kennel = s.kennel := by
  simp [State.writeMem]

@[simp] theorem State.tePut_kennel (s : State) (p : Place) (e : List Byte) : (s.tePut p e).kennel = s.kennel := by
  simp only [State.tePut]
  split <;> simp

@[simp] theorem State.deviceDefaults_kennel (s : State) (k : RKind) (aon : Bool) : (s.deviceDefaults k aon).kennel = s.kennel := rfl

@[simp] theorem State.zeroSram_kennel (s : State) : s.zeroSram.kennel = s.kennel := rfl

@[simp] theorem State.nvBoot_kennel (s : State) : s.nvBoot.kennel = s.kennel := by
  simp only [State.nvBoot]
  split
  · exact foldl_kennel (fun s e => by simp) _ _
  · simp

@[simp] theorem State.recorderBoot_kennel (s : State) : s.recorderBoot.kennel = s.kennel := by
  simp [State.recorderBoot, apply_ite State.kennel]

@[simp] theorem State.noteDefaultAll_kennel (s : State) (k : RKind) : (s.noteDefaultAll k).kennel = s.kennel := by
  simp [State.noteDefaultAll]

@[simp] theorem State.bootTime_kennel (s : State) (hi lo : Nat) : (s.bootTime hi lo).kennel = s.kennel := rfl

@[simp] theorem State.uartWrite_kennel (s : State) (w : UartWord) : (s.uartWrite w).kennel = s.kennel := by
  simp [State.uartWrite, apply_ite State.kennel]

@[simp] theorem State.romPhase_kennel (s : State) : s.romPhase.kennel = s.kennel := by
  simp [State.romPhase, apply_ite State.kennel]

@[simp] theorem State.setPhase_kennel (s : State) (x : Nat) : (s.setPhase x).kennel = s.kennel := by
  simp [State.setPhase, apply_ite State.kennel]

@[simp] theorem State.noteReset_kennel (s : State) (j : ResetJob) : (s.noteReset j).kennel = s.kennel := by
  simp only [State.noteReset]
  split <;> simp

@[simp] theorem State.dropLine_kennel (s : State) (l : Nat) : (s.dropLine l).kennel = s.kennel := rfl

@[simp] theorem State.writeMarks_kennel (s : State) (who : Accessor) (a : Nat) (bs : List (Byte × Bool)) :
    (s.writeMarks who a bs).kennel = s.kennel := by
  simp [State.writeMarks]

@[simp] theorem State.accessFault_kennel (s : State) (who : Accessor) (a : Nat) : (s.accessFault who a).kennel = s.kennel := rfl

@[simp] theorem State.ctxStore_kennel (s : State) (f : Nat) (bs : List (Byte × Bool)) : (s.ctxStore f bs).kennel = s.kennel := by
  simp [State.ctxStore, apply_ite State.kennel]

@[simp] theorem State.freeFlow_kennel (s : State) (f : Nat) : (s.freeFlow f).kennel = s.kennel := by
  simp only [State.freeFlow]
  split <;> simp

@[simp] theorem State.flPurge_kennel (s : State) (p : Nat) : (s.flPurge p).1.kennel = s.kennel := by
  simp [State.flPurge, foldl_kennel]

@[simp] theorem State.purgePart_kennel (s : State) (p : Nat) : (s.purgePart p).kennel = s.kennel := by
  simp [State.purgePart, apply_ite State.kennel, foldl_kennel]

@[simp] theorem State.commitOpsec_kennel (s : State) : s.commitOpsec.kennel = s.kennel := by
  simp [State.commitOpsec, apply_ite State.kennel]

@[simp] theorem State.bootRecord_kennel (s : State) : s.bootRecord.kennel = s.kennel := by simp [State.bootRecord]

@[simp] theorem State.loadNext_kennel (s : State) : s.loadNext.kennel = s.kennel := by
  simp only [State.loadNext]
  split <;> simp [apply_ite State.kennel]

@[simp] theorem State.queueLoads_kennel (s : State) (ps : List Nat) : (s.queueLoads ps).kennel = s.kennel := by
  rw [State.queueLoads, State.loadNext_kennel]
  exact foldl_kennel (fun s p => by simp) _ s

@[simp] theorem State.checkReady_kennel (s : State) : s.checkReady.kennel = s.kennel := by
  simp [State.checkReady, apply_ite State.kennel]

@[simp] theorem State.startTile_kennel (s : State) (t : Nat) : (s.startTile t).kennel = s.kennel := rfl

@[simp] theorem State.startTiles_kennel (s : State) (us : List Nat) : (s.startTiles us).kennel = s.kennel := by
  simp [State.startTiles, apply_ite State.kennel, foldl_kennel]

@[simp] theorem State.startPort_kennel (s : State) (l : Nat) : (s.startPort l).kennel = s.kennel := by
  simp [State.startPort, apply_ite State.kennel]

@[simp] theorem State.octetStart_kennel (s : State) (o : Nat) : (s.octetStart o).kennel = s.kennel := by
  simp [State.octetStart, foldl_kennel]

@[simp] theorem State.gplTrain_kennel (s : State) (g : Nat) : (s.gplTrain g).kennel = s.kennel := by
  simp [State.gplTrain, apply_ite State.kennel]

@[simp] theorem State.unmaskReq_kennel (s : State) (r : Nat) : (s.unmaskReq r).kennel = s.kennel := rfl

@[simp] theorem State.releaseUnits_kennel (s : State) (us : List Nat) : (s.releaseUnits us).kennel = s.kennel := by
  rw [State.releaseUnits, foldl_kennel (fun s r => by split <;> simp), foldl_kennel (fun s u => by split <;> simp),
    State.startTiles_kennel, foldl_kennel (fun s u => by simp)]

@[simp] theorem State.sheepIrq_kennel (s : State) : s.sheepIrq.kennel = s.kennel := rfl

end Sys2Proof.Machine
end

section
/-!
PROOFS. Entries that nothing takes (R85 to R87, R98, R104, R446, R450, R458, R499): while tasks end, tokens arrive and units go into
reset, a free entry stays free, and one that is freed holds no tokens.
-/
namespace Sys2Proof.Machine


/-- What an entry may come to while no descriptor takes an entry: a free entry stays free, and one that is freed holds no tokens. -/
def Entry.Follows (x y : Entry) : Prop :=
  (x.st = .free → y.st = .free) ∧ (y.st = .free → y.slots = [] ∨ (x.st = .free ∧ y.slots = x.slots))

theorem Entry.Follows.refl (x : Entry) : x.Follows x := ⟨id, fun h => .inr ⟨h, rfl⟩⟩

theorem Entry.Follows.trans {x y z : Entry} (h : x.Follows y) (h' : y.Follows z) : x.Follows z := by
  refine ⟨fun hx => h'.1 (h.1 hx), fun hz => ?_⟩
  rcases h'.2 hz with hnil | ⟨hy, hzy⟩
  · exact .inl hnil
  · rcases h.2 hy with hnil | ⟨hx, hyx⟩
    · exact .inl (hzy.trans hnil)
    · exact .inr ⟨hx, hzy.trans hyx⟩

/-- An entry in use may become any entry in use. -/
theorem Entry.follows_of_used {x y : Entry} (hx : x.st ≠ .free) (hy : y.st ≠ .free) : x.Follows y :=
  ⟨fun h => absurd h hx, fun h => absurd h hy⟩

/-- Any entry may be freed. -/
theorem Entry.follows_of_freed {x y : Entry} (hy : y.st = .free) (hs : y.slots = []) : x.Follows y := ⟨fun _ => hy, fun _ => .inl hs⟩

/-- Every entry of every Kennel follows. -/
def EntriesFollow (k k' : Tab Kennel) : Prop := ∀ p i, ((tget knInit k p).e i).Follows ((tget knInit k' p).e i)

theorem EntriesFollow.refl (k : Tab Kennel) : EntriesFollow k k := fun _ _ => Entry.Follows.refl _

theorem EntriesFollow.trans {k k' k'' : Tab Kennel} (h : EntriesFollow k k') (h' : EntriesFollow k' k'') : EntriesFollow k k'' :=
  fun p i => (h p i).trans (h' p i)

theorem State.entry_of_kennel {s u : State} (h : u.kennel = s.kennel) (p i : Nat) : u.entry p i = s.entry p i := by
  rw [State.entry, State.kn, h, State.entry, State.kn]

theorem State.kn_setKn (s : State) (p q : Nat) (k : Kennel) : (s.setKn p k).kn q = if q = p then k else s.kn q := tget_tput _ _ _ _ _

theorem State.entry_setEntry (s : State) (p i q j : Nat) (x : Entry) :
    (s.setEntry p i x).entry q j = if q = p ∧ j = i then x else s.entry q j := by
  simp only [State.setEntry, State.entry, State.kn_setKn]
  by_cases hq : q = p
  · subst hq
    simp [Kennel.e, tget_tput]
  · simp [hq]

@[simp] theorem State.entry_setEntry_self (s : State) (p i : Nat) (x : Entry) : (s.setEntry p i x).entry p i = x := by
  simp [State.entry_setEntry]

section Follow
variable {k : Tab Kennel} {s : State}

theorem follow_foldl {α : Type} {f : State → α → State} (hf : ∀ s a, EntriesFollow k s.kennel → EntriesFollow k (f s a).kennel)
    (l : List α) {s : State} (h : EntriesFollow k s.kennel) : EntriesFollow k (l.foldl f s).kennel := by
  induction l generalizing s with
  | nil => exact h
  | cons a l ih => exact ih (hf s a h)

/-- A Kennel changed elsewhere than in its entries. -/
theorem follow_setKn {p : Nat} {x : Kennel} (h : EntriesFollow k s.kennel) (hx : x.entries = (s.kn p).entries) :
    EntriesFollow k (s.setKn p x).kennel := by
  refine h.trans fun q j => ?_
  change (s.entry q j).Follows ((s.setKn p x).entry q j)
  rw [State.entry, State.entry, State.kn_setKn]
  split
  · subst_vars
    rw [Kennel.e, Kennel.e, hx]
    exact Entry.Follows.refl _
  · exact Entry.Follows.refl _

/-- One entry of a Kennel changed, whatever else of it besides its entries. -/
theorem follow_setKn_tput {p i : Nat} {x : Kennel} {y : Entry} (h : EntriesFollow k s.kennel)
    (hx : x.entries = tput (s.kn p).entries i y) (hy : (s.entry p i).Follows y) : EntriesFollow k (s.setKn p x).kennel := by
  refine h.trans fun q j => ?_
  change (s.entry q j).Follows ((s.setKn p x).entry q j)
  rw [State.entry, State.entry, State.kn_setKn]
  split
  · subst_vars
    rw [Kennel.e, Kennel.e, hx, tget_tput]
    split
    · subst_vars
      exact hy
    · exact Entry.Follows.refl _
  · exact Entry.Follows.refl _

theorem follow_setEntry {p i : Nat} {x : Entry} (h : EntriesFollow k s.kennel) (hx : (s.entry p i).Follows x) :
    EntriesFollow k (s.setEntry p i x).kennel := follow_setKn_tput h rfl hx

/-! Tokens -/

theorem follow_readyIf (p i : Nat) (h : EntriesFollow k s.kennel) : EntriesFollow k (s.readyIf p i).kennel := by
  simp only [State.readyIf]
  split
  · obtain ⟨hst, -⟩ := ‹_›
    exact follow_setKn_tput h rfl (Entry.follows_of_used (by rw [State.entry, hst]; nofun) nofun)
  · exact h

/-- A token names an entry in use. -/
theorem State.entry_used_of_tokenEntry {w0 : U64} {p i : Nat} (h : s.tokenEntry w0 = some (p, i)) : (s.entry p i).st ≠ .free := by
  simp only [State.tokenEntry] at h
  split at h
  · split at h
    · cases h
    · cases h
      intro hfree
      simp [hfree] at *
  · cases h

theorem follow_deliverToken (home : Nat) (t : Token) (part : Nat) (h : EntriesFollow k s.kennel) :
    EntriesFollow k (s.deliverToken home t part).kennel := by
  simp only [State.deliverToken]
  split
  · split <;> simpa using h
  · split
    · simpa using h
    · rename_i p i he
      have hused : ((s.wakePack p).entry p i).st ≠ .free := by
        rw [State.entry_of_kennel (s.wakePack_kennel p)]
        exact State.entry_used_of_tokenEntry he
      have hwake : EntriesFollow k (s.wakePack p).kennel := by simpa using h
      repeat' split
      · simpa using h
      · simpa using h
      · simpa using h
      · exact follow_readyIf p i (follow_setEntry hwake (Entry.follows_of_used hused hused))

theorem follow_returnTask (p : Nat) (d : Desc) (part st : Nat) (org : Option Nat) (u : Nat) (h : EntriesFollow k s.kennel) :
    EntriesFollow k (s.returnTask p d part st org u).kennel := by
  simp only [State.returnTask]
  split
  · split
    · split
      · simpa using h
      · split
        · simpa using h
        · exact follow_deliverToken _ _ _ h
    · exact h
  · split
    · simpa using h
    · exact h

/-! The end of a task -/

theorem follow_freeEntry (p i : Nat) (h : EntriesFollow k s.kennel) : EntriesFollow k (s.freeEntry p i).kennel := by
  have hfree : EntriesFollow k (s.setEntry p i { entryInit with gen := (s.entry p i).gen + 1 }).kennel :=
    follow_setEntry h (Entry.follows_of_freed rfl rfl)
  simp only [State.freeEntry]
  split
  · split <;> split <;> simpa using hfree
  · exact hfree

theorem follow_releaseEntry (p i : Nat) (h : EntriesFollow k s.kennel) : EntriesFollow k (s.releaseEntry p i).kennel :=
  follow_freeEntry _ _ (follow_returnTask _ _ _ _ _ _ (follow_foldl (fun _ _ h => follow_deliverToken _ _ _ h) _ h))

theorem follow_releaseChain (p d n : Nat) (h : EntriesFollow k s.kennel) : EntriesFollow k (s.releaseChain p d n).kennel := by
  induction n generalizing s with
  | zero => exact h
  | succ n ih =>
    rw [State.releaseChain]
    split
    · exact ih (follow_releaseEntry _ _ h)
    · exact h

/-- The entry of a task that has ended with a status. -/
def Entry.ended (x : Entry) (st : Nat) : Entry :=
  { x with status := BitVec.ofNat 8 st, heldTokens := if st = ksDone then x.heldTokens else [],
           unit := if x.st = .running then x.unit else noUnit }

/-- A task that has not ended before releases, the HELD ones behind it with it, or is HELD itself. -/
theorem State.endTask_of_live {p i st : Nat} (h : ¬ ((s.entry p i).st = .free ∨ (s.entry p i).st = .held)) :
    s.endTask p i st =
      let y := (s.entry p i).ended st
      let u := (s.setEntry p i y).countStatus p st
      let v := u.releaseEntry p i
      if u.isOldest p y then (if y.desc.ordered then v.releaseChain p y.desc.domain (v.occ p) else v)
      else u.setEntry p i { y with st := .held } := if_neg h

theorem follow_endTask (p i st : Nat) (h : EntriesFollow k s.kennel) : EntriesFollow k (s.endTask p i st).kennel := by
  by_cases hend : (s.entry p i).st = .free ∨ (s.entry p i).st = .held
  · rw [State.endTask, if_pos hend]
    exact h
  · have hused : (s.entry p i).st ≠ .free := (not_or.mp hend).1
    have hcount : EntriesFollow k ((s.setEntry p i ((s.entry p i).ended st)).countStatus p st).kennel := by
      rw [State.countStatus_kennel]
      exact follow_setEntry h (Entry.follows_of_used hused hused)
    rw [State.endTask_of_live hend]
    dsimp only
    split
    · split
      · exact follow_releaseChain _ _ _ (follow_releaseEntry _ _ hcount)
      · exact follow_releaseEntry _ _ hcount
    · refine follow_setEntry hcount (Entry.follows_of_used ?_ (by simp))
      rw [State.entry_of_kennel (State.countStatus_kennel _ _ _), State.entry_setEntry_self]
      exact hused

theorem follow_abortOn (u : Nat) (h : EntriesFollow k s.kennel) : EntriesFollow k (s.abortOn u).kennel :=
  follow_foldl (fun _ _ h => follow_endTask _ _ _ h) _ h

/-! Units that go into reset, and what their producers have sent -/

theorem follow_jobToken {p : Fin 8} {n : Fin 17} {j : Job} {e : Entry} (he : s.entry j.pack j.entry = e) (hst : e.st = .running)
    (h : EntriesFollow k s.kennel) : EntriesFollow k (s.jobToken p n e j).kennel := by
  have hused : e.st ≠ .free := by rw [hst]; nofun
  simp only [State.jobToken]
  split
  · exact h
  · split
    · simpa using h
    · exact follow_setEntry h (Entry.follows_of_used (he ▸ hused) hused)

theorem follow_finishJob (p : Fin 8) (n : Fin 17) (j : Job) (st : Nat) (h : EntriesFollow k s.kennel) :
    EntriesFollow k (s.finishJob p n j st).kennel := by
  simp only [State.finishJob]
  split
  · obtain ⟨hst, -⟩ := ‹_›
    exact follow_endTask _ _ _ (follow_jobToken (State.entry_of_kennel (by simp) _ _) hst (by simpa using h))
  · simpa using h

theorem follow_abortJob (p : Fin 8) (n : Fin 17) (h : EntriesFollow k s.kennel) : EntriesFollow k (s.abortJob p n).kennel := by
  rw [State.abortJob]
  split
  · exact h
  · exact follow_finishJob _ _ _ _ h

theorem follow_giveResult (ret : RetTo) (v : U64) (h : EntriesFollow k s.kennel) : EntriesFollow k (s.giveResult ret v).kennel := by
  cases ret with
  | none => exact h
  | tileReg t rd =>
    simp only [State.giveResult]
    split <;> simpa using h
  | portEntry c e => simpa [State.giveResult] using h
  | lane e l b w =>
    simp only [State.giveResult]
    split
    · simpa using h
    · split <;> simpa using h
  | startOf p part v' =>
    simp only [State.giveResult]
    split
    · exact h
    · exact follow_deliverToken _ _ _ h
  | remote g => simpa [State.giveResult] using h

theorem follow_gplLost (g : Nat) (o : Outstanding) (h : EntriesFollow k s.kennel) : EntriesFollow k (s.gplLost g o).kennel := by
  cases o with
  | result ret => exact follow_giveResult _ _ h
  | read who a => simpa [State.gplLost] using h
  | write who a => simpa [State.gplLost] using h
  | relay slot => simpa [State.gplLost] using h

theorem follow_gplDown (g : Nat) (h : EntriesFollow k s.kennel) : EntriesFollow k (s.gplDown g).kennel := by
  simp only [State.gplDown]
  split
  · exact h
  · rw [State.dialectsSince_kennel, State.setGplState_kennel]
    exact follow_foldl (fun _ o h => follow_gplLost g o h) _ (by simpa using h)

theorem follow_forgetTile (t : Nat) (h : EntriesFollow k s.kennel) : EntriesFollow k (s.forgetTile t).kennel := by
  simp only [State.forgetTile, State.setUn_kennel]
  exact follow_setKn h rfl

theorem follow_resetTile (t : Nat) (h : EntriesFollow k s.kennel) : EntriesFollow k (s.resetTile t).kennel := by
  simpa [State.resetTile] using follow_abortOn t h

/-- What a change of every Kennel makes of the one of pack p. -/
theorem tget_map_entries {f : Nat × Kennel → Kennel} (hf : ∀ e, (f e).entries = e.2.entries) (t : Tab Kennel) (p : Nat) :
    (tget knInit (t.map (fun e => (e.1, f e))) p).entries = (tget knInit t p).entries := by
  induction t with
  | nil => rfl
  | cons e r ih =>
    simp only [List.map_cons, tget]
    split
    · exact hf e
    · exact ih

theorem follow_flushProd (x : Producer) (h : EntriesFollow k s.kennel) : EntriesFollow k (s.flushProd x).kennel := by
  simp only [State.flushProd]
  refine follow_foldl (fun s i h => ?_) _ (h.trans fun p i => ?_)
  · cases i with
    | token t part ret => exact follow_deliverToken _ _ _ h
    | back t part => exact follow_deliverToken _ _ _ h
    | desc d ret part => exact h
  · have hmap := tget_map_entries (f := fun e => { e.2 with waiting := e.2.waiting.filter (fun w => w.src != x) }) (fun _ => rfl)
      s.kennel p
    simpa only [Kennel.e, hmap] using Entry.Follows.refl _

theorem follow_stopCore (c : Nat) (h : EntriesFollow k s.kennel) : EntriesFollow k (s.stopCore c).kennel := by
  have habort : EntriesFollow k ((s.abortOn (coreUnit c)).dropSlot c).kennel := by simpa using follow_abortOn _ h
  simp only [State.stopCore, State.setIrq_kennel]
  split
  · exact follow_flushProd _ habort
  · exact habort

theorem follow_macClear (m : Fin 128) (h : EntriesFollow k s.kennel) : EntriesFollow k (s.macClear m).kennel :=
  follow_flushProd _ h

theorem follow_freePack (p : Nat) (us : List Nat) (h : EntriesFollow k s.kennel) : EntriesFollow k (s.freePack p us).kennel := by
  simp only [State.freePack]
  refine follow_setKn (follow_foldl (fun s i h => follow_freeEntry _ _ ?_) _ h) rfl
  split
  · exact follow_returnTask _ _ _ _ _ _ h
  · exact h

theorem follow_abortUnit (us : List Nat) (u : Nat) (h : EntriesFollow k s.kennel) : EntriesFollow k (s.abortUnit us u).kennel := by
  have htile : EntriesFollow k ((s.resetTile u).forgetTile u).kennel := follow_forgetTile _ (follow_resetTile _ h)
  simp only [State.abortUnit]
  split
  · split
    · exact follow_flushProd _ htile
    · exact htile
  · exact follow_freePack _ _ h
  · split
    · split
      · exact follow_flushProd _ (follow_abortOn _ (follow_abortJob _ _ h))
      · split
        · exact follow_flushProd _ (by simpa using h)
        · split
          · refine follow_foldl (fun s i h => ?_) _ h
            split
            · exact follow_flushProd _ (by simpa using h)
            · exact h
          · exact h
    · exact h
  · exact follow_stopCore _ h
  · simpa using h
  · split
    · exact follow_macClear _ h
    · exact h
  · simpa using h
  · exact follow_gplDown _ h
  · exact h

theorem follow_releaseShares (p : Nat) (h : EntriesFollow k s.kennel) : EntriesFollow k (s.releaseShares p).kennel := by
  have hregions : EntriesFollow k ((s.regionsOf p).foldl (fun s e => s.setFlag (Key.memHbmRegion e) 63 false) s).kennel := by
    rw [foldl_kennel (fun s e => by simp)]
    exact h
  simp only [State.releaseShares]
  refine follow_foldl (fun s i h => ?_) _ ?_
  · split
    · exact follow_flushProd _ (by simpa using h)
    · exact h
  · split
    · exact hregions
    · simpa using hregions

end Follow
end Sys2Proof.Machine
end

section
/-!
PROOFS. Kennel's entries after resets and Sheepdog steps (R446, R450, R458, R498, R499): a reset whose scope holds a pack, and one of
the device, free its entries; so no step that a fresh error brings about leaves an entry other slots than it had.
-/
namespace Sys2Proof.Machine

section Follow
variable {k : Tab Kennel} {s : State}

/-! PART and WARM resets (R446, R458) -/

theorem freed_of_follow {u : State} {p i : Nat} (h : EntriesFollow s.kennel u.kennel) (hf : (s.entry p i).st = .free) :
    (u.entry p i).st = .free := (h p i).1 hf

/-- An entry that one step of a fold frees is free at its end, where the other steps take none. -/
theorem freed_of_foldl {α : Type} {f : State → α → State} {p i : Nat} {l : List α} {a : α} (ha : a ∈ l)
    (hf : ∀ s b, EntriesFollow s.kennel (f s b).kennel) (hfree : ∀ s, ((f s a).entry p i).st = .free) (s : State) :
    ((l.foldl f s).entry p i).st = .free := by
  obtain ⟨l₁, l₂, rfl⟩ := List.append_of_mem ha
  rw [List.foldl_append, List.foldl_cons]
  exact freed_of_follow (follow_foldl (fun s b h => h.trans (hf s b)) l₂ (EntriesFollow.refl _)) (hfree _)

/-- A Kennel changed elsewhere than in its entries has the same entries. -/
theorem State.entry_setKn_of_entries {p : Nat} {x : Kennel} (hx : x.entries = (s.kn p).entries) (q j : Nat) :
    (s.setKn p x).entry q j = s.entry q j := by
  rw [State.entry, State.entry, State.kn_setKn]
  split
  · subst_vars
    rw [Kennel.e, Kennel.e, hx]
  · rfl

theorem State.entry_freeEntry_free (s : State) (p i : Nat) : ((s.freeEntry p i).entry p i).st = .free := by
  have hset : ((s.setEntry p i { entryInit with gen := (s.entry p i).gen + 1 }).entry p i).st = .free := by
    rw [State.entry_setEntry_self]; rfl
  simp only [State.freeEntry]
  split
  · rename_i c sq row _
    refine Eq.trans (congrArg Entry.st (State.entry_of_kennel ?_ p i)) hset
    split <;> split <;> simp
  · exact hset

/-- What a table reads is a pair of it, or the value of an unlisted key. -/
theorem tget_mem_or_default {α : Type} (d : α) (t : Tab α) (k : Nat) : (k, tget d t k) ∈ t ∨ tget d t k = d := by
  induction t with
  | nil => exact .inr rfl
  | cons e r ih =>
    obtain ⟨i, v⟩ := e
    rw [tget]
    split
    · subst_vars
      exact .inl List.mem_cons_self
    · exact ih.imp_left (List.mem_cons_of_mem _)

/-- An entry that is not free is among those in use. -/
theorem State.mem_used_of_used {p i : Nat} (h : (s.entry p i).st ≠ .free) : (i, s.entry p i) ∈ (s.kn p).used := by
  rcases tget_mem_or_default entryInit (s.kn p).entries i with hmem | hinit
  · exact List.mem_filter.mpr ⟨hmem, by simpa using h⟩
  · exact absurd (congrArg Entry.st hinit) h

/-- The end of one task of a pack in scope: its submitter is told where it stays, and its entry is freed. -/
def State.freeOne (s : State) (p : Nat) (us : List Nat) (i : Nat) : State :=
  let x := s.entry p i
  (if x.desc.hasDest ∧ !(s.destIn us x.desc) ∧ !(x.st = .held ∧ x.unit = noUnit ∧ x.status ≠ 0) then
    s.returnTask p x.desc x.part ksAborted x.origin noUnit else s).freeEntry p i

/-- Every task of the pack ends, then what is left of its Kennel but its entries. -/
def State.freeAll (s : State) (p : Nat) (us : List Nat) : State :=
  ((s.kn p).used.map (·.1)).foldl (fun s i => s.freeOne p us i) s

theorem State.freePack_eq (s : State) (p : Nat) (us : List Nat) :
    s.freePack p us =
      let k := (s.freeAll p us).kn p
      (s.freeAll p us).setKn p
        { knInit with entries := k.entries, waiting := k.waiting.filter (fun w => !(us.contains (prodUnit w.src))) } := rfl

theorem follow_freeOne (p : Nat) (us : List Nat) (i : Nat) (h : EntriesFollow k s.kennel) :
    EntriesFollow k (s.freeOne p us i).kennel := by
  simp only [State.freeOne]
  refine follow_freeEntry _ _ ?_
  split
  · exact follow_returnTask _ _ _ _ _ _ h
  · exact h

/-- Every entry of a pack in scope is freed. -/
theorem State.entry_freePack_free (s : State) (p : Nat) (us : List Nat) (i : Nat) : ((s.freePack p us).entry p i).st = .free := by
  by_cases hfree : (s.entry p i).st = .free
  · exact freed_of_follow (follow_freePack p us (EntriesFollow.refl _)) hfree
  · have hmem : i ∈ (s.kn p).used.map (·.1) := List.mem_map.mpr ⟨_, State.mem_used_of_used hfree, rfl⟩
    have hall : ((s.freeAll p us).entry p i).st = .free :=
      freed_of_foldl hmem (fun s j => follow_freeOne p us j (EntriesFollow.refl _)) (fun s => State.entry_freeEntry_free _ _ _) s
    rw [State.freePack_eq]
    refine (congrArg Entry.st (State.entry_setKn_of_entries ?_ p i)).trans hall
    rfl

/-- What steps 1 and 2 of a reset leave: the units in scope are absent, and what they did has ended. -/
def State.resetAborted (s : State) (us ps : List Nat) : State :=
  let tr := ps.flatMap s.trigsOf
  let s := ps.foldl (fun s p => ({ s.setEntN (Key.rstPtStat p) psReset with
    petRaw := s.petRaw.filter (fun e => e.1 % 8 != p), loadQueue := s.loadQueue.filter (· != p) }).hoReset p) s
  let s := ((s.absent us).dropWork us)
  let s := tr.foldl (fun s u => s.ttDefaultK u) s
  us.foldl (fun s u => s.abortUnit us u) s

theorem follow_resetAborted (us ps : List Nat) (h : EntriesFollow k s.kennel) :
    EntriesFollow k (s.resetAborted us ps).kennel := by
  refine follow_foldl (fun s u h => follow_abortUnit us u h) us ?_
  rw [foldl_kennel (fun s u => by simp), State.dropWork_kennel, State.absent_kennel, foldl_kennel (fun s p => by simp)]
  exact h

/-- Steps 3 and 4 take no entry either. -/
theorem follow_resetSteps_of_aborted (rk : RKind) (us ps : List Nat) (h : EntriesFollow k (s.resetAborted us ps).kennel) :
    EntriesFollow k (s.resetSteps rk us ps).kennel := by
  simp only [State.resetSteps, State.dialectsSince_kennel, State.noteDefaulted_kennel]
  rw [foldl_kennel (fun s u => by split <;> simp), foldl_kennel (fun s q => by split <;> simp), State.defaultScope_kennel,
    foldl_kennel (fun s c => by simp)]
  refine follow_foldl (fun s p h => follow_releaseShares p h) ps ?_
  rw [State.dropEntries_kennel]
  exact h

theorem follow_resetSteps (rk : RKind) (us ps : List Nat) (h : EntriesFollow k s.kennel) :
    EntriesFollow k (s.resetSteps rk us ps).kennel :=
  follow_resetSteps_of_aborted rk us ps (follow_resetAborted us ps h)

theorem State.abortUnit_of_pack {us : List Nat} {u : Nat} (h : unitKind u = 3) : s.abortUnit us u = s.freePack (u - 576) us := by
  simp only [State.abortUnit, h]

theorem unitKind_of_pack {u : Nat} (h : 576 ≤ u) (h' : u < 584) : unitKind u = 3 := by
  rw [unitKind, if_neg (by omega), if_neg (by omega), if_pos h']

theorem unitKind_packUnit {p : Nat} (hp : p < 8) : unitKind (packUnit p) = 3 :=
  unitKind_of_pack (Nat.le_add_right _ _) (by rw [packUnit]; omega)

theorem State.entry_abortUnit_free (s : State) {p : Nat} (hp : p < 8) (us : List Nat) (i : Nat) :
    ((s.abortUnit us (packUnit p)).entry p i).st = .free := by
  rw [State.abortUnit_of_pack (unitKind_packUnit hp), packUnit, Nat.add_sub_cancel_left]
  exact s.entry_freePack_free p us i

/-- A reset whose scope holds a pack frees its entries. -/
theorem State.entry_resetSteps_free (s : State) {p : Nat} (hp : p < 8) (rk : RKind) {us : List Nat} (ps : List Nat)
    (hmem : packUnit p ∈ us) (i : Nat) : ((s.resetSteps rk us ps).entry p i).st = .free :=
  freed_of_follow (follow_resetSteps_of_aborted rk us ps (EntriesFollow.refl _))
    (freed_of_foldl hmem (fun _ u => follow_abortUnit us u (EntriesFollow.refl _)) (fun s => s.entry_abortUnit_free hp us i) _)

theorem follow_holdPart (p source : Nat) (h : EntriesFollow k s.kennel) : EntriesFollow k (s.holdPart p source).kennel := by
  have htrials : EntriesFollow k (s.endTrials [p]).kennel := by rwa [State.endTrials_kennel]
  rw [State.holdPart, State.noteReset_kennel, State.setEntN_kennel, State.purgePart_kennel]
  exact follow_resetSteps .part _ [p] htrials

/-- HOLD holds every partition that runs and ends what is outstanding at Gelpel's ports; the rest of it is not Kennel's. -/
theorem follow_enterHold (cause : Nat) (h : EntriesFollow k s.kennel) : EntriesFollow k (s.enterHold cause).kennel := by
  have hnoted : ∀ j, EntriesFollow k (match j with
      | some j => State.noteReset { s with resetJob := none, loadQueue := [] } j
      | none => { s with resetJob := none, loadQueue := [] }).kennel := by
    intro j
    cases j with
    | none => exact h
    | some j => rwa [State.noteReset_kennel]
  have hboot : ∀ (b : Prop) [Decidable b] (u : State), (if b then u.bootRecord else u).kennel = u.kennel := by
    intro b _ u
    split
    · exact u.bootRecord_kennel
    · rfl
  rw [State.enterHold]
  dsimp only
  rw [hboot]
  simp only [State.record_kennel, State.commitOpsec_kennel, State.uartWrite_kennel, State.setFld_kennel, State.setPhase_kennel,
    State.absent_kennel]
  refine follow_foldl (fun s g h => follow_gplDown g h) _ ?_
  rw [foldl_kennel (fun s o => by simp)]
  exact follow_foldl (fun s p h => follow_holdPart p 6 h) _ (hnoted _)

theorem follow_enterStart (h : EntriesFollow k s.kennel) : EntriesFollow k s.enterStart.kennel := by
  simp only [State.enterStart]
  split
  · refine follow_enterHold _ ?_
    rw [foldl_kennel (fun s p => by split <;> simp)]
    exact h
  · split <;> simpa using h

theorem follow_enterLoad (h : EntriesFollow k s.kennel) : EntriesFollow k s.enterLoad.kennel := by
  simp only [State.enterLoad]
  split
  · exact follow_enterHold _ h
  · split
    · exact follow_enterStart (by simpa using h)
    · simpa using h

/-! Kennel's entries after a Sheepdog step on unit 20 of a pack (R450, R458, R498, R499) -/

/-- An entry's slots are as they were, or the entry has lost them all. -/
def State.SlotsLeft (s u : State) (p i : Nat) : Prop := (u.entry p i).slots = [] ∨ (u.entry p i).slots = (s.entry p i).slots

theorem State.slotsLeft_of_kennel {u : State} (h : u.kennel = s.kennel) (p i : Nat) : s.SlotsLeft u p i :=
  .inr (congrArg Entry.slots (State.entry_of_kennel h p i))

theorem State.slotsLeft_of_freed {u : State} {p i : Nat} (h : EntriesFollow s.kennel u.kennel) (hfree : (u.entry p i).st = .free) :
    s.SlotsLeft u p i := ((h p i).2 hfree).imp_right And.right

theorem State.SlotsLeft.of_kennel_eq {s' u : State} {p i : Nat} (hs : s'.kennel = s.kennel) (h : s'.SlotsLeft u p i) :
    s.SlotsLeft u p i := h.imp_right fun h => h.trans (congrArg Entry.slots (State.entry_of_kennel hs p i))

theorem unitKind_of_ge {u : Nat} (h : 840 ≤ u) : unitKind u = 0 ∨ 5 ≤ unitKind u := by
  rw [unitKind, if_neg (by omega), if_neg (by omega), if_neg (by omega), if_neg (by omega)]
  repeat' split
  all_goals decide

theorem unitKind_of_tile {u : Nat} (h : u < 512) : unitKind u = 1 := if_pos h

theorem unitKind_of_bank {u : Nat} (h : 512 ≤ u) (h' : u < 576) : unitKind u = 2 := by
  rw [unitKind, if_neg (by omega), if_pos h']

theorem unitKind_of_acc {u : Nat} (h : 584 ≤ u) (h' : u < 840) : unitKind u = 0 ∨ unitKind u = 4 := by
  rw [unitKind, if_neg (by omega), if_neg (by omega), if_neg (by omega), if_pos h']
  dsimp only
  split
  · exact .inl rfl
  · exact .inr rfl

/-- No unit is under an accelerator. -/
theorem unitParent_lt_or_ge (d : Nat) : unitParent d < 584 ∨ 840 ≤ unitParent d := by
  have hranges : d < 512 ∨ (512 ≤ d ∧ d < 576) ∨ (576 ≤ d ∧ d < 584) ∨ (584 ≤ d ∧ d < 840) ∨ 840 ≤ d := by omega
  rcases hranges with h | ⟨h, h'⟩ | ⟨h, h'⟩ | ⟨h, h'⟩ | h
  · simp only [unitParent, unitKind_of_tile h]
    omega
  · simp only [unitParent, unitKind_of_bank h h']
    omega
  · simp only [unitParent, unitKind_of_pack h h']
    omega
  · rcases unitKind_of_acc h h' with hk | hk
    · simp only [unitParent, hk]
      omega
    · simp only [unitParent, hk]
      omega
  · have hk := unitKind_of_ge h
    simp only [unitParent]
    split <;> omega

theorem unitKind_accUnit {p : Nat} (hp : p < 8) : unitKind (accUnit p 20) = 4 := by
  have hk : (accUnit p 20 - 584) % 32 = 20 := by simp only [accUnit]; omega
  have hlt : ¬ accUnit p 20 < 584 ∧ accUnit p 20 < 840 := by simp only [accUnit]; omega
  rw [unitKind, if_neg (by omega), if_neg (by omega), if_neg (by omega), if_pos (by omega), hk]
  rfl

theorem eq_of_mem_unitsUnder_accUnit {p v : Nat} (hp : p < 8) (h : v ∈ unitsUnder (accUnit p 20)) : v = accUnit p 20 := by
  have hu := (List.mem_filter.mp h).2
  have h1 := unitParent_lt_or_ge v
  have h2 := unitParent_lt_or_ge (unitParent v)
  have h3 := unitParent_lt_or_ge (unitParent (unitParent v))
  simp only [unitUnder, Bool.or_eq_true, beq_iff_eq, accUnit] at hu
  simp only [accUnit]
  omega

theorem foldl_eq_of_fixed {α : Type} {f : State → α → State} {l : List α} (h : ∀ a ∈ l, ∀ s, f s a = s) (s : State) :
    l.foldl f s = s := by
  induction l generalizing s with
  | nil => rfl
  | cons a l ih => rw [List.foldl_cons, h a List.mem_cons_self, ih fun a ha => h a (List.mem_cons_of_mem _ ha)]

/-- Unit 20 of a pack runs no job, so its quarantine ends none. -/
theorem State.quarantine_accUnit_kennel (s : State) {p : Nat} (hp : p < 8) (cause : Nat) (auto : Bool) :
    (s.quarantine (accUnit p 20) cause auto).kennel = s.kennel := by
  have hk := unitKind_accUnit hp
  have hjob : ¬ ((accUnit p 20 - 584) / 32 < 8 ∧ (accUnit p 20 - 584) % 32 < 17) := by simp only [accUnit]; omega
  simp only [State.quarantine, hk]
  split
  · rfl
  · rw [foldl_kennel (fun s r => by split <;> simp), if_neg (by decide), if_neg (by decide), foldl_eq_of_fixed (fun v hv s => by
      rw [eq_of_mem_unitsUnder_accUnit hp hv]
      simp only [hk, dif_neg hjob])]
    simp

theorem State.SlotsLeft.kennel_eq {u u' : State} {p i : Nat} (h : s.SlotsLeft u p i) (hu : u'.kennel = u.kennel) :
    s.SlotsLeft u' p i := by
  rwa [State.SlotsLeft, State.entry_of_kennel hu]

theorem State.resetSteps_slotsLeft (s : State) {p : Nat} (hp : p < 8) (rk : RKind) {us : List Nat} (ps : List Nat)
    (hmem : packUnit p ∈ us) (i : Nat) : s.SlotsLeft (s.resetSteps rk us ps) p i :=
  State.slotsLeft_of_freed (follow_resetSteps rk us ps (EntriesFollow.refl _)) (s.entry_resetSteps_free hp rk ps hmem i)

theorem State.withResetJob_kennel (s : State) (j : Option ResetJob) : ({ s with resetJob := j }).kennel = s.kennel := rfl

/-- What a request for a PART reset leaves of a pack in its scope: a request that the job covers changes nothing. -/
theorem State.requestReset_slotsLeft (s : State) {p : Nat} (hp : p < 8) (rk : RKind) (target source : Nat) {us : List Nat}
    (ps : List (Nat × Bool)) (hmem : packUnit p ∈ us) (i : Nat) : s.SlotsLeft (s.requestReset rk target source us ps).1 p i := by
  have hsteps := (s.endTrials (ps.map (·.1))).resetSteps_slotsLeft hp rk (ps.map (·.1)) hmem i |>.of_kennel_eq
    (s.endTrials_kennel _)
  rw [State.requestReset]
  cases s.resetJob with
  | none => exact hsteps.kennel_eq (State.withResetJob_kennel _ _)
  | some j =>
    dsimp only
    split
    · exact State.slotsLeft_of_kennel rfl p i
    · split
      · exact hsteps.kennel_eq (State.withResetJob_kennel _ _)
      · exact hsteps.kennel_eq (State.withResetJob_kennel _ _)

/-- The pack of a unit that a PART reset takes is in its scope. -/
theorem State.packUnit_mem_partUnits {p q : Nat} (hp : p < 8) (h : s.partOfUnit (accUnit p 20) = some q) :
    packUnit p ∈ s.partUnits q := by
  have hpack : s.partOfPack p = some q := by
    have hdiv : (accUnit p 20 - 584) / 32 = p := by simp only [accUnit]; omega
    simpa only [State.partOfUnit, unitPack, unitKind_accUnit hp, hdiv] using h
  have hof : p ∈ s.packsOf q := List.mem_filter.mpr ⟨List.mem_range.mpr hp, by simp [hpack]⟩
  have hall : packUnit p ∈ allUnits :=
    List.mem_filter.mpr ⟨List.mem_range.mpr (by rw [packUnit]; omega), by rw [unitKind_packUnit hp]; rfl⟩
  refine List.mem_filter.mpr ⟨hall, ?_⟩
  have hunder : (s.packsOf q).any (fun q => unitUnder (packUnit q) (packUnit p)) = true :=
    List.any_eq_true.mpr ⟨p, hof, by simp [unitUnder]⟩
  rw [hunder, Bool.true_or, Bool.true_or]

theorem State.partReset_slotsLeft (s : State) {p q : Nat} (hp : p < 8) (source : Nat) (hold : Bool)
    (hmem : packUnit p ∈ s.partUnits q) (i : Nat) : s.SlotsLeft (s.partReset q source hold).1 p i := by
  rw [State.partReset]
  split
  · exact s.requestReset_slotsLeft hp _ _ _ _ hmem i
  · exact .inr rfl

/-- A device reset's state before the device runs again: what the domain, its memory and its registers held is gone. -/
def State.deviceCleared (s : State) (rk : RKind) (source : Nat) (aon : Bool) : State :=
  ({ ((s.endTrials (List.range 8)).tableClear).clearDomain with resetJob := some (s.deviceJob rk source) }.zeroSram).deviceDefaults rk aon

/-- The device runs again after a device reset. -/
def State.deviceRuns (s : State) (rk : RKind) : State := { s with
  dev := .run, thermalDormant := false
  stackIntlv := s.flag Key.memHbmCfg 0
  mgtRuns := BitVec.ofNat 2 (s.fld Key.pinMgtCfg 1 0)
  resTold := if 3 ≤ rk.rank then [] else s.resTold
  unit := if 3 ≤ rk.rank then s.unit.map (fun e => (e.1, { e.2 with quar := false, autoReturn := false })) else s.unit
  shdTold := if 3 ≤ rk.rank then [] else s.shdTold }

theorem State.deviceReset_eq (s : State) (rk : RKind) (source : Nat) (aon : Bool) :
    s.deviceReset rk source aon = (List.range 24).foldl State.maskReq ((s.deviceCleared rk source aon).deviceRuns rk) := rfl

theorem State.clearDomain_kennel (s : State) : s.clearDomain.kennel = [] := rfl

theorem State.deviceRuns_kennel (s : State) (rk : RKind) : (s.deviceRuns rk).kennel = s.kennel := rfl

theorem State.deviceCleared_kennel (s : State) (rk : RKind) (source : Nat) (aon : Bool) :
    (s.deviceCleared rk source aon).kennel = [] := by
  rw [State.deviceCleared, State.deviceDefaults_kennel, State.zeroSram_kennel, State.withResetJob_kennel, State.clearDomain_kennel]

/-- A device reset leaves no task (R446). -/
theorem State.deviceReset_kennel (s : State) (rk : RKind) (source : Nat) (aon : Bool) : (s.deviceReset rk source aon).kennel = [] := by
  rw [State.deviceReset_eq, foldl_kennel (fun s r => by simp), State.deviceRuns_kennel, State.deviceCleared_kennel]

theorem State.withBoot_kennel (s : State) (n : Nat) (post : Bool) :
    ({ s with bootRaw := n, postNext := post }).kennel = s.kennel := rfl

theorem follow_warmReset (source : Nat) : EntriesFollow [] (s.warmReset source).kennel := by
  have hrom : ∀ n post, EntriesFollow []
      (State.romPhase { s.deviceReset .warm source false with bootRaw := n, postNext := post }).kennel := by
    intro n post
    rw [State.romPhase_kennel, State.withBoot_kennel, State.deviceReset_kennel]
    exact EntriesFollow.refl _
  rw [State.warmReset]
  split
  · rw [State.setPhase_kennel]
    exact hrom _ _
  · exact follow_enterLoad (hrom _ _)

theorem State.warmReset_slotsLeft (s : State) (source p i : Nat) : s.SlotsLeft (s.warmReset source) p i := by
  obtain ⟨hfree, hslots⟩ := follow_warmReset (s := s) source p i
  exact .inl ((hslots (hfree rfl)).elim id And.right)

/-- No step leaves an entry of the pack other slots. -/
theorem State.takeStep_slotsLeft (s : State) {p : Nat} (hp : p < 8) (h : accUnit p 20 < 1024) (l step i : Nat) :
    s.SlotsLeft (s.takeStep l (.unit ⟨accUnit p 20, h⟩) step) p i := by
  simp only [State.takeStep]
  split
  · exact State.slotsLeft_of_kennel (s.quarantine_accUnit_kennel hp _ _) p i
  · split
    · exact s.partReset_slotsLeft hp _ _ (State.packUnit_mem_partUnits hp ‹_›) i
    · exact .inr rfl
  · exact s.warmReset_slotsLeft 1 p i

theorem State.withShdTold_kennel (s : State) (t : Tab Nat) : ({ s with shdTold := t }).kennel = s.kennel := rfl

/-- A charge leads to a note or to a step of the unit's ladder, and writes no Kennel before. -/
theorem State.charge_cases (s : State) (l : Nat) (x : ChargedUnit) (action info : Nat) :
    ∃ u : State, u.kennel = s.kennel ∧ (s.charge l x action info = u ∨ ∃ n, s.charge l x action info = u.takeStep l x n) := by
  unfold State.charge
  extract_lets counted expired aged charged cfg
  have hexpired : expired.kennel = s.kennel := by
    simp only [expired]
    split
    · exact (State.incSat_kennel _ _ _ _ _).trans (State.inc32_kennel _ _ _)
    · exact State.inc32_kennel _ _ _
  have haged : aged.kennel = s.kennel := by
    simp only [aged]
    split
    · exact (State.setLadder_kennel _ _ _ _ _).trans hexpired
    · exact hexpired
  have hcharged : charged.kennel = s.kennel := (State.withShdTold_kennel _ _).trans haged
  clear_value charged
  split
  · exact ⟨_, (State.setShdLast_kennel _ _ _).trans hcharged, .inl rfl⟩
  · dsimp only
    split
    · exact ⟨_, (State.noteExpiry_kennel _ _ _ _ _).trans ((State.setLadder_kennel _ _ _ _ _).trans hcharged), .inl rfl⟩
    · split
      · refine ⟨_, ?_, .inr ⟨_, rfl⟩⟩
        rw [State.sheepIrq_kennel, State.record_kennel, State.setShdLast_kennel, State.setLadder_kennel, State.setLadder_kennel, hcharged]
      · exact ⟨_, (State.noteExpiry_kennel _ _ _ _ _).trans ((State.setLadder_kennel _ _ _ _ _).trans hcharged), .inl rfl⟩

theorem State.charge_slotsLeft (s : State) {p : Nat} (hp : p < 8) (h : accUnit p 20 < 1024) (l action info i : Nat) :
    s.SlotsLeft (s.charge l (.unit ⟨accUnit p 20, h⟩) action info) p i := by
  obtain ⟨u, hu, heq | ⟨n, heq⟩⟩ := s.charge_cases l (.unit ⟨accUnit p 20, h⟩) action info
  · rw [heq]
    exact State.slotsLeft_of_kennel hu p i
  · rw [heq]
    exact (u.takeStep_slotsLeft hp h l n i).of_kennel_eq hu

theorem State.remapNow_slotsLeft (s : State) {p : Nat} (hp : p < 8) (c addr i : Nat) :
    s.SlotsLeft (s.remapNow c (accUnit p 20) addr) p i := by
  simp only [State.remapNow]
  split
  · refine State.slotsLeft_of_kennel ?_ p i
    rw [State.protectionIrq_kennel, State.record_kennel, State.ownCommit_kennel]
  · split
    · refine State.SlotsLeft.of_kennel_eq ?_ (State.charge_slotsLeft _ hp ‹_› 0 saAbort addr i)
      rw [State.record_kennel, State.ownCommit_kennel]
    · refine State.slotsLeft_of_kennel ?_ p i
      rw [State.record_kennel, State.ownCommit_kennel]

theorem State.remapRepeat_slotsLeft (s : State) {p : Nat} (hp : p < 8) (c addr i : Nat) :
    s.SlotsLeft (s.remapRepeat c (accUnit p 20) addr) p i := by
  rw [State.remapRepeat]
  split
  · rw [State.remapAdd]
    split
    · exact s.remapNow_slotsLeft hp c addr i
    · split
      · exact .inr rfl
      · exact State.slotsLeft_of_kennel (State.mramWait_kennel _ _) p i
  · exact .inr rfl

end Follow
end Sys2Proof.Machine
end

section
/-!
PROOFS. Dispatch, down units, lame tiles and slot plans (R91 to R95, R107 to R110, R115 to R118, R153, R390, R583): what a decision
of the dispatcher does, a poisoned entry, the sweep of down units, the medians with the tiles they mark, probes and plans, and with
them the statement O29.
-/
namespace Sys2Proof.Machine

section Dispatch
variable {s : State}

/-! Dispatch -/

theorem loopEnd0_eq (x : Tile) (npc : BitVec 32) : ∃ c pc, loopEnd0 x npc = { x with lc0 := c, pc := pc } := by
  rw [loopEnd0]
  split
  · split
    · exact ⟨_, _, rfl⟩
    · exact ⟨_, _, rfl⟩
  · exact ⟨x.lc0, npc, rfl⟩

/-- The loop end changes a tile's loop counts and PC alone. -/
theorem loopEnd_eq (x : Tile) (npc : BitVec 32) : ∃ c₀ c₁ pc, loopEnd x npc = { x with lc0 := c₀, lc1 := c₁, pc := pc } := by
  rw [loopEnd]
  split
  · split
    · split
      · exact ⟨x.lc0, _, _, rfl⟩
      · obtain ⟨c, pc, h⟩ := loopEnd0_eq { x with lc1 := 0 } npc
        exact ⟨c, 0, pc, h⟩
    · obtain ⟨c, pc, h⟩ := loopEnd0_eq x npc
      exact ⟨c, x.lc1, pc, h⟩
  · exact ⟨x.lc0, x.lc1, npc, rfl⟩

/-- A scalar write leaves everything else of the tile. -/
theorem Tile.wr_eq (x : Tile) (r : Reg) (v : U64) : ∃ f, x.wr r v = { x with s := f } := by
  rw [Tile.wr]
  split
  · exact ⟨x.s, rfl⟩
  · exact ⟨_, rfl⟩

/-- A retired write of a scalar register leaves the tile's activity and its vectors. -/
theorem tl_retire_wr (s : State) (t : Nat) (x : Tile) (r : Reg) (w : U64) :
    ((retire s t (x.wr r w)).tl t).st = x.st ∧ ((retire s t (x.wr r w)).tl t).task = x.task ∧
      ((retire s t (x.wr r w)).tl t).poison = x.poison ∧ ((retire s t (x.wr r w)).tl t).v = x.v := by
  rw [retire, tl_retireTo]
  obtain ⟨f, hf⟩ := x.wr_eq r w
  obtain ⟨c₀, c₁, pc, h⟩ := loopEnd_eq { x.wr r w with resumed := false } ((x.wr r w).pc + 4)
  rw [h, hf]
  exact ⟨rfl, rfl, rfl, rfl⟩

/-- A tile that takes a task runs it, unpoisoned, its vectors untouched (R93, R153). -/
theorem State.store_tl (s : State) (a : Nat) (bs : List Byte) (t : Nat) : (s.store a bs).tl t = s.tl t := by
  rw [State.tl, State.store_tile, State.tl]

theorem State.toTile_tl (s : State) (p i t : Nat) :
    ((s.toTile p i t).tl t).st = .running ∧ ((s.toTile p i t).tl t).task = some (p, i) ∧
      ((s.toTile p i t).tl t).poison = false ∧ ((s.toTile p i t).tl t).v = (s.tl t).v := by
  rw [State.toTile]
  obtain ⟨hst, htask, hpoison, hv⟩ := tl_retire_wr _ _ _ _ _
  refine ⟨hst, htask, hpoison, hv.trans ?_⟩
  change (State.tl _ t).v = _
  rw [State.store_tl]
  split <;> rfl

/-- A unit that is no core takes its task in the entry alone. -/
theorem State.toUnit_of_acc (s : State) (p i : Nat) {u : Nat} (hu : unitKind u = 4) :
    ((s.toUnit p i u).entry p i).st = .running ∧ ((s.toUnit p i u).entry p i).unit = u ∧ (s.toUnit p i u).mem = s.mem ∧
      (s.toUnit p i u).tile = s.tile := by
  let x : Entry := { s.entry p i with st := .running, unit := u, dispatchRaw := s.raw.toNat }
  have hunit : s.toUnit p i u = ((s.setEntry p i x).inc64 (Key.knDispatched p) 1).incWrap (Key.odQueue x.desc.target) 31 0 1 := by
    rw [State.toUnit, if_neg (by rw [hu]; decide)]
  have hkennel : (s.toUnit p i u).kennel = (s.setEntry p i x).kennel := by
    rw [hunit, State.incWrap_kennel, State.inc64, State.incSat_kennel]
  have hentry : (s.toUnit p i u).entry p i = x := (State.entry_of_kennel hkennel p i).trans (s.entry_setEntry_self p i x)
  exact ⟨congrArg Entry.st hentry, congrArg Entry.unit hentry, (congrArg State.mem hunit).trans rfl,
    (congrArg State.tile hunit).trans rfl⟩

/-! A poisoned entry (R390) -/

theorem tfind_map {α β : Type} (f : α → β) (t : Tab α) (k : Nat) : tfind (t.map (fun e => (e.1, f e.2))) k = (tfind t k).map f := by
  induction t with
  | nil => rfl
  | cons e r ih =>
    simp only [List.map_cons, tfind]
    split
    · rfl
    · exact ih

/-- A token with POISON set. -/
def Token.poisoned (o : Token) : Token := { o with w0 := setBit o.w0 26 true }

/-- An entry whose operands are all poisoned. -/
def Entry.poisoned (x : Entry) : Entry := { x with slots := x.slots.map (fun t => (t.1, t.2.poisoned)) }

theorem State.poisonEntry_eq (s : State) (p i : Nat) :
    s.poisonEntry p i =
      ((s.setEntry p i (s.entry p i).poisoned).notePoisoned 5 (accUnit p 20) i).remapRepeat 5 (accUnit p 20) i := rfl

/-- Every operand that a poisoned entry still has is poisoned. -/
theorem State.poisonEntry_slots (s : State) (p : Fin 8) (i k : Nat) {o : Token}
    (h : tfind ((s.poisonEntry p.val i).entry p.val i).slots k = some o) : bit o.w0 26 = true := by
  have hnoted : (((s.setEntry p.val i (s.entry p.val i).poisoned).notePoisoned 5 (accUnit p 20) i).entry p.val i).slots =
      (s.entry p.val i).slots.map (fun t => (t.1, t.2.poisoned)) := by
    rw [State.entry_of_kennel (State.notePoisoned_kennel _ _ _ _), State.entry_setEntry_self, Entry.poisoned]
  rw [State.poisonEntry_eq] at h
  rcases State.remapRepeat_slotsLeft _ p.isLt 5 i i with hnil | hsame
  · rw [hnil] at h
    cases h
  · rw [hsame, hnoted, tfind_map Token.poisoned] at h
    obtain ⟨o', -, rfl⟩ := Option.map_eq_some_iff.mp h
    exact bit_setBit_self _ _ _ (by decide)

/-! Down units (R94, R583) -/

theorem getD_mem_of_lt {α : Type} {l : List α} {a : Nat} (h : a < l.length) (d : α) : l.getD a d ∈ l := by
  rw [List.getD_eq_getElem _ _ h]
  exact List.getElem_mem h

/-! Medians and the tiles they mark (R107, R108) -/

/-- The medians of a pack's kinds that have one. -/
def State.kindMedians (s : State) (p : Fin 8) : List (Nat × Nat) :=
  ((((s.kn p.val).avg.map (fun a => a.1 % 4096)).eraseDups).filter (fun kd => bit (s.kindWord p.val kd) 60)).filterMap (fun kd =>
    let l := s.validAvgs p.val kd
    if l.length < 8 then none else some (kd, lowMedian (l.map (·.2))))

/-- The pack's medians, taken anew. -/
def State.setMedians (s : State) (p : Fin 8) : State :=
  s.setKn p.val { s.kn p.val with median := (s.kindMedians p).foldl (fun t e => tput t e.1 e.2) [] }

/-- One tile against the median m of a kind. -/
def State.markTile (s : State) (kd m : Nat) (a : Nat × Nat) : State :=
  if s.health a.1 = 0 ∧ s.exceeds a.2 m then
    ((s.setUn a.1 { s.un a.1 with lame := true, lameKind := kd, lameSince := s.raw.toNat, probeDue := false }).incSat
      (Key.knTileStat a.1) 15 8 1).noteLame a.1 kd a.2 m true
  else s

/-- The tiles of one kind against its median. -/
def State.markKind (s : State) (p : Fin 8) (e : Nat × Nat) : State :=
  (s.validAvgs p.val e.1).foldl (fun s a => s.markTile e.1 e.2 a) s

theorem State.lameMedians_eq (s : State) (p : Fin 8) :
    s.lameMedians p = if (s.setMedians p).entN Key.knLameEn = 1 then
      (s.kindMedians p).foldl (fun s e => s.markKind p e) (s.setMedians p) else s.setMedians p := rfl

theorem State.mem_kindMedians {p : Fin 8} {kd m : Nat} (h : (kd, m) ∈ s.kindMedians p) :
    m = lowMedian ((s.validAvgs p.val kd).map (·.2)) := by
  obtain ⟨kd', -, h⟩ := List.mem_filterMap.mp h
  dsimp only at h
  split at h
  · cases h
  · cases h
    rfl

/-- A kind with its bit and eight valid averages has a median. -/
theorem State.kindMedians_of_valid {p : Fin 8} {kd : Nat} (hbit : bit (s.kindWord p.val kd) 60 = true)
    (hlen : 8 ≤ (s.validAvgs p.val kd).length) : (kd, lowMedian ((s.validAvgs p.val kd).map (·.2))) ∈ s.kindMedians p := by
  have hkd : kd ∈ (s.kn p.val).avg.map (fun a => a.1 % 4096) := by
    obtain ⟨e, he⟩ := List.exists_mem_of_length_pos (Nat.lt_of_lt_of_le (by decide) hlen)
    obtain ⟨a, ha, -⟩ := List.mem_map.mp he
    obtain ⟨ha, hvalid⟩ := List.mem_filter.mp ha
    simp only [Bool.and_eq_true, beq_iff_eq] at hvalid
    exact List.mem_map.mpr ⟨a, ha, hvalid.1.1⟩
  refine List.mem_filterMap.mpr ⟨kd, List.mem_filter.mpr ⟨List.mem_eraseDups.mpr hkd, hbit⟩, ?_⟩
  rw [if_neg (Nat.not_lt.mpr hlen)]

/-- A table that takes one value alone under a key, or takes none and has it, has it. -/
theorem tfind_foldl_tput {α : Type} {l : List (Nat × α)} {k : Nat} {v : α} (hall : ∀ w, (k, w) ∈ l → w = v) (t : Tab α)
    (h : (k, v) ∈ l ∨ tfind t k = some v) : tfind (l.foldl (fun t e => tput t e.1 e.2) t) k = some v := by
  induction l generalizing t with
  | nil => exact h.resolve_left List.not_mem_nil
  | cons e l ih =>
    obtain ⟨k', w⟩ := e
    refine ih (fun w hw => hall w (List.mem_cons_of_mem _ hw)) _ ?_
    by_cases hk : k' = k
    · subst hk
      rw [tfind_tput_self, hall w List.mem_cons_self]
      exact .inr rfl
    · rw [tfind_tput_ne _ _ (Ne.symm hk)]
      refine h.imp_left fun h => (List.mem_cons.mp h).resolve_left fun heq => hk (congrArg Prod.fst heq).symm

theorem State.setMedians_median {p : Fin 8} {kd : Nat} (hbit : bit (s.kindWord p.val kd) 60 = true)
    (hlen : 8 ≤ (s.validAvgs p.val kd).length) :
    tfind ((s.setMedians p).kn p.val).median kd = some (lowMedian ((s.validAvgs p.val kd).map (·.2))) := by
  rw [State.setMedians, State.kn_setKn, if_pos rfl]
  exact tfind_foldl_tput (fun _ h => State.mem_kindMedians h) [] (.inl (State.kindMedians_of_valid hbit hlen))

/-- What the marking leaves of what it goes by: the averages, the ratio, and the tile in service. -/
structure State.Marks (s u : State) (t : Nat) : Prop where
  kennel : u.kennel = s.kennel
  ratio : u.entN Key.knLameRatio = s.entN Key.knLameRatio
  fenced : (u.un t).fenced = false
  released : (u.un t).released = true
  quar : (u.un t).quar = false

theorem State.health_of_tile (s : State) {t : Nat} (ht : t < 512) : s.health t = ownHealth (s.un t) := by
  simp only [State.health, unitKind_of_tile ht]

theorem ownHealth_eq_zero_iff (x : UnitSt) :
    ownHealth x = 0 ↔ x.fenced = false ∧ x.released = true ∧ x.quar = false ∧ x.lame = false := by
  rw [ownHealth]
  split_ifs <;> simp_all

theorem State.Marks.health {u : State} {t : Nat} (h : s.Marks u t) (ht : t < 512) : u.health t = if (u.un t).lame then 1 else 0 := by
  simp [State.health_of_tile u ht, ownHealth, h.fenced, h.released, h.quar]

/-- Forming a record leaves the units, and every entry but the counts of records. -/
theorem State.stageOne_un (s : State) (ty : Nat) (bs : List Byte) (v : Nat) : (s.stageOne ty bs).un v = s.un v := by
  rw [State.stageOne]
  split <;> rfl

theorem State.stageOne_ent_ne (s : State) (ty : Nat) (bs : List Byte) {k : Nat} (h : k ≠ Key.evrCnt) :
    (s.stageOne ty bs).ent k = s.ent k := by
  rw [State.stageOne]
  split
  · rfl
  · exact State.ent_setEnt_ne s _ h

theorem State.record_un (s : State) (ty : Nat) (ws : List U64) (v : Nat) : (s.record ty ws).un v = s.un v := by
  rw [State.record, State.recordBytes]
  split
  · exact (State.stageOne_un _ _ _ v).trans (s.stageOne_un _ _ v)
  · exact s.stageOne_un _ _ v

theorem State.record_ent_ne (s : State) (ty : Nat) (ws : List U64) {k : Nat} (h : k ≠ Key.evrCnt) : (s.record ty ws).ent k = s.ent k := by
  rw [State.record, State.recordBytes]
  split
  · exact (State.stageOne_ent_ne _ _ _ h).trans (s.stageOne_ent_ne _ _ h)
  · exact s.stageOne_ent_ne _ _ h

theorem State.un_setUn (s : State) (u v : Nat) (x : UnitSt) : (s.setUn u x).un v = if v = u then x else s.un v :=
  tget_tput _ _ _ _ _

/-- A HEALTHY tile above the ratio, marked. -/
def State.marked (s : State) (kd m : Nat) (a : Nat × Nat) : State :=
  ((s.setUn a.1 { s.un a.1 with lame := true, lameKind := kd, lameSince := s.raw.toNat, probeDue := false }).incSat
    (Key.knTileStat a.1) 15 8 1).noteLame a.1 kd a.2 m true

theorem State.markTile_eq (s : State) (kd m : Nat) (a : Nat × Nat) :
    s.markTile kd m a = if s.health a.1 = 0 ∧ s.exceeds a.2 m then s.marked kd m a else s := rfl

theorem State.marked_un (s : State) (kd m : Nat) (a : Nat × Nat) (t : Nat) :
    (s.marked kd m a).un t = if t = a.1 then
      { s.un a.1 with lame := true, lameKind := kd, lameSince := s.raw.toNat, probeDue := false } else s.un t := by
  rw [State.marked, State.noteLame, State.record_un]
  exact State.un_setUn _ _ _ _

theorem State.marked_kennel (s : State) (kd m : Nat) (a : Nat × Nat) : (s.marked kd m a).kennel = s.kennel := by
  rw [State.marked, State.noteLame, State.record_kennel, State.incSat_kennel, State.setUn_kennel]

theorem State.marked_lameRatio (s : State) (kd m : Nat) (a : Nat × Nat) :
    (s.marked kd m a).entN Key.knLameRatio = s.entN Key.knLameRatio := by
  have hkey : Key.knLameRatio ≠ Key.knTileStat a.1 := by
    simp only [Key.knLameRatio, Key.knTileStat]
    omega
  rw [State.entN, State.marked, State.noteLame, State.record_ent_ne _ _ _ (by decide)]
  exact congrArg BitVec.toNat (State.ent_setFld_ne _ _ _ _ hkey)

variable {u : State} {t : Nat}

theorem State.Marks.markTile (h : s.Marks u t) (kd m : Nat) (a : Nat × Nat) : s.Marks (u.markTile kd m a) t := by
  rw [State.markTile_eq]
  split
  · refine ⟨(u.marked_kennel kd m a).trans h.kennel, (u.marked_lameRatio kd m a).trans h.ratio, ?_, ?_, ?_⟩ <;>
      rw [State.marked_un] <;> split
    · subst_vars
      exact h.fenced
    · exact h.fenced
    · subst_vars
      exact h.released
    · exact h.released
    · subst_vars
      exact h.quar
    · exact h.quar
  · exact h

/-- A marked tile stays marked. -/
theorem State.markTile_lame (h : (u.un t).lame = true) (kd m : Nat) (a : Nat × Nat) : ((u.markTile kd m a).un t).lame = true := by
  rw [State.markTile_eq]
  split
  · rw [State.marked_un]
    split
    · rfl
    · exact h
  · exact h

/-- A tile above the ratio is marked when its average's turn comes, or is marked already. -/
theorem State.Marks.markTile_self (h : s.Marks u t) (ht : t < 512) {kd m x : Nat} (hx : s.exceeds x m = true) :
    ((u.markTile kd m (t, x)).un t).lame = true := by
  have hux : u.exceeds x m = true := by rw [State.exceeds, h.ratio]; exact hx
  by_cases hl : (u.un t).lame = true
  · exact State.markTile_lame hl kd m (t, x)
  · have hh : u.health t = 0 := by rw [h.health ht, if_neg hl]
    rw [State.markTile_eq, if_pos ⟨hh, hux⟩, State.marked_un, if_pos rfl]

/-- What every step of a fold keeps holds at its end; so does what one step brings about and every step keeps. -/
theorem foldl_brings {α : Type} {f : State → α → State} {P Q : State → Prop} {l : List α} {a : α} (ha : a ∈ l)
    (hP : ∀ s b, P s → P (f s b)) (hQ : ∀ s b, Q s → Q (f s b)) (hPQ : ∀ s, P s → Q (f s a)) {s : State} (h : P s) :
    Q (l.foldl f s) := by
  obtain ⟨l₁, l₂, rfl⟩ := List.append_of_mem ha
  rw [List.foldl_append, List.foldl_cons]
  exact List.foldlRecOn l₂ f (hPQ _ (List.foldlRecOn l₁ f h fun s hs b _ => hP s b hs)) fun s hs b _ => hQ s b hs

theorem State.Marks.markKind (h : s.Marks u t) (p : Fin 8) (e : Nat × Nat) : s.Marks (u.markKind p e) t :=
  List.foldlRecOn (motive := fun u : State => s.Marks u t) _ _ h fun _ h a _ => h.markTile e.1 e.2 a

theorem State.markKind_lame (h : (u.un t).lame = true) (p : Fin 8) (e : Nat × Nat) : ((u.markKind p e).un t).lame = true :=
  List.foldlRecOn (motive := fun u : State => (u.un t).lame = true) _ _ h fun _ h a _ => State.markTile_lame h e.1 e.2 a

/-- An average of a tile in service stays valid while tiles are marked. -/
theorem State.Marks.mem_validAvgs (h : s.Marks u t) (ht : t < 512) {p kd x : Nat} (hx : (t, x) ∈ s.validAvgs p kd) :
    (t, x) ∈ u.validAvgs p kd := by
  obtain ⟨a, ha, heq⟩ := List.mem_map.mp hx
  obtain ⟨ha, hvalid⟩ := List.mem_filter.mp ha
  obtain ⟨hta, -⟩ := Prod.mk.inj heq
  simp only [Bool.and_eq_true, beq_iff_eq, decide_eq_true_eq] at hvalid
  obtain ⟨⟨hkd, hn⟩, -⟩ := hvalid
  have hle : u.health t ≤ 1 := by
    rw [h.health ht]
    split <;> decide
  refine List.mem_map.mpr ⟨a, List.mem_filter.mpr ⟨by rwa [State.kn, h.kennel], ?_⟩, heq⟩
  rw [hta]
  simp [hkd, hn, hle]

/-- The tile is marked at its kind. -/
theorem State.Marks.markKind_self (h : s.Marks u t) (ht : t < 512) {p : Fin 8} {kd m x : Nat} (hx : (t, x) ∈ s.validAvgs p.val kd)
    (he : s.exceeds x m = true) : ((u.markKind p (kd, m)).un t).lame = true :=
  foldl_brings (P := fun u => s.Marks u t) (Q := fun u => (u.un t).lame = true) (h.mem_validAvgs ht hx)
    (fun _ a h => h.markTile kd m a) (fun _ a h => State.markTile_lame h kd m a) (fun _ h => h.markTile_self ht he) h

theorem State.setMedians_validAvgs (s : State) (p : Fin 8) (kd : Nat) : (s.setMedians p).validAvgs p.val kd = s.validAvgs p.val kd := by
  have havg : ((s.setMedians p).kn p.val).avg = (s.kn p.val).avg := by rw [State.setMedians, State.kn_setKn, if_pos rfl]
  rw [State.validAvgs, havg]
  rfl

/-- A HEALTHY tile whose average exceeds its kind's median by the ratio is marked LAME (R108). -/
theorem State.lameMedians_lame {p : Fin 8} (hen : s.entN Key.knLameEn = 1) {kd x : Nat} (hbit : bit (s.kindWord p.val kd) 60 = true)
    (hlen : 8 ≤ (s.validAvgs p.val kd).length) (hx : (t, x) ∈ s.validAvgs p.val kd) (ht : t < 512) (hh : s.health t = 0)
    (he : s.exceeds x (lowMedian ((s.validAvgs p.val kd).map (·.2))) = true) : ((s.lameMedians p).un t).lame = true := by
  rw [State.health_of_tile s ht, ownHealth_eq_zero_iff] at hh
  obtain ⟨hfenced, hreleased, hquar, -⟩ := hh
  have hmarks : (s.setMedians p).Marks (s.setMedians p) t := ⟨rfl, rfl, hfenced, hreleased, hquar⟩
  have hv : (t, x) ∈ (s.setMedians p).validAvgs p.val kd := by rwa [State.setMedians_validAvgs]
  rw [State.lameMedians_eq, if_pos (show (s.setMedians p).entN Key.knLameEn = 1 from hen)]
  exact foldl_brings (P := fun u => (s.setMedians p).Marks u t) (Q := fun u => (u.un t).lame = true)
    (State.kindMedians_of_valid hbit hlen) (fun _ e h => h.markKind p e) (fun _ e h => State.markKind_lame h p e)
    (fun _ h => h.markKind_self ht hv he) hmarks

/-- With the marking disabled only the medians are taken (R107). -/
theorem State.lameMedians_of_disabled (p : Fin 8) (hen : s.entN Key.knLameEn ≠ 1) : s.lameMedians p = s.setMedians p := by
  rw [State.lameMedians_eq, if_neg (show ¬ (s.setMedians p).entN Key.knLameEn = 1 from hen)]

/-! Dispatch, sweep, probe and plan as commands -/

/-- The dispatcher's decision: the first READY task that can be placed, and where. -/
def State.pick (s : State) (p : Fin 8) : Option (Nat × Choice) :=
  (s.readyTasks p.val).findSome? (fun e => (s.choose p.val e.2).map (fun k => (e.1, k)))

/-- What a decision does. -/
def State.dispatched (s : State) (p : Fin 8) (b : Bool) : Option (Nat × Choice) → State
  | some (i, .toTile t) => (if b then s.poisonEntry p.val i else s).toTile p.val i t
  | some (i, .toUnit u) => (if b then s.poisonEntry p.val i else s).toUnit p.val i u
  | some (i, .giveBack) => s.endTask p.val i ksUnitDown
  | none => s

theorem exec_taskDispatch_of_pick {p : Fin 8} (b : Bool) {c : Option (Nat × Choice)} (h : s.pick p = c) :
    exec (.taskDispatch p b) s = .next (s.dispatched p b c) := by
  subst h
  rfl

/-- Whether a tile runs a probe. -/
def State.probing (s : State) (t : Nat) : Bool := match (s.tl t).task with | some (p, i) => (s.entry p i).probe | none => false

theorem exec_lameProbeDue_eq (s : State) (t : Fin 512) :
    exec (.lameProbeDue t) s = .next (if (s.un t.val).lame ∧ !(s.probing t.val) ∧
      s.entN Key.knLameProbe * 12288 ≤ 25 * (s.raw.toNat - (s.un t.val).lameSince) then
        s.setUn t.val { s.un t.val with probeDue := true } else s) := rfl

/-- A slot start that has fired is taken, and starts the plan that is enabled. -/
theorem exec_planInstantiate_of_due {c : Fin 384} {un : Fin 64} {row : Fin 16} {d : SlotDue}
    (h : s.slotDue.find? (fun d => d.carrier == c.val && d.unit == un.val && d.row == row.val) = some d) :
    let s' := { s with slotDue := s.slotDue.eraseP (fun d => d.carrier == c.val && d.unit == un.val && d.row == row.val) }
    exec (.planInstantiate c un row) s = .next (if s.flag (Key.knPlanCfg c.val) 63 = true then
      (s'.wakePack (s.fld (Key.knPlanCfg c.val) 62 60)).slotStart c d.time else s') := by
  rw [exec_planInstantiate, execPlanInstantiate]
  dsimp only
  rw [h]
  rfl

/-- The sweep returns one of the tasks whose target is down. -/
theorem execUnitDownSweep_of_down (p : Fin 8) {l : List (Nat × Entry)} (hl : (s.kn p.val).used.filter (fun e =>
      (e.2.st == .waiting || e.2.st == .ready) && !(s.inService e.2.desc.target) && !(s.retestTask e.2.desc)) = l) (hne : l ≠ []) :
    ∃ e ∈ l, execUnitDownSweep p s = .next ({ s with free := s.free + 1 }.endTask p.val e.1 1) := by
  have hpos : 0 < l.length := List.length_pos_iff.mpr hne
  have hmem := getD_mem_of_lt (Nat.mod_lt (Config.freeValue s.free) hpos) (0, entryInit)
  refine ⟨_, hmem, ?_⟩
  have hempty : l.isEmpty = false := by simpa using hne
  simp only [execUnitDownSweep, hl, hempty]
  rfl

end Dispatch

/-- Settles O29: the dispatcher's decision by its cases; a Sheepdog step that the fresh error of an entry brings about leaves its
slots or takes them all; and the marking keeps what it goes by. -/
theorem kennelDispatchPlans : Obligations.KennelDispatchPlans := by
  intro s p i t u tile c un row b d pick met down probing v taken
  refine ⟨exec_taskDispatch_of_pick b, s.toTile_tl p.val i t, exec_taskDispatch_of_pick b, s.toUnit_of_acc p.val i,
    exec_taskDispatch_of_pick b, exec_taskDispatch_of_pick b, fun k _ => s.poisonEntry_slots p i k,
    execUnitDownSweep_of_down p rfl, fun h => ?_, fun h => ?_, fun h => ?_,
    fun h kd e hbit hlen he ht hh hx => State.lameMedians_lame h hbit hlen he ht hh hx, fun hl hp hdue => ?_, fun hdue => ?_,
    fun hd => ⟨fun hen => ?_, fun hen => ?_⟩⟩
  · rw [exec_lameMedianRecompute, execLameMedianRecompute, if_pos h]
  · rw [exec_lameMedianRecompute, execLameMedianRecompute, if_neg h]
  · rw [State.lameMedians_of_disabled p h]
    exact ⟨rfl, rfl, fun kd => State.setMedians_median⟩
  · have hprobing : s.probing tile.val = false := hp
    rw [exec_lameProbeDue_eq, if_pos ⟨hl, by rw [hprobing]; rfl, hdue⟩]
  · rw [exec_lameProbeDue_eq, if_neg fun h => Nat.not_lt.mpr h.2.2 hdue]
  · rw [exec_planInstantiate_of_due hd, if_pos hen]
  · rw [exec_planInstantiate_of_due hd, if_neg (by rw [hen]; decide)]

end Sys2Proof.Machine
end

section
/-!
PROOFS. Retirement and a tile's registers (R149 to R151): what a retired instruction leaves in its tile, in the other tiles, in memory and
in the dictionary, and with it the statement O12.
-/
namespace Sys2Proof.Machine

section Retire
variable (s : State) (t : Nat) (x : Tile)

/-! Scalar registers -/

/-- A register reads the file alone. -/
theorem Tile.rs_congr {x y : Tile} (h : x.s = y.s) (r : Reg) : x.rs r = y.rs r := by
  rw [Tile.rs, Tile.rs, h]

theorem Tile.rs_of_ne (x : Tile) {r : Reg} (h : r ≠ 0) : x.rs r = tget 0 x.s r.toNat := if_neg h

theorem Tile.wr_of_ne (x : Tile) {r : Reg} (v : U64) (h : r ≠ 0) : x.wr r v = { x with s := tput x.s r.toNat v } := if_neg h

theorem Tile.wr_zero (x : Tile) (v : U64) : x.wr 0 v = x := if_pos rfl

theorem Tile.rs_wr_self (x : Tile) {r : Reg} (v : U64) (h : r ≠ 0) : (x.wr r v).rs r = v := by
  rw [Tile.rs_of_ne _ h, x.wr_of_ne v h, tget_tput_self]

theorem Tile.rs_wr_ne (x : Tile) {r r' : Reg} (v : U64) (h : r' ≠ r) : (x.wr r v).rs r' = x.rs r' := by
  have hn : r'.toNat ≠ r.toNat := fun he => h (BitVec.eq_of_toNat_eq he)
  rcases eq_or_ne r 0 with rfl | hr
  · rw [x.wr_zero]
  · rw [x.wr_of_ne v hr, Tile.rs, Tile.rs, tget_tput_ne _ _ _ hn]

/-! Completion -/

theorem loopEnd_of_disabled {x : Tile} (h : x.lpen = false) (npc : BitVec 32) : loopEnd x npc = { x with pc := npc } := by
  rw [loopEnd, if_neg (by simp [h])]

/-- A retired instruction leaves its result in the tile, but for the loop counts, the PC and the mark of a resumed instruction. -/
theorem tl_retire_eq : ∃ c₀ c₁ pc, (retire s t x).tl t = { x with resumed := false, lc0 := c₀, lc1 := c₁, pc := pc } := by
  rw [retire, tl_retireTo]
  exact loopEnd_eq _ _

theorem tl_retire_ne {t' : Nat} (h : t' ≠ t) : (retire s t x).tl t' = s.tl t' := State.tl_setTl_ne s _ h

@[simp] theorem retire_mem : (retire s t x).mem = s.mem := rfl

theorem ent_retire_ne {k : Nat} (h : k ≠ Key.pxRetired t) : (retire s t x).ent k = s.ent k := State.ent_setFld_ne _ 63 0 _ h

theorem tl_retire_pc_of_disabled (h : x.lpen = false) : ((retire s t x).tl t).pc = x.pc + 4 := by
  rw [retire, tl_retireTo, loopEnd_of_disabled (x := { x with resumed := false }) h]

end Retire

/-- Settles O12: the loop end changes loop counts and PC alone, and the count of retired instructions is the only entry written. -/
theorem retireFrame : Obligations.RetireFrame := by
  intro s t x
  obtain ⟨c₀, c₁, pc, h⟩ := tl_retire_eq s t x
  refine ⟨?_, ?_, ?_, ?_, ?_, ?_, fun t' => tl_retire_ne s t x, fun a => rfl, fun k => ent_retire_ne s t x,
    tl_retire_pc_of_disabled s t x⟩ <;> rw [h]

end Sys2Proof.Machine
end

section
/-!
PROOFS. Vector elements (R130 to R134, R144 to R146): an element reads back the bits written to it and leaves the others alone, what an
element instruction leaves in its destination, and with them the statements O19 and O20.
-/
namespace Sys2Proof.Machine

/-! A field of a number -/

/-- The number w with its k bits from bit lo on replaced by the low k bits of b. -/
def putField (w lo k b : Nat) : Nat := w - w / 2 ^ lo % 2 ^ k * 2 ^ lo + b % 2 ^ k * 2 ^ lo

/-- A written field stands between what lay above it and what lay below. -/
theorem putField_eq (w lo k b : Nat) :
    putField w lo k b = 2 ^ lo * (2 ^ k * (w / 2 ^ lo / 2 ^ k) + b % 2 ^ k) + w % 2 ^ lo := by
  have hlo : 2 ^ lo * (w / 2 ^ lo) + w % 2 ^ lo = w := Nat.div_add_mod _ _
  have hk : 2 ^ k * (w / 2 ^ lo / 2 ^ k) + w / 2 ^ lo % 2 ^ k = w / 2 ^ lo := Nat.div_add_mod _ _
  have hw : w = 2 ^ lo * (2 ^ k * (w / 2 ^ lo / 2 ^ k)) + w / 2 ^ lo % 2 ^ k * 2 ^ lo + w % 2 ^ lo := by
    rw [Nat.mul_comm (w / 2 ^ lo % 2 ^ k), ← Nat.mul_add, hk, hlo]
  rw [putField, Nat.mul_add, Nat.mul_comm (b % 2 ^ k)]
  omega

theorem testBit_putField (w lo k b i : Nat) :
    (putField w lo k b).testBit i = if lo ≤ i ∧ i < lo + k then b.testBit (i - lo) else w.testBit i := by
  rw [putField_eq, Nat.testBit_two_pow_mul_add _ (Nat.mod_lt _ (Nat.two_pow_pos lo)),
    Nat.testBit_two_pow_mul_add _ (Nat.mod_lt _ (Nat.two_pow_pos k))]
  simp only [Nat.testBit_mod_two_pow, Nat.testBit_div_two_pow]
  rcases Nat.lt_or_ge i lo with hlo | hlo
  · simp [hlo, Nat.not_le.mpr hlo]
  · rcases Nat.lt_or_ge i (lo + k) with hk | hk
    · simp [hlo, hk, Nat.not_lt.mpr hlo, show i - lo < k by omega]
    · rw [if_neg (by omega), if_neg (by omega), if_neg (by omega)]
      congr 1
      omega

/-- The written field reads back. -/
theorem field_putField_self {w lo k n : Nat} (b : Nat) (hfit : lo + k ≤ n) :
    (BitVec.ofNat n (putField w lo k b)).toNat / 2 ^ lo % 2 ^ k = b % 2 ^ k := by
  refine Nat.eq_of_testBit_eq fun i => ?_
  simp only [BitVec.toNat_ofNat, Nat.testBit_mod_two_pow, Nat.testBit_div_two_pow, testBit_putField]
  rcases Nat.lt_or_ge i k with hi | hi
  · simp [show i + lo < n by omega, show i + lo < lo + k by omega]
  · simp [Nat.not_lt.mpr hi]

/-- A field apart from the written one keeps its value. -/
theorem field_putField_apart {w lo k lo' k' n : Nat} (b : Nat) (hfit : lo' + k' ≤ n) (hap : lo + k ≤ lo' ∨ lo' + k' ≤ lo) :
    (BitVec.ofNat n (putField w lo k b)).toNat / 2 ^ lo' % 2 ^ k' = w / 2 ^ lo' % 2 ^ k' := by
  refine Nat.eq_of_testBit_eq fun i => ?_
  simp only [BitVec.toNat_ofNat, Nat.testBit_mod_two_pow, Nat.testBit_div_two_pow, testBit_putField]
  rcases Nat.lt_or_ge i k' with hi | hi
  · rw [if_neg (by omega)]
    simp [show i + lo' < n by omega]
  · simp [Nat.not_lt.mpr hi]

/-! Elements (R133) -/

theorem etBytes_cases (ty : Nat) : etBytes ty = 1 ∨ etBytes ty = 2 ∨ etBytes ty = 4 ∨ etBytes ty = 8 := by
  unfold etBytes
  split <;> simp

/-- An element lies within one register, and two elements of one group lie apart. -/
theorem elem_place {e : Nat} (he : e = 1 ∨ e = 2 ∨ e = 4 ∨ e = 8) (i j : Nat) :
    8 * (i * e % vlb) + 8 * e ≤ 2048 ∧ (i ≠ j → i * e / vlb = j * e / vlb →
      8 * (i * e % vlb) + 8 * e ≤ 8 * (j * e % vlb) ∨ 8 * (j * e % vlb) + 8 * e ≤ 8 * (i * e % vlb)) := by
  unfold vlb
  rcases he with rfl | rfl | rfl | rfl <;> omega

section Elements
variable (x : Tile) (n ty : Nat)

theorem Tile.elem_congr {x y : Tile} (h : x.v = y.v) (n e i : Nat) : x.elem n e i = y.elem n e i := by
  rw [Tile.elem, Tile.elem, h]

/-- The register that holds the element takes the field. -/
theorem Tile.setElem_v (e i b : Nat) : (x.setElem n e i b).v = tput x.v (n + i * e / vlb)
    (BitVec.ofNat 2048 (putField (tget 0 x.v (n + i * e / vlb)).toNat (8 * (i * e % vlb)) (8 * e) b)) := rfl

theorem Tile.elem_setElem_self (i b : Nat) :
    (x.setElem n (etBytes ty) i b).elem n (etBytes ty) i = b % 2 ^ (8 * etBytes ty) := by
  have hfit := (elem_place (etBytes_cases ty) i i).1
  rw [Tile.elem, Tile.setElem_v, tget_tput_self, field_putField_self b hfit]

theorem Tile.elem_setElem_ne {i j : Nat} (b : Nat) (h : j ≠ i) :
    (x.setElem n (etBytes ty) i b).elem n (etBytes ty) j = x.elem n (etBytes ty) j := by
  obtain ⟨hfit, hap⟩ := elem_place (etBytes_cases ty) j i
  rw [Tile.elem, Tile.elem, Tile.setElem_v]
  rcases eq_or_ne (j * etBytes ty / vlb) (i * etBytes ty / vlb) with hr | hr
  · rw [hr, tget_tput_self, field_putField_apart b hfit (hap h hr).symm]
  · rw [tget_tput_ne _ _ _ (by omega)]

/-- Writing elements changes the vector registers alone. -/
theorem Tile.setElems_eq (bs : List Nat) (i : Nat) : ∃ v, x.setElems n (etBytes ty) i bs = { x with v := v } := by
  induction bs generalizing x i with
  | nil => exact ⟨x.v, rfl⟩
  | cons b r ih =>
    obtain ⟨v, h⟩ := ih (x.setElem n (etBytes ty) i b) (i + 1)
    exact ⟨v, h⟩

theorem Tile.elem_setElems_out (bs : List Nat) {i j : Nat} (h : j < i ∨ i + bs.length ≤ j) :
    (x.setElems n (etBytes ty) i bs).elem n (etBytes ty) j = x.elem n (etBytes ty) j := by
  induction bs generalizing x i with
  | nil => rfl
  | cons b r ih =>
    rw [List.length_cons] at h
    rw [Tile.setElems, ih _ (by omega), x.elem_setElem_ne n ty b (by omega)]

theorem Tile.elem_setElems_in (bs : List Nat) (i : Nat) {k : Nat} (h : k < bs.length) :
    (x.setElems n (etBytes ty) i bs).elem n (etBytes ty) (i + k) = bs[k] % 2 ^ (8 * etBytes ty) := by
  induction bs generalizing x i k with
  | nil => exact absurd h (Nat.not_lt_zero k)
  | cons b r ih =>
    rw [Tile.setElems]
    cases k with
    | zero => rw [Tile.elem_setElems_out _ _ _ _ (by omega), Nat.add_zero, x.elem_setElem_self, List.getElem_cons_zero]
    | succ k =>
      rw [List.length_cons] at h
      rw [show i + (k + 1) = i + 1 + k by omega, ih _ _ (by omega), List.getElem_cons_succ]

end Elements

/-! Results of an element instruction (R132, R146) -/

section Results
variable (x : Tile) (f : VA) (rt : Nat) (g : Nat → Nat × Bool)

theorem Tile.mem_range {i : Nat} : i ∈ x.range ↔ x.vstart.toNat ≤ i ∧ i < x.vl.toNat := by
  simp only [Tile.range, List.mem_map, List.mem_range]
  constructor
  · rintro ⟨k, hk, rfl⟩; omega
  · exact fun ⟨hlo, hhi⟩ => ⟨i - x.vstart.toNat, by omega, by omega⟩

theorem Tile.length_range : x.range.length = x.vl.toNat - x.vstart.toNat := by
  simp [Tile.range]

theorem Tile.range_getElem {k : Nat} (h : k < x.range.length) : x.range[k] = x.vstart.toNat + k := by
  simp [Tile.range]

/-- Results are written from PXS_VSTART on: the bits of each element processed. -/
theorem Tile.elem_putResults_in {i : Nat} (hlo : x.vstart.toNat ≤ i) (hhi : i < x.vl.toNat) :
    (x.putResults f rt (x.range.map g)).elem f.vd.toNat (etBytes rt) i = (g i).1 % 2 ^ (8 * etBytes rt) := by
  have hk : i - x.vstart.toNat < ((x.range.map g).map (·.1)).length := by simp only [List.length_map, x.length_range]; omega
  have h := x.elem_setElems_in f.vd.toNat rt ((x.range.map g).map (·.1)) x.vstart.toNat hk
  rw [Nat.add_sub_cancel' hlo, List.getElem_map, List.getElem_map, x.range_getElem, Nat.add_sub_cancel' hlo] at h
  rw [← h]
  exact Tile.elem_congr rfl _ _ _

theorem Tile.elem_putResults_out {i : Nat} (h : i < x.vstart.toNat ∨ x.vl.toNat ≤ i) :
    (x.putResults f rt (x.range.map g)).elem f.vd.toNat (etBytes rt) i = x.elem f.vd.toNat (etBytes rt) i := by
  rw [← x.elem_setElems_out f.vd.toNat rt ((x.range.map g).map (·.1)) (i := x.vstart.toNat)]
  · exact Tile.elem_congr rfl _ _ _
  simp only [List.length_map, x.length_range]
  omega

/-- Putting results changes the vector registers, PXS_VSTART and PXS_SAT alone. -/
theorem Tile.putResults_eq : ∃ v, x.putResults f rt (x.range.map g) =
    { x with v := v, vstart := 0, sat := x.sat || x.range.any (fun i => (g i).2) } := by
  obtain ⟨v, h⟩ := x.setElems_eq f.vd.toNat rt ((x.range.map g).map (·.1)) x.vstart.toNat
  refine ⟨v, ?_⟩
  rw [Tile.putResults, h, List.any_map]
  rfl

theorem Tile.putResults_sat : (x.putResults f rt (x.range.map g)).sat = true ↔
    x.sat = true ∨ ∃ i, x.vstart.toNat ≤ i ∧ i < x.vl.toNat ∧ (g i).2 = true := by
  obtain ⟨v, h⟩ := x.putResults_eq f rt g
  simp only [h, Bool.or_eq_true, List.any_eq_true, x.mem_range, and_assoc]

end Results

/-- Settles O19: the instruction puts one reduced result for each element processed, and nothing else of the tile but PXS_VSTART and
PXS_SAT changes. -/
theorem vectorElements : Obligations.VectorElements := by
  intro x f rt op _ e y r
  obtain ⟨v, hy⟩ := x.putResults_eq f rt r
  change y = _ at hy
  refine ⟨fun i => x.elem_putResults_in f rt r, fun i => x.elem_putResults_out f rt r, ?_, ?_, ?_, ?_, ?_, ?_, x.putResults_sat f rt r⟩
    <;> rw [hy]

/-- Settles O20: each form is its table row's operation on components, run by a ready tile whose fields the row allows. -/
theorem vectorMultiplies : Obligations.VectorMultiplies := by
  intro s t f hready x ty does
  refine ⟨fun h => ?vmul, fun h => ?vmulq, fun h => ?vmac, fun h => ?vmacw, fun h => ?vcmul, fun h => ?vcmacw, fun h => ?vcmacjw,
    fun h => ?vcmac, fun a b c d => ⟨rfl, rfl, rfl⟩⟩
  case vmul => rw [exec_vmul, execVmul, opVA_ready hready h rfl]
  case vmulq => rw [exec_vmulq, execVmulq, opVA_ready hready h rfl]; rfl
  case vmac => rw [exec_vmac, execVmac, opVA_ready hready h rfl]
  case vmacw => rw [exec_vmacw, execVmacw, opVA_ready hready h rfl]
  case vcmul => rw [exec_vcmul, execVcmul, opVA_ready hready h rfl]; rfl
  case vcmacw => rw [exec_vcmacw, execVcmacw, opVA_ready hready h rfl]
  case vcmacjw => rw [exec_vcmacjw, execVcmacjw, opVA_ready hready h rfl]
  case vcmac => rw [exec_vcmac, execVcmac, opVA_ready hready h rfl]

end Sys2Proof.Machine
end

section
/-!
PROOFS. Permutes, reductions and searches (R148, R177): the elements a permute takes, the scalar results of a reduction and how two of
them are kept, the element a search finds, and with them the statements O22 and O23.
-/
namespace Sys2Proof.Machine

section Reductions
variable {s : State} {t : Fin 512} {f : VA}

/-- A permute on a ready tile with allowed fields: each element processed takes the source bits that the form picks. -/
theorem opPerm_ready {al : VAllow} {useB : Bool} {more : Tile → Bool} (h : s.tileReady t (vaUses f))
    (hl : vaLegal al f (some f.ty.toNat) useB (s.tl t) = true) (hm : more (s.tl t) = true) (op : Tile → Nat → Nat) :
    opPerm s t f al useB more op =
      .next (retire s t ((s.tl t).putResults f f.ty.toNat ((s.tl t).range.map (fun i => (op (s.tl t) i, false))))) := by
  rw [opPerm, opVA_ready h hl hm]

/-- An allowed type is one of the table's six. -/
theorem ty_le_of_vaLegal {al : VAllow} {rt : Option Nat} {useB : Bool} {x : Tile} (hal : al.types = tyAll)
    (hl : vaLegal al f rt useB x = true) : f.ty.toNat ≤ 5 := by
  simp only [vaLegal, Bool.and_eq_true, hal] at hl
  have hc := hl.1.1.1.1.1.1
  simp only [tyAll, List.contains_iff_mem, List.mem_cons, List.not_mem_nil, or_false] at hc
  omega

/-- The complex types are the last two. -/
theorem etCplx_eq {ty : Nat} (h : ty ≤ 5) : etCplx ty = decide (4 ≤ ty) := by
  interval_cases ty <;> rfl

/-! Two scalar results -/

theorem twoScalars_of_apart (s : State) (t : Nat) (x : Tile) {d e : Reg} (h : d ≠ e ∨ d = 0) (vd ve : U64) :
    twoScalars s t x d e vd ve = retire s t ((x.wr d vd).wr e ve) :=
  if_neg (fun hde => h.elim (absurd hde.1) (fun h0 => hde.2 h0))

/-- Where both results name one register a free value chooses which of them is kept. -/
theorem twoScalars_of_same (s : State) (t : Nat) (x : Tile) {d e : Reg} (hde : d = e) (hd : d ≠ 0) (vd ve : U64) :
    ∃ c u, c ≤ 1 ∧ u.tile = s.tile ∧ u.mem = s.mem ∧ u.od = s.od ∧
      twoScalars s t x d e vd ve = retire u t (x.wr d (if c = 0 then vd else ve)) := by
  refine ⟨(s.drawBelow 2).1, (s.drawBelow 2).2, ?_, rfl, rfl, rfl, if_pos ⟨hde, hd⟩⟩
  exact Nat.le_of_lt_succ (Nat.mod_lt _ Nat.two_pos)

/-! Sums (R177) -/

/-- A component's sum over the elements processed, reduced to 64 bits. -/
abbrev Tile.redSum (x : Tile) (f : VA) (c : Nat) : Nat × Bool := reduceTo 64 f.s (x.sumComp f c)

theorem execVredsum_of_integer (h : s.tileReady t [f.vd, f.b]) (hty : f.ty.toNat ≤ 3) (hb : f.b = 0)
    (hl : vaLegal ⟨tyAll, true, false, false⟩ f none false (s.tl t) = true) :
    execVredsum t f s =
      .next (retire s t (((s.tl t).endScan ((s.tl t).redSum f 0).2).wr f.vd (w64 ((s.tl t).redSum f 0).1))) := by
  have hc : etCplx f.ty.toNat = false := by rw [etCplx_eq (by omega)]; exact decide_eq_false (by omega)
  rw [execVredsum, stepTile_ready h (by simp [hl, hb])]
  simp only [hc]
  rfl

theorem execVredsum_of_complex (h : s.tileReady t [f.vd, f.b]) (hty : 4 ≤ f.ty.toNat)
    (hl : vaLegal ⟨tyAll, true, false, false⟩ f none false (s.tl t) = true) :
    execVredsum t f s = .next (twoScalars s t ((s.tl t).endScan (((s.tl t).redSum f 0).2 || ((s.tl t).redSum f 1).2)) f.vd f.b
      (w64 ((s.tl t).redSum f 0).1) (w64 ((s.tl t).redSum f 1).1)) := by
  have hc : etCplx f.ty.toNat = true := by rw [etCplx_eq (ty_le_of_vaLegal rfl hl)]; exact decide_eq_true hty
  rw [execVredsum, stepTile_ready h (by simp [hl, hc])]
  simp only [hc]
  rfl

/-! Searches (R148) -/

/-- One step of a search: the element goes ahead of the best so far where it is better. -/
def bestStep (val : Nat → Int) (better : Int → Int → Bool) (best : Option (Int × Nat)) (i : Nat) : Option (Int × Nat) :=
  match best with
  | none => some (val i, i)
  | some (w, j) => if better (val i) w then some (val i, i) else some (w, j)

theorem Tile.search_eq (x : Tile) (f : VA) (better : Int → Int → Bool) :
    x.search f better = x.range.foldl (bestStep (x.searchVal f) better) none := rfl

/-- Element i is the first of those in l whose value has the greatest key. -/
def FirstBest (val : Nat → Int) (key : Int → Int) (l : List Nat) (i : Nat) : Prop :=
  i ∈ l ∧ ∀ j ∈ l, key (val j) ≤ key (val i) ∧ (key (val j) = key (val i) → i ≤ j)

section Best
variable {val : Nat → Int} {better : Int → Int → Bool} {key : Int → Int}

/-- A search over rising elements keeps the first of the best. -/
theorem foldl_bestStep (hb : ∀ v w, better v w = decide (key w < key v)) (l : List Nat) (k : Nat)
    (hl : (k :: l).Pairwise (· < ·)) :
    ∃ i, l.foldl (bestStep val better) (some (val k, k)) = some (val i, i) ∧ FirstBest val key (k :: l) i := by
  induction l generalizing k with
  | nil => exact ⟨k, rfl, by simp [FirstBest]⟩
  | cons m r ih =>
    obtain ⟨hk, hm⟩ := List.pairwise_cons.mp hl
    have hkr : (k :: r).Pairwise (· < ·) :=
      List.pairwise_cons.mpr ⟨fun a ha => hk a (List.mem_cons_of_mem m ha), (List.pairwise_cons.mp hm).2⟩
    have hkm : k < m := hk m List.mem_cons_self
    rw [List.foldl_cons, bestStep, hb]
    by_cases hlt : key (val k) < key (val m)
    · rw [if_pos (decide_eq_true hlt)]
      obtain ⟨i, hi, hmem, hbest⟩ := ih m hm
      have hmi := (hbest m List.mem_cons_self).1
      refine ⟨i, hi, List.mem_cons_of_mem k hmem, List.forall_mem_cons.mpr ⟨?_, hbest⟩⟩
      exact ⟨by omega, fun he => by omega⟩
    · rw [if_neg (by simpa using hlt)]
      obtain ⟨i, hi, hmem, hbest⟩ := ih k hkr
      obtain ⟨hk', hrest⟩ := List.forall_mem_cons.mp hbest
      refine ⟨i, hi, ?_, List.forall_mem_cons.mpr ⟨hk', List.forall_mem_cons.mpr ⟨⟨by omega, fun he => ?_⟩, hrest⟩⟩⟩
      · rcases List.mem_cons.mp hmem with rfl | hr
        · exact List.mem_cons_self
        · exact List.mem_cons_of_mem k (List.mem_cons_of_mem m hr)
      · have := hk'.2 (by omega)
        omega

end Best

theorem Tile.range_rises (x : Tile) : x.range.Pairwise (· < ·) :=
  List.pairwise_map.mpr (List.pairwise_lt_range.imp (fun h => Nat.add_lt_add_left h _))

theorem Tile.range_of_none {x : Tile} (h : x.vl.toNat ≤ x.vstart.toNat) : x.range = [] := by
  rw [Tile.range, Nat.sub_eq_zero_of_le h]; rfl

/-- A search over at least one element finds the first of the best. -/
theorem Tile.search_of_some {x : Tile} (h : x.vstart.toNat < x.vl.toNat) {better : Int → Int → Bool} {key : Int → Int}
    (hb : ∀ v w, better v w = decide (key w < key v)) :
    ∃ i, x.search f better = some (x.searchVal f i, i) ∧ FirstBest (x.searchVal f) key x.range i := by
  rw [x.search_eq]
  have hrise := x.range_rises
  cases hr : x.range with
  | nil => exact absurd (x.mem_range.mpr ⟨le_refl _, h⟩) (by simp [hr])
  | cons k l =>
    rw [hr] at hrise
    exact foldl_bestStep hb l k hrise

theorem Tile.search_of_none {x : Tile} (h : x.vl.toNat ≤ x.vstart.toNat) (better : Int → Int → Bool) :
    x.search f better = none := by
  rw [x.search_eq, Tile.range_of_none h]; rfl

/-- The order of a search: VMAXI looks for greater values, VMINI for smaller ones. -/
def searchBetter (isMax : Bool) (v w : Int) : Bool := if isMax then decide (w < v) else decide (v < w)

section Search
variable (h : s.tileReady t [f.vd, f.b]) (hc : (f.u && etCplx f.ty.toNat) = false)
  (hl : vaLegal ⟨tyAll, false, true, false⟩ f none false (s.tl t) = true) {isMax : Bool}
include h hc hl

theorem opSearch_of_some {v : Int} {i : Nat} (hs : (s.tl t).search f (searchBetter isMax) = some (v, i)) :
    opSearch s t f isMax = .next (twoScalars s t ((s.tl t).endScan false) f.vd f.b (BitVec.ofInt 64 v) (w64 i)) := by
  change (s.tl t).search f (fun v w => if isMax then decide (w < v) else decide (v < w)) = _ at hs
  rw [opSearch, stepTile_ready h (by simp [hl, hc])]
  simp only [hs]

theorem opSearch_of_none (hn : (s.tl t).vl.toNat ≤ (s.tl t).vstart.toNat) :
    opSearch s t f isMax = .next (twoScalars s t ((s.tl t).endScan false) f.vd f.b
      (BitVec.ofInt 64 (searchIdentity f isMax)) (w64 (2 ^ 64 - 1))) := by
  rw [opSearch, stepTile_ready h (by simp [hl, hc])]
  simp only [Tile.search_of_none hn]

/-- A search whose results have two registers, or whose value goes to s0, keeps both. -/
theorem opSearch_of_apart (hd : f.vd ≠ f.b ∨ f.vd = 0) {v : Int} {i : Nat}
    (hs : (s.tl t).search f (searchBetter isMax) = some (v, i)) :
    opSearch s t f isMax = .next (retire s t ((((s.tl t).endScan false).wr f.vd (BitVec.ofInt 64 v)).wr f.b (w64 i))) := by
  rw [opSearch_of_some h hc hl hs, twoScalars_of_apart _ _ _ hd]

theorem opSearch_of_apart_none (hd : f.vd ≠ f.b ∨ f.vd = 0) (hn : (s.tl t).vl.toNat ≤ (s.tl t).vstart.toNat) :
    opSearch s t f isMax = .next (retire s t ((((s.tl t).endScan false).wr f.vd
      (BitVec.ofInt 64 (searchIdentity f isMax))).wr f.b (w64 (2 ^ 64 - 1)))) := by
  rw [opSearch_of_none h hc hl hn, twoScalars_of_apart _ _ _ hd]

/-- A search whose results share a register keeps the value or the index. -/
theorem opSearch_of_same (hd : f.vd = f.b) (h0 : f.vd ≠ 0) {v : Int} {i : Nat}
    (hs : (s.tl t).search f (searchBetter isMax) = some (v, i)) :
    ∃ r u, (r = BitVec.ofInt 64 v ∨ r = w64 i) ∧ u.tile = s.tile ∧ u.mem = s.mem ∧
      opSearch s t f isMax = .next (retire u t (((s.tl t).endScan false).wr f.vd r)) := by
  obtain ⟨c, u, -, htile, hmem, -, hu⟩ :=
    twoScalars_of_same s t ((s.tl t).endScan false) hd h0 (BitVec.ofInt 64 v) (w64 i)
  refine ⟨_, u, ?_, htile, hmem, by rw [opSearch_of_some h hc hl hs, hu]⟩
  split
  · exact .inl rfl
  · exact .inr rfl

end Search
end Reductions

/-- Settles O22: a permute puts the picked bits, a sum its reduced components, a search what it found or the identity; results that
share a register leave one of the two. -/
theorem vectorPermutesReductions : Obligations.VectorPermutesReductions := by
  intro s t f hready x ty e perm k va vb one
  refine ⟨fun h => ?slidedn, fun h => ?slideup, fun h => ?vperm, fun h => ?zip, fun hb h => ?unzip, fun h hty hb hl => ?sumInteger,
    fun h hty hd hl => ?sumApart, fun h hty hd h0 hl => ?sumSame, fun h hd h0 hc hl => ⟨fun v i hs => ?maxSame, fun v i hs => ?minSame⟩,
    fun h hd hc hl => ⟨fun v i hs => ?max, fun v i hs => ?min, fun hn => ?maxNone, fun hn => ?minNone⟩⟩
  case slidedn => rw [exec_vslidedn, execVslidedn, opPerm_ready hready h rfl]; rfl
  case slideup => rw [exec_vslideup, execVslideup, opPerm_ready hready h rfl]; rfl
  case vperm => rw [exec_vperm, execVperm, opPerm_ready hready h rfl]; rfl
  case zip => rw [exec_vzip, execVzip, opPerm_ready hready h rfl]; rfl
  case unzip => rw [exec_vunzip, execVunzip, opPerm_ready hready h (by simp [bZero, hb])]; rfl
  case sumInteger => rw [exec_vredsum, execVredsum_of_integer h hty hb hl]
  case sumApart => rw [exec_vredsum, execVredsum_of_complex h hty hl, twoScalars_of_apart _ _ _ hd]
  case sumSame =>
    obtain ⟨c, u, hc, htile, hmem, hod, hu⟩ := twoScalars_of_same s t (x.endScan ((one 0).2 || (one 1).2)) hd h0
      (w64 (one 0).1) (w64 (one 1).1)
    refine ⟨c, u, hc, htile, hmem, hod, ?_⟩
    rw [exec_vredsum, execVredsum_of_complex h hty hl, hu]
    interval_cases c <;> rfl
  case maxSame => exact opSearch_of_same h hc hl hd h0 hs
  case minSame => exact opSearch_of_same h hc hl hd h0 hs
  case max => rw [exec_vmaxi, execVmaxi, opSearch_of_apart h hc hl (isMax := true) hd hs]
  case min => rw [exec_vmini, execVmini, opSearch_of_apart h hc hl (isMax := false) hd hs]
  case maxNone => rw [exec_vmaxi, execVmaxi, opSearch_of_apart_none h hc hl hd hn]
  case minNone => rw [exec_vmini, execVmini, opSearch_of_apart_none h hc hl hd hn]

/-! The extreme value and its place (R148) -/

/-- The value of element i: its bits, signed or with U unsigned, or the exact power of a complex one. -/
theorem Tile.searchVal_eq (x : Tile) {f : VA} (hty : f.ty.toNat ≤ 5) (i : Nat) :
    x.searchVal f i = if 4 ≤ f.ty.toNat then
        sgn (etW f.ty.toNat) (x.srcA f i) * sgn (etW f.ty.toNat) (x.srcA f i) +
          sgn (etW f.ty.toNat) (x.srcA f i / 2 ^ etW f.ty.toNat) * sgn (etW f.ty.toNat) (x.srcA f i / 2 ^ etW f.ty.toNat)
      else if f.u then (x.srcA f i : Int) else sgn (etW f.ty.toNat) (x.srcA f i) := by
  rw [Tile.searchVal]
  simp only [comps, etCplx_eq hty, decide_eq_true_eq]
  split
  · simp
  · rfl

/-- In state u the tile holds vd in register d and ve in register e; its other registers, its vectors and memory are those of s. -/
def State.Holds (s : State) (t : Nat) (d e : Reg) (vd ve : U64) (u : State) : Prop :=
  (u.tl t).rs d = vd ∧ (u.tl t).rs e = ve ∧ u.mem = s.mem ∧
    (∀ r, r ≠ d → r ≠ e → (u.tl t).rs r = (s.tl t).rs r) ∧ (u.tl t).v = (s.tl t).v

theorem retire_search_holds (s : State) (t : Nat) {d e : Reg} (hde : d ≠ e) (hd : d ≠ 0) (he : e ≠ 0) (vd ve : U64) :
    s.Holds t d e vd ve (retire s t ((((s.tl t).endScan false).wr d vd).wr e ve)) := by
  obtain ⟨c₀, c₁, pc, hu⟩ := tl_retire_eq s t ((((s.tl t).endScan false).wr d vd).wr e ve)
  have hrs : ∀ r, ((retire s t ((((s.tl t).endScan false).wr d vd).wr e ve)).tl t).rs r =
      ((((s.tl t).endScan false).wr d vd).wr e ve).rs r := by
    rw [hu]; exact fun r => Tile.rs_congr rfl r
  have hv : ((((s.tl t).endScan false).wr d vd).wr e ve).v = (s.tl t).v := by
    rw [Tile.wr_of_ne _ _ he, Tile.wr_of_ne _ _ hd]; rfl
  refine ⟨?_, ?_, rfl, fun r hr hr' => ?_, by rw [hu, ← hv]⟩
  · rw [hrs, Tile.rs_wr_ne _ _ hde, Tile.rs_wr_self _ _ hd]
  · rw [hrs, Tile.rs_wr_self _ _ he]
  · rw [hrs, Tile.rs_wr_ne _ _ hr', Tile.rs_wr_ne _ _ hr]
    exact Tile.rs_congr rfl r

section Extreme
variable {s : State} {t : Fin 512} {f : VA} {isMax : Bool} (h : s.tileReady t [f.vd, f.b])
  (hc : (f.u && etCplx f.ty.toNat) = false) (hl : vaLegal ⟨tyAll, false, true, false⟩ f none false (s.tl t) = true)
  (hde : f.vd ≠ f.b) (hd : f.vd ≠ 0) (he : f.b ≠ 0)
include h hc hl hde hd he

/-- A search over at least one element leaves the first of the best and its index. -/
theorem opSearch_holds_best {key : Int → Int} (hb : ∀ v w, searchBetter isMax v w = decide (key w < key v))
    (hlt : (s.tl t).vstart.toNat < (s.tl t).vl.toNat) :
    ∃ i, FirstBest ((s.tl t).searchVal f) key (s.tl t).range i ∧ ∃ u, opSearch s t f isMax = .next u ∧
      s.Holds t f.vd f.b (BitVec.ofInt 64 ((s.tl t).searchVal f i)) (w64 i) u := by
  obtain ⟨i, hi, hbest⟩ := Tile.search_of_some hlt hb
  exact ⟨i, hbest, _, opSearch_of_apart h hc hl (.inl hde) hi, retire_search_holds s t hde hd he _ _⟩

/-- A search over no element leaves its identity and all ones. -/
theorem opSearch_holds_identity (hn : (s.tl t).vl.toNat ≤ (s.tl t).vstart.toNat) :
    ∃ u, opSearch s t f isMax = .next u ∧
      s.Holds t f.vd f.b (BitVec.ofInt 64 (searchIdentity f isMax)) (w64 (2 ^ 64 - 1)) u :=
  ⟨_, opSearch_of_apart_none h hc hl (.inl hde) hn, retire_search_holds s t hde hd he _ _⟩

end Extreme

theorem searchIdentity_max {f : VA} (hty : f.ty.toNat ≤ 5) : BitVec.ofInt 64 (searchIdentity f true) =
    if 4 ≤ f.ty.toNat then 0 else if f.u then 0 else BitVec.ofInt 64 (-(2 ^ (etW f.ty.toNat - 1) : Nat)) := by
  simp only [searchIdentity, etCplx_eq hty, decide_eq_true_eq]
  split
  · rfl
  · split <;> rfl

theorem searchIdentity_min {f : VA} (hty : f.ty.toNat ≤ 5) : BitVec.ofInt 64 (searchIdentity f false) =
    if 4 ≤ f.ty.toNat then 0xFFFFFFFFFFFFFFFF
    else if f.u then w64 (2 ^ etW f.ty.toNat - 1) else w64 (2 ^ (etW f.ty.toNat - 1) - 1) := by
  simp only [searchIdentity, etCplx_eq hty, decide_eq_true_eq]
  split
  · rfl
  · split
    · exact BitVec.ofInt_natCast 64 _
    · exact BitVec.ofInt_natCast 64 _

/-- Settles O23: VMAXI keeps the first element of greatest value, VMINI that of the greatest negated value. -/
theorem searchExtreme : Obligations.SearchExtreme := by
  intro s t f h hde hd he hc hl x ty w val inside none_ gives
  have hty := ty_le_of_vaLegal rfl hl
  have hval : val = x.searchVal f := funext fun i => (x.searchVal_eq hty i).symm
  rw [hval]
  refine ⟨fun hlt => ?max, fun hlt => ?min, fun hn => ?maxNone, fun hn => ?minNone⟩
  case max =>
    obtain ⟨i, ⟨hi, hbest⟩, hgives⟩ := opSearch_holds_best h hc hl hde hd he (isMax := true) (key := id) (fun _ _ => rfl) hlt
    exact ⟨i, x.mem_range.mp hi, hgives, fun j hj => hbest j (x.mem_range.mpr hj)⟩
  case min =>
    obtain ⟨i, ⟨hi, hbest⟩, hgives⟩ := opSearch_holds_best h hc hl hde hd he (isMax := false) (key := Neg.neg)
      (fun v w => by simp [searchBetter]) hlt
    refine ⟨i, x.mem_range.mp hi, hgives, fun j hj => ?_⟩
    obtain ⟨hle, hfirst⟩ := hbest j (x.mem_range.mpr hj)
    exact ⟨neg_le_neg_iff.mp hle, fun heq => hfirst (by rw [heq])⟩
  case maxNone =>
    rw [← searchIdentity_max hty]
    exact opSearch_holds_identity h hc hl hde hd he hn
  case minNone =>
    rw [← searchIdentity_min hty]
    exact opSearch_holds_identity h hc hl hde hd he hn

end Sys2Proof.Machine
end

section
/-!
PROOFS. Exceptions, system instructions, hardware loops, control and status registers and vector length (R125, R128, R129, R149 to R151,
R157, R161, R162, R171 to R173), and with them the statements O18 and O25.
-/
namespace Sys2Proof.Machine

/-! PXS_STATUS (R128) -/

/-- The flags of PXS_STATUS are the bits it was made of. -/
theorem mkStatus_bits (ie pie lpen plpen inh : Bool) :
    let v := (mkStatus ie pie lpen plpen inh).toNat
    (v / stIE % 2 == 1) = ie ∧ (v / stPIE % 2 == 1) = pie ∧ (v / stLPEN % 2 == 1) = lpen ∧ (v / stPLPEN % 2 == 1) = plpen ∧
      (v / stINH % 2 == 1) = inh := by
  revert ie pie lpen plpen inh
  decide

/-! Exceptions (R157, R161) -/

section Exceptions
variable {s : State} {t : Nat} {x : Tile}

@[simp] theorem raiseExc_mem (code eval : Nat) (vs : Option Nat) : (raiseExc s t x code eval vs).mem = s.mem := by
  rw [raiseExc]
  split <;> rfl

/-- What entering the handler makes of the tile: the cause and the PC are kept, loop ends and interrupts are off. -/
def Tile.handles (x y : Tile) (code : Nat) : Prop :=
  y.cause = w64 code ∧ y.epc = x.pc ∧ y.pc = x.tvec ∧ y.inh = true ∧ y.stBit stPIE = x.stBit stIE ∧
    y.stBit stPLPEN = x.stBit stLPEN ∧ y.stBit stIE = false ∧ y.stBit stLPEN = false ∧ y.s = x.s

/-- Outside its handler a tile with an exception enters it. -/
theorem raiseExc_handles (h : x.inh = false) (code eval : Nat) (vs : Option Nat) :
    x.handles ((raiseExc s t x code eval vs).tl t) code := by
  obtain ⟨hie, hpie, hlpen, hplpen, hinh⟩ := mkStatus_bits false (x.stBit stIE) false (x.stBit stLPEN) true
  rw [raiseExc, if_neg (by simp [h]), State.tl_setTl_self]
  exact ⟨rfl, rfl, rfl, hinh, hpie, hplpen, hie, hlpen, rfl⟩

/-- In its handler a tile with an exception stops (R161). -/
theorem raiseExc_traps (h : x.inh = true) (code eval : Nat) (vs : Option Nat) :
    (raiseExc s t x code eval vs).tl t = { x with st := .trapped, resumed := false } := by
  rw [raiseExc, if_pos h, State.tl_setTl_self]

end Exceptions

/-! System instructions (R125, R157, R161, R162) -/

section System
variable {s : State} {t : Fin 512} (h : s.tileReady t [])
include h

theorem execFence_of_ready : execFence t 0 0 0 s = .next (retire s t (s.tl t)) := by
  rw [execFence, stepTile_ready h (by decide)]

theorem execBrk_of_ready : execBrk t 0 0 0 s = .next (raiseExc s t (s.tl t) cBreak 0 none) := by
  rw [execBrk, stepTile_ready h (by decide)]

/-- ERET ends its pass under the loop enable that it restores. -/
theorem execEret_of_ready (hinh : (s.tl t).inh = true) :
    let x := s.tl t
    let y := loopEnd { x with status := mkStatus (x.stBit stPIE) (x.stBit stPIE) (x.stBit stPLPEN) (x.stBit stPLPEN) false } x.epc
    execEret t 0 0 0 s = .next ((s.setTl t { y with resumed := y.pc == x.epc }).inc64 (Key.pxRetired t) 1) := by
  rw [execEret, stepTile_ready h (by simp [hinh])]

end System

/-- Settles O25: FENCE retires, ERET restores, BREAK enters the handler or, in it, stops the tile. -/
theorem systemInstructions : Obligations.SystemInstructions := by
  intro s t h x st y
  refine ⟨execFence_of_ready h, execEret_of_ready h, fun _ hpl => ?eretLeaves, fun hinh => ?brk, fun hinh => ?brkTraps⟩
  case eretLeaves =>
    obtain ⟨-, -, hlpen, -, -⟩ := mkStatus_bits (x.stBit stPIE) (x.stBit stPIE) (x.stBit stPLPEN) (x.stBit stPLPEN) false
    have hy : y = { x with status := st, pc := x.epc } := loopEnd_of_disabled (x := { x with status := st }) (hlpen.trans hpl) x.epc
    rw [hy]
    exact ⟨rfl, rfl, rfl, rfl⟩
  case brk =>
    obtain ⟨hcause, hepc, hpc, hinh', hpie, hplpen, hie, hlpen, hs⟩ := raiseExc_handles (s := s) (t := t) hinh cBreak 0 none
    exact ⟨_, execBrk_of_ready h, hcause, hepc, hpc, hinh', hpie, hplpen, hie, hlpen, hs, raiseExc_mem _ _ _⟩
  case brkTraps =>
    refine ⟨_, execBrk_of_ready h, ?_, ?_, ?_, ?_, raiseExc_mem _ _ _⟩ <;> rw [raiseExc_traps hinh]

/-! Hardware loops (R149 to R151, R171) -/

section Loops
variable {s : State} {t : Fin 512} {ra : Reg} {fin : BitVec 16}

/-- The address of a loop's last instruction. -/
abbrev Tile.loopLast (x : Tile) (fin : BitVec 16) : BitVec 32 := x.pc + BitVec.ofNat 32 (4 * fin.toNat)

/-- A body at level 1 lies outside a live level 0 or within its body (R149). -/
def Tile.nests (x : Tile) (fin : BitVec 16) : Prop :=
  x.lc0 = 0 ∨ (x.lb0.toNat ≤ (x.pc + 4).toNat ∧ (x.loopLast fin).toNat ≤ x.le0.toNat)

/-- PXS_STATUS with loop ends enabled. -/
abbrev Tile.loopStatus (x : Tile) : Byte :=
  mkStatus (x.stBit stIE) (x.stBit stPIE) true (x.stBit stPLPEN) (x.stBit stINH)

/-- The tile with the count, begin and end of loop level 0 or level 1 set, and loop ends enabled. -/
def Tile.withLoop0 (x : Tile) (n : BitVec 32) (fin : BitVec 16) : Tile :=
  { x with lc0 := n, lb0 := x.pc + 4, le0 := x.loopLast fin, status := x.loopStatus }
def Tile.withLoop1 (x : Tile) (n : BitVec 32) (fin : BitVec 16) : Tile :=
  { x with lc1 := n, lb1 := x.pc + 4, le1 := x.loopLast fin, status := x.loopStatus }

variable (h : s.tileReady t [ra]) (hf : fin ≠ 0) {n : BitVec 32} (hn : ((s.tl t).rs ra).setWidth 32 = n)
include h hf

/-- A loop that nests wrongly raises LOOP. -/
theorem execLoop1_of_not_nests (hnest : ¬ (s.tl t).nests fin) :
    execLoop1 t ra 0 fin s = .next (raiseExc s t (s.tl t) cLoop 0 none) := by
  obtain ⟨hlc, hbody⟩ := not_or.mp hnest
  rw [execLoop1, opLoop, stepTile_ready h (by simpa using hf)]
  exact congrArg _ (if_pos ⟨rfl, hlc, hbody⟩)

include hn

/-- LOOP0 sets level 0; a zero count continues past the body. -/
theorem execLoop0_of_ready : execLoop0 t ra 0 fin s = .next (if n = 0 then
    retireTo s t ((s.tl t).withLoop0 n fin) ((s.tl t).loopLast fin + 4) else retire s t ((s.tl t).withLoop0 n fin)) := by
  subst hn
  rw [execLoop0, opLoop, stepTile_ready h (by simpa using hf)]
  exact congrArg _ (if_neg (fun hk => Nat.zero_ne_one hk.1))

/-- LOOP1 sets level 1 where it nests; a zero count continues past the body. -/
theorem execLoop1_of_nests (hnest : (s.tl t).nests fin) : execLoop1 t ra 0 fin s = .next (if n = 0 then
    retireTo s t ((s.tl t).withLoop1 n fin) ((s.tl t).loopLast fin + 4) else retire s t ((s.tl t).withLoop1 n fin)) := by
  subst hn
  rw [execLoop1, opLoop, stepTile_ready h (by simpa using hf)]
  exact congrArg _ (if_neg (fun hk => hnest.elim hk.2.1 hk.2.2))

end Loops

/-! Control and status registers (R128, R173) -/

/-- Whether a register is listed does not depend on the time of the read. -/
theorem Tile.csr_isSome (x : Tile) (t n : Nat) (raw raw' : U64) : (x.csr t n raw).isSome = (x.csr t n raw').isSome := by
  unfold Tile.csr
  split <;> rfl

/-- Whether a register can be written depends on its number alone. -/
theorem Tile.csrWrite_isSome (x y : Tile) (n : Nat) (v w : U64) : (x.csrWrite n v).isSome = (y.csrWrite n w).isSome := by
  simp only [Tile.csrWrite]
  split <;> rfl

section Csrs
variable {s : State} {t : Fin 512} {rd ra : Reg} {csr : BitVec 12}

theorem execCsrr_of_listed (h : s.tileReady t [rd]) {v : U64} (hv : (s.tl t).csr t csr.toNat s.raw = some v) :
    execCsrr t rd 0 csr s = .next (retire s t ((s.tl t).wr rd v)) := by
  have hlist : ((s.tl t).csr t csr.toNat 0).isSome = true := by rw [Tile.csr_isSome _ _ _ 0 s.raw, hv]; rfl
  rw [execCsrr, stepTile_ready h (by simpa using hlist), hv]
  rfl

/-- CSRW of a register that is no loop register. -/
theorem execCsrw_of_plain (h : s.tileReady t [ra]) (hloop : csrLoop csr.toNat = false) {y : Tile}
    (hy : (s.tl t).csrWrite csr.toNat ((s.tl t).rs ra) = some y) : execCsrw t 0 ra csr s = .next (retire s t y) := by
  have hlist : ((s.tl t).csrWrite csr.toNat 0).isSome = true := by
    rw [Tile.csrWrite_isSome _ (s.tl t) _ 0 ((s.tl t).rs ra), hy]; rfl
  rw [execCsrw, stepTile_ready h (by simpa using hlist)]
  simp [hloop, hy]

/-- CSRW of a loop register: the value goes there after the loop end of the CSRW. -/
theorem execCsrw_of_loop (h : s.tileReady t [ra]) (hloop : csrLoop csr.toNat = true) {x y : Tile} (hx : s.tl t = x)
    (hy : (loopEnd { x with resumed := false } (x.pc + 4)).csrWrite csr.toNat (x.rs ra) = some y) :
    execCsrw t 0 ra csr s = .next ((s.setTl t y).inc64 (Key.pxRetired t) 1) := by
  have hlist : ((s.tl t).csrWrite csr.toNat 0).isSome = true := by
    rw [Tile.csrWrite_isSome _ (loopEnd { x with resumed := false } (x.pc + 4)) _ 0 (x.rs ra), hy]; rfl
  rw [execCsrw, stepTile_ready h (by simpa using hlist)]
  simp only [hx, hloop, if_true, hy, Option.getD_some]

end Csrs

/-! Vector length (R129, R172) -/

theorem execVsetvl_of_ok {s : State} {t : Fin 512} {rd ra : Reg} {vt : BitVec 6} (h : s.tileReady t [rd, ra])
    (hvt : vtypeOk vt.toNat = true) : execVsetvl t rd ra 0 0 vt s = .next (retire s t (setVl (s.tl t) rd ra vt.toNat)) := by
  rw [execVsetvl, stepTile_ready h (by simp [hvt])]

theorem execVsetvlr_of_ok {s : State} {t : Fin 512} {rd ra rb : Reg} (h : s.tileReady t [rd, ra, rb])
    (hvt : vtypeOk (((s.tl t).rs rb).toNat % 256) = true) :
    execVsetvlr t rd ra rb 0 0 s = .next (retire s t (setVl (s.tl t) rd ra (((s.tl t).rs rb).toNat % 256))) := by
  rw [execVsetvlr, stepTile_ready h (by simp [hvt])]

/-- VLMAX is at most 2,048, so PXS_VL holds any length. -/
theorem vlMax_le (vt : Nat) : vlMax vt ≤ 2048 := by
  have hg : vt / 16 % 4 ≤ 3 := by omega
  calc vlMax vt ≤ vlb * 2 ^ (vt / 16 % 4) := Nat.div_le_self _ _
    _ ≤ vlb * 2 ^ 3 := Nat.mul_le_mul_left _ (Nat.pow_le_pow_right Nat.two_pos hg)
    _ = 2048 := rfl

theorem setVl_vl (x : Tile) (rd ra : Reg) (vt : Nat) : (setVl x rd ra vt).vl.toNat = min (x.rs ra).toNat (vlMax vt) := by
  have hlt : min (x.rs ra).toNat (vlMax vt) < 2 ^ 16 := lt_of_le_of_lt (min_le_right _ _) (by have := vlMax_le vt; omega)
  rw [setVl]
  obtain ⟨sf, hw⟩ := Tile.wr_eq { x with vtype := BitVec.ofNat 8 vt, vl := BitVec.ofNat 16 (min (x.rs ra).toNat (vlMax vt)) } rd
    (w64 (min (x.rs ra).toNat (vlMax vt)))
  simp only [hw, BitVec.toNat_ofNat, Nat.mod_eq_of_lt hlt]

/-- Settles O18: a loop sets its level where it nests, a listed register is read and written, and the length is the lesser of what is
asked and VLMAX. -/
theorem loopsCsrsVectorLength : Obligations.LoopsCsrsVectorLength := by
  intro s t rd ra rb fin csr vt v y x le st n nests
  refine ⟨fun h hf hn => ?loop0, fun h hf hn hnest => ?loop1, fun h hf hnest => ?notNests, fun h hf hn => ?loop0Zero,
    fun h hf hn hnest => ?loop1Zero, fun h hv => ?csrr, fun h hloop hy => ?csrw, fun h hloop hy => ?csrwLoop, fun h hvt => ?vsetvl,
    fun h hvt => ?vsetvlr, setVl_vl x rd ra vt.toNat⟩
  case loop0 => rw [exec_loop0, execLoop0_of_ready h hf rfl, if_neg hn]; rfl
  case loop1 => rw [exec_loop1, execLoop1_of_nests h hf rfl hnest, if_neg hn]; rfl
  case notNests => rw [exec_loop1, execLoop1_of_not_nests h hf hnest]
  case loop0Zero => rw [exec_loop0, execLoop0_of_ready h hf hn, if_pos rfl]; rfl
  case loop1Zero => rw [exec_loop1, execLoop1_of_nests h hf hn hnest, if_pos rfl]; rfl
  case csrr => rw [exec_csrr, execCsrr_of_listed h hv]
  case csrw => rw [exec_csrw, execCsrw_of_plain h hloop hy]
  case csrwLoop => rw [exec_csrw, execCsrw_of_loop h hloop rfl hy]
  case vsetvl => rw [exec_vsetvl, execVsetvl_of_ok h hvt]
  case vsetvlr => rw [exec_vsetvlr, execVsetvlr_of_ok h hvt]

end Sys2Proof.Machine
end

section
/-!
PROOFS. Scalar loads and stores, and what a tile refuses (R121, R122, R142, R143, R154, R157, R165, R169, R225, R391): an access within the
tile's memories or its pack's control page, memory without errors, and with them the statements O14, O15 and O16.
-/
namespace Sys2Proof.Machine

/-! Memory without errors (R388, R399) -/

section Clean
variable {s : State} (h : s.clean)
include h

theorem State.flushOver_of_clean (r a n : Nat) : s.flushOver r a n = s := by
  obtain ⟨-, -, hm⟩ := h
  rw [State.flushOver, hm]
  rfl

theorem State.readTouch_of_clean (a n : Nat) : s.readTouch a n = s := by
  obtain ⟨hf, -, -⟩ := h
  have hw : ∀ w, s.freshWord w = false := fun w => by simp [State.freshWord, hf, tget]
  rw [State.readTouch]
  exact List.foldl_fixed' (fun w => if_neg (by simp [hw w])) _

theorem State.poisonAt_of_clean (a d n : Nat) : s.poisonAt a d n = none := by
  obtain ⟨-, hp, -⟩ := h
  have hnone : s.firstPoison d n = none := List.find?_eq_none.mpr fun b _ => by simp [State.poisoned, hp, tget]
  rw [State.poisonAt, hnone]
  rfl

theorem State.tileRead_of_clean (t d n : Nat) : s.tileRead t d n = (s, s.bytes d n, s.anyPoison d n) := by
  rw [State.tileRead, s.flushOver_of_clean h, s.readTouch_of_clean h]

end Clean
/-! Addresses of a tile (R121, R225) -/

/-- The tile's memories end below the control page. -/
theorem inCtlPage_of_tileDev {t a n d : Nat} (hn : 0 < n) (h : tileDev t a n = some d) : inCtlPage a = false := by
  have ha : a < 0x8000000 := by
    unfold tileDev at h
    split at h
    · omega
    · split at h
      · omega
      · split at h
        · omega
        · cases h
  simp [inCtlPage, Nat.not_le.mpr ha]

theorem lt_of_inCtlPage {a : Nat} (h : inCtlPage a = true) : a < 2 ^ 32 := by
  simp only [inCtlPage, Bool.and_eq_true, decide_eq_true_eq] at h
  omega

/-- The address of a scalar access, the sum of its register and its immediate (R169). -/
abbrev Tile.addr (x : Tile) (ra : Reg) (imm : BitVec 16) : Nat := (x.rs ra + imm.signExtend 64).toNat

section Check
variable {x : Tile} {t i a n d : Nat} {store ctl : Bool}

theorem Tile.check_of_tileDev (hd : tileDev t a n = some d) (hw : x.firstWatched store a n = none) :
    x.check t store ctl i a n = none := by
  simp [Tile.check, hd, hw]

theorem Tile.check_of_ctlPage (hp : inCtlPage a = true) (ha : a % 8 = 0) (hw : x.firstWatched store a 8 = none) :
    x.check t store true i a 8 = none := by
  simp [Tile.check, hp, ha, hw]

theorem Tile.check_of_outside (hd : tileDev t a n = none) (hp : inCtlPage a = false) :
    x.check t store ctl i a n = some (if store then cAccessStore else cAccessLoad, firstOutside t a n) := by
  simp [Tile.check, hd, hp]

end Check

/-! Scalar accesses (R121, R169) -/

section Access
variable {s : State} {t : Fin 512} {uses : List Reg} {rd ra : Reg} {imm : BitVec 16} {store : Bool} {n d : Nat}
  {f : Tile → Nat → State} {ext : Nat → U64}

/-- An access that neither its address nor a watch stops is performed. -/
theorem scalarAccess_of_check (h : s.tileReady t uses) (hra : ((s.tl t).rs ra).toNat < 2 ^ 32) (ha : (s.tl t).addr ra imm < 2 ^ 32)
    (hc : (s.tl t).check t store true 0 ((s.tl t).addr ra imm) n = none) :
    scalarAccess s t uses ra imm store n f = .next (f (s.tl t) ((s.tl t).addr ra imm)) := by
  rw [scalarAccess, stepTile_ready h rfl, if_neg (not_or.mpr ⟨Nat.not_le.mpr hra, Nat.not_le.mpr ha⟩), hc]

/-- An access outside the tile's memories and its control page raises the access exception. -/
theorem scalarAccess_of_outside (h : s.tileReady t uses) (hd : tileDev t ((s.tl t).addr ra imm) n = none)
    (hp : inCtlPage ((s.tl t).addr ra imm) = false) : ∃ eval, scalarAccess s t uses ra imm store n f =
      .next (raiseExc s t (s.tl t) (if store then cAccessStore else cAccessLoad) eval (some 0)) := by
  rw [scalarAccess, stepTile_ready h rfl]
  dsimp only
  rw [Tile.check_of_outside hd hp]
  split
  · exact ⟨_, rfl⟩
  · exact ⟨_, rfl⟩

section Device
variable (h : s.tileReady t [rd, ra]) (hra : ((s.tl t).rs ra).toNat < 2 ^ 32) (ha : (s.tl t).addr ra imm < 2 ^ 32) (hn : 0 < n)
  (hd : tileDev t ((s.tl t).addr ra imm) n = some d)
include h hra ha hn hd

theorem opLoad_of_tileDev (hw : (s.tl t).firstWatched false ((s.tl t).addr ra imm) n = none) :
    opLoad s t rd ra imm n ext = .next (retire (s.tileRead t d n).1 t
      (((s.tl t).notePoison ((s.tileRead t d n).1.poisonAt ((s.tl t).addr ra imm) d n)).wr rd
        (ext (leNat (s.tileRead t d n).2.1)))) := by
  rw [opLoad, scalarAccess_of_check h hra ha (Tile.check_of_tileDev hd hw), inCtlPage_of_tileDev hn hd, hd]
  rfl

/-- From memory without errors a load changes its register alone. -/
theorem opLoad_of_clean (hw : (s.tl t).firstWatched false ((s.tl t).addr ra imm) n = none) (hc : s.clean) :
    opLoad s t rd ra imm n ext = .next (retire s t ((s.tl t).wr rd (ext (leNat (s.bytes d n))))) := by
  rw [opLoad_of_tileDev h hra ha hn hd hw, s.tileRead_of_clean hc, s.poisonAt_of_clean hc]
  rfl

theorem opStore_of_tileDev (hw : (s.tl t).firstWatched true ((s.tl t).addr ra imm) n = none) :
    opStore s t rd ra imm n = .next (retire ((s.flushOver (t.val / 64) d n).store d (leBytes n ((s.tl t).rs rd).toNat)) t
      (s.tl t)) := by
  rw [opStore, scalarAccess_of_check h hra ha (Tile.check_of_tileDev hd hw), inCtlPage_of_tileDev hn hd, hd]
  rfl

end Device

section ControlPage
variable (h : s.tileReady t [rd, ra]) (hra : ((s.tl t).rs ra).toNat < 2 ^ 32) (hp : inCtlPage ((s.tl t).addr ra imm) = true)
  (hal : (s.tl t).addr ra imm % 8 = 0)
include h hra hp hal

theorem opLoad_of_ctlPage (hw : (s.tl t).firstWatched false ((s.tl t).addr ra imm) 8 = none) :
    opLoad s t rd ra imm 8 ext =
      .next (retire s t ((s.tl t).wr rd (s.ctlRead (t.val / 64) ((s.tl t).addr ra imm - 0x8000000)))) := by
  rw [opLoad, scalarAccess_of_check h hra (lt_of_inCtlPage hp) (Tile.check_of_ctlPage hp hal hw), if_pos hp]

theorem opStore_of_ctlPage (hw : (s.tl t).firstWatched true ((s.tl t).addr ra imm) 8 = none) :
    opStore s t rd ra imm 8 = .next (retire
      { s.ctlWrite (t.val / 64) ((s.tl t).addr ra imm - 0x8000000) ((s.tl t).rs rd) with reply := s.reply } t (s.tl t)) := by
  rw [opStore, scalarAccess_of_check h hra (lt_of_inCtlPage hp) (Tile.check_of_ctlPage hp hal hw), if_pos hp]

end ControlPage
end Access

/-! Little-endian bytes and sign extension (R169) -/

theorem length_leBytes (n x : Nat) : (leBytes n x).length = n := by
  induction n generalizing x with
  | zero => rfl
  | succ n ih => rw [leBytes, List.length_cons, ih]

theorem sgn_eq_toInt {n : Nat} (hn : 0 < n) (v : Nat) : sgn n v = (BitVec.ofNat n v).toInt := by
  obtain ⟨m, rfl⟩ : ∃ m, n = m + 1 := ⟨n - 1, by omega⟩
  have hp : 2 ^ (m + 1) = 2 * 2 ^ m := by rw [Nat.pow_succ]; omega
  rw [sgn, BitVec.toInt_eq_toNat_cond, BitVec.toNat_ofNat, Nat.add_sub_cancel]
  rcases Nat.lt_or_ge (v % 2 ^ (m + 1)) (2 ^ m) with h | h
  · rw [if_pos h, if_pos (by omega)]
  · rw [if_neg (Nat.not_lt.mpr h), if_neg (by omega)]

theorem sextN_eq {n : Nat} (hn : 0 < n) : sextN n = fun v => (BitVec.ofNat n v).signExtend 64 := by
  funext v
  rw [sextN, sgn_eq_toInt hn]
  rfl

section Widths
variable {s : State} {t : Fin 512} {rd ra : Reg} {imm : BitVec 16} {n : Nat} {i : Instr} (h : s.tileReady t [rd, ra])
  (hra : ((s.tl t).rs ra).toNat < 2 ^ 32) (hn : 0 < n)
include h hra hn

/-- A load of n bytes within the tile's memories, from memory without errors and from any memory. -/
theorem load_spec {ext : Nat → U64} (hi : exec i s = opLoad s t rd ra imm n ext) (d : Nat)
    (ha : (s.tl t).addr ra imm < 2 ^ 32) (hd : tileDev t ((s.tl t).addr ra imm) n = some d)
    (hw : (s.tl t).firstWatched false ((s.tl t).addr ra imm) n = none) :
    (s.clean → exec i s = .next (retire s t ((s.tl t).wr rd (ext (leNat (s.bytes d n)))))) ∧
      exec i s = .next (retire (s.tileRead t d n).1 t
        (((s.tl t).notePoison ((s.tileRead t d n).1.poisonAt ((s.tl t).addr ra imm) d n)).wr rd
          (ext (leNat (s.tileRead t d n).2.1)))) :=
  ⟨fun hc => hi.trans (opLoad_of_clean h hra ha hn hd hw hc), hi.trans (opLoad_of_tileDev h hra ha hn hd hw)⟩

/-- A store of n bytes within the tile's memories: the merge entries over them are flushed, and no other byte changes. -/
theorem store_spec (hi : exec i s = opStore s t rd ra imm n) (d : Nat)
    (ha : (s.tl t).addr ra imm < 2 ^ 32) (hd : tileDev t ((s.tl t).addr ra imm) n = some d)
    (hw : (s.tl t).firstWatched true ((s.tl t).addr ra imm) n = none) :
    (s.clean → exec i s = .next (retire (s.store d (leBytes n ((s.tl t).rs rd).toNat)) t (s.tl t)) ∧
        (∀ b, (b < d ∨ d + n ≤ b) → (retire (s.store d (leBytes n ((s.tl t).rs rd).toNat)) t (s.tl t)).byte b = s.byte b)) ∧
      exec i s = .next (retire ((s.flushOver (t.val / 64) d n).store d (leBytes n ((s.tl t).rs rd).toNat)) t (s.tl t)) := by
  rw [hi, opStore_of_tileDev h hra ha hn hd hw]
  refine ⟨fun hc => ⟨by rw [s.flushOver_of_clean hc], fun b hb => ?_⟩, rfl⟩
  exact s.byte_store_out d b _ (by rw [length_leBytes]; exact hb)

end Widths

/-- Settles O14: each width reads its bytes and extends them; the control page answers with its word. -/
theorem scalarLoads : Obligations.ScalarLoads := by
  intro s t rd ra imm h hra
  refine ⟨load_spec h hra (by decide) (ext := fun v => (BitVec.ofNat 8 v).signExtend 64) ?ldB,
    load_spec h hra (by decide) (ext := fun v => (BitVec.ofNat 16 v).signExtend 64) ?ldH,
    load_spec h hra (by decide) (ext := fun v => (BitVec.ofNat 32 v).signExtend 64) ?ldW,
    load_spec h hra (by decide) (exec_ldD t rd ra imm s), load_spec h hra (by decide) (exec_ldBu t rd ra imm s),
    load_spec h hra (by decide) (exec_ldHu t rd ra imm s), load_spec h hra (by decide) (exec_ldWu t rd ra imm s),
    fun hp hal hw => ?page⟩
  case ldB => rw [exec_ldB, execLdB, sextN_eq (by decide)]
  case ldH => rw [exec_ldH, execLdH, sextN_eq (by decide)]
  case ldW => rw [exec_ldW, execLdW, sextN_eq (by decide)]
  case page => rw [exec_ldD, execLdD, opLoad_of_ctlPage h hra hp hal hw]

/-- Settles O15: each width flushes the merge entries over its bytes and stores them; the control page takes its word. -/
theorem scalarStores : Obligations.ScalarStores := by
  intro s t rd ra imm h hra
  refine ⟨store_spec h hra (by decide) (exec_stB t rd ra imm s), store_spec h hra (by decide) (exec_stH t rd ra imm s),
    store_spec h hra (by decide) (exec_stW t rd ra imm s), store_spec h hra (by decide) (exec_stD t rd ra imm s),
    fun hp hal hw => ?page⟩
  case page => rw [exec_stD, execStD, opStore_of_ctlPage h hra hp hal hw]

/-! What a tile refuses (R122, R154, R157, R165) -/

section Refusals
variable {s : State} {t : Nat} {uses : List Reg} {legal : Tile → Bool} {f : Tile → State}

theorem stepTile_of_not_running (h : (s.tl t).st ≠ .running) : stepTile s t uses legal f = .next s := if_pos (.inl h)

section Running
variable (hst : (s.tl t).st = .running) (hcl : s.tileClocked t = true)
include hst hcl

/-- A PC outside IM raises ACCESS_FETCH. -/
theorem stepTile_of_outside_im (hpc : 0x10000 ≤ (s.tl t).pc.toNat) :
    stepTile s t uses legal f = .next (raiseExc s t (s.tl t) cAccessFetch (s.tl t).pc.toNat none) := by
  rw [stepTile, if_neg (by simp [hst, hcl]), if_pos hpc]

/-- A register whose result is awaited stalls the tile. -/
theorem stepTile_of_awaits (hpc : (s.tl t).pc.toNat < 0x10000) {r : Reg} (hr : r ∈ uses) (ha : (s.tl t).awaits r = true) :
    stepTile s t uses legal f = .next (s.answer .stalled) := by
  have hany : uses.any (s.tl t).awaits = true := List.any_eq_true.mpr ⟨r, hr, ha⟩
  rw [stepTile, if_neg (by simp [hst, hcl]), if_neg (by omega), if_pos (.inl hany)]

end Running

/-- An instruction that raises an exception outside the handler enters it, memory as it was. -/
theorem enters_of_raiseExc {o : Out} {code eval : Nat} {vs : Option Nat} (hinh : (s.tl t).inh = false)
    (ho : o = .next (raiseExc s t (s.tl t) code eval vs)) :
    ∃ u, o = .next u ∧ (u.tl t).cause = w64 code ∧ (u.tl t).epc = (s.tl t).pc ∧ (u.tl t).pc = (s.tl t).tvec ∧
      (u.tl t).inh = true ∧ (u.tl t).s = (s.tl t).s ∧ u.mem = s.mem := by
  obtain ⟨hcause, hepc, hpc, hin, -, -, -, -, hs⟩ := raiseExc_handles (s := s) (t := t) hinh code eval vs
  exact ⟨_, ho, hcause, hepc, hpc, hin, hs, raiseExc_mem _ _ _⟩

theorem enters_of_illegal {o : Out} (hinh : (s.tl t).inh = false) (ho : o = .next (raiseExc s t (s.tl t) cIllegal 0 none)) :
    ∃ u, o = .next u ∧ (u.tl t).cause = w64 cIllegal ∧ (u.tl t).epc = (s.tl t).pc ∧ (u.tl t).pc = (s.tl t).tvec ∧
      (u.tl t).inh = true ∧ (u.tl t).s = (s.tl t).s ∧ u.mem = s.mem := enters_of_raiseExc hinh ho

end Refusals

/-- An immediate form with a reserved field raises ILLEGAL. -/
theorem opRI_of_illegal {s : State} {t : Fin 512} {rd ra : Reg} (h : s.tileReady t [rd, ra]) (op : U64 → U64) {legal : Bool}
    (hl : legal = false) : opRI s t rd ra legal op = .next (raiseExc s t (s.tl t) cIllegal 0 none) := by
  rw [opRI, stepTile_illegal h hl]

theorem shiftImmOk_of_ne {imm : BitVec 16} {code : Nat} (h : imm.toNat / 64 ≠ code) : shiftImmOk imm code = false :=
  beq_eq_false_iff_ne.mpr h

/-- Settles O16: what the tile refuses raises its exception, and outside the handler that enters it. -/
theorem tileRefusals : Obligations.TileRefusals := by
  intro s t rd ra rb imm f x a outside enters
  refine ⟨fun h ⟨hinh, _, hd, hp⟩ => ⟨?load, ?store⟩,
    fun h hinh => ⟨fun hk => ?slli, fun hk => ?srli, fun hk => ?srai, fun hk => ?lui⟩, fun h hinh hl => ?vmul,
    fun hst hcl hpc hinh => ?fetch, fun hst hcl hpc ha => ?stall, fun hst => ?still⟩
  case load =>
    obtain ⟨eval, he⟩ := scalarAccess_of_outside (store := false) h hd hp
    refine enters_of_raiseExc (code := cAccessLoad) (eval := eval) (vs := some 0) hinh ?_
    rw [exec_ldD, execLdD, opLoad, he, if_neg Bool.false_ne_true]
  case store =>
    obtain ⟨eval, he⟩ := scalarAccess_of_outside (store := true) h hd hp
    refine enters_of_raiseExc (code := cAccessStore) (eval := eval) (vs := some 0) hinh ?_
    rw [exec_stD, execStD, opStore, he, if_pos rfl]
  case slli =>
    refine enters_of_illegal hinh ?_
    rw [exec_slli, execSlli, opRI_of_illegal h _ (shiftImmOk_of_ne hk)]
  case srli =>
    refine enters_of_illegal hinh ?_
    rw [exec_srli, execSrli, opRI_of_illegal h _ (shiftImmOk_of_ne hk)]
  case srai =>
    refine enters_of_illegal hinh ?_
    rw [exec_srai, execSrai, opRI_of_illegal h _ (shiftImmOk_of_ne hk)]
  case lui =>
    refine enters_of_illegal hinh ?_
    rw [exec_lui, execLui, opRI_of_illegal h _ (beq_eq_false_iff_ne.mpr hk)]
  case vmul =>
    refine enters_of_illegal hinh ?_
    rw [exec_vmul, execVmul, opVA, stepTile_illegal h (by rw [hl]; rfl)]
  case fetch =>
    refine enters_of_raiseExc (code := cAccessFetch) (eval := x.pc.toNat) (vs := none) hinh ?_
    rw [exec_add, execAdd, opRR, stepTile_of_outside_im hst hcl hpc]
  case stall => rw [exec_add, execAdd, opRR, stepTile_of_awaits hst hcl hpc (List.mem_cons_of_mem _ List.mem_cons_self) ha]
  case still => rw [exec_add, execAdd, opRR, stepTile_of_not_running hst]

end Sys2Proof.Machine
end

section
/-!
PROOFS. Interrupts and run controls of a tile (R157 to R161, R164): the interrupt that a tile takes, what a write of RUN, HALT or NOTIFY
in its control word does, and with them the statement O27.
-/
namespace Sys2Proof.Machine

section Controls
variable {s : State} {t : Fin 512} {rq : Requester}

/-! Interrupts (R157 to R160) -/

theorem Tile.dueIrq_of_abort {x : Tile} (h : x.ipend.toNat % 2 = 1) : x.dueIrq = some cAbort := if_pos h

theorem Tile.dueIrq_of_notify {x : Tile} (h : x.ipend = 2) (hie : x.stBit stIE = true) : x.dueIrq = some cNotify := by
  rw [Tile.dueIrq, h, if_neg (by decide), if_pos ⟨by decide, hie⟩]

/-- The tile that has taken interrupt c: it runs at its handler, the PC and the cause kept, the interrupt no longer pending. -/
def Tile.interrupted (x : Tile) (c : Nat) : Tile :=
  { x with st := .running, stalledPost := none, ipend := x.ipend &&& (if c = cAbort then 0xFE else 0xFD),
           epc := x.pc, cause := w64 (2 ^ 63 + c), eval := 0 }.enter

theorem Tile.interrupted_inh (x : Tile) (c : Nat) : (x.interrupted c).inh = true := by
  obtain ⟨-, -, -, -, hinh⟩ := mkStatus_bits false (x.stBit stIE) false (x.stBit stLPEN) true
  exact hinh

theorem Tile.interrupted_ipend_abort (x : Tile) : (x.interrupted cAbort).ipend.toNat % 2 = 0 := by
  change (x.ipend &&& 0xFE).toNat % 2 = 0
  rw [BitVec.toNat_and, ← pow_one 2, Nat.and_mod_two_pow]
  exact Nat.and_zero _

theorem Tile.interrupted_ipend_notify {x : Tile} (h : x.ipend = 2) : (x.interrupted cNotify).ipend = 0 := by
  change x.ipend &&& 0xFD = 0
  rw [h]
  decide

theorem pxCtl_ne_pxExcCnt (t : Nat) : Key.pxCtl t ≠ Key.pxExcCnt t := by
  unfold Key.pxCtl Key.pxExcCnt
  omega

theorem pxPackCfg_ne_pxCtl (t : Fin 512) : Key.pxPackCfg (t.val / 64) ≠ Key.pxCtl t := by
  unfold Key.pxPackCfg Key.pxCtl
  omega

/-- A tile that runs, fetches or has a stalled POST takes the interrupt that is due; memory stays, and NOTIFY of its control word
clears with the interrupt. -/
theorem execInterruptEntry_of_due {c : Nat} (hst : (s.tl t).st = .running ∨ (s.tl t).st = .fetchWait ∨ (s.tl t).st = .postStall)
    (hc : (s.tl t).dueIrq = some c) : ∃ u, execInterruptEntry t s = .next u ∧ u.tl t = (s.tl t).interrupted c ∧ u.mem = s.mem ∧
      (c = cNotify → u.flag (Key.pxCtl t) 2 = false) := by
  simp only [execInterruptEntry, if_pos hst, hc]
  refine ⟨_, rfl, State.tl_setTl_self _ _ _, ?_, fun hn => ?_⟩
  · split <;> rfl
  · rw [if_pos hn]
    exact (congrArg (bit · 2) (State.ent_setFld_ne _ 31 0 _ (pxCtl_ne_pxExcCnt t))).trans (s.flag_setFlag_self _ 2 false (by decide))

/-! The control word (R159, R164) -/

/-- The control word as a requester writes it that sets bit i to b. -/
def State.ctlWord (s : State) (t i : Nat) (b : Bool) : U64 := setBit (setBit (s.ent (Key.pxCtl t)) 2 false) i b

theorem State.bit_ctlWord_self (s : State) (t : Nat) {i : Nat} (b : Bool) (hi : i < 64) : bit (s.ctlWord t i b) i = b :=
  bit_setBit_self _ i b hi

theorem State.bit_ctlWord_notify (s : State) (t : Nat) {i : Nat} (b : Bool) (hi : i < 64) (h2 : i ≠ 2) :
    bit (s.ctlWord t i b) 2 = false := by
  rw [State.ctlWord, bit_setBit_ne _ i 2 b hi h2.symm, bit_setBit_self _ 2 false (by decide)]

theorem State.bit_ctlWord_ne (s : State) (t : Nat) {i j : Nat} (b : Bool) (hi : i < 64) (hj : j ≠ i) (h2 : j ≠ 2) :
    bit (s.ctlWord t i b) j = s.flag (Key.pxCtl t) j := by
  rw [State.ctlWord, bit_setBit_ne _ i j b hi hj, bit_setBit_ne _ 2 j false (by decide) h2]
  rfl

theorem State.pxCtlBy_of_ok {i : Nat} {b : Bool} (h : s.checkWrite rq (Key.pxCtl t) (s.ctlWord t i b) = .ok) :
    s.pxCtlBy rq t i b = s.pxCtlWrite t (s.ctlWord t i b) := by
  change s.checkWrite rq (Key.pxCtl t) (setBit (setBit (s.ent (Key.pxCtl t)) 2 false) i b) = .ok at h
  simp only [State.pxCtlBy, h]
  rfl

/-- A control word without NOTIFY sets RUN and HALT. -/
theorem State.pxCtlWrite_of_quiet {v : U64} {run halt : Bool} (h0 : bit v 0 = run) (h1 : bit v 1 = halt) (h2 : bit v 2 = false) :
    s.pxCtlWrite t v = ((s.setRun t run).setHalt t halt).status .ok := by
  simp only [State.pxCtlWrite, h0, h1, h2]
  rfl

section RunAndHalt

/-- Whether a tile may run does not depend on its control word. -/
theorem State.mayRun_setFlag (k i : Nat) (b : Bool) (t : Nat) : (s.setFlag k i b).mayRun t = s.mayRun t := rfl

theorem State.setRun_of_start (hrun : s.flag (Key.pxCtl t) 0 = false) (hst : (s.tl t).st = .reset) (hmay : s.mayRun t = true) :
    s.setRun t true = (s.setFlag (Key.pxCtl t) 0 true).startTile t := by
  simp only [State.setRun, hrun, State.tl_setFlag, hst, State.mayRun_setFlag, hmay]
  rfl

theorem State.setRun_of_stop (hrun : s.flag (Key.pxCtl t) 0 = true) (hst : (s.tl t).st ≠ .trapped) :
    s.setRun t false = (s.setFlag (Key.pxCtl t) 0 false).resetTile t := by
  simp [State.setRun, hrun, hst]

theorem State.setRun_of_running (hrun : s.flag (Key.pxCtl t) 0 = true) : s.setRun t true = s.setFlag (Key.pxCtl t) 0 true := by
  simp [State.setRun, hrun]

/-- HALT changes nothing of a tile that stands already, or, clear, of one that is not halted. -/
theorem State.setHalt_of_settled {halt : Bool}
    (h1 : halt = true → (s.tl t).st = .reset ∨ (s.tl t).st = .trapped ∨ (s.tl t).st = .halted)
    (h0 : halt = false → (s.tl t).st ≠ .halted) : s.setHalt t halt = s.setFlag (Key.pxCtl t) 1 halt := by
  cases halt with
  | true => simp [State.setHalt, h1 rfl]
  | false => simp [State.setHalt, h0 rfl]

theorem State.setHalt_of_running (hst : (s.tl t).st = .running) : s.setHalt t true =
    (s.setFlag (Key.pxCtl t) 1 true).setTl t { s.tl t with st := .halted, haltedFrom := .running } := by
  simp [State.setHalt, hst]

theorem State.setHalt_of_halted (hst : (s.tl t).st = .halted) : s.setHalt t false =
    (s.setFlag (Key.pxCtl t) 1 false).setTl t { s.tl t with st := (s.tl t).haltedFrom } := by
  simp [State.setHalt, hst]

/-- A tile that has just left reset stands with HALT, and runs without. -/
theorem State.tl_startTile (s : State) (t : Nat) :
    ((s.startTile t).tl t).st = (if s.flag (Key.pxCtl t) 1 then .halted else .running) ∧
      ((s.startTile t).tl t).pc = BitVec.ofNat 32 (bf (s.ent (Key.pxPackCfg (t / 64))) 15 0) ∧ ((s.startTile t).tl t).s = [] := by
  rw [State.startTile, State.tl_setTl_self]
  exact ⟨rfl, rfl, rfl⟩

theorem State.tl_resetTile (s : State) (t : Nat) :
    ((s.resetTile t).tl t).st = .reset ∧ ((s.resetTile t).tl t).s = [] ∧ ((s.resetTile t).tl t).pc = 0 := by
  rw [State.resetTile, State.tl_setTl_self]
  exact ⟨rfl, rfl, rfl⟩

end RunAndHalt
/-! The commands of the control word (R159, R164) -/

section Commands

theorem execTileRun_of_start (hok : s.checkWrite rq (Key.pxCtl t) (s.ctlWord t 0 true) = .ok)
    (hrun : s.flag (Key.pxCtl t) 0 = false) (hst : (s.tl t).st = .reset) (hmay : s.mayRun t = true) :
    ∃ u, execTileRun rq t true s = .next u ∧ (u.tl t).st = (if s.flag (Key.pxCtl t) 1 then .halted else .running) ∧
      (u.tl t).pc = BitVec.ofNat 32 (bf (s.ent (Key.pxPackCfg (t.val / 64))) 15 0) ∧ (u.tl t).s = [] ∧ u.reply = .status .ok := by
  have hhalt : (s.setFlag (Key.pxCtl t) 0 true).flag (Key.pxCtl t) 1 = s.flag (Key.pxCtl t) 1 :=
    s.flag_setFlag_ne _ 0 1 true (by decide) (by decide)
  obtain ⟨hst', hpc, hs⟩ := (s.setFlag (Key.pxCtl t) 0 true).tl_startTile t
  rw [hhalt] at hst'
  rw [State.ent_setFlag_ne _ _ _ (pxPackCfg_ne_pxCtl t)] at hpc
  rw [execTileRun, State.pxCtlBy_of_ok hok, State.pxCtlWrite_of_quiet (s.bit_ctlWord_self t true (by decide))
    (s.bit_ctlWord_ne t true (by decide) (by decide) (by decide)) (s.bit_ctlWord_notify t true (by decide) (by decide)),
    State.setRun_of_start hrun hst hmay, State.setHalt_of_settled]
  · exact ⟨_, rfl, hst', hpc, hs, rfl⟩
  · intro h; rw [hst', h]; exact .inr (.inr rfl)
  · intro h; rw [hst', h]; decide

theorem execTileRun_of_stop (hok : s.checkWrite rq (Key.pxCtl t) (s.ctlWord t 0 false) = .ok)
    (hrun : s.flag (Key.pxCtl t) 0 = true) (hhalt : s.flag (Key.pxCtl t) 1 = false) (hst : (s.tl t).st ≠ .trapped) :
    ∃ u, execTileRun rq t false s = .next u ∧ (u.tl t).st = .reset ∧ (u.tl t).s = [] ∧ (u.tl t).pc = 0 ∧
      u.reply = .status .ok := by
  obtain ⟨hst', hs, hpc⟩ := (s.setFlag (Key.pxCtl t) 0 false).tl_resetTile t
  rw [execTileRun, State.pxCtlBy_of_ok hok, State.pxCtlWrite_of_quiet (s.bit_ctlWord_self t false (by decide))
    ((s.bit_ctlWord_ne t false (by decide) (by decide) (by decide)).trans hhalt)
    (s.bit_ctlWord_notify t false (by decide) (by decide)), State.setRun_of_stop hrun hst, State.setHalt_of_settled]
  · exact ⟨_, rfl, hst', hs, hpc, rfl⟩
  · exact fun h => absurd h Bool.false_ne_true
  · intro _; rw [hst']; decide

theorem execTileHalt_of_running (hok : s.checkWrite rq (Key.pxCtl t) (s.ctlWord t 1 true) = .ok)
    (hst : (s.tl t).st = .running) (hrun : s.flag (Key.pxCtl t) 0 = true) :
    ∃ u, execTileHalt rq t true s = .next u ∧ u.tl t = { s.tl t with st := .halted, haltedFrom := .running } := by
  rw [execTileHalt, State.pxCtlBy_of_ok hok, State.pxCtlWrite_of_quiet
    ((s.bit_ctlWord_ne t true (by decide) (by decide) (by decide)).trans hrun) (s.bit_ctlWord_self t true (by decide))
    (s.bit_ctlWord_notify t true (by decide) (by decide)), State.setRun_of_running hrun,
    State.setHalt_of_running (s := s.setFlag (Key.pxCtl t) 0 true) hst]
  exact ⟨_, rfl, State.tl_setTl_self _ _ _⟩

theorem execTileHalt_of_halted (hok : s.checkWrite rq (Key.pxCtl t) (s.ctlWord t 1 false) = .ok)
    (hst : (s.tl t).st = .halted) (hrun : s.flag (Key.pxCtl t) 0 = true) :
    ∃ u, execTileHalt rq t false s = .next u ∧ u.tl t = { s.tl t with st := (s.tl t).haltedFrom } := by
  rw [execTileHalt, State.pxCtlBy_of_ok hok, State.pxCtlWrite_of_quiet
    ((s.bit_ctlWord_ne t false (by decide) (by decide) (by decide)).trans hrun) (s.bit_ctlWord_self t false (by decide))
    (s.bit_ctlWord_notify t false (by decide) (by decide)), State.setRun_of_running hrun,
    State.setHalt_of_halted (s := s.setFlag (Key.pxCtl t) 0 true) hst]
  exact ⟨_, rfl, State.tl_setTl_self _ _ _⟩

theorem execTileNotify_of_running (hok : s.checkWrite rq (Key.pxCtl t) (s.ctlWord t 2 true) = .ok)
    (hst : (s.tl t).st = .running) (hrun : s.flag (Key.pxCtl t) 0 = true) (hhalt : s.flag (Key.pxCtl t) 1 = false) :
    ∃ u, execTileNotify rq t s = .next u ∧ u.tl t = { s.tl t with ipend := (s.tl t).ipend ||| 2 } ∧
      u.flag (Key.pxCtl t) 2 = true := by
  have h0 : bit (s.ctlWord t 2 true) 0 = true := (s.bit_ctlWord_ne t true (by decide) (by decide) (by decide)).trans hrun
  have h1 : bit (s.ctlWord t 2 true) 1 = false := (s.bit_ctlWord_ne t true (by decide) (by decide) (by decide)).trans hhalt
  have h2 : bit (s.ctlWord t 2 true) 2 = true := s.bit_ctlWord_self t true (by decide)
  rw [execTileNotify, State.pxCtlBy_of_ok hok, State.pxCtlWrite, h0, h1, h2, State.setRun_of_running hrun,
    State.setHalt_of_settled (fun h => absurd h Bool.false_ne_true) (fun _ => by rw [State.tl_setFlag, hst]; decide), if_pos rfl]
  exact ⟨_, rfl, State.tl_setTl_self _ _ _, State.flag_setFlag_self _ _ 2 true (by decide)⟩

end Commands
end Controls

/-- Settles O27: the interrupt that is due is taken, and each bit of the control word does its work. -/
theorem tileInterruptsControls : Obligations.TileInterruptsControls := by
  intro s t rq x k v takes
  refine ⟨fun hst hab => ?abort, fun hst hp hie => ?notify, fun hok hrun hst hmay => ?start, fun hok hrun hhalt hst => ?stop,
    fun hok hst hrun => ?halt, fun hok hst hrun => ?resume, fun hok hst hrun hhalt => ?pend⟩
  case abort =>
    obtain ⟨u, hu, htl, hmem, -⟩ := execInterruptEntry_of_due hst (Tile.dueIrq_of_abort hab)
    refine ⟨u, hu, ?_⟩
    rw [htl]
    exact ⟨rfl, rfl, rfl, rfl, rfl, Tile.interrupted_ipend_abort _, rfl, hmem⟩
  case notify =>
    obtain ⟨u, hu, htl, -, hflag⟩ := execInterruptEntry_of_due hst (Tile.dueIrq_of_notify hp hie)
    refine ⟨u, hu, ?_⟩
    rw [htl]
    exact ⟨rfl, rfl, rfl, rfl, Tile.interrupted_ipend_notify hp, Tile.interrupted_inh _ _, hflag rfl⟩
  case start => exact execTileRun_of_start hok hrun hst hmay
  case stop => exact execTileRun_of_stop hok hrun hhalt hst
  case halt =>
    obtain ⟨u, hu, htl⟩ := execTileHalt_of_running hok hst hrun
    exact ⟨u, hu, by rw [htl], by rw [htl], by rw [htl]⟩
  case resume =>
    obtain ⟨u, hu, htl⟩ := execTileHalt_of_halted hok hst hrun
    exact ⟨u, hu, by rw [htl], by rw [htl]⟩
  case pend =>
    obtain ⟨u, hu, htl, hflag⟩ := execTileNotify_of_running hok hst hrun hhalt
    exact ⟨u, hu, by rw [htl], by rw [htl], hflag⟩

end Sys2Proof.Machine
end

section
/-!
PROOFS. The words of the Psimir instructions (R165, R166 and the tables of 05_psimir_instructions.md): the fields that a word of each
format holds, what the decoder makes of a word of each format, and with them the statements O57 and O58.
-/
namespace Sys2Proof

/-! Fields of parts put together. The total width is left out of simp's index, so that the rules also meet it written as 32; they meet
the parts as long as simp does not add up the widths. -/

section Parts
variable {m n i len : Nat} {x : BitVec m} {y : BitVec n}

theorem extractLsb'_append_low (h : i + len ≤ n) :
    BitVec.extractLsb' (n := no_index (m + n)) i len (x ++ y) = y.extractLsb' i len :=
  BitVec.extractLsb'_append_eq_of_add_le h

theorem extractLsb'_append_high (h : n ≤ i) :
    BitVec.extractLsb' (n := no_index (m + n)) i len (x ++ y) = x.extractLsb' (i - n) len :=
  BitVec.extractLsb'_append_eq_of_le h

theorem getLsbD_append_low (h : i < n) : BitVec.getLsbD (w := no_index (m + n)) (x ++ y) i = y.getLsbD i := by
  rw [BitVec.getLsbD_append, if_pos h]

theorem getLsbD_append_high (h : n ≤ i) : BitVec.getLsbD (w := no_index (m + n)) (x ++ y) i = x.getLsbD (i - n) := by
  rw [BitVec.getLsbD_append, if_neg (Nat.not_lt.mpr h)]

end Parts

/-! A word's fields are those it was made of (R166) -/

section Fields
variable (op : BitVec 6) (rd ra rb : Reg)

theorem fields_wordRR (fn : BitVec 11) :
    let w := wordRR op rd ra rb fn
    wordField w 26 6 = op ∧ wordField w 21 5 = rd ∧ wordField w 16 5 = ra ∧ wordField w 11 5 = rb ∧ wordField w 0 11 = fn := by
  simp (disch := decide) [wordField, wordRR, extractLsb'_append_low, extractLsb'_append_high, -Nat.reduceAdd]

theorem fields_wordRI (imm : BitVec 16) :
    let w := wordRI op rd ra imm
    wordField w 26 6 = op ∧ wordField w 21 5 = rd ∧ wordField w 16 5 = ra ∧ wordField w 0 16 = imm ∧
      wordField w 6 2 = imm.extractLsb' 6 2 := by
  simp (disch := decide) [wordField, wordRI, extractLsb'_append_low, extractLsb'_append_high, -Nat.reduceAdd]

theorem fields_wordJP (off : BitVec 21) :
    let w := wordJP op rd off
    wordField w 26 6 = op ∧ wordField w 21 5 = rd ∧ wordField w 0 21 = off := by
  simp (disch := decide) [wordField, wordJP, extractLsb'_append_low, extractLsb'_append_high, -Nat.reduceAdd]

theorem fields_wordLP (k : BitVec 1) (rsv : BitVec 4) (fin : BitVec 16) :
    let w := wordLP op k ra rsv fin
    wordField w 26 6 = op ∧ w.getLsbD 25 = k.getLsbD 0 ∧ wordField w 20 5 = ra ∧ wordField w 16 4 = rsv ∧ wordField w 0 16 = fin := by
  simp (disch := decide) [wordField, wordLP, extractLsb'_append_low, extractLsb'_append_high, getLsbD_append_low,
    getLsbD_append_high, -Nat.reduceAdd, -BitVec.getLsbD_eq_getElem]

theorem fields_wordVS (vreg : BitVec 1) (rsv : BitVec 4) (vtype : BitVec 6) :
    let w := wordVS op rd ra rb vreg rsv vtype
    wordField w 26 6 = op ∧ wordField w 21 5 = rd ∧ wordField w 16 5 = ra ∧ wordField w 11 5 = rb ∧ w.getLsbD 10 = vreg.getLsbD 0 ∧
      wordField w 6 4 = rsv ∧ wordField w 0 6 = vtype := by
  simp (disch := decide) [wordField, wordVS, extractLsb'_append_low, extractLsb'_append_high, getLsbD_append_low,
    getLsbD_append_high, -Nat.reduceAdd, -BitVec.getLsbD_eq_getElem]

theorem fields_wordCS (fn : BitVec 4) (csr : BitVec 12) :
    let w := wordCS op rd ra fn csr
    wordField w 26 6 = op ∧ wordField w 21 5 = rd ∧ wordField w 16 5 = ra ∧ wordField w 12 4 = fn ∧ wordField w 0 12 = csr := by
  simp (disch := decide) [wordField, wordCS, extractLsb'_append_low, extractLsb'_append_high, -Nat.reduceAdd]

theorem fields_wordVA (f : VA) (fn : BitVec 5) :
    let w := wordVA op f fn
    wordField w 26 6 = op ∧ fieldsVA w = f ∧ wordField w 0 5 = fn := by
  simp (disch := decide) [wordField, fieldsVA, wordVA, extractLsb'_append_low, extractLsb'_append_high, getLsbD_append_low,
    getLsbD_append_high, -Nat.reduceAdd, -BitVec.getLsbD_eq_getElem]

theorem fields_wordVM (st : BitVec 1) (f : VM) :
    let w := wordVM op st f
    wordField w 26 6 = op ∧ w.getLsbD 10 = st.getLsbD 0 ∧ fieldsVM w = f := by
  simp (disch := decide) [wordField, fieldsVM, wordVM, extractLsb'_append_low, extractLsb'_append_high, getLsbD_append_low,
    getLsbD_append_high, -Nat.reduceAdd, -BitVec.getLsbD_eq_getElem]

end Fields

/-! The decoder reads a word of each format as its group's table says (R165) -/

section Decode
variable {t : Fin 512} {rd ra rb : Reg} {f : VA}

theorem decodePsimir_rr {fn : BitVec 11} {i : Fin 512 → Reg → Reg → Reg → Instr} (h : opRR fn = some i) :
    decodePsimir t (wordRR 0x01 rd ra rb fn) = some (i t rd ra rb) := by
  obtain ⟨hop, hrd, hra, hrb, hfn⟩ := fields_wordRR 0x01 rd ra rb fn
  rw [decodePsimir, hop, hrd, hra, hrb, hfn, h]
  rfl

theorem decodePsimir_sy {fn : BitVec 11} {i : Fin 512 → Reg → Reg → Reg → Instr} (h : opSY fn = some i) :
    decodePsimir t (wordRR 0x2C rd ra rb fn) = some (i t rd ra rb) := by
  obtain ⟨hop, hrd, hra, hrb, hfn⟩ := fields_wordRR 0x2C rd ra rb fn
  rw [decodePsimir, hop, hrd, hra, hrb, hfn, h]
  rfl

/-- The opcodes of the table of immediates, loads, stores, branches and JALR belong to no other group: only the decoder's last branch
is left. -/
theorem decodePsimir_ri {op : BitVec 6} {imm : BitVec 16} {i : Fin 512 → Reg → Reg → BitVec 16 → Instr} (h : opRI op = some i) :
    decodePsimir t (wordRI op rd ra imm) = some (i t rd ra imm) := by
  obtain ⟨hop, hrd, hra, himm, -⟩ := fields_wordRI op rd ra imm
  rw [decodePsimir, hop, hrd, hra, himm, h]
  split
  case h_12 => rfl
  all_goals simp_all [opRI]

theorem decodePsimir_shift {imm : BitVec 16} {code : BitVec 2} {i : Fin 512 → Reg → Reg → BitVec 16 → Instr}
    (h : opShift code = some i) (hc : shiftCode imm code = true) :
    decodePsimir t (wordRI 0x06 rd ra imm) = some (i t rd ra imm) := by
  obtain ⟨hop, hrd, hra, himm, hcode⟩ := fields_wordRI 0x06 rd ra imm
  rw [decodePsimir, hop, hrd, hra, himm, hcode, eq_of_beq hc, h]
  rfl

theorem decodePsimir_jal (off : BitVec 21) : decodePsimir t (wordJP 0x26 rd off) = some (.jal t rd off) := by
  obtain ⟨hop, hrd, hoff⟩ := fields_wordJP 0x26 rd off
  rw [decodePsimir, hop, hrd, hoff]
  rfl

theorem decodePsimir_loop (k : BitVec 1) (rsv : BitVec 4) (fin : BitVec 16) :
    decodePsimir t (wordLP 0x28 k ra rsv fin) = if k.getLsbD 0 then some (.loop1 t ra rsv fin) else some (.loop0 t ra rsv fin) := by
  obtain ⟨hop, hk, hra, hrsv, hfin⟩ := fields_wordLP 0x28 ra k rsv fin
  rw [decodePsimir, hop, hk, hra, hrsv, hfin]
  rfl

theorem decodePsimir_cs (fn : BitVec 4) (csr : BitVec 12) : decodePsimir t (wordCS 0x2D rd ra fn csr) =
    match fn.toNat with | 0 => some (.csrr t rd ra csr) | 1 => some (.csrw t rd ra csr) | _ => none := by
  obtain ⟨hop, hrd, hra, hfn, hcsr⟩ := fields_wordCS 0x2D rd ra fn csr
  rw [decodePsimir, hop, hrd, hra, hfn, hcsr]
  rfl

theorem decodePsimir_vs (vreg : BitVec 1) (rsv : BitVec 4) (vtype : BitVec 6) :
    decodePsimir t (wordVS 0x2E rd ra rb vreg rsv vtype) =
      if vreg.getLsbD 0 then some (.vsetvlr t rd ra rb rsv vtype) else some (.vsetvl t rd ra rb rsv vtype) := by
  obtain ⟨hop, hrd, hra, hrb, hvreg, hrsv, hvtype⟩ := fields_wordVS 0x2E rd ra rb vreg rsv vtype
  rw [decodePsimir, hop, hrd, hra, hrb, hvreg, hrsv, hvtype]
  rfl

theorem decodePsimir_mac {fn : BitVec 5} {i : Fin 512 → VA → Instr} (h : opMac fn = some i) :
    decodePsimir t (wordVA 0x30 f fn) = some (i t f) := by
  obtain ⟨hop, hf, hfn⟩ := fields_wordVA 0x30 f fn
  rw [decodePsimir, hop, hf, hfn, h]
  rfl

theorem decodePsimir_alu {fn : BitVec 5} {i : Fin 512 → VA → Instr} (h : opAlu fn = some i) :
    decodePsimir t (wordVA 0x31 f fn) = some (i t f) := by
  obtain ⟨hop, hf, hfn⟩ := fields_wordVA 0x31 f fn
  rw [decodePsimir, hop, hf, hfn, h]
  rfl

theorem decodePsimir_pru {fn : BitVec 5} {i : Fin 512 → VA → Instr} (h : opPru fn = some i) :
    decodePsimir t (wordVA 0x32 f fn) = some (i t f) := by
  obtain ⟨hop, hf, hfn⟩ := fields_wordVA 0x32 f fn
  rw [decodePsimir, hop, hf, hfn, h]
  rfl

theorem decodePsimir_vm (st : BitVec 1) (m : VM) :
    decodePsimir t (wordVM 0x34 st m) = if st.getLsbD 0 then some (.vst t m) else some (.vld t m) := by
  obtain ⟨hop, hst, hm⟩ := fields_wordVM 0x34 st m
  rw [decodePsimir, hop, hst, hm]
  rfl

end Decode

/-! Encodings -/

/-- An instruction has one encoding, so it is enough that that one decodes to it. -/
theorem decodePsimir_of_encode {i : Instr} {t t' : Fin 512} {w w' : BitVec 32} (h : encodePsimir i = some (t, w))
    (hi : encodePsimir i = some (t', w')) (hd : decodePsimir t' w' = some i) : decodePsimir t w = some i := by
  obtain ⟨rfl, rfl⟩ := Prod.mk.inj (Option.some.inj (hi.symm.trans h))
  exact hd

/-- Settles O57: each group's instructions are encoded in one format, whose words the decoder reads by that group's table. -/
theorem psimirRoundTrip : Obligations.PsimirRoundTrip := by
  intro i t w hwf h
  cases i
  case add | sub | andR | orR | xorR | sll | srl | sra | slt | sltu | mul | mulh | min | max =>
    exact decodePsimir_of_encode h rfl (decodePsimir_rr rfl)
  case addi | andi | ori | xori | lui | slti | sltiu | ldB | ldH | ldW | ldD | ldBu | ldHu | ldWu | stB | stH | stW | stD | jalr
      | beq | bne | blt | bge | bltu | bgeu =>
    exact decodePsimir_of_encode h rfl (decodePsimir_ri rfl)
  case slli | srli | srai =>
    exact decodePsimir_of_encode h rfl (decodePsimir_shift rfl hwf)
  case jal =>
    exact decodePsimir_of_encode h rfl (decodePsimir_jal _)
  case loop0 | loop1 =>
    exact decodePsimir_of_encode h rfl (decodePsimir_loop _ _ _)
  case fetch | postD | postT | done | fence | eret | brk =>
    exact decodePsimir_of_encode h rfl (decodePsimir_sy rfl)
  case csrr | csrw =>
    exact decodePsimir_of_encode h rfl (decodePsimir_cs _ _)
  case vsetvl | vsetvlr =>
    exact decodePsimir_of_encode h rfl (decodePsimir_vs _ _ _)
  case vmul | vmulq | vmac | vmacw | vcmul | vcmacw | vcmacjw | vcmac =>
    exact decodePsimir_of_encode h rfl (decodePsimir_mac rfl)
  case vadd | vsub | vand | vor | vxor | vbsl | vshl | vshr | vnshr | vmax | vmin | vcmpeq | vcmplt | vcmple | vconj | vneg
      | vcvtw | vcvtn | vmov =>
    exact decodePsimir_of_encode h rfl (decodePsimir_alu rfl)
  case vslidedn | vslideup | vperm | vzip | vunzip | vredsum | vmaxi | vmini =>
    exact decodePsimir_of_encode h rfl (decodePsimir_pru rfl)
  case vld | vst =>
    exact decodePsimir_of_encode h rfl (decodePsimir_vm _ _)
  all_goals cases h

/-- Settles O58: each word of the table is the encoding of its instruction; the two reserved ones have an opcode and a function code
of no instruction. -/
theorem psimirWords : Obligations.PsimirWords := by
  intro t
  refine ⟨?_, ?_, ?_, ?_, ?_, ?_, ?_, ?_, ?_, ?_, ?_, ?_, ?_, rfl, rfl⟩
  all_goals exact psimirRoundTrip _ t _ rfl rfl

end Sys2Proof
end

section
/-!
PROOFS. Scalar register operations, immediates, branches and jumps (R169, R170), and with them the statements O11 and O17.
-/
namespace Sys2Proof.Machine

/-! Words as numbers -/

/-- The high half of the signed product: floor division of the exact product by 2^64. -/
theorem ofInt_mul_div_eq (a b : U64) :
    BitVec.ofInt 64 (a.toInt * b.toInt / (2 ^ 64 : Nat)) = (a.signExtend 128 * b.signExtend 128).extractLsb' 64 64 := by
  have hp : a.signExtend 128 * b.signExtend 128 = BitVec.ofInt 128 (a.toInt * b.toInt) := (BitVec.ofInt_mul _ _).symm
  rw [hp]
  apply BitVec.eq_of_toNat_eq
  rw [BitVec.extractLsb'_toNat, BitVec.toNat_ofInt, BitVec.toNat_ofInt, Nat.shiftRight_eq_div_pow]
  generalize a.toInt * b.toInt = z
  omega

section Order
variable {α : Type} {n : Nat} (a b : BitVec n) (x y : α)

theorem ite_toInt_lt : (if a.toInt < b.toInt then x else y) = if BitVec.slt a b then x else y := by
  simp only [BitVec.slt_iff_toInt_lt]

theorem ite_toNat_lt : (if a.toNat < b.toNat then x else y) = if BitVec.ult a b then x else y := by
  simp only [BitVec.ult_iff_toNat_lt]

end Order

/-- A branch's target: OFF counts words. -/
theorem branchTo_eq {n : Nat} (x : Tile) (off : BitVec n) : branchTo x off.toInt = x.pc + off.signExtend 32 * 4 := by
  rw [branchTo, Int.mul_comm, BitVec.ofInt_mul]
  rfl

section Ready
variable {s : State} {t : Fin 512} {rd ra rb : Reg}

theorem opRR_of_ready (h : s.tileReady t [rd, ra, rb]) (op : U64 → U64 → U64) :
    opRR s t rd ra rb op = .next (retire s t ((s.tl t).wr rd (op ((s.tl t).rs ra) ((s.tl t).rs rb)))) :=
  stepTile_ready h rfl

theorem opRI_of_ready (h : s.tileReady t [rd, ra]) (op : U64 → U64) {legal : Bool} (hl : legal = true) :
    opRI s t rd ra legal op = .next (retire s t ((s.tl t).wr rd (op ((s.tl t).rs ra)))) :=
  stepTile_ready h hl

theorem opBR_of_ready (h : s.tileReady t [ra, rb]) (off : BitVec 16) (c : U64 → U64 → Bool) :
    opBR s t ra rb off c = .next (if c ((s.tl t).rs ra) ((s.tl t).rs rb) then
      retireTo s t (s.tl t) ((s.tl t).pc + off.signExtend 32 * 4) else retire s t (s.tl t)) := by
  rw [opBR, stepTile_ready h rfl, branchTo_eq]

end Ready

theorem shiftImmOk_of_eq {imm : BitVec 16} {code : Nat} (h : imm.toNat / 64 = code) : shiftImmOk imm code = true :=
  beq_iff_eq.mpr h

/-- Settles O11: each form is its table row's operation on a ready tile; orders and MULH go by the numbers that the words stand for. -/
theorem scalarResults : Obligations.ScalarResults := by
  intro s t rd ra rb imm x a b done
  refine ⟨fun h => ⟨?add, ?sub, ?andR, ?orR, ?xorR, ?sll, ?srl, ?sra, ?slt, ?sltu, ?mul, ?mulh, ?min, ?max⟩,
    fun h => ⟨?addi, ?andi, ?ori, ?xori, fun hc => ?slli, fun hc => ?srli, fun hc => ?srai, fun hc => ?lui, ?slti, ?sltiu⟩⟩
  case add => rw [exec_add, execAdd, opRR_of_ready h]
  case sub => rw [exec_sub, execSub, opRR_of_ready h]
  case andR => rw [exec_andR, execAnd, opRR_of_ready h]
  case orR => rw [exec_orR, execOr, opRR_of_ready h]
  case xorR => rw [exec_xorR, execXor, opRR_of_ready h]
  case sll => rw [exec_sll, execSll, opRR_of_ready h]
  case srl => rw [exec_srl, execSrl, opRR_of_ready h]
  case sra => rw [exec_sra, execSra, opRR_of_ready h]
  case slt => rw [exec_slt, execSlt, opRR_of_ready h, ite_toInt_lt]
  case sltu => rw [exec_sltu, execSltu, opRR_of_ready h, ite_toNat_lt]
  case mul => rw [exec_mul, execMul, opRR_of_ready h]
  case mulh => rw [exec_mulh, execMulh, opRR_of_ready h, ofInt_mul_div_eq]
  case min => rw [exec_min, execMin, opRR_of_ready h, ite_toInt_lt]
  case max => rw [exec_max, execMax, opRR_of_ready h, ite_toInt_lt]
  case addi => rw [exec_addi, execAddi, opRI_of_ready h _ rfl, sext16]
  case andi => rw [exec_andi, execAndi, opRI_of_ready h _ rfl, zext16]
  case ori => rw [exec_ori, execOri, opRI_of_ready h _ rfl, zext16]
  case xori => rw [exec_xori, execXori, opRI_of_ready h _ rfl, zext16]
  case slli => rw [exec_slli, execSlli, opRI_of_ready h _ (shiftImmOk_of_eq hc)]
  case srli => rw [exec_srli, execSrli, opRI_of_ready h _ (shiftImmOk_of_eq hc)]
  case srai => rw [exec_srai, execSrai, opRI_of_ready h _ (shiftImmOk_of_eq hc)]
  case lui => rw [exec_lui, execLui, opRI_of_ready h _ (beq_iff_eq.mpr hc), w64]
  case slti => rw [exec_slti, execSlti, opRI_of_ready h _ rfl, ite_toInt_lt, sext16]
  case sltiu => rw [exec_sltiu, execSltiu, opRI_of_ready h _ rfl, ite_toNat_lt, sext16]

/-- Settles O17: a branch chooses between its target and the next instruction; JAL and JALR link, and go on at their target. -/
theorem branchesAndJumps : Obligations.BranchesAndJumps := by
  intro s t rd ra rb off imm joff x a b dest br
  refine ⟨fun h => ⟨?beq, ?bne, ?blt, ?bge, ?bltu, ?bgeu⟩, fun h => ?jal, fun h => ?jalr⟩
  case beq => exact (exec_beq t ra rb off s).trans (opBR_of_ready h _ _)
  case bne => exact (exec_bne t ra rb off s).trans (opBR_of_ready h _ _)
  case blt => exact (exec_blt t ra rb off s).trans (opBR_of_ready h _ _)
  case bge => exact (exec_bge t ra rb off s).trans (opBR_of_ready h _ _)
  case bltu => exact (exec_bltu t ra rb off s).trans (opBR_of_ready h _ _)
  case bgeu => exact (exec_bgeu t ra rb off s).trans (opBR_of_ready h _ _)
  case jal => rw [exec_jal, execJal, stepTile_ready h rfl, branchTo_eq, linkOf, w64]
  case jalr => rw [exec_jalr, execJalr, stepTile_ready h rfl, linkOf, sext16, w64]

end Sys2Proof.Machine
end

section
/-!
PROOFS. The vector ALU forms (table ALU group, R168, R176), and with them the statement O21.
-/
namespace Sys2Proof.Machine

theorem bZero_of_eq {f : VA} (h : f.b = 0) (x : Tile) : bZero f x = true := beq_iff_eq.mpr h

/-- Settles O21: each form is its table row's operation on components or on bits, run by a ready tile whose fields the row allows. -/
theorem vectorAlu : Obligations.VectorAlu := by
  intro s t f hready x ty w ok comp bits u below ones
  refine ⟨fun h => ?vadd, fun h => ?vsub, fun h => ?vand, fun h => ?vor, fun h => ?vxor, fun h => ?vbsl, fun h => ?vshl, fun h => ?vshr,
    fun hk h => ?vnshr, fun h => ?vmax, fun h => ?vmin, fun h => ?vcmpeq, fun h => ?vcmplt, fun h => ?vcmple, fun hb h => ?vneg,
    fun hb h => ?vconj, fun hb h => ?vcvtw, fun hb h => ?vcvtn, fun hs hb h => ?vmovVector, fun hs ha h => ?vmovScalar⟩
  case vadd => rw [exec_vadd, execVadd, opVA_ready hready h rfl]; rfl
  case vsub => rw [exec_vsub, execVsub, opVA_ready hready h rfl]; rfl
  case vand => rw [exec_vand, execVand, opVA_ready hready h rfl]
  case vor => rw [exec_vor, execVor, opVA_ready hready h rfl]
  case vxor => rw [exec_vxor, execVxor, opVA_ready hready h rfl]
  case vbsl => rw [exec_vbsl, execVbsl, opVA_ready hready h rfl]
  case vshl => rw [exec_vshl, execVshl, opVA_ready hready h rfl]
  case vshr => rw [exec_vshr, execVshr, opVA_ready hready h rfl]
  case vnshr =>
    have hamt : (f.src || decide (f.b.toNat < etW f.ty.toNat)) = true := by simpa using hk
    rw [exec_vnshr, execVnshr, opVA_ready hready h hamt]; rfl
  case vmax => rw [exec_vmax, execVmax, opVA_ready hready h rfl]; rfl
  case vmin => rw [exec_vmin, execVmin, opVA_ready hready h rfl]; rfl
  case vcmpeq => rw [exec_vcmpeq, execVcmpeq, opVA_ready hready h rfl]; rfl
  case vcmplt => rw [exec_vcmplt, execVcmplt, opVA_ready hready h rfl]; rfl
  case vcmple => rw [exec_vcmple, execVcmple, opVA_ready hready h rfl]; rfl
  case vneg => rw [exec_vneg, execVneg, opVA_ready hready h (bZero_of_eq hb _)]
  case vconj => exact (exec_vconj t f s).trans (opVA_ready hready h (bZero_of_eq hb _))
  case vcvtw => rw [exec_vcvtw, execVcvtw, opVA_ready hready h (bZero_of_eq hb _)]
  case vcvtn => rw [exec_vcvtn, execVcvtn, opVA_ready hready h (bZero_of_eq hb _)]
  case vmovVector =>
    rw [exec_vmov, execVmov, opVA_ready hready h (by simp [hs, hb]), hs]
    rfl
  case vmovScalar =>
    rw [exec_vmov, execVmov, opVA_ready hready h (by simp [hs, ha]), hs]
    rfl

end Sys2Proof.Machine
end

section
/-!
PROOFS. The Leash points (R195 to R202): the request that comes next in turn, what a cycle at a point does by what moves and what waits
there, starvation and masking, and with them the statement O31.
-/
namespace Sys2Proof.Machine

/-! The nearest in round-robin order -/

theorem leastBy_eq_none {α : Type} {f : α → Nat} {l : List α} (h : leastBy f l = none) : l = [] := by
  cases l with
  | nil => rfl
  | cons a r =>
    rw [leastBy] at h
    split at h
    · exact absurd h (by simp)
    · split_ifs at h

/-- What is chosen by least value is of the list, and nothing in the list has less. -/
theorem leastBy_eq_some {α : Type} {f : α → Nat} {l : List α} {a : α} (h : leastBy f l = some a) :
    a ∈ l ∧ ∀ b ∈ l, f a ≤ f b := by
  induction l generalizing a with
  | nil => simp [leastBy] at h
  | cons c r ih =>
    rw [leastBy] at h
    split at h
    case h_1 hr =>
      obtain rfl : c = a := by simpa using h
      simp [leastBy_eq_none hr]
    case h_2 b hr =>
      obtain ⟨hb, hleast⟩ := ih hr
      split_ifs at h with hcb <;> obtain rfl := Option.some.inj h
      · exact ⟨List.mem_cons_self, List.forall_mem_cons.mpr ⟨le_rfl, fun z hz => hcb.trans (hleast z hz)⟩⟩
      · exact ⟨List.mem_cons_of_mem _ hb, List.forall_mem_cons.mpr ⟨(Nat.lt_of_not_le hcb).le, hleast⟩⟩

/-- Round robin after k chooses a waiting request of the class, of the requester nearest after k among them (R196). -/
theorem rrAfter_eq_some {l : List LeashReq} {d : Bool} {k : Nat} {q : LeashReq} (h : rrAfter l d k = some q) :
    q ∈ l ∧ q.classD = d ∧ ∀ z ∈ l, z.classD = d → (q.r.val + 23 - k % 24) % 24 ≤ (z.r.val + 23 - k % 24) % 24 := by
  obtain ⟨hq, hleast⟩ := leastBy_eq_some h
  obtain ⟨hmem, hclass⟩ := List.mem_filter.mp hq
  exact ⟨hmem, beq_iff_eq.mp hclass, fun z hz hzd => hleast z (List.mem_filter.mpr ⟨hz, beq_iff_eq.mpr hzd⟩)⟩

/-! A point's state -/

@[simp] theorem State.pnt_setPnt (s : State) (n : Nat) (x : Point) : (s.setPnt n x).pnt n = x := tget_tput_self _ _ _ _
@[simp] theorem State.ent_setPnt (s : State) (n k : Nat) (x : Point) : (s.setPnt n x).ent k = s.ent k := rfl
@[simp] theorem State.ent_setIrq (s : State) (i : Irq) (c : Nat) (b : Bool) (k : Nat) : (s.setIrq i c b).ent k = s.ent k := rfl
@[simp] theorem State.setPnt_mem (s : State) (n : Nat) (x : Point) : (s.setPnt n x).mem = s.mem := rfl
@[simp] theorem State.entN_setPnt (s : State) (n k : Nat) (x : Point) : (s.setPnt n x).entN k = s.entN k := rfl

/-- Who owns the point is no matter of the loss counts (R202). -/
@[simp] theorem Point.lose_owner (x : Point) (limit granted : Nat) : (x.lose limit granted).owner = x.owner := by
  rw [Point.lose]
  refine List.foldlRecOn _ _ (motive := fun y : Point => y.owner = x.owner) rfl fun y hy r _ => ?_
  dsimp only
  split
  · exact hy
  · exact hy

/-- What a counter reads once it has counted depends on what it read before alone. -/
theorem State.entN_inc32_congr {s u : State} {k : Nat} (n : Nat) (h : u.ent k = s.ent k) :
    (u.inc32 k n).entN k = (s.inc32 k n).entN k := by
  simp [State.entN, State.inc32, State.incSat, State.setFld, State.fld, h]

/-! A cycle at a point (R196 to R199, R201) -/

/-- The transfer at the point that has beats left after this one. -/
def Point.current (x : Point) : Option Owner := x.owner.bind (fun o => if o.beat + 1 < o.beats then some o else none)

/-- What waits at point n with the requests that arrive, the masked requesters' left out (R200). -/
def State.leashLines (s : State) (n : Nat) (rs : List LeashReq) : List LeashReq :=
  (addReqs (s.pnt n).reqs rs).filter (fun q => !(s.isMasked q.r.val))

theorem State.filter_isMasked_addReqs (s : State) (n : Nat) (rs : List LeashReq) :
    (addReqs (s.pnt n).reqs rs).filter (fun q => !(s.isMasked q.r.val)) = s.leashLines n rs := rfl

/-- The beat that moves at point n is counted (R199). -/
def State.beatCounted (s : State) (n : Nat) : State :=
  match (s.pnt n).owner with
  | some o => s.inc64 (if o.classD then Key.lshDbeats n else Key.lshBbeats n) 1
  | none => s

section Grant
variable {s : State} {pt : Fin 160} {rs : List LeashReq} {o : Owner} {q : LeashReq}

theorem State.ent_beatCounted (s : State) {n k : Nat} (hd : k ≠ Key.lshDbeats n) (hb : k ≠ Key.lshBbeats n) :
    (s.beatCounted n).ent k = s.ent k := by
  rw [State.beatCounted]
  split
  · apply State.ent_setFld_ne
    split_ifs
    exacts [hd, hb]
  · rfl

theorem State.ent_lshRestarts_beatCounted (s : State) (n : Nat) :
    (s.beatCounted n).ent (Key.lshRestarts n) = s.ent (Key.lshRestarts n) :=
  s.ent_beatCounted (by simp [Key.lshRestarts, Key.lshDbeats]) (by simp [Key.lshRestarts, Key.lshBbeats])

@[simp] theorem State.isMasked_beatCounted (s : State) (n r : Nat) : (s.beatCounted n).isMasked r = s.isMasked r := by
  rw [State.beatCounted]; split <;> rfl

@[simp] theorem State.beatCounted_mem (s : State) (n : Nat) : (s.beatCounted n).mem = s.mem := by
  rw [State.beatCounted]; split <;> rfl

@[simp] theorem State.beatCounted_warn (s : State) (n : Nat) : (s.beatCounted n).warn = s.warn := by
  rw [State.beatCounted]; split <;> rfl

@[simp] theorem State.pausedB_beatCounted (s : State) (n : Nat) : (s.beatCounted n).pausedB = s.pausedB := by
  have hd : Key.lshPauseB ≠ Key.lshDbeats n := by simp only [Key.lshPauseB, Key.lshDbeats]; omega
  have hb : Key.lshPauseB ≠ Key.lshBbeats n := by simp only [Key.lshPauseB, Key.lshBbeats]; omega
  simp only [State.pausedB, State.flag, State.beatCounted_warn, s.ent_beatCounted hd hb]

theorem Point.current_eq_some {x : Point} (h : x.current = some o) : x.owner = some o ∧ o.beat + 1 < o.beats := by
  obtain ⟨p, hp, h⟩ := Option.bind_eq_some_iff.mp h
  split_ifs at h with hlt
  cases h
  exact ⟨hp, hlt⟩

/-- The beats of class D and of class B are counted apart. -/
theorem State.beatCounted_of_some {n : Nat} {d : Bool} (h : (s.pnt n).owner = some o) (hd : o.classD = d) :
    s.beatCounted n = s.inc64 (bif d then Key.lshDbeats n else Key.lshBbeats n) 1 := by
  subst hd
  simp [State.beatCounted, h, cond_eq_ite]

/-- A class D transfer under way goes on. -/
theorem execLeashGrant_of_classD (hc : (s.pnt pt.val).current = some o) (hd : o.classD = true) :
    execLeashGrant pt rs s = .next ((s.beatCounted pt.val).setPnt pt.val
      { s.pnt pt.val with reqs := s.leashLines pt.val rs, owner := some { o with beat := o.beat + 1 } }) := by
  obtain ⟨ho, hlt⟩ := Point.current_eq_some hc
  have hb : s.inc64 (Key.lshDbeats pt.val) 1 = s.beatCounted pt.val := (State.beatCounted_of_some ho hd).symm
  simp [execLeashGrant, State.filter_isMasked_addReqs, hb, ho, hlt, hd, Option.filter]

section NoRequest
variable (hq : rrAfter (s.leashLines pt.val rs) true (s.pnt pt.val).lastD = none)
include hq

/-- A class B transfer under way goes on unless a pause cuts it (R201). -/
theorem execLeashGrant_of_classB (hc : (s.pnt pt.val).current = some o) (hd : o.classD = false) :
    execLeashGrant pt rs s = .next (if s.pausedB
      then ((s.beatCounted pt.val).inc32 (Key.lshRestarts pt.val) 1).setPnt pt.val
        ({ s.pnt pt.val with reqs := s.leashLines pt.val rs }.preempt o)
      else (s.beatCounted pt.val).setPnt pt.val
        { s.pnt pt.val with reqs := s.leashLines pt.val rs, owner := some { o with beat := o.beat + 1 } }) := by
  obtain ⟨ho, hlt⟩ := Point.current_eq_some hc
  have hb : s.inc64 (Key.lshBbeats pt.val) 1 = s.beatCounted pt.val := (State.beatCounted_of_some ho hd).symm
  simp [execLeashGrant, State.filter_isMasked_addReqs, hb, ho, hlt, hd, hq, Option.filter, apply_ite Host.Outcome.next]

theorem execLeashGrant_of_free_paused (ho : (s.pnt pt.val).owner = none) (hp : s.pausedB = true) :
    execLeashGrant pt rs s = .next (s.setPnt pt.val { s.pnt pt.val with owner := none, reqs := s.leashLines pt.val rs }) := by
  simp [execLeashGrant, State.filter_isMasked_addReqs, ho, hq, hp]

/-- Weighted round robin grants a class B request at a free point, and every other class B line loses (R197, R202). -/
theorem execLeashGrant_of_free {k : Nat} (ho : (s.pnt pt.val).owner = none) (hp : s.pausedB = false)
    (hw : s.wrr { s.pnt pt.val with owner := none, reqs := s.leashLines pt.val rs } = some (q, k)) :
    execLeashGrant pt rs s = .next (s.setPnt pt.val
      { ({ s.pnt pt.val with owner := none, reqs := s.leashLines pt.val rs }.take pt.val q).lose (s.entN Key.lshStarveLimit) q.r.val with
        turn := q.r.val, used := k }) := by
  simp [execLeashGrant, State.filter_isMasked_addReqs, ho, hq, hp, hw]
end NoRequest

/-- The next class D request in turn is granted; a class B transfer with beats left is cut, and counted as a restart. -/
theorem execLeashGrant_of_request (hc : ∀ o, (s.pnt pt.val).current = some o → o.classD = false)
    (hq : rrAfter (s.leashLines pt.val rs) true (s.pnt pt.val).lastD = some q) :
    ∃ y : Point, y.owner = some ⟨q.r.val, q.classD, 0, leashBeats pt.val q⟩ ∧ y.lastD = q.r.val ∧
      execLeashGrant pt rs s = .next ((if (s.pnt pt.val).current.isSome then
        (s.beatCounted pt.val).inc32 (Key.lshRestarts pt.val) 1 else s.beatCounted pt.val).setPnt pt.val y) := by
  have hfree : (s.pnt pt.val).current.filter (·.classD) = none := Option.filter_eq_none_iff.mpr fun o ho => by simp [hc o ho]
  have hlines : rrAfter ((addReqs (s.pnt pt.val).reqs rs).filter (fun q => !((s.beatCounted pt.val).isMasked q.r.val))) true
      (s.pnt pt.val).lastD = some q := by simpa [State.leashLines] using hq
  unfold execLeashGrant
  extract_lets n x t y cur
  have hfree' : cur.filter (·.classD) = none := hfree
  have hlines' : rrAfter y.reqs true y.lastD = some q := hlines
  simp only [hfree', hlines']
  refine ⟨_, ?_, ?_, rfl⟩
  · dsimp only
    split_ifs
    · rfl
    · exact Point.lose_owner _ _ _
  · rfl

end Grant

/-! Starvation and masking (R200, R202) -/

@[simp] theorem State.stageOne_mem (s : State) (ty : Nat) (bs : List Byte) : (s.stageOne ty bs).mem = s.mem := by
  rw [State.stageOne]; split <;> rfl

@[simp] theorem State.record_mem (s : State) (ty : Nat) (ws : List U64) : (s.record ty ws).mem = s.mem := by
  rw [State.record, State.recordBytes]; split <;> simp

section Starve
variable {s : State} {pt : Fin 160} {r : Fin 24}

/-- Requester r is starved at point n: its loss count is told of, STARVE is set with its number, and a record formed. -/
def State.starved (s : State) (n r : Nat) : State :=
  ((((s.setPnt n { s.pnt n with loss := tput (s.pnt n).loss r lossTold }).setSticky (Key.lshFlags n) 1).setFld
    (Key.lshFlags n) 31 24 r).leashIrq).record 0x30 [w64 n, w64 r]

@[simp] theorem State.starved_mem (s : State) (n r : Nat) : (s.starved n r).mem = s.mem := State.record_mem _ _ _

/-- The flags of the point: STARVE is set first, the number beside it next. -/
theorem State.ent_starved (s : State) {n : Nat} (r : Nat) (hn : n < 160) : (s.starved n r).ent (Key.lshFlags n) =
    setf (setf (s.ent (Key.lshFlags n)) 1 1 1) 31 24 r := by
  rw [State.starved, State.record_ent_ne _ _ _ (by simp only [Key.lshFlags, Key.evrCnt]; omega), State.leashIrq, State.ent_setIrq]
  simp [State.setSticky, State.setFlag, State.setFld, b01]

theorem State.flag_starved (s : State) {n : Nat} (r : Nat) (hn : n < 160) : (s.starved n r).flag (Key.lshFlags n) 1 = true := by
  rw [State.flag, s.ent_starved r hn, bit_eq_bf, bf_setf_ne _ _ _ _ _ _ (by decide) (by decide) (by decide) (by decide),
    bf_setf_self _ _ _ _ (by decide) (by decide)]
  rfl

theorem State.fld_starved (s : State) {n r : Nat} (hn : n < 160) (hr : r < 24) : (s.starved n r).fld (Key.lshFlags n) 31 24 = r := by
  rw [State.fld, s.ent_starved r hn, bf_setf_self _ _ _ _ (by decide) (by decide)]
  exact Nat.mod_eq_of_lt (by omega)

/-- A loss count at the limit that has not been told of yet is told of. -/
theorem execLeashStarve_of_limit (hl : s.entN Key.lshStarveLimit ≤ tget 0 (s.pnt pt.val).loss r.val)
    (ht : tget 0 (s.pnt pt.val).loss r.val < 2 ^ 32) : execLeashStarve pt r s = .next (s.starved pt.val r.val) := by
  rw [execLeashStarve, if_pos ⟨hl, ht⟩]; rfl

theorem execRequesterMask_of_absent (h : s.present r.val = false) : execRequesterMask r s = .next (s.maskReq r.val) := by
  simp [execRequesterMask, h]

theorem execRequesterUnmask_of_present (h : s.present r.val = true) : execRequesterUnmask r s = .next (s.unmaskReq r.val) := by
  simp [execRequesterUnmask, h]

/-- A requester that is masked waits at no point. -/
theorem State.maskReq_reqs (s : State) (r : Nat) : ∀ e ∈ (s.maskReq r).point, e.2.reqs.all (fun q => q.r.val != r) = true := by
  intro e he
  obtain ⟨a, -, rfl⟩ := List.mem_map.mp he
  simp

@[simp] theorem State.isMasked_maskReq (s : State) (r : Nat) : (s.maskReq r).isMasked r = true := tget_tput_self _ _ _ _

@[simp] theorem State.isMasked_unmaskReq (s : State) (r : Nat) : (s.unmaskReq r).isMasked r = false := by
  simp [State.isMasked, State.unmaskReq, tget_eq_tfind]

end Starve

/-- Settles O31: what moves at the point, what waits there and a pause decide between going on, a grant and a cut. -/
theorem leashDecisions : Obligations.LeashDecisions := by
  intro s pt r rs q o k
  refine ⟨fun hc hd => ?classD, fun hc hq => ?request, rrAfter_eq_some, fun hc hd hq hp => ?classB, fun hc hd hq hp => ?cut,
    fun _ hq hp ho => ?paused, fun _ hq hp ho hw => ?free, fun hl ht => ?starve, fun h => ?mask, fun h => ?unmask⟩
  case classD => exact ⟨_, execLeashGrant_of_classD hc hd, by simp, by simp [State.leashLines]⟩
  case request =>
    obtain ⟨y, howner, hlast, hexec⟩ := execLeashGrant_of_request hc hq
    refine ⟨_, hexec, by simpa using howner, by simpa using hlast, ?_, ?_⟩
    · rw [State.setPnt_mem]
      split <;> simp [State.inc32]
    · rw [State.entN_setPnt]
      change State.entN (if (s.pnt pt.val).current.isSome then _ else _) _ =
        State.entN (if (s.pnt pt.val).current.isSome then _ else _) _
      split
      · exact State.entN_inc32_congr 1 (s.ent_lshRestarts_beatCounted pt.val)
      · exact congrArg _ (s.ent_lshRestarts_beatCounted pt.val)
  case classB => exact ⟨_, execLeashGrant_of_classB hq hc hd, by simp [hp]⟩
  case cut =>
    refine ⟨_, execLeashGrant_of_classB hq hc hd, by simp [hp, Point.preempt], ?_⟩
    rw [if_pos hp, State.entN_setPnt]
    exact State.entN_inc32_congr 1 (s.ent_lshRestarts_beatCounted pt.val)
  case paused => exact execLeashGrant_of_free_paused hq ho hp
  case free => exact execLeashGrant_of_free hq ho hp hw
  case starve =>
    exact ⟨_, execLeashStarve_of_limit hl ht, s.flag_starved r.val pt.isLt, s.fld_starved pt.isLt r.isLt, s.starved_mem _ _⟩
  case mask => exact ⟨_, execRequesterMask_of_absent h, s.isMasked_maskReq r.val, s.maskReq_reqs r.val, rfl, rfl⟩
  case unmask => exact ⟨_, execRequesterUnmask_of_present h, s.isMasked_unmaskReq r.val, rfl⟩

end Sys2Proof.Machine
end

section
/-!
PROOFS. Tokens and COMMITs (R190, R435 to R438): what an accepted write of their objects asks for, how the check of a token ends, what
the first COMMIT of the queue comes to, and with them the statement O48.
-/
namespace Sys2Proof.Machine

/-! A write by a control core -/

@[simp] theorem State.seen_core (s : State) (c : Fin 16) (m : PrivMode) (k : Nat) : s.seen (.core c m) k = lookupObj k := rfl

/-- An accepted write of an entry that is neither staged, nor judged by rules of its own, nor of a unit's block goes by its object's
rules. -/
theorem State.writeEntry_of_ok {s : State} {rq : Requester} {k : Nat} {v : U64} {r : Row} {ix : List Nat}
    (hseen : s.seen rq k = some (r, ix)) (hk : k < 0x3000000) (hcut : r.id ≠ .hoCut) (hown : ownRange r.id = false) (hcls : r.cls ≠ .n)
    (hok : s.checkWrite rq k v = .ok) : s.writeEntry rq k v = s.ruleWrite rq r ix k v := by
  have hdiag : isDiag k = false := decide_eq_false (by omega)
  have hlow : ¬ 0x3000000 ≤ k := by omega
  simp [State.writeEntry, State.writeOther, State.applyWrite, hseen, hdiag, hcut, hlow, hown, hok, hcls]

section Writes
variable {s : State} {c : Fin 16} {md : PrivMode} {v : U64}

theorem lookupObj_odTokenCtl : ∃ r, lookupObj Key.odTokenCtl = some (r, []) ∧ r.id = .odTokenCtl ∧ r.cls = .e :=
  ⟨_, rfl, rfl, rfl⟩

theorem lookupObj_odCommit : ∃ r, lookupObj Key.odCommit = some (r, []) ∧ r.id = .odCommit ∧ r.cls = .e :=
  ⟨_, rfl, rfl, rfl⟩

theorem execTokenCtlWrite_of_ok (hok : s.checkWrite (.core c md) Key.odTokenCtl v = .ok) :
    execTokenCtlWrite c md v s = .next (s.tokenAsk c.val v) := by
  obtain ⟨r, hrow, hid, hcls⟩ := lookupObj_odTokenCtl
  have hown : ownRange r.id = false := by rw [hid]; rfl
  rw [execTokenCtlWrite, State.writeEntry_of_ok ((s.seen_core c md _).trans hrow) (by decide) (by simp [hid]) hown (by simp [hcls]) hok]
  simp [State.ruleWrite, hid, rqSlot]

theorem execCommitGo_of_ok (hok : s.checkWrite (.core c md) Key.odCommit v = .ok) (hgo : bit v 63 = true) :
    execCommitGo c md v s = .next (s.commitAsk c.val none) := by
  obtain ⟨r, hrow, hid, hcls⟩ := lookupObj_odCommit
  have hown : ownRange r.id = false := by rw [hid]; rfl
  rw [execCommitGo, State.writeEntry_of_ok ((s.seen_core c md _).trans hrow) (by decide) (by simp [hid]) hown (by simp [hcls]) hok]
  simp [State.ruleWrite, hid, hgo, rqSlot]

end Writes

section Asks
variable {s : State} {slot : Nat} {v : U64}

/-- The check of a slot's token starts once: while one runs, another is BUSY. -/
theorem State.tokenAsk_of_idle (h : ¬ bit (tget 0 s.bank (slot * 2 ^ 32 + Key.odTokenCtl)) 63 = true) :
    s.tokenAsk slot v =
      ({ s with bank := tput s.bank (slot * 2 ^ 32 + Key.odTokenCtl) (w64 (2 ^ 63 + bf v 15 0)) } : State).status .ok := if_neg h

theorem State.tokenAsk_of_checking (h : bit (tget 0 s.bank (slot * 2 ^ 32 + Key.odTokenCtl)) 63 = true) :
    s.tokenAsk slot v = s.status .busy := if_pos h

/-- The staging set joins the queue while that holds fewer than eight COMMITs. -/
theorem State.commitAsk_of_room {msg : Option (BitVec 32 × Nat)} (h : s.commits.length < 8) :
    s.commitAsk slot msg = ({ s with commits := s.commits ++ [(⟨slot,
      (s.staging.filter (fun e => e.1 / 2 ^ 32 == slot)).map (fun e => (e.1 % 2 ^ 32, e.2)), msg⟩ : Commit)] } : State).status .ok :=
  if_neg (Nat.not_le.mpr h)

theorem State.commitAsk_of_full {msg : Option (BitVec 32 × Nat)} (h : 8 ≤ s.commits.length) : s.commitAsk slot msg = s.status .busy :=
  if_pos h

end Asks

/-! The check of a token (R190, R435) -/

/-- The empty string of bytes is no token. -/
theorem State.tokGood_nil (s : State) : s.tokGood [] = false := by
  have hform : tokForm [] = false := rfl
  simp [State.tokGood, hform]

theorem State.tokenWrite_of_not_good {s : State} {b : List Byte} (rq : Requester) (r : MramResult) (h : s.tokGood b = false) :
    s.tokenWrite rq b r = (s, .token) := by
  simp [State.tokenWrite, h]

/-- The bytes of a core's token, none where its length is above the buffer's. -/
def State.tokenBytes (s : State) (c : Nat) : List Byte :=
  let n := bf (tget 0 s.bank (c * 2 ^ 32 + Key.odTokenCtl)) 15 0
  if n ≤ 264 then
    ((List.range 33).flatMap (fun i => leBytes 8 (tget 0 s.bank (c * 2 ^ 32 + Key.odTokenBuf i)).toNat)).take n
  else []

section Checks
variable {s u : State} {c : Fin 16} {r : MramResult} {st : Status}

/-- A check waits for the supply and for the COMMITs that came before it. -/
theorem execTokenCheckDone_of_held (h : s.warn = true ∨ s.commits ≠ []) : execTokenCheckDone c r s = .next s := by
  rw [execTokenCheckDone, if_neg]
  rintro ⟨-, hwarn, hcommits⟩
  simp_all

/-- A check that ends tells its status, unless the supply was lost in its writes. -/
theorem execTokenCheckDone_of_free (hc : bit (tget 0 s.bank (c.val * 2 ^ 32 + Key.odTokenCtl)) 63 = true)
    (hf : ¬ (s.warn = true ∨ s.commits ≠ [])) (hw : s.tokenWrite (.core c .machine) (s.tokenBytes c.val) r = (u, st)) :
    execTokenCheckDone c r s = .next (if supplyLost r then u
      else { u with bank := tput u.bank (c.val * 2 ^ 32 + Key.odTokenCtl) (w64 st.code), reply := s.reply }) := by
  obtain ⟨hwarn, hcommits⟩ := not_or.mp hf
  rw [State.tokenBytes] at hw
  rw [execTokenCheckDone, if_pos ⟨hc, by simpa using hwarn, by simpa using hcommits⟩]
  dsimp only
  rw [hw]

end Checks

/-! COMMITs in their order (R436 to R438) -/

section Commits
variable {s : State} {r : MramResult} {x : Commit} {rest : List Commit}

theorem execCommitExecute_of_empty (h : s.commits = []) : execCommitExecute r s = .next s := by
  simp [execCommitExecute, h]

theorem execCommitExecute_of_warn (h : s.warn = true) : execCommitExecute r s = .next s := by
  cases hc : s.commits <;> simp [execCommitExecute, h, hc]

section Runs
variable (hr : s.commits = x :: rest ∧ s.warn = false ∧ s.pwrgood = true)
include hr

/-- With the supply good the first COMMIT leaves the queue, and its snapshot's check decides. -/
theorem execCommitExecute_of_first : execCommitExecute r s = .next (
    let t : State := { s with commits := rest }
    if x.snap.isEmpty then t.commitDone x .ok
    else if t.commitStatus x.snap = .ok then
      let w := t.commitWrite x.snap r 0
      if supplyLost r then w else if r = .bothGood then (w.unstage x).commitDone x .ok else w.commitDone x .nvFail
    else t.commitDone x (t.commitStatus x.snap)) := by
  obtain ⟨hq, hwarn, hpwr⟩ := hr
  rw [execCommitExecute]
  simp only [hq]
  rw [if_neg (by simp [hwarn, hpwr])]
  cases hst : State.commitStatus { s with commits := rest } x.snap <;> rfl

/-- A COMMIT of nothing ends OK. -/
theorem execCommitExecute_of_no_snap (hsnap : x.snap = []) :
    execCommitExecute r s = .next ({ s with commits := rest }.commitDone x .ok) := by
  rw [execCommitExecute_of_first hr, hsnap]; rfl

/-- A COMMIT that may take effect writes its values, and what the verify of the copies found decides its end. -/
theorem execCommitExecute_of_ok (hsnap : x.snap ≠ []) (hst : { s with commits := rest }.commitStatus x.snap = .ok) :
    execCommitExecute r s = .next (
      let w := { s with commits := rest }.commitWrite x.snap r 0
      if supplyLost r then w else if r = .bothGood then (w.unstage x).commitDone x .ok else w.commitDone x .nvFail) := by
  rw [execCommitExecute_of_first hr]
  exact congrArg _ ((if_neg (by simpa using hsnap)).trans (if_pos hst))

theorem execCommitExecute_of_refused {st : Status} (hsnap : x.snap ≠ []) (hst : { s with commits := rest }.commitStatus x.snap = st)
    (hne : st ≠ .ok) : execCommitExecute r s = .next ({ s with commits := rest }.commitDone x st) := by
  subst hst
  rw [execCommitExecute_of_first hr]
  exact congrArg _ ((if_neg (by simpa using hsnap)).trans (if_neg hne))

end Runs
end Commits

/-- Settles O48: what is under way decides whether a token or a COMMIT is taken, and what its verify found how it ends. -/
theorem tokensCommits : Obligations.TokensCommits := by
  intro s u c md v r x rest st k n b checking held snap t ran wrote
  refine ⟨fun hok hidle => ?ask, fun hok hbusy => ?askBusy, execTokenCheckDone_of_held, fun hc hf hr hw => ?told,
    fun hc hf hr hw => ?lost, State.tokenWrite_of_not_good _ _, s.tokGood_nil, fun hok hgo hroom => ?go, fun hok hgo hfull => ?goFull,
    execCommitExecute_of_empty, execCommitExecute_of_warn, execCommitExecute_of_no_snap, fun hran hsnap hst hr => ?whole,
    fun hran hsnap hst hr => ?failed, fun hran hsnap hst hr => ?supply, fun hran => execCommitExecute_of_refused hran⟩
  case ask => rw [exec_tokenCtlWrite, execTokenCtlWrite_of_ok hok, State.tokenAsk_of_idle hidle]
  case askBusy => rw [exec_tokenCtlWrite, execTokenCtlWrite_of_ok hok, State.tokenAsk_of_checking hbusy]
  case told => rw [exec_tokenCheckDone, execTokenCheckDone_of_free hc hf hw, hr]; rfl
  case lost => rw [exec_tokenCheckDone, execTokenCheckDone_of_free hc hf hw, if_pos hr]
  case go => rw [exec_commitGo, execCommitGo_of_ok hok hgo, State.commitAsk_of_room hroom]
  case goFull => rw [exec_commitGo, execCommitGo_of_ok hok hgo, State.commitAsk_of_full hfull]
  case whole =>
    rw [exec_commitExecute, execCommitExecute_of_ok hran hsnap hst]
    exact congrArg _ ((if_neg (by rw [hr]; decide)).trans (if_pos hr))
  case failed =>
    have hlost : ¬ supplyLost r = true := by rcases hr with hr | hr <;> rw [hr] <;> decide
    have hgood : r ≠ .bothGood := by rcases hr with hr | hr <;> rw [hr] <;> decide
    rw [exec_commitExecute, execCommitExecute_of_ok hran hsnap hst]
    exact congrArg _ ((if_neg hlost).trans (if_neg hgood))
  case supply =>
    rw [exec_commitExecute, execCommitExecute_of_ok hran hsnap hst]
    exact congrArg _ (if_pos hr)

end Sys2Proof.Machine
end

section
/-!
PROOFS. Terrier and the event recorder (R190, R504, R506 to R517, R579): which segment starts, what its signature or its blocks come to,
when a staged record is written, and with them the statement O53.
-/
namespace Sys2Proof.Machine

/-! The start of a segment (R504, R506) -/

/-- Whether the schedule lets order g start a segment: its interval has passed, and Terrier runs. -/
def State.segSched (s : State) (g : Nat) : Bool :=
  (match tfind s.walkRaw (32 + g) with
    | some r => decide (s.fld Key.terCfg 47 32 * 12288 ≤ 25 * (s.raw.toNat - r))
    | none => true) && s.terRuns

theorem State.segSched_iff (s : State) (g : Nat) : s.segSched g = true ↔
    (tfind s.walkRaw (32 + g)).elim true (fun r => decide (s.fld Key.terCfg 47 32 * 12288 ≤ 25 * (s.raw.toNat - r))) = true ∧
      s.terRuns = true := by
  rw [State.segSched]
  cases tfind s.walkRaw (32 + g) <;> simp

section Start
variable {s : State} {g : Fin 9} {i : Nat} {l : List Nat}

theorem execTerrierSegmentStart_of_busy (h : ¬ (tfind s.segment g.val = none ∧ s.flag Key.terCfg 63 = true)) :
    execTerrierSegmentStart g s = .next s := by
  rw [execTerrierSegmentStart]
  dsimp only
  rw [if_neg (by simpa using h)]

section Idle
variable (hidle : tfind s.segment g.val = none ∧ s.flag Key.terCfg 63 = true)
include hidle

/-- A segment at the head of an idle order is taken from it if it is a retest's or the schedule lets it, and starts where it may. -/
theorem execTerrierSegmentStart_of_head (hh : tget [] s.segHead g.val = i :: l) :
    execTerrierSegmentStart g s = .next (
      if s.retested (segAt g.val i).unit = true ∨ s.segSched g.val = true then
        let t : State := { s with segHead := tput s.segHead g.val l }
        if t.segMay g.val (segAt g.val i) then t.segStart g.val i else t
      else s) := by
  obtain ⟨hseg, hen⟩ := hidle
  unfold execTerrierSegmentStart
  extract_lets n head due idle sched
  have hi : idle = true := by simp [idle, n, hseg, hen]
  have hhead : head = i :: l := hh
  rw [if_pos hi, hhead]
  rfl

/-- With nothing at its head, an idle order starts its next segment that can, where the schedule lets it. -/
theorem execTerrierSegmentStart_of_order (hh : tget [] s.segHead g.val = []) :
    execTerrierSegmentStart g s = .next (
      if s.segSched g.val = true then
        (match s.nextSeg g.val (segCount g.val - tget 0 s.segNext g.val) (tget 0 s.segNext g.val),
            s.nextSeg g.val (tget 0 s.segNext g.val) 0 with
          | some i, _ => (s.segStart g.val i).segMoved g.val i false
          | none, some i => (s.segStart g.val i).segMoved g.val i true
          | none, none => s)
      else s) := by
  obtain ⟨hseg, hen⟩ := hidle
  unfold execTerrierSegmentStart
  extract_lets n head due idle sched
  have hi : idle = true := by simp [idle, n, hseg, hen]
  have hhead : head = [] := hh
  rw [if_pos hi, hhead]
  refine congrArg _ (if_congr Iff.rfl ?_ rfl)
  cases s.nextSeg g.val (segCount g.val - tget 0 s.segNext g.val) (tget 0 s.segNext g.val)
  · cases s.nextSeg g.val (tget 0 s.segNext g.val) 0 <;> rfl
  · rfl

end Idle
end Start

/-! The signature of a TILE segment (R507, R509) -/

section Signature
variable {s : State} {p : Fin 8}

/-- A signature found ends its segment: it matches, fails a retest, or fails a unit in service. -/
theorem execTerrierSignatureCheck_of_signed {u e : Nat} {sig : U64} (h : tfind s.segment p.val = some ⟨0, u, some sig, e⟩) :
    execTerrierSignatureCheck p s = .next (
      let w : State := { s with segment := tdel s.segment p.val }
      if sig = Config.terrierSig then w.incWrap (Key.terUStat u) 63 32 1
      else if (s.un u).retest = true then w.retestFailed u 0 sig else w.terFail u 0 sig (s.flag Key.terCfg 59)) := by
  simp only [execTerrierSignatureCheck, h]
  by_cases hs : sig = Config.terrierSig
  · rw [if_pos hs, if_pos hs]; rfl
  · rw [if_neg hs, if_neg hs]; rfl

theorem execTerrierSignatureCheck_of_unsigned
    (h : ∀ u sig e, tfind s.segment p.val ≠ some ⟨0, u, some sig, e⟩) : execTerrierSignatureCheck p s = .next s := by
  rw [execTerrierSignatureCheck]
  split
  case h_1 u sig e heq => exact absurd heq (h u sig e)
  case h_2 => rfl

end Signature

/-! A step of a MEM segment (R508, R509) -/

/-- Block n of a MEM segment is about to be tested: the merge entries over it, where it has any, are written. -/
def State.memClear (s : State) (x : SegPlace) (n : Nat) : State := if x.cls ≤ 3 then s.flushOver 19 (x.addr + 64 * n) 64 else s

/-- Segment i of order g moves on from block n, or ends behind its last: failed where a failure has been noted. -/
def State.memStepped (s : State) (g i n : Nat) (sig : Option U64) : State :=
  if n + 1 < 64 then { s with segment := tput s.segment g ⟨skMem, i, sig, n + 1⟩ }
  else if sig.isSome then { s with segment := tdel s.segment g } else s.segEnd g (segAt g i).unit none 0 false

section MemStep
variable {s : State} {g : Fin 9} {bad : Option (BitVec 9)} {again : Fin 4} {lost : Option (Fin 8)} {i n : Nat} {sig : Option U64}

theorem execTerrierMemStep_of_none (h : tfind s.segment g.val = none) : execTerrierMemStep g bad again lost s = .next s := by
  simp only [execTerrierMemStep, h]

theorem execTerrierMemStep_of_stopped (h : tfind s.segment g.val = some ⟨1, i, sig, n⟩) (hruns : s.terRuns = false)
    (hret : s.retested (segAt g.val i).unit = false) : execTerrierMemStep g bad again lost s = .next s := by
  simp [execTerrierMemStep, h, hruns, hret]

/-- What lets a segment under way be tested on. -/
theorem State.not_stopped {u : Nat} (h : s.terRuns = true ∨ s.retested u = true) : ¬ (!(s.terRuns || s.retested u)) = true := by
  rcases h with h | h <;> simp [h]

section Runs
variable (h : tfind s.segment g.val = some ⟨1, i, sig, n⟩ ∧ (s.terRuns = true ∨ s.retested (segAt g.val i).unit = true))
include h

/-- A block that reads as it should is passed. -/
theorem execTerrierMemStep_of_good : execTerrierMemStep g none again none s =
    .next ((s.memClear (segAt g.val i) n).memStepped g.val i n sig) := by
  obtain ⟨hseg, hruns⟩ := h
  simp only [execTerrierMemStep, hseg]
  rw [if_neg (State.not_stopped hruns)]
  rfl

/-- A bit found wrong is retested; where it fails again the segment has failed. -/
theorem execTerrierMemStep_of_bad {d : BitVec 9} {t : State} {failed : Bool}
    (hfind : (s.memClear (segAt g.val i) n).memFinding (segAt g.val i).unit (segAt g.val i).cls
      ((segAt g.val i).addr + 64 * n + d.toNat / 64 * 8) (d.toNat % 64) again.val = (t, failed)) :
    execTerrierMemStep g (some d) again none s = .next (t.memStepped g.val i n (if failed then some 0 else sig)) := by
  obtain ⟨hseg, hruns⟩ := h
  rw [State.memClear] at hfind
  simp only [execTerrierMemStep, hseg]
  rw [if_neg (State.not_stopped hruns), hfind]
  rfl

/-- A word that does not read back is handled as lost unless it is poisoned already. -/
theorem execTerrierMemStep_of_lost (w : Fin 8) :
    execTerrierMemStep g none again (some w) s = .next (
      let c := s.memClear (segAt g.val i) n
      let a := (segAt g.val i).addr + 64 * n + 8 * w.val
      (if (segAt g.val i).cls ≤ 3 ∧ c.poisoned a = true then c
        else c.terLost (segAt g.val i).cls (segAt g.val i).unit a).memStepped g.val i n sig) := by
  obtain ⟨hseg, hruns⟩ := h
  simp only [execTerrierMemStep, hseg]
  rw [if_neg (State.not_stopped hruns)]
  rfl

end Runs
end MemStep

/-! A run of a unit's segments (R506), the ring (R510, R513, R579) and the hourly commit (R512) -/

section Recorder
variable {s : State} {rq : Requester} {u : Fin 1024}

theorem execTerrierRun_of_ok (h : s.checkWrite rq (Key.terRun u.val) 1 = .ok) :
    execTerrierRun rq u s = .next (if hasSegments u.val then (s.terRunUnit u.val).status .ok else s.status .range) := by
  simp only [execTerrierRun, h]

theorem execEvrMramWrite_of_empty (h : s.staged = []) : execEvrMramWrite s = .next s := by
  simp only [execEvrMramWrite, h]

/-- No record is written during a supply warning, without the supply, or in a power-on reset. -/
theorem execEvrMramWrite_of_held (h : s.warn = true ∨ s.pwrgood = false ∨ s.aonPor = true) : execEvrMramWrite s = .next s := by
  have hheld : s.warn = true ∨ (!s.pwrgood) = true ∨ s.aonPor = true := by simpa using h
  rw [execEvrMramWrite]
  split
  · rfl
  · rw [if_pos hheld]

/-- The oldest staged record goes behind the ring's last one, in a block begun where it does not fit. -/
theorem execEvrMramWrite_of_first {r : Rec} {rest : List Rec}
    (h : s.staged = r :: rest ∧ s.warn = false ∧ s.pwrgood = true ∧ s.aonPor = false) :
    execEvrMramWrite s = .next (
      let len := recSize r.payload.length
      let b := if s.ringOff = 0 then s.beginBlock s.ringBlock
        else if 4096 < s.ringOff + len then s.beginBlock ((s.ringBlock + 1) % 4096) else s
      { b.store (ringBase + b.ringBlock * 4096 + b.ringOff) (recBytes r) with
        staged := rest
        ring := b.ring ++ [⟨r.seq, b.ringBlock, b.ringOff, len, false⟩]
        ringBlock := if b.ringOff + len = 4096 then (b.ringBlock + 1) % 4096 else b.ringBlock
        ringOff := (b.ringOff + len) % 4096 }) := by
  obtain ⟨hst, hwarn, hpwr, haon⟩ := h
  simp only [execEvrMramWrite, hst]
  rw [if_neg (by simp [hwarn, hpwr, haon])]

theorem execOpsecCommit_of_due (hp : s.phase ≠ phReset) (h : s.opsecHour < s.hourNow) :
    execOpsecCommit s = .next { s.commitOpsec with opsecHour := s.hourNow } := by
  rw [execOpsecCommit, if_neg (not_or.mpr ⟨hp, Nat.not_le.mpr h⟩)]

theorem execOpsecCommit_of_not_due (h : s.phase = phReset ∨ s.hourNow ≤ s.opsecHour) : execOpsecCommit s = .next s := by
  rw [execOpsecCommit, if_pos h]

end Recorder

/-- Settles O53: what waits, what is under way and what is found decide how Terrier and the event recorder go on. -/
theorem terrierRecorder : Obligations.TerrierRecorder := by
  intro s rq p g u i n e sg sig v r l rest bad again lost gap sched idle head at_ ahead first taken x a tests clear stepped runs len may b
  have hsched : s.segSched g.val = true ↔ sched := s.segSched_iff g.val
  have hfirst : first ↔ s.retested x.unit = true ∨ s.segSched g.val = true := or_congr Iff.rfl hsched.symm
  refine ⟨execTerrierSegmentStart_of_busy, fun hidle hh hno => ?headWaits, fun hidle hh hgo hmay => ?headStarts,
    fun hidle hh hgo hmay => ?headDropped, fun hidle hh hno => ?orderWaits, fun hidle hh hgo => ?orderStarts,
    execTerrierSignatureCheck_of_signed, fun h => ?unsigned, fun ht => ?good, fun ht d t hf => ?foundOnce, fun ht hn d t hf => ?failed,
    fun ht hn d t hf => ?failedLast, fun ht w => ?lost, execTerrierMemStep_of_none, execTerrierMemStep_of_stopped, fun hok hs => ?run,
    fun hok hs => ?runRange, execEvrMramWrite_of_empty, execEvrMramWrite_of_held, execEvrMramWrite_of_first, fun hok => ?cursor,
    fun hok => ?user, execOpsecCommit_of_due, execOpsecCommit_of_not_due⟩
  case headWaits =>
    rw [exec_terrierSegmentStart, execTerrierSegmentStart_of_head hidle hh]
    exact congrArg _ (if_neg (mt hfirst.mpr hno))
  case headStarts =>
    rw [exec_terrierSegmentStart, execTerrierSegmentStart_of_head hidle hh]
    exact congrArg _ ((if_pos (hfirst.mp hgo)).trans (if_pos hmay))
  case headDropped =>
    rw [exec_terrierSegmentStart, execTerrierSegmentStart_of_head hidle hh]
    exact congrArg _ ((if_pos (hfirst.mp hgo)).trans (if_neg (Bool.eq_false_iff.mp hmay)))
  case orderWaits =>
    rw [exec_terrierSegmentStart, execTerrierSegmentStart_of_order hidle hh]
    exact congrArg _ (if_neg (mt hsched.mp hno))
  case orderStarts =>
    rw [exec_terrierSegmentStart, execTerrierSegmentStart_of_order hidle hh]
    exact congrArg _ (if_pos (hsched.mpr hgo))
  case unsigned =>
    refine execTerrierSignatureCheck_of_unsigned fun u' sig' e' => ?_
    rcases h with h | h | h <;> rw [h] <;> simp
  case good => rw [exec_terrierMemStep, execTerrierMemStep_of_good ht]; rfl
  case lost => rw [exec_terrierMemStep, execTerrierMemStep_of_lost ht w]; rfl
  case foundOnce => exact execTerrierMemStep_of_bad ht hf
  case failed =>
    rw [exec_terrierMemStep, execTerrierMemStep_of_bad ht hf]
    exact congrArg _ (if_pos hn)
  case failedLast =>
    rw [exec_terrierMemStep, execTerrierMemStep_of_bad ht hf]
    exact congrArg _ (if_neg (Nat.not_lt.mpr hn))
  case run => rw [exec_terrierRun, execTerrierRun_of_ok hok, if_pos hs]
  case runRange => rw [exec_terrierRun, execTerrierRun_of_ok hok, hs]; rfl
  case cursor => rw [exec_evrCursorWrite, execEvrCursorWrite, State.guarded_of_ok hok]
  case user => rw [exec_evrUserCtl, execEvrUserCtl, State.guarded_of_ok hok]

end Sys2Proof.Machine
end

section
/-!
PROOFS. Hound's occasions, floor and qualifier (R226 to R238, R252): what an engine's watch reads after it was written, the begin of an
occasion, an energy window against the floor, and with them the statement O33.
-/
namespace Sys2Proof.Machine

/-! What an engine reads after it was written -/

@[simp] theorem State.hnd_setHnd (s : State) (e : Nat) (h : Hound) : (s.setHnd e h).hnd e = h := tget_tput_self _ _ _ _
@[simp] theorem State.hnd_incSat (s : State) (k hi lo n e : Nat) : (s.incSat k hi lo n).hnd e = s.hnd e := rfl
@[simp] theorem State.hnd_incWrap (s : State) (k hi lo n e : Nat) : (s.incWrap k hi lo n).hnd e = s.hnd e := rfl
@[simp] theorem State.hnd_setSticky (s : State) (k i e : Nat) : (s.setSticky k i).hnd e = s.hnd e := rfl
@[simp] theorem State.hnd_setLv (s : State) (t : TableId) (x : Live) (e : Nat) : (s.setLv t x).hnd e = s.hnd e := rfl
@[simp] theorem Hound.w_setW (h : Hound) (w : Nat) (x : Watch) : (h.setW w x).w w = x := tget_tput_self _ _ _ _
@[simp] theorem Hound.l_setL (h : Hound) (l : Nat) (x : Lane) : (h.setL l x).l l = x := tget_tput_self _ _ _ _

/-- A flag outside a field survives the field's setting. -/
theorem State.flag_setFld_other (s : State) (k hi lo x i : Nat) (h : lo ≤ hi) (h64 : hi < 64) (hd : hi < i ∨ i < lo) :
    (s.setFld k hi lo x).flag k i = s.flag k i := by
  have hfld := s.fld_setFld_other k hi lo x i i h h64 le_rfl hd
  rw [State.flag, State.flag, bit_eq_bf, bit_eq_bf]
  exact congrArg (· == 1) hfld

/-! The begin of an occasion (R226, R228, R248) -/

/-- A draw takes a free value and moves the contention window alone. -/
theorem State.senseDraw_eq (s : State) (ws : List U64) (x : Watch) :
    ∃ n c m, s.senseDraw ws x = (n, { x with cw := c, maxDraws := m }, s.draw.2) := ⟨_, _, _, rfl⟩

/-- A row without a deferred write is latched as it stands. -/
theorem State.beginOcc_of_not_deferred {s : State} {t : TableId} {r : Nat} (h : tfind (s.lv t).deferred r = none) (time : Nat) :
    s.beginOcc t r time = s.setLv t { s.lv t with occ := (s.lv t).occ ++ [⟨r, s.rowOf t 0 r, s.raw.toNat, time⟩] } := by
  have happly : s.applyDeferred t r = s := by rw [State.applyDeferred, h]
  rw [State.beginOcc, happly, ite_self]

/-- A begun occurrence executes its row. -/
theorem State.executing_beginOcc (s : State) (t : TableId) (r time : Nat) : (s.beginOcc t r time).executing t r = true := by
  simp [State.executing, State.beginOcc, State.lv, State.setLv]

section Start
variable {s t : State} {e : Fin 8} {w : Fin 16} {k b : Nat}
  (hswap : s.swapBefore (.watch e) (fun s => (s.occasionNow e w.val).map (·.2)) = t)
include hswap

theorem execHoundOccasionStart_of_none (hnow : t.occasionNow e w.val = none) : execHoundOccasionStart e w s = .next t := by
  rw [execHoundOccasionStart, hswap]
  simp only [hnow]

variable (hnow : t.occasionNow e w.val = some (k, b))
include hnow

/-- An occasion of another partition's carrier is skipped (R226). -/
theorem execHoundOccasionStart_of_foreign
    (hpart : t.partOfCarrier (wCarrier (t.rowOf (.watch e) 0 w.val)) ≠ t.partOfPack e.val) :
    execHoundOccasionStart e w s = .next ((t.setHnd e.val ((t.hnd e.val).setW w.val
      { (t.hnd e.val).w w.val with nextBegin := tput ((t.hnd e.val).w w.val).nextBegin k (b + 1) })).incSat
        (Key.hndOcc e.val w.val) 31 16 1) := by
  rw [execHoundOccasionStart, hswap]
  simp only [hnow]
  rw [if_pos hpart]

/-- An occasion of the engine's own partition begins, with a fresh record of what it has done (R228). -/
theorem execHoundOccasionStart_of_own
    (hpart : t.partOfCarrier (wCarrier (t.rowOf (.watch e) 0 w.val)) = t.partOfPack e.val)
    (hdef : tfind (t.lv (.watch e)).deferred w.val = none) :
    ∃ u i, execHoundOccasionStart e w s = .next u ∧ u.executing (.watch e) w.val = true ∧
      ((u.hnd e.val).w w.val).nextBegin = tput ((t.hnd e.val).w w.val).nextBegin k (b + 1) ∧
      ((u.hnd e.val).w w.val).runs = ((t.hnd e.val).w w.val).runs ++ [⟨b, [], [], i, true, 0, 0, [], 0⟩] ∧
      u.mem = t.mem ∧ u.tile = t.tile ∧ u.kennel = t.kennel ∧ u.outq = t.outq := by
  rw [execHoundOccasionStart, hswap]
  simp -zeta only [hnow]
  extract_lets ws h y x v h' x' ws'
  rw [if_neg (not_not_intro hpart)]
  have hbegin : (t.setHnd e.val (h.setW w.val x)).beginOcc (.watch e) w.val b = _ :=
    State.beginOcc_of_not_deferred (s := t.setHnd e.val (h.setW w.val x)) hdef b
  have hrun : v.executing (.watch e) w.val = true := State.executing_beginOcc _ _ _ _
  have hx : x' = x := by simp [x', h', v, hbegin, State.hnd_setLv]
  have hsame : v.mem = t.mem ∧ v.tile = t.tile ∧ v.kennel = t.kennel ∧ v.outq = t.outq := by
    simp only [v, hbegin]
    exact ⟨rfl, rfl, rfl, rfl⟩
  split_ifs with hsense
  · obtain ⟨n, c, m, hdraw⟩ := v.senseDraw_eq ws' x'
    rw [hdraw]
    exact ⟨_, n, rfl, hrun, by simp [hx, x, h], by simp [hx, x, y, h], hsame⟩
  · exact ⟨_, 0, rfl, hrun, by simp [hx, x, h], by simp [hx, x, y, h], hsame⟩

end Start

/-! The end of an occasion (R228, R240) -/

/-- A step over an engine's lanes that leaves every lane as it is leaves the state. -/
theorem lanes_foldl_of_fixed {s : State} {f : State → Nat → State} (hf : ∀ l, l < 16 → f s l = s) : (List.range 16).foldl f s = s :=
  List.foldlRecOn (motive := (· = s)) _ _ rfl fun _ hu l hl => hu ▸ hf l (List.mem_range.mp hl)

/-! An energy window against the floor (R233 to R235) -/

/-- The level of a window takes one free value. -/
theorem State.levelOf_snd (s : State) (num den : Nat) : (s.levelOf num den).2 = s.draw.2 := by
  rw [State.levelOf]
  split <;> rfl

theorem State.levelOf_eq {s : State} {num den : Nat} {le : Int} (h : (s.levelOf num den).1 = le) :
    s.levelOf num den = (le, s.draw.2) := Prod.ext h (s.levelOf_snd num den)

/-- A watch after a window of level le that seeds its floor (R233). -/
def Watch.seededBy (y : Watch) (le : Int) : Watch :=
  let z := { y with seedN := y.seedN + 1, seedSum := y.seedSum + le, escN := 0, escSum := 0 }
  if z.seedN = 16 then { z with seeded := true, lf := z.seedSum * 16, seedN := 0, seedSum := 0 } else z

theorem Watch.seededBy_of_lt {y : Watch} (h : y.seedN < 15) (le : Int) :
    y.seededBy le = { y with seedN := y.seedN + 1, seedSum := y.seedSum + le, escN := 0, escSum := 0 } :=
  if_neg (by dsimp only; omega)

theorem Watch.seededBy_of_last {y : Watch} (h : y.seedN = 15) (le : Int) :
    (y.seededBy le).seeded = true ∧ (y.seededBy le).lf = (y.seedSum + le) * 16 := by
  simp [Watch.seededBy, h]

section Energy
variable {s : State} {e : Fin 8} {w : Nat} {o : Occ} {x : List (List C16)} {le : Int}
  (hle : (s.levelOf (energySum x) (wWin o.words * wStreams o.words)).1 = le) (r : HoundOcc) (last : Nat)
include hle

theorem State.energy_of_unseeded (h : ((s.hnd e.val).w w).seeded = false) :
    s.energy e w o r x last = s.draw.2.setHnd e.val ((s.hnd e.val).setW w ((((s.hnd e.val).w w).setRun r).seededBy le)) := by
  have hseeds : (!((s.hnd e.val).w w).seeded) = true := by rw [h]; rfl
  rw [State.energy, State.levelOf_eq hle]
  exact if_pos hseeds

/-- A window that triggers is counted, and the floor stays (R234). -/
theorem State.energy_of_trigger (h : ((s.hnd e.val).w w).seeded = true)
    (hlevel : ((s.hnd e.val).w w).lf + 256 * (bf (wWord o.words 0) 47 40 : Nat) ≤ 256 * le) :
    ∃ y, y.lf = ((s.hnd e.val).w w).lf ∧
      s.energy e w o r x last = (s.draw.2.setHnd e.val ((s.hnd e.val).setW w y)).incSat (Key.hndDet e.val w) 63 32 1 := by
  rw [State.energy, State.levelOf_eq hle]
  refine ⟨_, ?_, (if_neg (by rw [h]; decide : ¬ (!((s.hnd e.val).w w).seeded) = true)).trans (if_pos hlevel)⟩
  split <;> rfl

/-- A window below the threshold moves the floor while no lane of the watch is open (R234). -/
theorem State.energy_of_quiet (h : ((s.hnd e.val).w w).seeded = true)
    (hlevel : 256 * le < ((s.hnd e.val).w w).lf + 256 * (bf (wWord o.words 0) 47 40 : Nat))
    (hclosed : ∀ l, l < 16 → ((s.hnd e.val).l l).isOpen = false ∨ ((s.hnd e.val).l l).watch ≠ w) :
    ∃ y, y.lf = ((s.hnd e.val).w w).lf + (256 * le - ((s.hnd e.val).w w).lf) / (2 ^ bf (wWord o.words 0) 39 36 : Nat) ∧
      s.energy e w o r x last = s.draw.2.setHnd e.val ((s.hnd e.val).setW w y) := by
  have hopen : (List.range 16).any (fun l => ((s.hnd e.val).l l).isOpen && ((s.hnd e.val).l l).watch == w) = false := by
    simpa [List.any_eq_false, imp_iff_not_or] using hclosed
  rw [State.energy, State.levelOf_eq hle]
  refine ⟨_, ?_, (if_neg (by rw [h]; decide : ¬ (!((s.hnd e.val).w w).seeded) = true)).trans (if_neg (not_le.mpr hlevel))⟩
  rw [apply_ite Watch.lf, ite_self]
  exact if_neg (ne_true_of_eq_false hopen)

end Energy

/-! The escape of the floor (R235) -/

/-- A watch whose floor is the mean of its run's levels, a broken mean rounded down or up as the free value a says. -/
def Watch.escaped (y : Watch) (a : Nat) : Watch :=
  let q := y.escSum * 256 / (y.escN : Int)
  { y with lf := if y.escSum * 256 % (y.escN : Int) = 0 then q else q + (a : Int), escN := 0, escSum := 0 }

theorem Watch.escaped_lf_of_whole {y : Watch} (h : y.escSum * 256 % (y.escN : Int) = 0) (a : Nat) :
    (y.escaped a).lf = y.escSum * 256 / (y.escN : Int) := if_pos h

theorem Watch.escaped_lf_bounds (y : Watch) {a : Nat} (ha : a < 2) :
    y.escSum * 256 / (y.escN : Int) ≤ (y.escaped a).lf ∧ (y.escaped a).lf ≤ y.escSum * 256 / (y.escN : Int) + 1 := by
  simp only [Watch.escaped]
  split <;> omega

/-- The engine sets the floor to the mean level of the run, and tells of it. -/
theorem execHoundFloorEscape_of_run {s : State} {e : Fin 8} {w : Fin 16} {y : Watch} (hy : (s.hnd e.val).w w.val = y)
    (hn : s.entN Key.hndFloorEscape ≤ y.escN) (h0 : y.escN ≠ 0)
    (hruns : y.runs.all (fun r => r.trigs.all (fun q => decide (q.1 < y.escFrom) || decide (y.escTo < q.1))) = true) :
    execHoundFloorEscape e w s = .next (((s.draw.2.setHnd e.val ((s.hnd e.val).setW w.val (y.escaped (s.drawBelow 2).1))).setSticky
      (Key.hndFloor e.val w.val) 0).incSat (Key.hndFloor e.val w.val) 31 16 1) := by
  subst hy
  exact congrArg _ (if_pos ⟨hn, h0, hruns⟩)

/-! The qualifier (R236) -/

/-- Without an arrival the interval is done, and nothing opens. -/
theorem State.qualify_of_no_arrival {s t : State} {e : Fin 8} {w : Nat} {o : Occ} {at_ : Nat}
    (h : s.arrivals e o.words ((wSlots o.words).map (fun m =>
      let l := ((s.hnd e.val).symbolOf m (wSeqLen o.words) at_ (at_ + wSym o.words)).map sampleOr0
      List.replicate (wSeqLen o.words - l.length) 0 ++ l)) = (t, [])) (le : Int) :
    s.qualify e w o at_ le = t.setHnd e.val ((s.hnd e.val).setW w (((s.hnd e.val).w w).setRun
      { ((s.hnd e.val).w w).run o.time with trigs := (((s.hnd e.val).w w).run o.time).trigs.filter (fun q => q.1 != at_) })) := by
  rw [State.qualify]
  dsimp only
  rw [h]
  simp

/-- Settles O33: what begins, what ends and what the window's level is decide what the watch, its floor and its counts become. -/
theorem houndOccasionsFloor : Obligations.HoundOccasionsFloor := by
  intro s e w k b last at_ o r x lv h y sw z c ending closed window due le v vy det n q xs ar same
  have hle : (s.levelOf (energySum x) (wWin o.words * wStreams o.words)).1 = le := rfl
  have hseed : y.seeded = false → vy = (y.setRun r).seededBy le ∧ v.od = s.od ∧ same v s := fun hs => by
    have hv : v = _ := State.energy_of_unseeded hle r last hs
    refine ⟨by simp [vy, hv, y, h], ?_⟩
    rw [hv]
    exact ⟨rfl, rfl, rfl, rfl, rfl⟩
  have hqualify : exec (.houndQualify e w) s =
      .next (match due with | some (o, at_, lv) => s.qualify e w.val o at_ lv | none => s) := rfl
  refine ⟨execHoundOccasionStart_of_foreign rfl, execHoundOccasionStart_of_own rfl, execHoundOccasionStart_of_none rfl,
    fun hend => ?ends, fun hl => ?noLanes, fun hwin => ?window, fun hs hn => ?seeds, fun hs hn => ?seeded, fun hs hd => ?triggers,
    fun hs hd hl => ?moves, fun hn h0 hruns => ?escapes, fun hdue => ?due, fun har => ?noArrival, fun hdue => ?notDue⟩
  case ends =>
    show Host.Outcome.next (match ending with | some o => _ | none => s) = _
    rw [hend]
  case noLanes =>
    refine lanes_foldl_of_fixed fun l hlt => if_neg fun hc => ?_
    obtain ⟨hopen, hwatch, -⟩ := hc
    exact (hl l hlt).elim (fun hcl => Bool.false_ne_true (hcl.symm.trans hopen)) (fun hne => hne hwatch)
  case window =>
    show Host.Outcome.next (match window with | some (o, r, x, last) => s.energy e w.val o r x last | none => s) = _
    rw [hwin]
  case seeds =>
    obtain ⟨hy, hrest⟩ := hseed hs
    exact ⟨hy.trans (Watch.seededBy_of_lt (y := y.setRun r) hn le), hrest⟩
  case seeded =>
    obtain ⟨hy, hrest⟩ := hseed hs
    obtain ⟨hseeded, hlf⟩ := Watch.seededBy_of_last (y := y.setRun r) hn le
    exact ⟨hy ▸ hseeded, hy ▸ hlf, hrest⟩
  case triggers =>
    obtain ⟨y', hlf, hv⟩ := State.energy_of_trigger hle r last hs hd
    have hy : vy = y' := by simp [vy, v, hv]
    refine ⟨hy ▸ hlf, ?_⟩
    simp only [v, hv]
    exact ⟨⟨rfl, rfl, rfl, rfl⟩, State.fld_incSat_self _ _ _ _ _ (by decide) (by decide)⟩
  case moves =>
    obtain ⟨y', hlf, hv⟩ := State.energy_of_quiet hle r last hs hd hl
    have hy : vy = y' := by simp [vy, v, hv]
    refine ⟨hy ▸ hlf, ?_⟩
    simp only [v, hv]
    exact ⟨rfl, rfl, rfl, rfl, rfl⟩
  case escapes =>
    obtain ⟨hlo, hhi⟩ := y.escaped_lf_bounds (a := (s.drawBelow 2).1) (Nat.mod_lt _ (by decide))
    refine ⟨_, execHoundFloorEscape_of_run rfl hn h0 hruns, ?_⟩
    simp only [State.hnd_incSat, State.hnd_setSticky, State.hnd_setHnd, Hound.w_setW]
    exact ⟨rfl, rfl, hlo, hhi, fun hwhole => Watch.escaped_lf_of_whole hwhole _,
      (State.flag_setFld_other _ _ _ _ _ _ (by decide) (by decide) (by decide)).trans (State.flag_setFlag_self _ _ _ _ (by decide)),
      rfl, rfl, rfl, rfl⟩
  case due => rw [hqualify, hdue]
  case noArrival => exact State.qualify_of_no_arrival (Prod.ext rfl har) lv
  case notDue => rw [hqualify, hdue]

end Sys2Proof.Machine
end

section
/-!
PROOFS. Hound's lanes, tokens, verdicts and sensing (R240 to R251): what an access to memory and a template leave of Hound's state, a
symbol of a lane, and with them the statement O34.
-/
namespace Sys2Proof.Machine

/-! What leaves the sensing watches' results unchanged -/

/-- Two states with the same table occurrences, the same transmit gates and the same counts of sensing results. -/
structure State.SensingKept (s t : State) : Prop where
  live : t.live = s.live
  txGates : t.txGates = s.txGates
  lbt : ∀ (e : Fin 8) (w : Fin 16), t.ent (Key.hndLbt e.val w.val) = s.ent (Key.hndLbt e.val w.val)

/-- Two states that have Hound's engines alike too. -/
structure State.HoundKept (s t : State) : Prop extends s.SensingKept t where
  hound : t.hound = s.hound

/-- An entry that counts no sensing results. -/
def NotLbt (k : Nat) : Prop := ∀ (e : Fin 8) (w : Fin 16), Key.hndLbt e.val w.val ≠ k

section Kept
variable {s t u : State}

theorem State.SensingKept.trans (h : s.SensingKept t) (h' : t.SensingKept u) : s.SensingKept u :=
  ⟨h'.live.trans h.live, h'.txGates.trans h.txGates, fun e w => (h'.lbt e w).trans (h.lbt e w)⟩

theorem State.HoundKept.trans (h : s.HoundKept t) (h' : t.HoundKept u) : s.HoundKept u :=
  ⟨h.toSensingKept.trans h'.toSensingKept, h'.hound.trans h.hound⟩

theorem State.HoundKept.refl (s : State) : s.HoundKept s := ⟨⟨rfl, rfl, fun _ _ => rfl⟩, rfl⟩

theorem State.HoundKept.hnd (h : s.HoundKept t) (e : Nat) : t.hnd e = s.hnd e := congrArg (tget houndInit · e) h.hound

/-- A fold whose steps keep Hound's state keeps it. -/
theorem State.HoundKept.foldl {α : Type} {f : State → α → State} (h : ∀ (s : State) a, s.HoundKept (f s a)) (l : List α) (s : State) :
    s.HoundKept (l.foldl f s) :=
  List.foldlRecOn (motive := s.HoundKept) l f (.refl s) fun t ht a _ => ht.trans (h t a)

theorem State.houndKept_setEnt {k : Nat} (h : NotLbt k) (v : U64) : s.HoundKept (s.setEnt k v) :=
  ⟨⟨rfl, rfl, fun e w => State.ent_setEnt_ne s v (h e w)⟩, rfl⟩

theorem State.houndKept_incSat {k : Nat} (h : NotLbt k) (hi lo n : Nat) : s.HoundKept (s.incSat k hi lo n) := State.houndKept_setEnt h _

end Kept

/-! Memory and its errors (R388, R395, R399, R406) -/

theorem notLbt_epClassCnt {c : Nat} (h : c < 16) : NotLbt (Key.epClassCnt c) := fun e w => by
  simp only [Key.hndLbt, Key.epClassCnt]; omega

theorem notLbt_epClassLog {c i : Nat} (h : c < 16) (hi : i < 16) : NotLbt (Key.epClassLog c i) := fun e w => by
  simp only [Key.hndLbt, Key.epClassLog]; omega

theorem memClass_lt {a c : Nat} (h : memClass a = some c) : c < 16 := by
  rw [memClass] at h
  split at h
  · rw [← Option.some.inj h]; exact Nat.mod_lt _ (by decide)
  · split at h <;> simp at h <;> omega

section Memory
variable (s : State)

theorem State.houndKept_logError {c : Nat} (hc : c < 16) (kind unit addr : Nat) : s.HoundKept (s.logError c kind unit addr) := by
  rw [State.logError]
  split
  case h_1 i hi => exact State.houndKept_setEnt (notLbt_epClassLog hc (List.mem_range.mp (List.mem_of_find?_eq_some hi))) _
  case h_2 =>
    split
    case h_1 i hi => exact State.houndKept_setEnt (notLbt_epClassLog hc (List.mem_range.mp (List.mem_of_find?_eq_some hi))) _
    case h_2 => exact State.houndKept_incSat (notLbt_epClassCnt hc) _ _ _

theorem State.houndKept_setPoison (a : Nat) : s.HoundKept (s.setPoison a) := ⟨⟨rfl, rfl, fun _ _ => rfl⟩, rfl⟩

theorem State.houndKept_poisonWord (w : Nat) : s.HoundKept (s.poisonWord w) := by
  rw [State.poisonWord]
  split
  case h_1 => exact .refl s
  case h_2 c _ hc =>
    exact ((s.houndKept_setPoison _).trans (State.houndKept_incSat (notLbt_epClassCnt (memClass_lt hc)) 31 16 1)).trans
      (State.houndKept_logError _ (memClass_lt hc) 1 _ _)
  case h_3 => exact .refl s

theorem State.houndKept_readTouch (a n : Nat) : s.HoundKept (s.readTouch a n) :=
  .foldl (fun t w => by split; exacts [t.houndKept_poisonWord w, .refl t]) _ s

theorem State.houndKept_markByte (a : Nat) : s.HoundKept (s.markByte a) := by
  rw [State.markByte]
  split
  · exact .refl s
  · dsimp only
    split <;> exact ⟨⟨rfl, rfl, fun _ _ => rfl⟩, rfl⟩

theorem State.houndKept_markBytes (a : Nat) (ms : List Bool) : s.HoundKept (s.markBytes a ms) := by
  induction ms generalizing s a with
  | nil => exact .refl s
  | cons m ms ih =>
    rw [State.markBytes]
    split
    · exact (s.houndKept_markByte a).trans (ih _ _)
    · exact ih _ _

theorem State.houndKept_storeMarked (a : Nat) (bs : List Byte) (p : Bool) : s.HoundKept (s.storeMarked a bs p) :=
  State.HoundKept.trans (t := s.store a _) ⟨⟨rfl, rfl, fun _ _ => rfl⟩, rfl⟩ (State.houndKept_markBytes _ _ _)

theorem State.houndKept_flushMerge (m : Merge) : s.HoundKept (s.flushMerge m) :=
  State.HoundKept.trans (t := { s with merges := s.merges.filter (· ≠ m) }) ⟨⟨rfl, rfl, fun _ _ => rfl⟩, rfl⟩
    (.foldl (fun t j => by
      split
      · exact (t.houndKept_readTouch _ 1).trans (State.houndKept_storeMarked _ _ _ _)
      · exact .refl t) _ _)

theorem State.houndKept_flushOver (r a n : Nat) : s.HoundKept (s.flushOver r a n) := .foldl State.houndKept_flushMerge _ s

theorem State.houndKept_wakeAt (a : Nat) : s.HoundKept (s.wakeAt a) := by
  rw [State.wakeAt]
  split
  · rw [State.wakePack]
    dsimp only
    split <;> exact ⟨⟨rfl, rfl, fun _ _ => rfl⟩, rfl⟩
  · exact .refl s

theorem State.houndKept_readMem (who : Accessor) (a n : Nat) : s.HoundKept (s.readMem who a n).1 :=
  ((s.houndKept_wakeAt a).trans (State.houndKept_flushOver _ _ _ _)).trans (State.houndKept_readTouch _ _ _)

theorem State.houndKept_writeMem (who : Accessor) (a : Nat) (bs : List Byte) (marked : Bool) :
    s.HoundKept (s.writeMem who a bs marked) :=
  ((s.houndKept_wakeAt a).trans (State.houndKept_flushOver _ _ _ _)).trans (State.houndKept_storeMarked _ _ _ _)

end Memory

/-! Records and templates (R241, R250) -/

theorem State.houndKept_stageOne (s : State) (ty : Nat) (bs : List Byte) : s.HoundKept (s.stageOne ty bs) := by
  refine ⟨⟨?_, ?_, fun e w => s.stageOne_ent_ne ty bs ?_⟩, ?_⟩
  case refine_3 => simp only [Key.hndLbt, Key.evrCnt]; omega
  all_goals rw [State.stageOne]; split <;> rfl

theorem State.houndKept_record (s : State) (ty : Nat) (ws : List U64) : s.HoundKept (s.record ty ws) := by
  rw [State.record, State.recordBytes]
  split
  · extract_lets l
    have hlost : l.HoundKept { l with lostRun := 0 } := ⟨⟨rfl, rfl, fun _ _ => rfl⟩, rfl⟩
    exact ((s.houndKept_stageOne _ _).trans hlost).trans (State.houndKept_stageOne _ _ _)
  · exact s.houndKept_stageOne _ _

theorem State.sensingKept_setHnd (s : State) (e : Nat) (h : Hound) : s.SensingKept (s.setHnd e h) := ⟨rfl, rfl, fun _ _ => rfl⟩
theorem State.sensingKept_sendItem (s : State) (x : Producer) (i : Item) : s.SensingKept (s.sendItem x i) := ⟨rfl, rfl, fun _ _ => rfl⟩

theorem State.sensingKept_submitTemplate (s : State) (e : Fin 8) (w : Nat) (ws : List U64) (nops lane b : Nat) (tag : Option Nat) :
    s.SensingKept (s.submitTemplate e w ws nops lane b tag).1 := by
  have hread := (s.houndKept_readMem (.pack e) (pmAddr e.val (wTemplate ws)) 64).toSensingKept
  unfold State.submitTemplate
  extract_lets q d d' i h
  split
  · have hkey : NotLbt (Key.hndErrors e.val) := fun e' w => by simp only [Key.hndLbt, Key.hndErrors]; omega
    exact hread.trans ((State.houndKept_incSat hkey 31 0 1).trans (State.houndKept_record _ _ _)).toSensingKept
  · split
    · exact hread.trans (State.sensingKept_setHnd _ _ _)
    · exact hread.trans (State.sensingKept_sendItem _ _ _)

/-! The end of a lane (R240, R242) -/

theorem State.lane_setHnd_setL (s : State) (e l : Nat) (h : Hound) (y : Lane) : ((s.setHnd e (h.setL l y)).hnd e).l l = y := by
  rw [State.hnd_setHnd, Hound.l_setL]

/-- The burst-end token of lane l with status st. -/
def Lane.endToken (y : Lane) (e l st : Nat) : HoundTok :=
  ⟨l, y.bseq, y.watch, y.handle.isNone, ⟨tokenTo ((y.handle.getD 0).toNat) 1 (houndUnit e) (st ≠ beComplete), w64 (st * 2 ^ 56)⟩⟩

section Lanes
variable (s : State) (e l st : Nat)

/-- A lane that ends is free, and keeps what it has copied. -/
theorem State.lane_endLane : ((s.endLane e l st).hnd e).l l = { (s.hnd e).l l with isOpen := false } := by
  rw [State.endLane]
  extract_lets h y b
  split
  · exact (congrArg (Hound.l · l) (State.hnd_setHnd _ _ _)).trans (Hound.l_setL _ _ _)
  · next hclosed =>
    have hfalse : ((s.hnd e).l l).isOpen = false := Bool.eq_false_iff.mpr hclosed
    rw [← hfalse]

theorem State.tokens_endLane (h : ((s.hnd e).l l).isOpen = true) :
    ((s.endLane e l st).hnd e).tokens = (s.hnd e).tokens ++ [((s.hnd e).l l).endToken e l st] := by
  rw [State.endLane]
  extract_lets h' y b
  rw [if_pos h]
  exact congrArg Hound.tokens (State.hnd_setHnd _ _ _)

end Lanes

/-! Symbols of a lane (R240, R242) -/

theorem State.houndKept_laneStore (s : State) (e : Fin 8) (lane : Nat) (xs : List (List C16)) :
    s.HoundKept (s.laneStore e lane xs) :=
  .foldl (fun t _ => t.houndKept_writeMem _ _ _ _) _ s

/-- A lane that has copied a symbol of n samples. -/
def Lane.copied (y : Lane) (n : Nat) (gap : Bool) (fades : Nat) (fadeDue : Bool) (perSym : Nat) : Lane :=
  { y with syms := y.syms + 1, samples := y.samples + n, gap := y.gap || gap, fades := fades, fadeDue := fadeDue, perSym := perSym }

/-- A lane whose burst is whole ends, unless it is to end FADED. -/
def State.endIfWhole (s : State) (e lane : Nat) : State :=
  let y := (s.hnd e).l lane
  if y.syms = wBurst y.latched ∧ !y.fadeDue then s.endLane e lane (if y.gap then beGap else beComplete) else s

theorem State.endIfWhole_setL (s : State) (e lane : Nat) (h : Hound) (y : Lane) :
    (s.setHnd e (h.setL lane y)).endIfWhole e lane =
      if y.syms = wBurst y.latched ∧ (!y.fadeDue) = true then
        (s.setHnd e (h.setL lane y)).endLane e lane (if y.gap = true then beGap else beComplete)
      else s.setHnd e (h.setL lane y) := by
  simp only [State.endIfWhole, State.lane_setHnd_setL]

theorem State.lane_endIfWhole (s : State) (e lane : Nat) :
    ∃ c, ((s.endIfWhole e lane).hnd e).l lane = { (s.hnd e).l lane with isOpen := c } := by
  rw [State.endIfWhole]
  extract_lets y
  split
  · exact ⟨false, s.lane_endLane e lane _⟩
  · exact ⟨y.isOpen, rfl⟩

theorem State.endIfWhole_of_more {s : State} {e lane : Nat} {y : Lane} (hy : (s.hnd e).l lane = y) (h : y.syms ≠ wBurst y.latched) :
    s.endIfWhole e lane = s := if_neg fun hc => h (hy ▸ hc.1)

theorem State.endIfWhole_of_complete {s : State} {e lane : Nat} {y : Lane} (hy : (s.hnd e).l lane = y) (h : y.syms = wBurst y.latched)
    (hfade : y.fadeDue = false) (hgap : y.gap = false) : s.endIfWhole e lane = s.endLane e lane beComplete := by
  subst hy
  simp [State.endIfWhole, h, hfade, hgap]

section Symbol
variable {s : State} {e : Fin 8} {lane : Nat} {y : Lane} {a b : Nat} {qs : List (List ((Nat × Option C16) × Nat))} {xs : List (List C16)}

/-- The next symbol of an open lane is stored and counted; in the first one nothing fades. -/
theorem State.laneSymbol_of_whole (hy : (s.hnd e.val).l lane = y) (ha : y.start + y.syms * wSym y.latched = a)
    (hb : a + wSym y.latched = b)
    (hqs : (wSlots y.latched).map (fun m => (s.hnd e.val).symbolOf m (wSymLen y.latched) a b) = qs)
    (hxs : qs.map (fun q => List.replicate (wSymLen y.latched - q.length) 0 ++ q.map sampleOr0) = xs)
    (hgo : y.isOpen = true ∧ y.fadeDue = false ∧ b ≤ y.winEnd ∧
      (wSlots y.latched).all (fun m => decide (b ≤ ((s.hnd e.val).line m).till)) = true) (hmore : y.syms < wBurst y.latched) :
    ∃ t f d p, s.laneSymbol e lane false = (t.setHnd e.val ((t.hnd e.val).setL lane (y.copied (wSymLen y.latched)
        (qs.any (fun q => q.length != wSymLen y.latched || q.any (·.1.2.isNone))) f d p))).endIfWhole e.val lane ∧
      (y.syms = 0 → t = s.laneStore e lane xs ∧ d = false) := by
  subst hy ha hb hqs hxs
  obtain ⟨hopen, hfade, hend, hcome⟩ := hgo
  unfold State.laneSymbol
  extract_lets h y ws n a b qs gap xs t
  rw [if_pos ⟨hopen, by simpa [y, h] using hfade, hmore, hend, Or.inr hcome⟩]
  by_cases h0 : y.syms = 0
  · rw [if_pos h0]
    dsimp -zeta only
    extract_lets faded fades y' h' t'
    have hnone : y'.fadeDue = false := by simp [y', faded, h0]
    exact ⟨t, fades, y'.fadeDue, y'.perSym, (State.endIfWhole_setL t e.val lane h' y').symm, fun _ => ⟨rfl, hnone⟩⟩
  · rw [if_neg h0]
    obtain ⟨le, t''⟩ := t.levelOf (energySum xs) (n * wStreams ws)
    dsimp -zeta only
    extract_lets faded fades y' h' t'
    exact ⟨t'', fades, y'.fadeDue, y'.perSym, (State.endIfWhole_setL t'' e.val lane h' y').symm, fun hz => absurd hz h0⟩

end Symbol

/-! Tokens (R103, R241) -/

section Tokens
variable {s : State} {e : Fin 8}

theorem execHoundTokenSend_of_template {i : Item} {is : List Item} (hc : s.creditOf (.hound e) ≠ 0)
    (ht : (s.hnd e.val).templates = i :: is) :
    execHoundTokenSend e s = .next ((s.setHnd e.val { s.hnd e.val with templates := is }).sendItem (.hound e) i) := by
  rw [execHoundTokenSend]
  dsimp only
  rw [if_neg hc, ht]

theorem execHoundTokenSend_of_token {tk : HoundTok} (hc : s.creditOf (.hound e) ≠ 0) (ht : (s.hnd e.val).templates = [])
    (htk : (List.range 17).findSome? (fun l => ((s.hnd e.val).tokens.find? (fun t => t.lane == l)).filter (fun t => !t.waiting)) = some tk) :
    execHoundTokenSend e s = .next ((s.setHnd e.val { s.hnd e.val with tokens := (s.hnd e.val).tokens.erase tk }).sendItem (.hound e)
      (.token tk.tok (s.partOfProd (.hound e)) .none)) := by
  rw [execHoundTokenSend]
  dsimp only
  rw [if_neg hc, ht, htk]

theorem execHoundTokenSend_of_no_credit (hc : s.creditOf (.hound e) = 0) : execHoundTokenSend e s = .next s := by
  rw [execHoundTokenSend]
  exact congrArg _ (if_pos hc)

end Tokens

/-! Verdicts (R244, R251) -/

/-- A field of a number that fits in a word. -/
theorem bf_w64 {n : Nat} (h : n < 2 ^ 64) (hi lo : Nat) : bf (w64 n) hi lo = n / 2 ^ lo % 2 ^ (hi + 1 - lo) := by
  rw [bf, w64, BitVec.toNat_ofNat, Nat.mod_eq_of_lt h]

section Verdicts
variable {s : State} {rq : Requester} {e : Fin 8} {v : U64}

theorem State.verdictBy_of_ok (h : s.checkWrite rq (Key.hndVerdict e.val) v = .ok) : s.verdictBy rq e v = s.verdictWrite e v := by
  rw [State.verdictBy, h]

theorem State.verdictWrite_of_crcFail (hop : bf v 63 62 = 1) (he : bf v 31 29 = e.val) :
    s.verdictWrite e v = (s.incSat (Key.hndLoss e.val (bf v 28 25)) 63 48 1).status .ok := by
  simp [State.verdictWrite, hop, he]

variable {w : Nat} (hw : bf v 3 0 = w) (htype : wType (s.rowOf (.watch e) 0 w) = 3)
include hw htype

theorem State.verdictWrite_of_increase (hop : bf v 63 62 = 2) :
    s.verdictWrite e v =
      let p := bf (wWord (s.rowOf (.watch e) 0 w) 4) 59 58
      (s.setCw e.val w (((cwAllowed p).find? (fun c => decide (((s.hnd e.val).w w).cwOf p < c))).getD (cwMax p))).status .ok := by
  simp [State.verdictWrite, hop, hw, htype]

theorem State.verdictWrite_of_reset (hop : bf v 63 62 = 3) :
    s.verdictWrite e v = (s.setCw e.val w (cwMin (bf (wWord (s.rowOf (.watch e) 0 w) 4) 59 58))).status .ok := by
  simp [State.verdictWrite, hop, hw, htype]

end Verdicts

/-! Sensing (R247 to R250) -/

/-- The occurrence that ends is the first for which p holds. -/
theorem State.occ_endOcc (s : State) (t : TableId) (p : Occ → Bool) : ((s.endOcc t p).lv t).occ = (s.lv t).occ.eraseP p := by
  rw [State.endOcc]
  dsimp only
  split
  case h_1 hnone => rw [List.eraseP_of_forall_not (by simpa using hnone)]
  case h_2 => split <;> simp [State.barRow, State.lv, State.setLv]

theorem State.endOcc_txGates (s : State) (t : TableId) (p : Occ → Bool) : (s.endOcc t p).txGates = s.txGates := by
  rw [State.endOcc]
  dsimp only
  split
  · rfl
  · split <;> rfl

theorem State.endOcc_ent (s : State) (t : TableId) (p : Occ → Bool) (k : Nat) : (s.endOcc t p).ent k = s.ent k := by
  rw [State.endOcc]
  dsimp only
  split
  · rfl
  · split <;> rfl

/-- A wrapping counter's field after n more events (R5). -/
theorem State.fld_incWrap_self (s : State) (k hi lo n : Nat) (h : lo ≤ hi) (h64 : hi < 64) :
    (s.incWrap k hi lo n).fld k hi lo = wrapAdd (hi + 1 - lo) (s.fld k hi lo) n :=
  (State.fld_setFld_self _ _ _ _ _ h h64).trans (Nat.mod_mod _ _)

/-- The state after the result of a sensing occasion is counted, its gate opened where it is clear. -/
def State.sensed (s : State) (e : Fin 8) (w : Nat) (o : Occ) (clear : Bool) : State :=
  let t := (s.setHnd e.val ((s.hnd e.val).setW w (((s.hnd e.val).w w).endRun o.time))).endOcc (.watch e) (· == o)
  if clear then
    (t.openGate (wCarrier o.words) (o.time + wLength o.words)
      (o.time + wLength o.words + nsT (bf (wWord o.words 5) 63 32))).incWrap (Key.hndLbt e.val w) 63 48 1
  else t.incSat (Key.hndLbt e.val w) 47 32 1

section Sensed
variable (s : State) (e : Fin 8) (w : Nat) (o : Occ)

/-- A clear result opens its carrier's gate from the window's end for COT, and is counted CLEAR (R250). -/
theorem State.sensed_of_clear :
    (s.sensed e w o true).txGates = (s.openGate (wCarrier o.words) (o.time + wLength o.words)
      (o.time + wLength o.words + nsT (bf (wWord o.words 5) 63 32))).txGates ∧
    (s.sensed e w o true).fld (Key.hndLbt e.val w) 63 48 = wrapAdd 16 (s.fld (Key.hndLbt e.val w) 63 48) 1 := by
  have hgates : ∀ h, ((s.setHnd e.val h).endOcc (.watch e) (· == o)).txGates = s.txGates := fun h => State.endOcc_txGates _ _ _
  have hent : ∀ h k, ((s.setHnd e.val h).endOcc (.watch e) (· == o)).ent k = s.ent k := fun h k => State.endOcc_ent _ _ _ k
  refine ⟨?_, (State.fld_incWrap_self _ _ _ _ _ (by decide) (by decide)).trans ?_⟩
  · simp only [State.sensed, if_true, State.incWrap_txGates, State.openGate, State.gates, hgates]
  · exact congrArg (fun v => wrapAdd 16 (bf v 63 48) 1) (hent _ _)

/-- Another result opens nothing, and is counted BLOCKED; its occurrence has ended. -/
theorem State.sensed_of_blocked :
    (s.sensed e w o false).txGates = s.txGates ∧
    ((s.sensed e w o false).lv (.watch e)).occ = ((s.endOcc (.watch e) (· == o)).lv (.watch e)).occ ∧
    (s.sensed e w o false).fld (Key.hndLbt e.val w) 47 32 = satAdd 16 (s.fld (Key.hndLbt e.val w) 47 32) 1 := by
  refine ⟨State.endOcc_txGates _ _ _, ?_, (State.fld_incSat_self _ _ _ _ _ (by decide) (by decide)).trans ?_⟩
  · exact (State.occ_endOcc _ _ _).trans (s.occ_endOcc _ _).symm
  · exact congrArg (fun v => satAdd 16 (bf v 47 32) 1) (State.endOcc_ent _ _ _ _)

end Sensed

/-- The template and the token of a result leave its count, the gates and the occurrences as they are. -/
theorem execSenseResult_of_ended {s : State} {e : Fin 8} {w : Fin 16} {o : Occ} {clear : Bool}
    (ho : (s.occsOf e w.val).find? (fun o => wType o.words == 3 && decide (o.time + wLength o.words ≤ s.now)) = some o)
    (hc : senseClear o.words ((s.hnd e.val).measure o (((s.hnd e.val).w w.val).run o.time) ((bf (wWord o.words 2) 31 0 - 3000) / 1000))
      = clear) :
    ∃ u, execSenseResult e w s = .next u ∧ (s.sensed e w.val o clear).SensingKept u := by
  subst hc
  -- Held abstract: the kernel would otherwise evaluate the submission each time it compares two forms of the goal.
  obtain ⟨submit, hsubmit⟩ : ∃ f, f = State.submitTemplate := ⟨_, rfl⟩
  have hsub := State.sensingKept_submitTemplate
  rw [← hsubmit] at hsub
  rw [execSenseResult, ← hsubmit]
  simp -zeta only [ho]
  extract_lets ws end_ h r clear t t' h' b t''
  have hkept : (s.sensed e w.val o clear).SensingKept (submit t'' e w.val ws 1 16 b none).1 :=
    (State.sensingKept_setHnd t' e.val _).trans (hsub _ _ _ _ _ _ _ _)
  split
  · exact ⟨_, rfl, hkept.trans (State.sensingKept_setHnd _ _ _)⟩
  · exact ⟨_, rfl, hkept⟩

/-- Settles O34: what has come, what is due, what waits and what was measured decide what becomes of a lane, a token and a result. -/
theorem houndLanesSensing : Obligations.HoundLanesSensing := by
  intro s rq e w l o r tag tk i is mp h y n a b qs xs gap comes ws pc cw slot end_ ended clear
  have hsymbol := fun (hgo : comes) (hmore : y.syms < wBurst y.latched) =>
    State.laneSymbol_of_whole (s := s) (e := e) (lane := l.val) (y := y) (a := a) (b := b) (qs := qs) (xs := xs) rfl rfl rfl rfl rfl hgo hmore
  have htokens : ((s.laneStore e l.val xs).hnd e.val).tokens = h.tokens :=
    congrArg Hound.tokens ((s.houndKept_laneStore e l.val xs).hnd e.val)
  refine ⟨fun hgo hmore => ?copies, fun hgo h0 h1 => ?first, fun hgo h0 h1 hy hq => ?only, fun hopen hdue => ?fades,
    execHoundTokenSend_of_template, execHoundTokenSend_of_token, execHoundTokenSend_of_no_credit, fun hok he => ?crc,
    fun hok hty => ?increase, fun hok hty => ?reset, fun hslot => ?slot, fun hd hn => ?senses, fun ho hc => ?clear, fun ho hc => ?blocked⟩
  case copies =>
    obtain ⟨t, f, d, p, hu, -⟩ := hsymbol hgo hmore
    obtain ⟨c, hlane⟩ := State.lane_endIfWhole (t.setHnd e.val ((t.hnd e.val).setL l.val (y.copied n gap f d p))) e.val l.val
    refine ⟨_, congrArg Host.Outcome.next hu, ?_⟩
    rw [hlane, State.lane_setHnd_setL]
    exact ⟨rfl, rfl, rfl⟩
  case first =>
    obtain ⟨t, f, d, p, hu, ht⟩ := hsymbol hgo (h0 ▸ Nat.lt_of_succ_lt h1)
    obtain ⟨rfl, rfl⟩ := ht h0
    have hmore : y.syms + 1 ≠ wBurst y.latched := by omega
    rw [State.endIfWhole_of_more (State.lane_setHnd_setL _ _ _ _ _) hmore] at hu
    refine ⟨_, congrArg Host.Outcome.next hu, rfl, ?_⟩
    rw [State.lane_setHnd_setL, State.hnd_setHnd]
    exact ⟨hgo.1, htokens⟩
  case only =>
    obtain ⟨t, f, d, p, hu, ht⟩ := hsymbol hgo (by omega)
    obtain ⟨rfl, rfl⟩ := ht h0
    have hwhole : y.syms + 1 = wBurst y.latched := by omega
    have hgap : (y.gap || gap) = false := by rw [hy, hq]; rfl
    rw [State.endIfWhole_of_complete (State.lane_setHnd_setL _ _ _ _ _) hwhole rfl hgap] at hu
    refine ⟨_, congrArg Host.Outcome.next hu, ?_⟩
    rw [State.lane_endLane, State.tokens_endLane _ _ _ _ (by rw [State.lane_setHnd_setL]; exact hgo.1), State.lane_setHnd_setL,
      State.hnd_setHnd]
    exact ⟨rfl, congrArg (· ++ _) htokens⟩
  case fades =>
    rw [exec_houndLaneFade, execHoundLaneFade, State.fadeLane]
    exact congrArg _ (if_pos ⟨hopen, hdue⟩)
  case crc =>
    have hfit : 2 ^ 62 + tag.toNat < 2 ^ 64 := by have := tag.isLt; omega
    have htag : bf (w64 (2 ^ 62 + tag.toNat)) 28 25 = tag.toNat / 2 ^ 25 % 16 := by rw [bf_w64 hfit]; omega
    rw [exec_verdictCrcFail, execVerdictCrcFail, State.verdictBy_of_ok hok, State.verdictWrite_of_crcFail, htag]
    · rw [bf_w64 hfit]; have := tag.isLt; omega
    · rw [bf_w64 hfit]; have := e.isLt; omega
  case increase =>
    have hfit : 2 ^ 63 + w.val < 2 ^ 64 := by omega
    have hw : bf (w64 (2 ^ 63 + w.val)) 3 0 = w.val := by rw [bf_w64 hfit]; omega
    have hop : bf (w64 (2 ^ 63 + w.val)) 63 62 = 2 := by rw [bf_w64 hfit]; omega
    rw [exec_verdictCwIncrease, execVerdictCwIncrease, State.verdictBy_of_ok hok, State.verdictWrite_of_increase hw hty hop]
  case reset =>
    have hfit : 3 * 2 ^ 62 + w.val < 2 ^ 64 := by omega
    have hw : bf (w64 (3 * 2 ^ 62 + w.val)) 3 0 = w.val := by rw [bf_w64 hfit]; omega
    have hop : bf (w64 (3 * 2 ^ 62 + w.val)) 63 62 = 3 := by rw [bf_w64 hfit]; omega
    rw [exec_verdictCwReset, execVerdictCwReset, State.verdictBy_of_ok hok, State.verdictWrite_of_reset hw hty hop]
  case slot =>
    show Host.Outcome.next (match slot with | some r => s.setHnd e.val (h.setW w.val ((h.w w.val).setRun r)) | none => s) = _
    rw [hslot]
  case senses =>
    have h0 : r.n ≠ 0 := Nat.ne_of_gt hn
    simp [HoundOcc.senseSlot, hd, h0]
  case clear =>
    obtain ⟨u, hu, hkept⟩ := execSenseResult_of_ended ho hc
    obtain ⟨hgates, hcount⟩ := s.sensed_of_clear e w.val o
    exact ⟨u, hu, hkept.txGates.trans hgates, (congrArg (bf · 63 48) (hkept.lbt e w)).trans hcount⟩
  case blocked =>
    obtain ⟨u, hu, hkept⟩ := execSenseResult_of_ended ho hc
    obtain ⟨hgates, hocc, hcount⟩ := s.sensed_of_blocked e w.val o
    refine ⟨u, hu, hkept.txGates.trans hgates, ?_, (congrArg (bf · 47 32) (hkept.lbt e w)).trans hcount⟩
    exact (congrArg (fun t => (tget liveInit t (liveKey (.watch e))).occ) hkept.live).trans hocc

end Sys2Proof.Machine
end

section
/-!
PROOFS. Arithmetic of the transforms and of the coding checks (R260, R261, R285): a sample reads back the components it was made of, a
DFT output component is an integer of the interval its sum allows, a CRC's remainder fits its width, and with them the statement O37.
-/
namespace Sys2Proof.Machine

/-! Samples (R260) -/

theorem neg_two_pow_le_clampS (n : Nat) (x : Int) : -(2 ^ (n - 1) : Nat) ≤ clampS n x := le_max_left _ _

theorem clampS_lt_two_pow (n : Nat) (x : Int) : clampS n x < (2 ^ (n - 1) : Nat) := by
  have := Nat.two_pow_pos (n - 1)
  rw [clampS]
  omega

theorem uns_lt (n : Nat) (x : Int) : uns n x < 2 ^ n := by
  have := Nat.two_pow_pos n
  rw [uns]
  omega

/-- A signed number reads back from its low bits where they hold it. -/
theorem sgn_uns {n : Nat} {x : Int} (hn : 0 < n) (hlo : -(2 ^ (n - 1) : Nat) ≤ x) (hhi : x < (2 ^ (n - 1) : Nat)) :
    sgn n (uns n x) = x := by
  have hword : BitVec.ofNat n (uns n x) = BitVec.ofInt n x := by
    apply BitVec.eq_of_toNat_eq
    rw [BitVec.toNat_ofNat, BitVec.toNat_ofInt, Nat.mod_eq_of_lt (uns_lt n x), uns]
  rw [sgn_eq_toInt hn, hword]
  exact BitVec.toInt_ofInt_eq_self hn (by exact_mod_cast hlo) (by exact_mod_cast hhi)

theorem sgn_uns_clampS {n : Nat} (hn : 0 < n) (x : Int) : sgn n (uns n (clampS n x)) = clampS n x :=
  sgn_uns hn (neg_two_pow_le_clampS n x) (clampS_lt_two_pow n x)

theorem reOf_packC (re im : Int) : reOf (packC re im) = clampS 16 re := by
  have hlow : sgn 16 (packC re im) = sgn 16 (uns 16 (clampS 16 re)) := by
    simp only [sgn, packC, Nat.add_mul_mod_self_left]
  rw [reOf, hlow, sgn_uns_clampS (by decide)]

theorem imOf_packC (re im : Int) : imOf (packC re im) = clampS 16 im := by
  have hhigh : packC re im / 2 ^ 16 = uns 16 (clampS 16 im) := by
    rw [packC, Nat.add_mul_div_left _ _ (Nat.two_pow_pos 16), Nat.div_eq_of_lt (uns_lt 16 _), Nat.zero_add]
  rw [imOf, hhigh, sgn_uns_clampS (by decide)]

/-! DFT outputs (R261) -/

/-- An interval of half-width w about x, at least as wide as u, holds a multiple of u. -/
theorem neg_ediv_le_ediv {u w x : Int} (hu : 0 < u) (hw : u ≤ 2 * w) : -((w - x) / u) ≤ (w + x) / u := by
  by_contra hempty
  have hbelow : w - x < ((w - x) / u + 1) * u := Int.lt_ediv_add_one_mul_self _ hu
  have habove : w + x < ((w + x) / u + 1) * u := Int.lt_ediv_add_one_mul_self _ hu
  nlinarith

/-- What is chosen of an interval of integers lies in it. -/
theorem add_mod_mem_Icc {lo hi : Int} (h : lo ≤ hi) (a : Nat) : lo + (a % (hi - lo + 1).toNat : Nat) ∈ Set.Icc lo hi := by
  have hlt : a % (hi - lo + 1).toNat < (hi - lo + 1).toNat := Nat.mod_lt _ (by omega)
  constructor <;> omega

/-- A component times u, the unit of its sum, lies within 2 u of the sum, known to within 2^44. -/
theorem dftComp_mul_mem_Icc (d : Desc) (key : List Nat) (i : Nat) (x : Int) {u w : Int} (hu : u = (2 ^ (80 + d.shift) : Nat))
    (hw : w = 2 * u + (2 ^ 44 : Nat)) : dftComp d key i x * u ∈ Set.Icc (x - w) (x + w) := by
  have hpos : 0 < u := by rw [hu]; exact_mod_cast Nat.two_pow_pos _
  have hcomp : dftComp d key i x ∈ Set.Icc (-((w - x) / u)) ((w + x) / u) := by
    subst hw hu
    exact add_mod_mem_Icc (neg_ediv_le_ediv hpos (by omega)) _
  obtain ⟨hlo, hhi⟩ := hcomp
  have hfloor : (w - x) / u * u ≤ w - x := Int.ediv_mul_le _ hpos.ne'
  have hceil : (w + x) / u * u ≤ w + x := Int.ediv_mul_le _ hpos.ne'
  constructor
  · nlinarith
  · nlinarith

theorem length_dftOut (d : Desc) (phi sym : Nat) (xs : List Nat) : (dftOut d phi sym xs).length = d.n := by
  rw [dftOut, List.length_map, List.length_range]

/-- The key of a transform's outputs is the same for all of them. -/
theorem dftOut_getD (d : Desc) (phi sym : Nat) (xs : List Nat) {k : Nat} (hk : k < d.n) : ∃ key,
    ((dftOut d phi sym xs).getD k (0, 0)).1 =
      packC (dftComp d key (2 * k) (dftSum d phi k 0 xs).1) (dftComp d key (2 * k + 1) (dftSum d phi k 0 xs).2) := by
  refine ⟨[d.op, d.n, d.shift, d.cpAdv, b01 d.half, b01 d.phc, phi, sym] ++ xs, ?_⟩
  rw [dftOut, List.getD_eq_getElem _ _ (by simpa using hk), List.getElem_map, List.getElem_range]

/-! Coding checks (R285) -/

/-- Each bit leaves a remainder that fits the width. -/
theorem crcFrom_lt {n g init : Nat} (hg : g < 2 ^ n) (hinit : init < 2 ^ n) (bits : List Bool) : crcFrom n g init bits < 2 ^ n := by
  induction bits generalizing init with
  | nil => exact hinit
  | cons b bits ih =>
    have hshift : init * 2 % 2 ^ n < 2 ^ n := Nat.mod_lt _ (Nat.two_pow_pos n)
    apply ih
    dsimp only
    split
    · exact Nat.xor_lt_two_pow hshift hg
    · exact hshift

theorem length_goldFrom (n : Nat) (q : Nat × Nat) : (goldFrom n q).length = n := by
  induction n generalizing q with
  | zero => rfl
  | succ n ih => rw [goldFrom, List.length_cons, ih]

/-- Settles O37: each computed value lies in the range its last operation leaves it. -/
theorem transformArithmetic : Obligations.TransformArithmetic := by
  refine ⟨fun re im => ⟨reOf_packC re im, imOf_packC re im⟩, fun d key i x => ?component,
    fun d phi sym xs k hk => dftOut_getD d phi sym xs hk, length_dftOut, fun l => ?crc, fun c off n => length_goldFrom n _⟩
  case component =>
    intro u
    obtain ⟨hlo, hhi⟩ := dftComp_mul_mem_Icc d key i x (u := u) rfl rfl
    rw [← sub_sub] at hlo
    rw [← add_assoc] at hhi
    exact ⟨hlo, hhi⟩
  case crc => exact ⟨crcFrom_lt (by decide) (by decide) l, crcFrom_lt (by decide) (by decide) l, crcFrom_lt (by decide) (by decide) l⟩

end Sys2Proof.Machine
end

section
/-!
PROOFS. Jobs of the transforms and coding units (R255 to R258, R282 to R310): what a job that a unit runs notes of its end, the acts of
a DECODE job, how an ended job leaves its unit, and with them the statements O35 and O36.
-/
namespace Sys2Proof.Machine

/-! A job's run (R255 to R258) -/

section Runs
variable {s : State} {p : Fin 8} {k q i : Nat}

/-- A unit without a job runs that of its task where the OP is one of those given. -/
theorem State.runJob_of_task {ops : List Nat} {f : Run → Entry → Run × Nat × Nat × Nat} {x : Run} {res deg cyc : Nat}
    (htask : s.taskOn (accUnit p.val k) = some (q, i)) (hidle : tfind s.job (jobKey p.val k) = none)
    (hop : (s.entry q i).desc.op ∈ ops) (hf : f ⟨s, 0, false, 0⟩ (s.entry q i) = (x, res, deg, cyc)) :
    s.runJob p k ops f = { x.s with
      job := tput x.s.job (jobKey p.val k)
        ⟨q, i, if x.bad ≠ 0 then x.bad else if deg ≠ 0 then jsDegenerate else jsOk, res, x.poison, deg, cyc⟩ } := by
  simp [State.runJob, htask, hidle, hop, hf]

theorem dftJob_of_param {x : Run} {e : Entry} (h : dftOk e = false) : dftJob p x e = x.param := by
  simp [dftJob, h]

end Runs

/-! The acts of a DECODE job (R287, R288, R299 to R303) -/

section Decodes
variable {s : State} {turbo : Bool} {p : Fin 8} {k q i : Nat} {j : DecodeJob} {cb : CbRun}

theorem State.runDecode_of_task (htask : s.taskOn (accUnit p.val k) = some (q, i)) (hidle : tfind s.job (jobKey p.val k) = none)
    (hop : (s.entry q i).desc.op = 0) (hnew : tfind s.decode (jobKey p.val k) = none) :
    s.runDecode turbo p k = startDecode turbo p k q i s := by
  simp [State.runDecode, htask, hidle, hop, hnew]

theorem State.runDecode_of_between (hjob : tfind s.decode (jobKey p.val k) = some j) (hcur : j.cur = none) :
    s.runDecode turbo p k = startCb (j.par turbo) p k (s.entry j.pack j.entry).desc j s := by
  simp [State.runDecode, hjob, hcur]

theorem State.runDecode_of_codeblock (hjob : tfind s.decode (jobKey p.val k) = some j) (hcur : j.cur = some cb) :
    s.runDecode turbo p k = drawCb (j.par turbo) p k (s.entry j.pack j.entry).desc j cb s := by
  simp [State.runDecode, hjob, hcur]

theorem startDecode_of_param (h : cdArgsOk (s.entry q i) true = false) :
    startDecode turbo p k q i s = { s with job := tput s.job (jobKey p.val k) ⟨q, i, jsParam, 0, false, 0, 0⟩ } := by
  simp [startDecode, h]

end Decodes

/-- Settles O35: each command is the run of its unit's job, or the next act of its DECODE job. -/
theorem acceleratorJobs : Obligations.AcceleratorJobs := by
  intro s p q i x res deg cyc j cb e waits ends run decodes
  have runs : ∀ c k op f, exec c s = .next (s.runJob p k [op] f) → run c k op f := fun c k op f hc hwaits hf => by
    obtain ⟨htask, hidle, hop⟩ := hwaits
    exact hc.trans (congrArg _ (State.runJob_of_task htask hidle (List.mem_singleton.mpr hop) hf))
  have acts : ∀ c k turbo, exec c s = .next (s.runDecode turbo p k) → decodes c k turbo := fun c k turbo hc =>
    ⟨fun ⟨htask, hidle, hop⟩ hnew => hc.trans (congrArg _ (State.runDecode_of_task htask hidle hop hnew)),
      fun hjob hcur => hc.trans (congrArg _ (State.runDecode_of_between hjob hcur)),
      fun hjob hcur => hc.trans (congrArg _ (State.runDecode_of_codeblock hjob hcur)), startDecode_of_param⟩
  refine ⟨fun k => ⟨runs _ _ _ _ (exec_dftFwdCp p k s), runs _ _ _ _ (exec_dftInvCp p k s), runs _ _ _ _ (exec_dftFwd p k s),
      runs _ _ _ _ (exec_dftInv p k s)⟩,
    fun k => ⟨runs _ _ _ _ (exec_eqDetect p k s), runs _ _ _ _ (exec_eqEqualize p k s), runs _ _ _ _ (exec_eqDemap p k s)⟩,
    runs _ _ _ _ (exec_bwCompute p s), runs _ _ _ _ (exec_bwApply p s),
    fun k => ⟨acts _ _ _ (exec_ldDecode p k s), runs _ _ _ _ (exec_ldTbcrc p k s)⟩,
    fun k => runs _ _ _ _ (exec_leEncode p k s),
    acts _ _ _ (exec_tcDecode p s), runs _ _ _ _ (exec_tcEncode p s), runs _ _ _ _ (exec_tcTbcrc p s),
    runs _ _ _ _ (exec_pcDecode p s), runs _ _ _ _ (exec_pcEncode p s), dftJob_of_param⟩

/-! A job's end (R256, R258, R399) -/

@[simp] theorem State.countJob_mem (s : State) (p k : Nat) (d : Desc) (j : Job) : (s.countJob p k d j).mem = s.mem := by
  simp only [State.countJob]
  split <;> simp [apply_ite State.mem, State.setEntN]

section Ends
variable {s : State} {p : Fin 8} {k : Fin 17} {j : Job} {st : Nat}

/-- The state that a job has left, its merge entries flushed. -/
def State.jobFreed (s : State) (p : Fin 8) (k : Fin 17) : State :=
  { s with job := tdel s.job (jobKey p.val k.val), decode := tdel s.decode (jobKey p.val k.val) }.flushFor (reqNo (.pack p))

theorem State.finishJob_of_running (hst : (s.entry j.pack j.entry).st = .running)
    (hunit : (s.entry j.pack j.entry).unit = accUnit p.val k.val) :
    s.finishJob p k j st =
      (((s.jobFreed p k).countJob p.val k.val (s.entry j.pack j.entry).desc j).jobToken p k (s.entry j.pack j.entry) j).endTask
        j.pack j.entry st :=
  if_pos ⟨hst, hunit⟩

theorem State.finishJob_of_gone
    (h : ¬ ((s.entry j.pack j.entry).st = .running ∧ (s.entry j.pack j.entry).unit = accUnit p.val k.val)) :
    s.finishJob p k j st = s.jobFreed p k :=
  if_neg h

theorem execAccelJobComplete_of_job (hjob : tfind s.job (jobKey p.val k.val) = some j) :
    execAccelJobComplete p k s = .next (s.finishJob p k j ksDone) := by
  rw [execAccelJobComplete, hjob]

/-- A task whose OP its unit does not have ends PARAM without a job, unless a segment of Terrier's runs on the unit. -/
theorem execAccelJobComplete_of_unknown_op {q i : Nat} (hidle : tfind s.job (jobKey p.val k.val) = none)
    (hseg : ∀ g, tfind s.segment p.val = some g → g.kind ≠ skAccel ∨ g.unit ≠ accUnit p.val k.val)
    (htask : s.taskOn (accUnit p.val k.val) = some (q, i)) (hop : accelOps k.val ≤ (s.entry q i).desc.op) :
    execAccelJobComplete p k s = .next (s.finishJob p k ⟨q, i, jsParam, 0, false, 0, 0⟩ ksDone) := by
  cases hg : tfind s.segment p.val with
  | none => simp [execAccelJobComplete, hidle, hg, htask, hop]
  | some g =>
    have hother : (g.kind == skAccel && g.unit == accUnit p.val k.val) = false := by simpa [← not_and_or] using hseg g hg
    simp [execAccelJobComplete, hidle, hg, hother, htask, hop]

end Ends

/-- Settles O36: a noted job, or a task that no job can be run for, goes through the end that all jobs share. -/
theorem acceleratorCompletion : Obligations.AcceleratorCompletion := by
  intro s p k j q i key freed runs done bad
  refine ⟨fun hjob ⟨hst, hunit⟩ => ?done, fun hjob hgone => ?gone, fun hidle hseg htask ⟨hst, hunit⟩ hop => ?unknown,
    fun d => ⟨s.countJob_mem _ _ d j, s.countJob_kennel _ _ d j⟩⟩
  case done => exact (execAccelJobComplete_of_job hjob).trans (congrArg _ (State.finishJob_of_running hst hunit))
  case gone => exact (execAccelJobComplete_of_job hjob).trans (congrArg _ (State.finishJob_of_gone hgone))
  case unknown =>
    exact (execAccelJobComplete_of_unknown_op hidle hseg htask hop).trans (congrArg _ (State.finishJob_of_running hst hunit))

end Sys2Proof.Machine
end

section
/-!
PROOFS. Transmit shaping (R275 to R281): which symbol of a stream is judged, what its judgement leaves and what a write of `TX_CFG`
answers, and with them the statement O38.
-/
namespace Sys2Proof.Machine

/-! Which symbol is judged (R275) -/

section Symbols
variable {s w : State} {c : Fin 384} {n : Fin 4096} {l : Fin 14} {seq sl sfn : Nat} {x : Str} (hx : s.str n.val = x)
  (hlive : x.en = true ∧ x.tx = true ∧ x.carrier = c.val ∧ l.val < x.nsym)
include hx hlive

theorem execTxSymbol_of_cpri (hkind : x.kind = skCpri)
    (hseq : s.seqOf x (s.slotCount x (s.now + nsT (s.fld (Key.cpriCfg x.port) 19 0))) = some seq) :
    execTxSymbol c n l s = .next (s.txSymbol n.val x seq l.val).1 := by
  subst hx
  simp only [execTxSymbol, if_pos hlive, if_pos hkind, hseq]

section Windows
variable (hkind : x.kind ≠ skCpri) (hwin : (s.winOcc x l.val).bind (fun o => s.winSlot x o 0) = some (seq, sl, sfn))
include hkind hwin

theorem execTxSymbol_of_ready (hready : s.ready x seq = (w, true)) :
    execTxSymbol c n l s = .next (w.txSymbol n.val x seq l.val).1 := by
  subst hx
  simp only [execTxSymbol, if_pos hlive, if_neg hkind, hwin, hready]

theorem execTxSymbol_of_not_ready (hready : s.ready x seq = (w, false)) : execTxSymbol c n l s = .next w := by
  subst hx
  simp only [execTxSymbol, if_pos hlive, if_neg hkind, hwin, hready]

end Windows
end Symbols

/-! A symbol's judgement (R276 to R280) -/

section Judgement
variable {s : State} {m seq l k : Nat} {y : Str} {xs : List C16}

theorem State.txSymbol_of_judged {h : Shaped}
    (hjudged : (s.txs y.carrier m).hist.find? (fun q => q.slot == s.countOf y seq && q.symbol == l) = some h) :
    s.txSymbol m y seq l = (s, some (h.isOn, h.out)) := by
  simp only [State.txSymbol, hjudged]

theorem State.txSymbol_of_disabled
    (hnew : (s.txs y.carrier m).hist.find? (fun q => q.slot == s.countOf y seq && q.symbol == l) = none)
    (hen : s.txEn y.carrier = false) :
    s.txSymbol m y seq l = (s.setTxs y.carrier m ⟨false, [], 0, (s.txs y.carrier m).hist⟩, none) := by
  simp [State.txSymbol, hnew, hen]

@[simp] theorem State.txs_setTxs (s : State) (c m : Nat) (x : Tx) : (s.setTxs c m x).txs c m = x := tget_tput_self _ _ _ _
@[simp] theorem State.fld_setTxs (s : State) (c m : Nat) (x : Tx) (k hi lo : Nat) : (s.setTxs c m x).fld k hi lo = s.fld k hi lo := rfl

/-- Whether the pattern of R276 lets a symbol be on. -/
def State.txPattern (s : State) (y : Str) (k l : Nat) : Bool :=
  !(y.kind != skOran) || s.tddOn y.carrier (k % (txStr (s.ent (Key.txCfg y.carrier))).slots) l

/-- Whether the gate of R277 is open from a symbol's first sample to its last, or not asked for. -/
def State.txGate (s : State) (y : Str) (k l : Nat) : Bool :=
  let cfg := s.ent (Key.txCfg y.carrier)
  let g := txStr cfg
  let air := s.txAir y.carrier k l
  !(bit cfg 62) || s.gateCovers y.carrier air (air + samplesT cfg (g.symLen (k % g.slots) l))

theorem State.txPattern_iff : s.txPattern y k l = true ↔
    y.kind = skOran ∨ s.tddOn y.carrier (k % (txStr (s.ent (Key.txCfg y.carrier))).slots) l = true := by
  simp [State.txPattern]

theorem State.txGate_iff : s.txGate y k l = true ↔ bit (s.ent (Key.txCfg y.carrier)) 62 = false ∨
    s.gateCovers y.carrier (s.txAir y.carrier k l) (s.txAir y.carrier k l + samplesT (s.ent (Key.txCfg y.carrier))
      ((txStr (s.ent (Key.txCfg y.carrier))).symLen (k % (txStr (s.ent (Key.txCfg y.carrier))).slots) l)) = true := by
  simp [State.txGate]

/-- A symbol that is on leaves as it is, but for the ramp-up after one that was off. -/
theorem State.txDecide_of_on (hpattern : s.txPattern y k l = true) (hgate : s.txGate y k l = true) :
    ((s.txDecide m y k l xs).1.txs y.carrier m).lastOn = true ∧ (s.txDecide m y k l xs).2.1 = true ∧
      ((s.txs y.carrier m).lastOn = true → (s.txDecide m y k l xs).2.2 = xs) := by
  have hon : (s.txPattern y k l && s.txGate y k l) = true := by rw [hpattern, hgate]; rfl
  rw [State.txPattern, State.txGate] at hon
  simp only [State.txDecide, if_pos hon, State.txs_setTxs, true_and]
  intro hlast
  simp [hlast]

@[simp] theorem State.suffixKept_nil (s : State) (c : Nat) (v : U64) (air : Nat) : s.suffixKept c v air [] = [] := by
  simp [State.suffixKept]

/-- After a symbol that was off no suffix is left, so that one withheld by the gate is all zeros. -/
theorem State.txDecide_of_gate_closed (hpattern : s.txPattern y k l = true) (hgate : s.txGate y k l = false) :
    ((s.txDecide m y k l xs).1.txs y.carrier m).lastOn = false ∧ (s.txDecide m y k l xs).2.1 = false ∧
      ((s.txs y.carrier m).lastOn = false → (s.txDecide m y k l xs).2.2 = zeros xs.length ∧
        (s.txDecide m y k l xs).1.fld (Key.txStat y.carrier) 63 48 = satAdd 16 (s.fld (Key.txStat y.carrier) 63 48) 1) := by
  have hoff : ¬ (s.txPattern y k l && s.txGate y k l) = true := by rw [hpattern, hgate]; decide
  rw [State.txPattern, State.txGate] at hoff
  rw [State.txPattern] at hpattern
  simp only [State.txDecide, if_neg hoff, if_pos hpattern, State.txs_setTxs, true_and]
  intro hlast
  have hcount := s.fld_incSat_self (Key.txStat y.carrier) 63 48 1 (by decide) (by decide)
  simp [hlast, hcount]

end Judgement

/-! The setting of EN (R281) -/

theorem execTxCfgEnable_of_ok {s : State} {rq : Requester} {c : Fin 384} {v : U64} (hok : s.checkWrite rq (Key.txCfg c.val) v = .ok) :
    execTxCfgEnable rq c v s = .next (s.txCfgWrite c.val v) := by
  rw [execTxCfgEnable, hok]

section Config
variable {s : State} {c : Nat} {v : U64}

theorem State.txCfgWrite_of_ok (hoff : s.flag (Key.txCfg c) 63 = false) (hv : s.txCfgOk c v = true) :
    s.txCfgWrite c v = (s.setEnt (Key.txCfg c) v).status .ok := by
  simp [State.txCfgWrite, hoff, hv]

theorem State.txCfgWrite_of_range (hoff : s.flag (Key.txCfg c) 63 = false) (hen : bit v 63 = true) (hv : s.txCfgOk c v = false) :
    s.txCfgWrite c v = s.status .range := by
  simp [State.txCfgWrite, hoff, hen, hv]

theorem State.txCfgWrite_of_busy (hon : s.flag (Key.txCfg c) 63 = true)
    (hchange : setBit (s.ent (Key.txCfg c)) 63 false ≠ setBit v 63 false) : s.txCfgWrite c v = s.status .busy :=
  if_pos ⟨hon, hchange⟩

end Config

/-- Settles O38: a symbol not yet judged is on where its pattern and its gate are, and a gate that is closed leaves zeros. -/
theorem transmitShaping : Obligations.TransmitShaping := by
  intro s w rq c n l v seq sl sfn k m h y xs x live win t cfg g air pattern gate d kc
  exact ⟨execTxSymbol_of_cpri rfl, execTxSymbol_of_ready rfl, execTxSymbol_of_not_ready rfl, State.txSymbol_of_judged,
    State.txSymbol_of_disabled, fun hpattern hgate => State.txDecide_of_on (State.txPattern_iff.mpr hpattern) (State.txGate_iff.mpr hgate),
    fun hpattern hgate => State.txDecide_of_gate_closed (State.txPattern_iff.mpr hpattern)
      (Bool.eq_false_iff.mpr (mt State.txGate_iff.mp hgate)),
    fun hok hoff hv => (execTxCfgEnable_of_ok hok).trans (congrArg _ (State.txCfgWrite_of_ok hoff hv)),
    fun hok hoff hen hv => (execTxCfgEnable_of_ok hok).trans (congrArg _ (State.txCfgWrite_of_range hoff hen hv)),
    fun hok hon hchange => (execTxCfgEnable_of_ok hok).trans (congrArg _ (State.txCfgWrite_of_busy hon hchange)), rfl⟩

end Sys2Proof.Machine
end

section
/-!
PROOFS. Flow rings and contexts (R313, R314, R320, R329, R332, R333): how the entry at a ring's front ends, how a command reaches the
context that it names, the number that FLOW_OPEN finds and what REOWN leaves, and with them the statement O39.
-/
namespace Sys2Proof.Machine

/-! The entry at a ring's front (R313, R314) -/

/-- The entry e at the front of ring n has the OP given, one of its ring's; s1 is the state after its read. -/
def State.Fronts (s s1 : State) (n : Nat) (e : REntry) (op : Nat) : Prop :=
  s.ringFront n = (s1, some e) ∧ e.op = op ∧ s.ringType n = (if op < 0x10 then 0 else 1)

theorem State.onRing_of_fronts {s s1 u : State} {n op st : Nat} {e : REntry} {res : Option Nat}
    {f : State → REntry → State × Nat × Option Nat} (h : s.Fronts s1 n e op) (hf : f s1 e = (u, st, res)) :
    s.onRing n op f = u.ringEnd e st res := by
  obtain ⟨hfront, hop, htype⟩ := h
  simp only [State.onRing, hfront, hop, htype, and_self, if_true, hf]

section Poll
variable {s s1 s2 : State} {n : Fin 256} {v : Nat} {e : REntry}

/-- The state in which PROD has been taken as v. -/
def State.ringPolled (s : State) (n v : Nat) : State := { s with ringTaken := tput s.ringTaken n (v % 2 ^ 32) }

variable (hpoll : s.ringEn n.val = true ∧ s.ringType n.val < 2 ∧ s.readNum .flow (s.ringBase n.val) 8 = (s1, some v))
include hpoll

theorem execFlRingPoll_of_known
    (hop : ∀ g, ((s1.ringPolled n.val v).ringFront n.val).2 = some g → opOk ((s1.ringPolled n.val v).ringType n.val) g.op = true) :
    execFlRingPoll n s = .next (s1.ringPolled n.val v) := by
  obtain ⟨hen, htype, hread⟩ := hpoll
  rcases hfront : (s1.ringPolled n.val v).ringFront n.val with ⟨w, _ | g⟩
  case none =>
    rw [State.ringPolled] at hfront
    simp only [execFlRingPoll, hen, htype, hread, and_self, if_true, hfront, State.ringPolled]
  case some =>
    have hknown := hop g (congrArg Prod.snd hfront)
    rw [State.ringPolled] at hfront hknown
    simp only [execFlRingPoll, hen, htype, hread, and_self, if_true, hfront, hknown, State.ringPolled]

theorem execFlRingPoll_of_unknown (hfront : (s1.ringPolled n.val v).ringFront n.val = (s2, some e))
    (hop : opOk ((s1.ringPolled n.val v).ringType n.val) e.op = false) :
    execFlRingPoll n s = .next (s2.ringEnd e fsParam none) := by
  obtain ⟨hen, htype, hread⟩ := hpoll
  rw [State.ringPolled] at hfront hop
  simp only [execFlRingPoll, hen, htype, hread, and_self, if_true, hfront, hop, Bool.false_eq_true, if_false]

end Poll

/-! The context that a command names (R316, R320) -/

section Named
variable {s : State} {n f : Nat}

/-- Context f, as the engine reaches it, is ring n's owner's. -/
def State.OwnFlow (s : State) (n f : Nat) : Prop :=
  f < ctxCount ∧ ((s.touchFlow f).fl f).st ≠ .free ∧ ((s.touchFlow f).fl f).hdr.owner = (s.touchFlow f).ringOwner n

/-- Context f, as the engine reaches it, is not ring n's owner's, with the STATUS of that: NOT_FOUND or FOREIGN. -/
def State.OtherFlow (s : State) (n f : Nat) (st : Nat) : Prop :=
  f < ctxCount ∧ (((s.touchFlow f).fl f).st = .free ∧ st = fsNotFound ∨
    ((s.touchFlow f).fl f).st ≠ .free ∧ ((s.touchFlow f).fl f).hdr.owner ≠ (s.touchFlow f).ringOwner n ∧ st = fsForeign)

theorem State.OtherFlow.of_absent (h : f < ctxCount ∧ ((s.touchFlow f).fl f).st = .free) : s.OtherFlow n f fsNotFound :=
  ⟨h.1, .inl ⟨h.2, rfl⟩⟩

theorem State.OtherFlow.of_foreign (h : f < ctxCount ∧ ((s.touchFlow f).fl f).st ≠ .free ∧
    ((s.touchFlow f).fl f).hdr.owner ≠ (s.touchFlow f).ringOwner n) : s.OtherFlow n f fsForeign := by
  obtain ⟨hf, hst, howner⟩ := h
  exact ⟨hf, .inr ⟨hst, howner, rfl⟩⟩

theorem State.named_of_own (h : s.OwnFlow n f) : s.named n f = (s.touchFlow f, 0) := by
  obtain ⟨hf, hst, howner⟩ := h
  simp [State.named, Nat.not_le.mpr hf, hst, howner, fsOk]

theorem State.named_of_other {st : Nat} (h : s.OtherFlow n f st) : ∃ k, st = k + 1 ∧ s.named n f = (s.touchFlow f, k + 1) := by
  obtain ⟨hf, ⟨hst, rfl⟩ | ⟨hst, howner, rfl⟩⟩ := h
  · exact ⟨6, rfl, by simp [State.named, Nat.not_le.mpr hf, hst, fsNotFound]⟩
  · exact ⟨0, rfl, by simp [State.named, Nat.not_le.mpr hf, hst, howner, fsForeign]⟩

end Named

section Commands
variable {s s1 s2 : State} {n : Fin 256} {e : REntry} {b : List Byte} {st : Nat}

theorem execFlowClose_of_own (hfront : s.Fronts s1 n.val e 0x11) (hown : s1.OwnFlow n.val (e.arg 24 4))
    (hst : ((s1.touchFlow (e.arg 24 4)).fl (e.arg 24 4)).st ≠ .closing) :
    execFlowClose n s = .next ((s1.touchFlow (e.arg 24 4)).setFl (e.arg 24 4)
      { (s1.touchFlow (e.arg 24 4)).fl (e.arg 24 4) with st := .closing, closeRing := some n.val }) := by
  obtain ⟨hring, hop, htype⟩ := hfront
  simp only [execFlowClose, hring, State.named_of_own hown]
  exact congrArg _ ((if_pos ⟨hop, htype⟩).trans (if_neg hst))

theorem execFlowClose_of_other (hfront : s.Fronts s1 n.val e 0x11) (hother : s1.OtherFlow n.val (e.arg 24 4) st) :
    execFlowClose n s = .next ((s1.touchFlow (e.arg 24 4)).ringEnd e st none) := by
  obtain ⟨hring, hop, htype⟩ := hfront
  obtain ⟨k, rfl, hnamed⟩ := State.named_of_other hother
  simp only [execFlowClose, hring, hnamed]
  exact congrArg _ (if_pos ⟨hop, htype⟩)

theorem execFlowFree_of_closing {f : BitVec 20} (hst : (s.fl f.toNat).st = .closing) (hring : (s.fl f.toNat).closeRing = some n.val)
    (hfront : (s.freeFlow f.toNat).ringFront n.val = (s1, some e)) : execFlowFree f s = .next (s1.ringEnd e fsOk none) := by
  simp only [execFlowFree, hst, if_true, hring, hfront]

theorem execRekey_of_own (hfront : s.Fronts s1 n.val e 0x15) (hown : s1.OwnFlow n.val (e.arg 24 4))
    (hread : (s1.touchFlow (e.arg 24 4)).flRead e.addr 64 = (s2, some (b, false))) :
    execRekey n s = .next ((s2.setFl (e.arg 24 4) { s2.fl (e.arg 24 4) with
      keys := if (s2.fl (e.arg 24 4)).rekeyed then (s2.fl (e.arg 24 4)).nextKeys else (s2.fl (e.arg 24 4)).keys
      nextKeys := b.take 32, rekeyed := true, nextCount := e.arg 28 4 }).ringEnd e fsOk none) :=
  congrArg _ (State.onRing_of_fronts hfront (by simp [State.named_of_own hown, hread]))

theorem execRekey_of_other (hfront : s.Fronts s1 n.val e 0x15) (hother : s1.OtherFlow n.val (e.arg 24 4) st) :
    execRekey n s = .next ((s1.touchFlow (e.arg 24 4)).ringEnd e st none) := by
  obtain ⟨k, rfl, hnamed⟩ := State.named_of_other hother
  exact congrArg _ (State.onRing_of_fronts hfront (by simp only [hnamed]))

theorem execCtxRead_of_own (hfront : s.Fronts s1 n.val e 0x14) (hown : s1.OwnFlow n.val (e.arg 24 4))
    (hwrite : (s1.touchFlow (e.arg 24 4)).busWrite .flow e.addr
      (patch ((s1.touchFlow (e.arg 24 4)).fl (e.arg 24 4)).bytes 64 (List.replicate 64 0)) false = (s2, true)) :
    execCtxRead n s = .next (s2.ringEnd e fsOk none) :=
  congrArg _ (State.onRing_of_fronts hfront (by simp only [State.named_of_own hown, hwrite]))

theorem execCtxRead_of_other (hfront : s.Fronts s1 n.val e 0x14) (hother : s1.OtherFlow n.val (e.arg 24 4) st) :
    execCtxRead n s = .next ((s1.touchFlow (e.arg 24 4)).ringEnd e st none) := by
  obtain ⟨k, rfl, hnamed⟩ := State.named_of_other hother
  exact congrArg _ (State.onRing_of_fronts hfront (by simp only [hnamed]))

end Commands

/-! FLOW_OPEN (R320) -/

theorem mem_keys_of_tfind_isSome {α : Type} {t : Tab α} {k : Nat} (h : (tfind t k).isSome = true) : k ∈ t.map (·.1) := by
  induction t with
  | nil => simp [tfind] at h
  | cons e r ih =>
    simp only [tfind] at h
    split at h
    · simp [*]
    · exact List.mem_cons_of_mem _ (ih h)

/-- The context that FLOW_OPEN takes from a drawn number a on. -/
def freeCtx (t : Tab Flow) (a : Nat) : Nat :=
  ((List.range (t.length + 1)).find? (fun i => (tfind t ((a + i) % ctxCount)).isNone)).elim 0 (fun i => (a + i) % ctxCount)

/-- The numbers that are tried differ, and are one more than the contexts in use: one of them is free. -/
theorem exists_free_ctx {t : Tab Flow} (a : Nat) (ht : t.length < ctxCount) :
    ∃ i ∈ List.range (t.length + 1), (tfind t ((a + i) % ctxCount)).isNone = true := by
  by_contra! hused
  let tried := (List.range (t.length + 1)).map (fun i => (a + i) % ctxCount)
  have hnodup : tried.Nodup := by
    refine List.nodup_range.map_on fun i hi j hj heq => ?_
    rw [List.mem_range] at hi hj
    exact (Nat.ModEq.add_left_cancel' a heq).eq_of_lt_of_lt (by omega) (by omega)
  have hsub : tried ⊆ t.map (·.1) := by
    intro k hk
    obtain ⟨i, hi, rfl⟩ := List.mem_map.mp hk
    exact mem_keys_of_tfind_isSome (by simpa [Option.isSome_iff_ne_none] using hused i hi)
  have hlength : t.length + 1 ≤ t.length := by simpa [tried] using (hnodup.subperm hsub).length_le
  omega

theorem freeCtx_is_free {t : Tab Flow} (a : Nat) (ht : t.length < ctxCount) :
    freeCtx t a < ctxCount ∧ tfind t (freeCtx t a) = none := by
  obtain ⟨i, hi⟩ := Option.isSome_iff_exists.mp (List.find?_isSome.mpr (exists_free_ctx a ht))
  have hfree := List.find?_some hi
  simp only [freeCtx, hi, Option.elim_some]
  exact ⟨Nat.mod_lt _ (by decide), Option.isNone_iff_eq_none.mp hfree⟩

/-- Whether an image's context, its peer profile and its pool are ring n's owner's (R316). -/
def State.ringOwnsImage (s : State) (n : Nat) (y : Flow) : Bool :=
  y.hdr.owner == s.ringOwner n && s.fld (Key.flPeer y.hdr.peer 7) 3 0 == s.ringOwner n && y.hdr.pool == s.ringOwner n

theorem State.ringOwnsImage_eq_false_iff {s : State} {n : Nat} {y : Flow} : s.ringOwnsImage n y = false ↔
    y.hdr.owner ≠ s.ringOwner n ∨ s.fld (Key.flPeer y.hdr.peer 7) 3 0 ≠ s.ringOwner n ∨ y.hdr.pool ≠ s.ringOwner n := by
  simp [State.ringOwnsImage, imp_iff_not_or, or_assoc]

theorem execFlowOpen_of_read {s s1 s2 : State} {n : Fin 256} {e : REntry} {b : List Byte} (hfront : s.Fronts s1 n.val e 0x10)
    (hread : s1.flRead e.addr 512 = (s2, some (b, false))) :
    execFlowOpen n s = .next (
      if (Flow.ofImage b).hdr.ok = false then s2.ringEnd e fsParam none
      else if s2.ringOwnsImage n.val (Flow.ofImage b) = false then s2.ringEnd e fsForeign none
      else if ctxCount ≤ s2.flow.length then s2.ringEnd e fsFull none
      else ((s2.drawBelow ctxCount).2.makeFlow (freeCtx s2.flow (s2.drawBelow ctxCount).1) (Flow.ofImage b)).ringEnd e fsOk
        (some (freeCtx s2.flow (s2.drawBelow ctxCount).1))) := by
  refine congrArg Host.Outcome.next ?_
  simp only [State.ringOwnsImage_eq_false_iff]
  split_ifs with hok hown hfull
  all_goals refine State.onRing_of_fronts hfront ?_; simp only [hread]
  · simp [hok]
  · simp only [hok, if_pos hown]; rfl
  · simp only [hok, if_neg hown, if_pos hfull]; rfl
  · simp only [hok, if_neg hown, if_neg hfull]; rfl

/-! REOWN (R333) -/

section Reown
variable {s s1 : State} {n : Fin 256} {e : REntry}

/-- Whether a context or a table entry of the carrier that e names is another's than ring n's owner. -/
def State.Others (s : State) (n : Nat) (e : REntry) : Prop :=
  s.flow.any (fun g => g.2.hdr.carrier == e.carrier && g.2.hdr.owner != s.ringOwner n) = true ∨
    s.allEntries.any (fun q => s.entryCarrier (s.teAt q) == e.carrier && teOwner (s.teAt q) != s.ringOwner n) = true

theorem execReown_of_range (hfront : s.Fronts s1 n.val e 0x16) (h : 383 < e.carrier ∨ 8 ≤ e.arg 24 1) :
    execReown n s = .next (s1.ringEnd e fsParam none) :=
  congrArg _ (State.onRing_of_fronts hfront (if_pos h))

theorem execReown_of_others (hfront : s.Fronts s1 n.val e 0x16) (hc : e.carrier ≤ 383) (hp : e.arg 24 1 < 8)
    (hothers : s1.Others n.val e) : execReown n s = .next (s1.ringEnd e fsForeign none) :=
  congrArg _ (State.onRing_of_fronts hfront ((if_neg (by omega)).trans (if_pos hothers)))

theorem execReown_of_own (hfront : s.Fronts s1 n.val e 0x16) (hc : e.carrier ≤ 383) (hp : e.arg 24 1 < 8)
    (hothers : ¬ s1.Others n.val e) : execReown n s =
      .next ((s1.reownCarrier e.carrier (e.arg 24 1)).1.ringEnd e fsOk (some (s1.reownCarrier e.carrier (e.arg 24 1)).2)) :=
  congrArg _ (State.onRing_of_fronts hfront ((if_neg (by omega)).trans (if_neg hothers)))

/-- A context as REOWN of carrier c to partition p leaves it. -/
def Flow.reowned (c p : Nat) (x : Flow) : Flow := if x.hdr.carrier = c then { x with hdr := { x.hdr with owner := p } } else x

theorem Flow.reowned_owner {c p : Nat} {x : Flow} (h : (x.reowned c p).hdr.carrier = c) : (x.reowned c p).hdr.owner = p := by
  unfold Flow.reowned at h ⊢
  split_ifs at h ⊢ with hx
  · rfl
  · exact absurd h hx

theorem State.reownCarrier_flow (s : State) (c p : Nat) :
    ∃ t : Tab Flow, (s.reownCarrier c p).1.flow = t.map (fun e => (e.1, e.2.reowned c p)) :=
  ⟨_, List.map_congr_left fun e _ => by
    unfold Flow.reowned
    split_ifs <;> rfl⟩

theorem State.reownCarrier_owner {c p g : Nat} {z : Flow} (hz : tfind (s.reownCarrier c p).1.flow g = some z)
    (hc : z.hdr.carrier = c) : z.hdr.owner = p := by
  obtain ⟨t, ht⟩ := s.reownCarrier_flow c p
  rw [ht, tfind_map, Option.map_eq_some_iff] at hz
  obtain ⟨x, -, rfl⟩ := hz
  exact Flow.reowned_owner hc

end Reown

theorem State.tfind_freeFlow_self (s : State) (f : Nat) : tfind (s.freeFlow f).flow f = none := tfind_tdel_self _ f

/-- Settles O39: each command is the answer to the entry at its ring's front, and a number that FLOW_OPEN tries is free. -/
theorem flowContexts : Obligations.FlowContexts := by
  intro s s1 s2 n v e b f front fc t x mine absent foreign ends polled polls y own opens p others
  exact ⟨execFlRingPoll_of_known, execFlRingPoll_of_unknown,
    fun ⟨hfront, hread⟩ => ⟨freeCtx s2.flow (s2.drawBelow ctxCount).1, freeCtx_is_free _, execFlowOpen_of_read hfront hread⟩,
    execFlowClose_of_own, fun hfront h => execFlowClose_of_other hfront (.of_absent h),
    fun hfront h => execFlowClose_of_other hfront (.of_foreign h),
    execFlowFree_of_closing, s.tfind_freeFlow_self f.toNat,
    execRekey_of_own, fun hfront h => execRekey_of_other hfront (.of_absent h),
    fun hfront h => execRekey_of_other hfront (.of_foreign h),
    execCtxRead_of_own, fun hfront h => execCtxRead_of_other hfront (.of_absent h),
    fun hfront h => execCtxRead_of_other hfront (.of_foreign h),
    execReown_of_own, execReown_of_others, execReown_of_range, fun _ _ => State.reownCarrier_owner⟩

end Sys2Proof.Machine
end

section
/-!
PROOFS. Flow packets, keys and timers (R318, R319, R321, R323 to R330): how the commands of the classification table, of MAC PDUs and of
frames from a MAC end, and what a timer that has reached its value does, and with them the statement O40.
-/
namespace Sys2Proof.Machine

/-! Keys of the classification table (R318, R319) -/

section Keys
variable {s s1 : State} {n : Fin 256} {e : REntry} {q : Place}

/-- What KEY_INSERT of e on ring n places in a state. -/
def State.placeFor (s : State) (n : Nat) (e : REntry) : State × Option Place :=
  s.placeEntry (e.arg 24 1) ((e.b.drop 32).take 16) (teMake (e.arg 24 1) (s.ringOwner n) (e.arg 28 4) ((e.b.drop 32).take 16))

/-- The end of KEY_INSERT with its key placed, RESULT the bucket, or with no place for it. -/
def State.insertEnd (s : State) (e : REntry) : Option Place → State
  | some (.slot k _) => s.ringEnd e fsOk (some k)
  | some (.stash _) => s.ringEnd e fsOk (some (2 ^ 63 + (s.buckets (e.arg 24 1) ((e.b.drop 32).take 16)).1))
  | none => s.ringEnd e fsFull none

section Insert
variable (hfront : s.Fronts s1 n.val e 0x12)
include hfront

theorem execKeyInsert_of_range (hkt : 3 ≤ e.arg 24 1) : execKeyInsert n s = .next (s1.ringEnd e fsParam none) :=
  congrArg _ (State.onRing_of_fronts hfront (if_pos hkt))

variable (hkt : e.arg 24 1 < 3) (hown : s1.OwnFlow n.val (e.arg 28 4))
include hkt hown

theorem execKeyInsert_of_present (hlookup : (s1.touchFlow (e.arg 28 4)).lookup (e.arg 24 1) ((e.b.drop 32).take 16) = some q) :
    execKeyInsert n s = .next ((s1.touchFlow (e.arg 28 4)).ringEnd e
      (if teOwner ((s1.touchFlow (e.arg 28 4)).teAt q) = (s1.touchFlow (e.arg 28 4)).ringOwner n.val then fsExists else fsForeign) none) :=
  congrArg _ (State.onRing_of_fronts hfront ((if_neg (Nat.not_le.mpr hkt)).trans (by simp only [State.named_of_own hown, hlookup])))

theorem execKeyInsert_of_absent {v : State} {p : Option Place}
    (hlookup : (s1.touchFlow (e.arg 28 4)).lookup (e.arg 24 1) ((e.b.drop 32).take 16) = none)
    (hplace : (s1.touchFlow (e.arg 28 4)).placeFor n.val e = (v, p)) : execKeyInsert n s = .next (v.insertEnd e p) := by
  rw [State.placeFor] at hplace
  refine congrArg Host.Outcome.next ?_
  rcases p with _ | ⟨k, i⟩ | i
  all_goals
    rw [State.insertEnd]
    refine State.onRing_of_fronts hfront ((if_neg (Nat.not_le.mpr hkt)).trans ?_)
    simp only [State.named_of_own hown, hlookup, hplace]

end Insert

section Delete
variable (hfront : s.Fronts s1 n.val e 0x13) (hkt : e.arg 24 1 < 3)
include hfront hkt

theorem execKeyDelete_of_own (hlookup : s1.lookup (e.arg 24 1) ((e.b.drop 32).take 16) = some q)
    (howner : teOwner (s1.teAt q) = s1.ringOwner n.val) :
    execKeyDelete n s = .next ((s1.tePut q (List.replicate 64 0)).ringEnd e fsOk none) :=
  congrArg _ (State.onRing_of_fronts hfront ((if_neg (Nat.not_le.mpr hkt)).trans (by simp only [hlookup, if_pos howner])))

theorem execKeyDelete_of_foreign (hlookup : s1.lookup (e.arg 24 1) ((e.b.drop 32).take 16) = some q)
    (howner : teOwner (s1.teAt q) ≠ s1.ringOwner n.val) : execKeyDelete n s = .next (s1.ringEnd e fsForeign none) :=
  congrArg _ (State.onRing_of_fronts hfront ((if_neg (Nat.not_le.mpr hkt)).trans (by simp only [hlookup, if_neg howner])))

theorem execKeyDelete_of_absent (hlookup : s1.lookup (e.arg 24 1) ((e.b.drop 32).take 16) = none) :
    execKeyDelete n s = .next (s1.ringEnd e fsNotFound none) :=
  congrArg _ (State.onRing_of_fronts hfront ((if_neg (Nat.not_le.mpr hkt)).trans (by simp only [hlookup])))

end Delete
end Keys

/-! A MAC PDU received (R323) -/

section Uplink
variable {s s1 s2 : State} {n : Fin 256} {e : REntry} {b : List Byte}

/-- Whether a part is an SDU whose entry or context is another's than ring n's owner (R316). -/
def State.partForeign (s : State) (n : Nat) (e : REntry) (x : SubPdu) : Bool :=
  x.kind == .sdu && (match s.lookup 1 (ulKey e.carrier e.ue x.lcid) with
    | some q => teOwner (s.teAt q) != s.ringOwner n || s.flowForeign n (teFlow (s.teAt q))
    | none => false)

/-- What the parts of a MAC PDU, dealt with in order, have come to. -/
def State.ulDone (s : State) (n : Nat) (e : REntry) (b : List Byte) (ps : List SubPdu) : Ul :=
  ps.foldl (fun u x => u.part e (s.ringOwner n) b x) ⟨s, 0, 0, 0, false⟩

/-- The RESULT of UL_PDU: its counts of SDUs to PDCP, to EXC and dropped. -/
def Ul.result (u : Ul) : Nat := u.pdcp * 2 ^ 48 + u.exc * 2 ^ 32 + u.drop * 2 ^ 16

variable (hfront : s.Fronts s1 n.val e 1)
include hfront

theorem execUlPdu_of_range (hc : 383 < e.carrier) : execUlPdu n s = .next (s1.ringEnd e fsParam none) :=
  congrArg _ (State.onRing_of_fronts hfront (if_pos hc))

section Read
variable {ps : List SubPdu} {cut : Bool} {u : Ul} (hc : e.carrier ≤ 383) (hread : s1.flRead e.addr e.len = (s2, some (b, false)))
  (hparts : macParts (s2.carrierLte e.carrier) b = (ps, cut))
include hc hread hparts

theorem execUlPdu_of_foreign (hforeign : ps.any (s2.partForeign n.val e) = true) :
    execUlPdu n s = .next (s2.ringEnd e fsForeign none) := by
  refine congrArg Host.Outcome.next (State.onRing_of_fronts hfront ((if_neg (Nat.not_lt.mpr hc)).trans ?_))
  simp only [hread, hparts]
  exact if_pos hforeign

variable (hforeign : ps.any (s2.partForeign n.val e) = false) (hdone : s2.ulDone n.val e b ps = u)
include hforeign hdone

theorem execUlPdu_of_own : execUlPdu n s = .next ((if cut then u.s.flDrop fdMalformed else u.s).ringEnd e
    (if u.poison then fsPoison else if cut then fsMalformed else fsOk) (some u.result)) := by
  subst hdone
  refine congrArg Host.Outcome.next (State.onRing_of_fronts hfront ((if_neg (Nat.not_lt.mpr hc)).trans ?_))
  simp only [hread, hparts]
  exact if_neg (Bool.eq_false_iff.mp hforeign)

theorem execUlPdu_of_whole (hcut : cut = false) :
    execUlPdu n s = .next (u.s.ringEnd e (if u.poison then fsPoison else fsOk) (some u.result)) := by
  simpa only [hcut, Bool.false_eq_true, if_false] using execUlPdu_of_own hfront hc hread hparts hforeign hdone

theorem execUlPdu_of_cut (hcut : cut = true) :
    execUlPdu n s = .next ((u.s.flDrop fdMalformed).ringEnd e (if u.poison then fsPoison else fsMalformed) (some u.result)) := by
  simpa only [hcut, if_true] using execUlPdu_of_own hfront hc hread hparts hforeign hdone

end Read
end Uplink

/-! A MAC PDU built (R330) -/

section Downlink
variable {s s1 s2 s3 : State} {n : Fin 256} {e : REntry} {ce : List Byte}

/-- The contexts of the logical channels that DL_BUILD names. -/
def State.buildFlows (s : State) (e : REntry) : List Nat :=
  (((List.range 8).map (fun i => e.arg (24 + i) 1)).filter (· ≠ 0xFF)).flatMap (s.flowsOf e.carrier e.ue)

/-- What flows fs have given to the MAC PDU that DL_BUILD builds. -/
def State.buildDone (s : State) (e : REntry) (lte : Bool) (fs : List Nat) : Build :=
  fs.foldl Build.flow ⟨s, lte, e.len - e.arg 38 2, [], 0, 0⟩

/-- The RESULT of DL_BUILD: its data bytes, RLC PDUs and the room that is left. -/
def Build.result (b : Build) : Nat := b.data * 2 ^ 32 + b.pdus * 2 ^ 16 + b.room % 2 ^ 16

variable (hfront : s.Fronts s1 n.val e 2)
include hfront

theorem execDlBuild_of_range (h : 383 < e.carrier ∨ e.len < e.arg 38 2 + 1) : execDlBuild n s = .next (s1.ringEnd e fsParam none) :=
  congrArg _ (State.onRing_of_fronts hfront (if_pos h))

theorem execDlBuild_of_own (hc : e.carrier ≤ 383) (hlen : e.arg 38 2 + 1 ≤ e.len)
    (hown : ∀ f ∈ s1.buildFlows e, (s1.fl f).hdr.owner = s1.ringOwner n.val)
    (hread : s1.flRead (e.arg 32 5) (e.arg 38 2) = (s2, some (ce, false)))
    (hwrite : (s2.buildDone e (s1.carrierLte e.carrier) (s1.buildFlows e)).s.busWrite .flow e.addr
      (ce ++ (s2.buildDone e (s1.carrierLte e.carrier) (s1.buildFlows e)).bytes) false = (s3, true)) :
    execDlBuild n s =
      .next (s3.ringEnd e fsOk (some (s2.buildDone e (s1.carrierLte e.carrier) (s1.buildFlows e)).result)) := by
  have hnone : ¬ (s1.buildFlows e).any (fun f => (s1.fl f).hdr.owner != s1.ringOwner n.val) = true := by simpa using hown
  rw [State.buildDone, State.buildFlows] at hwrite
  refine congrArg Host.Outcome.next
    (State.onRing_of_fronts hfront ((if_neg (by omega)).trans ((if_neg hnone).trans ?_)))
  simp only [hread, Bool.false_eq_true, if_false, hwrite]
  rfl

end Downlink

/-! Frames from a MAC (R328) -/

section Frames
variable {s : State} {m : Fin 128} {f : List Byte}

theorem execGtpuDlPacket_of_frame {fr : List (List Byte)} (hin : (s.mc m.val).flowIn = f :: fr) (hruns : s.flowRuns = true) :
    execGtpuDlPacket m s = .next ((s.setMc m.val { s.mc m.val with flowIn := fr }).dlPacket m f) := by
  simp only [execGtpuDlPacket, hin, hruns, if_true]

theorem State.dlPacket_of_fragment (h : ipFragment f = true) :
    s.dlPacket m f = s.excRecord (s.entN (Key.ethOwner m.val)) .fragment [m.val] f := if_pos h

end Frames

/-! Timers (R321, R324, R325) -/

section Timers
variable {s : State} {f : BitVec 20} {k : FlowTimer}

/-- Whether timer k of context f has reached its value. -/
def State.timerDue (s : State) (f : Nat) (k : FlowTimer) : Bool :=
  match k with
  | .tReordering => s.timerDone (s.fl f).tReordering (s.fl f).hdr.msReordering
  | .tPollRetransmit => s.timerDone (s.fl f).tPoll (s.fl f).hdr.msPoll
  | .tReassembly => s.timerDone (s.fl f).tReassembly (s.fl f).hdr.msReassembly
  | .tStatusProhibit => s.timerDone (s.fl f).tProhibit (s.fl f).hdr.msProhibit

theorem execFlowTimerExpiry_of_due (hopen : (s.fl f.toNat).st = .opened) (hdue : s.timerDue f.toNat k = true)
    (hruns : s.flowRuns = true) (hstill : ((s.touchFlow f.toNat).fl f.toNat).st = .opened) :
    execFlowTimerExpiry f k s = .next ((s.touchFlow f.toNat).timerEnds f.toNat k) :=
  congrArg _ ((if_pos ⟨hopen, hdue, hruns⟩).trans (if_pos hstill))

theorem execFlowTimerExpiry_of_early (hearly : s.timerDue f.toNat k = false) : execFlowTimerExpiry f k s = .next s :=
  congrArg _ (if_neg fun ⟨_, hdue, _⟩ => Bool.eq_false_iff.mp hearly hdue)

theorem Flow.pollExpiry_tPoll (x : Flow) : x.pollExpiry.tPoll = none := rfl

theorem Flow.amExpiry_statusDue (x : Flow) (raw : Nat) : (x.amExpiry raw).statusDue = true := by
  simp only [Flow.amExpiry]
  split <;> rfl

end Timers

/-- Settles O40: each command is the answer to the entry at its ring's front, and a timer that is due does what its procedure says. -/
theorem flowPacketsKeys : Obligations.FlowPacketsKeys := by
  intro s s1 s2 s3 n m e b ce f q fr ctx tm front ends kt fc t mine key place parts foreign u fs built took x due w y expires um
  have expires_of : ∀ k v, w.timerEnds ctx.toNat k = v → expires k v := fun k v hv htm hopen hdue hruns hstill =>
    (execFlowTimerExpiry_of_due hopen hdue hruns hstill).trans (congrArg _ (htm ▸ hv))
  refine ⟨fun hfront hkt hown hlookup => ?insert, execKeyInsert_of_present, execKeyInsert_of_range, execKeyDelete_of_own,
    execKeyDelete_of_foreign, execKeyDelete_of_absent,
    fun hfront hc hread hforeign => execUlPdu_of_whole hfront hc hread rfl hforeign rfl,
    fun hfront hc hread hforeign => execUlPdu_of_cut hfront hc hread rfl hforeign rfl,
    fun hfront hc hread => execUlPdu_of_foreign hfront hc hread rfl, execUlPdu_of_range,
    execDlBuild_of_own, execDlBuild_of_range, execGtpuDlPacket_of_frame, State.dlPacket_of_fragment,
    expires_of _ _ rfl, expires_of _ _ rfl, expires_of _ _ rfl, expires_of _ _ rfl,
    ⟨y.pollExpiry_tPoll, y.amExpiry_statusDue _⟩, execFlowTimerExpiry_of_early⟩
  case insert =>
    rcases hplace : place with ⟨v, _ | ⟨k, i⟩ | i⟩
    all_goals exact execKeyInsert_of_absent hfront hkt hown hlookup hplace

end Sys2Proof.Machine
end

section
/-!
PROOFS. Serial lanes (R336, R339, R345 to R353): the writes of an octet and of a lane, negotiation and training of a port, its losses and
its lock, the eye scan, the bit slip and the receive word, and with them the statement O41.
-/
namespace Sys2Proof.Machine

/-! Octets (R336, R339) -/

section Octets
variable {s : State} {rq : Requester} {o : Fin 16} {n : Nat} {v : U64}

theorem execOctetReconfigure_of_ok {w : State} (hok : s.checkWho rq (Key.lnOCfg o.val) v = .ok) (hw : s.lnOCfgWrite o.val v = w) :
    execOctetReconfigure rq o v s = .next w := by
  simp only [execOctetReconfigure, hok, hw]

theorem State.lnOCfgWrite_of_range (hv : bf v 55 0 ≠ 0 ∨ s.modeOk n (bf v 63 60) = false) : s.lnOCfgWrite n v = s.status .range :=
  if_pos (hv.imp_right fun hmode => by rw [hmode]; rfl)

section Accepted
variable (hv : bf v 55 0 = 0 ∧ s.modeOk n (bf v 63 60) = true)
include hv

theorem State.lnOCfgWrite_of_kept
    (hkeeps : bf v 63 58 = bf (s.ent (Key.lnOCfg n)) 63 58 ∧ bit v 56 = bit (s.ent (Key.lnOCfg n)) 56) :
    s.lnOCfgWrite n v = (s.setEnt (Key.lnOCfg n) v).status .ok := by
  obtain ⟨hreserved, hmode⟩ := hv
  obtain ⟨hlayout, hgrate⟩ := hkeeps
  simp [State.lnOCfgWrite, hreserved, hmode, hlayout, hgrate]

theorem State.lnOCfgWrite_of_changed
    (hchange : ¬ (bf v 63 58 = bf (s.ent (Key.lnOCfg n)) 63 58 ∧ bit v 56 = bit (s.ent (Key.lnOCfg n)) 56)) :
    s.lnOCfgWrite n v = (((s.octetIdle n 3).setEnt (Key.lnOCfg n) v).octetHold n 3).status .ok := by
  obtain ⟨hreserved, hmode⟩ := hv
  exact (if_neg (by simp [hreserved, hmode])).trans (if_pos (not_and_or.mp hchange))

end Accepted
end Octets

/-! The rate of a lane in TEST mode (R351) -/

section TestRate
variable {s : State} {rq : Requester} {l : Fin 128} {v : U64} {f : Nat}

theorem State.portDown_ent_ne (s : State) (f cause : Nat) {k : Nat} (h : k ≠ Key.evrCnt) : (s.portDown f cause).ent k = s.ent k := by
  rw [State.portDown]
  split
  · exact s.record_ent_ne _ _ h
  · rfl

/-- A port that goes down stays in service as it was. -/
theorem State.portDown_laneEn (s : State) (f cause : Nat) : (s.portDown f cause).laneEn f = s.laneEn f :=
  congrArg (bit · 63) (s.portDown_ent_ne f cause (by unfold Key.lnCfg Key.evrCnt; omega))

/-- Whether R351 takes a value of `LN_Ln_TEST`. -/
def testRateOk (v : U64) : Prop :=
  bf v 62 32 = 0 ∧ (if bit v 63 then 50000 ≤ bf v 31 0 ∧ bf v 31 0 ≤ 112000 else 1250 ≤ bf v 31 0 ∧ bf v 31 0 ≤ 56250)

/-- Whether a write of v to `LN_Ln_TEST` changes the rate that lane f runs at. -/
def State.renewsRate (s : State) (f : Nat) (v : U64) : Prop := s.laneMode f = omTest ∧ s.fld (Key.lnTest f) 31 0 ≠ bf v 31 0

theorem execTestRateChange_of_ok {w : State} (hok : s.checkWho rq (Key.lnTest l.val) v = .ok) (hw : s.lnTestWrite l.val v = w) :
    execTestRateChange rq l v s = .next w := by
  simp only [execTestRateChange, hok, hw]

theorem not_testRateOk_iff : ¬ testRateOk v ↔ (bf v 62 32 ≠ 0 ∨ !(if bit v 63 then decide (50000 ≤ bf v 31 0) &&
    decide (bf v 31 0 ≤ 112000) else decide (1250 ≤ bf v 31 0) && decide (bf v 31 0 ≤ 56250))) := by
  rw [testRateOk, not_and_or]
  cases bit v 63 <;> simp [imp_iff_not_or]

theorem State.lnTestWrite_of_range (hv : ¬ testRateOk v) : s.lnTestWrite f v = s.status .range :=
  if_pos (not_testRateOk_iff.mp hv)

theorem State.renewsRate_iff : s.renewsRate f v ↔ (s.laneMode f == omTest && s.fld (Key.lnTest f) 31 0 != bf v 31 0) = true := by
  simp [State.renewsRate]

section Accepted
variable (hv : testRateOk v)
include hv

theorem State.lnTestWrite_of_kept (hkeeps : ¬ s.renewsRate f v) : s.lnTestWrite f v = (s.setEnt (Key.lnTest f) v).status .ok :=
  (if_neg (mt not_testRateOk_iff.mpr (not_not.mpr hv))).trans
    (congrArg (State.status · .ok) (if_neg (mt State.renewsRate_iff.mpr hkeeps)))

theorem State.lnTestWrite_of_renewed {w : State} (hrenews : s.renewsRate f v) (hw : (s.setEnt (Key.lnTest f) v).portDown f 3 = w) :
    s.lnTestWrite f v = ((w.portTo f (if w.laneEn f then lnIdle else lnDisabled)).idleFrom f).status .ok := by
  subst hw
  rw [State.portDown_laneEn]
  exact (if_neg (mt not_testRateOk_iff.mpr (not_not.mpr hv))).trans
    (congrArg (State.status · .ok) (if_pos (State.renewsRate_iff.mp hrenews)))

end Accepted
end TestRate

/-! Negotiation and training (R345 to R347) -/

section Training
variable {s : State} {l : Fin 128}

/-- The last number below n with a property is found first from above. -/
theorem find?_reverse_range_of_highest {p : Nat → Bool} {n b : Nat} (hb : b < n) (hp : p b = true)
    (hmax : ∀ i, b < i → i < n → p i = false) : (List.range n).reverse.find? p = some b := by
  induction n with
  | zero => omega
  | succ n ih =>
    rw [List.range_succ, List.reverse_append, List.reverse_singleton, List.singleton_append, List.find?_cons]
    rcases Nat.lt_succ_iff_lt_or_eq.mp hb with hlt | rfl
    · rw [hmax n hlt n.lt_succ_self]
      exact ih hlt fun i hi hin => hmax i hi (by omega)
    · rw [hp]

theorem find?_abilities_of_highest {a b : Nat} (hb : b < 9) (hbit : a / 2 ^ b % 2 = 1) (hmax : a < 2 ^ (b + 1)) :
    (List.range 9).reverse.find? (fun b => a / 2 ^ b % 2 == 1) = some b := by
  refine find?_reverse_range_of_highest hb (by simpa using hbit) fun i hi _ => ?_
  have hzero : a / 2 ^ i = 0 := Nat.div_eq_of_lt (hmax.trans_le (Nat.pow_le_pow_right (by decide) hi))
  rw [hzero]
  rfl

/-- The lanes of the port of f train, from now on. -/
def State.portTrains (s : State) (f : Nat) : State :=
  (s.portLanes f).foldl (fun s q => s.setLaneState q lnTraining) { s with laneAt := tput s.laneAt f (s.raw.toNat + 1) }

/-- The abilities that the partner of lane f and its own advertisement in use have in common. -/
def State.commonAbilities (s : State) (f : Nat) (partner : BitVec 9) : Nat := (tget 0 s.laneAdv f).toNat &&& partner.toNat

section Resolve
variable {partner : BitVec 9} {fec : Bool} {b : Nat} (hfirst : s.isFirst l.val = true) (hst : s.laneState l.val = lnAnState)
include hfirst hst

theorem execAnResolve_of_highest (hb : b < 9) (hbit : s.commonAbilities l.val partner / 2 ^ b % 2 = 1)
    (hmax : s.commonAbilities l.val partner < 2 ^ (b + 1)) : execAnResolve l partner fec s =
      .next (((s.portTrains l.val).setFld (Key.lnStat l.val) 59 56 b).setFld (Key.lnStat l.val) 55 54
        (abilityFec b (fec || (s.portTrains l.val).flag (Key.lnAn l.val) 15))) := by
  have hfind := find?_abilities_of_highest hb hbit hmax
  rw [State.commonAbilities] at hfind
  simp only [execAnResolve, if_pos (And.intro hfirst hst), hfind, State.portTrains]

theorem execAnResolve_of_none (hnone : s.commonAbilities l.val partner = 0) : execAnResolve l partner fec s = .next s := by
  have hfind : (List.range 9).reverse.find? (fun b => 0 / 2 ^ b % 2 == 1) = none := rfl
  rw [State.commonAbilities] at hnone
  simp only [execAnResolve, if_pos (And.intro hfirst hst), hnone, hfind]

end Resolve

/-- Lane f is its port's first, and the port trains. -/
def State.training (s : State) (f : Nat) : Prop := s.isFirst f = true ∧ s.laneState f = lnTraining

theorem execTrainingDone_of_training (h : s.training l.val) : execTrainingDone l s =
    .next ((s.portLanes l.val).foldl (fun s q => (s.setLaneState q lnUp).setFld (Key.lnStat q) 3 2 3) s) :=
  congrArg _ (if_pos h)

/-- The port of lane f negotiates by Clause 73 and is not UP within `LN_LT_TIMEOUT` of its resolution. -/
def State.trainsLate (s : State) (f : Nat) : Prop :=
  s.training f ∧ s.flag (Key.lnCfg f) 57 = true ∧ s.portWaited f (s.entN Key.lnLtTimeout) = true

theorem State.trainsLate_iff {f : Nat} : s.trainsLate f ↔ s.isFirst f = true ∧ s.laneState f = lnTraining ∧
    s.flag (Key.lnCfg f) 57 = true ∧ s.portWaited f (s.entN Key.lnLtTimeout) = true := and_assoc

/-- The advertisement in use of lane f without the ability that its port resolved. -/
def State.advLeft (s : State) (f : Nat) : Nat :=
  let b := s.fld (Key.lnStat f) 59 56
  let a := (tget 0 s.laneAdv f).toNat
  a - a / 2 ^ b % 2 * 2 ^ b

/-- A downshift of lane f, counted and recorded. -/
def State.downshiftNoted (s : State) (f : Nat) : State :=
  (s.incSat (Key.lnCnt f) 31 16 1).record 0x50 [w64 f, w64 (s.fld (Key.lnStat f) 59 56)]

theorem execLtTimeoutDownshift_of_early (h : ¬ s.trainsLate l.val) : execLtTimeoutDownshift l s = .next s :=
  congrArg _ (if_neg (mt State.trainsLate_iff.mpr h))

section Late
variable (hlate : s.trainsLate l.val)
include hlate

theorem execLtTimeoutDownshift_of_again (hoff : s.flag (Key.lnCfg l.val) 56 = false) :
    execLtTimeoutDownshift l s = .next (s.portTo l.val lnAnState) :=
  congrArg _ ((if_pos (State.trainsLate_iff.mp hlate)).trans (if_neg (Bool.eq_false_iff.mp hoff)))

theorem execLtTimeoutDownshift_of_downshift {w : State} {left : Nat} (hon : s.flag (Key.lnCfg l.val) 56 = true)
    (hw : s.downshiftNoted l.val = w) (hleft : s.advLeft l.val = left) : execLtTimeoutDownshift l s =
      .next { w.portTo l.val (if left = 0 then lnIdle else lnAnState) with
        laneAt := tput w.laneAt l.val (w.raw.toNat + 1), laneAdv := tput w.laneAdv l.val (BitVec.ofNat 9 left) } := by
  subst hw hleft
  exact congrArg _ ((if_pos (State.trainsLate_iff.mp hlate)).trans (if_pos hon))

end Late

theorem execAnFullRestart_of_due (hfirst : s.isFirst l.val = true) (hst : s.laneState l.val = lnIdle) (hmode : s.laneMode l.val = omEth)
    (han : s.flag (Key.lnCfg l.val) 57 = true) (hadv : tget 0 s.laneAdv l.val = 0) (hwait : s.portWaited l.val 1000 = true) :
    execAnFullRestart l s = .next (s.startPort l.val) :=
  congrArg _ (if_pos ⟨hfirst, hst, hmode, han, hadv, hwait⟩)

theorem execAnFullRestart_of_early (hwait : s.portWaited l.val 1000 = false) : execAnFullRestart l s = .next s := by
  simp [execAnFullRestart, hwait]

end Training

/-! Losses (R348, R353) -/

section Losses
variable {s : State} {l : Fin 128}

/-- Loss of signal of lane f, noted and counted; a CPRI link counts it too. -/
def State.losNoted (s : State) (f : Nat) : State :=
  let w := ((s.setFlag (Key.lnStat f) 1 true).setSticky (Key.lnStat f) 0).incSat (Key.lnCnt f) 63 48 1
  if w.laneMode f = omCpri then w.incSat (Key.cpriCnt f) 47 32 1 else w

theorem execLosDetect_of_running (hruns : s.rxRuns l.val = true) (hnew : s.flag (Key.lnStat l.val) 1 = false) :
    execLosDetect l s = .next (((s.losNoted l.val).abortEye l.val).portLost l.val 0) :=
  congrArg _ (if_pos ⟨hruns, by rw [hnew]; rfl⟩)

/-- The loss of lane f's lock, noted and counted; it ends a point of the eye scan. -/
def State.unlocked (s : State) (f : Nat) : State := ((s.setCdr f false).incSat (Key.lnCnt f) 47 32 1).abortEye f

theorem execCdrLockLoss_of_locked (h : s.cdrLocked l.val = true) : execCdrLockLoss l s =
    .next ({ (s.unlocked l.val).setFlag (Key.lnPrbs l.val) 29 false with rx := tdel (s.unlocked l.val).rx l.val }.portLost l.val 1) :=
  congrArg _ (if_pos h)

theorem execBlockLockLoss_of_locked (h : s.flag (Key.lnStat l.val) 3 = true) :
    execBlockLockLoss l s = .next ((s.setFlag (Key.lnStat l.val) 3 false).portLost l.val 2) :=
  congrArg _ (if_pos h)

end Losses

/-! The lock of a lane (R76, R353) -/

section Lock
variable {s : State} {f : Nat}

theorem lnOCfg_ne_lnStat (o f : Nat) : Key.lnOCfg o ≠ Key.lnStat f := by
  unfold Key.lnOCfg Key.lnStat
  omega

theorem rstBootStat_ne_lnStat (f : Nat) : Key.rstBootStat ≠ Key.lnStat f := by
  unfold Key.rstBootStat Key.lnStat
  omega

theorem clkSynceOut_ne_lnStat {k : Nat} (hk : k < 2) (f : Nat) : Key.clkSynceOut k ≠ Key.lnStat f := by
  unfold Key.clkSynceOut Key.lnStat
  omega

/-- Lane f with its clock recovery locked and its signal there. -/
def State.locked (s : State) (f : Nat) : State := (s.setCdr f true).setFlag (Key.lnStat f) 1 false

theorem State.locked_ent_ne (s : State) (f : Nat) {k : Nat} (h : k ≠ Key.lnStat f) : (s.locked f).ent k = s.ent k :=
  ((s.setCdr f true).ent_setFlag_ne 1 false h).trans (s.ent_setFlag_ne 2 true h)

theorem State.locked_cdrLocked (s : State) (f : Nat) : (s.locked f).cdrLocked f = true :=
  ((s.setCdr f true).flag_setFlag_ne _ 1 2 false (by decide) (by decide)).trans (s.flag_setFlag_self _ 2 true (by decide))

theorem State.locked_los (s : State) (f : Nat) : (s.locked f).flag (Key.lnStat f) 1 = false :=
  (s.setCdr f true).flag_setFlag_self _ 1 false (by decide)

theorem State.locked_laneState (s : State) (f : Nat) : (s.locked f).laneState f = s.laneState f :=
  ((s.setCdr f true).fld_setFld_other _ 1 1 _ 63 60 (by decide) (by decide) (by decide) (by decide)).trans
    (s.fld_setFld_other _ 2 2 _ 63 60 (by decide) (by decide) (by decide) (by decide))

theorem State.locked_laneMode (s : State) (f : Nat) : (s.locked f).laneMode f = s.laneMode f :=
  congrArg (bf · 63 60) (s.locked_ent_ne f (lnOCfg_ne_lnStat _ f))

theorem State.locked_lanesRun (s : State) (f o : Nat) : (s.locked f).lanesRun o = s.lanesRun o := by
  have hphase : (s.locked f).phase = s.phase := congrArg (bf · 63 60) (s.locked_ent_ne f (rstBootStat_ne_lnStat f))
  have hkeep : (s.locked f).flag (Key.lnOCfg o) 57 = s.flag (Key.lnOCfg o) 57 :=
    congrArg (bit · 57) (s.locked_ent_ne f (lnOCfg_ne_lnStat o f))
  rw [State.lanesRun, hphase, hkeep]
  rfl

/-- Lane f after its lock: outside ETH mode a lane that waits in idle is UP. -/
def State.lockedUp (s : State) (f : Nat) : State :=
  let w := s.locked f
  if w.laneMode f ≠ omEth ∧ w.laneState f = lnIdle ∧ w.lanesRun (f / 8) then w.setLaneState f lnUp else w

theorem State.lockedUp_cases (s : State) (f : Nat) : s.lockedUp f = s.locked f ∨ s.lockedUp f = (s.locked f).setLaneState f lnUp :=
  (ite_eq_or_eq _ _ _).symm

theorem State.lockedUp_ent_ne (s : State) (f : Nat) {k : Nat} (h : k ≠ Key.lnStat f) : (s.lockedUp f).ent k = s.ent k := by
  rcases s.lockedUp_cases f with hu | hu <;> rw [hu]
  · exact s.locked_ent_ne f h
  · exact ((s.locked f).ent_setFld_ne _ _ _ h).trans (s.locked_ent_ne f h)

theorem State.lockedUp_flag (s : State) (f : Nat) {i : Nat} (hi : i < 60) :
    (s.lockedUp f).flag (Key.lnStat f) i = (s.locked f).flag (Key.lnStat f) i := by
  rcases s.lockedUp_cases f with hu | hu <;> rw [hu]
  exact (s.locked f).flag_setFld_other _ 63 60 _ i (by decide) (by decide) (.inr hi)

theorem State.lockedUp_frame (s : State) (f : Nat) : (s.lockedUp f).mem = s.mem ∧ (s.lockedUp f).tile = s.tile := by
  rcases s.lockedUp_cases f with hu | hu <;> rw [hu] <;> exact ⟨rfl, rfl⟩

theorem State.lockedUp_laneState (hmode : s.laneMode f ≠ omEth) (hidle : s.laneState f = lnIdle) (hruns : s.lanesRun (f / 8) = true) :
    (s.lockedUp f).laneState f = lnUp := by
  have hup : s.lockedUp f = (s.locked f).setLaneState f lnUp :=
    if_pos ⟨s.locked_laneMode f ▸ hmode, (s.locked_laneState f).trans hidle, (s.locked_lanesRun f _).trans hruns⟩
  rw [hup]
  exact (s.locked f).fld_setFld_self _ 63 60 lnUp (by decide) (by decide)

/-- Output n of SYNCE_OUT is squelched no longer where it follows lane f. -/
def State.unsquelch (s : State) (f n : Nat) : State :=
  if s.fld (Key.clkSynceOut n) 6 0 = f then { s with synceLow := tput s.synceLow n false } else s

/-- The outputs that follow a lane are squelched no longer, and nothing else changes. -/
theorem State.foldl_unsquelch (s : State) (f : Nat) (ns : List Nat) :
    ∃ t, ns.foldl (State.unsquelch · f) s = { s with synceLow := t } ∧
    ∀ k ∈ ns, s.fld (Key.clkSynceOut k) 6 0 = f → tget false t k = false := by
  induction ns using List.reverseRecOn with
  | nil => exact ⟨s.synceLow, rfl, by simp⟩
  | append_singleton ns n ih =>
    obtain ⟨t, heq, hlow⟩ := ih
    rw [List.foldl_concat, heq]
    by_cases hn : s.fld (Key.clkSynceOut n) 6 0 = f
    · refine ⟨tput t n false, if_pos hn, fun k hk hf => ?_⟩
      rw [tget_tput]
      refine ite_eq_left_iff.mpr fun hne => hlow k ?_ hf
      simpa [hne] using hk
    · refine ⟨t, if_neg hn, fun k hk hf => hlow k ?_ hf⟩
      rcases List.mem_append.mp hk with hk | hk
      · exact hk
      · exact absurd (List.mem_singleton.mp hk ▸ hf) hn

theorem execCdrLockAcquire_of_unlocked {l : Fin 128} (hrx : s.rxRuns l.val = true) (hruns : s.lanesRun (l.val / 8) = true)
    (hlock : s.cdrLocked l.val = false) :
    execCdrLockAcquire l s = .next ((List.range 2).foldl (State.unsquelch · l.val) (s.lockedUp l.val)) :=
  congrArg _ (if_pos ⟨hrx, hruns, by rw [hlock]; rfl⟩)

end Lock

/-! The checker (R350) -/

section Checker
variable {s : State} {l : Fin 128} {n : Nat} (hchk : s.flag (Key.lnPrbs l.val) 30 = true) (hruns : s.rxRuns l.val = true)
  (hdev : s.dev ≠ .hold)
include hchk hruns hdev

theorem execPrbsCheckerLock_of_unlocked (hlock : s.flag (Key.lnPrbs l.val) 29 = false) :
    execPrbsCheckerLock l n s = .next (s.setFlag (Key.lnPrbs l.val) 29 true) :=
  congrArg _ ((if_pos ⟨hchk, hruns, hdev⟩).trans (if_neg (Bool.eq_false_iff.mp hlock)))

theorem execPrbsCheckerLock_of_locked (hlock : s.flag (Key.lnPrbs l.val) 29 = true) :
    execPrbsCheckerLock l n s = .next (s.inc64 (Key.lnPrbsErr l.val) n) :=
  congrArg _ ((if_pos ⟨hchk, hruns, hdev⟩).trans (if_pos hlock))

end Checker

/-! The eye scan (R348) -/

section Eye
variable {s : State} {rq : Requester} {l : Fin 128} {v : U64} {f : Nat}

theorem execEyeStart_of_ok {w : State} (hok : s.checkWrite rq (Key.lnEyeCtl l.val) (setBit v 63 true) = .ok)
    (hw : s.eyeWrite l.val (setBit v 63 true) = w) : execEyeStart rq l v s = .next w := by
  simp only [execEyeStart, hok, hw]

section Start
variable (hstart : bit v 63 = true)
include hstart

theorem State.eyeWrite_of_running (hrun : s.flag (Key.lnEyeCtl f) 63 = true) : s.eyeWrite f v = s.status .busy :=
  if_pos ⟨hstart, hrun⟩

variable (hidle : ¬ s.flag (Key.lnEyeCtl f) 63 = true)
include hidle

theorem State.eyeWrite_of_range (heye : bf v 62 61 ≠ 0) (hnrz : s.lanePam4 f = false) : s.eyeWrite f v = s.status .range :=
  (if_neg fun ⟨_, hrun⟩ => hidle hrun).trans (if_pos ⟨hstart, heye, by rw [hnrz]; rfl⟩)

theorem State.eyeWrite_of_idle (heye : bf v 62 61 = 0 ∨ s.lanePam4 f = true) :
    s.eyeWrite f v = ((s.setEnt (Key.lnEyeCtl f) v).setEnt (Key.lnEyeRes f) 0).status .ok := by
  rcases heye with heye | heye
  all_goals simp [State.eyeWrite, hstart, hidle, heye]

end Start

theorem execEyePointDone_of_running {n : Nat} (hrun : s.flag (Key.lnEyeCtl l.val) 63 = true)
    (hn : n ≤ 2 ^ s.fld (Key.lnEyeCtl l.val) 5 0) : execEyePointDone l n s =
      .next ((s.setFlag (Key.lnEyeCtl l.val) 63 false).setEntN (Key.lnEyeRes l.val) (2 ^ 62 + min n (2 ^ 48 - 1))) :=
  congrArg _ (if_pos ⟨hrun, hn⟩)

end Eye

/-! The bit slip (R349) -/

section Slip
variable {s : State} {rq : Requester} {l : Fin 128} {v : U64} {f : Nat}

theorem execLaneSlip_of_ok {w : State} (hok : s.checkWho rq (Key.lnSlip l.val) v = .ok) (hw : s.slipWrite l.val v = w) :
    execLaneSlip rq l v s = .next w := by
  simp only [execLaneSlip, hok, hw]

theorem State.slipWrite_of_range (hmode : s.laneMode f ≠ omGelpel) : s.slipWrite f v = s.status .range := if_pos (.inl hmode)

section Gelpel
variable (hmode : s.laneMode f = omGelpel)
include hmode

theorem State.slip_one_not_refused : ¬ (s.laneMode f ≠ omGelpel ∨ 1 < (1 : U64).toNat) := not_or.mpr ⟨not_not.mpr hmode, by decide⟩

theorem State.slipWrite_one_of_idle (hidle : s.flag (Key.lnStat f) 4 = false) :
    s.slipWrite f 1 = (s.setFlag (Key.lnStat f) 4 true).status .ok :=
  (if_neg (State.slip_one_not_refused hmode)).trans (if_neg (Bool.eq_false_iff.mp hidle))

theorem State.slipWrite_one_of_busy (hbusy : s.flag (Key.lnStat f) 4 = true) : s.slipWrite f 1 = s.status .busy :=
  (if_neg (State.slip_one_not_refused hmode)).trans (if_pos hbusy)

end Gelpel

theorem execSlipDone_of_busy {x : LineRx} (hx : tget rxInit s.rx l.val = x) (hbusy : s.flag (Key.lnStat l.val) 4 = true) :
    execSlipDone l s =
      .next { s.setFlag (Key.lnStat l.val) 4 false with rx := tput s.rx l.val { x with pos := (x.pos + 63) % 64 } } := by
  subst hx
  exact congrArg _ (if_pos hbusy)

end Slip

/-! The receive word (R344, R349) -/

section Rxword
variable {s : State} {rq : Requester} {l : Fin 128} {f : Nat} {line bits : List Bool} {x y : LineRx} {e : Nat}

/-- So many wrong stuff bits of lane f, counted. -/
def State.stuffCounted (s : State) (f e : Nat) : State := if e = 0 then s else s.incSat (Key.lnCnt f) 15 0 e

theorem State.stuffCounted_fld (s : State) (f e : Nat) :
    (s.stuffCounted f e).fld (Key.lnCnt f) 15 0 = min (s.fld (Key.lnCnt f) 15 0 + e) 65535 := by
  rw [State.stuffCounted]
  split
  · have hlt : s.fld (Key.lnCnt f) 15 0 < 2 ^ 16 := bf_lt _ 15 0
    omega
  · exact s.fld_incSat_self _ 15 0 e (by decide) (by decide)

theorem execRxwordRead_of_ok {v : U64} {w : State} (hok : s.checkRead rq (Key.lnRxword l.val) = .ok)
    (hw : s.rxword l.val line = (v, w)) : execRxwordRead rq l line s = .next (w.answer (.value v)) := by
  simp only [execRxwordRead, hok, hw]

theorem State.rxword_of_deaf (hdeaf : ¬ (s.laneMode f = omGelpel ∧ s.cdrLocked f = true)) : s.rxword f line = (0, s) := if_neg hdeaf

variable (hhears : s.laneMode f = omGelpel ∧ s.cdrLocked f = true) (hx : tget rxInit s.rx f = x) (hfeed : x.feed line = (y, bits, e))
include hhears hx hfeed

/-- 64 bits without a wrong stuff bit are the word, from the boundary on. -/
theorem State.rxword_of_clean (hclean : e = 0) (hlen : 64 ≤ (bits.drop ((64 - x.pos) % 64)).length) : s.rxword f line =
    (w64 (((bits.drop ((64 - x.pos) % 64)).take 64).foldl (fun a b => 2 * a + b01 b) 0),
      { s with rx := tput s.rx f { y with pos := (x.pos + bits.length) % 64 } }) := by
  have hword : ((bits.drop ((64 - x.pos) % 64)).take 64).length = 64 := List.length_take_of_le hlen
  simp only [State.rxword, if_pos hhears, hx, hfeed, if_pos hclean, if_pos hword]

/-- Wrong stuff bits are counted, whether or not the line holds a word. -/
theorem State.rxword_stuffErr : (s.rxword f line).2.fld (Key.lnCnt f) 15 0 = min (s.fld (Key.lnCnt f) 15 0 + e) 65535 := by
  have hcount := ({ s with rx := tput s.rx f { y with pos := (x.pos + bits.length) % 64 } } : State).stuffCounted_fld f e
  simp only [State.rxword, if_pos hhears, hx, hfeed]
  split <;> exact hcount

end Rxword

/-- Settles O41: each command of the octets and lanes is the rule of its case. -/
theorem lanesPorts : Obligations.LanesPorts := by
  intro s rq o l v partner fec b n line f old r both ok octOk keeps rateOk renews tested first training late had adv left trains x heard
    bits down los nolock locks lockUp ev eyeOk running hears
  have hev : bit ev 63 = true := bit_setBit_self v 63 true (by decide)
  refine ⟨fun ⟨hok, hv⟩ hkeeps => execOctetReconfigure_of_ok hok (State.lnOCfgWrite_of_kept hv hkeeps),
    fun ⟨hok, hv⟩ hchange => execOctetReconfigure_of_ok hok (State.lnOCfgWrite_of_changed hv hchange),
    fun hok hv => execOctetReconfigure_of_ok hok (State.lnOCfgWrite_of_range hv), rfl,
    fun hok hv hkeeps => execTestRateChange_of_ok hok (State.lnTestWrite_of_kept hv hkeeps),
    fun hok hv hrenews => execTestRateChange_of_ok hok (State.lnTestWrite_of_renewed hv hrenews rfl),
    fun hok hv => execTestRateChange_of_ok hok (State.lnTestWrite_of_range hv),
    execAnResolve_of_highest, execAnResolve_of_none, execTrainingDone_of_training, execLtTimeoutDownshift_of_again,
    fun hlate hon => execLtTimeoutDownshift_of_downshift hlate hon rfl rfl, execLtTimeoutDownshift_of_early,
    execAnFullRestart_of_due, execAnFullRestart_of_early, execLosDetect_of_running, execCdrLockLoss_of_locked,
    execBlockLockLoss_of_locked, fun hrx hruns hlock => ?lock, execPrbsCheckerLock_of_unlocked, execPrbsCheckerLock_of_locked,
    fun hok hidle heye => execEyeStart_of_ok hok (State.eyeWrite_of_idle hev hidle heye),
    fun hok hidle heye hnrz => execEyeStart_of_ok hok (State.eyeWrite_of_range hev hidle heye hnrz),
    fun hok hrun => execEyeStart_of_ok hok (State.eyeWrite_of_running hev hrun), execEyePointDone_of_running,
    fun hok hmode hidle => execLaneSlip_of_ok hok (State.slipWrite_one_of_idle hmode hidle),
    fun hok hmode hbusy => execLaneSlip_of_ok hok (State.slipWrite_one_of_busy hmode hbusy),
    fun hok hmode => execLaneSlip_of_ok hok (State.slipWrite_of_range hmode), execSlipDone_of_busy rfl,
    fun hok hhears hclean hlen => execRxwordRead_of_ok hok (State.rxword_of_clean hhears rfl rfl hclean hlen),
    fun hok hhears => ⟨_, _, execRxwordRead_of_ok hok rfl, State.rxword_stuffErr hhears rfl rfl⟩,
    fun hok hdeaf => execRxwordRead_of_ok hok (State.rxword_of_deaf hdeaf)⟩
  case lock =>
    obtain ⟨t, heq, hlow⟩ := (s.lockedUp f).foldl_unsquelch f (List.range 2)
    obtain ⟨hmem, htile⟩ := s.lockedUp_frame f
    refine ⟨{ s.lockedUp f with synceLow := t }, (execCdrLockAcquire_of_unlocked hrx hruns hlock).trans (congrArg _ heq),
      (s.lockedUp_flag f (by decide)).trans (s.locked_cdrLocked f), (s.lockedUp_flag f (by decide)).trans (s.locked_los f),
      fun hmode hidle => State.lockedUp_laneState hmode hidle hruns, hmem, htile,
      fun k hk => hlow k (List.mem_range.mpr k.isLt) ?_⟩
    exact (congrArg (bf · 6 0) (s.lockedUp_ent_ne f (clkSynceOut_ne_lnStat k.isLt f))).trans hk

end Sys2Proof.Machine
end

section
/-!
PROOFS. Ethernet MACs (R355 to R365, R382, R397): a frame received and the FIFO that it leaves, learned addresses, the transmit ring, the
egress queues, the gate list and the delay measurement, and with them the statement O42.
-/
namespace Sys2Proof.Machine

/-! A MAC's record -/

@[simp] theorem State.mc_setMc (s : State) (m : Nat) (x : Mac) : (s.setMc m x).mc m = x := tget_tput_self _ _ _ _

@[simp] theorem State.setMc_mem (s : State) (m : Nat) (x : Mac) : (s.setMc m x).mem = s.mem := rfl

@[simp] theorem State.enqueue_mem (s : State) (m q : Nat) (f : TxFrame) : (s.enqueue m q f).mem = s.mem := rfl

@[simp] theorem State.dequeue_mem (s : State) (m q : Nat) : (s.dequeue m q).mem = s.mem := rfl

@[simp] theorem State.mc_ethCount (s : State) (m i n q : Nat) : (s.ethCount m i n).mc q = s.mc q := rfl

@[simp] theorem State.mc_status (s : State) (st : Status) (m : Nat) : (s.status st).mc m = s.mc m := rfl

@[simp] theorem State.ethCount_mem (s : State) (m i n : Nat) : (s.ethCount m i n).mem = s.mem := rfl

/-- A count by the kind of a destination is one of three counters. -/
theorem State.countDst_eq_ethCount (s : State) (m i dst : Nat) : ∃ j, s.countDst m i dst = s.ethCount m j 1 := by
  rw [State.countDst]
  split
  · exact ⟨_, rfl⟩
  · split <;> exact ⟨_, rfl⟩

@[simp] theorem State.mc_countDst (s : State) (m i dst q : Nat) : (s.countDst m i dst).mc q = s.mc q := by
  obtain ⟨j, hj⟩ := s.countDst_eq_ethCount m i dst
  rw [hj, State.mc_ethCount]

@[simp] theorem State.countDst_mem (s : State) (m i dst : Nat) : (s.countDst m i dst).mem = s.mem := by
  obtain ⟨j, hj⟩ := s.countDst_eq_ethCount m i dst
  rw [hj, State.ethCount_mem]

/-! Frames received (R355, R356, R397) -/

section Receive
variable {s : State} {m : Fin 128} {f : RxFrame}

/-- Whether MAXLEN is free in the FIFO of MAC m at the first byte of a frame. -/
def State.fifoRoom (s : State) (m : Fin 128) (f : RxFrame) : Prop :=
  f.room = true ∧ ((s.mc m.val).fifo.map (fun g => g.bytes.length)).sum + s.maxLen m.val ≤ s.fifoSize m.val

/-- The frame stands last in the FIFO of MAC m, stamped. -/
def State.fifoJoined (s : State) (m : Fin 128) (f : RxFrame) : State :=
  let (r, t, w) := s.stamp
  w.setMc m.val { w.mc m.val with fifo := (s.mc m.val).fifo ++ [⟨f.bytes, f.fcsOk, r, w.ingress m.val t⟩] }

theorem execEthRxFrame_of_stopped (hruns : s.ethRuns m.val = false) : execEthRxFrame m f s = .next s := by
  simp [execEthRxFrame, hruns]

theorem State.not_fifoFull (hroom : s.fifoRoom m f) :
    ¬ ((!f.room) = true ∨ s.fifoSize m.val < ((s.mc m.val).fifo.map (fun g => g.bytes.length)).sum + s.maxLen m.val) := by
  obtain ⟨hbit, hheld⟩ := hroom
  simp [hbit, hheld]

section Running
variable (hruns : s.ethRuns m.val = true)
include hruns

theorem execEthRxFrame_of_running : execEthRxFrame m f s = .next (s.ethRx m f) := congrArg _ (if_pos hruns)

theorem execEthRxFrame_of_full (hfull : ¬ s.fifoRoom m f) : execEthRxFrame m f s = .next (s.ethCount m.val 8 1) := by
  rw [State.fifoRoom, not_and_or, not_le, Bool.not_eq_true] at hfull
  exact (execEthRxFrame_of_running hruns).trans (congrArg _ (if_pos (hfull.imp_left fun h => by rw [h]; rfl)))

section Room
variable (hroom : s.fifoRoom m f)
include hroom

theorem execEthRxFrame_of_parity (hpar : f.fifoOk = false) : execEthRxFrame m f s = .next (s.notePath 12 (macUnit m.val) 0) :=
  (execEthRxFrame_of_running hruns).trans (congrArg _ ((if_neg (State.not_fifoFull hroom)).trans (if_pos (by rw [hpar]; rfl))))

theorem execEthRxFrame_of_room (hpar : f.fifoOk = true) :
    execEthRxFrame m f s = .next ((s.fifoJoined m f).ethDrain m ((s.mc m.val).fifo.length + 1)) :=
  (execEthRxFrame_of_running hruns).trans (congrArg _ ((if_neg (State.not_fifoFull hroom)).trans (if_neg (by rw [hpar]; decide))))

end Room
end Running
end Receive

/-! The FIFO (R356) -/

section Drain
variable {s : State} {m : Fin 128} {g : HeldFrame} {gs : List HeldFrame} {k : Nat}

theorem State.ethDrain_of_empty (hfifo : (s.mc m.val).fifo = []) : s.ethDrain m k = s := by
  cases k with
  | zero => rfl
  | succ k => simp only [State.ethDrain, hfifo]

section Head
variable (hfifo : (s.mc m.val).fifo = g :: gs)
include hfifo

theorem State.ethDrain_of_waiting (hwait : s.toFramer m g = true ∧ s.creditOf (.framer m) = 0) : s.ethDrain m k = s := by
  obtain ⟨hframer, hcredit⟩ := hwait
  cases k with
  | zero => rfl
  | succ k => simp [State.ethDrain, hfifo, hframer, hcredit]

theorem State.ethDrain_of_taken (htake : ¬ (s.toFramer m g = true ∧ s.creditOf (.framer m) = 0)) :
    s.ethDrain m (k + 1) = ((s.setMc m.val { s.mc m.val with fifo := gs }).ethTake m g).ethDrain m k := by
  simp only [State.ethDrain, hfifo]
  exact if_neg (by simpa using htake)

end Head

theorem State.ethTake_of_short (hlen : ¬ 64 ≤ g.bytes.length) : s.ethTake m g = s.ethCount m.val 6 1 := if_pos (Nat.lt_of_not_le hlen)

theorem State.ethTake_of_long (hlen : 64 ≤ g.bytes.length) (hmax : ¬ g.bytes.length ≤ s.maxLen m.val) :
    s.ethTake m g = s.ethCount m.val 7 1 :=
  (if_neg (Nat.not_lt_of_le hlen)).trans (if_pos (Nat.lt_of_not_le hmax))

section Fits
variable (hfits : 64 ≤ g.bytes.length ∧ g.bytes.length ≤ s.maxLen m.val)
include hfits

theorem State.ethTake_of_badFcs (hfcs : g.fcsOk = false) : s.ethTake m g = s.ethCount m.val 5 1 := by
  obtain ⟨hlen, hmax⟩ := hfits
  exact (if_neg (Nat.not_lt_of_le hlen)).trans ((if_neg (Nat.not_lt_of_le hmax)).trans (if_pos (by rw [hfcs]; rfl)))

/-- MAC m has counted a good frame. -/
def State.countedIn (s : State) (m : Fin 128) (g : HeldFrame) : State :=
  ((s.ethCount m.val 0 1).ethCount m.val 1 g.bytes.length).countDst m.val 2 (dstOf g.bytes)

variable (hfcs : g.fcsOk = true) (hplain : ptpEvent g.bytes = false ∧ (s.countedIn m g).ethBit m.val 57 = false)
include hfcs hplain

/-- A good frame without a PTP event at a MAC without bridging goes to its consumer, or is counted. -/
theorem State.ethTake_of_plain : s.ethTake m g =
    if (s.countedIn m g).isLocal m.val (dstOf g.bytes) then (s.countedIn m g).consume m g.bytes g.time
    else (s.countedIn m g).ethCount m.val 9 1 := by
  obtain ⟨hlen, hmax⟩ := hfits
  obtain ⟨hptp, hbridge⟩ := hplain
  rw [State.countedIn] at *
  simp [State.ethTake, Nat.not_lt_of_le hlen, Nat.not_lt_of_le hmax, hfcs, hptp, hbridge]

theorem State.ethTake_of_foreign (hdst : (s.countedIn m g).isLocal m.val (dstOf g.bytes) = false) :
    s.ethTake m g = (s.countedIn m g).ethCount m.val 9 1 :=
  (State.ethTake_of_plain hfits hfcs hplain).trans (if_neg (Bool.eq_false_iff.mp hdst))

theorem State.ethTake_of_local (hdst : (s.countedIn m g).isLocal m.val (dstOf g.bytes) = true) :
    s.ethTake m g = (s.countedIn m g).consume m g.bytes g.time :=
  (State.ethTake_of_plain hfits hfcs hplain).trans (if_pos hdst)

end Fits
end Drain

/-! Learned addresses (R360) -/

section Age
variable {s : State} {vid : BitVec 12} {mac : BitVec 48} {e : Fdb} (hfind : tfind s.fdb (fdbKey vid.toNat mac.toNat) = some e)
include hfind

theorem execFdbAgeOut_of_old (hage : s.entN Key.ethBrAge * 491520000 ≤ s.raw.toNat - e.learnedRaw) :
    execFdbAgeOut vid mac s = .next { s with fdb := tdel s.fdb (fdbKey vid.toNat mac.toNat) } := by
  simp [execFdbAgeOut, hfind, hage]

theorem execFdbAgeOut_of_renewed (hage : s.raw.toNat - e.learnedRaw < s.entN Key.ethBrAge * 491520000) :
    execFdbAgeOut vid mac s = .next s := by
  simp [execFdbAgeOut, hfind, hage]

end Age

/-! The transmit ring (R358) -/

section Ring
variable {s s0 s1 s2 s3 : State} {m : Fin 128} {n i : Nat} {d b : List Byte} {p1 p2 : Bool}

/-- MAC m, in service, reads PROD of its enabled transmit ring: n, in state s1. -/
def State.readsProd (s : State) (m : Fin 128) (s1 : State) (n : Nat) : Prop :=
  bit (s.ent (Key.ethHtx m.val)) 63 = true ∧ s.ethBit m.val 63 = true ∧ s.macActive m.val = true ∧ s.unitRuns (macUnit m.val) = true ∧
    s.readNum (.mac m) (hostRing (s.ent (Key.ethHtx m.val))).base 8 = (s1, some n)

variable (hs0 : s.ethResume m = s0) (hread : s0.readsProd m s1 n) (hi : (s1.mc m.val).htxTaken = i)
include hs0 hread hi

theorem execHtxPoll_of_none_new (hnone : i = n % 2 ^ 32) : execHtxPoll m s = .next s1 := by
  obtain ⟨hring, hen, hactive, hruns, hprod⟩ := hread
  simp only [execHtxPoll, hs0, hring, hen, hactive, hruns, hprod, hi, hnone, and_self, if_true]

theorem execHtxPoll_of_frame (hnew : i ≠ n % 2 ^ 32)
    (hd : s1.busRead (.mac m) ((hostRing (s0.ent (Key.ethHtx m.val))).slot i) 16 = (s2, some (d, p1)))
    (hb : (s2.setMc m.val { s2.mc m.val with htxTaken := (i + 1) % 2 ^ 32 }).busRead (.mac m) (leNat (d.take 8) % 2 ^ 40)
      (leNat ((d.drop 8).take 2)) = (s3, some (b, p2))) :
    execHtxPoll m s = .next (s3.enqueue m.val (leNat ((d.drop 10).take 2) / 16 % 8) { plainFrame b with
      ring := some i, onestep := leNat ((d.drop 10).take 2) / 2 % 2 == 1, ts := leNat ((d.drop 10).take 2) % 2 == 1 }) := by
  obtain ⟨hring, hen, hactive, hruns, hprod⟩ := hread
  simp only [execHtxPoll, hs0, hring, hen, hactive, hruns, hprod, hi, and_self, if_true, if_neg hnew, hd, hb]

end Ring

/-! Frames sent (R359, R362, R363) -/

section Send
variable {s : State} {m : Fin 128} {q : Nat} {x : TxFrame} {r : List TxFrame}

theorem execEthTxFrameStart_of_sending (hbusy : (s.mc m.val).txEnd > s.now) : execEthTxFrameStart m s = .next s :=
  congrArg _ (if_neg fun h => Nat.not_le_of_gt hbusy h.2)

theorem execEthTxFrameStart_of_eligible (hruns : s.ethRuns m.val = true) (hfree : (s.mc m.val).txEnd ≤ s.now) (hq8 : q < 8)
    (hq : (s.mc m.val).q q = x :: r) (hel : s.headEligible m q = true) (hmax : ∀ j, q < j → j < 8 → s.headEligible m j = false) :
    execEthTxFrameStart m s = .next (s.sendFrame m q x) := by
  have hfind := find?_reverse_range_of_highest hq8 hel hmax
  simp only [execEthTxFrameStart, hruns, hfree, and_self, if_true, hfind, hq]

/-- A frame without a ring, a correction or a delay Request leaves as it is, and its MAC is busy while it does. -/
theorem State.sendFrame_of_plain (hring : x.ring = none) (hraw : x.rawIn = none) (hdly : x.dly = false) :
    ((s.sendFrame m q x).mc m.val).sent = (s.mc m.val).sent ++ [wireBytes x.bytes] ∧
    ((s.sendFrame m q x).mc m.val).txEnd = s.now + s.txTime m.val x.bytes ∧ (s.sendFrame m q x).mem = s.mem := by
  have hsent : ((s.stamp.2.2.dequeue m.val q).mc m.val).sent = (s.mc m.val).sent := by
    rw [State.dequeue, State.mc_setMc]
    rfl
  simp only [State.sendFrame, hring, hraw, hdly, Option.isSome_none, Bool.and_false, if_neg Bool.false_ne_true, State.mc_countDst,
    State.mc_ethCount, State.mc_setMc, State.countDst_mem, State.ethCount_mem,
    State.setMc_mem, State.dequeue_mem, hsent]
  exact ⟨trivial, rfl, rfl⟩

end Send

section Overrun
variable {s : State} {m : Fin 128} {q : Fin 8} {x : TxFrame} {r : List TxFrame} (hq : (s.mc m.val).q q.val = x :: r)
include hq

/-- Whether a head frame has not been eligible for a whole gate cycle. -/
def State.overrun (s : State) (m : Fin 128) (q : Nat) (x : TxFrame) : Prop :=
  s.gclEn m.val = true ∧ x.headSince + s.gclCycleT m.val ≤ s.now ∧ s.headEligible m q = false

theorem execTxOverrun_of_late (hlate : s.overrun m q.val x) : execTxOverrun m q s =
    .next (match x.ring with
      | some i => ((s.dequeue m.val q.val).ethCount m.val 0x17 1).htxEnd m i 1 none
      | none => (s.dequeue m.val q.val).ethCount m.val 0x17 1) := by
  obtain ⟨hen, hsince, hel⟩ := hlate
  simp only [execTxOverrun, hq, hen, hsince, hel, Bool.not_false, and_self, if_true] <;> rfl

theorem execTxOverrun_of_early (hearly : ¬ s.overrun m q.val x) : execTxOverrun m q s = .next s := by
  simp only [execTxOverrun, hq]
  exact congrArg _ (if_neg (by simpa [State.overrun] using hearly))

end Overrun

/-! The gate list (R34, R39, R364, R365) -/

section Gates
variable {s : State} {rq : Requester} {m : Fin 128} {v : U64} {at_ : Nat}

/-- The gate list before row r begins: swapped where a commit is due, with the row's deferred write. -/
def State.gclReady (s : State) (m : Fin 128) (r : Nat) : State :=
  let w := s.swapBefore (.gcl m) (fun s => s.gclDue m r)
  if w.executing (.gcl m) r then w else w.applyDeferred (.gcl m) r

section Begin
variable {w : State} {row : Fin 1024} (hw : s.gclReady m row.val = w) (hdue : w.gclDue m row.val = some at_)
include hw hdue

theorem execGclEntryBegin_of_due (hnow : at_ ≤ w.now) : execGclEntryBegin m row s = .next ((w.setMc m.val { w.mc m.val with
    gclNext := tput (w.mc m.val).gclNext row.val (w.gclNextCycle m row.val + 1) }).beginOcc (.gcl m) row.val at_) := by
  rw [State.gclReady] at hw
  simp only [execGclEntryBegin, hw, hdue, if_pos hnow]

theorem execGclEntryBegin_of_early (hnow : w.now < at_) : execGclEntryBegin m row s = .next w := by
  rw [State.gclReady] at hw
  simp only [execGclEntryBegin, hw, hdue, if_neg (Nat.not_le_of_lt hnow)]

end Begin

theorem State.gclDue_of_enabled {r : Nat} (hen : s.gclEn m.val = true) (hrow : bit (s.ent (rowKey (.gcl m) 0 r 0)) 62 = true) :
    s.gclDue m r = some (gclBaseT s m.val + s.gclNextCycle m r * s.gclCycleT m.val + (rowSpan (s.rowOf (.gcl m) 0 r)).1) :=
  if_pos ⟨hen, hrow⟩

theorem execGclEnable_of_ok {w : State} (hok : s.checkWrite rq (Key.gclCfg m.val) v = .ok) (hw : s.gclCfgWrite m v = w) :
    execGclEnable rq m v s = .next w := by
  simp only [execGclEnable, hok, hw]

theorem State.gclCfgWrite_of_no_cycle (hv : bit v 63 = true) (hcycle : s.entN (Key.gclCycle m.val) = 0) :
    s.gclCfgWrite m v = s.status .range := if_pos ⟨hv, hcycle⟩

theorem State.gclCfgWrite_of_running (hv : bit v 63 = true) (hcycle : s.entN (Key.gclCycle m.val) ≠ 0) (hen : s.gclEn m.val = true) :
    s.gclCfgWrite m v = (s.setEnt (Key.gclCfg m.val) v).status .ok := by
  simp [State.gclCfgWrite, hv, hcycle, hen]

theorem State.gclCfgWrite_of_started {w : State} (hw : s.setEnt (Key.gclCfg m.val) v = w) (hv : bit v 63 = true)
    (hcycle : s.entN (Key.gclCycle m.val) ≠ 0) (hen : s.gclEn m.val = false) :
    s.gclCfgWrite m v = (w.setMc m.val { w.mc m.val with
      gclFrom := w.firstCycle (gclBaseT w m.val) (w.gclCycleT m.val) (w.raw.toNat + marginTicks), gclNext := [] }).status .ok := by
  simp [State.gclCfgWrite, hw, hv, hcycle, hen]

theorem State.gclCfgWrite_of_stopped {w : State} (hw : s.setEnt (Key.gclCfg m.val) v = w) (hv : bit v 63 = false) :
    s.gclCfgWrite m v = (w.setLv (.gcl m) { w.lv (.gcl m) with occ := [] }).status .ok := by
  simp [State.gclCfgWrite, hw, hv]

end Gates

/-! The delay measurement (R382) -/

section Delay
variable {s : State} {rq : Requester} {m : Fin 128} {v : U64}

/-- A frame that joins an egress queue leaves the MAC's record but for its queues. -/
theorem State.mc_enqueue (s : State) (m q : Nat) (f : TxFrame) :
    (s.enqueue m q f).mc m = (s.mc m).setQ q ((s.mc m).q q ++ [{ f with headSince := s.now }]) := by
  rw [State.enqueue, State.mc_setMc]

/-- The word with DONE and TIMEOUT cleared by a write of 1 (R7). -/
def State.dlyCleared (s : State) (k : Nat) (v : U64) : State :=
  let s := if bit v 61 then s.setFlag k 61 false else s
  if bit v 62 then s.setFlag k 62 false else s

theorem State.dlyCleared_frame (s : State) (k : Nat) (v : U64) : (s.dlyCleared k v).mem = s.mem ∧ (s.dlyCleared k v).raw = s.raw := by
  rw [State.dlyCleared]
  constructor <;> simp [apply_ite State.mem, apply_ite State.raw]

/-- A Request is queued, and its ID and instant are kept. -/
theorem State.dlyWrite_of_start {m : Nat} {w : State} (hw : s.dlyCleared (Key.ethDly m) v = w) (hv : bit v 63 = true) :
    ∃ q f, s.dlyWrite m v = ((w.setMc m { w.mc m with dlyBusy := true, dlyId := bf v 7 0, dlyRaw := w.raw.toNat }).enqueue m q f).status
      .ok := by
  subst hw
  exact ⟨_, _, if_pos hv⟩

theorem execDelayMeasureStart_of_ok (hok : s.checkWrite rq (Key.ethDly m.val) (setBit v 63 true) = .ok) :
    ∃ u, execDelayMeasureStart rq m v s = .next u ∧ (u.mc m.val).dlyBusy = true ∧ (u.mc m.val).dlyId = bf v 7 0 ∧
      (u.mc m.val).dlyRaw = s.raw.toNat ∧ u.reply = .status .ok ∧ u.mem = s.mem := by
  have hid : bf (setBit v 63 true) 7 0 = bf v 7 0 := bf_setf_ne v 63 63 1 7 0 (by decide) (by decide) (by decide) (by decide)
  obtain ⟨hmem, hraw⟩ := s.dlyCleared_frame (Key.ethDly m.val) (setBit v 63 true)
  obtain ⟨q, f, heq⟩ := State.dlyWrite_of_start (s := s) (m := m.val) rfl (bit_setBit_self v 63 true (by decide))
  refine ⟨s.dlyWrite m.val (setBit v 63 true), by simp only [execDelayMeasureStart, hok], ?_⟩
  rw [heq, State.mc_status, State.mc_enqueue, State.mc_setMc, State.status_mem, State.enqueue_mem, State.setMc_mem]
  exact ⟨rfl, hid, congrArg BitVec.toNat hraw, rfl, hmem⟩

theorem execDelayTimeout_of_due (hdue : (s.mc m.val).dlyBusy = true ∧ (s.mc m.val).dlyRaw + msTicks 10 ≤ s.raw.toNat) :
    execDelayTimeout m s = .next ((s.setSticky (Key.ethDly m.val) 62).setMc m.val { s.mc m.val with dlyBusy := false }) :=
  congrArg _ (if_pos hdue)

theorem execDelayTimeout_of_early (hearly : ¬ ((s.mc m.val).dlyBusy = true ∧ (s.mc m.val).dlyRaw + msTicks 10 ≤ s.raw.toNat)) :
    execDelayTimeout m s = .next s := congrArg _ (if_neg hearly)

end Delay

/-- Settles O42: each command of the MACs is the rule of its case. -/
theorem ethernetFrames : Obligations.EthernetFrames := by
  intro s s1 s2 s3 rq m f g gs x r q row v vid mac e n k at_ d b p1 p2 y held roomy st joined waits long fits counted plain fk s0 ring i
    rings taken fl whole late gone swapped w cfgOk set ended due
  exact ⟨execEthRxFrame_of_stopped, execEthRxFrame_of_full, execEthRxFrame_of_parity, execEthRxFrame_of_room,
    State.ethDrain_of_empty, State.ethDrain_of_waiting, State.ethDrain_of_taken,
    State.ethTake_of_short, fun hlen hmax => State.ethTake_of_long hlen fun h => hmax ⟨hlen, h⟩, State.ethTake_of_badFcs,
    State.ethTake_of_foreign, State.ethTake_of_local,
    execFdbAgeOut_of_old, execFdbAgeOut_of_renewed,
    fun hrings => execHtxPoll_of_none_new rfl hrings rfl, fun hrings => execHtxPoll_of_frame rfl hrings rfl,
    fun hruns hfree hq hel => execEthTxFrameStart_of_eligible hruns hfree q.isLt hq hel, execEthTxFrameStart_of_sending,
    State.sendFrame_of_plain, execTxOverrun_of_late, execTxOverrun_of_early,
    execGclEntryBegin_of_due rfl, execGclEntryBegin_of_early rfl, State.gclDue_of_enabled, rfl, s.occ_endOcc (.gcl m) ended,
    fun hok hv hcycle => execGclEnable_of_ok hok (State.gclCfgWrite_of_no_cycle hv hcycle),
    fun hok hv hcycle hen => execGclEnable_of_ok hok (State.gclCfgWrite_of_running hv hcycle hen),
    fun hok hv hcycle hen => execGclEnable_of_ok hok (State.gclCfgWrite_of_started rfl hv hcycle hen),
    fun hok hv => execGclEnable_of_ok hok (State.gclCfgWrite_of_stopped rfl hv),
    execDelayMeasureStart_of_ok, execDelayTimeout_of_due, execDelayTimeout_of_early⟩

end Sys2Proof.Machine
end

section
/-!
PROOFS. Fronthaul and CPRI (R369, R374, R375, R377, R379, R380): tokens that are due, the windows of symbols, the C-plane list, and the
hyperframes of a CPRI link, and with them the statement O43.
-/
namespace Sys2Proof.Machine

/-! Tokens (R374) -/

section Tokens
variable {s : State} {n : Fin 4096} {g : Fin 14} {d : FhDue}

/-- The token that is due for group g of stream n leaves with a credit, and the FIFO behind the framer goes on draining. -/
def State.fhTokenOut (s : State) (n : Fin 4096) (g : Fin 14) : State :=
  match (s.fhs n.val).due.find? (fun d => d.group == g.val) with
  | none => s
  | some d =>
    if h : (s.str n.val).port < 128 then
      if s.creditOf (.framer ⟨_, h⟩) = 0 then s
      else
        ((s.setFhs n.val { s.fhs n.val with due := (s.fhs n.val).due.erase d }).sendItem (.framer ⟨_, h⟩)
          (.token (s.fhToken n.val d) (s.partOfProd (.framer ⟨_, h⟩)) .none)).ethResume ⟨_, h⟩
    else s

/-- On a link that holds frame, and on a stream of another kind, no group closes with the command. -/
theorem execFhTokenGroup_of_synced (hsync : (s.str n.val).kind = skCpri → 2 ≤ s.fld (Key.cpriStat (s.str n.val).port) 63 60) :
    execFhTokenGroup n g s = .next (s.fhTokenOut n g) := by
  have hframe : ((s.str n.val).en && !(s.str n.val).tx && (s.str n.val).kind == skCpri &&
      decide (s.fld (Key.cpriStat (s.str n.val).port) 63 60 < 2)) = false := by
    by_cases hkind : (s.str n.val).kind = skCpri
    · simp [Nat.not_lt_of_le (hsync hkind)]
    · simp [hkind]
  simp only [execFhTokenGroup, hframe, Bool.false_eq_true, false_and, if_false]
  cases (s.car (s.str n.val).carrier).slots.head? <;> rfl

theorem State.fhTokenOut_of_none (hdue : (s.fhs n.val).due.find? (fun d => d.group == g.val) = none) : s.fhTokenOut n g = s := by
  rw [State.fhTokenOut, hdue]

section Due
variable (hp : (s.str n.val).port < 128) (hdue : (s.fhs n.val).due.find? (fun d => d.group == g.val) = some d)
include hdue

theorem State.fhTokenOut_of_no_credit (hcredit : s.creditOf (.framer ⟨_, hp⟩) = 0) : s.fhTokenOut n g = s := by
  simp only [State.fhTokenOut, hdue, hp, hcredit, dite_true, if_true]

theorem State.fhTokenOut_of_credit (hcredit : s.creditOf (.framer ⟨_, hp⟩) ≠ 0) : s.fhTokenOut n g =
    ((s.setFhs n.val { s.fhs n.val with due := (s.fhs n.val).due.erase d }).sendItem (.framer ⟨_, hp⟩)
      (.token (s.fhToken n.val d) (s.partOfProd (.framer ⟨_, hp⟩)) .none)).ethResume ⟨_, hp⟩ := by
  simp only [State.fhTokenOut, hdue, hp, dite_true, if_neg hcredit]

end Due
end Tokens

/-! Windows of symbols (R369, R375) -/

section Opening
variable {s : State} {n : Fin 4096} {l : Fin 14} {o : Occ} {seq sl sfn : Nat}

/-- The window of symbol l of stream n is open by occurrence o, for slot sl of frame sfn, sequence seq. -/
def State.symbolShows (s : State) (n : Fin 4096) (l : Fin 14) (o : Occ) (seq sl sfn : Nat) : Prop :=
  (s.str n.val).en = true ∧ (s.str n.val).kind ≤ 1 ∧ l.val < (s.str n.val).nsym ∧ s.winOcc (s.str n.val) l.val = some o ∧
    s.winSlot (s.str n.val) o 0 = some (seq, sl, sfn)

/-- Whether a stream remembers the window of a symbol, open or closed. -/
def Stream.seen (f : Stream) (seq l : Nat) : Prop :=
  f.closed.any (fun c => c.1.seq == seq && c.1.l == l) = true ∨ f.wins.any (fun w => w.seq == seq && w.l == l) = true

/-- Stream n remembers an open window. -/
def State.winOpened (s : State) (n : Nat) (w : Win) : State := s.setFhs n { s.fhs n with wins := (s.fhs n).wins ++ [w] }

theorem execFhSymbolWindowOpen_of_no_occ (hocc : s.winOcc (s.str n.val) l.val = none) : execFhSymbolWindowOpen n l s = .next s := by
  simp only [execFhSymbolWindowOpen, hocc, ite_self]

section Shows
variable (hshow : s.symbolShows n l o seq sl sfn)
include hshow

theorem execFhSymbolWindowOpen_of_seen (hseen : (s.fhs n.val).seen seq l.val) : execFhSymbolWindowOpen n l s = .next s := by
  obtain ⟨hen, hkind, hl, hocc, hslot⟩ := hshow
  rw [Stream.seen] at hseen
  simp only [execFhSymbolWindowOpen, hen, hkind, hl, and_self, if_true, hocc, hslot, if_pos hseen]

section New
variable (hnew : ¬ (s.fhs n.val).seen seq l.val)
include hnew

theorem execFhSymbolWindowOpen_of_new : execFhSymbolWindowOpen n l s =
    .next (if (s.str n.val).tx then (s.winOpened n.val ⟨l.val, seq, sl, sfn, o.time⟩).fhTransmit n.val ⟨l.val, seq, sl, sfn, o.time⟩
      else s.winOpened n.val ⟨l.val, seq, sl, sfn, o.time⟩) := by
  obtain ⟨hen, hkind, hl, hocc, hslot⟩ := hshow
  rw [Stream.seen] at hnew
  simp only [execFhSymbolWindowOpen, hen, hkind, hl, and_self, if_true, hocc, hslot, if_neg hnew]
  rfl

theorem execFhSymbolWindowOpen_of_receive (htx : (s.str n.val).tx = false) :
    execFhSymbolWindowOpen n l s = .next (s.winOpened n.val ⟨l.val, seq, sl, sfn, o.time⟩) :=
  (execFhSymbolWindowOpen_of_new hshow hnew).trans (congrArg _ (if_neg (Bool.eq_false_iff.mp htx)))

theorem execFhSymbolWindowOpen_of_transmit (htx : (s.str n.val).tx = true) : execFhSymbolWindowOpen n l s =
    .next ((s.winOpened n.val ⟨l.val, seq, sl, sfn, o.time⟩).fhTransmit n.val ⟨l.val, seq, sl, sfn, o.time⟩) :=
  (execFhSymbolWindowOpen_of_new hshow hnew).trans (congrArg _ (if_pos htx))

end New
end Shows
end Opening

/-! The end of a window (R374, R375) -/

section Closing
variable {s : State} {n : Fin 4096} {l : Fin 14} {w : Win}

/-- Stream n remembers a window that has closed now. -/
def State.winClosed (s : State) (n : Nat) (w : Win) : State :=
  s.setFhs n { s.fhs n with wins := (s.fhs n).wins.erase w, closed := ((w, s.now) :: (s.fhs n).closed).take 256 }

variable (hw : (s.fhs n.val).wins.find? (fun w => w.l == l.val) = some w)
include hw

theorem execFhSymbolWindowClose_of_going (hgo : (s.winOcc (s.str n.val) l.val).any (fun o => o.time == w.at_) = true) :
    execFhSymbolWindowClose n l s = .next s := by
  simp only [execFhSymbolWindowClose, hw, if_pos hgo]

section Ended
variable (hend : ¬ (s.winOcc (s.str n.val) l.val).any (fun o => o.time == w.at_) = true)
include hend

theorem execFhSymbolWindowClose_of_receive {c : State} (hc : s.winClosed n.val w = c) (htx : (s.str n.val).tx = false) :
    execFhSymbolWindowClose n l s = .next (if (s.str n.val).lastOf (l.val / (s.str n.val).tsize) = l.val
      then c.fhGroupClose n.val w.seq w.slot (l.val / (s.str n.val).tsize) else c) := by
  rw [State.winClosed] at hc
  simp only [execFhSymbolWindowClose, hw, if_neg hend, hc, htx, Bool.false_eq_true, if_false]

/-- The frames of a transmit symbol that have not left are discarded and counted. -/
theorem execFhSymbolWindowClose_of_transmit {c : State} {q : List TxFrame} (hc : s.winClosed n.val w = c)
    (hq : (c.mc (s.str n.val).port).q (c.fhQ (s.str n.val).port) = q) (htx : (s.str n.val).tx = true) :
    execFhSymbolWindowClose n l s =
      .next ((c.setMc (s.str n.val).port ((c.mc (s.str n.val).port).setQ (c.fhQ (s.str n.val).port)
        (q.filter (fun t => !(t.fh == some (n.val, symKey w.seq l.val)))))).ethCount (s.str n.val).port 0x18
        (q.filter (fun t => t.fh == some (n.val, symKey w.seq l.val))).length) := by
  rw [State.winClosed] at hc
  simp only [execFhSymbolWindowClose, hw, if_neg hend, hc, hq, htx, if_true]
  rfl

end Ended
end Closing

/-! The C-plane list (R369, R377) -/

section Cplane
variable {s : State} {n : Fin 4096} {c : Fin 384} {dl : Bool} {o : Occ} {seq sl sfn : Nat}

/-- The stream that names the C-plane window of a direction for carrier c: its first O-RAN stream of that direction. -/
def State.cpLead (s : State) (c : Nat) (dl : Bool) : Option Nat :=
  (List.range 4096).find? (fun n => let x := s.str n; x.en && x.kind == skOran && x.carrier == c && x.tx == dl)

theorem execCplaneSend_of_off (hoff : bit (s.ent (Key.ethCpCfg c.val)) 63 = false) : execCplaneSend c dl s = .next s := by
  rw [execCplaneSend, hoff]
  split
  · rfl
  · extract_lets x
    split
    · rfl
    · exact congrArg _ (if_pos (.inl rfl))

/-- The C-plane window of a direction is open for carrier c by its stream n, for slot sl of frame sfn, sequence seq. -/
def State.cplaneShows (s : State) (c : Fin 384) (dl : Bool) (n : Fin 4096) (o : Occ) (seq sl sfn : Nat) : Prop :=
  s.cpLead c.val dl = some n.val ∧
    s.winOcc (s.str n.val) (if dl then 14 else 15) = some o ∧ s.winSlot (s.str n.val) o 1 = some (seq, sl, sfn)

variable (hshow : s.cplaneShows c dl n o seq sl sfn)
include hshow

theorem State.cplaneShows_slot :
    (s.winOcc (s.str n.val) (if dl then 14 else 15)).bind (fun o => s.winSlot (s.str n.val) o 1) = some (seq, sl, sfn) := by
  obtain ⟨-, hocc, hslot⟩ := hshow
  rw [hocc, Option.bind_some, hslot]

theorem execCplaneSend_of_sent (hsent : tget 0 s.cpSent (c.val * 2 + b01 dl) = seq + 1) : execCplaneSend c dl s = .next s := by
  have hslot := State.cplaneShows_slot hshow
  obtain ⟨hlead, -, -⟩ := hshow
  rw [State.cpLead] at hlead
  rw [execCplaneSend, hlead]
  split
  case h_1 hnone => cases hnone
  case h_2 hlead =>
    cases hlead
    extract_lets x
    split
    case h_1 => rfl
    case h_2 hfound =>
      cases hslot.symm.trans hfound
      exact congrArg _ (if_pos (.inr hsent))

/-- The list's bytes are read once a slot; where its header names the slot, its entries are sent. -/
theorem execCplaneSend_of_new {cfg : U64} {size : Nat} {t s2 : State} {b : List Byte} (hcfg : s.ent (Key.ethCpCfg c.val) = cfg)
    (hsize : bf cfg 23 16 * 1024 = size) (ht : { s with cpSent := tput s.cpSent (c.val * 2 + b01 dl) (seq + 1) } = t)
    (hon : bit cfg 63 = true) (hnew : ¬ tget 0 s.cpSent (c.val * 2 + b01 dl) = seq + 1)
    (hread : t.fhRead { s.str n.val with w1 := setf (s.str n.val).w1 39 37 (bf cfg 62 60) }
      (bf cfg 59 36 + seq % 2 ^ bf cfg 15 14 * size) size = (s2, b)) :
    execCplaneSend c dl s = .next (if leNat (b.take 8) / 2 ^ 63 = 1 ∧ leNat (b.take 8) / 2 ^ 32 % 16 = seq % 16 then
      s2.cpEntries c.val (s.str n.val).port dl seq sl sfn (bf cfg 62 60) (leNat (b.take 8) % 65536) (b.drop 8)
      else s2.ethCount (s.str n.val).port 0x1A 1) := by
  have hslot := State.cplaneShows_slot hshow
  obtain ⟨hlead, -, -⟩ := hshow
  rw [State.cpLead] at hlead
  rw [execCplaneSend, hlead, hcfg]
  split
  case h_1 hnone => cases hnone
  case h_2 hlead =>
    cases hlead
    extract_lets x
    split
    case h_1 hnone => cases hslot.symm.trans hnone
    case h_2 hfound =>
      cases hslot.symm.trans hfound
      rw [if_neg (by simpa [hon] using hnew)]
      extract_lets
      split
      case h_1 hfound =>
        subst ht hsize
        cases hread.symm.trans hfound
        rfl

end Cplane

/-! CPRI links (R379 to R381) -/

/-- A fold that appends a result for each element holds as many results as elements, each with what its step gives. -/
theorem forall₂_foldl_append {α β σ : Type} {f : σ × List β → α → σ × List β} {P : α → β → Prop}
    (hstep : ∀ q a, ∃ b, (f q a).2 = q.2 ++ [b] ∧ P a b) (l : List α) (s : σ) : List.Forall₂ P l (l.foldl f (s, [])).2 := by
  induction l using List.reverseRecOn with
  | nil => exact .nil
  | append_singleton l a ih =>
    obtain ⟨b, hb, hP⟩ := hstep (l.foldl f (s, [])) a
    rw [List.foldl_concat, hb]
    exact List.rel_append ih (.cons hP .nil)

section Cpri
variable {s : State} {k : Fin 32} {h : CpriHyper}

theorem execCpriHyperframe_of_stopped (hruns : s.cpriRuns k.val = false) : execCpriHyperframe k h s = .next s :=
  congrArg _ (if_neg (Bool.eq_false_iff.mp hruns))

/-- The hyperframe that leaves has a word for each of 256, none where the link makes the word itself. -/
theorem execCpriHyperframe_of_running (hruns : s.cpriRuns k.val = true) : ∃ u y, execCpriHyperframe k h s = .next u ∧
    tfind u.cpriTx k.val = some y ∧ List.Forall₂ (fun x w => x % 64 = 0 → w = none) (List.range 256) y.control := by
  rw [execCpriHyperframe, if_pos hruns]
  split
  extract_lets d st s1 word s2 s3 ref num r t src
  have hwords : List.Forall₂ (fun x w => x % 64 = 0 → w = none) (List.range 256) r.2 := by
    refine forall₂_foldl_append (fun q x => ?_) _ _
    by_cases hx : x % 64 = 0
    · exact ⟨none, by rw [if_pos hx], fun _ => rfl⟩
    · exact ⟨_, by rw [if_neg hx], fun h => absurd h hx⟩
  clear_value t r
  exact ⟨_, ⟨num, r.2, t.2⟩, rfl, tfind_tput_self _ _ _, hwords⟩

/-- The words that a hyperframe gives where the link makes them itself are none. -/
theorem ownWords_none {ws : List (Option (List Byte))}
    (hws : List.Forall₂ (fun x w => x % 64 = 0 → w = none) (List.range 256) ws) (i : Fin 4) : ws.getD (64 * i.val) (some []) = none := by
  have hlen : 64 * i.val < ws.length := by
    rw [← hws.length_eq, List.length_range]
    omega
  rw [List.getD_eq_getElem _ _ hlen]
  exact hws.get (by rw [List.length_range]; omega) hlen (by simp)

theorem execCpriLossOfFrame_of_stopped (hruns : s.cpriRuns k.val = false) : execCpriLossOfFrame k s = .next s :=
  congrArg _ (if_neg fun hc => Bool.eq_false_iff.mp hruns hc.1)

theorem execCpriLossOfFrame_of_lost (hlost : s.cpriRuns k.val = true ∧ 2 ≤ s.fld (Key.cpriStat k.val) 63 60) :
    execCpriLossOfFrame k s = .next ((s.setFld (Key.cpriStat k.val) 63 60 1).incSat (Key.cpriCnt k.val) 63 48 1) :=
  congrArg _ (if_pos hlost)

theorem execCpriLossOfFrame_of_none (hlost : ¬ (s.cpriRuns k.val = true ∧ 2 ≤ s.fld (Key.cpriStat k.val) 63 60)) :
    execCpriLossOfFrame k s = .next s := congrArg _ (if_neg hlost)

end Cpri

/-- Settles O43: each command of the framer's windows, tokens and links is the rule of its case. -/
theorem fronthaulCpri : Obligations.FronthaulCpri := by
  intro s s2 n g l d o seq sl sfn w c dl k h hp b x f who synced due left shows seen nw opened going closed mq mine cfg size sent t names
    cwin lost
  have hshow (hwin : cwin) : s.cplaneShows c dl n o seq sl sfn := hwin
  refine ⟨fun hsync hdue => (execFhTokenGroup_of_synced hsync).trans (congrArg _ (State.fhTokenOut_of_none hdue)),
    fun hsync hdue hcredit => (execFhTokenGroup_of_synced hsync).trans (congrArg _ (State.fhTokenOut_of_no_credit hp hdue hcredit)),
    fun hsync hdue hcredit => (execFhTokenGroup_of_synced hsync).trans (congrArg _ (State.fhTokenOut_of_credit hp hdue hcredit)),
    execFhSymbolWindowOpen_of_receive, execFhSymbolWindowOpen_of_transmit, execFhSymbolWindowOpen_of_seen,
    execFhSymbolWindowOpen_of_no_occ, execFhSymbolWindowClose_of_going,
    fun hw hend => execFhSymbolWindowClose_of_receive hw hend rfl, fun hw hend => execFhSymbolWindowClose_of_transmit hw hend rfl rfl,
    fun hoff => (exec_cplaneSend c dl s).trans (execCplaneSend_of_off hoff), fun hwin => execCplaneSend_of_sent (hshow hwin),
    fun hwin => execCplaneSend_of_new (hshow hwin) rfl rfl rfl,
    fun hruns => ⟨execCpriHyperframe_of_stopped hruns, execCpriLossOfFrame_of_stopped hruns⟩, fun hruns => ?hyperframe,
    execCpriLossOfFrame_of_lost, execCpriLossOfFrame_of_none⟩
  case hyperframe =>
    obtain ⟨u, y, hexec, hsent, hwords⟩ := execCpriHyperframe_of_running (h := h) hruns
    exact ⟨u, y, hexec, hsent, hwords.length_eq.symm.trans List.length_range, ownWords_none hwords⟩

end Sys2Proof.Machine
end

section
/-!
PROOFS. The step and register s0: which command a step runs (assumption 1), a meaning under a condition, what a scalar register holds
after a write, and with them the statements O1 and O13.
-/
namespace Sys2Proof.Machine

/-- A meaning that acts under a condition, where the condition holds and where it does not. -/
theorem next_if_pos {c : Prop} [Decidable c] {a b : State} (h : c) : (.next (if c then a else b) : Out) = .next a :=
  congrArg Host.Outcome.next (if_pos h)

theorem next_if_neg {c : Prop} [Decidable c] {a b : State} (h : ¬ c) : (.next (if c then a else b) : Out) = .next b :=
  congrArg Host.Outcome.next (if_neg h)

/-- What each step of a fold leaves, the fold leaves. -/
theorem foldl_keeps {α β : Type} (g : State → β) {f : State → α → State} (h : ∀ s a, g (f s a) = g s) (l : List α) (s : State) :
    g (l.foldl f s) = g s := by
  induction l generalizing s with
  | nil => rfl
  | cons a l ih => exact (ih _).trans (h s a)

theorem step_of_front (c : Instr) (r : List Instr) (s : State) : step { s with pending := c :: r } = exec c { s with pending := r } := rfl

theorem step_of_idle {s : State} (h : s.pending = []) : step s = .next s := by
  rw [step, h]

/-- Settles O1: the step runs the front command, and idles without one. -/
theorem stepRunsFrontCommand : Obligations.StepRunsFrontCommand := ⟨step_of_front, fun _ => step_of_idle⟩

theorem Tile.rs_zero (x : Tile) : x.rs 0 = 0 := if_pos rfl

/-- Settles O13: s0 is no place of a value; another register reads back what was written. -/
theorem registerZero : Obligations.RegisterZero := fun x v _ _ => ⟨x.rs_zero, x.wr_zero v, x.rs_wr_self v, x.rs_wr_ne v⟩

end Sys2Proof.Machine
end

section
/-!
PROOFS. Handover (R536 to R541): which order of a channel is taken in which state, what the check before T and the cut come to, and with
them the statement O55.
-/
namespace Sys2Proof.Machine

/-! The orders PAIR, ARM, CANCEL and CLEAR -/

section Orders
variable {s : State} {rq : Requester} {n : Nat}

/-- An order that right, owner and range let pass goes to the rules of its OP. -/
theorem State.hoOpBy_of_ok {op : Nat} (h : s.checkWrite rq (Key.hoOp n) (w64 op) = .ok) :
    s.hoOpBy rq n op = s.hoOpWrite rq n (w64 op) := by
  simp only [State.hoOpBy, h]

theorem State.hoPair_of_stranger (hsrc : s.actsFor rq (s.hoSrc n) = false) : s.hoPair rq n = s.status .access :=
  if_pos (by simp [hsrc])

section Source
variable (hsrc : s.actsFor rq (s.hoSrc n) = true)
include hsrc

theorem State.hoPair_of_not_idle (hst : s.hoState n ≠ hsIdle) : s.hoPair rq n = s.status .busy := by
  rw [State.hoPair, if_neg (by simp [hsrc]), if_pos hst]

theorem State.hoPair_of_unfit (hst : s.hoState n = hsIdle) (hfit : s.hoPairOk n = false) : s.hoPair rq n = s.status .range := by
  rw [State.hoPair, if_neg (by simp [hsrc]), if_neg (not_not.mpr hst), if_pos (by simp [hfit])]

/-- A channel that may pair does so, unless its carrier's slot plan is being exchanged. -/
theorem State.hoPair_of_fit (hst : s.hoState n = hsIdle) (hfit : s.hoPairOk n = true) : s.hoPair rq n =
    if ∃ t, planOf (s.hoCarrier n) = some t ∧ s.liveState t ≠ lsIdle then s.status .busy
    else ((s.setFld (Key.hoOp n) 47 32 (s.exportDialect n)).setHo n hsPaired 0).status .ok := by
  have hplan : (planOf (s.hoCarrier n)).elim false (fun t => s.liveState t != lsIdle) = true ↔
      ∃ t, planOf (s.hoCarrier n) = some t ∧ s.liveState t ≠ lsIdle := by
    cases planOf (s.hoCarrier n) <;> simp
  rw [State.hoPair, if_neg (by simp [hsrc]), if_neg (not_not.mpr hst), if_neg (by simp [hfit])]
  exact if_congr hplan rfl rfl

end Source

theorem State.hoArm_of_stranger (h : s.hoActs rq n = false) : s.hoArm rq n = s.status .access := if_pos (by simp [h])
theorem State.hoCancel_of_stranger (h : s.hoActs rq n = false) : s.hoCancel rq n = s.status .access := if_pos (by simp [h])
theorem State.hoClear_of_stranger (h : s.hoActs rq n = false) : s.hoClear rq n = s.status .access := if_pos (by simp [h])

section Partner
variable (hacts : s.hoActs rq n = true)
include hacts

theorem State.hoArm_of_not_paired (hst : s.hoState n ≠ hsPaired) : s.hoArm rq n = s.status .busy := by
  rw [State.hoArm, if_neg (by simp [hacts]), if_pos hst]

/-- A paired channel is armed where its cut lies 20 ms ahead. -/
theorem State.hoArm_of_paired (hst : s.hoState n = hsPaired) : s.hoArm rq n =
    if s.hoInstant n < s.now + nsT 20000000 then s.status .range
    else ({ s with hoT := tput s.hoT n (s.hoInstant n), hoChecked := s.hoChecked.filter (· ≠ n) }.setHo n hsArmed 0).status .ok := by
  rw [State.hoArm, if_neg (by simp [hacts]), if_neg (not_not.mpr hst)]

theorem State.hoCancel_eq : s.hoCancel rq n =
    if s.hoState n = hsPaired ∨ (s.hoState n = hsArmed ∧ s.now < tget 0 s.hoT n) then (s.setHo n hsCancelled 1).status .ok
    else s.status .busy := by
  rw [State.hoCancel, if_neg (by simp [hacts])]

theorem State.hoClear_eq : s.hoClear rq n =
    if s.hoState n = hsDone ∨ s.hoState n = hsCancelled then (s.setHo n hsIdle 0).status .ok else s.status .busy := by
  rw [State.hoClear, if_neg (by simp [hacts])]

end Partner
end Orders

/-! The check before T, and the drain -/

section Instants
variable {s : State} {n : Nat}

theorem State.hoPrecheck_of_not_due (h : ¬ (s.hoState n = hsArmed ∧ n ∉ s.hoChecked ∧ tget 0 s.hoT n ≤ s.now + nsT 1000000)) :
    s.hoPrecheck n = s := if_neg h

/-- The check is made once: partitions that do not both run, or a MAC of other streams, cancel the handover. -/
theorem State.hoPrecheck_of_due (h : s.hoState n = hsArmed ∧ n ∉ s.hoChecked ∧ tget 0 s.hoT n ≤ s.now + nsT 1000000) : s.hoPrecheck n =
    if s.partState (s.hoSrc n) = psRunning ∧ s.partState (s.hoDst n) = psRunning then
      if s.hoMacsOk n = true then { s with hoChecked := n :: s.hoChecked } else s.setHo n hsCancelled 4
    else s.setHo n hsCancelled 3 := by
  rw [State.hoPrecheck, if_pos h]
  by_cases hrun : s.partState (s.hoSrc n) = psRunning ∧ s.partState (s.hoDst n) = psRunning
  · rw [if_neg (by simp [hrun]), if_pos hrun]
    cases s.hoMacsOk n <;> rfl
  · rw [if_pos (by rwa [← not_and_or]), if_neg hrun]

theorem execHoDrainEnd_of_drained {m : Fin 16} (hst : s.hoState m.val = hsDrain)
    (hnone : s.hoPending (s.hoCarrier m.val) (tget 0 s.hoT m.val) = false) :
    execHoDrainEnd m s = .next (s.setHo m.val hsDone 0) := congrArg _ (if_pos ⟨hst, by simp [hnone]⟩)

theorem execHoDrainEnd_of_draining {m : Fin 16}
    (h : s.hoState m.val ≠ hsDrain ∨ s.hoPending (s.hoCarrier m.val) (tget 0 s.hoT m.val) = true) :
    execHoDrainEnd m s = .next s := by
  refine congrArg _ (if_neg ?_)
  rintro ⟨hst, hnone⟩
  simp_all

/-- At T an armed channel is cut; the checks that are still due come first. -/
theorem execHoCut_eq (m : Fin 16) (s : State) : execHoCut m s = .next (
    if ((List.range 16).foldl State.hoPrecheck s).hoState m.val = hsArmed ∧
        tget 0 ((List.range 16).foldl State.hoPrecheck s).hoT m.val ≤ ((List.range 16).foldl State.hoPrecheck s).now then
      { ((List.range 16).foldl State.hoPrecheck s).hoCutNow m.val with reply := ((List.range 16).foldl State.hoPrecheck s).reply }
    else (List.range 16).foldl State.hoPrecheck s) := rfl

end Instants

/-- Settles O55: the state of a channel and who asks decide what an order or an instant makes of it. -/
theorem handovers : Obligations.Handovers := by
  intro s rq n ok st T src acts swaps runs due w cuts
  have horder (op : Nat) (hok : ok op) : Host.Outcome.next (s.hoOpBy rq n.val op) = (.next (s.hoOpWrite rq n.val (w64 op)) : Out) :=
    congrArg _ (State.hoOpBy_of_ok hok)
  refine ⟨fun hok hsrc hst hfit hswaps => ?pair, fun hok hsrc => ?pairAccess, fun hok hsrc hst => ?pairBusy,
    fun hok hsrc hst hfit => ?pairRange, fun hok hsrc hst hfit hswaps => ?pairSwaps, fun hok hacts hst hT => ?arm,
    fun hok hacts hst hT => ?armRange, fun hok hacts hst => ?armBusy, fun hok hacts => ?armAccess, fun hok hacts hst => ?cancel,
    fun hok hacts hst => ?cancelBusy, fun hok hacts => ?cancelAccess, fun hok hacts hst => ?clear, fun hok hacts hst => ?clearBusy,
    fun hok hacts => ?clearAccess, fun hdue hruns => ?stopped, fun hdue hruns hmacs => ?macs, fun hdue hruns hmacs => ?passes,
    fun hdue => congrArg _ (State.hoPrecheck_of_not_due hdue), fun hcut => ?cut, fun hcut => ?uncut,
    execHoDrainEnd_of_drained, execHoDrainEnd_of_draining⟩
  case pair => exact (horder 1 hok).trans (congrArg _ ((State.hoPair_of_fit hsrc hst hfit).trans (if_neg hswaps)))
  case pairAccess => exact (horder 1 hok).trans (congrArg _ (State.hoPair_of_stranger hsrc))
  case pairBusy => exact (horder 1 hok).trans (congrArg _ (State.hoPair_of_not_idle hsrc hst))
  case pairRange => exact (horder 1 hok).trans (congrArg _ (State.hoPair_of_unfit hsrc hst hfit))
  case pairSwaps => exact (horder 1 hok).trans (congrArg _ ((State.hoPair_of_fit hsrc hst hfit).trans (if_pos hswaps)))
  case arm => exact (horder 2 hok).trans (congrArg _ ((State.hoArm_of_paired hacts hst).trans (if_neg (Nat.not_lt.mpr hT))))
  case armRange => exact (horder 2 hok).trans (congrArg _ ((State.hoArm_of_paired hacts hst).trans (if_pos hT)))
  case armBusy => exact (horder 2 hok).trans (congrArg _ (State.hoArm_of_not_paired hacts hst))
  case armAccess => exact (horder 2 hok).trans (congrArg _ (State.hoArm_of_stranger hacts))
  case cancel => exact (horder 3 hok).trans (congrArg _ ((State.hoCancel_eq hacts).trans (if_pos hst)))
  case cancelBusy => exact (horder 3 hok).trans (congrArg _ ((State.hoCancel_eq hacts).trans (if_neg hst)))
  case cancelAccess => exact (horder 3 hok).trans (congrArg _ (State.hoCancel_of_stranger hacts))
  case clear => exact (horder 4 hok).trans (congrArg _ ((State.hoClear_eq hacts).trans (if_pos hst)))
  case clearBusy => exact (horder 4 hok).trans (congrArg _ ((State.hoClear_eq hacts).trans (if_neg hst)))
  case clearAccess => exact (horder 4 hok).trans (congrArg _ (State.hoClear_of_stranger hacts))
  case stopped => exact congrArg _ ((State.hoPrecheck_of_due hdue).trans (if_neg hruns))
  case macs => exact congrArg _ ((State.hoPrecheck_of_due hdue).trans ((if_pos hruns).trans (if_neg (by simp [hmacs]))))
  case passes => exact congrArg _ ((State.hoPrecheck_of_due hdue).trans ((if_pos hruns).trans (if_pos hmacs)))
  case cut => exact (execHoCut_eq n s).trans (congrArg _ (if_pos hcut))
  case uncut => exact (execHoCut_eq n s).trans (congrArg _ (if_neg hcut))

end Sys2Proof.Machine
end

section
/-!
PROOFS. Firmware, flash and attestation (R521, R525 to R527, R529, R532): whose bytes of a carrier slot may change, what a trial and the
flash's state make of an order, what an ended operation leaves, and with them the statement O54.
-/
namespace Sys2Proof.Machine

/-! The event recorder leaves the rest of the part alone -/

/-- A staged record changes the staging, its counts, and the entry that counts the records lost. -/
theorem State.stageOne_eq (s : State) (ty : Nat) (bs : List Byte) : ∃ od anchor staged evSeq lostRun lostFirst, s.stageOne ty bs =
    { s with od := od, anchor := anchor, staged := staged, evSeq := evSeq, lostRun := lostRun, lostFirst := lostFirst } := by
  rw [State.stageOne]
  split
  · exact ⟨s.od, s.anchor, _, _, s.lostRun, s.lostFirst, rfl⟩
  · exact ⟨_, _, s.staged, _, _, _, rfl⟩

theorem State.record_eq (s : State) (ty : Nat) (ws : List U64) : ∃ od anchor staged evSeq lostRun lostFirst, s.record ty ws =
    { s with od := od, anchor := anchor, staged := staged, evSeq := evSeq, lostRun := lostRun, lostFirst := lostFirst } := by
  rw [State.record, State.recordBytes]
  split
  · obtain ⟨_, _, _, _, _, _, hloss⟩ := s.stageOne_eq 2 (wordsBytes [w64 s.lostRun, w64 s.lostFirst])
    obtain ⟨od, anchor, staged, evSeq, lostRun, lostFirst, hrec⟩ := State.stageOne_eq
      { s.stageOne 2 (wordsBytes [w64 s.lostRun, w64 s.lostFirst]) with lostRun := 0 } ty (wordsBytes ws)
    exact ⟨od, anchor, staged, evSeq, lostRun, lostFirst, hrec.trans (by rw [hloss])⟩
  · exact s.stageOne_eq ty _

/-! Owners of carriers (R521) -/

section Carriers
variable {s : State} {rq : Requester} {cc : Nat} {v : U64}

theorem execCarrierOwnerWrite_of_ok {c : Fin 384} {ow : Byte}
    (h : s.checkWrite rq (Key.prtCarriers (c.val / 8)) (setf (s.ent (Key.prtCarriers (c.val / 8))) (8 * (c.val % 8) + 7)
      (8 * (c.val % 8)) ow.toNat) = .ok) :
    execCarrierOwnerWrite rq c ow s = .next (s.carriersWrite rq (c.val / 8)
      (setf (s.ent (Key.prtCarriers (c.val / 8))) (8 * (c.val % 8) + 7) (8 * (c.val % 8)) ow.toNat)) := by
  simp only [execCarrierOwnerWrite, h]

/-- Whether a byte that a write of slot `cc` changes is of a carrier whose slot plan is on. -/
def State.changesRunning (s : State) (cc : Nat) (v : U64) : Prop :=
  ∃ i < 8, ownByte (s.ent (Key.prtCarriers cc)) i ≠ ownByte v i ∧ s.flag (Key.knPlanCfg (8 * cc + i)) 63 = true

/-- To device administration every byte is its to change: a write in range waits on the slot plans alone. -/
theorem State.carriersWrite_of_admin (hadmin : s.isAdmin rq = true) (hrange : ∀ i < 8, ownByte v i = 255 ∨ ownByte v i < 8) :
    ∃ on : Bool, (on = true ↔ s.changesRunning cc v) ∧
      s.carriersWrite rq cc v = if on then s.status .busy else (s.setEnt (Key.prtCarriers cc) v).status .ok := by
  unfold State.carriersWrite
  extract_lets old ch may
  have hmay : ch.all may = true := List.all_eq_true.mpr fun i _ => by simp [may, hadmin]
  have hall : ch.all (fun i => ownByte v i == 255 || decide (ownByte v i < 8)) = true := by
    refine List.all_eq_true.mpr fun i hi => ?_
    have hlt : i < 8 := List.mem_range.mp (List.mem_of_mem_filter hi)
    simpa using hrange i hlt
  refine ⟨ch.any fun i => s.flag (Key.knPlanCfg (8 * cc + i)) 63, ?_, ?_⟩
  · simp [ch, old, State.changesRunning]
  · rw [if_neg (by simp [hmay]), if_neg (by simp [hall])]

theorem State.carriersWrite_of_off (hadmin : s.isAdmin rq = true) (hrange : ∀ i < 8, ownByte v i = 255 ∨ ownByte v i < 8)
    (h : ¬ s.changesRunning cc v) : s.carriersWrite rq cc v = (s.setEnt (Key.prtCarriers cc) v).status .ok := by
  obtain ⟨on, hon, heq⟩ := State.carriersWrite_of_admin (cc := cc) hadmin hrange
  rw [heq, if_neg (mt hon.mp h)]

theorem State.carriersWrite_of_on (hadmin : s.isAdmin rq = true) (hrange : ∀ i < 8, ownByte v i = 255 ∨ ownByte v i < 8)
    (h : s.changesRunning cc v) : s.carriersWrite rq cc v = s.status .busy := by
  obtain ⟨on, hon, heq⟩ := State.carriersWrite_of_admin (cc := cc) hadmin hrange
  rw [heq, if_pos (hon.mpr h)]

end Carriers

/-! Firmware trials (R525 to R527) -/

section Trials
variable {s : State} {rq : Requester} {p : Nat}

theorem State.fwCtlBy_of_ok {op : Nat} (h : s.checkWrite rq (Key.fwCtl p) (w64 op) = .ok) : s.fwCtlBy rq p op = s.fwCtlWrite p op := by
  simp only [State.fwCtlBy, h]

/-- A trial is set once, where the slot that is not active has an image. -/
theorem State.fwCtlWrite_trial : s.fwCtlWrite p 1 =
    if bit (s.ent (Key.fwCfg p)) 62 = true then s.status .busy
    else if s.fwSlotAt p (1 - b01 (bit (s.ent (Key.fwCfg p)) 63)) = 0 then s.status .range
    else (s.ownCommit [(Key.fwCfg p, setBit (s.ent (Key.fwCfg p)) 62 true)]).status .ok := rfl

/-- A trial that runs is confirmed by its partition once that is READY. -/
theorem State.fwCtlWrite_confirm : s.fwCtlWrite p 2 =
    if bit (s.ent (Key.fwCfg p)) 62 = false ∨ tfind s.trialStart p = none ∨ s.flag (Key.rstPtStat p) 63 = false then s.status .busy
    else ({ s with trialStart := tdel s.trialStart p }.ownCommit [(Key.fwCfg p,
      setBit (setBit (s.ent (Key.fwCfg p)) 62 false) 63 (b01 (bit (s.ent (Key.fwCfg p)) 63) == 0))]).status .ok := by
  rw [State.fwCtlWrite, if_neg (by decide), if_pos rfl]
  exact if_congr (by simp) rfl rfl

theorem State.fwCtlWrite_abandon : s.fwCtlWrite p 3 =
    (if bit (s.ent (Key.fwCfg p)) 62 = true then
      { s with trialStart := tdel s.trialStart p }.ownCommit [(Key.fwCfg p, setBit (s.ent (Key.fwCfg p)) 62 false)] else s).status .ok := by
  rw [State.fwCtlWrite, if_neg (by decide), if_neg (by decide), if_pos rfl]

theorem execFwTrialLimit_of_none {q : Fin 8} (h : tfind s.trialStart q.val = none) : execFwTrialLimit q s = .next s := by
  simp only [execFwTrialLimit, h]

theorem execFwTrialLimit_of_some {q : Fin 8} {n : Nat} (h : tfind s.trialStart q.val = some n) : execFwTrialLimit q s = .next (
    if s.entN Key.fwTrialLimit * 491520000 ≤ s.raw.toNat - n then ((s.rollback q.val 1).partReset q.val 5 false).1 else s) := by
  simp only [execFwTrialLimit, h]

end Trials

/-! Orders to the flash (R529) -/

section Flash
variable {s : State} {rq : Requester} {v : U64} {op : Nat}

theorem State.flashBy_of_ok (h : s.checkWrite rq Key.fwFlashCtl (setf v 63 62 op) = .ok) :
    s.flashBy rq op v = s.flashWrite rq (setf v 63 62 op) := by
  simp only [State.flashBy, h]

theorem State.flashWrite_of_stranger (h : s.flashMay rq = false) : s.flashWrite rq v = s.status .access := if_pos (by simp [h])

/-- The status of an operation that the flash does not begin. -/
def State.flashSaid (s : State) (rq : Requester) (st : Nat) : State :=
  { s with bank := tput s.bank (slotKey rq Key.fwFlashCtl) (w64 st) }.status .ok

/-- The operation that a word orders begins, on a span of the flash. -/
def State.flashStarted (s : State) (rq : Requester) (v : U64) (sp : Nat × Nat) : State :=
  { s with flashOp := some ⟨rqSlot rq, bf v 63 62, sp.2, sp.1, s.flashWho rq⟩
           bank := tput s.bank (slotKey rq Key.fwFlashCtl) (w64 (2 ^ 63)) }.status .ok

section May
variable (hmay : s.flashMay rq = true) (hop : bf v 63 62 ≠ 0)
include hmay hop

theorem State.flashWrite_of_busy {o : FlashOp} (h : s.flashOp = some o) : s.flashWrite rq v = s.status .busy := by
  rw [State.flashWrite]
  exact (if_neg (by simp [hmay])).trans ((if_neg hop).trans (if_pos (by simp [h])))

/-- A free flash begins an operation in its range; an ERASE or a PROGRAM only outside protected images. -/
theorem State.flashWrite_of_free {sp : Nat × Nat} (hsp : flashSpan v = sp) (h : s.flashOp = none) : s.flashWrite rq v =
    if Config.flashSize < sp.1 + sp.2 then s.flashSaid rq fsRange
    else if bf v 63 62 ≠ 3 ∧ s.flashProtected sp.1 sp.2 = true then s.flashSaid rq fsProtected
    else s.flashStarted rq v sp := by
  rw [State.flashWrite, hsp]
  exact (if_neg (by simp [hmay])).trans ((if_neg hop).trans (if_neg (by simp [h])))

end May

theorem bf_flashOp (v : U64) (h : op < 4) : bf (setf v 63 62 op) 63 62 = op :=
  (bf_setf_self v 63 62 op (by decide) (by decide)).trans (Nat.mod_eq_of_lt h)

section Free
variable {sp : Nat × Nat} (hok : s.checkWrite rq Key.fwFlashCtl (setf v 63 62 op) = .ok) (hmay : s.flashMay rq = true)
  (hnone : s.flashOp = none) (hsp : flashSpan (setf v 63 62 op) = sp)
include hok hmay hnone hsp

/-- ERASE and PROGRAM spare protected images. -/
theorem State.flashBy_of_change (hop : op = 1 ∨ op = 2) : s.flashBy rq op v =
    if Config.flashSize < sp.1 + sp.2 then s.flashSaid rq fsRange
    else if s.flashProtected sp.1 sp.2 = true then s.flashSaid rq fsProtected
    else s.flashStarted rq (setf v 63 62 op) sp := by
  have hbf : bf (setf v 63 62 op) 63 62 = op := bf_flashOp v (by omega)
  rw [State.flashBy_of_ok hok, State.flashWrite_of_free hmay (by omega) hsp hnone]
  exact if_congr Iff.rfl rfl (if_congr ⟨fun h => h.2, fun h => ⟨by omega, h⟩⟩ rfl rfl)

theorem State.flashBy_of_read (hop : op = 3) : s.flashBy rq op v =
    if Config.flashSize < sp.1 + sp.2 then s.flashSaid rq fsRange else s.flashStarted rq (setf v 63 62 op) sp := by
  have hbf : bf (setf v 63 62 op) 63 62 = op := bf_flashOp v (by omega)
  rw [State.flashBy_of_ok hok, State.flashWrite_of_free hmay (by omega) hsp hnone]
  exact if_congr Iff.rfl rfl (if_neg fun h => h.1 (by omega))

end Free
end Flash

/-! Operations that end (R529) -/

section Done
variable {s : State} {o : FlashOp}

/-- What an operation that ends makes of the flash and of its owner's buffer, before its status is told: `seen` is what a READ finds,
`put` what the others leave. -/
def State.flashEnded (s : State) (o : FlashOp) (seen put : List Byte) : State :=
  if o.op = 3 then (if s.stillWho o.slot o.who then s.setBankOcts o.slot Key.fwFlashBuf seen else s)
  else { s with flash := putFlash s.flash o.addr put }

/-- The owner of an operation is told how it ended, while its slot is still its own. -/
def State.flashTold (s : State) (o : FlashOp) (st : Nat) : State :=
  if s.stillWho o.slot o.who then { s with bank := tput s.bank (o.slot * 2 ^ 32 + Key.fwFlashCtl) (w64 st) } else s

/-- An operation closes: an ERASE that ended well is recorded, and the owner is told. -/
def State.flashClosed (s : State) (o : FlashOp) (ok : Bool) : State :=
  (if ok ∧ o.op = 1 then s.record 0xB2 [w64 o.addr, o.who] else s).flashTold o (if ok then fsDone else fsError)

theorem State.flashClosed_of_erase {o : FlashOp} (s : State) (hop : o.op = 1) :
    s.flashClosed o true = (s.record 0xB2 [w64 o.addr, o.who]).flashTold o fsDone :=
  congrArg (State.flashTold · o fsDone) (if_pos ⟨rfl, hop⟩)

theorem State.flashClosed_of_other {o : FlashOp} (s : State) (hop : o.op ≠ 1) : s.flashClosed o true = s.flashTold o fsDone :=
  congrArg (State.flashTold · o fsDone) (if_neg fun hc => hop hc.2)

theorem State.flashTold_eq (s : State) (o : FlashOp) (st : Nat) : ∃ bank, s.flashTold o st = { s with bank := bank } := by
  rw [State.flashTold]
  split
  · exact ⟨_, rfl⟩
  · exact ⟨s.bank, rfl⟩

theorem State.flashEnded_eq (s : State) (o : FlashOp) (seen put : List Byte) :
    ∃ bank flash, s.flashEnded o seen put = { s with bank := bank, flash := flash } := by
  rw [State.flashEnded, State.setBankOcts]
  split
  · split
    · exact ⟨_, s.flash, rfl⟩
    · exact ⟨s.bank, s.flash, rfl⟩
  · exact ⟨s.bank, _, rfl⟩

theorem execFlashOpDone_of_none {ok : Bool} (h : s.flashOp = none) : execFlashOpDone ok s = .next s := by
  simp only [execFlashOpDone, h]

/-- The state in which an operation's effect takes place: the flash is free again. -/
def State.flashFreed (s : State) : State := { s with free := s.free + 1, flashOp := none }

/-- What an operation that ends comes to: `noise` is what an error leaves of the bytes that it touched. -/
theorem execFlashOpDone_of_some (ok : Bool) (h : s.flashOp = some o) : ∃ noise, execFlashOpDone ok s = .next (
    (s.flashFreed.flashEnded o (if ok then s.flashBytes o.addr o.len else noise)
      (if !ok then noise else if o.op = 1 then List.replicate o.len 0xFF
        else ((s.flashBytes o.addr o.len).zip (s.bankOcts o.slot Key.fwFlashBuf o.len)).map (fun q => q.1 &&& q.2))).flashClosed o ok) := by
  refine ⟨(List.range o.len).map (fun i => BitVec.ofNat 8 (Config.freeValue (Config.freeValue s.free + i))), ?_⟩
  rw [execFlashOpDone, h]
  rfl

/-- After an error what the operation touched is unknown, and its owner reads ERROR. -/
theorem execFlashOpDone_of_bad (h : s.flashOp = some o) : ∃ noise,
    execFlashOpDone false s = .next ((s.flashFreed.flashEnded o noise noise).flashTold o fsError) := by
  obtain ⟨noise, hexec⟩ := execFlashOpDone_of_some false h
  exact ⟨noise, hexec⟩

/-- An ERASE without an error leaves its sector erased, and is recorded. -/
theorem execFlashOpDone_of_erase (h : s.flashOp = some o) (hop : o.op = 1) :
    execFlashOpDone true s = .next (({ s.flashFreed with flash := putFlash s.flash o.addr (List.replicate o.len 0xFF) }.record 0xB2
      [w64 o.addr, o.who]).flashTold o fsDone) := by
  obtain ⟨noise, hexec⟩ := execFlashOpDone_of_some true h
  rw [hexec, State.flashClosed_of_erase _ hop, State.flashEnded, if_neg (by rw [hop]; decide), if_neg (by decide), if_pos hop]
  rfl

/-- A PROGRAM without an error clears the bits that its data has clear. -/
theorem execFlashOpDone_of_program (h : s.flashOp = some o) (hop : o.op = 2) :
    execFlashOpDone true s = .next ({ s.flashFreed with
      flash := putFlash s.flash o.addr (((s.flashBytes o.addr o.len).zip (s.bankOcts o.slot Key.fwFlashBuf o.len)).map (fun q => q.1 &&& q.2))
      : State }.flashTold o fsDone) := by
  have herase : o.op ≠ 1 := by rw [hop]; decide
  obtain ⟨noise, hexec⟩ := execFlashOpDone_of_some true h
  rw [hexec, State.flashClosed_of_other _ herase, State.flashEnded, if_neg (by rw [hop]; decide), if_neg (by decide), if_neg herase]
  rfl

/-- A READ without an error puts the flash's bytes in the buffer of its owner. -/
theorem execFlashOpDone_of_read (h : s.flashOp = some o) (hop : o.op = 3) (hwho : s.stillWho o.slot o.who = true) :
    execFlashOpDone true s = .next ((s.flashFreed.setBankOcts o.slot Key.fwFlashBuf (s.flashBytes o.addr o.len)).flashTold o fsDone) := by
  obtain ⟨noise, hexec⟩ := execFlashOpDone_of_some true h
  rw [hexec, State.flashClosed_of_other _ (by rw [hop]; decide), State.flashEnded, if_pos hop]
  exact congrArg _ (congrArg (State.flashTold · o fsDone) (if_pos hwho))

end Done

/-! Attestation (R532) -/

section Attestation
variable {s : State} {rq : Requester} {v : U64}

theorem execAttestGo_of_ok (h : s.checkWrite rq Key.secAttestCtl v = .ok) : execAttestGo rq v s = .next (s.attestWrite rq v) := by
  simp only [execAttestGo, h]

theorem State.attestWrite_of_none (h : bit v 0 = false) : s.attestWrite rq v = s.status .ok := if_pos (by simp [h])

/-- A report is under way once at a time. -/
theorem State.attestWrite_of_go (h : bit v 0 = true) : s.attestWrite rq v =
    if bit (tget 0 s.bank (slotKey rq Key.secAttestCtl)) 63 = true then s.status .busy
    else { s with bank := tput s.bank (slotKey rq Key.secAttestCtl) (w64 (2 ^ 63)) }.status .ok := if_neg (by simp [h])

end Attestation

/-- Settles O54: who asks, what is under way and where it points decide what firmware, flash and attestation orders come to. -/
theorem firmwareFlash : Obligations.FirmwareFlash := by
  intro s rq c ow p v o n ok k w own cfg active trial ctl ends fv may free span fk started said outside ak asks body told
  have hctl (op : Nat) (h : ctl op) : Host.Outcome.next (s.fwCtlBy rq p.val op) = (.next (s.fwCtlWrite p.val op) : Out) :=
    congrArg _ (State.fwCtlBy_of_ok h)
  refine ⟨execCarrierOwnerWrite_of_ok, fun hadmin hrange hoff => ?off, State.carriersWrite_of_on, fun hctl1 hno hslot => ?trial,
    fun hctl1 hno hslot => ?trialRange, fun hctl1 hon => ?trialBusy, fun hctl2 hon htrial hready => ?confirm,
    fun hctl2 hbusy => ?confirmBusy, fun hctl3 hon => ?abandon, fun hctl3 hno => ?abandonNone, fun htrial hlate => ?late,
    fun htrial hearly => ?early, execFwTrialLimit_of_none, fun ⟨⟨hok, hmay⟩, hnone⟩ => ?erase, fun ⟨⟨hok, hmay⟩, hnone⟩ => ?program,
    fun ⟨⟨hok, hmay⟩, hnone⟩ => ?read,
    fun hmay hop => ?busy, fun hok hmay => ?stranger, execFlashOpDone_of_none, fun hop hone => ?erased, fun hop htwo => ?programmed,
    fun hop hthree hwho => ?wasRead, fun hop => ?failed, fun hok hgo hidle => ?attest, fun hok hgo hbusy => ?attestBusy,
    fun hok hno => ?attestNone, next_if_pos, fun hidle => next_if_neg (Bool.eq_false_iff.mp hidle)⟩
  case off =>
    refine State.carriersWrite_of_off hadmin hrange ?_
    rintro ⟨i, hi, hne, hon⟩
    exact Bool.false_ne_true ((hoff i hi hne).symm.trans hon)
  case trial =>
    exact (hctl 1 hctl1).trans (congrArg _ (State.fwCtlWrite_trial.trans ((if_neg (Bool.eq_false_iff.mp hno)).trans (if_neg hslot))))
  case trialRange =>
    exact (hctl 1 hctl1).trans (congrArg _ (State.fwCtlWrite_trial.trans ((if_neg (Bool.eq_false_iff.mp hno)).trans (if_pos hslot))))
  case trialBusy => exact (hctl 1 hctl1).trans (congrArg _ (State.fwCtlWrite_trial.trans (if_pos hon)))
  case confirm =>
    refine (hctl 2 hctl2).trans (congrArg _ (State.fwCtlWrite_confirm.trans (if_neg ?_)))
    rintro (h | h | h)
    · exact Bool.eq_false_iff.mp h hon
    · cases h.symm.trans htrial
    · exact Bool.eq_false_iff.mp h hready
  case confirmBusy => exact (hctl 2 hctl2).trans (congrArg _ (State.fwCtlWrite_confirm.trans (if_pos hbusy)))
  case abandon => exact (hctl 3 hctl3).trans (congrArg _ (State.fwCtlWrite_abandon.trans (congrArg (State.status · .ok) (if_pos hon))))
  case abandonNone =>
    exact (hctl 3 hctl3).trans (congrArg _ (State.fwCtlWrite_abandon.trans
      (congrArg (State.status · .ok) (if_neg (Bool.eq_false_iff.mp hno)))))
  case late => exact (execFwTrialLimit_of_some htrial).trans (congrArg _ (if_pos hlate))
  case early => exact (execFwTrialLimit_of_some htrial).trans (congrArg _ (if_neg (Nat.not_le.mpr hearly)))
  case erase => exact congrArg _ (State.flashBy_of_change (sp := span 1) hok hmay hnone rfl (.inl rfl))
  case program => exact congrArg _ (State.flashBy_of_change (sp := span 2) hok hmay hnone rfl (.inr rfl))
  case read => exact congrArg _ (State.flashBy_of_read (sp := span 3) hok hmay hnone rfl rfl)
  case busy =>
    obtain ⟨hok, hmay⟩ := hmay
    exact congrArg _ ((State.flashBy_of_ok hok).trans (State.flashWrite_of_busy hmay (by rw [bf_flashOp v (by decide)]; decide) hop))
  case stranger => exact congrArg _ ((State.flashBy_of_ok hok).trans (State.flashWrite_of_stranger hmay))
  case erased =>
    refine ⟨_, execFlashOpDone_of_erase hop hone, ?_⟩
    obtain ⟨_, _, _, _, _, _, hrec⟩ := State.record_eq
      { s.flashFreed with flash := putFlash s.flash o.addr (List.replicate o.len 0xFF) } 0xB2 [w64 o.addr, o.who]
    obtain ⟨_, htold⟩ := State.flashTold_eq ({ s.flashFreed with
      flash := putFlash s.flash o.addr (List.replicate o.len 0xFF) : State }.record 0xB2 [w64 o.addr, o.who]) o fsDone
    rw [htold, hrec]
    exact ⟨rfl, rfl, rfl⟩
  case programmed =>
    refine ⟨_, execFlashOpDone_of_program hop htwo, ?_⟩
    rw [State.flashTold]
    split <;> exact ⟨rfl, rfl, rfl, rfl⟩
  case wasRead =>
    refine ⟨_, execFlashOpDone_of_read hop hthree hwho, ?_⟩
    have htold : (s.flashFreed.setBankOcts o.slot Key.fwFlashBuf (s.flashBytes o.addr o.len)).stillWho o.slot o.who = true := hwho
    rw [State.flashTold, if_pos htold]
    exact ⟨rfl, rfl, rfl, rfl⟩
  case failed =>
    obtain ⟨noise, hexec⟩ := execFlashOpDone_of_bad hop
    obtain ⟨bank, flash, hended⟩ := s.flashFreed.flashEnded_eq o noise noise
    obtain ⟨bank', htold⟩ := State.flashTold_eq { s.flashFreed with bank := bank, flash := flash } o fsError
    refine ⟨_, hexec, ?_⟩
    rw [hended]
    refine ⟨by rw [htold]; rfl, by rw [htold]; rfl, by rw [htold]; rfl, fun hwho => ?_⟩
    have hwho' : { s.flashFreed with bank := bank, flash := flash }.stillWho o.slot o.who = true := hwho
    rw [State.flashTold, if_pos hwho']
    exact tget_tput_self _ _ _ _
  case attest =>
    exact (execAttestGo_of_ok hok).trans (congrArg _ ((State.attestWrite_of_go hgo).trans (if_neg (Bool.eq_false_iff.mp hidle))))
  case attestBusy => exact (execAttestGo_of_ok hok).trans (congrArg _ ((State.attestWrite_of_go hgo).trans (if_pos hbusy)))
  case attestNone => exact (execAttestGo_of_ok hok).trans (congrArg _ (State.attestWrite_of_none hno))

end Sys2Proof.Machine
end

section
/-!
PROOFS. Power transitions (R468 to R475, R478, R482): how a request is judged, what an answer or the silence of the participant in front
comes to, when a pack is gated or restored, and with them the statement O50.
-/
namespace Sys2Proof.Machine

/-! Requests (R469, R475, R478, R490) -/

section Requests
variable {s : State} {rq : Requester} {u : Nat} {v : U64}

theorem execPwrRequest_of_ok {n : Fin 1024} (h : s.checkWrite rq (Key.pwrReq n.val) v = .ok) :
    execPwrRequest rq n v s = .next (s.pwrReqWrite n.val v) := by
  simp only [execPwrRequest, h]

/-- No device request is taken in HOLD, or while the temperature that made it DORMANT has not fallen. -/
def State.reqClosed (s : State) (u : Nat) : Prop :=
  u = 1020 ∧ (s.dev = .hold ∨ (s.thermalDormant = true ∧ s.fld Key.pwrThermStat 49 48 ≠ 0))

/-- GUARD is asked for, and nothing would wake the device from it (R478). -/
def State.reqDeaf (s : State) (u : Nat) (v : U64) : Prop :=
  u = 1020 ∧ bf v 2 0 = 2 ∧ (List.range 8).any s.guardPack = false ∧ s.flag Key.pwrWakeSrc 63 = false ∧ s.flag Key.pwrWakeSrc 47 = false

theorem State.pwrReqWrite_of_unnamed (h : ¬ ((unitKind u = 3 ∨ u = 1020) ∧ bf v 2 0 ≤ 3)) : s.pwrReqWrite u v = s.status .range := by
  refine if_pos ?_
  rw [Bool.not_eq_true', decide_eq_false_iff_not, ← or_and_right]
  exact h

section Named
variable (hnamed : (unitKind u = 3 ∨ u = 1020) ∧ bf v 2 0 ≤ 3)
include hnamed

theorem State.pwrReqWrite_of_named : s.pwrReqWrite u v =
    if u = 1020 ∧ (s.dev = .hold ∨ (s.thermalDormant = true ∧ s.fld Key.pwrThermStat 49 48 ≠ 0)) then s.status .busy
    else if u = 1020 ∧ bf v 2 0 = 2 ∧ (!(List.range 8).any s.guardPack) = true ∧ (!bit (s.ent Key.pwrWakeSrc) 63) = true ∧
      (!bit (s.ent Key.pwrWakeSrc) 47) = true then s.status .range
    else (s.takeReq u (bf v 2 0) (bf v 63 48)).status .ok := by
  refine if_neg ?_
  rw [Bool.not_eq_true', decide_eq_false_iff_not, ← or_and_right]
  exact not_not.mpr hnamed

theorem State.pwrReqWrite_of_closed (h : s.reqClosed u) : s.pwrReqWrite u v = s.status .busy :=
  (State.pwrReqWrite_of_named hnamed).trans (if_pos h)

section Open
variable (hopen : ¬ s.reqClosed u)
include hopen

theorem State.pwrReqWrite_of_deaf (h : s.reqDeaf u v) : s.pwrReqWrite u v = s.status .range := by
  refine (State.pwrReqWrite_of_named hnamed).trans ((if_neg hopen).trans (if_pos ?_))
  simpa [State.reqDeaf, State.flag] using h

theorem State.pwrReqWrite_of_hearing (h : ¬ s.reqDeaf u v) :
    s.pwrReqWrite u v = (s.takeReq u (bf v 2 0) (bf v 63 48)).status .ok := by
  refine (State.pwrReqWrite_of_named hnamed).trans ((if_neg hopen).trans (if_neg ?_))
  simpa [State.reqDeaf, State.flag] using h

end Open
end Named

theorem State.takeReq_of_free {target tag : Nat} (h : (s.slotOf u).cur = none ∧ s.mayStart u = true) :
    s.takeReq u target tag = (s.startReq u target tag).startPending 9 := if_pos (by simpa using h)

/-- A request that cannot start takes the pending slot, and supersedes the one that waits there. -/
theorem State.takeReq_of_waiting {target tag : Nat} (h : ¬ ((s.slotOf u).cur = none ∧ s.mayStart u = true)) :
    s.takeReq u target tag =
      let w := match (s.slotOf u).pending with | some (t, g) => s.reqStat u t g rqsSuperseded 0 0 | none => s
      (w.setSlot u { w.slotOf u with pending := some (target, tag) }).setEntN (Key.pwrReq u) (tag * 2 ^ 48 + 2 ^ 47 + target) := by
  refine (if_neg (by simpa using h)).trans ?_
  cases (s.slotOf u).pending <;> rfl

end Requests

/-! Answers of the participant in front (R472 to R474) -/

section Answers
variable {s : State} {rq : Requester} {p : Nat} {v : U64} {n : Nat} {t : Trans}

theorem State.voteBy_of_ok (h : s.checkWho rq (Key.pwrVote p) v = .ok) : s.voteBy rq p v = s.voteWrite p v := by
  simp only [State.voteBy, h]

theorem State.voteWrite_of_unasked (hop : ¬ (bf v 1 0 = 0 ∨ bf v 1 0 = 3)) (h : s.flag (Key.pwrVote p) 63 = false) :
    s.voteWrite p v = s.status .busy := (if_neg hop).trans (if_pos (by simp [h]))

section Asked
variable (hasked : s.flag (Key.pwrVote p) 63 = true ∧ s.preparing = some (n, t))
include hasked

theorem State.voteWrite_of_asked (hop : ¬ (bf v 1 0 = 0 ∨ bf v 1 0 = 3)) : s.voteWrite p v =
    (if bf v 1 0 = 2 then s.refusePwr n p 1
      else match t.todo with
        | x :: rest => if x = p then s.ackFront n { t with todo := rest, asked := p :: t.asked } else s
        | [] => s).status .ok := by
  obtain ⟨hflag, hprep⟩ := hasked
  refine (if_neg hop).trans ((if_neg (by simp [hflag])).trans ?_)
  simp only [hprep] <;> cases t.todo <;> rfl

theorem State.voteWrite_refused : s.voteWrite p 2 = (s.refusePwr n p 1).status .ok :=
  (State.voteWrite_of_asked hasked (by decide)).trans (congrArg (State.status · .ok) (if_pos rfl))

/-- The acknowledgement of the participant in front moves the transition on. -/
theorem State.voteWrite_acknowledged {rest : List Nat} (h : t.todo = p :: rest) : s.voteWrite p 1 =
    (s.ackFront n { t with todo := rest, asked := p :: t.asked }).status .ok := by
  refine (State.voteWrite_of_asked hasked (by decide)).trans (congrArg (State.status · .ok) ((if_neg (by decide)).trans ?_))
  rw [h]
  exact if_pos rfl

/-- That of another changes nothing. -/
theorem State.voteWrite_out_of_turn (h : t.todo.head? ≠ some p) : s.voteWrite p 1 = s.status .ok := by
  refine (State.voteWrite_of_asked hasked (by decide)).trans (congrArg (State.status · .ok) ((if_neg (by decide)).trans ?_))
  cases htodo : t.todo with
  | nil => rfl
  | cons x rest => exact if_neg fun hx => h (by rw [htodo, hx]; rfl)

end Asked
end Answers

/-! Packs that stop, and silence (R472) -/

section Packs
variable {s : State} {p : Fin 8} {n x : Nat} {t : Trans} {rest : List Nat}

theorem execPwrPackAck_of_none (h : s.preparing = none) : execPwrPackAck p s = .next s := by
  simp only [execPwrPackAck, h]

/-- The pack in front acknowledges once it is idle, with an empty store and no slot plan of its own: it is gated. -/
theorem execPwrPackAck_of_idle (hprep : s.preparing = some (n, t)) (htodo : t.todo = (8 + p.val) :: rest)
    (hstop : s.packIdle p.val false = true ∧ s.occ p.val = 0 ∧ s.isHome p.val = false) :
    execPwrPackAck p s = .next ((if s.packP p.val = 0 then s.gatePack p.val else s).ackFront n
      { t with todo := rest, done := p.val :: t.done, prev := tput t.prev p.val (s.packP p.val) }) := by
  obtain ⟨hidle, hocc, hhome⟩ := hstop
  simp only [execPwrPackAck, hprep, htodo]
  exact congrArg _ (if_pos ⟨trivial, hidle, hocc, by simp [hhome]⟩)

theorem execPwrPrepTimeout_of_none (h : s.preparing = none) : execPwrPrepTimeout s = .next s := by
  simp only [execPwrPrepTimeout, h]

theorem execPwrPrepTimeout_of_some (hprep : s.preparing = some (n, t)) (htodo : t.todo = x :: rest) : execPwrPrepTimeout s =
    .next (if t.since + usTicks (s.entN Key.pwrPrepTimeout) ≤ s.raw.toNat then s.refusePwr n x 2 else s) := by
  simp only [execPwrPrepTimeout, hprep, htodo]

theorem State.packP_gatePack (s : State) (p : Nat) : (s.gatePack p).packP p = 1 := tget_tput_self _ _ _ _

/-- A pack that its wake restores takes the state requested of it; a request that waited for the wake completes. -/
theorem execPackP3Wake_of_waking
    (h : s.packP p.val = 3 ∧ tget 0 s.packReq p.val < 3 ∧ (s.dev = .run ∨ s.dev = .hush) ∧ s.mayWake p.val = true) :
    execPackP3Wake p s = .next (
      let w := (s.packRestore p.val).packTo p.val (tget 0 s.packReq p.val)
      match (w.slotOf (packUnit p.val)).cur with
      | some t =>
        if t.phase = .commit then
          ((w.setSlot (packUnit p.val) { w.slotOf (packUnit p.val) with cur := none }).reqStat (packUnit p.val) t.target t.tag
            rqsOk 0 0).afterTrans
        else w
      | none => w) := by
  unfold execPackP3Wake
  extract_lets u r
  rw [if_pos h] <;> cases (((s.packRestore p.val).packTo p.val (tget 0 s.packReq p.val)).slotOf (packUnit p.val)).cur <;> rfl

end Packs

/-- Settles O50: the state of the slots, of the participant in front and of the pack decide how a transition goes. -/
theorem powerTransitions : Obligations.PowerTransitions := by
  intro s rq u v p n x t rest k target tag ok named closed deaf starts prior asked may mayNot pack r stops late gates wakes woken
  refine ⟨fun hok hno => ?unnamed, fun hok hn hc => ?closed, fun hok hn hc hd => ?deaf, fun hok hn hc hd hs => ?starts,
    fun hok hn hc hd hs => ?waits, fun hmay hno => ?ackBusy, fun hmay ha htodo => ?ack, fun hmay ha htodo => ?ackOther,
    fun hmay ha => ?refuse, fun hmay hno => ?refuseBusy, fun ⟨hprep, htodo, hidle⟩ => execPwrPackAck_of_idle hprep htodo hidle,
    fun hnone => ⟨execPwrPackAck_of_none hnone, execPwrPrepTimeout_of_none hnone⟩, fun hprep htodo hlate => ?late,
    fun hprep htodo hearly => ?early, fun hgate => congrArg _ (if_pos hgate), fun hgate => congrArg _ (if_neg hgate),
    s.packP_gatePack p.val, fun hwake hcur => ?wakes, fun hwake hcur hphase => ?completes, fun hwake => congrArg _ (if_neg hwake)⟩
  case unnamed => exact (execPwrRequest_of_ok hok).trans (congrArg _ (State.pwrReqWrite_of_unnamed hno))
  case closed => exact (execPwrRequest_of_ok hok).trans (congrArg _ (State.pwrReqWrite_of_closed hn hc))
  case deaf => exact (execPwrRequest_of_ok hok).trans (congrArg _ (State.pwrReqWrite_of_deaf hn hc hd))
  case starts =>
    exact (execPwrRequest_of_ok hok).trans (congrArg _ ((State.pwrReqWrite_of_hearing hn hc hd).trans
      (congrArg (State.status · .ok) (State.takeReq_of_free hs))))
  case waits =>
    exact (execPwrRequest_of_ok hok).trans (congrArg _ ((State.pwrReqWrite_of_hearing hn hc hd).trans
      (congrArg (State.status · .ok) (State.takeReq_of_waiting hs))))
  case ackBusy => exact congrArg _ ((State.voteBy_of_ok hmay).trans (State.voteWrite_of_unasked (by decide) hno))
  case ack => exact congrArg _ ((State.voteBy_of_ok hmay).trans (State.voteWrite_acknowledged ha htodo))
  case ackOther => exact congrArg _ ((State.voteBy_of_ok hmay).trans (State.voteWrite_out_of_turn ha htodo))
  case refuse => exact congrArg _ ((State.voteBy_of_ok hmay).trans (State.voteWrite_refused ha))
  case refuseBusy => exact congrArg _ ((State.voteBy_of_ok hmay).trans (State.voteWrite_of_unasked (by decide) hno))
  case late => exact (execPwrPrepTimeout_of_some hprep htodo).trans (congrArg _ (if_pos hlate))
  case early => exact (execPwrPrepTimeout_of_some hprep htodo).trans (congrArg _ (if_neg hearly))
  case wakes =>
    rw [exec_packP3Wake, execPackP3Wake_of_waking hwake]
    dsimp only
    rw [hcur]
  case completes =>
    rw [exec_packP3Wake, execPackP3Wake_of_waking hwake]
    dsimp only
    rw [hcur]
    exact congrArg _ (if_pos hphase)

end Sys2Proof.Machine
end

section
/-!
PROOFS. GUARD, wakes, residency, supplies and temperature (R479, R480, R483 to R487, R489 to R491): each event acts once it has come due,
and with it the statement O51.
-/
namespace Sys2Proof.Machine

/-! Supplies (R485 to R487) -/

section Supplies
variable {s : State} {r : Fin 10} {mv us : Nat}

theorem execSupplyWarn_eq (r : Fin 10) (mv : Nat) (s : State) : execSupplyWarn r mv s = .next (
    if s.pwrgood = true ∧ mv < warnMv r.val ∧ r.val ∉ s.railLow then
      ({ s with
        railLow := r.val :: s.railLow, dips := s.dips.filter (fun d => d.1 != r.val)
        warn := true, warnSince := if s.warn then s.warnSince else s.raw.toNat }.setSticky Key.pwrWarnStat 32).powerIrq
    else s) :=
  congrArg _ (if_congr (by simp) rfl rfl)

theorem execSupplyRecover_of_good (h : r.val ∉ s.railLow) : execSupplyRecover r mv us s = .next s :=
  congrArg _ (if_neg (by simpa using h))

/-- A rail that was low is good again: with the last one the warning ends. -/
theorem execSupplyRecover_of_low (h : r.val ∈ s.railLow) : execSupplyRecover r mv us s = .next (
    let back := { s with railLow := s.railLow.filter (· != r.val), dips := s.dips ++ [(r.val, mv, us)] }
    if back.railLow.isEmpty then { back.dips.foldl State.noteDip { back with warn := false } with dips := [] }.mramDrain else back) :=
  congrArg _ (if_pos (by simpa using h))

/-- With no transition under way, and nothing raised before, an emergency acts at once. -/
theorem State.raise_of_still {e : Emergency} (hnone : s.emergencies = []) (hstill : s.inTransition = false) : s.raise e =
    if [e].contains .supply = true then ({ s with emergencies := [] }.emergency).enterHold hcSupply
    else ({ s with emergencies := [] }.emergency).thermalDown := by
  rw [State.raise, hnone]
  refine (if_neg ?_).trans ((if_neg (List.cons_ne_nil _ _)).trans rfl)
  exact Bool.eq_false_iff.mp hstill

end Supplies

/-! Temperature (R489, R490) -/

section Temperature
variable {s : State} {sn : Fin 16} {temp : BitVec 16}

/-- A reading that is noted leaves LEVEL as it is. -/
@[simp] theorem State.thermLevel_noteTemp (s : State) (sn : Fin 16) (temp : BitVec 16) :
    (s.noteTemp sn.val temp).thermLevel = s.thermLevel := by
  have hkey : Key.pwrThermStat ≠ Key.pwrTemp sn.val := by
    have := sn.isLt
    simp only [Key.pwrThermStat, Key.pwrTemp]
    omega
  rw [State.thermLevel, State.noteTemp, State.fld_setFld_other _ _ _ _ _ _ _ (by decide) (by decide) (by decide) (by decide),
    State.fld_setFld_other _ _ _ _ _ _ _ (by decide) (by decide) (by decide) (by decide), State.fld, State.ent_setEnt_ne _ _ hkey]
  rfl

/-- A critical temperature takes LEVEL to 2, by way of 1 where it was 0, and is an emergency. -/
theorem execThermalCrit_of_crit (h : s.thermLevel < 2 ∧ s.thermAt 2 ≤ temp.toInt ∧ s.phase ≠ phReset) : execThermalCrit sn temp s =
    .next (((if s.thermLevel = 0 then (s.noteTemp sn.val temp).thermTo 1 sn.val temp else s.noteTemp sn.val temp).thermTo 2 sn.val
      temp).raise .thermal) := by
  rw [execThermalCrit, if_pos h]
  dsimp only
  rw [State.thermLevel_noteTemp]

end Temperature

/-! Residency (R483) -/

theorem execResidencyHourCommit_of_not_due {s : State} (h : ¬ (s.warn = false ∧ s.hourTold < s.hourNow)) :
    execResidencyHourCommit s = .next s := by
  refine congrArg _ (if_pos ?_)
  rwa [not_and_or, Bool.not_eq_false, Nat.not_lt] at h

theorem not_held_of_hour {s : State} (h : s.warn = false ∧ s.hourTold < s.hourNow) : ¬ (s.warn = true ∨ s.hourNow ≤ s.hourTold) := by
  rwa [not_or, Bool.not_eq_true, Nat.not_le]

/-- Settles O51: an event acts where its condition has come, and changes nothing before. -/
theorem powerEvents : Obligations.PowerEvents := by
  intro s g up r mv us sn temp lead listen leads ends src edge slept t secs told hour falls back long lv noted hot crit cools
  have hlead : (s.dev = .guard ∧ (!s.guardLead) = true ∧ s.guardAt ≤ s.now + lead) ↔ leads := by simp [leads]
  refine ⟨fun h => next_if_pos (hlead.mpr h), fun h => next_if_neg (mt hlead.mp h), next_if_pos, next_if_neg, next_if_pos, next_if_neg,
    next_if_pos, next_if_neg, fun h => next_if_neg (not_held_of_hour h), execResidencyHourCommit_of_not_due,
    fun h => (execSupplyWarn_eq r mv s).trans (next_if_pos h), fun h => (execSupplyWarn_eq r mv s).trans (next_if_neg h),
    fun hlow hsome => ?low, fun hlow hnone => ?last, execSupplyRecover_of_good, next_if_pos, next_if_neg, fun hnone hstill => ?raise,
    next_if_pos, next_if_neg, fun hcrit hone => ?critOne, fun hcrit hzero => ?critZero, next_if_neg, next_if_pos, next_if_neg,
    next_if_pos, fun h => next_if_neg (Bool.eq_false_iff.mp h)⟩
  case raise =>
    exact ⟨(State.raise_of_still hnone hstill).trans (if_pos rfl), (State.raise_of_still hnone hstill).trans (if_neg (by decide))⟩
  case low => exact (execSupplyRecover_of_low hlow).trans (next_if_neg (mt List.isEmpty_iff.mp hsome))
  case last => exact (execSupplyRecover_of_low hlow).trans (next_if_pos (List.isEmpty_iff.mpr hnone))
  case critOne =>
    rw [exec_thermalCrit, execThermalCrit_of_crit hcrit, if_neg (by rw [show s.thermLevel = 1 from hone]; decide)]
  case critZero =>
    rw [exec_thermalCrit, execThermalCrit_of_crit hcrit, if_pos hzero]

end Sys2Proof.Machine
end

section
/-!
PROOFS. Enber (R422 to R426, R429, R431 to R433, R435, R436, R440, R442): how a message finds its session and is judged there, what the
operations of a session and the messages outside one come to, and with them the statements O46 and O47.
-/
namespace Sys2Proof.Machine

/-! A message and its session (R424, R426) -/

/-- A message that Enber takes, and a session that it names. -/
def State.enberMine (s : State) (m : EnberMsg) (i : Fin 16) (x : Session) : Prop :=
  (s.enberOn = true ∧ enberFramed m = true) ∧ m.session ≠ 0 ∧ s.sessionAt m.session = some i ∧ s.sess i.val = some x

/-- Such a message whose tag is that of the session's key. -/
def Session.tagged (x : Session) (m : EnberMsg) : Prop := m.tag = enberTag (x.keys.take 32) (enberHeader m ++ enberBody m)

/-- A message that its session executes: tag, SEQ, DIALECT and form are good. -/
def State.enberServed (s : State) (m : EnberMsg) (i : Fin 16) (x : Session) : Prop :=
  s.enberMine m i x ∧ x.tagged m ∧ x.high ≤ m.seq.toNat ∧ m.dialect.toNat = x.dialect ∧ enberForm m = true

/-- The end of a request that its session has executed: H rises, and the response is kept and sent. -/
def State.enberDone (t : State) (i : Fin 16) (m : EnberMsg) (r : Reply) : State := (t.executed i m.seq.toNat (some r)).answer r

section Serve
variable {s : State} {m : EnberMsg} {i : Fin 16} {x : Session} {zero : State → State} {run : Fin 16 → State → State × Option Reply}

theorem State.enberServe_of_off (h : s.enberOn = false) : s.enberServe m zero run = s := if_pos (by simp [h])

section On
variable (hon : s.enberOn = true ∧ enberFramed m = true)
include hon

theorem State.enberServe_of_on : s.enberServe m zero run =
    if m.session = 0 then zero s
    else match s.sessionAt m.session with
      | none => s.answer (enberReply m .session false)
      | some i => match s.sess i.val with
        | some x => s.enberSession i x m run
        | none => s := by
  obtain ⟨hon, hframed⟩ := hon
  refine (if_neg (by simp [hon])).trans ((if_neg (by simp [hframed])).trans ?_)
  cases s.sessionAt m.session with
  | none => rfl
  | some i => cases hx : s.sess i.val <;> simp only [hx]

theorem State.enberServe_of_zero (h : m.session = 0) : s.enberServe m zero run = zero s :=
  (State.enberServe_of_on hon).trans (if_pos h)

theorem State.enberServe_of_unknown (hne : m.session ≠ 0) (h : s.sessionAt m.session = none) :
    s.enberServe m zero run = s.answer (enberReply m .session false) := by
  rw [State.enberServe_of_on hon, if_neg hne, h]

end On

theorem State.enberServe_of_mine (h : s.enberMine m i x) : s.enberServe m zero run = s.enberSession i x m run := by
  obtain ⟨hon, hne, hat, hx⟩ := h
  rw [State.enberServe_of_on hon, if_neg hne, hat]
  simp only [hx]

theorem State.enberServe_of_untagged (h : s.enberMine m i x) (htag : ¬ x.tagged m) :
    s.enberServe m zero run = (s.sessionCount 31 16).answer .none :=
  (State.enberServe_of_mine h).trans (if_pos htag)

/-- A message that bears its session's tag is judged by its SEQ. -/
theorem State.enberServe_of_tagged (h : s.enberMine m i x) (htag : x.tagged m) : s.enberServe m zero run =
    if x.high ≤ m.seq.toNat then
      if m.dialect.toNat ≠ x.dialect then s.answer (enberReply m .dialect true)
      else if !(enberForm m) then s.answer (enberReply m .malformed true)
      else match run i s with
        | (t, some r) => t.enberDone i m r
        | (t, none) => t.answer .stalled
    else match x.cache.find? (fun e => e.1 == m.seq.toNat) with
      | some (_, r) => { s with session := tput s.session i.val { x with lastRaw := s.raw.toNat } }.answer r
      | none => (s.sessionCount 15 0).answer .none :=
  (State.enberServe_of_mine h).trans (if_neg (not_not.mpr htag))

theorem State.enberServe_of_repeated {j : Nat} {r : Reply} (h : s.enberMine m i x) (htag : x.tagged m) (hold : m.seq.toNat < x.high)
    (hcache : x.cache.find? (fun e => e.1 == m.seq.toNat) = some (j, r)) : s.enberServe m zero run =
      { s with session := tput s.session i.val { x with lastRaw := s.raw.toNat } }.answer r := by
  rw [State.enberServe_of_tagged h htag, if_neg (Nat.not_le.mpr hold), hcache]

theorem State.enberServe_of_old (h : s.enberMine m i x) (htag : x.tagged m) (hold : m.seq.toNat < x.high)
    (hcache : x.cache.find? (fun e => e.1 == m.seq.toNat) = none) : s.enberServe m zero run = (s.sessionCount 15 0).answer .none := by
  rw [State.enberServe_of_tagged h htag, if_neg (Nat.not_le.mpr hold), hcache]

theorem State.enberServe_of_dialect (h : s.enberMine m i x) (htag : x.tagged m) (hnew : x.high ≤ m.seq.toNat)
    (hdialect : m.dialect.toNat ≠ x.dialect) : s.enberServe m zero run = s.answer (enberReply m .dialect true) := by
  rw [State.enberServe_of_tagged h htag, if_pos hnew, if_pos hdialect]

section Served
variable (h : s.enberServed m i x)
include h

theorem State.enberServe_of_served : s.enberServe m zero run =
    match run i s with | (t, some r) => t.enberDone i m r | (t, none) => t.answer .stalled := by
  obtain ⟨hmine, htag, hnew, hdialect, hform⟩ := h
  rw [State.enberServe_of_tagged hmine htag, if_pos hnew, if_neg (not_not.mpr hdialect), if_neg (by simp [hform])]

theorem State.enberServe_of_answered {t : State} {r : Reply} (hrun : run i s = (t, some r)) :
    s.enberServe m zero run = t.enberDone i m r := by
  rw [State.enberServe_of_served h, hrun]

theorem State.enberServe_of_stalled {t : State} (hrun : run i s = (t, none)) : s.enberServe m zero run = t.answer .stalled := by
  rw [State.enberServe_of_served h, hrun]

end Served
end Serve

/-! Subscriptions and COMMITs in a session (R436, R442) -/

section Runs
variable {s : State} {m : EnberMsg} {i : Fin 16} {x : Session}

/-- The status of a subscription request, by what its payload asks for. -/
def State.subAsked (s : State) (i : Fin 16) (m : EnberMsg) (x : Session) : Status :=
  s.subStatus i m x ((enberBody m).getD 0 0).toNat ((enberBody m).getD 1 0).toNat (beNat (((enberBody m).drop 2).take 2))
    (beNat (((enberBody m).drop 4).take 4))

theorem State.subscribe_of_refused {st : Status} (hx : s.sess i.val = some x) (hst : s.subAsked i m x = st) (hne : st ≠ .ok) :
    s.subscribe i m = (s, some (enberReply m st true)) := by
  rw [State.subAsked] at hst
  simp only [State.subscribe, hx, hst]

section Good
variable (hx : s.sess i.val = some x) (hst : s.subAsked i m x = .ok)
include hx hst

/-- A subscription that may stand is taken away in mode 0, else put in its place and sampled. -/
theorem State.subscribe_of_ok : s.subscribe i m =
    let id := ((enberBody m).getD 0 0).toNat
    let mode := ((enberBody m).getD 1 0).toNat
    let sub : Sub :=
      ⟨BitVec.ofNat 8 mode, beNat (((enberBody m).drop 4).take 4), m.target, m.count.toNat, [], 0, s.raw.toNat⟩
    (if mode = 0 then { s with session := tput s.session i.val { x with subs := tdel x.subs id } }
      else (s.sample i sub).2.sendSub i id sub (s.sample i sub).1,
      some (.enber m.session .ok m.target m.count.toNat [] [] true)) := by
  rw [State.subAsked] at hst
  simp only [State.subscribe, hx, hst]
  split <;> rfl

end Good

theorem State.commitAsk_reply_of_room {slot : Nat} {msg : Option (BitVec 32 × Nat)} (h : s.commits.length < 8) :
    (s.commitAsk slot msg).reply = .status .ok := by
  rw [State.commitAsk_of_room h]; rfl

theorem State.commitAsk_reply_of_full {slot : Nat} {msg : Option (BitVec 32 × Nat)} (h : 8 ≤ s.commits.length) :
    (s.commitAsk slot msg).reply = .status .busy := by
  rw [State.commitAsk_of_full h]; rfl

end Runs

/-! The operations (R425, R435, R436, R442) -/

section Operations
variable {s t : State} {m : EnberMsg} {i : Fin 16} {x : Session} {r : Reply} {st : Status} {ver : MramResult}

theorem execEnberRead_of_read (hop : m.op = 1) : execEnberRead m s =
    .next (s.enberServe m (fun s => s.readZero m false) (fun i s => s.readRun i m false)) := next_if_pos hop

theorem execEnberWrite_of_plain (hop : m.op = 2) (htok : enberTok m = false) : execEnberWrite m s =
    .next (s.enberServe m (enberZero m) (fun i s =>
      ((s.writeStatus i (objKey m.target) (payloadValue m 0)).1,
        some (.enber m.session (s.writeStatus i (objKey m.target) (payloadValue m 0)).2 m.target 1 [] [] true)))) :=
  next_if_pos ⟨hop, by simp [htok]⟩

theorem execEnberWriteBlock_of_block (hop : m.op = 4) (h : s.enberServed m i x) {j : Nat}
    (hw : s.writeMany i m m.count.toNat 0 = (t, st, j)) : execEnberWriteBlock m s = .next (t.enberDone i m
      (.enber m.session st (if st = .ok then m.target else keyObj (keyFrom m.target j)) j [] [] true)) := by
  refine (next_if_pos hop).trans (congrArg _ (State.enberServe_of_answered h ?_))
  dsimp only
  rw [hw]

section Token
variable (hop : m.op = 2) (htok : enberTok m = true) (h : s.enberServed m i x)
include hop htok h

theorem execEnberTokenWrite_of_reader (hr : s.isReader i = true) :
    execEnberTokenWrite m ver s = .next (s.enberDone i m (enberReply m .access true)) :=
  (next_if_pos ⟨hop, htok⟩).trans (congrArg _ (State.enberServe_of_answered h (if_pos hr)))

section Writer
variable (hwriter : s.isReader i = false)
include hwriter

theorem execEnberTokenWrite_of_held (hheld : s.warn = true ∨ s.commits ≠ []) :
    execEnberTokenWrite m ver s = .next (s.answer .stalled) := by
  refine (next_if_pos ⟨hop, htok⟩).trans (congrArg _ (State.enberServe_of_stalled h ?_))
  exact (if_neg (Bool.eq_false_iff.mp hwriter)).trans (if_pos (by simpa using hheld))

/-- A token's status is told, unless the supply was lost in its writes. -/
theorem execEnberTokenWrite_of_free (hwarn : s.warn = false) (hnone : s.commits = [])
    (hw : s.tokenWrite (.session i) (enberBody m) ver = (t, st)) : execEnberTokenWrite m ver s =
      .next (if supplyLost ver then t.answer .stalled else t.enberDone i m (enberReply m st true)) := by
  refine (next_if_pos ⟨hop, htok⟩).trans (congrArg _ ((State.enberServe_of_served h).trans ?_))
  rw [if_neg (Bool.eq_false_iff.mp hwriter), if_neg (by simp [hwarn, hnone]), hw]
  cases supplyLost ver <;> rfl

end Writer
end Token

section Commit
variable (hop : m.op = 7) (h : s.enberServed m i x)
include hop h

theorem execEnberCommit_of_reader (hr : s.isReader i = true) :
    execEnberCommit m s = .next (s.enberDone i m (enberReply m .access true)) :=
  (next_if_pos hop).trans (congrArg _ (State.enberServe_of_answered h (if_pos hr)))

theorem execEnberCommit_of_room (hwriter : s.isReader i = false) (hroom : s.commits.length < 8) : execEnberCommit m s =
    .next (((s.commitAsk (rqSlot (.session i)) (some (m.session, m.seq.toNat))).executed i m.seq.toNat none).answer .stalled) := by
  refine (next_if_pos hop).trans (congrArg _ (State.enberServe_of_stalled h ?_))
  exact (if_neg (Bool.eq_false_iff.mp hwriter)).trans (if_pos (State.commitAsk_reply_of_room hroom))

theorem execEnberCommit_of_full (hwriter : s.isReader i = false) (hfull : 8 ≤ s.commits.length) : execEnberCommit m s =
    .next (s.enberDone i m (enberReply m .busy true)) := by
  refine (next_if_pos hop).trans (congrArg _ (State.enberServe_of_answered h ?_))
  exact (if_neg (Bool.eq_false_iff.mp hwriter)).trans (if_neg (by rw [State.commitAsk_reply_of_full hfull]; decide))

end Commit
end Operations

/-- Settles O46: a message finds its session or none, is judged there in the order of R424, and answered once executed. -/
theorem enberRequests : Obligations.EnberRequests := by
  intro s t m i x r st j ver zero run seq on mine tagOk served body id mode period subs sub fine done asked writer token
  have hserved (h : served) : s.enberServed m i x := h
  have hsess (h : served) : s.sess i.val = some x := h.1.2.2.2
  refine ⟨fun hop h hrun => ?read, fun hop h hrun => ?readBlock, fun hop htok h hw => ?write,
    fun hop h hw => execEnberWriteBlock_of_block hop (hserved h) hw, fun hop h hok hmode => ?unsub, fun hop h hok hmode => ?sub,
    fun hop h hst hne => ?subRefused, fun ⟨hop, htok, h⟩ hr => execEnberTokenWrite_of_reader hop htok (hserved h) hr,
    fun ⟨hop, htok, h⟩ hw => execEnberTokenWrite_of_held hop htok (hserved h) hw, fun ⟨hop, htok, h⟩ hw hwarn hnone hlost htw => ?told,
    fun ⟨hop, htok, h⟩ hw hwarn hnone hlost htw => ?lost, fun hop h => execEnberCommit_of_room hop (hserved h),
    fun hop h => execEnberCommit_of_full hop (hserved h), fun hop h => execEnberCommit_of_reader hop (hserved h),
    fun h => State.enberServe_of_repeated h, fun h => State.enberServe_of_old h, fun h => State.enberServe_of_untagged h,
    fun h => State.enberServe_of_dialect h, fun h => State.enberServe_of_zero h, fun h => State.enberServe_of_unknown h,
    State.enberServe_of_off, fun hop hon hzero => ?readZero, fun hop htok hon hzero => ?writeZero⟩
  case read => exact (execEnberRead_of_read hop).trans (congrArg _ (State.enberServe_of_answered (hserved h) hrun))
  case readBlock => exact (next_if_pos hop).trans (congrArg _ (State.enberServe_of_answered (hserved h) hrun))
  case write =>
    refine (execEnberWrite_of_plain hop htok).trans (congrArg _ (State.enberServe_of_answered (hserved h) ?_))
    rw [hw]
  case unsub =>
    refine (next_if_pos hop).trans (congrArg _ (State.enberServe_of_answered (hserved h) ?_))
    exact (State.subscribe_of_ok (hsess h) hok).trans (Prod.ext (if_pos hmode) rfl)
  case sub =>
    refine (next_if_pos hop).trans (congrArg _ (State.enberServe_of_answered (hserved h) ?_))
    exact (State.subscribe_of_ok (hsess h) hok).trans (Prod.ext (if_neg hmode) rfl)
  case subRefused =>
    exact (next_if_pos hop).trans (congrArg _ (State.enberServe_of_answered (hserved h) (State.subscribe_of_refused (hsess h) hst hne)))
  case told =>
    exact (execEnberTokenWrite_of_free hop htok (hserved h) hw hwarn hnone htw).trans (next_if_neg (Bool.eq_false_iff.mp hlost))
  case lost => exact (execEnberTokenWrite_of_free hop htok (hserved h) hw hwarn hnone htw).trans (next_if_pos hlost)
  case readZero => exact (execEnberRead_of_read hop).trans (congrArg _ (State.enberServe_of_zero hon hzero))
  case writeZero => exact (execEnberWrite_of_plain hop htok).trans (congrArg _ (State.enberServe_of_zero hon hzero))

end Sys2Proof.Machine
end

section
/-!
PROOFS. Enber sessions (R429, R431 to R433, R440, R442): how a HELLO and an AUTH end, when sessions and handshakes do, which samples are
told, and with them the statement O47.
-/
namespace Sys2Proof.Machine

/-! Handshakes (R429 to R432, R440) -/

section Hello
variable {s : State} {m : EnberMsg}

/-- A HELLO as its table gives it: reserved bytes zero, the scope a partition or the device. -/
def helloFormed (m : EnberMsg) : Prop :=
  enberForm m = true ∧ ((enberBody m).drop 5).take 3 = [0, 0, 0] ∧
    (((enberBody m).getD 4 0).toNat < 8 ∨ (enberBody m).getD 4 0 = 0xFF)

theorem not_helloFormed_iff (m : EnberMsg) : ¬ helloFormed m ↔
    (!(enberForm m)) = true ∨ ((enberBody m).drop 5).take 3 ≠ [0, 0, 0] ∨
      (8 ≤ ((enberBody m).getD 4 0).toNat ∧ (enberBody m).getD 4 0 ≠ 0xFF) := by
  rw [helloFormed, not_and_or, not_and_or, not_or, Nat.not_lt, Bool.not_eq_true, Bool.not_eq_true']

theorem State.hello_of_malformed (h : ¬ helloFormed m) : s.hello m = s.answer (enberReply m .malformed false) :=
  if_pos ((not_helloFormed_iff m).mp h)

/-- A HELLO of the right form opens a handshake, where the part is fused, a place is free and the dialects meet. -/
theorem State.hello_of_formed (h : helloFormed m) : s.hello m =
    let y := enberBody m
    let win := s.scopeWindow (y.getD 4 0).toNat
    let di := s.drawId
    let de := di.2.drawEph
    let dn := de.2.draw
    let resp := fun (d : Nat) => helloResponse d win dn.1 de.1
    let t1 := fun (d : Nat) => shake 64 (y ++ resp d)
    if isFused = false then s.answer (enberReply m .auth false)
    else match (List.range 8).find? (fun h => (tfind s.handshake h).isNone),
        chooseDialect (beNat (y.take 2)) (beNat ((y.drop 2).take 2)) win with
      | none, _ => s.answer (enberReply m .busy false)
      | some _, none => s.answer (.enber 0 .dialect m.target 0 [] (beBytes 2 win.1 ++ beBytes 2 win.2) false)
      | some h, some d => { dn.2 with handshake := tput dn.2.handshake h ⟨di.1, d, y.getD 4 0, t1 d, de.1, dn.2.raw.toNat⟩ }.answer
          (.enber di.1 .ok m.target 0 [] (resp d ++ idSign (ascii "ENBER-HELLO") (t1 d)) false) := by
  refine (if_neg (not_not.mpr h ∘ (not_helloFormed_iff m).mpr)).trans ?_
  refine if_congr (by simp) rfl ?_
  cases (List.range 8).find? (fun h => (tfind s.handshake h).isNone) with
  | none => rfl
  | some h =>
    dsimp only
    cases chooseDialect (beNat ((enberBody m).take 2)) (beNat (((enberBody m).drop 2).take 2))
      (s.scopeWindow ((enberBody m).getD 4 0).toNat) <;> rfl

end Hello

section Auth
variable {s : State} {m : EnberMsg} {h : Nat} {hs : Handshake}

theorem execEnberAuth_of_on (hop : m.op = 8) (hon : s.enberOn = true ∧ enberFramed m = true) : execEnberAuth m s = .next (
    match s.handshake.find? (fun e => e.2.id == m.session) with
    | some (h, hs) => s.auth m h hs
    | none => s.answer (enberReply m .session false)) := by
  obtain ⟨hon, hframed⟩ := hon
  refine (next_if_pos hop).trans ((next_if_neg (by simp [hon])).trans ((next_if_neg (by simp [hframed])).trans ?_))
  rfl

theorem State.auth_of_dialect (hd : m.dialect.toNat ≠ hs.dialect) : s.auth m h hs = s.answer (enberReply m .dialect false) := if_pos hd

/-- An AUTH of the right form ends its handshake with a refusal, or with a session where a place is free. -/
theorem State.auth_of_formed (hd : m.dialect.toNat = hs.dialect) (hform : enberForm m = true)
    (hzero : (((enberBody m).drop 1).take 7 ++ ((enberBody m).drop 121).take 7).any (· ≠ 0) = false) : s.auth m h hs =
    let y := enberBody m
    let key := (y.drop 64).take 57
    let t2 := shake 64 (hs.t1 ++ y.take 128)
    match s.authCheck (y.getD 0 0).toNat hs.scope key t2 (y.drop 128), (List.range 16).find? (fun i => (s.sess i).isNone) with
      | .refused st, _ => ({ s with handshake := tdel s.handshake h }.sessionCount 47 32).answer (enberReply m st false)
      | .accepted _, none => s.answer (enberReply m .full false)
      | .accepted role, some i => (if y.getD 0 0 = 0xFF then s.claim key else s).openSession m h i hs role t2 := by
  refine (if_neg (not_not.mpr hd)).trans ((if_neg (not_or.mpr ⟨by simp [hform], Bool.eq_false_iff.mp hzero⟩)).trans ?_)
  dsimp only
  cases s.authCheck ((enberBody m).getD 0 0).toNat hs.scope (((enberBody m).drop 64).take 57)
      (shake 64 (hs.t1 ++ (enberBody m).take 128)) ((enberBody m).drop 128) with
  | refused st => rfl
  | accepted role => cases (List.range 16).find? (fun i => (s.sess i).isNone) <;> rfl

end Auth

/-! Ends of sessions and handshakes (R429, R433) -/

section Ends
variable {s : State} {i : Fin 16} {x : Session}

theorem State.sess_endSession (s : State) (i : Nat) : (s.endSession i).sess i = none := tfind_tdel_self _ _

theorem execSessionIdleTimeout_of_some (hx : s.sess i.val = some x) : execSessionIdleTimeout i s =
    .next (if x.lastRaw + s.entN Key.odSessionIdle * secTicks ≤ s.raw.toNat then s.endSession i.val else s) := by
  simp only [execSessionIdleTimeout, hx]

theorem execHandshakeExpiry_of_some {h : Fin 8} {hs : Handshake} (hh : tfind s.handshake h.val = some hs) : execHandshakeExpiry h s =
    .next (if hs.since + 5 * secTicks ≤ s.raw.toNat then { s with handshake := tdel s.handshake h.val } else s) := by
  simp only [execHandshakeExpiry, hh]

end Ends

/-! Samples and NOTIFY (R442) -/

section Notify
variable {s : State} {i : Fin 16} {sub : BitVec 6} {x : Session} {b : Sub}

/-- A subscription whose time has come is sampled, and told in mode 2, or once its values have changed and the least interval passed. -/
theorem execNotifySend_of_subscribed (hsub : s.sess i.val = some x ∧ tfind x.subs sub.toNat = some b) : execNotifySend i sub s = .next (
    let vals := (s.sample i b).1
    let c := { b with sampleRaw := s.raw.toNat }
    let u : State := { (s.sample i b).2 with session := tput (s.sample i b).2.session i.val { x with subs := tput x.subs sub.toNat c } }
    if b.sampleRaw + msTicks (if b.mode = 2 then b.period else 1) ≤ s.raw.toNat then
      if b.mode = 2 ∨ (vals ≠ b.last ∧ b.sentRaw + msTicks (s.entN Key.odNotifyMin) ≤ s.raw.toNat) then u.sendSub i sub.toNat c vals else u
    else s) := by
  obtain ⟨hx, hb⟩ := hsub
  simp only [execNotifySend, hx, hb]
  by_cases ht : b.sampleRaw + msTicks (if b.mode = 2 then b.period else 1) ≤ s.raw.toNat
  · rw [if_neg (by simpa using ht), if_pos ht]
  · rw [if_pos (by simpa using ht), if_neg ht]

end Notify

/-- Settles O47: forms, keys, places and times decide how handshakes, sessions and subscriptions go on. -/
theorem enberSessions : Obligations.EnberSessions := by
  intro s m i h x hs hn sub b role y on scope formed hello free win dial di de dn resp t1 auth aform key t2 check place subbed time vals
    b2 u tells
  have hhello (hh : hello) : execEnberHello m s = .next (s.hello m) := by
    obtain ⟨hop, hon, hzero⟩ := hh
    exact (next_if_pos hop).trans (congrArg _ (State.enberServe_of_zero hon hzero))
  have hauth (ha : auth) : execEnberAuth m s = .next (s.auth m h hs) := by
    obtain ⟨hop, hon, hfind⟩ := ha
    rw [execEnberAuth_of_on hop hon, hfind]
  refine ⟨fun hh hf => (hhello hh).trans (congrArg _ (State.hello_of_formed hf)),
    fun hh hf => (hhello hh).trans (congrArg _ (State.hello_of_malformed hf)),
    fun ha ⟨hd, hf, hz⟩ => (hauth ha).trans (congrArg _ (State.auth_of_formed hd hf hz)),
    fun ha hd => (hauth ha).trans (congrArg _ (State.auth_of_dialect hd)), fun hop hon hnone => ?noHandshake, ⟨rfl, rfl⟩,
    fun hop hon hne hat hx htag hnew hd hf => ?bye, s.sess_endSession i.val,
    fun hx hidle => (execSessionIdleTimeout_of_some hx).trans (next_if_pos hidle),
    fun hx hidle => (execSessionIdleTimeout_of_some hx).trans (next_if_neg (Nat.not_le.mpr hidle)),
    fun hh hold => (execHandshakeExpiry_of_some hh).trans (next_if_pos hold),
    fun hh hold => (execHandshakeExpiry_of_some hh).trans (next_if_neg (Nat.not_le.mpr hold)),
    fun hsub ht => (execNotifySend_of_subscribed hsub).trans (next_if_neg ht), fun hsub ht htell => ?told, fun hsub ht htell => ?untold⟩
  case noHandshake => rw [exec_enberAuth, execEnberAuth_of_on hop hon, hnone]
  case bye => exact (next_if_pos hop).trans (congrArg _ (State.enberServe_of_answered ⟨⟨hon, hne, hat, hx⟩, htag, hnew, hd, hf⟩ rfl))
  case told =>
    exact (execNotifySend_of_subscribed hsub).trans ((next_if_pos ht).trans (next_if_pos (htell.imp_right And.symm)))
  case untold =>
    exact (execNotifySend_of_subscribed hsub).trans ((next_if_pos ht).trans (next_if_neg (mt (Or.imp_right And.symm) htell)))

end Sys2Proof.Machine
end

section
/-!
PROOFS. Resets, boot and HOLD (R421, R444 to R460, R334, R488, R522, R528): the requests of UNIT, PART and WARM resets, what HOLD, a POR
and the self-test leave, and with them the statement O49.
-/
namespace Sys2Proof.Machine

/-! Requests (R421, R446, R448) -/

theorem State.unitReset_of_resettable {s : State} (h : s.resettable = true) (u n : Nat) :
    s.unitReset u n = s.requestReset .unit u n (unitScope u) [] := if_pos h

theorem State.unitReset_of_not_resettable {s : State} (h : s.resettable = false) (u n : Nat) : s.unitReset u n = (s, true) :=
  if_neg (by rw [h]; decide)

theorem State.partReset_of_resettable {s : State} (h : s.resettable = true) (p n : Nat) (hold : Bool) :
    s.partReset p n hold = s.requestReset .part p n (s.partUnits p) [(p, hold)] := if_pos h

theorem State.partReset_of_not_resettable {s : State} (h : s.resettable = false) (p n : Nat) (hold : Bool) :
    s.partReset p n hold = (s, true) := if_neg (by rw [h]; decide)

/-- A request where no reset is in progress begins one. -/
theorem State.requestReset_of_none {s : State} (h : s.resetJob = none) (k : RKind) (tg n : Nat) (us : List Nat) (ps : List (Nat × Bool)) :
    s.requestReset k tg n us ps = ({ (s.endTrials (ps.map (·.1))).resetSteps k us (ps.map (·.1)) with
      resetJob := some ⟨k, tg, n, us, ps, [], ps.map (·.1)⟩ }, false) := by
  rw [State.requestReset, h]

theorem State.odReset_of_refusing {s : State} {u : Nat} (h : u ∈ noUnitReset) : s.odReset u = s.status .range :=
  if_pos (List.contains_iff_mem.2 h)

theorem State.odReset_of_resetting {s : State} {u : Nat} (h : u ∉ noUnitReset) :
    s.odReset u = (s.unitReset u 0).1.status (if (s.unitReset u 0).2 then .busy else .ok) := by
  rw [State.odReset, if_neg (mt List.contains_iff_mem.1 h)]
  rcases s.unitReset u 0 with ⟨t, _ | _⟩ <;> rfl

theorem execOdUnitReset_of_none {s : State} {rq : Requester} {u : Fin 1024} (h : unitKind u.val = 0) :
    execOdUnitReset rq u s = .next (s.status .noObject) := by
  rw [execOdUnitReset, if_pos h]

theorem execOdUnitReset_of_ok {s : State} {rq : Requester} {u : Fin 1024} (h : unitKind u.val ≠ 0)
    (hok : s.checkWrite rq (Key.odCtl u.val) 1 = .ok) : execOdUnitReset rq u s = .next (s.odReset u.val) := by
  rw [execOdUnitReset, if_neg h, hok]

theorem State.ptCtlBy_of_ok {s : State} {rq : Requester} {p op : Nat} (h : s.checkWrite rq (Key.rstPtCtl p) (w64 op) = .ok) :
    s.ptCtlBy rq p op = s.ptCtl p op := by
  rw [State.ptCtlBy, h]

theorem State.ptCtl_of_reset (s : State) {p op : Nat} (h : op = 1 ∨ op = 2) :
    s.ptCtl p op = (s.partReset p 0 (op == 2)).1.status (if (s.partReset p 0 (op == 2)).2 then .busy else .ok) := by
  rw [State.ptCtl, if_pos h]
  rcases s.partReset p 0 (op == 2) with ⟨t, _ | _⟩ <;> rfl

theorem State.ptCtl_release {s : State} {p : Nat} (h : s.partState p = psHeld ∧ s.resettable ∧ s.resetJob.isNone) :
    s.ptCtl p 3 = (((s.setEntN (Key.rstPtStat p) psReset).queueLoads [p]).releaseUnits
      (((s.setEntN (Key.rstPtStat p) psReset).queueLoads [p]).partUnits p)).status .ok := by
  rw [State.ptCtl, if_neg (by decide), if_pos rfl]
  exact if_pos h

theorem State.ptCtl_release_busy {s : State} {p : Nat} (h : s.partState p ≠ psHeld) : s.ptCtl p 3 = s.status .busy := by
  rw [State.ptCtl, if_neg (by decide), if_pos rfl]
  exact if_neg fun hc => h hc.1

theorem State.deviceCtlBy_of_ok {s : State} {rq : Requester} {op : Nat} (h : s.checkWrite rq Key.rstDeviceCtl (w64 op) = .ok) :
    s.deviceCtlBy rq op = s.deviceCtl op := by
  rw [State.deviceCtlBy, h]

/-- A WARM reset begins anew over a weaker one. -/
theorem State.deviceCtl_warm {s : State} (h : ∀ j, s.resetJob = some j → j.kind.rank < 2) :
    s.deviceCtl 1 = (s.warmReset 0).status .ok := by
  rw [State.deviceCtl, if_pos rfl]
  cases hj : s.resetJob with
  | none => rfl
  | some j => exact if_neg (Nat.not_le.2 (h j hj))

theorem State.deviceCtl_warm_busy {s : State} {j : ResetJob} (hj : s.resetJob = some j) (h : 2 ≤ j.kind.rank) :
    s.deviceCtl 1 = { s with resetJob := some { j with named := j.named ++ [resetWord .warm 0 1020 1] } }.status .busy := by
  rw [State.deviceCtl, if_pos rfl, hj]
  exact if_pos h

theorem State.deviceCtl_hold_busy {s : State} (h : s.phase < phPost) : s.deviceCtl 2 = s.status .busy := if_pos h

theorem State.deviceCtl_hold {s : State} (h : phPost ≤ s.phase) :
    s.deviceCtl 2 = (if s.dev = .hold then s else s.enterHold hcCommand).status .ok := if_neg (Nat.not_lt.2 h)

theorem execResetRelease_of_done {s : State} {j : ResetJob} (hj : s.resetJob = some j) (hr : j.kind.rank ≤ 1) (hp : j.purges = []) :
    execResetRelease s = .next (((j.parts.foldl (fun s q => if q.2 then s.setEntN (Key.rstPtStat q.1) psHeld else s.queueLoads [q.1]) s).noteReset
      j).releaseUnits j.scope) := by
  rw [execResetRelease, hj]
  exact if_pos ⟨hr, by rw [hp]; rfl⟩

theorem execResetRelease_of_purges {s : State} {j : ResetJob} (hj : s.resetJob = some j) (hp : j.purges ≠ []) :
    execResetRelease s = .next s := by
  rw [execResetRelease, hj]
  exact if_neg fun hc => hp (List.isEmpty_iff.1 hc.2)

theorem execResetRelease_of_none {s : State} (hj : s.resetJob = none) : execResetRelease s = .next s := by
  rw [execResetRelease, hj]

theorem execFlPartitionPurge_of_waited {s : State} {j : ResetJob} {p : Fin 8} (hj : s.resetJob = some j) (hp : j.purges.contains p.val = true) :
    execFlPartitionPurge p s = .next { s.purgePart p.val with resetJob := some { j with purges := j.purges.filter (· != p.val) } } := by
  rw [execFlPartitionPurge, hj]
  exact if_pos hp

theorem execFlPartitionPurge_of_none {s : State} {p : Fin 8} (hj : s.resetJob = none) : execFlPartitionPurge p s = .next s := by
  rw [execFlPartitionPurge, hj]

/-! HOLD (R460) -/

theorem State.fld_congr {s t : State} {k : Nat} (h : t.ent k = s.ent k) (hi lo : Nat) : t.fld k hi lo = s.fld k hi lo :=
  congrArg (fun v : U64 => bf v hi lo) h

theorem State.uartWrite_eq (s : State) (w : UartWord) : ∃ l, s.uartWrite w = { s with uart := l } := by
  rw [State.uartWrite]
  split
  · exact ⟨_, rfl⟩
  · exact ⟨s.uart, rfl⟩

theorem State.setPhase_of_run (s : State) {x : Nat} (h : x ≠ phReset) :
    s.setPhase x = (s.setFld Key.rstBootStat 63 60 x).uartWrite (.phase x) := if_neg h

/-- What the entry to HOLD leaves: the state of the device, and the boot's status with the cause (R460). -/
structure State.Held (s : State) (cause : Nat) : Prop where
  dev : s.dev = .hold
  faultN : s.faultN = false
  phase : s.phase = phHold
  cause : s.fld Key.rstBootStat 59 56 = cause

theorem State.Held.uartWrite {s : State} {c : Nat} (h : s.Held c) (w : UartWord) : (s.uartWrite w).Held c := by
  obtain ⟨l, hl⟩ := s.uartWrite_eq w
  rw [hl]
  exact ⟨h.dev, h.faultN, h.phase, h.cause⟩

theorem State.Held.record {s : State} {c : Nat} (h : s.Held c) (ty : Nat) (ws : List U64) : (s.record ty ws).Held c := by
  have he : (s.record ty ws).ent Key.rstBootStat = s.ent Key.rstBootStat := State.record_ent_ne s ty ws (by decide)
  obtain ⟨od, an, st, ev, lr, lf, hr⟩ := s.record_eq ty ws
  exact ⟨by rw [hr]; exact h.dev, by rw [hr]; exact h.faultN, (State.fld_congr he 63 60).trans h.phase, (State.fld_congr he 59 56).trans h.cause⟩

theorem State.Held.commitOpsec {s : State} {c : Nat} (h : s.Held c) : s.commitOpsec.Held c := by
  rw [State.commitOpsec]
  split
  · exact h
  · have he : ({ s.setEntN Key.evrOpsec (min (2 ^ 40 - 1) s.opsec) with pwrcycSt := s.pwrcyc } : State).ent Key.rstBootStat =
        s.ent Key.rstBootStat := State.ent_setEnt_ne s _ (by decide)
    exact ⟨h.dev, h.faultN, (State.fld_congr he 63 60).trans h.phase, (State.fld_congr he 59 56).trans h.cause⟩

/-- The phase and the cause, entered in a device that is in HOLD already. -/
theorem State.held_of_dev {s : State} {c : Nat} (hd : s.dev = .hold) (hf : s.faultN = false) (hc : c < 16) :
    ((s.setPhase phHold).setFld Key.rstBootStat 59 56 c).Held c := by
  obtain ⟨l, hl⟩ := (s.setFld Key.rstBootStat 63 60 phHold).uartWrite_eq (.phase phHold)
  rw [State.setPhase_of_run s (by decide), hl]
  refine ⟨hd, hf, ?_, ?_⟩
  · exact ((State.fld_setFld_other _ Key.rstBootStat 59 56 c 63 60 (by decide) (by decide) (by decide) (by decide)).trans
      (State.fld_setFld_self s Key.rstBootStat 63 60 phHold (by decide) (by decide))).trans (by decide)
  · exact (State.fld_setFld_self _ Key.rstBootStat 59 56 c (by decide) (by decide)).trans (Nat.mod_eq_of_lt hc)

theorem State.enterHold_held (s : State) {c : Nat} (hc : c < 16) : (s.enterHold c).Held c := by
  unfold State.enterHold
  extract_lets boot job s1 s2 s3 s4 s5 us s6 s7 s8 s9 s10
  have h8 : s9.Held c := ((State.held_of_dev rfl rfl hc).uartWrite _).commitOpsec
  have h10 : s10.Held c := h8.record _ _
  split
  · exact h10.record _ _
  · exact h10

/-! Pins and supplies (R444, R452, R459) -/

theorem execPinReset_of_low {s : State} (h : s.resetN = false) : execPinReset s = .next s := by
  rw [execPinReset, h]
  rfl

theorem execPinReset_of_unpowered {s : State} (h : s.resetN = true) (hp : s.pwrgood = false) :
    execPinReset s = .next { s with resetN := false } := by
  rw [execPinReset, h, hp]
  rfl

theorem execPinReset_of_powered {s : State} (h : s.resetN = true) (hp : s.pwrgood = true) :
    execPinReset s = .next { (s.deviceReset .pin 2 false).setPhase phReset with resetN := false } := by
  rw [execPinReset, h, hp]
  rfl

theorem execResetNRelease_of_high {s : State} (h : s.resetN = true) (b : BitVec 3) : execResetNRelease b s = .next s :=
  next_if_pos h

/-- RESET_N rises: the boot goes on where the supplies and the clocks are there. -/
theorem execResetNRelease_of_low {s : State} (h : s.resetN = false) (b : BitVec 3) :
    execResetNRelease b s = .next (if s.pwrgood ∧ !s.clocksStopped ∧ !s.thermTrip ∧ s.phase = phReset then
      { s with resetN := true, bootsel := b, bootRaw := s.raw.toNat }.bootFromRom
      else { s with resetN := true, bootsel := b, bootRaw := s.raw.toNat }) :=
  next_if_neg (by rw [h]; decide)

theorem boots_iff (s : State) : (s.pwrgood ∧ !s.clocksStopped ∧ !s.thermTrip ∧ s.phase = phReset) ↔
    s.pwrgood = true ∧ s.clocksStopped = false ∧ s.thermTrip = false ∧ s.phase = phReset := by
  simp

theorem execPor_pwrgood_of_good {s : State} (h : s.pwrgood = true) :
    execPor .pwrgood s = .next { s.porAon 3 with pwrgood := false, faultN := true } := next_if_pos h

theorem execPor_pwrgood_of_bad {s : State} (h : s.pwrgood = false) : execPor .pwrgood s = .next s :=
  next_if_neg (by rw [h]; decide)

theorem execPor_rail_of_bad {s : State} (h : s.pwrgood = false) (r : Fin 10) (x y : Nat) : execPor (.rail r x y) s = .next s :=
  next_if_pos (by rw [h]; rfl)

theorem execPor_rail_aon {s : State} (h : s.pwrgood = true) (x y : Nat) : execPor (.rail 3 x y) s = .next (s.porAon 4) := by
  rw [execPor, h]
  rfl

/-- A dip of another rail after the domains are down: its minimum and its length are kept and recorded, and the supplies start anew. -/
def State.dipped (s : State) (r x y : Nat) : State :=
  let dip := s.setEntN (Key.pwrRail r)
    (x % 2 ^ 15 * 2 ^ 48 + min 65535 (bf (s.ent (Key.pwrRail r)) 47 32 + 1) * 2 ^ 32 + min y (2 ^ 32 - 1))
  { dip.record 0x72 [w64 r, w64 x, w64 y] with
    warn := false, railLow := [], dips := [], mramWaits := [], thermTrip := false, bootRaw := dip.raw.toNat }

theorem execPor_rail {s : State} (h : s.pwrgood = true) {r : Fin 10} (hr : r ≠ 3) (x y : Nat) :
    execPor (.rail r x y) s = .next (
      let again := ((s.deviceReset .por 4 false).setPhase phReset).dipped r.val x y
      if again.resetN ∧ !again.clocksStopped then again.bootFromRom else again) :=
  (next_if_neg (by rw [h]; decide)).trans (next_if_neg hr)

/-- A POR of the always-on domain: the counter stands at zero, the clocks stand, staging is lost. -/
theorem State.porAon_fields (s : State) (n : Nat) :
    (s.porAon n).raw = 0 ∧ (s.porAon n).clocksStopped = true ∧ (s.porAon n).staged = [] ∧ (s.porAon n).aonPor = true := by
  unfold State.porAon
  rcases s.drawBelow 2 with ⟨w, s⟩
  dsimp -zeta only
  extract_lets ring torn u
  split <;> exact ⟨rfl, rfl, rfl, rfl⟩

theorem execPwrgoodRise_of_bad {s : State} (h : s.pwrgood = false) (b : BitVec 3) :
    execPwrgoodRise b s = .next { s with pwrgood := true, bootsel := b, bootRaw := s.raw.toNat, faultN := false, heartbeat := false } :=
  next_if_neg (by rw [h]; decide)

theorem execPwrgoodRise_of_good {s : State} (h : s.pwrgood = true) (b : BitVec 3) : execPwrgoodRise b s = .next s := next_if_pos h

/-! Self-test (R455, R456) -/

/-- The fencing that a self-test decides, unit by unit. -/
def State.fenceBy (s : State) (us : List Nat) (fenced : Nat → Bool) : State :=
  us.foldl (fun s u => s.setUn u { s.un u with fenced := fenced u }) s

@[simp] theorem State.fenceBy_mem (s : State) (us : List Nat) (fenced : Nat → Bool) : (s.fenceBy us fenced).mem = s.mem :=
   foldl_keeps State.mem (fun s u => s.setUn_mem u _) us s

theorem State.fenceBy_fenced_of_notMem (fenced : Nat → Bool) {us : List Nat} {q : Nat} (h : q ∉ us) (s : State) :
    ((s.fenceBy us fenced).un q).fenced = (s.un q).fenced := by
  induction us generalizing s with
  | nil => rfl
  | cons u us ih =>
    obtain ⟨hq, hus⟩ := not_or.1 (mt List.mem_cons.2 h)
    refine (ih hus _).trans ?_
    rw [State.un_setUn, if_neg hq]

theorem State.fenceBy_fenced (fenced : Nat → Bool) {us : List Nat} {q : Nat} (h : q ∈ us) (s : State) :
    ((s.fenceBy us fenced).un q).fenced = fenced q := by
  induction us generalizing s with
  | nil => exact absurd h List.not_mem_nil
  | cons u us ih =>
    by_cases hus : q ∈ us
    · exact ih hus _
    · refine (State.fenceBy_fenced_of_notMem fenced hus _).trans ?_
      have hq : q = u := (List.mem_cons.1 h).resolve_right hus
      rw [State.un_setUn, if_pos hq, hq]

/-- What says what a self-test found: the objects of the packs, of the control complex and lanes, the capacity, and of the HBM stacks. -/
def State.postPacks (s : State) (r : SelfTest) (fenced : Nat → Bool) : State :=
  (List.finRange 8).foldl (fun s p =>
    let q := p.val
    (s.setEntN (Key.rstPost q) (b01 (r.lbistFail.contains p) * 2 ^ 63 + b01 (r.pmFail.contains p) * 2 ^ 62 +
      b01 (r.knFail.contains p) * 2 ^ 61 + b01 (fenced (packUnit q)) * 2 ^ 60 + flags 18 (fun k => fenced (accUnit q k)) * 2 ^ 40 +
      flags 8 (fun c => fenced (512 + 8 * q + c)) * 2 ^ 32)).setEntN (Key.rstPostTiles q) (flags 64 (fun t => fenced (64 * q + t)))) s

def State.postRest (s : State) (r : SelfTest) (fenced : Nat → Bool) (lane : Nat → Bool) : State :=
  let s := s.setEntN Key.rstPostCc (b01 r.l3Fail * 2 ^ 63 + b01 r.spineFail * 2 ^ 62 + b01 r.rootFail * 2 ^ 61 +
    b01 r.timebaseFail * 2 ^ 60 + flags 16 (fun c => fenced (coreUnit c)))
  (s.setEntN (Key.rstPostLanes 0) (flags 64 lane)).setEntN (Key.rstPostLanes 1) (flags 64 (fun l => lane (64 + l)))

def State.postHbm (s : State) (r : SelfTest) (fenced : Nat → Bool) : State :=
  (List.range 4).foldl (fun s n => s.setEntN (Key.memHbmStat n)
    (b01 (!(fenced (1016 + n))) * 2 ^ 63 + flags 32 (fun i => r.channels.any (fun c => c.val == 32 * n + i)))) s

/-- The record of a self-test. -/
def State.postRecord (s : State) : State :=
  s.record 4 ((List.range 8).flatMap (fun p => [s.ent (Key.rstPost p), s.ent (Key.rstPostTiles p)]) ++
    [s.ent Key.rstPostCc, s.ent (Key.rstPostLanes 0), s.ent (Key.rstPostLanes 1), s.ent Key.idCapacity] ++
    (List.range 4).map (fun n => s.ent (Key.memHbmStat n)))

/-- The device after a self-test that found the capacity cap. -/
def State.posted (s : State) (r : SelfTest) (cap : Nat) : State :=
  let fenced := fun u => (selfFences r).contains u
  let lane := fun l => r.lanes.any (fun x => x.val == l)
  let s := ((s.zeroAll.fenceBy allUnits fenced).postPacks r fenced).postRest r fenced lane
  (((s.setEntN Key.idCapacity cap).postHbm r fenced).bootTime 47 32).postRecord

/-- What entries and a record leave alone, a self-test leaves as the fencing left it. -/
theorem State.posted_keeps {β : Type} (g : State → β) (he : ∀ s k n, g (State.setEntN s k n) = g s)
    (hr : ∀ s ty ws, g (State.record s ty ws) = g s) (hb : ∀ s, g (State.bootTime s 47 32) = g s) (s : State) (r : SelfTest) (cap : Nat) :
    g (s.posted r cap) = g (s.zeroAll.fenceBy allUnits (fun u => (selfFences r).contains u)) := by
  unfold State.posted
  extract_lets fenced lane u
  calc g _ = g (((u.setEntN Key.idCapacity cap).postHbm r fenced).bootTime 47 32) := hr _ _ _
    _ = g ((u.setEntN Key.idCapacity cap).postHbm r fenced) := hb _
    _ = g (u.setEntN Key.idCapacity cap) := foldl_keeps g (fun _ _ => he _ _ _) _ _
    _ = g u := he _ _ _
    _ = g ((s.zeroAll.fenceBy allUnits fenced).postPacks r fenced) := (he _ _ _).trans ((he _ _ _).trans (he _ _ _))
    _ = g (s.zeroAll.fenceBy allUnits fenced) := foldl_keeps g (fun _ _ => (he _ _ _).trans (he _ _ _)) _ _

theorem State.posted_mem (s : State) (r : SelfTest) (cap : Nat) : (s.posted r cap).mem = s.zeroAll.mem :=
  (State.posted_keeps State.mem (fun _ _ _ => rfl) State.record_mem (fun _ => rfl) s r cap).trans (State.fenceBy_mem _ _ _)

theorem mem_allUnits {q : Nat} (hq : q < 1024) (h : unitKind q ≠ 0) : q ∈ allUnits :=
  List.mem_filter.2 ⟨List.mem_range.2 hq, bne_iff_ne.2 h⟩

theorem State.posted_fenced (s : State) (r : SelfTest) (cap : Nat) {q : Nat} (hq : q ∈ allUnits) :
    ((s.posted r cap).un q).fenced = (selfFences r).contains q :=
  (congrArg UnitSt.fenced (State.posted_keeps (fun s => s.un q) (fun _ _ _ => rfl) (fun s ty ws => s.record_un ty ws q) (fun _ => rfl) s r
    cap)).trans (State.fenceBy_fenced _ hq _)

theorem State.ent_foldl_setEntN_ne (f g : Nat → Nat) {k : Nat} {ns : List Nat} (h : ∀ n ∈ ns, k ≠ f n) (s : State) :
    (ns.foldl (fun s n => s.setEntN (f n) (g n)) s).ent k = s.ent k := by
  induction ns generalizing s with
  | nil => rfl
  | cons n ns ih =>
    exact (ih (fun m hm => h m (List.mem_cons_of_mem n hm)) _).trans (s.ent_setEnt_ne _ (h n List.mem_cons_self))

theorem State.posted_capacity (s : State) (r : SelfTest) (cap : Nat) : (s.posted r cap).ent Key.idCapacity = w64 cap := by
  unfold State.posted
  extract_lets fenced lane u
  calc _ = (((u.setEntN Key.idCapacity cap).postHbm r fenced).bootTime 47 32).ent Key.idCapacity := State.record_ent_ne _ _ _ (by decide)
    _ = ((u.setEntN Key.idCapacity cap).postHbm r fenced).ent Key.idCapacity := State.ent_setFld_ne _ _ _ _ (by decide)
    _ = (u.setEntN Key.idCapacity cap).ent Key.idCapacity :=
      State.ent_foldl_setEntN_ne Key.memHbmStat _ (by decide) _
    _ = w64 cap := State.ent_setEnt_self _ _ _

theorem execSelfTestDone_of_other {s : State} (h : s.phase ≠ phPost) (r : SelfTest) : execSelfTestDone r s = .next s := if_pos h

/-- A self-test ends in HOLD, for a part that cannot run or that the policy refuses, or in LOAD. -/
theorem execSelfTestDone_of_post {s : State} (h : s.phase = phPost) (r : SelfTest) :
    let fenced := fun u => (selfFences r).contains u
    let packs := 8 - (List.range 8).countP (fun p => fenced (packUnit p))
    let hbms := 4 - (List.range 4).countP (fun n => fenced (1016 + n))
    let cores := 16 - (List.range 16).countP (fun c => fenced (coreUnit c))
    let tiles := 512 - (List.range 512).countP fenced
    let lanes := 128 - (List.range 128).countP (fun l => r.lanes.any (fun x => x.val == l))
    let t := s.posted r (packs * 2 ^ 56 + hbms * 2 ^ 48 + tiles * 2 ^ 32 + lanes)
    let pol := t.ent Key.rstBootPolicy
    execSelfTestDone r s = .next (
      if r.rootFail ∨ r.l3Fail ∨ r.spineFail ∨ cores < 2 ∨ hbms = 0 ∨ r.timebaseFail then t.enterHold hcCommon
      else if (bit pol 63 ∧ (packs < 8 ∨ hbms < 4 ∨ cores < 16)) ∨ packs < bf pol 59 56 ∨ hbms < bf pol 55 53 ∨ cores < bf pol 52 48 ∨
          lanes < bf pol 15 0 then t.enterHold hcPolicy
      else t.enterLoad) := if_neg (not_not_intro h)

/-! Loading and READY (R453, R522) -/

theorem execFwLoadDone_of_head {s : State} {p : Fin 8} (h : s.loadQueue.head? = some p.val) (hl : s.partState p.val = psLoading)
    (fl : FlashHealth) : execFwLoadDone p fl s = .next (
      let loaded := { s.fwLoad p.val fl with loadQueue := s.loadQueue.drop 1 }.loadNext
      if loaded.phase = phLoad ∧ loaded.loadQueue.isEmpty then loaded.enterStart else loaded.checkReady) := if_pos ⟨h, hl⟩

theorem execFwLoadDone_of_other {s : State} {p : Fin 8} (h : s.loadQueue.head? ≠ some p.val) (fl : FlashHealth) :
    execFwLoadDone p fl s = .next s := if_neg fun hc => h hc.1

theorem execPartitionReady_of_ok {s : State} {rq : Requester} {p : Fin 8} (h : s.checkWrite rq (Key.rstPtStat p.val) (w64 (2 ^ 63)) = .ok) :
    execPartitionReady rq p s = .next (s.readyWrite rq p.val (w64 (2 ^ 63))) := by
  unfold execPartitionReady
  extract_lets v
  rw [h]

theorem State.readyWrite_of_running {s : State} {rq : Requester} {p : Nat} (ha : s.actsFor rq p = true) (hr : s.partState p = psRunning)
    (v : U64) : s.readyWrite rq p v = ((s.setFlag (Key.rstPtStat p) 63 (bit v 63)).checkReady).status .ok :=
  (if_neg (by rw [ha]; decide)).trans (if_neg (not_not_intro hr))

theorem State.readyWrite_of_other {s : State} {rq : Requester} {p : Nat} (ha : s.actsFor rq p = true) (hr : s.partState p ≠ psRunning)
    (v : U64) : s.readyWrite rq p v = s.status .busy :=
  (if_neg (by rw [ha]; decide)).trans (if_pos hr)

/-- Settles O49. -/
theorem resetsBoot : Obligations.ResetsBoot := by
  intro s rq u p j b st fl r x y
  refine ⟨execOdUnitReset_of_none, ?_, ?_, ?_, fun h => State.unitReset_of_not_resettable h _ _, ?_, ?_, ?_,
    fun hold h => State.partReset_of_not_resettable h _ _ _, ?_, ?_, execResetRelease_of_done, execResetRelease_of_purges, ?_,
    execFlPartitionPurge_of_waited, ?_, ?_, ?_, ?_, ?_, ?_, execPinReset_of_low, execPinReset_of_unpowered, execPinReset_of_powered,
    fun h => execResetNRelease_of_high h b, ?_, ?_, execPor_pwrgood_of_good, s.porAon_fields 3, ?_, ?_, ?_,
    fun h => execPwrgoodRise_of_bad h b, fun h => execPwrgoodRise_of_good h b, fun h => execSelfTestDone_of_other h st, ?_, ?_, ?_, ?_, ?_⟩
  · intro h hu
    exact (execOdUnitReset_of_ok h.1 h.2).trans (congrArg Host.Outcome.next (State.odReset_of_refusing hu))
  · intro h hu
    exact (execOdUnitReset_of_ok h.1 h.2).trans (congrArg Host.Outcome.next (State.odReset_of_resetting hu))
  · intro hr hj
    exact (State.unitReset_of_resettable hr _ _).trans (State.requestReset_of_none hj _ _ _ _ _)
  · intro h
    exact congrArg Host.Outcome.next ((State.ptCtlBy_of_ok h).trans (s.ptCtl_of_reset (Or.inl rfl)))
  · intro h
    exact congrArg Host.Outcome.next ((State.ptCtlBy_of_ok h).trans (s.ptCtl_of_reset (Or.inr rfl)))
  · intro hold hr hj
    exact (State.partReset_of_resettable hr _ _ _).trans (State.requestReset_of_none hj _ _ _ _ _)
  · intro h hp hr hj
    exact congrArg Host.Outcome.next ((State.ptCtlBy_of_ok h).trans (State.ptCtl_release ⟨hp, hr, by rw [hj]; rfl⟩))
  · intro h hp
    exact congrArg Host.Outcome.next ((State.ptCtlBy_of_ok h).trans (State.ptCtl_release_busy hp))
  · exact fun hj => ⟨execResetRelease_of_none hj, execFlPartitionPurge_of_none hj⟩
  · intro h hj
    exact congrArg Host.Outcome.next ((State.deviceCtlBy_of_ok h).trans (State.deviceCtl_warm hj))
  · intro h hj hr
    exact congrArg Host.Outcome.next ((State.deviceCtlBy_of_ok h).trans (State.deviceCtl_warm_busy hj hr))
  · intro h hp
    exact congrArg Host.Outcome.next ((State.deviceCtlBy_of_ok h).trans (State.deviceCtl_hold_busy hp))
  · intro h hp hd
    refine congrArg Host.Outcome.next ((State.deviceCtlBy_of_ok h).trans ((State.deviceCtl_hold hp).trans ?_))
    rw [if_neg hd]
  · intro h hp hd
    refine congrArg Host.Outcome.next ((State.deviceCtlBy_of_ok h).trans ((State.deviceCtl_hold hp).trans ?_))
    rw [if_pos hd]
  · have h := s.enterHold_held (c := hcCommand) (by decide)
    exact ⟨h.dev, h.phase, h.faultN, h.cause⟩
  · exact fun h hb => (execResetNRelease_of_low h b).trans (next_if_pos ((boots_iff s).2 hb))
  · exact fun h hb => (execResetNRelease_of_low h b).trans (next_if_neg (mt (boots_iff s).1 hb))
  · exact fun h => ⟨execPor_pwrgood_of_bad h, execPor_rail_of_bad h r x y⟩
  · intro h hr
    refine (execPor_rail h hr x y).trans ?_
    simp only [Bool.not_eq_true']
    rfl
  · intro h hr
    subst hr
    exact execPor_rail_aon h x y
  · intro h
    refine ⟨s.posted st _, s.posted_mem st _, fun q hq => s.posted_fenced st _ (mem_allUnits q.isLt hq), s.posted_capacity st _, ?_, ?_, ?_⟩
    · exact fun hc => (execSelfTestDone_of_post h st).trans (next_if_pos hc)
    · exact fun hc hp => (execSelfTestDone_of_post h st).trans ((next_if_neg hc).trans (next_if_pos hp))
    · exact fun hc hp => (execSelfTestDone_of_post h st).trans ((next_if_neg hc).trans (next_if_neg hp))
  · exact fun h hl => execFwLoadDone_of_head h hl fl
  · exact fun h => execFwLoadDone_of_other h fl
  · exact fun h hr => (execPartitionReady_of_ok h.1).trans (congrArg Host.Outcome.next (State.readyWrite_of_running h.2 hr _))
  · exact fun h hr => (execPartitionReady_of_ok h.1).trans (congrArg Host.Outcome.next (State.readyWrite_of_other h.2 hr _))
end Sys2Proof.Machine
end

section
/-!
PROOFS. Sheepdog (R421, R492 to R505): what each expiry answers, ends and charges, the timers, quarantine and return, and with them the
statement O52.
-/
namespace Sys2Proof.Machine

variable {s : State}

/-! L0 (R492) -/

theorem execShdL0Expiry_core {c : Fin 16} {a : Addr} (h : s.coreRuns c.val = true) :
    execShdL0Expiry (.core c a) s = .next ((s.answer .fault).chargeUnit 0 ((s.answer .fault).l0Unit a.toNat) saAbort a.toNat) :=
  next_if_pos h

theorem execShdL0Expiry_core_of_stopped {c : Fin 16} {a : Addr} (h : s.coreRuns c.val = false) :
    execShdL0Expiry (.core c a) s = .next s := next_if_neg (by rw [h]; decide)

theorem execShdL0Expiry_dmaRead {n : Fin 272} {r : Xfer} (h : (s.ch n.val).reads.find? s.l0Expired = some r) :
    execShdL0Expiry (.dmaRead n) s = .next (if r.again
      then (s.dmaReadDone n r .timeout []).chargeUnit 0 ((s.dmaReadDone n r .timeout []).l0Unit r.addr) saAbort r.addr
      else (s.dmaReissue n r).chargeUnit 0 ((s.dmaReissue n r).l0Unit r.addr) saRetry r.addr) := by
  simp only [execShdL0Expiry, h]

theorem execShdL0Expiry_dmaWrite {n : Fin 272} {w : Xfer} (h : (s.ch n.val).writes.find? s.l0Expired = some w) :
    execShdL0Expiry (.dmaWrite n) s =
      .next ((s.dmaWriteDone n w .timeout).chargeUnit 0 ((s.dmaWriteDone n w .timeout).l0Unit w.addr) saAbort w.addr) := by
  simp only [execShdL0Expiry, h]

theorem execShdL0Expiry_tileStore {t : Fin 512} {a : BitVec 32} {d : Nat} (h : tileDev t.val a.toNat 1 = some d)
    (hr : (s.tl t.val).st = .running) : execShdL0Expiry (.tileStore t a) s = .next (s.chargeUnit 0 (s.l0Unit d) saAbort d) := by
  simp only [execShdL0Expiry, h]
  exact next_if_pos hr

theorem execShdL0Expiry_tileLoad {t : Fin 512} {a : BitVec 32} {d : Nat} (h : tileDev t.val a.toNat 1 = some d)
    (hr : (s.tl t.val).st = .running) :
    let noted := s.setTl t.val ((s.tl t.val).notePoison (some a.toNat))
    execShdL0Expiry (.tileLoad t a) s = .next (noted.chargeUnit 0 (noted.l0Unit d) saAbort d) := by
  simp only [execShdL0Expiry, h]
  exact next_if_pos hr

theorem execShdL0Expiry_accel {p : Fin 8} {k : Fin 17} {a : Addr} {wr : Bool} (h : (s.taskOn (accUnit p.val k.val)).isSome = true) :
    let failed := s.failJob p k (if wr then jsWrite else jsRead)
    execShdL0Expiry (.accel p k a wr) s = .next (failed.chargeUnit 0 (failed.l0Unit a.toNat) saAbort a.toNat) := next_if_pos h

/-! L1 (R97, R497, R507) -/

/-- What a task too long ends, by the kind of the unit that runs it. -/
def State.endLong (s : State) (p i : Nat) : State :=
  let u := (s.entry p i).unit
  match unitKind u with
  | 1 => (((s.endTask p i ksAborted).untask u).setAbort u).abortFrom u
  | 5 => (s.endTask p i ksAborted).abortFrom u
  | 4 => if h : (u - 584) / 32 < 8 ∧ (u - 584) % 32 < 17 then s.abortJob ⟨_, h.1⟩ ⟨_, h.2⟩ else s.endTask p i ksAborted
  | _ => s.endTask p i ksAborted

/-- A Terrier segment of pack p that was the task of unit u has failed. -/
def State.failSegment (s : State) (p u : Nat) : State :=
  let cut := { s with segment := tdel s.segment p }
  if (cut.un u).retest then cut.retestFailed u (w64 (2 ^ 48)) 0 else cut.terFail u (w64 (2 ^ 48)) 0 (cut.flag Key.terCfg 59)

/-- A task too long is ended; a Terrier segment that it was has failed; its unit is charged. -/
theorem execShdL1Expiry_of_long {p : Fin 8} {e : BitVec 15} (h : s.l1Expired p.val e.toNat = true) :
    let x := s.entry p.val e.toNat
    let seg := (tfind s.segment p.val).any (fun g => g.kind == 0 && g.entry == e.toNat && g.unit == x.unit)
    let ended := s.endLong p.val e.toNat
    execShdL1Expiry p e s = .next ((if seg then ended.failSegment p.val x.unit else ended).chargeUnit 1 x.unit saAbort x.desc.tag) := by
  intro x seg ended
  unfold execShdL1Expiry
  extract_lets i y u ter done
  have hseg : seg = ter := by
    simp only [seg, ter]
    cases tfind s.segment p.val <;> rfl
  rw [if_pos h, hseg]
  rfl

theorem execShdL1Expiry_of_short {p : Fin 8} {e : BitVec 15} (h : s.l1Expired p.val e.toNat = false) : execShdL1Expiry p e s = .next s :=
  if_neg (by rw [h]; decide)

/-! L2 to L4 (R492 to R499) -/

theorem execShdL3Expiry_of_starved {p : Fin 8} (h : s.partState p.val = psRunning ∧ tget 0 s.petRaw p.val + s.l3Limit p.val ≤ s.raw.toNat) :
    let l3 := s.charge 3 (.part p) saAbort 0
    execShdL3Expiry p s = .next (if l3.partState p.val = psRunning
      then { l3 with petRaw := tput (tput l3.petRaw p.val l3.raw.toNat) (8 + p.val) 1 } else l3) := next_if_pos h

theorem execShdL4Expiry_of_dead (h : s.phase = phReady ∧ s.l4Last + usTicks (s.entN Key.shdL4Limit) ≤ s.raw.toNat) :
    execShdL4Expiry s = .next ({ s.setLadder 4 (.unit 1020) 0 0 with
      postNext := decide (s.shdLastAt 4 (.unit 1020) ≠ 0) && !(s.windowPassed 4 (.unit 1020)) }.charge 4 (.unit 1020) saCounted 0) :=
  next_if_pos h

theorem execShdWindowReset_of_passed {l : Fin 5} {x : ChargedUnit} (h : s.windowPassed l.val x = true) :
    execShdWindowReset l x s = .next (s.setLadder l.val x 0 0) := next_if_pos h

theorem execShdWindowReset_of_open {l : Fin 5} {x : ChargedUnit} (h : s.windowPassed l.val x = false) : execShdWindowReset l x s = .next s :=
  next_if_neg (by rw [h]; decide)

/-- An ABORT that its unit does not take in time. -/
def State.Untaken (s : State) (u : Nat) : Prop :=
  ((u < 512 ∧ (s.tl u).ipend.toNat % 2 = 1 ∧ (s.tl u).st ≠ .reset) ∨ (unitKind u = 5 ∧ s.coreRuns (u - 840) = true)) ∧
    s.abortUntaken u = true ∧ (s.un u).quar = false ∧ s.mayQuarantine u = true

theorem State.untaken_iff (s : State) (u : Nat) :
    (((decide (u < 512) && (s.tl u).ipend.toNat % 2 == 1 && (s.tl u).st != .reset) ∨ (unitKind u = 5 ∧ s.coreRuns (u - 840))) ∧
      s.abortUntaken u ∧ !((s.un u).quar) ∧ s.mayQuarantine u) ↔ s.Untaken u := by
  simp [State.Untaken, and_assoc]

theorem execShdAbortUntaken_of_untaken {u : Fin 1024} (h : s.Untaken u.val) :
    let step := (s.ladder 1 (.unit u)).1
    let count := (s.ladder 1 (.unit u)).2
    let stuck := (s.setLadder 1 (.unit u) (max step 1) count).record 0x81 [1, w64 u.val, 2, w64 count, w64 (max step 1)]
    execShdAbortUntaken u s =
      .next ((stuck.setUn u.val { stuck.un u.val with abortRaw := none }).sheepIrq.quarantine u.val 3 true) :=
  next_if_pos ((s.untaken_iff u.val).2 h)

theorem execShdAbortUntaken_of_taken {u : Fin 1024} (h : ¬ s.Untaken u.val) : execShdAbortUntaken u s = .next s :=
  next_if_neg (mt (s.untaken_iff u.val).1 h)

theorem execDeviceCheck_of_due (h : s.phase = phReady ∧ s.checkRaw + 245760 ≤ s.raw.toNat) (ok : Bool) :
    execDeviceCheck ok s = .next (if ok then { s with checkRaw := s.raw.toNat, l4Last := s.raw.toNat, heartbeat := !s.heartbeat }
      else { s with checkRaw := s.raw.toNat }) := next_if_pos h

/-! Quarantine and return (R421, R503 to R505) -/

theorem State.odCtlBy_of_ok {rq : Requester} {u op : Nat} (h : unitKind u ≠ 0 ∧ s.checkWrite rq (Key.odCtl u) (w64 op) = .ok) :
    s.odCtlBy rq u op = s.odCtlWrite u op := by
  rw [State.odCtlBy, if_neg h.1, h.2]

theorem State.odQuar_of_may {u : Nat} (h : s.mayQuarantine u = true) : s.odQuar u = (s.quarantine u 0 false).status .ok := if_pos h

theorem State.odQuar_of_not {u : Nat} (h : s.mayQuarantine u = false) : s.odQuar u = s.status .range := if_neg (by rw [h]; decide)

theorem State.odRelease_of_quarantined {u : Nat} (hq : (s.un u).quar = true) (hr : (s.un u).retest = false) :
    s.odRelease u = (s.releaseQuar u).status .ok := if_pos ⟨hq, by rw [hr]; rfl⟩

theorem State.odRelease_of_free {u : Nat} (hq : (s.un u).quar = false) : s.odRelease u = s.status .busy :=
  if_neg (by rw [hq]; exact fun h => Bool.noConfusion h.1)

theorem autoReturn_iff (x : UnitSt) (n raw : Nat) :
    (x.quar ∧ x.autoReturn ∧ !x.retest ∧ n ≠ 0 ∧ x.quarSince + n * secTicks ≤ raw) ↔
      (x.quar = true ∧ x.autoReturn = true ∧ x.retest = false ∧ n ≠ 0 ∧ x.quarSince + n * secTicks ≤ raw) := by
  simp

/-- A failure that the ladder is not asked about leaves what entries and records leave. -/
theorem State.terFail_keeps {β : Type} (g : State → β) (he : ∀ s k v, g (State.setEnt s k v) = g s)
    (hr : ∀ s ty ws, g (State.record s ty ws) = g s) (s : State) (u : Nat) (w sig : U64) : g (s.terFail u w sig false) = g s := by
  unfold State.terFail
  extract_lets noted counted told
  have hn : g noted = g s := (he _ _ _).trans (he _ _ _)
  have hc : g counted = g s := by
    cases hp : unitPack u with
    | none =>
      simp only [counted, hp]
      exact hn
    | some p =>
      simp only [counted, hp]
      exact (he _ _ _).trans hn
  rw [if_neg (fun h => Bool.noConfusion h.1)]
  exact (hr _ _ _).trans hc

/-- The requesters that are absent are masked. -/
def State.maskAbsent (s : State) : State := (List.range 24).foldl (fun s r => if s.present r then s else s.maskReq r) s

/-- The unit stays quarantined, its retest over. -/
def State.overQuar (s : State) (u : Nat) : State :=
  let s := s.setUn u { s.un u with retest := false, retestFail := none }
  { s.setFld (Key.shdQuar u) 62 60 4 with retests := s.retests.filter (· != u) }

theorem State.maskAbsent_keeps {β : Type} (g : State → β) (hm : ∀ s r, g (State.maskReq s r) = g s) (s : State) :
    g s.maskAbsent = g s := by
  refine foldl_keeps g (fun s r => ?_) _ s
  split
  · rfl
  · exact hm s r

theorem State.record_retests (s : State) (ty : Nat) (ws : List U64) : (s.record ty ws).retests = s.retests := by
  obtain ⟨od, an, st, ev, lr, lf, h⟩ := s.record_eq ty ws
  rw [h]

/-- A retest that failed leaves what entries, records and masks leave. -/
theorem State.failedRetest_keeps {β : Type} (g : State → β) (he : ∀ s k v, g (State.setEnt s k v) = g s)
    (hr : ∀ s ty ws, g (State.record s ty ws) = g s) (hm : ∀ s r, g (State.maskReq s r) = g s) (s : State) (u : Nat) (w sig : U64)
    (ws : List U64) :
    g ((s.maskAbsent.terFail u w sig false).record 0x82 ws) = g s :=
  (hr _ _ _).trans ((State.terFail_keeps g he hr _ u w sig).trans (State.maskAbsent_keeps g hm s))

theorem execRetestDone_of_tested {u : Fin 1024} (h : (s.un u.val).quar = true ∧ (s.un u.val).retest = true ∧ s.segsDone u.val = true) :
    execRetestDone u s = .next (match (s.un u.val).retestFail with
      | none => s.returnUnit u.val 0
      | some (w, sig) => ((s.overQuar u.val).maskAbsent.terFail u.val w sig false).record 0x82 [w64 u.val, 1]) := next_if_pos h

/-- Settles O52. -/
theorem sheepdogActions : Obligations.SheepdogActions := by
  intro s rq c a p e cr q l x u ch xr tile la d k wr sig
  refine ⟨execShdL0Expiry_core, execShdL0Expiry_core_of_stopped, ?_, ?_, execShdL0Expiry_dmaWrite,
    fun h hr => ⟨execShdL0Expiry_tileStore h hr, execShdL0Expiry_tileLoad h hr⟩, execShdL0Expiry_accel, ?_, ?_, execShdL1Expiry_of_short,
    fun h => if_pos h, fun h => if_neg h, execShdL3Expiry_of_starved, fun h => next_if_neg h, execShdL4Expiry_of_dead,
    fun h => next_if_neg h, execShdWindowReset_of_passed, execShdWindowReset_of_open, execShdAbortUntaken_of_untaken,
    execShdAbortUntaken_of_taken, ?_, fun h => execDeviceCheck_of_due h true, fun h => execDeviceCheck_of_due h false,
    fun h => next_if_neg h, ?_, ?_, ?_, ?_, ?_, ?_, ?_, ?_, ?_⟩
  · intro h hr
    refine (execShdL0Expiry_dmaRead h).trans (next_if_neg (by rw [hr]; decide))
  · intro h hr
    exact (execShdL0Expiry_dmaRead h).trans (next_if_pos hr)
  · intro h hs
    refine (execShdL1Expiry_of_long h).trans ?_
    rw [if_neg (Bool.eq_false_iff.1 hs)]
    rfl
  · intro h hs
    refine (execShdL1Expiry_of_long h).trans ?_
    rw [if_pos hs]
    rfl
  · exact fun h => congrArg Host.Outcome.next (State.guarded_of_ok h _ _)
  · exact fun h hm => congrArg Host.Outcome.next ((State.odCtlBy_of_ok h).trans (State.odQuar_of_may hm))
  · exact fun h hm => congrArg Host.Outcome.next ((State.odCtlBy_of_ok h).trans (State.odQuar_of_not hm))
  · exact fun h hq hr => congrArg Host.Outcome.next ((State.odCtlBy_of_ok h).trans (State.odRelease_of_quarantined hq hr))
  · exact fun h hq => congrArg Host.Outcome.next ((State.odCtlBy_of_ok h).trans (State.odRelease_of_free hq))
  · exact fun h => next_if_pos ((autoReturn_iff _ _ _).2 h)
  · exact fun h => next_if_neg (mt (autoReturn_iff _ _ _).1 h)
  · intro h hf
    refine (execRetestDone_of_tested h).trans ?_
    rw [hf]
  · intro h hf
    obtain ⟨v, sg⟩ := sig
    have hun := (State.failedRetest_keeps (fun s => s.un u.val) (fun _ _ _ => rfl) (fun s ty ws => s.record_un ty ws u.val)
      (fun _ _ => rfl) (s.overQuar u.val) u.val v sg [w64 u.val, 1]).trans ((s.un_setUn u.val u.val _).trans (if_pos rfl))
    have hre := State.failedRetest_keeps State.retests (fun _ _ _ => rfl) State.record_retests (fun _ _ => rfl) (s.overQuar u.val) u.val v sg
      [w64 u.val, 1]
    have hmem := State.failedRetest_keeps State.mem (fun _ _ _ => rfl) State.record_mem (fun _ _ => rfl) (s.overQuar u.val) u.val v sg
      [w64 u.val, 1]
    refine ⟨((s.overQuar u.val).maskAbsent.terFail u.val v sg false).record 0x82 [w64 u.val, 1], (execRetestDone_of_tested h).trans ?_,
      congrArg UnitSt.retest hun, (congrArg UnitSt.quar hun).trans h.1, ?_, hmem⟩
    · rw [hf]
    · rw [hre]
      exact Bool.eq_false_iff.2 (fun hc => by simpa [State.overQuar] using List.contains_iff_mem.1 hc)
  · exact fun h => next_if_neg h
end Sys2Proof.Machine
end

section
/-!
PROOFS. Properties of memory, and the rules by which an operation keeps them. `s.Has K` says that s has the property K. An operation
that leaves memory, its parity and the merge entries as they are keeps it by `upd`, one that drops some of them by `less`, and every
byte that a command writes goes through `State.store`. A few operations need more of the property: that a flush of merge entries keeps
it (`Quiet`), or that wrong parity and merge entries may be added (`Marks`).
-/
namespace Sys2Proof.Machine

theorem tget_tdrop {α : Type} (d : α) (t : Tab α) (p : Nat → Bool) (i : Nat) :
    tget d (tdrop t p) i = if p i then d else tget d t i := by
  induction t with
  | nil => simp [tdrop, tget]
  | cons e r ih =>
    obtain ⟨k, v⟩ := e
    have ih' : tget d (List.filter (fun e => !p e.1) r) i = if p i then d else tget d r i := ih
    by_cases hp : p k = true
    · rw [tdrop, List.filter_cons_of_neg (by simpa using hp), ih', tget]
      by_cases hk : k = i
      · rw [if_pos (hk ▸ hp), if_pos (hk ▸ hp)]
      · rw [if_neg hk]
    · rw [tdrop, List.filter_cons_of_pos (by simpa using hp), tget, tget, ih']
      by_cases hk : k = i
      · rw [if_pos hk, if_pos hk, if_neg (hk ▸ hp)]
      · rw [if_neg hk, if_neg hk]

/-- A property of memory: what is dropped, and what is stored with good parity, does not break it. -/
structure MemProp where
  holds : State → Prop
  less : ∀ {s t : State}, holds s → (t.mem = s.mem ∨ ∃ p, t.mem = s.mem.filter p) →
    (∀ i, tget false t.fresh i = true → tget false s.fresh i = true) → t.merges ⊆ s.merges → holds t
  store : ∀ {s : State} (a : Nat) (bs : List Byte), holds s → holds (s.store a bs)

/-- The property outlasts the flush of merge entries. -/
class MemProp.Quiet (K : MemProp) : Prop where
  flushOver : ∀ {s : State} (r a n : Nat), K.holds s → K.holds (s.flushOver r a n)
  flushFor : ∀ {s : State} (r : Nat), K.holds s → K.holds (s.flushFor r)

/-- The property outlasts wrong parity and new merge entries. -/
class MemProp.Marks (K : MemProp) : Prop where
  fresh : ∀ {s : State} (f : Tab Bool), K.holds s → K.holds { s with fresh := f }
  merge : ∀ {s : State} (l : List Merge), K.holds s → K.holds { s with merges := l }

variable {K : MemProp}

/-- A state has a property of memory. -/
def State.Has (K : MemProp) (s : State) : Prop := K.holds s

/-- An outcome completes, and its state has a property of memory. -/
def Out.Has (K : MemProp) : Out → Prop
  | .next t => t.Has K
  | _ => False

/-! Rules for the forms that meanings are written in -/

theorem State.Has.ite {c : Prop} [Decidable c] {a b : State} (ha : a.Has K) (hb : b.Has K) : (if c then a else b).Has K := by
  split
  · exact ha
  · exact hb

theorem State.Has.dite {c : Prop} [Decidable c] {a : c → State} {b : ¬ c → State} (ha : ∀ h, (a h).Has K) (hb : ∀ h, (b h).Has K) :
    (if h : c then a h else b h).Has K := by
  split
  · exact ha _
  · exact hb _

theorem Out.Has.ite {c : Prop} [Decidable c] {a b : Out} (ha : a.Has K) (hb : b.Has K) : (if c then a else b : Out).Has K := by
  split
  · exact ha
  · exact hb

theorem foldl_of_step {α β : Type} {f : β → α → β} {l : List α} {b : β} (Q : β → Prop) (hb : Q b) (hf : ∀ b a, Q b → Q (f b a)) :
    Q (l.foldl f b) := by
  induction l generalizing b with
  | nil => exact hb
  | cons a l ih => exact ih (hf b a hb)

theorem State.Has.foldl {α : Type} {f : State → α → State} {l : List α} {s : State} (h : s.Has K)
    (hf : ∀ s a, s.Has K → (f s a).Has K) : (l.foldl f s).Has K :=
  foldl_of_step (State.Has K) h hf

theorem has_of_fst_eq {β : Type} {p : State × β} {t : State} {b : β} (h : p.1.Has K) (he : p = (t, b)) : t.Has K := by
  rw [he] at h
  exact h

theorem has_of_snd_eq {β : Type} {p : β × State} {t : State} {b : β} (h : p.2.Has K) (he : p = (b, t)) : t.Has K := by
  rw [he] at h
  exact h

theorem State.Has.upd {s t : State} (h : s.Has K) (he : (t.mem, t.fresh, t.merges) = (s.mem, s.fresh, s.merges)) : t.Has K := by
  obtain ⟨hm, hf, hg⟩ : t.mem = s.mem ∧ t.fresh = s.fresh ∧ t.merges = s.merges := by simpa using he
  exact K.less h (.inl hm) (fun i hi => hf ▸ hi) (hg ▸ List.Subset.refl _)

/-- Some fresh errors and merge entries are gone. -/
theorem State.Has.fewer {s t : State} (q : Nat → Bool) (h : s.Has K) (hm : t.mem = s.mem) (hf : t.fresh = tdrop s.fresh q)
    (hg : t.merges ⊆ s.merges) : t.Has K := by
  refine K.less h (.inl hm) (fun i hi => ?_) hg
  rw [hf, tget_tdrop] at hi
  split at hi
  · cases hi
  · exact hi

/-- A part of memory is gone, with what is known of it. -/
theorem State.Has.filterMem {s t : State} (p : Host.Cell → Bool) (q : Nat → Bool) (h : s.Has K) (hm : t.mem = s.mem.filter p)
    (hf : t.fresh = tdrop s.fresh q) (hg : t.merges ⊆ s.merges) : t.Has K := by
  refine K.less h (.inr ⟨p, hm⟩) (fun i hi => ?_) hg
  rw [hf, tget_tdrop] at hi
  split at hi
  · cases hi
  · exact hi

theorem State.Has.withFresh {s : State} {f : Tab Bool} [m : K.Marks] (h : s.Has K) : ({ s with fresh := f } : State).Has K :=
  m.fresh f h

theorem State.Has.withMerges {s : State} {l : List Merge} [m : K.Marks] (h : s.Has K) : ({ s with merges := l } : State).Has K :=
  m.merge l h

theorem has_of_run_eq {β : Type} {p : Run × β} {t : Run} {b : β} (h : p.1.s.Has K) (he : p = (t, b)) : t.s.Has K := by
  rw [he] at h
  exact h

theorem has_of_snd_snd_eq {α β : Type} {p : α × β × State} {t : State} {a : α} {b : β} (h : p.2.2.Has K) (he : p = (a, b, t)) :
    t.Has K := by
  rw [he] at h
  exact h

theorem has_of_some {o : Option State} {t : State} (h : ∀ t, o = some t → t.Has K) (he : o = some t) : t.Has K := h t he

theorem has_of_some_snd {α : Type} {o : Option (α × State)} {t : State} {a : α} (h : ∀ t, o = some t → t.2.Has K)
    (he : o = some (a, t)) : t.Has K :=
  h _ he

theorem State.Has.fst {β : Type} {t : State} {b : β} (h : t.Has K) : (t, b).1.Has K := h

theorem State.Has.fst_ite {β : Type} {c : Prop} [Decidable c] {p q : State × β} (hp : p.1.Has K) (hq : q.1.Has K) :
    (if c then p else q).1.Has K := by
  split
  · exact hp
  · exact hq

theorem State.Has.withResetJob {s : State} {j : Option ResetJob} (h : s.Has K) : ({ s with resetJob := j } : State).Has K :=
  .upd h rfl

theorem State.Has.run_ite {β : Type} {c : Prop} [Decidable c] {p q : Run × β} (hp : p.1.s.Has K) (hq : q.1.s.Has K) :
    (if c then p else q).1.s.Has K := by
  split
  · exact hp
  · exact hq

theorem State.Has.withThermalDormant {s : State} {b : Bool} (h : s.Has K) : ({ s with thermalDormant := b } : State).Has K :=
  .upd h rfl

theorem State.Has.withHold {s : State} {pp : Tab Nat} {sy : Tab Bool} (h : s.Has K) :
    ({ s with dev := .hold, guardLead := false, pwr := [], emergencies := [], ppsOut := false, faultN := false, heartHz := 8,
              packPower := pp, synceLow := sy } : State).Has K :=
  .upd h rfl

theorem State.Has.withReply {s : State} {r : Reply} (h : s.Has K) : ({ s with reply := r } : State).Has K := .upd h rfl

end Sys2Proof.Machine
end

section
/-!
PROOFS. Properties of memory, one rule per operation: the state, its registers, links and checks of an access.
-/
namespace Sys2Proof.Machine

variable {K : MemProp}

theorem State.Has.setEnt {s : State} {k : Nat} {v : U64} (h : s.Has K) : (s.setEnt k v).Has K := .upd h rfl

theorem State.Has.setEntN {s : State} {k n : Nat} (h : s.Has K) : (s.setEntN k n).Has K := .upd h rfl

theorem State.Has.setFld {s : State} {k hi lo x : Nat} (h : s.Has K) : (s.setFld k hi lo x).Has K := .upd h rfl

theorem State.Has.setFlag {s : State} {k i : Nat} {b : Bool} (h : s.Has K) : (s.setFlag k i b).Has K := .upd h rfl

theorem State.Has.answer {s : State} {r : Reply} (h : s.Has K) : (s.answer r).Has K := .upd h rfl

theorem State.Has.status {s : State} {st : Status} (h : s.Has K) : (s.status st).Has K := .upd h rfl

theorem State.Has.draw {s : State} (h : s.Has K) : (s.draw).2.Has K := .upd h rfl

theorem State.Has.drawBelow {s : State} {n : Nat} (h : s.Has K) : (s.drawBelow n).2.Has K := .upd h rfl

theorem State.Has.store {s : State} {a : Nat} {bs : List Byte} (h : s.Has K) : (s.store a bs).Has K := K.store a bs h

theorem State.Has.setPoison {s : State} {a : Nat} (h : s.Has K) : (s.setPoison a).Has K :=
  .fewer (fun i => i / 8 == a / 8) h rfl rfl (List.Subset.refl _)

theorem State.Has.markByte [K.Marks] {s : State} {a : Nat} (h : s.Has K) : (s.markByte a).Has K :=
  .ite h (.ite h.withFresh.setPoison h.withFresh)

theorem State.Has.markBytes [K.Marks] {s : State} {a : Nat} {ms : List Bool} (h : s.Has K) : (s.markBytes a ms).Has K := by
  induction ms generalizing s a with
  | nil => exact h
  | cons m r ih => exact ih (.ite h.markByte h)

theorem State.Has.storeMarks [K.Marks] {s : State} {a : Nat} {bs : List (Byte × Bool)} (h : s.Has K) : (s.storeMarks a bs).Has K :=
  h.store.markBytes

theorem State.markBytes_false (s : State) (a : Nat) (bs : List Byte) : s.markBytes a (bs.map fun _ => false) = s := by
  induction bs generalizing a with
  | nil => rfl
  | cons b r ih => exact ih (a + 1)

theorem State.storeMarks_false (s : State) (a : Nat) (bs : List Byte) : s.storeMarks a (bs.map (·, false)) = s.store a bs := by
  have h1 : (bs.map (·, false)).map (fun x : Byte × Bool => x.1) = bs := by simp [Function.comp_def]
  have h2 : (bs.map (·, false)).map (fun x : Byte × Bool => x.2) = bs.map fun _ => false := by simp only [List.map_map]; rfl
  rw [State.storeMarks, h1, h2, State.markBytes_false]

theorem State.Has.storeGood {s : State} {a : Nat} {bs : List Byte} (h : s.Has K) : (s.storeMarks a (bs.map (·, false))).Has K := by
  rw [State.storeMarks_false]
  exact h.store

theorem State.Has.storeMarked [K.Marks] {s : State} {a : Nat} {bs : List Byte} {p : Bool} (h : s.Has K) :
    (s.storeMarked a bs p).Has K :=
  h.storeMarks

theorem State.Has.setUn {s : State} {u : Nat} {x : UnitSt} (h : s.Has K) : (s.setUn u x).Has K := .upd h rfl

theorem State.Has.stageOne {s : State} {ty : Nat} {payload : List Byte} (h : s.Has K) : (s.stageOne ty payload).Has K := by
  unfold State.stageOne
  extract_lets c u
  have hu : u.Has K := h.setEnt
  exact .ite (.upd h rfl) (.upd hu rfl)

theorem State.Has.recordBytes {s : State} {ty : Nat} {payload : List Byte} (h : s.Has K) : (s.recordBytes ty payload).Has K :=
  .ite (.stageOne (.upd h.stageOne rfl)) h.stageOne

theorem State.Has.record {s : State} {ty : Nat} {ws : List U64} (h : s.Has K) : (s.record ty ws).Has K := h.recordBytes

theorem State.Has.setIrq {s : State} {i : Irq} {core : Nat} {b : Bool} (h : s.Has K) : (s.setIrq i core b).Has K := .upd h rfl

theorem State.Has.incSat {s : State} {k hi lo n : Nat} (h : s.Has K) : (s.incSat k hi lo n).Has K := .upd h rfl

theorem State.Has.incWrap {s : State} {k hi lo n : Nat} (h : s.Has K) : (s.incWrap k hi lo n).Has K := .upd h rfl

theorem State.Has.inc32 {s : State} {k n : Nat} (h : s.Has K) : (s.inc32 k n).Has K := .upd h rfl

theorem State.Has.inc64 {s : State} {k n : Nat} (h : s.Has K) : (s.inc64 k n).Has K := .upd h rfl

theorem State.Has.setSticky {s : State} {k i : Nat} (h : s.Has K) : (s.setSticky k i).Has K := .upd h rfl

theorem State.Has.upsetByte [K.Marks] {s : State} {b : Nat} (h : s.Has K) : (s.upsetByte b).Has K := .ite h.withFresh h

theorem State.Has.upset [K.Marks] {s : State} {a n : Nat} {bs : List Addr} (h : s.Has K) : (s.upset a n bs).Has K :=
  h.foldl fun _ _ hs => .ite hs.upsetByte hs

theorem State.Has.logError {s : State} {c kind unit addr : Nat} (h : s.Has K) : (s.logError c kind unit addr).Has K := by
  unfold State.logError
  extract_lets ent
  split
  · extract_lets e
    exact h.setEnt
  · split
    · exact h.setEntN
    · exact h.incSat

theorem State.Has.noteCorrected {s : State} {c unit addr : Nat} (h : s.Has K) : (s.noteCorrected c unit addr).Has K :=
  h.incSat.logError

theorem State.Has.notePoisoned {s : State} {c unit addr : Nat} (h : s.Has K) : (s.notePoisoned c unit addr).Has K :=
  h.incSat.logError

theorem State.Has.notePath {s : State} {c unit addr : Nat} (h : s.Has K) : (s.notePath c unit addr).Has K := h.logError

theorem State.Has.poisonWord {s : State} {w : Nat} (h : s.Has K) : (s.poisonWord w).Has K := by
  unfold State.poisonWord
  split
  · exact h
  · exact h.setPoison.notePoisoned
  · exact h

theorem State.Has.readTouch {s : State} {a n : Nat} (h : s.Has K) : (s.readTouch a n).Has K :=
  h.foldl fun _ _ hs => .ite hs.poisonWord hs

theorem State.Has.protectionIrq {s : State} (h : s.Has K) : (s.protectionIrq).Has K := .upd h rfl

theorem State.Has.setTl {s : State} {t : Nat} {x : Tile} (h : s.Has K) : (s.setTl t x).Has K := .upd h rfl

theorem State.Has.setGpl {s : State} {g : Nat} {x : Gelpel} (h : s.Has K) : (s.setGpl g x).Has K := .upd h rfl

theorem State.Has.pumpGpl {s : State} {g : Nat} {x : Gelpel} (h : s.Has K) : (s.pumpGpl g x).Has K := .upd h rfl

theorem State.Has.gplHeard {s : State} {g : Nat} (h : s.Has K) : (s.gplHeard g).Has K := .upd h rfl

theorem State.Has.sendMsg {s : State} {g : Nat} {vc : Bool} {m : List Granule} (h : s.Has K) : (s.sendMsg g vc m).Has K :=
  .upd h rfl

theorem State.Has.awaitGpl {s : State} {g : Nat} {o : Outstanding} (h : s.Has K) : (s.awaitGpl g o).Has K := .upd h rfl

theorem State.Has.guarded {s : State} {st : Status} {f : State} (h : s.Has K) (hf : f.Has K) : (s.guarded st f).Has K :=
  .ite hf.status h.status

end Sys2Proof.Machine
end

section
/-!
PROOFS. Properties of memory, one rule per operation: the cores of the units: occasions, live tables, tiles, the timebase, Kennel, Leash,
jobs.
-/
namespace Sys2Proof.Machine

variable {K : MemProp}

theorem State.Has.setHnd {s : State} {e : Nat} {hd : Hound} (h : s.Has K) : (s.setHnd e hd).Has K := .upd h rfl

theorem State.Has.endLane {s : State} {e l st : Nat} (h : s.Has K) : (s.endLane e l st).Has K := .ite h.store.store.store.setHnd h

theorem State.Has.abortWatch {s : State} {e w : Nat} (h : s.Has K) : (s.abortWatch e w).Has K :=
  h.foldl fun _ _ hs => .ite hs.endLane hs

theorem State.Has.watchChanged {s : State} {e w : Nat} {old new : List U64} (h : s.Has K) : (s.watchChanged e w old new).Has K :=
  .setHnd (.ite h.abortWatch h)

theorem State.Has.setLv {s : State} {t : TableId} {x : Live} (h : s.Has K) : (s.setLv t x).Has K := .upd h rfl

theorem State.Has.setRowFrom {s : State} {t : TableId} {copy r w : Nat} {vs : List U64} (h : s.Has K) :
    (s.setRowFrom t copy r w vs).Has K := by
  induction vs generalizing s w with
  | nil => exact h
  | cons v vs ih => exact ih h.setEnt

theorem State.Has.setLiveState {s : State} {t : TableId} {x : Nat} (h : s.Has K) : (s.setLiveState t x).Has K := .upd h rfl

theorem State.Has.liveReject {s : State} {t : TableId} {st : Status} (h : s.Has K) : (s.liveReject t st).Has K := .upd h rfl

theorem State.Has.setLate {s : State} {t : TableId} {b : Bool} (h : s.Has K) : (s.setLate t b).Has K := .upd h rfl

theorem State.Has.applyRow {s : State} {t : TableId} {r : Nat} {ws : List U64} (h : s.Has K) : (s.applyRow t r ws).Has K := by
  unfold State.applyRow
  split
  · exact h.setRowFrom.watchChanged
  · exact h.setRowFrom

theorem State.Has.barRow {s : State} {t : TableId} {r : Nat} (h : s.Has K) : (s.barRow t r).Has K := .upd h rfl

theorem State.Has.applyDeferred {s : State} {t : TableId} {r : Nat} (h : s.Has K) : (s.applyDeferred t r).Has K := by
  unfold State.applyDeferred
  split
  · exact h
  · exact .ite h.applyRow.setLv.setRowFrom h.applyRow.setLv

theorem State.Has.beginOcc {s : State} {t : TableId} {r time : Nat} (h : s.Has K) : (s.beginOcc t r time).Has K :=
  .setLv (.ite h h.applyDeferred)

theorem State.Has.endOcc {s : State} {t : TableId} {p : Occ → Bool} (h : s.Has K) : (s.endOcc t p).Has K := by
  unfold State.endOcc
  extract_lets x occ s1
  have hs1 : s1.Has K := h.setLv
  split
  · exact h
  · exact .ite hs1.barRow hs1

theorem State.Has.liveSwapNow {s : State} {t : TableId} {at_ : Nat} (h : s.Has K) : (s.liveSwapNow t at_).Has K := by
  unfold State.liveSwapNow
  split
  · exact .foldl (.setLiveState (.setLate (.incWrap (.ite (.setLv (.upd h rfl)) (.record (.incSat (.setLv (.upd h rfl)))))))) fun _ _
      hs => hs.watchChanged
  · exact .setLiveState (.setLate (.incWrap (.ite (.setLv (.upd h rfl)) (.record (.incSat (.setLv (.upd h rfl)))))))

theorem State.Has.liveBoundary {s : State} {t : TableId} {raw b : Nat} (h : s.Has K) : (s.liveBoundary t raw b).Has K :=
  .ite (.ite h.liveSwapNow h.setLate) h

theorem State.Has.liveCopied {s : State} {t : TableId} (h : s.Has K) : (s.liveCopied t).Has K :=
  .setLiveState (.foldl (.upd h rfl) fun _ _ hs => hs.setRowFrom)

theorem State.Has.setTrg {s : State} {u : Nat} {x : Trig} (h : s.Has K) : (s.setTrg u x).Has K := .upd h rfl

theorem State.Has.swapDue {s : State} {t : TableId} {lim : Nat} (h : s.Has K) : (s.swapDue t lim).Has K := by
  unfold State.swapDue
  split
  · exact .ite h.liveSwapNow h
  · exact h

theorem State.Has.swapBefore {s : State} {t : TableId} {at_ : State → Option Nat} (h : s.Has K) : (s.swapBefore t at_).Has K := by
  unfold State.swapBefore
  split
  · exact .ite h h.swapDue
  · exact h.swapDue

theorem State.Has.liveArmNow {s : State} {t : TableId} (h : s.Has K) : (s.liveArmNow t).Has K :=
  .ite h.status (.ite h.liveReject (.ite h.liveReject h.setLv.setLiveState.status))

theorem State.Has.liveCancelNow {s : State} {t : TableId} (h : s.Has K) : (s.liveCancelNow t).Has K :=
  .ite h.status (.ite h.liveReject (.ite h.liveReject h.setLate.setLiveState.status))

theorem State.Has.liveCtlWrite {s : State} {t : TableId} {v : U64} (h : s.Has K) : (s.liveCtlWrite t v).Has K :=
  .ite h.liveReject (.ite (.liveArmNow (.ite h.setFld.setFld h)) (.ite (.liveCancelNow (.ite h.setFld.setFld h)) (.status (.ite
    h.setFld.setFld h))))

theorem State.Has.stagedWrite {s : State} {t : TableId} {r w : Nat} {v : U64} (h : s.Has K) : (s.stagedWrite t r w v).Has K :=
  .ite h.liveReject (.ite h.liveReject h.setEnt.status)

theorem State.Has.directWrite {s : State} {t : TableId} {r w : Nat} {v : U64} (h : s.Has K) : (s.directWrite t r w v).Has K :=
  .ite h.liveReject (.ite h.liveReject (.status (.ite h.setLv h.setLv.barRow.applyDeferred)))

theorem State.Has.recordExc {s : State} {t : Nat} {x : Tile} {code eval vs : Nat} {double : Bool} (h : s.Has K) :
    (s.recordExc t x code eval vs double).Has K :=
  .upd h rfl

theorem State.Has.raiseExc {s : State} {t : Nat} {x : Tile} {code eval : Nat} {vs : Option Nat} (h : s.Has K) :
    (raiseExc s t x code eval vs).Has K :=
  .ite h.recordExc.setTl h.recordExc.setTl

theorem State.Has.retireTo {s : State} {t : Nat} {x : Tile} {npc : BitVec 32} (h : s.Has K) : (retireTo s t x npc).Has K :=
  .upd h rfl

theorem State.Has.retire {s : State} {t : Nat} {x : Tile} (h : s.Has K) : (retire s t x).Has K := .upd h rfl

theorem State.Has.stepTile {s : State} {t : Nat} {uses : List Reg} {legal : Tile → Bool} {f : Tile → State} (h : s.Has K)
    (hf : ∀ x, (f x).Has K) : Out.Has K (stepTile s t uses legal f) :=
  Out.Has.ite h (.ite h.raiseExc (.ite h.answer (.ite h.raiseExc (hf _))))

theorem State.Has.setOffset {s : State} {t : Nat} (h : s.Has K) : (s.setOffset t).Has K := .upd h rfl

theorem State.Has.tbRate {s : State} {w : TbWrite} (h : s.Has K) : (s.tbRate w).Has K := by
  unfold State.tbRate
  split
  · exact h.setOffset.setEnt.incWrap
  · exact h

theorem State.Has.tbOffs {s : State} {w : TbWrite} (h : s.Has K) : (s.tbOffs w).Has K := by
  unfold State.tbOffs
  split
  · exact h.setOffset.incWrap
  · exact h

theorem State.Has.tbStp {s : State} {w : TbWrite} (h : s.Has K) : (s.tbStp w).Has K := by
  unfold State.tbStp
  split
  · exact h.setOffset.incWrap
  · exact h

theorem State.Has.ttSkip {s : State} {u : Fin 64} {a b : Nat} (h : s.Has K) : (s.ttSkip u a b).1.Has K := by
  unfold State.ttSkip
  split
  · exact h.setTrg.incSat
  · exact h

theorem State.Has.houndSkip {s : State} {a b : Nat} (h : s.Has K) : (s.houndSkip a b).Has K :=
  h.foldl fun _ _ hs => .ite (.ite hs.setHnd hs.setHnd.incSat) hs

theorem State.Has.gclSkip {s : State} {a b : Nat} (h : s.Has K) : (s.gclSkip a b).Has K := .upd h rfl

theorem State.Has.boundariesPassed {s : State} {a b : Nat} (h : s.Has K) : (s.boundariesPassed a b).Has K :=
  h.foldl fun _ _ hs => .ite hs.liveBoundary hs

theorem State.Has.oneshotEnd {s : State} {u : Fin 64} (h : s.Has K) : (s.oneshotEnd u).Has K := .ite h.setFlag h

theorem State.Has.ttSkips {s : State} {l : List (Fin 64)} {a b : Nat} (h : s.Has K) :
    (l.foldl (fun (acc : State × Nat) (u : Fin 64) =>
        if a < b then
          let q := acc.1.ttSkip u a b
          (q.1, if q.2 then acc.2 + 2 ^ u.val else acc.2)
        else acc) (s, 0)).1.Has K := by
  refine foldl_of_step (fun p : State × Nat => p.1.Has K) h fun q u hs => ?_
  have hq : (q.1.ttSkip u a b).1.Has K := State.Has.ttSkip hs
  exact .fst_ite (.fst hq) hs

theorem State.Has.withTbWrites {s : State} {l : List TbWrite} (h : s.Has K) : ({ s with tbWrites := l } : State).Has K := .upd h rfl

theorem State.Has.tbApply {s : State} (h : s.Has K) : s.tbApply.Has K := by
  have hs : ∀ l : List TbWrite,
      (l.foldl State.tbStp (l.foldl State.tbOffs (l.foldl State.tbRate ({ s with tbWrites := [] } : State)))).Has K := fun l =>
    .foldl (.foldl (h.withTbWrites.foldl fun _ _ hs => hs.tbRate) fun _ _ hs => hs.tbOffs) fun _ _ hs => hs.tbStp
  refine .ite h (.ite (.record (.ite ?_ ?_)) (hs _))
  · exact (hs _).ttSkips.houndSkip.gclSkip.boundariesPassed
  · exact (hs _).ttSkips

theorem State.Has.countTime {s : State} {us n : Nat} (h : s.Has K) : (s.countTime us n).Has K := by
  unfold State.countTime
  extract_lets s1 s2 s3
  have hs1 : s1.Has K := h.foldl fun _ _ hs => hs.inc64
  have hs2 : s2.Has K := hs1.inc64
  have hs3 : s3.Has K := .upd hs2 rfl
  exact hs3.foldl fun _ _ hs => .ite (.ite hs.inc64 (.ite hs hs.inc64)) hs

theorem State.Has.setQueue {s : State} {x : Producer} {q : List Item} (h : s.Has K) : (s.setQueue x q).Has K := .upd h rfl

theorem State.Has.sendItem {s : State} {x : Producer} {i : Item} (h : s.Has K) : (s.sendItem x i).Has K := .upd h rfl

theorem State.Has.setKn {s : State} {p : Nat} {k : Kennel} (h : s.Has K) : (s.setKn p k).Has K := .upd h rfl

theorem State.Has.setEntry {s : State} {p i : Nat} {x : Entry} (h : s.Has K) : (s.setEntry p i x).Has K := .upd h rfl

theorem State.Has.wakePack {s : State} {p : Nat} (h : s.Has K) : (s.wakePack p).Has K := .ite (.upd h rfl) (.upd h rfl)

theorem State.Has.readyIf {s : State} {p i : Nat} (h : s.Has K) : (s.readyIf p i).Has K := .ite h.setKn h

theorem State.Has.knCount {s : State} {k : Nat} (h : s.Has K) : (s.knCount k).Has K := .upd h rfl

theorem State.Has.deliverToken {s : State} {home : Nat} {t : Token} {part : Nat} (h : s.Has K) :
    (s.deliverToken home t part).Has K := by
  unfold State.deliverToken
  refine .ite ?_ ?_
  · split
    · exact h.sendMsg
    · exact h.knCount
  · split
    · exact h.knCount
    · exact .ite h.wakePack.knCount.knCount (.ite h.wakePack.knCount (.ite h.wakePack.knCount h.wakePack.setEntry.readyIf))

theorem State.Has.tokenAfar {s : State} {p g : Nat} {t : Token} {part : Nat} (h : s.Has K) : (s.tokenAfar p g t part).Has K :=
  .ite h.sendMsg h.knCount

theorem State.Has.returnTask {s : State} {p : Nat} {d : Desc} {part st : Nat} {org : Option Nat} {u : Nat} (h : s.Has K) :
    (s.returnTask p d part st org u).Has K := by
  unfold State.returnTask
  refine .ite (.ite ?_ h) (.ite h.record h)
  split
  · exact h.tokenAfar
  · split
    · exact h.sendItem
    · exact h.deliverToken

theorem State.Has.countStatus {s : State} {p st : Nat} (h : s.Has K) : (s.countStatus p st).Has K :=
  .ite h.knCount (.ite h.knCount (.ite h.knCount h))

theorem State.Has.disarmL2 {s : State} {c sq : Nat} (h : s.Has K) : (s.disarmL2 c sq).Has K := .upd h rfl

theorem State.Has.freeEntry {s : State} {p i : Nat} (h : s.Has K) : (s.freeEntry p i).Has K := by
  unfold State.freeEntry
  extract_lets x u s1
  have hs1 : s1.Has K := h.setEntry
  split
  · extract_lets s2
    have hs2 : s2.Has K := .dite (fun _ => hs1.endOcc) (fun _ => hs1)
    exact .ite hs2 hs2.disarmL2
  · exact hs1

theorem State.Has.releaseEntry {s : State} {p i : Nat} (h : s.Has K) : (s.releaseEntry p i).Has K :=
  .freeEntry (.returnTask (h.foldl fun _ _ hs => hs.deliverToken))

theorem State.Has.releaseChain {p d n : Nat} {s : State} (h : s.Has K) : (State.releaseChain p d n s).Has K := by
  induction n generalizing s with
  | zero => exact h
  | succ n ih =>
    unfold State.releaseChain
    split
    · exact ih h.releaseEntry
    · exact h

theorem State.Has.endTask {s : State} {p i st : Nat} (h : s.Has K) : (s.endTask p i st).Has K :=
  .ite h (.ite (.ite h.setEntry.countStatus.releaseEntry.releaseChain h.setEntry.countStatus.releaseEntry)
    h.setEntry.countStatus.setEntry)

theorem State.Has.giveResult {s : State} {ret : RetTo} {v : U64} (h : s.Has K) : (s.giveResult ret v).Has K := by
  unfold State.giveResult
  extract_lets refused
  split
  · exact h
  · extract_lets x
    split
    · split
      · exact h
      · exact h.setTl
  · exact h.store
  · extract_lets b1 x toks b2 s1
    have hs1 : s1.Has K := h.setHnd.inc32
    exact .ite hs1.record (.ite h.setHnd h.setHnd)
  · exact .ite h h.deliverToken
  · extract_lets c
    exact h.sendMsg

theorem State.Has.noteOcc {s : State} {p before : Nat} (h : s.Has K) : (s.noteOcc p before).Has K :=
  .ite (.setEntN (.ite h.setSticky.knCount h)) (.ite h.setSticky.knCount h)

theorem State.Has.allocate {s : State} {p : Nat} {d : Desc} {part : Nat} {plan : Option (Nat × Nat × Nat)} (h : s.Has K) :
    (s.allocate p d part plan).1.Has K := by
  unfold State.allocate
  split
  · rename_i _ t he
    have ht := has_of_snd_eq h.drawBelow he
    exact ht.setKn.noteOcc

theorem State.Has.refuseDesc {s : State} {p : Nat} {d : Desc} {part st : Nat} {ret : RetTo} (h : s.Has K) :
    (s.refuseDesc p d part st ret).Has K :=
  .giveResult (.returnTask (.ite h.countStatus.knCount h.countStatus))

theorem State.Has.acceptDesc {s : State} {p : Nat} {d : Desc} {ret : RetTo} {part : Nat} (h : s.Has K) :
    (s.acceptDesc p d ret part).Has K := by
  unfold State.acceptDesc
  split
  · rename_i t _ he
    have ht := has_of_fst_eq h.allocate he
    exact ht.setEntry.giveResult.readyIf

theorem State.Has.forward {s : State} {g : Nat} {d : Desc} {ret : RetTo} {part : Nat} (h : s.Has K) :
    (s.forward g d ret part).Has K :=
  .upd h rfl

theorem State.Has.submitDesc {s : State} {src : Producer} {d : Desc} {ret : RetTo} {part : Nat} {badPath : Bool} (h : s.Has K) :
    (s.submitDesc src d ret part badPath).Has K := by
  unfold State.submitDesc
  extract_lets home p s1 k
  have hs1 : s1.Has K := h.wakePack
  refine .ite h.notePath.refuseDesc (.ite ?_ ?_)
  · split
    · exact h.forward
    · exact h.refuseDesc
  · split
    · exact h.refuseDesc
    · exact .ite hs1.acceptDesc hs1.setKn

theorem State.Has.flushProd {s : State} {x : Producer} (h : s.Has K) : (s.flushProd x).Has K := by
  unfold State.flushProd
  refine .foldl (.upd h rfl) fun _ _ hs => ?_
  split
  · exact hs.deliverToken
  · exact hs.deliverToken
  · exact hs

theorem State.Has.abortOn {s : State} {u : Nat} (h : s.Has K) : (s.abortOn u).Has K := h.foldl fun _ _ hs => hs.endTask

theorem State.Has.untask {s : State} {t : Nat} (h : s.Has K) : (s.untask t).Has K := .upd h rfl

theorem State.Has.noteLame {s : State} {t kind avg median : Nat} {on : Bool} (h : s.Has K) :
    (s.noteLame t kind avg median on).Has K :=
  h.record

theorem State.Has.served {s : State} {p t : Nat} {x : Entry} (h : s.Has K) : (s.served p t x).Has K := by
  unfold State.served
  extract_lets kd k now a v s1 u k1
  have hs1 : s1.Has K := h.setKn
  refine .ite (.ite ?_ hs1) h
  split
  · exact .ite hs1.setUn hs1.setKn.setUn.noteLame
  · exact hs1.setUn

theorem State.Has.tileDone {s : State} {t : Nat} (h : s.Has K) : (s.tileDone t).Has K := by
  unfold State.tileDone
  split
  · exact h
  · refine .ite (.endTask ?_) h.untask
    split
    · exact .ite (.upd h.untask.served rfl) h.untask.served
    · exact h.untask.served

theorem State.Has.setPnt {s : State} {n : Nat} {x : Point} (h : s.Has K) : (s.setPnt n x).Has K := .upd h rfl

theorem State.Has.leashIrq {s : State} (h : s.Has K) : (s.leashIrq).Has K := .upd h rfl

theorem State.Has.leashAsk {s : State} {r : Nat} {classD : Bool} {a n : Nat} (h : s.Has K) : (s.leashAsk r classD a n).Has K :=
  .dite (fun _ => h.foldl fun _ _ hs => hs.setPnt) (fun _ => h)

theorem State.Has.leashAskAll {s : State} {r : Nat} {classD : Bool} {a n : Nat} (h : s.Has K) :
    (s.leashAskAll r classD a n).Has K :=
  .ite h (h.foldl fun _ _ hs => hs.leashAsk)

theorem State.Has.accessFault {s : State} {who : Accessor} {a : Nat} (h : s.Has K) : (s.accessFault who a).Has K := .upd h rfl

theorem State.Has.wakeAt {s : State} {a : Nat} (h : s.Has K) : (s.wakeAt a).Has K := by
  unfold State.wakeAt
  split
  · exact h.wakePack
  · exact h

theorem State.Has.flushMerge [K.Marks] {s : State} {m : Merge} (h : s.Has K) : (s.flushMerge m).Has K :=
  .foldl h.withMerges fun _ _ hs => .ite hs.readTouch.storeMarked hs

theorem State.Has.flushFor [K.Quiet] {s : State} {r : Nat} (h : s.Has K) : (s.flushFor r).Has K := MemProp.Quiet.flushFor r h

theorem State.Has.mergeWrite [K.Marks] {s : State} {r a hi v : Nat} {marked : Bool} (h : s.Has K) :
    (s.mergeWrite r a hi v marked).Has K := by
  unfold State.mergeWrite
  extract_lets port blk add put own s1
  have hs1 : s1.Has K := by
    unfold s1
    refine .ite ?_ h
    split
    · exact h.flushMerge
    · exact h
  split
  · exact h.withMerges
  · exact hs1.withMerges

theorem State.Has.flushOver [K.Quiet] {s : State} {r a n : Nat} (h : s.Has K) : (s.flushOver r a n).Has K :=
  MemProp.Quiet.flushOver r a n h

theorem MemProp.quiet_of_marks [K.Marks] : K.Quiet :=
  ⟨fun _ _ _ h => State.Has.foldl h fun _ _ hs => hs.flushMerge, fun _ h => State.Has.foldl h fun _ _ hs => hs.flushMerge⟩

theorem State.Has.readMem [K.Quiet] {s : State} {who : Accessor} {a n : Nat} (h : s.Has K) : (s.readMem who a n).1.Has K :=
  h.wakeAt.flushOver.readTouch

theorem State.Has.writeMem [K.Marks] [K.Quiet] {s : State} {who : Accessor} {a : Nat} {bs : List Byte} {marked : Bool} (h : s.Has K) :
    (s.writeMem who a bs marked).Has K :=
  h.wakeAt.flushOver.storeMarked

theorem State.Has.writeMarks [K.Marks] [K.Quiet] {s : State} {who : Accessor} {a : Nat} {bs : List (Byte × Bool)} (h : s.Has K) :
    (s.writeMarks who a bs).Has K :=
  h.wakeAt.flushOver.storeMarks

theorem State.Has.busRead [K.Quiet] {s : State} {who : Accessor} {a n : Nat} (h : s.Has K) : (s.busRead who a n).1.Has K := by
  unfold State.busRead
  split
  · exact h.readMem
  · exact h.accessFault

theorem State.Has.busWrite [K.Marks] [K.Quiet] {s : State} {who : Accessor} {a : Nat} {bs : List Byte} {marked : Bool} (h : s.Has K) :
    (s.busWrite who a bs marked).1.Has K := by
  unfold State.busWrite
  split
  · exact h.writeMem
  · exact h.accessFault

theorem State.Has.remoteRead {s : State} {who : Accessor} {classD : Bool} {a n : Nat} (h : s.Has K) :
    (s.remoteRead who classD a n).1.Has K := by
  unfold State.remoteRead
  split
  · exact h
  · exact h.sendMsg.awaitGpl

theorem State.Has.remoteWrite {s : State} {who : Accessor} {classD : Bool} {a : Nat} {bs : List (Byte × Bool)} (h : s.Has K) :
    (s.remoteWrite who classD a bs).1.Has K := by
  unfold State.remoteWrite
  split
  · exact h
  · exact h.sendMsg.awaitGpl

theorem State.Has.jobAsk {s : State} {p : Fin 8} {a n : Nat} (h : s.Has K) : (s.jobAsk p a n).Has K := h.leashAskAll

theorem State.Has.Run_read [K.Quiet] {x : Run} {p : Fin 8} {a n : Nat} (h : x.s.Has K) : (x.read p a n).1.s.Has K := by
  unfold Machine.Run.read
  split
  · exact h
  · split
    · rename_i t _ _ he
      have ht := has_of_fst_eq h.jobAsk.busRead he
      exact ht
    · rename_i t he
      have ht := has_of_fst_eq h.jobAsk.busRead he
      exact ht

theorem State.Has.Run_write [K.Marks] [K.Quiet] {x : Run} {p : Fin 8} {a : Nat} {bs : List Byte} (h : x.s.Has K) :
    (x.write p a bs).s.Has K := by
  unfold Machine.Run.write
  split
  · exact h
  · split
    · rename_i t he
      have ht := has_of_fst_eq h.jobAsk.busWrite he
      exact ht
    · rename_i t he
      have ht := has_of_fst_eq h.jobAsk.busWrite he
      exact ht

theorem State.Has.Run_writeBits [K.Marks] [K.Quiet] {x : Run} {p : Fin 8} {a o : Nat} {bits : List Bool} (h : x.s.Has K) :
    (x.writeBits p a o bits).s.Has K := by
  unfold Machine.Run.writeBits
  extract_lets a1 k head s s1
  have hs : s.Has K := h.jobAsk.wakeAt
  have hs1 : s1.Has K := hs.flushOver.mergeWrite
  split
  · exact h.Run_write
  · split
    · exact h
    · split
      · exact hs1.Run_write
      · exact hs.accessFault

theorem State.Has.Run_readPm [K.Quiet] {x : Run} {p : Fin 8} {off n : Nat} (h : x.s.Has K) : (x.readPm p off n).1.s.Has K :=
  h.Run_read

theorem State.Has.Run_reads [K.Quiet] {x : Run} {p : Fin 8} {l : List (Nat × Nat)} (h : x.s.Has K) : (x.reads p l).1.s.Has K := by
  induction l generalizing x with
  | nil => exact h
  | cons a l ih => exact ih h.Run_read

theorem State.Has.Run_writes [K.Marks] [K.Quiet] {x : Run} {p : Fin 8} {l : List (Nat × List Byte)} (h : x.s.Has K) :
    (x.writes p l).s.Has K := by
  induction l generalizing x with
  | nil => exact h
  | cons a l ih => exact ih h.Run_write

theorem State.Has.runJob {s : State} {p : Fin 8} {k : Nat} {ops : List Nat} {f : Run → Entry → Run × Nat × Nat × Nat} (h : s.Has K)
    (hf : ∀ e, (f ⟨s, 0, false, 0⟩ e).1.s.Has K) : (s.runJob p k ops f).Has K := by
  unfold State.runJob
  split
  · exact h
  · exact .ite h (.upd (hf _) rfl)

theorem State.Has.Run_param {x : Run} (h : x.s.Has K) : (x.param).1.s.Has K := h

theorem State.Has.countJob {s : State} {p k : Nat} {d : Desc} {j : Job} (h : s.Has K) : (s.countJob p k d j).Has K := by
  unfold State.countJob
  extract_lets b s1 s2 s3 s4 fail
  have hs1 : s1.Has K := .upd h rfl
  have hs2 : s2.Has K := hs1.incSat
  have hs3 : s3.Has K := .ite hs2.incSat hs2
  have hs4 : s4.Has K := .ite hs2 (.ite hs3.incSat hs3)
  split
  · exact hs4.incSat.setEntN
  · exact hs4.incSat.setEntN
  · exact hs4.incSat.setEntN
  · exact hs4.incSat.setEntN
  · exact hs4.incSat

theorem State.Has.jobToken {s : State} {p : Fin 8} {k : Fin 17} {e : Entry} {j : Job} (h : s.Has K) : (s.jobToken p k e j).Has K :=
  .ite h (.ite h.sendItem h.setEntry)

theorem State.Has.finishJob [K.Quiet] {s : State} {p : Fin 8} {k : Fin 17} {j : Job} {st : Nat} (h : s.Has K) :
    (s.finishJob p k j st).Has K :=
  .ite (.endTask (.jobToken (.countJob (.flushFor (.upd h rfl))))) (.flushFor (.upd h rfl))

theorem State.Has.failJob [K.Quiet] {s : State} {p : Fin 8} {k : Fin 17} {status : Nat} (h : s.Has K) :
    (s.failJob p k status).Has K := by
  unfold State.failJob
  split
  · exact h
  · exact h.finishJob

theorem State.Has.abortJob [K.Quiet] {s : State} {p : Fin 8} {k : Fin 17} (h : s.Has K) : (s.abortJob p k).Has K := by
  unfold State.abortJob
  split
  · exact h
  · exact h.finishJob

theorem State.Has.dropEntries {s : State} {p : Row → List Nat → Nat → Bool} (h : s.Has K) : (s.dropEntries p).Has K := .upd h rfl

theorem State.Has.noteDefaulted {s : State} {us : List Nat} {classes cause : Nat} (h : s.Has K) :
    (s.noteDefaulted us classes cause).Has K :=
  .ite h (h.record.foldl fun _ _ hs => hs.setFlag.setEntN)

theorem State.Has.noteDefaultAll {s : State} {k : RKind} (h : s.Has K) : (s.noteDefaultAll k).Has K := by
  unfold State.noteDefaultAll
  extract_lets s1
  have hs1 : s1.Has K := h.record
  exact .upd hs1 rfl

theorem State.Has.defaultScope {s : State} {k : RKind} {us cs : List Nat} (h : s.Has K) : (s.defaultScope k us cs).Has K :=
  .upd h rfl

end Sys2Proof.Machine
end

section
/-!
PROOFS. Properties of memory, one rule per operation: channels, spans, lanes, live tables, the timebase, transmission and Ethernet.
-/
namespace Sys2Proof.Machine

variable {K : MemProp}

theorem State.Has.setCh {s : State} {n : Nat} {x : Chan} (h : s.Has K) : (s.setCh n x).Has K := .upd h rfl

theorem State.Has.setChSt {s : State} {n st : Nat} (h : s.Has K) : (s.setChSt n st).Has K := .upd h rfl

theorem State.Has.setLatch {s : State} {n : Nat} {b : Bool} (h : s.Has K) : (s.setLatch n b).Has K := .upd h rfl

theorem State.Has.setLeft {s : State} {n : Nat} (h : s.Has K) : (s.setLeft n).Has K := .upd h rfl

theorem State.Has.dmaIrq {s : State} {n : Nat} (h : s.Has K) : (s.dmaIrq n).Has K := .upd h rfl

theorem State.Has.dmaToken {s : State} {n : Fin 272} {code : Nat} (h : s.Has K) : (s.dmaToken n code).Has K := .ite h.sendItem h

theorem State.Has.dmaEnd {s : State} {n : Fin 272} {code : Nat} (h : s.Has K) : (s.dmaEnd n code).Has K :=
  .dmaToken (.ite h.incSat h)

theorem State.Has.noteDmaError {s : State} {n : Nat} {f : DmaFail} (h : s.Has K) : (s.noteDmaError n f).Has K :=
  h.inc32.incSat.dmaIrq.record

theorem State.Has.setDmaError {s : State} {n code elem addr : Nat} (h : s.Has K) : (s.setDmaError n code elem addr).Has K :=
  .upd h rfl

theorem State.Has.dmaHalt {s : State} {n : Nat} {f : DmaFail} {completed : Bool} (h : s.Has K) : (s.dmaHalt n f completed).Has K :=
  h.setCh.setDmaError.setFlag.setChSt.noteDmaError

theorem State.Has.dmaOff {s : State} {n : Nat} (h : s.Has K) : (s.dmaOff n).Has K := .upd h rfl

theorem State.Has.dmaSettle {s : State} {n : Fin 272} (h : s.Has K) : (s.dmaSettle n).Has K := by
  unfold State.dmaSettle
  refine .ite (.ite (.ite h.dmaOff (.ite h h.dmaEnd.dmaOff)) ?_) h
  split
  · exact .ite h.dmaHalt (.ite h.dmaHalt h)
  · exact h

theorem State.Has.dmaBegin {s : State} {n : Fin 272} {ws : List U64} {mark : Bool} (h : s.Has K) : (s.dmaBegin n ws mark).Has K :=
  .ite h.setCh.setChSt.setLeft.dmaHalt (.ite h.setCh.setChSt.setLeft.setChSt h.setCh.setChSt.setLeft)

theorem State.Has.dmaGoto {s : State} {n : Fin 272} {a : Nat} (h : s.Has K) : (s.dmaGoto n a).Has K := by
  unfold State.dmaGoto
  extract_lets s1 x on
  have hs1 : s1.Has K := h.setEntN.setChSt
  split
  · exact hs1.setCh.dmaHalt
  · exact .ite hs1.dmaBegin hs1.setCh

theorem State.Has.dmaFollow {s : State} {n : Fin 272} (h : s.Has K) : (s.dmaFollow n).Has K := .ite h.setCh.setChSt h.dmaGoto

theorem State.Has.dmaGotRead {s : State} {n : Fin 272} {r : Xfer} {bs : List (Byte × Bool)} (h : s.Has K) :
    (s.dmaGotRead n r bs).Has K := by
  unfold State.dmaGotRead
  split
  · exact .ite h.setCh h
  · exact .ite h h.setCh
  · exact .ite h h.dmaBegin
  · exact .ite h h.setCh
  · exact .ite h (.ite h.setCh.setChSt (.ite h.setCh.dmaHalt h.setCh.dmaGoto))

theorem State.Has.dmaReadDone {s : State} {n : Fin 272} {r : Xfer} {answer : BusAnswer} {bs : List (Byte × Bool)} (h : s.Has K) :
    (s.dmaReadDone n r answer bs).Has K :=
  .dmaSettle (.ite h.setCh.dmaGotRead (.ite h.setCh.setCh (.ite h.setCh.setCh.setChSt h.setCh.setCh)))

theorem State.Has.dmaComplete [K.Quiet] {s : State} {n : Fin 272} (h : s.Has K) : (s.dmaComplete n).Has K := by
  unfold State.dmaComplete
  extract_lets x f code s1 s2 s3
  have hs1 : s1.Has K := h.flushFor.incSat
  have hs2 : s2.Has K := hs1.dmaEnd.setCh
  have hs3 : s3.Has K := .ite hs2.dmaIrq hs2
  generalize f = y
  cases y with
  | none => exact hs3.dmaFollow
  | some y => exact .ite hs3.setDmaError.noteDmaError.setCh.dmaFollow hs3.dmaHalt

theorem State.Has.doorbell {s : State} {n : Fin 272} (h : s.Has K) : (s.doorbell n).Has K :=
  .ite (.incSat (.ite h.wakePack h)) (.ite (.dmaGoto (.setLatch (.ite h.wakePack h))) (.setLatch (.ite h.wakePack h)))

theorem State.Has.dmaLeave {s : State} {n : Fin 272} {action code : Nat} (h : s.Has K) : (s.dmaLeave n action code).Has K :=
  .ite (.setChSt (.setCh (.ite h h.dmaEnd))) (.setLatch (.setChSt (.setCh (.ite h h.dmaEnd))))

theorem State.Has.dmaResume {s : State} {n : Fin 272} {action index : Nat} (h : s.Has K) : (s.dmaResume n action index).Has K :=
  .ite h.status (.ite h.status (.status (.ite h.setDmaError.setFlag.setCh.setChSt (.ite h.setDmaError.setFlag.setCh.setChSt
    h.setDmaError.setFlag.dmaLeave))))

theorem State.Has.dmaDisable {s : State} {n : Fin 272} (h : s.Has K) : (s.dmaDisable n).Has K := .ite h h.setCh.dmaSettle

theorem State.Has.dmaCfgWrite {s : State} {n : Fin 272} {v : U64} (h : s.Has K) : (s.dmaCfgWrite n v).Has K :=
  .ite h.status (.ite h.setEnt.status.setChSt (.ite h.setEnt.status.dmaDisable h.setEnt.status))

theorem State.Has.ctlWrite {s : State} {p off : Nat} {v : U64} (h : s.Has K) : (s.ctlWrite p off v).Has K := by
  unfold State.ctlWrite
  refine .dite (fun _ => ?_) (fun _ => h)
  split
  · exact h.doorbell
  · exact .ite h.setEnt h
  · exact .ite h.dmaResume h
  · exact h

theorem State.Has.dmaSendRead {s : State} {n : Fin 272} {r : Xfer} (h : s.Has K) : (s.dmaSendRead n r).1.Has K := by
  unfold State.dmaSendRead
  split
  · exact h.remoteRead
  · exact h.leashAsk

theorem State.Has.dmaFetch [K.Quiet] {s : State} {n : Fin 272} {a len : Nat} (h : s.Has K) : (s.dmaFetch n a len).1.Has K := by
  unfold State.dmaFetch
  split
  · exact h.accessFault
  · split
    · exact h
    · split
      · rename_i t _ _ he
        have ht := has_of_fst_eq h.readMem he
        exact ht

theorem State.Has.dmaAnswerRead [K.Quiet] {s : State} {n : Fin 272} {r : Xfer} {answer : BusAnswer} (h : s.Has K) :
    (s.dmaAnswerRead n r answer).Has K := by
  unfold State.dmaAnswerRead
  split
  · split
    · rename_i t _ he
      have ht := has_of_fst_eq h.dmaFetch he
      exact ht.dmaReadDone
    · rename_i t he
      have ht := has_of_fst_eq h.dmaFetch he
      exact ht.dmaReadDone
  · exact h.notePath.dmaReadDone
  · exact h.dmaReadDone

theorem State.Has.dmaIssueRead {s : State} {n : Fin 272} {r : Xfer} (h : s.Has K) : (s.dmaIssueRead n r).Has K := by
  unfold State.dmaIssueRead
  extract_lets x x1 s1 s2
  have hs1 : s1.Has K := h.setCh
  have hs2 : s2.Has K := .ite hs1.setLatch hs1
  split
  · rename_i t he
    have ht := has_of_fst_eq hs2.dmaSendRead he
    exact ht
  · rename_i t he
    have ht := has_of_fst_eq hs2.dmaSendRead he
    exact ht.accessFault.dmaReadDone

theorem State.Has.dmaWriteDone {s : State} {n : Fin 272} {w : Xfer} {answer : BusAnswer} (h : s.Has K) :
    (s.dmaWriteDone n w answer).Has K :=
  h.setCh.dmaSettle

theorem State.Has.dmaReissue {s : State} {n : Fin 272} {r : Xfer} (h : s.Has K) : (s.dmaReissue n r).Has K := by
  unfold State.dmaReissue
  extract_lets x r'
  split
  · rename_i t he
    have ht := has_of_fst_eq h.setCh.dmaSendRead he
    exact ht
  · rename_i t he
    have ht := has_of_fst_eq h.setCh.dmaSendRead he
    exact ht.accessFault.dmaReadDone

theorem State.Has.dmaIssueWrite {s : State} {n : Fin 272} {w : Xfer} (h : s.Has K) : (s.dmaIssueWrite n w).Has K := by
  unfold State.dmaIssueWrite
  refine .ite ?_ (.leashAsk (.ite h.setCh.setLeft.setChSt h.setCh.setLeft))
  split
  · rename_i t he
    have ht := has_of_fst_eq (.remoteWrite (.ite h.setCh.setLeft.setChSt h.setCh.setLeft)) he
    exact ht
  · rename_i t he
    have ht := has_of_fst_eq (.remoteWrite (.ite h.setCh.setLeft.setChSt h.setCh.setLeft)) he
    exact ht.accessFault.dmaWriteDone

theorem State.Has.dmaStore [K.Marks] [K.Quiet] {s : State} {n : Fin 272} {a : Nat} {bs : List (Byte × Bool)} (h : s.Has K) :
    (s.dmaStore n a bs).1.Has K := by
  unfold State.dmaStore
  refine .fst_ite (.fst h.accessFault) ?_
  generalize regionOf a = r
  split
  · exact .fst h.ctlWrite
  · exact .fst h.writeMarks

theorem State.Has.dmaAnswerWrite [K.Marks] [K.Quiet] {s : State} {n : Fin 272} {w : Xfer} {answer : BusAnswer} (h : s.Has K) :
    (s.dmaAnswerWrite n w answer).Has K := by
  unfold State.dmaAnswerWrite
  split
  · split
    · rename_i t he
      have ht := has_of_fst_eq h.dmaStore he
      exact ht.dmaWriteDone
    · rename_i t he
      have ht := has_of_fst_eq h.dmaStore he
      exact ht.dmaWriteDone
  · exact h.notePath.dmaWriteDone
  · exact h.dmaWriteDone

theorem State.Has.setPartState {s : State} {p st : Nat} (h : s.Has K) : (s.setPartState p st).Has K := .upd h rfl

theorem State.Has.setGplState {s : State} {g st : Nat} (h : s.Has K) : (s.setGplState g st).Has K := .ite h h.setFld.record

theorem State.Has.gplCount {s : State} {g hi lo n : Nat} (h : s.Has K) : (s.gplCount g hi lo n).Has K := .upd h rfl

theorem State.Has.gplRejudge {s : State} {g : Nat} (h : s.Has K) : (s.gplRejudge g).Has K := .ite h.setGplState h

theorem State.Has.notify {s : State} {i : Nat} {st : Status} {sub kind : Nat} {o : Obj} {vals : List U64} (h : s.Has K) :
    (s.notify i st sub kind o vals).Has K := by
  unfold State.notify
  split
  · exact .upd h rfl
  · exact h

theorem State.Has.dropSlot {s : State} {slot : Nat} (h : s.Has K) : (s.dropSlot slot).Has K := .upd h rfl

theorem State.Has.endSession {s : State} {i : Nat} (h : s.Has K) : (s.endSession i).Has K := .upd h rfl

theorem State.Has.tellDialects {s b : State} (h : s.Has K) : (s.tellDialects b).Has K :=
  .ite h (h.foldl fun _ _ hs => .ite hs.sendMsg.gplRejudge hs)

theorem State.Has.dialectsSince {s b : State} (h : s.Has K) : (s.dialectsSince b).Has K := by
  unfold State.dialectsSince
  refine .ite (h.tellDialects.foldl fun _ _ hs => ?_) (.record (h.tellDialects.foldl fun _ _ hs => ?_))
  · split
    · exact .ite hs (.ite hs.notify hs.notify.endSession)
    · exact hs
  · split
    · exact .ite hs (.ite hs.notify hs.notify.endSession)
    · exact hs

theorem State.Has.ownImage {s : State} {es : List (Nat × U64)} (h : s.Has K) : (s.ownImage es).Has K := .upd h rfl

theorem State.Has.mramWait {s : State} {w : MramWait} (h : s.Has K) : (s.mramWait w).Has K := .upd h rfl

theorem State.Has.ownCommit {s : State} {es : List (Nat × U64)} (h : s.Has K) : (s.ownCommit es).Has K :=
  .ite (.mramWait (h.foldl fun _ _ hs => hs.setEnt)) (.ownImage (h.foldl fun _ _ hs => hs.setEnt))

theorem State.Has.setHo {s : State} {n st reason : Nat} (h : s.Has K) : (s.setHo n st reason).Has K := h.setFld.setFld.record

theorem State.Has.hoReset {s : State} {p : Nat} (h : s.Has K) : (s.hoReset p).Has K :=
  h.foldl fun _ _ hs => .ite hs.setHo (.ite hs.setHo hs)

theorem State.Has.relayDone {s : State} {slot st : Nat} {v : U64} (h : s.Has K) : (s.relayDone slot st v).Has K := .upd h rfl

theorem State.Has.gplReadDone {s : State} {g : Nat} {who : Accessor} {a : Nat} {r : BusAnswer} {bs : List (Byte × Bool)}
    (h : s.Has K) : (s.gplReadDone g who a r bs).Has K := by
  unfold State.gplReadDone
  extract_lets s1 plain
  have hs1 : s1.Has K := .ite h.notePath h
  have hplain : plain.Has K := hs1.answer
  split
  · split
    · exact hs1.dmaReadDone
    · exact hplain
  · exact .ite hs1.answer hplain
  · exact hplain

theorem State.Has.gplWriteDone {s : State} {who : Accessor} {a : Nat} {r : BusAnswer} (h : s.Has K) :
    (s.gplWriteDone who a r).Has K := by
  unfold State.gplWriteDone
  extract_lets plain
  have hplain : plain.Has K := h.answer
  split
  · split
    · exact h.dmaWriteDone
    · exact hplain
  · exact hplain

theorem State.Has.gplLost {s : State} {g : Nat} {o : Outstanding} (h : s.Has K) : (s.gplLost g o).Has K := by
  unfold State.gplLost
  split
  · exact h.giveResult
  · exact h.gplReadDone
  · exact h.gplWriteDone
  · exact h.relayDone

theorem State.Has.gplDown {s : State} {g : Nat} (h : s.Has K) : (s.gplDown g).Has K :=
  .ite h (.dialectsSince (.setGplState (h.gplCount.gplCount.setGpl.foldl fun _ _ hs => hs.gplLost)))

theorem State.Has.gplTrain {s : State} {g : Nat} (h : s.Has K) : (s.gplTrain g).Has K := .ite h.setGplState h

theorem State.Has.setLaneState {s : State} {l st : Nat} (h : s.Has K) : (s.setLaneState l st).Has K := .upd h rfl

theorem State.Has.setCdr {s : State} {l : Nat} {b : Bool} (h : s.Has K) : (s.setCdr l b).Has K := .upd h rfl

theorem State.Has.abortEye {s : State} {l : Nat} (h : s.Has K) : (s.abortEye l).Has K := .ite h.setFlag.setEntN h

theorem State.Has.portTo {s : State} {l st : Nat} (h : s.Has K) : (s.portTo l st).Has K :=
  h.foldl fun _ _ hs => hs.setLaneState.setFld.abortEye

theorem State.Has.startPort {s : State} {l : Nat} (h : s.Has K) : (s.startPort l).Has K :=
  .ite h.portTo (.ite h.portTo (.ite (.ite (.upd h.portTo rfl) (.setFld (.setFld (.upd h.portTo rfl)))) h.portTo.setFld))

theorem State.Has.portDown {s : State} {l cause : Nat} (h : s.Has K) : (s.portDown l cause).Has K := .ite h.record h

theorem State.Has.portLost {s : State} {l cause : Nat} (h : s.Has K) : (s.portLost l cause).Has K := h.portDown.startPort

theorem State.Has.octetIdle {s : State} {o cause : Nat} (h : s.Has K) : (s.octetIdle o cause).Has K :=
  .foldl (h.foldl fun _ _ hs => hs.portDown) fun _ _ hs => hs.portTo

theorem State.Has.idleFrom {s : State} {l : Nat} (h : s.Has K) : (s.idleFrom l).Has K := .upd h rfl

theorem State.Has.octetHold {s : State} {o cause : Nat} (h : s.Has K) : (s.octetHold o cause).Has K :=
  h.octetIdle.foldl fun _ _ hs => hs.idleFrom

theorem State.Has.octetStart {s : State} {o : Nat} (h : s.Has K) : (s.octetStart o).Has K := h.foldl fun _ _ hs => hs.startPort

theorem State.Has.lnOCfgWrite {s : State} {o : Nat} {v : U64} (h : s.Has K) : (s.lnOCfgWrite o v).Has K :=
  .ite h.status (.ite h.octetIdle.setEnt.octetHold.status h.setEnt.status)

theorem State.Has.execOctetReconfigure {rq : Requester} {o : Fin 16} {v : U64} {s : State} (h : s.Has K) :
    Out.Has K (execOctetReconfigure rq o v s) := by
  unfold Machine.execOctetReconfigure
  show State.Has K _
  split
  · exact h.lnOCfgWrite
  · exact h.status

theorem State.Has.execOctetRestart {o : Fin 16} {s : State} (h : s.Has K) : Out.Has K (execOctetRestart o s) :=
  State.Has.ite (.gplTrain (h.foldl fun _ _ hs => .ite hs.startPort hs)) (h.foldl fun _ _ hs => .ite hs.startPort hs)

theorem State.Has.lnTestWrite {s : State} {l : Nat} {v : U64} (h : s.Has K) : (s.lnTestWrite l v).Has K :=
  .ite h.status (.status (.ite h.setEnt.portDown.portTo.idleFrom h.setEnt))

theorem State.Has.execTestRateChange {rq : Requester} {l : Fin 128} {v : U64} {s : State} (h : s.Has K) :
    Out.Has K (execTestRateChange rq l v s) := by
  unfold Machine.execTestRateChange
  show State.Has K _
  split
  · exact h.lnTestWrite
  · exact h.status

theorem State.Has.lnAnWrite {s : State} {l : Nat} {v : U64} (h : s.Has K) : (s.lnAnWrite l v).Has K := .ite h.status h.setEnt.status

theorem State.Has.lnCfgWrite {s : State} {l : Nat} {v : U64} (h : s.Has K) : (s.lnCfgWrite l v).Has K :=
  .ite h.status (.status (.ite h.portDown.setEnt.startPort h.setEnt))

theorem State.Has.execAnResolve {l : Fin 128} {partner : BitVec 9} {fecReq : Bool} {s : State} (h : s.Has K) :
    Out.Has K (execAnResolve l partner fecReq s) := by
  unfold Machine.execAnResolve
  extract_lets f both s1
  have hs1 : s1.Has K := .foldl (.upd h rfl) fun _ _ hs => hs.setLaneState
  refine State.Has.ite ?_ h
  split
  · exact h
  · exact hs1.setFld.setFld

theorem State.Has.execTrainingDone {l : Fin 128} {s : State} (h : s.Has K) : Out.Has K (execTrainingDone l s) :=
  State.Has.ite (h.foldl fun _ _ hs => hs.setLaneState.setFld) h

theorem State.Has.execLtTimeoutDownshift {l : Fin 128} {s : State} (h : s.Has K) : Out.Has K (execLtTimeoutDownshift l s) :=
  State.Has.ite (.ite (.upd h.incSat.record.portTo rfl) h.portTo) h

theorem State.Has.execAnFullRestart {l : Fin 128} {s : State} (h : s.Has K) : Out.Has K (execAnFullRestart l s) :=
  State.Has.ite h.startPort h

theorem State.Has.eyeWrite {s : State} {l : Nat} {v : U64} (h : s.Has K) : (s.eyeWrite l v).Has K :=
  .ite h.status (.ite h.status (.status (.ite h.setEnt.setEnt h.setEnt)))

theorem State.Has.execEyeStart {rq : Requester} {l : Fin 128} {v : U64} {s : State} (h : s.Has K) :
    Out.Has K (execEyeStart rq l v s) := by
  unfold Machine.execEyeStart
  show State.Has K _
  split
  · exact h.eyeWrite
  · exact h.status

theorem State.Has.execEyePointDone {l : Fin 128} {mismatch : Nat} {s : State} (h : s.Has K) :
    Out.Has K (execEyePointDone l mismatch s) :=
  State.Has.ite h.setFlag.setEntN h

theorem State.Has.slipWrite {s : State} {l : Nat} {v : U64} (h : s.Has K) : (s.slipWrite l v).Has K :=
  .ite h.status (.ite h.status (.status (.ite h.setFlag h)))

theorem State.Has.execLaneSlip {rq : Requester} {l : Fin 128} {v : U64} {s : State} (h : s.Has K) :
    Out.Has K (execLaneSlip rq l v s) := by
  unfold Machine.execLaneSlip
  show State.Has K _
  split
  · exact h.slipWrite
  · exact h.status

theorem State.Has.execSlipDone {l : Fin 128} {s : State} (h : s.Has K) : Out.Has K (execSlipDone l s) := by
  unfold Machine.execSlipDone
  extract_lets x u
  have hu : u.Has K := h.setFlag
  exact State.Has.ite (.upd hu rfl) h

theorem State.Has.rxword {s : State} {l : Nat} {line : List Bool} (h : s.Has K) : (s.rxword l line).2.Has K := by
  unfold State.rxword
  extract_lets x
  split
  · split
    · extract_lets s1 s2 word
      have hs1 : s1.Has K := .upd h rfl
      have hs2 : s2.Has K := .ite hs1 hs1.incSat
      split
      · exact hs2
      · split
        · rename_i _ t he
          have ht := has_of_snd_eq hs2.draw he
          exact ht
  · exact h

theorem State.Has.execRxwordRead {rq : Requester} {l : Fin 128} {line : List Bool} {s : State} (h : s.Has K) :
    Out.Has K (execRxwordRead rq l line s) := by
  unfold Machine.execRxwordRead
  show State.Has K _
  split
  · split
    · rename_i _ t he
      have ht := has_of_snd_eq h.rxword he
      exact ht.answer
  · exact h.status

theorem State.Has.execLosDetect {l : Fin 128} {s : State} (h : s.Has K) : Out.Has K (execLosDetect l s) :=
  State.Has.ite (.portLost (.abortEye (.ite h.setFlag.setSticky.incSat.incSat h.setFlag.setSticky.incSat))) h

theorem State.Has.execCdrLockLoss {l : Fin 128} {s : State} (h : s.Has K) : Out.Has K (execCdrLockLoss l s) := by
  unfold Machine.execCdrLockLoss
  extract_lets s1 u s2
  have hs1 : s1.Has K := h.setCdr.incSat.abortEye
  have hu : u.Has K := hs1.setFlag
  have hs2 : s2.Has K := .upd hu rfl
  exact State.Has.ite hs2.portLost h

theorem State.Has.execBlockLockLoss {l : Fin 128} {s : State} (h : s.Has K) : Out.Has K (execBlockLockLoss l s) :=
  State.Has.ite h.setFlag.portLost h

theorem State.Has.execCdrLockAcquire {l : Fin 128} {s : State} (h : s.Has K) : Out.Has K (execCdrLockAcquire l s) :=
  State.Has.ite (.foldl (.ite h.setCdr.setFlag.setLaneState h.setCdr.setFlag) fun _ _ hs => .ite (.upd hs rfl) hs) h

theorem State.Has.execSynceSquelch {n : Fin 2} {s : State} (h : s.Has K) : Out.Has K (execSynceSquelch n s) :=
  State.Has.ite h (.upd h rfl)

theorem State.Has.execPrbsCheckerLock {l : Fin 128} {errors : Nat} {s : State} (h : s.Has K) :
    Out.Has K (execPrbsCheckerLock l errors s) :=
  State.Has.ite (.ite h.inc64 h.setFlag) h

theorem State.Has.asWriter {s : State} {rq : Requester} {k : Nat} {v : U64} {f : State} (h : s.Has K) (hf : f.Has K) :
    (asWriter s rq k v f).Has K := by
  unfold Machine.asWriter
  split
  · exact hf
  · exact h.status

theorem State.Has.execLiveStagedWrite {rq : Requester} {t : TableId} {row word : Nat} {v : U64} {s : State} (h : s.Has K) :
    Out.Has K (execLiveStagedWrite rq t row word v s) :=
  State.Has.ite (.asWriter h h.stagedWrite) h

theorem State.Has.execLiveArm {rq : Requester} {t : TableId} {s : State} (h : s.Has K) : Out.Has K (execLiveArm rq t s) :=
  State.Has.asWriter h h.liveCtlWrite

theorem State.Has.execLiveCancel {rq : Requester} {t : TableId} {s : State} (h : s.Has K) : Out.Has K (execLiveCancel rq t s) :=
  State.Has.asWriter h h.liveCtlWrite

theorem State.Has.execLiveClrCnt {rq : Requester} {t : TableId} {arm cancel : Bool} {s : State} (h : s.Has K) :
    Out.Has K (execLiveClrCnt rq t arm cancel s) :=
  State.Has.asWriter h h.liveCtlWrite

theorem State.Has.execLiveSwap {t : TableId} {s : State} (h : s.Has K) : Out.Has K (execLiveSwap t s) := by
  unfold Machine.execLiveSwap
  refine State.Has.ite ?_ h
  split
  · exact h.liveSwapNow
  · exact .ite h.setLate h

theorem State.Has.execLiveCopyDone {t : TableId} {s : State} (h : s.Has K) : Out.Has K (execLiveCopyDone t s) :=
  State.Has.ite h.liveCopied h

theorem State.Has.execLiveDirectWrite {rq : Requester} {t : TableId} {row word : Nat} {v : U64} {s : State} (h : s.Has K) :
    Out.Has K (execLiveDirectWrite rq t row word v s) :=
  State.Has.ite (.asWriter h h.directWrite) h

theorem State.Has.execLiveDeferredApply {t : TableId} {row : Nat} {s : State} (h : s.Has K) :
    Out.Has K (execLiveDeferredApply t row s) :=
  State.Has.ite h h.applyDeferred

theorem State.Has.openGate {s : State} {c a b : Nat} (h : s.Has K) : (s.openGate c a b).Has K := .upd h rfl

theorem State.Has.paDue {s : State} {t : Nat} (h : s.Has K) : (s.paDue t).Has K :=
  .foldl (.upd h rfl) fun _ _ hs => .ite hs hs.incSat.record

theorem State.Has.execClkrefLoss {s : State} (h : s.Has K) : Out.Has K (execClkrefLoss s) :=
  State.Has.ite (.record (.inc32 (.setFlag (.setFlag (.setFlag (.upd h rfl)))))) h

theorem State.Has.execClkrefReturn {s : State} (h : s.Has K) : Out.Has K (execClkrefReturn s) := State.Has.ite h.setFlag.record h

theorem State.Has.register {s : State} {w : TbWrite} (h : s.Has K) : (s.register w).Has K := .upd h rfl

theorem State.Has.execTbIncrementWrite {rq : Requester} {v : U64} {s : State} (h : s.Has K) :
    Out.Has K (execTbIncrementWrite rq v s) :=
  State.Has.guarded h h.register

theorem State.Has.execTbStepWrite {rq : Requester} {v : U64} {s : State} (h : s.Has K) : Out.Has K (execTbStepWrite rq v s) :=
  State.Has.guarded h h.register

theorem State.Has.execTbOffsetSecondsWrite {rq : Requester} {v : U64} {s : State} (h : s.Has K) :
    Out.Has K (execTbOffsetSecondsWrite rq v s) :=
  State.Has.guarded h (.upd h rfl)

theorem State.Has.execTbOffsetWrite {rq : Requester} {v : U64} {s : State} (h : s.Has K) :
    Out.Has K (execTbOffsetWrite rq v s) := by
  unfold Machine.execTbOffsetWrite
  split
  · exact State.Has.status (.register (.upd h rfl))
  · exact State.Has.status (.upd h rfl)
  · exact h.status

theorem State.Has.countIdle {s : State} {n : Nat} (h : s.Has K) : (s.countIdle n).Has K := .upd h rfl

theorem State.Has.execTimebaseTickApply {n : Nat} {s : State} (h : s.Has K) : Out.Has K (execTimebaseTickApply n s) := by
  unfold Machine.execTimebaseTickApply
  extract_lets s1 s11 s2 s3
  have hs1 : s1.Has K := h.paDue
  have hs11 : s11.Has K := .tbApply (.upd hs1 rfl)
  have hs2 : s2.Has K := .upd hs11 rfl
  have hs3 : s3.Has K := hs2.countTime.countIdle
  exact State.Has.ite h (hs3.foldl fun _ _ hs => hs.oneshotEnd)

theorem State.Has.captureNow {s : State} {rq : Requester} (h : s.Has K) : (s.captureNow rq).Has K := .upd h rfl

theorem State.Has.execTbNowRead {rq : Requester} {sub : Fin 3} {s : State} (h : s.Has K) : Out.Has K (execTbNowRead rq sub s) := by
  unfold Machine.execTbNowRead
  split
  · split
    · exact h.captureNow.answer
    · exact h.answer
    · exact h.answer
  · exact h.status

theorem State.Has.execCaptureEdge {source : BitVec 7} {rising : Bool} {eighth : Fin 8} {s : State} (h : s.Has K) :
    Out.Has K (execCaptureEdge source rising eighth s) :=
  h.foldl fun _ _ hs => .ite (.ite (.upd hs rfl) hs.incSat) hs

theorem State.Has.execCapturePop {rq : Requester} {n : Fin 8} {s : State} (h : s.Has K) : Out.Has K (execCapturePop rq n s) := by
  unfold Machine.execCapturePop
  split
  · split
    · exact State.Has.answer (.upd h rfl)
    · exact h.setFlag.answer
  · exact h.status

theorem State.Has.execPpsOutRise {s : State} (h : s.Has K) : Out.Has K (execPpsOutRise s) := State.Has.ite (.upd h rfl) h

theorem State.Has.execPpsOutFall {s : State} (h : s.Has K) : Out.Has K (execPpsOutFall s) := State.Has.ite (.upd h rfl) h

theorem State.Has.setTxs {s : State} {c st : Nat} {x : Tx} (h : s.Has K) : (s.setTxs c st x).Has K := .upd h rfl

theorem State.Has.paWatch {s : State} {c moment time : Nat} (h : s.Has K) : (s.paWatch c moment time).Has K := .ite (.upd h rfl) h

theorem State.Has.txCfgWrite {s : State} {c : Nat} {v : U64} (h : s.Has K) : (s.txCfgWrite c v).Has K :=
  .ite h.status (.ite h.status h.setEnt.status)

theorem State.Has.execTxCfgEnable {rq : Requester} {c : Fin 384} {v : U64} {s : State} (h : s.Has K) :
    Out.Has K (execTxCfgEnable rq c v s) := by
  unfold Machine.execTxCfgEnable
  show State.Has K _
  split
  · exact h.txCfgWrite
  · exact h.status

theorem State.Has.execTxGateClose {c : Fin 384} {s : State} (h : s.Has K) : Out.Has K (execTxGateClose c s) := State.Has.upd h rfl

theorem State.Has.setMc {s : State} {m : Nat} {x : Mac} (h : s.Has K) : (s.setMc m x).Has K := .upd h rfl

theorem State.Has.ethCount {s : State} {m i n : Nat} (h : s.Has K) : (s.ethCount m i n).Has K := .upd h rfl

theorem State.Has.stamp {s : State} (h : s.Has K) : (s.stamp).2.2.Has K := by
  unfold State.stamp
  split
  · rename_i _ t he
    have ht := has_of_snd_eq h.drawBelow he
    exact ht

theorem State.Has.countDst {s : State} {m i dst : Nat} (h : s.Has K) : (s.countDst m i dst).Has K :=
  .ite h.ethCount (.ite h.ethCount h.ethCount)

theorem State.Has.enqueue {s : State} {m q : Nat} {f : TxFrame} (h : s.Has K) : (s.enqueue m q f).Has K := .upd h rfl

theorem State.Has.dequeue {s : State} {m q : Nat} (h : s.Has K) : (s.dequeue m q).Has K := .upd h rfl

theorem State.Has.readNum [K.Quiet] {s : State} {who : Accessor} {a n : Nat} (h : s.Has K) : (s.readNum who a n).1.Has K := by
  unfold State.readNum
  split
  · rename_i t _ _ he
    have ht := has_of_fst_eq h.busRead he
    exact ht
  · rename_i t he
    have ht := has_of_fst_eq h.busRead he
    exact ht

theorem State.Has.writeNum [K.Marks] [K.Quiet] {s : State} {who : Accessor} {a n x : Nat} (h : s.Has K) :
    (s.writeNum who a n x).Has K :=
  h.busWrite

theorem State.Has.hostCons [K.Marks] [K.Quiet] {s : State} {m : Fin 128} {v : U64} {i : Nat} (h : s.Has K) :
    (s.hostCons m v i).Has K :=
  .ite h.writeNum.setIrq h.writeNum

theorem State.Has.toHost [K.Marks] [K.Quiet] {s : State} {m : Fin 128} {f : List Byte} {t : Nat} (h : s.Has K) :
    (s.toHost m f t).Has K := by
  unfold State.toHost
  extract_lets v r who drop
  refine .ite h.ethCount ?_
  split
  · rename_i t1 he
    have ht1 := has_of_fst_eq h.readNum he
    exact ht1.ethCount
  · rename_i t1 _ he
    have ht1 := has_of_fst_eq h.readNum he
    split
    · rename_i t2 he
      have ht2 := has_of_fst_eq ht1.readNum he
      exact ht2.ethCount
    · rename_i t2 _ he
      have ht2 := has_of_fst_eq ht1.readNum he
      extract_lets d
      refine .ite ht2.ethCount ?_
      split
      · rename_i t3 he
        have ht3 := has_of_fst_eq ht2.readNum he
        exact ht3.ethCount
      · rename_i t3 _ he
        have ht3 := has_of_fst_eq ht2.readNum he
        extract_lets f' len flags
        split
        · rename_i t4 he
          have ht4 := has_of_fst_eq ht3.busWrite he
          exact ht4.ethCount
        · rename_i t4 he
          have ht4 := has_of_fst_eq ht3.busWrite he
          extract_lets s1
          have hs1 : s1.Has K := ht4.busWrite
          exact hs1.hostCons.ethCount

theorem State.Has.htxPass [K.Marks] [K.Quiet] {s : State} {m : Fin 128} {n c : Nat} (h : s.Has K) : (s.htxPass m n c).Has K := by
  induction n generalizing s c with
  | zero => exact h
  | succ n ih => exact .ite (ih h.setMc.hostCons) h

theorem State.Has.htxEnd [K.Marks] [K.Quiet] {s : State} {m : Fin 128} {i st : Nat} {t : Option Nat} (h : s.Has K) :
    (s.htxEnd m i st t).Has K := by
  unfold State.htxEnd
  extract_lets r d s1 s2 x s3
  have hs1 : s1.Has K := by
    unfold s1
    split
    · exact h.busWrite
    · exact h
  have hs2 : s2.Has K := hs1.writeNum
  have hs3 : s3.Has K := hs2.setMc
  split
  · rename_i t1 _ he
    have ht1 := has_of_fst_eq hs3.readNum he
    exact ht1.htxPass
  · rename_i t1 he
    have ht1 := has_of_fst_eq hs3.readNum he
    exact ht1

end Sys2Proof.Machine
end

section
/-!
PROOFS. Properties of memory, one rule per operation: contexts, RLC and the flow rings.
-/
namespace Sys2Proof.Machine

variable {K : MemProp}

theorem State.Has.flDrop {s : State} {r : Nat} (h : s.Has K) : (s.flDrop r).Has K := .upd h rfl

theorem State.Has.ringIrq {s : State} {n : Nat} (h : s.Has K) : (s.ringIrq n).Has K := .ite h.setIrq h

theorem State.Has.excRecord [K.Marks] [K.Quiet] {s : State} {p : Nat} {why : Exc} {ctx : List Nat} {payload : List Byte}
    (h : s.Has K) : (s.excRecord p why ctx payload).Has K := by
  unfold State.excRecord
  split
  · exact h.flDrop
  · split
    · rename_i t _ _ _ he _
      have ht := has_of_fst_eq h.readNum he
      extract_lets -underBinder used
      exact .ite ht.incSat.flDrop ht.busWrite.writeNum.ringIrq
    · rename_i t _ he _
      have ht := has_of_fst_eq h.readNum he
      exact ht.flDrop

theorem State.Has.ringFront [K.Quiet] {s : State} {n : Nat} (h : s.Has K) : (s.ringFront n).1.Has K := by
  unfold State.ringFront
  split
  · exact h
  · split
    · rename_i t he
      have ht := has_of_fst_eq h.readNum he
      exact ht
    · rename_i t _ he
      have ht := has_of_fst_eq h.readNum he
      extract_lets c1
      split
      · exact ht
      · split
        · rename_i t1 he
          have ht1 := has_of_fst_eq ht.busRead he
          exact ht1
        · rename_i t1 _ _ he
          have ht1 := has_of_fst_eq ht.busRead he
          exact ht1

theorem State.Has.ringEnd [K.Marks] [K.Quiet] {s : State} {e : REntry} {st : Nat} {res : Option Nat} (h : s.Has K) :
    (s.ringEnd e st res).Has K := by
  unfold State.ringEnd
  refine .ringIrq (.incWrap (.writeNum (.writeNum ?_)))
  split
  · exact h.writeNum
  · exact h

theorem State.Has.onRing [K.Marks] [K.Quiet] {s : State} {n op : Nat} {f : State → REntry → State × Nat × Option Nat} (h : s.Has K)
    (hf : ∀ s e, s.Has K → (f s e).1.Has K) : (s.onRing n op f).Has K := by
  unfold State.onRing
  split
  · rename_i t he
    exact has_of_fst_eq h.ringFront he
  · rename_i t e he
    exact .ite (hf _ _ (has_of_fst_eq h.ringFront he)).ringEnd h

theorem State.Has.flRead [K.Quiet] {s : State} {a n : Nat} (h : s.Has K) : (s.flRead a n).1.Has K := by
  unfold State.flRead
  split
  · exact h
  · exact h.busRead

theorem State.Has.tePut [K.Quiet] {s : State} {p : Place} {e : List Byte} (h : s.Has K) : (s.tePut p e).Has K := by
  cases p with
  | slot b i => exact State.Has.storeGood h.wakeAt.flushOver
  | stash i => exact .upd h rfl

theorem State.Has.moveAll [K.Quiet] {s : State} {l : List Place} {f : Place} (h : s.Has K) : (s.moveAll l f).1.Has K := by
  induction l generalizing s f with
  | nil => exact h
  | cons p l ih => exact ih h.tePut.tePut

theorem State.Has.placeEntry [K.Quiet] {s : State} {kt : Nat} {key e : List Byte} (h : s.Has K) :
    (s.placeEntry kt key e).1.Has K := by
  unfold State.placeEntry
  extract_lets b
  split
  · exact h.tePut
  · split
    · exact h.tePut
    · split
      · split
        · rename_i t _ he
          have ht := has_of_fst_eq h.moveAll he
          exact ht.tePut
      · split
        · exact h.tePut
        · exact h

theorem State.Has.setFl {s : State} {f : Nat} {x : Flow} (h : s.Has K) : (s.setFl f x).Has K := .upd h rfl

theorem State.Has.flowDrop {s : State} {f r : Nat} (h : s.Has K) : (s.flowDrop f r).Has K := .upd h rfl

theorem State.Has.dropLine {s : State} {l : Nat} (h : s.Has K) : (s.dropLine l).Has K :=
  .fewer (fun a => a / 512 == lineAddr l / 512) h rfl rfl (List.Subset.refl _)

theorem State.Has.ctxStore [K.Marks] [K.Quiet] {s : State} {f : Nat} {bs : List (Byte × Bool)} (h : s.Has K) :
    (s.ctxStore f bs).Has K :=
  .ite h.writeMarks h.accessFault

theorem State.Has.evict [K.Marks] [K.Quiet] {s : State} {l : Nat} (h : s.Has K) : (s.evict l).Has K := by
  unfold State.evict
  split
  · exact h
  · exact .dropLine (.ite h.ctxStore h)

theorem State.Has.lineFor [K.Marks] [K.Quiet] {s : State} {f : Nat} (h : s.Has K) : (s.lineFor f).1.Has K := by
  unfold State.lineFor
  split
  · exact h
  · split
    · rename_i _ t he
      have ht := has_of_snd_eq h.drawBelow he
      exact ht.evict

theorem State.Has.failFlow [K.Marks] [K.Quiet] {s : State} {f : Nat} (h : s.Has K) : (s.failFlow f).Has K :=
  .ite h.setFl.excRecord h

theorem State.Has.touchFlow [K.Marks] [K.Quiet] {s : State} {f : Nat} (h : s.Has K) : (s.touchFlow f).Has K := by
  unfold State.touchFlow
  refine .ite h ?_
  split
  · exact .ite (.failFlow (.upd h rfl)) (.upd h rfl)
  · split
    · rename_i t _ he
      have ht := has_of_fst_eq h.lineFor he
      split
      · rename_i t1 he
        have ht1 := has_of_fst_eq ht.busRead he
        exact .failFlow (.upd ht1 rfl)
      · rename_i t1 _ _ he
        have ht1 := has_of_fst_eq ht.busRead he
        exact .ite (.failFlow (.setFl (.upd ht1 rfl))) (.setFl (.upd ht1 rfl))

theorem State.Has.makeFlow [K.Marks] [K.Quiet] {s : State} {f : Nat} {x : Flow} (h : s.Has K) : (s.makeFlow f x).Has K := by
  unfold State.makeFlow
  split
  · rename_i t _ he
    have ht := has_of_fst_eq h.lineFor he
    exact .setFl (.upd ht rfl)

theorem State.Has.freeFlow [K.Quiet] {s : State} {f : Nat} (h : s.Has K) : (s.freeFlow f).Has K := by
  have hl : (match s.ctxLine f with | some l => s.dropLine l | none => s : State).Has K := by
    split
    · exact h.dropLine
    · exact h
  unfold State.freeFlow
  exact .upd (.ite (.storeGood hl.wakeAt.flushOver) hl.accessFault) rfl

theorem State.Has.takeBufs {s : State} {p n : Nat} (h : s.Has K) : (s.takeBufs p n).1.Has K := by
  unfold State.takeBufs
  extract_lets size used
  split
  · exact h
  · split
    · rename_i _ t he
      have ht := has_of_snd_eq h.drawBelow he
      exact ht

theorem State.Has.putBufs [K.Marks] [K.Quiet] {s : State} {base : Nat} {l : List Nat} {bs : List Byte} (h : s.Has K) :
    (s.putBufs base l bs).1.Has K := by
  induction l generalizing s bs with
  | nil => exact h
  | cons b l ih =>
    unfold State.putBufs
    refine .fst_ite (.fst h) ?_
    split
    · rename_i t he
      exact ih (has_of_fst_eq h.busWrite he)
    · rename_i t he
      exact .fst (has_of_fst_eq h.busWrite he)

theorem State.Has.sduRead [K.Quiet] {s : State} {d : Sdu} {a n : Nat} (h : s.Has K) : (s.sduRead d a n).1.Has K := by
  unfold State.sduRead
  extract_lets base
  refine foldl_of_step (fun p : State × List Byte × Bool => p.1.Has K) h fun q _ hs => ?_
  obtain ⟨s, bs, bad⟩ := q
  refine .fst_ite hs ?_
  split
  · rename_i t1 _ _ he
    exact has_of_fst_eq (State.Has.busRead hs) he
  · rename_i t1 he
    exact has_of_fst_eq (State.Has.busRead hs) he

theorem State.Has.sendGpdu [K.Marks] [K.Quiet] {s : State} {f : Nat} {b : List Byte} (h : s.Has K) : (s.sendGpdu f b).Has K :=
  .ite h (.ite h.flowDrop.excRecord h.setFl.enqueue)

theorem State.Has.deliver [K.Marks] [K.Quiet] {s : State} {f n : Nat} (h : s.Has K) : (s.deliver f n).Has K := by
  induction n generalizing s with
  | zero => exact h
  | succ n ih =>
    unfold State.deliver
    extract_lets x
    split
    · exact h
    · exact ih h.setFl.sendGpdu

theorem State.Has.reorderTimer {s : State} {f : Nat} (h : s.Has K) : (s.reorderTimer f).Has K := .upd h rfl

theorem State.Has.pdcpRx [K.Marks] [K.Quiet] {s : State} {f : Nat} {b : List Byte} (h : s.Has K) : (s.pdcpRx f b).Has K :=
  .ite h (.ite h (.ite h.flowDrop (.ite h h.setFl.deliver.reorderTimer)))

theorem State.Has.reorderExpiry [K.Marks] [K.Quiet] {s : State} {f : Nat} (h : s.Has K) : (s.reorderExpiry f).Has K := by
  unfold State.reorderExpiry
  refine .reorderTimer (.deliver (h.setFl.foldl fun _ _ hs => ?_))
  split
  · exact hs.sendGpdu
  · exact hs

theorem State.Has.dlAppend [K.Marks] [K.Quiet] {s : State} {f qfi : Nat} {rqi : Bool} {b : List Byte} (h : s.Has K) :
    (s.dlAppend f qfi rqi b).Has K := by
  unfold State.dlAppend
  extract_lets s1 x p len high
  have hs1 : s1.Has K := h.touchFlow
  split
  · exact hs1.flDrop
  · exact hs1.flowDrop
  · exact hs1.flowDrop
  · refine .ite hs1.flowDrop ?_
    split
    · rename_i t he
      have ht := has_of_fst_eq hs1.takeBufs he
      exact ht.flowDrop
    · rename_i t _ he
      have ht := has_of_fst_eq hs1.takeBufs he
      extract_lets d
      refine .ite ht.flowDrop ?_
      split
      · rename_i t1 he
        have ht1 := has_of_fst_eq ht.putBufs he
        exact ht1.flowDrop
      · rename_i t1 he
        have ht1 := has_of_fst_eq ht.putBufs he
        extract_lets s2
        have hs2 : s2.Has K := ht1.setFl
        exact .ite hs2.excRecord hs2

theorem State.Has.reownCarrier [K.Quiet] {s : State} {c p : Nat} (h : s.Has K) : (s.reownCarrier c p).1.Has K :=
  .upd (h.foldl fun _ _ hs => hs.tePut) rfl

theorem State.Has.flPurge [K.Quiet] {s : State} {p : Nat} (h : s.Has K) : (s.flPurge p).1.Has K :=
  .upd (.foldl (h.foldl fun _ _ hs => hs.tePut) fun _ _ hs => hs.freeFlow) rfl

theorem State.Has.tableClear [K.Quiet] {s : State} (h : s.Has K) : (s.tableClear).Has K := .ite (h.foldl fun _ _ hs => hs.tePut) h

theorem State.Has.toPdcp [K.Marks] [K.Quiet] {s : State} {f : Nat} {l : List (List Byte)} (h : s.Has K) : (s.toPdcp f l).Has K :=
  h.foldl fun _ _ hs => hs.pdcpRx

theorem State.Has.rlcRx [K.Marks] [K.Quiet] {s : State} {f : Nat} {b : List Byte} (h : s.Has K) : (s.rlcRx f b).1.Has K := by
  unfold State.rlcRx
  extract_lets s1 x p r
  have hs1 : s1.Has K := h.touchFlow
  split
  · exact hs1.flDrop
  · exact hs1.flowDrop
  · exact hs1.flowDrop
  · split
    · exact hs1.setFl
    · split
      · exact hs1.toPdcp
      · exact hs1.setFl.toPdcp

theorem State.Has.Build_status {b : Build} {f : Nat} (h : b.s.Has K) : (b.status f).s.Has K := by
  unfold Machine.Build.status
  extract_lets x all
  split
  · split
    · extract_lets u
      exact h.setFl
    · exact h
  · exact h

theorem State.Has.Build_put [K.Quiet] {b : Build} {x : Flow} {d : Sdu} {k : Nat} {poll : Bool} (h : b.s.Has K) :
    ∀ t, b.put x d k poll = some t → t.s.Has K := by
  intro t ht
  unfold Build.put at ht
  split at ht
  · cases ht
  · rename_i t _ he
    cases ht
    exact has_of_fst_eq h.sduRead he

theorem State.Has.Build_lose {b : Build} {f : Nat} {sn : Option Nat} {rest : List Sdu} (h : b.s.Has K) :
    (b.lose f sn rest).s.Has K :=
  h.setFl.flowDrop

theorem State.Has.Build_one [K.Quiet] {b : Build} {f : Nat} (h : b.s.Has K) : ∀ t, b.one f = some t → t.s.Has K := by
  intro t ht
  unfold Build.one at ht
  extract_lets x raw top at ht
  split at ht
  · extract_lets k fin poll at ht
    split at ht
    · cases ht
    · split at ht
      · cases ht
        exact h.Build_lose
      · rename_i c he
        cases ht
        exact (h.Build_put _ he).setFl
  · extract_lets new d k fin next poll piece at ht
    split at ht
    · cases ht
    · split at ht
      · cases ht
      · split at ht
        · cases ht
          exact h.Build_lose
        · rename_i c he
          cases ht
          exact (h.Build_put _ he).setFl
  · cases ht

theorem State.Has.Build_sdus [K.Quiet] {b : Build} {f n : Nat} (h : b.s.Has K) : (b.sdus f n).s.Has K := by
  induction n generalizing b with
  | zero => exact h
  | succ n ih =>
    unfold Build.sdus
    split
    · rename_i c he
      exact ih (h.Build_one _ he)
    · exact h

theorem State.Has.execFlRingPoll [K.Marks] [K.Quiet] {n : Fin 256} {s : State} (h : s.Has K) : Out.Has K (execFlRingPoll n s) := by
  unfold Machine.execFlRingPoll
  refine State.Has.ite ?_ h
  split
  · rename_i t he
    have ht := has_of_fst_eq h.readNum he
    exact ht
  · rename_i t _ he
    have ht := has_of_fst_eq h.readNum he
    extract_lets s1
    have hs1 : s1.Has K := .upd ht rfl
    split
    · rename_i t1 _ he
      have ht1 := has_of_fst_eq hs1.ringFront he
      exact .ite hs1 ht1.ringEnd
    · exact hs1

theorem State.Has.Ul_part [K.Marks] [K.Quiet] {u : Ul} {e : REntry} {p : Nat} {b : List Byte} {x : SubPdu} (h : u.s.Has K) :
    (u.part e p b x).s.Has K := by
  unfold Machine.Ul.part
  extract_lets data toExc
  split
  · exact h.excRecord
  · exact h.excRecord
  · split
    · exact h.flDrop
    · split
      · exact h.flDrop.excRecord
      · split
        · rename_i t _ he
          have ht := has_of_fst_eq h.rlcRx he
          split <;> exact ht

theorem State.Has.execUlPdu [K.Marks] [K.Quiet] {n : Fin 256} {s : State} (h : s.Has K) : Out.Has K (execUlPdu n s) := by
  refine h.onRing fun s e hs => .fst_ite (.fst hs) ?_
  split
  · rename_i t he
    exact .fst (has_of_fst_eq hs.flRead he)
  · rename_i t b bad he
    have ht := has_of_fst_eq hs.flRead he
    split
    rename_i ps mal _
    extract_lets foreign u s1
    have hu : u.s.Has K := foldl_of_step (fun u : Ul => u.s.Has K) ht fun _ _ hu => hu.Ul_part
    exact .fst_ite (.fst ht) (.fst (.ite hu.flDrop hu))

theorem State.Has.Build_flow [K.Marks] [K.Quiet] {b : Build} {f : Nat} (h : b.s.Has K) : (b.flow f).s.Has K := by
  unfold Machine.Build.flow
  extract_lets b1 b2
  have hb1 : b1.s.Has K := h.touchFlow
  have hb2 : b2.s.Has K := hb1.Build_status
  split
  · exact hb2.Build_sdus
  · exact hb1.flowDrop
  · exact hb1.flowDrop
  · exact hb1

theorem State.Has.execDlBuild [K.Marks] [K.Quiet] {n : Fin 256} {s : State} (h : s.Has K) : Out.Has K (execDlBuild n s) := by
  refine h.onRing fun s e hs => ?_
  extract_lets lte lcids ceLen fs
  refine .fst_ite (.fst hs) (.fst_ite (.fst hs) ?_)
  split
  · rename_i t he
    exact .fst (has_of_fst_eq hs.flRead he)
  · rename_i t ce bad he
    have ht := has_of_fst_eq hs.flRead he
    extract_lets b
    have hb : b.s.Has K := foldl_of_step (fun b : Build => b.s.Has K) ht fun _ _ hb => hb.Build_flow
    refine .fst_ite (.fst ht) ?_
    split
    · rename_i u he
      exact .fst (has_of_fst_eq hb.busWrite he)
    · rename_i u he
      exact .fst (has_of_fst_eq hb.busWrite he)

theorem State.Has.dlPacket [K.Marks] [K.Quiet] {s : State} {m : Fin 128} {f : List Byte} (h : s.Has K) :
    (s.dlPacket m f).Has K := by
  unfold State.dlPacket
  extract_lets p toExc b g k0
  refine .ite h.excRecord (.ite h.excRecord (.ite h.excRecord.flDrop ?_))
  split
  · exact .ite h.enqueue h.excRecord
  · exact h.excRecord
  · exact h.excRecord
  · split
    · exact h.excRecord.flDrop
    · exact h.dlAppend
  · exact h.excRecord

theorem State.Has.execGtpuDlPacket [K.Marks] [K.Quiet] {m : Fin 128} {s : State} (h : s.Has K) :
    Out.Has K (execGtpuDlPacket m s) := by
  unfold Machine.execGtpuDlPacket
  show State.Has K _
  split
  · exact h
  · exact .ite h.setMc.dlPacket h

theorem State.Has.execFlowOpen [K.Marks] [K.Quiet] {n : Fin 256} {s : State} (h : s.Has K) : Out.Has K (execFlowOpen n s) := by
  refine h.onRing fun s e hs => ?_
  split
  · rename_i t he
    exact .fst (has_of_fst_eq hs.flRead he)
  · rename_i t b bad he
    have ht := has_of_fst_eq hs.flRead he
    refine .fst_ite (.fst ht) (.fst_ite (.fst ht) (.fst_ite (.fst ht) (.fst_ite (.fst ht) ?_)))
    have hd : (t.drawBelow ctxCount).2.Has K := ht.drawBelow
    exact .fst hd.makeFlow

theorem State.Has.named [K.Marks] [K.Quiet] {s : State} {n f : Nat} (h : s.Has K) : (s.named n f).1.Has K := by
  unfold State.named
  split
  · exact h
  · exact h.touchFlow

theorem State.Has.execFlowClose [K.Marks] [K.Quiet] {n : Fin 256} {s : State} (h : s.Has K) : Out.Has K (execFlowClose n s) := by
  unfold Machine.execFlowClose
  show State.Has K _
  split
  · rename_i t _ he
    have ht := has_of_fst_eq h.ringFront he
    extract_lets f
    refine .ite ?_ h
    split
    · rename_i t1 he
      have ht1 := has_of_fst_eq ht.named he
      extract_lets u
      exact .ite ht1.ringEnd ht1.setFl
    · rename_i t1 _ he
      have ht1 := has_of_fst_eq ht.named he
      exact ht1.ringEnd
  · exact h

theorem State.Has.execFlowFree [K.Marks] [K.Quiet] {f : BitVec 20} {s : State} (h : s.Has K) : Out.Has K (execFlowFree f s) := by
  unfold Machine.execFlowFree
  extract_lets x s1
  have hs1 : s1.Has K := h.freeFlow
  refine State.Has.ite ?_ h
  split
  · exact hs1
  · split
    · rename_i t _ he
      have ht := has_of_fst_eq hs1.ringFront he
      exact ht.ringEnd
    · rename_i t he
      have ht := has_of_fst_eq hs1.ringFront he
      exact ht

theorem State.Has.execKeyInsert [K.Marks] [K.Quiet] {n : Fin 256} {s : State} (h : s.Has K) : Out.Has K (execKeyInsert n s) := by
  refine h.onRing fun s e hs => .fst_ite (.fst hs) ?_
  split
  · rename_i t he
    have ht := has_of_fst_eq hs.named he
    split
    · exact .fst ht
    · split
      · rename_i u _ _ he
        exact .fst (has_of_fst_eq ht.placeEntry he)
      · rename_i u _ he
        exact .fst (has_of_fst_eq ht.placeEntry he)
      · rename_i u he
        exact .fst (has_of_fst_eq ht.placeEntry he)
  · rename_i t _ _ he
    exact .fst (has_of_fst_eq hs.named he)

theorem State.Has.execKeyDelete [K.Marks] [K.Quiet] {n : Fin 256} {s : State} (h : s.Has K) : Out.Has K (execKeyDelete n s) := by
  refine h.onRing fun s e hs => .fst_ite (.fst hs) ?_
  split
  · exact .fst hs
  · exact .fst_ite (.fst hs.tePut) (.fst hs)

theorem State.Has.execCtxRead [K.Marks] [K.Quiet] {n : Fin 256} {s : State} (h : s.Has K) : Out.Has K (execCtxRead n s) := by
  refine h.onRing fun s e hs => ?_
  extract_lets f
  split
  · rename_i t he
    have ht := has_of_fst_eq hs.named he
    split
    · rename_i u he
      exact .fst (has_of_fst_eq ht.busWrite he)
    · rename_i u he
      exact .fst (has_of_fst_eq ht.busWrite he)
  · rename_i t _ _ he
    exact .fst (has_of_fst_eq hs.named he)

theorem State.Has.execRekey [K.Marks] [K.Quiet] {n : Fin 256} {s : State} (h : s.Has K) : Out.Has K (execRekey n s) := by
  refine h.onRing fun s e hs => ?_
  extract_lets f
  split
  · rename_i t he
    have ht := has_of_fst_eq hs.named he
    split
    · rename_i u he
      exact .fst (has_of_fst_eq ht.flRead he)
    · rename_i u _ _ he
      have hu := has_of_fst_eq ht.flRead he
      exact .fst_ite (.fst hu) (.fst hu.setFl)
  · rename_i t _ _ he
    exact .fst (has_of_fst_eq hs.named he)

theorem State.Has.execReown [K.Marks] [K.Quiet] {n : Fin 256} {s : State} (h : s.Has K) : Out.Has K (execReown n s) :=
  h.onRing fun _ _ hs => .fst_ite (.fst hs) (.fst_ite (.fst hs) (.fst hs.reownCarrier))

theorem State.Has.timerEnds [K.Marks] [K.Quiet] {s : State} {f : Nat} {k : FlowTimer} (h : s.Has K) : (s.timerEnds f k).Has K := by
  unfold State.timerEnds
  split
  · exact h.reorderExpiry
  · exact h.setFl
  · exact .ite h.setFl h.setFl.toPdcp
  · exact h.setFl

theorem State.Has.execFlowTimerExpiry [K.Marks] [K.Quiet] {f : BitVec 20} {k : FlowTimer} {s : State} (h : s.Has K) :
    Out.Has K (execFlowTimerExpiry f k s) :=
  State.Has.ite (.ite h.touchFlow.timerEnds h.touchFlow) h

theorem State.Has.flRingCfgWrite [K.Quiet] {s : State} {n : Nat} {v : U64} (h : s.Has K) : (s.flRingCfgWrite n v).Has K := by
  unfold State.flRingCfgWrite
  refine .ite h.status (.status (.ite ?_ h.setEnt))
  split
  · rename_i t _ he
    have ht := has_of_fst_eq h.setEnt.readNum he
    exact .upd ht rfl

theorem State.Has.flRingBaseWrite {s : State} {n : Nat} {v : U64} (h : s.Has K) : (s.flRingBaseWrite n v).Has K :=
  .ite h.status h.setEnt.status

theorem State.Has.flBaseWrite {s : State} {k : Nat} {v : U64} (h : s.Has K) : (s.flBaseWrite k v).Has K :=
  .ite h.status (.ite h.status h.setEnt.status)

theorem State.Has.flPoolWrite {s : State} {p : Nat} {v : U64} (h : s.Has K) : (s.flPoolWrite p v).Has K :=
  .ite h.status h.setEnt.status

end Sys2Proof.Machine
end

section
/-!
PROOFS. Properties of memory, one rule per operation: front haul, Ethernet and Leash.
-/
namespace Sys2Proof.Machine

variable {K : MemProp}

theorem State.Has.houndFeed {s : State} {src mac eaxc till : Nat} {ys : List (Nat × Option C16)} (h : s.Has K) :
    (s.houndFeed src mac eaxc till ys).Has K :=
  h.foldl fun _ _ hs => .ite (hs.foldl fun _ _ hs1 => .ite hs1.setHnd hs1) hs

theorem State.Has.setFhs {s : State} {n : Nat} {x : Stream} (h : s.Has K) : (s.setFhs n x).Has K := .upd h rfl

theorem State.Has.strCount {s : State} {n hi lo : Nat} (h : s.Has K) : (s.strCount n hi lo).Has K := .upd h rfl

theorem State.Has.strErr {s : State} {n hi lo : Nat} (h : s.Has K) : (s.strErr n hi lo).Has K := .upd h rfl

theorem State.Has.fhComplete {s : State} {n seq sl g : Nat} (h : s.Has K) : (s.fhComplete n seq sl g).Has K := .ite h.setFhs h

theorem State.Has.fhStore [K.Marks] [K.Quiet] {s : State} {x : Str} {off : Nat} {l : List Nat} (h : s.Has K) :
    (s.fhStore x off l).Has K :=
  .dite (fun _ => h.busWrite) (fun _ => h)

theorem State.Has.fhRead [K.Quiet] {s : State} {x : Str} {off n : Nat} (h : s.Has K) : (s.fhRead x off n).1.Has K := by
  unfold State.fhRead
  split
  · split
    · rename_i t _ _ he
      have ht := has_of_fst_eq h.busRead he
      exact ht
    · rename_i t he
      have ht := has_of_fst_eq h.busRead he
      exact ht
  · exact h

theorem State.Has.fhFeed [K.Quiet] {s : State} {n seq sl l : Nat} (h : s.Has K) : (s.fhFeed n seq sl l).Has K := by
  unfold State.fhFeed
  extract_lets x g oran q
  have hq : q.1.Has K := h.fhRead
  split
  · exact h
  · extract_lets ys
    exact hq.houndFeed

theorem State.Has.fhGot [K.Quiet] {s : State} {n seq sl l first k : Nat} (h : s.Has K) : (s.fhGot n seq sl l first k).Has K :=
  .fhComplete (.ite h.setFhs.fhFeed h.setFhs)

theorem State.Has.fhSections [K.Marks] [K.Quiet] {s : State} {n : Nat} {w : Win} {k : Nat} {b : List Byte} (h : s.Has K) :
    (s.fhSections n w k b).Has K := by
  induction k generalizing s b with
  | zero => exact h
  | succ k ih => exact .ite h (.ite (ih h.strErr) (.ite (ih h.strCount) (ih h.fhStore.fhGot)))

theorem State.Has.fhSamples [K.Marks] [K.Quiet] {s : State} {n : Nat} {w : Win} {b : List Byte} (h : s.Has K) :
    (s.fhSamples n w b).Has K :=
  .ite h.strErr (.ite h.strCount h.fhStore.fhGot)

theorem State.Has.fhUplane [K.Marks] [K.Quiet] {s : State} {n at_ : Nat} {b : List Byte} (h : s.Has K) :
    (s.fhUplane n at_ b).Has K := by
  unfold State.fhUplane
  extract_lets x f q gap s1 u s2 t sl l
  have hs1 : s1.Has K := .ite h.strErr h
  have hs2 : s2.Has K := hs1.setFhs
  split
  · exact hs2.strCount
  · split
    · exact .ite hs2.strCount hs2.strCount
    · exact .ite hs2.fhSections (.ite hs2.strErr hs2.fhSamples)

theorem State.Has.fhZero [K.Marks] [K.Quiet] {s : State} {n seq sl l : Nat} (h : s.Has K) : (s.fhZero n seq sl l).Has K :=
  h.foldl fun _ _ hs => .ite hs hs.fhStore

theorem State.Has.fhGroupClose [K.Marks] [K.Quiet] {s : State} {n seq sl g : Nat} (h : s.Has K) :
    (s.fhGroupClose n seq sl g).Has K :=
  .setFhs (.ite h (.strErr (.setFhs (h.foldl fun _ _ hs => .ite hs hs.fhZero.fhFeed))))

theorem State.Has.fhSend {s : State} {n ty : Nat} {key : Option Nat} {body : List Byte} (h : s.Has K) :
    (s.fhSend n ty key body).Has K :=
  .upd h rfl

theorem State.Has.fhOranFrames {s : State} {n : Nat} {w : Win} {data : Nat → List Byte} {k p : Nat} (h : s.Has K) :
    (s.fhOranFrames n w data k p).Has K := by
  induction k generalizing s p with
  | zero => exact h
  | succ k ih => exact .ite h (ih h.fhSend)

theorem State.Has.fhTimeFrames {s : State} {n : Nat} {w : Win} {k first : Nat} {l : List Nat} (h : s.Has K) :
    (s.fhTimeFrames n w k first l).Has K := by
  induction k generalizing s first l with
  | zero => exact h
  | succ k ih => exact .ite h (ih h.fhSend)

theorem State.Has.txDecide {s : State} {n : Nat} {x : Str} {k l : Nat} {xs : List C16} (h : s.Has K) :
    (s.txDecide n x k l xs).1.Has K := by
  unfold State.txDecide
  extract_lets c v g t td note air len pattern gate s1 out s2 suf kept s3 s4 out1
  have hs1 : s1.Has K := .ite h h.paWatch
  have hs2 : s2.Has K := .ite h.incSat h
  have hs3 : s3.Has K := .ite hs2.incSat hs2
  have hs4 : s4.Has K := .ite hs3.paWatch hs3
  split
  · exact hs1.setTxs
  · exact hs4.setTxs

theorem State.Has.txSymbol [K.Quiet] {s : State} {n : Nat} {x : Str} {seq l : Nat} (h : s.Has K) :
    (s.txSymbol n x seq l).1.Has K := by
  unfold State.txSymbol
  extract_lets k t sl q d
  have hq : q.1.Has K := by
    unfold q
    split
    · exact h
    · exact h.fhRead
  have hd : d.1.Has K := hq.txDecide
  split
  · exact h
  · split
    · exact h.setTxs
    · exact hd

theorem State.Has.delayRx {s : State} {m src t : Nat} {tag : Option (Nat × Nat)} {b : List Byte} (h : s.Has K) :
    (s.delayRx m src t tag b).Has K := by
  unfold State.delayRx
  split
  · exact .ite h.setEntN.setFld.setEntN.setFlag.setMc h
  · exact .ite h.enqueue h

theorem State.Has.dlyWrite {s : State} {m : Nat} {v : U64} (h : s.Has K) : (s.dlyWrite m v).Has K :=
  .ite (.status (.enqueue (.setMc (.ite (.setFlag (.ite h.setFlag h)) (.ite h.setFlag h))))) (.status (.ite (.setFlag (.ite h.setFlag h))
    (.ite h.setFlag h)))

theorem State.Has.learn {s : State} {vid a m : Nat} (h : s.Has K) : (s.learn vid a m).Has K := .ite h (.upd h rfl)

theorem State.Has.bridge {s : State} {m : Nat} {f : List Byte} {rawIn : Nat} (h : s.Has K) : (s.bridge m f rawIn).Has K := by
  unfold State.bridge
  refine .ite h ?_
  split
  · exact h.ethCount
  · exact .ite h.ethCount (.foldl (.ite h.learn h.learn.ethCount) fun _ _ hs => hs.enqueue)

theorem State.Has.consume [K.Marks] [K.Quiet] {s : State} {m : Fin 128} {f : List Byte} {t : Nat} (h : s.Has K) :
    (s.consume m f t).Has K := by
  unfold State.consume
  extract_lets b b1 e body s1 s2 x
  have hs1 : s1.Has K := h.ethCount
  have hs2 : s2.Has K := h.ethCount
  refine .ite (.ite h.toHost ?_) (.ite hs2.setMc h.toHost)
  split
  · split
    · exact hs1.fhUplane
    · exact hs1.ethCount
  · exact h.ethCount
  · exact h.ethCount.delayRx
  · exact h.toHost

theorem State.Has.ethTake [K.Marks] [K.Quiet] {s : State} {m : Fin 128} {f : HeldFrame} (h : s.Has K) : (s.ethTake m f).Has K := by
  unfold State.ethTake
  extract_lets dst s1 s2 loc bridged s3
  have hs1 : s1.Has K := h.ethCount.ethCount.countDst
  have hs2 : s2.Has K := .ite hs1.ethCount hs1
  have hs3 : s3.Has K := .ite hs2.bridge hs2
  exact .ite h.ethCount (.ite h.ethCount (.ite h.ethCount (.ite hs3.consume (.ite hs3 hs3.ethCount))))

theorem State.Has.ethDrain [K.Marks] [K.Quiet] {s : State} {m : Fin 128} {n : Nat} (h : s.Has K) : (s.ethDrain m n).Has K := by
  induction n generalizing s with
  | zero => exact h
  | succ n ih =>
    unfold State.ethDrain
    split
    · exact h
    · exact .ite h (ih h.setMc.ethTake)

theorem State.Has.ethRx [K.Marks] [K.Quiet] {s : State} {m : Fin 128} {f : RxFrame} (h : s.Has K) : (s.ethRx m f).Has K := by
  unfold State.ethRx
  refine .ite h.ethCount (.ite h.notePath ?_)
  split
  · rename_i _ _ t1 he
    have ht1 := has_of_snd_snd_eq h.stamp he
    exact ht1.setMc.ethDrain

theorem State.Has.execEthRxFrame [K.Marks] [K.Quiet] {m : Fin 128} {f : RxFrame} {s : State} (h : s.Has K) :
    Out.Has K (execEthRxFrame m f s) :=
  State.Has.ite h.ethRx h

theorem State.Has.execFdbAgeOut {vid : BitVec 12} {mac : BitVec 48} {s : State} (h : s.Has K) :
    Out.Has K (execFdbAgeOut vid mac s) := by
  unfold Machine.execFdbAgeOut
  show State.Has K _
  split
  · exact .ite (.upd h rfl) h
  · exact h

theorem State.Has.ethResume [K.Marks] [K.Quiet] {s : State} {m : Fin 128} (h : s.Has K) : (s.ethResume m).Has K := .ite h.ethDrain h

theorem State.Has.execHtxPoll [K.Marks] [K.Quiet] {m : Fin 128} {s : State} (h : s.Has K) : Out.Has K (execHtxPoll m s) := by
  unfold Machine.execHtxPoll
  extract_lets s1 v r who
  have hs1 : s1.Has K := h.ethResume
  refine State.Has.ite ?_ hs1
  split
  · rename_i t he
    have ht := has_of_fst_eq hs1.readNum he
    exact ht
  · rename_i t _ he
    have ht := has_of_fst_eq hs1.readNum he
    extract_lets i
    refine .ite ht ?_
    split
    · rename_i t1 he
      have ht1 := has_of_fst_eq ht.busRead he
      exact ht1
    · rename_i t1 _ _ he
      have ht1 := has_of_fst_eq ht.busRead he
      extract_lets u s2 fl
      have hs2 : s2.Has K := ht1.setMc
      split
      · rename_i t2 he
        have ht2 := has_of_fst_eq hs2.busRead he
        exact ht2.htxEnd
      · rename_i t2 _ _ he
        have ht2 := has_of_fst_eq hs2.busRead he
        extract_lets u1
        exact ht2.enqueue

theorem State.Has.sendFrame [K.Marks] [K.Quiet] {s : State} {m : Fin 128} {q : Nat} {f : TxFrame} (h : s.Has K) :
    (s.sendFrame m q f).Has K := by
  unfold State.sendFrame
  extract_lets one
  split
  · rename_i _ _ t he
    have ht := has_of_snd_snd_eq h.stamp he
    extract_lets t1 b b1 s1 x w s2 s3 s4 s5
    have hs1 : s1.Has K := ht.dequeue
    have hs2 : s2.Has K := hs1.setMc
    have hs3 : s3.Has K := hs2.ethCount.ethCount.countDst
    have hs4 : s4.Has K := .ite hs3.ethCount hs3
    have hs5 : s5.Has K := .ite hs4.setEntN.setFld hs4
    split
    · exact hs5.htxEnd
    · exact hs5

theorem State.Has.execEthTxFrameStart [K.Marks] [K.Quiet] {m : Fin 128} {s : State} (h : s.Has K) :
    Out.Has K (execEthTxFrameStart m s) := by
  unfold Machine.execEthTxFrameStart
  refine State.Has.ite ?_ h
  split
  · split
    · exact h.sendFrame
    · exact h
  · exact h

theorem State.Has.execTxOverrun [K.Marks] [K.Quiet] {m : Fin 128} {q : Fin 8} {s : State} (h : s.Has K) :
    Out.Has K (execTxOverrun m q s) := by
  unfold Machine.execTxOverrun
  show State.Has K _
  split
  · refine .ite ?_ h
    split
    · exact h.dequeue.ethCount.htxEnd
    · exact h.dequeue.ethCount
  · exact h

theorem State.Has.execGclEntryBegin {m : Fin 128} {row : Fin 1024} {s : State} (h : s.Has K) :
    Out.Has K (execGclEntryBegin m row s) := by
  unfold Machine.execGclEntryBegin
  show State.Has K _
  split
  · exact .ite (.beginOcc (.setMc (.ite h.swapBefore h.swapBefore.applyDeferred))) (.ite h.swapBefore h.swapBefore.applyDeferred)
  · exact .ite h.swapBefore h.swapBefore.applyDeferred

theorem State.Has.gclCfgWrite {s : State} {m : Fin 128} {v : U64} (h : s.Has K) : (s.gclCfgWrite m v).Has K :=
  .ite h.status (.status (.ite h.setEnt.setMc (.ite h.setEnt.setLv h.setEnt)))

theorem State.Has.execGclEnable {rq : Requester} {m : Fin 128} {v : U64} {s : State} (h : s.Has K) :
    Out.Has K (execGclEnable rq m v s) := by
  unfold Machine.execGclEnable
  show State.Has K _
  split
  · exact h.gclCfgWrite
  · exact h.status

theorem State.Has.gclTimeWrite {s : State} {m k : Nat} {v : U64} (h : s.Has K) : (s.gclTimeWrite m k v).Has K :=
  .ite h.status h.setEnt.status

theorem State.Has.ethCfgWrite {s : State} {m : Nat} {v : U64} (h : s.Has K) : (s.ethCfgWrite m v).Has K :=
  .ite h.status h.setEnt.status

theorem State.Has.vlanMacsWrite {s : State} {v k half : Nat} {x : U64} (h : s.Has K) : (s.vlanMacsWrite v k half x).Has K :=
  .ite h.setEnt.status h.status

theorem State.Has.vlanWrite {s : State} {v : Nat} {x : U64} (h : s.Has K) : (s.vlanWrite v x).Has K := .ite h.setEnt.status h.status

theorem State.Has.execDelayMeasureStart {rq : Requester} {m : Fin 128} {v : U64} {s : State} (h : s.Has K) :
    Out.Has K (execDelayMeasureStart rq m v s) := by
  unfold Machine.execDelayMeasureStart
  show State.Has K _
  split
  · exact h.dlyWrite
  · exact h.status

theorem State.Has.execDelayTimeout {m : Fin 128} {s : State} (h : s.Has K) : Out.Has K (execDelayTimeout m s) :=
  State.Has.ite h.setSticky.setMc h

theorem State.Has.strWrite {s : State} {n w : Nat} {v : U64} (h : s.Has K) : (s.strWrite n w v).Has K :=
  .ite h.status (.ite h.status (.ite (.ite h.setEnt.setFhs.status h.status) h.setEnt.status))

theorem State.Has.execFhTokenGroup [K.Marks] [K.Quiet] {n : Fin 4096} {g : Fin 14} {s : State} (h : s.Has K) :
    Out.Has K (execFhTokenGroup n g s) := by
  unfold Machine.execFhTokenGroup
  extract_lets x lof s1 f
  have hs1 : s1.Has K := by
    unfold s1
    split
    · extract_lets sl ends
      exact .ite h.fhGroupClose h
    · exact h
  show State.Has K _
  split
  · exact hs1
  · refine .dite (fun _ => ?_) (fun _ => hs1)
    extract_lets who s2
    have hs2 : s2.Has K := hs1.setFhs.sendItem
    exact .ite hs1 hs2.ethResume

theorem State.Has.ready [K.Quiet] {s : State} {x : Str} {seq : Nat} (h : s.Has K) : (s.ready x seq).1.Has K := by
  unfold State.ready
  split
  · split
    · rename_i t _ _ he
      have ht := has_of_fst_eq h.busRead he
      exact ht
    · rename_i t he
      have ht := has_of_fst_eq h.busRead he
      exact ht
  · exact h

theorem State.Has.fhTransmit [K.Quiet] {s : State} {n : Nat} {w : Win} (h : s.Has K) : (s.fhTransmit n w).Has K := by
  unfold State.fhTransmit
  extract_lets x
  split
  · rename_i t he
    have ht := has_of_fst_eq h.ready he
    exact ht.strErr
  · rename_i t he
    have ht := has_of_fst_eq h.ready he
    split
    · rename_i t1 _ he
      have ht1 := has_of_fst_eq ht.txSymbol he
      refine .ite (.ite ht1 ?_) ?_
      · split
        · rename_i t2 _ he
          have ht2 := has_of_fst_eq ht1.fhRead he
          exact ht2.fhOranFrames
      · split
        · rename_i t2 _ he
          have ht2 := has_of_fst_eq ht1.fhRead he
          extract_lets l
          exact ht2.fhTimeFrames

theorem State.Has.execFhSymbolWindowOpen [K.Quiet] {n : Fin 4096} {l : Fin 14} {s : State} (h : s.Has K) :
    Out.Has K (execFhSymbolWindowOpen n l s) := by
  unfold Machine.execFhSymbolWindowOpen
  refine State.Has.ite ?_ h
  split
  · exact h
  · split
    · exact h
    · exact .ite h (.ite h.setFhs.fhTransmit h.setFhs)

theorem State.Has.execFhSymbolWindowClose [K.Marks] [K.Quiet] {n : Fin 4096} {l : Fin 14} {s : State} (h : s.Has K) :
    Out.Has K (execFhSymbolWindowClose n l s) := by
  unfold Machine.execFhSymbolWindowClose
  show State.Has K _
  split
  · exact h
  · exact .ite h (.ite h.setFhs.setMc.ethCount (.ite h.setFhs.fhGroupClose h.setFhs))

theorem State.Has.execTxSymbol [K.Quiet] {c : Fin 384} {n : Fin 4096} {l : Fin 14} {s : State} (h : s.Has K) :
    Out.Has K (execTxSymbol c n l s) := by
  unfold Machine.execTxSymbol
  refine State.Has.ite (.ite ?_ ?_) h
  · split
    · exact h.txSymbol
    · exact h
  · split
    · split
      · rename_i t he
        have ht := has_of_fst_eq h.ready he
        exact ht.txSymbol
      · rename_i t he
        have ht := has_of_fst_eq h.ready he
        exact ht
    · exact h

theorem State.Has.cpOne [K.Quiet] {s : State} {c m : Nat} {dl : Bool} {seq sl sfn pack : Nat} {b : List Byte} (h : s.Has K) :
    (s.cpOne c m dl seq sl sfn pack b).Has K := by
  suffices H : ∀ tx, tx = State.txSymbol → ∀ rd, rd = State.fhRead → ∀ f, f = State.cpOne → (f s c m dl seq sl sfn pack b).Has K from
    H _ rfl _ rfl _ rfl
  intro tx htx rd hrd f hf
  delta State.cpOne at hf
  rw [← htx, ← hrd] at hf
  subst hf
  beta_reduce
  have hread : ∀ {s p a n}, State.Has K s → (rd s p a n).1.Has K := fun h => hrd ▸ h.fhRead
  split
  extract_lets -underBinder body ty
  split
  · exact h.ethCount
  · extract_lets -underBinder x
    refine .ite h.ethCount ?_
    split
    rename_i t sh he
    have ht := has_of_fst_eq (.fst_ite (htx ▸ h.txSymbol) h) he
    refine .ite ht (.ite ?_ ht.fhSend)
    extract_lets -underBinder p nant w
    split
    rename_i t1 _ he
    have ht1 := has_of_fst_eq (hread ht) he
    split
    rename_i t2 _ he
    have ht2 := has_of_fst_eq (hread ht1) he
    exact .ite ht2.ethCount ht2.fhSend

theorem State.Has.cpEntries [K.Quiet] {s : State} {c m : Nat} {dl : Bool} {seq sl sfn pack k : Nat} {b : List Byte} (h : s.Has K) :
    (s.cpEntries c m dl seq sl sfn pack k b).Has K := by
  induction k generalizing s b with
  | zero => exact h
  | succ k ih => exact ih (.ite h (.ite h.cpOne h))

theorem State.Has.execCplaneSend [K.Quiet] {c : Fin 384} {dl : Bool} {s : State} (h : s.Has K) :
    Out.Has K (execCplaneSend c dl s) := by
  unfold Machine.execCplaneSend
  extract_lets cfg size
  show State.Has K _
  split
  · exact h
  · extract_lets x p
    split
    · exact h
    · extract_lets s1
      have hs1 : s1.Has K := .upd h rfl
      refine .ite h ?_
      split
      · rename_i t _ he
        have ht := has_of_fst_eq hs1.fhRead he
        extract_lets b1
        exact .ite ht.cpEntries ht.ethCount

theorem State.Has.cpriSample [K.Marks] [K.Quiet] {s : State} {n sfn i v : Nat} (h : s.Has K) : (s.cpriSample n sfn i v).Has K := by
  unfold State.cpriSample
  extract_lets x
  split
  · split
    · exact h.strCount
    · split
      · exact h.fhStore.fhGot

theorem State.Has.cpriOut [K.Quiet] {s : State} {n f hd : Nat} (h : s.Has K) : (s.cpriOut n f hd).1.Has K := by
  unfold State.cpriOut
  extract_lets x
  refine foldl_of_step (fun p : State × List C16 => p.1.Has K) h fun q i hs => ?_
  split
  extract_lets -underBinder s1
  split
  split
  · exact hs
  · split
    · rename_i t _ _ he
      exact has_of_fst_eq (State.Has.txSymbol hs) he
    · rename_i t he
      exact (has_of_fst_eq (State.Has.txSymbol hs) he).fhRead

theorem State.Has.cwRead [K.Quiet] {s : State} {cfg : U64} {off n : Nat} (h : s.Has K) : (s.cwRead cfg off n).1.Has K := h.fhRead

theorem State.Has.cwRows [K.Marks] [K.Quiet] {s : State} {cfg : U64} {l : List Nat} {num word : Nat} (h : s.Has K) :
    (l.foldl (fun (q : State × List (Option (List Byte))) x =>
        if x % 64 = 0 then (q.1, q.2 ++ [none])
        else let r := q.1.cwRead cfg (0x8000 + num % 2 * 0x4000 + 64 * x) word; (r.1, q.2 ++ [some r.2])) (s, [])).1.Has K := by
  refine foldl_of_step (fun p : State × List (Option (List Byte)) => p.1.Has K) h fun q x hs => ?_
  have hr : (q.1.cwRead cfg (0x8000 + num % 2 * 0x4000 + 64 * x) word).1.Has K := State.Has.cwRead hs
  exact .fst_ite (.fst hs) (.fst hr)

theorem State.Has.cpriOuts [K.Marks] [K.Quiet] {s : State} {l : List Nat} {num : Nat} (h : s.Has K) :
    (l.foldl (fun (q : State × List (Nat × List C16)) n =>
        let o := q.1.cpriOut n (num / 150) (num % 150); (o.1, q.2 ++ [(n, o.2)])) (s, [])).1.Has K := by
  refine foldl_of_step (fun p : State × List (Nat × List C16) => p.1.Has K) h fun q n hs => ?_
  have hr : (q.1.cpriOut n (num / 150) (num % 150)).1.Has K := State.Has.cpriOut hs
  exact .fst hr

theorem State.Has.withCpriTx [K.Marks] [K.Quiet] {s : State} {t : Tab CpriTx} (h : s.Has K) :
    ({ s with cpriTx := t } : State).Has K :=
  .upd h rfl

theorem State.Has.execCpriHyperframe [K.Marks] [K.Quiet] {k : Fin 32} {hd : CpriHyper} {s : State} (h : s.Has K) :
    Out.Has K (execCpriHyperframe k hd s) := by
  unfold Machine.execCpriHyperframe
  extract_lets -underBinder cfg
  refine State.Has.ite ?_ h
  have ht : (s.drawBelow 8).2.Has K := h.drawBelow
  generalize s.drawBelow 8 = pr at ht
  obtain ⟨e, t⟩ := pr
  dsimp only at ht ⊢
  have hs1 : ∀ st d, ((t.setFld (Key.cpriStat k.val) 63 60 st).setFld (Key.cpriStat k.val) 31 0 d).Has K := fun _ _ => ht.setFld.setFld
  refine State.Has.withCpriTx (.cpriOuts (.cwRows (.ite (.ite (hs1 _ _) ?_) (.foldl (.ite (hs1 _ _) ?_) fun _ _ hs => .ite ?_ hs))))
  · exact (hs1 _ _).foldl fun _ _ hs => .dite (fun _ => hs.busWrite) (fun _ => hs)
  · exact (hs1 _ _).foldl fun _ _ hs => .dite (fun _ => hs.busWrite) (fun _ => hs)
  · exact hs.foldl fun _ _ hs => hs.cpriSample

theorem State.Has.execCpriLossOfFrame {k : Fin 32} {s : State} (h : s.Has K) : Out.Has K (execCpriLossOfFrame k s) :=
  State.Has.ite h.setFld.incSat h

theorem State.Has.execLeashGrant {pt : Fin 160} {reqs : List LeashReq} {s : State} (h : s.Has K) :
    Out.Has K (execLeashGrant pt reqs s) := by
  unfold Machine.execLeashGrant
  extract_lets n x s1 x1 cur limit s2 x2 x3
  have hs1 : s1.Has K := by
    unfold s1
    split
    · exact h.inc64
    · exact h
  have hs2 : s2.Has K := .ite hs1.inc32 hs1
  generalize cur = c
  generalize c.filter (·.classD) = od
  cases od with
  | some o => exact hs1.setPnt
  | none =>
    generalize rrAfter x1.reqs true x1.lastD = od
    cases od with
    | some q => exact hs2.setPnt
    | none =>
      cases c with
      | some o => exact Out.Has.ite hs1.inc32.setPnt hs1.setPnt
      | none =>
        refine Out.Has.ite hs1.setPnt ?_
        generalize s1.wrr x3 = od
        cases od with
        | some q => exact hs1.setPnt
        | none => exact hs1.setPnt

theorem State.Has.execLeashStarve {pt : Fin 160} {r : Fin 24} {s : State} (h : s.Has K) : Out.Has K (execLeashStarve pt r s) :=
  State.Has.ite h.setPnt.setSticky.setFld.leashIrq.record h

theorem State.Has.maskReq {s : State} {r : Nat} (h : s.Has K) : (s.maskReq r).Has K := .upd h rfl

theorem State.Has.unmaskReq {s : State} {r : Nat} (h : s.Has K) : (s.unmaskReq r).Has K := .upd h rfl

theorem State.Has.execRequesterMask {r : Fin 24} {s : State} (h : s.Has K) : Out.Has K (execRequesterMask r s) :=
  State.Has.ite h h.maskReq

theorem State.Has.execRequesterUnmask {r : Fin 24} {s : State} (h : s.Has K) : Out.Has K (execRequesterUnmask r s) :=
  State.Has.ite h.unmaskReq h

end Sys2Proof.Machine
end

section
/-!
PROOFS. Properties of memory, one rule per operation: tile memory, triggers, resets, boot, parity, Kennel and the bus.
-/
namespace Sys2Proof.Machine

variable {K : MemProp}

theorem State.Has.tileRead [K.Quiet] {s : State} {t dev n : Nat} (h : s.Has K) : (s.tileRead t dev n).1.Has K :=
  h.flushOver.readTouch

theorem State.Has.scalarAccess {s : State} {t : Fin 512} {uses : List Reg} {ra : Reg} {imm : BitVec 16} {store : Bool} {n : Nat}
    {f : Tile → Nat → State} (h : s.Has K) (hf : ∀ x a, (f x a).Has K) : Out.Has K (scalarAccess s t uses ra imm store n f) := by
  refine h.stepTile fun x => .ite h.raiseExc ?_
  split
  · exact h.raiseExc
  · exact hf _ _

theorem State.Has.opLoad [K.Quiet] {s : State} {t : Fin 512} {rd ra : Reg} {imm : BitVec 16} {n : Nat} {ext : Nat → U64}
    (h : s.Has K) : Out.Has K (opLoad s t rd ra imm n ext) := by
  refine h.scalarAccess fun x a => .ite h.retire ?_
  split
  · exact h.tileRead.retire
  · exact h

theorem State.Has.execLdB [K.Quiet] {t : Fin 512} {rd ra : Reg} {imm : BitVec 16} {s : State} (h : s.Has K) :
    Out.Has K (execLdB t rd ra imm s) :=
  h.opLoad

theorem State.Has.execLdH [K.Quiet] {t : Fin 512} {rd ra : Reg} {imm : BitVec 16} {s : State} (h : s.Has K) :
    Out.Has K (execLdH t rd ra imm s) :=
  h.opLoad

theorem State.Has.execLdW [K.Quiet] {t : Fin 512} {rd ra : Reg} {imm : BitVec 16} {s : State} (h : s.Has K) :
    Out.Has K (execLdW t rd ra imm s) :=
  h.opLoad

theorem State.Has.execLdD [K.Quiet] {t : Fin 512} {rd ra : Reg} {imm : BitVec 16} {s : State} (h : s.Has K) :
    Out.Has K (execLdD t rd ra imm s) :=
  h.opLoad

theorem State.Has.execLdBu [K.Quiet] {t : Fin 512} {rd ra : Reg} {imm : BitVec 16} {s : State} (h : s.Has K) :
    Out.Has K (execLdBu t rd ra imm s) :=
  h.opLoad

theorem State.Has.execLdHu [K.Quiet] {t : Fin 512} {rd ra : Reg} {imm : BitVec 16} {s : State} (h : s.Has K) :
    Out.Has K (execLdHu t rd ra imm s) :=
  h.opLoad

theorem State.Has.execLdWu [K.Quiet] {t : Fin 512} {rd ra : Reg} {imm : BitVec 16} {s : State} (h : s.Has K) :
    Out.Has K (execLdWu t rd ra imm s) :=
  h.opLoad

theorem State.Has.opStore [K.Quiet] {s : State} {t : Fin 512} {rd ra : Reg} {imm : BitVec 16} {n : Nat} (h : s.Has K) :
    Out.Has K (opStore s t rd ra imm n) := by
  refine h.scalarAccess fun x a => .ite (.retire h.ctlWrite.withReply) ?_
  split
  · exact h.flushOver.store.retire
  · exact h

theorem State.Has.execStB [K.Quiet] {t : Fin 512} {rd ra : Reg} {imm : BitVec 16} {s : State} (h : s.Has K) :
    Out.Has K (execStB t rd ra imm s) :=
  h.opStore

theorem State.Has.execStH [K.Quiet] {t : Fin 512} {rd ra : Reg} {imm : BitVec 16} {s : State} (h : s.Has K) :
    Out.Has K (execStH t rd ra imm s) :=
  h.opStore

theorem State.Has.execStW [K.Quiet] {t : Fin 512} {rd ra : Reg} {imm : BitVec 16} {s : State} (h : s.Has K) :
    Out.Has K (execStW t rd ra imm s) :=
  h.opStore

theorem State.Has.execStD [K.Quiet] {t : Fin 512} {rd ra : Reg} {imm : BitVec 16} {s : State} (h : s.Has K) :
    Out.Has K (execStD t rd ra imm s) :=
  h.opStore

theorem State.Has.vloadElems [K.Quiet] {s : State} {t : Nat} {x : Tile} {v : Nat} {base : U64} {e : Nat} {l : List Nat}
    (h : s.Has K) : (vloadElems s t x v base e l).1.Has K := by
  induction l generalizing s x with
  | nil => exact h
  | cons i l ih =>
    unfold Machine.vloadElems
    extract_lets a
    split
    · exact ih h.tileRead
    · exact h

theorem State.Has.vstoreElems [K.Quiet] {s : State} {t : Nat} {x : Tile} {v : Nat} {base : U64} {e : Nat} {l : List Nat}
    (h : s.Has K) : (vstoreElems s t x v base e l).Has K := by
  induction l generalizing s with
  | nil => exact h
  | cons i l ih =>
    unfold Machine.vstoreElems
    split
    · exact ih h.flushOver.store
    · exact h

theorem State.Has.opVM [K.Quiet] {s : State} {t : Fin 512} {f : VM} {store : Bool} (h : s.Has K) :
    Out.Has K (opVM s t f store) := by
  refine h.stepTile fun x => ?_
  extract_lets e base wide fault els
  have hm : (if store then
    (Machine.vstoreElems s t x f.v.toNat base e els, x) else Machine.vloadElems s t x f.v.toNat base e els).1.Has K :=
    .fst_ite (.fst h.vstoreElems) h.vloadElems
  split
  rename_i u y he
  have hu := has_of_fst_eq hm he
  generalize fault = w
  cases w with
  | some w => exact hu.raiseExc
  | none => exact hu.retire

theorem State.Has.execVld [K.Quiet] {t : Fin 512} {f : VM} {s : State} (h : s.Has K) : Out.Has K (execVld t f s) := h.opVM

theorem State.Has.execVst [K.Quiet] {t : Fin 512} {f : VM} {s : State} (h : s.Has K) : Out.Has K (execVst t f s) := h.opVM

theorem State.Has.execFetch {t : Fin 512} {rd ra rb : Reg} {s : State} (h : s.Has K) : Out.Has K (execFetch t rd ra rb s) :=
  h.stepTile fun _ => h.tileDone.setTl

theorem State.Has.postItem {s : State} {t : Fin 512} {i : Item} (h : s.Has K) : (s.postItem t i).Has K := by
  unfold State.postItem
  split
  · exact .ite h.setEntry h.sendItem
  · exact h.sendItem

theorem State.Has.postSend {s : State} {t : Fin 512} {i : Item} (h : s.Has K) : (s.postSend t i).Has K := by
  unfold State.postSend
  split
  · exact h.postItem.retire
  · exact h.postItem.retire

theorem State.Has.post {s : State} {t : Fin 512} {x : Tile} {i : Item} (h : s.Has K) : (s.post t x i).Has K :=
  .ite h.setTl h.setTl.postSend

theorem State.Has.execPostD [K.Quiet] {t : Fin 512} {rd ra rb : Reg} {s : State} (h : s.Has K) :
    Out.Has K (execPostD t rd ra rb s) := by
  refine h.stepTile fun x => .ite h.raiseExc ?_
  split
  · exact h.raiseExc
  · exact h.tileRead.post

theorem State.Has.execPostDResult {t : Fin 512} {s : State} (h : s.Has K) : Out.Has K (execPostDResult t s) := by
  unfold Machine.execPostDResult
  extract_lets x
  split
  · show State.Has K _
    split
    · extract_lets u
      exact h.setTl
    · exact h

theorem State.Has.execPostT {t : Fin 512} {rd ra rb : Reg} {s : State} (h : s.Has K) : Out.Has K (execPostT t rd ra rb s) :=
  h.stepTile fun _ => h.post

theorem State.Has.execPostStallRelease {t : Fin 512} {s : State} (h : s.Has K) : Out.Has K (execPostStallRelease t s) := by
  unfold Machine.execPostStallRelease
  show State.Has K _
  split
  · exact .ite h.postSend h
  · exact h

theorem State.Has.execDone {t : Fin 512} {rd ra rb : Reg} {s : State} (h : s.Has K) : Out.Has K (execDone t rd ra rb s) :=
  h.stepTile fun _ => h.tileDone.retire

theorem State.Has.execInterruptEntry {t : Fin 512} {s : State} (h : s.Has K) : Out.Has K (execInterruptEntry t s) := by
  unfold Machine.execInterruptEntry
  refine State.Has.ite ?_ h
  split
  · exact h
  · exact .setTl (.inc32 (.ite h.setFlag h.setUn))

theorem State.Has.startTile {s : State} {t : Nat} (h : s.Has K) : (s.startTile t).Has K := .upd h rfl

theorem State.Has.resetTile {s : State} {t : Nat} (h : s.Has K) : (s.resetTile t).Has K := h.abortOn.setTl

theorem State.Has.setRun {s : State} {t : Nat} {run : Bool} (h : s.Has K) : (s.setRun t run).Has K :=
  .ite h.setFlag.startTile (.ite h.setFlag.resetTile h.setFlag)

theorem State.Has.setHalt {s : State} {t : Nat} {halt : Bool} (h : s.Has K) : (s.setHalt t halt).Has K :=
  .ite (.ite h.setFlag h.setFlag.setTl) (.ite h.setFlag.setTl h.setFlag)

theorem State.Has.setNotify {s : State} {t : Nat} (h : s.Has K) : (s.setNotify t).Has K := .upd h rfl

theorem State.Has.pxCtlWrite {s : State} {t : Nat} {v : U64} (h : s.Has K) : (s.pxCtlWrite t v).Has K :=
  .status (.ite h.setRun.setHalt.setNotify h.setRun.setHalt)

theorem State.Has.pxCtlBy {s : State} {rq : Requester} {t i : Nat} {b : Bool} (h : s.Has K) : (s.pxCtlBy rq t i b).Has K := by
  unfold State.pxCtlBy
  extract_lets v
  split
  · exact h.pxCtlWrite
  · exact h.status

theorem State.Has.ttDefaultK {s : State} {u : Fin 64} (h : s.Has K) : (s.ttDefaultK u).Has K := .upd h rfl

theorem State.Has.execTtOwnerWrite {rq : Requester} {u : Fin 64} {v : U64} {s : State} (h : s.Has K) :
    Out.Has K (execTtOwnerWrite rq u v s) :=
  State.Has.guarded h (.ite h h.ttDefaultK.setEnt)

theorem State.Has.ttStartUnit {s : State} {u : Fin 64} (h : s.Has K) : (s.ttStartUnit u).Has K :=
  .ite (.ite h.setFlag.setFlag h.setTrg) h.setTrg

theorem State.Has.ttStop {s : State} {u : Fin 64} (h : s.Has K) : (s.ttStop u).Has K := .upd h rfl

theorem State.Has.ttCfgWrite {s : State} {u : Fin 64} {v : U64} (h : s.Has K) : (s.ttCfgWrite u v).Has K :=
  .ite h.status (.ite h.status (.ite h.setEnt.status.ttStartUnit (.ite h.setEnt.status h.setEnt.status.ttStop)))

theorem State.Has.ttCfgBy {s : State} {rq : Requester} {u : Fin 64} {v : U64} (h : s.Has K) : (s.ttCfgBy rq u v).Has K := by
  unfold State.ttCfgBy
  split
  · exact h.ttCfgWrite
  · exact h.status

theorem State.Has.ttTiming {s : State} {u : Fin 64} {which : Fin 3} {v : U64} (h : s.Has K) : (s.ttTiming u which v).Has K :=
  .ite h.status (.ite h.liveReject h.setEnt.status)

theorem State.Has.execTtTimingWrite {rq : Requester} {u : Fin 64} {which : Fin 3} {v : U64} {s : State} (h : s.Has K) :
    Out.Has K (execTtTimingWrite rq u which v s) := by
  unfold Machine.execTtTimingWrite
  split
  · exact h.ttTiming
  · exact h.status

theorem State.Has.slotInstant {s : State} {u : Fin 64} {r c at_ : Nat} (h : s.Has K) : (s.slotInstant u r c at_).Has K :=
  .dite (fun _ => .ite (.upd h.liveBoundary rfl) h) (fun _ => h)

theorem State.Has.ttFire {s : State} {u : Fin 64} {r m at_ : Nat} (h : s.Has K) : (s.ttFire u r m at_).Has K :=
  .ite h.setTrg (.ite (.beginOcc (.ite (.slotInstant (.ite h.setTrg.incWrap.setIrq h.setTrg.incWrap)) (.ite h.setTrg.incWrap.setIrq
    h.setTrg.incWrap))) (.ite (.slotInstant (.ite h.setTrg.incWrap.setIrq h.setTrg.incWrap)) (.ite h.setTrg.incWrap.setIrq
    h.setTrg.incWrap)))

theorem State.Has.ttReady {s : State} {u : Fin 64} {r : Nat} (h : s.Has K) : (s.ttReady u r).Has K :=
  .ite h.swapBefore h.swapBefore.applyDeferred

theorem State.Has.execTriggerFire {u : Fin 64} {row : Fin 16} {s : State} (h : s.Has K) : Out.Has K (execTriggerFire u row s) := by
  unfold Machine.execTriggerFire
  show State.Has K _
  split
  · exact .ite h.ttReady.ttFire.oneshotEnd h.ttReady
  · exact h.ttReady

theorem State.Has.dmaKill {s : State} {n : Fin 272} (h : s.Has K) : (s.dmaKill n).Has K := .ite h (.dmaOff (.ite h h.dmaEnd))

theorem State.Has.houndReset {s : State} {e : Fin 8} (h : s.Has K) : (s.houndReset e).Has K := by
  unfold State.houndReset
  extract_lets s1 b ready n s2 lost s3 s4
  have hs1 : s1.Has K := h.foldl fun _ _ hs => hs.endLane
  clear_value s1
  have hs2 : s2.Has K := hs1.foldl fun _ _ hs => hs.sendItem
  clear_value s2
  have hs3 : s3.Has K := .ite hs2 hs2.inc32.record
  clear_value s3
  have hs4 : s4.Has K := .upd hs3 rfl
  clear_value s4
  exact .dite (fun _ => hs4.setLv) (fun _ => hs4)

theorem State.Has.stopCore {s : State} {c : Nat} (h : s.Has K) : (s.stopCore c).Has K :=
  .setIrq (.upd (.dite (fun _ => h.abortOn.dropSlot.flushProd) (fun _ => h.abortOn.dropSlot)) rfl)

theorem State.Has.freePack {s : State} {p : Nat} {us : List Nat} (h : s.Has K) : (s.freePack p us).Has K :=
  .setKn (h.foldl fun _ _ hs => .freeEntry (.ite hs.returnTask hs))

theorem State.Has.forgetTile {s : State} {t : Nat} (h : s.Has K) : (s.forgetTile t).Has K := .upd h rfl

theorem State.Has.flowClear {s : State} (h : s.Has K) : (s.flowClear).Has K := .upd h rfl

theorem State.Has.macClear {s : State} {m : Fin 128} (h : s.Has K) : (s.macClear m).Has K := .setLv (.upd h.flushProd rfl)

theorem State.Has.abortUnit [K.Quiet] {s : State} {us : List Nat} {u : Nat} (h : s.Has K) : (s.abortUnit us u).Has K := by
  unfold State.abortUnit
  split
  · exact .dite (fun _ => h.resetTile.forgetTile.flushProd) (fun _ => h.resetTile.forgetTile)
  · exact h.freePack
  · exact .dite (fun _ => .dite (fun _ => .upd h.abortJob.abortOn.flushProd rfl) (fun _ => .ite h.houndReset.flushProd (.ite (.upd
      (h.foldl fun _ _ hs => .dite (fun _ => hs.dmaKill.flushProd) (fun _ => hs)) rfl) h))) (fun _ => h)
  · exact h.stopCore
  · exact h.flowClear
  · exact .dite (fun _ => h.macClear) (fun _ => h)
  · exact h.octetHold
  · exact h.gplDown
  · exact h

theorem State.Has.absent {s : State} {us : List Nat} (h : s.Has K) : (s.absent us).Has K :=
  .foldl (h.foldl fun _ _ hs => hs.setUn) fun _ _ hs => .ite hs hs.maskReq

theorem State.Has.dropWork {s : State} {us : List Nat} (h : s.Has K) : (s.dropWork us).Has K := .upd h rfl

theorem State.Has.carrierClear {s : State} {c : Nat} (h : s.Has K) : (s.carrierClear c).Has K :=
  .dite (fun _ => .setLv (.upd h rfl)) (fun _ => .upd h rfl)

theorem State.Has.releaseShares {s : State} {p : Nat} (h : s.Has K) : (s.releaseShares p).Has K := by
  unfold State.releaseShares
  extract_lets rs s1 s2 s3 ms
  have hs1 : s1.Has K := h.foldl fun _ _ hs => hs.setFlag
  clear_value s1
  have hs2 : s2.Has K := .ite hs1 hs1.noteDefaulted
  clear_value s2
  have hs3 : s3.Has K := by
    unfold s3
    refine hs2.foldl fun _ _ hs => .ite ?_ hs
    extract_lets n
    exact hs.dmaKill.flushProd
  clear_value s3
  exact .upd hs3 rfl

theorem State.Has.resetSteps [K.Quiet] {s : State} {k : RKind} {us ps : List Nat} (h : s.Has K) : (s.resetSteps k us ps).Has K := by
  unfold State.resetSteps
  extract_lets b cs tr s1 s2 s3 errs before s4 lost shared s5 s6 s7 s8 s9 s10 s11
  have hs1 : s1.Has K := by
    refine h.foldl fun s p hs => .hoReset ?_
    exact .upd (hs.setEntN (k := Key.rstPtStat p) (n := psReset)) rfl
  have hs2 : s2.Has K := hs1.absent.dropWork
  have hs3 : s3.Has K := hs2.foldl fun _ _ hs => hs.ttDefaultK
  have hs4 : s4.Has K := hs3.foldl fun _ _ hs => hs.abortUnit
  have hs5 : s5.Has K := hs4.dropEntries
  have hs6 : s6.Has K := hs5.foldl fun _ _ hs => hs.releaseShares
  have hs7 : s7.Has K := hs6.foldl fun _ _ hs => hs.carrierClear
  have hs8 : s8.Has K := hs7.defaultScope
  have hs9 : s9.Has K := hs8.foldl fun _ _ hs => .ite hs.setEntN hs
  have hs10 : s10.Has K := hs9.foldl fun _ _ hs => .ite hs.setTl hs
  have hs11 : s11.Has K := hs10.noteDefaulted
  exact hs11.dialectsSince

theorem State.Has.endTrials {s : State} {ps : List Nat} (h : s.Has K) : (s.endTrials ps).Has K := by
  unfold State.endTrials
  refine h.foldl fun _ _ hs => ?_
  split
  · exact .record (.ownCommit (.upd hs rfl))
  · exact hs

theorem State.Has.requestReset [K.Quiet] {s : State} {k : RKind} {target source : Nat} {us : List Nat} {ps : List (Nat × Bool)}
    (h : s.Has K) : (s.requestReset k target source us ps).1.Has K := by
  unfold State.requestReset
  extract_lets w s1 pu u s2 pu1 s3
  have hu : u.Has K := h.endTrials.resetSteps
  have hs3 : s3.Has K := h.endTrials.resetSteps
  split
  · exact .fst hu.withResetJob
  · exact .fst_ite (.fst h.withResetJob) (.fst_ite (.fst hs3.withResetJob) (.fst hs3.withResetJob))

theorem State.Has.unitReset [K.Quiet] {s : State} {u source : Nat} (h : s.Has K) : (s.unitReset u source).1.Has K := by
  unfold State.unitReset
  split
  · exact h.requestReset
  · exact h

theorem State.Has.partReset [K.Quiet] {s : State} {p source : Nat} {hold : Bool} (h : s.Has K) :
    (s.partReset p source hold).1.Has K := by
  unfold State.partReset
  split
  · exact h.requestReset
  · exact h

theorem State.Has.startTiles {s : State} {us : List Nat} (h : s.Has K) : (s.startTiles us).Has K :=
  h.foldl fun _ _ hs => .ite hs.startTile hs

theorem State.Has.releaseUnits {s : State} {us : List Nat} (h : s.Has K) : (s.releaseUnits us).Has K := by
  unfold State.releaseUnits
  refine .foldl (.foldl (.startTiles (h.foldl fun _ _ hs => hs.setUn)) fun _ _ hs => ?_) fun _ _ hs => .ite hs.unmaskReq hs
  split
  · exact .octetStart (.upd hs rfl)
  · exact hs.gplTrain
  · exact hs

theorem State.Has.noteReset {s : State} {j : ResetJob} (h : s.Has K) : (s.noteReset j).Has K := by
  unfold State.noteReset
  extract_lets ns last s1 s2
  have hs1 : s1.Has K := h.setEnt.record
  have hs2 : s2.Has K := by
    unfold s2
    split
    · exact hs1.incSat
    · exact hs1.incSat
    · exact hs1.incSat
    · exact hs1
  exact .upd hs2 rfl

theorem State.Has.setOcts {s : State} {f : Nat → Nat} {bs : List Byte} (h : s.Has K) : (s.setOcts f bs).Has K :=
  foldl_of_step (fun p : State × ℕ => p.1.Has K) h fun _ _ hs => hs.setEnt

theorem State.Has.fwAttempt {s : State} {p slot : Nat} {health : FlashHealth} (h : s.Has K) :
    (s.fwAttempt p slot health).1.Has K := by
  unfold State.fwAttempt
  extract_lets a b r s1
  have hs1 : s1.Has K := h.foldl fun _ _ hs => hs.store
  split
  rename_i t _ he
  have ht := has_of_fst_eq (.fst_ite (.fst h) (.fst_ite (.fst h) (.fst hs1))) he
  exact .fst (.record (.ite ht.setFld ht.setFld))

theorem State.Has.rollback {s : State} {p cause : Nat} (h : s.Has K) : (s.rollback p cause).Has K :=
  .record (.ownCommit (.upd h rfl))

theorem State.Has.fwStart {s : State} {p slot : Nat} {trial : Bool} (h : s.Has K) : (s.fwStart p slot trial).Has K := by
  unfold State.fwStart
  extract_lets b b1 s1 s2 u s3 cs s4
  have hs1 : s1.Has K := h.setOcts
  have hs2 : s2.Has K := hs1.setFlag.setFld.setEntN
  have hu : u.Has K := hs2.setPartState
  have hs3 : s3.Has K := .upd hu rfl
  have hs4 : s4.Has K := hs3.foldl fun _ _ hs => .upd hs rfl
  exact hs4.releaseUnits.dialectsSince

theorem State.Has.fwLoad {s : State} {p : Nat} {health : FlashHealth} (h : s.Has K) : (s.fwLoad p health).Has K := by
  unfold State.fwLoad
  extract_lets active forced trial first u s1
  have hu : u.Has K := h.setEntN
  have hs1 : s1.Has K := .upd hu rfl
  split
  · rename_i t _ he
    have ht := has_of_fst_eq hs1.fwAttempt he
    extract_lets s2
    have hs2 : s2.Has K := .ite ht.rollback ht
    refine .ite ht.fwStart ?_
    split
    · rename_i t1 _ he
      have ht1 := has_of_fst_eq hs2.fwAttempt he
      exact .ite ht1.fwStart ht1.setEntN

theorem State.Has.loadNext {s : State} (h : s.Has K) : (s.loadNext).Has K := by
  unfold State.loadNext
  split
  · exact .ite h h.setEntN.setEntN
  · exact h

theorem State.Has.queueLoads {s : State} {ps : List Nat} (h : s.Has K) : (s.queueLoads ps).Has K :=
  .loadNext (.upd (h.foldl fun _ _ hs => hs.setEntN) rfl)

theorem State.Has.uartWrite {s : State} {w : UartWord} (h : s.Has K) : (s.uartWrite w).Has K := .ite (.upd h rfl) h

theorem State.Has.setPhase {s : State} {x : Nat} (h : s.Has K) : (s.setPhase x).Has K := .ite h.setFld h.setFld.uartWrite

theorem State.Has.bootTime {s : State} {hi lo : Nat} (h : s.Has K) : (s.bootTime hi lo).Has K := .upd h rfl

theorem State.Has.bootRecord {s : State} (h : s.Has K) : (s.bootRecord).Has K := h.record

theorem State.Has.purgePart [K.Quiet] {s : State} {p : Nat} (h : s.Has K) : (s.purgePart p).Has K := by
  unfold State.purgePart
  extract_lets s1 peers bufs
  have hs1 : s1.Has K := h.foldl fun _ _ hs => .ite hs.setFlag hs
  split
  · rename_i t _ _ he
    have ht := has_of_fst_eq hs1.flPurge he
    exact ht.noteDefaulted.record

theorem State.Has.holdPart [K.Quiet] {s : State} {p source : Nat} (h : s.Has K) : (s.holdPart p source).Has K := by
  unfold State.holdPart
  extract_lets us s1 s2
  have hs1 : s1.Has K := h.endTrials.resetSteps
  have hs2 : s2.Has K := hs1.purgePart
  exact hs2.setEntN.noteReset

theorem State.Has.commitOpsec {s : State} (h : s.Has K) : (s.commitOpsec).Has K := by
  unfold State.commitOpsec
  extract_lets u
  have hu : u.Has K := h.setEntN
  exact .ite h (.upd hu rfl)

theorem State.Has.enterHold [K.Quiet] {s : State} {cause : Nat} (h : s.Has K) : (s.enterHold cause).Has K := by
  unfold State.enterHold
  extract_lets boot job s1 s2 s3 s4 s5 us s6 s7 s8 s9 s10
  have hs1 : s1.Has K := .upd h rfl
  have hs2 : s2.Has K := by
    clear_value job s1
    cases job with
    | some j => exact hs1.noteReset
    | none => exact hs1
  have hs3 : s3.Has K := hs2.foldl fun _ _ hs => hs.holdPart
  have hs4 : s4.Has K := hs3.foldl fun _ _ hs => hs.octetIdle
  have hs5 : s5.Has K := hs4.foldl fun _ _ hs => hs.gplDown
  have hs6 : s6.Has K := hs5.absent
  clear_value s6
  have hs8 : s8.Has K := hs6.withHold
  have hs10 : s10.Has K := hs8.setPhase.setFld.uartWrite.commitOpsec.record
  exact .ite hs10.bootRecord hs10

theorem State.Has.checkReady {s : State} (h : s.Has K) : (s.checkReady).Has K := by
  unfold State.checkReady
  extract_lets u
  have hu : u.Has K := h.setPhase.bootTime
  exact .ite (.bootRecord (.upd hu rfl)) h

theorem State.Has.enterStart [K.Quiet] {s : State} (h : s.Has K) : (s.enterStart).Has K := by
  unfold State.enterStart
  refine .ite (.enterHold (h.foldl fun _ _ hs => .ite hs hs.setEntN)) (.checkReady (.releaseUnits ?_))
  split
  · exact h.setPhase.bootTime.noteReset
  · exact h.setPhase.bootTime

theorem State.Has.enterLoad [K.Quiet] {s : State} (h : s.Has K) : (s.enterLoad).Has K :=
  .ite h.enterHold (.ite (.enterStart (.queueLoads (.upd h.setPhase rfl))) (.queueLoads (.upd h.setPhase rfl)))

theorem State.Has.recorderBoot {s : State} (h : s.Has K) : (s.recorderBoot).Has K := by
  unfold State.recorderBoot
  extract_lets q
  refine .ite ?_ h
  split
  · extract_lets u
    have hu : u.Has K := h.setEntN
    exact .upd hu rfl

theorem State.Has.nvBoot {s : State} (h : s.Has K) : (s.nvBoot).Has K := by
  unfold State.nvBoot
  extract_lets c s1 u e u1
  have hs1 : s1.Has K := .upd h rfl
  have hu : u.Has K := hs1.foldl fun _ _ hs => hs.setEnt
  have hu1 : u1.Has K := hs1.setFlag
  exact .ite (.upd hu rfl) (.noteDefaulted (.upd hu1 rfl))

theorem State.Has.romPhase {s : State} (h : s.Has K) : (s.romPhase).Has K := by
  unfold State.romPhase
  extract_lets k s1 s2 u
  have hs1 : s1.Has K := h.recorderBoot.nvBoot
  have hs2 : s2.Has K := .ite hs1.noteDefaultAll hs1.noteDefaulted
  have hu : u.Has K := hs2.uartWrite.bootTime
  exact .upd hu rfl

theorem State.Has.zeroSram {s : State} (h : s.Has K) : s.zeroSram.Has K :=
  .filterMem _ (fun a => !(keepsMem a)) h rfl rfl (List.Subset.refl _)

theorem State.Has.zeroAll {s : State} (h : s.Has K) : s.zeroAll.Has K :=
  .filterMem _ (fun a => !(match regionOf a with | .mram => true | _ => keepsInner a)) h rfl rfl (List.Subset.refl _)

theorem State.Has.clearDomain {s : State} (h : s.Has K) : (s.clearDomain).Has K :=
  K.less h (.inl rfl) (fun _ hi => hi) (List.nil_subset _)

theorem State.Has.deviceDefaults {s : State} {k : RKind} {aon : Bool} (h : s.Has K) : (s.deviceDefaults k aon).Has K := .upd h rfl

theorem State.Has.deviceReset [K.Quiet] {s : State} {k : RKind} {source : Nat} {aon : Bool} (h : s.Has K) :
    (s.deviceReset k source aon).Has K := by
  unfold State.deviceReset
  extract_lets job s1 u s2 s3
  have hs1 : s1.Has K := h.endTrials.tableClear
  have hu : u.Has K := hs1.clearDomain
  have hs2 : s2.Has K := .deviceDefaults (.zeroSram (.upd hu rfl))
  have hs3 : s3.Has K := .upd hs2 rfl
  exact hs3.foldl fun _ _ hs => hs.maskReq

theorem State.Has.warmReset [K.Quiet] {s : State} {source : Nat} (h : s.Has K) : (s.warmReset source).Has K := by
  unfold State.warmReset
  extract_lets post s1 s2
  have hs1 : s1.Has K := h.deviceReset
  clear_value s1
  have hs2 : s2.Has K := .romPhase (.upd hs1 rfl)
  clear_value s2
  exact .ite hs2.setPhase hs2.enterLoad

theorem State.Has.bootFromRom {s : State} (h : s.Has K) : (s.bootFromRom).Has K := h.romPhase.setPhase

theorem State.Has.setLadder {s : State} {l : Nat} {x : ChargedUnit} {step count : Nat} (h : s.Has K) :
    (s.setLadder l x step count).Has K := by
  unfold State.setLadder
  split
  · exact h.setFld
  · exact h.setFld
  · exact .upd h rfl

theorem State.Has.quarantine [K.Quiet] {s : State} {u cause : Nat} {auto : Bool} (h : s.Has K) :
    (s.quarantine u cause auto).Has K := by
  unfold State.quarantine
  extract_lets u1 s1 s2 s3 s4 s5
  have hs1 : s1.Has K := h.setUn
  have hs2 : s2.Has K := hs1.setEntN.incSat
  have hs3 : s3.Has K := by
    unfold s3
    refine hs2.foldl fun _ _ hs => ?_
    split
    · exact hs.abortOn.untask
    · exact .dite (fun _ => hs.abortJob.abortOn) (fun _ => hs)
    · exact hs.abortOn
    · exact hs
  have hs4 : s4.Has K := .ite hs3.octetIdle hs3
  have hs5 : s5.Has K := .ite hs4.gplDown hs4
  exact .ite h (hs5.foldl fun _ _ hs => .ite hs hs.maskReq)

theorem State.Has.sheepIrq {s : State} (h : s.Has K) : (s.sheepIrq).Has K := .upd h rfl

theorem State.Has.takeStep [K.Quiet] {s : State} {l : Nat} {x : ChargedUnit} {step : Nat} (h : s.Has K) :
    (s.takeStep l x step).Has K := by
  unfold State.takeStep
  split
  · split
    · exact h.quarantine
    · exact h.setFlag.setFlag
    · exact h
  · split
    · exact h.partReset
    · exact h
  · exact h.warmReset

theorem State.Has.setShdLast {s : State} {x : ChargedUnit} {w : U64} (h : s.Has K) : (s.setShdLast x w).Has K := by
  unfold State.setShdLast
  split
  · exact h.setEnt
  · exact h

theorem State.Has.noteExpiry {s : State} {l : Nat} {x : ChargedUnit} {action info : Nat} (h : s.Has K) :
    (s.noteExpiry l x action info).Has K :=
  .ite (.record (.setShdLast (.upd h rfl))) (.setShdLast (.upd h rfl))

theorem State.Has.withShdTold {s : State} {t : Tab Nat} (h : s.Has K) : ({ s with shdTold := t } : State).Has K := .upd h rfl

theorem State.Has.charge [K.Quiet] {s : State} {l : Nat} {x : ChargedUnit} {action info : Nat} (h : s.Has K) :
    (s.charge l x action info).Has K := by
  unfold State.charge
  extract_lets s1 s2 s3 s4 cfg
  have hs1 : s1.Has K := h.inc32
  have hs2 : s2.Has K := by
    unfold s2
    split
    · exact hs1.incSat
    · exact hs1
  have hs3 : s3.Has K := .ite hs2.setLadder hs2
  have hs4 : s4.Has K := hs3.withShdTold
  refine .ite hs4.setShdLast ?_
  split
  · extract_lets s5
    have hs5 : s5.Has K := hs4.setLadder
    refine .ite hs4.setLadder.noteExpiry ?_
    split
    · extract_lets s6 q s7
      have hs6 : s6.Has K := hs5.setLadder
      have hs7 : s7.Has K := hs6.setShdLast.record
      exact hs7.sheepIrq.takeStep
    · exact hs5.noteExpiry

theorem State.Has.returnUnit [K.Quiet] {s : State} {u result : Nat} (h : s.Has K) : (s.returnUnit u result).Has K := by
  unfold State.returnUnit
  extract_lets u1 s1 u2 s2
  have hs1 : s1.Has K := h.setUn
  have hu2 : u2.Has K := hs1.setEntN
  have hs2 : s2.Has K := .upd hu2 rfl
  exact hs2.record.unitReset

theorem State.Has.reportAnchor [K.Quiet] {s : State} {c unit addr : Nat} (h : s.Has K) : (s.reportAnchor c unit addr).Has K :=
  .dite (fun _ => h.incSat.protectionIrq.record.charge) (fun _ => h.incSat.protectionIrq.record)

theorem State.Has.anchorFail [K.Quiet] {s : State} {a : Nat} (h : s.Has K) : (s.anchorFail a).Has K :=
  h.setPoison.logError.reportAnchor

theorem State.Has.startRefetch [K.Quiet] {s : State} {w r : Nat} (h : s.Has K) : (s.startRefetch w r).Has K :=
  .ite h (.ite (.upd h rfl) h.anchorFail)

theorem State.Has.meetFresh [K.Quiet] {s : State} {r a n : Nat} (h : s.Has K) : (s.meetFresh r a n).Has K :=
  h.foldl fun _ _ hs => .ite (.ite hs.startRefetch hs.poisonWord) hs

theorem State.Has.refetched {s : State} {a : Nat} {anchorOk : Bool} (h : s.Has K) :
    ∀ t, s.refetched a anchorOk = some t → t.Has K := by
  intro t ht
  unfold State.refetched at ht
  split at ht
  · split at ht
    · cases ht
      exact .fewer (fun i => i / 8 == a / 8) h rfl rfl (List.Subset.refl _)
    · cases ht
  · split at ht
    · split at ht
      · cases ht
        exact h.store
      · cases ht
    · cases ht

theorem State.Has.execAnchorRefetchDone [K.Quiet] {a : BitVec 55} {anchorOk : Bool} {s : State} (h : s.Has K) :
    Out.Has K (execAnchorRefetchDone a anchorOk s) := by
  unfold Machine.execAnchorRefetchDone
  extract_lets a1 fetching s1 s2
  have hs1 : s1.Has K := .ite h.startRefetch h
  have hs2 : s2.Has K := .upd hs1 rfl
  show State.Has K _
  split
  · refine .ite hs2 ?_
    split
    · rename_i t1 he
      have ht1 := has_of_some hs2.refetched he
      exact ht1.noteCorrected
    · exact hs2.anchorFail
  · exact hs1

theorem State.Has.execMergeFlush [K.Marks] [K.Quiet] {port block : Nat} {s : State} (h : s.Has K) :
    Out.Has K (execMergeFlush port block s) := by
  unfold Machine.execMergeFlush
  show State.Has K _
  split
  · exact .ite h.flushMerge h
  · exact h

theorem State.Has.remapNow [K.Quiet] {s : State} {c unit addr : Nat} (h : s.Has K) : (s.remapNow c unit addr).Has K := by
  unfold State.remapNow
  split
  · exact h.ownCommit.record.protectionIrq
  · exact .dite (fun _ => h.ownCommit.record.charge) (fun _ => h.ownCommit.record)

theorem State.Has.remapAdd [K.Quiet] {s : State} {c unit addr : Nat} (h : s.Has K) : (s.remapAdd c unit addr).Has K :=
  .ite h.remapNow (.ite h h.mramWait)

theorem State.Has.remapRepeat [K.Quiet] {s : State} {c unit addr : Nat} (h : s.Has K) : (s.remapRepeat c unit addr).Has K :=
  .ite h.remapAdd h

theorem State.Has.poisonInner [K.Quiet] {s : State} {c u off : Nat} (h : s.Has K) : (s.poisonInner c u off).Has K :=
  h.setPoison.notePoisoned.remapRepeat

theorem State.Has.meetInner [K.Marks] [K.Quiet] {s : State} {w : InnerWord} (h : s.Has K) : (s.meetInner w).Has K := by
  unfold State.meetInner
  refine .ite h ?_
  split
  · exact h.withFresh.startRefetch
  · exact h.withFresh.startRefetch
  · exact h.withFresh.startRefetch
  · split
    · rename_i _ t he
      have ht := has_of_snd_eq h.drawBelow he
      exact .remapRepeat (.notePoisoned (.ite ht ht.setEntry))
  · exact .ite (.ite h.poisonInner.setPoison h.poisonInner) h.withFresh.startRefetch
  · exact h.poisonInner
  · exact h.poisonInner
  · exact .ite h.poisonInner h.withFresh.startRefetch
  · exact h

theorem State.Has.walkInner [K.Marks] [K.Quiet] {s : State} {ws : List InnerWord} {p : InnerWord → Bool} (h : s.Has K) :
    (s.walkInner ws p).Has K :=
  h.foldl fun _ _ hs => hs.meetInner

theorem State.Has.mramDrain [K.Marks] [K.Quiet] {s : State} (h : s.Has K) : (s.mramDrain).Has K := by
  unfold State.mramDrain
  refine .foldl (.upd h rfl) fun _ _ hs => ?_
  split
  · exact hs.remapNow
  · exact hs.ownImage
  · exact hs.writeMem

theorem State.Has.groomWord [K.Quiet] {s : State} {verify : Bool} {w : Nat} (h : s.Has K) : (s.groomWord verify w).Has K := by
  unfold State.groomWord
  refine .ite h.meetFresh (.ite h ?_)
  split
  · exact .ite h.store.inc32.logError h
  · exact h

theorem State.Has.walkOn {s : State} {key who hi width size ticks : Nat} (h : s.Has K) :
    (s.walkOn key who hi width size ticks).Has K :=
  .ite (.setFld (.ite (.upd h rfl) h)) (.setFld (.incWrap (.setFld (.ite (.upd h rfl) h))))

theorem State.Has.walked {s : State} {who : Nat} (h : s.Has K) : (s.walked who).Has K := .upd h rfl

theorem State.Has.execGroomerBlock [K.Marks] [K.Quiet] {p : Fin 8} {upset : List Addr} {inner : List InnerWord} {s : State}
    (h : s.Has K) : Out.Has K (execGroomerBlock p upset inner s) :=
  State.Has.ite (.walkOn (h.walked.upset.flushOver.walkInner.foldl fun _ _ hs => hs.groomWord)) h

theorem State.Has.hbmPoison {s : State} {a n : Nat} (h : s.Has K) : (s.hbmPoison a n).Has K :=
  h.foldl fun _ _ hs => .ite hs hs.setPoison.notePoisoned

theorem State.Has.execHbmScrubTransfer [K.Marks] [K.Quiet] {r : HbmReport} {upset : List Addr} {inner : List InnerWord} {s : State}
    (h : s.Has K) : Out.Has K (execHbmScrubTransfer r upset inner s) := by
  unfold Machine.execHbmScrubTransfer
  extract_lets n a s1 s2 s3 m s4
  have hs1 : s1.Has K := h.walked.flushOver
  have hs2 : s2.Has K := by
    unfold s2
    split
    · exact hs1
    · exact hs1.noteCorrected
    · exact hs1.hbmPoison
    · exact hs1.hbmPoison
  have hs3 : s3.Has K := hs2.walkInner
  have hs4 : s4.Has K := .ite hs3.upset.readTouch hs3
  exact State.Has.ite hs4.readTouch.walkOn h

theorem State.Has.emptyLog {s : State} {c : Nat} (h : s.Has K) : (s.emptyLog c).Has K := .upd h rfl

theorem State.Has.execEpClassClear {rq : Requester} {c : Fin 16} {s : State} (h : s.Has K) : Out.Has K (execEpClassClear rq c s) :=
  State.Has.guarded h h.emptyLog

theorem State.Has.epCntRead {s : State} {c : Nat} (h : s.Has K) : (s.epCntRead c).Has K := .upd h rfl

theorem State.Has.execEpErrorRecord {c : Fin 16} {s : State} (h : s.Has K) : Out.Has K (execEpErrorRecord c s) :=
  State.Has.ite (.upd h.record rfl) h

theorem State.Has.frontOf {s : State} {x : Producer} (h : s.Has K) : ∀ t, s.frontOf x = some t → t.2.Has K := by
  intro t ht
  unfold State.frontOf at ht
  split at ht
  · cases ht
  · split at ht
    · cases ht
    · cases ht
      exact h.setQueue

theorem State.Has.execDescriptorSubmit {src : Producer} {badPath : Bool} {s : State} (h : s.Has K) :
    Out.Has K (execDescriptorSubmit src badPath s) := by
  unfold Machine.execDescriptorSubmit
  show State.Has K _
  split
  · rename_i _ _ _ t he
    have ht := has_of_some_snd h.frontOf he
    exact ht.submitDesc
  · exact h

theorem State.Has.execDeferredDescriptorAllocate {p : Fin 8} {s : State} (h : s.Has K) :
    Out.Has K (execDeferredDescriptorAllocate p s) := by
  unfold Machine.execDeferredDescriptorAllocate
  extract_lets k
  split
  · show State.Has K _
    split
    · exact h
    · extract_lets s1
      have hs1 : s1.Has K := h.setKn
      split
      · exact hs1.refuseDesc
      · exact hs1.acceptDesc

theorem State.Has.execTokenAccept {src : Producer} {path : TokenPath} {s : State} (h : s.Has K) :
    Out.Has K (execTokenAccept src path s) := by
  unfold Machine.execTokenAccept
  show State.Has K _
  split
  · rename_i _ _ _ t1 he
    have ht1 := has_of_some_snd h.frontOf he
    extract_lets home s'
    have hs' : s'.Has K := by
      unfold s'
      split
      · exact ht1.store
      · exact ht1
    split
    · exact hs'.deliverToken
    · exact hs'.knCount.notePath
    · exact hs'.deliverToken.notePath
  · rename_i _ _ t1 he
    have ht1 := has_of_some_snd h.frontOf he
    exact ht1.deliverToken
  · exact h

theorem State.Has.setPrt {s : State} {c : Nat} {x : Port} (h : s.Has K) : (s.setPrt c x).Has K := .upd h rfl

theorem State.Has.toTile {s : State} {p i t : Nat} (h : s.Has K) : (s.toTile p i t).Has K :=
  .retire (.store (.ite h.setKn.inc64.incWrap.incWrap.setFld.setUn h.setKn.inc64.incWrap.incWrap.setFld))

theorem State.Has.toUnit {s : State} {p i u : Nat} (h : s.Has K) : (s.toUnit p i u).Has K :=
  .ite h.setEntry.inc64.incWrap.store.setPrt h.setEntry.inc64.incWrap

theorem State.Has.poisonEntry [K.Quiet] {s : State} {p i : Nat} (h : s.Has K) : (s.poisonEntry p i).Has K :=
  h.setEntry.notePoisoned.remapRepeat

theorem State.Has.execTaskDispatch [K.Quiet] {p : Fin 8} {parity : Bool} {s : State} (h : s.Has K) :
    Out.Has K (execTaskDispatch p parity s) := by
  unfold Machine.execTaskDispatch
  show State.Has K _
  split
  · exact .toTile (.ite h.poisonEntry h)
  · exact .toUnit (.ite h.poisonEntry h)
  · exact h.endTask
  · exact h

theorem State.Has.execUnitDownSweep {p : Fin 8} {s : State} (h : s.Has K) : Out.Has K (execUnitDownSweep p s) := by
  unfold Machine.execUnitDownSweep
  refine State.Has.ite h ?_
  split
  · rename_i _ t he
    have ht := has_of_snd_eq h.drawBelow he
    exact ht.endTask

theorem State.Has.lameMedians {s : State} {p : Fin 8} (h : s.Has K) : (s.lameMedians p).Has K :=
  .ite (h.setKn.foldl fun _ _ hs => hs.foldl fun _ _ hs1 => .ite hs1.setUn.incSat.noteLame hs1) h.setKn

theorem State.Has.execLameMedianRecompute {p : Fin 8} {s : State} (h : s.Has K) : Out.Has K (execLameMedianRecompute p s) :=
  State.Has.ite h.lameMedians h

theorem State.Has.execLameProbeDue {t : Fin 512} {s : State} (h : s.Has K) : Out.Has K (execLameProbeDue t s) :=
  State.Has.ite h.setUn h

theorem State.Has.setCar {s : State} {c : Nat} {x : Carrier} (h : s.Has K) : (s.setCar c x).Has K := .upd h rfl

theorem State.Has.reopenBank {s : State} {c sq at_ : Nat} (h : s.Has K) : (s.reopenBank c sq at_).Has K := .upd h rfl

theorem State.Has.instRows {s : State} {c : Fin 384} {p sq off part : Nat} {l : List Nat} (h : s.Has K) :
    (s.instRows c p sq off part l).1.Has K := by
  induction l generalizing s with
  | nil => exact h
  | cons r l ih => exact ih h.beginOcc.allocate.store

theorem State.Has.rowAfar {s : State} {p i g part : Nat} {start : Option U64} (h : s.Has K) : (s.rowAfar p i g part start).Has K :=
  h.forward.setEntry.endTask

theorem State.Has.rowTest {s : State} {p part i : Nat} {start : Option U64} (h : s.Has K) : (s.rowTest p part i start).Has K := by
  unfold State.rowTest
  extract_lets x
  split
  · exact h.rowAfar
  · split
    · extract_lets s1
      have hs1 : s1.Has K := .ite h.knCount h
      exact hs1.endTask
    · exact h

theorem State.Has.rowStart {s : State} {p part i : Nat} {start : Option U64} (h : s.Has K) : (s.rowStart p part i start).Has K := by
  unfold State.rowStart
  split
  · exact h.deliverToken.readyIf
  · exact h.readyIf

theorem State.Has.instStart {s : State} {p part at_ : Nat} {l : List (Nat × List U64)} (h : s.Has K) :
    (s.instStart p part at_ l).Has K :=
  .foldl (h.foldl fun _ _ hs => hs.rowTest) fun _ _ hs => .ite hs.rowStart hs

theorem State.Has.planFails {s : State} {c : Fin 384} {p sq reason : Nat} (h : s.Has K) : (s.planFails c p sq reason).Has K :=
  h.incSat.setSticky.setSticky.record

theorem State.Has.planReady {s : State} {c : Fin 384} (h : s.Has K) : (s.planReady c).Has K :=
  h.foldl fun _ _ hs => .ite hs hs.applyDeferred

theorem State.Has.slotStart {s : State} {c : Fin 384} {at_ : Nat} (h : s.Has K) : (s.slotStart c at_).Has K := by
  suffices H : ∀ rowsOf, rowsOf = State.instRows → ∀ f, f = State.slotStart → (f s c at_).Has K from H _ rfl _ rfl
  intro rowsOf hrows f hf
  delta State.slotStart at hf
  rw [← hrows] at hf
  subst hf
  beta_reduce
  extract_lets s1 cfg p x sq rows busy reason s2 s3 s4 part s5
  have hs3 : s3.Has K := h.planReady.setCar.reopenBank
  have hs4 : s4.Has K := .ite (.upd hs3 rfl) hs3
  have hs5 : s5.Has K := hs4.store
  generalize reason = why
  cases why with
  | some w => exact hs4.planFails
  | none =>
    have ht : (rowsOf s5 c p sq (bf cfg 23 0) part rows).1.Has K := hrows ▸ hs5.instRows
    exact .ite ht.incWrap.setFld.instStart ht.incWrap.setFld.instStart.disarmL2

theorem State.Has.execPlanInstantiate {c : Fin 384} {u : Fin 64} {row : Fin 16} {s : State} (h : s.Has K) :
    Out.Has K (execPlanInstantiate c u row s) := by
  unfold Machine.execPlanInstantiate
  show State.Has K _
  split
  · exact .ite (.slotStart (.wakePack (.upd h rfl))) (.upd h rfl)
  · exact h

theorem State.Has.portPush {s : State} {c : Fin 16} {v : U64} (h : s.Has K) : (s.portPush c v).Has K :=
  .ite h.store h.store.sendItem

theorem State.Has.execPortPush {c : Fin 16} {v : U64} {s : State} (h : s.Has K) : Out.Has K (execPortPush c v s) :=
  State.Has.ite h.portPush h

theorem State.Has.portDone {s : State} {c : Fin 16} {hd : Nat} (h : s.Has K) : (s.portDone c hd).Has K :=
  .ite h.knCount (.ite h.endTask h.knCount)

theorem State.Has.execPortDone {c : Fin 16} {handle : BitVec 32} {s : State} (h : s.Has K) : Out.Has K (execPortDone c handle s) :=
  State.Has.ite h.portDone h

theorem State.Has.portTail {s : State} {c : Fin 16} {m : PrivMode} {v : U64} (h : s.Has K) : (s.portTail c m v).Has K :=
  .ite h.setPrt h.accessFault.answer

theorem State.Has.execPortRingTailWrite {c : Fin 16} {v : U64} {s : State} (h : s.Has K) :
    Out.Has K (execPortRingTailWrite c v s) :=
  State.Has.ite h.portTail h

theorem State.Has.portAccess {s : State} {c : Fin 16} {m : PrivMode} {off n : Nat} {data : Option (List Byte)} (h : s.Has K) :
    (s.portAccess c m off n data).Has K := by
  unfold State.portAccess
  split
  · split
    · exact h.answer
    · exact .ite h.answer h.accessFault.answer
  · exact .ite h.store.status (.ite h.portPush.status (.ite h.portTail (.ite h.portDone.status h.accessFault.answer)))

theorem State.Has.readServed [K.Quiet] {s : State} {who : Accessor} {a n : Nat} (h : s.Has K) : (s.readServed who a n).Has K := by
  unfold State.readServed
  extract_lets s1
  have hs1 : s1.Has K := by
    unfold s1
    split
    · exact h.reportAnchor
    · exact h
  split
  · exact h.startRefetch.answer
  · split
    · rename_i t _ _ he
      have ht := has_of_fst_eq hs1.readMem he
      split
      · exact ht.answer
      · exact ht.answer

theorem State.Has.execMemoryAccess [K.Marks] [K.Quiet] {a : MemAccess} {s : State} (h : s.Has K) :
    Out.Has K (execMemoryAccess a s) := by
  unfold Machine.execMemoryAccess
  extract_lets x n r r1
  have hr : r.1.Has K := by
    unfold r
    split
    · exact h.remoteRead
    · exact h.remoteWrite
  have hr1 : r1.1.Has K := by
    unfold r1
    split
    · exact h.remoteRead
    · exact h.remoteWrite
  refine .ite h ?_
  split
  · exact State.Has.ite h.portAccess h.accessFault.answer
  · exact State.Has.ite hr.answer hr.accessFault.answer
  · exact State.Has.ite hr1.answer hr1.accessFault.answer
  · refine .ite h.accessFault.answer (.ite h.notePath.answer ?_)
    split
    · exact h.answer
    · exact h.ctlWrite.status
    · exact State.Has.ite h.mramWait.answer h.upset.writeMem.status
    · exact h.upset.writeMem.status
    · exact State.Has.readServed (.ite h.hbmPoison h.upset)
    · exact h.upset.readServed

end Sys2Proof.Machine
end

section
/-!
PROOFS. Properties of memory, one rule per operation: coding, Gelpel, the recorder, pins, the dictionary read, firmware and power.
-/
namespace Sys2Proof.Machine

variable {K : MemProp}

theorem State.Has.readHarq [K.Quiet] {x : Run} {p : Fin 8} {t : Tb} {cd : CbDims} {r : Nat} (h : x.s.Has K) :
    (readHarq x p t cd r).1.s.Has K := by
  unfold Machine.readHarq
  extract_lets fresh a n
  split
  · exact h
  · split
    · rename_i t1 _ he
      have ht1 := has_of_run_eq h.Run_read he
      extract_lets f same passed
      split
      · exact ht1
      · split
        · split
          · rename_i t2 _ he
            have ht2 := has_of_run_eq ht1.Run_read he
            extract_lets bad gone
            exact ht2
        · exact ht1

theorem State.Has.writeHarq [K.Marks] [K.Quiet] {x : Run} {p : Fin 8} {t : Tb} {cd : CbDims} {r : Nat} {hd : HarqIn} {v : List ℤ}
    {pass : Bool} (h : x.s.Has K) : (writeHarq x p t cd r hd v pass).1.s.Has K := by
  unfold Machine.writeHarq
  extract_lets a xc hdr vs
  split
  · exact h.Run_write.Run_write.Run_write
  · split
    · exact h.Run_write
    · exact h

theorem State.Has.DecodePar_setBank {q : DecodePar} {s : State} {b : Bank} (h : s.Has K) : (q.setBank s b).Has K := .upd h rfl

theorem State.Has.combine [K.Quiet] {q : DecodePar} {p : Fin 8} {j : DecodeJob} {x : Run} (h : x.s.Has K) :
    (combine q p j x).1.s.Has K := by
  unfold Machine.combine
  extract_lets t i r cd e off at0 er xs v v1 nw
  split
  · rename_i t1 _ he
    have ht1 := has_of_run_eq h.readHarq he
    extract_lets comb vals
    exact ht1

theorem State.Has.DecodePar_count {q : DecodePar} {s : State} {p k : Nat} {o : CbOut} (h : s.Has K) : (q.count s p k o).Has K := by
  unfold Machine.DecodePar.count
  extract_lets s1 s2 s3 s4 s5 key s6 slot
  have hs1 : s1.Has K := h.incSat
  have hs2 : s2.Has K := .ite hs1 hs1.incSat
  have hs3 : s3.Has K := .ite hs2.incSat hs2
  have hs4 : s4.Has K := hs3.inc64
  have hs5 : s5.Has K := .ite hs4.inc32 hs4
  have hs6 : s6.Has K := .ite hs5.incSat (.ite hs5.incSat hs5)
  exact .ite hs5 (.ite (.incSat (.upd hs6 rfl)) hs6)

theorem State.Has.DecodePar_goStale {q : DecodePar} {s : State} {j : DecodeJob} (h : s.Has K) : (q.goStale s j).1.Has K := by
  unfold Machine.DecodePar.goStale
  split
  · exact h
  · exact h.incSat

theorem State.Has.finishDecode [K.Marks] [K.Quiet] {q : DecodePar} {p : Fin 8} {k : Nat} {a : Desc} {j : DecodeJob} {s : State}
    (h : s.Has K) : (finishDecode q p k a j s).Has K := by
  unfold Machine.finishDecode
  extract_lets os pass all bits tb rec_ y
  have hy : y.s.Has K := h.Run_write
  clear_value y
  exact .upd hy rfl

theorem State.Has.failDecode {p : Fin 8} {k : Nat} {j : DecodeJob} {s : State} {bad : Nat} (h : s.Has K) :
    (failDecode p k j s bad).Has K :=
  .upd h rfl

theorem State.Has.endCb [K.Marks] [K.Quiet] {q : DecodePar} {p : Fin 8} {k : Nat} {a : Desc} {j : DecodeJob} {o : CbOut} {cyc : Nat}
    {s : State} (h : s.Has K) : (endCb q p k a j o cyc s).Has K :=
  .ite (.upd h.DecodePar_count rfl) h.DecodePar_count.finishDecode

theorem State.Has.stopCb [K.Marks] [K.Quiet] {q : DecodePar} {p : Fin 8} {k : Nat} {a : Desc} {j : DecodeJob} {x : CbRun}
    {status : Nat} {s : State} (h : s.Has K) : (stopCb q p k a j x status s).Has K := by
  unfold Machine.stopCb
  extract_lets i r cd payload y ran cyc
  split
  · rename_i t _ he
    have ht := has_of_run_eq h.writeHarq he
    extract_lets y1 o
    have hy1 : y1.s.Has K := by
      unfold y1
      split
      · exact ht
      · exact ht.Run_write
    exact .ite hy1.failDecode hy1.endCb

theorem State.Has.drawCb [K.Marks] [K.Quiet] {q : DecodePar} {p : Fin 8} {k : Nat} {a : Desc} {j : DecodeJob} {x : CbRun} {s : State}
    (h : s.Has K) : (drawCb q p k a j x s).Has K := by
  unfold Machine.drawCb
  extract_lets r b cost stop s1 win
  have hs1 : s1.Has K := .ite h.DecodePar_setBank h
  refine .ite ?_ (.ite (.stopCb (.ite h.DecodePar_setBank h)) (.ite (.stopCb (.ite h.DecodePar_setBank h)) (.ite (.stopCb (.ite
    h.DecodePar_setBank h)) ?_)))
  · split
    · rename_i t _ he
      have ht := has_of_fst_eq h.DecodePar_goStale he
      exact ht.stopCb
  · split
    · extract_lets x1
      exact .ite (.stopCb (.ite hs1.DecodePar_setBank hs1)) (.ite (.stopCb (.ite hs1.DecodePar_setBank hs1)) (.ite (.stopCb (.ite
        hs1.DecodePar_setBank hs1)) (.upd hs1 rfl)))

theorem State.Has.startCb [K.Marks] [K.Quiet] {q : DecodePar} {p : Fin 8} {k : Nat} {a : Desc} {j : DecodeJob} {s : State}
    (h : s.Has K) : (startCb q p k a j s).Has K := by
  unfold Machine.startCb
  refine .ite h.endCb (.ite ?_ (.ite h.DecodePar_setBank.endCb ?_))
  · split
    · rename_i t _ he
      have ht := has_of_fst_eq h.DecodePar_goStale he
      exact ht.endCb
  · split
    · rename_i t _ he
      have ht := has_of_run_eq h.combine he
      exact .ite ht.failDecode (.upd ht rfl)

theorem State.Has.startDecode [K.Quiet] {turbo : Bool} {p : Fin 8} {k q i : Nat} {s : State} (h : s.Has K) :
    (startDecode turbo p k q i s).Has K := by
  unfold Machine.startDecode
  extract_lets e a fail
  refine .ite (.upd h rfl) ?_
  split
  · rename_i t _ he
    have ht := has_of_run_eq h.Run_readPm he
    extract_lets t1 d n src par
    refine .ite (.upd ht rfl) (.ite (.upd ht rfl) ?_)
    split
    · rename_i t2 _ he
      have ht2 := has_of_run_eq ht.Run_read he
      extract_lets s1 bank stale banked s2 s3
      have hs2 : s2.Has K := .ite ht2.DecodePar_setBank ht2
      have hs3 : s3.Has K := .ite hs2.incSat hs2
      exact .ite (.upd ht2 rfl) (.upd hs3 rfl)

theorem State.Has.runDecode [K.Marks] [K.Quiet] {s : State} {turbo : Bool} {p : Fin 8} {k : Nat} (h : s.Has K) :
    (s.runDecode turbo p k).Has K := by
  unfold State.runDecode
  split
  · split
    · exact h.startCb
    · exact h.drawCb
  · split
    · exact h
    · exact .ite h h.startDecode

theorem State.Has.tbcrcJob [K.Marks] [K.Quiet] {turbo : Bool} {p : Fin 8} {x : Run} {e : Entry} (h : x.s.Has K) :
    (tbcrcJob turbo p x e).1.s.Has K := by
  unfold Machine.tbcrcJob
  extract_lets a
  refine .run_ite h.Run_param ?_
  split
  rename_i t b he
  have ht := has_of_run_eq h.Run_readPm he
  extract_lets t1 d
  refine .run_ite ht.Run_param ?_
  split
  rename_i t2 _ he
  have ht2 := has_of_run_eq ht.Run_read he
  exact .run_ite ht2 (State.Has.Run_write (x := { t2 with poison := false }) ht2)

theorem State.Has.execLdTbcrc [K.Marks] [K.Quiet] {p : Fin 8} {k : Fin 6} {s : State} (h : s.Has K) :
    Out.Has K (execLdTbcrc p k s) :=
  h.runJob fun _ => .tbcrcJob h

theorem State.Has.execTcTbcrc [K.Marks] [K.Quiet] {p : Fin 8} {s : State} (h : s.Has K) : Out.Has K (execTcTbcrc p s) :=
  h.runJob fun _ => .tbcrcJob h

theorem State.Has.encodeJob [K.Marks] [K.Quiet] {turbo : Bool} {p : Fin 8} {x : Run} {e : Entry} (h : x.s.Has K) :
    (encodeJob turbo p x e).1.s.Has K := by
  unfold Machine.encodeJob
  extract_lets a
  refine .run_ite h.Run_param ?_
  split
  rename_i t b he
  have ht := has_of_run_eq h.Run_readPm he
  extract_lets t1 d whole per off cyc
  refine .run_ite ht.Run_param ?_
  split
  rename_i t2 _ he
  have ht2 := has_of_run_eq (.run_ite ht.Run_read ht.Run_read) he
  extract_lets info tb code x1
  have hx1 : x1.s.Has K := by
    unfold x1
    split
    · exact ht2.Run_write
    · exact ht2.Run_writeBits
  exact .run_ite ht2 hx1

theorem State.Has.execLeEncode [K.Marks] [K.Quiet] {p : Fin 8} {k : Fin 2} {s : State} (h : s.Has K) :
    Out.Has K (execLeEncode p k s) :=
  h.runJob fun _ => .encodeJob h

theorem State.Has.execTcEncode [K.Marks] [K.Quiet] {p : Fin 8} {s : State} (h : s.Has K) : Out.Has K (execTcEncode p s) :=
  h.runJob fun _ => .encodeJob h

theorem State.Has.polarDecode [K.Marks] [K.Quiet] {p : Fin 8} {x : Run} {e : Entry} (h : x.s.Has K) :
    (polarDecode p x e).1.s.Has K := by
  unfold Machine.polarDecode
  extract_lets -underBinder a
  split
  · exact h.Run_param
  · split
    rename_i t b he
    have ht := has_of_run_eq h.Run_readPm he
    split
    · exact ht.Run_param
    · extract_lets -underBinder n el
      split
      rename_i t1 _ he
      have ht1 := has_of_run_eq ht.Run_read he
      split
      · exact ht1
      · exact State.Has.Run_write (State.Has.Run_write (x := { t1 with poison := false }) ht1)

theorem State.Has.execPcDecode [K.Marks] [K.Quiet] {p : Fin 8} {s : State} (h : s.Has K) : Out.Has K (execPcDecode p s) :=
  h.runJob fun _ => .polarDecode h

theorem State.Has.polarEncode [K.Marks] [K.Quiet] {p : Fin 8} {x : Run} {e : Entry} (h : x.s.Has K) :
    (polarEncode p x e).1.s.Has K := by
  unfold Machine.polarEncode
  extract_lets a
  split
  · exact h.Run_param
  · split
    · rename_i t _ he
      have ht := has_of_run_eq h.Run_readPm he
      extract_lets n el ch segs code
      split
      · exact ht.Run_param
      · split
        · rename_i t1 _ he
          have ht1 := has_of_run_eq ht.Run_read he
          extract_lets l coded coded1 coded2
          split
          · exact ht1
          · exact ht1.Run_write

theorem State.Has.execPcEncode [K.Marks] [K.Quiet] {p : Fin 8} {s : State} (h : s.Has K) : Out.Has K (execPcEncode p s) :=
  h.runJob fun _ => .polarEncode h

theorem State.Has.gplGCfgWrite {s : State} {g : Nat} {v : U64} (h : s.Has K) : (s.gplGCfgWrite g v).Has K :=
  .ite h.setEnt.gplDown (.ite h.setEnt.setGplState.gplHeard h.setEnt.gplTrain)

theorem State.Has.execGplEnable {rq : Requester} {g : Fin 4} {v : U64} {s : State} (h : s.Has K) :
    Out.Has K (execGplEnable rq g v s) :=
  State.Has.guarded h h.gplGCfgWrite

theorem State.Has.execGplLanesWrite {rq : Requester} {g : Fin 4} {v : U64} {s : State} (h : s.Has K) :
    Out.Has K (execGplLanesWrite rq g v s) :=
  State.Has.guarded h h.gplGCfgWrite

theorem State.Has.execGplHelloSend {g : Fin 4} {s : State} (h : s.Has K) : Out.Has K (execGplHelloSend g s) :=
  State.Has.ite h.setGpl h

theorem State.Has.gplPeerTold {s : State} {g : Nat} {hd : GplHello} (h : s.Has K) : (s.gplPeerTold g hd).Has K := .upd h rfl

theorem State.Has.execGplHello {g : Fin 4} {hd : GplHello} {s : State} (h : s.Has K) : Out.Has K (execGplHello g hd s) :=
  State.Has.ite h (.ite h.gplCount (.ite h.gplHeard (.ite h.gplHeard.gplPeerTold.setGplState (.ite
    h.gplHeard.gplPeerTold.setGplState.dialectsSince h.gplHeard.gplPeerTold))))

theorem State.Has.execGplDataFlit {g : Fin 4} {f : GplFlit} {s : State} (h : s.Has K) : Out.Has K (execGplDataFlit g f s) :=
  State.Has.ite h (.ite (.pumpGpl (.ite h.gplHeard h.gplCount)) (.setGpl (.ite h.gplHeard h.gplCount)))

theorem State.Has.gplReplay {s : State} {g : Nat} (h : s.Has K) : (s.gplReplay g).Has K :=
  .ite h.gplCount.setGpl.record h.gplCount.setGpl

theorem State.Has.execGplNak {g : Fin 4} {seq : Byte} {s : State} (h : s.Has K) : Out.Has K (execGplNak g seq s) :=
  State.Has.ite h (.ite h.pumpGpl h.pumpGpl.gplReplay)

theorem State.Has.execGplReplayTimeout {g : Fin 4} {s : State} (h : s.Has K) : Out.Has K (execGplReplayTimeout g s) :=
  State.Has.ite h.setGpl.gplReplay h

theorem State.Has.gplRefused {s : State} {g : Nat} (h : s.Has K) : (s.gplRefused g).Has K := .upd h rfl

theorem State.Has.gplTaskIn {s : State} {g : Fin 4} {far : Nat} {d : Desc} (h : s.Has K) : (s.gplTaskIn g far d).Has K := by
  unfold State.gplTaskIn
  split
  · exact h.sendItem
  · exact h.gplRefused.knCount.refuseDesc

theorem State.Has.execGplTask {g : Fin 4} {part : BitVec 4} {words : List U64} {s : State} (h : s.Has K) :
    Out.Has K (execGplTask g part words s) :=
  State.Has.ite h.gplTaskIn h

theorem State.Has.gplTokenIn {s : State} {g : Fin 4} {far : Nat} {t : Token} (h : s.Has K) : (s.gplTokenIn g far t).Has K := by
  unfold State.gplTokenIn
  split
  · split
    · exact h.sendItem
    · exact h.gplRefused.knCount.knCount
  · exact .ite h.gplRefused.knCount h.sendItem

theorem State.Has.execGplToken {g : Fin 4} {part : BitVec 4} {w0 value : U64} {s : State} (h : s.Has K) :
    Out.Has K (execGplToken g part w0 value s) :=
  State.Has.ite h.gplTokenIn h

theorem State.Has.popGpl {s : State} {g : Nat} {p : Outstanding → Bool} (h : s.Has K) : ∀ t, s.popGpl g p = some t → t.2.Has K := by
  intro t ht
  unfold State.popGpl at ht
  extract_lets x at ht
  split at ht
  split at ht
  · cases ht
  · cases ht
    exact h.setGpl

theorem State.Has.execGplResult {g : Fin 4} {result : U64} {s : State} (h : s.Has K) : Out.Has K (execGplResult g result s) := by
  unfold Machine.execGplResult
  refine State.Has.ite h ?_
  split
  · rename_i _ t he
    have ht := has_of_some_snd h.popGpl he
    exact ht.giveResult
  · exact h

theorem State.Has.gplReadIn [K.Marks] [K.Quiet] {s : State} {g : Fin 4} {far : Fin 8} {vc : Bool} {a n : Nat} {uncorrectable : Bool}
    {upset : List Addr} (h : s.Has K) : (s.gplReadIn g far vc a n uncorrectable upset).Has K := by
  unfold State.gplReadIn
  extract_lets who s1
  have hs1 : s1.Has K := h.accessFault.gplRefused
  refine .ite ?_ hs1.sendMsg
  split
  · exact h.sendMsg
  · extract_lets s2
    have hs2 : s2.Has K := .ite h.hbmPoison h.upset
    split
    · rename_i t _ _ he
      have ht := has_of_fst_eq hs2.readMem he
      exact ht.sendMsg

theorem State.Has.execGplRdReq [K.Marks] [K.Quiet] {g : Fin 4} {part : BitVec 4} {vc : Bool} {a : Addr} {bytes : Nat}
    {uncorrectable : Bool} {upset : List Addr} {s : State} (h : s.Has K) :
    Out.Has K (execGplRdReq g part vc a bytes uncorrectable upset s) :=
  State.Has.ite h (.dite (fun _ => h.gplReadIn) (fun _ => h.gplRefused.sendMsg))

theorem State.Has.execGplRdData {g : Fin 4} {r : BusAnswer} {data : List (Byte × Bool)} {s : State} (h : s.Has K) :
    Out.Has K (execGplRdData g r data s) := by
  unfold Machine.execGplRdData
  refine State.Has.ite h ?_
  split
  · rename_i _ _ t he
    have ht := has_of_some_snd h.popGpl he
    exact ht.gplReadDone
  · exact h

theorem State.Has.gplWriteIn [K.Marks] [K.Quiet] {s : State} {g : Fin 4} {far : Fin 8} {vc : Bool} {a : Nat} {bs : List (Byte × Bool)}
    (h : s.Has K) : (s.gplWriteIn g far vc a bs).Has K := by
  unfold State.gplWriteIn
  refine .ite (.sendMsg ?_) h.accessFault.gplRefused.sendMsg
  split
  · exact h.ctlWrite
  · exact h.writeMarks

theorem State.Has.execGplWrReq [K.Marks] [K.Quiet] {g : Fin 4} {part : BitVec 4} {vc : Bool} {a : Addr} {data : List (Byte × Bool)}
    {s : State} (h : s.Has K) : Out.Has K (execGplWrReq g part vc a data s) :=
  State.Has.ite h (.dite (fun _ => h.gplWriteIn) (fun _ => h.gplRefused.sendMsg))

theorem State.Has.execGplWrRsp {g : Fin 4} {r : BusAnswer} {s : State} (h : s.Has K) : Out.Has K (execGplWrRsp g r s) := by
  unfold Machine.execGplWrRsp
  refine State.Has.ite h ?_
  split
  · rename_i _ _ t he
    have ht := has_of_some_snd h.popGpl he
    exact ht.gplWriteDone
  · exact h

theorem State.Has.execGplLinkstat {g : Fin 4} {lo hi : BitVec 16} {s : State} (h : s.Has K) :
    Out.Has K (execGplLinkstat g lo hi s) :=
  State.Has.ite h h.setFld.gplRejudge.dialectsSince

theorem State.Has.execGplLinkDown {g : Fin 4} {why : LinkDownCause} {s : State} (h : s.Has K) :
    Out.Has K (execGplLinkDown g why s) :=
  State.Has.ite h.gplDown.gplTrain h

theorem State.Has.relayWrite {s : State} {rq : Requester} {v : U64} (h : s.Has K) : (s.relayWrite rq v).Has K := by
  unfold State.relayWrite
  refine .ite h.status (.ite h.status ?_)
  split
  · exact h.relayDone.status
  · exact .status (.awaitGpl (.sendMsg (.upd h rfl)))

theorem State.Has.execRelayReq {rq : Requester} {v : U64} {s : State} (h : s.Has K) : Out.Has K (execRelayReq rq v s) := by
  unfold Machine.execRelayReq
  show State.Has K _
  split
  · exact h.relayWrite
  · exact h.status

theorem State.Has.relayAnswer {s : State} {g : Nat} {status : BitVec 16} {v : U64} (h : s.Has K) :
    (s.relayAnswer g status v).Has K := by
  unfold State.relayAnswer
  split
  · rename_i _ t he
    have ht := has_of_some_snd h.popGpl he
    exact ht.relayDone
  · exact h

theorem State.Has.hoPair {s : State} {rq : Requester} {n : Nat} (h : s.Has K) : (s.hoPair rq n).Has K :=
  .ite h.status (.ite h.status (.ite h.status (.ite h.status h.setFld.setHo.status)))

theorem State.Has.hoArm {s : State} {rq : Requester} {n : Nat} (h : s.Has K) : (s.hoArm rq n).Has K :=
  .ite h.status (.ite h.status (.ite h.status (.status (.setHo (.upd h rfl)))))

theorem State.Has.hoCancel {s : State} {rq : Requester} {n : Nat} (h : s.Has K) : (s.hoCancel rq n).Has K :=
  .ite h.status (.ite h.setHo.status h.status)

theorem State.Has.hoClear {s : State} {rq : Requester} {n : Nat} (h : s.Has K) : (s.hoClear rq n).Has K :=
  .ite h.status (.ite h.setHo.status h.status)

theorem State.Has.hoOpWrite {s : State} {rq : Requester} {n : Nat} {v : U64} (h : s.Has K) : (s.hoOpWrite rq n v).Has K := by
  unfold State.hoOpWrite
  split
  · exact h.hoPair
  · exact h.hoArm
  · exact h.hoCancel
  · exact h.hoClear
  · exact h.status

theorem State.Has.hoOpBy {s : State} {rq : Requester} {n op : Nat} (h : s.Has K) : (s.hoOpBy rq n op).Has K := by
  unfold State.hoOpBy
  split
  · exact h.hoOpWrite
  · exact h.status

theorem State.Has.hoCfgWrite {s : State} {n : Nat} {v : U64} (h : s.Has K) : (s.hoCfgWrite n v).Has K :=
  .ite h.setEnt.status h.status

theorem State.Has.hoPrecheck {s : State} {n : Nat} (h : s.Has K) : (s.hoPrecheck n).Has K :=
  .ite (.ite h.setHo (.ite h.setHo (.upd h rfl))) h

theorem State.Has.execHoDrainEnd {n : Fin 16} {s : State} (h : s.Has K) : Out.Has K (execHoDrainEnd n s) :=
  State.Has.ite h.setHo h

theorem State.Has.setRqBank {s : State} {rq : Requester} {k : Nat} {v : U64} (h : s.Has K) : (s.setRqBank rq k v).Has K :=
  .upd h rfl

theorem State.Has.beginBlock {s : State} {b : Nat} (h : s.Has K) : (s.beginBlock b).Has K := by
  unfold State.beginBlock
  extract_lets s1 u
  have hs1 : s1.Has K := .ite h.incWrap h
  clear_value s1
  have hu : u.Has K := hs1.store
  clear_value u
  exact .upd hu rfl

theorem State.Has.execEvrMramWrite {s : State} (h : s.Has K) : Out.Has K (execEvrMramWrite s) := by
  unfold Machine.execEvrMramWrite
  show State.Has K _
  split
  · exact h
  · extract_lets n s1 u
    have hs1 : s1.Has K := .ite h.beginBlock (.ite h.beginBlock h)
    clear_value s1
    have hu : u.Has K := hs1.store
    clear_value u
    exact .ite h (.upd hu rfl)

theorem State.Has.evrCursor {s : State} {rq : Requester} {v : U64} (h : s.Has K) : (s.evrCursor rq v).Has K := by
  unfold State.evrCursor
  extract_lets q
  split
  · extract_lets ws s1
    have hs1 : s1.Has K := h.foldl fun _ _ hs => hs.setRqBank
    exact hs1.setRqBank

theorem State.Has.execEvrCursorWrite {rq : Requester} {v : U64} {s : State} (h : s.Has K) : Out.Has K (execEvrCursorWrite rq v s) :=
  State.Has.guarded h h.evrCursor

theorem State.Has.evrUser {s : State} {rq : Requester} {v : U64} (h : s.Has K) : (s.evrUser rq v).Has K := h.recordBytes.setRqBank

theorem State.Has.execEvrUserCtl {rq : Requester} {v : U64} {s : State} (h : s.Has K) : Out.Has K (execEvrUserCtl rq v s) :=
  State.Has.guarded h h.evrUser

theorem State.Has.evrClear {s : State} {slot counter q : Nat} (h : s.Has K) :
    ∀ t, s.evrClear slot counter q = some t → t.Has K := by
  intro t ht
  unfold State.evrClear at ht
  split at ht
  · cases ht
    exact .upd h.record rfl
  · cases ht

theorem State.Has.execOpsecCommit {s : State} (h : s.Has K) : Out.Has K (execOpsecCommit s) :=
  State.Has.ite h (.upd h.commitOpsec rfl)

theorem State.Has.i2cWriteXfer {s : State} {i : Nat} {v : U64} (h : s.Has K) : (s.i2cWriteXfer i v).Has K := by
  unfold State.i2cWriteXfer
  extract_lets u
  have hu : u.Has K := h.setEntN
  exact .ite h.status (.ite h.status (.status (.upd hu rfl)))

theorem State.Has.i2cBy {s : State} {rq : Requester} {i op : Nat} {v : U64} (h : s.Has K) : (s.i2cBy rq i op v).Has K := by
  unfold State.i2cBy
  extract_lets v1
  split
  · exact h.i2cWriteXfer
  · exact h.status

theorem State.Has.execI2cDone {i : Fin 2} {r : I2cResult} {s : State} (h : s.Has K) : Out.Has K (execI2cDone i r s) := by
  unfold Machine.execI2cDone
  extract_lets u s1 old
  have hu : u.Has K := h.setEntN
  have hs1 : s1.Has K := .upd hu rfl
  show State.Has K _
  split
  · extract_lets v n
    refine .ite h ?_
    split
    · extract_lets new
      exact .ite hs1 hs1.setOcts
    · exact hs1
  · exact h

theorem State.Has.readEffect {s : State} {slot k : Nat} {clear : Bool} (h : s.Has K) : (s.readEffect slot k clear).Has K := by
  unfold State.readEffect
  split
  · exact h
  · extract_lets i
    split
    · exact .ite (.upd h rfl) h
    · split
      · exact .upd h rfl
      · exact h.setFlag
    · exact .ite h.setFlag.setFld h
    · exact .ite h.epCntRead h
    · exact .ite h.setEnt h

theorem State.Has.readEntry {s : State} {slot k : Nat} {clear : Bool} (h : s.Has K) : (s.readEntry slot k clear).2.Has K := by
  unfold State.readEntry
  split
  · split
    · exact h.rxword
    · exact h.readEffect
  · exact h

theorem State.Has.readBy {s : State} {rq : Requester} {k : Nat} (h : s.Has K) : (s.readBy rq k).Has K := by
  unfold State.readBy
  split
  · split
    · rename_i _ t he
      have ht := has_of_snd_eq h.readEntry he
      exact ht.answer
  · exact h.status

theorem State.Has.execRcRead {rq : Requester} {o : Obj} {s : State} (h : s.Has K) : Out.Has K (execRcRead rq o s) := by
  unfold Machine.execRcRead
  show State.Has K _
  split
  · exact .ite h.readBy h
  · exact h

theorem State.Has.execDmaDoorbell {rq : Requester} {n : Fin 272} {s : State} (h : s.Has K) : Out.Has K (execDmaDoorbell rq n s) :=
  State.Has.asWriter h h.doorbell.status

theorem State.Has.execDmaIssue {e : Fin 9} {s : State} (h : s.Has K) : Out.Has K (execDmaIssue e s) := by
  unfold Machine.execDmaIssue
  extract_lets g rd wr wx s1 s2
  have hs1 : s1.Has K := .upd h rfl
  have hs2 : s2.Has K := by
    unfold s2
    generalize rd = r
    cases r with
    | none => exact hs1
    | some n =>
      refine .dite (fun _ => ?_) (fun _ => hs1)
      split
      · exact hs1.dmaIssueRead
      · exact hs1
  show State.Has K _
  generalize wx = w
  cases w with
  | none => exact hs2
  | some w => exact .dite (fun _ => hs2.dmaIssueWrite) (fun _ => hs2)

theorem State.Has.execDmaDescFetchDone [K.Quiet] {n : Fin 272} {r : BusAnswer} {s : State} (h : s.Has K) :
    Out.Has K (execDmaDescFetchDone n r s) := by
  unfold Machine.execDmaDescFetchDone
  show State.Has K _
  split
  · exact h.dmaAnswerRead
  · exact h

theorem State.Has.execDmaReadResponse [K.Quiet] {n : Fin 272} {r : BusAnswer} {s : State} (h : s.Has K) :
    Out.Has K (execDmaReadResponse n r s) := by
  unfold Machine.execDmaReadResponse
  show State.Has K _
  split
  · exact h.dmaAnswerRead
  · exact h

theorem State.Has.execDmaWriteResponse [K.Marks] [K.Quiet] {n : Fin 272} {r : BusAnswer} {s : State} (h : s.Has K) :
    Out.Has K (execDmaWriteResponse n r s) := by
  unfold Machine.execDmaWriteResponse
  show State.Has K _
  split
  · exact h.dmaAnswerWrite
  · exact h

theorem State.Has.execDmaDescComplete [K.Quiet] {n : Fin 272} {s : State} (h : s.Has K) : Out.Has K (execDmaDescComplete n s) := by
  unfold Machine.execDmaDescComplete
  refine State.Has.ite h.dmaSettle (.ite h ?_)
  split
  · exact h.dmaLeave
  · exact .ite h.dmaComplete h

theorem State.Has.execDmaTailPoll {n : Fin 272} {s : State} (h : s.Has K) : Out.Has K (execDmaTailPoll n s) :=
  State.Has.ite h.setCh h

theorem State.Has.resumeBy {s : State} {rq : Requester} {n : Fin 272} {action index : Nat} (h : s.Has K) :
    (s.resumeBy rq n action index).Has K := by
  unfold State.resumeBy
  extract_lets v
  split
  · exact h.dmaResume
  · exact h.status

theorem State.Has.execDmaChannelDisable {rq : Requester} {n : Fin 272} {s : State} (h : s.Has K) :
    Out.Has K (execDmaChannelDisable rq n s) := by
  unfold Machine.execDmaChannelDisable
  show State.Has K _
  split
  · exact h.dmaCfgWrite
  · exact h.status

theorem State.Has.carriersWrite {s : State} {rq : Requester} {cc : Nat} {v : U64} (h : s.Has K) : (s.carriersWrite rq cc v).Has K :=
  .ite h.status (.ite h.status (.ite h.status h.setEnt.status))

theorem State.Has.execCarrierOwnerWrite {rq : Requester} {c : Fin 384} {owner : Byte} {s : State} (h : s.Has K) :
    Out.Has K (execCarrierOwnerWrite rq c owner s) := by
  unfold Machine.execCarrierOwnerWrite
  show State.Has K _
  split
  · exact h.carriersWrite
  · exact h.status

theorem State.Has.fwCtlWrite {s : State} {p op : Nat} (h : s.Has K) : (s.fwCtlWrite p op).Has K :=
  .ite (.ite h.status (.ite h.status h.ownCommit.status)) (.ite (.ite h.status (.status (.ownCommit (.upd h rfl)))) (.ite (.status (.ite
    (.ownCommit (.upd h rfl)) h)) h.status))

theorem State.Has.fwCtlBy {s : State} {rq : Requester} {p op : Nat} (h : s.Has K) : (s.fwCtlBy rq p op).Has K := by
  unfold State.fwCtlBy
  split
  · exact h.fwCtlWrite
  · exact h.status

theorem State.Has.execFwTrialLimit [K.Quiet] {p : Fin 8} {s : State} (h : s.Has K) : Out.Has K (execFwTrialLimit p s) := by
  unfold Machine.execFwTrialLimit
  show State.Has K _
  split
  · exact .ite h.rollback.partReset h
  · exact h

theorem State.Has.flashWrite {s : State} {rq : Requester} {v : U64} (h : s.Has K) : (s.flashWrite rq v).Has K := by
  unfold State.flashWrite
  split
  · exact .ite h.status (.ite h.status (.ite h.status (.ite (.status (.upd h rfl)) (.ite (.status (.upd h rfl)) (.status (.upd h rfl))))))

theorem State.Has.flashBy {s : State} {rq : Requester} {op : Nat} {v : U64} (h : s.Has K) : (s.flashBy rq op v).Has K := by
  unfold State.flashBy
  extract_lets v1
  split
  · exact h.flashWrite
  · exact h.status

theorem State.Has.setBankOcts {s : State} {slot : Nat} {f : Nat → Nat} {bs : List Byte} (h : s.Has K) :
    (s.setBankOcts slot f bs).Has K :=
  .upd h rfl

theorem State.Has.execFlashOpDone {ok : Bool} {s : State} (h : s.Has K) : Out.Has K (execFlashOpDone ok s) := by
  unfold Machine.execFlashOpDone
  show State.Has K _
  split
  · extract_lets old
    split
    · rename_i _ t he
      have ht := has_of_snd_eq h.draw he
      extract_lets noise s1 data new s2 s3
      have hs1 : s1.Has K := .upd ht rfl
      have hs2 : s2.Has K := .ite (.ite hs1.setBankOcts hs1) (.upd hs1 rfl)
      have hs3 : s3.Has K := .ite hs2.record hs2
      exact .ite (.upd hs3 rfl) hs3
  · exact h

theorem State.Has.attestWrite {s : State} {rq : Requester} {v : U64} (h : s.Has K) : (s.attestWrite rq v).Has K :=
  .ite h.status (.ite h.status (.status (.upd h rfl)))

theorem State.Has.execAttestGo {rq : Requester} {v : U64} {s : State} (h : s.Has K) : Out.Has K (execAttestGo rq v s) := by
  unfold Machine.execAttestGo
  show State.Has K _
  split
  · exact h.attestWrite
  · exact h.status

theorem State.Has.execAttestDone {rq : Requester} {s : State} (h : s.Has K) : Out.Has K (execAttestDone rq s) := by
  unfold Machine.execAttestDone
  extract_lets k body sig s1
  have hs1 : s1.Has K := h.setBankOcts
  exact State.Has.ite (.upd hs1 rfl) h

theorem State.Has.presentSync {s : State} (h : s.Has K) : (s.presentSync).Has K :=
  h.foldl fun _ _ hs => .ite (.ite hs.unmaskReq hs) hs.maskReq

theorem State.Has.gatePack {s : State} {p : Nat} (h : s.Has K) : (s.gatePack p).Has K := .upd h rfl

theorem State.Has.setPack {s : State} {p st : Nat} (h : s.Has K) : (s.setPack p st).Has K :=
  .ite h (.ite h.wakePack (.ite h.gatePack (.ite (.wakePack (.upd (.ite h.gatePack h) rfl)) (.upd (.ite h.gatePack h) rfl))))

theorem State.Has.packDown {s : State} {p st : Nat} (h : s.Has K) : (s.packDown p st).Has K := by
  unfold State.packDown
  extract_lets us s1
  have hs1 : s1.Has K := h.setPack.dropWork.foldl fun _ _ hs => .ite hs.setTl hs
  clear_value s1
  exact .ite (.upd hs1 rfl) h.setPack

theorem State.Has.packRestore {s : State} {p : Nat} (h : s.Has K) : (s.packRestore p).Has K := by
  unfold State.packRestore
  extract_lets us k s1 s2 s3 s4
  have hs1 : s1.Has K := .filterMem _ _ h rfl rfl (List.filter_sublist.subset)
  have hs2 : s2.Has K := .dite (fun _ => State.Has.setLv (.upd hs1 rfl)) fun _ => hs1
  have hs4 : s4.Has K := hs2.dropEntries.foldl fun _ _ hs => .ite hs hs.store
  exact hs4.noteDefaulted.startTiles

theorem State.Has.setSlot {s : State} {u : Nat} {x : PwrSlot} (h : s.Has K) : (s.setSlot u x).Has K := .upd h rfl

theorem State.Has.reqStat {s : State} {u target tag status refuser seq : Nat} (h : s.Has K) :
    (s.reqStat u target tag status refuser seq).Has K :=
  .upd h rfl

theorem State.Has.askIrq {s : State} {p : Nat} (h : s.Has K) : (s.askIrq p).Has K := by
  unfold State.askIrq
  split
  · exact h.setIrq
  · exact h

theorem State.Has.unask {s : State} {p : Nat} (h : s.Has K) : (s.unask p).Has K := .upd h rfl

theorem State.Has.rollbackPwr {s : State} {u status refuser reason : Nat} (h : s.Has K) :
    (s.rollbackPwr u status refuser reason).Has K := by
  unfold State.rollbackPwr
  extract_lets u1 s1
  have hs1 : s1.Has K := h.setSlot
  split
  · extract_lets s2 s3 s4 q s5
    have hs2 : s2.Has K := hs1.foldl fun _ _ hs => hs.setPack
    have hs3 : s3.Has K := hs2.foldl fun _ _ hs => hs.unask.askIrq
    have hs4 : s4.Has K := by
      unfold s4
      split
      · exact .ite hs3.unask hs3
      · exact hs3
    have hs5 : s5.Has K := .ite hs4.record hs4
    exact hs5.reqStat.presentSync
  · exact h

theorem State.Has.coresStop {s : State} {b : Bool} (h : s.Has K) : (s.coresStop b).Has K := .upd h rfl

theorem State.Has.octetsSync {s was : State} (h : s.Has K) : (s.octetsSync was).Has K :=
  h.foldl fun _ _ hs => .ite hs.octetIdle (.ite hs.octetStart hs)

theorem State.Has.enterDown {s : State} {d : DevPower} (h : s.Has K) : (s.enterDown d).Has K := by
  unfold State.enterDown
  extract_lets was s1 s2 s3 s4
  have hs1 : s1.Has K := h.foldl fun _ _ hs => .ite (.ite hs.packRestore.packDown hs) hs.packDown
  clear_value s1
  have hs2 : s2.Has K := .upd hs1 rfl
  clear_value s2
  have hs3 : s3.Has K := .ite hs2.coresStop hs2
  clear_value s3
  have hs4 : s4.Has K := hs3.octetsSync
  clear_value s4
  exact .presentSync (.ite hs4 hs4.commitOpsec)

theorem State.Has.commitPwr {s : State} {u : Nat} (h : s.Has K) : (s.commitPwr u).Has K := by
  unfold State.commitPwr
  extract_lets u1 s1 p
  have hs1 : s1.Has K := h.setSlot
  clear_value s1
  split
  · extract_lets s2 s3 s4
    have hs2 : s2.Has K := .upd hs1 rfl
    clear_value s2
    have hs3 : s3.Has K := .ite hs1.enterDown (.presentSync (.ite (.ite hs2.packRestore.packDown hs2) hs2.packDown))
    clear_value s3
    have hs4 : s4.Has K := hs3.foldl fun _ _ hs => hs.unask
    clear_value s4
    exact hs4.reqStat
  · exact h

theorem State.Has.askedNow {s : State} {u : Nat} {t : Trans} (h : s.Has K) : (s.askedNow u t).Has K := .upd h rfl

theorem State.Has.askNext {u n : Nat} {s : State} (h : s.Has K) : (State.askNext u n s).Has K := by
  induction n generalizing s with
  | zero => exact h
  | succ n ih =>
    unfold State.askNext
    split
    · split
      · exact h.commitPwr
      · exact .ite (.ite (ih h.setSlot) h.askedNow.setEntN.askIrq) (.ite h.rollbackPwr h.askedNow)
    · exact h

theorem State.Has.packTo {s : State} {p target : Nat} (h : s.Has K) : (s.packTo p target).Has K :=
  .presentSync (.ite (.upd h rfl) (.ite (.ite (.setPack (.upd h rfl)) (.setPack (.upd h rfl))) (.setPack (.upd h rfl))))

theorem State.Has.devTo {s : State} {d : DevPower} (h : s.Has K) : (s.devTo d).Has K :=
  .presentSync (.octetsSync (.coresStop (.foldl (.upd h rfl) fun _ _ hs => .ite hs (.ite (.ite hs.packTo hs) (.ite hs.wakePack hs)))))

theorem State.Has.wakeDev {s : State} {d : DevPower} {cause engine : Nat} (h : s.Has K) : (s.wakeDev d cause engine).Has K :=
  h.devTo.setEnt.record.foldl fun _ _ hs => hs.setIrq

theorem State.Has.startReq {s : State} {u target tag : Nat} (h : s.Has K) : (s.startReq u target tag).Has K :=
  .ite h.setSlot.reqStat.askNext (.ite (.reqStat (.ite h (.ite h.wakeDev h.devTo))) (.ite h.packTo.setSlot.reqStat h.packTo.reqStat))

theorem State.Has.startPending {n : Nat} {s : State} (h : s.Has K) : (State.startPending n s).Has K := by
  induction n generalizing s with
  | zero => exact h
  | succ n ih =>
    unfold State.startPending
    split
    · split
      · exact ih h.setSlot.setEntN.startReq
      · exact h
    · exact h

theorem State.Has.takeReq {s : State} {u target tag : Nat} (h : s.Has K) : (s.takeReq u target tag).Has K := by
  unfold State.takeReq
  refine .ite h.startReq.startPending (.setEntN (.setSlot ?_))
  split
  · exact h.reqStat
  · exact h

theorem State.Has.pwrReqWrite {s : State} {u : Nat} {v : U64} (h : s.Has K) : (s.pwrReqWrite u v).Has K :=
  .ite h.status (.ite h.status (.ite h.status h.takeReq.status))

theorem State.Has.emergency {s : State} (h : s.Has K) : s.emergency.Has K := by
  refine h.foldl fun s u hs => ?_
  extract_lets s1
  have hs1 : s1.Has K := by
    unfold s1
    split
    · exact hs.rollbackPwr
    · exact hs
  split
  · exact hs1.setSlot.setEntN.reqStat
  · exact hs1

theorem State.Has.thermalDown [K.Quiet] {s : State} (h : s.Has K) : s.thermalDown.Has K := by
  have hs : ∀ us : List Nat, ((us.foldl (fun s u => s.abortUnit us u) (s.dropWork us)).enterDown .dormant).Has K :=
    fun us => (h.dropWork.foldl fun _ _ hs => hs.abortUnit).enterDown
  exact .ite h (hs _).withThermalDormant

theorem State.Has.emergeNow [K.Quiet] {s : State} (h : s.Has K) : (s.emergeNow).Has K := by
  unfold State.emergeNow
  extract_lets es s1
  have hs1 : s1.Has K := .emergency (.upd h rfl)
  exact .ite h (.ite hs1.enterHold hs1.thermalDown)

theorem State.Has.raise [K.Quiet] {s : State} {e : Emergency} (h : s.Has K) : (s.raise e).Has K :=
  .ite (.upd h rfl) (.emergeNow (.upd h rfl))

theorem State.Has.afterTrans [K.Quiet] {s : State} (h : s.Has K) : (s.afterTrans).Has K := .ite h.startPending (.ite h h.emergeNow)

theorem State.Has.execPwrRequest {rq : Requester} {u : Fin 1024} {v : U64} {s : State} (h : s.Has K) :
    Out.Has K (execPwrRequest rq u v s) := by
  unfold Machine.execPwrRequest
  show State.Has K _
  split
  · exact h.pwrReqWrite
  · exact h.status

theorem State.Has.ackFront [K.Quiet] {s : State} {u : Nat} {t : Trans} (h : s.Has K) : (s.ackFront u t).Has K :=
  .presentSync (.ite h.setSlot.emergeNow h.setSlot.askNext.afterTrans)

theorem State.Has.refusePwr [K.Quiet] {s : State} {u x reason : Nat} (h : s.Has K) : (s.refusePwr u x reason).Has K :=
  h.rollbackPwr.afterTrans

theorem State.Has.voteWrite [K.Quiet] {s : State} {p : Nat} {v : U64} (h : s.Has K) : (s.voteWrite p v).Has K := by
  unfold State.voteWrite
  refine .ite h.status (.ite h.status (.status ?_))
  split
  · refine .ite h.refusePwr ?_
    split
    · exact .ite h.ackFront h
    · exact h
  · exact h

theorem State.Has.voteBy [K.Quiet] {s : State} {rq : Requester} {p : Nat} {v : U64} (h : s.Has K) : (s.voteBy rq p v).Has K := by
  unfold State.voteBy
  split
  · exact h.voteWrite
  · exact h.status

theorem State.Has.execPwrPackAck [K.Quiet] {p : Fin 8} {s : State} (h : s.Has K) : Out.Has K (execPwrPackAck p s) := by
  unfold Machine.execPwrPackAck
  show State.Has K _
  split
  · split
    · exact .ite (.ackFront (.ite h.gatePack h)) h
    · exact h
  · exact h

theorem State.Has.execPwrPrepTimeout [K.Quiet] {s : State} (h : s.Has K) : Out.Has K (execPwrPrepTimeout s) := by
  unfold Machine.execPwrPrepTimeout
  show State.Has K _
  split
  · split
    · exact .ite h.refusePwr h
    · exact h
  · exact h

theorem State.Has.execHushIdleGate {p : Fin 8} {s : State} (h : s.Has K) : Out.Has K (execHushIdleGate p s) :=
  State.Has.ite h.gatePack h

theorem State.Has.execPackP3Wake [K.Quiet] {p : Fin 8} {s : State} (h : s.Has K) : Out.Has K (execPackP3Wake p s) := by
  unfold Machine.execPackP3Wake
  extract_lets u r s1 u1
  have hs1 : s1.Has K := h.packRestore.packTo
  refine State.Has.ite ?_ h
  split
  · exact .ite hs1.setSlot.reqStat.afterTrans hs1
  · exact hs1

theorem State.Has.execGuardLead {s : State} (h : s.Has K) : Out.Has K (execGuardLead s) := State.Has.ite (.upd h rfl) h

theorem State.Has.listenEnd {s : State} {e : Fin 8} (h : s.Has K) : (s.listenEnd e).Has K :=
  .ite (.setHnd (h.foldl fun _ _ hs => hs.endOcc)) h

theorem State.Has.execGuardListenEnd {s : State} (h : s.Has K) : Out.Has K (execGuardListenEnd s) := by
  unfold Machine.execGuardListenEnd
  extract_lets u
  have hu : u.Has K := .incWrap (h.foldl fun _ _ hs => hs.listenEnd)
  clear_value u
  exact State.Has.ite (.upd hu rfl) h

theorem State.Has.execWakeGpioEdge {n : Fin 64} {rising : Bool} {s : State} (h : s.Has K) :
    Out.Has K (execWakeGpioEdge n rising s) :=
  State.Has.ite (.wakeDev (.upd h rfl)) (.upd h rfl)

theorem State.Has.execWakeTimer {s : State} (h : s.Has K) : Out.Has K (execWakeTimer s) := State.Has.ite h.wakeDev h

theorem State.Has.houndWake {s : State} {e : Nat} (h : s.Has K) : (s.houndWake e).Has K := .ite h.wakeDev h

theorem State.Has.execResidencyHourCommit {s : State} (h : s.Has K) : Out.Has K (execResidencyHourCommit s) :=
  State.Has.ite h (.upd h.ownCommit rfl)

theorem State.Has.powerIrq {s : State} (h : s.Has K) : (s.powerIrq).Has K := .upd h rfl

theorem State.Has.execSupplyWarn {r : Fin 10} {mv : Nat} {s : State} (h : s.Has K) : Out.Has K (execSupplyWarn r mv s) :=
  State.Has.ite (.powerIrq (.setSticky (.upd h rfl))) h

theorem State.Has.noteDip {s : State} {d : Nat × Nat × Nat} (h : s.Has K) : (s.noteDip d).Has K := h.setEntN.record

theorem State.Has.execSupplyRecover [K.Marks] [K.Quiet] {r : Fin 10} {minMv us : Nat} {s : State} (h : s.Has K) :
    Out.Has K (execSupplyRecover r minMv us s) := by
  unfold Machine.execSupplyRecover
  extract_lets s1 u
  have hs1 : s1.Has K := .upd h rfl
  have hu : u.Has K := .foldl (.upd hs1 rfl) fun _ _ hs => hs.noteDip
  exact State.Has.ite (.ite (.mramDrain (.upd hu rfl)) hs1) h

theorem State.Has.execWarnHoldExpiry [K.Quiet] {s : State} (h : s.Has K) : Out.Has K (execWarnHoldExpiry s) :=
  State.Has.ite h.raise h

theorem State.Has.noteTemp {s : State} {sensor : Nat} {temp : BitVec 16} (h : s.Has K) : (s.noteTemp sensor temp).Has K :=
  .upd h rfl

theorem State.Has.thermTo {s : State} {level sensor : Nat} {temp : BitVec 16} (h : s.Has K) : (s.thermTo level sensor temp).Has K :=
  .record (.powerIrq (.ite h.setFld.incSat h.setFld.incSat))

theorem State.Has.execThermalThrottle {sensor : Fin 16} {temp : BitVec 16} {s : State} (h : s.Has K) :
    Out.Has K (execThermalThrottle sensor temp s) :=
  State.Has.ite h.noteTemp.thermTo h

theorem State.Has.execThermalCrit [K.Quiet] {sensor : Fin 16} {temp : BitVec 16} {s : State} (h : s.Has K) :
    Out.Has K (execThermalCrit sensor temp s) :=
  State.Has.ite (.raise (.thermTo (.ite h.noteTemp.thermTo h.noteTemp))) h

theorem State.Has.execThermalLevelFall {sensor : Fin 16} {temp : BitVec 16} {s : State} (h : s.Has K) :
    Out.Has K (execThermalLevelFall sensor temp s) :=
  State.Has.ite h.noteTemp.setFld h

theorem State.Has.execThermalTrip {s : State} (h : s.Has K) : Out.Has K (execThermalTrip s) := State.Has.ite (.upd h rfl) h

end Sys2Proof.Machine
end

section
/-!
PROOFS. Properties of memory, one rule per operation: Hound, resets, Sheepdog, the transforms and Terrier.
-/
namespace Sys2Proof.Machine

variable {K : MemProp}

theorem State.Has.senseDraw {s : State} {ws : List U64} {x : Watch} (h : s.Has K) : (s.senseDraw ws x).2.2.Has K := by
  unfold State.senseDraw
  extract_lets p
  split
  · split
    · rename_i _ t he
      have ht := has_of_snd_eq h.drawBelow he
      exact ht

theorem State.Has.execHoundOccasionStart {e : Fin 8} {w : Fin 16} {s : State} (h : s.Has K) :
    Out.Has K (execHoundOccasionStart e w s) := by
  unfold Machine.execHoundOccasionStart
  extract_lets s1 ws b hd
  have hs1 : s1.Has K := h.swapBefore
  show State.Has K _
  split
  · exact hs1
  · extract_lets x s2 b1 x1 ws1
    have hs2 : s2.Has K := hs1.setHnd.beginOcc.incWrap
    have hd : ∀ (c : Prop) [Decidable c], (if c then s2.senseDraw ws1 x1 else (0, x1, s2)).2.2.Has K := by
      intro c _
      split
      · exact hs2.senseDraw
      · exact hs2
    exact .ite hs1.setHnd.incSat (hd _).setHnd

theorem State.Has.levelOf {s : State} {num den : Nat} (h : s.Has K) : (s.levelOf num den).2.Has K := by
  unfold State.levelOf
  split
  · split
    · rename_i _ t he
      have ht := has_of_snd_eq h.drawBelow he
      exact ht
  · split
    · rename_i _ t he
      have ht := has_of_snd_eq h.drawBelow he
      exact ht

theorem State.Has.energy {s : State} {e : Fin 8} {w : Nat} {o : Occ} {r : HoundOcc} {x : List (List C16)} {last : Nat} (h : s.Has K) :
    (s.energy e w o r x last).Has K := by
  unfold State.energy
  extract_lets ws at_
  split
  · rename_i _ t he
    have ht := has_of_snd_eq h.levelOf he
    extract_lets b y put y1 y2 y3 opened lf
    exact .ite ht.setHnd (.ite ht.setHnd.incSat ht.setHnd)

theorem State.Has.execHoundEnergyWindow {e : Fin 8} {w : Fin 16} {s : State} (h : s.Has K) :
    Out.Has K (execHoundEnergyWindow e w s) := by
  unfold Machine.execHoundEnergyWindow
  show State.Has K _
  split
  · exact h.energy
  · exact h

theorem State.Has.execHoundFloorEscape {e : Fin 8} {w : Fin 16} {s : State} (h : s.Has K) :
    Out.Has K (execHoundFloorEscape e w s) := by
  unfold Machine.execHoundFloorEscape
  refine State.Has.ite ?_ h
  split
  · rename_i _ t he
    have ht := has_of_snd_eq h.drawBelow he
    exact ht.setHnd.setSticky.incSat

theorem State.Has.arrivals [K.Quiet] {s : State} {e : Fin 8} {ws : List U64} {x : List (List C16)} (h : s.Has K) :
    (s.arrivals e ws x).1.Has K := by
  unfold State.arrivals
  extract_lets len off n
  split
  · rename_i t _ he
    have ht := has_of_fst_eq (foldl_of_step (fun p : State × List (List ℕ) => p.1.Has K) h fun _ _ hs => hs.readMem) he
    extract_lets ps
    exact ht

theorem State.Has.submitTemplate [K.Quiet] {s : State} {e : Fin 8} {w : Nat} {ws : List U64} {nops lane b : Nat} {tag : Option Nat}
    (h : s.Has K) : (s.submitTemplate e w ws nops lane b tag).1.Has K := by
  unfold State.submitTemplate
  extract_lets q d d1 i b1
  have hq : q.1.Has K := h.readMem
  clear_value q
  split
  · exact hq.inc32.record
  · exact .ite hq.setHnd hq.sendItem

theorem State.Has.openLane [K.Marks] [K.Quiet] {s : State} {e : Fin 8} {w l : Nat} {o : Occ} {le : Int} {at_ : Nat} {p : Peak}
    (h : s.Has K) : (s.openLane e w l o le at_ p).Has K := by
  suffices H : ∀ sub, sub = State.submitTemplate → ∀ f, f = State.openLane → (f s e w l o le at_ p).Has K from H _ rfl _ rfl
  intro sub hsub f hf
  delta State.openLane at hf
  rw [← hsub] at hf
  subst hf
  beta_reduce
  extract_lets ws b y b1 tag st stamp ctx buf x u s1
  split
  rename_i t _ he
  have ht := has_of_fst_eq (hsub ▸ h.setHnd.writeMem.submitTemplate) he
  exact .ite ht.setHnd ht.setHnd

theorem State.Has.takeLane [K.Marks] [K.Quiet] {s : State} {e : Fin 8} {w : Nat} {o : Occ} {le : ℤ} {at_ : Nat} {p : Peak}
    (h : s.Has K) : (s.takeLane e w o le at_ p).Has K := by
  unfold State.takeLane
  extract_lets b low
  split
  · exact h.openLane
  · exact .ite h.endLane.incSat.openLane h.incSat

theorem State.Has.arrival [K.Marks] [K.Quiet] {s : State} {e : Fin 8} {w : Nat} {o : Occ} {le : ℤ} {at_ : Nat} {p : Peak}
    (h : s.Has K) : (s.arrival e w o le at_ p).Has K :=
  .ite h (.ite h.incSat h.incSat.takeLane)

theorem State.Has.qualify [K.Marks] [K.Quiet] {s : State} {e : Fin 8} {w : Nat} {o : Occ} {at_ : Nat} {le : ℤ} (h : s.Has K) :
    (s.qualify e w o at_ le).Has K := by
  unfold State.qualify
  extract_lets b n x y r y1
  split
  · rename_i t _ he
    have ht := has_of_fst_eq h.arrivals he
    extract_lets y2 s1
    have hs1 : s1.Has K := ht.setHnd.foldl fun _ _ hs => hs.arrival
    exact .ite hs1.houndWake hs1

theorem State.Has.execHoundQualify [K.Marks] [K.Quiet] {e : Fin 8} {w : Fin 16} {s : State} (h : s.Has K) :
    Out.Has K (execHoundQualify e w s) := by
  unfold Machine.execHoundQualify
  show State.Has K _
  split
  · exact h.qualify
  · exact h

theorem State.Has.laneStore [K.Marks] [K.Quiet] {s : State} {e : Fin 8} {lane : Nat} {xs : List (List C16)} (h : s.Has K) :
    (s.laneStore e lane xs).Has K :=
  h.foldl fun _ _ hs => hs.writeMem

theorem State.Has.laneSymbol [K.Marks] [K.Quiet] {s : State} {e : Fin 8} {lane : Nat} {ended : Bool} (h : s.Has K) :
    (s.laneSymbol e lane ended).Has K := by
  unfold State.laneSymbol
  extract_lets b y ws n a b1 qs gap xs s1
  have hs1 : s1.Has K := h.laneStore
  have hl : ∀ (c : Prop) [Decidable c], (if c then ((0 : Int), s1) else s1.levelOf (energySum xs) (n * wStreams ws)).2.Has K := by
    intro c _
    split
    · exact hs1
    · exact hs1.levelOf
  refine .ite ?_ h
  exact .ite (hl _).setHnd.endLane (hl _).setHnd

theorem State.Has.laneCut [K.Marks] [K.Quiet] {s : State} {e : Fin 8} {lane : Nat} (h : s.Has K) : (s.laneCut e lane).Has K :=
  .ite h.laneStore.setHnd h

theorem State.Has.fadeLane {s : State} {e : Fin 8} {lane : Nat} (h : s.Has K) : (s.fadeLane e lane).Has K :=
  .ite h.endLane.incSat.incSat h

theorem State.Has.laneWindowEnd [K.Marks] [K.Quiet] {s : State} {e : Fin 8} {lane : Nat} (h : s.Has K) :
    (s.laneWindowEnd e lane).Has K := by
  unfold State.laneWindowEnd
  extract_lets s1 s2
  have hs1 : s1.Has K := h.foldl fun _ _ hs => hs.laneSymbol
  have hs2 : s2.Has K := hs1.fadeLane.laneCut
  exact hs2.endLane

theorem State.Has.execHoundOccasionEnd [K.Marks] [K.Quiet] {e : Fin 8} {w : Fin 16} {s : State} (h : s.Has K) :
    Out.Has K (execHoundOccasionEnd e w s) := by
  unfold Machine.execHoundOccasionEnd
  show State.Has K _
  split
  · extract_lets s1 b
    have hs1 : s1.Has K := h.foldl fun _ _ hs => .ite hs.laneWindowEnd hs
    exact hs1.setHnd.endOcc
  · exact h

theorem State.Has.execHoundTokenSend {e : Fin 8} {s : State} (h : s.Has K) : Out.Has K (execHoundTokenSend e s) := by
  unfold Machine.execHoundTokenSend
  refine State.Has.ite h ?_
  split
  · exact h.setHnd.sendItem
  · split
    · exact h.setHnd.sendItem
    · exact h

theorem State.Has.setCw {s : State} {e w cw : Nat} (h : s.Has K) : (s.setCw e w cw).Has K := .upd h rfl

theorem State.Has.verdictWrite {s : State} {e : Fin 8} {v : U64} (h : s.Has K) : (s.verdictWrite e v).Has K :=
  .ite h.status (.ite (.ite h.incSat.status h.status) (.ite h.status (.ite h.setCw.status h.setCw.status)))

theorem State.Has.verdictBy {s : State} {rq : Requester} {e : Fin 8} {v : U64} (h : s.Has K) : (s.verdictBy rq e v).Has K := by
  unfold State.verdictBy
  split
  · exact h.verdictWrite
  · exact h.status

theorem State.Has.execSenseSlot {e : Fin 8} {w : Fin 16} {s : State} (h : s.Has K) : Out.Has K (execSenseSlot e w s) := by
  unfold Machine.execSenseSlot
  show State.Has K _
  split
  · exact h.setHnd
  · exact h

theorem State.Has.execSenseResult [K.Quiet] {e : Fin 8} {w : Fin 16} {s : State} (h : s.Has K) :
    Out.Has K (execSenseResult e w s) := by
  suffices H : ∀ sub, sub = State.submitTemplate → ∀ f, f = Machine.execSenseResult → Out.Has K (f e w s) from H _ rfl _ rfl
  intro sub hsub f hf
  delta Machine.execSenseResult at hf
  rw [← hsub] at hf
  subst hf
  beta_reduce
  show State.Has K _
  split
  · extract_lets ws end_ b r clear s1 s2 b1 b2 s3
    have hs1 : s1.Has K := h.setHnd.endOcc
    have hs2 : s2.Has K := .ite hs1.openGate.incWrap hs1.incSat
    have hs3 : s3.Has K := hs2.setHnd
    have ht : (sub s3 e w.val ws 1 16 b2 none).1.Has K := hsub ▸ hs3.submitTemplate
    exact .ite ht.setHnd ht
  · exact h

theorem State.Has.execPllLock {s : State} (h : s.Has K) : Out.Has K (execPllLock s) := by
  unfold Machine.execPllLock
  extract_lets u s1
  have hu : u.Has K := h.setFlag.setFlag.setFlag
  have hs1 : s1.Has K := .upd hu rfl
  exact .ite h (State.Has.ite hs1.bootFromRom hs1)

theorem State.Has.execClkLossHoldExpiry [K.Quiet] {s : State} (h : s.Has K) : Out.Has K (execClkLossHoldExpiry s) :=
  State.Has.ite h.enterHold h

theorem State.Has.odReset [K.Quiet] {s : State} {u : Nat} (h : s.Has K) : (s.odReset u).Has K := by
  unfold State.odReset
  refine .ite h.status ?_
  split
  · rename_i t he
    have ht := has_of_fst_eq h.unitReset he
    exact ht.status
  · rename_i t he
    have ht := has_of_fst_eq h.unitReset he
    exact ht.status

theorem State.Has.execOdUnitReset [K.Quiet] {rq : Requester} {u : Fin 1024} {s : State} (h : s.Has K) :
    Out.Has K (execOdUnitReset rq u s) := by
  unfold Machine.execOdUnitReset
  show State.Has K _
  split
  · exact h.odReset
  · exact h.status

theorem State.Has.ptCtl [K.Quiet] {s : State} {p op : Nat} (h : s.Has K) : (s.ptCtl p op).Has K := by
  unfold State.ptCtl
  refine .ite ?_ (.ite (.ite h.setEntN.queueLoads.releaseUnits.status h.status) h.status)
  split
  · rename_i t he
    have ht := has_of_fst_eq h.partReset he
    exact ht.status
  · rename_i t he
    have ht := has_of_fst_eq h.partReset he
    exact ht.status

theorem State.Has.ptCtlBy [K.Quiet] {s : State} {rq : Requester} {p op : Nat} (h : s.Has K) : (s.ptCtlBy rq p op).Has K := by
  unfold State.ptCtlBy
  split
  · exact h.ptCtl
  · exact h.status

theorem State.Has.execResetRelease {s : State} (h : s.Has K) : Out.Has K (execResetRelease s) := by
  unfold Machine.execResetRelease
  split
  · exact .ite (State.Has.releaseUnits (.noteReset (h.foldl fun _ _ hs => .ite hs.setEntN hs.queueLoads))) h
  · exact h

theorem State.Has.execFlPartitionPurge [K.Quiet] {p : Fin 8} {s : State} (h : s.Has K) : Out.Has K (execFlPartitionPurge p s) := by
  unfold Machine.execFlPartitionPurge
  extract_lets u
  have hu : u.Has K := h.purgePart
  clear_value u
  split
  · exact .ite (State.Has.upd hu rfl) h
  · exact h

theorem State.Has.deviceCtl [K.Quiet] {s : State} {op : Nat} (h : s.Has K) : (s.deviceCtl op).Has K := by
  unfold State.deviceCtl
  refine .ite ?_ (.ite (.ite h.status (.status (.ite h h.enterHold))) h.status)
  split
  · exact .ite (.status (.upd h rfl)) h.warmReset.status
  · exact h.warmReset.status

theorem State.Has.deviceCtlBy [K.Quiet] {s : State} {rq : Requester} {op : Nat} (h : s.Has K) : (s.deviceCtlBy rq op).Has K := by
  unfold State.deviceCtlBy
  split
  · exact h.deviceCtl
  · exact h.status

theorem State.Has.execPinReset [K.Quiet] {s : State} (h : s.Has K) : Out.Has K (execPinReset s) := by
  unfold Machine.execPinReset
  extract_lets u
  have hu : u.Has K := h.deviceReset.setPhase
  clear_value u
  exact State.Has.ite h (.ite (.upd h rfl) (.upd hu rfl))

theorem State.Has.execResetNRelease {bootsel : BitVec 3} {s : State} (h : s.Has K) : Out.Has K (execResetNRelease bootsel s) :=
  State.Has.ite h (.ite (.bootFromRom (.upd h rfl)) (.upd h rfl))

theorem State.Has.porAon [K.Marks] [K.Quiet] {s : State} {source : Nat} (h : s.Has K) : (s.porAon source).Has K := by
  unfold State.porAon
  split
  · rename_i _ t he
    have ht := has_of_snd_eq h.drawBelow he
    extract_lets ring torn u s1
    have hu : u.Has K := ht.deviceReset.setPhase
    clear_value u
    have hs1 : s1.Has K := .upd (State.Has.withFresh hu) rfl
    clear_value s1
    exact .ite hs1.incSat hs1

theorem State.Has.execPor [K.Marks] [K.Quiet] {k : PorCause} {s : State} (h : s.Has K) : Out.Has K (execPor k s) := by
  unfold Machine.execPor
  split
  · exact State.Has.ite (.upd h.porAon rfl) h
  · exact State.Has.ite h (.ite h.porAon (.ite (.bootFromRom (.upd h.deviceReset.setPhase.setEntN.record rfl)) (.upd
      h.deviceReset.setPhase.setEntN.record rfl)))

theorem State.Has.execPwrgoodRise {bootsel : BitVec 3} {s : State} (h : s.Has K) : Out.Has K (execPwrgoodRise bootsel s) :=
  State.Has.ite h (.upd h rfl)

theorem State.Has.execSelfTestDone [K.Quiet] {r : SelfTest} {s : State} (h : s.Has K) : Out.Has K (execSelfTestDone r s) := by
  unfold Machine.execSelfTestDone
  refine Out.Has.ite h ?_
  extract_lets fs fenced s1 s2 s3 s4 lane s5 packs hbmOk tiles lanes cores s6 s7 s8 s9 pol
  have hs3 : s3.Has K := (h.zeroAll.foldl fun _ _ hs => hs.setUn).foldl fun _ _ hs => hs.setEntN.setEntN
  have hs5 : s5.Has K := hs3.setEntN.setEntN.setEntN
  have hs7 : s7.Has K := hs5.setEntN.foldl fun _ _ hs => hs.setEntN
  have hs9 : s9.Has K := hs7.bootTime.record
  exact State.Has.ite hs9.enterHold (.ite hs9.enterHold hs9.enterLoad)

theorem State.Has.execFwLoadDone [K.Quiet] {p : Fin 8} {flash : FlashHealth} {s : State} (h : s.Has K) :
    Out.Has K (execFwLoadDone p flash s) :=
  .ite (State.Has.ite (.enterStart (.loadNext (.upd h.fwLoad rfl))) (.checkReady (.loadNext (.upd h.fwLoad rfl)))) h

theorem State.Has.readyWrite {s : State} {rq : Requester} {p : Nat} {v : U64} (h : s.Has K) : (s.readyWrite rq p v).Has K :=
  .ite h.status (.ite h.status h.setFlag.checkReady.status)

theorem State.Has.execPartitionReady {rq : Requester} {p : Fin 8} {s : State} (h : s.Has K) :
    Out.Has K (execPartitionReady rq p s) := by
  unfold Machine.execPartitionReady
  show State.Has K _
  split
  · exact h.readyWrite
  · exact h.status

theorem State.Has.terRunUnit {s : State} {u : Nat} (h : s.Has K) : (s.terRunUnit u).Has K := .upd h rfl

theorem State.Has.terFail [K.Quiet] {s : State} {u : Nat} {w sig : U64} {quar : Bool} (h : s.Has K) :
    (s.terFail u w sig quar).Has K := by
  unfold State.terFail
  refine .ite (.quarantine (.record ?_)) (.record ?_)
  · split
    · exact h.incSat.setEnt.incSat
    · exact h.incSat.setEnt
  · split
    · exact h.incSat.setEnt.incSat
    · exact h.incSat.setEnt

theorem State.Has.retestFailed {s : State} {u : Nat} {w sig : U64} (h : s.Has K) : (s.retestFailed u w sig).Has K := .upd h rfl

theorem State.Has.segEnd [K.Quiet] {s : State} {g u : Nat} {fail : Option U64} {sig : U64} {quar : Bool} (h : s.Has K) :
    (s.segEnd g u fail sig quar).Has K := by
  unfold State.segEnd
  split
  · exact .ite (.retestFailed (.upd h rfl)) (.terFail (.upd h rfl))
  · exact .incWrap (.upd h rfl)

theorem State.Has.releaseQuar [K.Quiet] {s : State} {u : Nat} (h : s.Has K) : (s.releaseQuar u).Has K := by
  unfold State.releaseQuar
  extract_lets u1 u2 s1
  have hu2 : u2.Has K := h.setUn
  have hs1 : s1.Has K := .terRunUnit (.upd hu2 rfl)
  exact .ite (hs1.foldl fun _ _ hs => .ite hs.unmaskReq hs) h.returnUnit

theorem State.Has.chargeUnit [K.Quiet] {s : State} {l u action info : Nat} (h : s.Has K) : (s.chargeUnit l u action info).Has K :=
  .dite (fun _ => h.charge) (fun _ => h)

theorem State.Has.execShdL0Expiry [K.Quiet] {x : L0Item} {s : State} (h : s.Has K) : Out.Has K (execShdL0Expiry x s) := by
  unfold Machine.execShdL0Expiry
  show State.Has K _
  split
  · split
    · exact .ite h.dmaReadDone.chargeUnit h.dmaReissue.chargeUnit
    · exact h
  · split
    · exact h.dmaWriteDone.chargeUnit
    · exact h
  · exact .ite h.answer.chargeUnit h
  · split
    · exact .ite h.setTl.chargeUnit h
    · exact h
  · split
    · exact .ite h.chargeUnit h
    · exact h
  · exact .ite h.failJob.chargeUnit h
  · exact .ite h.reportAnchor h

theorem State.Has.setAbort {s : State} {t : Nat} (h : s.Has K) : (s.setAbort t).Has K := .upd h rfl

theorem State.Has.abortFrom {s : State} {u : Nat} (h : s.Has K) : (s.abortFrom u).Has K := .upd h rfl

theorem State.Has.execShdL1Expiry [K.Quiet] {p : Fin 8} {entry : BitVec 15} {s : State} (h : s.Has K) :
    Out.Has K (execShdL1Expiry p entry s) := by
  unfold Machine.execShdL1Expiry
  extract_lets i x u ter s1 s2 s3
  have hs1 : s1.Has K := by
    unfold s1
    split
    · exact h.endTask.untask.setAbort.abortFrom
    · exact h.endTask.abortFrom
    · exact .dite (fun _ => h.abortJob) (fun _ => h.endTask)
    · exact h.endTask
  have hs2 : s2.Has K := .upd hs1 rfl
  have hs3 : s3.Has K := .ite (.ite hs2.retestFailed hs2.terFail) hs1
  exact .ite hs3.chargeUnit h

theorem State.Has.execShdL2Expiry [K.Quiet] {c : Fin 384} {seq : BitVec 32} {s : State} (h : s.Has K) :
    Out.Has K (execShdL2Expiry c seq s) :=
  .ite (State.Has.charge (.setFld (.incSat (h.disarmL2.foldl fun _ _ hs => hs.endTask)))) h

theorem State.Has.withPetRaw {s : State} {t : Tab Nat} (h : s.Has K) : ({ s with petRaw := t } : State).Has K := .upd h rfl

theorem State.Has.execShdL3Expiry [K.Quiet] {p : Fin 8} {s : State} (h : s.Has K) : Out.Has K (execShdL3Expiry p s) :=
  State.Has.ite (.ite h.charge.withPetRaw h.charge) h

theorem State.Has.execShdL4Expiry [K.Quiet] {s : State} (h : s.Has K) : Out.Has K (execShdL4Expiry s) :=
  State.Has.ite (.charge (.upd h.setLadder rfl)) h

theorem State.Has.execShdWindowReset {level : Fin 5} {x : ChargedUnit} {s : State} (h : s.Has K) :
    Out.Has K (execShdWindowReset level x s) :=
  State.Has.ite h.setLadder h

theorem State.Has.execShdAbortUntaken [K.Quiet] {u : Fin 1024} {s : State} (h : s.Has K) : Out.Has K (execShdAbortUntaken u s) := by
  unfold Machine.execShdAbortUntaken
  refine State.Has.ite ?_ h
  split
  · exact h.setLadder.record.setUn.sheepIrq.quarantine

theorem State.Has.pet {s : State} {p : Nat} (h : s.Has K) : (s.pet p).Has K := .ite h.withPetRaw h

theorem State.Has.execShdPet {rq : Requester} {p : Fin 8} {s : State} (h : s.Has K) : Out.Has K (execShdPet rq p s) :=
  State.Has.guarded h h.pet

theorem State.Has.execDeviceCheck {ok : Bool} {s : State} (h : s.Has K) : Out.Has K (execDeviceCheck ok s) :=
  State.Has.ite (.ite (.upd h rfl) (.upd h rfl)) h

theorem State.Has.odQuar [K.Quiet] {s : State} {u : Nat} (h : s.Has K) : (s.odQuar u).Has K := .ite h.quarantine.status h.status

theorem State.Has.odRelease [K.Quiet] {s : State} {u : Nat} (h : s.Has K) : (s.odRelease u).Has K :=
  .ite h.releaseQuar.status h.status

theorem State.Has.odCtlWrite [K.Quiet] {s : State} {u op : Nat} (h : s.Has K) : (s.odCtlWrite u op).Has K := by
  unfold State.odCtlWrite
  split
  · exact h.odReset
  · exact h.odRelease
  · exact h.odQuar
  · exact h.status

theorem State.Has.odCtlBy [K.Quiet] {s : State} {rq : Requester} {u op : Nat} (h : s.Has K) : (s.odCtlBy rq u op).Has K := by
  unfold State.odCtlBy
  split
  · exact h.odCtlWrite
  · exact h.status

theorem State.Has.execShdAutoReturn [K.Quiet] {u : Fin 1024} {s : State} (h : s.Has K) : Out.Has K (execShdAutoReturn u s) :=
  State.Has.ite h.setUn.releaseQuar h

theorem State.Has.execRetestDone [K.Quiet] {u : Fin 1024} {s : State} (h : s.Has K) : Out.Has K (execRetestDone u s) := by
  unfold Machine.execRetestDone
  extract_lets u1 s1 u2 s2 s3
  have hs1 : s1.Has K := h.setUn
  have hu2 : u2.Has K := hs1.setFld
  have hs2 : s2.Has K := .upd hu2 rfl
  have hs3 : s3.Has K := hs2.foldl fun _ _ hs => .ite hs hs.maskReq
  refine State.Has.ite ?_ h
  split
  · exact h.returnUnit
  · exact hs3.terFail.record

theorem State.Has.dftFeed {s : State} {p : Fin 8} {d : Desc} {input : Nat} {ys : List Nat} (h : s.Has K) :
    (s.dftFeed p d input ys).Has K := by
  suffices hf : ∀ f, f = State.dftFeed → (f s p d input ys).Has K from hf _ rfl
  intro f hf
  delta State.dftFeed at hf
  subst hf
  beta_reduce
  extract_lets -underBinder off
  split
  · exact h
  · extract_lets -underBinder x b
    split
    · exact h
    · exact h.foldl fun _ _ hs => hs.houndFeed

theorem State.Has.dftJob [K.Marks] [K.Quiet] {p : Fin 8} {x : Run} {e : Entry} (h : x.s.Has K) : (dftJob p x e).1.s.Has K := by
  unfold Machine.dftJob
  extract_lets d len
  split
  · exact h.Run_param
  · have hif : ∀ (c : Prop) [Decidable c], (if c then x.readPm p (bf d.a1 63 40) (2 * d.nsym) else (x, [])).1.s.Has K := by
      intro c _
      split
      · exact h.Run_readPm
      · exact h
    split
    rename_i t _ he
    have ht := has_of_run_eq (hif _) he
    split
    rename_i t1 _ he
    have ht1 := has_of_run_eq ht.Run_read he
    extract_lets ys x1 x2
    have hx1 : x1.s.Has K := ht1.Run_write
    split
    · exact ht1
    · show x2.s.Has K
      unfold x2
      split
      · exact hx1.dftFeed
      · exact hx1

theorem State.Has.execDftFwdCp [K.Marks] [K.Quiet] {p : Fin 8} {k : Fin 4} {s : State} (h : s.Has K) :
    Out.Has K (execDftFwdCp p k s) :=
  h.runJob fun _ => .dftJob h

theorem State.Has.execDftInvCp [K.Marks] [K.Quiet] {p : Fin 8} {k : Fin 4} {s : State} (h : s.Has K) :
    Out.Has K (execDftInvCp p k s) :=
  h.runJob fun _ => .dftJob h

theorem State.Has.execDftFwd [K.Marks] [K.Quiet] {p : Fin 8} {k : Fin 4} {s : State} (h : s.Has K) : Out.Has K (execDftFwd p k s) :=
  h.runJob fun _ => .dftJob h

theorem State.Has.execDftInv [K.Marks] [K.Quiet] {p : Fin 8} {k : Fin 4} {s : State} (h : s.Has K) : Out.Has K (execDftInv p k s) :=
  h.runJob fun _ => .dftJob h

theorem State.Has.eqJob [K.Marks] [K.Quiet] {p : Fin 8} {x : Run} {e : Entry} (h : x.s.Has K) : (eqJob p x e).1.s.Has K := by
  have hpm : ∀ (c : Prop) [Decidable c] (x : Run) o n, x.s.Has K → (if c then x.readPm p o n else (x, [])).1.s.Has K := by
    intro c _ x o n h
    split
    · exact h.Run_readPm
    · exact h
  have hrd : ∀ (c : Prop) [Decidable c] (x : Run) l, x.s.Has K → (if c then x.reads p l else (x, [])).1.s.Has K := by
    intro c _ x l h
    split
    · exact h.Run_reads
    · exact h
  unfold Machine.eqJob
  extract_lets d off
  split
  · exact h.Run_param
  · split
    rename_i t _ he
    have ht := has_of_run_eq h.Run_readPm he
    extract_lets syms res
    split
    · exact ht.Run_param
    · split
      rename_i t1 _ he
      have ht1 := has_of_run_eq ht.Run_reads he
      extract_lets cells
      split
      rename_i t2 _ he
      have ht2 := has_of_run_eq (hpm _ _ _ _ ht1) he
      split
      rename_i t3 _ he
      have ht3 := has_of_run_eq (hpm _ _ _ _ ht2) he
      extract_lets inp run deg
      split
      rename_i t4 _ he
      have ht4 := has_of_run_eq (hrd _ _ _ ht3) he
      split
      · exact ht4
      · exact ht4.Run_writes.Run_write

theorem State.Has.execEqDetect [K.Marks] [K.Quiet] {p : Fin 8} {k : Fin 2} {s : State} (h : s.Has K) :
    Out.Has K (execEqDetect p k s) :=
  h.runJob fun _ => .eqJob h

theorem State.Has.execEqEqualize [K.Marks] [K.Quiet] {p : Fin 8} {k : Fin 2} {s : State} (h : s.Has K) :
    Out.Has K (execEqEqualize p k s) :=
  h.runJob fun _ => .eqJob h

theorem State.Has.execEqDemap [K.Marks] [K.Quiet] {p : Fin 8} {k : Fin 2} {s : State} (h : s.Has K) :
    Out.Has K (execEqDemap p k s) :=
  h.runJob fun _ => .eqJob h

theorem State.Has.bwCompute [K.Marks] [K.Quiet] {p : Fin 8} {x : Run} {e : Entry} (h : x.s.Has K) :
    (bwCompute p x e).1.s.Has K := by
  unfold Machine.bwCompute
  extract_lets d ng na nl n
  split
  · exact h.Run_param
  · split
    · rename_i t _ he
      have ht := has_of_run_eq h.Run_read he
      extract_lets hs gs out
      split
      · exact ht
      · exact ht.Run_write

theorem State.Has.execBwCompute [K.Marks] [K.Quiet] {p : Fin 8} {s : State} (h : s.Has K) : Out.Has K (execBwCompute p s) :=
  h.runJob fun _ => .bwCompute h

theorem State.Has.bwApply [K.Marks] [K.Quiet] {p : Fin 8} {x : Run} {e : Entry} (h : x.s.Has K) : (bwApply p x e).1.s.Has K := by
  unfold Machine.bwApply
  extract_lets d k nsym gran shift na nl per ng
  split
  · exact h.Run_param
  · split
    · rename_i t _ he
      have ht := has_of_run_eq h.Run_readPm he
      extract_lets w ex sh
      split
      · exact ht.Run_param
      · split
        · rename_i t1 _ he
          have ht1 := has_of_run_eq ht.Run_read he
          extract_lets xs ys sat
          split
          · exact ht1
          · exact ht1.Run_write

theorem State.Has.execBwApply [K.Marks] [K.Quiet] {p : Fin 8} {s : State} (h : s.Has K) : Out.Has K (execBwApply p s) :=
  h.runJob fun _ => .bwApply h

theorem State.Has.terDesc {s : State} {t : Nat} (h : s.Has K) : (s.terDesc t).2.Has K := by
  unfold State.terDesc
  split
  · rename_i _ t1 he
    have ht1 := has_of_snd_eq h.draw he
    split
    · rename_i _ t2 he
      have ht2 := has_of_snd_eq ht1.draw he
      exact ht2

theorem State.Has.segStart {s : State} {g i : Nat} (h : s.Has K) : (s.segStart g i).Has K := by
  unfold State.segStart
  extract_lets x s1
  have hs1 : s1.Has K := .upd h rfl
  split
  · split
    · rename_i _ t he
      have ht := has_of_snd_eq hs1.terDesc he
      split
      · rename_i t1 _ he
        have ht1 := has_of_fst_eq ht.wakePack.allocate he
        exact .readyIf (.upd ht1 rfl)
  · exact .upd hs1 rfl
  · split
    · rename_i _ t he
      have ht := has_of_snd_eq hs1.draw he
      extract_lets s2
      have hs2 : s2.Has K := ht.store
      exact .upd hs2 rfl

theorem State.Has.segMoved {s : State} {g i : Nat} {wrapped : Bool} (h : s.Has K) : (s.segMoved g i wrapped).Has K :=
  .ite (.ite (.upd h rfl) (.upd h rfl)) (.ite (.setFld (.incWrap (.setFld (.ite (.upd h rfl) (.upd h rfl))))) (.setFld (.ite (.upd h rfl)
    (.upd h rfl))))

theorem State.Has.execTerrierSegmentStart {p : Fin 9} {s : State} (h : s.Has K) : Out.Has K (execTerrierSegmentStart p s) := by
  unfold Machine.execTerrierSegmentStart
  extract_lets g head due idle sched n at_
  refine State.Has.ite ?_ h
  generalize head = l
  cases l with
  | cons i r => exact .ite (.ite (.segStart (.upd h rfl)) (.upd h rfl)) h
  | nil =>
    refine .ite ?_ h
    generalize s.nextSeg g (n - at_) at_ = a
    cases a with
    | some i => exact h.segStart.segMoved
    | none =>
      generalize s.nextSeg g at_ 0 = a
      cases a with
      | some i => exact h.segStart.segMoved
      | none => exact h

theorem State.Has.execTerrierSignatureCheck [K.Quiet] {p : Fin 8} {s : State} (h : s.Has K) :
    Out.Has K (execTerrierSignatureCheck p s) := by
  unfold Machine.execTerrierSignatureCheck
  show State.Has K _
  split
  · exact h.segEnd
  · exact h

theorem State.Has.terLost [K.Marks] [K.Quiet] {s : State} {cls unit addr : Nat} (h : s.Has K) : (s.terLost cls unit addr).Has K :=
  .ite h.startRefetch (.ite h.meetInner h.poisonWord)

theorem State.Has.memFinding [K.Quiet] {s : State} {unit cls addr bitNo again : Nat} (h : s.Has K) :
    (s.memFinding unit cls addr bitNo again).1.Has K := by
  unfold State.memFinding
  refine .fst_ite (.fst h) (.fst_ite (.fst_ite (.fst h.retestFailed) ?_) (.fst h.incSat))
  exact .fst (.ite h.terFail.remapAdd h.terFail)

theorem State.Has.execTerrierMemStep [K.Marks] [K.Quiet] {p : Fin 9} {bad : Option (BitVec 9)} {again : Fin 4} {lost : Option (Fin 8)}
    {s : State} (h : s.Has K) : Out.Has K (execTerrierMemStep p bad again lost s) := by
  unfold Machine.execTerrierMemStep
  extract_lets g
  show State.Has K _
  split
  · extract_lets x a s1
    have hs1 : s1.Has K := .ite h.flushOver h
    refine .ite h ?_
    split
    rename_i t _ he
    have ht : t.Has K := by
      cases bad with
      | some b => exact has_of_fst_eq hs1.memFinding he
      | none => exact has_of_fst_eq (.fst hs1) he
    extract_lets s2 sig1
    have hs2 : s2.Has K := by
      cases lost with
      | some w => exact .ite ht ht.terLost
      | none => exact ht
    exact .ite (.upd hs2 rfl) (.ite (.upd hs2 rfl) hs2.segEnd)
  · exact h

theorem State.Has.execTerrierRun {rq : Requester} {u : Fin 1024} {s : State} (h : s.Has K) : Out.Has K (execTerrierRun rq u s) := by
  unfold Machine.execTerrierRun
  show State.Has K _
  split
  · exact .ite h.terRunUnit.status h.status
  · exact h.status

theorem State.Has.accelSegment [K.Quiet] {s : State} {p k : Nat} (h : s.Has K) : (s.accelSegment p k).Has K := by
  unfold State.accelSegment
  split
  · rename_i _ t he
    have ht := has_of_snd_eq h.draw he
    split
    · rename_i _ t1 he
      have ht1 := has_of_snd_eq ht.drawBelow he
      exact ht1.store.segEnd

theorem State.Has.execAccelJobComplete [K.Quiet] {p : Fin 8} {k : Fin 17} {s : State} (h : s.Has K) :
    Out.Has K (execAccelJobComplete p k s) := by
  unfold Machine.execAccelJobComplete
  show State.Has K _
  split
  · exact h.finishJob
  · refine .ite h.accelSegment ?_
    split
    · exact .ite h.finishJob h
    · exact h

end Sys2Proof.Machine
end

section
/-!
PROOFS. Properties of memory, one rule per operation: dictionary writes, commits, handovers, tokens, Enber and the tiles.
-/
namespace Sys2Proof.Machine

variable {K : MemProp}

theorem State.Has.within {s : State} {n i : Nat} {f : Fin n → State} (h : s.Has K) (hf : ∀ x, (f x).Has K) :
    (s.within n i f).Has K := by
  unfold State.within
  split
  · exact hf _
  · exact h.status

theorem State.Has.plainWrite {s : State} {r : Row} {k : Nat} {v : U64} (h : s.Has K) : (s.plainWrite r k v).Has K := .upd h rfl

theorem State.Has.enWrite {s : State} {r : Row} {k i : Nat} {v : U64} (h : s.Has K) : (s.enWrite r k i v).Has K :=
  .ite h.status h.plainWrite

theorem State.Has.prbsWrite {s : State} {r : Row} {k : Nat} {v : U64} (h : s.Has K) : (s.prbsWrite r k v).Has K :=
  .ite h.plainWrite h.plainWrite.setFlag

theorem State.Has.stage {s : State} {rq : Requester} {k : Nat} {v : U64} (h : s.Has K) : (s.stage rq k v).Has K :=
  .ite h.status (.status (.upd h rfl))

theorem State.Has.stageIp6 {s : State} {rq : Requester} {v : U64} (h : s.Has K) : (s.stageIp6 rq v).Has K := by
  unfold State.stageIp6
  refine .ite (.stage ?_) (.status (.upd h rfl))
  split
  · exact .stage (.upd h rfl)
  · exact .status (.upd h rfl)

theorem State.Has.commitAsk {s : State} {slot : Nat} {msg : Option (BitVec 32 × Nat)} (h : s.Has K) :
    (s.commitAsk slot msg).Has K :=
  .ite h.status (.status (.upd h rfl))

theorem State.Has.tokenAsk {s : State} {slot : Nat} {v : U64} (h : s.Has K) : (s.tokenAsk slot v).Has K :=
  .ite h.status (.status (.upd h rfl))

theorem State.Has.liveWrite {s : State} {o : ObjId} {ix : List Nat} {v : U64} (h : s.Has K) : (s.liveWrite o ix v).Has K := by
  unfold State.liveWrite
  split
  · exact h.status
  · split
    · exact h.liveCtlWrite
    · exact h.liveCtlWrite
    · exact h.liveCtlWrite
    · exact h.liveCtlWrite
    · exact .ite h.directWrite h.stagedWrite

theorem State.Has.ruleWrite [K.Quiet] {s : State} {rq : Requester} {r : Row} {ix : List Nat} {k : Nat} {v : U64} (h : s.Has K) :
    (s.ruleWrite rq r ix k v).Has K := by
  unfold State.ruleWrite
  extract_lets i j b t
  have ht : t.Has K := h.plainWrite
  split
  · exact h.liveWrite
  · exact h.liveWrite
  · exact h.liveWrite
  · exact h.liveWrite
  · exact h.liveWrite
  · exact h.liveWrite
  · exact h.liveWrite
  · exact h.liveWrite
  · exact h.setEnt.status
  · exact h.odCtlWrite
  · exact .ite h.commitAsk h.status
  · exact h.tokenAsk
  · exact h.deviceCtl
  · exact h.ptCtl
  · exact h.readyWrite
  · exact h.pwrReqWrite
  · exact h.voteWrite
  · exact .ite h.plainWrite h.status
  · exact h.register.status
  · exact h.register.status
  · exact .ite (.status (.upd h rfl)) (.status (.register (.upd h rfl)))
  · exact .upd ht rfl
  · exact h.within fun _ => .status (.ite h h.ttDefaultK.setEnt)
  · exact h.within fun _ => h.ttCfgWrite
  · exact h.within fun _ => h.ttTiming
  · exact h.within fun _ => h.ttTiming
  · exact h.pxCtlWrite
  · exact .ite h.plainWrite h.status
  · exact h.plainWrite.leashIrq
  · exact h.setIrq.plainWrite.leashIrq
  · exact h.within fun _ => h.dmaCfgWrite
  · exact h.within fun _ => h.dmaResume
  · exact h.within fun _ => h.doorbell.status
  · exact h.emptyLog.status
  · exact .ite h.status h.enWrite
  · exact h.within fun _ => h.verdictWrite
  · exact h.enWrite
  · exact h.txCfgWrite
  · exact .ite h.status h.plainWrite
  · exact .ite h.status h.plainWrite
  · exact h.flRingCfgWrite
  · exact h.flRingBaseWrite
  · exact h.flBaseWrite
  · exact h.flBaseWrite
  · exact h.flBaseWrite
  · exact h.flPoolWrite
  · exact h.lnOCfgWrite
  · exact h.lnCfgWrite
  · exact h.lnAnWrite
  · exact h.lnTestWrite
  · exact h.eyeWrite
  · exact h.slipWrite
  · exact h.prbsWrite
  · exact h.ethCfgWrite
  · exact h.dlyWrite
  · exact h.within fun _ => h.gclCfgWrite
  · exact h.gclTimeWrite
  · exact h.gclTimeWrite
  · exact h.vlanWrite
  · exact h.vlanMacsWrite
  · exact h.vlanMacsWrite
  · exact h.strWrite
  · exact h.pet.status
  · exact .ite h.plainWrite h.status
  · exact .ite h.terRunUnit.status h.status
  · exact h.evrCursor.status
  · exact h.evrUser.status
  · exact h.carriersWrite
  · exact h.fwCtlWrite
  · exact h.flashWrite
  · exact h.attestWrite
  · exact h.hoCfgWrite
  · exact h.hoOpWrite
  · exact h.gplGCfgWrite.status
  · exact h.relayWrite
  · exact .ite h.status h.plainWrite
  · exact h.i2cWriteXfer
  · exact .ite (.status (.upd h rfl)) h.plainWrite

theorem State.Has.applyWrite [K.Quiet] {s : State} {rq : Requester} {r : Row} {ix : List Nat} {k : Nat} {v : U64} (h : s.Has K) :
    (s.applyWrite rq r ix k v).Has K :=
  .ite (.ite (.ite (.status (.upd h rfl)) h.stageIp6) (.ite h.status h.stage)) h.ruleWrite

theorem State.Has.writeOther [K.Quiet] {s : State} {rq : Requester} {k : Nat} {v : U64} (h : s.Has K) :
    (s.writeOther rq k v).Has K := by
  unfold State.writeOther
  refine .ite h.status ?_
  split
  · exact h.status
  · exact .ite h.status (.ite (.applyWrite (.ite (.upd h rfl) h)) (.status (.ite (.upd h rfl) h)))

theorem State.Has.hoCutWrite [K.Quiet] {s : State} {rq : Requester} {n j : Nat} {v : U64} (h : s.Has K) :
    (s.hoCutWrite rq n j v).Has K :=
  .ite h.status (.ite h.status (.ite h.status h.setEnt.status))

theorem State.Has.writeEntry [K.Quiet] {s : State} {rq : Requester} {k : Nat} {v : U64} (h : s.Has K) :
    (s.writeEntry rq k v).Has K := by
  unfold State.writeEntry
  split
  · refine .ite ?_ h.writeOther
    split
    · exact h.hoCutWrite
    · exact h.status
  · exact h.writeOther

theorem State.Has.execDictWindowLoad {c : Fin 16} {m : PrivMode} {a : Addr} {bytes : Nat} {s : State} (h : s.Has K) :
    Out.Has K (execDictWindowLoad c m a bytes s) := by
  unfold Machine.execDictWindowLoad
  refine State.Has.ite ?_ h
  split
  · split
    · rename_i _ t he
      have ht := has_of_snd_eq h.readEntry he
      exact ht.answer
  · exact h.accessFault.answer

theorem State.Has.execDictWindowStore [K.Quiet] {c : Fin 16} {m : PrivMode} {a : Addr} {bytes : Nat} {v : U64} {s : State}
    (h : s.Has K) : Out.Has K (execDictWindowStore c m a bytes v s) := by
  unfold Machine.execDictWindowStore
  refine State.Has.ite ?_ h
  split
  · exact h.writeEntry
  · exact h.accessFault.answer

theorem State.Has.assignSince {s b : State} (h : s.Has K) : (s.assignSince b).Has K := by
  unfold State.assignSince
  extract_lets ps s1 us s2
  have hs1 : s1.Has K := h.foldl fun _ _ hs => hs.record
  clear_value s1
  have hs2 : s2.Has K := .ite hs1 hs1.absent
  clear_value s2
  refine .ite h (hs2.foldl fun _ _ hs => ?_)
  split
  · extract_lets u
    have hu : u.Has K := hs.packDown
    clear_value u
    exact .upd hu rfl
  · exact .ite hs (.upd hs rfl)
  · exact hs

theorem State.Has.keysSince {s b : State} {counter : U64} (h : s.Has K) : (s.keysSince b counter).Has K :=
  h.foldl fun _ _ hs => .ite hs hs.record

theorem State.Has.forceSince {s b : State} {counter : U64} (h : s.Has K) : (s.forceSince b counter).Has K := h.assignSince.keysSince

theorem State.Has.commitWrite {s : State} {es : Tab U64} {r : MramResult} {counter : U64} (h : s.Has K) :
    (s.commitWrite es r counter).Has K := by
  unfold State.commitWrite
  split
  · exact .ite (.upd h rfl) (.upd h rfl)
  · exact .ite (.upd h rfl) (.upd h rfl)
  · exact .forceSince (.foldl (.ite (.upd h rfl) (.upd h rfl)) fun _ _ hs => hs.setEnt)
  · exact .forceSince (.foldl (.ite (.upd h rfl) (.upd h rfl)) fun _ _ hs => hs.setEnt)
  · exact .forceSince (.foldl (.ite (.upd h rfl) (.upd h rfl)) fun _ _ hs => hs.setEnt)

theorem State.Has.cutOwner {s : State} {n : Nat} (h : s.Has K) : (s.cutOwner n).Has K :=
  .ite h.setFld (.assignSince (.ownCommit (h.setFld.foldl fun _ _ hs => .ite hs.setEntN hs)))

theorem State.Has.cutApply [K.Quiet] {s : State} {dst : Fin 8} {k : Nat} {v : U64} (h : s.Has K) : (s.cutApply dst k v).Has K := by
  unfold State.cutApply
  refine .ite ?_ h.writeOther
  split
  · exact h.setEnt
  · exact h

theorem State.Has.cutEntries [K.Quiet] {s : State} {n : Nat} (h : s.Has K) : (s.cutEntries n).Has K := by
  unfold State.cutEntries
  split
  · exact h
  · exact h.foldl fun _ _ hs => .ite hs.cutApply hs

theorem State.Has.cutRegions {s : State} {n : Nat} (h : s.Has K) : (s.cutRegions n).Has K := h.foldl fun _ _ hs => .ite hs.setFld hs

theorem State.Has.hoCutNow [K.Quiet] {s : State} {n : Nat} (h : s.Has K) : (s.hoCutNow n).Has K := by
  unfold State.hoCutNow
  refine .setHo (.setCar (.reownCarrier (.cutRegions ?_)))
  split
  · exact h.cutOwner.cutEntries.liveSwapNow
  · exact h.cutOwner.cutEntries

theorem State.Has.execHoCut [K.Quiet] {n : Fin 16} {s : State} (h : s.Has K) : Out.Has K (execHoCut n s) := by
  unfold Machine.execHoCut
  extract_lets s1 u
  have hs1 : s1.Has K := h.foldl fun _ _ hs => hs.hoPrecheck
  have hu : u.Has K := hs1.hoCutNow
  exact State.Has.ite (.upd hu rfl) hs1

theorem State.Has.relayServe [K.Quiet] {s : State} {g : Nat} {part : Fin 8} {write : Bool} {o : Obj} {v : U64} (h : s.Has K) :
    (s.relayServe g part write o v).Has K := by
  unfold State.relayServe
  extract_lets rq s1
  have hs1 : s1.Has K := .ite h.writeEntry h.readBy
  split
  · exact hs1.sendMsg

theorem State.Has.execGplRelay [K.Quiet] {g : Fin 4} {m : RelayMsg} {s : State} (h : s.Has K) : Out.Has K (execGplRelay g m s) := by
  unfold Machine.execGplRelay
  refine State.Has.ite h ?_
  split
  · exact h.relayServe
  · exact h.relayAnswer

theorem State.Has.tokApply [K.Quiet] {s : State} {rq : Requester} {slot : Nat} {counter : U64} {k : Nat} {v : U64} (h : s.Has K) :
    (s.tokApply rq slot counter k v).Has K := by
  unfold State.tokApply
  split
  · exact h.status
  · refine .ite ?_ h.ruleWrite
    split
    · rename_i t1 he
      have ht1 := has_of_some h.evrClear he
      exact ht1.status
    · exact h.status

theorem State.Has.tokRun [K.Quiet] {s : State} {rq : Requester} {slot : Nat} {counter : U64} {l : List (Nat × U64)} (h : s.Has K) :
    (s.tokRun rq slot counter l).1.Has K := by
  induction l generalizing s with
  | nil => exact h
  | cons p l ih =>
    obtain ⟨k, v⟩ := p
    unfold State.tokRun
    split
    · extract_lets n t
      refine .fst_ite (ih h) ?_
      split
      · exact ih h.tokApply
      · exact h
      · exact ih h.tokApply
    · exact h

theorem State.Has.tokenWrite [K.Quiet] {s : State} {rq : Requester} {b : List Byte} {r : MramResult} (h : s.Has K) :
    (s.tokenWrite rq b r).1.Has K := by
  unfold State.tokenWrite
  extract_lets es img
  split
  · exact h
  · split
    · rename_i t1 he
      have ht1 := has_of_fst_eq h.tokRun he
      split
      · exact .commitWrite (.ite ht1 h)
      · exact h
    · exact h

theorem State.Has.execTokenCheckDone [K.Quiet] {c : Fin 16} {r : MramResult} {s : State} (h : s.Has K) :
    Out.Has K (execTokenCheckDone c r s) := by
  unfold Machine.execTokenCheckDone
  extract_lets k v n b b1
  refine State.Has.ite ?_ h
  split
  · rename_i t1 _ he
    have ht1 := has_of_fst_eq h.tokenWrite he
    exact .ite ht1 (.upd ht1 rfl)

theorem State.Has.commitDone {s : State} {c : Commit} {st : Status} (h : s.Has K) : (s.commitDone c st).Has K := by
  unfold State.commitDone
  extract_lets k s1 i vals
  have hs1 : s1.Has K := .upd h rfl
  split
  · exact hs1
  · extract_lets r
    split
    · exact hs1
    · exact .ite (.upd hs1 rfl) hs1

theorem State.Has.unstage {s : State} {c : Commit} (h : s.Has K) : (s.unstage c).Has K := .upd h rfl

theorem State.Has.execCommitExecute {r : MramResult} {s : State} (h : s.Has K) : Out.Has K (execCommitExecute r s) := by
  unfold Machine.execCommitExecute
  show State.Has K _
  split
  · exact h
  · refine .ite h (.ite (.commitDone (.upd h rfl)) ?_)
    split
    · exact .ite (.commitWrite (.upd h rfl)) (.ite (.commitDone (.unstage (.commitWrite (.upd h rfl)))) (.commitDone (.commitWrite (.upd
        h rfl))))
    · exact .commitDone (.upd h rfl)

theorem State.Has.sessionCount {s : State} {hi lo : Nat} (h : s.Has K) : (s.sessionCount hi lo).Has K := .upd h rfl

theorem State.Has.executed {s : State} {i : Fin 16} {seq : Nat} {r : Option Reply} (h : s.Has K) : (s.executed i seq r).Has K := by
  unfold State.executed
  split
  · exact h
  · exact .upd h rfl

theorem State.Has.enberSession {s : State} {i : Fin 16} {x : Session} {m : EnberMsg} {run : Fin 16 → State → State × Option Reply}
    (h : s.Has K) (hrun : ∀ i s, s.Has K → (run i s).1.Has K) : (s.enberSession i x m run).Has K := by
  refine .ite h.sessionCount.answer (.ite (.ite h.answer (.ite h.answer ?_)) ?_)
  · split
    · rename_i t _ he
      exact (has_of_fst_eq (hrun i s h) he).executed.answer
    · rename_i t he
      exact (has_of_fst_eq (hrun i s h) he).answer
  · split
    · exact .answer (.upd h rfl)
    · exact h.sessionCount.answer

theorem State.Has.enberServe {s : State} {m : EnberMsg} {zero : State → State} {run : Fin 16 → State → State × Option Reply}
    (h : s.Has K) (hz : (zero s).Has K) (hrun : ∀ i s, s.Has K → (run i s).1.Has K) : (s.enberServe m zero run).Has K := by
  refine .ite h (.ite h.answer (.ite hz ?_))
  split
  · exact h.answer
  · split
    · exact h.enberSession hrun
    · exact h

theorem State.Has.enberZero {m : EnberMsg} {s : State} (h : s.Has K) : (enberZero m s).Has K := .upd h rfl

theorem State.Has.readMany {s : State} {rq : Option Requester} {slot k : Nat} {clear : Bool} {n : Nat} (h : s.Has K) :
    (s.readMany rq slot k clear n).2.Has K := by
  induction n generalizing s k with
  | zero => exact h
  | succ n ih =>
    have hif : ∀ c : Bool, (if c then s.readEntry slot k clear else (0, s)).2.Has K := by
      intro c
      split
      · exact h.readEntry
      · exact h
    exact ih (hif _)

theorem State.Has.readRun {s : State} {i : Fin 16} {m : EnberMsg} {block : Bool} (h : s.Has K) : (s.readRun i m block).1.Has K := by
  unfold State.readRun
  extract_lets rq ks raw st
  split
  · split <;> exact h
  · split
    · split
      · rename_i _ t1 he
        have ht1 := has_of_snd_eq h.readMany he
        exact ht1
    · exact h

theorem State.Has.readZero {s : State} {m : EnberMsg} {block : Bool} (h : s.Has K) : (s.readZero m block).Has K := by
  unfold State.readZero
  refine .ite h.answer (.ite h.answer (.ite h.answer (.ite h.answer (.ite h.answer ?_))))
  split
  · rename_i _ t1 he
    have ht1 := has_of_snd_eq h.readMany he
    exact ht1.answer

theorem State.Has.execEnberRead {m : EnberMsg} {s : State} (h : s.Has K) : Out.Has K (execEnberRead m s) :=
  State.Has.ite (h.enberServe h.readZero fun _ _ hs => hs.readRun) (.ite (h.enberServe h.enberZero fun _ _ hs => .fst hs) h)

theorem State.Has.execEnberReadBlock {m : EnberMsg} {s : State} (h : s.Has K) : Out.Has K (execEnberReadBlock m s) :=
  State.Has.ite (h.enberServe h.readZero fun _ _ hs => hs.readRun) h

theorem State.Has.writeStatus [K.Quiet] {s : State} {i : Fin 16} {k : Nat} {v : U64} (h : s.Has K) :
    (s.writeStatus i k v).1.Has K :=
  h.writeEntry

theorem State.Has.execEnberWrite [K.Quiet] {m : EnberMsg} {s : State} (h : s.Has K) : Out.Has K (execEnberWrite m s) :=
  State.Has.ite (h.enberServe h.enberZero fun _ _ hs => .fst hs.writeStatus) h

theorem State.Has.writeMany [K.Quiet] {s : State} {i : Fin 16} {m : EnberMsg} {n j : Nat} (h : s.Has K) :
    (s.writeMany i m n j).1.Has K := by
  induction n generalizing s j with
  | zero => exact h
  | succ n ih =>
    unfold State.writeMany
    split
    · rename_i t he
      exact ih (has_of_fst_eq h.writeStatus he)
    · rename_i t _ _ he
      exact has_of_fst_eq h.writeStatus he

theorem State.Has.execEnberWriteBlock [K.Quiet] {m : EnberMsg} {s : State} (h : s.Has K) : Out.Has K (execEnberWriteBlock m s) :=
  State.Has.ite (h.enberServe h.enberZero fun _ _ hs => .fst hs.writeMany) h

theorem State.Has.execEnberTokenWrite [K.Quiet] {m : EnberMsg} {r : MramResult} {s : State} (h : s.Has K) :
    Out.Has K (execEnberTokenWrite m r s) := by
  refine State.Has.ite (h.enberServe h.enberZero fun i s hs => .fst_ite (.fst hs) (.fst_ite (.fst hs) ?_)) h
  have ht : (s.tokenWrite (.session i) (enberBody m) r).1.Has K := hs.tokenWrite
  exact .fst_ite (.fst ht) (.fst ht)

theorem State.Has.execEnberCommit {m : EnberMsg} {s : State} (h : s.Has K) : Out.Has K (execEnberCommit m s) := by
  refine State.Has.ite (h.enberServe h.enberZero fun i s hs => .fst_ite (.fst hs) (.fst_ite (.fst ?_) (.fst hs))) h
  exact hs.commitAsk.executed

theorem State.Has.sample {s : State} {i : Fin 16} {b : Sub} (h : s.Has K) : (s.sample i b).2.Has K := h.readMany

theorem State.Has.sendSub {s : State} {i : Fin 16} {subid : Nat} {b : Sub} {vals : List U64} (h : s.Has K) :
    (s.sendSub i subid b vals).Has K := by
  unfold State.sendSub
  extract_lets s1
  have hs1 : s1.Has K := h.notify
  split
  · exact hs1
  · exact .upd hs1 rfl

theorem State.Has.subscribe {s : State} {i : Fin 16} {m : EnberMsg} (h : s.Has K) : (s.subscribe i m).1.Has K := by
  unfold State.subscribe
  extract_lets b subid mode period r sub
  split
  · exact h
  · split
    · split
      · exact .upd h rfl
      · split
        · rename_i _ t1 he
          have ht1 := has_of_snd_eq h.sample he
          exact ht1.sendSub
    · exact h

theorem State.Has.execEnberSubscribe {m : EnberMsg} {s : State} (h : s.Has K) : Out.Has K (execEnberSubscribe m s) :=
  State.Has.ite (h.enberServe h.enberZero fun _ _ hs => hs.subscribe) h

theorem State.Has.execNotifySend {i : Fin 16} {subid : BitVec 6} {s : State} (h : s.Has K) :
    Out.Has K (execNotifySend i subid s) := by
  unfold Machine.execNotifySend
  show State.Has K _
  split
  · exact h
  · split
    · exact h
    · refine .ite h ?_
      split
      · rename_i _ t1 he
        have ht1 := has_of_snd_eq h.sample he
        exact .ite (.sendSub (.upd ht1 rfl)) (.upd ht1 rfl)

theorem State.Has.drawId {s : State} (h : s.Has K) : (s.drawId).2.Has K := by
  unfold State.drawId
  split
  · rename_i _ t1 he
    have ht1 := has_of_snd_eq h.draw he
    exact .upd ht1 rfl

theorem State.Has.drawEph {s : State} (h : s.Has K) : (s.drawEph).2.Has K := by
  unfold State.drawEph
  split
  · rename_i _ t1 he
    have ht1 := has_of_snd_eq h.draw he
    exact .upd ht1 rfl

theorem State.Has.hello {s : State} {m : EnberMsg} (h : s.Has K) : (s.hello m).Has K := by
  unfold State.hello
  extract_lets b no scope w
  refine .ite h.answer (.ite h.answer ?_)
  split
  · exact h.answer
  · split
    · exact h.answer
    · split
      · rename_i _ t he
        have ht := has_of_snd_eq h.drawId he
        split
        · rename_i _ t1 he
          have ht1 := has_of_snd_eq ht.drawEph he
          split
          · rename_i _ t2 he
            have ht2 := has_of_snd_eq ht1.draw he
            extract_lets resp t11 sig
            exact .answer (.upd ht2 rfl)

theorem State.Has.execEnberHello {m : EnberMsg} {s : State} (h : s.Has K) : Out.Has K (execEnberHello m s) :=
  State.Has.ite (h.enberServe h.hello fun _ _ hs => .fst hs.endSession) h

theorem State.Has.claim {s : State} {key : List Byte} (h : s.Has K) : (s.claim key).Has K := h.ownCommit

theorem State.Has.openSession {s : State} {m : EnberMsg} {hd i : Nat} {hs : Handshake} {role : Role} {t2 : List Byte} (h : s.Has K) :
    (s.openSession m hd i hs role t2).Has K :=
  .upd h rfl

theorem State.Has.auth {s : State} {m : EnberMsg} {hd : Nat} {hs : Handshake} (h : s.Has K) : (s.auth m hd hs).Has K := by
  unfold State.auth
  extract_lets b no key t2
  refine .ite h.answer (.ite h.answer ?_)
  split
  · exact .answer (.sessionCount (.upd h rfl))
  · split
    · exact h.answer
    · exact .openSession (.ite h.claim h)

theorem State.Has.execEnberAuth {m : EnberMsg} {s : State} (h : s.Has K) : Out.Has K (execEnberAuth m s) := by
  unfold Machine.execEnberAuth
  refine State.Has.ite (.ite h (.ite h.answer ?_)) h
  split
  · exact h.auth
  · exact h.answer

theorem State.Has.execSessionIdleTimeout {i : Fin 16} {s : State} (h : s.Has K) : Out.Has K (execSessionIdleTimeout i s) := by
  unfold Machine.execSessionIdleTimeout
  show State.Has K _
  split
  · exact h
  · exact .ite h.endSession h

theorem State.Has.execHandshakeExpiry {hd : Fin 8} {s : State} (h : s.Has K) : Out.Has K (execHandshakeExpiry hd s) := by
  unfold Machine.execHandshakeExpiry
  show State.Has K _
  split
  · exact h
  · exact .ite (.upd h rfl) h

theorem State.Has.execMgmtPortFrame {f : MgmtFrame} {s : State} (h : s.Has K) : Out.Has K (execMgmtPortFrame f s) := by
  unfold Machine.execMgmtPortFrame
  refine State.Has.ite h ?_
  split
  · exact .ite (.upd h rfl) h
  · exact .ite (.upd h rfl) h
  · exact .ite (.upd h rfl) h
  · exact .ite (.upd h rfl) h
  · exact h

theorem State.Has.opRR {s : State} {t : Fin 512} {rd ra rb : Reg} {op : U64 → U64 → U64} (h : s.Has K) :
    Out.Has K (opRR s t rd ra rb op) :=
  h.stepTile fun _ => h.retire

theorem State.Has.opRI {s : State} {t : Fin 512} {rd ra : Reg} {legal : Bool} {op : U64 → U64} (h : s.Has K) :
    Out.Has K (opRI s t rd ra legal op) :=
  h.stepTile fun _ => h.retire

theorem State.Has.execAdd {t : Fin 512} {rd ra rb : Reg} {s : State} (h : s.Has K) : Out.Has K (execAdd t rd ra rb s) := h.opRR

theorem State.Has.execSub {t : Fin 512} {rd ra rb : Reg} {s : State} (h : s.Has K) : Out.Has K (execSub t rd ra rb s) := h.opRR

theorem State.Has.execAnd {t : Fin 512} {rd ra rb : Reg} {s : State} (h : s.Has K) : Out.Has K (execAnd t rd ra rb s) := h.opRR

theorem State.Has.execOr {t : Fin 512} {rd ra rb : Reg} {s : State} (h : s.Has K) : Out.Has K (execOr t rd ra rb s) := h.opRR

theorem State.Has.execXor {t : Fin 512} {rd ra rb : Reg} {s : State} (h : s.Has K) : Out.Has K (execXor t rd ra rb s) := h.opRR

theorem State.Has.execSll {t : Fin 512} {rd ra rb : Reg} {s : State} (h : s.Has K) : Out.Has K (execSll t rd ra rb s) := h.opRR

theorem State.Has.execSrl {t : Fin 512} {rd ra rb : Reg} {s : State} (h : s.Has K) : Out.Has K (execSrl t rd ra rb s) := h.opRR

theorem State.Has.execSra {t : Fin 512} {rd ra rb : Reg} {s : State} (h : s.Has K) : Out.Has K (execSra t rd ra rb s) := h.opRR

theorem State.Has.execSlt {t : Fin 512} {rd ra rb : Reg} {s : State} (h : s.Has K) : Out.Has K (execSlt t rd ra rb s) := h.opRR

theorem State.Has.execSltu {t : Fin 512} {rd ra rb : Reg} {s : State} (h : s.Has K) : Out.Has K (execSltu t rd ra rb s) := h.opRR

theorem State.Has.execMul {t : Fin 512} {rd ra rb : Reg} {s : State} (h : s.Has K) : Out.Has K (execMul t rd ra rb s) := h.opRR

theorem State.Has.execMulh {t : Fin 512} {rd ra rb : Reg} {s : State} (h : s.Has K) : Out.Has K (execMulh t rd ra rb s) := h.opRR

theorem State.Has.execMin {t : Fin 512} {rd ra rb : Reg} {s : State} (h : s.Has K) : Out.Has K (execMin t rd ra rb s) := h.opRR

theorem State.Has.execMax {t : Fin 512} {rd ra rb : Reg} {s : State} (h : s.Has K) : Out.Has K (execMax t rd ra rb s) := h.opRR

theorem State.Has.execAddi {t : Fin 512} {rd ra : Reg} {imm : BitVec 16} {s : State} (h : s.Has K) :
    Out.Has K (execAddi t rd ra imm s) :=
  h.opRI

theorem State.Has.execAndi {t : Fin 512} {rd ra : Reg} {imm : BitVec 16} {s : State} (h : s.Has K) :
    Out.Has K (execAndi t rd ra imm s) :=
  h.opRI

theorem State.Has.execOri {t : Fin 512} {rd ra : Reg} {imm : BitVec 16} {s : State} (h : s.Has K) :
    Out.Has K (execOri t rd ra imm s) :=
  h.opRI

theorem State.Has.execXori {t : Fin 512} {rd ra : Reg} {imm : BitVec 16} {s : State} (h : s.Has K) :
    Out.Has K (execXori t rd ra imm s) :=
  h.opRI

theorem State.Has.execSlli {t : Fin 512} {rd ra : Reg} {imm : BitVec 16} {s : State} (h : s.Has K) :
    Out.Has K (execSlli t rd ra imm s) :=
  h.opRI

theorem State.Has.execSrli {t : Fin 512} {rd ra : Reg} {imm : BitVec 16} {s : State} (h : s.Has K) :
    Out.Has K (execSrli t rd ra imm s) :=
  h.opRI

theorem State.Has.execSrai {t : Fin 512} {rd ra : Reg} {imm : BitVec 16} {s : State} (h : s.Has K) :
    Out.Has K (execSrai t rd ra imm s) :=
  h.opRI

theorem State.Has.execLui {t : Fin 512} {rd ra : Reg} {imm : BitVec 16} {s : State} (h : s.Has K) :
    Out.Has K (execLui t rd ra imm s) :=
  h.opRI

theorem State.Has.execSlti {t : Fin 512} {rd ra : Reg} {imm : BitVec 16} {s : State} (h : s.Has K) :
    Out.Has K (execSlti t rd ra imm s) :=
  h.opRI

theorem State.Has.execSltiu {t : Fin 512} {rd ra : Reg} {imm : BitVec 16} {s : State} (h : s.Has K) :
    Out.Has K (execSltiu t rd ra imm s) :=
  h.opRI

theorem State.Has.opBR {s : State} {t : Fin 512} {ra rb : Reg} {off : BitVec 16} {c : U64 → U64 → Bool} (h : s.Has K) :
    Out.Has K (opBR s t ra rb off c) :=
  h.stepTile fun _ => .ite h.retireTo h.retire

theorem State.Has.execBeq {t : Fin 512} {ra rb : Reg} {off : BitVec 16} {s : State} (h : s.Has K) :
    Out.Has K (execBeq t ra rb off s) :=
  h.opBR

theorem State.Has.execBne {t : Fin 512} {ra rb : Reg} {off : BitVec 16} {s : State} (h : s.Has K) :
    Out.Has K (execBne t ra rb off s) :=
  h.opBR

theorem State.Has.execBlt {t : Fin 512} {ra rb : Reg} {off : BitVec 16} {s : State} (h : s.Has K) :
    Out.Has K (execBlt t ra rb off s) :=
  h.opBR

theorem State.Has.execBge {t : Fin 512} {ra rb : Reg} {off : BitVec 16} {s : State} (h : s.Has K) :
    Out.Has K (execBge t ra rb off s) :=
  h.opBR

theorem State.Has.execBltu {t : Fin 512} {ra rb : Reg} {off : BitVec 16} {s : State} (h : s.Has K) :
    Out.Has K (execBltu t ra rb off s) :=
  h.opBR

theorem State.Has.execBgeu {t : Fin 512} {ra rb : Reg} {off : BitVec 16} {s : State} (h : s.Has K) :
    Out.Has K (execBgeu t ra rb off s) :=
  h.opBR

theorem State.Has.execJal {t : Fin 512} {rd : Reg} {off : BitVec 21} {s : State} (h : s.Has K) : Out.Has K (execJal t rd off s) :=
  h.stepTile fun _ => h.retireTo

theorem State.Has.execJalr {t : Fin 512} {rd ra : Reg} {imm : BitVec 16} {s : State} (h : s.Has K) :
    Out.Has K (execJalr t rd ra imm s) :=
  h.stepTile fun _ => h.retireTo

theorem State.Has.opLoop {s : State} {t : Fin 512} {k : Nat} {ra : Reg} {rsv : BitVec 4} {fin : BitVec 16} (h : s.Has K) :
    Out.Has K (opLoop s t k ra rsv fin) :=
  h.stepTile fun _ => .ite h.raiseExc (.ite h.retireTo h.retire)

theorem State.Has.execLoop0 {t : Fin 512} {ra : Reg} {rsv : BitVec 4} {fin : BitVec 16} {s : State} (h : s.Has K) :
    Out.Has K (execLoop0 t ra rsv fin s) :=
  h.opLoop

theorem State.Has.execLoop1 {t : Fin 512} {ra : Reg} {rsv : BitVec 4} {fin : BitVec 16} {s : State} (h : s.Has K) :
    Out.Has K (execLoop1 t ra rsv fin s) :=
  h.opLoop

theorem State.Has.execFence {t : Fin 512} {rd ra rb : Reg} {s : State} (h : s.Has K) : Out.Has K (execFence t rd ra rb s) :=
  h.stepTile fun _ => h.retire

theorem State.Has.execEret {t : Fin 512} {rd ra rb : Reg} {s : State} (h : s.Has K) : Out.Has K (execEret t rd ra rb s) :=
  h.stepTile fun _ => h.setTl.inc64

theorem State.Has.execBrk {t : Fin 512} {rd ra rb : Reg} {s : State} (h : s.Has K) : Out.Has K (execBrk t rd ra rb s) :=
  h.stepTile fun _ => h.raiseExc

theorem State.Has.execCsrr {t : Fin 512} {rd ra : Reg} {csr : BitVec 12} {s : State} (h : s.Has K) :
    Out.Has K (execCsrr t rd ra csr s) :=
  h.stepTile fun _ => h.retire

theorem State.Has.execCsrw {t : Fin 512} {rd ra : Reg} {csr : BitVec 12} {s : State} (h : s.Has K) :
    Out.Has K (execCsrw t rd ra csr s) :=
  h.stepTile fun _ => .ite h.setTl.inc64 h.retire

theorem State.Has.execVsetvl {t : Fin 512} {rd ra rb : Reg} {rsv : BitVec 4} {vtype : BitVec 6} {s : State} (h : s.Has K) :
    Out.Has K (execVsetvl t rd ra rb rsv vtype s) :=
  h.stepTile fun _ => h.retire

theorem State.Has.execVsetvlr {t : Fin 512} {rd ra rb : Reg} {rsv : BitVec 4} {vtype : BitVec 6} {s : State} (h : s.Has K) :
    Out.Has K (execVsetvlr t rd ra rb rsv vtype s) :=
  h.stepTile fun _ => h.retire

theorem State.Has.opVA {s : State} {t : Fin 512} {f : VA} {al : VAllow} {rt : Nat} {useB : Bool} {more : Tile → Bool}
    {op : Tile → Tile} (h : s.Has K) : Out.Has K (opVA s t f al rt useB more op) :=
  h.stepTile fun _ => h.retire

theorem State.Has.execVmul {t : Fin 512} {f : VA} {s : State} (h : s.Has K) : Out.Has K (execVmul t f s) := h.opVA

theorem State.Has.execVmulq {t : Fin 512} {f : VA} {s : State} (h : s.Has K) : Out.Has K (execVmulq t f s) := h.opVA

theorem State.Has.execVmac {t : Fin 512} {f : VA} {s : State} (h : s.Has K) : Out.Has K (execVmac t f s) := h.opVA

theorem State.Has.execVmacw {t : Fin 512} {f : VA} {s : State} (h : s.Has K) : Out.Has K (execVmacw t f s) := h.opVA

theorem State.Has.execVcmul {t : Fin 512} {f : VA} {s : State} (h : s.Has K) : Out.Has K (execVcmul t f s) := h.opVA

theorem State.Has.execVcmacw {t : Fin 512} {f : VA} {s : State} (h : s.Has K) : Out.Has K (execVcmacw t f s) := h.opVA

theorem State.Has.execVcmacjw {t : Fin 512} {f : VA} {s : State} (h : s.Has K) : Out.Has K (execVcmacjw t f s) := h.opVA

theorem State.Has.execVcmac {t : Fin 512} {f : VA} {s : State} (h : s.Has K) : Out.Has K (execVcmac t f s) := h.opVA

theorem State.Has.execVadd {t : Fin 512} {f : VA} {s : State} (h : s.Has K) : Out.Has K (execVadd t f s) := h.opVA

theorem State.Has.execVsub {t : Fin 512} {f : VA} {s : State} (h : s.Has K) : Out.Has K (execVsub t f s) := h.opVA

theorem State.Has.execVand {t : Fin 512} {f : VA} {s : State} (h : s.Has K) : Out.Has K (execVand t f s) := h.opVA

theorem State.Has.execVor {t : Fin 512} {f : VA} {s : State} (h : s.Has K) : Out.Has K (execVor t f s) := h.opVA

theorem State.Has.execVxor {t : Fin 512} {f : VA} {s : State} (h : s.Has K) : Out.Has K (execVxor t f s) := h.opVA

theorem State.Has.execVbsl {t : Fin 512} {f : VA} {s : State} (h : s.Has K) : Out.Has K (execVbsl t f s) := h.opVA

theorem State.Has.execVshl {t : Fin 512} {f : VA} {s : State} (h : s.Has K) : Out.Has K (execVshl t f s) := h.opVA

theorem State.Has.execVshr {t : Fin 512} {f : VA} {s : State} (h : s.Has K) : Out.Has K (execVshr t f s) := h.opVA

theorem State.Has.execVnshr {t : Fin 512} {f : VA} {s : State} (h : s.Has K) : Out.Has K (execVnshr t f s) := h.opVA

theorem State.Has.execVmax {t : Fin 512} {f : VA} {s : State} (h : s.Has K) : Out.Has K (execVmax t f s) := h.opVA

theorem State.Has.execVmin {t : Fin 512} {f : VA} {s : State} (h : s.Has K) : Out.Has K (execVmin t f s) := h.opVA

theorem State.Has.execVcmpeq {t : Fin 512} {f : VA} {s : State} (h : s.Has K) : Out.Has K (execVcmpeq t f s) := h.opVA

theorem State.Has.execVcmplt {t : Fin 512} {f : VA} {s : State} (h : s.Has K) : Out.Has K (execVcmplt t f s) := h.opVA

theorem State.Has.execVcmple {t : Fin 512} {f : VA} {s : State} (h : s.Has K) : Out.Has K (execVcmple t f s) := h.opVA

theorem State.Has.execVconj {t : Fin 512} {f : VA} {s : State} (h : s.Has K) : Out.Has K (execVconj t f s) := h.opVA

theorem State.Has.execVneg {t : Fin 512} {f : VA} {s : State} (h : s.Has K) : Out.Has K (execVneg t f s) := h.opVA

theorem State.Has.execVcvtw {t : Fin 512} {f : VA} {s : State} (h : s.Has K) : Out.Has K (execVcvtw t f s) := h.opVA

theorem State.Has.execVcvtn {t : Fin 512} {f : VA} {s : State} (h : s.Has K) : Out.Has K (execVcvtn t f s) := h.opVA

theorem State.Has.execVmov {t : Fin 512} {f : VA} {s : State} (h : s.Has K) : Out.Has K (execVmov t f s) := h.opVA

theorem State.Has.opPerm {s : State} {t : Fin 512} {f : VA} {al : VAllow} {useB : Bool} {more : Tile → Bool} {op : Tile → Nat → Nat}
    (h : s.Has K) : Out.Has K (opPerm s t f al useB more op) :=
  h.opVA

theorem State.Has.execVslidedn {t : Fin 512} {f : VA} {s : State} (h : s.Has K) : Out.Has K (execVslidedn t f s) := h.opPerm

theorem State.Has.execVslideup {t : Fin 512} {f : VA} {s : State} (h : s.Has K) : Out.Has K (execVslideup t f s) := h.opPerm

theorem State.Has.execVperm {t : Fin 512} {f : VA} {s : State} (h : s.Has K) : Out.Has K (execVperm t f s) := h.opPerm

theorem State.Has.execVzip {t : Fin 512} {f : VA} {s : State} (h : s.Has K) : Out.Has K (execVzip t f s) := h.opPerm

theorem State.Has.execVunzip {t : Fin 512} {f : VA} {s : State} (h : s.Has K) : Out.Has K (execVunzip t f s) := h.opPerm

theorem State.Has.twoScalars {s : State} {t : Nat} {x : Tile} {d e : Reg} {vd ve : U64} (h : s.Has K) :
    (twoScalars s t x d e vd ve).Has K := by
  unfold Machine.twoScalars
  refine .ite ?_ h.retire
  split
  · rename_i _ t1 he
    have ht1 := has_of_snd_eq h.drawBelow he
    exact ht1.retire

theorem State.Has.execVredsum {t : Fin 512} {f : VA} {s : State} (h : s.Has K) : Out.Has K (execVredsum t f s) :=
  h.stepTile fun _ => .ite h.twoScalars h.retire

theorem State.Has.opSearch {s : State} {t : Fin 512} {f : VA} {isMax : Bool} (h : s.Has K) : Out.Has K (opSearch s t f isMax) := by
  refine h.stepTile fun x => ?_
  extract_lets better
  split
  · exact h.twoScalars
  · exact h.twoScalars

theorem State.Has.execVmaxi {t : Fin 512} {f : VA} {s : State} (h : s.Has K) : Out.Has K (execVmaxi t f s) := h.opSearch

theorem State.Has.execVmini {t : Fin 512} {f : VA} {s : State} (h : s.Has K) : Out.Has K (execVmini t f s) := h.opSearch

end Sys2Proof.Machine
end

section
/-!
PROOFS. Properties of memory: what every command leaves, and with it the statements O2 and O60.
-/
namespace Sys2Proof.Machine

variable {K : MemProp}

/-- Every command completes, and what it leaves of a state with a property of memory has the property: the rules above, a command at a
time. -/
theorem exec_has [K.Marks] [K.Quiet] {s : State} (h : s.Has K) (c : Instr) : Out.Has K (exec c s) := by
  cases c with
  | liveStagedWrite => exact h.execLiveStagedWrite
  | liveArm => exact h.execLiveArm
  | liveCancel => exact h.execLiveCancel
  | liveClrCnt => exact h.execLiveClrCnt
  | liveSwap => exact h.execLiveSwap
  | liveCopyDone => exact h.execLiveCopyDone
  | liveDirectWrite => exact h.execLiveDirectWrite
  | liveDeferredApply => exact h.execLiveDeferredApply
  | pllLock => exact h.execPllLock
  | clkrefLoss => exact h.execClkrefLoss
  | clkrefReturn => exact h.execClkrefReturn
  | clkLossHoldExpiry => exact h.execClkLossHoldExpiry
  | tbIncrementWrite => exact h.execTbIncrementWrite
  | tbStepWrite => exact h.execTbStepWrite
  | tbOffsetSecondsWrite => exact h.execTbOffsetSecondsWrite
  | tbOffsetWrite => exact h.execTbOffsetWrite
  | timebaseTickApply => exact h.execTimebaseTickApply
  | tbNowRead => exact h.execTbNowRead
  | ttOwnerWrite => exact h.execTtOwnerWrite
  | ttEnable => exact h.ttCfgBy
  | ttDisable => exact h.ttCfgBy
  | ttTimingWrite => exact h.execTtTimingWrite
  | triggerFire => exact h.execTriggerFire
  | triggerTrailingEdge => exact h.endOcc.oneshotEnd
  | captureEdge => exact h.execCaptureEdge
  | capturePop => exact h.execCapturePop
  | ppsOutRise => exact h.execPpsOutRise
  | ppsOutFall => exact h.execPpsOutFall
  | synceSquelch => exact h.execSynceSquelch
  | descriptorSubmit => exact h.execDescriptorSubmit
  | deferredDescriptorAllocate => exact h.execDeferredDescriptorAllocate
  | tokenAccept => exact h.execTokenAccept
  | taskDispatch => exact h.execTaskDispatch
  | unitDownSweep => exact h.execUnitDownSweep
  | lameMedianRecompute => exact h.execLameMedianRecompute
  | lameProbeDue => exact h.execLameProbeDue
  | planInstantiate => exact h.execPlanInstantiate
  | add => exact h.execAdd
  | sub => exact h.execSub
  | andR => exact h.execAnd
  | orR => exact h.execOr
  | xorR => exact h.execXor
  | sll => exact h.execSll
  | srl => exact h.execSrl
  | sra => exact h.execSra
  | slt => exact h.execSlt
  | sltu => exact h.execSltu
  | mul => exact h.execMul
  | mulh => exact h.execMulh
  | min => exact h.execMin
  | max => exact h.execMax
  | addi => exact h.execAddi
  | andi => exact h.execAndi
  | ori => exact h.execOri
  | xori => exact h.execXori
  | slli => exact h.execSlli
  | srli => exact h.execSrli
  | srai => exact h.execSrai
  | lui => exact h.execLui
  | slti => exact h.execSlti
  | sltiu => exact h.execSltiu
  | ldB => exact h.execLdB
  | ldH => exact h.execLdH
  | ldW => exact h.execLdW
  | ldD => exact h.execLdD
  | ldBu => exact h.execLdBu
  | ldHu => exact h.execLdHu
  | ldWu => exact h.execLdWu
  | stB => exact h.execStB
  | stH => exact h.execStH
  | stW => exact h.execStW
  | stD => exact h.execStD
  | beq => exact h.execBeq
  | bne => exact h.execBne
  | blt => exact h.execBlt
  | bge => exact h.execBge
  | bltu => exact h.execBltu
  | bgeu => exact h.execBgeu
  | jal => exact h.execJal
  | jalr => exact h.execJalr
  | loop0 => exact h.execLoop0
  | loop1 => exact h.execLoop1
  | fetch => exact h.execFetch
  | postD => exact h.execPostD
  | postDResult => exact h.execPostDResult
  | postT => exact h.execPostT
  | postStallRelease => exact h.execPostStallRelease
  | done => exact h.execDone
  | fence => exact h.execFence
  | eret => exact h.execEret
  | brk => exact h.execBrk
  | csrr => exact h.execCsrr
  | csrw => exact h.execCsrw
  | vsetvl => exact h.execVsetvl
  | vsetvlr => exact h.execVsetvlr
  | vmul => exact h.execVmul
  | vmulq => exact h.execVmulq
  | vmac => exact h.execVmac
  | vmacw => exact h.execVmacw
  | vcmul => exact h.execVcmul
  | vcmacw => exact h.execVcmacw
  | vcmacjw => exact h.execVcmacjw
  | vcmac => exact h.execVcmac
  | vadd => exact h.execVadd
  | vsub => exact h.execVsub
  | vand => exact h.execVand
  | vor => exact h.execVor
  | vxor => exact h.execVxor
  | vbsl => exact h.execVbsl
  | vshl => exact h.execVshl
  | vshr => exact h.execVshr
  | vnshr => exact h.execVnshr
  | vmax => exact h.execVmax
  | vmin => exact h.execVmin
  | vcmpeq => exact h.execVcmpeq
  | vcmplt => exact h.execVcmplt
  | vcmple => exact h.execVcmple
  | vconj => exact h.execVconj
  | vneg => exact h.execVneg
  | vcvtw => exact h.execVcvtw
  | vcvtn => exact h.execVcvtn
  | vmov => exact h.execVmov
  | vslidedn => exact h.execVslidedn
  | vslideup => exact h.execVslideup
  | vperm => exact h.execVperm
  | vzip => exact h.execVzip
  | vunzip => exact h.execVunzip
  | vredsum => exact h.execVredsum
  | vmaxi => exact h.execVmaxi
  | vmini => exact h.execVmini
  | vld => exact h.execVld
  | vst => exact h.execVst
  | interruptEntry => exact h.execInterruptEntry
  | tileRun => exact h.pxCtlBy
  | tileHalt => exact h.pxCtlBy
  | tileNotify => exact h.pxCtlBy
  | memoryAccess => exact h.execMemoryAccess
  | dictWindowLoad => exact h.execDictWindowLoad
  | dictWindowStore => exact h.execDictWindowStore
  | rcRead => exact h.execRcRead
  | objectWrite => exact h.writeEntry
  | portPush => exact h.execPortPush
  | portDone => exact h.execPortDone
  | portRingTailWrite => exact h.execPortRingTailWrite
  | leashGrant => exact h.execLeashGrant
  | leashStarve => exact h.execLeashStarve
  | requesterMask => exact h.execRequesterMask
  | requesterUnmask => exact h.execRequesterUnmask
  | dmaDoorbell => exact h.execDmaDoorbell
  | dmaIssue => exact h.execDmaIssue
  | dmaDescFetchDone => exact h.execDmaDescFetchDone
  | dmaReadResponse => exact h.execDmaReadResponse
  | dmaWriteResponse => exact h.execDmaWriteResponse
  | dmaDescComplete => exact h.execDmaDescComplete
  | dmaTailPoll => exact h.execDmaTailPoll
  | dmaResumeRetry => exact h.resumeBy
  | dmaResumeNext => exact h.resumeBy
  | dmaResumeStop => exact h.resumeBy
  | dmaChannelDisable => exact h.execDmaChannelDisable
  | houndOccasionStart => exact h.execHoundOccasionStart
  | houndOccasionEnd => exact h.execHoundOccasionEnd
  | houndEnergyWindow => exact h.execHoundEnergyWindow
  | houndFloorEscape => exact h.execHoundFloorEscape
  | houndQualify => exact h.execHoundQualify
  | houndLaneSymbol => exact h.laneSymbol
  | houndLaneFade => exact h.fadeLane
  | houndTokenSend => exact h.execHoundTokenSend
  | verdictCrcFail => exact h.verdictBy
  | verdictCwIncrease => exact h.verdictBy
  | verdictCwReset => exact h.verdictBy
  | senseSlot => exact h.execSenseSlot
  | senseResult => exact h.execSenseResult
  | dftFwdCp => exact h.execDftFwdCp
  | dftInvCp => exact h.execDftInvCp
  | dftFwd => exact h.execDftFwd
  | dftInv => exact h.execDftInv
  | eqDetect => exact h.execEqDetect
  | eqEqualize => exact h.execEqEqualize
  | eqDemap => exact h.execEqDemap
  | bwCompute => exact h.execBwCompute
  | bwApply => exact h.execBwApply
  | accelJobComplete => exact h.execAccelJobComplete
  | ldDecode => exact h.runDecode
  | ldTbcrc => exact h.execLdTbcrc
  | leEncode => exact h.execLeEncode
  | tcDecode => exact h.runDecode
  | tcEncode => exact h.execTcEncode
  | tcTbcrc => exact h.execTcTbcrc
  | pcDecode => exact h.execPcDecode
  | pcEncode => exact h.execPcEncode
  | txSymbol => exact h.execTxSymbol
  | txCfgEnable => exact h.execTxCfgEnable
  | flRingPoll => exact h.execFlRingPoll
  | ulPdu => exact h.execUlPdu
  | dlBuild => exact h.execDlBuild
  | flowOpen => exact h.execFlowOpen
  | flowClose => exact h.execFlowClose
  | flowFree => exact h.execFlowFree
  | keyInsert => exact h.execKeyInsert
  | keyDelete => exact h.execKeyDelete
  | ctxRead => exact h.execCtxRead
  | rekey => exact h.execRekey
  | reown => exact h.execReown
  | gtpuDlPacket => exact h.execGtpuDlPacket
  | flowTimerExpiry => exact h.execFlowTimerExpiry
  | flPartitionPurge => exact h.execFlPartitionPurge
  | octetReconfigure => exact h.execOctetReconfigure
  | octetRestart => exact h.execOctetRestart
  | testRateChange => exact h.execTestRateChange
  | anResolve => exact h.execAnResolve
  | trainingDone => exact h.execTrainingDone
  | ltTimeoutDownshift => exact h.execLtTimeoutDownshift
  | anFullRestart => exact h.execAnFullRestart
  | eyeStart => exact h.execEyeStart
  | eyePointDone => exact h.execEyePointDone
  | laneSlip => exact h.execLaneSlip
  | slipDone => exact h.execSlipDone
  | rxwordRead => exact h.execRxwordRead
  | losDetect => exact h.execLosDetect
  | cdrLockLoss => exact h.execCdrLockLoss
  | ethRxFrame => exact h.execEthRxFrame
  | fdbAgeOut => exact h.execFdbAgeOut
  | htxPoll => exact h.execHtxPoll
  | ethTxFrameStart => exact h.execEthTxFrameStart
  | txOverrun => exact h.execTxOverrun
  | gclEntryBegin => exact h.execGclEntryBegin
  | gclEntryEnd => exact h.endOcc
  | gclEnable => exact h.execGclEnable
  | fhTokenGroup => exact h.execFhTokenGroup
  | fhSymbolWindowOpen => exact h.execFhSymbolWindowOpen
  | fhSymbolWindowClose => exact h.execFhSymbolWindowClose
  | cplaneSend =>
    unfold Machine.exec
    exact h.execCplaneSend
  | cpriHyperframe => exact h.execCpriHyperframe
  | delayMeasureStart => exact h.execDelayMeasureStart
  | delayTimeout => exact h.execDelayTimeout
  | anchorRefetchDone => exact h.execAnchorRefetchDone
  | mergeFlush => exact h.execMergeFlush
  | groomerBlock => exact h.execGroomerBlock
  | hbmScrubTransfer => exact h.execHbmScrubTransfer
  | epClassClear => exact h.execEpClassClear
  | epErrorRecord => exact h.execEpErrorRecord
  | enberRead => exact h.execEnberRead
  | enberWrite => exact h.execEnberWrite
  | enberTokenWrite => exact h.execEnberTokenWrite
  | enberReadBlock => exact h.execEnberReadBlock
  | enberWriteBlock => exact h.execEnberWriteBlock
  | enberSubscribe => exact h.execEnberSubscribe
  | enberCommit => exact h.execEnberCommit
  | enberHello => exact h.execEnberHello
  | enberAuth => exact h.execEnberAuth
  | notifySend => exact h.execNotifySend
  | sessionIdleTimeout => exact h.execSessionIdleTimeout
  | handshakeExpiry => exact h.execHandshakeExpiry
  | tokenCtlWrite => exact h.writeEntry
  | commitGo => exact h.writeEntry
  | commitExecute => exact h.execCommitExecute
  | odUnitReset => exact h.execOdUnitReset
  | odQuarantine => exact h.odCtlBy
  | odRelease => exact h.odCtlBy
  | resetRelease => exact h.execResetRelease
  | partReset => exact h.ptCtlBy
  | partHold => exact h.ptCtlBy
  | partRelease => exact h.ptCtlBy
  | warmReset => exact h.deviceCtlBy
  | holdCommand => exact h.deviceCtlBy
  | pinReset => exact h.execPinReset
  | resetNRelease => exact h.execResetNRelease
  | por => exact h.execPor
  | pwrgoodRise => exact h.execPwrgoodRise
  | selfTestDone => exact h.execSelfTestDone
  | fwLoadDone => exact h.execFwLoadDone
  | partitionReady => exact h.execPartitionReady
  | pwrRequest => exact h.execPwrRequest
  | pwrPartitionAck => exact h.voteBy
  | pwrPartitionRefuse => exact h.voteBy
  | pwrPackAck => exact h.execPwrPackAck
  | pwrPrepTimeout => exact h.execPwrPrepTimeout
  | hushIdleGate => exact h.execHushIdleGate
  | packP3Wake =>
    unfold Machine.exec
    exact h.execPackP3Wake
  | guardLead => exact h.execGuardLead
  | guardListenEnd => exact h.execGuardListenEnd
  | wakeGpioEdge => exact h.execWakeGpioEdge
  | wakeTimer => exact h.execWakeTimer
  | residencyHourCommit => exact h.execResidencyHourCommit
  | supplyWarn => exact h.execSupplyWarn
  | supplyRecover => exact h.execSupplyRecover
  | warnHoldExpiry => exact h.execWarnHoldExpiry
  | thermalThrottle => exact h.execThermalThrottle
  | thermalCrit => exact h.execThermalCrit
  | thermalLevelFall => exact h.execThermalLevelFall
  | thermalTrip => exact h.execThermalTrip
  | shdL0Expiry => exact h.execShdL0Expiry
  | shdL1Expiry => exact h.execShdL1Expiry
  | shdL2Expiry => exact h.execShdL2Expiry
  | shdL3Expiry => exact h.execShdL3Expiry
  | shdL4Expiry => exact h.execShdL4Expiry
  | shdWindowReset => exact h.execShdWindowReset
  | shdAbortUntaken => exact h.execShdAbortUntaken
  | shdPet => exact h.execShdPet
  | deviceCheck => exact h.execDeviceCheck
  | shdAutoReturn => exact h.execShdAutoReturn
  | retestDone => exact h.execRetestDone
  | terrierSegmentStart => exact h.execTerrierSegmentStart
  | terrierSignatureCheck => exact h.execTerrierSignatureCheck
  | terrierMemStep => exact h.execTerrierMemStep
  | terrierRun => exact h.execTerrierRun
  | evrMramWrite => exact h.execEvrMramWrite
  | evrCursorWrite => exact h.execEvrCursorWrite
  | evrUserCtl => exact h.execEvrUserCtl
  | opsecCommit => exact h.execOpsecCommit
  | carrierOwnerWrite => exact h.execCarrierOwnerWrite
  | fwTrial => exact h.fwCtlBy
  | fwConfirm => exact h.fwCtlBy
  | fwAbandon => exact h.fwCtlBy
  | fwTrialLimit => exact h.execFwTrialLimit
  | flashErase => exact h.flashBy
  | flashProgram => exact h.flashBy
  | flashRead => exact h.flashBy
  | flashOpDone => exact h.execFlashOpDone
  | attestGo => exact h.execAttestGo
  | attestDone => exact h.execAttestDone
  | hoPair => exact h.hoOpBy
  | hoArm => exact h.hoOpBy
  | hoCancel => exact h.hoOpBy
  | hoClear => exact h.hoOpBy
  | hoPrecheck => exact h.hoPrecheck
  | hoCut => exact h.execHoCut
  | hoDrainEnd => exact h.execHoDrainEnd
  | gplEnable => exact h.execGplEnable
  | gplLanesWrite => exact h.execGplLanesWrite
  | gplHelloSend => exact h.execGplHelloSend
  | gplHello => exact h.execGplHello
  | gplDataFlit => exact h.execGplDataFlit
  | gplNak => exact h.execGplNak
  | gplReplayTimeout => exact h.execGplReplayTimeout
  | gplTask => exact h.execGplTask
  | gplToken => exact h.execGplToken
  | gplResult => exact h.execGplResult
  | gplRdReq => exact h.execGplRdReq
  | gplRdData => exact h.execGplRdData
  | gplWrReq => exact h.execGplWrReq
  | gplWrRsp => exact h.execGplWrRsp
  | gplRelay => exact h.execGplRelay
  | gplLinkstat => exact h.execGplLinkstat
  | gplLinkDown => exact h.execGplLinkDown
  | relayReq => exact h.execRelayReq
  | i2cWrite => exact h.i2cBy
  | i2cRead => exact h.i2cBy
  | i2cWriteRead => exact h.i2cBy
  | i2cDone => exact h.execI2cDone
  | cdrLockAcquire => exact h.execCdrLockAcquire
  | blockLockLoss => exact h.execBlockLockLoss
  | cpriLossOfFrame => exact h.execCpriLossOfFrame
  | txGateClose => exact h.execTxGateClose
  | tokenCheckDone => exact h.execTokenCheckDone
  | mgmtPortFrame => exact h.execMgmtPortFrame
  | prbsCheckerLock => exact h.execPrbsCheckerLock

theorem Out.Has.next {o : Out} (h : Out.Has K o) : ∃ t, o = .next t ∧ t.Has K := by
  cases o with
  | next t => exact ⟨t, rfl, h⟩
  | fault => cases h
  | refused => cases h

/-- A property that outlasts wrong parity and new merge entries holds after every command. -/
theorem exec_keeps [K.Marks] {s : State} (h : s.Has K) (c : Instr) : ∃ t, exec c s = .next t ∧ t.Has K :=
  have : K.Quiet := MemProp.quiet_of_marks
  (exec_has h c).next

/-- The property that every state has. -/
def MemProp.any : MemProp := ⟨fun _ => True, fun _ _ _ _ => trivial, fun _ _ _ => trivial⟩

theorem MemProp.any_marks : MemProp.any.Marks := ⟨fun _ _ => trivial, fun _ _ => trivial⟩

/-- Settles O2: the rules say of every command that it completes, whatever property they are read with. -/
theorem everyCommandCompletes : Obligations.EveryCommandCompletes := by
  intro c s
  have := MemProp.any_marks
  obtain ⟨t, ht, -⟩ := exec_keeps (K := .any) (s := s) trivial c
  exact ⟨t, ht⟩

theorem memWfFrom_filter {m : List Host.Cell} {lo : Nat} {p : Host.Cell → Bool} (h : memWfFrom lo m = true) :
    memWfFrom lo (m.filter p) = true := by
  induction m generalizing lo with
  | nil => rfl
  | cons e r ih =>
    obtain ⟨i, c⟩ := e
    simp only [memWfFrom, Bool.and_eq_true, decide_eq_true_eq] at h
    obtain ⟨⟨hlo, hc⟩, hr⟩ := h
    by_cases hp : p (i, c) = true
    · simp only [List.filter_cons_of_pos hp, memWfFrom, Bool.and_eq_true, decide_eq_true_eq]
      exact ⟨⟨hlo, hc⟩, ih hr⟩
    · rw [List.filter_cons_of_neg hp]
      exact memWfFrom_mono (ih hr) (by omega)

theorem State.Inv.of_mem {s t : State} (h : s.Inv) (hm : t.mem = s.mem ∨ ∃ p, t.mem = s.mem.filter p) : t.Inv := by
  obtain hm | ⟨p, hm⟩ := hm
  · rw [State.Inv, hm]
    exact h
  · rw [State.Inv, hm]
    exact memWfFrom_filter h

/-- Memory is in its canonical form. -/
def MemProp.canonical : MemProp := ⟨State.Inv, fun h hm _ _ => h.of_mem hm, fun a bs h => State.store_wf h a bs⟩

theorem MemProp.canonical_marks : MemProp.canonical.Marks := ⟨fun _ h => h, fun _ h => h⟩

/-- Settles O60: a step runs a command on the state with the rest of the queue, or idles. -/
theorem stepKeepsInvariant : Obligations.StepKeepsInvariant := by
  intro s s' hs h
  unfold step at h
  split at h
  · cases h
    exact hs
  · rename_i c r _
    have := MemProp.canonical_marks
    obtain ⟨t, ht, hc⟩ := exec_keeps (K := .canonical) (s := { s with pending := r }) hs c
    rw [ht] at h
    cases h
    exact hc

end Sys2Proof.Machine
end

section
/-!
PROOFS. A word without a fresh error (R388, R391, R392): what keeps it so, and an anchor failure of a word of instruction memory, after
which the tile no longer fetches from a word with a fresh error. The failure poisons the word; the charge to the tile then counts,
quarantines the tile, or resets it with its partition or the whole device.
-/
namespace Sys2Proof.Machine

/-- No byte of word w has a fresh error. -/
def MemProp.sound (w : Nat) : MemProp where
  holds s := ∀ i, i / 8 = w → tget false s.fresh i = false
  less h _ hf _ i hi := Bool.eq_false_iff.mpr fun ht => Bool.eq_false_iff.mp (h i hi) (hf i ht)
  store a bs h i hi := by
    rw [State.store, tget_tdrop, h i hi, ite_self]

/-- No byte of word w has a fresh error, and no merge entry waits. -/
def MemProp.settled (w : Nat) : MemProp where
  holds s := s.Has (.sound w) ∧ s.merges = []
  less h hm hf hg := ⟨(MemProp.sound w).less h.1 hm hf hg, List.subset_nil.mp (h.2 ▸ hg)⟩
  store a bs h := ⟨(MemProp.sound w).store a bs h.1, h.2⟩

variable {s : State} {w : Nat}

theorem State.flushOver_of_no_merges (h : s.merges = []) (r a n : Nat) : s.flushOver r a n = s := by
  rw [State.flushOver, h]
  rfl

theorem State.flushFor_of_no_merges (h : s.merges = []) (r : Nat) : s.flushFor r = s := by
  rw [State.flushFor, h]
  rfl

theorem MemProp.settled_quiet (w : Nat) : (MemProp.settled w).Quiet where
  flushOver {s} r a n h := by rwa [State.flushOver_of_no_merges h.2]
  flushFor {s} r h := by rwa [State.flushFor_of_no_merges h.2]

theorem State.Has.sound_of_settled (h : s.Has (.settled w)) : s.Has (.sound w) := h.1

theorem State.Has.freshWord_eq_false (h : s.Has (.sound w)) : s.freshWord w = false := by
  have hany : (List.range 8).any (fun i => tget false s.fresh (8 * w + i)) = false := by
    rw [List.any_eq_false]
    intro i hi
    rw [h _ (by have := List.mem_range.mp hi; omega)]
    decide
  rw [State.freshWord, hany, Bool.and_false]

theorem State.setPoison_sound (s : State) (a : Nat) : (s.setPoison a).Has (.sound (a / 8)) := by
  intro i hi
  rw [State.setPoison, tget_tdrop, if_pos (beq_iff_eq.mpr hi)]

/-- What each member of a list keeps, a fold over the list keeps. -/
theorem State.Has.foldl_mem {K : MemProp} {α : Type} {f : State → α → State} {l : List α} (h : s.Has K)
    (hf : ∀ a ∈ l, ∀ s, s.Has K → (f s a).Has K) : (l.foldl f s).Has K := by
  induction l generalizing s with
  | nil => exact h
  | cons a l ih => exact ih (hf a List.mem_cons_self s h) fun b hb => hf b (List.mem_cons_of_mem a hb)

/-! The tiles' own state, which records and dialects leave -/

theorem State.stageOne_tile (s : State) (ty : Nat) (payload : List Byte) : (s.stageOne ty payload).tile = s.tile := by
  simp [State.stageOne, apply_ite State.tile]

theorem State.record_tile (s : State) (ty : Nat) (ws : List U64) : (s.record ty ws).tile = s.tile := by
  simp [State.record, State.recordBytes, State.stageOne_tile, apply_ite State.tile]

theorem State.sendMsg_tile (s : State) (g : Nat) (vc : Bool) (m : List Granule) : (s.sendMsg g vc m).tile = s.tile := rfl

theorem State.setGplState_tile (s : State) (g st : Nat) : (s.setGplState g st).tile = s.tile := by
  simp [State.setGplState, State.record_tile, apply_ite State.tile]

theorem State.gplRejudge_tile (s : State) (g : Nat) : (s.gplRejudge g).tile = s.tile := by
  simp [State.gplRejudge, State.setGplState_tile, apply_ite State.tile]

theorem State.tellDialects_tile (s b : State) : (s.tellDialects b).tile = s.tile := by
  rw [State.tellDialects]
  split
  · rfl
  · refine foldl_keeps State.tile (fun s g => ?_) _ s
    split
    · rw [State.gplRejudge_tile, State.sendMsg_tile]
    · rfl

theorem State.notify_tile (s : State) (i : Nat) (st : Status) (sub kind : Nat) (o : Obj) (vals : List U64) :
    (s.notify i st sub kind o vals).tile = s.tile := by
  rw [State.notify]
  split <;> rfl

theorem State.endSession_tile (s : State) (i : Nat) : (s.endSession i).tile = s.tile := rfl

theorem State.dialectsSince_tile (s b : State) : (s.dialectsSince b).tile = s.tile := by
  simp only [State.dialectsSince, apply_ite State.tile, State.record_tile, ite_self]
  rw [foldl_keeps State.tile (fun s i => ?_), State.tellDialects_tile]
  split
  · split
    · rfl
    · split
      · exact State.notify_tile _ _ _ _ _ _ _
      · rw [State.endSession_tile, State.notify_tile]
  · rfl

theorem State.noteDefaulted_tile (s : State) (us : List Nat) (classes cause : Nat) : (s.noteDefaulted us classes cause).tile = s.tile := by
  simp only [State.noteDefaulted]
  split
  · rfl
  · refine (foldl_keeps State.tile (fun s u => ?_) us _).trans (State.record_tile _ _ _)
    rfl

theorem State.tl_of_tile {t u : State} (h : t.tile = u.tile) (n : Nat) : t.tl n = u.tl n := by
  rw [State.tl, State.tl, h]

/-- Tiles of a list go into reset. -/
def State.resetTiles (s : State) (us : List Nat) : State := us.foldl (fun s u => if unitKind u = 1 then s.setTl u tileInit else s) s

theorem State.tl_resetTiles {t : Nat} (ht : t < 512) (us : List Nat) (s : State) (h : t ∈ us ∨ s.tl t = tileInit) :
    (s.resetTiles us).tl t = tileInit := by
  induction us generalizing s with
  | nil => exact h.resolve_left List.not_mem_nil
  | cons u us ih =>
    refine ih (if unitKind u = 1 then s.setTl u tileInit else s) ?_
    by_cases hu : t = u
    · subst hu
      right
      rw [if_pos (unitKind_of_tile ht), State.tl, State.setTl_tile, tget_tput_self]
    · refine h.imp (fun hm => (List.mem_cons.mp hm).resolve_left hu) fun h => ?_
      split
      · rw [State.tl, State.setTl_tile, tget_tput_ne _ _ _ hu]
        exact h
      · exact h

/-- A reset leaves every tile of its scope in reset. -/
theorem State.tl_resetSteps (s : State) (k : RKind) {us : List Nat} (ps : List Nat) {t : Nat} (ht : t < 512) (hmem : t ∈ us) :
    (s.resetSteps k us ps).tl t = tileInit := by
  rw [State.resetSteps]
  refine (State.tl_of_tile ((State.dialectsSince_tile _ _).trans (State.noteDefaulted_tile _ _ _ _)) t).trans ?_
  exact State.tl_resetTiles ht us _ (.inl hmem)

/-! What an anchor failure leaves of a tile's fetch -/

/-- Tile t does not fetch from a word w with a fresh error. -/
def State.Unfetched (s : State) (t w : Nat) : Prop := s.Has (.sound w) ∨ (s.tl t).st ≠ .running

theorem State.unfetched_of_tileInit {t : Nat} (h : s.tl t = tileInit) : s.Unfetched t w :=
  .inr (by rw [h]; decide)

theorem unitParent_of_tile {u : Nat} (h : unitKind u = 1) : unitParent u = 512 + u / 8 := by simp only [unitParent, h]
theorem unitParent_of_bank {u : Nat} (h : unitKind u = 2) : unitParent u = 576 + (u - 512) / 8 := by simp only [unitParent, h]
theorem unitParent_of_pack {u : Nat} (h : unitKind u = 3) : unitParent u = 1020 := by simp only [unitParent, h]
theorem unitParent_of_accel {u : Nat} (h : unitKind u = 4) : unitParent u = 576 + (u - 584) / 32 := by simp only [unitParent, h]

theorem unitKind_ne_four_of_under {u v : Nat} (hu : u < 512) (hv : v ∈ unitsUnder u) : unitKind v ≠ 4 := by
  intro h4
  have hunder : unitUnder u v = true := (List.mem_filter.mp hv).2
  have hp : unitParent v = 576 + (v - 584) / 32 := unitParent_of_accel h4
  have hlt : v < 840 := by
    by_contra hge
    obtain h0 | h5 := unitKind_of_ge (Nat.le_of_not_lt hge)
    · omega
    · omega
  have hpp : unitParent (576 + (v - 584) / 32) = 1020 := unitParent_of_pack (unitKind_of_pack (by omega) (by omega))
  have h584 : 584 ≤ v := by
    by_contra hlt
    simp only [unitKind] at h4
    split at h4
    · cases h4
    · split at h4
      · cases h4
      · split at h4
        · cases h4
        · omega
  have hppp : unitParent 1020 = 0xFFF := by decide
  simp only [unitUnder, hp, hpp, hppp, Bool.or_eq_true, beq_iff_eq] at hunder
  omega

theorem State.Has.quarantine_tile {K : MemProp} {u cause : Nat} {auto : Bool} (hu : u < 512) (h : s.Has K) :
    (s.quarantine u cause auto).Has K := by
  have hk : unitKind u = 1 := unitKind_of_tile hu
  unfold State.quarantine
  refine .ite h ?_
  extract_lets x s1 s2 s3 s4 s5
  have hs2 : s2.Has K := h.setUn.setEntN.incSat
  have hs3 : s3.Has K := by
    refine hs2.foldl_mem fun v hv s hs => ?_
    split
    · exact hs.abortOn.untask
    · exact absurd ‹_› (unitKind_ne_four_of_under hu hv)
    · exact hs.abortOn
    · exact hs
  have hs5 : s5.Has K := .ite (State.Has.gplDown (.ite hs3.octetIdle hs3)) (.ite hs3.octetIdle hs3)
  exact hs5.foldl fun _ _ hs => .ite hs hs.maskReq

theorem State.tile_mem_partUnits {t p : Nat} (ht : t < 512) (h : s.partOfUnit t = some p) : t ∈ s.partUnits p := by
  have hk : unitKind t = 1 := unitKind_of_tile ht
  have hpack : s.partOfPack (t / 64) = some p := by simpa only [State.partOfUnit, unitPack, hk] using h
  have hof : t / 64 ∈ s.packsOf p := List.mem_filter.mpr ⟨List.mem_range.mpr (by omega), by simp [hpack]⟩
  have hall : t ∈ allUnits := List.mem_filter.mpr ⟨List.mem_range.mpr (by omega), by rw [hk]; rfl⟩
  have hpp : unitParent (unitParent t) = packUnit (t / 64) := by
    rw [unitParent_of_tile hk, unitParent_of_bank (unitKind_of_bank (by omega) (by omega)), packUnit]
    omega
  have hunder : (s.packsOf p).any (fun q => unitUnder (packUnit q) t) = true :=
    List.any_eq_true.mpr ⟨t / 64, hof, by simp [unitUnder, hpp]⟩
  exact List.mem_filter.mpr ⟨hall, by rw [hunder, Bool.true_or, Bool.true_or]⟩

theorem State.Unfetched.fst {β : Type} {b : β} {t : Nat} (h : s.Unfetched t w) : (s, b).1.Unfetched t w := h

theorem State.unfetched_withResetJob {t : Nat} {j : Option ResetJob} (h : s.tl t = tileInit) :
    ({ s with resetJob := j } : State).Unfetched t w := State.unfetched_of_tileInit h

theorem State.requestReset_unfetched {t target source : Nat} {k : RKind} {us : List Nat} {ps : List (Nat × Bool)} (ht : t < 512)
    (hmem : t ∈ us) (h : s.Has (.sound w)) : (s.requestReset k target source us ps).1.Unfetched t w := by
  have hsteps : ∀ s ps, (State.resetSteps s k us ps).tl t = tileInit := fun s ps => s.tl_resetSteps k ps ht hmem
  unfold State.requestReset
  split
  · exact .fst (State.unfetched_withResetJob (hsteps _ _))
  · split
    · exact .inl (.fst h.withResetJob)
    · split
      · exact .fst (State.unfetched_withResetJob (hsteps _ _))
      · exact .fst (State.unfetched_withResetJob (hsteps _ _))

theorem State.partReset_unfetched {t p source : Nat} {hold : Bool} (ht : t < 512) (hp : s.partOfUnit t = some p) (h : s.Has (.sound w)) :
    (s.partReset p source hold).1.Unfetched t w := by
  unfold State.partReset
  split
  · exact State.requestReset_unfetched ht (State.tile_mem_partUnits ht hp) h
  · exact .inl h

theorem State.Has.deviceRuns {K : MemProp} {rk : RKind} (h : s.Has K) : (s.deviceRuns rk).Has K := .upd h rfl

theorem State.Has.withBootRaw {K : MemProp} {r : Nat} {b : Bool} (h : s.Has K) : ({ s with bootRaw := r, postNext := b } : State).Has K :=
  .upd h rfl

theorem State.zeroSram_settled (hw : ∀ i, i / 8 = w → keepsMem i = false) (h : s.merges = []) : s.zeroSram.Has (.settled w) :=
  ⟨fun i hi => by rw [State.zeroSram, tget_tdrop, hw i hi]; rfl, h⟩

theorem State.warmReset_sound (s : State) {source : Nat} (hw : ∀ i, i / 8 = w → keepsMem i = false) :
    (s.warmReset source).Has (.sound w) := by
  have := MemProp.settled_quiet w
  have hcleared : (s.deviceCleared .warm source false).Has (.settled w) := (State.zeroSram_settled hw rfl).deviceDefaults
  have hreset : (s.deviceReset .warm source false).Has (.settled w) := by
    rw [State.deviceReset_eq]
    exact hcleared.deviceRuns.foldl fun _ _ hs => hs.maskReq
  exact State.Has.sound_of_settled (.ite hreset.withBootRaw.romPhase.setPhase hreset.withBootRaw.romPhase.enterLoad)

theorem State.takeStep_unfetched {l n : Nat} {u : Fin 1024} (hu : u.val < 512) (hw : ∀ i, i / 8 = w → keepsMem i = false)
    (h : s.Has (.sound w)) : (s.takeStep l (.unit u) n).Unfetched u.val w := by
  unfold State.takeStep
  split
  · exact .inl (h.quarantine_tile hu)
  · dsimp only
    split
    · exact State.partReset_unfetched hu ‹_› h
    · exact .inl h
  · exact .inl (s.warmReset_sound hw)

theorem State.charge_unfetched {l action info : Nat} {u : Fin 1024} (hu : u.val < 512) (hw : ∀ i, i / 8 = w → keepsMem i = false)
    (h : s.Has (.sound w)) : (s.charge l (.unit u) action info).Unfetched u.val w := by
  unfold State.charge
  extract_lets s1 s2 s3 s4 cfg
  have hs2 : s2.Has (.sound w) := h.inc32.incSat
  have hs3 : s3.Has (.sound w) := .ite hs2.setLadder hs2
  have hs4 : s4.Has (.sound w) := hs3.withShdTold
  split
  · exact .inl hs4.setShdLast
  · split
    split
    · exact .inl hs4.setLadder.noteExpiry
    · extract_lets s5
      have hs5 : s5.Has (.sound w) := hs4.setLadder
      split
      · exact State.takeStep_unfetched hu hw (State.Has.sheepIrq hs5.setLadder.setShdLast.record)
      · exact .inl hs5.noteExpiry

end Sys2Proof.Machine
end

section
/-!
PROOFS. Parity, merges and walks (R391 to R393, R399, R402 to R406): the re-fetch of a word from its anchor copy, whose instruction names
a word of instruction memory by its device address, and the clauses of O44.
-/
namespace Sys2Proof.Machine

variable {s v : State}

/-! A word of instruction memory -/

/-- The regions of the packs. -/
theorem regionOf_pack {b : Nat} (h : b < 0x20000000) : regionOf (0x1800000000 + b) =
    if b % 0x4000000 < 0x1000000 then .pm (b / 0x4000000)
    else if b % 0x4000000 < 0x2000000 then .csm (b / 0x4000000 * 8 + (b % 0x4000000 - 0x1000000) / 0x200000)
    else if b % 0x4000000 < 0x3000000 then .lm (b / 0x4000000 * 64 + (b % 0x4000000 - 0x2000000) / 0x40000)
    else if b % 0x4000000 < 0x3400000 then .im (b / 0x4000000 * 64 + (b % 0x4000000 - 0x3000000) / 0x10000)
    else if 0x3FF0000 ≤ b % 0x4000000 then .ctl (b / 0x4000000)
    else .reserved := by
  rw [regionOf, Nat.add_sub_cancel_left, if_neg (Nat.not_lt.mpr (Nat.le_add_right _ _)), if_pos (Nat.add_lt_add_left h 0x1800000000)]

/-- Where the word at a is in tile t's instruction memory, so is each byte of it. -/
theorem regionOf_im {a t i : Nat} (ha : a % 8 = 0) (h : regionOf a = .im t) (hi : i / 8 = a / 8) :
    regionOf i = .im t ∧ t < 512 ∧ a < 0x1820000000 := by
  have hlow : ¬ a < 0x1800000000 := fun hlt => by
    rw [regionOf, if_pos hlt] at h
    cases h
  by_cases hup : a < 0x1820000000
  · obtain ⟨b, rfl⟩ := Nat.exists_eq_add_of_le (Nat.le_of_not_lt hlow)
    obtain ⟨d, rfl⟩ : ∃ d, i = 0x1800000000 + d := Nat.exists_eq_add_of_le (by omega)
    rw [regionOf_pack (by omega)] at h ⊢
    split_ifs at h with h1 h2 h3 h4
    injection h with h
    rw [if_neg (by omega), if_neg (by omega), if_neg (by omega), if_pos (by omega)]
    exact ⟨congrArg Region.im (by omega), by omega, hup⟩
  · rw [regionOf, if_neg hlow, if_neg hup] at h
    split_ifs at h
theorem isInner_of_im {a t : Nat} (ha : a % 8 = 0) (h : regionOf a = .im t) : isInner a = false := by
  obtain ⟨-, -, hlt⟩ := regionOf_im ha h rfl
  exact decide_eq_false (by omega)

theorem keepsMem_of_im {a t i : Nat} (ha : a % 8 = 0) (h : regionOf a = .im t) (hi : i / 8 = a / 8) : keepsMem i = false := by
  obtain ⟨hr, -, hlt⟩ := regionOf_im ha h hi
  have hin : isInner i = false := decide_eq_false (by omega)
  rw [keepsMem, hr]
  simp only [keepsInner, hin, Bool.false_and]

theorem memUnit_of_im {a t : Nat} (ha : a % 8 = 0) (h : regionOf a = .im t) (s : State) : memUnit s a = t := by
  rw [memUnit, isInner_of_im ha h, h]
  rfl

/-! A re-fetch begins -/

theorem State.startRefetch_of_pending {w r : Nat} (h : s.refetch.any (fun q => q.1 == 8 * w) = true) : s.startRefetch w r = s :=
  if_pos h

theorem State.startRefetch_of_anchored {w r : Nat} (hn : s.refetch.any (fun q => q.1 == 8 * w) = false) (h : s.anchored (8 * w) = true) :
    s.startRefetch w r = { s with refetch := s.refetch ++ [(8 * w, false, r)] } := by
  rw [State.startRefetch, hn, h]
  rfl

theorem State.startRefetch_of_alone {w r : Nat} (hn : s.refetch.any (fun q => q.1 == 8 * w) = false) (h : s.anchored (8 * w) = false) :
    s.startRefetch w r = s.anchorFail (8 * w) := by
  rw [State.startRefetch, hn, h]
  rfl

theorem State.reportAnchor_unfetched {w c t addr : Nat} (ht : t < 512) (hw : ∀ i, i / 8 = w → keepsMem i = false) (h : s.Has (.sound w)) :
    (s.reportAnchor c t addr).Unfetched t w := by
  rw [State.reportAnchor, dif_pos (by omega : t < 1024)]
  exact State.charge_unfetched (u := ⟨t, by omega⟩) ht hw h.incSat.protectionIrq.record

/-- After an anchor failure the tile no longer fetches from the word. -/
theorem State.anchorFail_unfetched {a t : Nat} (ha : a % 8 = 0) (h : regionOf a = .im t) : (s.anchorFail a).Unfetched t (a / 8) := by
  rw [State.anchorFail, memUnit_of_im ha h s]
  exact State.reportAnchor_unfetched (regionOf_im ha h rfl).2.1 (fun i hi => keepsMem_of_im ha h hi) (s.setPoison_sound a).logError

/-- Whether a tile fetches from the word at a, which has a fresh error. -/
def State.fetches (s : State) (a : Nat) : Bool :=
  match regionOf a with
  | .im t => (s.tl t).st == .running && s.freshWord (a / 8) && (s.tl t).pc.toNat / 8 * 8 + imAddr t 0 == a
  | _ => false

theorem State.fetches_of_im {a t : Nat} (h : regionOf a = .im t) :
    s.fetches a = ((s.tl t).st == .running && s.freshWord (a / 8) && (s.tl t).pc.toNat / 8 * 8 + imAddr t 0 == a) := by
  rw [State.fetches, h]

theorem State.fetches_of_sound {a : Nat} (h : s.freshWord (a / 8) = false) : s.fetches a = false := by
  rw [State.fetches]
  split
  · rw [h, Bool.and_false, Bool.false_and]
  · rfl

theorem State.Unfetched.fetches_eq_false {a t : Nat} (hr : regionOf a = .im t) (h : s.Unfetched t (a / 8)) : s.fetches a = false := by
  rw [State.fetches_of_im hr]
  obtain h | h := h
  · rw [h.freshWord_eq_false, Bool.and_false, Bool.false_and]
  · rw [beq_eq_false_iff_ne.mpr h, Bool.false_and, Bool.false_and]

/-- A re-fetch begun already, or failed at once, is not begun again. -/
theorem State.startRefetch_again {a t r : Nat} (ha : a % 8 = 0) (h : regionOf a = .im t) :
    (if (s.startRefetch (a / 8) r).fetches a then (s.startRefetch (a / 8) r).startRefetch (a / 8) r else s.startRefetch (a / 8) r) =
      s.startRefetch (a / 8) r := by
  have h8 : 8 * (a / 8) = a := by omega
  have again {s' : State} (hp : s'.refetch.any (fun q => q.1 == 8 * (a / 8)) = true) :
      (if s'.fetches a then s'.startRefetch (a / 8) r else s') = s' := by
    rw [State.startRefetch_of_pending hp, ite_self]
  by_cases hp : s.refetch.any (fun q => q.1 == 8 * (a / 8)) = true
  · rw [State.startRefetch_of_pending hp]
    exact again hp
  · have hn := Bool.eq_false_iff.mpr hp
    by_cases hanch : s.anchored (8 * (a / 8)) = true
    · rw [State.startRefetch_of_anchored hn hanch]
      refine again ?_
      simp
    · rw [State.startRefetch_of_alone hn (Bool.eq_false_iff.mpr hanch), h8,
        if_neg (Bool.eq_false_iff.mp ((State.anchorFail_unfetched ha h).fetches_eq_false h))]

/-! The anchor read of a re-fetch returns -/

/-- The re-fetch of the word at a ends, if one is pending. -/
def State.anchorReturn (s : State) (a : Nat) (ok : Bool) : State :=
  match s.refetch.find? (fun q => q.1 == a) with
  | some q =>
    let t := { s with refetch := s.refetch.filter (fun q => q.1 != a) }
    if q.2.1 then t
    else match t.refetched a ok with
      | some v => v.noteCorrected ((memClass a).getD 0) (memUnit t a) (logAddr a)
      | none => t.anchorFail a
  | none => s

theorem exec_anchorRefetchDone_eq (a : BitVec 55) (ok : Bool) (s : State) :
    exec (.anchorRefetchDone a ok) s = .next
      ((if s.fetches (a.toNat / 8 * 8) then s.startRefetch (a.toNat / 8 * 8 / 8) 19 else s).anchorReturn (a.toNat / 8 * 8) ok) := rfl

theorem exec_anchorRefetchDone_of_pending {a : BitVec 55} {ok : Bool} {q : Nat × Bool × Nat}
    (h : s.refetch.find? (fun q => q.1 == a.toNat / 8 * 8) = some q) :
    exec (.anchorRefetchDone a ok) s = .next (s.anchorReturn (a.toNat / 8 * 8) ok) := by
  have hany : s.refetch.any (fun q => q.1 == 8 * (a.toNat / 8 * 8 / 8)) = true := by
    rw [show 8 * (a.toNat / 8 * 8 / 8) = a.toNat / 8 * 8 by omega]
    exact List.any_eq_true.mpr ⟨q, List.mem_of_find?_eq_some h, List.find?_some (p := fun q : Nat × Bool × Nat => q.1 == a.toNat / 8 * 8) h⟩
  rw [exec_anchorRefetchDone_eq, State.startRefetch_of_pending hany, ite_self]

theorem State.anchorReturn_of_void {a : Nat} {ok : Bool} {q : Nat × Bool × Nat} (h : s.refetch.find? (fun q => q.1 == a) = some q)
    (hq : q.2.1 = true) : s.anchorReturn a ok = { s with refetch := s.refetch.filter (fun q => q.1 != a) } := by
  rw [State.anchorReturn, h]
  exact if_pos hq

theorem State.anchorReturn_of_pending {a : Nat} {ok : Bool} {q : Nat × Bool × Nat} (h : s.refetch.find? (fun q => q.1 == a) = some q)
    (hq : q.2.1 = false) :
    s.anchorReturn a ok = match ({ s with refetch := s.refetch.filter (fun q => q.1 != a) } : State).refetched a ok with
      | some v => v.noteCorrected ((memClass a).getD 0) (memUnit { s with refetch := s.refetch.filter (fun q => q.1 != a) } a) (logAddr a)
      | none => ({ s with refetch := s.refetch.filter (fun q => q.1 != a) } : State).anchorFail a := by
  rw [State.anchorReturn, h]
  exact if_neg (Bool.eq_false_iff.mp hq)

theorem State.anchorReturn_of_idle {a : Nat} {ok : Bool} (h : s.refetch.find? (fun q => q.1 == a) = none) : s.anchorReturn a ok = s := by
  rw [State.anchorReturn, h]

/-- A word of a memory of the address map is rewritten from a good copy that can be read. -/
theorem State.refetched_of_anchor {a h : Nat} {ok : Bool} (hin : isInner a = false) (ha : s.anchorOf a = some h) :
    s.refetched a ok = if ok = true ∧ s.poisoned h = false ∧ s.freshWord (h / 8) = false then some (s.store a (s.bytes h 8)) else none := by
  rw [State.refetched, if_neg (Bool.eq_false_iff.mp hin), ha]
  simp only [Bool.not_eq_true']

/-- A tile's fetch begins the re-fetch that the command then ends. -/
theorem exec_anchorRefetchDone_of_fetch {a : BitVec 55} {ok : Bool} {t : Nat} (hr : regionOf (a.toNat / 8 * 8) = .im t)
    (hf : s.fetches (a.toNat / 8 * 8) = true) :
    exec (.anchorRefetchDone a ok) s = exec (.anchorRefetchDone a ok) (s.startRefetch (a.toNat / 8 * 8 / 8) 19) := by
  rw [exec_anchorRefetchDone_eq, exec_anchorRefetchDone_eq, State.startRefetch_again (by omega) hr, if_pos hf]

/-! Merge entries and logs -/

theorem exec_mergeFlush_eq (port block : Nat) (s : State) :
    exec (.mergeFlush port block) s = .next (match s.merges.find? (fun m => m.port == port && m.block == block) with
      | some m => if m.lastRaw + 2048 ≤ s.raw.toNat then s.flushMerge m else s
      | none => s) := rfl

theorem exec_mergeFlush_of_none {port block : Nat} (h : s.merges.find? (fun m => m.port == port && m.block == block) = none) :
    exec (.mergeFlush port block) s = .next s := by
  rw [exec_mergeFlush_eq, h]

theorem exec_mergeFlush_of_some {port block : Nat} {m : Merge} (h : s.merges.find? (fun m => m.port == port && m.block == block) = some m) :
    exec (.mergeFlush port block) s = .next (if m.lastRaw + 2048 ≤ s.raw.toNat then s.flushMerge m else s) := by
  rw [exec_mergeFlush_eq, h]

theorem tfind_tdrop_of_pos {α : Type} {p : Nat → Bool} {i : Nat} (hp : p i = true) (t : Tab α) : tfind (tdrop t p) i = none := by
  induction t with
  | nil => rfl
  | cons e r ih =>
    obtain ⟨k, x⟩ := e
    rw [tdrop] at ih ⊢
    by_cases hk : p k = true
    · rw [List.filter_cons_of_neg (by simp [hk])]
      exact ih
    · rw [List.filter_cons_of_pos (by simp [hk]), tfind, if_neg (fun he : k = i => hk (he ▸ hp))]
      exact ih

theorem State.emptyLog_od (s : State) (c : Nat) :
    (s.emptyLog c).od = tdrop s.od (fun k => decide (Key.epClassLog c 0 ≤ k) && decide (k ≤ Key.epClassLog c 15)) := rfl

theorem State.emptyLog_log (s : State) (c : Nat) (i : Fin 16) : tfind (s.emptyLog c).od (Key.epClassLog c i.val) = none := by
  have hlow : Key.epClassLog c 0 ≤ Key.epClassLog c i.val := by
    unfold Key.epClassLog
    omega
  have hhigh : Key.epClassLog c i.val ≤ Key.epClassLog c 15 := by
    unfold Key.epClassLog
    omega
  rw [State.emptyLog_od, tfind_tdrop_of_pos (Bool.and_eq_true_iff.mpr ⟨decide_eq_true hlow, decide_eq_true hhigh⟩)]

/-- Settles O44. -/
theorem parityWalks : Obligations.ParityWalks := by
  intro s v rq a ok q h port block p c r ups inner m tn e w t pending idle gcfg grooms ga g1 scrubs n h1 h2 h3 cnt last tells
  refine ⟨fun hp hq => ?_, fun hp hq hv => ?_, fun hp hq hn => ?_, State.refetched_of_anchor, fun _ hr hrun hfresh hpc => ?_,
    fun hi hf => ?_, exec_mergeFlush_of_none, fun hm hd => ?_, fun hm hd => ?_, fun hg => next_if_pos hg, fun hg => next_if_neg hg,
    fun hg => ?_, fun hg => ?_, fun hw => ?_, fun hw he => ?_, State.emptyLog_log s c.val, fun ht => next_if_pos ht,
    fun ht => next_if_neg ht⟩
  · rw [exec_anchorRefetchDone_of_pending hp, State.anchorReturn_of_void hp hq]
  · rw [exec_anchorRefetchDone_of_pending hp, State.anchorReturn_of_pending hp hq]
    exact congrArg Host.Outcome.next (by rw [hv])
  · rw [exec_anchorRefetchDone_of_pending hp, State.anchorReturn_of_pending hp hq]
    exact congrArg Host.Outcome.next (by rw [hn])
  · refine exec_anchorRefetchDone_of_fetch hr ?_
    rw [State.fetches_of_im hr, hrun, hfresh, beq_iff_eq.mpr hpc]
    rfl
  · rw [exec_anchorRefetchDone_eq, if_neg (Bool.eq_false_iff.mp (State.fetches_of_sound hf)), State.anchorReturn_of_idle hi]
  · rw [exec_mergeFlush_of_some hm, if_pos hd]
  · rw [exec_mergeFlush_of_some hm, if_neg (Nat.not_le.mpr hd)]
  · refine next_if_pos ?_
    simpa only [Bool.not_eq_true'] using hg
  · refine next_if_neg (mt (fun hd => ?_) hg)
    simpa only [Bool.not_eq_true'] using hd
  · exact congrArg Host.Outcome.next (State.guarded_of_ok hw _ _)
  · subst hw
    exact congrArg Host.Outcome.next (if_neg he)

end Sys2Proof.Machine
end
